-- ==== Sys2Proof/Word.lean ====
section
/-! DEFINITION. The word types of the Quedan Q4 and the sparse table that holds numbered state. -/

namespace Sys2Proof

/-- A byte of memory, code or scratchpad. -/
abbrev Byte := BitVec 8
/-- A 32-bit lane, uniform register or instruction word (00 R4, 05 R119). -/
abbrev Word := BitVec 32
/-- A 64-bit element or register (02 R47). -/
abbrev DWord := BitVec 64
/-- A data label, 0 public to 3 sealed weights (03 R93). -/
abbrev Label := Fin 4
/-- A signature of 1,024 bits (04 R112). -/
abbrev Signature := BitVec 1024

/-- State held by number: pairs of a key and a value, keys strictly rising. -/
abbrev Tab (α : Type) := List (Nat × α)

end Sys2Proof
end

