-- ==== Sys2Proof/Syntax.lean ====
section
/-! DEFINITION. The instructions and steps of the Quedan Q4: one constructor per row of spec/opcode_table.json.
The 254 encoded instructions carry the fields of their words (05 R120 to R123), each at its exact width, but for
BRK, TRAP and an unassigned opcode, which read what they report from the word in hand (State.word), as SWORD does.
The rows without an encoding are steps of the device around programs (95). What names the agent that moves,
and what the outside world brings with it, are the operands of the event in hand (State.ev). The device steps
stand after the instructions, since Lean compiles at most 244 constructors that carry fields. -/

namespace Sys2Proof

/-- One constructor per row of spec/opcode_table.json.
Fields of instruction words: d, a, b and imm as 05 R120; nw, m, y, gv and the other flags as Bool.
Operands of device steps are named in order: r a stream, g a gang, n a node table entry, cl a cluster,
p a partition, id an operation. -/
inductive Instr where
  /-- Returns from a crew handler or loader, restoring EM and resuming at TRAPPC, TRAPPC + 4 or a register target (R158). -/
  | tret (d : BitVec 6) (redir : Bool)
  /-- Loads a code page of the kernel image into an instruction frame, stalling until it is in place (R159). -/
  | ovload (a imm : BitVec 7)
  /-- Calls a target, pushing the return address and loading its page if no frame holds it (R160). -/
  | ovcall (a imm : BitVec 7)
  /-- Writes mode set 0 from the checked image (R142). -/
  | mode (image : BitVec 22)
  /-- Writes mode set 1 from the checked image (R142). -/
  | modeM1 (image : BitVec 22)
  /-- Writes both mode sets from the checked image (R142). -/
  | modeBoth (image : BitVec 22)
  /-- Writes the m-selected mode set from a uniform register (R142). -/
  | modeUniform (a : BitVec 7) (m : Bool)
  /-- Writes mode set 0 or 1 into a uniform register (R143). -/
  | getmode (d : BitVec 6) (set1 : Bool)
  /-- Sets EM to a uniform value ANDed with the live mask (R144). -/
  | setem (a : BitVec 7)
  /-- Writes EM into a uniform register (R144). -/
  | getem (d : BitVec 6)
  /-- Writes a 32-bit ballot of a predicate over the Active() lanes into a uniform register (R145). -/
  | vote (d : BitVec 6) (a : BitVec 7) (m : Bool)
  /-- Writes whether a predicate holds in any Active() lane to pa and its inverse to pb (R145). -/
  | any (pa pb : BitVec 3) (a : BitVec 7) (m : Bool)
  /-- Writes whether a predicate holds in every Active() lane to pa and its inverse to pb (R145). -/
  | all (pa pb : BitVec 3) (a : BitVec 7) (m : Bool)
  /-- Sets a guard slot true, false or unset, releasing or discarding held engine commands (R162). -/
  | gset (unset : Bool) (a b : BitVec 7)
  /-- Writes a special register into the Active() lanes of a vector register (R163). -/
  | gets (nw : Bool) (d idx : BitVec 6)
  /-- Writes the AND of two predicates in Active() lanes (R166). -/
  | pand (d a b : BitVec 3) (m : Bool)
  /-- Writes the OR of two predicates in Active() lanes (R166). -/
  | por (d a b : BitVec 3) (m : Bool)
  /-- Writes the XOR of two predicates in Active() lanes (R166). -/
  | pxor (d a b : BitVec 3) (m : Bool)
  /-- Writes the inverse of a predicate in Active() lanes (R166). -/
  | pnot (d a : BitVec 3) (m : Bool)
  /-- Copies a predicate in Active() lanes (R166). -/
  | pmov (d a : BitVec 3) (m : Bool)
  /-- Uniform branch taken when its condition holds in some lane, with an optional yield (R146). -/
  | bra (y : Bool) (pred : BitVec 3) (sense : Bool) (off : BitVec 18)
  /-- Crew-local divergent branch that narrows EM to the taking lanes (R147). -/
  | brc (y : Bool) (pred : BitVec 3) (sense : Bool) (off : BitVec 18)
  /-- Gang-divergent branch: the crew waits at a meeting of the gang, a switch point (R148). -/
  | brg (pred : BitVec 3) (sense : Bool) (target reconv : BitVec 9)
  /-- Indirect jump to the lowest EM lane's target, narrowing EM to lanes with the same target (R149). -/
  | jmpi (a : BitVec 7)
  /-- Conditional call pushing the return address onto the return stack (R150). -/
  | call (pred : BitVec 3) (sense : Bool) (off : BitVec 18)
  /-- Indirect call that narrows EM and writes the link into a vector register (R151). -/
  | callv (nw : Bool) (d : BitVec 6) (a : BitVec 7)
  /-- Returns to the common link address held in a vector register, or raises the split-return trap (R151). -/
  | retv (d : BitVec 6)
  /-- Starts a hardware loop, pushing a loop-stack entry and capturing the body (R152). -/
  | loop (count : BitVec 7) (end15 : BitVec 15)
  /-- Breaks out of the top loop level when its condition holds in some lane (R154). -/
  | lbrk (pred : BitVec 3) (sense : Bool) (off : BitVec 18)
  /-- Compares two operands and combines the result into two predicates by its condition and combining type (R164). -/
  | cmp (cond comb pa pb : BitVec 3) (a b : BitVec 7) (m : Bool)
  /-- Integer add with narrowing (R168). -/
  | iadd (nw : Bool) (d : BitVec 6) (a b : BitVec 7) (m : Bool)
  /-- Integer subtract with narrowing (R168). -/
  | isub (nw : Bool) (d : BitVec 6) (a b : BitVec 7) (m : Bool)
  /-- 32-bit add with carry through p6 (R169). -/
  | iaddc (nw : Bool) (d : BitVec 6) (a b : BitVec 7) (m : Bool)
  /-- 32-bit subtract with borrow through p6 (R169). -/
  | isubb (nw : Bool) (d : BitVec 6) (a b : BitVec 7) (m : Bool)
  /-- Integer multiply with narrowing (R168). -/
  | imul (nw : Bool) (d : BitVec 6) (a b : BitVec 7) (m : Bool)
  /-- High half of the double-width product (R168). -/
  | imulh (nw : Bool) (d : BitVec 6) (a b : BitVec 7) (m : Bool)
  /-- Integer multiply-add into the old destination (R168). -/
  | imad (nw : Bool) (d : BitVec 6) (a b : BitVec 7) (m : Bool)
  /-- Integer absolute value with narrowing (R168). -/
  | iabs (nw : Bool) (d : BitVec 6) (a : BitVec 7) (m : Bool)
  /-- Integer negation with narrowing (R168). -/
  | ineg (nw : Bool) (d : BitVec 6) (a : BitVec 7) (m : Bool)
  /-- Integer minimum (R168). -/
  | imin (nw : Bool) (d : BitVec 6) (a b : BitVec 7) (m : Bool)
  /-- Integer maximum (R168). -/
  | imax (nw : Bool) (d : BitVec 6) (a b : BitVec 7) (m : Bool)
  /-- Sum of absolute difference into the old destination (R168). -/
  | isad (nw : Bool) (d : BitVec 6) (a b : BitVec 7) (m : Bool)
  /-- Bitwise AND (R168). -/
  | and (nw : Bool) (d : BitVec 6) (a b : BitVec 7) (m : Bool)
  /-- Bitwise OR (R168). -/
  | or (nw : Bool) (d : BitVec 6) (a b : BitVec 7) (m : Bool)
  /-- Bitwise XOR (R168). -/
  | xor (nw : Bool) (d : BitVec 6) (a b : BitVec 7) (m : Bool)
  /-- Bitwise a AND NOT b (R168). -/
  | andn (nw : Bool) (d : BitVec 6) (a b : BitVec 7) (m : Bool)
  /-- Shift left per sub-element (R170). -/
  | shl (nw : Bool) (d : BitVec 6) (a b : BitVec 7) (m : Bool)
  /-- Logical shift right per sub-element (R170). -/
  | shr (nw : Bool) (d : BitVec 6) (a b : BitVec 7) (m : Bool)
  /-- Arithmetic shift right per sub-element (R170). -/
  | sar (nw : Bool) (d : BitVec 6) (a b : BitVec 7) (m : Bool)
  /-- Rotate left per sub-element (R170). -/
  | rot (nw : Bool) (d : BitVec 6) (a b : BitVec 7) (m : Bool)
  /-- Funnel shift left by the old destination (R170). -/
  | fshl (nw : Bool) (d : BitVec 6) (a b : BitVec 7) (m : Bool)
  /-- Bit-field extract (R171). -/
  | bfe (nw : Bool) (d : BitVec 6) (a b : BitVec 7) (m : Bool)
  /-- Bit-field insert into the old destination (R171). -/
  | bfi (nw : Bool) (d : BitVec 6) (a b : BitVec 7) (m : Bool)
  /-- Population count (R168). -/
  | popc (nw : Bool) (d : BitVec 6) (a : BitVec 7) (m : Bool)
  /-- Leading zero count (R168). -/
  | clz (nw : Bool) (d : BitVec 6) (a : BitVec 7) (m : Bool)
  /-- Trailing zero count (R168). -/
  | ctz (nw : Bool) (d : BitVec 6) (a : BitVec 7) (m : Bool)
  /-- Bit reverse (R168). -/
  | brev (nw : Bool) (d : BitVec 6) (a : BitVec 7) (m : Bool)
  /-- Byte permute by nibble selectors (R172). -/
  | bperm (nw : Bool) (d : BitVec 6) (a b : BitVec 7) (m : Bool)
  /-- Computes a 64-bit address from a base and a scaled index (R173). -/
  | lea (nw : Bool) (d : BitVec 6) (a b : BitVec 7) (m : Bool)
  /-- Copies an operand (R175). -/
  | mov (nw : Bool) (d : BitVec 6) (a : BitVec 7) (m : Bool)
  /-- Selects a or b per EM lane by the guard bit (R175). -/
  | sel (nw : Bool) (d : BitVec 6) (a b : BitVec 7) (m : Bool)
  /-- Four-way byte dot product accumulated into the old destination (R176). -/
  | idot4 (nw : Bool) (d : BitVec 6) (a b : BitVec 7) (m : Bool)
  /-- Integer add of a signed immediate (R177). -/
  | iaddImm (nw : Bool) (d : BitVec 6) (a imm : BitVec 7) (m : Bool)
  /-- Integer multiply by a signed immediate (R177). -/
  | imulImm (nw : Bool) (d : BitVec 6) (a imm : BitVec 7) (m : Bool)
  /-- Integer minimum with a signed immediate (R177). -/
  | iminImm (nw : Bool) (d : BitVec 6) (a imm : BitVec 7) (m : Bool)
  /-- Integer maximum with a signed immediate (R177). -/
  | imaxImm (nw : Bool) (d : BitVec 6) (a imm : BitVec 7) (m : Bool)
  /-- Bitwise AND with a sign-extended immediate (R177). -/
  | andImm (nw : Bool) (d : BitVec 6) (a imm : BitVec 7) (m : Bool)
  /-- Bitwise OR with a sign-extended immediate (R177). -/
  | orImm (nw : Bool) (d : BitVec 6) (a imm : BitVec 7) (m : Bool)
  /-- Bitwise XOR with a sign-extended immediate (R177). -/
  | xorImm (nw : Bool) (d : BitVec 6) (a imm : BitVec 7) (m : Bool)
  /-- Bitwise AND NOT with a sign-extended immediate (R177). -/
  | andnImm (nw : Bool) (d : BitVec 6) (a imm : BitVec 7) (m : Bool)
  /-- Shift left by an unsigned immediate (R177). -/
  | shlImm (nw : Bool) (d : BitVec 6) (a imm : BitVec 7) (m : Bool)
  /-- Logical shift right by an unsigned immediate (R177). -/
  | shrImm (nw : Bool) (d : BitVec 6) (a imm : BitVec 7) (m : Bool)
  /-- Arithmetic shift right by an unsigned immediate (R177). -/
  | sarImm (nw : Bool) (d : BitVec 6) (a imm : BitVec 7) (m : Bool)
  /-- Rotate left by an unsigned immediate (R177). -/
  | rotImm (nw : Bool) (d : BitVec 6) (a imm : BitVec 7) (m : Bool)
  /-- Address computation with a signed immediate index (R177). -/
  | leaImm (nw : Bool) (d : BitVec 6) (a imm : BitVec 7) (m : Bool)
  /-- Bit-field extract with byte-granular position and length in the immediate (R177). -/
  | bfeImm (nw : Bool) (d : BitVec 6) (a imm : BitVec 7) (m : Bool)
  /-- Writes a sign-extended 15-bit immediate (R174). -/
  | lim (nw : Bool) (d : BitVec 6) (imm : BitVec 15)
  /-- Shifts the old destination left 15 and adds an unsigned immediate (R174). -/
  | limh (nw : Bool) (d : BitVec 6) (imm : BitVec 15)
  /-- Floating-point add rounded once (R181). -/
  | fadd (nw : Bool) (d : BitVec 6) (a b : BitVec 7) (m : Bool)
  /-- Floating-point subtract rounded once (R181). -/
  | fsub (nw : Bool) (d : BitVec 6) (a b : BitVec 7) (m : Bool)
  /-- Floating-point multiply rounded once (R181). -/
  | fmul (nw : Bool) (d : BitVec 6) (a b : BitVec 7) (m : Bool)
  /-- Fused multiply-add into the old destination, rounded once (R181). -/
  | ffma (nw : Bool) (d : BitVec 6) (a b : BitVec 7) (m : Bool)
  /-- Floating-point minimum (R182). -/
  | fmin (nw : Bool) (d : BitVec 6) (a b : BitVec 7) (m : Bool)
  /-- Floating-point maximum (R182). -/
  | fmax (nw : Bool) (d : BitVec 6) (a b : BitVec 7) (m : Bool)
  /-- Clears the sign bit (R183). -/
  | fabs (nw : Bool) (d : BitVec 6) (a : BitVec 7) (m : Bool)
  /-- Inverts the sign bit (R183). -/
  | fneg (nw : Bool) (d : BitVec 6) (a : BitVec 7) (m : Bool)
  /-- Writes the class code of each element (R184). -/
  | fclass (nw : Bool) (d : BitVec 6) (a : BitVec 7) (m : Bool)
  /-- Rounds each element to an integral value (R185). -/
  | frnd (nw : Bool) (d : BitVec 6) (a : BitVec 7) (m : Bool)
  /-- Multiplies by a power of two and rounds once (R186). -/
  | fscale (nw : Bool) (d : BitVec 6) (a b : BitVec 7) (m : Bool)
  /-- Converts elements from set 0's type to set 1's type by part (R187). -/
  | cvt (nw : Bool) (d : BitVec 6) (a : BitVec 7) (part : BitVec 3)
  /-- Quantises 384 elements into a block-scaled A-row record in four registers (R189). -/
  | fqblk (nw : Bool) (d : BitVec 6) (a : BitVec 7) (half : Bool)
  /-- Splits each element exactly into three narrower terms (R192). -/
  | fsplit3 (nw : Bool) (d : BitVec 6) (a : BitVec 7) (part : Bool)
  /-- Frozen-table reciprocal (R193). -/
  | frcp (nw : Bool) (d : BitVec 6) (a : BitVec 7) (m : Bool)
  /-- Frozen-table reciprocal square root (R193). -/
  | frsq (nw : Bool) (d : BitVec 6) (a : BitVec 7) (m : Bool)
  /-- Frozen-table base-2 exponential (R193). -/
  | fexp2 (nw : Bool) (d : BitVec 6) (a : BitVec 7) (m : Bool)
  /-- Frozen-table base-2 logarithm (R193). -/
  | flog2 (nw : Bool) (d : BitVec 6) (a : BitVec 7) (m : Bool)
  /-- Frozen-table sine of pi times x (R193). -/
  | fsinp (nw : Bool) (d : BitVec 6) (a : BitVec 7) (m : Bool)
  /-- Frozen-table cosine of pi times x (R193). -/
  | fcosp (nw : Bool) (d : BitVec 6) (a : BitVec 7) (m : Bool)
  /-- Frozen-table hyperbolic tangent (R193). -/
  | ftanh (nw : Bool) (d : BitVec 6) (a : BitVec 7) (m : Bool)
  /-- Fetches a from the thread of a given virtual id (R194). -/
  | lget (nw : Bool) (d : BitVec 6) (a b : BitVec 7) (m : Bool)
  /-- Fetches a from the thread whose id is own id XOR b (R194). -/
  | lflip (nw : Bool) (d : BitVec 6) (a b : BitVec 7) (m : Bool)
  /-- Fetches a from the thread b ids lower (R194). -/
  | lprev (nw : Bool) (d : BitVec 6) (a b : BitVec 7) (m : Bool)
  /-- Fetches a from the thread b ids higher (R194). -/
  | lnext (nw : Bool) (d : BitVec 6) (a b : BitVec 7) (m : Bool)
  /-- Broadcasts a from one thread to every Active() lane (R195). -/
  | bcast (nw : Bool) (d : BitVec 6) (a b : BitVec 7) (m : Bool)
  /-- Tree-reduces a over Active() lanes into every Active() lane (R197). -/
  | cred (nw : Bool) (d : BitVec 6) (a : BitVec 7) (op : BitVec 4) (m : Bool)
  /-- Sequential inclusive or exclusive prefix over Active() lanes (R198). -/
  | cscan (nw : Bool) (d : BitVec 6) (a : BitVec 7) (excl : Bool) (op : BitVec 4) (m : Bool)
  /-- Writes the mask of Active() lanes holding an equal value (R199). -/
  | lpeer (nw : Bool) (d : BitVec 6) (a : BitVec 7) (m : Bool)
  /-- LGET with an immediate id (R194). -/
  | lgetImm (nw : Bool) (d : BitVec 6) (a imm : BitVec 7) (m : Bool)
  /-- LFLIP with an immediate mask (R194). -/
  | lflipImm (nw : Bool) (d : BitVec 6) (a imm : BitVec 7) (m : Bool)
  /-- LPREV with an immediate distance (R194). -/
  | lprevImm (nw : Bool) (d : BitVec 6) (a imm : BitVec 7) (m : Bool)
  /-- LNEXT with an immediate distance (R194). -/
  | lnextImm (nw : Bool) (d : BitVec 6) (a imm : BitVec 7) (m : Bool)
  /-- BCAST with an immediate id (R195). -/
  | bcastImm (nw : Bool) (d : BitVec 6) (a imm : BitVec 7) (m : Bool)
  /-- U-form of IADD on uniform registers (R178). -/
  | iaddU (d : BitVec 6) (a b : BitVec 7) (m : Bool)
  /-- U-form of ISUB (R178). -/
  | isubU (d : BitVec 6) (a b : BitVec 7) (m : Bool)
  /-- U-form of IADDC reading lane 0 of p6 and writing the carry to all lanes (R178). -/
  | iaddcU (d : BitVec 6) (a b : BitVec 7) (m : Bool)
  /-- U-form of ISUBB (R178). -/
  | isubbU (d : BitVec 6) (a b : BitVec 7) (m : Bool)
  /-- U-form of IMUL (R178). -/
  | imulU (d : BitVec 6) (a b : BitVec 7) (m : Bool)
  /-- U-form of IMULH (R178). -/
  | imulhU (d : BitVec 6) (a b : BitVec 7) (m : Bool)
  /-- U-form of IMAD (R178). -/
  | imadU (d : BitVec 6) (a b : BitVec 7) (m : Bool)
  /-- U-form of IABS (R178). -/
  | iabsU (d : BitVec 6) (a : BitVec 7) (m : Bool)
  /-- U-form of INEG (R178). -/
  | inegU (d : BitVec 6) (a : BitVec 7) (m : Bool)
  /-- U-form of IMIN (R178). -/
  | iminU (d : BitVec 6) (a b : BitVec 7) (m : Bool)
  /-- U-form of IMAX (R178). -/
  | imaxU (d : BitVec 6) (a b : BitVec 7) (m : Bool)
  /-- U-form of ISAD (R178). -/
  | isadU (d : BitVec 6) (a b : BitVec 7) (m : Bool)
  /-- U-form of AND (R178). -/
  | andU (d : BitVec 6) (a b : BitVec 7) (m : Bool)
  /-- U-form of OR (R178). -/
  | orU (d : BitVec 6) (a b : BitVec 7) (m : Bool)
  /-- U-form of XOR (R178). -/
  | xorU (d : BitVec 6) (a b : BitVec 7) (m : Bool)
  /-- U-form of ANDN (R178). -/
  | andnU (d : BitVec 6) (a b : BitVec 7) (m : Bool)
  /-- U-form of SHL (R178). -/
  | shlU (d : BitVec 6) (a b : BitVec 7) (m : Bool)
  /-- U-form of SHR (R178). -/
  | shrU (d : BitVec 6) (a b : BitVec 7) (m : Bool)
  /-- U-form of SAR (R178). -/
  | sarU (d : BitVec 6) (a b : BitVec 7) (m : Bool)
  /-- U-form of ROT (R178). -/
  | rotU (d : BitVec 6) (a b : BitVec 7) (m : Bool)
  /-- U-form of FSHL (R178). -/
  | fshlU (d : BitVec 6) (a b : BitVec 7) (m : Bool)
  /-- U-form of BFE (R178). -/
  | bfeU (d : BitVec 6) (a b : BitVec 7) (m : Bool)
  /-- U-form of BFI (R178). -/
  | bfiU (d : BitVec 6) (a b : BitVec 7) (m : Bool)
  /-- U-form of POPC (R178). -/
  | popcU (d : BitVec 6) (a : BitVec 7) (m : Bool)
  /-- U-form of CLZ (R178). -/
  | clzU (d : BitVec 6) (a : BitVec 7) (m : Bool)
  /-- U-form of CTZ (R178). -/
  | ctzU (d : BitVec 6) (a : BitVec 7) (m : Bool)
  /-- U-form of BREV (R178). -/
  | brevU (d : BitVec 6) (a : BitVec 7) (m : Bool)
  /-- U-form of BPERM (R178). -/
  | bpermU (d : BitVec 6) (a b : BitVec 7) (m : Bool)
  /-- U-form of LEA on even uniform pairs (R178). -/
  | leaU (d : BitVec 6) (a b : BitVec 7) (m : Bool)
  /-- U-form of MOV (R178). -/
  | movU (d : BitVec 6) (a : BitVec 7) (m : Bool)
  /-- U-form of SEL, taking a when the guard holds in some EM lane (R178). -/
  | selU (d : BitVec 6) (a b : BitVec 7) (m : Bool)
  /-- U-form of IDOT4 (R178). -/
  | idot4U (d : BitVec 6) (a b : BitVec 7) (m : Bool)
  /-- U-form of the IADD immediate form (R178). -/
  | iaddImmU (d : BitVec 6) (a imm : BitVec 7) (m : Bool)
  /-- U-form of the IMUL immediate form (R178). -/
  | imulImmU (d : BitVec 6) (a imm : BitVec 7) (m : Bool)
  /-- U-form of the IMIN immediate form (R178). -/
  | iminImmU (d : BitVec 6) (a imm : BitVec 7) (m : Bool)
  /-- U-form of the IMAX immediate form (R178). -/
  | imaxImmU (d : BitVec 6) (a imm : BitVec 7) (m : Bool)
  /-- U-form of the AND immediate form (R178). -/
  | andImmU (d : BitVec 6) (a imm : BitVec 7) (m : Bool)
  /-- U-form of the OR immediate form (R178). -/
  | orImmU (d : BitVec 6) (a imm : BitVec 7) (m : Bool)
  /-- U-form of the XOR immediate form (R178). -/
  | xorImmU (d : BitVec 6) (a imm : BitVec 7) (m : Bool)
  /-- U-form of the ANDN immediate form (R178). -/
  | andnImmU (d : BitVec 6) (a imm : BitVec 7) (m : Bool)
  /-- U-form of the SHL immediate form (R178). -/
  | shlImmU (d : BitVec 6) (a imm : BitVec 7) (m : Bool)
  /-- U-form of the SHR immediate form (R178). -/
  | shrImmU (d : BitVec 6) (a imm : BitVec 7) (m : Bool)
  /-- U-form of the SAR immediate form (R178). -/
  | sarImmU (d : BitVec 6) (a imm : BitVec 7) (m : Bool)
  /-- U-form of the ROT immediate form (R178). -/
  | rotImmU (d : BitVec 6) (a imm : BitVec 7) (m : Bool)
  /-- U-form of the LEA immediate form (R178). -/
  | leaImmU (d : BitVec 6) (a imm : BitVec 7) (m : Bool)
  /-- U-form of the BFE immediate form (R178). -/
  | bfeImmU (d : BitVec 6) (a imm : BitVec 7) (m : Bool)
  /-- U-form of LIM writing a uniform register (R178). -/
  | limU (d : BitVec 6) (imm : BitVec 15)
  /-- U-form of LIMH reading the old uniform register (R178). -/
  | limhU (d : BitVec 6) (imm : BitVec 15)
  /-- U-form of FADD (R180). -/
  | faddU (d : BitVec 6) (a b : BitVec 7) (m : Bool)
  /-- U-form of FSUB (R180). -/
  | fsubU (d : BitVec 6) (a b : BitVec 7) (m : Bool)
  /-- U-form of FMUL (R180). -/
  | fmulU (d : BitVec 6) (a b : BitVec 7) (m : Bool)
  /-- U-form of FFMA (R180). -/
  | ffmaU (d : BitVec 6) (a b : BitVec 7) (m : Bool)
  /-- U-form of FMIN (R180). -/
  | fminU (d : BitVec 6) (a b : BitVec 7) (m : Bool)
  /-- U-form of FMAX (R180). -/
  | fmaxU (d : BitVec 6) (a b : BitVec 7) (m : Bool)
  /-- U-form of FABS (R180). -/
  | fabsU (d : BitVec 6) (a : BitVec 7) (m : Bool)
  /-- U-form of FNEG (R180). -/
  | fnegU (d : BitVec 6) (a : BitVec 7) (m : Bool)
  /-- U-form of FCLASS (R180). -/
  | fclassU (d : BitVec 6) (a : BitVec 7) (m : Bool)
  /-- U-form of FRND (R180). -/
  | frndU (d : BitVec 6) (a : BitVec 7) (m : Bool)
  /-- U-form of FSCALE (R180). -/
  | fscaleU (d : BitVec 6) (a b : BitVec 7) (m : Bool)
  /-- U-form of CVT on uniform registers (R187). -/
  | cvtU (d : BitVec 6) (a : BitVec 7) (part : BitVec 3)
  /-- U-form of FRCP (R193). -/
  | frcpU (d : BitVec 6) (a : BitVec 7) (m : Bool)
  /-- U-form of FRSQ (R193). -/
  | frsqU (d : BitVec 6) (a : BitVec 7) (m : Bool)
  /-- U-form of FEXP2 (R193). -/
  | fexp2U (d : BitVec 6) (a : BitVec 7) (m : Bool)
  /-- U-form of FLOG2 (R193). -/
  | flog2U (d : BitVec 6) (a : BitVec 7) (m : Bool)
  /-- U-form of FSINP (R193). -/
  | fsinpU (d : BitVec 6) (a : BitVec 7) (m : Bool)
  /-- U-form of FCOSP (R193). -/
  | fcospU (d : BitVec 6) (a : BitVec 7) (m : Bool)
  /-- U-form of FTANH (R193). -/
  | ftanhU (d : BitVec 6) (a : BitVec 7) (m : Bool)
  /-- Loads one element per Active() lane from memory, with a cache hint and access field (R206). -/
  | ld (hint : BitVec 2) (nw : Bool) (d : BitVec 6) (a imm : BitVec 7) (m : Bool)
  /-- Stores one element per Active() lane to memory (R206). -/
  | st (hint : BitVec 2) (d : BitVec 6) (a imm : BitVec 7) (m : Bool)
  /-- Loads a uniform register once per execution (R208). -/
  | ldu (hint : BitVec 2) (d : BitVec 6) (a imm : BitVec 7) (m : Bool)
  /-- Stores a uniform register once per execution (R208). -/
  | stu (hint : BitVec 2) (d : BitVec 6) (a imm : BitVec 7) (m : Bool)
  /-- Loads from the gang's scratchpad (R207). -/
  | lds (nw : Bool) (d : BitVec 6) (a imm : BitVec 7) (m : Bool)
  /-- Stores to the gang's scratchpad (R207). -/
  | sts (d : BitVec 6) (a imm : BitVec 7) (m : Bool)
  /-- Loads one element per Active() lane and pushes the entry to a load queue (R209). -/
  | ldq (hint q : BitVec 2) (a imm : BitVec 7) (m : Bool)
  /-- Drains the oldest store-queue entry to memory (R210). -/
  | stq (hint q : BitVec 2) (a imm : BitVec 7) (m : Bool)
  /-- Atomic read-modify-write per Active() lane returning the old value (R212). -/
  | atom (op : BitVec 4) (nw : Bool) (d : BitVec 6) (a imm : BitVec 7) (m : Bool)
  /-- Atomic reduction per Active() lane with no result (R212). -/
  | red (op : BitVec 3) (d : BitVec 6) (a imm : BitVec 7) (m : Bool)
  /-- Claims consecutive indices from a counter record for the Active() lanes (R213). -/
  | claim (nw : Bool) (d : BitVec 6) (a imm : BitVec 7) (m : Bool)
  /-- Acquire, release or sequentially consistent fence at a scope (R214). -/
  | fence (scope : BitVec 4) (form : BitVec 2)
  /-- Enqueues a per-lane copy of 4, 8 or 16 bytes to the copy engine (R217). -/
  | cpy (y gv : Bool) (slot : BitVec 3) (a b : BitVec 7) (sub : BitVec 4)
  /-- Enqueues a box copy described by a copy descriptor, optionally bound to a barrier (R218). -/
  | tcopy (y gv : Bool) (slot : BitVec 3) (a b : BitVec 7) (sub : BitVec 4)
  /-- Seals the open copies into a new batch (R224). -/
  | cseal (d : BitVec 6)
  /-- Waits until a batch is not pending, then returns and clears COPYERR (R225). -/
  | cwait (d : BitVec 6) (src : BitVec 7)
  /-- Stalls until at most k sealed batches are unfinished (R225). -/
  | cwaitn (d k : BitVec 6)
  /-- Initialises a barrier object (R227). -/
  | barinit (d : BitVec 6) (a imm : BitVec 7) (m : Bool)
  /-- Arrives on a barrier with a count, completing the phase or trapping on overrun (R227). -/
  | bararr (d : BitVec 6) (a imm : BitVec 7) (m : Bool)
  /-- Waits, optionally bounded, until the barrier phase differs from p (R229). -/
  | barwait (nw : Bool) (d : BitVec 6) (a imm : BitVec 7) (m : Bool)
  /-- Returns the barrier phase status at once (R229). -/
  | bartry (nw : Bool) (d : BitVec 6) (a : BitVec 7) (m : Bool)
  /-- Prefetches lines into L1 and L2 or L2 only (R231). -/
  | pref (a : BitVec 7) (l2 m : Bool)
  /-- Writes back and invalidates lines in the L1, optionally also non-coherent L2 lines (R231). -/
  | cinv (a : BitVec 7) (l2 m : Bool)
  /-- Writes lines' dirty sectors to their coherence point (R231). -/
  | cflush (a : BitVec 7) (l2 m : Bool)
  /-- Binds or unbinds a stream-port pattern register from a descriptor (R232). -/
  | spbind (wrk : Bool) (port : BitVec 2) (a : BitVec 7) (m : Bool)
  /-- Reads half of a stream port's POS (R233). -/
  | sppos (d : BitVec 6) (hi wrk : Bool) (port : BitVec 2)
  /-- Enqueues a weight-slot load from memory or scratchpad (R242). -/
  | wload (y gv : Bool) (slot : BitVec 3) (a : BitVec 7) (sp : Bool) (wsl : BitVec 6)
  /-- Issues block-scaled matrix quarter operations accumulating into an f32 tile (R244). -/
  | qmma (y gv : Bool) (slot : BitVec 3) (a : BitVec 7) (z : Bool) (wsl : BitVec 6) (tile : BitVec 4)
  /-- Issues residue-mode matrix quarter operations into a residue tile (R246). -/
  | qmmar (y gv : Bool) (slot : BitVec 3) (a : BitVec 7) (z : Bool) (wsl : BitVec 6) (tile : BitVec 4)
  /-- Enqueues zeroing of a tile or residue tile (R247). -/
  | accz (gv : Bool) (slot : BitVec 3) (res : Bool) (tile : BitVec 4)
  /-- Enqueues loading a tile image into tiles (R247). -/
  | accld (gv : Bool) (slot : BitVec 3) (a : BitVec 7) (res sp : Bool) (tile : BitVec 4)
  /-- Enqueues storing a tile image to memory or scratchpad (R247). -/
  | accst (gv : Bool) (slot : BitVec 3) (a : BitVec 7) (res sp : Bool) (tile : BitVec 4)
  /-- Stalls until covered matrix commands complete, then returns and clears MXERR (R248). -/
  | twait (d : BitVec 6) (allc res : Bool) (tile : BitVec 4)
  /-- Enqueues freeing of a weight slot (R243). -/
  | wfree (gv : Bool) (slot : BitVec 3) (wsl : BitVec 6)
  /-- Reads tile words into vector registers (R249). -/
  | accrd (nw : Bool) (d : BitVec 6) (res : Bool) (tile : BitVec 4) (b : BitVec 7) (m : Bool)
  /-- Converts an integer to a residue vector (R251). -/
  | rnsf (nw : Bool) (d : BitVec 6) (a : BitVec 7) (m : Bool)
  /-- Reconstructs a residue vector's value and status (R252). -/
  | rnsr (nw : Bool) (d : BitVec 6) (a : BitVec 7) (m : Bool)
  /-- Writes the reconstruction status of a residue vector (R252). -/
  | rnsc (nw : Bool) (d : BitVec 6) (a : BitVec 7) (m : Bool)
  /-- Channel-wise residue multiply (R251). -/
  | rnsmul (nw : Bool) (d : BitVec 6) (a b : BitVec 7) (m : Bool)
  /-- Channel-wise residue add (R251). -/
  | rnsadd (nw : Bool) (d : BitVec 6) (a b : BitVec 7) (m : Bool)
  /-- Sorts the Active() lanes' entries with order flags (R259). -/
  | vsort (d : BitVec 6) (a : BitVec 7) (desc m : Bool)
  /-- Sorts two entry lists together, optionally removing duplicates (R260). -/
  | vmerge (d : BitVec 6) (a : BitVec 7) (dd desc m : Bool)
  /-- Updates a running top-k list with the Active() lanes' entries (R261). -/
  | vtopk (d : BitVec 6) (a : BitVec 7) (least : Bool) (k : BitVec 6) (m : Bool)
  /-- Compacts entries at or above a threshold (R262). -/
  | vselth (d : BitVec 6) (a b : BitVec 7) (m : Bool)
  /-- Opens or joins a new version of a staged page (R264). -/
  | sopen (d : BitVec 6) (a : BitVec 7) (keep m : Bool)
  /-- Seals the gang's share of a staged page version (R265). -/
  | sseal (d : BitVec 6) (a : BitVec 7) (m : Bool)
  /-- Reads the node's revealed seed into a uniform pair and the crew's seed register (R266). -/
  | wseed (d : BitVec 6)
  /-- Appends a tagged header and lane values to the gang's witness area (R267). -/
  | wput (a : BitVec 7) (tag : BitVec 4) (m : Bool)
  /-- Multiplies a multiset fingerprint accumulator by a seed-based factor (R269). -/
  | whash (nw : Bool) (d : BitVec 6) (a : BitVec 7) (m : Bool)
  /-- Accumulates a seed-signed projection (R270). -/
  | wproj (nw : Bool) (d : BitVec 6) (a b : BitVec 7) (m : Bool)
  /-- Releases at device scope and posts a node descriptor to the dispatch hub (R271). -/
  | launch (a : BitVec 7) (m : Bool)
  /-- Issues a collective described by a descriptor (R273). -/
  | coll (gv : Bool) (slot : BitVec 3) (a : BitVec 7) (op : BitVec 4)
  /-- Stalls until a collective is not pending, then returns and clears its status (R279). -/
  | collw (d : BitVec 6) (src : BitVec 7)
  /-- Reads a privileged register (R322). -/
  | mfp (d : BitVec 6) (idx : BitVec 7)
  /-- Writes a privileged register (R322). -/
  | mtp (a idx : BitVec 7)
  /-- Returns from a system trap handler by mode (R323). -/
  | eret (d : BitVec 6) (form : BitVec 2)
  /-- Releases at a scope and removes translations in the scope instance (R328). -/
  | tlbinv (a : BitVec 7) (kind : BitVec 2) (scope : BitVec 4)
  /-- Writes a parked gang's context image, optionally sealed and freeing the gang (R326). -/
  | ctxsave (d : BitVec 6) (a : BitVec 7) (fr sl : Bool)
  /-- Places a gang, parked, from a context image on a named core (R327). -/
  | ctxload (d : BitVec 6) (a : BitVec 7)
  /-- Requests a boundary park or pre-empts a gang (R325). -/
  | park (d : BitVec 6) (a : BitVec 7) (form : BitVec 2)
  /-- Makes a parked resident gang runnable (R325). -/
  | unpark (d : BitVec 6) (a : BitVec 7)
  /-- Returns SHEDSTAT and clears PEND (R330). -/
  | shedack (d : BitVec 6)
  /-- Copies a value with a chosen label, given the capability (R329). -/
  | declass (nw : Bool) (d : BitVec 6) (a : BitVec 7) (lab : BitVec 2) (m : Bool)
  /-- Loads a supervisor image page into a frame (R331). -/
  | ovloadp (a k : BitVec 7)
  /-- Ends the executing gang's node with a fault status (R324). -/
  | halt (status : BitVec 15)
  /-- Does nothing (R155). -/
  | nop
  /-- NOP with the yield bit set; the crew leaves its slot at a switch point (R132). -/
  | yield
  /-- Ends the Active() threads in the executing stream and ends the stream when its live mask becomes zero (R155). -/
  | exit
  /-- Raises the breakpoint trap to system software when Active() is not empty (R156). -/
  | brk
  /-- Raises user trap cause 8 with the immediate as TRAPINFO when Active() is not empty (R157). -/
  | trap
  /-- Releases the stream's loop-buffer captures and discards fetched instructions not yet issued (R161). -/
  | isync
  /-- Pops the return stack and jumps there (R150). -/
  | ret
  /-- Releases and waits at the gang barrier (R230). -/
  | gbar
  /-- Marks the gang as triggered, a device-scope release (R272). -/
  | trig
  /-- Waits until overlapping predecessor gangs have triggered or completed (R272). -/
  | waitd
  /-- A stream fetches its next instruction word from a frame or the loop buffer (R83). Operands: r. -/
  | codeFetch
  /-- A resident-set or handler page refill completes and the stalled fetch proceeds (R83). Operands: r. -/
  | codePageRefill
  /-- Data of an earlier load arrives and fills its register, latch or queue entry (R128). Operands: r, id. -/
  | loadDataArrival
  /-- HTIME expires in a system handler with a park pending; the node ends with status 0x7FFE (R310). Operands: r. -/
  | handlerTimeLimit
  /-- A free issue slot is given to the ready crew of highest effective class (R351). Operands: core, slot. -/
  | slotGrant
  /-- When every crew of a meeting waits at the same BRG, the gang divides and packs the first path (R26). Operands: g. -/
  | brgMeeting
  /-- Every crew of a path reaches reconvergence; the next path starts or the packing is restored (R26). Operands: g. -/
  | brgPathEnd
  /-- A gang whose crews have ended and whose engine operations have completed publishes its completion (R37). Operands: g; n1: bits that a
  fault of nature flips in witness word n2 on its way to the assay die, 0 for none. -/
  | gangComplete
  /-- The assay die accepts a node's witness areas, completing the node (R37). Operands: n. -/
  | witnessHandoff
  /-- Every 65,536 delivered cycles the core may move one granule between scratchpad and L1 (R88). Operands: core. -/
  | scratchpadAdapt
  /-- A granule copy completes and SPCUR changes (R89). Operands: core. -/
  | granuleMoveDone
  /-- A sector dirty for 65,536 cycles is written back to its coherence point (R111). Operands: core, sector. -/
  | l1BackgroundClean
  /-- The copy engine accepts a queued copy, reading its descriptor and announcing barrier bytes (R216). Operands: r. -/
  | copyAccept
  /-- A copy completes, counts toward its batch and arrives on its barrier (R216). Operands: id. -/
  | copyComplete
  /-- A bounded BARWAIT's bound expires and it returns without acquire (R229). Operands: r. -/
  | barwaitTimeout
  /-- The engine accepts a queued matrix command into its reservation table (R235). Operands: r. -/
  | matrixAccept
  /-- The gather unit finishes reading a quarter's A-row records (R244). Operands: cl, id. -/
  | gatherComplete
  /-- The arbiter picks a ready pass and fuses up to three further quarters into it (R241). Operands: cl. -/
  | matrixPass
  /-- A pass writes its tile rows as one indivisible update (R240). Operands: cl. -/
  | passComplete
  /-- The load port fills a weight slot, checking owner, tag and translation (R242). Operands: cl, id. -/
  | wloadPerform
  /-- The load port frees a weight slot after its earlier passes (R243). Operands: cl, id. -/
  | wfreePerform
  /-- The load port performs an ACCZ, ACCLD or ACCST (R247). Operands: cl, id. -/
  | tileCommandPerform
  /-- The frame of a newly opened version is ready and SOPEN returns (R264). Operands: pair. -/
  | stagingFillDone
  /-- After earlier copies and matrix commands complete, SSEAL releases and ends write permission (R265). Operands: r. -/
  | ssealProceed
  /-- The copy engine finishes the frame digest and sends it to the assay die (R265). Operands: pair. -/
  | digestTaken
  /-- The assay die reveals a node's seed after all its staged outputs are sealed (R385). Operands: n; n1: 0 for an
  instance at the hub, by its table entry, 1 for one that has completed, by its uid. -/
  | seedReveal
  /-- WSEED returns zero after 4,096 cycles without a reveal (R266). Operands: r. -/
  | wseedTimeout
  /-- The assay die tests a completed node's witness and records the outcome (R386). Operands: uid. -/
  | witnessTest
  /-- A sealed version becomes released and its notice is sent (R384). Operands: pair. -/
  | versionRelease
  /-- A version becomes void, dooming readers, and its notice is sent (R382). Operands: pair. -/
  | versionVoid
  /-- The hub takes a re-execution post record and accepts the instance with its exclusions (R354). Operands: p. -/
  | reexecutionPost
  /-- A residue status report makes the assay die park the cluster's gangs and start its self-test (R397). Operands: cl, status,
  the node's descriptor address. -/
  | residueReport
  /-- The residue self-test finishes, retiring failing channels and unparking the gangs (R397). Operands: cl. -/
  | selfTestDone
  /-- A strike sensor report discards results in commit lag and replays them (R399). Operands: nums: the clusters; n1: an
  uncorrectable fault that nature leaves behind: 0 none, 1 in the bank of register n3 of stream n2, 2 in scratchpad line n3 of
  gang n2, 3 in row n4 of tile n3 of gang n2, 4 in channel n3 of the engine of cluster n2, whose adder adds n4 to every sum. -/
  | strikeReport
  /-- The scrubber, or any read, meets a sector of LPDDR 5X (R400, R409). Operands: sector; finding of ECC: 0 none, 1 corrected,
  2 uncorrectable; bytes: the ciphertext and the tag found there where an agent outside the package has replaced them. -/
  | patrolScrub
  /-- A collective completes at a member, writing its destination and status (R277). Operands: id; of the members of other
  packages, in ascending rank, bytes: their inputs, and nums: 1 if its descriptor agrees, its label, the error of its data
  (0 none, 1 of ECC, 2 of integrity), how many versions it came from provisionally, and of each package, pair and version. -/
  | collComplete
  /-- A member's collective bound expires before all members arrive (R278). Operands: id; n1: 1 if the bound is that of a
  member of another package; n2: 1 if every member of another package has arrived. -/
  | collBoundExpiry
  /-- A host write to POST3 submits a post to the partition's queue (R446). Operands: p, value. -/
  | postSubmit
  /-- The headframe forwards a queued post to the partition's hub, which checks its RCB chain (R333). Operands: p. -/
  | postForward
  /-- The hub accepts a node instance into its table once it passes checks and has room (R335). Operands: p. -/
  | nodeAccept
  /-- The hub places the next gang of the chosen instance on an eligible core (R342). Operands: p. -/
  | gangPlace
  /-- After 200 µs unable to place, the hub reserves cores for the waiting instance (R346). Operands: p. -/
  | placementReservation
  /-- All crews of a gang have stopped and its engine operations drained; the gang is parked with a release (R315). Operands: g. -/
  | parkComplete
  /-- A context image has been written and CTXSAVE returns (R326). Operands: r. -/
  | ctxsaveDone
  /-- A context image has been read and the gang placed, and CTXLOAD returns (R327). Operands: r. -/
  | ctxloadDone
  /-- A gang not stopped 200 µs after a shed takes effect is pre-empted (R439). Operands: g. -/
  | shedPreempt
  /-- A page walk completes and fills the TLB or finds the address unmapped (R365). Operands: core, va, the table entry
  of the instance for which it walks. -/
  | pageWalk
  /-- An engine translation fault is delivered to the issuing stream at its next boundary (R366). Operands: r. -/
  | engineFaultDelivery
  /-- A home handles a ReadShared request for a line (R372). Operands: home, die, line, the partition. -/
  | readShared
  /-- A home handles a ReadOwn request for a line (R372). Operands: home, die, line, the partition. -/
  | readOwn
  /-- A home handles an Upgrade request from a sharer (R372). Operands: home, die, line, the partition. -/
  | upgrade
  /-- A home handles a WriteBack of a line (R372). Operands: home, die, line. -/
  | writeBack
  /-- A die receives a Grant with data and state (R370). Operands: home, die, line. -/
  | grant
  /-- An owner receives Recall.S and keeps a shared copy (R372). Operands: home, die, line. -/
  | recallS
  /-- An owner receives Recall.I and gives up its copy (R372). Operands: home, die, line. -/
  | recallI
  /-- A sharer receives Invalidate and goes to I (R372). Operands: home, die, line. -/
  | invalidate
  /-- A home receives the answer to a Recall (R370). Operands: home, die, line. -/
  | recallReply
  /-- A home receives the answer to an Invalidate (R370). Operands: home, die, line. -/
  | invAck
  /-- A package receives a release message, enters ING into every IN and NCIN, and acknowledges (R115). Operands: pkg, seq. -/
  | releaseMessage
  /-- A release acknowledgement arrives at the releasing package (R450). Operands: pkg, seq. -/
  | releaseAck
  /-- A remote load, store or atomic from the fabric is performed at this home package (R115). Operands: pkg;
  kind: 0 load, 1 store, 2 atomic; pa; the bytes of a load, or 32 times an atomic's operation plus its type; bytes: data,
  of an atomic its operand and the value to compare; nums: pair and version of each tag of a store's data. -/
  | remoteAccessArrival
  /-- A remote load or atomic response arrives, possibly as tagged provisional data (R451). Operands: id;
  1 for an error; bytes: data; nums: pair and version of each tag. -/
  | remoteResponse
  /-- A remote access with no answer within 1 ms completes poisoned or with error (R449). Operands: id. -/
  | remoteAccessTimeout
  /-- A release or void notice for provisional data arrives from the fabric (R451). Operands: w0, w1. -/
  | noticeArrival
  /-- No notice within 100 ms poisons provisional sectors and dooms readers (R451). Operands: package, pair,
  version. -/
  | provisionalTimeout
  /-- A host write through BAR2 reaches device memory and enters every IN and NCIN (R444). Operands: off; bytes:
  data. -/
  | hostWrite
  /-- A host read through BAR2 is served at the coherence point or returns all ones (R444). Operands: off, n. -/
  | hostRead
  /-- The headframe writes a queued entry to a host ring and advances TAIL (R446). Operands: p, k. -/
  | ringEntryWrite
  /-- Management command 1 releases a partition with its clusters, ways and modes (R448). -/
  | partitionRelease
  /-- Management command 2 decapsulates the tenant's ciphertext and derives partition keys (R412). -/
  | keyExchange
  /-- Management command 3 delivers a sealed weight key (R413). -/
  | weightKey
  /-- Management command 4 exports a page as an encrypted blob (R416). -/
  | pageExport
  /-- Management command 5 imports a blob into a frame or quarantines on failure (R416). -/
  | pageImport
  /-- Management command 6 decrypts and writes a sealed 4 KiB block (R414). -/
  | sealedTransferIn
  /-- Management command 7 reads and seals a 4 KiB block for the host (R414). -/
  | sealedTransferOut
  /-- Management command 8 returns a signed attestation report (R419). -/
  | attestation
  /-- Management command 9 writes the identity certificate (R448). -/
  | certificateRead
  /-- Management command 10 writes fault record entries (R448). -/
  | faultRecordRead
  /-- Management command 11 writes a collective group's member list (R452). -/
  | collectiveGroup
  /-- A management command with an unknown code ends with status 0xFFFF (R448). -/
  | unknownCommand
  /-- A host write sets the fabric id and locks FABID (R445). Operands: value. -/
  | fabidWrite
  /-- A write to ISLCTL changes an island's rail, divider, rationing or power-down enable (R422). Operands: agent:
  0 the host, 1 + p a supervisor stream of partition p, 17 + p a user stream; cl; value. -/
  | islctlWrite
  /-- A write to a register with no behaviour of its own updates its RW fields (R421). Operands: agent, as for
  ISLCTL_WRITE; off; value. -/
  | registerWrite
  /-- A rail or divider change completes and the new frequency applies (R423). Operands: cl. -/
  | railSwitchDone
  /-- An empty island with PDEN set powers down 100 µs after its last gang leaves (R427). Operands: cl. -/
  | islandPowerDown
  /-- The in-rush arbiter starts a queued island wake (R427). Operands: die. -/
  | islandWakeStart
  /-- An island wake completes and the island runs (R427). Operands: cl. -/
  | islandWakeDone
  /-- A lane group idle for 512 cycles is clock-gated (R426). Operands: core, slot, group. -/
  | laneGroupGate
  /-- A bank whose streams waited 64 cycles for load data becomes drowsy (R425). Operands: r. -/
  | bankDrowsy
  /-- At each whole millisecond the ENERGY reading and EUSED are updated (R432). -/
  | energyUpdate
  /-- The detector trips on a supply droop and starts the stretch response (R430). Operands: cl; mV below
  the rail's target. -/
  | droopTrip
  /-- The stretched-cycle count ends and halved issue begins (R430). Operands: cl. -/
  | droopStretchEnd
  /-- The halved-issue count ends and the response finishes (R430). Operands: cl. -/
  | droopHalveEnd
  /-- A power-shelf frame is received, validated and turned into a shed target (R436). Operands: bytes: the frame. -/
  | telemetryFrame
  /-- FAILN frame times without a valid frame put the controller in fail-safe (R436). -/
  | telemetryFailsafe
  /-- A partition's new level takes effect on its hubs and cores, parking or restoring gangs (R439). Operands: p. -/
  | shedLevelApply
  /-- A flit failing its CRC is replayed from the sender's buffer (R442). -/
  | flitReplay
  /-- Retraining ends; a third failure in a second takes the link down (R442). Operands: ok. -/
  | linkRetrainDone
  /-- Package reset starts bring-up through to READY (R453). Operands: memUnits, rate; n2: what fails: 0 nothing, 3 a
  die's self-test, 4 the training of memory, 5 the reading of the flash; n3: the clusters that fail their self-test; bytes: the
  firmware image in the flash. -/
  | packageReset
  /-- Executing an instruction word whose opcode is unassigned raises the precise illegal-instruction trap and has no other effect (R137). Operands: w. -/
  | unassignedOpcode
  /-- A scale-up fabric port goes down and an event entry of kind 3 is posted to the partition's event ring (R446). Operands: p, port. -/
  | fabricPortDown
  /-- While fail-safe holds, each 50 µs frame time with FAILLEVEL below LEVEL counts toward RESTN, and LEVEL steps down when the count is reached (R437). -/
  | failSafeFrameTime
  /-- A host write to PSHED changes CAP or ACKR, and can change the partition's level in force, which updates SHEDSTAT and posts a partition event (R438). Operands: p, value. -/
  | pshedWrite
  deriving DecidableEq, Repr

end Sys2Proof
end

