-- ==== Sys2Proof/WellFormed.lean ====
section
/-! DEFINITION. Which instructions are well formed: what the opcode map assigns and the fields that are
reserved under a condition on another field. -/

namespace Sys2Proof

/-- The assigned opcodes, as ranges of the ten opcode bits (05 R134, R135, R136). -/
def assignedRanges : List (Nat × Nat) :=
  [(0x000, 0x019), (0x020, 0x02B), (0x040, 0x0AD), (0x0B0, 0x0B1), (0x0C0, 0x0CD), (0x0D0, 0x0D6), (0x0E0, 0x0EC),
   (0x100, 0x111), (0x114, 0x11B), (0x140, 0x148), (0x150, 0x158), (0x160, 0x166), (0x168, 0x16C),
   (0x170, 0x172), (0x174, 0x175), (0x180, 0x18A), (0x190, 0x195), (0x1C0, 0x1C3), (0x1D0, 0x1D5),
   (0x1E0, 0x1E2), (0x1E8, 0x1E9), (0x280, 0x2AD), (0x2B0, 0x2B1), (0x2C0, 0x2CB), (0x2D0, 0x2D6),
   (0x3C0, 0x3CB)]

/-- The opcode is one that the map assigns (05 R137). -/
def assignedOpcode (op : Nat) : Bool :=
  assignedRanges.any fun r => decide (r.1 ≤ op) && decide (op ≤ r.2)

/-- The fields of the instruction hold values its word can hold.
A field that an instruction does not use is reserved (05 R121): the slot of an unguarded command, the
d field of a return without redirection, the upper bits of a field that names a predicate or a guard slot. A step of the device has no word. -/
def Instr.wf : Instr → Bool
  | .nop => true
  | .yield => true
  | .exit => true
  | .brk => true
  | .trap => true
  | .tret d redir => redir || d == 0
  | .isync => true
  | .ovload _ _ => true
  | .ovcall _ _ => true
  | .mode _ => true
  | .modeM1 _ => true
  | .modeBoth _ => true
  | .modeUniform _ _ => true
  | .getmode _ _ => true
  | .setem _ => true
  | .getem _ => true
  | .vote _ a _ => decide (a.toNat < 8)
  | .any _ _ a _ => decide (a.toNat < 8)
  | .all _ _ a _ => decide (a.toNat < 8)
  | .gset unset a b => decide (a.toNat < 8) && decide (b.toNat < 8) && (!unset || b == 0)
  | .gets _ _ _ => true
  | .pand _ _ _ _ => true
  | .por _ _ _ _ => true
  | .pxor _ _ _ _ => true
  | .pnot _ _ _ => true
  | .pmov _ _ _ => true
  | .bra _ _ _ _ => true
  | .brc _ _ _ _ => true
  | .brg _ _ _ _ => true
  | .jmpi _ => true
  | .call _ _ _ => true
  | .callv _ _ _ => true
  | .ret => true
  | .retv _ => true
  | .loop _ _ => true
  | .lbrk _ _ _ => true
  | .cmp _ _ _ _ _ _ _ => true
  | .iadd _ _ _ _ _ => true
  | .isub _ _ _ _ _ => true
  | .iaddc _ _ _ _ _ => true
  | .isubb _ _ _ _ _ => true
  | .imul _ _ _ _ _ => true
  | .imulh _ _ _ _ _ => true
  | .imad _ _ _ _ _ => true
  | .iabs _ _ _ _ => true
  | .ineg _ _ _ _ => true
  | .imin _ _ _ _ _ => true
  | .imax _ _ _ _ _ => true
  | .isad _ _ _ _ _ => true
  | .and _ _ _ _ _ => true
  | .or _ _ _ _ _ => true
  | .xor _ _ _ _ _ => true
  | .andn _ _ _ _ _ => true
  | .shl _ _ _ _ _ => true
  | .shr _ _ _ _ _ => true
  | .sar _ _ _ _ _ => true
  | .rot _ _ _ _ _ => true
  | .fshl _ _ _ _ _ => true
  | .bfe _ _ _ _ _ => true
  | .bfi _ _ _ _ _ => true
  | .popc _ _ _ _ => true
  | .clz _ _ _ _ => true
  | .ctz _ _ _ _ => true
  | .brev _ _ _ _ => true
  | .bperm _ _ _ _ _ => true
  | .lea _ _ _ _ _ => true
  | .mov _ _ _ _ => true
  | .sel _ _ _ _ _ => true
  | .idot4 _ _ _ _ _ => true
  | .iaddImm _ _ _ _ _ => true
  | .imulImm _ _ _ _ _ => true
  | .iminImm _ _ _ _ _ => true
  | .imaxImm _ _ _ _ _ => true
  | .andImm _ _ _ _ _ => true
  | .orImm _ _ _ _ _ => true
  | .xorImm _ _ _ _ _ => true
  | .andnImm _ _ _ _ _ => true
  | .shlImm _ _ _ _ _ => true
  | .shrImm _ _ _ _ _ => true
  | .sarImm _ _ _ _ _ => true
  | .rotImm _ _ _ _ _ => true
  | .leaImm _ _ _ _ _ => true
  | .bfeImm _ _ _ imm _ => decide (imm.toNat < 64)
  | .lim _ _ _ => true
  | .limh _ _ _ => true
  | .fadd _ _ _ _ _ => true
  | .fsub _ _ _ _ _ => true
  | .fmul _ _ _ _ _ => true
  | .ffma _ _ _ _ _ => true
  | .fmin _ _ _ _ _ => true
  | .fmax _ _ _ _ _ => true
  | .fabs _ _ _ _ => true
  | .fneg _ _ _ _ => true
  | .fclass _ _ _ _ => true
  | .frnd _ _ _ _ => true
  | .fscale _ _ _ _ _ => true
  | .cvt _ _ _ _ => true
  | .fqblk _ _ _ _ => true
  | .fsplit3 _ _ _ _ => true
  | .frcp _ _ _ _ => true
  | .frsq _ _ _ _ => true
  | .fexp2 _ _ _ _ => true
  | .flog2 _ _ _ _ => true
  | .fsinp _ _ _ _ => true
  | .fcosp _ _ _ _ => true
  | .ftanh _ _ _ _ => true
  | .lget _ _ _ _ _ => true
  | .lflip _ _ _ _ _ => true
  | .lprev _ _ _ _ _ => true
  | .lnext _ _ _ _ _ => true
  | .bcast _ _ _ _ _ => true
  | .cred _ _ _ _ _ => true
  | .cscan _ _ _ _ _ _ => true
  | .lpeer _ _ _ _ => true
  | .lgetImm _ _ _ _ _ => true
  | .lflipImm _ _ _ _ _ => true
  | .lprevImm _ _ _ _ _ => true
  | .lnextImm _ _ _ _ _ => true
  | .bcastImm _ _ _ _ _ => true
  | .iaddU _ _ _ _ => true
  | .isubU _ _ _ _ => true
  | .iaddcU _ _ _ _ => true
  | .isubbU _ _ _ _ => true
  | .imulU _ _ _ _ => true
  | .imulhU _ _ _ _ => true
  | .imadU _ _ _ _ => true
  | .iabsU _ _ _ => true
  | .inegU _ _ _ => true
  | .iminU _ _ _ _ => true
  | .imaxU _ _ _ _ => true
  | .isadU _ _ _ _ => true
  | .andU _ _ _ _ => true
  | .orU _ _ _ _ => true
  | .xorU _ _ _ _ => true
  | .andnU _ _ _ _ => true
  | .shlU _ _ _ _ => true
  | .shrU _ _ _ _ => true
  | .sarU _ _ _ _ => true
  | .rotU _ _ _ _ => true
  | .fshlU _ _ _ _ => true
  | .bfeU _ _ _ _ => true
  | .bfiU _ _ _ _ => true
  | .popcU _ _ _ => true
  | .clzU _ _ _ => true
  | .ctzU _ _ _ => true
  | .brevU _ _ _ => true
  | .bpermU _ _ _ _ => true
  | .leaU _ _ _ _ => true
  | .movU _ _ _ => true
  | .selU _ _ _ _ => true
  | .idot4U _ _ _ _ => true
  | .iaddImmU _ _ _ _ => true
  | .imulImmU _ _ _ _ => true
  | .iminImmU _ _ _ _ => true
  | .imaxImmU _ _ _ _ => true
  | .andImmU _ _ _ _ => true
  | .orImmU _ _ _ _ => true
  | .xorImmU _ _ _ _ => true
  | .andnImmU _ _ _ _ => true
  | .shlImmU _ _ _ _ => true
  | .shrImmU _ _ _ _ => true
  | .sarImmU _ _ _ _ => true
  | .rotImmU _ _ _ _ => true
  | .leaImmU _ _ _ _ => true
  | .bfeImmU _ _ imm _ => decide (imm.toNat < 64)
  | .limU _ _ => true
  | .limhU _ _ => true
  | .faddU _ _ _ _ => true
  | .fsubU _ _ _ _ => true
  | .fmulU _ _ _ _ => true
  | .ffmaU _ _ _ _ => true
  | .fminU _ _ _ _ => true
  | .fmaxU _ _ _ _ => true
  | .fabsU _ _ _ => true
  | .fnegU _ _ _ => true
  | .fclassU _ _ _ => true
  | .frndU _ _ _ => true
  | .fscaleU _ _ _ _ => true
  | .cvtU _ _ _ => true
  | .frcpU _ _ _ => true
  | .frsqU _ _ _ => true
  | .fexp2U _ _ _ => true
  | .flog2U _ _ _ => true
  | .fsinpU _ _ _ => true
  | .fcospU _ _ _ => true
  | .ftanhU _ _ _ => true
  | .ld _ _ _ _ _ _ => true
  | .st _ _ _ _ _ => true
  | .ldu _ _ _ _ _ => true
  | .stu _ _ _ _ _ => true
  | .lds _ _ _ _ _ => true
  | .sts _ _ _ _ => true
  | .ldq _ _ _ _ _ => true
  | .stq _ _ _ _ _ => true
  | .atom op _ _ _ _ _ => decide (op.toNat ≤ 8)
  | .red op _ _ _ _ => decide (op.toNat ≤ 6)
  | .claim _ _ _ _ _ => true
  | .fence _ _ => true
  | .cpy _ gv slot _ _ _ => gv || slot == 0
  | .tcopy _ gv slot _ b sub => (gv || slot == 0) && (sub &&& 1 == 1 || sub == 0 && b == 0)
  | .cseal _ => true
  | .cwait _ _ => true
  | .cwaitn _ _ => true
  | .barinit d _ imm _ => imm == 0 || d == 0
  | .bararr d _ imm _ => imm == 0 || d == 0
  | .barwait _ _ _ _ _ => true
  | .bartry _ _ _ _ => true
  | .gbar => true
  | .pref _ _ _ => true
  | .cinv _ _ _ => true
  | .cflush _ _ _ => true
  | .spbind _ _ _ _ => true
  | .sppos _ _ _ _ => true
  | .wload _ gv slot _ _ _ => gv || slot == 0
  | .qmma _ gv slot _ _ _ _ => gv || slot == 0
  | .qmmar _ gv slot _ _ _ _ => gv || slot == 0
  | .accz gv slot _ _ => gv || slot == 0
  | .accld gv slot _ _ _ _ => gv || slot == 0
  | .accst gv slot _ _ _ _ => gv || slot == 0
  | .twait _ allc res tile => !allc || (res == false && tile == 0)
  | .wfree gv slot _ => gv || slot == 0
  | .accrd _ _ _ _ _ _ => true
  | .rnsf _ _ _ _ => true
  | .rnsr _ _ _ _ => true
  | .rnsc _ _ _ _ => true
  | .rnsmul _ _ _ _ _ => true
  | .rnsadd _ _ _ _ _ => true
  | .vsort _ _ _ _ => true
  | .vmerge _ _ _ _ _ => true
  | .vtopk _ _ _ _ _ => true
  | .vselth _ _ _ _ => true
  | .sopen _ _ _ _ => true
  | .sseal _ _ _ => true
  | .wseed _ => true
  | .wput _ _ _ => true
  | .whash _ _ _ _ => true
  | .wproj _ _ _ _ _ => true
  | .launch _ _ => true
  | .trig => true
  | .waitd => true
  | .coll gv slot _ _ => gv || slot == 0
  | .collw _ _ => true
  | .mfp _ _ => true
  | .mtp _ _ => true
  | .eret d form => form == 2 || d == 0
  | .tlbinv _ _ _ => true
  | .ctxsave _ _ _ _ => true
  | .ctxload _ _ => true
  | .park _ _ _ => true
  | .unpark _ _ => true
  | .shedack _ => true
  | .declass _ _ _ _ _ => true
  | .ovloadp _ _ => true
  | .halt _ => true
  | .codeFetch => true
  | .codePageRefill => true
  | .loadDataArrival => true
  | .handlerTimeLimit => true
  | .slotGrant => true
  | .brgMeeting => true
  | .brgPathEnd => true
  | .gangComplete => true
  | .witnessHandoff => true
  | .scratchpadAdapt => true
  | .granuleMoveDone => true
  | .l1BackgroundClean => true
  | .copyAccept => true
  | .copyComplete => true
  | .barwaitTimeout => true
  | .matrixAccept => true
  | .gatherComplete => true
  | .matrixPass => true
  | .passComplete => true
  | .wloadPerform => true
  | .wfreePerform => true
  | .tileCommandPerform => true
  | .stagingFillDone => true
  | .ssealProceed => true
  | .digestTaken => true
  | .seedReveal => true
  | .wseedTimeout => true
  | .witnessTest => true
  | .versionRelease => true
  | .versionVoid => true
  | .reexecutionPost => true
  | .residueReport => true
  | .selfTestDone => true
  | .strikeReport => true
  | .patrolScrub => true
  | .collComplete => true
  | .collBoundExpiry => true
  | .postSubmit => true
  | .postForward => true
  | .nodeAccept => true
  | .gangPlace => true
  | .placementReservation => true
  | .parkComplete => true
  | .ctxsaveDone => true
  | .ctxloadDone => true
  | .shedPreempt => true
  | .pageWalk => true
  | .engineFaultDelivery => true
  | .readShared => true
  | .readOwn => true
  | .upgrade => true
  | .writeBack => true
  | .grant => true
  | .recallS => true
  | .recallI => true
  | .invalidate => true
  | .recallReply => true
  | .invAck => true
  | .releaseMessage => true
  | .releaseAck => true
  | .remoteAccessArrival => true
  | .remoteResponse => true
  | .remoteAccessTimeout => true
  | .noticeArrival => true
  | .provisionalTimeout => true
  | .hostWrite => true
  | .hostRead => true
  | .ringEntryWrite => true
  | .partitionRelease => true
  | .keyExchange => true
  | .weightKey => true
  | .pageExport => true
  | .pageImport => true
  | .sealedTransferIn => true
  | .sealedTransferOut => true
  | .attestation => true
  | .certificateRead => true
  | .faultRecordRead => true
  | .collectiveGroup => true
  | .unknownCommand => true
  | .fabidWrite => true
  | .islctlWrite => true
  | .registerWrite => true
  | .railSwitchDone => true
  | .islandPowerDown => true
  | .islandWakeStart => true
  | .islandWakeDone => true
  | .laneGroupGate => true
  | .bankDrowsy => true
  | .energyUpdate => true
  | .droopTrip => true
  | .droopStretchEnd => true
  | .droopHalveEnd => true
  | .telemetryFrame => true
  | .telemetryFailsafe => true
  | .shedLevelApply => true
  | .flitReplay => true
  | .linkRetrainDone => true
  | .packageReset => true
  | .unassignedOpcode => true
  | .fabricPortDown => true
  | .failSafeFrameTime => true
  | .pshedWrite => true

end Sys2Proof
end

