-- ==== Sys2Proof/Decode.lean ====
section
/-! DEFINITION. From bytes to instructions and back: the opcode map as rows, the decoder, and the encoder
written from the same formats (05 R119 to R137). -/

namespace Sys2Proof

/-- Why a word is no instruction that can run. -/
inductive DecodeError where
  /-- Fewer than four bytes were given (05 R119). -/
  | tooShort
  /-- A reserved bit is nonzero (05 R121, 00 R6). -/
  | reservedBits
  deriving DecidableEq, Repr

/-- The len bits of a word from bit lo upwards. -/
def field (w : Word) (lo len : Nat) : BitVec len := BitVec.ofNat len (w.toNat / 2 ^ lo)

/-- One bit of a word. -/
def flag (w : Word) (k : Nat) : Bool := w.toNat / 2 ^ k % 2 == 1

/-- A word from the sum of its fields, each at its place. -/
def wordOf (n : Nat) : Word := BitVec.ofNat 32 n

/-- A row of the opcode map: the opcodes it assigns, its reserved fields as (lowest bit, length), and the
instruction its words hold. -/
structure OpcodeRow where
  first : Nat
  last : Nat
  reserved : List (Nat × Nat)
  make : Word → Instr

/-- Group 0: control, mode, masks, predicates, branches, loops (05 R133). -/
def opcodeRows0 : List OpcodeRow :=
  [⟨0x000, 0x000, [(0, 22)], fun _ => .nop⟩,
   ⟨0x001, 0x001, [(0, 22)], fun _ => .yield⟩,
   ⟨0x002, 0x002, [(0, 22)], fun _ => .exit⟩,
   ⟨0x003, 0x003, [(15, 7)], fun _ => .brk⟩,
   ⟨0x004, 0x004, [(15, 7)], fun _ => .trap⟩,
   ⟨0x005, 0x005, [(1, 14), (21, 1)], fun w => .tret (field w 15 6) (flag w 0)⟩,
   ⟨0x006, 0x006, [(0, 22)], fun _ => .isync⟩,
   ⟨0x007, 0x007, [(0, 1), (15, 7)], fun w => .ovload (field w 8 7) (field w 1 7)⟩,
   ⟨0x008, 0x008, [(0, 1), (15, 7)], fun w => .ovcall (field w 8 7) (field w 1 7)⟩,
   ⟨0x009, 0x009, [], fun w => .mode (field w 0 22)⟩,
   ⟨0x00A, 0x00A, [], fun w => .modeM1 (field w 0 22)⟩,
   ⟨0x00B, 0x00B, [], fun w => .modeBoth (field w 0 22)⟩,
   ⟨0x00C, 0x00C, [(1, 7), (15, 7)], fun w => .modeUniform (field w 8 7) (flag w 0)⟩,
   ⟨0x00D, 0x00D, [(1, 14), (21, 1)], fun w => .getmode (field w 15 6) (flag w 0)⟩,
   ⟨0x00E, 0x00E, [(0, 8), (15, 7)], fun w => .setem (field w 8 7)⟩,
   ⟨0x00F, 0x00F, [(0, 15), (21, 1)], fun w => .getem (field w 15 6)⟩,
   ⟨0x010, 0x010, [(1, 7), (21, 1)], fun w => .vote (field w 15 6) (field w 8 7) (flag w 0)⟩,
   ⟨0x011, 0x011, [(1, 7), (15, 1)], fun w => .any (field w 19 3) (field w 16 3) (field w 8 7) (flag w 0)⟩,
   ⟨0x012, 0x012, [(1, 7), (15, 1)], fun w => .all (field w 19 3) (field w 16 3) (field w 8 7) (flag w 0)⟩,
   ⟨0x013, 0x013, [(0, 1), (16, 6)], fun w => .gset (flag w 15) (field w 8 7) (field w 1 7)⟩,
   ⟨0x014, 0x014, [(6, 9)], fun w => .gets (flag w 21) (field w 15 6) (field w 0 6)⟩,
   ⟨0x015, 0x015, [(4, 4), (11, 4), (18, 4)], fun w => .pand (field w 15 3) (field w 8 3) (field w 1 3) (flag w 0)⟩,
   ⟨0x016, 0x016, [(4, 4), (11, 4), (18, 4)], fun w => .por (field w 15 3) (field w 8 3) (field w 1 3) (flag w 0)⟩,
   ⟨0x017, 0x017, [(4, 4), (11, 4), (18, 4)], fun w => .pxor (field w 15 3) (field w 8 3) (field w 1 3) (flag w 0)⟩,
   ⟨0x018, 0x018, [(1, 7), (11, 4), (18, 4)], fun w => .pnot (field w 15 3) (field w 8 3) (flag w 0)⟩,
   ⟨0x019, 0x019, [(1, 7), (11, 4), (18, 4)], fun w => .pmov (field w 15 3) (field w 8 3) (flag w 0)⟩,
   ⟨0x020, 0x021, [], fun w => .bra (flag w 22) (field w 19 3) (flag w 18) (field w 0 18)⟩,
   ⟨0x022, 0x023, [], fun w => .brc (flag w 22) (field w 19 3) (flag w 18) (field w 0 18)⟩,
   ⟨0x024, 0x024, [], fun w => .brg (field w 19 3) (flag w 18) (field w 9 9) (field w 0 9)⟩,
   ⟨0x025, 0x025, [(0, 8), (15, 7)], fun w => .jmpi (field w 8 7)⟩,
   ⟨0x026, 0x026, [], fun w => .call (field w 19 3) (flag w 18) (field w 0 18)⟩,
   ⟨0x027, 0x027, [(0, 8)], fun w => .callv (flag w 21) (field w 15 6) (field w 8 7)⟩,
   ⟨0x028, 0x028, [(0, 22)], fun _ => .ret⟩,
   ⟨0x029, 0x029, [(0, 15), (21, 1)], fun w => .retv (field w 15 6)⟩,
   ⟨0x02A, 0x02A, [], fun w => .loop (field w 15 7) (field w 0 15)⟩,
   ⟨0x02B, 0x02B, [], fun w => .lbrk (field w 19 3) (flag w 18) (field w 0 18)⟩]

/-- Group 1: CMP (05 R133). -/
def opcodeRows1 : List OpcodeRow :=
  [⟨0x040, 0x07F, [(15, 1)], fun w => .cmp (field w 25 3) (field w 22 3) (field w 19 3) (field w 16 3) (field w 8 7) (field w 1 7) (flag w 0)⟩]

/-- Group 2: integer and address (05 R133). -/
def opcodeRows2 : List OpcodeRow :=
  [⟨0x080, 0x080, [], fun w => .iadd (flag w 21) (field w 15 6) (field w 8 7) (field w 1 7) (flag w 0)⟩,
   ⟨0x081, 0x081, [], fun w => .isub (flag w 21) (field w 15 6) (field w 8 7) (field w 1 7) (flag w 0)⟩,
   ⟨0x082, 0x082, [], fun w => .iaddc (flag w 21) (field w 15 6) (field w 8 7) (field w 1 7) (flag w 0)⟩,
   ⟨0x083, 0x083, [], fun w => .isubb (flag w 21) (field w 15 6) (field w 8 7) (field w 1 7) (flag w 0)⟩,
   ⟨0x084, 0x084, [], fun w => .imul (flag w 21) (field w 15 6) (field w 8 7) (field w 1 7) (flag w 0)⟩,
   ⟨0x085, 0x085, [], fun w => .imulh (flag w 21) (field w 15 6) (field w 8 7) (field w 1 7) (flag w 0)⟩,
   ⟨0x086, 0x086, [], fun w => .imad (flag w 21) (field w 15 6) (field w 8 7) (field w 1 7) (flag w 0)⟩,
   ⟨0x087, 0x087, [(1, 7)], fun w => .iabs (flag w 21) (field w 15 6) (field w 8 7) (flag w 0)⟩,
   ⟨0x088, 0x088, [(1, 7)], fun w => .ineg (flag w 21) (field w 15 6) (field w 8 7) (flag w 0)⟩,
   ⟨0x089, 0x089, [], fun w => .imin (flag w 21) (field w 15 6) (field w 8 7) (field w 1 7) (flag w 0)⟩,
   ⟨0x08A, 0x08A, [], fun w => .imax (flag w 21) (field w 15 6) (field w 8 7) (field w 1 7) (flag w 0)⟩,
   ⟨0x08B, 0x08B, [], fun w => .isad (flag w 21) (field w 15 6) (field w 8 7) (field w 1 7) (flag w 0)⟩,
   ⟨0x08C, 0x08C, [], fun w => .and (flag w 21) (field w 15 6) (field w 8 7) (field w 1 7) (flag w 0)⟩,
   ⟨0x08D, 0x08D, [], fun w => .or (flag w 21) (field w 15 6) (field w 8 7) (field w 1 7) (flag w 0)⟩,
   ⟨0x08E, 0x08E, [], fun w => .xor (flag w 21) (field w 15 6) (field w 8 7) (field w 1 7) (flag w 0)⟩,
   ⟨0x08F, 0x08F, [], fun w => .andn (flag w 21) (field w 15 6) (field w 8 7) (field w 1 7) (flag w 0)⟩,
   ⟨0x090, 0x090, [], fun w => .shl (flag w 21) (field w 15 6) (field w 8 7) (field w 1 7) (flag w 0)⟩,
   ⟨0x091, 0x091, [], fun w => .shr (flag w 21) (field w 15 6) (field w 8 7) (field w 1 7) (flag w 0)⟩,
   ⟨0x092, 0x092, [], fun w => .sar (flag w 21) (field w 15 6) (field w 8 7) (field w 1 7) (flag w 0)⟩,
   ⟨0x093, 0x093, [], fun w => .rot (flag w 21) (field w 15 6) (field w 8 7) (field w 1 7) (flag w 0)⟩,
   ⟨0x094, 0x094, [], fun w => .fshl (flag w 21) (field w 15 6) (field w 8 7) (field w 1 7) (flag w 0)⟩,
   ⟨0x095, 0x095, [], fun w => .bfe (flag w 21) (field w 15 6) (field w 8 7) (field w 1 7) (flag w 0)⟩,
   ⟨0x096, 0x096, [], fun w => .bfi (flag w 21) (field w 15 6) (field w 8 7) (field w 1 7) (flag w 0)⟩,
   ⟨0x097, 0x097, [(1, 7)], fun w => .popc (flag w 21) (field w 15 6) (field w 8 7) (flag w 0)⟩,
   ⟨0x098, 0x098, [(1, 7)], fun w => .clz (flag w 21) (field w 15 6) (field w 8 7) (flag w 0)⟩,
   ⟨0x099, 0x099, [(1, 7)], fun w => .ctz (flag w 21) (field w 15 6) (field w 8 7) (flag w 0)⟩,
   ⟨0x09A, 0x09A, [(1, 7)], fun w => .brev (flag w 21) (field w 15 6) (field w 8 7) (flag w 0)⟩,
   ⟨0x09B, 0x09B, [], fun w => .bperm (flag w 21) (field w 15 6) (field w 8 7) (field w 1 7) (flag w 0)⟩,
   ⟨0x09C, 0x09C, [], fun w => .lea (flag w 21) (field w 15 6) (field w 8 7) (field w 1 7) (flag w 0)⟩,
   ⟨0x09D, 0x09D, [(1, 7)], fun w => .mov (flag w 21) (field w 15 6) (field w 8 7) (flag w 0)⟩,
   ⟨0x09E, 0x09E, [], fun w => .sel (flag w 21) (field w 15 6) (field w 8 7) (field w 1 7) (flag w 0)⟩,
   ⟨0x09F, 0x09F, [], fun w => .idot4 (flag w 21) (field w 15 6) (field w 8 7) (field w 1 7) (flag w 0)⟩,
   ⟨0x0A0, 0x0A0, [], fun w => .iaddImm (flag w 21) (field w 15 6) (field w 8 7) (field w 1 7) (flag w 0)⟩,
   ⟨0x0A1, 0x0A1, [], fun w => .imulImm (flag w 21) (field w 15 6) (field w 8 7) (field w 1 7) (flag w 0)⟩,
   ⟨0x0A2, 0x0A2, [], fun w => .iminImm (flag w 21) (field w 15 6) (field w 8 7) (field w 1 7) (flag w 0)⟩,
   ⟨0x0A3, 0x0A3, [], fun w => .imaxImm (flag w 21) (field w 15 6) (field w 8 7) (field w 1 7) (flag w 0)⟩,
   ⟨0x0A4, 0x0A4, [], fun w => .andImm (flag w 21) (field w 15 6) (field w 8 7) (field w 1 7) (flag w 0)⟩,
   ⟨0x0A5, 0x0A5, [], fun w => .orImm (flag w 21) (field w 15 6) (field w 8 7) (field w 1 7) (flag w 0)⟩,
   ⟨0x0A6, 0x0A6, [], fun w => .xorImm (flag w 21) (field w 15 6) (field w 8 7) (field w 1 7) (flag w 0)⟩,
   ⟨0x0A7, 0x0A7, [], fun w => .andnImm (flag w 21) (field w 15 6) (field w 8 7) (field w 1 7) (flag w 0)⟩,
   ⟨0x0A8, 0x0A8, [], fun w => .shlImm (flag w 21) (field w 15 6) (field w 8 7) (field w 1 7) (flag w 0)⟩,
   ⟨0x0A9, 0x0A9, [], fun w => .shrImm (flag w 21) (field w 15 6) (field w 8 7) (field w 1 7) (flag w 0)⟩,
   ⟨0x0AA, 0x0AA, [], fun w => .sarImm (flag w 21) (field w 15 6) (field w 8 7) (field w 1 7) (flag w 0)⟩,
   ⟨0x0AB, 0x0AB, [], fun w => .rotImm (flag w 21) (field w 15 6) (field w 8 7) (field w 1 7) (flag w 0)⟩,
   ⟨0x0AC, 0x0AC, [], fun w => .leaImm (flag w 21) (field w 15 6) (field w 8 7) (field w 1 7) (flag w 0)⟩,
   ⟨0x0AD, 0x0AD, [], fun w => .bfeImm (flag w 21) (field w 15 6) (field w 8 7) (field w 1 7) (flag w 0)⟩,
   ⟨0x0B0, 0x0B0, [], fun w => .lim (flag w 21) (field w 15 6) (field w 0 15)⟩,
   ⟨0x0B1, 0x0B1, [], fun w => .limh (flag w 21) (field w 15 6) (field w 0 15)⟩]

/-- Group 3: floating point, conversion, frozen functions, cross-lane (05 R133). -/
def opcodeRows3 : List OpcodeRow :=
  [⟨0x0C0, 0x0C0, [], fun w => .fadd (flag w 21) (field w 15 6) (field w 8 7) (field w 1 7) (flag w 0)⟩,
   ⟨0x0C1, 0x0C1, [], fun w => .fsub (flag w 21) (field w 15 6) (field w 8 7) (field w 1 7) (flag w 0)⟩,
   ⟨0x0C2, 0x0C2, [], fun w => .fmul (flag w 21) (field w 15 6) (field w 8 7) (field w 1 7) (flag w 0)⟩,
   ⟨0x0C3, 0x0C3, [], fun w => .ffma (flag w 21) (field w 15 6) (field w 8 7) (field w 1 7) (flag w 0)⟩,
   ⟨0x0C4, 0x0C4, [], fun w => .fmin (flag w 21) (field w 15 6) (field w 8 7) (field w 1 7) (flag w 0)⟩,
   ⟨0x0C5, 0x0C5, [], fun w => .fmax (flag w 21) (field w 15 6) (field w 8 7) (field w 1 7) (flag w 0)⟩,
   ⟨0x0C6, 0x0C6, [(1, 7)], fun w => .fabs (flag w 21) (field w 15 6) (field w 8 7) (flag w 0)⟩,
   ⟨0x0C7, 0x0C7, [(1, 7)], fun w => .fneg (flag w 21) (field w 15 6) (field w 8 7) (flag w 0)⟩,
   ⟨0x0C8, 0x0C8, [(1, 7)], fun w => .fclass (flag w 21) (field w 15 6) (field w 8 7) (flag w 0)⟩,
   ⟨0x0C9, 0x0C9, [(1, 7)], fun w => .frnd (flag w 21) (field w 15 6) (field w 8 7) (flag w 0)⟩,
   ⟨0x0CA, 0x0CA, [], fun w => .fscale (flag w 21) (field w 15 6) (field w 8 7) (field w 1 7) (flag w 0)⟩,
   ⟨0x0CB, 0x0CB, [(0, 1), (4, 4)], fun w => .cvt (flag w 21) (field w 15 6) (field w 8 7) (field w 1 3)⟩,
   ⟨0x0CC, 0x0CC, [(0, 1), (2, 6)], fun w => .fqblk (flag w 21) (field w 15 6) (field w 8 7) (flag w 1)⟩,
   ⟨0x0CD, 0x0CD, [(0, 1), (2, 6)], fun w => .fsplit3 (flag w 21) (field w 15 6) (field w 8 7) (flag w 1)⟩,
   ⟨0x0D0, 0x0D0, [(1, 7)], fun w => .frcp (flag w 21) (field w 15 6) (field w 8 7) (flag w 0)⟩,
   ⟨0x0D1, 0x0D1, [(1, 7)], fun w => .frsq (flag w 21) (field w 15 6) (field w 8 7) (flag w 0)⟩,
   ⟨0x0D2, 0x0D2, [(1, 7)], fun w => .fexp2 (flag w 21) (field w 15 6) (field w 8 7) (flag w 0)⟩,
   ⟨0x0D3, 0x0D3, [(1, 7)], fun w => .flog2 (flag w 21) (field w 15 6) (field w 8 7) (flag w 0)⟩,
   ⟨0x0D4, 0x0D4, [(1, 7)], fun w => .fsinp (flag w 21) (field w 15 6) (field w 8 7) (flag w 0)⟩,
   ⟨0x0D5, 0x0D5, [(1, 7)], fun w => .fcosp (flag w 21) (field w 15 6) (field w 8 7) (flag w 0)⟩,
   ⟨0x0D6, 0x0D6, [(1, 7)], fun w => .ftanh (flag w 21) (field w 15 6) (field w 8 7) (flag w 0)⟩,
   ⟨0x0E0, 0x0E0, [], fun w => .lget (flag w 21) (field w 15 6) (field w 8 7) (field w 1 7) (flag w 0)⟩,
   ⟨0x0E1, 0x0E1, [], fun w => .lflip (flag w 21) (field w 15 6) (field w 8 7) (field w 1 7) (flag w 0)⟩,
   ⟨0x0E2, 0x0E2, [], fun w => .lprev (flag w 21) (field w 15 6) (field w 8 7) (field w 1 7) (flag w 0)⟩,
   ⟨0x0E3, 0x0E3, [], fun w => .lnext (flag w 21) (field w 15 6) (field w 8 7) (field w 1 7) (flag w 0)⟩,
   ⟨0x0E4, 0x0E4, [], fun w => .bcast (flag w 21) (field w 15 6) (field w 8 7) (field w 1 7) (flag w 0)⟩,
   ⟨0x0E5, 0x0E5, [(5, 3)], fun w => .cred (flag w 21) (field w 15 6) (field w 8 7) (field w 1 4) (flag w 0)⟩,
   ⟨0x0E6, 0x0E6, [(6, 2)], fun w => .cscan (flag w 21) (field w 15 6) (field w 8 7) (flag w 5) (field w 1 4) (flag w 0)⟩,
   ⟨0x0E7, 0x0E7, [(1, 7)], fun w => .lpeer (flag w 21) (field w 15 6) (field w 8 7) (flag w 0)⟩,
   ⟨0x0E8, 0x0E8, [], fun w => .lgetImm (flag w 21) (field w 15 6) (field w 8 7) (field w 1 7) (flag w 0)⟩,
   ⟨0x0E9, 0x0E9, [], fun w => .lflipImm (flag w 21) (field w 15 6) (field w 8 7) (field w 1 7) (flag w 0)⟩,
   ⟨0x0EA, 0x0EA, [], fun w => .lprevImm (flag w 21) (field w 15 6) (field w 8 7) (field w 1 7) (flag w 0)⟩,
   ⟨0x0EB, 0x0EB, [], fun w => .lnextImm (flag w 21) (field w 15 6) (field w 8 7) (field w 1 7) (flag w 0)⟩,
   ⟨0x0EC, 0x0EC, [], fun w => .bcastImm (flag w 21) (field w 15 6) (field w 8 7) (field w 1 7) (flag w 0)⟩]

/-- Group 4: loads and stores (05 R133). -/
def opcodeRows4 : List OpcodeRow :=
  [⟨0x100, 0x103, [], fun w => .ld (field w 22 2) (flag w 21) (field w 15 6) (field w 8 7) (field w 1 7) (flag w 0)⟩,
   ⟨0x104, 0x107, [(21, 1)], fun w => .st (field w 22 2) (field w 15 6) (field w 8 7) (field w 1 7) (flag w 0)⟩,
   ⟨0x108, 0x10B, [(21, 1)], fun w => .ldu (field w 22 2) (field w 15 6) (field w 8 7) (field w 1 7) (flag w 0)⟩,
   ⟨0x10C, 0x10F, [(21, 1)], fun w => .stu (field w 22 2) (field w 15 6) (field w 8 7) (field w 1 7) (flag w 0)⟩,
   ⟨0x110, 0x110, [], fun w => .lds (flag w 21) (field w 15 6) (field w 8 7) (field w 1 7) (flag w 0)⟩,
   ⟨0x111, 0x111, [(21, 1)], fun w => .sts (field w 15 6) (field w 8 7) (field w 1 7) (flag w 0)⟩,
   ⟨0x114, 0x117, [(17, 5)], fun w => .ldq (field w 22 2) (field w 15 2) (field w 8 7) (field w 1 7) (flag w 0)⟩,
   ⟨0x118, 0x11B, [(17, 5)], fun w => .stq (field w 22 2) (field w 15 2) (field w 8 7) (field w 1 7) (flag w 0)⟩]

/-- Group 5: atomics, fences, copies, barriers, cache, stream ports (05 R133). -/
def opcodeRows5 : List OpcodeRow :=
  [⟨0x140, 0x148, [], fun w => .atom (field w 22 4) (flag w 21) (field w 15 6) (field w 8 7) (field w 1 7) (flag w 0)⟩,
   ⟨0x150, 0x156, [(21, 1)], fun w => .red (field w 22 3) (field w 15 6) (field w 8 7) (field w 1 7) (flag w 0)⟩,
   ⟨0x157, 0x157, [], fun w => .claim (flag w 21) (field w 15 6) (field w 8 7) (field w 1 7) (flag w 0)⟩,
   ⟨0x158, 0x158, [(6, 16)], fun w => .fence (field w 2 4) (field w 0 2)⟩,
   ⟨0x160, 0x161, [], fun w => .cpy (flag w 22) (flag w 21) (field w 18 3) (field w 11 7) (field w 4 7) (field w 0 4)⟩,
   ⟨0x162, 0x163, [], fun w => .tcopy (flag w 22) (flag w 21) (field w 18 3) (field w 11 7) (field w 4 7) (field w 0 4)⟩,
   ⟨0x164, 0x164, [(0, 15), (21, 1)], fun w => .cseal (field w 15 6)⟩,
   ⟨0x165, 0x165, [(7, 8), (21, 1)], fun w => .cwait (field w 15 6) (field w 0 7)⟩,
   ⟨0x166, 0x166, [(6, 9), (21, 1)], fun w => .cwaitn (field w 15 6) (field w 0 6)⟩,
   ⟨0x168, 0x168, [(21, 1)], fun w => .barinit (field w 15 6) (field w 8 7) (field w 1 7) (flag w 0)⟩,
   ⟨0x169, 0x169, [(21, 1)], fun w => .bararr (field w 15 6) (field w 8 7) (field w 1 7) (flag w 0)⟩,
   ⟨0x16A, 0x16A, [], fun w => .barwait (flag w 21) (field w 15 6) (field w 8 7) (field w 1 7) (flag w 0)⟩,
   ⟨0x16B, 0x16B, [(1, 7)], fun w => .bartry (flag w 21) (field w 15 6) (field w 8 7) (flag w 0)⟩,
   ⟨0x16C, 0x16C, [(0, 22)], fun _ => .gbar⟩,
   ⟨0x170, 0x170, [(2, 6), (15, 7)], fun w => .pref (field w 8 7) (flag w 1) (flag w 0)⟩,
   ⟨0x171, 0x171, [(2, 6), (15, 7)], fun w => .cinv (field w 8 7) (flag w 1) (flag w 0)⟩,
   ⟨0x172, 0x172, [(2, 6), (15, 7)], fun w => .cflush (field w 8 7) (flag w 1) (flag w 0)⟩,
   ⟨0x174, 0x174, [(1, 7), (18, 4)], fun w => .spbind (flag w 17) (field w 15 2) (field w 8 7) (flag w 0)⟩,
   ⟨0x175, 0x175, [(4, 11), (21, 1)], fun w => .sppos (field w 15 6) (flag w 3) (flag w 2) (field w 0 2)⟩]

/-- Group 6: matrix and residue (05 R133). -/
def opcodeRows6 : List OpcodeRow :=
  [⟨0x180, 0x181, [(0, 4)], fun w => .wload (flag w 22) (flag w 21) (field w 18 3) (field w 11 7) (flag w 10) (field w 4 6)⟩,
   ⟨0x182, 0x183, [], fun w => .qmma (flag w 22) (flag w 21) (field w 18 3) (field w 11 7) (flag w 10) (field w 4 6) (field w 0 4)⟩,
   ⟨0x184, 0x185, [], fun w => .qmmar (flag w 22) (flag w 21) (field w 18 3) (field w 11 7) (flag w 10) (field w 4 6) (field w 0 4)⟩,
   ⟨0x186, 0x186, [(4, 6), (11, 7)], fun w => .accz (flag w 21) (field w 18 3) (flag w 10) (field w 0 4)⟩,
   ⟨0x187, 0x187, [(4, 5)], fun w => .accld (flag w 21) (field w 18 3) (field w 11 7) (flag w 10) (flag w 9) (field w 0 4)⟩,
   ⟨0x188, 0x188, [(4, 5)], fun w => .accst (flag w 21) (field w 18 3) (field w 11 7) (flag w 10) (flag w 9) (field w 0 4)⟩,
   ⟨0x189, 0x189, [(6, 9), (21, 1)], fun w => .twait (field w 15 6) (flag w 5) (flag w 4) (field w 0 4)⟩,
   ⟨0x18A, 0x18A, [(0, 4), (10, 8)], fun w => .wfree (flag w 21) (field w 18 3) (field w 4 6)⟩,
   ⟨0x190, 0x190, [(13, 2)], fun w => .accrd (flag w 21) (field w 15 6) (flag w 12) (field w 8 4) (field w 1 7) (flag w 0)⟩,
   ⟨0x191, 0x191, [(1, 7)], fun w => .rnsf (flag w 21) (field w 15 6) (field w 8 7) (flag w 0)⟩,
   ⟨0x192, 0x192, [(1, 7)], fun w => .rnsr (flag w 21) (field w 15 6) (field w 8 7) (flag w 0)⟩,
   ⟨0x193, 0x193, [(1, 7)], fun w => .rnsc (flag w 21) (field w 15 6) (field w 8 7) (flag w 0)⟩,
   ⟨0x194, 0x194, [], fun w => .rnsmul (flag w 21) (field w 15 6) (field w 8 7) (field w 1 7) (flag w 0)⟩,
   ⟨0x195, 0x195, [], fun w => .rnsadd (flag w 21) (field w 15 6) (field w 8 7) (field w 1 7) (flag w 0)⟩]

/-- Group 7: sort, select, witness, graph, collective (05 R133). -/
def opcodeRows7 : List OpcodeRow :=
  [⟨0x1C0, 0x1C0, [(2, 6), (21, 1)], fun w => .vsort (field w 15 6) (field w 8 7) (flag w 1) (flag w 0)⟩,
   ⟨0x1C1, 0x1C1, [(3, 5), (21, 1)], fun w => .vmerge (field w 15 6) (field w 8 7) (flag w 2) (flag w 1) (flag w 0)⟩,
   ⟨0x1C2, 0x1C2, [(21, 1)], fun w => .vtopk (field w 15 6) (field w 8 7) (flag w 7) (field w 1 6) (flag w 0)⟩,
   ⟨0x1C3, 0x1C3, [(21, 1)], fun w => .vselth (field w 15 6) (field w 8 7) (field w 1 7) (flag w 0)⟩,
   ⟨0x1D0, 0x1D0, [(2, 6), (21, 1)], fun w => .sopen (field w 15 6) (field w 8 7) (flag w 1) (flag w 0)⟩,
   ⟨0x1D1, 0x1D1, [(1, 7), (21, 1)], fun w => .sseal (field w 15 6) (field w 8 7) (flag w 0)⟩,
   ⟨0x1D2, 0x1D2, [(0, 15), (21, 1)], fun w => .wseed (field w 15 6)⟩,
   ⟨0x1D3, 0x1D3, [(5, 3), (15, 7)], fun w => .wput (field w 8 7) (field w 1 4) (flag w 0)⟩,
   ⟨0x1D4, 0x1D4, [(1, 7)], fun w => .whash (flag w 21) (field w 15 6) (field w 8 7) (flag w 0)⟩,
   ⟨0x1D5, 0x1D5, [], fun w => .wproj (flag w 21) (field w 15 6) (field w 8 7) (field w 1 7) (flag w 0)⟩,
   ⟨0x1E0, 0x1E0, [(1, 7), (15, 7)], fun w => .launch (field w 8 7) (flag w 0)⟩,
   ⟨0x1E1, 0x1E1, [(0, 22)], fun _ => .trig⟩,
   ⟨0x1E2, 0x1E2, [(0, 22)], fun _ => .waitd⟩,
   ⟨0x1E8, 0x1E8, [(4, 7)], fun w => .coll (flag w 21) (field w 18 3) (field w 11 7) (field w 0 4)⟩,
   ⟨0x1E9, 0x1E9, [(7, 8), (21, 1)], fun w => .collw (field w 15 6) (field w 0 7)⟩]

/-- Group 10: U-forms, integer and address (05 R133). -/
def opcodeRows10 : List OpcodeRow :=
  [⟨0x280, 0x280, [(21, 1)], fun w => .iaddU (field w 15 6) (field w 8 7) (field w 1 7) (flag w 0)⟩,
   ⟨0x281, 0x281, [(21, 1)], fun w => .isubU (field w 15 6) (field w 8 7) (field w 1 7) (flag w 0)⟩,
   ⟨0x282, 0x282, [(21, 1)], fun w => .iaddcU (field w 15 6) (field w 8 7) (field w 1 7) (flag w 0)⟩,
   ⟨0x283, 0x283, [(21, 1)], fun w => .isubbU (field w 15 6) (field w 8 7) (field w 1 7) (flag w 0)⟩,
   ⟨0x284, 0x284, [(21, 1)], fun w => .imulU (field w 15 6) (field w 8 7) (field w 1 7) (flag w 0)⟩,
   ⟨0x285, 0x285, [(21, 1)], fun w => .imulhU (field w 15 6) (field w 8 7) (field w 1 7) (flag w 0)⟩,
   ⟨0x286, 0x286, [(21, 1)], fun w => .imadU (field w 15 6) (field w 8 7) (field w 1 7) (flag w 0)⟩,
   ⟨0x287, 0x287, [(1, 7), (21, 1)], fun w => .iabsU (field w 15 6) (field w 8 7) (flag w 0)⟩,
   ⟨0x288, 0x288, [(1, 7), (21, 1)], fun w => .inegU (field w 15 6) (field w 8 7) (flag w 0)⟩,
   ⟨0x289, 0x289, [(21, 1)], fun w => .iminU (field w 15 6) (field w 8 7) (field w 1 7) (flag w 0)⟩,
   ⟨0x28A, 0x28A, [(21, 1)], fun w => .imaxU (field w 15 6) (field w 8 7) (field w 1 7) (flag w 0)⟩,
   ⟨0x28B, 0x28B, [(21, 1)], fun w => .isadU (field w 15 6) (field w 8 7) (field w 1 7) (flag w 0)⟩,
   ⟨0x28C, 0x28C, [(21, 1)], fun w => .andU (field w 15 6) (field w 8 7) (field w 1 7) (flag w 0)⟩,
   ⟨0x28D, 0x28D, [(21, 1)], fun w => .orU (field w 15 6) (field w 8 7) (field w 1 7) (flag w 0)⟩,
   ⟨0x28E, 0x28E, [(21, 1)], fun w => .xorU (field w 15 6) (field w 8 7) (field w 1 7) (flag w 0)⟩,
   ⟨0x28F, 0x28F, [(21, 1)], fun w => .andnU (field w 15 6) (field w 8 7) (field w 1 7) (flag w 0)⟩,
   ⟨0x290, 0x290, [(21, 1)], fun w => .shlU (field w 15 6) (field w 8 7) (field w 1 7) (flag w 0)⟩,
   ⟨0x291, 0x291, [(21, 1)], fun w => .shrU (field w 15 6) (field w 8 7) (field w 1 7) (flag w 0)⟩,
   ⟨0x292, 0x292, [(21, 1)], fun w => .sarU (field w 15 6) (field w 8 7) (field w 1 7) (flag w 0)⟩,
   ⟨0x293, 0x293, [(21, 1)], fun w => .rotU (field w 15 6) (field w 8 7) (field w 1 7) (flag w 0)⟩,
   ⟨0x294, 0x294, [(21, 1)], fun w => .fshlU (field w 15 6) (field w 8 7) (field w 1 7) (flag w 0)⟩,
   ⟨0x295, 0x295, [(21, 1)], fun w => .bfeU (field w 15 6) (field w 8 7) (field w 1 7) (flag w 0)⟩,
   ⟨0x296, 0x296, [(21, 1)], fun w => .bfiU (field w 15 6) (field w 8 7) (field w 1 7) (flag w 0)⟩,
   ⟨0x297, 0x297, [(1, 7), (21, 1)], fun w => .popcU (field w 15 6) (field w 8 7) (flag w 0)⟩,
   ⟨0x298, 0x298, [(1, 7), (21, 1)], fun w => .clzU (field w 15 6) (field w 8 7) (flag w 0)⟩,
   ⟨0x299, 0x299, [(1, 7), (21, 1)], fun w => .ctzU (field w 15 6) (field w 8 7) (flag w 0)⟩,
   ⟨0x29A, 0x29A, [(1, 7), (21, 1)], fun w => .brevU (field w 15 6) (field w 8 7) (flag w 0)⟩,
   ⟨0x29B, 0x29B, [(21, 1)], fun w => .bpermU (field w 15 6) (field w 8 7) (field w 1 7) (flag w 0)⟩,
   ⟨0x29C, 0x29C, [(21, 1)], fun w => .leaU (field w 15 6) (field w 8 7) (field w 1 7) (flag w 0)⟩,
   ⟨0x29D, 0x29D, [(1, 7), (21, 1)], fun w => .movU (field w 15 6) (field w 8 7) (flag w 0)⟩,
   ⟨0x29E, 0x29E, [(21, 1)], fun w => .selU (field w 15 6) (field w 8 7) (field w 1 7) (flag w 0)⟩,
   ⟨0x29F, 0x29F, [(21, 1)], fun w => .idot4U (field w 15 6) (field w 8 7) (field w 1 7) (flag w 0)⟩,
   ⟨0x2A0, 0x2A0, [(21, 1)], fun w => .iaddImmU (field w 15 6) (field w 8 7) (field w 1 7) (flag w 0)⟩,
   ⟨0x2A1, 0x2A1, [(21, 1)], fun w => .imulImmU (field w 15 6) (field w 8 7) (field w 1 7) (flag w 0)⟩,
   ⟨0x2A2, 0x2A2, [(21, 1)], fun w => .iminImmU (field w 15 6) (field w 8 7) (field w 1 7) (flag w 0)⟩,
   ⟨0x2A3, 0x2A3, [(21, 1)], fun w => .imaxImmU (field w 15 6) (field w 8 7) (field w 1 7) (flag w 0)⟩,
   ⟨0x2A4, 0x2A4, [(21, 1)], fun w => .andImmU (field w 15 6) (field w 8 7) (field w 1 7) (flag w 0)⟩,
   ⟨0x2A5, 0x2A5, [(21, 1)], fun w => .orImmU (field w 15 6) (field w 8 7) (field w 1 7) (flag w 0)⟩,
   ⟨0x2A6, 0x2A6, [(21, 1)], fun w => .xorImmU (field w 15 6) (field w 8 7) (field w 1 7) (flag w 0)⟩,
   ⟨0x2A7, 0x2A7, [(21, 1)], fun w => .andnImmU (field w 15 6) (field w 8 7) (field w 1 7) (flag w 0)⟩,
   ⟨0x2A8, 0x2A8, [(21, 1)], fun w => .shlImmU (field w 15 6) (field w 8 7) (field w 1 7) (flag w 0)⟩,
   ⟨0x2A9, 0x2A9, [(21, 1)], fun w => .shrImmU (field w 15 6) (field w 8 7) (field w 1 7) (flag w 0)⟩,
   ⟨0x2AA, 0x2AA, [(21, 1)], fun w => .sarImmU (field w 15 6) (field w 8 7) (field w 1 7) (flag w 0)⟩,
   ⟨0x2AB, 0x2AB, [(21, 1)], fun w => .rotImmU (field w 15 6) (field w 8 7) (field w 1 7) (flag w 0)⟩,
   ⟨0x2AC, 0x2AC, [(21, 1)], fun w => .leaImmU (field w 15 6) (field w 8 7) (field w 1 7) (flag w 0)⟩,
   ⟨0x2AD, 0x2AD, [(21, 1)], fun w => .bfeImmU (field w 15 6) (field w 8 7) (field w 1 7) (flag w 0)⟩,
   ⟨0x2B0, 0x2B0, [(21, 1)], fun w => .limU (field w 15 6) (field w 0 15)⟩,
   ⟨0x2B1, 0x2B1, [(21, 1)], fun w => .limhU (field w 15 6) (field w 0 15)⟩]

/-- Group 11: U-forms, floating point, conversion and frozen functions (05 R133). -/
def opcodeRows11 : List OpcodeRow :=
  [⟨0x2C0, 0x2C0, [(21, 1)], fun w => .faddU (field w 15 6) (field w 8 7) (field w 1 7) (flag w 0)⟩,
   ⟨0x2C1, 0x2C1, [(21, 1)], fun w => .fsubU (field w 15 6) (field w 8 7) (field w 1 7) (flag w 0)⟩,
   ⟨0x2C2, 0x2C2, [(21, 1)], fun w => .fmulU (field w 15 6) (field w 8 7) (field w 1 7) (flag w 0)⟩,
   ⟨0x2C3, 0x2C3, [(21, 1)], fun w => .ffmaU (field w 15 6) (field w 8 7) (field w 1 7) (flag w 0)⟩,
   ⟨0x2C4, 0x2C4, [(21, 1)], fun w => .fminU (field w 15 6) (field w 8 7) (field w 1 7) (flag w 0)⟩,
   ⟨0x2C5, 0x2C5, [(21, 1)], fun w => .fmaxU (field w 15 6) (field w 8 7) (field w 1 7) (flag w 0)⟩,
   ⟨0x2C6, 0x2C6, [(1, 7), (21, 1)], fun w => .fabsU (field w 15 6) (field w 8 7) (flag w 0)⟩,
   ⟨0x2C7, 0x2C7, [(1, 7), (21, 1)], fun w => .fnegU (field w 15 6) (field w 8 7) (flag w 0)⟩,
   ⟨0x2C8, 0x2C8, [(1, 7), (21, 1)], fun w => .fclassU (field w 15 6) (field w 8 7) (flag w 0)⟩,
   ⟨0x2C9, 0x2C9, [(1, 7), (21, 1)], fun w => .frndU (field w 15 6) (field w 8 7) (flag w 0)⟩,
   ⟨0x2CA, 0x2CA, [(21, 1)], fun w => .fscaleU (field w 15 6) (field w 8 7) (field w 1 7) (flag w 0)⟩,
   ⟨0x2CB, 0x2CB, [(0, 1), (4, 4), (21, 1)], fun w => .cvtU (field w 15 6) (field w 8 7) (field w 1 3)⟩,
   ⟨0x2D0, 0x2D0, [(1, 7), (21, 1)], fun w => .frcpU (field w 15 6) (field w 8 7) (flag w 0)⟩,
   ⟨0x2D1, 0x2D1, [(1, 7), (21, 1)], fun w => .frsqU (field w 15 6) (field w 8 7) (flag w 0)⟩,
   ⟨0x2D2, 0x2D2, [(1, 7), (21, 1)], fun w => .fexp2U (field w 15 6) (field w 8 7) (flag w 0)⟩,
   ⟨0x2D3, 0x2D3, [(1, 7), (21, 1)], fun w => .flog2U (field w 15 6) (field w 8 7) (flag w 0)⟩,
   ⟨0x2D4, 0x2D4, [(1, 7), (21, 1)], fun w => .fsinpU (field w 15 6) (field w 8 7) (flag w 0)⟩,
   ⟨0x2D5, 0x2D5, [(1, 7), (21, 1)], fun w => .fcospU (field w 15 6) (field w 8 7) (flag w 0)⟩,
   ⟨0x2D6, 0x2D6, [(1, 7), (21, 1)], fun w => .ftanhU (field w 15 6) (field w 8 7) (flag w 0)⟩]

/-- Group 15: privileged (05 R133). -/
def opcodeRows15 : List OpcodeRow :=
  [⟨0x3C0, 0x3C0, [(7, 8), (21, 1)], fun w => .mfp (field w 15 6) (field w 0 7)⟩,
   ⟨0x3C1, 0x3C1, [(0, 1), (15, 7)], fun w => .mtp (field w 8 7) (field w 1 7)⟩,
   ⟨0x3C2, 0x3C2, [(2, 13), (21, 1)], fun w => .eret (field w 15 6) (field w 0 2)⟩,
   ⟨0x3C3, 0x3C3, [(0, 1), (7, 1), (15, 7)], fun w => .tlbinv (field w 8 7) (field w 5 2) (field w 1 4)⟩,
   ⟨0x3C4, 0x3C4, [(0, 1), (3, 5), (21, 1)], fun w => .ctxsave (field w 15 6) (field w 8 7) (flag w 2) (flag w 1)⟩,
   ⟨0x3C5, 0x3C5, [(0, 8), (21, 1)], fun w => .ctxload (field w 15 6) (field w 8 7)⟩,
   ⟨0x3C6, 0x3C6, [(0, 1), (3, 5), (21, 1)], fun w => .park (field w 15 6) (field w 8 7) (field w 1 2)⟩,
   ⟨0x3C7, 0x3C7, [(0, 8), (21, 1)], fun w => .unpark (field w 15 6) (field w 8 7)⟩,
   ⟨0x3C8, 0x3C8, [(0, 15), (21, 1)], fun w => .shedack (field w 15 6)⟩,
   ⟨0x3C9, 0x3C9, [(3, 5)], fun w => .declass (flag w 21) (field w 15 6) (field w 8 7) (field w 1 2) (flag w 0)⟩,
   ⟨0x3CA, 0x3CA, [(0, 1), (15, 7)], fun w => .ovloadp (field w 8 7) (field w 1 7)⟩,
   ⟨0x3CB, 0x3CB, [(15, 7)], fun w => .halt (field w 0 15)⟩]

/-- The rows of the group that opcode bits 31:28 select (05 R133). -/
def groupRows (group : Nat) : List OpcodeRow :=
  match group with
  | 0 => opcodeRows0
  | 1 => opcodeRows1
  | 2 => opcodeRows2
  | 3 => opcodeRows3
  | 4 => opcodeRows4
  | 5 => opcodeRows5
  | 6 => opcodeRows6
  | 7 => opcodeRows7
  | 10 => opcodeRows10
  | 11 => opcodeRows11
  | 15 => opcodeRows15
  | _ => []

/-- The row that assigns an opcode. -/
def findRow (op : Nat) : List OpcodeRow → Option OpcodeRow
  | [] => none
  | r :: rest => if r.first ≤ op ∧ op ≤ r.last then some r else findRow op rest

/-- The row of the map for an opcode, none for an unassigned one (05 R133). -/
def rowOf (op : Nat) : Option OpcodeRow := findRow op (groupRows (op / 64))

/-- Every reserved field of the row is zero in the word (05 R121). -/
def reservedClear (w : Word) (r : OpcodeRow) : Bool :=
  r.reserved.all fun f => w.toNat / 2 ^ f.1 % 2 ^ f.2 == 0

/-- The instruction a word holds. An unassigned opcode is the instruction of the map's last row, which
traps at every level (05 R137); a nonzero reserved bit is refused by name (05 R121). -/
def decode (w : Word) : Except DecodeError Instr :=
  match rowOf (w.toNat / 2 ^ 22) with
  | none => .ok .unassignedOpcode
  | some r =>
    if reservedClear w r then
      let i := r.make w
      if i.wf then .ok i else .error .reservedBits
    else .error .reservedBits

/-- A word from its bytes, little-endian (05 R119). -/
def leWord (b0 b1 b2 b3 : Byte) : Word :=
  wordOf (b0.toNat + b1.toNat * 0x100 + b2.toNat * 0x10000 + b3.toNat * 0x1000000)

/-- The instruction at the front of a list of bytes, with the bytes after it. -/
def decodeBytes : List Byte → Except DecodeError (Instr × List Byte)
  | b0 :: b1 :: b2 :: b3 :: rest =>
    match decode (leWord b0 b1 b2 b3) with
    | .ok i => .ok (i, rest)
    | .error e => .error e
  | _ => .error .tooShort

/-- The bytes of a word as code memory holds them (05 R119). -/
def wordBytes (w : Word) : List Byte :=
  [BitVec.ofNat 8 w.toNat, BitVec.ofNat 8 (w.toNat / 0x100), BitVec.ofNat 8 (w.toNat / 0x10000),
   BitVec.ofNat 8 (w.toNat / 0x1000000)]

/-- The instruction whose word is w, as the opcode table numbers its bits: every instruction is one word. -/
def decodeTableWord (nbits w : Nat) : Option Instr :=
  match decodeBytes (wordBytes (BitVec.ofNat 32 (w % 2 ^ nbits))) with
  | .ok (i, _) => some i
  | .error _ => none

/-- The word of an instruction, from the formats of 05 R120; none for a step of the device.
BRK and TRAP stand with a zero immediate: the word in hand gives it. -/
def encode : Instr → Option Word
  | .nop => some (wordOf (0x00000000))
  | .yield => some (wordOf (0x00400000))
  | .exit => some (wordOf (0x00800000))
  | .brk => some (wordOf (0x00C00000))
  | .trap => some (wordOf (0x01000000))
  | .tret d redir => some (wordOf (0x01400000 + d.toNat * 32768 + redir.toNat * 1))
  | .isync => some (wordOf (0x01800000))
  | .ovload a imm => some (wordOf (0x01C00000 + a.toNat * 256 + imm.toNat * 2))
  | .ovcall a imm => some (wordOf (0x02000000 + a.toNat * 256 + imm.toNat * 2))
  | .mode image => some (wordOf (0x02400000 + image.toNat * 1))
  | .modeM1 image => some (wordOf (0x02800000 + image.toNat * 1))
  | .modeBoth image => some (wordOf (0x02C00000 + image.toNat * 1))
  | .modeUniform a m => some (wordOf (0x03000000 + a.toNat * 256 + m.toNat * 1))
  | .getmode d set1 => some (wordOf (0x03400000 + d.toNat * 32768 + set1.toNat * 1))
  | .setem a => some (wordOf (0x03800000 + a.toNat * 256))
  | .getem d => some (wordOf (0x03C00000 + d.toNat * 32768))
  | .vote d a m => some (wordOf (0x04000000 + d.toNat * 32768 + a.toNat * 256 + m.toNat * 1))
  | .any pa pb a m => some (wordOf (0x04400000 + pa.toNat * 524288 + pb.toNat * 65536 + a.toNat * 256 + m.toNat * 1))
  | .all pa pb a m => some (wordOf (0x04800000 + pa.toNat * 524288 + pb.toNat * 65536 + a.toNat * 256 + m.toNat * 1))
  | .gset unset a b => some (wordOf (0x04C00000 + unset.toNat * 32768 + a.toNat * 256 + b.toNat * 2))
  | .gets nw d idx => some (wordOf (0x05000000 + nw.toNat * 2097152 + d.toNat * 32768 + idx.toNat * 1))
  | .pand d a b m => some (wordOf (0x05400000 + d.toNat * 32768 + a.toNat * 256 + b.toNat * 2 + m.toNat * 1))
  | .por d a b m => some (wordOf (0x05800000 + d.toNat * 32768 + a.toNat * 256 + b.toNat * 2 + m.toNat * 1))
  | .pxor d a b m => some (wordOf (0x05C00000 + d.toNat * 32768 + a.toNat * 256 + b.toNat * 2 + m.toNat * 1))
  | .pnot d a m => some (wordOf (0x06000000 + d.toNat * 32768 + a.toNat * 256 + m.toNat * 1))
  | .pmov d a m => some (wordOf (0x06400000 + d.toNat * 32768 + a.toNat * 256 + m.toNat * 1))
  | .bra y pred sense off => some (wordOf (0x08000000 + y.toNat * 4194304 + pred.toNat * 524288 + sense.toNat * 262144 + off.toNat * 1))
  | .brc y pred sense off => some (wordOf (0x08800000 + y.toNat * 4194304 + pred.toNat * 524288 + sense.toNat * 262144 + off.toNat * 1))
  | .brg pred sense target reconv => some (wordOf (0x09000000 + pred.toNat * 524288 + sense.toNat * 262144 + target.toNat * 512 + reconv.toNat * 1))
  | .jmpi a => some (wordOf (0x09400000 + a.toNat * 256))
  | .call pred sense off => some (wordOf (0x09800000 + pred.toNat * 524288 + sense.toNat * 262144 + off.toNat * 1))
  | .callv nw d a => some (wordOf (0x09C00000 + nw.toNat * 2097152 + d.toNat * 32768 + a.toNat * 256))
  | .ret => some (wordOf (0x0A000000))
  | .retv d => some (wordOf (0x0A400000 + d.toNat * 32768))
  | .loop count end15 => some (wordOf (0x0A800000 + count.toNat * 32768 + end15.toNat * 1))
  | .lbrk pred sense off => some (wordOf (0x0AC00000 + pred.toNat * 524288 + sense.toNat * 262144 + off.toNat * 1))
  | .cmp cond comb pa pb a b m => some (wordOf (0x10000000 + cond.toNat * 33554432 + comb.toNat * 4194304 + pa.toNat * 524288 + pb.toNat * 65536 + a.toNat * 256 + b.toNat * 2 + m.toNat * 1))
  | .iadd nw d a b m => some (wordOf (0x20000000 + nw.toNat * 2097152 + d.toNat * 32768 + a.toNat * 256 + b.toNat * 2 + m.toNat * 1))
  | .isub nw d a b m => some (wordOf (0x20400000 + nw.toNat * 2097152 + d.toNat * 32768 + a.toNat * 256 + b.toNat * 2 + m.toNat * 1))
  | .iaddc nw d a b m => some (wordOf (0x20800000 + nw.toNat * 2097152 + d.toNat * 32768 + a.toNat * 256 + b.toNat * 2 + m.toNat * 1))
  | .isubb nw d a b m => some (wordOf (0x20C00000 + nw.toNat * 2097152 + d.toNat * 32768 + a.toNat * 256 + b.toNat * 2 + m.toNat * 1))
  | .imul nw d a b m => some (wordOf (0x21000000 + nw.toNat * 2097152 + d.toNat * 32768 + a.toNat * 256 + b.toNat * 2 + m.toNat * 1))
  | .imulh nw d a b m => some (wordOf (0x21400000 + nw.toNat * 2097152 + d.toNat * 32768 + a.toNat * 256 + b.toNat * 2 + m.toNat * 1))
  | .imad nw d a b m => some (wordOf (0x21800000 + nw.toNat * 2097152 + d.toNat * 32768 + a.toNat * 256 + b.toNat * 2 + m.toNat * 1))
  | .iabs nw d a m => some (wordOf (0x21C00000 + nw.toNat * 2097152 + d.toNat * 32768 + a.toNat * 256 + m.toNat * 1))
  | .ineg nw d a m => some (wordOf (0x22000000 + nw.toNat * 2097152 + d.toNat * 32768 + a.toNat * 256 + m.toNat * 1))
  | .imin nw d a b m => some (wordOf (0x22400000 + nw.toNat * 2097152 + d.toNat * 32768 + a.toNat * 256 + b.toNat * 2 + m.toNat * 1))
  | .imax nw d a b m => some (wordOf (0x22800000 + nw.toNat * 2097152 + d.toNat * 32768 + a.toNat * 256 + b.toNat * 2 + m.toNat * 1))
  | .isad nw d a b m => some (wordOf (0x22C00000 + nw.toNat * 2097152 + d.toNat * 32768 + a.toNat * 256 + b.toNat * 2 + m.toNat * 1))
  | .and nw d a b m => some (wordOf (0x23000000 + nw.toNat * 2097152 + d.toNat * 32768 + a.toNat * 256 + b.toNat * 2 + m.toNat * 1))
  | .or nw d a b m => some (wordOf (0x23400000 + nw.toNat * 2097152 + d.toNat * 32768 + a.toNat * 256 + b.toNat * 2 + m.toNat * 1))
  | .xor nw d a b m => some (wordOf (0x23800000 + nw.toNat * 2097152 + d.toNat * 32768 + a.toNat * 256 + b.toNat * 2 + m.toNat * 1))
  | .andn nw d a b m => some (wordOf (0x23C00000 + nw.toNat * 2097152 + d.toNat * 32768 + a.toNat * 256 + b.toNat * 2 + m.toNat * 1))
  | .shl nw d a b m => some (wordOf (0x24000000 + nw.toNat * 2097152 + d.toNat * 32768 + a.toNat * 256 + b.toNat * 2 + m.toNat * 1))
  | .shr nw d a b m => some (wordOf (0x24400000 + nw.toNat * 2097152 + d.toNat * 32768 + a.toNat * 256 + b.toNat * 2 + m.toNat * 1))
  | .sar nw d a b m => some (wordOf (0x24800000 + nw.toNat * 2097152 + d.toNat * 32768 + a.toNat * 256 + b.toNat * 2 + m.toNat * 1))
  | .rot nw d a b m => some (wordOf (0x24C00000 + nw.toNat * 2097152 + d.toNat * 32768 + a.toNat * 256 + b.toNat * 2 + m.toNat * 1))
  | .fshl nw d a b m => some (wordOf (0x25000000 + nw.toNat * 2097152 + d.toNat * 32768 + a.toNat * 256 + b.toNat * 2 + m.toNat * 1))
  | .bfe nw d a b m => some (wordOf (0x25400000 + nw.toNat * 2097152 + d.toNat * 32768 + a.toNat * 256 + b.toNat * 2 + m.toNat * 1))
  | .bfi nw d a b m => some (wordOf (0x25800000 + nw.toNat * 2097152 + d.toNat * 32768 + a.toNat * 256 + b.toNat * 2 + m.toNat * 1))
  | .popc nw d a m => some (wordOf (0x25C00000 + nw.toNat * 2097152 + d.toNat * 32768 + a.toNat * 256 + m.toNat * 1))
  | .clz nw d a m => some (wordOf (0x26000000 + nw.toNat * 2097152 + d.toNat * 32768 + a.toNat * 256 + m.toNat * 1))
  | .ctz nw d a m => some (wordOf (0x26400000 + nw.toNat * 2097152 + d.toNat * 32768 + a.toNat * 256 + m.toNat * 1))
  | .brev nw d a m => some (wordOf (0x26800000 + nw.toNat * 2097152 + d.toNat * 32768 + a.toNat * 256 + m.toNat * 1))
  | .bperm nw d a b m => some (wordOf (0x26C00000 + nw.toNat * 2097152 + d.toNat * 32768 + a.toNat * 256 + b.toNat * 2 + m.toNat * 1))
  | .lea nw d a b m => some (wordOf (0x27000000 + nw.toNat * 2097152 + d.toNat * 32768 + a.toNat * 256 + b.toNat * 2 + m.toNat * 1))
  | .mov nw d a m => some (wordOf (0x27400000 + nw.toNat * 2097152 + d.toNat * 32768 + a.toNat * 256 + m.toNat * 1))
  | .sel nw d a b m => some (wordOf (0x27800000 + nw.toNat * 2097152 + d.toNat * 32768 + a.toNat * 256 + b.toNat * 2 + m.toNat * 1))
  | .idot4 nw d a b m => some (wordOf (0x27C00000 + nw.toNat * 2097152 + d.toNat * 32768 + a.toNat * 256 + b.toNat * 2 + m.toNat * 1))
  | .iaddImm nw d a imm m => some (wordOf (0x28000000 + nw.toNat * 2097152 + d.toNat * 32768 + a.toNat * 256 + imm.toNat * 2 + m.toNat * 1))
  | .imulImm nw d a imm m => some (wordOf (0x28400000 + nw.toNat * 2097152 + d.toNat * 32768 + a.toNat * 256 + imm.toNat * 2 + m.toNat * 1))
  | .iminImm nw d a imm m => some (wordOf (0x28800000 + nw.toNat * 2097152 + d.toNat * 32768 + a.toNat * 256 + imm.toNat * 2 + m.toNat * 1))
  | .imaxImm nw d a imm m => some (wordOf (0x28C00000 + nw.toNat * 2097152 + d.toNat * 32768 + a.toNat * 256 + imm.toNat * 2 + m.toNat * 1))
  | .andImm nw d a imm m => some (wordOf (0x29000000 + nw.toNat * 2097152 + d.toNat * 32768 + a.toNat * 256 + imm.toNat * 2 + m.toNat * 1))
  | .orImm nw d a imm m => some (wordOf (0x29400000 + nw.toNat * 2097152 + d.toNat * 32768 + a.toNat * 256 + imm.toNat * 2 + m.toNat * 1))
  | .xorImm nw d a imm m => some (wordOf (0x29800000 + nw.toNat * 2097152 + d.toNat * 32768 + a.toNat * 256 + imm.toNat * 2 + m.toNat * 1))
  | .andnImm nw d a imm m => some (wordOf (0x29C00000 + nw.toNat * 2097152 + d.toNat * 32768 + a.toNat * 256 + imm.toNat * 2 + m.toNat * 1))
  | .shlImm nw d a imm m => some (wordOf (0x2A000000 + nw.toNat * 2097152 + d.toNat * 32768 + a.toNat * 256 + imm.toNat * 2 + m.toNat * 1))
  | .shrImm nw d a imm m => some (wordOf (0x2A400000 + nw.toNat * 2097152 + d.toNat * 32768 + a.toNat * 256 + imm.toNat * 2 + m.toNat * 1))
  | .sarImm nw d a imm m => some (wordOf (0x2A800000 + nw.toNat * 2097152 + d.toNat * 32768 + a.toNat * 256 + imm.toNat * 2 + m.toNat * 1))
  | .rotImm nw d a imm m => some (wordOf (0x2AC00000 + nw.toNat * 2097152 + d.toNat * 32768 + a.toNat * 256 + imm.toNat * 2 + m.toNat * 1))
  | .leaImm nw d a imm m => some (wordOf (0x2B000000 + nw.toNat * 2097152 + d.toNat * 32768 + a.toNat * 256 + imm.toNat * 2 + m.toNat * 1))
  | .bfeImm nw d a imm m => some (wordOf (0x2B400000 + nw.toNat * 2097152 + d.toNat * 32768 + a.toNat * 256 + imm.toNat * 2 + m.toNat * 1))
  | .lim nw d imm => some (wordOf (0x2C000000 + nw.toNat * 2097152 + d.toNat * 32768 + imm.toNat * 1))
  | .limh nw d imm => some (wordOf (0x2C400000 + nw.toNat * 2097152 + d.toNat * 32768 + imm.toNat * 1))
  | .fadd nw d a b m => some (wordOf (0x30000000 + nw.toNat * 2097152 + d.toNat * 32768 + a.toNat * 256 + b.toNat * 2 + m.toNat * 1))
  | .fsub nw d a b m => some (wordOf (0x30400000 + nw.toNat * 2097152 + d.toNat * 32768 + a.toNat * 256 + b.toNat * 2 + m.toNat * 1))
  | .fmul nw d a b m => some (wordOf (0x30800000 + nw.toNat * 2097152 + d.toNat * 32768 + a.toNat * 256 + b.toNat * 2 + m.toNat * 1))
  | .ffma nw d a b m => some (wordOf (0x30C00000 + nw.toNat * 2097152 + d.toNat * 32768 + a.toNat * 256 + b.toNat * 2 + m.toNat * 1))
  | .fmin nw d a b m => some (wordOf (0x31000000 + nw.toNat * 2097152 + d.toNat * 32768 + a.toNat * 256 + b.toNat * 2 + m.toNat * 1))
  | .fmax nw d a b m => some (wordOf (0x31400000 + nw.toNat * 2097152 + d.toNat * 32768 + a.toNat * 256 + b.toNat * 2 + m.toNat * 1))
  | .fabs nw d a m => some (wordOf (0x31800000 + nw.toNat * 2097152 + d.toNat * 32768 + a.toNat * 256 + m.toNat * 1))
  | .fneg nw d a m => some (wordOf (0x31C00000 + nw.toNat * 2097152 + d.toNat * 32768 + a.toNat * 256 + m.toNat * 1))
  | .fclass nw d a m => some (wordOf (0x32000000 + nw.toNat * 2097152 + d.toNat * 32768 + a.toNat * 256 + m.toNat * 1))
  | .frnd nw d a m => some (wordOf (0x32400000 + nw.toNat * 2097152 + d.toNat * 32768 + a.toNat * 256 + m.toNat * 1))
  | .fscale nw d a b m => some (wordOf (0x32800000 + nw.toNat * 2097152 + d.toNat * 32768 + a.toNat * 256 + b.toNat * 2 + m.toNat * 1))
  | .cvt nw d a part => some (wordOf (0x32C00000 + nw.toNat * 2097152 + d.toNat * 32768 + a.toNat * 256 + part.toNat * 2))
  | .fqblk nw d a half => some (wordOf (0x33000000 + nw.toNat * 2097152 + d.toNat * 32768 + a.toNat * 256 + half.toNat * 2))
  | .fsplit3 nw d a part => some (wordOf (0x33400000 + nw.toNat * 2097152 + d.toNat * 32768 + a.toNat * 256 + part.toNat * 2))
  | .frcp nw d a m => some (wordOf (0x34000000 + nw.toNat * 2097152 + d.toNat * 32768 + a.toNat * 256 + m.toNat * 1))
  | .frsq nw d a m => some (wordOf (0x34400000 + nw.toNat * 2097152 + d.toNat * 32768 + a.toNat * 256 + m.toNat * 1))
  | .fexp2 nw d a m => some (wordOf (0x34800000 + nw.toNat * 2097152 + d.toNat * 32768 + a.toNat * 256 + m.toNat * 1))
  | .flog2 nw d a m => some (wordOf (0x34C00000 + nw.toNat * 2097152 + d.toNat * 32768 + a.toNat * 256 + m.toNat * 1))
  | .fsinp nw d a m => some (wordOf (0x35000000 + nw.toNat * 2097152 + d.toNat * 32768 + a.toNat * 256 + m.toNat * 1))
  | .fcosp nw d a m => some (wordOf (0x35400000 + nw.toNat * 2097152 + d.toNat * 32768 + a.toNat * 256 + m.toNat * 1))
  | .ftanh nw d a m => some (wordOf (0x35800000 + nw.toNat * 2097152 + d.toNat * 32768 + a.toNat * 256 + m.toNat * 1))
  | .lget nw d a b m => some (wordOf (0x38000000 + nw.toNat * 2097152 + d.toNat * 32768 + a.toNat * 256 + b.toNat * 2 + m.toNat * 1))
  | .lflip nw d a b m => some (wordOf (0x38400000 + nw.toNat * 2097152 + d.toNat * 32768 + a.toNat * 256 + b.toNat * 2 + m.toNat * 1))
  | .lprev nw d a b m => some (wordOf (0x38800000 + nw.toNat * 2097152 + d.toNat * 32768 + a.toNat * 256 + b.toNat * 2 + m.toNat * 1))
  | .lnext nw d a b m => some (wordOf (0x38C00000 + nw.toNat * 2097152 + d.toNat * 32768 + a.toNat * 256 + b.toNat * 2 + m.toNat * 1))
  | .bcast nw d a b m => some (wordOf (0x39000000 + nw.toNat * 2097152 + d.toNat * 32768 + a.toNat * 256 + b.toNat * 2 + m.toNat * 1))
  | .cred nw d a op m => some (wordOf (0x39400000 + nw.toNat * 2097152 + d.toNat * 32768 + a.toNat * 256 + op.toNat * 2 + m.toNat * 1))
  | .cscan nw d a excl op m => some (wordOf (0x39800000 + nw.toNat * 2097152 + d.toNat * 32768 + a.toNat * 256 + excl.toNat * 32 + op.toNat * 2 + m.toNat * 1))
  | .lpeer nw d a m => some (wordOf (0x39C00000 + nw.toNat * 2097152 + d.toNat * 32768 + a.toNat * 256 + m.toNat * 1))
  | .lgetImm nw d a imm m => some (wordOf (0x3A000000 + nw.toNat * 2097152 + d.toNat * 32768 + a.toNat * 256 + imm.toNat * 2 + m.toNat * 1))
  | .lflipImm nw d a imm m => some (wordOf (0x3A400000 + nw.toNat * 2097152 + d.toNat * 32768 + a.toNat * 256 + imm.toNat * 2 + m.toNat * 1))
  | .lprevImm nw d a imm m => some (wordOf (0x3A800000 + nw.toNat * 2097152 + d.toNat * 32768 + a.toNat * 256 + imm.toNat * 2 + m.toNat * 1))
  | .lnextImm nw d a imm m => some (wordOf (0x3AC00000 + nw.toNat * 2097152 + d.toNat * 32768 + a.toNat * 256 + imm.toNat * 2 + m.toNat * 1))
  | .bcastImm nw d a imm m => some (wordOf (0x3B000000 + nw.toNat * 2097152 + d.toNat * 32768 + a.toNat * 256 + imm.toNat * 2 + m.toNat * 1))
  | .iaddU d a b m => some (wordOf (0xA0000000 + d.toNat * 32768 + a.toNat * 256 + b.toNat * 2 + m.toNat * 1))
  | .isubU d a b m => some (wordOf (0xA0400000 + d.toNat * 32768 + a.toNat * 256 + b.toNat * 2 + m.toNat * 1))
  | .iaddcU d a b m => some (wordOf (0xA0800000 + d.toNat * 32768 + a.toNat * 256 + b.toNat * 2 + m.toNat * 1))
  | .isubbU d a b m => some (wordOf (0xA0C00000 + d.toNat * 32768 + a.toNat * 256 + b.toNat * 2 + m.toNat * 1))
  | .imulU d a b m => some (wordOf (0xA1000000 + d.toNat * 32768 + a.toNat * 256 + b.toNat * 2 + m.toNat * 1))
  | .imulhU d a b m => some (wordOf (0xA1400000 + d.toNat * 32768 + a.toNat * 256 + b.toNat * 2 + m.toNat * 1))
  | .imadU d a b m => some (wordOf (0xA1800000 + d.toNat * 32768 + a.toNat * 256 + b.toNat * 2 + m.toNat * 1))
  | .iabsU d a m => some (wordOf (0xA1C00000 + d.toNat * 32768 + a.toNat * 256 + m.toNat * 1))
  | .inegU d a m => some (wordOf (0xA2000000 + d.toNat * 32768 + a.toNat * 256 + m.toNat * 1))
  | .iminU d a b m => some (wordOf (0xA2400000 + d.toNat * 32768 + a.toNat * 256 + b.toNat * 2 + m.toNat * 1))
  | .imaxU d a b m => some (wordOf (0xA2800000 + d.toNat * 32768 + a.toNat * 256 + b.toNat * 2 + m.toNat * 1))
  | .isadU d a b m => some (wordOf (0xA2C00000 + d.toNat * 32768 + a.toNat * 256 + b.toNat * 2 + m.toNat * 1))
  | .andU d a b m => some (wordOf (0xA3000000 + d.toNat * 32768 + a.toNat * 256 + b.toNat * 2 + m.toNat * 1))
  | .orU d a b m => some (wordOf (0xA3400000 + d.toNat * 32768 + a.toNat * 256 + b.toNat * 2 + m.toNat * 1))
  | .xorU d a b m => some (wordOf (0xA3800000 + d.toNat * 32768 + a.toNat * 256 + b.toNat * 2 + m.toNat * 1))
  | .andnU d a b m => some (wordOf (0xA3C00000 + d.toNat * 32768 + a.toNat * 256 + b.toNat * 2 + m.toNat * 1))
  | .shlU d a b m => some (wordOf (0xA4000000 + d.toNat * 32768 + a.toNat * 256 + b.toNat * 2 + m.toNat * 1))
  | .shrU d a b m => some (wordOf (0xA4400000 + d.toNat * 32768 + a.toNat * 256 + b.toNat * 2 + m.toNat * 1))
  | .sarU d a b m => some (wordOf (0xA4800000 + d.toNat * 32768 + a.toNat * 256 + b.toNat * 2 + m.toNat * 1))
  | .rotU d a b m => some (wordOf (0xA4C00000 + d.toNat * 32768 + a.toNat * 256 + b.toNat * 2 + m.toNat * 1))
  | .fshlU d a b m => some (wordOf (0xA5000000 + d.toNat * 32768 + a.toNat * 256 + b.toNat * 2 + m.toNat * 1))
  | .bfeU d a b m => some (wordOf (0xA5400000 + d.toNat * 32768 + a.toNat * 256 + b.toNat * 2 + m.toNat * 1))
  | .bfiU d a b m => some (wordOf (0xA5800000 + d.toNat * 32768 + a.toNat * 256 + b.toNat * 2 + m.toNat * 1))
  | .popcU d a m => some (wordOf (0xA5C00000 + d.toNat * 32768 + a.toNat * 256 + m.toNat * 1))
  | .clzU d a m => some (wordOf (0xA6000000 + d.toNat * 32768 + a.toNat * 256 + m.toNat * 1))
  | .ctzU d a m => some (wordOf (0xA6400000 + d.toNat * 32768 + a.toNat * 256 + m.toNat * 1))
  | .brevU d a m => some (wordOf (0xA6800000 + d.toNat * 32768 + a.toNat * 256 + m.toNat * 1))
  | .bpermU d a b m => some (wordOf (0xA6C00000 + d.toNat * 32768 + a.toNat * 256 + b.toNat * 2 + m.toNat * 1))
  | .leaU d a b m => some (wordOf (0xA7000000 + d.toNat * 32768 + a.toNat * 256 + b.toNat * 2 + m.toNat * 1))
  | .movU d a m => some (wordOf (0xA7400000 + d.toNat * 32768 + a.toNat * 256 + m.toNat * 1))
  | .selU d a b m => some (wordOf (0xA7800000 + d.toNat * 32768 + a.toNat * 256 + b.toNat * 2 + m.toNat * 1))
  | .idot4U d a b m => some (wordOf (0xA7C00000 + d.toNat * 32768 + a.toNat * 256 + b.toNat * 2 + m.toNat * 1))
  | .iaddImmU d a imm m => some (wordOf (0xA8000000 + d.toNat * 32768 + a.toNat * 256 + imm.toNat * 2 + m.toNat * 1))
  | .imulImmU d a imm m => some (wordOf (0xA8400000 + d.toNat * 32768 + a.toNat * 256 + imm.toNat * 2 + m.toNat * 1))
  | .iminImmU d a imm m => some (wordOf (0xA8800000 + d.toNat * 32768 + a.toNat * 256 + imm.toNat * 2 + m.toNat * 1))
  | .imaxImmU d a imm m => some (wordOf (0xA8C00000 + d.toNat * 32768 + a.toNat * 256 + imm.toNat * 2 + m.toNat * 1))
  | .andImmU d a imm m => some (wordOf (0xA9000000 + d.toNat * 32768 + a.toNat * 256 + imm.toNat * 2 + m.toNat * 1))
  | .orImmU d a imm m => some (wordOf (0xA9400000 + d.toNat * 32768 + a.toNat * 256 + imm.toNat * 2 + m.toNat * 1))
  | .xorImmU d a imm m => some (wordOf (0xA9800000 + d.toNat * 32768 + a.toNat * 256 + imm.toNat * 2 + m.toNat * 1))
  | .andnImmU d a imm m => some (wordOf (0xA9C00000 + d.toNat * 32768 + a.toNat * 256 + imm.toNat * 2 + m.toNat * 1))
  | .shlImmU d a imm m => some (wordOf (0xAA000000 + d.toNat * 32768 + a.toNat * 256 + imm.toNat * 2 + m.toNat * 1))
  | .shrImmU d a imm m => some (wordOf (0xAA400000 + d.toNat * 32768 + a.toNat * 256 + imm.toNat * 2 + m.toNat * 1))
  | .sarImmU d a imm m => some (wordOf (0xAA800000 + d.toNat * 32768 + a.toNat * 256 + imm.toNat * 2 + m.toNat * 1))
  | .rotImmU d a imm m => some (wordOf (0xAAC00000 + d.toNat * 32768 + a.toNat * 256 + imm.toNat * 2 + m.toNat * 1))
  | .leaImmU d a imm m => some (wordOf (0xAB000000 + d.toNat * 32768 + a.toNat * 256 + imm.toNat * 2 + m.toNat * 1))
  | .bfeImmU d a imm m => some (wordOf (0xAB400000 + d.toNat * 32768 + a.toNat * 256 + imm.toNat * 2 + m.toNat * 1))
  | .limU d imm => some (wordOf (0xAC000000 + d.toNat * 32768 + imm.toNat * 1))
  | .limhU d imm => some (wordOf (0xAC400000 + d.toNat * 32768 + imm.toNat * 1))
  | .faddU d a b m => some (wordOf (0xB0000000 + d.toNat * 32768 + a.toNat * 256 + b.toNat * 2 + m.toNat * 1))
  | .fsubU d a b m => some (wordOf (0xB0400000 + d.toNat * 32768 + a.toNat * 256 + b.toNat * 2 + m.toNat * 1))
  | .fmulU d a b m => some (wordOf (0xB0800000 + d.toNat * 32768 + a.toNat * 256 + b.toNat * 2 + m.toNat * 1))
  | .ffmaU d a b m => some (wordOf (0xB0C00000 + d.toNat * 32768 + a.toNat * 256 + b.toNat * 2 + m.toNat * 1))
  | .fminU d a b m => some (wordOf (0xB1000000 + d.toNat * 32768 + a.toNat * 256 + b.toNat * 2 + m.toNat * 1))
  | .fmaxU d a b m => some (wordOf (0xB1400000 + d.toNat * 32768 + a.toNat * 256 + b.toNat * 2 + m.toNat * 1))
  | .fabsU d a m => some (wordOf (0xB1800000 + d.toNat * 32768 + a.toNat * 256 + m.toNat * 1))
  | .fnegU d a m => some (wordOf (0xB1C00000 + d.toNat * 32768 + a.toNat * 256 + m.toNat * 1))
  | .fclassU d a m => some (wordOf (0xB2000000 + d.toNat * 32768 + a.toNat * 256 + m.toNat * 1))
  | .frndU d a m => some (wordOf (0xB2400000 + d.toNat * 32768 + a.toNat * 256 + m.toNat * 1))
  | .fscaleU d a b m => some (wordOf (0xB2800000 + d.toNat * 32768 + a.toNat * 256 + b.toNat * 2 + m.toNat * 1))
  | .cvtU d a part => some (wordOf (0xB2C00000 + d.toNat * 32768 + a.toNat * 256 + part.toNat * 2))
  | .frcpU d a m => some (wordOf (0xB4000000 + d.toNat * 32768 + a.toNat * 256 + m.toNat * 1))
  | .frsqU d a m => some (wordOf (0xB4400000 + d.toNat * 32768 + a.toNat * 256 + m.toNat * 1))
  | .fexp2U d a m => some (wordOf (0xB4800000 + d.toNat * 32768 + a.toNat * 256 + m.toNat * 1))
  | .flog2U d a m => some (wordOf (0xB4C00000 + d.toNat * 32768 + a.toNat * 256 + m.toNat * 1))
  | .fsinpU d a m => some (wordOf (0xB5000000 + d.toNat * 32768 + a.toNat * 256 + m.toNat * 1))
  | .fcospU d a m => some (wordOf (0xB5400000 + d.toNat * 32768 + a.toNat * 256 + m.toNat * 1))
  | .ftanhU d a m => some (wordOf (0xB5800000 + d.toNat * 32768 + a.toNat * 256 + m.toNat * 1))
  | .ld hint nw d a imm m => some (wordOf (0x40000000 + hint.toNat * 4194304 + nw.toNat * 2097152 + d.toNat * 32768 + a.toNat * 256 + imm.toNat * 2 + m.toNat * 1))
  | .st hint d a imm m => some (wordOf (0x41000000 + hint.toNat * 4194304 + d.toNat * 32768 + a.toNat * 256 + imm.toNat * 2 + m.toNat * 1))
  | .ldu hint d a imm m => some (wordOf (0x42000000 + hint.toNat * 4194304 + d.toNat * 32768 + a.toNat * 256 + imm.toNat * 2 + m.toNat * 1))
  | .stu hint d a imm m => some (wordOf (0x43000000 + hint.toNat * 4194304 + d.toNat * 32768 + a.toNat * 256 + imm.toNat * 2 + m.toNat * 1))
  | .lds nw d a imm m => some (wordOf (0x44000000 + nw.toNat * 2097152 + d.toNat * 32768 + a.toNat * 256 + imm.toNat * 2 + m.toNat * 1))
  | .sts d a imm m => some (wordOf (0x44400000 + d.toNat * 32768 + a.toNat * 256 + imm.toNat * 2 + m.toNat * 1))
  | .ldq hint q a imm m => some (wordOf (0x45000000 + hint.toNat * 4194304 + q.toNat * 32768 + a.toNat * 256 + imm.toNat * 2 + m.toNat * 1))
  | .stq hint q a imm m => some (wordOf (0x46000000 + hint.toNat * 4194304 + q.toNat * 32768 + a.toNat * 256 + imm.toNat * 2 + m.toNat * 1))
  | .atom op nw d a imm m => some (wordOf (0x50000000 + op.toNat * 4194304 + nw.toNat * 2097152 + d.toNat * 32768 + a.toNat * 256 + imm.toNat * 2 + m.toNat * 1))
  | .red op d a imm m => some (wordOf (0x54000000 + op.toNat * 4194304 + d.toNat * 32768 + a.toNat * 256 + imm.toNat * 2 + m.toNat * 1))
  | .claim nw d a imm m => some (wordOf (0x55C00000 + nw.toNat * 2097152 + d.toNat * 32768 + a.toNat * 256 + imm.toNat * 2 + m.toNat * 1))
  | .fence scope form => some (wordOf (0x56000000 + scope.toNat * 4 + form.toNat * 1))
  | .cpy y gv slot a b sub => some (wordOf (0x58000000 + y.toNat * 4194304 + gv.toNat * 2097152 + slot.toNat * 262144 + a.toNat * 2048 + b.toNat * 16 + sub.toNat * 1))
  | .tcopy y gv slot a b sub => some (wordOf (0x58800000 + y.toNat * 4194304 + gv.toNat * 2097152 + slot.toNat * 262144 + a.toNat * 2048 + b.toNat * 16 + sub.toNat * 1))
  | .cseal d => some (wordOf (0x59000000 + d.toNat * 32768))
  | .cwait d src => some (wordOf (0x59400000 + d.toNat * 32768 + src.toNat * 1))
  | .cwaitn d k => some (wordOf (0x59800000 + d.toNat * 32768 + k.toNat * 1))
  | .barinit d a imm m => some (wordOf (0x5A000000 + d.toNat * 32768 + a.toNat * 256 + imm.toNat * 2 + m.toNat * 1))
  | .bararr d a imm m => some (wordOf (0x5A400000 + d.toNat * 32768 + a.toNat * 256 + imm.toNat * 2 + m.toNat * 1))
  | .barwait nw d a imm m => some (wordOf (0x5A800000 + nw.toNat * 2097152 + d.toNat * 32768 + a.toNat * 256 + imm.toNat * 2 + m.toNat * 1))
  | .bartry nw d a m => some (wordOf (0x5AC00000 + nw.toNat * 2097152 + d.toNat * 32768 + a.toNat * 256 + m.toNat * 1))
  | .gbar => some (wordOf (0x5B000000))
  | .pref a l2 m => some (wordOf (0x5C000000 + a.toNat * 256 + l2.toNat * 2 + m.toNat * 1))
  | .cinv a l2 m => some (wordOf (0x5C400000 + a.toNat * 256 + l2.toNat * 2 + m.toNat * 1))
  | .cflush a l2 m => some (wordOf (0x5C800000 + a.toNat * 256 + l2.toNat * 2 + m.toNat * 1))
  | .spbind wrk port a m => some (wordOf (0x5D000000 + wrk.toNat * 131072 + port.toNat * 32768 + a.toNat * 256 + m.toNat * 1))
  | .sppos d hi wrk port => some (wordOf (0x5D400000 + d.toNat * 32768 + hi.toNat * 8 + wrk.toNat * 4 + port.toNat * 1))
  | .wload y gv slot a sp wsl => some (wordOf (0x60000000 + y.toNat * 4194304 + gv.toNat * 2097152 + slot.toNat * 262144 + a.toNat * 2048 + sp.toNat * 1024 + wsl.toNat * 16))
  | .qmma y gv slot a z wsl tile => some (wordOf (0x60800000 + y.toNat * 4194304 + gv.toNat * 2097152 + slot.toNat * 262144 + a.toNat * 2048 + z.toNat * 1024 + wsl.toNat * 16 + tile.toNat * 1))
  | .qmmar y gv slot a z wsl tile => some (wordOf (0x61000000 + y.toNat * 4194304 + gv.toNat * 2097152 + slot.toNat * 262144 + a.toNat * 2048 + z.toNat * 1024 + wsl.toNat * 16 + tile.toNat * 1))
  | .accz gv slot res tile => some (wordOf (0x61800000 + gv.toNat * 2097152 + slot.toNat * 262144 + res.toNat * 1024 + tile.toNat * 1))
  | .accld gv slot a res sp tile => some (wordOf (0x61C00000 + gv.toNat * 2097152 + slot.toNat * 262144 + a.toNat * 2048 + res.toNat * 1024 + sp.toNat * 512 + tile.toNat * 1))
  | .accst gv slot a res sp tile => some (wordOf (0x62000000 + gv.toNat * 2097152 + slot.toNat * 262144 + a.toNat * 2048 + res.toNat * 1024 + sp.toNat * 512 + tile.toNat * 1))
  | .twait d allc res tile => some (wordOf (0x62400000 + d.toNat * 32768 + allc.toNat * 32 + res.toNat * 16 + tile.toNat * 1))
  | .wfree gv slot wsl => some (wordOf (0x62800000 + gv.toNat * 2097152 + slot.toNat * 262144 + wsl.toNat * 16))
  | .accrd nw d res tile b m => some (wordOf (0x64000000 + nw.toNat * 2097152 + d.toNat * 32768 + res.toNat * 4096 + tile.toNat * 256 + b.toNat * 2 + m.toNat * 1))
  | .rnsf nw d a m => some (wordOf (0x64400000 + nw.toNat * 2097152 + d.toNat * 32768 + a.toNat * 256 + m.toNat * 1))
  | .rnsr nw d a m => some (wordOf (0x64800000 + nw.toNat * 2097152 + d.toNat * 32768 + a.toNat * 256 + m.toNat * 1))
  | .rnsc nw d a m => some (wordOf (0x64C00000 + nw.toNat * 2097152 + d.toNat * 32768 + a.toNat * 256 + m.toNat * 1))
  | .rnsmul nw d a b m => some (wordOf (0x65000000 + nw.toNat * 2097152 + d.toNat * 32768 + a.toNat * 256 + b.toNat * 2 + m.toNat * 1))
  | .rnsadd nw d a b m => some (wordOf (0x65400000 + nw.toNat * 2097152 + d.toNat * 32768 + a.toNat * 256 + b.toNat * 2 + m.toNat * 1))
  | .vsort d a desc m => some (wordOf (0x70000000 + d.toNat * 32768 + a.toNat * 256 + desc.toNat * 2 + m.toNat * 1))
  | .vmerge d a dd desc m => some (wordOf (0x70400000 + d.toNat * 32768 + a.toNat * 256 + dd.toNat * 4 + desc.toNat * 2 + m.toNat * 1))
  | .vtopk d a least k m => some (wordOf (0x70800000 + d.toNat * 32768 + a.toNat * 256 + least.toNat * 128 + k.toNat * 2 + m.toNat * 1))
  | .vselth d a b m => some (wordOf (0x70C00000 + d.toNat * 32768 + a.toNat * 256 + b.toNat * 2 + m.toNat * 1))
  | .sopen d a keep m => some (wordOf (0x74000000 + d.toNat * 32768 + a.toNat * 256 + keep.toNat * 2 + m.toNat * 1))
  | .sseal d a m => some (wordOf (0x74400000 + d.toNat * 32768 + a.toNat * 256 + m.toNat * 1))
  | .wseed d => some (wordOf (0x74800000 + d.toNat * 32768))
  | .wput a tag m => some (wordOf (0x74C00000 + a.toNat * 256 + tag.toNat * 2 + m.toNat * 1))
  | .whash nw d a m => some (wordOf (0x75000000 + nw.toNat * 2097152 + d.toNat * 32768 + a.toNat * 256 + m.toNat * 1))
  | .wproj nw d a b m => some (wordOf (0x75400000 + nw.toNat * 2097152 + d.toNat * 32768 + a.toNat * 256 + b.toNat * 2 + m.toNat * 1))
  | .launch a m => some (wordOf (0x78000000 + a.toNat * 256 + m.toNat * 1))
  | .trig => some (wordOf (0x78400000))
  | .waitd => some (wordOf (0x78800000))
  | .coll gv slot a op => some (wordOf (0x7A000000 + gv.toNat * 2097152 + slot.toNat * 262144 + a.toNat * 2048 + op.toNat * 1))
  | .collw d src => some (wordOf (0x7A400000 + d.toNat * 32768 + src.toNat * 1))
  | .mfp d idx => some (wordOf (0xF0000000 + d.toNat * 32768 + idx.toNat * 1))
  | .mtp a idx => some (wordOf (0xF0400000 + a.toNat * 256 + idx.toNat * 2))
  | .eret d form => some (wordOf (0xF0800000 + d.toNat * 32768 + form.toNat * 1))
  | .tlbinv a kind scope => some (wordOf (0xF0C00000 + a.toNat * 256 + kind.toNat * 32 + scope.toNat * 2))
  | .ctxsave d a fr sl => some (wordOf (0xF1000000 + d.toNat * 32768 + a.toNat * 256 + fr.toNat * 4 + sl.toNat * 2))
  | .ctxload d a => some (wordOf (0xF1400000 + d.toNat * 32768 + a.toNat * 256))
  | .park d a form => some (wordOf (0xF1800000 + d.toNat * 32768 + a.toNat * 256 + form.toNat * 2))
  | .unpark d a => some (wordOf (0xF1C00000 + d.toNat * 32768 + a.toNat * 256))
  | .shedack d => some (wordOf (0xF2000000 + d.toNat * 32768))
  | .declass nw d a lab m => some (wordOf (0xF2400000 + nw.toNat * 2097152 + d.toNat * 32768 + a.toNat * 256 + lab.toNat * 2 + m.toNat * 1))
  | .ovloadp a k => some (wordOf (0xF2800000 + a.toNat * 256 + k.toNat * 2))
  | .halt status => some (wordOf (0xF2C00000 + status.toNat * 1))
  | .codeFetch => none
  | .codePageRefill => none
  | .loadDataArrival => none
  | .handlerTimeLimit => none
  | .slotGrant => none
  | .brgMeeting => none
  | .brgPathEnd => none
  | .gangComplete => none
  | .witnessHandoff => none
  | .scratchpadAdapt => none
  | .granuleMoveDone => none
  | .l1BackgroundClean => none
  | .copyAccept => none
  | .copyComplete => none
  | .barwaitTimeout => none
  | .matrixAccept => none
  | .gatherComplete => none
  | .matrixPass => none
  | .passComplete => none
  | .wloadPerform => none
  | .wfreePerform => none
  | .tileCommandPerform => none
  | .stagingFillDone => none
  | .ssealProceed => none
  | .digestTaken => none
  | .seedReveal => none
  | .wseedTimeout => none
  | .witnessTest => none
  | .versionRelease => none
  | .versionVoid => none
  | .reexecutionPost => none
  | .residueReport => none
  | .selfTestDone => none
  | .strikeReport => none
  | .patrolScrub => none
  | .collComplete => none
  | .collBoundExpiry => none
  | .postSubmit => none
  | .postForward => none
  | .nodeAccept => none
  | .gangPlace => none
  | .placementReservation => none
  | .parkComplete => none
  | .ctxsaveDone => none
  | .ctxloadDone => none
  | .shedPreempt => none
  | .pageWalk => none
  | .engineFaultDelivery => none
  | .readShared => none
  | .readOwn => none
  | .upgrade => none
  | .writeBack => none
  | .grant => none
  | .recallS => none
  | .recallI => none
  | .invalidate => none
  | .recallReply => none
  | .invAck => none
  | .releaseMessage => none
  | .releaseAck => none
  | .remoteAccessArrival => none
  | .remoteResponse => none
  | .remoteAccessTimeout => none
  | .noticeArrival => none
  | .provisionalTimeout => none
  | .hostWrite => none
  | .hostRead => none
  | .ringEntryWrite => none
  | .partitionRelease => none
  | .keyExchange => none
  | .weightKey => none
  | .pageExport => none
  | .pageImport => none
  | .sealedTransferIn => none
  | .sealedTransferOut => none
  | .attestation => none
  | .certificateRead => none
  | .faultRecordRead => none
  | .collectiveGroup => none
  | .unknownCommand => none
  | .fabidWrite => none
  | .islctlWrite => none
  | .registerWrite => none
  | .railSwitchDone => none
  | .islandPowerDown => none
  | .islandWakeStart => none
  | .islandWakeDone => none
  | .laneGroupGate => none
  | .bankDrowsy => none
  | .energyUpdate => none
  | .droopTrip => none
  | .droopStretchEnd => none
  | .droopHalveEnd => none
  | .telemetryFrame => none
  | .telemetryFailsafe => none
  | .shedLevelApply => none
  | .flitReplay => none
  | .linkRetrainDone => none
  | .packageReset => none
  | .unassignedOpcode => none
  | .fabricPortDown => none
  | .failSafeFrameTime => none
  | .pshedWrite => none

end Sys2Proof
end

