-- ==== Sys2Proof/Machine/State.lean ====
section
/-! DEFINITION. The state of the package: streams, crews, gangs, cores, clusters, dies, memories, partitions,
node instances, the assay die, the power controller and the host's side, as plain data, and its value at reset. -/

namespace Sys2Proof.Machine

/-- Why a step can stop for good. -/
inductive Fault where
  /-- An instruction was given to the machine with no stream in hand to execute it. Raised by every meaning of an
  encoded instruction when State.cur names no resident stream; safe, since step issues only for a resident stream. -/
  | noStream
  deriving DecidableEq, Repr

/-- Why an instruction has no meaning here. -/
inductive Refusal where
  /-- The instruction has no meaning in this model yet. Raised only by an arm of exec; safe. -/
  | notModelled (mnemonic : String)
  deriving DecidableEq, Repr

/-- One lane of a vector: its 32 bits and its label (03 R93). -/
structure LV where
  v : Word := 0
  l : Label := 0
  deriving DecidableEq, Repr

/-- A vector of 32 lanes, lane 0 first (03 R74). -/
abbrev Vec := List LV

/-- A level of the loop stack (03 R75). A body captured while the stream ran from the supervisor image is marked, since
the buffer holds words of that image only (13 R309, log entry 89). -/
structure LoopLevel where
  start : BitVec 24
  stop : BitVec 24
  count : Word
  captured : Bool
  sup : Bool
  deriving DecidableEq, Repr

/-- A guard slot (03 R75): unset, true or false. -/
inductive Guard where
  | unset | on | off
  deriving DecidableEq, Repr

/-- A pattern register of a stream port (03 R80). -/
structure Pattern where
  base : BitVec 56 := 0
  etype : BitVec 5 := 0
  dir : Bool := false
  cnt0 : BitVec 16 := 0
  cnt1 : BitVec 16 := 0
  cnt2 : BitVec 16 := 0
  stride0 : Word := 0
  stride1 : Word := 0
  stride2 : Word := 0
  pos : BitVec 48 := 0
  bound : Bool := false
  deriving DecidableEq, Repr

/-- A bypass latch (05 R126): none while void. -/
structure Latch where
  val : Option Vec := none
  /-- The load whose data is still to come (05 R128). -/
  awaits : Option Nat := none
  deriving DecidableEq, Repr

/-- A trap condition as an instruction raises it (01 R39, 13 R311). Causes 1 to 9 are user traps. -/
structure Trap where
  cause : Nat
  sub : Nat := 0
  info : DWord := 0
  mask : Word := 0
  /-- The word at SPC where that is not the word in hand (13 R300, R309, log entry 87). -/
  word : Option Word := none
  deriving DecidableEq, Repr

/-- What a crew or a stream waits for (13 R318, 14 R350). -/
inductive Wait where
  /-- CWAIT, out of its slot, for the batch (08 R225). -/
  | cwait (batch : BitVec 16)
  /-- WAITD, out of its slot (01 R36). -/
  | waitd
  /-- BARWAIT, out of its slot, with its deadline in TIMESTAMP if bounded; expired by BARWAIT_TIMEOUT (08 R229). -/
  | barwait (offset phase : Nat) (deadline : Option Nat) (expired : Bool)
  /-- GBAR, out of its slot; released when the gang barrier completes (08 R230). -/
  | gbar (released : Bool)
  /-- BRG, waiting for the meeting, with its predicate and sense, the taken path's start and the reconvergence address
  (01 R26, 06 R148). -/
  | brg (pred : Nat) (sense : Bool) (taken rejoin : BitVec 24)
  /-- At a reconvergence address, waiting for the path to end (01 R26). -/
  | reconv
  /-- WSEED, in its slot, until the cluster's CYCLES reach the limit (10 R266); expired by WSEED_TIMEOUT. -/
  | wseed (limit : Nat) (expired : Bool)
  /-- SOPEN's fill of a version of a pair, in its slot; done when the frame is ready (10 R264). -/
  | sopen (pair version : Nat) (done : Bool)
  /-- SSEAL of a version of a pair, holding its place in the seal count; done when it has proceeded (10 R265). -/
  | sseal (pair version : Nat) (done : Bool)
  /-- PARK mode 1 of another gang, in its slot (13 R325). -/
  | park
  /-- CTXSAVE of a gang to an address, sealed, freeing, in its slot; done with its status (13 R326). -/
  | ctxsave (gang : Nat) (addr : DWord) (sl fr : Bool) (status : Option Word)
  /-- CTXLOAD on a core from an address, in its slot; done with its result (13 R327). -/
  | ctxload (core : Nat) (addr : DWord) (status : Option Word)
  /-- A fetch waits for the refill of a code page; handler pages are loaded whatever the resident set (03 R83, 01 R41). -/
  | refill (page : Nat)
  /-- Entry of the crew handler waits for its page, with the trap it enters for (01 R41). -/
  | handlerEntry (t : Trap)
  /-- The argument block lies in another package and is on its way: its package and physical address (01 R38). -/
  | args (pkg pa : Nat)
  deriving DecidableEq, Repr

/-- An entry of a load or store queue (03 R79). A load entry exists before its data arrive (01 R19). -/
structure QEntry where
  vec : Vec
  mask : Word
  awaits : Option Nat := none
  deriving DecidableEq, Repr

/-- A load whose data has not arrived (05 R128): what will fill its register, latch or queue entry. -/
structure PendingLoad where
  id : Nat
  /-- The registers it fills in the lanes of the mask, lowest first, with the values to come. -/
  dst : List (Nat × Vec)
  mask : Word
  /-- The vectors its latch entries receive, in the order they were shifted. -/
  latches : List Vec
  /-- The load queue whose entry it fills. -/
  queue : Option Nat := none
  deriving DecidableEq, Repr

/-- One lane's part of a CPY (08 R217). -/
structure CpyLane where
  lane : Nat
  vid : Nat
  src : DWord
  dst : DWord
  deriving DecidableEq, Repr

/-- A copy command as issued (08 R217, R218). -/
inductive CopyWhat where
  | lanes (size : Nat) (srcSp dstSp : Bool) (ls : List CpyLane)
  | box (desc : DWord) (bar : Option (Nat × Nat))
  deriving DecidableEq, Repr

/-- A command of a stream's copy queue (08 R216). -/
structure CopyCmd where
  what : CopyWhat
  guard : Option Nat
  /-- The batch the copy counts toward: the one open at its issue (03 R76). -/
  batch : BitVec 16
  /-- While the engine reads the descriptor of the command at the head: its number, and the addresses whose translation
  faults have been delivered (08 R221, 15 R366). -/
  op : Option Nat := none
  walked : List Nat := []
  deriving DecidableEq, Repr

/-- A barrier an accepted copy is bound to: the gang, the offset, the bytes announced there, whether the barrier
takes the arrival (08 R221, R228). -/
structure CopyBar where
  gang : Nat
  offset : Nat
  bytes : Nat
  arrives : Bool
  deriving DecidableEq, Repr

/-- An accepted copy in flight (08 R216). -/
structure Copy where
  id : Nat
  stream : Nat
  cmd : CopyCmd
  /-- The descriptor's words as read at acceptance; empty for CPY. -/
  desc : List DWord
  bars : List CopyBar
  /-- An error found at acceptance (08 R221); 0 for none. -/
  err : Nat
  /-- Addresses whose translation faults have been delivered: the engine walks each again once (15 R366). -/
  walked : List Nat := []
  /-- The gangs that receive a copy to scratchpad, as they were bound at acceptance, by gang number and uid of the
  instance (08 R220, log entry 121). -/
  gangs : List (Nat × Nat) := []
  /-- The remote writes that the copy has sent and that are not acknowledged yet; none before it has moved its bytes
  (19 R449). -/
  sent : Option (List Nat) := none
  deriving DecidableEq, Repr

/-- The kinds of matrix command (09 R237). -/
inductive MxOp where
  | qmma | qmmar | wload | wfree | accz | accld | accst
  deriving DecidableEq, Repr

/-- A matrix command as issued, with the operand values read then (09 R235). -/
structure MxCmd where
  op : MxOp
  guard : Option Nat
  tile : Nat
  slot : Nat
  /-- Z of QMMA, or R of a tile command. -/
  z : Bool
  r : Bool
  /-- The source or destination lies in scratchpad. -/
  sp : Bool
  addr : DWord
  /-- Set 0 and set 1 at issue. -/
  mode0 : Word
  mode1 : Word
  /-- Lanes and record offsets of QMMA and QMMAR. -/
  rows : List (Nat × Nat)
  /-- Issue number within the stream. -/
  seq : Nat
  /-- When the crew last synchronised before the issue, and when it first synchronised after it (09 R240). -/
  acq : Nat := 0
  rel : Option Nat := none
  deriving DecidableEq, Repr

/-- The error that data carry: none, one of ECC, or one of integrity (13 R313, 17 R409). -/
inductive Bad where
  | none | poison | integrity
  deriving DecidableEq, Repr

/-- How far an accepted reservation entry has come (09 R240, R244). -/
inductive MxPhase where
  | accepted | gathered | inPass
  /-- A command of the load port that has begun and waits for a walk or for remote bytes. -/
  | started
  deriving DecidableEq, Repr

/-- An entry of a reservation table (09 R235). -/
structure MxEntry where
  id : Nat
  stream : Nat
  cmd : MxCmd
  /-- The quarter of a QMMA or QMMAR. -/
  quarter : Nat
  phase : MxPhase
  /-- Gathered records: lane, its 400 bytes, their label, their error. -/
  gathered : List (Nat × List Byte × Label × Bad)
  /-- Cycles delivered when it became ready, once it is (14 R352). -/
  readyAt : Option Nat := none
  /-- RNSMAP and the weight keys at acceptance (09 R253, 17 R413). -/
  rnsmap : Word := 0
  wkeys : Tab (List Byte) := []
  /-- Addresses whose translation faults have been delivered (15 R366). -/
  walked : List Nat := []
  deriving DecidableEq, Repr

/-- Integrity and origin marks of a memory sector (13 R313, 16 R400, 19 R451). -/
inductive Mark where
  | poison | integrity
  /-- Provisional data of versions of other packages: package, pair, version of each. -/
  | provisional (tags : List (Nat × Nat × Nat))
  deriving DecidableEq, Repr

/-- An engine translation fault waiting for delivery to its stream (15 R366). -/
structure EngineFault where
  addr : DWord
  sub : Nat
  /-- The held copy or reservation entry. -/
  op : Nat
  copy : Bool
  deriving DecidableEq, Repr

/-- A stream (01 R15, 03 R75, 13 R318). -/
structure Stream where
  pc : BitVec 24 := 0
  em : Word := 0
  live : Word := 0
  /-- v0 to v55; a register not listed holds zero with label 0. -/
  v : Tab Vec := []
  /-- c0 to c31. -/
  c : Tab LV := []
  /-- p0 to p6: 32 bits with one label each. -/
  p : Tab LV := []
  mode0 : Word := 0x00398000
  mode1 : Word := 0x00398000
  loops : List LoopLevel := []
  rets : List (BitVec 24) := []
  /-- Guard slots that are not unset. -/
  guards : Tab Guard := []
  opn : BitVec 16 := 0
  sealed : BitVec 16 := 0
  done : BitVec 16 := 0
  copyerr : Word := 0
  mxerr : Word := 0
  collNum : BitVec 16 := 0
  collStat : Word := 0
  /-- Numbers of the collectives outstanding (10 R273). -/
  collsOut : List Nat := []
  latches : List Latch := List.replicate 8 ⟨none, none⟩
  /-- The stochastic generator, one word per lane (02 R61). -/
  gen : List Word := []
  ports : Tab Pattern := []
  trappc : Word := 0
  trapcause : Word := 0
  trapinfo : Word := 0
  trapmask : Word := 0
  trapem : Word := 0
  /-- The handler-active bit (06 R158). -/
  hact : Bool := false
  vcount : Word := 0
  phact : Bool := false
  ppriv : Bool := false
  priv : Bool := false
  intrap : Bool := false
  spc : Word := 0
  scause : Word := 0
  sinfo : DWord := 0
  smask : Word := 0
  sem : Word := 0
  sword : Word := 0
  sscr : Tab Word := []
  /-- TIMESTAMP at the system trap entry in progress (13 R310). -/
  trapAt : Nat := 0
  /-- The pending event of 13 R321. -/
  pending : Option Trap := none
  /-- The fault of the argument block, which the first instruction meets (01 R38). -/
  argFault : Option Trap := none
  /-- Words captured by the loop buffer, by code address (03 R85). -/
  lbuf : Tab Word := []
  /-- Words fetched and not yet issued, by code address (06 R161). -/
  fetched : Tab Word := []
  copyQ : List CopyCmd := []
  mxQ : List MxCmd := []
  mxSeq : Nat := 0
  /-- Matrix commands issued and not complete: issue number, tile names (09 R248). -/
  mxOut : List (Nat × List Nat) := []
  /-- Copies counted toward each unfinished batch (03 R76): batch number and copies not complete. -/
  batchOut : Tab Nat := []
  loads : List PendingLoad := []
  wait : Option Wait := none
  ended : Bool := false
  efaults : List EngineFault := []
  /-- Bytes that remote responses have brought for the instruction in hand, at 2^53 lane + physical address, and
  those that came poisoned (19 R449). -/
  rdata : Tab Byte := []
  rpoison : List Nat := []
  /-- The engine operation whose fault the system handler in progress attends to (15 R366). -/
  serving : Option EngineFault := none
  /-- Registers of the bank that hold an uncorrectable error: v0 to v55 as 0 to 55, c0 to c31 as 64 to 95, p0 to p6 as 96
  to 102 (03 R74, 13 R311, R313). -/
  regBad : List Nat := []
  /-- Cycles delivered when the stream began to wait for load data, while it waits (18 R425). -/
  dataWait : Option Nat := none
  /-- The stream's register bank is drowsy (18 R425). -/
  drowsy : Bool := false
  /-- TIMESTAMP when the CTXSAVE in progress began: its image's STAMP (13 R319). -/
  saveAt : DWord := 0
  deriving DecidableEq, Repr

/-- Where a resident crew stands (14 R350). -/
inductive Place where
  | slot (n : Nat)
  /-- Ready since the delivered cycle, in the order of the number. -/
  | ready (order cycle : Nat)
  | waiting
  | parked
  deriving DecidableEq, Repr

/-- A crew (01 R14, R18, 10 R266). -/
structure Crew where
  loadQ : Tab (List QEntry) := []
  storeQ : Tab (List QEntry) := []
  seed : Option DWord := none
  place : Place := .waiting
  /-- Cycles delivered when the crew last entered its slot (01 R24). -/
  since : Nat := 0
  /-- Stopped for a park of its gang (13 R315). -/
  stopped : Bool := false
  ended : Bool := false
  /-- The model's own: the step in which one of its streams last executed an instruction that synchronises (09 R240, log
  entry 97). -/
  syncAt : Nat := 0
  deriving DecidableEq, Repr

/-- An accumulator tile (03 R81): bytes, label, poisoned rows, those of them whose error is one of integrity. -/
structure Tile where
  bytes : List Host.Cell := []
  label : Label := 0
  poison : List Nat := []
  integ : List Nat := []
  deriving DecidableEq, Repr

/-- A path of a gang-divergent branch: its threads in ascending virtual id and where it starts (01 R26). -/
structure Path where
  vids : List Nat
  addr : BitVec 24
  deriving DecidableEq, Repr

/-- An entry of the gang reconvergence stack (01 R26, R27). -/
structure Reconv where
  addr : BitVec 24
  /-- The crews of the meeting. -/
  crews : List Nat
  /-- Each crew's stream as it stood at the BRG. -/
  saved : Tab Stream
  /-- The remapping table at the BRG. -/
  remap : Tab Nat
  /-- The crews that run the path in progress. -/
  running : List Nat
  /-- Paths still to run. -/
  pending : List Path
  /-- The labels of predicates in the packed streams that held threads of a crew when their path ended (01 R27). -/
  raised : Tab (Tab LV) := []
  deriving DecidableEq, Repr

/-- A park request (13 R315). -/
inductive ParkReq where
  | none | boundary | preempt
  deriving DecidableEq, Repr

/-- A box of memory (01 R31). -/
structure Box where
  base : DWord
  len : Nat
  count : Nat
  pitch : DWord
  step : DWord
  deriving DecidableEq, Repr

/-- A gang resident, parked or completed but not yet collected (01 R20, R37, 13 R314). -/
structure Gang where
  part : Nat := 0
  node : Nat := 0
  /-- The instance the gang runs for, by uid, whatever stands in the node table later. -/
  uid : Nat := 0
  gangid : Nat := 0
  handle : Word := 0
  /-- The handle is live (13 R314). -/
  live : Bool := true
  crews : Nat := 1
  single : Bool := true
  core : Nat := 0
  tiles : Nat := 0
  tstride : Nat := 0
  smin : Nat := 0
  smax : Nat := 0
  spcur : Nat := 0
  nodeptr : DWord := 0
  rcbptr : DWord := 0
  effcfg : DWord := 0
  /-- The code image: address of page 0, pages, resident pages, handler and loader (01 R32). -/
  code : DWord := 0
  pages : Nat := 1
  resident : Nat := 1
  handler : Option (BitVec 24) := none
  loader : Option (BitVec 24) := none
  wkind : Nat := 0
  scratch : List Host.Cell := []
  scratchLab : Tab Label := []
  /-- Lines that hold an uncorrectable error, and those of them whose error came from an integrity-poisoned sector
  (13 R313, 17 R409). -/
  scratchPoison : List Nat := []
  scratchInteg : List Nat := []
  tileStore : Tab Tile := []
  /-- Virtual thread id held by lane l of crew c, at key 32 c + l (01 R20, R28). -/
  remap : Tab Nat := []
  stack : List Reconv := []
  triggered : Bool := false
  witness : List (Word × Label) := []
  /-- Pages opened and sealed by this gang, by pair number (10 R263). -/
  opened : List Nat := []
  sealedBy : List Nat := []
  /-- Places that SSEALs of its streams hold in a seal count: number of the stream within the gang, pair, version
  (10 R265). -/
  places : List (Nat × Nat × Nat) := []
  /-- Write ranges of a deterministic partition (08 R215). -/
  ranges : List Box := []
  det : Bool := false
  parkHold : Bool := false
  shedHold : Bool := false
  req : ParkReq := .none
  /-- The park is complete (13 R315). -/
  parked : Bool := false
  /-- TIMESTAMP when a shed's boundary park was asked for (18 R439). -/
  shedAt : Option Nat := none
  /-- Order of parking (18 R440). -/
  parkOrder : Nat := 0
  /-- The acquire of 13 R316 or 04 R103 is due in these crews. -/
  acquireDue : List Nat := []
  /-- Scratchpad accesses and backed-area accesses of the interval (03 R88). -/
  spAcc : Nat := 0
  spBack : Nat := 0
  /-- Order of placement on its core (03 R88). -/
  placed : Nat := 0
  completed : Bool := false
  /-- Stopped for good by the end of its node (13 R324). -/
  halted : Bool := false
  /-- Cycles or nanoseconds parked by a self-test or retirement (16 R396, R397). -/
  assayHold : Bool := false
  /-- Ordinals of logged operations by virtual id (16 R402). -/
  ords : Tab Nat := []
  /-- Reservation entries that a park removed, in acceptance order (09 R254). -/
  mxSaved : List MxEntry := []
  deriving DecidableEq, Repr

/-- How a page says its bytes are held: home die, non-coherent, policy (15 R360, 08 R205), with the way mask of the
accessing partition on the accessing die, 0 for an agent without one (15 R368), and the cache hint (08 R205). -/
structure Attr where
  home : Nat
  nc : Bool
  cpol : Nat
  ways : Nat := 0
  hint : Nat := 0
  deriving DecidableEq, Repr

/-- A sector of a core's L1 (03 R86): 32 bytes, which are dirty and since when, how its page is held, and the order in
which its line was filled and last used. -/
structure Sector where
  bytes : List Byte
  dirty : List Bool
  held : Attr
  since : Nat
  filled : Nat
  used : Nat
  deriving DecidableEq, Repr

/-- A leaf's attributes as a TLB entry holds them (15 R360, R364). -/
structure Leaf where
  /-- Size of the page in bytes, and its physical address. -/
  size : Nat
  pa : Nat
  prot : Bool
  log : Bool
  stg : Bool
  home : Nat
  nc : Bool
  cpol : Nat
  label : Label
  user : Bool
  write : Bool
  /-- The way mask of the partition on the die that walked (15 R368). -/
  ways : Nat
  deriving DecidableEq, Repr

/-- What a translation of a staging page says beside its leaf (15 R363): the pair it reaches, the frame of the current
version, whether that version may be read by all, and the instance whose writers may reach it. -/
structure Staged where
  key : Nat
  frame : Nat
  readable : Bool
  writer : Option Nat
  deriving DecidableEq, Repr

/-- A translation held by a TLB or a load port, with the frame and access of a staging page (15 R364). -/
structure TlbEntry where
  part : Nat
  vpage : Nat
  leaf : Leaf
  stage : Option Staged := none
  deriving DecidableEq, Repr

/-- A frame of the instruction scratchpad (03 R83). Supervisor pages are those of the partition's image. -/
structure Frame where
  sup : Bool
  part : Nat
  image : DWord
  page : Nat
  /-- The page's words, by word number; an unlisted word is zero. -/
  words : Tab Word
  used : Nat
  deriving DecidableEq, Repr

/-- A granule move in progress (03 R89): the gang and the new size. -/
structure GranMove where
  gang : Nat
  spcur : Nat
  deriving DecidableEq, Repr

/-- A core (00 R1). -/
structure Core where
  frames : List Frame := []
  l1 : Tab Sector := []
  outcl : Signature := 0
  outdi : Signature := 0
  outdv : Signature := 0
  sigIn : Signature := 0
  tlb : List TlbEntry := []
  seq : BitVec 16 := 0
  /-- Cycles delivered when the adaptation interval began (03 R88). -/
  interval : Nat := 0
  move : Option GranMove := none
  /-- Granules of the array that the L1 holds (03 R86). -/
  l1gran : Nat := 16
  /-- The shadow ways of the sampling sets, most recent line first, and the interval's counters (03 R88). -/
  shadow : Tab (List Nat) := []
  l1total : Nat := 0
  l1gain : Nat := 0
  l1tail : Nat := 0
  /-- Packages written since the last domain release, and remote writes not acknowledged (04 R115). -/
  wrotePkg : List Nat := []
  /-- Packages to which a release store's or a releasing atomic's message is due: it goes out once the remote writes listed
  have been acknowledged (04 R113, R115). -/
  relDue : List (Nat × List Nat) := []
  /-- Lane groups gated, at 4 slot + group, and cycles delivered when each group last had an Active() lane (18 R426). -/
  gated : List Nat := []
  laneUse : Tab Nat := []
  placements : Nat := 0
  deriving DecidableEq, Repr

/-- A weight slot (03 R82). -/
structure WSlot where
  owner : Option Nat := none
  valid : Bool := false
  /-- 12,288 data bytes then 512 scale bytes, by offset. -/
  bytes : List Host.Cell := []
  /-- Set 1's TYPE, VAR, BLK and SCL at issue, in the layout of a mode set. -/
  mode : Word := 0
  label : Label := 0
  poison : Bool := false
  integ : Bool := false
  deriving DecidableEq, Repr

/-- A phase of an island's droop response (18 R430). -/
inductive Droop where
  | none
  /-- The detector has tripped: the response begins with the next cycle. -/
  | tripped
  /-- Stretched cycles still to be delivered. -/
  | stretch (left : Nat)
  /-- Halved cycles delivered so far. -/
  | halve (count : Nat)
  deriving DecidableEq, Repr

/-- The state of an island as ISLSTAT names it (18 R428). -/
inductive IslandState where
  | off | waking | running | retention | switching | retired
  deriving DecidableEq, Repr

/-- A cluster and its island (00 R1, 18). -/
structure Cluster where
  cycles : DWord := 0
  /-- Time since the last delivered cycle, in twelfths of a nanosecond (00 R8). -/
  phase : Nat := 0
  /-- The length of the cycle in progress, fixed when it started, in the same unit (18 R423, R430). -/
  length : Nat := 0
  rnsmap : Word := 0
  slots : Tab WSlot := []
  /-- The reservation table in acceptance order (09 R235). -/
  table : List MxEntry := []
  /-- Accepted copies of its streams, in order of acceptance. -/
  copies : List Copy := []
  /-- Translations of the engine load port (15 R364). -/
  port : List TlbEntry := []
  islctl : Word := 0x00000103
  droopctl : Word := 0x80406014
  droopcnt : Word := 0
  island : IslandState := .off
  railNow : Bool := false
  /-- TIMESTAMP until which the detector is masked after a rail switch (18 R423). -/
  maskTill : Nat := 0
  droop : Droop := .none
  strikes : Nat := 0
  /-- TIMESTAMP when its last gang left (18 R427). -/
  emptyAt : Nat := 0
  /-- A self-test is in progress (16 R397), reported for the node. -/
  selfTest : Option (Nat × Nat) := none
  /-- Reports of a residue failure that came while a self-test was in progress (16 R397). -/
  moreTests : List (Nat × Nat) := []
  /-- The core whose turn it is to have a matrix command accepted (09 R235). -/
  mxTurn : Nat := 0
  /-- Physical engine channels whose adder is faulty, with what it adds to every sum (09 R251, 16 R397). -/
  adder : Tab Nat := []
  deriving DecidableEq, Repr

/-- The state of a line in a die's L2 (15 R369); an absent line is I. -/
inductive Coh where
  | m | e | s | nc
  deriving DecidableEq, Repr

/-- A line of a die's L2: its state and bytes, the home it answers to, its way among the sixteen of its set, its keep
priority, and the order of its last use (15 R368). -/
structure L2Line where
  st : Coh
  bytes : List Byte
  home : Nat := 0
  way : Nat := 0
  keep : Bool := false
  used : Nat := 0
  deriving DecidableEq, Repr

/-- The directory's state of a line (15 R372); an absent entry is U. -/
inductive DirState where
  | shared (dies : List Nat)
  | owned (die : Nat)
  deriving DecidableEq, Repr

/-- Kinds of coherence message (15 R370). -/
inductive MsgKind where
  | readShared | readOwn | upgrade | writeBack | grant | recallS | recallI | invalidate | recallReply | invAck
  deriving DecidableEq, Repr

/-- A coherence message in flight between a die and a home. -/
structure Msg where
  kind : MsgKind
  home : Nat
  die : Nat
  line : Nat
  data : Option (List Byte) := none
  /-- The state a Grant brings. -/
  st : Coh := .s
  deriving DecidableEq, Repr

/-- A transaction of a home for a line (15 R371): the request served, the answers still due. -/
structure Txn where
  die : Nat
  kind : MsgKind
  due : List Nat
  deriving DecidableEq, Repr

/-- A directory entry (15 R372). -/
structure DirEntry where
  st : Option DirState
  txn : Option Txn := none
  waiting : List (Nat × MsgKind) := []
  used : Nat := 0
  deriving DecidableEq, Repr

/-- A die: its L2, the lines it asked for, its home directory, the walk cache (15). -/
structure Die where
  l2 : Tab L2Line := []
  /-- Requests of this die without their Grant, by line, with how the line is to be held. -/
  asked : Tab (MsgKind × Attr) := []
  dir : Tab DirEntry := []
  ncin : Signature := 0
  /-- Table entries of levels 0 to 3 the walk cache holds: partition, physical address, entry. -/
  walks : List (Nat × Nat × DWord) := []
  deriving DecidableEq, Repr

/-- A node descriptor (01 R30) with its lists. -/
structure NodeDesc where
  gangs : Nat := 1
  threads : Nat := 1
  single : Bool := true
  kind : Nat := 2
  cores : Bool := false
  early : Bool := false
  wkind : Nat := 0
  smin : Nat := 0
  smax : Nat := 0
  tiles : Nat := 0
  kdesc : DWord := 0
  args : DWord := 0
  rcb : DWord := 0
  xdie : Nat := 0
  inBoxes : List Box := []
  outBoxes : List Box := []
  /-- The staged output list, eight words an entry (16 R379). -/
  staged : List (List DWord) := []
  preds : List DWord := []
  deriving DecidableEq, Repr

/-- A kernel descriptor (01 R32). -/
structure KernDesc where
  code : DWord := 0
  entry0 : BitVec 24 := 0
  entry1 : BitVec 24 := 0
  pages : Nat := 1
  resident : Nat := 1
  handler : Option (BitVec 24) := none
  loader : Option (BitVec 24) := none
  seed : Word := 0
  threads : Nat := 1
  single : Bool := true
  kind : Nat := 2
  smin : Nat := 0
  smax : Nat := 0
  tstride : Nat := 0
  deriving DecidableEq, Repr

/-- One RCB of a chain, with the values in force captured at acceptance (13 R304, R305). -/
structure RcbLink where
  addr : DWord
  cores : Nat
  tiles : Nat
  memq : Nat
  energy : Nat
  cfg : DWord
  deriving DecidableEq, Repr

/-- An RCB that has come into use (13 R303): its address, the energy charged in pJ, where it lies in local memory as
captured when it came into use, and its level in the tree. -/
structure RcbUse where
  addr : DWord
  pj : Nat
  /-- EUSED in mJ as of the last update (18 R432). -/
  shown : Nat
  pa : Nat
  held : Attr
  depth : Nat
  deriving DecidableEq, Repr

/-- Where an instance stands (14 R338). -/
inductive NodeState where
  | waiting | ready | placing | placed | handoff | complete | ended
  deriving DecidableEq, Repr

/-- Where an accepted instance came from (14 R335). -/
inductive Origin where
  | post | launch | rerun
  deriving DecidableEq, Repr

/-- A (pair, version) of a node record, or a foreign one with its package (16 R383, 19 R451). -/
structure VerRef where
  pkg : Option Nat := none
  pair : Nat
  version : Nat
  deriving DecidableEq, Repr

/-- A node instance (14 R338). -/
structure Node where
  /-- Order of acceptance, unique. -/
  uid : Nat := 0
  /-- INSTANCE: its number in the partition's table (14 R336). -/
  inst : Nat := 0
  addr : DWord := 0
  desc : NodeDesc := {}
  kern : KernDesc := {}
  chain : List RcbLink := []
  eff : DWord := 0
  st : NodeState := .waiting
  origin : Origin := .post
  readyAt : Nat := 0
  /-- Instances this one is bound to as predecessors, by uid (14 R337). -/
  preds : List Nat := []
  placed : Nat := 0
  /-- Gangs that have completed, by GANGID, and gangs that triggered (01 R35, R37). -/
  doneGangs : List Nat := []
  trigGangs : List Nat := []
  lastDie : Option Nat := none
  xdie : Nat := 0
  xclu : DWord := 0
  /-- Probe: cluster and class (14 R354). -/
  probe : Option (Nat × Nat) := none
  attempt : Nat := 1
  /-- The fault record entry of the failure this attempt answers (16 R391). -/
  entry : Option Nat := none
  /-- The instance that this one runs again, by uid. -/
  orig : Option Nat := none
  record : List VerRef := []
  ovf : Bool := false
  seed : Option DWord := none
  status : Nat := 0
  /-- Doomed, by which entry of the fault record, whether a re-run has been posted, and the kind-12 entry (16 R392). -/
  doomed : Bool := false
  cause : Nat := 0
  reposted : Bool := false
  depEntry : Option Nat := none
  /-- The node ends at the ERET of its stream in the system handler (17 R417). -/
  endAtEret : Bool := false
  /-- Left void by a node that ended with status 0x8006 (14 R340, 16 R392). -/
  left : Bool := false
  /-- It completed with a seal count not reached (16 R395). -/
  short : Bool := false
  /-- The witness passed, or was tested and failed (16 R386). -/
  passed : Bool := false
  tested : Bool := false
  /-- Staged pairs of the node: index in its list, pair number, version opened (16 R379). -/
  versions : List (Nat × Nat × Nat) := []
  /-- Witness areas handed over: GANGID, core, words (01 R37). -/
  witness : List (Nat × Nat × List Word) := []
  /-- The core each gang completed on, and every core that a gang of the instance has been placed or loaded on
  (16 R391). -/
  ranOn : List (Nat × Nat) := []
  wasOn : List Nat := []
  energyPj : Nat := 0
  energyMj : Nat := 0
  unlogged : Bool := false
  /-- The instance repeats one whose order log is whole, and follows it (16 R403). -/
  follows : Bool := false
  /-- TIMESTAMP of the first failed choice of placement (14 R346). -/
  stuckAt : Option Nat := none
  memCharge : Nat := 0
  lastPlaced : Nat := 0
  deriving DecidableEq, Repr

/-- The state of a version of a staged page (10 R263). -/
inductive VerState where
  | opened | sealed | released | void
  deriving DecidableEq, Repr

/-- A version of a staged page (10 R263, R265, 16 R382): its state, the producing instance's uid, its digest once taken,
and whether it is to become void at its seal. A version not listed is released. -/
structure Ver where
  st : VerState := .released
  node : Option Nat := none
  digest : Option Nat := none
  doomed : Bool := false
  deriving DecidableEq, Repr

/-- A staging frame pair (16 R381): the current version, its versions, the partition and virtual page, the seal count,
the places that SSEALs hold in it, the SSEALs that have proceeded, and the fill in progress with its K. -/
structure Pair where
  version : Nat := 0
  vers : Tab Ver := []
  part : Nat := 0
  page : DWord := 0
  sealCount : Nat := 0
  places : Nat := 0
  seals : Nat := 0
  filling : Bool := false
  carry : Bool := false
  deriving DecidableEq, Repr

/-- A failed test that attempts still answer (16 R391 to R395): its entry, the first failing check and word, the first
run's core and digests, the dies and clusters excluded so far, and the digests of the attempt that was released. -/
structure Failure where
  entry : Nat
  part : Nat
  check : Nat
  tag : Nat
  widx : Nat
  core1 : Nat
  digests : List Nat
  xdie : Nat
  xclu : DWord
  released : List Nat := []
  deriving DecidableEq, Repr

/-- A re-execution post (14 R354); origUid says which run of that INSTANCE it repeats. -/
structure RePost where
  addr : DWord
  xclu : DWord
  orig : Nat
  origUid : Nat
  xdie : Nat
  probe : Option (Nat × Nat)
  attempt : Nat
  entry : Option Nat
  deriving DecidableEq, Repr

/-- One member's input to a collective: its bytes, their label, the error they came with, and the unreleased versions
they came from (10 R276, R277). -/
structure CollIn where
  bytes : List Byte := []
  label : Label := 0
  bad : Bad := .none
  prov : List VerRef := []
  deriving DecidableEq, Repr

/-- A collective outstanding at this package (10 R273): its stream and number, operation, descriptor and its words once
read, guard slot while held, error found, addresses whose faults have been delivered (15 R366), its own input once read,
and the inputs of all members by rank once every member has arrived. -/
structure Coll where
  id : Nat
  stream : Nat
  num : Nat
  op : Nat
  descAddr : DWord
  guard : Option Nat := none
  desc : List DWord := []
  deadline : Option Nat := none
  err : Nat := 0
  walked : List Nat := []
  input : Option CollIn := none
  all : Option (List CollIn) := none
  deriving DecidableEq, Repr

/-- A host ring (19 R446). -/
structure Ring where
  lo : Word := 0
  hi : Word := 0
  cfg : Word := 0
  head : Word := 0
  tail : Word := 0
  /-- Entries waiting in the headframe: two 64-bit words each. -/
  wait : List (DWord × DWord) := []
  /-- MSI-X signals sent. -/
  irqs : Nat := 0
  deriving DecidableEq, Repr

/-- A partition (13 R300, R308). -/
structure Part where
  released : Bool := false
  partcfg : Word := 0
  partclu : DWord := 0
  partroot : DWord := 0
  svec : Word := 0
  simg : DWord := 0
  simgsz : Word := 0
  htime : Word := 100
  shedstat : Word := 0
  ptbase : DWord := 0
  strict : Bool := false
  ways : List Nat := []
  /-- Protected ranges: base and size (17 R410). -/
  ranges : List (Nat × Nat) := []
  /-- Storage withheld for the counter trees, one range each (17 R410). -/
  withheld : List (Nat × Nat) := []
  logBase : Nat := 0
  logSize : Nat := 0
  logPos : Nat := 0
  /-- Entries of the order log that are kept: slot of the ring, the instance's uid and two words each, oldest first
  (16 R402). -/
  log : List (Nat × Nat × DWord × DWord) := []
  /-- Log entries that a replay has still to follow, with the replaying instance's number (16 R403). -/
  replay : List (DWord × DWord) := []
  /-- Locations whose replay has ended: instance's number and physical address (16 R403). -/
  replayEnded : List (Nat × Nat) := []
  posts : List DWord := []
  /-- A post taken by the hub and not accepted yet: its ROOTNODE and RCB (14 R334). -/
  hubPost : Option (DWord × DWord) := none
  repost : List RePost := []
  post0 : Word := 0
  post1 : Word := 0
  post2 : Word := 0
  post3 : Word := 0
  /-- Posts that the host adapter holds, oldest first: the RCB address, and whether the reserved words are zero (19 R443). -/
  heldPosts : List (DWord × Bool) := []
  rings : List Ring := [{}, {}, {}]
  pshed : Word := 0x00000007
  /-- A level in force that has not yet taken effect, and the level applied (18 R439). -/
  applied : Nat := 0
  /-- The instance the placement reservation is held for (14 R346). -/
  reserve : Option Nat := none
  /-- Most recent instance of each descriptor address: address, uid (14 R337). -/
  latest : List (DWord × Nat) := []
  /-- The keys drawn or derived: memory, context, transfer; empty for none (17 R407). -/
  memKey : List Byte := []
  ctxKey : List Byte := []
  xferKey : List Byte := []
  /-- Which encapsulation key pair the assay die drew (17 R407), and the NONCE of the last report (17 R412, R419). -/
  encapKey : Nat := 0
  repNonce : List Byte := []
  exchanged : Bool := false
  /-- Weight keys: index, the 32 bytes (17 R413). -/
  wkeys : Tab (List Byte) := []
  /-- The eviction table: page, version, quarantined, fault domain, out (17 R416). -/
  evict : List (DWord × Nat × Bool × Nat × Bool) := []
  groups : Tab (List (Nat × Nat × DWord × Nat)) := []
  nonce : Nat := 0
  /-- RCBs in use (13 R303). -/
  rcbs : List RcbUse := []
  deriving DecidableEq, Repr

/-- A remote access with no answer yet (19 R449). -/
structure Remote where
  id : Nat
  core : Nat
  stream : Option Nat
  pkg : Nat
  pa : Nat
  /-- Bytes of a load or atomic, and the lane it is for. -/
  len : Nat
  lane : Nat
  /-- 0 load, 1 store, 2 atomic. -/
  kind : Nat
  deadline : Nat
  /-- The engine operation that an access is for. -/
  op : Option Nat := none
  /-- The bytes that a store carries. -/
  data : List Byte := []
  deriving DecidableEq, Repr

/-- A saved context (13 R318): the gang, its crews and streams, and the slots it owned. -/
structure Context where
  serial : Nat
  gang : Gang
  crews : Tab Crew
  streams : Tab Stream
  slots : Tab WSlot
  sealed : Bool
  nodeUid : Nat
  ckind : Nat
  /-- The collectives of its streams, held or pending (03 R77, 10 R273, R278). -/
  colls : List Coll := []
  deriving DecidableEq, Repr

/-- An entry of the fault record (16 R404): SEQ, eight words, final or not. -/
structure FaultEntry where
  seq : Nat
  words : List DWord
  final : Bool
  deriving DecidableEq, Repr

/-- The operands of the event in hand, in the order its constructor's docstring names them: numbers in n0 to n4,
lists of bytes in bytes, lists of numbers in nums. -/
structure Ev where
  n0 : Nat := 0
  n1 : Nat := 0
  n2 : Nat := 0
  n3 : Nat := 0
  n4 : Nat := 0
  bytes : List Byte := []
  nums : List Nat := []
  deriving DecidableEq, Repr

/-- The package. -/
structure State where
  /-- TIMESTAMP: nanoseconds since package reset (00 R8). -/
  timestamp : DWord := 0
  streams : Tab Stream := []
  crews : Tab Crew := []
  gangs : Tab Gang := []
  cores : Tab Core := []
  clusters : Tab Cluster := []
  dies : Tab Die := []
  /-- Local memory (15 R355): canonical, an unlisted byte is zero (19 R453). -/
  mem : List Host.Cell := []
  /-- Marks of 64-byte sectors that carry one. -/
  marks : Tab Mark := []
  /-- Write counters of protected sectors (17 R410). -/
  counters : Tab Nat := []
  /-- Key ids of 64 KiB frames (17 R408). -/
  keyids : Tab Nat := []
  /-- Host memory: canonical, an unlisted byte is zero. -/
  hostMem : List Host.Cell := []
  msgs : List Msg := []
  parts : Tab Part := []
  nodes : Tab Node := []
  /-- Instances that have completed or ended, by uid, for the assay die (14 R336, 16 R386). -/
  past : Tab Node := []
  /-- Completion records of ended instances whose gangs have not all left their cores: uid, partition, two words
  (13 R324, 19 R447). -/
  endRecs : List (Nat × Nat × DWord × DWord) := []
  pairs : Tab Pair := []
  colls : List Coll := []
  /-- Members whose next collective of a group ends abandoned: partition, group, rank (10 R278). -/
  abandoned : List (Nat × Nat × Nat) := []
  /-- Members whose collective of a group has ended in error with no part in the exchange: partition, group, rank, once for each
  such collective; the members it was to meet wait in vain (10 R278). -/
  failed : List (Nat × Nat × Nat) := []
  failures : List Failure := []
  contexts : List Context := []
  remotes : List Remote := []
  /-- Bytes that remote responses have brought for engine operations, by operation and physical address, and the
  operations that an error has reached (19 R449). -/
  opData : Tab (Tab Byte) := []
  opBad : List Nat := []
  /-- Foreign versions: package, pair, version, deadline of their notice (19 R451). -/
  foreign : List (Nat × Nat × Nat × Nat) := []
  /-- Foreign versions known to be void: package, pair, version (10 R277, 19 R451). -/
  foreignVoid : List (Nat × Nat × Nat) := []
  /-- Packages that hold provisional data of a version of this one: package, pair, version; and the notices on their way
  to them: package, two words (16 R384). -/
  provisional : List (Nat × Nat × Nat) := []
  notices : List (Nat × DWord × DWord) := []
  /-- Release messages awaiting acknowledgement: package, sequence, core (04 R115). -/
  releases : List (Nat × Nat × Nat) := []
  relSeq : Nat := 0
  /-- The last acknowledgement of a release message that this package sent: destination package, word 0 and word 1
  (19 R450). -/
  fabricAck : Option (Nat × DWord × DWord) := none
  ing : Signature := 0
  /-- The fault record (16 R404). -/
  record : List FaultEntry := []
  recSeq : Nat := 0
  held : List FaultEntry := []
  lost : Nat := 0
  /-- The retirement map: cluster mask, lasting counts (16 R396). -/
  retired : DWord := 0
  lasting : Tab Nat := []
  channels : Tab Nat := []
  health : Word := 0
  seeds : Nat := 0
  keys : Nat := 0
  /-- The device memory key: the XTS keys and the tag key, 96 bytes; empty before the first reset draws it (17 R407). -/
  deviceKey : List Byte := []
  firmware : List Byte := []
  mboxlo : Word := 0
  mboxhi : Word := 0
  /-- Host address of the command block that the last write to MBOXLO started (19 R448). -/
  mboxAddr : Nat := 0
  mboxBusy : Bool := false
  mboxStatus : BitVec 16 := 0
  aperbase : Word := 0
  fabid : Word := 0
  bustat : Word := 0
  /-- The operands of the bring-up in progress (19 R453). -/
  bring : Option Ev := none
  routes : Tab DWord := []
  ready : Bool := false
  telcfg : Word := 0x15182710
  shedcfg : Word := 0x00641400
  /-- SHEDCFG as it stood at the last valid frame: what is in force (18 R436). -/
  shedEff : Word := 0x00641400
  curves : Tab Word := []
  telstat0 : Word := 0
  telstat1 : Word := 0
  hyst : Nat := 0
  /-- TIMESTAMP of the last valid frame, or in fail-safe of the last frame time counted (18 R436, R437). -/
  frameAt : Nat := 0
  wakeQ : List Nat := []
  linkReplays : Nat := 0
  linkFails : List Nat := []
  retraining : Bool := false
  linkDown : Bool := false
  portsDown : List Nat := []
  /-- Data the last host read returned, and the pair and version of each sealed version they came from: their tag
  (19 R444, 16 R398). -/
  hostRead : List Byte := []
  hostTag : List (Nat × Nat) := []
  /-- Bytes of the last response to an access of another package, with their tag (19 R449, R451). -/
  fabricRead : List Byte := []
  fabricTag : List (Nat × Nat) := []
  /-- TIMESTAMP of the last energy update, in ms (18 R432). -/
  energyMs : Nat := 0
  /-- The model's own: events that move next, in order (log entry 1). -/
  agenda : List (Instr × Ev) := []
  /-- The model's own: the operands of the event in hand. -/
  ev : Ev := {}
  /-- The model's own: the stream in hand, and the word it issues. -/
  cur : Option Nat := none
  word : Word := 0
  /-- The model's own: the error of a register bank that the instruction in hand has read (13 R311, log entry 98). -/
  consumed : Option Trap := none
  /-- The model's own: how many predicates of the register file the instruction in hand reads (18 R432). -/
  predReads : Nat := 0
  /-- The model's own: the stream in hand stalls in its slot. -/
  stalled : Bool := false
  /-- The model's own: how many free values have been taken (log entries 3 and 7). -/
  free : Nat := 0
  /-- The model's own: how many steps have begun since a program was loaded (log entry 1). -/
  turns : Nat := 0
  /-- The model's own: a source of unique numbers for gangs, instances, operations and orders. -/
  fresh : Nat := 0
  /-- The model's own: load data come in a later step (log entry 3). -/
  lateLoads : Bool := false
  deriving DecidableEq, Repr

/-- The package right after reset, in step 1 of bring-up: nothing is resident, no partition is released, every
register holds its reset value (19 R453, R454; log entry 8 for the values the spec does not give). -/
def State.reset : State := {}

end Sys2Proof.Machine
end

