-- ==== Sys2Proof/Machine/Bits.lean ====
section
/-! DEFINITION. Bit fields, byte order, sparse tables and byte memories: the helpers every other file uses. -/

namespace Sys2Proof.Machine

/-- Bits hi to lo of a number (00 R11). -/
def bits (x hi lo : Nat) : Nat := x / 2 ^ lo % 2 ^ (hi + 1 - lo)

/-- One bit of a number. -/
def bitOf (x k : Nat) : Bool := x / 2 ^ k % 2 == 1

/-- A number of w bits read as two's complement. -/
def signed (w x : Nat) : Int :=
  let y := x % 2 ^ w
  if y < 2 ^ (w - 1) then (y : Int) else (y : Int) - (2 ^ w : Nat)

/-- The number of w bits that stands for an integer modulo 2^w. -/
def wrap (w : Nat) (z : Int) : Nat := (z % ((2 ^ w : Nat) : Int)).toNat

/-- A word from a number, modulo 2^32. -/
def w32 (n : Nat) : Word := BitVec.ofNat 32 n

/-- A doubleword from a number, modulo 2^64. -/
def w64 (n : Nat) : DWord := BitVec.ofNat 64 n

/-- A byte from a number, modulo 2^8. -/
def b8 (n : Nat) : Byte := BitVec.ofNat 8 n

/-- The higher of two labels (03 R93). -/
def Label.join (a b : Label) : Label := if a ≤ b then b else a

/-- A label from a number of two bits. -/
def labelOf (n : Nat) : Label := if n % 4 = 0 then 0 else if n % 4 = 1 then 1 else if n % 4 = 2 then 2 else 3

/-- A list of optional values as one, none if any is. -/
def allSome {α : Type} : List (Option α) → Option (List α)
  | [] => some []
  | none :: _ => none
  | some a :: rest =>
    match allSome rest with
    | none => none
    | some as => some (a :: as)

/-- Insertion of an element that stands before the first greater one. -/
def insertBy {α : Type} (before : α → α → Bool) (x : α) : List α → List α
  | [] => [x]
  | y :: rest => if before x y then x :: y :: rest else y :: insertBy before x rest

/-- A stable sort by insertion: x goes before the first y it precedes. -/
def sortBy {α : Type} (before : α → α → Bool) (xs : List α) : List α :=
  xs.foldl (fun acc x => insertBy before x acc) []

/-! Sparse tables: pairs of a key and a value, keys strictly rising. -/

/-- The value of a key, if it is listed. -/
def Tab.find {α : Type} (k : Nat) : Tab α → Option α
  | [] => none
  | (j, a) :: rest => if j = k then some a else Tab.find k rest

/-- The value of a key, or the value every unlisted key has. -/
def Tab.get {α : Type} (d : α) (t : Tab α) (k : Nat) : α := (Tab.find k t).getD d

/-- List a value at a key, in order, in place of what stood there. -/
def Tab.put {α : Type} (k : Nat) (a : α) : Tab α → Tab α
  | [] => [(k, a)]
  | (j, b) :: rest =>
    if k < j then (k, a) :: (j, b) :: rest
    else if k = j then (k, a) :: rest
    else (j, b) :: Tab.put k a rest

/-- Unlist a key. -/
def Tab.del {α : Type} (k : Nat) : Tab α → Tab α
  | [] => []
  | (j, b) :: rest => if j = k then Tab.del k rest else (j, b) :: Tab.del k rest

/-- Give a key a value, unlisting it where the value is the one every unlisted key has. -/
def Tab.set {α : Type} [DecidableEq α] (d : α) (t : Tab α) (k : Nat) (a : α) : Tab α :=
  if a = d then Tab.del k t else Tab.put k a t

/-- The values of a table. -/
def Tab.vals {α : Type} (t : Tab α) : List α := t.map Prod.snd

/-- Change every value of a table. -/
def Tab.mapVals {α : Type} (f : Nat → α → α) (t : Tab α) : Tab α := t.map fun p => (p.1, f p.1 p.2)

/-! Byte memories: canonical lists of cells, unlisted bytes zero. -/

/-- A byte of a memory. -/
def rdByte (m : List Host.Cell) (a : Nat) : Byte := Tab.get 0 m a

/-- Write a byte, keeping the canonical form. -/
def wrByte (m : List Host.Cell) (a : Nat) (b : Byte) : List Host.Cell := Tab.set 0 m a b

/-- n bytes from an address upwards. -/
def rdBytes (m : List Host.Cell) (a n : Nat) : List Byte := (List.range n).map fun i => rdByte m (a + i)

/-- Write bytes from an address upwards. -/
def wrBytes (m : List Host.Cell) (a : Nat) : List Byte → List Host.Cell
  | [] => m
  | b :: rest => wrBytes (wrByte m a b) (a + 1) rest

/-- Keys of a table rise strictly from a bound. -/
def risingFrom {α : Type} (lo : Nat) : Tab α → Bool
  | [] => true
  | (k, _) :: rest => decide (lo ≤ k) && risingFrom (k + 1) rest

/-- The canonical form of a memory: addresses strictly rising, no entry zero. -/
def Memory.wf (m : List Host.Cell) : Bool := risingFrom 0 m && m.all fun c => c.2 != 0

/-- The number that bytes stand for, the first the least significant (00 R4). -/
def leNat : List Byte → Nat
  | [] => 0
  | b :: rest => b.toNat + 256 * leNat rest

/-- The n bytes of a number, the least significant first (00 R4). -/
def leBytes : Nat → Nat → List Byte
  | 0, _ => []
  | n + 1, x => b8 x :: leBytes n (x / 256)

/-- n bytes of a memory as a number. -/
def rdNat (m : List Host.Cell) (a n : Nat) : Nat := leNat (rdBytes m a n)

/-- Cut bytes into the 64-bit words they hold. -/
def dwords : Nat → List Byte → List DWord
  | 0, _ => []
  | n + 1, bs => w64 (leNat (bs.take 8)) :: dwords n (bs.drop 8)

/-- Word k of a list, zero past its end. -/
def wordAt (ws : List DWord) (k : Nat) : Nat := (ws.getD k 0).toNat

/-! Vectors. -/

/-- A vector of 32 lanes from a function of the lane. -/
def Vec.ofFn (f : Nat → LV) : Vec := (List.range 32).map f

/-- Lane i of a vector. -/
def Vec.lane (v : Vec) (i : Nat) : LV := v.getD i {}

/-- The vector that is zero with label 0 in every lane. -/
def Vec.zero : Vec := List.replicate 32 {}

/-- Whether lane i is in a mask. -/
def inMask (m : Word) (i : Nat) : Bool := bitOf m.toNat i

/-- The lanes of a mask in ascending order. -/
def lanesOf (m : Word) : List Nat := (List.range 32).filter (inMask m)

/-- The mask of a set of lanes. -/
def maskOf (ls : List Nat) : Word := w32 (ls.foldl (fun acc i => if bitOf acc i then acc else acc + 2 ^ i) 0)

/-- The mask of the lanes a test holds for. -/
def maskWhere (f : Nat → Bool) : Word := maskOf ((List.range 32).filter f)

/-- A canonical 64-bit address: a sign-extended 56-bit one (01 R30). -/
def canonical (x : Nat) : Bool := bits x 63 55 == 0 || bits x 63 55 == 511

/-- The 56-bit address of a canonical 64-bit one. -/
def va56 (x : Nat) : Nat := x % 2 ^ 56

/-- Bytes as a number of them that a standard fixes: cut, or filled up with zeros. -/
def fitBytes (n : Nat) (bs : List Byte) : List Byte := (bs ++ List.replicate n 0).take n

/-- The value of bits of a word replaced. -/
def putBits (x hi lo v : Nat) : Nat := x - bits x hi lo * 2 ^ lo + v % 2 ^ (hi + 1 - lo) * 2 ^ lo

end Sys2Proof.Machine
end

