-- ==== Sys2Proof/Machine/Formats.lean ====
section
/-! DEFINITION. The 31 element types, decoding of their codes into exact values, the one rounding function, conversion
to integers and the stochastic generator (02 R46 to R61). -/

namespace Sys2Proof.Machine

/-! Element types (02 R46, R47). -/

/-- The width of an element type in bits; 0 for the reserved code. -/
def typeWidth (t : Nat) : Nat :=
  if t < 10 then 4 * 2 ^ (t % 5)
  else if t = 10 ∨ t = 11 then 16
  else if t = 12 then 32
  else if t = 13 then 64
  else if t < 17 then 4
  else if t < 31 then 8
  else 0

/-- The integer types, codes 0 to 9. -/
def isInt (t : Nat) : Bool := decide (t < 10)
/-- The signed integer types. -/
def isSigned (t : Nat) : Bool := decide (t < 5)
/-- f16, bf16, f32 and f64. -/
def isIeee (t : Nat) : Bool := decide (10 ≤ t) && decide (t < 14)
/-- The b4 types. -/
def isB4 (t : Nat) : Bool := decide (14 ≤ t) && decide (t < 17)
/-- The binary8 types. -/
def isB8 (t : Nat) : Bool := decide (17 ≤ t) && decide (t < 31)

/-- Elements in a 32-bit lane; a 64-bit element takes a pair (02 R47, 07 R187). -/
def perLane (w : Nat) : Nat := if w = 64 then 1 else 32 / w

/-! Exact values. -/

/-- An exact value of a floating-point element: NaN, an infinity, or sign, m and e for m 2^e. -/
inductive XVal where
  | nan
  | inf (neg : Bool)
  | fin (neg : Bool) (m : Nat) (e : Int)
  deriving DecidableEq, Repr

/-- The exact value of an integer. -/
def XVal.ofInt (z : Int) : XVal := .fin (decide (z < 0)) z.natAbs 0

/-- m 2^(e - k) as an integer, for k no greater than e. -/
def scaledInt (neg : Bool) (m : Nat) (e k : Int) : Int :=
  let x : Int := ((m * 2 ^ (e - k).toNat : Nat) : Int)
  if neg then -x else x

/-- The negative of a value. -/
def XVal.neg : XVal → XVal
  | .nan => .nan
  | .inf n => .inf !n
  | .fin n m e => .fin (!n) m e

/-- The exact sum; an exact zero from unlike signs or cancellation is negative where the flag says (07 R181). -/
def XVal.add (down : Bool) : XVal → XVal → XVal
  | .nan, _ => .nan
  | _, .nan => .nan
  | .inf a, .inf b => if a = b then .inf a else .nan
  | .inf a, .fin _ _ _ => .inf a
  | .fin _ _ _, .inf b => .inf b
  | .fin a m e, .fin b n f =>
    let k := min e f
    let z := scaledInt a m e k + scaledInt b n f k
    if z = 0 then
      if m = 0 ∧ n = 0 ∧ a = b then .fin a 0 0 else .fin down 0 0
    else .fin (decide (z < 0)) z.natAbs k

/-- The exact product (07 R181). -/
def XVal.mul : XVal → XVal → XVal
  | .nan, _ => .nan
  | _, .nan => .nan
  | .inf a, .inf b => .inf (a != b)
  | .inf a, .fin b n _ => if n = 0 then .nan else .inf (a != b)
  | .fin a m _, .inf b => if m = 0 then .nan else .inf (a != b)
  | .fin a m e, .fin b n f => .fin (a != b) (m * n) (e + f)

/-- The value times 2^k. -/
def XVal.scale (k : Int) : XVal → XVal
  | .fin n m e => .fin n m (e + k)
  | x => x

/-- Numeric order: -1, 0 or 1, none if either is NaN; zeros of either sign are equal. -/
def XVal.cmp : XVal → XVal → Option Int
  | .nan, _ => none
  | _, .nan => none
  | .inf a, .inf b => some (if a = b then 0 else if a then -1 else 1)
  | .inf a, .fin _ _ _ => some (if a then -1 else 1)
  | .fin _ _ _, .inf b => some (if b then 1 else -1)
  | .fin a m e, .fin b n f =>
    let k := min e f
    some (Int.sign (scaledInt a m e k - scaledInt b n f k))

/-- The value is zero. -/
def XVal.isZero : XVal → Bool
  | .fin _ m _ => m == 0
  | _ => false

/-- The value is NaN. -/
def XVal.isNan : XVal → Bool
  | .nan => true
  | _ => false

/-- The value is finite. -/
def XVal.isFin : XVal → Bool
  | .fin _ _ _ => true
  | _ => false

/-- The sign of a value. -/
def XVal.isNeg : XVal → Bool
  | .nan => false
  | .inf n => n
  | .fin n _ _ => n

/-! Formats (02 R49, R51, R54). -/

/-- A floating-point format: width, trailing significand bits, exponent bits, signed, IEEE. -/
structure Fmt where
  width : Nat
  tbits : Nat
  ebits : Nat
  sign : Bool
  ieee : Bool
  deriving DecidableEq, Repr

/-- The format of a floating-point type code. -/
def fmtOf (t : Nat) : Fmt :=
  if t = 10 then ⟨16, 10, 5, true, true⟩
  else if t = 11 then ⟨16, 7, 8, true, true⟩
  else if t = 12 then ⟨32, 23, 8, true, true⟩
  else if t = 13 then ⟨64, 52, 11, true, true⟩
  else if t < 17 then ⟨4, t - 14, 4 - (t - 13), true, false⟩
  else if t < 24 then ⟨8, t - 17, 8 - (t - 16), true, false⟩
  else ⟨8, t - 24, 9 - (t - 23), false, false⟩

/-- The exponent bias. -/
def Fmt.bias (f : Fmt) : Nat := if f.ieee then 2 ^ (f.ebits - 1) - 1 else 2 ^ (f.ebits - 1)

/-- The exponent of the least quantum. -/
def Fmt.qmin (f : Fmt) : Int := 1 - (f.bias : Int) - (f.tbits : Int)

/-- The NaN code: canonical, or the one of the family (02 R49, R51). -/
def Fmt.nanCode (f : Fmt) : Nat :=
  if f.ieee then (2 ^ f.ebits - 1) * 2 ^ f.tbits + 2 ^ (f.tbits - 1)
  else if f.sign then 2 ^ (f.width - 1)
  else 2 ^ f.width - 1

/-- The format has infinities in this variant. -/
def Fmt.hasInf (f : Fmt) (finite : Bool) : Bool := f.ieee || !finite

/-- The body of an infinity. -/
def Fmt.infBody (f : Fmt) : Nat :=
  if f.ieee then (2 ^ f.ebits - 1) * 2 ^ f.tbits
  else if f.sign then 2 ^ (f.width - 1) - 1
  else 2 ^ f.width - 2

/-- The body of the largest finite value. -/
def Fmt.maxBody (f : Fmt) (finite : Bool) : Nat := if f.hasInf finite then f.infBody - 1 else f.infBody

/-- A body with a sign. -/
def Fmt.withSign (f : Fmt) (neg : Bool) (body : Nat) : Nat := if neg && f.sign then 2 ^ (f.width - 1) + body else body

/-- The magnitude of a finite body: significand and exponent (02 R49, R51). -/
def Fmt.magnitude (f : Fmt) (body : Nat) : Nat × Int :=
  let ex := body / 2 ^ f.tbits
  let fr := body % 2 ^ f.tbits
  if ex = 0 then (fr, f.qmin)
  else (2 ^ f.tbits + fr, (ex : Int) - (f.bias : Int) - (f.tbits : Int))

/-- Decode a code of a floating-point type under a variant (02 R49, R51). -/
def decodeFloat (t : Nat) (finite : Bool) (code : Nat) : XVal :=
  let f := fmtOf t
  let c := code % 2 ^ f.width
  let neg := f.sign && bitOf c (f.width - 1)
  let body := if f.sign then c % 2 ^ (f.width - 1) else c
  let isNan := if f.ieee then decide (f.infBody < body) else c == f.nanCode
  if isNan then .nan
  else if f.hasInf finite ∧ body = f.infBody then .inf neg
  else
    let (m, e) := f.magnitude body
    .fin neg m e

/-- The exact value of an element of any type. -/
def decodeElem (t : Nat) (finite : Bool) (code : Nat) : XVal :=
  if isInt t then
    XVal.ofInt (if isSigned t then signed (typeWidth t) code else ((code % 2 ^ typeWidth t : Nat) : Int))
  else decodeFloat t finite code

/-! Rounding (02 R58 to R60). -/

/-- Round m / 2^k to an integer under a mode; the sign is that of the value, the draw that of stochastic mode. A tie under
mode 0 goes up where the lower neighbour is odd. -/
def roundMag (mode : Nat) (neg : Bool) (draw m k : Nat) (odd : Bool := m / 2 ^ k % 2 == 1) : Nat :=
  let n := m / 2 ^ k
  let rem := m % 2 ^ k
  if rem = 0 then n
  else
    let up : Bool :=
      if mode = 0 then decide (2 ^ k < 2 * rem) || (2 * rem == 2 ^ k && odd)
      else if mode = 1 then false
      else if mode = 2 then !neg
      else if mode = 3 then neg
      else if mode = 4 then decide (2 ^ k ≤ 2 * rem)
      -- frac measures the distance from the lower neighbour, which for a negative value is the greater magnitude.
      else if neg then !decide (draw < 2 ^ 32 * (2 ^ k - rem) / 2 ^ k)
      else decide (draw < 2 ^ 32 * rem / 2 ^ k)
    if up then n + 1 else n

/-- The code of the value n 2^q, which lies on the format's grid within its range. -/
def Fmt.encodeMag (f : Fmt) (n : Nat) (q : Int) : Nat :=
  if n = 0 then 0
  else
    let lead : Int := (Nat.log2 n : Int) + q
    let quantum := max (lead - (f.tbits : Int)) f.qmin
    let sig := if quantum ≤ q then n * 2 ^ (q - quantum).toNat else n / 2 ^ (quantum - q).toNat
    -- A subnormal has exponent field 0; a normal's field counts quanta above the least.
    if sig < 2 ^ f.tbits then sig
    else ((quantum - f.qmin).toNat + 1) * 2 ^ f.tbits + (sig - 2 ^ f.tbits)

/-- The lower neighbour n 2^q of a value is odd: its significand's last bit, or its code's in a format of precision 1, whose
significand has no fraction bit (02 R58; log entry 26). -/
def Fmt.oddAt (f : Fmt) (n : Nat) (q : Int) : Bool := if f.tbits = 0 then f.encodeMag n q % 2 == 1 else n % 2 == 1

/-- Round(type, x, mode) of 02 R59, under a variant and a saturation bit, with the draw of stochastic mode. -/
def roundFloat (t : Nat) (finite sat : Bool) (mode draw : Nat) (x : XVal) : Nat :=
  let f := fmtOf t
  match x with
  | .nan => f.nanCode
  | .inf neg =>
    if neg ∧ !f.sign then (if sat then 0 else f.nanCode)
    else if f.hasInf finite then f.withSign neg f.infBody
    else if sat then f.withSign neg (f.maxBody finite)
    else f.nanCode
  | .fin neg m e =>
    let lead : Int := (Nat.log2 m : Int) + e
    let quantum := max (lead - (f.tbits : Int)) f.qmin
    let k := (quantum - e).toNat
    let n := if quantum ≤ e then m * 2 ^ (e - quantum).toNat
      else roundMag mode neg draw m k (f.oddAt (m / 2 ^ k) quantum)
    if m = 0 ∨ n = 0 then (if f.ieee then f.withSign neg 0 else 0)
    else if neg ∧ !f.sign then (if sat then 0 else f.nanCode)
    else
      let (mm, me) := f.magnitude (f.maxBody finite)
      let k := min quantum me
      if mm * 2 ^ (me - k).toNat < n * 2 ^ (quantum - k).toNat then
        let toInf := mode == 0 || mode == 4 || mode == 5 || (mode == 2 && !neg) || (mode == 3 && neg)
        if sat ∨ !toInf then f.withSign neg (f.maxBody finite)
        else if f.hasInf finite then f.withSign neg f.infBody
        else f.nanCode
      else f.withSign neg (f.encodeMag n quantum)

/-- The least integer of an integer type. -/
def intMin (t : Nat) : Int := if isSigned t then -((2 ^ (typeWidth t - 1) : Nat) : Int) else 0
/-- The greatest integer of an integer type. -/
def intMax (t : Nat) : Int :=
  if isSigned t then ((2 ^ (typeWidth t - 1) : Nat) : Int) - 1 else ((2 ^ typeWidth t : Nat) : Int) - 1

/-- Narrow an exact integer to an integer type: clamped with saturation, otherwise its low bits (02 R48, 06 R167). -/
def narrow (t : Nat) (sat : Bool) (z : Int) : Nat :=
  wrap (typeWidth t) (if sat then max (intMin t) (min (intMax t) z) else z)

/-- An exact finite value rounded to an integer under a mode (02 R48). -/
def roundInt (mode draw : Nat) (neg : Bool) (m : Nat) (e : Int) : Int :=
  let n := if 0 ≤ e then m * 2 ^ e.toNat else roundMag mode neg draw m (-e).toNat
  if neg then -(n : Int) else (n : Int)

/-- Conversion of a floating-point value to an integer type: always saturating; NaN gives 0 and the infinities the
bounds (02 R48). -/
def floatToInt (t : Nat) (mode draw : Nat) : XVal → Nat
  | .nan => 0
  | .inf neg => wrap (typeWidth t) (if neg then intMin t else intMax t)
  | .fin neg m e => narrow t true (roundInt mode draw neg m e)

/-! The stochastic generator (02 R61). -/

/-- One step of the generator's register. -/
def drawStep (x : Nat) : Nat :=
  x % 2 ^ 31 * 2 + (bits x 31 31 + bits x 21 21 + bits x 1 1 + bits x 0 0) % 2

/-- A number of steps. -/
def drawSteps : Nat → Nat → Nat
  | 0, x => x
  | k + 1, x => drawSteps k (drawStep x)

/-- A draw: the new state after 32 steps. -/
def draw (x : Word) : Word := w32 (drawSteps 32 x.toNat)

/-- The generator of a thread at launch. -/
def genSeed (gangid vtid : Nat) (seed : Word) : Word :=
  let x := w32 (0x9E3779B9 * (gangid * 512 + vtid + 1)) ^^^ seed
  if x = 0 then 1 else x

/-! Scales (02 R55). -/

/-- The value of a scale byte: b8p1n or b8p3n, always in the finite variant. -/
def decodeScale (scl : Bool) (code : Nat) : XVal := decodeFloat (if scl then 26 else 24) true code

/-! Classes (07 R184). -/

/-- The class code of an element. -/
def classOf (t : Nat) (finite : Bool) (code : Nat) : Nat :=
  let f := fmtOf t
  let c := code % 2 ^ f.width
  let sub (body : Nat) : Bool := decide (body < 2 ^ f.tbits)
  let body := if f.sign then c % 2 ^ (f.width - 1) else c
  match decodeFloat t finite c with
  | .nan => if f.ieee ∧ !bitOf c (f.tbits - 1) then 8 else 9
  | .inf neg => if neg then 0 else 7
  | .fin neg m _ =>
    if m = 0 then (if neg then 3 else 4)
    else if neg then (if sub body then 2 else 1)
    else (if sub body then 5 else 6)

end Sys2Proof.Machine
end

