-- ==== Sys2Proof/Machine/Flags.lean ====
section
/-! DEFINITION. The integer operations on one element, the carries of IADDC and ISUBB, and the conditions and combining
types of compares (06 R164 to R176). -/

namespace Sys2Proof.Machine

/-- An element read as its integer type says. -/
def intVal (t x : Nat) : Int :=
  if isSigned t then signed (typeWidth t) x else ((x % 2 ^ typeWidth t : Nat) : Int)

/-- Operations whose second operand is an exact integer, so that an immediate can stand for it (06 R168, R177). -/
inductive ArithOp where
  | add | sub | mul | min | max
  deriving DecidableEq, Repr

/-- The exact result of an arithmetic operation. -/
def ArithOp.exact : ArithOp → Int → Int → Int
  | .add, a, b => a + b
  | .sub, a, b => a - b
  | .mul, a, b => a * b
  | .min, a, b => if a ≤ b then a else b
  | .max, a, b => if a ≤ b then b else a

/-- An arithmetic operation on one element: exact, then narrowed (06 R167). -/
def arith (op : ArithOp) (t : Nat) (sat : Bool) (a : Nat) (b : Int) : Nat := narrow t sat (op.exact (intVal t a) b)

/-- The high half of the double-width product (06 R168). -/
def mulHigh (t a b : Nat) : Nat :=
  let w := typeWidth t
  bits (wrap (2 * w) (intVal t a * intVal t b)) (2 * w - 1) w

/-- Bitwise operations (06 R168). -/
inductive LogicOp where
  | and | or | xor | andn
  deriving DecidableEq, Repr

/-- A bitwise operation on w bits. -/
def logic (op : LogicOp) (w a b : Nat) : Nat :=
  let x := a % 2 ^ w
  let y := b % 2 ^ w
  match op with
  | .and => x &&& y
  | .or => x ||| y
  | .xor => x ^^^ y
  | .andn => x &&& (2 ^ w - 1 - y)

/-- Shifts (06 R170). -/
inductive ShiftOp where
  | shl | shr | sar | rot
  deriving DecidableEq, Repr

/-- A shift of a w-bit element by n. -/
def shift (op : ShiftOp) (w a n : Nat) : Nat :=
  let x := a % 2 ^ w
  match op with
  | .shl => if w ≤ n then 0 else x * 2 ^ n % 2 ^ w
  | .shr => if w ≤ n then 0 else x / 2 ^ n
  | .sar => wrap w (signed w x / ((2 ^ min n w : Nat) : Int))
  | .rot => let k := n % w; (x * 2 ^ k + x / 2 ^ (w - k)) % 2 ^ w

/-- FSHL: a and b shifted left together by the old destination (06 R170). -/
def funnel (w a b old : Nat) : Nat :=
  let n := old % 2 ^ w % w
  bits ((a % 2 ^ w * 2 ^ w + b % 2 ^ w) * 2 ^ n) (2 * w - 1) w

/-- The field that BFE reads: bits pos to pos + len - 1, extended past the element as its type says (06 R171). -/
def extract (t a pos len : Nat) : Nat :=
  let w := typeWidth t
  let len := min len w
  if len = 0 then 0
  else
    let v := (intVal t a / ((2 ^ min pos w : Nat) : Int)) % ((2 ^ len : Nat) : Int)
    if isSigned t then wrap w (signed len v.toNat) else v.toNat

/-- BFI: the low bits of a put into old at a position; bits at w or above are dropped (06 R171). -/
def insertField (w a old pos len : Nat) : Nat :=
  let len := min len w
  let mask := (2 ^ len - 1) * 2 ^ pos % 2 ^ w
  let new := a % 2 ^ len * 2 ^ pos % 2 ^ w
  (old % 2 ^ w &&& (2 ^ w - 1 - mask)) ||| new

/-- Number of 1 bits among the low w bits. -/
def popCount : Nat → Nat → Nat
  | 0, _ => 0
  | w + 1, x => x % 2 + popCount w (x / 2)

/-- Trailing zero bits among the low w bits; w for zero. -/
def trailZeros : Nat → Nat → Nat
  | 0, _ => 0
  | w + 1, x => if x % 2 = 1 then 0 else 1 + trailZeros w (x / 2)

/-- Leading zero bits of a w-bit element; w for zero. -/
def leadZeros (w x : Nat) : Nat :=
  let y := x % 2 ^ w
  if y = 0 then w else w - 1 - Nat.log2 y

/-- The low w bits in reverse order. -/
def reverseBits : Nat → Nat → Nat
  | 0, _ => 0
  | w + 1, x => x % 2 * 2 ^ w + reverseBits w (x / 2)

/-- One byte of BPERM: the byte a nibble selects from a word (06 R172). -/
def permByte (a sel : Nat) : Nat :=
  let k := sel % 8
  let byte := bits a (8 * (k % 4) + 7) (8 * (k % 4))
  if k < 4 then (if bitOf sel 3 then (if bitOf byte 7 then 0xFF else 0) else byte)
  else if k = 5 then 0xFF
  else 0

/-- BPERM of a word by eight nibble selectors. -/
def permute (a b : Nat) : Nat :=
  (List.range 4).foldl (fun acc i => acc + permByte a (bits b (4 * i + 3) (4 * i)) * 2 ^ (8 * i)) 0

/-- LEA: a base plus a scaled signed index, modulo 2^64 (06 R173). -/
def address (w base : Nat) (index : Int) : Nat := wrap 64 ((base : Int) + index * (w : Int) / 8)

/-- IDOT4: the dot product of four bytes added to the old word, narrowed to 32 bits (06 R176). -/
def dot4 (t : Nat) (sat : Bool) (a b old : Nat) : Nat :=
  let wide := if isSigned t then 3 else 8
  let sum : Int := (List.range 4).foldl (fun (acc : Int) k =>
    acc + intVal t (bits a (8 * k + 7) (8 * k)) * intVal t (bits b (8 * k + 7) (8 * k))) (intVal wide old)
  narrow wide sat sum

/-! Carries (06 R169). -/

/-- Sum and carry of IADDC. -/
def addCarry (a b c : Nat) : Nat × Bool := ((a + b + c) % 2 ^ 32, decide (2 ^ 32 ≤ a + b + c))

/-- Difference and borrow of ISUBB. -/
def subBorrow (a b c : Nat) : Nat × Bool := (wrap 32 ((a : Int) - b - c), decide (a < b + c))

/-! Compares (06 R164, R165). -/

/-- The result of a condition on an order, none for unordered operands. -/
def condHolds (cond : Nat) (o : Option Int) : Bool :=
  match o with
  | none => cond == 1 || cond == 7
  | some z =>
    if cond = 0 then z == 0
    else if cond = 1 then z != 0
    else if cond = 2 then decide (z < 0)
    else if cond = 3 then decide (z ≤ 0)
    else if cond = 4 then decide (0 < z)
    else if cond = 5 then decide (0 ≤ z)
    else cond == 6

/-- The order of two elements of a type CMP allows. -/
def compareElems (t a b : Nat) : Option Int :=
  if isInt t then some (Int.sign (intVal t a - intVal t b))
  else (decodeFloat t false a).cmp (decodeFloat t false b)

/-- What a combining type writes to pa and pb, from the old bits and the result, all lanes at once. -/
def combine (comb : Nat) (oldA oldB r : Word) : Word × Word :=
  if comb = 0 ∨ comb = 1 then (r, ~~~r)
  else if comb = 2 then (oldA &&& r, oldA &&& ~~~r)
  else if comb = 3 then (oldA ||| r, ~~~oldA &&& r)
  else if comb = 4 then (oldA &&& ~~~r, oldA &&& r)
  else if comb = 5 then (oldA ||| ~~~r, ~~~oldA &&& ~~~r)
  else if comb = 6 then (r, oldB &&& r)
  else (r, oldB ||| r)

end Sys2Proof.Machine
end

