-- ==== Sys2Proof/Machine/Frozen.lean ====
section
/-! DEFINITION. The frozen function tables and their evaluation (02 R64 to R66). The integers are those that R64
defines, each rounded to nearest with ties away from zero. -/

namespace Sys2Proof.Machine

/-- Knots of 1 ÷ (1 + t): value, slope and curve (02 R64). -/
def frcpTable : List (Int × Int × Int) :=
  [(67108864, -262144, 4096), (66076420, -254140, 3910), (65075262, -246497, 3735), (64103989, -239194, 3570), (63161284, -232211, 3415), (62245903, -225529, 3269), (61356676, -219131, 3130), (60492497, -213002, 3000)] ++
  [(59652324, -207126, 2877), (58835168, -201490, 2760), (58040099, -196081, 2650), (57266231, -190887, 2545), (56512728, -185897, 2446), (55778796, -181100, 2352), (55063683, -176486, 2263), (54366675, -172046, 2178)] ++
  [(53687091, -167772, 2097), (53024288, -163655, 2020), (52377650, -159688, 1947), (51746594, -155863, 1878), (51130563, -152174, 1812), (50529027, -148615, 1748), (49941480, -145179, 1688), (49367440, -141860, 1631)] ++
  [(48806447, -138655, 1576), (48258060, -135556, 1523), (47721859, -132561, 1473), (47197443, -129663, 1425), (46684427, -126860, 1379), (46182444, -124146, 1335), (45691141, -121519, 1293), (45210182, -118974, 1252)] ++
  [(44739243, -116508, 1214), (44278013, -114119, 1176), (43826197, -111802, 1141), (43383508, -109554, 1107), (42949673, -107374, 1074), (42524429, -105258, 1042), (42107523, -103205, 1012), (41698712, -101210, 983)] ++
  [(41297762, -99273, 955), (40904450, -97392, 928), (40518559, -95563, 902), (40139881, -93785, 876), (39768216, -92056, 852), (39403370, -90375, 829), (39045157, -88739, 807), (38693399, -87147, 785)] ++
  [(38347922, -85598, 764), (38008560, -84090, 744), (37675152, -82621, 725), (37347542, -81190, 706), (37025580, -79797, 688), (36709122, -78438, 670), (36398028, -77114, 654), (36092162, -75824, 637)] ++
  [(35791394, -74565, 621), (35495597, -73338, 606), (35204650, -72141, 591), (34918433, -70972, 577), (34636833, -69832, 563), (34359738, -68719, 550), (34087042, -67633, 537), (33818640, -66572, 524)]

/-- Knots of 1 ÷ √(1 + t): value, slope and curve (02 R64). -/
def frsqTable0 : List (Int × Int × Int) :=
  [(67108864, -131072, 1536), (66590641, -128059, 1478), (66084241, -125160, 1422), (65589221, -122368, 1370), (65105161, -119679, 1320), (64631663, -117086, 1273), (64168347, -114586, 1228), (63714855, -112174, 1185)] ++
  [(63270844, -109845, 1144), (62835987, -107596, 1105), (62409976, -105422, 1068), (61992513, -103321, 1033), (61583317, -101288, 1000), (61182119, -99322, 967), (60788660, -97418, 937), (60402697, -95574, 907)] ++
  [(60023993, -93787, 879), (59652324, -92056, 852), (59287474, -90377, 827), (58929238, -88749, 802), (58577419, -87169, 778), (58231826, -85635, 756), (57892279, -84146, 734), (57558603, -82699, 713)] ++
  [(57230632, -81294, 693), (56908203, -79927, 674), (56591163, -78599, 655), (56279364, -77307, 637), (55972662, -76050, 620), (55670920, -74827, 603), (55374007, -73636, 588), (55081793, -72476, 572)] ++
  [(54794158, -71347, 557), (54510982, -70246, 543), (54232152, -69174, 529), (53957557, -68128, 516), (53687091, -67109, 503), (53420652, -66115, 491), (53158141, -65145, 479), (52899463, -64198, 467)] ++
  [(52644524, -63275, 456), (52393236, -62373, 446), (52145513, -61492, 435), (51901270, -60632, 425), (51660428, -59792, 415), (51422907, -58971, 406), (51188633, -58169, 397), (50957532, -57385, 388)] ++
  [(50729533, -56618, 379), (50504567, -55868, 371), (50282568, -55134, 363), (50063471, -54417, 355), (49847213, -53715, 347), (49633733, -53027, 340), (49422973, -52355, 333), (49214876, -51696, 326)] ++
  [(49009385, -51051, 319), (48806447, -50420, 313), (48606009, -49801, 306), (48408020, -49195, 300), (48212431, -48601, 294), (48019194, -48019, 288), (47828262, -47449, 282), (47639590, -46889, 277)]

/-- Knots of 1 ÷ √(2 (1 + t)): value, slope and curve (02 R64). -/
def frsqTable1 : List (Int × Int × Int) :=
  [(47453133, -92682, 1086), (47086694, -90551, 1045), (46728615, -88501, 1006), (46378583, -86527, 969), (46036301, -84626, 933), (45701487, -82793, 900), (45373874, -81025, 868), (45053206, -79319, 838)] ++
  [(44739243, -77672, 809), (44431753, -76082, 782), (44130517, -74545, 756), (43835326, -73059, 731), (43545981, -71622, 707), (43262291, -70231, 684), (42984074, -68885, 662), (42711156, -67581, 642)] ++
  [(42443372, -66318, 622), (42180562, -65093, 603), (41922575, -63906, 585), (41669264, -62755, 567), (41420490, -61638, 550), (41176119, -60553, 534), (40936023, -59500, 519), (40700079, -58477, 504)] ++
  [(40468168, -57483, 490), (40240176, -56517, 476), (40015995, -55578, 463), (39795520, -54664, 451), (39578649, -53775, 438), (39365285, -52910, 427), (39155336, -52068, 415), (38948710, -51248, 405)] ++
  [(38745321, -50450, 394), (38545085, -49672, 384), (38347922, -48913, 374), (38153754, -48174, 365), (37962506, -47453, 356), (37774106, -46750, 347), (37588482, -46064, 339), (37405569, -45395, 331)] ++
  [(37225300, -44742, 323), (37047613, -44104, 315), (36872446, -43482, 308), (36699740, -42874, 301), (36529439, -42279, 294), (36361486, -41699, 287), (36195830, -41132, 280), (36032416, -40577, 274)] ++
  [(35871197, -40035, 268), (35712122, -39505, 262), (35555145, -38986, 256), (35400220, -38478, 251), (35247302, -37982, 246), (35096349, -37496, 240), (34947320, -37020, 235), (34800172, -36555, 230)] ++
  [(34654868, -36099, 226), (34511369, -35652, 221), (34369638, -35215, 216), (34229639, -34786, 212), (34091337, -34366, 208), (33954698, -33955, 204), (33819689, -33551, 200), (33686277, -33156, 196)]

/-- Knots of 2^t: value, slope and curve (02 R64). -/
def fexp2Table : List (Int × Int × Int) :=
  [(67108864, 181704, 984), (67839632, 183683, 995), (68578357, 185683, 1006), (69325126, 187705, 1016), (70080027, 189749, 1028), (70843149, 191815, 1039), (71614580, 193904, 1050), (72394412, 196016, 1061)] ++
  [(73182735, 198150, 1073), (73979643, 200308, 1085), (74785228, 202489, 1097), (75599586, 204694, 1108), (76422812, 206923, 1121), (77255001, 209176, 1133), (78096253, 211454, 1145), (78946666, 213756, 1158)] ++
  [(79806339, 216084, 1170), (80675373, 218437, 1183), (81553870, 220816, 1196), (82441933, 223220, 1209), (83339667, 225651, 1222), (84247176, 228108, 1235), (85164568, 230592, 1249), (86091949, 233103, 1262)] ++
  [(87029429, 235641, 1276), (87977118, 238207, 1290), (88935126, 240801, 1304), (89903566, 243423, 1318), (90882551, 246074, 1333), (91872197, 248754, 1347), (92872620, 251462, 1362), (93883937, 254201, 1377)] ++
  [(94906266, 256969, 1392), (95939727, 259767, 1407), (96984442, 262596, 1422), (98040534, 265455, 1437), (99108125, 268346, 1453), (100187342, 271268, 1469), (101278310, 274222, 1485), (102381159, 277208, 1501)] ++
  [(103496017, 280226, 1517), (104623014, 283278, 1534), (105762284, 286363, 1551), (106913960, 289481, 1568), (108078177, 292633, 1585), (109255071, 295820, 1602), (110444781, 299041, 1619), (111647445, 302297, 1637)] ++
  [(112863206, 305589, 1655), (114092206, 308917, 1673), (115334589, 312281, 1691), (116590500, 315681, 1709), (117860087, 319119, 1728), (119143500, 322594, 1747), (120440887, 326106, 1766), (121752403, 329658, 1785)] ++
  [(123078199, 333247, 1805), (124418433, 336876, 1824), (125773261, 340544, 1844), (127142842, 344253, 1864), (128527337, 348001, 1885), (129926908, 351791, 1905), (131341719, 355622, 1926), (132771936, 359494, 1947)]

/-- Knots of log2(1 + t): value, slope and curve (02 R64). -/
def flog2Table : List (Int × Int × Int) :=
  [(0, 378194, -2955), (1501079, 372375, -2864), (2979239, 366733, -2778), (4435170, 361260, -2696), (5869532, 355947, -2617), (7282953, 350788, -2542), (8676036, 345777, -2470), (10049359, 340907, -2401)] ++
  [(11403474, 336172, -2335), (12738911, 331567, -2271), (14056177, 327087, -2210), (15355762, 322725, -2152), (16638134, 318479, -2095), (17903742, 314343, -2041), (19153019, 310313, -1989), (20386381, 306385, -1939)] ++
  [(21604229, 302555, -1891), (22806948, 298820, -1845), (23994909, 295176, -1800), (25168470, 291619, -1757), (26327977, 288148, -1715), (27473761, 284758, -1675), (28606143, 281447, -1636), (29725435, 278212, -1599)] ++
  [(30831934, 275050, -1563), (31925930, 271960, -1528), (33007703, 268938, -1494), (34077521, 265982, -1461), (35135648, 263091, -1430), (36182335, 260262, -1399), (37217828, 257494, -1370), (38242363, 254783, -1341)] ++
  [(39256169, 252129, -1313), (40259469, 249530, -1286), (41252479, 246984, -1260), (42235408, 244489, -1235), (43208457, 242044, -1210), (44171825, 239648, -1186), (45125701, 237298, -1163), (46070271, 234994, -1141)] ++
  [(47005714, 232735, -1119), (47932205, 230518, -1098), (48849915, 228343, -1077), (49759007, 226209, -1057), (50659643, 224115, -1038), (51551977, 222059, -1019), (52436163, 220040, -1000), (53312346, 218058, -982)] ++
  [(54180672, 216111, -965), (55041278, 214198, -948), (55894303, 212319, -931), (56739877, 210473, -915), (57578130, 208659, -899), (58409188, 206875, -884), (59233172, 205122, -869), (60050204, 203398, -855)] ++
  [(60860398, 201703, -840), (61663868, 200036, -827), (62460725, 198397, -813), (63251078, 196784, -800), (64035030, 195197, -787), (64812686, 193635, -775), (65584145, 192098, -762), (66349506, 190586, -750)]

/-- Knots of sin(πt ÷ 2): value, slope and curve (02 R64). -/
def fsinTable : List (Int × Int × Int) :=
  [(0, 411775, 0), (1646934, 411651, -124), (3292876, 411279, -248), (4936834, 410659, -372), (6577819, 409792, -495), (8214841, 408678, -619), (9846915, 407318, -741), (11473058, 405713, -864)] ++
  [(13092290, 403863, -986), (14703635, 401770, -1107), (16306124, 399434, -1228), (17898790, 396859, -1348), (19480675, 394044, -1467), (21050825, 390992, -1585), (22608295, 387704, -1702), (24152147, 384183, -1819)] ++
  [(25681450, 380430, -1934), (27195284, 376449, -2048), (28692737, 372240, -2161), (30172906, 367807, -2272), (31634900, 363153, -2382), (33077838, 358280, -2491), (34500851, 353191, -2598), (35903083, 347889, -2703)] ++
  [(37283687, 342378, -2807), (38641834, 336661, -2910), (39976704, 330741, -3010), (41287493, 324621, -3109), (42573413, 318306, -3206), (43833687, 311800, -3301), (45067559, 305105, -3394), (46274283, 298227, -3484)] ++
  [(47453133, 291169, -3573), (48603399, 283935, -3660), (49724388, 276531, -3744), (50815425, 268960, -3826), (51875853, 261227, -3906), (52905033, 253337, -3984), (53902345, 245294, -4059), (54867188, 237103, -4131)] ++
  [(55798981, 228770, -4202), (56697163, 220299, -4269), (57561193, 211695, -4334), (58390550, 202963, -4397), (59184734, 194109, -4457), (59943268, 185139, -4514), (60665695, 176056, -4568), (61351578, 166868, -4620)] ++
  [(62000506, 157579, -4669), (62612087, 148196, -4715), (63185953, 138723, -4758), (63721758, 129166, -4798), (64219179, 119532, -4836), (64677917, 109826, -4870), (65097695, 100053, -4902), (65478262, 90220, -4930)] ++
  [(65819386, 80333, -4956), (66120863, 70398, -4979), (66382512, 60420, -4999), (66604174, 50406, -5015), (66785716, 40361, -5029), (66927030, 30292, -5040), (67028028, 20205, -5047), (67088652, 10105, -5052)]

/-- Knots of cos(πt ÷ 2): value, slope and curve (02 R64). -/
def fcosTable : List (Int × Int × Int) :=
  [(67108864, 0, -5053), (67088652, -10105, -5052), (67028028, -20205, -5047), (66927030, -30292, -5040), (66785716, -40361, -5029), (66604174, -50406, -5015), (66382512, -60420, -4999), (66120863, -70398, -4979)] ++
  [(65819386, -80333, -4956), (65478262, -90220, -4930), (65097695, -100053, -4902), (64677917, -109826, -4870), (64219179, -119532, -4836), (63721758, -129166, -4798), (63185953, -138723, -4758), (62612087, -148196, -4715)] ++
  [(62000506, -157579, -4669), (61351578, -166868, -4620), (60665695, -176056, -4568), (59943268, -185139, -4514), (59184734, -194109, -4457), (58390550, -202963, -4397), (57561193, -211695, -4334), (56697163, -220299, -4269)] ++
  [(55798981, -228770, -4202), (54867188, -237103, -4131), (53902345, -245294, -4059), (52905033, -253337, -3984), (51875853, -261227, -3906), (50815425, -268960, -3826), (49724388, -276531, -3744), (48603399, -283935, -3660)] ++
  [(47453133, -291169, -3573), (46274283, -298227, -3484), (45067559, -305105, -3394), (43833687, -311800, -3301), (42573413, -318306, -3206), (41287493, -324621, -3109), (39976704, -330741, -3010), (38641834, -336661, -2910)] ++
  [(37283687, -342378, -2807), (35903083, -347889, -2703), (34500851, -353191, -2598), (33077838, -358280, -2491), (31634900, -363153, -2382), (30172906, -367807, -2272), (28692737, -372240, -2161), (27195284, -376449, -2048)] ++
  [(25681450, -380430, -1934), (24152147, -384183, -1819), (22608295, -387704, -1702), (21050825, -390992, -1585), (19480675, -394044, -1467), (17898790, -396859, -1348), (16306124, -399434, -1228), (14703635, -401770, -1107)] ++
  [(13092290, -403863, -986), (11473058, -405713, -864), (9846915, -407318, -741), (8214841, -408678, -619), (6577819, -409792, -495), (4936834, -410659, -372), (3292876, -411279, -248), (1646934, -411651, -124)]

/-- Knots of tanh(8t): value, slope and curve (02 R64). -/
def ftanhTable : List (Int × Int × Int) :=
  [(0, 2097152, 0), (8345189, 2064722, -32094), (16436213, 1971354, -60353), (24048958, 1827836, -81877), (31012157, 1649300, -95271), (37218557, 1452108, -100667), (42624125, 1251131, -99332), (47238305, 1058049, -93096)] ++
  [(51109719, 880750, -83847), (54311275, 723584, -73200), (56927351, 588073, -62357), (59044170, 473757, -52103), (60743471, 378969, -42878), (62098934, 301433, -34866), (63174643, 238681, -28086), (64024894, 188319, -22458)] ++
  [(64694796, 148166, -17854), (65221276, 116315, -14130), (65634222, 91153, -11144), (65957613, 71336, -8764), (66210565, 55768, -6878), (66408231, 43561, -5388), (66562579, 34004, -4216), (66683034, 26530, -3295)] ++
  [(66776994, 20691, -2574), (66850262, 16131, -2009), (66907379, 12574, -1567), (66951895, 9799, -1222), (66986585, 7635, -953), (67013614, 5949, -743), (67034671, 4634, -579), (67051076, 3610, -451)] ++
  [(67063854, 2812, -351), (67073808, 2190, -274), (67081560, 1706, -213), (67087599, 1329, -166), (67092302, 1035, -129), (67095965, 806, -101), (67098818, 628, -78), (67101040, 489, -61)] ++
  [(67102771, 381, -48), (67104119, 297, -37), (67105168, 231, -29), (67105986, 180, -22), (67106622, 140, -18), (67107118, 109, -14), (67107504, 85, -11), (67107805, 66, -8)] ++
  [(67108039, 52, -6), (67108222, 40, -5), (67108364, 31, -4), (67108474, 24, -3), (67108561, 19, -2), (67108628, 15, -2), (67108680, 12, -1), (67108721, 9, -1)] ++
  [(67108752, 7, -1), (67108777, 5, -1), (67108796, 4, -1), (67108811, 3, 0), (67108823, 3, 0), (67108832, 2, 0), (67108839, 2, 0), (67108845, 1, 0)]

/-- The fixed-point evaluation of a table at tfix, in units of 2^-26 (02 R65). -/
def frozenSum (table : List (Int × Int × Int)) (tfix : Nat) : Int :=
  let (value, slope, curve) := table.getD (bits tfix 22 17) (0, 0, 0)
  let delta : Int := (bits tfix 16 0 : Nat)
  let hi : Int := (bits tfix 16 8 : Nat)
  value + slope * delta / 2 ^ 15 + curve * hi * hi / 2 ^ 16

/-- A sum in units of 2^-26, times 2^k; a zero is +0. -/
def frozenVal (sum k : Int) : XVal := .fin (decide (sum < 0)) sum.natAbs (k - 26)

/-- A value with a sign; a zero keeps the sign. -/
def signedVal (neg : Bool) (x : XVal) : XVal := if neg then x.neg else x

/-- m 2^e times 2^k, rounded toward minus infinity to an integer. -/
def floorAt (neg : Bool) (m : Nat) (e k : Int) : Int :=
  let z : Int := if neg then -(m : Int) else (m : Int)
  if 0 ≤ e + k then z * 2 ^ (e + k).toNat else z / 2 ^ (-(e + k)).toNat

/-- The exponent and the fraction in units of 2^-23 of a nonzero value of at most 24 significant bits. -/
def expFrac (m : Nat) (e : Int) : Int × Nat :=
  let l := Nat.log2 m
  ((l : Int) + e, m * 2 ^ (23 - l) - 2 ^ 23)

/-- The frozen functions. -/
inductive Frozen where
  | rcp | rsq | exp2 | log2 | sinp | cosp | tanh
  deriving DecidableEq, Repr

/-- FSINP and FCOSP of a finite value, in quarter turns (02 R66). -/
def frozenTurn (cosine neg : Bool) (m : Nat) (e : Int) : XVal :=
  let f := floorAt neg m e 24
  let tfix := (f % 2 ^ 23).toNat
  let quad := ((f / 2 ^ 23 + (if cosine then 1 else 0)) % 4).toNat
  if !cosine ∧ m = 0 then .fin neg 0 0
  else
    let y := frozenSum (if quad % 2 = 0 then fsinTable else fcosTable) tfix
    frozenVal (if quad < 2 then y else -y) 0

/-- The value of a frozen function before its one rounding: the reductions, assemblies and special cases of 02 R66. -/
def frozenEval : Frozen → XVal → XVal
  | _, .nan => .nan
  | .rcp, .inf neg => .fin neg 0 0
  | .rcp, .fin neg m e =>
    if m = 0 then .inf neg
    else
      let (ex, tfix) := expFrac m e
      signedVal neg (frozenVal (frozenSum frcpTable tfix) (-ex))
  | .rsq, .inf neg => if neg then .nan else .fin false 0 0
  | .rsq, .fin neg m e =>
    if m = 0 then .inf neg
    else if neg then .nan
    else
      let (ex, tfix) := expFrac m e
      let par := ex % 2
      frozenVal (frozenSum (if par = 0 then frsqTable0 else frsqTable1) tfix) (-((ex - par) / 2))
  | .exp2, .inf neg => if neg then .fin false 0 0 else .inf false
  | .exp2, .fin neg m e =>
    let f := floorAt neg m (min e 200) 23
    let n := f / 2 ^ 23
    -- Beyond a thousand either way every result overflows or rounds to zero alike.
    frozenVal (frozenSum fexp2Table (f % 2 ^ 23).toNat) (max (-1000) (min 1000 n))
  | .log2, .inf neg => if neg then .nan else .inf false
  | .log2, .fin neg m e =>
    if m = 0 then .inf true
    else if neg then .nan
    else
      let (ex, tfix) := expFrac m e
      if ex = 0 ∧ tfix = 0 then .fin false 0 0
      else frozenVal (frozenSum flog2Table tfix + ex * 2 ^ 26) 0
  | .sinp, .inf _ => .nan
  | .sinp, .fin neg m e => frozenTurn false neg m e
  | .cosp, .inf _ => .nan
  | .cosp, .fin neg m e => frozenTurn true neg m e
  | .tanh, .inf neg => .fin neg 1 0
  | .tanh, .fin neg m e =>
    if m = 0 ∨ (Nat.log2 m : Int) + e < -12 then .fin neg m e
    else if 3 ≤ (Nat.log2 m : Int) + e then .fin neg 1 0
    else signedVal neg (frozenVal (frozenSum ftanhTable (floorAt false m e 20).toNat) 0)

end Sys2Proof.Machine
end

