-- ==== Sys2Proof/Config.lean ====
section
/-! DEFINITION. What the spec leaves to the moment or to standards outside it: free values and the cryptographic
functions, each an opaque constant that no proof can look into. -/

namespace Sys2Proof.Config

/-- Nanoseconds that pass in the k-th step (00 R455; log entry 3). -/
opaque elapsedNs (k : Nat) : Nat
/-- The order in which a memory instruction's lanes reach a byte or a location: the lane with the greatest key writes
last; lanes of equal key go in ascending number (04 R100; log entry 7). -/
opaque laneKey (k lane : Nat) : Nat
/-- Whether a sector stays in a core's L1 at the k-th step (03 R86; log entry 7). -/
opaque l1Keeps (k core sector : Nat) : Bool
/-- The hashes that choose the set of a line in an L1 and in an L2 (03 R86, 15 R368; log entry 7). -/
opaque l1Hash (line : Nat) : Nat
opaque l2Hash (line : Nat) : Nat
/-- A free value for what the spec gives no value at all, numbered (log entry 7). -/
opaque freeWord (k : Nat) : BitVec 64
/-- The byte that another package returns to a read of the assay die, for the step and the address (16 R386; log entry 111). -/
opaque remoteByte (k pkg pa : Nat) : Byte
/-- What the partition registers that the spec lets no command set hold once a partition is released: PARTROOT, PTBASE,
SVEC, SIMG, SIMGSZ as fields 0 to 4 (13 R300, 19 R448; log entry 12). -/
opaque releaseReg (k field : Nat) : BitVec 64

/-- SHAKE256 of bytes, as many bytes of output as asked (17 R407, R412, FIPS 202; log entry 6). -/
opaque shake256 (input : List Byte) (len : Nat) : List Byte
/-- KMAC256 of NIST SP 800-185: key, customisation, message, bytes of output (17 R409; log entry 6). -/
opaque kmac256 (key custom input : List Byte) (len : Nat) : List Byte
/-- AES-256-GCM encryption: key, nonce, associated data, plain text (13 R319, 17 R416; log entry 6). -/
opaque gcmSeal (key nonce aad plain : List Byte) : List Byte × List Byte
/-- AES-256-GCM decryption: key, nonce, associated data, cipher text, tag; none where the tag fails. -/
opaque gcmOpen (key nonce aad cipher tag : List Byte) : Option (List Byte)
/-- AES-256 of one block of 16 bytes: key, block (17 R415, FIPS 197; log entry 6). -/
opaque aesBlock (key block : List Byte) : List Byte
/-- AES-256-XTS of a data unit: the two keys, the tweak as 16 bytes, the plain text (17 R408; log entry 6). -/
opaque xtsEncrypt (keys tweak plain : List Byte) : List Byte
/-- Its decryption: the two keys, the tweak, the cipher text. -/
opaque xtsDecrypt (keys tweak cipher : List Byte) : List Byte
/-- ML-KEM-768: the shared secret of a cipher text under the k-th key pair drawn (17 R412; log entry 6). -/
opaque mlkemDecap (pair : Nat) (cipher : List Byte) : List Byte
/-- ML-KEM-768: the encapsulation key of the k-th key pair drawn. -/
opaque mlkemPublic (pair : Nat) : List Byte
/-- ML-DSA-65: the device's signature of a message (17 R419; log entry 6). -/
opaque mldsaSign (message : List Byte) : List Byte
/-- The bytes of the k-th key the assay die draws: 32 of them (17 R407). -/
opaque drawnKey (k : Nat) : List Byte
/-- The certificate of the device identity key (17 R419). -/
opaque certificate : List Byte
/-- The public key of the device identity: 1,952 bytes of an ML-DSA-65 key (17 R407). -/
opaque identityKey : List Byte
/-- The device id: SHAKE256, 32 bytes, of the identity public key (17 R407). -/
def deviceId : List Byte := shake256 ((identityKey ++ List.replicate 1952 0).take 1952) 32
/-- How SINFO names a bank and a register of it, whose layout the spec does not give: for the stream that owns the bank and
the register, v0 to v55 as 0 to 55, c0 to c31 as 64 to 95, p0 to p6 as 96 to 102 (13 R311; log entry 98). -/
opaque bankInfo (stream reg : Nat) : BitVec 64
/-- What a signed firmware image carries, whose layout the spec does not give: the public key it was signed under and its
security version (17 R418, log entry 6). -/
opaque imageKey (image : List Byte) : List Byte
opaque imageVersion (image : List Byte) : Nat
/-- ML-DSA-65: whether the signature of a signed firmware image verifies under a key, with an empty context string
(17 R418, FIPS 204; log entry 6). -/
opaque mldsaVerify (key image : List Byte) : Bool
/-- The fused digest of the Auzel firmware key, and the fused anti-rollback count (17 R418). -/
opaque fusedDigest : List Byte
opaque fusedCount : Nat
/-- The k-th seed drawn for a node, read as a value that is not zero (16 R385, log entry 6). -/
opaque nodeSeed (k : Nat) : BitVec 64
/-- The sections of a context image in the device's internal format (13 R319), for the saved context's serial number,
given their length. -/
opaque imageBody (serial len : Nat) : List Byte

end Sys2Proof.Config
end

