-- ==== Sys2Proof/Machine/Access.lean ====
section
/-! DEFINITION. Reading and changing the numbered parts of the state: streams, crews, gangs, cores, clusters, dies,
partitions, node instances, and the registers of a stream, each through one accessor. -/

namespace Sys2Proof.Machine

/-! Numbers: stream r = 32 g + 2 c + w, crew key 16 g + c, gang g; core k lies in cluster k / 4, die k / 64 (00 R2). -/

/-- The gang of a stream. -/
def gangOf (r : Nat) : Nat := r / 32
/-- The crew key of a stream. -/
def crewOf (r : Nat) : Nat := r / 2
/-- The crew number of a stream within its gang. -/
def crewNum (r : Nat) : Nat := r / 2 % 16
/-- The stream is the work stream of a dual-stream crew. -/
def isWork (r : Nat) : Bool := r % 2 == 1
/-- The cluster of a core. -/
def clusterOf (core : Nat) : Nat := core / 4
/-- The die of a core. -/
def dieOf (core : Nat) : Nat := core / 64
/-- The core is a stream core (00 R2). -/
def isStreamCore (core : Nat) : Bool := core % 4 == 3
/-- The partition of a node key. -/
def partOfNode (n : Nat) : Nat := n / 4096

def State.stream (s : State) (r : Nat) : Stream := Tab.get {} s.streams r
def State.crew (s : State) (k : Nat) : Crew := Tab.get {} s.crews k
def State.gang (s : State) (g : Nat) : Gang := Tab.get {} s.gangs g
def State.core (s : State) (k : Nat) : Core := Tab.get {} s.cores k
def State.cluster (s : State) (k : Nat) : Cluster := Tab.get {} s.clusters k
def State.die (s : State) (k : Nat) : Die := Tab.get {} s.dies k
def State.part (s : State) (p : Nat) : Part := Tab.get {} s.parts p
def State.node (s : State) (n : Nat) : Node := Tab.get {} s.nodes n
def State.pair (s : State) (k : Nat) : Pair := Tab.get {} s.pairs k

def State.setStream (s : State) (r : Nat) (t : Stream) : State := { s with streams := Tab.put r t s.streams }
def State.setCrew (s : State) (k : Nat) (c : Crew) : State := { s with crews := Tab.put k c s.crews }
def State.setGang (s : State) (g : Nat) (x : Gang) : State := { s with gangs := Tab.put g x s.gangs }
def State.setCore (s : State) (k : Nat) (x : Core) : State := { s with cores := Tab.put k x s.cores }
def State.setCluster (s : State) (k : Nat) (x : Cluster) : State := { s with clusters := Tab.put k x s.clusters }
def State.setDie (s : State) (k : Nat) (x : Die) : State := { s with dies := Tab.put k x s.dies }
def State.setPart (s : State) (p : Nat) (x : Part) : State := { s with parts := Tab.put p x s.parts }
def State.setNode (s : State) (n : Nat) (x : Node) : State := { s with nodes := Tab.put n x s.nodes }
def State.setPair (s : State) (k : Nat) (x : Pair) : State := { s with pairs := Tab.put k x s.pairs }

def State.updStream (s : State) (r : Nat) (f : Stream → Stream) : State := s.setStream r (f (s.stream r))
def State.updCrew (s : State) (k : Nat) (f : Crew → Crew) : State := s.setCrew k (f (s.crew k))
def State.updGang (s : State) (g : Nat) (f : Gang → Gang) : State := s.setGang g (f (s.gang g))
def State.updCore (s : State) (k : Nat) (f : Core → Core) : State := s.setCore k (f (s.core k))
def State.updCluster (s : State) (k : Nat) (f : Cluster → Cluster) : State := s.setCluster k (f (s.cluster k))
def State.updDie (s : State) (k : Nat) (f : Die → Die) : State := s.setDie k (f (s.die k))
def State.updPart (s : State) (p : Nat) (f : Part → Part) : State := s.setPart p (f (s.part p))
def State.updNode (s : State) (n : Nat) (f : Node → Node) : State := s.setNode n (f (s.node n))
def State.updPair (s : State) (k : Nat) (f : Pair → Pair) : State := s.setPair k (f (s.pair k))

/-- The gang that a stream belongs to. -/
def State.gangAt (s : State) (r : Nat) : Gang := s.gang (gangOf r)
/-- The crew that a stream belongs to. -/
def State.crewAt (s : State) (r : Nat) : Crew := s.crew (crewOf r)
/-- The core a stream is resident on. -/
def State.coreNum (s : State) (r : Nat) : Nat := (s.gangAt r).core
/-- The node key of a stream's gang. -/
def State.nodeNum (s : State) (r : Nat) : Nat := (s.gangAt r).node
/-- The partition of a stream's gang. -/
def State.partNum (s : State) (r : Nat) : Nat := (s.gangAt r).part
/-- Cycles delivered to a cluster. -/
def State.cyclesOf (s : State) (cl : Nat) : Nat := (s.cluster cl).cycles.toNat
/-- TIMESTAMP as a number. -/
def State.now (s : State) : Nat := s.timestamp.toNat
/-- A number never given before. -/
def State.freshNum (s : State) : Nat × State := (s.fresh, { s with fresh := s.fresh + 1 })
/-- Count a free value as taken. -/
def State.freeNum (s : State) : Nat × State := (s.free, { s with free := s.free + 1 })

/-- The streams of a gang: one or two for each crew (01 R14). -/
def streamsOf (g : Nat) (x : Gang) : List Nat :=
  (List.range x.crews).flatMap fun c =>
    if x.single then [32 * g + 2 * c] else [32 * g + 2 * c, 32 * g + 2 * c + 1]

/-- The crew keys of a gang. -/
def crewsOf (g : Nat) (x : Gang) : List Nat := (List.range x.crews).map fun c => 16 * g + c

/-- The streams of a crew. -/
def crewStreams (single : Bool) (k : Nat) : List Nat := if single then [2 * k] else [2 * k, 2 * k + 1]

/-- The stream that issues memory instructions: a haul stream or a single stream. -/
def haulOf (r : Nat) : Nat := r / 2 * 2

/-- The crew's haul stream has ended. -/
def State.haulEnded (s : State) (r : Nat) : Bool := (s.stream (haulOf r)).ended
/-- The crew's work stream has ended. -/
def State.workEnded (s : State) (r : Nat) : Bool := (s.stream (haulOf r + 1)).ended

/-- The resident gangs of a core, in order of placement. -/
def State.gangsOn (s : State) (core : Nat) : List (Nat × Gang) :=
  sortBy (fun a b => decide (a.2.placed < b.2.placed)) (s.gangs.filter fun p => p.2.core == core && p.2.live)

/-- The gangs of a node instance that are live. -/
def State.gangsOfNode (s : State) (n : Nat) : List (Nat × Gang) := s.gangs.filter fun p => p.2.node == n && p.2.live

/-! Registers of a stream. -/

/-- A vector register (03 R74). -/
def Stream.vreg (t : Stream) (n : Nat) : Vec := Tab.get Vec.zero t.v n
/-- A uniform register (03 R74). -/
def Stream.creg (t : Stream) (n : Nat) : LV := Tab.get {} t.c n
/-- A predicate: p7 is constant true with label 0 (03 R75). -/
def Stream.preg (t : Stream) (n : Nat) : LV := if n = 7 then ⟨0xFFFFFFFF, 0⟩ else Tab.get {} t.p n
/-- Write a vector register. -/
def Stream.setV (t : Stream) (n : Nat) (x : Vec) : Stream := { t with v := Tab.put n x t.v }
/-- A write of a whole register of the bank clears its error (13 R313). -/
def Stream.cleanBank (t : Stream) (n : Nat) : Stream := { t with regBad := t.regBad.filter (· != n) }
/-- Write a uniform register. -/
def Stream.setC (t : Stream) (n : Nat) (x : LV) : Stream := { t with c := Tab.put n x t.c }.cleanBank (64 + n)
/-- Write a predicate; a write to p7 is discarded (06 R145). -/
def Stream.setP (t : Stream) (n : Nat) (x : LV) : Stream := if n = 7 then t else { t with p := Tab.put n x t.p }
/-- A mode set. -/
def Stream.mode (t : Stream) (m : Bool) : Word := if m then t.mode1 else t.mode0
/-- A guard slot. -/
def Stream.guard (t : Stream) (n : Nat) : Guard := Tab.get .unset t.guards n
/-- A pattern register. -/
def Stream.port (t : Stream) (n : Nat) : Pattern := Tab.get {} t.ports n
/-- The generator word of a lane (02 R61). -/
def Stream.genLane (t : Stream) (i : Nat) : Word := t.gen.getD i 0

/-! Fields of a mode set (05 R129). -/

def modeGP (x : Word) : Nat := bits x.toNat 21 19
def modeGS (x : Word) : Bool := bitOf x.toNat 18
def modeTYPE (x : Word) : Nat := bits x.toNat 17 13
def modeRND (x : Word) : Nat := bits x.toNat 12 10
def modeSAT (x : Word) : Bool := bitOf x.toNat 9
def modeVAR (x : Word) : Bool := bitOf x.toNat 8
def modeBLK (x : Word) : Nat := bits x.toNat 7 6
def modeSCL (x : Word) : Bool := bitOf x.toNat 5

/-- The guard predicate of the selected set, with its sense applied (05 R131). -/
def Stream.guardBits (t : Stream) (m : Bool) : Word :=
  let p := (t.preg (modeGP (t.mode m))).v
  if modeGS (t.mode m) then ~~~p else p

/-- The label of the guard predicate of the selected set. -/
def Stream.guardLabel (t : Stream) (m : Bool) : Label := (t.preg (modeGP (t.mode m))).l

/-- Active(): the lanes of EM that the guard of the selected set enables (05 R131). -/
def Stream.active (t : Stream) (m : Bool) : Word := t.em &&& t.guardBits m

/-- The virtual thread id of lane l of the stream's crew (01 R28). -/
def State.vid (s : State) (r l : Nat) : Nat := Tab.get 0 (s.gangAt r).remap (32 * crewNum r + l)

/-- The lanes of a mask in ascending virtual id (01 R28). -/
def State.byVid (s : State) (r : Nat) (m : Word) : List Nat :=
  sortBy (fun a b => decide (s.vid r a < s.vid r b)) (lanesOf m)

/-! The gang's values in force, in the layout of RCB word 4 (13 R300, R303). -/

def effLCEIL (cfg : DWord) : Label := labelOf (bits cfg.toNat 39 38)
def effCLASS (cfg : DWord) : Nat := bits cfg.toNat 36 34
def effFDOM (cfg : DWord) : Nat := bits cfg.toNat 47 40
def effDET (cfg : DWord) : Bool := bitOf cfg.toNat 37
def effSUPER (cfg : DWord) : Bool := bitOf cfg.toNat 48
def effDECLASS (cfg : DWord) : Bool := bitOf cfg.toNat 49

/-! Energy (18 R432). -/

/-- The classes of instruction that the energy table prices. -/
inductive Cls where
  | control | float | memory | matrix | sort | privileged
  deriving DecidableEq, Repr

/-- The price of an instruction in pJ by class, on the high and on the low rail (18 R432). -/
def clsPrice (high : Bool) : Cls → Nat
  | .control => if high then 40 else 22
  | .float => if high then 120 else 65
  | .memory => if high then 60 else 32
  | .matrix => if high then 80 else 43
  | .sort => if high then 200 else 108
  | .privileged => if high then 60 else 32

/-- Charge picojoules to the RCBs of a chain in a partition. -/
def State.chargeChain (s : State) (part : Nat) (chain : List RcbLink) (pj : Nat) : State :=
  s.updPart part fun p =>
    { p with rcbs := p.rcbs.map fun u =>
        if chain.any fun l => l.addr == u.addr then { u with pj := u.pj + pj } else u }

/-- Charge picojoules to a node instance at the hub and to its RCB chain. -/
def State.charge (s : State) (n pj : Nat) : State :=
  let x := s.node n
  (s.setNode n { x with energyPj := x.energyPj + pj }).chargeChain (partOfNode n) x.chain pj

/-- Charge an event of an engine to the instance that its gang runs for: at the hub while it is there, and where it has left
to what is kept of it, so that its RCB chain still shows the charge (18 R432). -/
def State.chargeGang (s : State) (g : Gang) (pj : Nat) : State :=
  match Tab.find g.node s.nodes, Tab.find g.uid s.past with
  | some x, old =>
    if x.uid = g.uid then s.charge g.node pj
    else match old with
      | some y => { s with past := Tab.put g.uid { y with energyPj := y.energyPj + pj } s.past }.chargeChain g.part y.chain pj
      | none => s
  | none, some y => { s with past := Tab.put g.uid { y with energyPj := y.energyPj + pj } s.past }.chargeChain g.part y.chain pj
  | none, none => s

/-- Charge an instruction of stream r that completes: its class, the registers read, with the predicates among them, and the
lines moved (18 R432). -/
def State.chargeInstr (s : State) (r : Nat) (c : Cls) (reads lines : Nat) : State :=
  let high := (s.cluster (clusterOf (s.coreNum r))).railNow
  s.charge (s.nodeNum r)
    (clsPrice high c + (if high then 15 else 6) + (reads + s.predReads) * (if high then 25 else 14) + lines * 1000)

end Sys2Proof.Machine
end

