-- ==== Sys2Proof/Machine/Coherence.lean ====
section
/-! DEFINITION. Local memory behind the four coherent L2s: directories and their messages (15 R369 to R374),
non-coherent lines (15 R375), the cores' L1s, the signatures, releases and acquires (04 R111 to R115). -/

namespace Sys2Proof.Machine

/-! Lines of memory and of a die's L2. -/

/-- The 64 bytes of a line in LPDDR. -/
def State.memLine (s : State) (line : Nat) : List Byte := rdBytes s.mem (64 * line) 64

/-- The sector lies in a protected range of some partition (17 R410). -/
def State.protectedLine (s : State) (line : Nat) : Bool :=
  s.parts.any fun p => p.2.ranges.any fun g => decide (g.1 ≤ 64 * line) && decide (64 * line < g.1 + g.2)

/-- A sector is written to LPDDR: the write counter of a protected one goes up (17 R410). -/
def State.countWrite (s : State) (line : Nat) : State :=
  if s.protectedLine line then { s with counters := Tab.put line (Tab.get 0 s.counters line + 1) s.counters } else s

/-- Write bytes of a line to LPDDR, counting the write of a protected sector (17 R410). -/
def State.setMemLine (s : State) (line : Nat) (bs : List Byte) : State :=
  { s with mem := wrBytes s.mem (64 * line) bs }.countWrite line

def State.l2Find (s : State) (die line : Nat) : Option L2Line := Tab.find line (s.die die).l2
def State.l2Put (s : State) (die line : Nat) (x : L2Line) : State :=
  s.updDie die fun d => { d with l2 := Tab.put line x d.l2 }
def State.l2Del (s : State) (die line : Nat) : State := s.updDie die fun d => { d with l2 := Tab.del line d.l2 }

/-- Put a message in flight. -/
def State.send (s : State) (m : Msg) : State := { s with msgs := s.msgs ++ [m] }

/-! The sets of a die's L2: 983,040 of sixteen ways, 960 MiB in lines of 64 bytes (00 R1, 03 R90, 15 R368). -/

/-- The set of a line, by a hash that the spec does not give (log entry 7). -/
def l2SetOf (line : Nat) : Nat := Config.l2Hash line % 983040

/-- The ways that a fill may use: those of the mask, all of them for an agent without one (log entry 92). -/
def waysOf (mask : Nat) : List Nat := if mask % 65536 = 0 then List.range 16 else (List.range 16).filter (bitOf mask)

/-- The lines of a die that stand in the ways a fill may use of the set of a line. A die with fewer lines than ways has
room whatever the hash. -/
def State.l2Set (s : State) (die line : Nat) (ways : List Nat) : Tab L2Line :=
  (s.die die).l2.filter fun p => l2SetOf p.1 == l2SetOf line && ways.contains p.2.way

/-- The line that a full set gives up: the least recently used, those of keep priority last (log entry 92). -/
def l2Victim (set : Tab L2Line) : Option Nat :=
  ((sortBy (fun a b => (!a.2.keep && b.2.keep) || (a.2.keep == b.2.keep && decide (a.2.used < b.2.used))) set).map
    Prod.fst).head?

/-- A die evicts a line: M sends its data, E and S a clean notice, and an NC line goes without one (15 R370, R375). -/
def State.l2Evict (s : State) (die line : Nat) : State :=
  match s.l2Find die line with
  | none => s
  | some x =>
    let t := s.l2Del die line
    match x.st with
    | .nc => t
    | .m => t.send { kind := .writeBack, home := x.home, die, line, data := some x.bytes }
    | _ => t.send { kind := .writeBack, home := x.home, die, line }

/-- Room for one more line in the ways a fill may use (15 R368). -/
def State.l2Room (s : State) (die line : Nat) (ways : List Nat) : State :=
  if (s.die die).l2.length < ways.length then s
  else
    let set := s.l2Set die line ways
    if set.length < ways.length then s
    else match l2Victim set with
      | some l => s.l2Evict die l
      | none => s

/-- A line that asks for keep priority has it while such lines hold less than a quarter of the ways (08 R205). -/
def State.keepRoom (s : State) (die line : Nat) (ways : List Nat) : Bool :=
  let kept (t : Tab L2Line) : Nat := (t.filter fun p => p.2.keep).length
  decide (4 * (kept (s.die die).l2 + 1) ≤ ways.length) || decide (4 * (kept (s.l2Set die line ways) + 1) ≤ ways.length)

/-- A die holds a line from now on: in its place where it holds it in the same way, otherwise in a free way or in that of the
line it evicts, as least recent under the hint `.ef`; a coherent fill takes nothing over from a non-coherent copy, nor one
from the other (15 R368, R375, 08 R205). -/
def State.l2Fill (s : State) (die line : Nat) (at_ : Attr) (st : Coh) (b : List Byte) : State :=
  let s : State := match s.l2Find die line with
    | some x => if (x.st == Coh.nc) == (st == Coh.nc) then s else s.l2Del die line
    | none => s
  match s.l2Find die line with
  | some x => s.l2Put die line { x with st := st, bytes := b }
  | none =>
    let ways := waysOf at_.ways
    let keep := at_.hint == 3 && s.keepRoom die line ways
    let s := s.l2Room die line ways
    let taken := (s.l2Set die line ways).map fun p => p.2.way
    let way := (ways.find? fun w => !taken.contains w).getD 0
    { s with fresh := s.fresh + 1 }.l2Put die line ⟨st, b, at_.home, way, keep, if at_.hint = 1 then 0 else s.fresh⟩

/-- An access uses a line of a die's L2. -/
def State.l2Touch (s : State) (die line : Nat) (hint : Nat) : State :=
  match s.l2Find die line with
  | some x => if hint = 1 then s else { s with fresh := s.fresh + 1 }.l2Put die line { x with used := s.fresh }
  | none => s

/-! The die's side (15 R369, R372). -/

/-- The message goes from home to die. -/
def MsgKind.toDie : MsgKind → Bool
  | .grant | .recallS | .recallI | .invalidate => true
  | _ => false

/-- Take out the first message of the list that a test holds for. -/
def takeMsg (f : Msg → Bool) : List Msg → Option (Msg × List Msg)
  | [] => none
  | m :: rest =>
    if f m then some (m, rest)
    else match takeMsg f rest with
      | none => none
      | some (x, ms) => some (x, m :: ms)

/-- A die sends a request for a line and remembers it, with how the line is to be held. -/
def State.ask (s : State) (at_ : Attr) (die line : Nat) (kind : MsgKind) : State :=
  (s.updDie die fun d => { d with asked := Tab.put line (kind, at_) d.asked }).send { kind, home := at_.home, die, line }

/-- A die receives a Grant; a coherent fill takes the place of the die's non-coherent copy (15 R375). -/
def State.dieGrant (s : State) (m : Msg) : State :=
  let at_ : Attr := match Tab.find m.line (s.die m.die).asked with
    | some x => { x.2 with home := m.home }
    | none => ⟨m.home, false, 0, 0, 0⟩
  let s := s.updDie m.die fun d => { d with asked := Tab.del m.line d.asked }
  match m.data, s.l2Find m.die m.line with
  | some b, _ => s.l2Fill m.die m.line at_ m.st b
  | none, some x => s.l2Put m.die m.line { x with st := m.st }
  | none, none => s

/-- A die answers a Recall.S, Recall.I or Invalidate by its own state (15 R372). -/
def State.dieAnswer (s : State) (m : Msg) : State :=
  let reply (k : MsgKind) (d : Option (List Byte)) (s : State) : State :=
    s.send { kind := k, home := m.home, die := m.die, line := m.line, data := d }
  match s.l2Find m.die m.line with
  | none => reply (if m.kind = .invalidate then .invAck else .recallReply) none s
  | some x =>
    let shared := s.l2Put m.die m.line { x with st := .s }
    let gone := s.l2Del m.die m.line
    match x.st, m.kind with
    | .m, .recallS => reply .recallReply (some x.bytes) shared
    | .e, .recallS => reply .recallReply none shared
    | .m, .recallI => reply .recallReply (some x.bytes) gone
    | .e, .recallI => reply .recallReply none gone
    | .s, .invalidate => reply .invAck none gone
    | _, .invalidate => reply .invAck none s
    | _, _ => reply .recallReply none s

/-! The directory (15 R372, R374). -/

def State.dirFind (s : State) (home line : Nat) : Option DirEntry := Tab.find line (s.die home).dir
def State.dirPut (s : State) (home line : Nat) (e : DirEntry) : State :=
  s.updDie home fun d => { d with dir := Tab.put line e d.dir }
def State.dirDel (s : State) (home line : Nat) : State := s.updDie home fun d => { d with dir := Tab.del line d.dir }

/-- The directory set of a line (15 R374). -/
def dirSet (line : Nat) : Nat := (bits line 18 0 ^^^ bits line 37 19) ^^^ bits line 45 38

/-- A home takes a WriteBack: dirty data to memory, the die no longer holds the line (15 R372). -/
def State.homeWriteBack (s : State) (home die line : Nat) (data : Option (List Byte)) : State :=
  let s := match data with
    | some b => s.setMemLine line b
    | none => s
  match s.dirFind home line with
  | none => s
  | some e =>
    let st : Option DirState := match e.st with
      | some (.shared v) =>
        let v := v.filter (· != die)
        if v = [] then none else some (.shared v)
      | some (.owned o) => if o = die then none else some (.owned o)
      | none => none
    if st.isNone && e.txn.isNone && e.waiting = [] then s.dirDel home line else s.dirPut home line { e with st := st }

/-- The Grants and WriteBacks in flight for a line arrive: they are ahead of any recall that is sent now (15 R371). -/
def State.landLine (s : State) (home line : Nat) : State :=
  let mine (m : Msg) : Bool := m.home == home && m.line == line && (m.kind == .grant || m.kind == .writeBack)
  (s.msgs.filter mine).foldl
    (fun s m => if m.kind = .grant then s.dieGrant m else s.homeWriteBack m.home m.die m.line m.data)
    { s with msgs := s.msgs.filter fun m => !mine m }

/-- A Recall.I or an Invalidate to one die and its answer; dirty data go to memory. -/
def State.recallFrom (s : State) (home line : Nat) (kind : MsgKind) (die : Nat) : State :=
  let s := s.dieAnswer { kind, home, die, line }
  let answer (m : Msg) : Bool :=
    m.home == home && m.line == line && m.die == die && (m.kind == .recallReply || m.kind == .invAck)
  match takeMsg answer s.msgs with
  | none => s
  | some (m, rest) =>
    let t := { s with msgs := rest }
    match m.data with
    | some b => t.setMemLine line b
    | none => t

/-- Recall every copy a directory entry tracks, by Recall.I to an owner or Invalidate to every sharer, and free the
entry (15 R374; the whole exchange in one step, log entry 10). -/
def State.dirRecall (s : State) (home line : Nat) : State :=
  let s := s.landLine home line
  match s.dirFind home line with
  | none => s
  | some e =>
    let s := match e.st with
      | none => s
      | some (.shared v) => v.foldl (fun s d => s.recallFrom home line .invalidate d) s
      | some (.owned o) => s.recallFrom home line .recallI o
    s.dirDel home line

/-- The entries of a line's directory set. -/
def State.dirLines (s : State) (home line : Nat) : Tab DirEntry := (s.die home).dir.filter fun p => dirSet p.1 == dirSet line

/-- Make room in a full directory set by recalling its least recently used entry with no transaction in progress;
none where every entry is in one (15 R374). -/
def State.dirRoom (s : State) (home line : Nat) : Option State :=
  let set := s.dirLines home line
  if set.length < 16 then some s
  else match sortBy (fun a b => decide (a.2.used < b.2.used)) (set.filter fun p => p.2.txn.isNone) with
    | [] => none
    | (l, _) :: _ => some (s.dirRecall home l)

/-! The home's side (15 R371, R372). -/

/-- End a transaction whose answers are all in: the Grant and the next state of the line. -/
def State.finishTxn (s : State) (home line : Nat) (e : DirEntry) (t : Txn) : State :=
  let data := some (s.memLine line)
  let (st, grant) : DirState × Msg := match e.st, t.kind with
    | some (.shared v), .readShared => (.shared (v ++ [t.die]), ⟨.grant, home, t.die, line, data, .s⟩)
    | some (.shared v), .upgrade =>
      (.owned t.die, ⟨.grant, home, t.die, line, if v.contains t.die then none else data, .e⟩)
    | some (.owned o), .readShared => (.shared [o, t.die], ⟨.grant, home, t.die, line, data, .s⟩)
    | none, _ => (.owned t.die, ⟨.grant, home, t.die, line, data, .e⟩)
    | _, _ => (.owned t.die, ⟨.grant, home, t.die, line, data, .e⟩)
  (s.dirPut home line { e with st := some st, txn := none }).send grant

/-- Begin the transaction of a request, sending the Recalls or Invalidates it needs. -/
def State.beginTxn (s : State) (home line : Nat) (e : DirEntry) (die : Nat) (kind : MsgKind) : State :=
  let e := { e with used := s.fresh }
  let s := { s with fresh := s.fresh + 1 }
  let due : List Nat := match e.st with
    | none => []
    | some (.shared v) => if kind = .readShared then [] else v.filter (· != die)
    | some (.owned o) => if o = die then [] else [o]
  let ask : MsgKind := match e.st with
    | some (.owned _) => if kind = .readShared then .recallS else .recallI
    | _ => .invalidate
  let t : Txn := ⟨die, kind, due⟩
  if due = [] then s.finishTxn home line e t
  else due.foldl (fun s d => s.send { kind := ask, home, die := d, line }) (s.dirPut home line { e with txn := some t })

/-- A home takes up a request: it waits behind a transaction in progress (15 R371). -/
def State.homeRequest (s : State) (home die line : Nat) (kind : MsgKind) : State :=
  match s.dirFind home line with
  | some e =>
    if e.txn.isSome then s.dirPut home line { e with waiting := e.waiting ++ [(die, kind)] }
    else s.beginTxn home line e die kind
  | none =>
    match s.dirRoom home line with
    | none => s.send { kind, home, die, line }
    | some s => s.beginTxn home line { st := none } die kind

/-- After a transaction the waiting requests begin, oldest first, until one needs answers: those that end at once are followed
by the next (15 R371). -/
def State.nextRequests (home line : Nat) : Nat → State → State
  | 0, s => s
  | n + 1, s =>
    match s.dirFind home line with
    | some e =>
      match e.txn, e.waiting with
      | none, (d, k) :: rest => State.nextRequests home line n (s.beginTxn home line { e with waiting := rest } d k)
      | _, _ => s
    | none => s

/-- The requests that waited for a transaction begin. -/
def State.nextRequest (s : State) (home line : Nat) : State :=
  State.nextRequests home line (((s.dirFind home line).map fun e => e.waiting.length).getD 0) s

/-- A home takes an answer to a Recall or an Invalidate; dirty data goes to memory. -/
def State.homeAnswer (s : State) (home die line : Nat) (data : Option (List Byte)) : State :=
  let s := match data with
    | some b => s.setMemLine line b
    | none => s
  match s.dirFind home line with
  | none => s
  | some e =>
    match e.txn with
    | none => s
    | some t =>
      let t := { t with due := t.due.filter (· != die) }
      if t.due = [] then (s.finishTxn home line e t).nextRequest home line
      else s.dirPut home line { e with txn := some t }

/-- Deliver one message. -/
def State.deliver (s : State) (m : Msg) : State :=
  match m.kind with
  | .readShared | .readOwn | .upgrade => s.homeRequest m.home m.die m.line m.kind
  | .writeBack => s.homeWriteBack m.home m.die m.line m.data
  | .grant => s.dieGrant m
  | .recallS | .recallI | .invalidate => s.dieAnswer m
  | .recallReply | .invAck => s.homeAnswer m.home m.die m.line m.data

/-- Deliver every message in flight for a line, in order, within the fuel. -/
def State.drain : Nat → Nat → Nat → State → State
  | 0, _, _, s => s
  | k + 1, home, line, s =>
    match takeMsg (fun m => m.home == home && m.line == line) s.msgs with
    | none => s
    | some (m, rest) => State.drain k home line ({ s with msgs := rest }.deliver m)

/-- What is in flight for a line arrives; where its directory set is full of transactions, one of them ends first
(15 R371, R374). -/
def State.quiet (s : State) (home line : Nat) : State :=
  let s := State.drain (16 * s.msgs.length + 64) home line s
  let set := s.dirLines home line
  if set.length < 16 || (s.dirFind home line).isSome || set.any fun p => p.2.txn.isNone then s
  else set.foldl (fun s p => State.drain (16 * s.msgs.length + 64) home p.1 s) s

/-- A die obtains a line from its home, for reading or as the only copy, the whole transaction in one step
(15 R369, R372; log entry 10). -/
def State.obtain (s : State) (at_ : Attr) (die line : Nat) (own : Bool) : State :=
  let s := s.quiet at_.home line
  let owned (s : State) : State := match s.l2Find die line with
    | some x => if x.st = .e ∧ own then s.l2Put die line { x with st := .m } else s
    | none => s
  let fetch (k : MsgKind) : State := owned (State.drain 64 at_.home line (s.ask at_ die line k))
  match (s.l2Find die line).map L2Line.st with
  | some .m => s
  | some .e => owned s
  | some .s => if own then fetch .upgrade else s
  | _ => fetch (if own then .readOwn else .readShared)

/-! Reading and writing a line at its coherence point. -/

/-- The home gives up what it tracks of a line before memory is read or written for a non-coherent page or an uncached
read (15 R375, 08 R205). -/
def State.purge (s : State) (home line : Nat) : State := (s.quiet home line).dirRecall home line

/-- A line as the agent's die sees it, and the state after the access: through the die's own copy of a non-coherent
line, through the home's copy for an uncached page, otherwise coherently (15 R369, R375, 08 R205). -/
def State.readLine (s : State) (die : Nat) (at_ : Attr) (line : Nat) : List Byte × State :=
  if at_.nc then
    match s.l2Find die line with
    | some x =>
      if x.st = .nc ∧ at_.cpol ≠ 2 then (x.bytes, s.l2Touch die line at_.hint)
      else
        let s := s.purge at_.home line
        (s.memLine line, if at_.cpol = 2 then s else s.l2Fill die line at_ .nc (s.memLine line))
    | none =>
      let s := s.purge at_.home line
      (s.memLine line, if at_.cpol = 2 then s else s.l2Fill die line at_ .nc (s.memLine line))
  else if at_.cpol == 2 then
    let s := s.quiet at_.home line
    match (s.l2Find at_.home line).filter fun (x : L2Line) => x.st != .nc with
    | some x => (x.bytes, s)
    | none =>
      let s := s.dirRecall at_.home line
      (s.memLine line, s)
  else
    let s := (s.obtain at_ die line false).l2Touch die line at_.hint
    match s.l2Find die line with
    | some x => (x.bytes, s)
    | none => (s.memLine line, s)

/-- Replace the bytes that a mask names. -/
def mergeBytes (old : List Byte) (new : List (Option Byte)) : List Byte :=
  (List.range old.length).map fun i => (new.getD i none).getD (old.getD i 0)

/-- Write bytes of a line, with their mask: through to memory for a non-coherent or uncached page, otherwise into the
only copy (03 R90, 15 R369, R375, 08 R205). -/
def State.writeLine (s : State) (die : Nat) (at_ : Attr) (line : Nat) (new : List (Option Byte)) : State :=
  if at_.nc then
    let s := s.purge at_.home line
    let s := match s.l2Find die line with
      | some x => if x.st = Coh.nc then s.l2Put die line { x with bytes := mergeBytes x.bytes new } else s
      | none => s
    s.setMemLine line (mergeBytes (s.memLine line) new)
  else if at_.cpol == 2 then
    let s := s.quiet at_.home line
    let s := (List.range 4).foldl (fun s d => match s.l2Find d line with
      | some x => s.l2Put d line { x with bytes := mergeBytes x.bytes new }
      | none => s) s
    s.setMemLine line (mergeBytes (s.memLine line) new)
  else
    let s := (s.obtain at_ die line true).l2Touch die line at_.hint
    match s.l2Find die line with
    | some x => s.l2Put die line { x with st := .m, bytes := mergeBytes x.bytes new }
    | none => s.setMemLine line (mergeBytes (s.memLine line) new)

/-- The bytes of a write that fall into a line, as a mask. -/
def lineMask (line : Nat) (ws : List (Nat × Byte)) : List (Option Byte) :=
  (List.range 64).map fun i => (ws.filter fun w => w.1 == 64 * line + i).getLast?.map Prod.snd

/-- The distinct numbers of a list, in order of first appearance. -/
def distinct : List Nat → List Nat
  | [] => []
  | x :: rest => x :: (distinct rest).filter (· != x)

/-- Write bytes of local memory at the coherence point, line by line. -/
def State.writeCoh (s : State) (die : Nat) (at_ : Attr) (ws : List (Nat × Byte)) : State :=
  (distinct (ws.map fun w => w.1 / 64)).foldl (fun s l => s.writeLine die at_ l (lineMask l ws)) s

/-- Read n bytes of local memory at the coherence point. -/
def State.readCoh (s : State) (die : Nat) (at_ : Attr) (pa n : Nat) : List Byte × State :=
  let lines := distinct ((List.range n).map fun i => (pa + i) / 64)
  let (got, s) := lines.foldl (fun (acc : Tab (List Byte) × State) l =>
    let (b, s) := acc.2.readLine die at_ l
    (Tab.put l b acc.1, s)) ([], s)
  ((List.range n).map fun i => (Tab.get [] got ((pa + i) / 64)).getD ((pa + i) % 64) 0, s)

/-- Read n bytes at the coherence point itself: on a non-coherent page memory, whatever copy the die's L2 holds
(04 R111, 15 R355). -/
def State.readSync (s : State) (die : Nat) (at_ : Attr) (pa n : Nat) : List Byte × State :=
  if !at_.nc then s.readCoh die at_ pa n
  else
    let lines := distinct ((List.range n).map fun i => (pa + i) / 64)
    (lines.foldl (fun (s : State) l =>
      if (s.l2Find die l).map L2Line.st = some .nc then s.l2Del die l else s) s).readCoh die at_ pa n

/-! Signatures (04 R112). -/

def sigMult (k : Nat) : Nat :=
  if k = 0 then 0x8F3AD5C16B2749E3 else if k = 1 then 0xC6D21B9E74A503F9 else 0xB47EE20593C85D6B

/-- hash_k of a sector number. -/
def sigHash (k sec : Nat) : Nat := bits (sec * sigMult k % 2 ^ 64) 63 54

/-- The three bits of a sector. -/
def sigBits (sec : Nat) : Signature :=
  BitVec.ofNat 1024 (2 ^ sigHash 0 sec) ||| BitVec.ofNat 1024 (2 ^ sigHash 1 sec) ||| BitVec.ofNat 1024 (2 ^ sigHash 2 sec)

/-- The sector matches the signature. -/
def sigMatch (g : Signature) (sec : Nat) : Bool := (g &&& sigBits sec) == sigBits sec

/-- The sectors of a list of byte addresses. -/
def sectorsOf (as : List Nat) : List Nat := distinct (as.map (· / 32))

/-- Every write of a core's streams enters its sectors into the three outgoing signatures (04 R112). -/
def State.noteWrites (s : State) (core : Nat) (secs : List Nat) : State :=
  let g := secs.foldl (fun g x => g ||| sigBits x) 0
  s.updCore core fun c => { c with outcl := c.outcl ||| g, outdi := c.outdi ||| g, outdv := c.outdv ||| g }

/-- An engine operation's writes enter the issuing core's outgoing signatures and its IN (04 R112). -/
def State.noteEngine (s : State) (core : Nat) (secs : List Nat) : State :=
  let g := secs.foldl (fun g x => g ||| sigBits x) 0
  (s.noteWrites core secs).updCore core fun c => { c with sigIn := c.sigIn ||| g }

/-- A host write enters its sectors into every IN and every NCIN (04 R115). -/
def State.noteHost (s : State) (g : Signature) : State :=
  let s := (List.range 256).foldl (fun s k => s.updCore k fun c => { c with sigIn := c.sigIn ||| g }) s
  (List.range 4).foldl (fun s d => s.updDie d fun x => { x with ncin := x.ncin ||| g }) s

/-! The L1 of a core (03 R86, 04 R111). -/

/-- Write back the dirty bytes of a sector; it stays valid and clean. -/
def State.cleanSector (s : State) (core sec : Nat) : State :=
  match Tab.find sec (s.core core).l1 with
  | none => s
  | some x =>
    if x.dirty.any id then
      let ws := (List.range 32).filterMap fun i => if x.dirty.getD i false then some (32 * sec + i, x.bytes.getD i 0) else none
      let s := s.writeCoh (dieOf core) x.held ws
      s.updCore core fun c => { c with l1 := Tab.put sec { x with dirty := List.replicate 32 false } c.l1 }
    else s

/-- Write back a sector and drop it. -/
def State.dropSector (s : State) (core sec : Nat) : State :=
  (s.cleanSector core sec).updCore core fun c => { c with l1 := Tab.del sec c.l1 }

/-! The sets of a core's L1: 256, of two ways for each granule it holds (03 R86). -/

/-- The set of a line, by a hash that the spec does not give (log entry 7). -/
def l1SetOf (line : Nat) : Nat := Config.l1Hash line % 256

/-- The ways of a core's L1. -/
def Core.l1ways (c : Core) : Nat := 2 * c.l1gran

/-- The lines that the L1 holds, with the orders of their filling and of their last use. -/
def Core.l1lines (c : Core) : Tab (Nat × Nat) :=
  c.l1.foldr (fun p t => match t with
    | (l, x) :: rest => if l = p.1 / 2 then (l, x) :: rest else (p.1 / 2, p.2.filled, p.2.used) :: (l, x) :: rest
    | [] => [(p.1 / 2, p.2.filled, p.2.used)]) []

/-- The lines that the L1 holds in the set of a line. -/
def Core.l1set (c : Core) (line : Nat) : Tab (Nat × Nat) := c.l1lines.filter fun p => l1SetOf p.1 == l1SetOf line

/-- How many lines of its set were used after a line. -/
def Core.l1rank (c : Core) (line : Nat) : Nat :=
  let mine : Nat × Nat := Tab.get (0, 0) c.l1lines line
  ((c.l1set line).filter fun (q : Nat × Nat × Nat) => decide (mine.2 < q.2.2)).length

/-- A line of a sampling set stands in its shadow ways as the most recent (03 R88). -/
def Core.shade (c : Core) (line : Nat) : Tab (List Nat) :=
  let old := Tab.get [] c.shadow (l1SetOf line)
  if l1SetOf line % 32 = 0 then Tab.put (l1SetOf line) ((line :: old.filter (· != line)).take 2) c.shadow else c.shadow

/-- A line leaves the L1 for want of room: its dirty sectors are written back, and two more ways would have kept it. -/
def State.l1Evict (s : State) (core line : Nat) : State :=
  ((s.dropSector core (2 * line)).dropSector core (2 * line + 1)).updCore core fun c => { c with shadow := c.shade line }

/-- Room for a line in its set: the least recently used line of a full set leaves (log entry 92). -/
def State.l1Room (s : State) (core line : Nat) : State :=
  let c := s.core core
  if c.l1.length < c.l1ways || (Tab.find line c.l1lines).isSome || c.l1lines.length < c.l1ways then s
  else
    let set := c.l1set line
    if set.length < c.l1ways then s
    else match sortBy (fun a b => decide (a.2.2 < b.2.2)) set with
      | [] => s
      | p :: _ => s.l1Evict core p.1

/-- The L1 gives up granules, two ways each: in every set the least recently filled lines leave, their dirty sectors
written back (03 R88, log entry 92). -/
def State.l1Shrink (s : State) (core gran : Nat) : State :=
  let c := s.core core
  let lines := c.l1lines
  let late (p : Nat × Nat × Nat) : Nat :=
    ((c.l1set p.1).filter fun (q : Nat × Nat × Nat) => decide (p.2.1 < q.2.1)).length
  let out := if lines.length ≤ 2 * gran then [] else lines.filter fun p => decide (2 * gran ≤ late p)
  (out.foldl (fun s p => s.l1Evict core p.1) s).updCore core fun c => { c with l1gran := gran }

/-- An instruction's access to a line through the L1: the sampling sets count it, with the hits that the shadow ways
would have had and those in the two least recent ways, and the line is the most recent unless its hint is `.ef`
(03 R88, 08 R205). -/
def State.l1Touch (s : State) (core hint line : Nat) : State :=
  let stamp := s.fresh
  { s with fresh := s.fresh + 1 }.updCore core fun c =>
    let sampled := l1SetOf line % 32 == 0
    let shadow := Tab.get [] c.shadow (l1SetOf line)
    let held := (Tab.find (2 * line) c.l1).isSome || (Tab.find (2 * line + 1) c.l1).isSome
    { c with
      l1total := c.l1total + sampled.toNat,
      l1gain := c.l1gain + (sampled && !held && shadow.contains line).toNat,
      l1tail := c.l1tail + (sampled && held && decide (c.l1ways ≤ c.l1rank line + 2)).toNat,
      shadow := if c.l1gran = 0 then c.shade line
        else if shadow.contains line then Tab.put (l1SetOf line) (shadow.filter (· != line)) c.shadow else c.shadow,
      l1 := if hint = 1 then c.l1
        else Tab.mapVals (fun k x => if k / 2 = line then { x with used := stamp } else x) c.l1 }

/-- The sector of a core's L1, filled from the core's die if absent. -/
def State.fillSector (s : State) (core : Nat) (at_ : Attr) (sec : Nat) : State :=
  match Tab.find sec (s.core core).l1 with
  | some _ => s
  | none =>
    let s := s.l1Room core (sec / 2)
    let (b, s) := s.readCoh (dieOf core) at_ (32 * sec) 32
    let old := Tab.find (sec / 2) (s.core core).l1lines
    let x : Sector := ⟨b, List.replicate 32 false, { at_ with hint := 0 }, 0, (old.map Prod.fst).getD s.fresh,
      (old.map Prod.snd).getD (if at_.hint = 1 then 0 else s.fresh)⟩
    { s with fresh := s.fresh + 1 }.updCore core fun c => { c with l1 := Tab.put sec x c.l1 }

/-- A plain access of this page and hint may allocate in the L1 (08 R205, 03 R86). -/
def State.usesL1 (s : State) (core : Nat) (at_ : Attr) (hint : Nat) : Bool :=
  at_.cpol == 0 && hint != 2 && decide (0 < (s.core core).l1gran)

/-- One byte as the core's L1 or, where it holds no copy, the coherence point gives it. -/
def State.readPlain (s : State) (core : Nat) (at_ : Attr) (hint pa : Nat) : Byte × State :=
  let at_ := { at_ with hint := hint }
  match Tab.find (pa / 32) (s.core core).l1 with
  | some x => (x.bytes.getD (pa % 32) 0, s)
  | none =>
    if s.usesL1 core at_ hint then
      let s := s.fillSector core at_ (pa / 32)
      match Tab.find (pa / 32) (s.core core).l1 with
      | some x => (x.bytes.getD (pa % 32) 0, s)
      | none => (0, s)
    else
      let (b, s) := s.readCoh (dieOf core) at_ pa 1
      (b.getD 0 0, s)

/-- Put bytes into a sector that the L1 holds; they are dirty unless written through. -/
def State.pokeSector (s : State) (core sec : Nat) (ws : List (Nat × Byte)) (through : Bool) : State :=
  match Tab.find sec (s.core core).l1 with
  | none => s
  | some x =>
    let put (i : Nat) : Option Byte := (ws.filter fun w => w.1 == 32 * sec + i).getLast?.map Prod.snd
    let was := x.dirty.any id
    let y : Sector := { x with
      bytes := (List.range 32).map fun i => (put i).getD (x.bytes.getD i 0),
      dirty := (List.range 32).map fun i => if (put i).isSome then !through else x.dirty.getD i false,
      since := if was then x.since else s.cyclesOf (clusterOf core) }
    s.updCore core fun c => { c with l1 := Tab.put sec y c.l1 }

/-- A plain store of bytes by a core: into its L1, or through it to the L2 (04 R111, 08 R205). -/
def State.writePlain (s : State) (core : Nat) (at_ : Attr) (hint : Nat) (ws : List (Nat × Byte)) : State :=
  let secs := sectorsOf (ws.map Prod.fst)
  let at_ := { at_ with hint := hint }
  let s :=
    if s.usesL1 core at_ hint then
      secs.foldl (fun s x => (s.fillSector core at_ x).pokeSector core x ws false) s
    else
      (secs.foldl (fun s x => s.pokeSector core x ws true) s).writeCoh (dieOf core) at_ ws
  s.noteWrites core secs

/-- An access at the coherence point drops the core's own copy first, so that later plain loads see it. -/
def State.syncSectors (s : State) (core : Nat) (as : List Nat) : State :=
  (sectorsOf as).foldl (fun s x => s.dropSector core x) s

/-! Release, acquire, join (04 R113). Scope codes as 04 R97. -/

/-- The other cores of a core's scope instance at cluster, die or package level. -/
def coresInScope (core scope : Nat) : List Nat :=
  (List.range 256).filter fun k => k != core &&
    (if scope = 4 then clusterOf k == clusterOf core else if scope = 5 then dieOf k == dieOf core else true)

/-- Enter a published signature into the INs of the scope instance, forwarding as 04 R112 gives, and into the NCINs. -/
def State.publish (s : State) (core scope : Nat) (g : Signature) : State :=
  let s := (coresInScope core scope).foldl (fun s k => s.updCore k fun c =>
    if scope = 4 then { c with sigIn := c.sigIn ||| g, outdi := c.outdi ||| g, outdv := c.outdv ||| g }
    else if scope = 5 then { c with sigIn := c.sigIn ||| g, outdv := c.outdv ||| g }
    else { c with sigIn := c.sigIn ||| g }) s
  if 6 ≤ scope then (List.range 4).foldl (fun s d => s.updDie d fun x => { x with ncin := x.ncin ||| g }) s else s

/-- Release(scope): write back every dirty sector, publish the signature of the level, clear it and the narrower. -/
def State.release (s : State) (core scope : Nat) : State :=
  if scope < 4 then s
  else
    let s := ((s.core core).l1.map Prod.fst).foldl (fun s x => s.cleanSector core x) s
    let c := s.core core
    let g := if scope = 4 then c.outcl else if scope = 5 then c.outdi else c.outdv
    let s := s.publish core scope g
    s.updCore core fun c =>
      if scope = 4 then { c with outcl := 0 }
      else if scope = 5 then { c with outcl := 0, outdi := 0 }
      else { c with outcl := 0, outdi := 0, outdv := 0 }

/-- A core has written to another package. -/
def State.noteRemote (s : State) (core pkg : Nat) : State :=
  s.updCore core fun c => { c with wrotePkg := if c.wrotePkg.contains pkg then c.wrotePkg else c.wrotePkg ++ [pkg] }

/-- The writes and atomics of a core to another package that are not acknowledged (04 R115). -/
def State.unanswered (s : State) (core pkg : Nat) : List Nat :=
  (s.remotes.filter fun q => q.core == core && q.pkg == pkg && q.kind != 0).map (·.id)

/-- A core sends its release message to a package, which it has then written to only where writes are still on their way. -/
def State.sendRelease (s : State) (core pkg : Nat) : State :=
  let rest := s.unanswered core pkg
  { s with releases := s.releases ++ [(pkg, s.relSeq, core)], relSeq := s.relSeq + 1 }.updCore core fun c =>
    { c with wrotePkg := if rest = [] then c.wrotePkg.filter (· != pkg) else c.wrotePkg }

/-- A release message to every package that the core has written since its last release of domain or system scope: in the course
of a release, and after a release store or a releasing atomic for its own write. One goes out when the core's writes to its
package have been acknowledged, at once where they have (04 R113, R115). -/
def State.followRelease (s : State) (core scope : Nat) : State :=
  if scope < 7 then s
  else (s.core core).wrotePkg.foldl (fun (s : State) p =>
    let late := s.unanswered core p
    if late = [] then s.sendRelease core p
    else s.updCore core fun c => { c with relDue := c.relDue ++ [(p, late)] }) s

/-- A write or an atomic of a core is acknowledged, or is given up: the release messages that waited for it alone go out. -/
def State.acknowledged (s : State) (core id : Nat) : State :=
  let all := (s.core core).relDue.map fun x => (x.1, x.2.filter (· != id))
  let s := s.updCore core fun c => { c with relDue := all.filter fun x => x.2 != [] }
  (distinct ((all.filter fun x => x.2 == []).map Prod.fst)).foldl (fun s p => s.sendRelease core p) s

/-- A release at domain or system scope waits for remote writes and for the acknowledgement of the release messages
it sends (04 R115): none when it is complete, otherwise the state after what it could do. -/
def State.domainWait (s : State) (core scope : Nat) : Option State :=
  if scope < 7 then none
  else if s.remotes.any (fun x => x.core == core && x.kind != 0) then some s
  else if (s.core core).wrotePkg ≠ [] then some (s.followRelease core scope)
  else if s.releases.any fun x => x.2.2 == core then some s
  else none

/-- EngineJoin: drop the L1 sectors that match IN, and clear IN. -/
def State.engineJoin (s : State) (core : Nat) : State :=
  let g := (s.core core).sigIn
  let s := ((s.core core).l1.map Prod.fst).foldl (fun s x => if sigMatch g x then s.dropSector core x else s) s
  s.updCore core fun c => { c with sigIn := 0 }

/-- Acquire(scope): EngineJoin, and from die scope the die's stale non-coherent lines (04 R113). -/
def State.acquire (s : State) (core scope : Nat) : State :=
  if scope < 4 then s
  else
    let s := s.engineJoin core
    if scope < 5 then s
    else
      let d := dieOf core
      let g := (s.die d).ncin
      s.updDie d fun x => { x with
        l2 := x.l2.filter fun p => !(p.2.st == .nc && (sigMatch g (2 * p.1) || sigMatch g (2 * p.1 + 1))),
        ncin := 0 }

/-- Spontaneous evictions of the step: sectors the L1 does not keep (03 R86; log entry 7). -/
def State.evictL1 (s : State) (k core : Nat) : State :=
  ((s.core core).l1.map Prod.fst).foldl (fun s x => if Config.l1Keeps k core x then s else s.dropSector core x) s

/-! Marks of sectors (13 R313, 16 R400, 19 R451). -/

/-- A write of every byte of a sector clears its mark. -/
def State.clearMarks (s : State) (as : List Nat) : State :=
  { s with marks := s.marks.filter fun m =>
      !((List.range 64).all fun i => as.contains (64 * m.1 + i)) }

end Sys2Proof.Machine
end

