-- ==== Sys2Proof/Machine/Assay.lean ====
section
/-! DEFINITION. Rings and records of the headframe and the assay die, staging versions, and the end of a node
instance with all that follows from it (13 R324, 14 R339, 16 R381 to R404, 19 R446). -/

namespace Sys2Proof.Machine

/-! Rings of the headframe (19 R446). Ring 0 is the completion ring, 1 the notice ring, 2 the event ring. -/

/-- Queue an entry for a partition's ring. -/
def State.postRing (s : State) (p k : Nat) (w0 w1 : DWord) : State :=
  s.updPart p fun x =>
    let put (i : Nat) : Ring :=
      let r := x.rings.getD i {}
      if i = k then { r with wait := r.wait ++ [(w0, w1)] } else r
    { x with rings := [put 0, put 1, put 2] }

/-- Post a partition event: its kind and the bits below (19 R446). -/
def State.postEvent (s : State) (p kind low : Nat) : State :=
  s.postRing p 2 s.timestamp (w64 (kind * 2 ^ 56 + low % 2 ^ 56))

/-- Word 1 of a completion record (14 R340). -/
def completionWord (p status entry : Nat) (rerun : Bool) : DWord :=
  w64 (status * 2 ^ 48 + entry * 2 ^ 36 + p * 2 ^ 32 + rerun.toNat)

/-- Queue a completion record (14 R340). -/
def State.postCompletion (s : State) (p : Nat) (addr : DWord) (status entry : Nat) (rerun : Bool) : State :=
  s.postRing p 0 addr (completionWord p status entry rerun)

/-- Completion records of a partition that wait, or that an instance may still bring: the headframe keeps 4,096 (14 R336,
19 R446; log entry 122). -/
def State.recordRoom (s : State) (p : Nat) : Bool :=
  decide (((s.part p).rings.getD 0 {}).wait.length + (s.nodes.filter fun n => partOfNode n.1 == p).length +
    (s.endRecs.filter fun x => x.2.1 == p).length < 4096)

/-- The records of ended instances go out whose gangs have all left their cores (13 R324, 19 R447). -/
def State.settleEnds (s : State) : State :=
  let stays (u : Nat) : Bool := s.gangs.any fun p => p.2.uid == u && p.2.halted
  let (held, due) := s.endRecs.partition fun x => stays x.1
  due.foldl (fun s x => s.postRing x.2.1 0 x.2.2.1 x.2.2.2) { s with endRecs := held }

/-! The fault record (16 R404). -/

/-- Enter an entry into the ring of 8,192, in place of the final entry with the lowest SEQ when it is full; none
when every entry is still open. -/
def State.enterRecord (s : State) (e : FaultEntry) : Option State :=
  if s.record.length < 8192 then some { s with record := s.record ++ [e] }
  else match s.record.find? FaultEntry.final with
    | none => none
    | some old => some { s with record := s.record.filter (·.seq != old.seq) ++ [e] }

/-- The eight words of a new entry: fault domain, partition, kind, verdict and test, node, word 2, page, version word,
link and detail (16 R404). -/
def recordWords (seq fdom part kind verdict test : Nat) (node : DWord) (w2 : Nat) (page w4 : Nat)
    (time link detail : Nat) : List DWord :=
  [w64 (seq * 2 ^ 32 + fdom * 2 ^ 24 + part * 2 ^ 20 + kind * 2 ^ 16 + verdict * 2 ^ 12 + test * 2 ^ 8), node, w64 w2,
   w64 page, w64 w4, 0, w64 time, w64 (link * 2 ^ 32 + detail % 2 ^ 32)]

/-- Record an event: the SEQ its entry receives, and the state; 0 for an event that the record cannot keep, which is only
counted (16 R404). -/
def State.recordSeq (s : State) (fdom part kind verdict test : Nat) (node : DWord) (w2 page w4 link detail : Nat)
    (final : Bool) : Nat × State :=
  let seq := s.recSeq + 1
  let e : FaultEntry := ⟨seq, recordWords seq fdom part kind verdict test node w2 page w4 s.now link detail, final⟩
  match { s with recSeq := seq }.enterRecord e with
  | some t => (seq, t)
  | none =>
    if s.held.length < 256 then (seq, { s with recSeq := seq, held := s.held ++ [e] })
    else (0, { s with lost := s.lost + 1 })

/-- Record an event of a kind that has no verdict, or open an entry that will receive one. -/
def State.recordFault (s : State) (fdom part kind verdict test : Nat) (node : DWord) (w2 page w4 link detail : Nat)
    (final : Bool) : State :=
  (s.recordSeq fdom part kind verdict test node w2 page w4 link detail final).2

/-- Entries held back enter as others become final; then the count of lost events is recorded (16 R404). -/
def State.flushHeld (s : State) : State :=
  let s := s.held.foldl (fun s e => match s.enterRecord e with
    | some t => { t with held := t.held.filter (·.seq != e.seq) }
    | none => s) s
  if s.lost ≠ 0 ∧ s.held = [] then
    let n := s.lost
    { s with lost := 0 }.recordFault 0 0 14 0 0 0 0 0 0 0 n true
  else s

/-- Change an open entry of the record, setting TIME (16 R404). -/
def State.amendRecord (s : State) (seq : Nat) (f : List DWord → List DWord) (final : Bool) : State :=
  let g (e : FaultEntry) : FaultEntry :=
    if e.seq = seq then { e with words := (f e.words).set 6 s.timestamp, final } else e
  { s with record := s.record.map g, held := s.held.map g }.flushHeld

/-- VERDICT of an entry, and in LASTING the count of CORE1's cluster after it (16 R404). -/
def State.verdictWords (s : State) (verdict : Nat) (ws : List DWord) : List DWord :=
  (ws.set 0 (w64 (putBits (wordAt ws 0) 15 12 verdict))).set 5
    (w64 (putBits (wordAt ws 5) 31 30 (Tab.get 0 s.lasting (clusterOf (bits (wordAt ws 2) 63 56)))))

/-! Instances by uid, at the hub or past. -/

/-- The instance with a uid. -/
def State.findUid (s : State) (uid : Nat) : Option Node :=
  match s.nodes.find? (·.2.uid == uid) with
  | some p => some p.2
  | none => Tab.find uid s.past

/-- The table entry of an instance still at the hub. -/
def State.keyOfUid (s : State) (uid : Nat) : Option Nat := (s.nodes.find? (·.2.uid == uid)).map Prod.fst

/-- Change the instance with a uid. -/
def State.updUid (s : State) (uid : Nat) (f : Node → Node) : State :=
  match s.keyOfUid uid with
  | some k => s.updNode k f
  | none =>
    match Tab.find uid s.past with
    | some x => { s with past := Tab.put uid (f x) s.past }
    | none => s

/-! Versions of staged pages (16 R381 to R384). -/

/-- The device removes every translation of a staging pair of its own accord (15 R367). -/
def State.dropPairTlb (s : State) (pair : Nat) : State :=
  let keep (e : TlbEntry) : Bool := !(e.leaf.stg && e.leaf.pa / 2 ^ 22 == pair % 2 ^ 30)
  { s with
    cores := Tab.mapVals (fun _ c => { c with tlb := c.tlb.filter keep }) s.cores,
    clusters := Tab.mapVals (fun _ c => { c with port := c.port.filter keep }) s.clusters }

/-- The notice of a version that is released or void: to the partition's ring, and to every package that holds
provisional data of the version (16 R384). -/
def State.postNotice (s : State) (pair version : Nat) (part : Nat) (void unw : Bool) : State :=
  let w0 := w64 ((s.fabid.toNat % 64) * 2 ^ 58 + pair * 2 ^ 22)
  let w1 := w64 (version * 2 ^ 32 + (if void then 3 else 2) * 2 ^ 28 + unw.toNat * 2 ^ 27)
  let (mine, others) := s.provisional.partition fun x => x.2 == (pair, version)
  let out : List (Nat × DWord × DWord) := mine.map fun x => (x.1, w0, w1)
  { s with provisional := others, notices := s.notices ++ out }.postRing part 1 w0 w1

/-- A version of a pair. -/
def State.ver (s : State) (k v : Nat) : Ver := Tab.get {} (s.pair k).vers v
/-- Change a version. -/
def State.updVer (s : State) (k v : Nat) (f : Ver → Ver) : State :=
  s.updPair k fun p => { p with vers := Tab.put v (f (Tab.get {} p.vers v)) p.vers }
/-- The state of the current version of a page. -/
def State.pageSt (s : State) (k : Nat) : VerState := (s.ver k (s.pair k).version).st

/-- LIVE: the most recent version, from one downwards, that is not void (16 R381). -/
def State.liveFrom (s : State) (k : Nat) : Nat → Nat → Nat
  | 0, v => v
  | n + 1, v => if (s.ver k v).st = .void then s.liveFrom k n (v - 1) else v

/-- LIVE of a pair. -/
def State.live (s : State) (k : Nat) : Nat := s.liveFrom k ((s.pair k).vers.length + 1) (s.pair k).version

/-- The instance's record holds a version of this package (16 R383). -/
def Node.readOf (x : Node) (pair version : Nat) : Bool := x.record.contains ⟨none, pair, version⟩

/-- Every version that is sealed now in a partition. -/
def State.sealedNow (s : State) (part : Nat) : List VerRef :=
  (s.pairs.filter fun p => p.2.part == part && decide (p.1 < 2 ^ 30)).flatMap fun p =>
    (p.2.vers.filter fun v => v.2.st == .sealed).map fun v => ⟨none, p.1, v.1⟩

/-- A pair enters an instance's record. A record of 64 overflows: the instance counts as having read every version of its
partition sealed now, and those sealed before it completes (16 R383). -/
def State.enterRead (s : State) (n : Nat) (v : VerRef) : State :=
  let x := s.node n
  if x.record.contains v then s
  else if x.record.length < 64 then s.setNode n { x with record := x.record ++ [v] }
  else
    let more := (v :: s.sealedNow (partOfNode n)).filter fun u => !x.record.contains u
    s.setNode n { x with record := x.record ++ more, ovf := true }

/-- A read of a sealed version enters the reader's record (16 R383). -/
def State.recordRead (s : State) (n pair : Nat) : State :=
  if s.pageSt pair = .sealed then s.enterRead n ⟨none, pair, (s.pair pair).version⟩ else s

/-- A version becomes void: its state, its translations and its notice (16 R382, R384). A probe's shadow frames have
none. -/
def State.markVoid (s : State) (pair v : Nat) : State :=
  let s := s.updVer pair v fun x => { x with st := .void, doomed := false }
  if 2 ^ 30 ≤ pair then s.dropPairTlb pair else (s.dropPairTlb pair).postNotice pair v (s.pair pair).part true false

/-- The clusters with a lasting count of 1 or more, which every re-run excludes (16 R394). -/
def State.suspects (s : State) : DWord :=
  w64 (s.lasting.foldl (fun m p => if p.2 = 0 then m else m + 2 ^ p.1) 0)

/-- The core of an instance's first gang by number, of those that have completed or are resident. -/
def State.firstCore (s : State) (x : Node) : Nat :=
  let done := x.ranOn
  let now := (s.gangs.filter fun p => (s.node p.2.node).uid == x.uid && p.2.live).map fun p => (p.2.gangid, p.2.core)
  ((sortBy (fun a b : Nat × Nat => decide (a.1 < b.1)) (done ++ now)).head?.map Prod.snd).getD 0

/-- A dependant's versions that become void count in the entry that caused them, an update that sets its TIME. -/
def State.countDependant (s : State) (cause n : Nat) : State :=
  let g (e : FaultEntry) : FaultEntry :=
    if e.seq = cause then
      { e with words := (e.words.set 4 (w64 (wordAt e.words 4 + n))).set 6 s.timestamp }
    else e
  { s with record := s.record.map g, held := s.held.map g }

/-- The kind-12 entry of a dependant whose versions become void: pages and their number (16 R392, R404). -/
def State.recordDependant (s : State) (x : Node) (page v n cause : Nat) : State :=
  let core := s.firstCore x
  let part := (x.versions.map fun u => (s.pair u.2.1).part).headD 0
  let (seq, s) := s.recordSeq (effFDOM x.eff) part 12 0 0 x.addr (core * 2 ^ 56) page (v * 2 ^ 32 + n * 2 ^ 16) cause 0 true
  (s.countDependant cause n).updUid x.uid fun x => { x with depEntry := some seq }

/-- Post a re-run of a doomed instance, with no die excluded (16 R392). -/
def State.postDependant (s : State) (x : Node) (part : Nat) : State :=
  (s.updPart part fun p => { p with
    repost := p.repost ++ [⟨x.addr, s.suspects, x.inst, x.uid, 0, none, x.attempt, x.entry⟩] }).updUid x.uid fun x =>
      { x with reposted := true }

/-- The instances at the hub and past. -/
def State.instances (s : State) : List Node := (s.nodes.map Prod.snd) ++ (s.past.map Prod.snd)

/-- An instance is doomed: its open versions are to become void at their seal, and its sealed ones, which are answered,
at once, with their entry in the record (16 R392). -/
def State.doom (s : State) (cause : Nat) (x : Node) : List (Nat × Nat) × State :=
  let s := s.updUid x.uid fun x => { x with doomed := true, cause }
  let opens := x.versions.filter fun u => (s.ver u.2.1 u.2.2).st == .opened
  let hit := x.versions.filter fun u => (s.ver u.2.1 u.2.2).st == .sealed
  let s := opens.foldl (fun s u => s.updVer u.2.1 u.2.2 fun q => { q with doomed := true }) s
  let s := match hit with
    | [] => s
    | u :: _ => s.recordDependant x (s.pair u.2.1).page.toNat u.2.2 hit.length cause
  (hit.map Prod.snd, s)

/-- Void versions, one after the other, and doom the instances whose record names them, whose sealed versions become void
in their turn: the instances doomed, and the state (16 R392). The fuel bounds the versions. -/
def State.voidSpread : Nat → Nat → List (Nat × Nat) → List Nat → State → List Nat × State
  | 0, _, _, ds, s => (ds, s)
  | _, _, [], ds, s => (ds, s)
  | k + 1, cause, (pair, v) :: rest, ds, s =>
    let p := s.ver pair v
    if p.st = .void ∨ p.st = .released then State.voidSpread k cause rest ds s
    else
      let s := s.markVoid pair v
      let readers := s.instances.filter fun x => !x.doomed && x.readOf pair v && some x.uid != p.node
      let (more, s) := readers.foldl (fun (acc : List (Nat × Nat) × State) x =>
        let (hit, t) := acc.2.doom cause x
        (acc.1 ++ hit, t)) ([], s)
      State.voidSpread k cause (rest ++ more) (ds ++ readers.map (·.uid)) s

/-- Instances in dependence order: one comes after those it is bound to as predecessors and those whose versions it has read
(14 R354, 16 R392). -/
def depOrder : Nat → List Node → List Node
  | 0, xs => xs
  | k + 1, xs =>
    let follows (x : Node) : Bool := xs.any fun y => y.uid != x.uid &&
      (x.preds.contains y.uid || y.versions.any fun v => x.readOf v.2.1 v.2.2)
    match (xs.find? fun x => !follows x).or xs.head? with
    | some x => x :: depOrder k (xs.filter fun y => y.uid != x.uid)
    | none => []

/-- Void versions of instances that fail or are doomed, with all that follows; where the node that failed is run again, so
is each doomed instance, once and in dependence order (16 R392). -/
def State.voidFor (s : State) (rerun : Bool) (cause part : Nat) (ds : List Nat) (vs : List (Nat × Nat)) : State :=
  let fuel := s.pairs.foldl (fun n p => n + p.2.vers.length) (vs.length + 1)
  let (ds, s) := State.voidSpread fuel cause vs ds s
  let xs := (ds.filterMap s.findUid).filter fun x => x.probe.isNone && !x.reposted
  if rerun then (depOrder xs.length xs).foldl (fun s x => s.postDependant x part) s else s

/-- Void versions, whose instances fail. -/
def State.voidAll (s : State) (rerun : Bool) (cause part : Nat) (vs : List (Nat × Nat)) : State :=
  s.voidFor rerun cause part [] vs

/-- Instances of a partition that have read a version that is void are doomed (16 R392). -/
def State.doomAll (s : State) (rerun : Bool) (cause part : Nat) (xs : List Node) : State :=
  let xs := xs.filter fun x => !x.doomed
  let (hit, s) := xs.foldl (fun (acc : List (Nat × Nat) × State) x =>
    let (h, t) := acc.2.doom cause x
    (acc.1 ++ h, t)) ([], s)
  s.voidFor rerun cause part (xs.map (·.uid)) hit

/-- Void one version. -/
def State.voidVersion (s : State) (rerun : Bool) (cause pair v : Nat) : State :=
  s.voidAll rerun cause (s.pair pair).part [(pair, v)]

/-- Void the open and sealed versions of an instance (13 R324, 16 R382). -/
def State.voidNode (s : State) (x : Node) (rerun : Bool) (cause : Nat) : State :=
  let vs := (x.versions.map Prod.snd).filter fun v => (s.ver v.1 v.2).st == .opened || (s.ver v.1 v.2).st == .sealed
  s.voidAll rerun cause ((vs.map fun v => (s.pair v.1).part).headD 0) vs

/-! The end of an instance. -/

/-- Take a crew out of its slot and stop it for good. -/
def Crew.stop (c : Crew) : Crew := { c with place := .waiting, ended := true, loadQ := [], storeQ := [] }

/-- A CTXSAVE or a CTXLOAD is in progress: it completes before its stream's next boundary (13 R326, R327, R332). -/
def Wait.image : Wait → Bool
  | .ctxsave _ _ _ _ none | .ctxload _ _ none => true
  | _ => false

/-- Stop a stream for good; a context image in progress is completed. -/
def Stream.stop (t : Stream) : Stream :=
  { t with live := 0, em := 0, ended := true, wait := t.wait.filter Wait.image, copyQ := [], mxQ := [], efaults := [], intrap := false }

/-- The streams of an instance that are in their system handler. -/
def State.handlers (s : State) (n : Nat) : List Nat :=
  (s.gangsOfNode n).flatMap fun p => (streamsOf p.1 p.2).filter fun r => (s.stream r).intrap && !(s.stream r).ended

/-- The collectives of some streams go that are held, or all of them (13 R324). -/
def State.dropColls (s : State) (rs : List Nat) (every : Bool) : State :=
  let (gone, left) := s.colls.partition fun c => rs.contains c.stream && (every || c.guard.isSome)
  gone.foldl (fun s c => s.updStream c.stream fun t => { t with collsOut := t.collsOut.filter (· != c.num) }) { s with colls := left }

/-- Stop the gangs of an instance but for the streams listed; accepted engine operations go on, what a park saved is
discarded, and so are the commands held and a parked gang's collectives (13 R324). -/
def State.stopGangs (s : State) (n : Nat) (kept : List Nat) : State :=
  (s.gangsOfNode n).foldl (fun s p =>
    let g := p.1
    let rs := streamsOf g p.2
    let s := s.dropColls (rs.filter fun r => !kept.contains r) p.2.parked
    let s := (rs.filter fun r => !kept.contains r).foldl (fun s r => s.updStream r Stream.stop) s
    let out := (crewsOf g p.2).filter fun k => !(crewStreams p.2.single k).any kept.contains
    let s := out.foldl (fun s k => s.updCrew k Crew.stop) s
    s.updGang g fun x =>
      if rs.any kept.contains then { x with mxSaved := [] }
      else { x with live := false, halted := true, completed := false, mxSaved := [] }) s

/-! RCBs in use (13 R303, 14 R343). -/

/-- The lead die of a partition (13 R308). -/
def Part.lead (p : Part) : Nat := bits p.partcfg.toNat 5 4

/-- The instance is charged to the RCB. -/
def Node.charges (x : Node) (a : DWord) : Bool := x.chain.any fun l => l.addr == a

/-- Gangs placed and not completed: resident, parked or saved. -/
def Node.held (x : Node) : Nat := x.placed - x.doneGangs.length

/-- KiB that a placed gang charges: its backed area and its witness area. -/
def Node.gangKib (x : Node) : Nat := (x.desc.smax - x.desc.smin) * 32 + if x.desc.wkind = 0 then 0 else 64

/-- The accepted instances of a partition that charge an RCB. -/
def State.rcbNodes (s : State) (part : Nat) (a : DWord) : List Node :=
  (s.nodes.filter fun p => partOfNode p.1 == part && p.2.charges a).map Prod.snd

/-- Tiles charged to an RCB. -/
def State.rcbTiles (s : State) (part : Nat) (a : DWord) : Nat :=
  (s.rcbNodes part a).foldl (fun n x => n + x.held * x.desc.tiles) 0

/-- KiB charged to an RCB: staging frames, backed areas, witness areas. -/
def State.rcbKib (s : State) (part : Nat) (a : DWord) : Nat :=
  (s.rcbNodes part a).foldl (fun n x => n + x.memCharge + x.held * x.gangKib) 0

/-- Cores that hold a resident gang of the RCB's subtree. -/
def State.rcbCores (s : State) (part : Nat) (a : DWord) : List Nat :=
  distinct ((s.gangs.filter fun p => p.2.live && p.2.part == part && (s.node p.2.node).charges a).map (·.2.core))

/-- Write a 64-bit word of an RCB at its coherence point. -/
def State.rcbPut (s : State) (part : Nat) (u : RcbUse) (k v : Nat) : State :=
  let a := u.pa + 8 * k
  s.writeCoh (s.part part).lead u.held ((List.range 8).zip (leBytes 8 v) |>.map fun x => (a + x.1, x.2))

/-- CUSED, TUSED and MUSED as an RCB shows them. -/
def State.rcbWord6 (s : State) (part : Nat) (a : DWord) : Nat :=
  (s.rcbCores part a).length * 2 ^ 48 + s.rcbTiles part a * 2 ^ 32 + (s.rcbKib part a + 1023) / 1024

/-- The device updates the charges that the RCBs of a chain show; EUSED is written when one goes out of use. -/
def State.showCharges (s : State) (part : Nat) (chain : List RcbLink) : State :=
  chain.foldl (fun s l =>
    match (s.part part).rcbs.find? fun u => u.addr == l.addr with
    | none => s
    | some u =>
      let s := s.rcbPut part u 6 (s.rcbWord6 part l.addr)
      if s.rcbNodes part l.addr = [] then
        (s.rcbPut part u 5 (u.pj / 10 ^ 9)).updPart part fun p => { p with rcbs := p.rcbs.filter (·.addr != l.addr) }
      else s) s

/-- An instance leaves the node table (14 R336): its charges are returned. -/
def State.leaveTable (s : State) (n : Nat) (st : NodeState) (status : Nat) : State :=
  let x := s.node n
  let s := { s with past := Tab.put x.uid { x with st, status } s.past, nodes := Tab.del n s.nodes }
  (s.updPart (partOfNode n) fun p =>
    { p with
      reserve := if p.reserve = some x.uid then none else p.reserve,
      replay := p.replay.filter fun e => bits e.1.toNat 59 48 != n % 4096,
      replayEnded := p.replayEnded.filter fun e => e.1 != n % 4096 }).showCharges (partOfNode n) x.chain

/-- The instance ends with a status, or with the one it has ended with already but for its handlers: its gangs stop, its
versions become void, and its record goes to the host once its gangs have left their cores (13 R324, 14 R340, 17 R417,
19 R447). -/
def State.endOne (s : State) (n status : Nat) : State :=
  let x := s.node n
  let status := if x.endAtEret then x.status else status
  let s := s.stopGangs n []
  let s := s.voidNode x false 0
  let s := s.leaveTable n .ended status
  if x.origin = .post ∨ status ≠ 0 then
    let word := completionWord (partOfNode n) status (n % 4096) (x.origin == .rerun)
    { s with endRecs := s.endRecs ++ [(x.uid, partOfNode n, x.addr, word)] }.settleEnds
  else s

/-- The instances bound to any of those given as predecessors, but for those that have ended already and only finish their
handlers (14 R339, 17 R417). -/
def State.boundTo (s : State) (uids : List Nat) : List Nat :=
  (s.nodes.filter fun p => p.2.preds.any uids.contains && !p.2.endAtEret).map Prod.fst

/-- INSTANCE_END: the instance ends, and with status 0x8003 every instance bound to it, transitively (14 R339). -/
def State.endNode : Nat → Nat → Nat → State → State
  | 0, _, _, s => s
  | k + 1, n, status, s =>
    match Tab.find n s.nodes with
    | none => s
    | some x =>
      let s := s.endOne n status
      (s.boundTo [x.uid]).foldl (fun s d => State.endNode k d 0x8003 s) s

/-- Fuel enough for every instance. -/
def State.nodeFuel (s : State) : Nat := s.nodes.length + 1

/-- End the node instance at a table entry with a status. -/
def State.endInstance (s : State) (n status : Nat) : State := State.endNode s.nodeFuel n status s

/-- The instance ends with a status; those of its streams in their system handler that are kept go on alone, to the ERET that
acts as HALT, and the last of them ends it (13 R312, R332, 17 R417; log entry 93). -/
def State.endHandled (s : State) (keep : Nat → Bool) (n status : Nat) : State :=
  match Tab.find n s.nodes with
  | none => s
  | some x =>
    match (s.handlers n).filter keep with
    | [] => s.endOne n status
    | kept =>
      let s := (s.stopGangs n kept).voidNode x false 0
      s.updNode n fun x => { x with endAtEret := true, status, st := .ended }

/-- Instances end with a status, each of them whatever it is bound to; then those bound to them end with status 0x8003
(14 R339, 17 R417). -/
def State.endSet (s : State) (keep : Nat → Bool) (ns : List Nat) (status : Nat) : State :=
  let uids := ns.map fun n => (s.node n).uid
  let s := ns.foldl (fun s n => s.endHandled keep n status) s
  (s.boundTo (uids.filter fun u => (s.keyOfUid u).isNone)).foldl (fun s d => s.endInstance d 0x8003) s

/-- An integrity fault, or a failed import, ends every node of the fault domain in the partition; the streams kept run on in
their system handlers: after an integrity fault the one that enters for it, after a failed import each (13 R312, R332,
17 R417). -/
def State.endDomain (s : State) (keep : Nat → Bool) (part fdom status : Nat) : State :=
  let hit := (s.nodes.filter fun p =>
    partOfNode p.1 == part && effFDOM p.2.eff == fdom && p.2.st != .ended).map Prod.fst
  (s.postEvent part 4 fdom).endSet keep hit status

/-- The assay die writes: where one of its three sequencers disagreed on the write, as the last operand says, the
majority's result stands and the disagreement is counted (16 R378). -/
def assay (f : Ev → State → Option State) (e : Ev) (s : State) : Option State :=
  (f e s).map fun t => if e.n4 = 0 then t else { t with health := t.health + 1 }

end Sys2Proof.Machine
end

