-- ==== Sys2Proof/Machine/Power.lean ====
section
/-! DEFINITION. The device register window: the power block, the partition pages, the management block and the route
table, with the effects of writing them (18 R421 to R438, 19 R444 to R446, R454). -/

namespace Sys2Proof.Machine

/-- Who reaches a register: the host, or a supervisor stream of a partition, or a stream at user level. -/
inductive Agent where
  | host
  | super (part : Nat)
  | user (part : Nat)
  deriving DecidableEq, Repr

/-! Islands (18 R422, R423, R427, R428). -/

/-- The code of an island state in ISLSTAT. -/
def IslandState.code : IslandState → Nat
  | .off => 0 | .waking => 1 | .running => 2 | .retention => 3 | .switching => 4 | .retired => 5

/-- ISLSTAT of a cluster. -/
def Cluster.islstat (c : Cluster) : Word :=
  w32 (c.island.code + (c.droop != .none).toNat * 8 + c.railNow.toNat * 16)

/-- The cluster is in the retirement map (16 R396). -/
def State.isRetired (s : State) (cl : Nat) : Bool := bitOf s.retired.toNat cl

/-- A powered-down island asks to be woken (18 R427). -/
def State.askWake (s : State) (cl : Nat) : State :=
  if (s.cluster cl).island = .off ∧ !s.wakeQ.contains cl ∧ !s.isRetired cl then { s with wakeQ := s.wakeQ ++ [cl] } else s

/-- A write to ISLCTL: fields in range change, a change of rail begins a switch or, while the clock is stopped, is in force when
it runs on, and clearing PDEN wakes a powered-down island when the host writes it (18 R421 to R423, R427; log entry 113). -/
def State.writeIslctl (s : State) (host : Bool) (cl : Nat) (v : Word) : State :=
  if s.isRetired cl then s
  else
    let old := (s.cluster cl).islctl.toNat
    let n := v.toNat
    let x := if 1 ≤ bits n 11 8 ∧ bits n 11 8 ≤ 8 then putBits old 11 8 (bits n 11 8) else old
    let x := putBits (putBits (putBits x 6 4 (bits n 6 4)) 1 1 (bits n 1 1)) 0 0 (bits n 0 0)
    let s := s.updCluster cl fun c =>
      { c with
        islctl := w32 x,
        railNow := if c.island = .retention then bitOf x 0 else c.railNow,
        island := if c.island = .running ∧ bits x 0 0 ≠ bits old 0 0 then .switching else c.island }
    if host ∧ bits x 1 1 = 0 then s.askWake cl else s

/-! Shed levels (18 R437, R438). -/

/-- The package shed level. -/
def State.pkgLevel (s : State) : Nat := bits s.telstat1.toNat 2 0

/-- The shed level in force of a partition, as SHEDSTAT shows it. -/
def Part.level (p : Part) : Nat := bits p.shedstat.toNat 2 0

/-- PARTITION_LEVEL_CHANGE: the partition's level follows min(package level, CAP); a fall waits for SHEDACK when ACKR
asks so (18 R438). -/
def State.updateLevel (s : State) (k : Nat) : State :=
  let p := s.part k
  let want := min s.pkgLevel (bits p.pshed.toNat 2 0)
  let was := p.level
  if !p.released ∨ want = was then s
  else if want < was ∧ bitOf p.pshed.toNat 7 ∧ bitOf p.shedstat.toNat 6 then s
  else
    let st := w32 ((bits p.shedstat.toNat 31 16 + 1) % 65536 * 65536 + 64 + was * 8 + want)
    (s.setPart k { p with shedstat := st }).postEvent k 1 st.toNat

/-- Every partition's level follows the package level. -/
def State.updateLevels (s : State) : State := (List.range 16).foldl State.updateLevel s

/-- PACKAGE_LEVEL_CHANGE: the package level becomes a value and the partitions follow. -/
def State.setPkgLevel (s : State) (l : Nat) : State :=
  { s with telstat1 := w32 (putBits s.telstat1.toNat 2 0 l) }.updateLevels

/-- A write to PSHED (18 R438). -/
def State.writePshed (s : State) (k : Nat) (v : Word) : State :=
  (s.updPart k fun p =>
    { p with pshed := w32 (bits v.toNat 7 7 * 128 + bits v.toNat 2 0) }).updateLevel k

/-! Posts (19 R446, 14 R333). -/

/-- Free post slots of a partition: a post that the hub cannot accept yet waits at the head of the queue (14 R333, R336). -/
def Part.postFree (p : Part) : Nat := 256 - (p.posts.length + p.hubPost.isSome.toNat)

/-- The posts that the adapter holds go on while their partition's queue takes them: each is discarded with status 0x8007 where
the partition is not released, refused with status 0x8001 for a reserved word, or queued (14 R333, R340, 19 R443, R446). -/
def State.admitFrom (k : Nat) : List (DWord × Bool) → State → State
  | [], s => s.updPart k fun p => { p with heldPosts := [] }
  | x :: rest, s =>
    let p := s.part k
    let stays : Bool := if p.released && x.2 then p.postFree == 0 else !s.recordRoom k
    if stays then s.updPart k fun p => { p with heldPosts := x :: rest }
    else if !p.released then State.admitFrom k rest (s.postCompletion k x.1 0x8007 0 false)
    else if !x.2 then State.admitFrom k rest (s.postCompletion k x.1 0x8001 0 false)
    else State.admitFrom k rest (s.updPart k fun p => { p with posts := p.posts ++ [x.1] })

/-- The posts that the adapter holds for a partition go on as far as they can. -/
def State.admitPosts (s : State) (k : Nat) : State := State.admitFrom k (s.part k).heldPosts s

/-- A write to POST3 submits the post in POST0 to POST2 and the value, which goes behind those that the adapter holds for
its partition (19 R443, R446, R454, 14 R333). -/
def State.submitPost (s : State) (k : Nat) (v : Word) : State :=
  let p := s.part k
  let rcb := w64 (p.post0.toNat + p.post1.toNat * 2 ^ 32)
  let s := s.setPart k { p with post3 := 0 }
  if !s.ready then s
  else (s.updPart k fun p => { p with heldPosts := p.heldPosts ++ [(rcb, p.post2 == 0 && v == 0)] }).admitPosts k

/-! The fabric id (19 R445). -/

/-- A write to FABID sets the id and locks it; once it is locked, writes are ignored. -/
def State.writeFabid (s : State) (v : Word) : State :=
  if bitOf s.fabid.toNat 31 then s else { s with fabid := w32 (2 ^ 31 + bits v.toNat 5 0) }

/-! Reading and writing registers by their window offset. -/

/-- Bring-up stopped at the firmware, by its signature, its security version or the flash: the package stays in reset, and only
BUSTAT and MBOXSTAT answer (17 R418, 19 R453, R454). -/
def State.noFirmware (s : State) : Bool :=
  let err := bits s.bustat.toNat 15 8
  err == 1 || err == 2 || err == 5

/-- A register of a ring. -/
def Ring.reg (r : Ring) (off : Nat) : Word :=
  if off = 0 then r.lo else if off = 4 then r.hi else if off = 8 then r.cfg else if off = 12 then r.head
  else if off = 16 then r.tail else 0

/-- The value a 32-bit aligned read of the register window gives (18 R421, 19 R444 to R446, R454). -/
def State.readReg (s : State) (who : Agent) (off : Nat) : Word :=
  if s.noFirmware then if off = 0x2001C then s.bustat else if off = 0x20008 then 0xFFFE else 0
  else if off < 0x10000 then
    let k := off / 0x1000
    let o := off % 0x1000
    let p := s.part k
    if who != .host && who != .super k then 0
    else if o = 0x10 then w32 p.postFree
    else if 0x100 ≤ o ∧ o < 0x160 then (p.rings.getD ((o - 0x100) / 0x20) {}).reg ((o - 0x100) % 0x20)
    else 0
  else if off < 0x20000 then
    let o := off - 0x10000
    if o < 0x1000 then
      let c := s.cluster (o / 0x40)
      let f := o % 0x40
      if f = 0 then c.islctl else if f = 4 then c.droopctl else if f = 8 then c.droopcnt
      else if f = 12 then c.islstat else 0
    else if o = 0x1000 then s.telcfg
    else if o = 0x1004 then s.shedcfg
    else if o = 0x1008 then s.telstat0
    else if o = 0x100C then s.telstat1
    else if 0x1020 ≤ o ∧ o < 0x1040 then Tab.get 0x0FFFFFFF s.curves ((o - 0x1020) / 4)
    else if 0x1080 ≤ o ∧ o < 0x10C0 then (s.part ((o - 0x1080) / 4)).pshed
    else 0
  else if off < 0x30000 then
    let o := off - 0x20000
    if o = 0 then s.mboxlo else if o = 4 then s.mboxhi
    else if o = 8 then w32 (s.mboxBusy.toNat * 2 ^ 31 + (if s.ready then s.mboxStatus.toNat else 0xFFFE))
    else if o = 0x10 then s.aperbase else if o = 0x18 then s.fabid else if o = 0x1C then s.bustat else 0
  else if off < 0x30200 then
    let e := (Tab.get 0 s.routes ((off - 0x30000) / 8)).toNat
    w32 (if off % 8 = 0 then e else e / 2 ^ 32)
  else 0

/-- A write to a register of a ring; out-of-range fields stay (19 R446). -/
def Ring.write (r : Ring) (off : Nat) (v : Word) : Ring :=
  let n := v.toNat
  if off = 0 then { r with lo := w32 (n / 16 * 16) }
  else if off = 4 then { r with hi := w32 (bits n 13 0) }
  else if off = 8 then
    let size := if 6 ≤ bits n 4 0 ∧ bits n 4 0 ≤ 16 then bits n 4 0 else bits r.cfg.toNat 4 0
    { r with cfg := w32 (bits n 31 30 * 2 ^ 30 + size) }
  else if off = 12 then { r with head := v }
  else r

/-- The effect of a 32-bit aligned write to the register window by the host or a supervisor stream; every other write
is ignored (17 R418, 18 R421, 19 R444 to R446). -/
def State.writeReg (s : State) (who : Agent) (off : Nat) (v : Word) : State :=
  let host := who == .host
  let n := v.toNat
  if s.noFirmware then s
  else if off < 0x10000 then
    if !host then s
    else
      let k := off / 0x1000
      let o := off % 0x1000
      if o = 0 then s.updPart k fun p => { p with post0 := v }
      else if o = 4 then s.updPart k fun p => { p with post1 := v }
      else if o = 8 then s.updPart k fun p => { p with post2 := v }
      else if o = 12 then s.submitPost k v
      else if 0x100 ≤ o ∧ o < 0x160 then
        let j := (o - 0x100) / 0x20
        let f := (o - 0x100) % 0x20
        s.updPart k fun p =>
          let put (i : Nat) : Ring := let r := p.rings.getD i {}; if i = j then r.write f v else r
          { p with rings := [put 0, put 1, put 2] }
      else s
  else if off < 0x20000 then
    let o := off - 0x10000
    if o < 0x1000 then
      let cl := o / 0x40
      let own := match who with
        | .host => true
        | .super p => (s.part p).released && bitOf (s.part p).partclu.toNat cl
        | .user _ => false
      if !own ∨ s.isRetired cl then s
      else if o % 0x40 = 0 then s.writeIslctl host cl v
      else if o % 0x40 = 4 then
        s.updCluster cl fun c => { c with droopctl := w32 (bits n 31 31 * 2 ^ 31 + bits n 23 12 * 2 ^ 12 + bits n 7 0) }
      else s
    else if !host then s
    else if o = 0x1000 then { s with telcfg := v }
    else if o = 0x1004 then
      let old := s.shedcfg.toNat
      let restn := if bits n 31 16 = 0 then bits old 31 16 else bits n 31 16
      let failn := if bits n 15 8 = 0 then bits old 15 8 else bits n 15 8
      { s with shedcfg := w32 (restn * 65536 + failn * 256 + bits n 2 0) }
    else if 0x1020 ≤ o ∧ o < 0x1040 then { s with curves := Tab.put ((o - 0x1020) / 4) v s.curves }
    else if 0x1080 ≤ o ∧ o < 0x10C0 then s.writePshed ((o - 0x1080) / 4) v
    else s
  else if !host then s
  else if off < 0x30000 then
    let o := off - 0x20000
    if o = 0 then
      if s.mboxBusy then s
      else { s with mboxlo := w32 (n / 64 * 64), mboxAddr := n / 64 * 64 + bits s.mboxhi.toNat 13 0 * 2 ^ 32, mboxBusy := true }
    else if o = 4 then { s with mboxhi := w32 (bits n 13 0) }
    else if o = 0x10 then { s with aperbase := w32 (bits n 3 0) }
    else if o = 0x18 then s.writeFabid v
    else s
  else if off < 0x30200 then
    let k := (off - 0x30000) / 8
    let e := (Tab.get 0 s.routes k).toNat
    let e := if off % 8 = 0 then putBits e 31 0 n else putBits e 63 32 n
    { s with routes := Tab.put k (w64 e) s.routes }
  else s

/-- A read of n bytes of the register window: only a naturally aligned 32-bit read reaches a register. -/
def State.readRegBytes (s : State) (who : Agent) (off n : Nat) : List Byte :=
  if n = 4 ∧ off % 4 = 0 then leBytes 4 (s.readReg who off).toNat else List.replicate n 0

/-- A write of bytes to the register window: only a naturally aligned 32-bit write reaches a register. -/
def State.writeRegBytes (s : State) (who : Agent) (off : Nat) (bs : List Byte) : State :=
  if bs.length = 4 ∧ off % 4 = 0 then s.writeReg who off (w32 (leNat bs)) else s

end Sys2Proof.Machine
end

