-- ==== Sys2Proof/Machine/Translate.lean ====
section
/-! DEFINITION. Address translation: windows, page tables, TLBs and load ports, and the checks each access makes of its
translation (15 R355 to R367, 17 R411). -/

namespace Sys2Proof.Machine

/-- The windows of the physical address space (15 R355). -/
inductive Window where
  | mem (a : Nat)
  | fabric (pkg a : Nat)
  | host (a : Nat)
  | reg (off : Nat)
  | bad
  deriving DecidableEq, Repr

/-- Bytes of memory that bring-up reported (19 R454). -/
def State.populated (s : State) : Nat := bits s.bustat.toNat 31 24 * 2 ^ 33

/-- The window of a physical address; the package's own fabric addresses are local (15 R355). Shadow frames of probes
lie above every window (16 R393). -/
def State.window (s : State) (pa : Nat) : Window :=
  if 2 ^ 52 ≤ pa then .mem pa
  else if bits pa 51 46 = 0 then (if bits pa 45 40 = 0 then .mem (pa % 2 ^ 40) else .bad)
  else if bits pa 51 46 = 1 then
    if bits pa 45 40 = bits s.fabid.toNat 5 0 then .mem (pa % 2 ^ 40) else .fabric (bits pa 45 40) (pa % 2 ^ 40)
  else if bits pa 51 46 = 2 then .host (pa % 2 ^ 46)
  else if bits pa 51 46 = 3 then .reg (pa % 2 ^ 46)
  else .bad

/-- A range of local memory meets storage that is withheld for a counter tree (17 R410). -/
def State.withheld (s : State) (a size : Nat) : Bool :=
  s.parts.any fun p => p.2.withheld.any fun w => decide (a < w.1 + w.2) && decide (w.1 < a + size)

/-- A leaf or table may name this physical address (15 R355, R361, 17 R410). -/
def State.wellPlaced (s : State) (pa size : Nat) : Bool :=
  match s.window pa with
  | .bad => false
  | .mem a => decide (a + size ≤ s.populated) && !s.withheld a size
  | _ => true

/-- The 4 KiB interleave of homes over the dies (15 R356). -/
def interleave (pa : Nat) : Nat := bits pa 13 12

/-- The home die of a line under a page's HOME field (15 R356). -/
def homeOf (field pa : Nat) : Nat := if field < 4 then field else interleave pa

/-- The way mask of a partition on a die (15 R368). -/
def State.wayMask (s : State) (part die : Nat) : Nat := (s.part part).ways.getD die 0

/-- How a page's bytes at an address are held. Host, fabric and register pages are uncached (15 R355). -/
def Leaf.attr (l : Leaf) (pa : Nat) : Attr := ⟨homeOf l.home pa, l.nc, l.cpol, l.ways, 0⟩

/-- Coherent data with the home of the interleave, as an agent of a partition on a die reads it (15 R358). -/
def State.plainAttr (s : State) (part die pa : Nat) : Attr := ⟨interleave pa, false, 0, s.wayMask part die, 0⟩

/-- A leaf entry as a level allows it; a fabric address of the package's own is the local address (15 R355, R358 to R361,
17 R411). -/
def State.decodeLeaf (s : State) (part level e : Nat) : Option Leaf :=
  let size := if level = 2 then 2 ^ 30 else if level = 3 then 2 ^ 21 else 2 ^ 16
  let raw := bits e 51 16 * 2 ^ 16
  let pa := match s.window raw with
    | .mem a => a
    | _ => raw
  let stg := bitOf e 13
  -- The page of a staging leaf is the frame that the pair's current version uses (15 R363, 16 R381).
  let frame := if stg then pa + (s.pair (pa / 2 ^ 22)).version % 2 * 2 ^ 21 else pa
  let inRange := (s.part part).ranges.any fun g => decide (g.1 ≤ frame) && decide (frame + size ≤ g.1 + g.2)
  if level < 2 ∨ bits e 63 52 ≠ 0 ∨ bitOf e 4 ∨ s.window raw = .bad ∨ pa % size ≠ 0 ∨ 5 ≤ bits e 12 10 ∨ bits e 8 7 = 3 then none
  else if stg ∧ (level ≠ 3 ∨ pa % 2 ^ 22 ≠ 0) then none
  else if !s.wellPlaced pa (if stg then 2 ^ 22 else size) ∨ bitOf e 15 ≠ inRange then none
  else some
    { size, pa, prot := bitOf e 15, log := bitOf e 14, stg, home := bits e 12 10, nc := bitOf e 9,
      cpol := (match s.window pa with | .mem _ => bits e 8 7 | _ => 2), label := labelOf (bits e 6 5),
      user := bitOf e 3, write := bitOf e 2, ways := 0 }

/-- What a walk finds. -/
inductive WalkRes where
  | leaf (l : Leaf)
  | unmapped
  /-- A table entry in an integrity-poisoned sector (13 R312), or in a poisoned one (13 R313). -/
  | integrity (pa : Nat)
  | poison (pa : Nat)
  deriving DecidableEq, Repr

/-- The index of a virtual address at a level (15 R358). -/
def walkIndex (va level : Nat) : Nat :=
  if level = 0 then bits va 55 48 else if level = 1 then bits va 47 39 else if level = 2 then bits va 38 30
  else if level = 3 then bits va 29 21 else bits va 20 16

/-- A table entry: from the walk cache, or read at its coherence point (15 R358, R365). -/
def State.tableEntry (s : State) (part die pa : Nat) : Nat × State :=
  match (s.die die).walks.find? fun w => w.1 == part && w.2.1 == pa with
  | some w => (w.2.2.toNat, s)
  | none =>
    let (b, s) := s.readCoh die (s.plainAttr part die pa) pa 8
    (leNat b, s)

/-- Keep a valid table entry of levels 0 to 3 in the walk cache of 512 (15 R365). -/
def State.cacheWalk (s : State) (part die pa e : Nat) : State :=
  s.updDie die fun d =>
    { d with walks := ((part, pa, w64 e) :: d.walks.filter fun w => !(w.1 == part && w.2.1 == pa)).take 512 }

/-- Walk the page table from a level downwards (15 R358, R359); the first argument bounds the levels left. -/
def State.walkFrom (part die va : Nat) : Nat → Nat → Nat → State → WalkRes × State
  | 0, _, _, s => (.unmapped, s)
  | k + 1, level, table, s =>
    let pa := table + 8 * walkIndex va level
    match Tab.find (pa / 64) s.marks with
    | some .integrity => (.integrity pa, s)
    | some .poison => (.poison pa, s)
    | _ =>
      let (e, s) := s.tableEntry part die pa
      if bits e 1 0 = 2 then
        match s.decodeLeaf part level e with
        | some l => (.leaf { l with ways := s.wayMask part die }, s)
        | none => (.unmapped, s)
      else if bits e 1 0 = 1 then
        let next := bits e 51 8 * 2 ^ 8
        if level = 4 ∨ bits e 63 52 ≠ 0 ∨ bits e 7 2 ≠ 0 ∨ (level < 3 ∧ bits e 11 8 ≠ 0) ∨
            !s.wellPlaced next 256 then (.unmapped, s)
        else
          let s := s.cacheWalk part die pa e
          match s.window next with
          | .mem a => State.walkFrom part die va k (level + 1) a s
          | _ => (.unmapped, s)
      else (.unmapped, s)

/-- PAGE_WALK: the whole walk of a virtual address by a walker of a die (15 R357, R365). -/
def State.walk (s : State) (part die va : Nat) : WalkRes × State :=
  let b := (s.part part).ptbase.toNat
  if !bitOf b 0 then (.unmapped, s)
  else match s.window (bits b 51 11 * 2 ^ 11) with
    | .mem a => State.walkFrom part die va 5 0 a s
    | _ => (.unmapped, s)

/-! Staging pages (15 R363). -/

/-- The pair number under which an instance reaches a staging pair: a probe has shadow frames of its own (16 R393). -/
def pairKey (x : Node) (pair : Nat) : Nat :=
  if x.probe.isSome ∧ x.versions.any (fun v => v.2.1 % 2 ^ 30 == pair) then 2 ^ 30 * (x.uid + 1) + pair else pair

/-- The physical base of the frames of a pair key; shadow frames lie above every window. -/
def pairBase (key : Nat) : Nat := if key < 2 ^ 30 then key * 2 ^ 22 else 2 ^ 60 + key * 2 ^ 22

/-- The frame of a version: version v uses frame v mod 2 (16 R381). -/
def frameBase (key version : Nat) : Nat := pairBase key + version % 2 * 2 ^ 21

/-- The gang lies between its own SOPEN and its SSEAL of a pair (10 R263). -/
def Gang.writes (x : Gang) (key : Nat) : Bool := x.opened.contains key && !x.sealedBy.contains key

/-- The frame and the access that a pair's state gives to an instance now (15 R363). -/
def State.stagedOf (s : State) (n pair : Nat) : Staged :=
  let key := pairKey (s.node n) pair
  let v := (s.pair key).version
  let st := s.pageSt key
  { key, frame := frameBase key v, readable := st == .sealed || st == .released,
    writer := if st = .opened then (s.ver key v).node else none }

/-- The frame that a gang of an instance reaches, or the refusal of 15 R363. -/
def Staged.frameFor (x : Staged) (g : Gang) (uid : Nat) (read : Bool) : Option Nat :=
  if g.writes x.key ∧ x.writer = some uid then some x.frame
  else if x.readable ∧ read then some x.frame
  else none

/-! TLBs and load ports (15 R364). -/

/-- Why a byte could not be reached. -/
inductive Miss where
  | sub (n : Nat)
  | integrity (pa : Nat)
  | poison (pa : Nat)
  deriving DecidableEq, Repr

/-- The entry of a list of translations that covers an address. -/
def tlbHit (es : List TlbEntry) (part va : Nat) : Option TlbEntry :=
  es.find? fun e => e.part == part && decide (e.vpage ≤ va) && decide (va < e.vpage + e.leaf.size)

/-- Put a translation at the front of a list of 256, the least recently used at its end (15 R364). -/
def tlbFill (es : List TlbEntry) (e : TlbEntry) : List TlbEntry := (e :: es.filter (· != e)).take 256

/-- An entry of a staging page serves the instances that reach the pair it names. -/
def State.serves (s : State) (n : Nat) (e : TlbEntry) : Bool :=
  match e.stage with
  | none => true
  | some x => x.key == pairKey (s.node n) (e.leaf.pa / 2 ^ 22)

/-- The entry that a walk's leaf makes, with the frame and access of a staging page. -/
def State.entryFor (s : State) (part n va : Nat) (l : Leaf) : TlbEntry :=
  ⟨part, va / l.size * l.size, l, if l.stg then some (s.stagedOf n (l.pa / 2 ^ 22)) else none⟩

/-- What the result of a walk gives an access of an instance. -/
def State.walked (s : State) (part n va : Nat) : WalkRes → Except Miss TlbEntry
  | .leaf l => .ok (s.entryFor part n va l)
  | .unmapped => .error (.sub 0)
  | .integrity pa => .error (.integrity pa)
  | .poison pa => .error (.poison pa)

/-- PTBASE lets a partition's addresses be translated (15 R357). -/
def State.translates (s : State) (part : Nat) : Bool := bitOf (s.part part).ptbase.toNat 0

/-- Translate an address for an instance through a core's TLB, walking on a miss; no address translates while PTBASE does not
enable it, whatever the TLB holds (15 R357, R364). -/
def State.translate (s : State) (core part n va : Nat) : Except Miss TlbEntry × State :=
  if !s.translates part then (.error (.sub 0), s)
  else match tlbHit ((s.core core).tlb.filter (s.serves n)) part va with
  | some e => (.ok e, s.updCore core fun c => { c with tlb := tlbFill c.tlb e })
  | none =>
    let (w, s) := s.walk part (dieOf core) va
    match s.walked part n va w with
    | .ok e => (.ok e, s.updCore core fun c => { c with tlb := tlbFill c.tlb e })
    | .error m => (.error m, s)

/-- Translate an address for an instance through a cluster's engine load port (15 R364). -/
def State.translatePort (s : State) (cl part n va : Nat) : Except Miss TlbEntry × State :=
  if !s.translates part then (.error (.sub 0), s)
  else match tlbHit ((s.cluster cl).port.filter (s.serves n)) part va with
  | some e => (.ok e, s.updCluster cl fun c => { c with port := tlbFill c.port e })
  | none =>
    let (w, s) := s.walk part (cl / 16) va
    match s.walked part n va w with
    | .ok e => (.ok e, s.updCluster cl fun c => { c with port := tlbFill c.port e })
    | .error m => (.error m, s)

/-- What an access does to its bytes. -/
inductive Acc where
  | read | write | atomic
  deriving DecidableEq, Repr

/-- A byte's place after translation: its physical address and its page's leaf. -/
structure Spot where
  pa : Nat
  leaf : Leaf
  deriving DecidableEq, Repr

/-- The checks of a translation in the order of 15 R361; the SUB of the translation fault where one fails. -/
def State.checkLeaf (s : State) (g : Gang) (n : Nat) (priv : Bool) (t : TlbEntry) (va : Nat) (k : Acc) : Except Nat Spot :=
  let l := t.leaf
  if !l.user ∧ !priv then .error 0
  else if k ≠ .write ∧ effLCEIL g.effcfg < l.label then .error 3
  else
    let outside : Bool := match s.window l.pa with | .fabric _ _ => true | .host _ => true | _ => false
    let frame : Option Nat := match t.stage with
      | some x => x.frameFor g (s.node n).uid (k == .read)
      | none => some l.pa
    match frame with
    | none => .error 2
    | some base =>
      -- Data that a STRICT partition's agent would send out of the package (16 R398).
      if k ≠ .read ∧ outside ∧ (s.part g.part).strict then .error 2
      else if k ≠ .read ∧ !l.write then .error 1
      else
        let noPoint : Bool := match s.window l.pa with | .host _ => true | .reg _ => true | _ => false
        if k = .atomic ∧ noPoint then .error 4
        else .ok ⟨base + va % l.size, l⟩

/-- What a translation gives an access after its checks. -/
def State.checked (s : State) (g : Gang) (priv : Bool) (k : Acc) (va : Nat) (t : Except Miss TlbEntry) :
    Except Miss Spot :=
  match t with
  | .error m => .error m
  | .ok t =>
    match s.checkLeaf g g.node priv t va k with
    | .ok p => .ok p
    | .error n => .error (.sub n)

/-- Translate and check one byte of an access by a stream of gang g on its core. -/
def State.spotOf (s : State) (g : Gang) (priv : Bool) (k : Acc) (va : Nat) : Except Miss Spot × State :=
  let (t, s) := s.translate g.core g.part g.node va
  (s.checked g priv k va t, s)

/-- The places of n bytes from an address: one lookup for each page the bytes touch (03 R91). -/
def State.spotsOf (s : State) (g : Gang) (priv : Bool) (k : Acc) (va n : Nat) : Except Miss (List Spot) × State :=
  let fill (p : Spot) (lo cnt : Nat) : List Spot := (List.range cnt).map fun i => ⟨p.pa + (i + lo), p.leaf⟩
  match s.spotOf g priv k va with
  | (.error e, s) => (.error e, s)
  | (.ok p, s) =>
    let room := 2 ^ 16 - va % 2 ^ 16
    if n ≤ room then (.ok (fill p 0 n), s)
    else match s.spotOf g priv k ((va + room) % 2 ^ 56) with
      | (.error e, s) => (.error e, s)
      | (.ok q, s) => (.ok (fill p 0 room ++ fill q 0 (n - room)), s)

/-- Remove translations of a virtual address, or all, of a partition from the cores of a scope and their clusters and
dies (13 R328). -/
def State.tlbRemove (s : State) (core scope part : Nat) (va : Option Nat) : State :=
  let inCore (k : Nat) : Bool :=
    if scope = 3 then k == core else if scope = 4 then clusterOf k == clusterOf core
    else if scope = 5 then dieOf k == dieOf core else true
  let keep (e : TlbEntry) : Bool := !(e.part == part && (match va with
    | none => true
    | some a => decide (e.vpage ≤ a) && decide (a < e.vpage + e.leaf.size)))
  { s with
    cores := Tab.mapVals (fun k c => if inCore k then { c with tlb := c.tlb.filter keep } else c) s.cores,
    clusters := Tab.mapVals (fun k c =>
      if (List.range 4).any fun i => inCore (4 * k + i) then { c with port := c.port.filter keep } else c) s.clusters,
    dies := Tab.mapVals (fun k d =>
      if scope ≥ 6 ∨ k = dieOf core then { d with walks := d.walks.filter fun w => w.1 != part } else d) s.dies }

end Sys2Proof.Machine
end

