-- ==== Sys2Proof/Machine/Ops.lean ====
section
/-! DEFINITION. What instructions share: how one ends or stalls, advancing the program counter with the loop-end check,
switch points, taking a user trap and a system trap, and returning from each. -/

namespace Sys2Proof.Machine

/-- How an instruction can fail to complete: by a trap that leaves the state as it was before the instruction, by a trap
after the write of an overrunning BARARR (01 R40), or by a stall in its slot. -/
inductive Stop where
  | trap (t : Trap)
  | trapAfter (t : Trap) (s : State)
  | stall (s : State)

/-! Frames of the instruction scratchpad (03 R83, R84). -/

/-- The stream fetches from its partition's supervisor image: it is in a system trap handler (13 R309). -/
def State.inSup (s : State) (r : Nat) : Bool := (s.stream r).intrap

/-- The image a stream fetches from: supervisor or not, and its base. -/
def State.imageOf (s : State) (r : Nat) : Bool × DWord :=
  if s.inSup r then (true, (s.part (s.partNum r)).simg) else (false, (s.gangAt r).code)

/-- The base of an image that a stream's core may load: its partition's supervisor image, or its kernel's. -/
def State.imageBase (s : State) (r : Nat) (sup : Bool) : DWord :=
  if sup then (s.part (s.partNum r)).simg else (s.gangAt r).code

/-- The pages of an image that a stream's core may load. -/
def State.pagesIn (s : State) (r : Nat) (sup : Bool) : Nat :=
  if sup then (s.part (s.partNum r)).simgsz.toNat else (s.gangAt r).pages

/-- Pages of the image a stream fetches from. -/
def State.imagePages (s : State) (r : Nat) : Nat :=
  if s.inSup r then (s.part (s.partNum r)).simgsz.toNat else (s.gangAt r).pages

/-- The frame of a core that holds a page of an image of a partition. -/
def State.findFrame (s : State) (core : Nat) (sup : Bool) (part : Nat) (image : DWord) (page : Nat) : Option Frame :=
  (s.core core).frames.find? fun f => f.sup == sup && f.part == part && f.image == image && f.page == page

/-- A loop level captured from the image that the stream runs from covers the program counter (03 R85, log entry 89). -/
def Stream.captured (t : Stream) (sup : Bool) : Bool :=
  t.loops.any fun l => l.captured && l.sup == sup && decide (l.start ≤ t.pc) && decide (t.pc ≤ l.stop)

/-- The word of a frame. -/
def Frame.word (f : Frame) (pc : BitVec 24) : Word := Tab.get 0 f.words (pc.toNat % 4096 / 4)

/-- The instruction word at a stream's program counter; a free value where no buffer and no frame holds one (13 R300, log
entry 87). -/
def State.spcWord (s : State) (r : Nat) : Word :=
  let t := s.stream r
  let (sup, image) := s.imageOf r
  match (if t.captured sup then Tab.find t.pc.toNat t.lbuf else none) with
  | some w => w
  | none =>
    match Tab.find t.pc.toNat t.fetched with
    | some w => w
    | none =>
      match s.findFrame (s.coreNum r) sup (s.partNum r) image (t.pc.toNat / 4096) with
      | some f => f.word t.pc
      | none => w32 (Config.freeWord (s.free * 65536 + r)).toNat

/-- A frame of the stream's core holds a page of an image. -/
def State.holdsPage (s : State) (r : Nat) (sup : Bool) (page : Nat) : Bool :=
  (s.findFrame (s.coreNum r) sup (s.partNum r) (s.imageBase r sup) page).isSome

/-- The words of a page from its bytes; zero words are not listed. -/
def pageWords (bs : List Byte) : Tab Word :=
  (List.range 1024).filterMap fun i =>
    let w := w32 (leNat ((bs.drop (4 * i)).take 4))
    if w = 0 then none else some (i, w)

/-- The page address that an integrity fault reports: the address of the page, or of its 64 KiB where no leaf gives the
page's size (13 R311; log entry 33). -/
def pageAddress (size va : Nat) : Nat := va / size * size

/-- The translation fault of a page walk for an address, as a trap of the whole stream. -/
def missTrap (em : Word) (va : Nat) : Miss → Trap
  | .sub n => { cause := 0x19, sub := n, info := w64 va, mask := em }
  | .integrity _ => { cause := 0x29, info := w64 (pageAddress 65536 va), mask := em }
  | .poison pa => { cause := 0x28, info := w64 (pa / 64 * 64), mask := em }

/-- The agent that a stream is to the register window. -/
def State.agentOf (s : State) (r : Nat) : Agent :=
  if (s.stream r).priv then .super (s.partNum r) else .user (s.partNum r)

/-- The key under which a remote byte for a lane is kept. -/
def remoteKey (lane pa : Nat) : Nat := 2 ^ 53 * lane + pa

/-- Send a remote access, due within 1 ms, with the bytes that a store carries and the engine operation that it is for. -/
def State.sendRemote (s : State) (core : Nat) (stream : Option Nat) (pkg pa len lane kind : Nat) (data : List Byte := [])
    (op : Option Nat := none) : State :=
  let (id, s) := s.freshNum
  { s with remotes := s.remotes ++ [⟨id, core, stream, pkg, pa, len, lane, kind, s.now + 1000000, op, data⟩] }

/-- A read of remote bytes for a stream as a whole is still to be answered: its request goes out once (19 R449). -/
def State.awaitRemote (s : State) (r pkg pa len : Nat) : Option State :=
  if (Tab.find (remoteKey 0 pa) (s.stream r).rdata).isSome then none
  else if s.remotes.any fun q => q.stream == some r && q.pa == pa && q.kind == 0 then some s
  else some (s.sendRemote (s.coreNum r) (some r) pkg pa len 0 0)

/-- The error of a block of local memory that a stream as a whole consumes: its first marked sector (13 R312, R313). -/
def State.blockMark (s : State) (a n : Nat) : Option (Nat × Mark) :=
  ((List.range ((n + 63) / 64)).findSome? fun i =>
    match Tab.find (a / 64 + i) s.marks with
    | some (.provisional _) | none => none
    | some m => some (i, m))

/-- Where a code page lies: its physical address and how it is held; the supervisor image is addressed physically, the
user image through the partition's page table. A fetch's translation fault reports the page's address (01 R32, 13 R309;
log entry 94). -/
def State.pagePlace (s : State) (r : Nat) (sup : Bool) (page : Nat) : Except Trap (Nat × Attr × Nat) × State :=
  let em := (s.stream r).em
  let image := s.imageBase r sup
  let die := dieOf (s.coreNum r)
  if sup then
    let pa := (image.toNat + 4096 * page) % 2 ^ 64
    if pa < 2 ^ 52 ∧ s.wellPlaced pa 4096 then (.ok (pa, s.plainAttr (s.partNum r) die pa, 65536), s)
    else (.error { cause := 0x16, sub := 1, info := w64 page, mask := em }, s)
  else
    let va := va56 (image.toNat + 4096 * page)
    match s.spotOf (s.gangAt r) (s.stream r).priv .read va with
    | (.error m, s) => (.error (missTrap em (image.toNat + 4096 * page) m), s)
    | (.ok p, s) => (.ok (p.pa, p.leaf.attr p.pa, p.leaf.size), s)

/-- A code page in another package is on its way: the state after its request; one in host memory waits while the link
retrains (19 R442, R449). -/
def State.pageAwaits (s : State) (r : Nat) (sup : Bool) (page : Nat) : Option State :=
  match s.pagePlace r sup page with
  | (.ok (pa, _, _), s) =>
    match s.window pa with
    | .fabric k _ => s.awaitRemote r k pa 4096
    | .host _ => if s.retraining then some s else none
    | _ => none
  | _ => none

/-- Read a code page at its coherence point. An error in it is consumed: SUB 4 with the code address, or an integrity
fault with the page's address (01 R32, 13 R309, R311 to R313). -/
def State.readPage (s : State) (r : Nat) (sup : Bool) (page : Nat) : Except Trap (List Byte × State) :=
  let em := (s.stream r).em
  let image := s.imageBase r sup
  let poisoned (off : Nat) : Trap := { cause := 0x28, sub := 4, info := w64 (4096 * page + off), mask := em }
  match s.pagePlace r sup page with
  | (.error t, _) => .error t
  | (.ok (pa, at_, size), s) =>
    match s.window pa with
    | .mem a =>
      match s.blockMark a 4096 with
      | some (_, .integrity) =>
        let va := if sup then pa else image.toNat + 4096 * page
        .error { cause := 0x29, info := w64 (pageAddress size va), mask := em }
      | some (i, _) => .error (poisoned (64 * i))
      | none => .ok (s.readSync (dieOf (s.coreNum r)) at_ a 4096)
    | .fabric _ _ =>
      let t := s.stream r
      if t.rpoison.contains (remoteKey 0 pa) then .error (poisoned 0)
      else .ok ((List.range 4096).map fun i => Tab.get 0 t.rdata (remoteKey 0 (pa + i)), s)
    | .host a => if s.linkDown then .error (poisoned 0) else .ok (rdBytes s.hostMem a 4096, s)
    | .reg o => .ok (s.readRegBytes (s.agentOf r) o 4096, s)
    | .bad => .ok (List.replicate 4096 0, s)

/-- Put a page into a frame of a core: the frame already holding it, a free one, or the least recently fetched
(03 R84). A page counts as fetched when it is placed (log entry 95). -/
def State.placePage (s : State) (r : Nat) (sup : Bool) (page : Nat) (bs : List Byte) : State :=
  let core := s.coreNum r
  let image := s.imageBase r sup
  let part := s.partNum r
  let f : Frame := ⟨sup, part, image, page, pageWords bs, s.fresh⟩
  let s := { s with fresh := s.fresh + 1 }.updStream r fun t => { t with rdata := [], rpoison := [] }
  s.updCore core fun c =>
    let others := c.frames.filter fun g => !(g.sup == sup && g.part == part && g.image == image && g.page == page)
    let kept := if others.length < 16 then others
      else (sortBy (fun a b => decide (b.used < a.used)) others).take 15
    { c with frames := f :: kept }

/-- The stream waits for load data, from the cycle in which it began to (18 R425). -/
def State.awaitData (s : State) (r : Nat) : State :=
  let now := s.cyclesOf (clusterOf (s.coreNum r))
  s.updStream r fun t => { t with dataWait := some (t.dataWait.getD now) }

/-- The load of a page of an image: the code-range fault beyond the image, otherwise the page comes into a frame (06 R159,
13 R331); a page of another package stalls the stream until it has come. -/
def State.loadPage (s : State) (r : Nat) (sup : Bool) (page : Nat) : Except Stop State :=
  if s.pagesIn r sup ≤ page then
    .error (.trap { cause := 0x16, sub := sup.toNat, info := w64 page, mask := (s.stream r).em })
  else match s.pageAwaits r sup page with
    | some s' => .error (.stall (s'.awaitData r))
    | none =>
      match s.readPage r sup page with
      | .error t => .error (.trap t)
      | .ok (bs, s) => .ok (s.placePage r sup page bs)

/-! Switch points (01 R23). -/

/-- Every latch of the stream becomes void (05 R128). -/
def Stream.voidLatches (t : Stream) : Stream := { t with latches := List.replicate 8 {} }

/-- The crew's latches become void in both streams. -/
def State.voidCrew (s : State) (r : Nat) : State :=
  (crewStreams (s.gangAt r).single (crewOf r)).foldl (fun s x => s.updStream x Stream.voidLatches) s

/-- The crew enters its core's ready queue at the tail, its age counting from now (14 R350). -/
def State.makeReady (s : State) (k : Nat) : State :=
  let g := s.gang (k / 16)
  let (n, s) := s.freshNum
  s.updCrew k fun c => { c with place := .ready n (s.cyclesOf (clusterOf g.core)) }

/-- A switch point: the crew leaves its slot, ready or waiting (01 R23, 14 R350). -/
def State.switchOut (s : State) (r : Nat) (waiting : Bool) : State :=
  let s := s.voidCrew r
  if waiting then s.updCrew (crewOf r) fun c => { c with place := .waiting } else s.makeReady (crewOf r)

/-! The program counter (06 R141, R153). -/

/-- Leave a loop level, releasing its capture (03 R85). -/
def Stream.leaveLevel (t : Stream) (l : LoopLevel) (rest : List LoopLevel) : Stream :=
  { t with loops := rest, lbuf := if l.captured then [] else t.lbuf }

/-- The loop-end check of 06 R153 over the levels given, from the top. -/
def Stream.loopEnd (t : Stream) : List LoopLevel → Stream
  | [] => { t with pc := t.pc + 4 }
  | l :: rest =>
    if t.pc = l.stop then
      if 1 < l.count.toNat then { t with pc := l.start, loops := { l with count := l.count - 1 } :: rest }
      else Stream.loopEnd (t.leaveLevel l rest) rest
    else { t with pc := t.pc + 4 }

/-- The stream completes an instruction that does not transfer control. -/
def Stream.next (t : Stream) : Stream := t.loopEnd t.loops

/-- An instruction completes without transferring control: it is charged, and the program counter moves on. -/
def State.complete (s : State) (r : Nat) (c : Cls) (reads lines : Nat) : State :=
  (s.chargeInstr r c reads lines).updStream r fun t =>
    { t.next with rdata := [], rpoison := [], wait := none, dataWait := none, drowsy := false }

/-- An instruction completes by transferring control to an address; words fetched ahead are dropped. -/
def State.jump (s : State) (r : Nat) (c : Cls) (reads : Nat) (pc : BitVec 24) : State :=
  (s.chargeInstr r c reads 0).updStream r fun t => { t with pc := pc, fetched := [], wait := none, dataWait := none, drowsy := false }

/-- A branch target: the instruction's own address plus 4 times a signed word offset, modulo 2^24 (05 R121). -/
def targetOf (pc : BitVec 24) (w off : Nat) : BitVec 24 := BitVec.ofInt 24 ((pc.toNat : Int) + 4 * signed w off)

/-! Taking a trap. -/

/-- A park of the gang has been accepted and is not complete, or the gang is parked (13 R321). -/
def Gang.parking (g : Gang) : Bool := g.req != .none || g.parked

/-- CREW_HANDLER_ENTRY: the stream enters its crew handler or loader (01 R40, 03 R83). -/
def Stream.enterUser (t : Stream) (x : Trap) (pc : BitVec 24) : Stream :=
  { t.voidLatches with
    trappc := w32 t.pc.toNat, trapcause := w32 x.cause, trapinfo := w32 x.info.toNat, trapmask := x.mask,
    trapem := t.em, em := x.mask, hact := true, pc := pc, fetched := [], wait := none, rdata := [], rpoison := [],
    dataWait := none, drowsy := false }

/-- SYSTEM_TRAP_ENTRY: the stream enters the system trap vector of its partition (13 R309). -/
def Stream.enterSystem (t : Stream) (x : Trap) (word svec : Word) (now : Nat) : Stream :=
  { t.voidLatches with
    spc := w32 t.pc.toNat, scause := w32 (x.sub * 256 + x.cause), sinfo := x.info, smask := x.mask, sem := t.em,
    sword := word, phact := t.hact, ppriv := t.priv, priv := true, intrap := true, em := x.mask,
    pc := BitVec.ofNat 24 svec.toNat, hact := false, trapAt := now, fetched := [], wait := none,
    rdata := [], rpoison := [], dataWait := none, drowsy := false }

/-- SUPERVISOR_FAULT: no handler is entered, the node ends and the host is told (13 R310). -/
def State.supervisorFault (s : State) (r status : Nat) : State :=
  let g := s.gangAt r
  (s.endInstance g.node status).postEvent g.part 2 (status * 2 ^ 32 + g.handle.toNat)

/-- A system trap of stream r: nested it is a supervisor fault, otherwise the stream enters the vector of its partition.
Entry is a switch point (13 R309, R310). -/
def State.systemTrap (s : State) (r : Nat) (x : Trap) : State :=
  if (s.stream r).intrap then s.supervisorFault r 0x7FFF
  else
    let svec := (s.part (s.partNum r)).svec
    let (word, now) := (x.word.getD s.word, s.now)
    (s.updStream r fun t => t.enterSystem x word svec now).switchOut r false

/-- The handler fault of 01 R41: the user trap goes to system software. -/
def handlerFault (x : Trap) : Trap := { cause := 0x12, sub := x.cause, info := x.info, mask := x.mask, word := x.word }

/-- A user trap of stream r: to the crew handler or the loader, or to system software (01 R39 to R41, 03 R83). A handler
whose page no frame holds is entered when the page has come. -/
def State.userTrap (s : State) (r : Nat) (x : Trap) : State :=
  let t := s.stream r
  let g := s.gangAt r
  if t.intrap then s.systemTrap r x
  else if t.hact then s.systemTrap r (handlerFault x)
  else match (if x.cause = 9 then g.loader else g.handler) with
    | none => s.systemTrap r x
    | some pc =>
      let page := pc.toNat / 4096
      if g.pages ≤ page then s.systemTrap r { cause := 0x16, info := w64 page, mask := t.em, word := x.word }
      else if x.cause ≠ 9 ∧ !s.holdsPage r false page then
        s.updStream r fun t => { t with wait := some (.handlerEntry { x with word := some (x.word.getD s.word) }) }
      else (s.updStream r fun t => t.enterUser x pc).switchOut r false

/-- Stop a crew for a park: a pending handler entry becomes its pending event, its latches are void, a fetch that waits or a
WSEED that stalls begins afresh on resumption, and no stream waits for load data any more (10 R280, 13 R315, 18 R425). -/
def State.stopCrew (s : State) (k : Nat) : State :=
  let s := (crewStreams (s.gang (k / 16)).single k).foldl (fun s r => s.updStream r fun t =>
    let t := { t.voidLatches with dataWait := none, drowsy := false }
    match t.wait with
    | some (.handlerEntry x) => { t with wait := none, pending := some x }
    | some (.refill _) | some (.wseed _ _) => { t with wait := none }
    | _ => t) s
  s.updCrew k fun c => { c with stopped := true, place := .waiting }

/-- A trap is delivered: once a park of the gang is accepted it becomes the pending event and the stream stops (13 R321);
otherwise causes 1 to 9 are user traps and all others system traps. -/
def State.deliverTrap (s : State) (r : Nat) (x : Trap) : State :=
  if (s.gangAt r).parking ∧ !(s.stream r).intrap then
    (s.stopCrew (crewOf r)).updStream r fun t => { t with pending := some { x with word := some (x.word.getD s.word) } }
  else if x.cause ≤ 9 then s.userTrap r x
  else s.systemTrap r x

/-- Taking a trap, whatever its kind. The consumption of an uncorrectable error is logged however it is delivered
(16 R401), and an integrity fault ends its fault domain in the partition before the entry completes, but for the stream
that enters (13 R312). -/
def State.takeTrap (s : State) (r : Nat) (x : Trap) : State :=
  let g := s.gangAt r
  let s := if x.cause = 0x28 then s.recordFault (effFDOM g.effcfg) g.part 3 0 0 x.info 0 0 0 0 x.sub true else s
  let s := s.deliverTrap r x
  if x.cause = 0x29 then s.endDomain (· == r) g.part (effFDOM g.effcfg) 0x29 else s

/-- The illegal-instruction trap of the stream, with its subcode; SINFO is the word (13 R311). -/
def State.illegal (s : State) (r sub : Nat) : Stop :=
  .trap { cause := 0x10, sub, info := w64 s.word.toNat, mask := (s.stream r).em }

/-- The privilege trap with its subcode. -/
def State.privilege (s : State) (r sub : Nat) : Stop :=
  .trap { cause := 0x11, sub, info := w64 s.word.toNat, mask := (s.stream r).em }

/-- A fault of the stream as a whole. -/
def State.streamFault (s : State) (r cause : Nat) (info : Nat) : Stop :=
  .trap { cause, info := w64 info, mask := (s.stream r).em }

/-- Check a condition, or raise the illegal-instruction trap with a subcode. -/
def need (s : State) (r sub : Nat) (ok : Bool) : Except Stop Unit := if ok then .ok () else .error (s.illegal r sub)

/-- The instruction belongs to the haul stream; a single stream runs it too (01 R17). -/
def needHaul (s : State) (r : Nat) : Except Stop Unit := need s r 1 ((s.gangAt r).single || !isWork r)

/-- The instruction belongs to the work stream; a single stream runs it too (01 R17). -/
def needWork (s : State) (r : Nat) : Except Stop Unit := need s r 1 ((s.gangAt r).single || isWork r)

/-- A source or destination of a haul stream that names a queue port belongs to another class; any other operand that may
not stand there is out of its range (01 R17, 05 R123). -/
def needReg (s : State) (r n : Nat) : Except Stop Unit :=
  need s r (if 56 ≤ n ∧ n < 60 ∧ !((s.gangAt r).single || isWork r) then 1 else 3) (decide (n < 56))

/-- The error of a register bank that a completed instruction read is consumed in place of its effect, after every other
condition (13 R312, R313). -/
def State.consumption (s : State) (r : Nat) (s' : State) : State :=
  if (s.stream r).regBad = [] then s'
  else match s'.consumed with
    | none => s'
    | some x => { s with consumed := none }.takeTrap r x

/-- The stream in hand executes an instruction: it completes, takes the trap it raises, or stalls in its slot. -/
def run (s : State) (f : Nat → Except Stop State) : Host.Outcome State Fault Refusal :=
  match s.cur with
  | none => .fault .noStream
  | some r =>
    match Tab.find r s.streams with
    | none => .fault .noStream
    | some _ =>
      match f r with
      | .ok s' => .next (s.consumption r s')
      | .error (.trap t) => .next (s.takeTrap r t)
      | .error (.trapAfter t s') => .next (s'.takeTrap r t)
      | .error (.stall s') => .next { s' with stalled := true }

/-- A step of the device: its effect, or none where it cannot happen at its turn (log entry 9). -/
def event (s : State) (f : Ev → State → Option State) : Host.Outcome State Fault Refusal :=
  match f s.ev s with
  | some s' => .next s'
  | none => .next s

/-! The return from each kind of trap. -/

/-- TRET: EM and the handler-active bit are restored, the latches are void, and the stream continues (06 R158). -/
def Stream.leaveUser (t : Stream) (redirect : Option (BitVec 24)) : Stream :=
  let u := { t.voidLatches with em := t.trapem &&& t.live, hact := false, fetched := [], wait := none }
  match redirect with
  | some pc => { u with pc := pc }
  | none =>
    let v := { u with pc := BitVec.ofNat 24 t.trappc.toNat }
    if t.trapcause = 8 then v.next else v

/-- ERET: level, handler-active bit and EM are restored, and the stream continues as the mode says (13 R323). -/
def Stream.leaveSystem (t : Stream) (mode : Nat) (target : BitVec 24) : Stream :=
  let u := { t.voidLatches with
    priv := t.ppriv, hact := t.phact, intrap := false, em := t.sem &&& t.live, fetched := [], wait := none, serving := none }
  if mode = 0 then { u with pc := BitVec.ofNat 24 t.spc.toNat }
  else if mode = 1 then { u with pc := BitVec.ofNat 24 t.spc.toNat }.next
  else { u with pc := target }

/-! The end of streams and crews (01 R16). -/

/-- A stream whose live mask is zero ends, or, on a gang-divergent path, counts as having reached the reconvergence
point (06 R148); a crew whose streams have all ended ends and leaves its slot. -/
def State.settleEnd (s : State) (r : Nat) : State :=
  let onPath := match (s.gangAt r).stack with
    | [] => false
    | e :: _ => e.running.contains (crewNum r)
  if (s.stream r).live ≠ 0 then s
  else if onPath then (s.updStream r fun t => { t with wait := some .reconv }).switchOut r true
  else
    let s := s.updStream r fun t => { t with ended := true, wait := none }
    let k := crewOf r
    if (crewStreams (s.gangAt r).single k).all fun x => (s.stream x).ended then
      s.updCrew k fun c => { c with ended := true, place := .waiting, loadQ := [] }
    else s

/-- A stream waits at a BRG. -/
def Stream.atBrg (t : Stream) : Bool :=
  match t.wait with
  | some (.brg _ _ _ _) => true
  | _ => false

/-- The crews that count in a meeting or a gang barrier: every live crew, or on a gang-divergent path the live crews that
run it, those that packing left idle not counting (01 R26, 08 R230; log entry 53). -/
def State.countingCrews (s : State) (g : Nat) : List Nat :=
  let x := s.gang g
  let all := match x.stack with
    | [] => List.range x.crews
    | e :: _ => e.running
  all.filter fun c => !(s.crew (16 * g + c)).ended && ((s.stream (32 * g + 2 * c)).live != 0 || x.stack.isEmpty)

/-- The gang barrier completes when every counting crew waits at a GBAR or has ended the stream that would execute it;
the waiters continue (08 R230). -/
def State.settleGbar (s : State) (g : Nat) : State :=
  let at_ (c : Nat) : Bool := (s.stream (32 * g + 2 * c)).ended || (s.stream (32 * g + 2 * c)).wait == some (.gbar false)
  let cs := s.countingCrews g
  if cs.any (fun c => (s.stream (32 * g + 2 * c)).wait == some (.gbar false)) && cs.all at_ then
    cs.foldl (fun s c =>
      if (s.stream (32 * g + 2 * c)).wait = some (.gbar false) then
        let s := s.updStream (32 * g + 2 * c) fun t => { t with wait := some (.gbar true) }
        if (s.crew (16 * g + c)).stopped then s else s.makeReady (16 * g + c)
      else s) s
  else s

/-- GANG_MISMATCH: every counting crew waits at a BRG or GBAR, not all at one address, and one at a BRG: the crews at a
BRG trap (01 R29). -/
def State.settleMismatch (s : State) (g : Nat) : State :=
  let cs := s.countingCrews g
  let t (c : Nat) : Stream := s.stream (32 * g + 2 * c)
  let atBrg (c : Nat) : Bool := (t c).atBrg
  let atGbar (c : Nat) : Bool := (t c).wait == some (.gbar false)
  let pcs := (cs.map fun c => (t c).pc.toNat)
  if cs.any atBrg && cs.all (fun c => atBrg c || atGbar c) && decide (1 < (distinct pcs).length) then
    (cs.filter atBrg).foldl (fun s c =>
      let r := 32 * g + 2 * c
      let x := s.stream r
      (s.updStream r fun t => { t with wait := none }).takeTrap r
        { cause := 5, info := w64 x.pc.toNat, mask := x.em, word := some (s.spcWord r) }) s
  else s

/-- What the end of a stream, a BRG or a GBAR may settle in its gang. -/
def State.settleGang (s : State) (g : Nat) : State := (s.settleGbar g).settleMismatch g

end Sys2Proof.Machine
end

