-- ==== Sys2Proof/Machine/Memory.lean ====
section
/-! DEFINITION. The accesses of a stream's lanes to memory and to its gang's scratchpad, with the checks of 08 R204 in
their order, and the accesses of engine operations (08 R201 to R215, 03 R87, R93). -/

namespace Sys2Proof.Machine

/-- The signed 56-bit range of virtual addresses (08 R202). -/
def in56 (a : Int) : Bool := decide (-(2 ^ 55 : Nat) ≤ a) && decide (a < (2 ^ 55 : Nat))

/-- One lane's access: its address as a 64-bit value, whether the checks of 08 R204 condition 1 hold, the bytes, and the
nibble of a 4-bit access (08 R203). -/
structure Ask where
  lane : Nat
  addr : Nat
  ok : Bool
  n : Nat
  nib : Option Bool := none
  deriving DecidableEq, Repr

/-- The access of a lane to elements of w bits, k elements past the value of its address pair (08 R201 to R203). -/
def laneAsk (w : Nat) (k : Int) (lane base : Nat) : Ask :=
  if w = 4 then
    let a := (signed 64 base + k) / 2
    { lane, addr := wrap 64 a, ok := in56 (signed 64 base / 2) && in56 a, n := 1,
      nib := some (decide ((signed 64 base + k) % 2 = 1)) }
  else
    let n := w / 8
    let a := signed 64 base + k * (n : Int)
    { lane, addr := wrap 64 a, ok := canonical base && in56 a && in56 (a + (n : Int) - 1), n }

/-- A trap of the lanes listed, with the address of the first of them. -/
def laneTrap (cause sub : Nat) (bad : List Ask) : Stop :=
  .trap { cause, sub, info := w64 ((bad.map (·.addr)).headD 0), mask := maskOf (bad.map (·.lane)) }

/-- The trap of a miss, for the lanes that met one. -/
def missStop (m : Miss) (bad : List Ask) : Stop :=
  match m with
  | .sub n => laneTrap 0x19 n bad
  | .integrity _ =>
    .trap { cause := 0x29, info := w64 (pageAddress 65536 ((bad.map (·.addr)).headD 0)), mask := maskOf (bad.map (·.lane)) }
  | .poison pa =>
    .trap { cause := 0x28, info := w64 (pa / 64 * 64), mask := maskOf (bad.map (·.lane)) }

/-- Conditions 1 and 2 of 08 R204: every lane's address, then its translation. A stop leaves the state as it was. -/
def State.resolve (s : State) (r : Nat) (k : Acc) (asks : List Ask) :
    Except Stop (List (Ask × List Spot) × State) :=
  let bad := asks.filter fun a => !a.ok
  if bad ≠ [] then .error (laneTrap 0x18 0 bad)
  else
    let g := s.gangAt r
    let priv := (s.stream r).priv
    let (res, s') := asks.foldl (fun (acc : List (Ask × Except Miss (List Spot)) × State) a =>
      let (x, t) := acc.2.spotsOf g priv k (va56 a.addr) a.n
      (acc.1 ++ [(a, x)], t)) ([], s)
    let misses := res.filterMap fun p => match p.2 with
      | .error m => some (p.1, m)
      | .ok _ => none
    match misses with
    | (_, m) :: _ => .error (missStop m (misses.map Prod.fst))
    | [] => .ok (res.filterMap fun p => match p.2 with
        | .ok x => some (p.1, x)
        | .error _ => none, s')

/-- The highest label of the pages an access touches (03 R93). -/
def spotsLabel (xs : List Spot) : Label := xs.foldl (fun l p => Label.join l p.leaf.label) 0

/-- Whether a byte lies in a gang's write ranges (01 R31, 08 R215). The base, the pitch and the step are read as signed
numbers (log entry 96). -/
def Box.covers (b : Box) (gangid a : Nat) : Bool :=
  let base := signed 64 b.base.toNat + (gangid : Int) * signed 64 b.step.toNat
  (List.range b.count).any fun i =>
    let lo := base + (i : Int) * signed 64 b.pitch.toNat
    decide (lo ≤ signed 56 a) && decide (signed 56 a < lo + (b.len : Int))

/-- The place lies in host memory and the link is retraining, so that the access is held (19 R442). -/
def State.hostHeld (s : State) (p : Spot) : Bool :=
  s.retraining && match s.window p.pa with
    | .host _ => true
    | _ => false

/-- The ownership condition of 08 R215 for one lane; atomics to logged pages are exempt. -/
def Gang.owns (g : Gang) (atomic : Bool) (a : Ask) (xs : List Spot) : Bool :=
  !g.det || (atomic && xs.all fun p => p.leaf.log) ||
    (List.range a.n).all fun i => g.ranges.any fun b => b.covers g.gangid (va56 (a.addr + i))

/-- Conditions 5 to 7 of 08 R204 for lanes that write data of a label, and the wait for a link that is retraining. -/
def State.checkWrites (s : State) (r : Nat) (atomic : Bool) (xs : List (Ask × List Spot × Label)) : Except Stop Unit :=
  let sealed := xs.filter fun x => x.2.1.any fun p => p.leaf.label == 3
  let down := xs.filter fun x => x.2.1.any fun p => decide (p.leaf.label < x.2.2)
  let out := xs.filter fun x => !(s.gangAt r).owns atomic x.1 x.2.1
  if sealed ≠ [] then .error (laneTrap 0x1C 0 (sealed.map Prod.fst))
  else if down ≠ [] then .error (laneTrap 0x1D 0 (down.map Prod.fst))
  else if out ≠ [] then .error (laneTrap 0x1E 0 (out.map Prod.fst))
  else if xs.any fun x => x.2.1.any s.hostHeld then .error (.stall s)
  else .ok ()

/-! Remote accesses (19 R449). -/

/-- Elements with the value a function gives them, grouped where the value repeats. -/
def runsBy {α β : Type} [DecidableEq β] (f : α → β) : List α → List (β × List α)
  | [] => []
  | x :: rest =>
    match runsBy f rest with
    | [] => [(f x, [x])]
    | (b, xs) :: gs => if b = f x then (b, x :: xs) :: gs else (f x, [x]) :: (b, xs) :: gs

/-- The fabric bytes of a lane, grouped by package: package, address, length. -/
def State.fabricRuns (s : State) (xs : List Spot) : List (Nat × Nat × Nat) :=
  (runsBy (fun p : Spot => match s.window p.pa with | .fabric k _ => some k | _ => none) xs).filterMap fun g =>
    match g.1, g.2 with
    | some k, p :: _ => some (k, p.pa, g.2.length)
    | _, _ => none

/-- The remote data of a read or atomic: all there, or the requests that are missing go out and the stream stalls; a
poisoned answer is consumed (19 R449, 13 R313). Accesses to host memory are held while the link retrains (19 R442). -/
def State.needRemote (s : State) (r kind : Nat) (xs : List (Ask × List Spot)) : Except Stop Unit :=
  let t := s.stream r
  let runs := xs.flatMap fun x => (s.fabricRuns x.2).map fun g => (x.1.lane, g)
  let late := runs.filter fun x => (Tab.find (remoteKey x.1 x.2.2.1) t.rdata).isNone
  let bad := runs.filter fun x => t.rpoison.contains (remoteKey x.1 x.2.2.1)
  if xs.any fun x => x.2.any s.hostHeld then .error (.stall (s.awaitData r))
  else if late ≠ [] then
    let fresh := late.filter fun x => !s.remotes.any fun q =>
      q.stream == some r && q.lane == x.1 && q.pa == x.2.2.1 && q.kind == kind
    .error (.stall
      ((fresh.foldl (fun s x => s.sendRemote (s.coreNum r) (some r) x.2.1 x.2.2.1 x.2.2.2 x.1 kind) s).awaitData r))
  else match bad with
    | (_, _, pa, _) :: _ =>
      .error (.trap { cause := 0x28, info := w64 (pa / 64 * 64), mask := maskOf (bad.map Prod.fst) })
    | [] => .ok ()

/-! Marks of the sectors that a read finds (13 R312, R313, 19 R451). -/

/-- The local sectors of a lane that carry a mark. -/
def State.marksOf (s : State) (xs : List Spot) : List (Nat × Mark) :=
  (distinct (xs.filterMap fun p => match s.window p.pa with | .mem a => some (a / 64) | _ => none)).filterMap fun k =>
    (Tab.find k s.marks).map fun m => (k, m)

/-- The place lies in host memory and the link is down, so that a read is poisoned and a write is lost (19 R442). -/
def State.hostLost (s : State) (p : Spot) : Bool :=
  s.linkDown && match s.window p.pa with
    | .host _ => true
    | _ => false

/-- Errors in the data that a stream's lanes read are consumed. -/
def State.checkMarks (s : State) (_r : Nat) (xs : List (Ask × List Spot)) : Except Stop Unit :=
  let lost := xs.filter fun x => x.2.any s.hostLost
  let integ := xs.filter fun x => (s.marksOf x.2).any fun m => m.2 == .integrity
  let bad := xs.filter fun x => (s.marksOf x.2).any fun m => m.2 == .poison
  let page (x : Ask × List Spot) : Nat := pageAddress ((x.2.map fun p => p.leaf.size).headD 65536) x.1.addr
  if integ ≠ [] then
    .error (.trap { cause := 0x29, info := w64 ((integ.map page).headD 0), mask := maskOf (integ.map fun y => y.1.lane) })
  else match bad with
    | x :: _ =>
      let sec := ((s.marksOf x.2).find? fun m => m.2 == .poison).map Prod.fst
      .error (.trap { cause := 0x28, info := w64 (64 * sec.getD 0), mask := maskOf (bad.map fun y => y.1.lane) })
    | [] => match lost with
      | x :: _ =>
        let sec := (x.2.map Spot.pa).headD 0 / 64
        .error (.trap { cause := 0x28, info := w64 (64 * sec), mask := maskOf (lost.map fun y => y.1.lane) })
      | [] => .ok ()

/-- A write to host memory that the link no longer carries is discarded and logged (19 R442, R449). -/
def State.writeHost (s : State) (part a : Nat) (bs : List Byte) : State :=
  if s.linkDown then s.recordFault 0 part 3 0 0 (w64 (2 ^ 47 + a)) 0 0 0 0 0 true
  else { s with hostMem := wrBytes s.hostMem a bs }

/-- The sealed versions of this package that bytes lie in, as an instance reaches them: pair and version (16 R398). -/
def State.sealedIn (s : State) (x : Node) (xs : List Spot) : List (Nat × Nat) :=
  let keys := distinct (xs.filterMap fun p => if p.leaf.stg then some (pairKey x (p.leaf.pa / 2 ^ 22)) else none)
  (keys.filter fun k => s.pageSt k == .sealed).map fun k => (k, (s.pair k).version)

/-- Packages receive provisional data of sealed versions of this one: each is to have their notices (16 R384, R398). -/
def State.lend (s : State) (pkgs : List Nat) (vs : List (Nat × Nat)) : State :=
  let all := pkgs.flatMap fun p => vs.map fun v => (p, v)
  { s with provisional := s.provisional ++ all.filter fun x => !s.provisional.contains x }

/-- What a read leaves in the node record: sealed staged pages and provisional tags (16 R383, 19 R451). -/
def State.noteReads (s : State) (n : Nat) (xs : List Spot) : State :=
  let pairs := distinct (xs.filterMap fun p =>
    if p.leaf.stg then some (pairKey (s.node n) (p.leaf.pa / 2 ^ 22)) else none)
  let s' := pairs.foldl (fun t k => t.recordRead n k) s
  (s.marksOf xs).foldl (fun t m => match m.2 with
    | .provisional tags => tags.foldl (fun t x => t.enterRead n ⟨some x.1, x.2.1, x.2.2⟩) t
    | _ => t) s'

/-! Bytes at their places. -/

/-- The lines of local memory that an instruction's plain accesses reach through its core's L1, or would if it had ways
(03 R86, R88). -/
def State.l1Lines (s : State) (coh : Bool) (hint : Nat) (xs : List Spot) : List Nat :=
  if coh || hint == 2 then []
  else distinct (xs.filterMap fun p => match s.window p.pa with
    | .mem a => if p.leaf.cpol = 0 then some (a / 64) else none
    | _ => none)

/-- An instruction's accesses count in its core's L1, each line once (03 R88, R91). -/
def State.touchL1 (s : State) (r : Nat) (coh : Bool) (hint : Nat) (xs : List Spot) : State :=
  (s.l1Lines coh hint xs).foldl (fun s l => s.l1Touch (s.coreNum r) hint l) s

/-- One byte that a stream reads for a lane: plainly through the L1, or at its coherence point (04 R111). -/
def State.readSpot (s : State) (r : Nat) (coh : Bool) (hint lane : Nat) (p : Spot) : Byte × State :=
  match s.window p.pa with
  | .mem a =>
    if coh then
      let at_ := { p.leaf.attr a with hint := hint }
      let (b, s) := (s.syncSectors (s.coreNum r) [a]).readSync (dieOf (s.coreNum r)) at_ a 1
      (b.getD 0 0, s)
    else s.readPlain (s.coreNum r) (p.leaf.attr a) hint a
  | .fabric _ _ => (Tab.get 0 (s.stream r).rdata (remoteKey lane p.pa), s)
  | .host a => (rdByte s.hostMem a, s)
  | _ => (0, s)

/-- The bytes of a lane. -/
def State.readSpots (s : State) (r : Nat) (coh : Bool) (hint lane : Nat) (xs : List Spot) : List Byte × State :=
  match xs with
  | [] => ([], s)
  | p :: _ =>
    match s.window p.pa with
    | .reg off => (s.readRegBytes (s.agentOf r) off xs.length, s)
    | _ => xs.foldl (fun (acc : List Byte × State) q =>
        let (b, t) := acc.2.readSpot r coh hint lane q
        (acc.1 ++ [b], t)) ([], s)

/-- Where a byte goes. -/
inductive Dest where
  | mem (at_ : Attr)
  | fabric (pkg : Nat)
  | host
  | reg
  | none
  deriving DecidableEq, Repr

/-- The destination of a byte and its address there. -/
def State.destOf (s : State) (p : Spot) : Dest × Nat :=
  match s.window p.pa with
  | .mem a => (.mem (p.leaf.attr a), a)
  | .fabric k _ => (.fabric k, p.pa)
  | .host a => (.host, a)
  | .reg o => (.reg, o)
  | .bad => (.none, 0)

/-- Write the bytes of a lane for a stream: a plain store, or one at the coherence point. Every write enters its sectors, by
their physical addresses, into the core's outgoing signatures (04 R112). -/
def State.writeSpots (s : State) (r : Nat) (coh : Bool) (hint lane : Nat) (ws : List (Spot × Byte)) : State :=
  let core := s.coreNum r
  (runsBy (fun w : Spot × Byte => (s.destOf w.1).1) ws).foldl (fun (t : State) (g : Dest × List (Spot × Byte)) =>
    let at_ := g.2.map fun w => ((s.destOf w.1).2, w.2)
    let first := (at_.map Prod.fst).headD 0
    let bs := at_.map Prod.snd
    let secs := sectorsOf (g.2.map fun w => w.1.pa)
    match g.1 with
    | .mem a =>
      if coh then
        ((t.syncSectors core (at_.map Prod.fst)).writeCoh (dieOf core) a at_).noteWrites core (sectorsOf (at_.map Prod.fst))
      else t.writePlain core a hint at_
    | .fabric k => ((t.sendRemote core none k first bs.length lane 1 bs).noteRemote core k).noteWrites core secs
    | .host => (t.writeHost (t.partNum r) first bs).noteWrites core secs
    | .reg => (t.writeRegBytes (t.agentOf r) first bs).noteWrites core secs
    | .none => t) s

/-- The order in which lanes reach a byte or a location: ascending virtual id in a deterministic partition, otherwise
by the free order of the step (04 R100). -/
def State.laneOrder (s : State) (r : Nat) (ls : List Nat) : List Nat :=
  if (s.gangAt r).det then sortBy (fun a b => decide (s.vid r a < s.vid r b)) ls
  else sortBy (fun a b => decide (Config.laneKey s.free a < Config.laneKey s.free b)) ls

/-- Entries of lanes put into the order of their lanes. -/
def inOrder {α : Type} (lane : α → Nat) (order : List Nat) (xs : List α) : List α :=
  order.flatMap fun l => xs.filter fun x => lane x == l

/-- Distinct 64-byte lines of local memory among places, for the energy of an instruction (18 R432). -/
def linesOf (xs : List Spot) : Nat := (distinct (xs.map fun p => p.pa / 64)).length

/-! Whole accesses of an instruction. -/

/-- An element as a lane receives it: extended to 32 bits when narrower, or a pair's 64 bits (08 R202). -/
def extendElem (ty w x : Nat) : Nat := if w < 32 ∧ ty < 5 then wrap 32 (signed w x) else x

/-- The element that bytes of an access hold. -/
def Ask.elem (a : Ask) (bs : List Byte) : Nat :=
  match a.nib with
  | some true => bits (leNat bs) 7 4
  | some false => bits (leNat bs) 3 0
  | none => leNat bs

/-- What a load of lanes gives: for each lane its element and label, and the state after the access. -/
structure Loaded where
  vals : List (Nat × Nat × Label)
  lines : Nat
  st : State

/-- A load of lanes from memory: the checks of 08 R204, then the bytes. -/
def State.loadLanes (s : State) (r : Nat) (coh : Bool) (hint : Nat) (asks : List Ask) : Except Stop Loaded := do
  let (xs, s') ← s.resolve r .read asks
  s.needRemote r 0 xs
  s.checkMarks r xs
  let s'' := (s'.noteReads (s.nodeNum r) (xs.flatMap Prod.snd)).touchL1 r coh hint (xs.flatMap Prod.snd)
  let (vals, t) := xs.foldl (fun (acc : List (Nat × Nat × Label) × State) x =>
    let (bs, t) := acc.2.readSpots r coh hint x.1.lane x.2
    (acc.1 ++ [(x.1.lane, x.1.elem bs, spotsLabel x.2)], t)) ([], s'')
  return ⟨vals, linesOf (xs.flatMap Prod.snd), t⟩

/-- The bytes a lane stores: those of its element, or its nibble put into the byte read (04 R99). -/
def Ask.bytes (a : Ask) (old : List Byte) (v : Nat) : List Byte :=
  match a.nib with
  | some true => [b8 (bits (leNat old) 3 0 + 16 * (v % 16))]
  | some false => [b8 (bits (leNat old) 7 4 * 16 + v % 16)]
  | none => leBytes a.n v

/-- A store of lanes to memory: the checks of 08 R204, a release if asked, then the bytes, lane by lane.
Answers the state and the lines touched. -/
def State.storeLanes (s : State) (r : Nat) (coh : Bool) (hint : Nat) (relScope : Option Nat)
    (asks : List (Ask × Nat × Label)) : Except Stop (State × Nat) := do
  let (xs, s') ← s.resolve r .write (asks.map Prod.fst)
  let full := xs.zip (asks.map Prod.snd)
  s.checkWrites r false (full.map fun x => (x.1.1, x.1.2, x.2.2))
  if (asks.any fun a => a.1.nib.isSome) then s.needRemote r 0 xs
  let core := s.coreNum r
  let s'' ← match relScope with
    | none => pure s'
    | some sc =>
      match (s.domainWait core sc) with
      | some t => .error (.stall t)
      | none => pure (s'.release core sc)
  let order := s.laneOrder r (distinct (asks.map fun a => a.1.lane))
  let t := (inOrder (fun x : (Ask × List Spot) × (Nat × Label) => x.1.1.lane) order full).foldl
    (fun (t : State) x =>
      let (old, t) := if x.1.1.nib.isSome then t.readSpots r coh hint x.1.1.lane x.1.2 else ([], t)
      t.writeSpots r coh hint x.1.1.lane (x.1.2.zip (x.1.1.bytes old x.2.1)))
    (s''.touchL1 r coh hint (xs.flatMap Prod.snd))
  let spots := xs.flatMap Prod.snd
  let t := t.clearMarks (spots.filterMap fun p => match s.window p.pa with | .mem a => some a | _ => none)
  let t := match relScope with
    | some sc => if sc < 4 then t else (t.release core sc).followRelease core sc
    | none => t
  return (t, linesOf spots)

/-! Scratchpad (03 R87, R93). -/

/-- The size of a gang's scratchpad in bytes. -/
def Gang.spSize (g : Gang) : Nat := g.smax * 32768

/-- The label of a scratchpad line. -/
def Gang.lineLabel (g : Gang) (line : Nat) : Label := Tab.get 0 g.scratchLab line

/-- The highest label among the lines of a range. -/
def Gang.rangeLabel (g : Gang) (off n : Nat) : Label :=
  (List.range n).foldl (fun l i => Label.join l (g.lineLabel ((off + i) / 64))) 0

/-- Bytes of a gang's scratchpad. -/
def Gang.spBytes (g : Gang) (off n : Nat) : List Byte := rdBytes g.scratch off n

/-- Writes of one instruction or copy to scratchpad, bytes in order with their label: the bytes, the labels of the
lines, and the errors that a whole line's write clears (03 R93 item 5, 13 R313). -/
def Gang.spWrite (g : Gang) (ws : List (Nat × Byte × Label)) : Gang :=
  let lines := distinct (ws.map fun w => w.1 / 64)
  let whole (l : Nat) : Bool := (List.range 64).all fun i => ws.any fun w => w.1 == 64 * l + i
  let put (l : Nat) : Label :=
    let new := (ws.filter fun w => w.1 / 64 == l).foldl (fun x w => Label.join x w.2.2) 0
    if whole l then new else Label.join (g.lineLabel l) new
  { g with
    scratch := ws.foldl (fun m w => wrByte m w.1 w.2.1) g.scratch,
    scratchLab := lines.foldl (fun t l => Tab.set 0 t l (put l)) g.scratchLab,
    scratchPoison := g.scratchPoison.filter fun l => !(lines.contains l && whole l),
    scratchInteg := g.scratchInteg.filter fun l => !(lines.contains l && whole l) }

/-- The higher of two errors. -/
def Bad.join (a b : Bad) : Bad := if a = .integrity ∨ b = .integrity then .integrity else if a = .poison then .poison else b

/-- The error of a line of scratchpad. -/
def Gang.lineBad (g : Gang) (line : Nat) : Bad :=
  if g.scratchInteg.contains line then .integrity else if g.scratchPoison.contains line then .poison else .none

/-- The error that n bytes of scratchpad carry. -/
def Gang.rangeBad (g : Gang) (off n : Nat) : Bad :=
  (List.range ((off + n + 63) / 64 - off / 64)).foldl (fun b i => b.join (g.lineBad (off / 64 + i))) .none

/-- Lines of scratchpad take the error of the data that an engine operation wrote to them (13 R313, 17 R409). -/
def Gang.markLines (g : Gang) (ls : List (Nat × Bad)) : Gang :=
  let put (xs : List Nat) (new : List Nat) : List Nat := xs ++ (distinct new).filter fun l => !xs.contains l
  { g with
    scratchPoison := put g.scratchPoison ((ls.filter fun x => x.2 != .none).map Prod.fst),
    scratchInteg := put g.scratchInteg ((ls.filter fun x => x.2 == .integrity).map Prod.fst) }

/-- A granule move in progress holds up accesses to its granule (03 R89). -/
def State.moving (s : State) (r off n : Nat) : Bool :=
  match (s.core (s.coreNum r)).move with
  | none => false
  | some m => m.gang == gangOf r &&
      (List.range n).any fun i => (off + i) / 32768 == min m.spcur (s.gangAt r).spcur

/-- Count a lane's scratchpad accesses of the interval (03 R88). -/
def Gang.spCount (g : Gang) (xs : List (Nat × Nat)) : Gang :=
  { g with
    spAcc := g.spAcc + xs.length,
    spBack := g.spBack + (xs.filter fun x => decide (g.spcur * 32768 ≤ x.1)).length }

/-- Conditions 4 of 08 R204, waits for a granule move, and the errors a read consumes, for lanes with their offsets and
byte counts. -/
def State.checkScratch (s : State) (r : Nat) (reads : Bool) (asks : List Ask) : Except Stop Unit :=
  let g := s.gangAt r
  let out := asks.filter fun a => !a.ok || decide (g.spSize < a.addr + a.n)
  let hit (a : Ask) : Bool := (List.range a.n).any fun i => g.scratchPoison.contains ((a.addr + i) / 64)
  let bad := if reads then asks.filter hit else []
  let integ := bad.filter fun a => g.rangeBad a.addr a.n == .integrity
  if out ≠ [] then .error (laneTrap 0x1B 0 out)
  else if asks.any fun a => s.moving r a.addr a.n then .error (.stall s)
  else if integ ≠ [] then .error (laneTrap 0x29 0 integ)
  else if bad ≠ [] then .error (laneTrap 0x28 1 bad)
  else .ok ()

/-- The scratchpad access of a lane to elements of w bits, k elements (4-bit: bytes) past its 32-bit offset
(08 R207). -/
def spAsk (w : Nat) (k : Int) (lane off : Nat) : Ask :=
  if w = 4 then
    let a := (off : Int) + 2 * k
    { lane, addr := wrap 64 (a / 2), ok := decide (0 ≤ a), n := 1, nib := some (decide (a % 2 = 1)) }
  else { lane, addr := wrap 32 ((off : Int) + k * ((w / 8 : Nat) : Int)), ok := true, n := w / 8 }

/-- Distinct 64-byte lines of scratchpad among lanes' accesses (18 R432). -/
def spLines (asks : List Ask) : Nat :=
  (distinct (asks.flatMap fun a => (List.range a.n).map fun i => (a.addr + i) / 64)).length

/-- A load of lanes from scratchpad. -/
def State.loadScratch (s : State) (r : Nat) (asks : List Ask) : Except Stop Loaded := do
  s.checkScratch r true asks
  let g := s.gangAt r
  let vals := asks.map fun a => (a.lane, a.elem (g.spBytes a.addr a.n), g.rangeLabel a.addr a.n)
  return ⟨vals, spLines asks, s.updGang (gangOf r) fun g => g.spCount (asks.map fun a => (a.addr, a.n))⟩

/-- A store of lanes to scratchpad: the state and the lines touched. -/
def State.storeScratch (s : State) (r : Nat) (asks : List (Ask × Nat × Label)) : Except Stop (State × Nat) := do
  s.checkScratch r false (asks.map Prod.fst)
  let order := s.laneOrder r (distinct (asks.map fun a => a.1.lane))
  let xs := inOrder (fun a : Ask × Nat × Label => a.1.lane) order asks
  let g := s.gangAt r
  -- Nibbles of one byte are all kept: each lane merges into what the lanes before it left.
  let (_, ws) := xs.foldl (fun (acc : List Host.Cell × List (Nat × Byte × Label)) x =>
    let bs := x.1.bytes (rdBytes acc.1 x.1.addr x.1.n) x.2.1
    let new := (List.range bs.length).map fun i => (x.1.addr + i, bs.getD i 0, x.2.2)
    (wrBytes acc.1 x.1.addr bs, acc.2 ++ new)) (g.scratch, [])
  return (s.updGang (gangOf r) fun g => (g.spWrite ws).spCount (xs.map fun x => (x.1.addr, x.1.n)),
    spLines (asks.map Prod.fst))

/-! Engine operations (04 R105, R112): they read the issuing core's dirty sectors in place of the L2. -/

/-- The remote bytes that an engine operation reads are all there, or the requests for those missing go out; those in host
memory are held while the link retrains (19 R442, R449). -/
def State.engineFetch (s : State) (core op : Nat) (xs : List Spot) : Option State :=
  let have_ := Tab.get [] s.opData op
  let late := (s.fabricRuns xs).filter fun x => (Tab.find x.2.1 have_).isNone
  if xs.any s.hostHeld then some s
  else if xs.any s.hostLost ∧ !s.opBad.contains op then some { s with opBad := s.opBad ++ [op] }
  else if late = [] ∨ s.opBad.contains op then none
  else
    let fresh := late.filter fun x => !s.remotes.any fun q => q.op == some op && q.pa == x.2.1
    some (fresh.foldl (fun s x => s.sendRemote core none x.1 x.2.1 x.2.2 0 0 [] (some op)) s)

/-- A place that a write cannot reach: in host memory behind a link that is down, or in a package that no port reaches
(19 R442, R449). -/
def State.unreachable (s : State) (p : Spot) : Bool :=
  s.hostLost p || match s.window p.pa with
    | .fabric k _ => Tab.get 0 s.routes k == 0
    | _ => false

/-- Charge an event of an engine to the gang whose stream issued the operation (18 R432). -/
def State.chargeEngine (s : State) (r pj : Nat) : State :=
  match Tab.find (gangOf r) s.gangs with
  | some g => s.chargeGang g pj
  | none => s

/-- Forget the remote bytes of an engine operation that has ended. -/
def State.dropOp (s : State) (op : Nat) : State :=
  { s with opData := Tab.del op s.opData, opBad := s.opBad.filter (· != op) }

/-- One byte that an engine operation of a stream's core reads. -/
def State.engineByte (s : State) (core op : Nat) (p : Spot) : Byte × State :=
  match s.window p.pa with
  | .fabric _ _ => (Tab.get 0 (Tab.get [] s.opData op) p.pa, s)
  | .mem a =>
    match Tab.find (a / 32) (s.core core).l1 with
    | some x =>
      if x.dirty.any id then (x.bytes.getD (a % 32) 0, s)
      else
        let (b, s) := s.readCoh (dieOf core) (p.leaf.attr a) a 1
        (b.getD 0 0, s)
    | none =>
      let (b, s) := s.readCoh (dieOf core) (p.leaf.attr a) a 1
      (b.getD 0 0, s)
  | .host a => (rdByte s.hostMem a, s)
  | _ => (0, s)

/-- The bytes that an engine operation reads. -/
def State.engineRead (s : State) (core op : Nat) (xs : List Spot) : List Byte × State :=
  xs.foldl (fun (acc : List Byte × State) p =>
    let (b, t) := acc.2.engineByte core op p
    (acc.1 ++ [b], t)) ([], s)

/-- Write bytes for an engine operation at the coherence point; a write to another package names the operation where that waits
for its answer. What the issuing core's L1 holds dirty of their sectors is older, or races with them, and is written back
first (04 R105, R107, R112, 19 R449). -/
def State.engineWrite (s : State) (core : Nat) (ws : List (Spot × Byte)) (op : Option Nat := none) : State :=
  (runsBy (fun w : Spot × Byte => (s.destOf w.1).1) ws).foldl (fun (t : State) (g : Dest × List (Spot × Byte)) =>
    let at_ := g.2.map fun w => ((s.destOf w.1).2, w.2)
    let first := (at_.map Prod.fst).headD 0
    let bs := at_.map Prod.snd
    let secs := sectorsOf (g.2.map fun w => w.1.pa)
    match g.1 with
    | .mem a =>
      let secs := sectorsOf (at_.map Prod.fst)
      ((secs.foldl (fun t x => t.cleanSector core x) t).writeCoh (dieOf core) a at_).noteEngine core secs
    | .fabric k => ((t.sendRemote core none k first bs.length 0 1 bs op).noteRemote core k).noteEngine core secs
    | .host =>
      (if t.linkDown then t.writeHost 0 first bs else at_.foldl (fun t w => t.writeHost 0 w.1 [w.2]) t).noteEngine core secs
    | _ => t) s

/-- Sectors whose every byte a write covers lose their mark; the sectors an engine operation with erroneous data wrote take
the error of the data, and a poisoned one is logged with its address (13 R313, 16 R401, 17 R409). -/
def State.engineMarks (s : State) (g : Gang) (b : Bad) (ws : List Spot) : State :=
  let as := ws.filterMap fun p => match s.window p.pa with | .mem a => some a | _ => none
  let s := s.clearMarks as
  let secs := distinct (as.map (· / 64))
  let put (m : Mark) : State := { s with marks := secs.foldl (fun t k => Tab.put k m t) s.marks }
  match b with
  | .none => s
  | .integrity => put .integrity
  | .poison =>
    secs.foldl (fun t k => t.recordFault (effFDOM g.effcfg) g.part 3 0 0 (w64 (64 * k)) 0 0 0 0 0 true) (put .poison)

/-- The error that an engine operation's bytes carry. -/
def State.erroneous (s : State) (xs : List Spot) : Bad :=
  let ms := (s.marksOf xs).map Prod.snd
  if ms.contains .integrity then .integrity else if ms.contains .poison then .poison else .none

/-- The error that an engine operation writes to a place that is no memory sector is logged when it is one of ECC: the
location and the source code of SUB (16 R401). -/
def State.logBad (s : State) (g : Gang) (sub : Nat) (locs : List (Nat × Bad)) : State :=
  (distinct ((locs.filter fun x => x.2 == .poison).map Prod.fst)).foldl (fun t k =>
    t.recordFault (effFDOM g.effcfg) g.part 3 0 0 (w64 k) 0 0 0 0 sub true) s

/-- Translate one address for an engine operation of gang g through its cluster's load port (15 R364, R366). -/
def State.engineSpot (s : State) (g : Gang) (k : Acc) (va : Nat) : Except Miss Spot × State :=
  let (t, s) := s.translatePort (clusterOf g.core) g.part g.node va
  (s.checked g false k va t, s)

/-- The places of n bytes for an engine operation, or the address that misses and why, one page after the other
(15 R364, R366). -/
def State.engineSpots (s : State) (g : Gang) (k : Acc) : Nat → Nat → Except (Nat × Miss) (List Spot) × State
  | _, 0 => (.ok [], s)
  | va, n + 1 =>
    match s.engineSpot g k va with
    | (.error e, s) => (.error (va, e), s)
    | (.ok p, s) =>
      match State.engineSpots s g k ((va + 1) % 2 ^ 56) n with
      | (.error e, s) => (.error e, s)
      | (.ok xs, s) => (.ok (p :: xs), s)

end Sys2Proof.Machine
end

