-- ==== Sys2Proof/Machine/Operands.lean ====
section
/-! DEFINITION. Every operand form: source fields, destinations, queue and stream ports, bypass latches, labels, writes of
predicates, and the one executor of vector instructions and the one of U-forms (05 R121 to R128, 03 R79, R80, R93). -/

namespace Sys2Proof.Machine

/-! Sources (05 R122). -/

/-- What a 7-bit source field names. -/
inductive Src where
  | v (n : Nat) | q (n : Nat) | t (n : Nat) | l (n : Nat) | z | c (n : Nat) | bad
  deriving DecidableEq, Repr

/-- Decode a source field. -/
def srcOf (f : Nat) : Src :=
  if f < 56 then .v f
  else if f < 60 then .q (f - 56)
  else if f < 64 then .t (f - 60)
  else if f < 72 then .l (f - 64)
  else if f = 72 then .z
  else if f < 80 then .bad
  else if f < 112 then .c (f - 80)
  else .bad

/-- Which operand classes an entry allows in a field. -/
inductive Allow where
  /-- Any class of 05 R122. -/
  | any
  /-- z and c0 to c31: scalar sources and U-forms. -/
  | uni
  /-- v0 to v55 only. -/
  | vec
  /-- v, q or t: the data source of a store. -/
  | data
  deriving DecidableEq, Repr

/-- A source that an instruction reads: its field, whether as a 64-bit pair, the classes allowed, and the lanes it is read
in where those are not the instruction's. -/
structure Want where
  f : Nat
  wide : Bool := false
  allow : Allow := .any
  lanes : Option Word := none
  deriving DecidableEq, Repr

/-- A destination of 05 R123, whether a pair, and the nw bit. -/
structure Dst where
  n : Nat
  wide : Bool := false
  nw : Bool := false
  deriving DecidableEq, Repr

/-- The stream may use queue ports: work or single (01 R17). -/
def State.mayQueue (s : State) (r : Nat) : Bool := (s.gangAt r).single || isWork r

/-- The SUB of the illegal-instruction trap that a source raises, if it raises one. -/
def State.srcFault (s : State) (r : Nat) (w : Want) : Option Nat :=
  let pick (ok : Bool) : Option Nat := if ok then none else some 3
  match srcOf w.f with
  | .v n => pick (w.allow != .uni && (!w.wide || n % 2 == 0))
  | .q _ => if !s.mayQueue r then some 1 else pick (!w.wide && (w.allow == .any || w.allow == .data))
  | .t _ => pick (isStreamCore (s.coreNum r) && !w.wide && (w.allow == .any || w.allow == .data))
  | .l _ => pick (!w.wide && w.allow == .any)
  | .z => pick (!w.wide && (w.allow == .any || w.allow == .uni))
  | .c n => pick ((w.allow == .any || w.allow == .uni) && (!w.wide || n % 2 == 0))
  | .bad => some 3

/-- The SUB that a destination raises, if it raises one (05 R123, 02 R47). -/
def State.dstFault (s : State) (r : Nat) (d : Dst) : Option Nat :=
  let pick (ok : Bool) : Option Nat := if ok then none else some 3
  if d.n < 56 then pick (!d.wide || d.n % 2 == 0)
  else if d.n < 60 then if !s.mayQueue r then some 1 else pick (!d.nw && !d.wide)
  else pick (isStreamCore (s.coreNum r) && !d.nw && !d.wide)

/-! Stream ports (03 R80). -/

/-- The number of elements of a pattern. -/
def Pattern.total (p : Pattern) : Nat := p.cnt0.toNat * p.cnt1.toNat * p.cnt2.toNat

/-- The byte address of a linear index. -/
def Pattern.addr (p : Pattern) (j : Nat) : Int :=
  let i0 : Int := ((j % p.cnt0.toNat : Nat) : Int)
  let i1 : Int := ((j / p.cnt0.toNat % p.cnt1.toNat : Nat) : Int)
  let i2 : Int := ((j / (p.cnt0.toNat * p.cnt1.toNat) : Nat) : Int)
  signed 56 p.base.toNat + i0 * signed 32 p.stride0.toNat + i1 * signed 32 p.stride1.toNat + i2 * signed 32 p.stride2.toNat

/-- The bits of an element of a port. -/
def Pattern.width (p : Pattern) : Nat := typeWidth p.etype.toNat

/-- One use of a port takes this many indices. -/
def Pattern.step (p : Pattern) : Nat := 32 * perLane p.width

/-- The accesses of one use for the lanes of a mask: lane, sub-element and access; indices past the end make none.
A 4-bit element lies in the low nibble of its byte (log entry 20). -/
def Pattern.asks (p : Pattern) (mask : Word) : List (Nat × Nat × Ask) :=
  (lanesOf mask).flatMap fun i =>
    (List.range (perLane p.width)).filterMap fun k =>
      let j := p.pos.toNat + i * perLane p.width + k
      if p.total ≤ j then none
      else
        let n := max 1 (p.width / 8)
        let a := p.addr j
        let nib := if p.width = 4 then some false else none
        some (i, k, ⟨i, wrap 64 a, in56 a && in56 (a + (n : Int) - 1), n, nib⟩)

/-- The stream-port fault of a use in a direction (03 R80). -/
def Stream.portBad (t : Stream) (n : Nat) (dir : Bool) : Bool := !(t.port n).bound || (t.port n).dir != dir

/-! Reading the sources. -/

/-- An operand: 32 lanes, each with a value of up to 64 bits and a label. -/
abbrev Opd := List (Nat × Label)

/-- What an instruction's sources hold, with the queues and ports it uses up when it completes. -/
structure Peek where
  vals : List Opd := []
  pops : List Nat := []
  ports : List Nat := []
  /-- Registers read of the register file (18 R432). -/
  regs : Nat := 0
  st : State

/-- Value of source k in a lane. -/
def Peek.val (p : Peek) (k i : Nat) : Nat := ((p.vals.getD k []).getD i (0, 0)).1
/-- Label of source k in a lane. -/
def Peek.lab (p : Peek) (k i : Nat) : Label := ((p.vals.getD k []).getD i (0, 0)).2
/-- The highest label of the sources in a lane. -/
def Peek.label (p : Peek) (i : Nat) : Label := p.vals.foldl (fun l o => Label.join l (o.getD i (0, 0)).2) 0

/-- A register whose load has not arrived (05 R128). -/
def Stream.awaited (t : Stream) (n : Nat) : Bool := t.loads.any fun p => p.dst.any fun d => d.1 == n

/-- The vector registers of a source or destination number. -/
def regsOf (n : Nat) (wide : Bool) : List Nat := if wide then [n, n + 1] else [n]

/-- The latch number of a void latch that the sources read: where two fields name one, the first of them (05 R128, log entry
100). -/
def Stream.voidRead (t : Stream) (ws : List Want) : Option Nat :=
  ws.findSome? fun w => match srcOf w.f with
    | .l k => let x := t.latches.getD k {}; if x.val.isNone && x.awaits.isNone then some k else none
    | _ => none

/-- A source or destination waits for data of an earlier load. -/
def Stream.waits (t : Stream) (ws : List Want) (dsts : List Nat) : Bool :=
  (ws.any fun w => match srcOf w.f with
    | .v n => (regsOf n w.wide).any t.awaited
    | .l k => (t.latches.getD k {}).awaits.isSome
    | _ => false) || dsts.any t.awaited

/-- The queue-orphan trap of a queue (01 R39). -/
def State.orphan (s : State) (r info : Nat) : Stop :=
  .trap { cause := 7, info := w64 info, mask := (s.stream r).em }

/-- A pop of a load queue: the entry, the orphan trap, or a stall (01 R19). -/
def State.checkPop (s : State) (r q : Nat) : Except Stop Unit :=
  match Tab.get [] (s.crewAt r).loadQ q with
  | [] => if (s.gangAt r).single || s.haulEnded r then .error (s.orphan r q) else .error (.stall s)
  | e :: _ => if e.awaits.isSome then .error (.stall (s.awaitData r)) else .ok ()

/-- A push to a store queue: room, the orphan trap, or a stall (01 R19). -/
def State.checkPush (s : State) (r q : Nat) : Except Stop Unit :=
  if !(s.gangAt r).single && s.haulEnded r then .error (s.orphan r (4 + q))
  else if (Tab.get [] (s.crewAt r).storeQ q).length < 8 then .ok ()
  else .error (.stall s)

/-- Check every element of a list. -/
def checkAll {α : Type} (f : α → Except Stop Unit) : List α → Except Stop Unit
  | [] => .ok ()
  | a :: rest =>
    match f a with
    | .error e => .error e
    | .ok _ => checkAll f rest

/-- The value of a port that a source reads, for the lanes of a mask; other lanes are zero (log entry 20). -/
def State.readPort (s : State) (r : Nat) (mask : Word) (n : Nat) : Except Stop (Opd × State) := do
  let p := (s.stream r).port n
  let asks := p.asks mask
  let x ← s.loadLanes r false 0 (asks.map fun a => a.2.2)
  let got := asks.zip x.vals
  let lane (i : Nat) : Nat × Label :=
    got.foldl (fun acc g => if g.1.1 = i then (acc.1 + g.2.2.1 * 2 ^ (p.width * g.1.2.1), Label.join acc.2 g.2.2.2) else acc) (0, 0)
  return ((List.range 32).map lane, x.st)

/-- The operand that a register, latch, queue head or constant gives. -/
def State.plainSrc (s : State) (r : Nat) (w : Want) : Opd :=
  let t := s.stream r
  let ofVec (v : Vec) : Opd := (List.range 32).map fun i => ((v.lane i).v.toNat, (v.lane i).l)
  match srcOf w.f with
  | .v n =>
    if w.wide then (List.range 32).map fun i =>
      let lo := (t.vreg n).lane i
      let hi := (t.vreg (n + 1)).lane i
      (lo.v.toNat + 2 ^ 32 * hi.v.toNat, Label.join lo.l hi.l)
    else ofVec (t.vreg n)
  | .q n => match Tab.get [] (s.crewAt r).loadQ n with
    | e :: _ => ofVec e.vec
    | [] => []
  | .l k => ofVec ((t.latches.getD k {}).val.getD Vec.zero)
  | .c n =>
    if w.wide then
      let lo := t.creg n
      let hi := t.creg (n + 1)
      List.replicate 32 (lo.v.toNat + 2 ^ 32 * hi.v.toNat, Label.join lo.l hi.l)
    else List.replicate 32 ((t.creg n).v.toNat, (t.creg n).l)
  | _ => List.replicate 32 (0, 0)

/-- Registers of the register file that a source reads. -/
def Want.regs (w : Want) : Nat :=
  match srcOf w.f with
  | .v _ => if w.wide then 2 else 1
  | .c _ => if w.wide then 2 else 1
  | _ => 0

/-- The queue ports that sources name, each once (05 R125). -/
def popsOf (ws : List Want) : List Nat := distinct (ws.filterMap fun w => match srcOf w.f with | .q n => some n | _ => none)

/-- The stream ports that sources name, each once (05 R125). -/
def portsOf (ws : List Want) : List Nat := distinct (ws.filterMap fun w => match srcOf w.f with | .t n => some n | _ => none)

/-- The lanes in which a stream port that sources name is read. -/
def portLanes (mask : Word) (ws : List Want) (n : Nat) : Word :=
  ws.foldl (fun m w => match srcOf w.f with
    | .t k => if k = n then m ||| w.lanes.getD mask else m
    | _ => m) 0

/-- The trap of a register bank that holds an error: SINFO names the bank of stream r and its register n, in a layout that the
spec does not give (13 R311, log entry 98). -/
def State.bankTrap (s : State) (r n : Nat) : Trap :=
  { cause := 0x28, sub := 3, info := Config.bankInfo r n, mask := (s.stream r).em }

/-- Reading registers notes the first whose bank holds an error; the instruction consumes it if it completes. -/
def State.noteBanks (s : State) (r : Nat) (ns : List Nat) : State :=
  match ns.find? fun n => (s.stream r).regBad.contains n with
  | none => s
  | some n => { s with consumed := some (s.consumed.getD (s.bankTrap r n)) }

/-- The registers of the bank that sources name, vector and uniform ones (03 R74). -/
def vregsOf (ws : List Want) : List Nat := ws.flatMap fun w => match srcOf w.f with
  | .v n => regsOf n w.wide
  | .c n => regsOf (64 + n) w.wide
  | _ => []

/-- The operand classes alone, for an instruction that with Active() empty reads nothing (05 R123, 08 R226). -/
def State.checkClass (s : State) (r : Nat) (ws : List Want) (dst : Option Dst) : Except Stop Unit :=
  match ws.findSome? (s.srcFault r) with
  | some sub => .error (s.illegal r sub)
  | none =>
    match dst.bind (s.dstFault r) with
    | some sub => .error (s.illegal r sub)
    | none => .ok ()

/-- A store queue that a destination names has room. -/
def State.checkRoom (s : State) (r : Nat) : Option Dst → Except Stop Unit
  | some d => if 56 ≤ d.n ∧ d.n < 60 then s.checkPush r (d.n - 56) else .ok ()
  | none => .ok ()

/-- A stream port that a destination names is bound for writing. -/
def State.checkPortDst (s : State) (r : Nat) : Option Dst → Except Stop Unit
  | some d =>
    if 60 ≤ d.n ∧ (s.stream r).portBad (d.n - 60) true then .error (s.streamFault r 0x22 (d.n - 60)) else .ok ()
  | none => .ok ()

/-- Read every source, checking operand classes, void latches, queues and ports in the order of 06 R179. Nothing is
used up until the instruction completes. -/
def State.peek (s : State) (r : Nat) (mask : Word) (ws : List Want) (dst : Option Dst) : Except Stop Peek := do
  let t := s.stream r
  match ws.findSome? (s.srcFault r) with
  | some sub => .error (s.illegal r sub)
  | none => pure ()
  match dst.bind (s.dstFault r) with
  | some sub => .error (s.illegal r sub)
  | none => pure ()
  match t.voidRead ws with
  | some k => .error (.trap { cause := 1, info := w64 k, mask := t.em })
  | none => pure ()
  let dregs := match dst with
    | some d => if d.n < 56 then regsOf d.n d.wide else []
    | none => []
  if t.waits ws dregs then .error (.stall (s.awaitData r))
  checkAll (s.checkPop r) (popsOf ws)
  s.checkRoom r dst
  match (portsOf ws).find? fun n => t.portBad n false with
  | some n => .error (s.streamFault r 0x22 n)
  | none => pure ()
  s.checkPortDst r dst
  let (got, s') ← (portsOf ws).foldlM (fun (acc : Tab Opd × State) n => do
    let (o, u) ← acc.2.readPort r (portLanes mask ws n) n
    return (Tab.put n o acc.1, u)) (([] : Tab Opd), s)
  let vals := ws.map fun w => match srcOf w.f with
    | .t n => Tab.get [] got n
    | _ => s.plainSrc r w
  return { vals, pops := popsOf ws, ports := portsOf ws, regs := (ws.map Want.regs).foldl (· + ·) 0,
           st := s'.noteBanks r (vregsOf ws) }

/-- A port's position moves past one use. -/
def Stream.advancePort (t : Stream) (n : Nat) : Stream :=
  let p := t.port n
  { t with ports := Tab.put n { p with pos := BitVec.ofNat 48 (p.pos.toNat + p.step) } t.ports }

/-- Use up the queue entries and port elements that an instruction read. -/
def State.commit (r : Nat) (p : Peek) : State :=
  let s := p.pops.foldl (fun s q => s.updCrew (crewOf r) fun c =>
    { c with loadQ := Tab.put q ((Tab.get [] c.loadQ q).drop 1) c.loadQ }) p.st
  p.ports.foldl (fun s n => s.updStream r fun t => t.advancePort n) s

/-! Writing results (05 R123, R126, R127). -/

/-- A result enters l0 and the latches shift. -/
def Stream.shift (t : Stream) (v : Vec) : Stream := { t with latches := ⟨some v, none⟩ :: t.latches.take 7 }

/-- What a register holds once the lanes of a mask are written; other lanes keep old values and labels. -/
def Vec.merge (old : Vec) (mask : Word) (f : Nat → LV) : Vec :=
  Vec.ofFn fun i => if inMask mask i then f i else old.lane i

/-- A write of every lane of a register clears an error of it (13 R313). -/
def Stream.cleanReg (t : Stream) (n : Nat) (mask : Word) : Stream := if mask = 0xFFFFFFFF then t.cleanBank n else t

/-- Write the lanes of a mask of one register and shift its value into the latches; with nw only the latches. -/
def Stream.putReg (t : Stream) (n : Nat) (nw : Bool) (mask : Word) (f : Nat → LV) : Stream :=
  let v := (t.vreg n).merge mask f
  let t := t.shift v
  if nw then t else (t.setV n v).cleanReg n mask

/-- Half k of a value as a lane. -/
def halfLane (x : Nat × Label) (k : Nat) : LV := ⟨w32 (x.1 / 2 ^ (32 * k)), x.2⟩

/-- Write a stream port: the elements of the lanes of a mask go to memory, and the position moves on (03 R80). -/
def State.writePort (s : State) (r : Nat) (mask : Word) (n : Nat) (f : Nat → Nat × Label) : Except Stop State := do
  let p := (s.stream r).port n
  let asks := p.asks mask
  let (s, _) ← s.storeLanes r false 0 none (asks.map fun a =>
    (a.2.2, (f a.1).1 / 2 ^ (p.width * a.2.1) % 2 ^ p.width, (f a.1).2))
  return s.updStream r fun t => t.advancePort n

/-- Write a result to a destination and shift the latches: registers in ascending order, a store-queue push, or a
stream-port write. -/
def State.writeDst (s : State) (r : Nat) (d : Dst) (mask : Word) (f : Nat → Nat × Label) : Except Stop State :=
  if d.n < 56 then
    .ok (s.updStream r fun t =>
      (List.range (if d.wide then 2 else 1)).foldl (fun t k => t.putReg (d.n + k) d.nw mask fun i => halfLane (f i) k) t)
  else
    let v := Vec.zero.merge mask fun i => halfLane (f i) 0
    if d.n < 60 then
      let q := d.n - 56
      .ok ((s.updCrew (crewOf r) fun c =>
        { c with storeQ := Tab.put q (Tab.get [] c.storeQ q ++ [⟨v, mask, none⟩]) c.storeQ }).updStream r fun t => t.shift v)
    else
      match s.writePort r mask (d.n - 60) f with
      | .error e => .error e
      | .ok s => .ok (s.updStream r fun t => t.shift v)

/-- Write a result to a destination, then use up what was read. -/
def Peek.write (p : Peek) (r : Nat) (d : Dst) (mask : Word) (f : Nat → Nat × Label) : Except Stop State := do
  let s ← p.st.writeDst r d mask f
  return State.commit r { p with st := s }

/-- Write a uniform register or an even pair. -/
def Stream.putC (t : Stream) (n : Nat) (wide : Bool) (x : Nat) (l : Label) : Stream :=
  if wide then (t.setC n ⟨w32 x, l⟩).setC (n + 1) ⟨w32 (x / 2 ^ 32), l⟩ else t.setC n ⟨w32 x, l⟩

/-- Write bits of a predicate in lanes; the label of 06 R145: the result's where all 32 lanes are written, the higher
of it and the old one otherwise; nothing where no lane is written. -/
def Stream.putP (t : Stream) (n : Nat) (lanes val : Word) (l : Label) : Stream :=
  if lanes = 0 then t
  else
    let old := t.preg n
    (t.setP n ⟨(old.v &&& ~~~lanes) ||| (val &&& lanes), if lanes = 0xFFFFFFFF then l else Label.join old.l l⟩).cleanReg (96 + n)
      lanes

/-! The executors. -/

/-- Element k of w bits of a value. -/
def subElem (w x k : Nat) : Nat := x / 2 ^ (w * k) % 2 ^ w

/-- A value built from its elements of w bits. -/
def packed (w : Nat) (f : Nat → Nat) : Nat :=
  (List.range (perLane w)).foldl (fun acc k => acc + f k % 2 ^ w * 2 ^ (w * k)) 0

/-- The generator words of a stream with those of some lanes changed. -/
def Stream.setGen (t : Stream) (mask : Word) (f : Nat → Word) : Stream :=
  { t with gen := (List.range 32).map fun i => if inMask mask i then f i else t.genLane i }

/-- A vector instruction that reads its sources in the lanes of a mask and writes one destination there: it computes each
lane from the values of the sources and the lane's generator, which it returns. -/
def State.aluMask (s : State) (r : Nat) (c : Cls) (mask : Word) (lab : Label) (dst : Dst) (srcs : List Want)
    (draws : Bool) (f : Nat → List Nat → Word → Nat × Word) : Except Stop State := do
  let p ← s.peek r mask srcs (some dst)
  let args (i : Nat) : List Nat := p.vals.map fun o => (o.getD i (0, 0)).1
  let t := s.stream r
  let out := (List.range 32).map fun i => if inMask mask i then f i (args i) (t.genLane i) else (0, 0)
  let s' ← p.write r dst mask fun i => ((out.getD i (0, 0)).1, Label.join (p.label i) lab)
  let s' := if draws then s'.updStream r fun t => t.setGen mask fun i => (out.getD i (0, 0)).2 else s'
  return s'.complete r c p.regs 0

/-- A vector instruction under the guard of the m-selected set; one that reads the old destination names a register. -/
def State.alu (s : State) (r : Nat) (c : Cls) (m : Bool) (dst : Dst) (old : Bool) (srcs : List Want)
    (f : List Nat → Nat) : Except Stop State := do
  let t := s.stream r
  if old then needReg s r dst.n
  let srcs := if old then srcs ++ [{ f := dst.n, wide := dst.wide }] else srcs
  s.aluMask r c (t.active m) (t.guardLabel m) dst srcs false fun _ xs _ => (f xs, 0)

/-- A U-form: sources z or uniform, destination uniform, once per execution whatever EM holds (05 R124). -/
def State.aluU (s : State) (r : Nat) (c : Cls) (d : Nat) (wide old : Bool) (lab : Label) (srcs : List Want)
    (f : List Nat → Nat) : Except Stop State := do
  need s r 3 (decide (d < 32) && (!wide || d % 2 == 0))
  let srcs := (if old then srcs ++ [{ f := 80 + d, wide }] else srcs).map fun w => { w with allow := .uni }
  let p ← s.peek r 0 srcs none
  let x := f (p.vals.map fun o => (o.getD 0 (0, 0)).1)
  let l := Label.join (p.label 0) lab
  return ((State.commit r p).updStream r fun t => t.putC d wide x l).complete r c p.regs 0

/-- The TYPE of the m-selected set, where the entry allows it (05 R130). -/
def State.typeIn (s : State) (r : Nat) (m : Bool) (ok : Nat → Bool) : Except Stop Nat :=
  let ty := modeTYPE ((s.stream r).mode m)
  if ok ty then .ok ty else .error (s.illegal r 2)

end Sys2Proof.Machine
end

