-- ==== Sys2Proof/Machine/Issue.lean ====
section
/-! DEFINITION. What happens at instruction boundaries: fetching, which stream may issue, conditions of waiting crews, the
watch on reconvergence addresses, and the stopping of crews for a park (01 R22 to R29, 03 R83 to R85, 13 R315, 14 R350). -/

namespace Sys2Proof.Machine

/-! Batches (08 R225). -/

/-- The batch number lies in the pending window. -/
def Stream.batchPending (t : Stream) (n : BitVec 16) : Bool :=
  decide (1 ≤ (n - t.done).toNat) && decide ((n - t.done).toNat ≤ (t.sealed - t.done).toNat)

/-! Barrier objects (03 R92). -/

/-- The 128 bits of a barrier. -/
structure Barrier where
  pending : Nat
  overrun : Bool
  phase : Nat
  remaining : Nat
  expected : Nat
  /-- A reserved bit is set. -/
  odd : Bool
  deriving DecidableEq, Repr

/-- The barrier at an offset of a gang's scratchpad. -/
def Gang.barrier (g : Gang) (off : Nat) : Barrier :=
  let x := rdNat g.scratch off 16
  { pending := bits x 95 64, overrun := bitOf x 36, phase := bits x 35 32, remaining := bits x 31 16, expected := bits x 15 0,
    odd := bits x 127 96 != 0 || bits x 63 37 != 0 }

/-- The barrier passes the format check of 03 R92. -/
def Barrier.good (b : Barrier) : Bool := b.expected != 0 && decide (b.remaining ≤ b.expected) && !b.odd

/-- Write a barrier, leaving the labels of its line. -/
def Gang.putBarrier (g : Gang) (off : Nat) (b : Barrier) : Gang :=
  let x := b.pending * 2 ^ 64 + b.overrun.toNat * 2 ^ 36 + b.phase % 16 * 2 ^ 32 + b.remaining * 2 ^ 16 + b.expected
  { g with scratch := wrBytes g.scratch off (leBytes 16 x) }

/-- The completion rule: a phase with nothing due ends (08 R227). -/
def Barrier.settle (b : Barrier) : Barrier :=
  if b.remaining = 0 ∧ b.pending = 0 then { b with phase := (b.phase + 1) % 16, remaining := b.expected } else b

/-! WAITD (01 R36, 14 R348). -/

/-- Row i of a box of a gang, as its first byte and the byte after its last. -/
def Box.row (b : Box) (gangid i : Nat) : Int × Int :=
  let lo := signed 64 b.base.toNat + (gangid : Int) * signed 64 b.step.toNat + (i : Int) * signed 64 b.pitch.toNat
  (lo, lo + (b.len : Int))

/-- Two boxes of gangs share a byte (01 R31). -/
def Box.overlaps (a : Box) (ga : Nat) (b : Box) (gb : Nat) : Bool :=
  (List.range a.count).any fun i => (List.range b.count).any fun j =>
    decide ((a.row ga i).1 < (b.row gb j).2) && decide ((b.row gb j).1 < (a.row ga i).2)

/-- The condition of WAITD for a gang: every gang of an incomplete predecessor with an overlapping output box has
triggered or completed. -/
def State.waitdHolds (s : State) (g : Nat) : Bool :=
  let x := s.gang g
  let n := s.node x.node
  n.preds.all fun uid => match s.keyOfUid uid with
    | none => true
    | some k =>
      let p := s.node k
      (List.range p.desc.gangs).all fun i =>
        p.doneGangs.contains i || p.trigGangs.contains i ||
          !(p.desc.outBoxes.any fun o => n.desc.inBoxes.any fun b => o.overlaps i b x.gangid)

/-! Waiting crews (14 R350). -/

/-- The bytes of an argument block in another package have come (01 R38, 19 R449). -/
def Stream.argsCame (t : Stream) (pa : Nat) : Bool := (Tab.find (remoteKey 0 pa) t.rdata).isSome

/-- The condition a waiting stream waits for, out of its slot, holds. -/
def State.waitOver (s : State) (r : Nat) (w : Wait) : Bool :=
  let t := s.stream r
  match w with
  | .cwait b => !t.batchPending b
  | .waitd => s.waitdHolds (gangOf r)
  | .barwait off p _ expired => expired || (((s.gangAt r).barrier off).phase != p)
  | .gbar released => released
  | _ => false

/-- The wait takes its crew out of its slot. -/
def Wait.outside : Wait → Bool
  | .cwait _ | .waitd | .barwait _ _ _ _ | .gbar _ | .brg _ _ _ _ | .reconv => true
  | _ => false

/-- The stream cannot issue until an event ends the wait. -/
def Wait.blocks : Wait → Bool
  | .refill _ | .handlerEntry _ | .brg _ _ _ _ | .reconv | .gbar false | .args _ _ => true
  | .sopen _ _ done | .sseal _ _ done => !done
  | .ctxsave _ _ _ _ st | .ctxload _ _ st => st.isNone
  | _ => false

/-- Crews whose wait is over become ready (14 R350). -/
def State.wakeGang (s : State) (g : Nat) : State :=
  (crewsOf g (s.gang g)).foldl (fun s k =>
    let c := s.crew k
    if c.place = .waiting ∧ !c.stopped ∧ !c.ended ∧ (crewStreams (s.gang g).single k).any (fun r =>
        match (s.stream r).wait with
        | some w => w.outside && s.waitOver r w
        | none => false) then s.makeReady k
    else s) s

/-- Crews on a gang-divergent path that stand at an address of the reconvergence stack wait there (06 R148). -/
def State.watchReconv (s : State) (g : Nat) : State :=
  match (s.gang g).stack with
  | [] => s
  | e :: rest =>
    let addrs := e.addr :: rest.map (·.addr)
    e.running.foldl (fun s c =>
      let r := 32 * g + 2 * c
      let t := s.stream r
      if !t.ended ∧ t.wait = none ∧ !t.intrap ∧ addrs.contains t.pc ∧ !(s.crew (16 * g + c)).stopped then
        ((s.updStream r fun t => { t with wait := some .reconv }).switchOut r true).settleGang g
      else s) s

/-! Parks (13 R315, R321). -/

/-- A stream's instruction in hand has begun its effect and completes before a stop: a SOPEN fill, a CTXSAVE or a CTXLOAD
(13 R315). -/
def Stream.midEffect (t : Stream) : Bool :=
  match t.wait with
  | some (.sopen _ _ false) | some (.ctxsave _ _ _ _ none) | some (.ctxload _ _ none) => true
  | _ => false

/-- A crew already waits at one of the stops of a boundary park. -/
def State.atBoundary (s : State) (g k : Nat) : Bool :=
  (crewStreams (s.gang g).single k).any fun r => match (s.stream r).wait with
    | some (.cwait _) | some .waitd | some (.barwait _ _ _ _) | some (.gbar _) => true
    | _ => false

/-- Crews stop for the park their gang has been asked for: at any boundary when pre-empted, at once where they wait
otherwise; a stream in a system handler goes on until its ERET. -/
def State.stopForPark (s : State) (g : Nat) : State :=
  let x := s.gang g
  if x.req = .none ∨ x.parked then s
  else (crewsOf g x).foldl (fun s k =>
    let c := s.crew k
    let busy := (crewStreams x.single k).any fun r => (s.stream r).intrap || (s.stream r).midEffect
    if c.ended ∨ c.stopped ∨ busy then s
    else if x.req = .preempt ∨ s.atBoundary g k then s.stopCrew k
    else s) s

/-- A running island whose resident gangs are all parked enters retention (18 R427). -/
def State.settleIslands (s : State) : State :=
  { s with clusters := Tab.mapVals (fun cl (c : Cluster) =>
      let here := s.gangs.filter fun p => clusterOf p.2.core == cl && p.2.live
      if !here.isEmpty && here.all (fun p => p.2.parked) && c.island == .running then { c with island := .retention }
      else c) s.clusters }

/-- What an instruction boundary settles in every live gang and every island. -/
def State.settle (s : State) : State :=
  ((s.gangs.filter fun p => p.2.live && !p.2.parked).foldl (fun s p =>
    ((s.watchReconv p.1).wakeGang p.1).stopForPark p.1) s).settleIslands

/-! Fetching (03 R83 to R85). -/

/-- What a fetch finds: a word, a trap at the instruction, or a page to wait for. -/
inductive Fetched where
  | word (w : Word) (s : State)
  | trap (x : Trap)
  | refill (page : Nat)

/-- Fetch the word at a stream's program counter. -/
def State.fetch (s : State) (r : Nat) : Fetched :=
  let t := s.stream r
  let page := t.pc.toNat / 4096
  match (if t.captured (s.imageOf r).1 then Tab.find t.pc.toNat t.lbuf else none) with
  | some w => .word w s
  | none =>
    match Tab.find t.pc.toNat t.fetched with
    | some w => .word w s
    | none =>
      let (sup, image) := s.imageOf r
      let part := s.partNum r
      if s.imagePages r ≤ page then .trap { cause := 0x16, sub := sup.toNat, info := w64 page, mask := t.em }
      else match s.findFrame (s.coreNum r) sup part image page with
        | some f =>
          let n := s.fresh
          let s := { s with fresh := n + 1 }
          .word (f.word t.pc) (s.updCore (s.coreNum r) fun c =>
            { c with frames := c.frames.map fun g => if g = f then { g with used := n } else g })
        | none =>
          if sup ∨ page < (s.gangAt r).resident then .refill page
          else .trap { cause := 9, info := w64 page, mask := t.em }

/-! Which stream may issue. -/

/-- The other stream of a dual-stream crew. -/
def sibling (r : Nat) : Nat := if isWork r then r - 1 else r + 1

/-- The crew's other stream is in a handler, which stops this one (01 R40, 13 R309). A stream that ends by EXIT in its
handler never executes TRET, so its handler-active bit stays set and its sibling stays stopped (log entry 99). -/
def State.siblingTraps (s : State) (r : Nat) : Bool :=
  !(s.gangAt r).single && ((s.stream (sibling r)).hact || (s.stream (sibling r)).intrap)

/-- The island delivers cycles: it runs, or switches rail, which never stops its clock (18 R423). -/
def Cluster.clocked (c : Cluster) : Bool := c.island == .running || c.island == .switching

/-- HALVE: the halved cycles of a response (18 R429). -/
def Cluster.halve (c : Cluster) : Nat := bits c.droopctl.toNat 23 16

/-- A slot of the island may issue in this cycle: in a halved cycle when its count is even (18 R430). -/
def Cluster.issues (c : Cluster) : Bool := match c.droop with
  | .halve n => n % 2 == 0 || decide (c.halve ≤ n)
  | _ => true

/-- With RATION r the operand collectors of the island grant no read in the first r cycles of each window of eight
(18 R424). -/
def Cluster.rations (c : Cluster) : Bool :=
  bits c.islctl.toNat 6 4 != 0 && decide (c.cycles.toNat % 8 < bits c.islctl.toNat 6 4)

/-- The crew holds an issue slot. -/
def Crew.inSlot (c : Crew) : Bool :=
  match c.place with
  | .slot _ => true
  | _ => false

/-- The stream may issue an instruction now. -/
def State.canIssue (s : State) (r : Nat) : Bool :=
  match Tab.find r s.streams with
  | none => false
  | some t =>
    let g := s.gangAt r
    let c := s.crewAt r
    !t.ended && g.live && !g.parked && !g.halted && c.inSlot && !c.stopped && !c.ended &&
      (s.cluster (clusterOf g.core)).clocked && (s.cluster (clusterOf g.core)).issues && !s.siblingTraps r &&
      (match t.wait with
        | some (.args k pa) => t.argsCame pa || (k == 64 && !s.retraining)
        | some w => !w.blocks
        | none => true)

/-- The instruction is one that a boundary park stops before (13 R315). -/
def Instr.parkPoint : Instr → Bool
  | .gbar | .waitd | .cwait .. | .barwait .. => true
  | _ => false

/-- The acquire at device scope that a gang's first instruction and every resumption begin with (04 R103, 13 R316). -/
def State.dueAcquire (s : State) (r : Nat) : State :=
  let g := s.gangAt r
  if g.acquireDue.contains (crewNum r) then
    (s.acquire g.core 6).updGang (gangOf r) fun g => { g with acquireDue := g.acquireDue.filter (· != crewNum r) }
  else s

/-- A pending event of the stream, or the fault of its argument block, which it takes before any instruction
(13 R321, 01 R38). -/
def Stream.owed (t : Stream) : Option Trap :=
  match t.pending with
  | some x => some (if x.cause = 0x13 then { x with sub := 1 } else x)
  | none =>
    match t.argFault with
    | some x => if t.intrap then none else some { x with mask := t.em }
    | none => none

/-- The stream takes the trap it owes: a pending event, which was logged when it was raised, or the fault of an argument
block, which stands until the handler's ERET (01 R38, 13 R321). -/
def State.takeOwed (s : State) (r : Nat) (x : Trap) : State :=
  let x := { x with word := some (x.word.getD (s.spcWord r)) }
  match (s.stream r).pending with
  | some _ => (s.updStream r fun t => { t with pending := none }).deliverTrap r x
  | none => s.takeTrap r x

/-- A word that does not decode raises the illegal-instruction trap for its reserved bits (05 R121). -/
def State.badWord (s : State) (r : Nat) : State :=
  s.takeTrap r { cause := 0x10, info := w64 s.word.toNat, mask := (s.stream r).em }

/-- A fetch that finds no word. -/
def State.missWord (s : State) (r : Nat) : Fetched → State
  | .word _ s' => s'
  | .trap x => s.takeTrap r { x with word := some (s.spcWord r) }
  | .refill page => s.updStream r fun t => { t with wait := some (.refill page) }

/-- The stream whose turn it is: the one after the stream that issued last, round the streams that can issue
(log entry 1). -/
def State.nextIssuer (s : State) : Option Nat :=
  let all := (s.streams.map Prod.fst).filter s.canIssue
  match (match s.cur with | some r => all.find? (r < ·) | none => none) with
  | some r => some r
  | none => all.head?

/-- The effective class of work of a class that has aged by a number of intervals (14 R352). -/
def effClass (cls aged : Nat) : Nat := if cls = 7 then 7 else min 6 (cls + aged)

/-! Time (00 R8, R455; log entry 3). -/

/-- A period of an island's clock in twelfths of a nanosecond: 1.2 GHz or 600 MHz, divided by DIV. Before the rail switches
down the frequency has fallen (00 R8, 18 R422, R423). -/
def Cluster.period (c : Cluster) : Nat :=
  (if c.railNow && (c.island != .switching || bitOf c.islctl.toNat 0) then 10 else 20) * max 1 (bits c.islctl.toNat 11 8)

/-- The halved cycles of a response begin, or its end where none are asked for. -/
def Cluster.halving (c : Cluster) : Droop := if c.halve = 0 then .none else .halve 0

/-- The stretched cycles of a response begin, or what follows where none are asked for (18 R430). -/
def Cluster.stretching (c : Cluster) : Droop :=
  let n := bits c.droopctl.toNat 15 12
  if n = 0 then c.halving else .stretch n

/-- A cycle starts: the response to a trip begins, or goes on to its halved cycles or to its end, and the cycle's length is
fixed: one and a half periods while stretched cycles are due, otherwise one (18 R430). -/
def Cluster.startCycle (c : Cluster) : Cluster :=
  let droop := match c.droop with
    | .tripped => c.stretching
    | .stretch 0 => c.halving
    | .halve n => if c.halve ≤ n then .none else .halve n
    | d => d
  let long : Bool := match droop with | .stretch _ => true | _ => false
  { c with droop, length := if long then c.period * 3 / 2 else c.period }

/-- A cycle is delivered, and counts as a stretched or halved one of the response (00 R8, 18 R430). -/
def Cluster.endCycle (c : Cluster) : Cluster :=
  { c with
    cycles := c.cycles + 1, phase := 0,
    droop := match c.droop with | .stretch (n + 1) => .stretch n | .halve n => .halve (n + 1) | d => d }

/-- Time passes while no response is in progress: the cycle in progress ends, then cycles of one period. -/
def Cluster.deliver (c : Cluster) (units : Nat) : Cluster :=
  let first := if c.phase = 0 then c.period else c.length
  let rest := c.phase + units - first
  { c with
    cycles := c.cycles + w64 (if c.phase + units < first then 0 else 1 + rest / c.period),
    phase := if c.phase + units < first then c.phase + units else rest % c.period,
    length := if c.phase + units < first then first else c.period }

/-- Time passes, cycle by cycle while a response is in progress; the fuel bounds its cycles (18 R430). -/
def Cluster.respond : Nat → Nat → Cluster → Cluster
  | 0, units, c => c.deliver units
  | k + 1, units, c =>
    let b := if c.phase = 0 then c.startCycle else c
    if b.droop = .none then b.deliver units
    else if units = 0 then c
    else if b.phase + units < b.length then { b with phase := b.phase + units }
    else Cluster.respond k (b.phase + units - b.length) b.endCycle

/-- Time passes for an island whose clock runs (00 R8, 18 R430). -/
def Cluster.run (c : Cluster) (ns : Nat) : Cluster :=
  match c.droop with
  | .none => c.deliver (12 * ns)
  | _ =>
    let d := Cluster.respond 300 (12 * ns) c
    { c with cycles := d.cycles, phase := d.phase, length := d.length, droop := d.droop }

/-- A crew synchronises: the matrix commands it has queued were issued before, those to come are issued after (09 R240, log
entry 97). -/
def State.noteSync (s : State) (r : Nat) : State :=
  let now := s.turns
  (s.updCrew (crewOf r) fun c => { c with syncAt := now }).updStream (haulOf r) fun t =>
    { t with mxQ := t.mxQ.map fun c => { c with rel := some (c.rel.getD now) } }

/-- Time passes: nanoseconds for the package, cycles for each running cluster; sectors leave L1s, and the notices that have a
route leave the package (16 R384, 19 R449). -/
def State.tick (s : State) : State :=
  let k := s.free
  let s := { s with
    free := k + 1, turns := s.turns + 1, stalled := false,
    timestamp := s.timestamp + w64 (Config.elapsedNs k),
    notices := s.notices.filter fun x => Tab.get 0 s.routes x.1 == 0,
    clusters := Tab.mapVals (fun _ (c : Cluster) => if c.clocked then c.run (Config.elapsedNs k) else c) s.clusters }
  (s.cores.map Prod.fst).foldl (fun s c => s.evictL1 k c) s

end Sys2Proof.Machine
end

