-- ==== Sys2Proof/Machine/Float.lean ====
section
/-! DEFINITION. Floating-point arithmetic, conversion, block quantisation, the three-term split and the frozen functions,
vector and U-forms (07 R180 to R193). -/

namespace Sys2Proof.Machine

/-- What a mode set says of rounding: RND, SAT, VAR. -/
structure Rounding where
  mode : Nat
  sat : Bool
  finite : Bool
  deriving DecidableEq, Repr

/-- The rounding fields of a mode set. -/
def roundingOf (x : Word) : Rounding := ⟨modeRND x, modeSAT x, modeVAR x⟩

/-- In a U-form, stochastic rounding acts as round to nearest even (07 R180). -/
def Rounding.uniform (q : Rounding) : Rounding := if q.mode = 5 then { q with mode := 0 } else q

/-- Round an exact value to a type. -/
def Rounding.round (q : Rounding) (ty drawn : Nat) (x : XVal) : Nat := roundFloat ty q.finite q.sat q.mode drawn x

/-- The operation of an element: type, rounding, draw, a, b, old destination. -/
abbrev FloatOp := Nat → Rounding → Nat → Nat → Nat → Nat → Nat

/-- A value built from n elements of w bits in ascending order, each taking one draw if asked (02 R60). -/
def drawElems (stoch : Bool) (f : Nat → Nat → Nat) (w n : Nat) (g : Word) : Nat × Word :=
  (List.range n).foldl (fun (acc : Nat × Word) k =>
    let g := if stoch then draw acc.2 else acc.2
    (acc.1 + f k g.toNat % 2 ^ w * 2 ^ (w * k), g)) (0, g)

/-- An operation over the packed elements of its operands. -/
def floatElems (ty : Nat) (q : Rounding) (draws hasB : Bool) (bWidth : Nat) (f : FloatOp) (xs : List Nat) (g : Word) :
    Nat × Word :=
  let w := typeWidth ty
  let b := if hasB then xs.getD 1 0 else 0
  let old := xs.getD (if hasB then 2 else 1) 0
  drawElems (draws && q.mode == 5)
    (fun k d => f ty q d (subElem w (xs.getD 0 0) k) (subElem bWidth b k) (subElem w old k)) w (perLane w) g

/-- A vector floating-point instruction (07 R180). -/
def State.floatOp (s : State) (r : Nat) (ok : Nat → Bool) (m nw : Bool) (d : BitVec 6) (a : BitVec 7)
    (b : Option (BitVec 7)) (scale old draws : Bool) (f : FloatOp) : Except Stop State := do
  needWork s r
  let ty ← s.typeIn r m ok
  let t := s.stream r
  let wide := typeWidth ty == 64
  let dst : Dst := { n := d.toNat, wide, nw }
  if old then needReg s r dst.n
  let bw := if scale && wide then 32 else typeWidth ty
  let srcs : List Want := { f := a.toNat, wide } ::
    (match b with | some b => [{ f := b.toNat, wide := wide && !scale }] | none => [])
  let srcs := if old then srcs ++ [{ f := d.toNat, wide }] else srcs
  let q := roundingOf (t.mode m)
  s.aluMask r .float (t.active m) (t.guardLabel m) dst srcs (draws && q.mode == 5)
    fun _ xs g => floatElems ty q draws b.isSome bw f xs g

/-- Its U-form (07 R180). -/
def State.floatOpU (s : State) (r : Nat) (ok : Nat → Bool) (m : Bool) (d : BitVec 6) (a : BitVec 7)
    (b : Option (BitVec 7)) (scale old : Bool) (f : FloatOp) : Except Stop State := do
  needWork s r
  let ty ← s.typeIn r m ok
  let wide := typeWidth ty == 64
  let bw := if scale && wide then 32 else typeWidth ty
  let srcs : List Want := { f := a.toNat, wide } ::
    (match b with | some b => [{ f := b.toNat, wide := wide && !scale }] | none => [])
  let q := (roundingOf ((s.stream r).mode m)).uniform
  s.aluU r .float d.toNat wide old 0 srcs fun xs => (floatElems ty q false b.isSome bw f xs 0).1

/-- The types that FCLASS allows. -/
def classType (t : Nat) : Bool := decide (10 ≤ t) && decide (t < 31)
/-- The types of the frozen functions (07 R193). -/
def frozenType (t : Nat) : Bool := t == 10 || t == 11 || t == 12

/-! The operations of an element (07 R181 to R186). -/

def opFadd : FloatOp := fun ty q d a b _ =>
  q.round ty d (XVal.add (q.mode == 3) (decodeFloat ty false a) (decodeFloat ty false b))
def opFsub : FloatOp := fun ty q d a b _ =>
  q.round ty d (XVal.add (q.mode == 3) (decodeFloat ty false a) (decodeFloat ty false b).neg)
def opFmul : FloatOp := fun ty q d a b _ => q.round ty d (XVal.mul (decodeFloat ty false a) (decodeFloat ty false b))
def opFfma : FloatOp := fun ty q d a b o =>
  q.round ty d (XVal.add (q.mode == 3) (XVal.mul (decodeFloat ty false a) (decodeFloat ty false b)) (decodeFloat ty false o))

/-- The lesser or greater of two codes; -0 lies below +0, and one NaN gives the other operand (07 R182). -/
def pickFloat (ty : Nat) (most : Bool) (a b : Nat) : Nat :=
  let x := decodeFloat ty false a
  let y := decodeFloat ty false b
  match x.cmp y with
  | none => if x.isNan then (if y.isNan then (fmtOf ty).nanCode else b) else a
  | some z =>
    let aLess := if z = 0 then x.isNeg else decide (z < 0)
    if aLess != most then a else b

def opFmin : FloatOp := fun ty _ _ a b _ => pickFloat ty false a b
def opFmax : FloatOp := fun ty _ _ a b _ => pickFloat ty true a b

/-- A code with its sign bit cleared or inverted; a NaN becomes canonical (07 R183). -/
def signOp (ty : Nat) (flip : Bool) (a : Nat) : Nat :=
  let w := typeWidth ty
  if (decodeFloat ty false a).isNan then (fmtOf ty).nanCode
  else
    let body := a % 2 ^ (w - 1)
    if flip ∧ !bitOf a (w - 1) then 2 ^ (w - 1) + body else body

def opFabs : FloatOp := fun ty _ _ a _ _ => signOp ty false a
def opFneg : FloatOp := fun ty _ _ a _ _ => signOp ty true a
def opFclass : FloatOp := fun ty q _ a _ _ => classOf ty q.finite a

/-- The value is an integer, a zero or an infinity. -/
def XVal.integral : XVal → Bool
  | .nan => false
  | .inf _ => true
  | .fin _ m e => m == 0 || decide (0 ≤ e) || m % 2 ^ (-e).toNat == 0

def opFrnd : FloatOp := fun ty q d a _ _ =>
  match decodeFloat ty false a with
  | .nan => (fmtOf ty).nanCode
  | .inf n => (fmtOf ty).withSign n (fmtOf ty).infBody
  | .fin n m e =>
    if (XVal.fin n m e).integral then a
    else roundFloat ty false false 0 0 (.fin n (roundMag q.mode n d m (-e).toNat) 0)

/-- FSCALE's shift, whose effect beyond 5,000 either way is that of 5,000. -/
def opFscale : FloatOp := fun ty q d a b _ =>
  let x := decodeFloat ty false a
  let n := signed (if typeWidth ty = 16 then 16 else 32) b
  match x with
  | .nan => (fmtOf ty).nanCode
  | .inf _ => a
  | .fin _ m _ => if m = 0 then a else q.round ty d (x.scale (max (-5000) (min 5000 n)))

/-- A frozen function of an element, rounded once to nearest even (02 R65). -/
def opFrozen (g : Frozen) : FloatOp := fun ty _ _ a _ _ =>
  roundFloat ty false false 0 0 (frozenEval g (decodeFloat ty false a))

/-! Conversion (07 R187, R188). -/

/-- One converted element. -/
def convElem (src : Nat) (srcFinite : Bool) (dst : Nat) (q : Rounding) (d x : Nat) : Nat :=
  if isInt src then
    if isInt dst then narrow dst q.sat (intOf src x) else q.round dst d (XVal.ofInt (intOf src x))
  else
    let v := decodeFloat src srcFinite x
    if isInt dst then floatToInt dst q.mode d v
    else if src = dst then (if v.isNan then (fmtOf dst).nanCode else x)
    else q.round dst d v
where
  /-- An integer element as its type reads it. -/
  intOf (t x : Nat) : Int := if isSigned t then signed (typeWidth t) x else ((x % 2 ^ typeWidth t : Nat) : Int)

/-- A converted lane: source value, old destination, generator. -/
def convLane (src : Nat) (srcFinite : Bool) (dst : Nat) (q : Rounding) (part x old : Nat) (g : Word) : Nat × Word :=
  let sw := typeWidth src
  let dw := typeWidth dst
  let k := min (perLane sw) (perLane dw)
  let first := if perLane sw > perLane dw then part * k else 0
  let stoch := q.mode == 5 && !(isInt src && isInt dst)
  let (v, g) := drawElems stoch (fun j d => convElem src srcFinite dst q d (subElem sw x (first + j))) dw k g
  if perLane sw < perLane dw then
    let lo := dw * (part * k)
    let n := dw * k
    (old % 2 ^ lo + v * 2 ^ lo + old / 2 ^ (lo + n) * 2 ^ (lo + n), g)
  else (v, g)

/-- The part field is in range (07 R187). -/
def partOk (src dst part : Nat) : Bool :=
  let cs := perLane (typeWidth src)
  let cd := perLane (typeWidth dst)
  decide (part ≤ max cs cd / min cs cd - 1)

/-- CVT (07 R187). -/
def State.cvtOp (s : State) (r : Nat) (nw : Bool) (d : BitVec 6) (a : BitVec 7) (part : BitVec 3) : Except Stop State := do
  needWork s r
  let t := s.stream r
  let src := modeTYPE t.mode0
  let dst := modeTYPE t.mode1
  need s r 3 (partOk src dst part.toNat)
  let wideD := typeWidth dst == 64
  let keep := decide (perLane (typeWidth src) < perLane (typeWidth dst)) && decide (d.toNat < 56)
  let srcs : List Want := { f := a.toNat, wide := typeWidth src == 64 } :: (if keep then [{ f := d.toNat }] else [])
  let q := roundingOf t.mode1
  s.aluMask r .float (t.active false) (t.guardLabel false) { n := d.toNat, wide := wideD, nw } srcs (q.mode == 5)
    fun _ xs g => convLane src (modeVAR t.mode0) dst q part.toNat (xs.getD 0 0) (xs.getD 1 0) g

/-- The U-form of CVT (07 R187). -/
def State.cvtOpU (s : State) (r : Nat) (d : BitVec 6) (a : BitVec 7) (part : BitVec 3) : Except Stop State := do
  needWork s r
  let t := s.stream r
  let src := modeTYPE t.mode0
  let dst := modeTYPE t.mode1
  need s r 3 (partOk src dst part.toNat)
  let keep := decide (perLane (typeWidth src) < perLane (typeWidth dst))
  let q := (roundingOf t.mode1).uniform
  s.aluU r .float d.toNat (typeWidth dst == 64) keep 0 [{ f := a.toNat, wide := typeWidth src == 64 }]
    fun xs => (convLane src (modeVAR t.mode0) dst q part.toNat (xs.getD 0 0) (xs.getD 1 0) 0).1

/-! Block quantisation (07 R189 to R191). -/

/-- Elements per block (02 R56). -/
def blockLen (code : Nat) : Nat := if code = 0 then 48 else if code = 1 then 24 else if code = 2 then 96 else 192

/-- A finite magnitude is at most another. -/
def magLe (a b : Nat × Int) : Bool :=
  let k := min a.2 b.2
  decide (a.1 * 2 ^ (a.2 - k).toNat ≤ b.1 * 2 ^ (b.2 - k).toNat)

/-- The largest finite magnitude of a list of values; zero if there is none. -/
def largestMag (xs : List XVal) : Nat × Int :=
  xs.foldl (fun acc x => match x with
    | .fin _ m e => if magLe (m, e) acc then acc else (m, e)
    | _ => acc) (0, 0)

/-- The code of the least scale at or above amax / big; 1.0 for a block of zeros, the largest where none is (07 R190). -/
def scaleCode (scl : Bool) (big amax : Nat × Int) : Nat :=
  if amax.1 = 0 then 0x80
  else
    let fits (c : Nat) : Bool := match decodeScale scl c with
      | .fin _ m e => magLe amax (m * big.1, e + big.2)
      | _ => false
    ((List.range 254).map (· + 1)).find? fits |>.getD 0xFE

/-- A quotient by a finite positive value, to 200 bits with a last bit that stands for the rest, so that rounding it to
any 8-bit format gives what rounding the exact quotient gives. -/
def XVal.quot (x y : XVal) : XVal :=
  match x, y with
  | .fin n m e, .fin _ k f =>
    let q := m * 2 ^ 200 / k
    .fin n (2 * q + (m * 2 ^ 200 % k != 0).toNat) (e - f - 201)
  | x, _ => x

/-- One element of the quantised row: its number, the register offset, lane and sub-element it goes to. -/
structure QElem where
  e : Nat
  reg : Nat
  lane : Nat
  sub : Nat
  deriving DecidableEq, Repr

/-- Where element e goes (07 R189). -/
def qElem (b4 : Bool) (half e : Nat) : QElem :=
  let per := if b4 then 8 else 4
  let pos := if b4 then 384 * half + e else e
  ⟨e, pos / per / 32, pos / per % 32, pos % per⟩

/-- A part of a word replaced. -/
def putSub (w x k v : Nat) : Nat := x - subElem w x k * 2 ^ (w * k) + v % 2 ^ w * 2 ^ (w * k)

/-- The result of FQBLK: the four registers, their masks of words written, the generators. -/
structure QRow where
  regs : List Vec
  masks : List Word
  gen : List Word

/-- The exact value of source element e. -/
def qSource (t : Stream) (a src : Nat) (e : Nat) : XVal × Label :=
  let w := typeWidth src
  let c := perLane w
  let x := (t.vreg (a + e / c / 32)).lane (e / c % 32)
  (decodeFloat src false (subElem w x.v.toNat (e % c)), x.l)

/-- FQBLK on a stream: its row in registers (07 R190, R191). -/
def quantise (t : Stream) (d a half : Nat) : QRow :=
  let src := modeTYPE t.mode0
  let dt := modeTYPE t.mode1
  let b4 := isB4 dt
  let w := typeWidth dt
  let q := roundingOf t.mode1
  let scl := modeSCL t.mode1
  let len := blockLen (modeBLK t.mode1)
  let n := 384 / len
  let act := t.active false
  let els := ((List.range 384).map (qElem b4 half)).filter fun x => inMask act x.lane
  let f := fmtOf dt
  let big := f.magnitude (f.maxBody q.finite)
  let codes := (List.range n).map fun i =>
    scaleCode scl big (largestMag ((els.filter fun x => x.e / len == i).map fun x => (qSource t a src x.e).1))
  let lab := els.foldl (fun l x => Label.join l (qSource t a src x.e).2) (t.guardLabel false)
  let olds := (List.range 4).map fun k => t.vreg (d + k)
  -- Elements in ascending order, each with the draw of its destination lane.
  let (data, gen) := els.foldl (fun (acc : List Vec × List Word) x =>
    let g := acc.2.getD x.lane 0
    let g := if q.mode = 5 then draw g else g
    let y := q.round dt g.toNat ((qSource t a src x.e).1.quot (decodeScale scl (codes.getD (x.e / len) 0)))
    let v := acc.1.getD x.reg []
    let word : LV := ⟨w32 (putSub w (v.lane x.lane).v.toNat x.sub y), lab⟩
    (acc.1.set x.reg (Vec.ofFn fun i => if i = x.lane then word else v.lane i), acc.2.set x.lane g))
    (olds, (List.range 32).map t.genLane)
  let scaleByte (j : Nat) : Option Nat :=
    if b4 then (if half * n ≤ j ∧ j < half * n + n then some (codes.getD (j - half * n) 0) else none)
    else some (if j < n then codes.getD j 0 else 0)
  let old3 := olds.getD 3 []
  let sreg := Vec.ofFn fun i =>
    if i < 4 then
      let word := (List.range 4).foldl (fun x k => match scaleByte (4 * i + k) with
        | some c => putSub 8 x k c
        | none => x) (old3.lane i).v.toNat
      if (List.range 4).any fun k => (scaleByte (4 * i + k)).isSome then ⟨w32 word, lab⟩ else old3.lane i
    else old3.lane i
  let written (k : Nat) : Word := maskOf (distinctLanes ((els.filter fun x => x.reg == k).map (·.lane)))
  if act = 0 then ⟨olds, [0, 0, 0, 0], gen⟩
  else ⟨(data.take 3) ++ [sreg], [written 0, written 1, written 2, 1], gen⟩
where
  /-- Lanes without repeats. -/
  distinctLanes : List Nat → List Nat
    | [] => []
    | x :: rest => if rest.contains x then distinctLanes rest else x :: distinctLanes rest

/-- Stall while a register that an instruction reads or writes waits for an earlier load (05 R128). -/
def needArrived (s : State) (r : Nat) (regs : List Nat) : Except Stop Unit :=
  if regs.any (s.stream r).awaited then .error (.stall (s.awaitData r)) else .ok ()

/-- FQBLK (07 R189). -/
def execFqblk (nw : Bool) (d : BitVec 6) (a : BitVec 7) (half : Bool) (s : State) : Host.Outcome State Fault Refusal :=
  run s fun r => do
    needWork s r
    let t := s.stream r
    let src := modeTYPE t.mode0
    let dt := modeTYPE t.mode1
    let count := if src = 12 then 12 else 6
    need s r 2 (frozenType src && (isB4 dt || isB8 dt) && !(isB4 dt && modeBLK t.mode1 == 1))
    need s r 3 (decide (a.toNat + count ≤ 56) && decide (d.toNat + 3 < 56) && !(half && isB8 dt))
    needArrived s r ((List.range count).map (a.toNat + ·) ++ (List.range 4).map (d.toNat + ·))
    let row := quantise t d.toNat a.toNat half.toNat
    let s' := (s.noteBanks r ((List.range count).map (a.toNat + ·))).updStream r fun t =>
      let t := (List.range 4).foldl (fun t k =>
        if row.masks.getD k 0 = 0 then t
        else
          let v := row.regs.getD k []
          let t := t.shift v
          if nw then t else (t.setV (d.toNat + k) v).cleanReg (d.toNat + k) (row.masks.getD k 0)) t
      if modeRND t.mode1 = 5 then { t with gen := row.gen } else t
    return s'.complete r .float count 0

/-! Three-term split (07 R192). -/

/-- The three terms of a value in a type. -/
def splitTerms (dst : Nat) (x : XVal) : List Nat :=
  let f := fmtOf dst
  match x with
  | .nan => [f.nanCode, f.nanCode, f.nanCode]
  | .inf n => [f.withSign n f.infBody, f.withSign n 0, f.withSign n 0]
  | .fin n _ _ =>
    let cut (y : XVal) : Nat := roundFloat dst false false 1 0 y
    let sub (y : XVal) (c : Nat) : XVal :=
      let z := XVal.add false y (decodeFloat dst false c).neg
      if z.isZero then .fin n 0 0 else z
    let hi := cut x
    let rest := sub x hi
    let mid := cut rest
    [hi, mid, cut (sub rest mid)]

/-- FSPLIT3 (07 R192). -/
def execFsplit3 (nw : Bool) (d : BitVec 6) (a : BitVec 7) (part : Bool) (s : State) : Host.Outcome State Fault Refusal :=
  run s fun r => do
    needWork s r
    let t := s.stream r
    let src := modeTYPE t.mode0
    let dt := modeTYPE t.mode1
    let toBf := src == 12 && dt == 11
    need s r 2 (toBf || (src == 13 && dt == 12))
    need s r 3 ((toBf || !part) && decide (d.toNat + 2 < 56))
    let mask := t.active false
    let dregs : List Want := (List.range 3).map fun k => { f := d.toNat + k }
    let p ← s.peek r mask ({ f := a.toNat, wide := src == 13 } :: if toBf then dregs else []) none
    needArrived s r ((List.range 3).map (d.toNat + ·))
    let terms (i : Nat) : List Nat := splitTerms dt (decodeFloat src false (p.val 0 i))
    let s' := (State.commit r p).updStream r fun t => (List.range 3).foldl (fun t k =>
      t.putReg (d.toNat + k) nw mask fun i =>
        let x := (terms i).getD k 0
        let old := (t.vreg (d.toNat + k)).lane i
        let l := Label.join (p.lab 0 i) (t.guardLabel false)
        if toBf then ⟨w32 (putSub 16 old.v.toNat part.toNat x), Label.join l old.l⟩ else ⟨w32 x, l⟩) t
    return s'.complete r .float p.regs 0

/-! The instructions. -/

/-- FADD (07 R181). -/
def execFadd (nw : Bool) (d : BitVec 6) (a b : BitVec 7) (m : Bool) (s : State) : Host.Outcome State Fault Refusal :=
  run s fun r => s.floatOp r isIeee m nw d a (some b) false false true opFadd

/-- FSUB (07 R181). -/
def execFsub (nw : Bool) (d : BitVec 6) (a b : BitVec 7) (m : Bool) (s : State) : Host.Outcome State Fault Refusal :=
  run s fun r => s.floatOp r isIeee m nw d a (some b) false false true opFsub

/-- FMUL (07 R181). -/
def execFmul (nw : Bool) (d : BitVec 6) (a b : BitVec 7) (m : Bool) (s : State) : Host.Outcome State Fault Refusal :=
  run s fun r => s.floatOp r isIeee m nw d a (some b) false false true opFmul

/-- FFMA (07 R181). -/
def execFfma (nw : Bool) (d : BitVec 6) (a b : BitVec 7) (m : Bool) (s : State) : Host.Outcome State Fault Refusal :=
  run s fun r => s.floatOp r isIeee m nw d a (some b) false true true opFfma

/-- FMIN (07 R182). -/
def execFmin (nw : Bool) (d : BitVec 6) (a b : BitVec 7) (m : Bool) (s : State) : Host.Outcome State Fault Refusal :=
  run s fun r => s.floatOp r isIeee m nw d a (some b) false false false opFmin

/-- FMAX (07 R182). -/
def execFmax (nw : Bool) (d : BitVec 6) (a b : BitVec 7) (m : Bool) (s : State) : Host.Outcome State Fault Refusal :=
  run s fun r => s.floatOp r isIeee m nw d a (some b) false false false opFmax

/-- FABS (07 R183). -/
def execFabs (nw : Bool) (d : BitVec 6) (a : BitVec 7) (m : Bool) (s : State) : Host.Outcome State Fault Refusal :=
  run s fun r => s.floatOp r isIeee m nw d a none false false false opFabs

/-- FNEG (07 R183). -/
def execFneg (nw : Bool) (d : BitVec 6) (a : BitVec 7) (m : Bool) (s : State) : Host.Outcome State Fault Refusal :=
  run s fun r => s.floatOp r isIeee m nw d a none false false false opFneg

/-- FCLASS (07 R184). -/
def execFclass (nw : Bool) (d : BitVec 6) (a : BitVec 7) (m : Bool) (s : State) : Host.Outcome State Fault Refusal :=
  run s fun r => s.floatOp r classType m nw d a none false false false opFclass

/-- FRND (07 R185). -/
def execFrnd (nw : Bool) (d : BitVec 6) (a : BitVec 7) (m : Bool) (s : State) : Host.Outcome State Fault Refusal :=
  run s fun r => s.floatOp r isIeee m nw d a none false false true opFrnd

/-- FSCALE (07 R186). -/
def execFscale (nw : Bool) (d : BitVec 6) (a b : BitVec 7) (m : Bool) (s : State) : Host.Outcome State Fault Refusal :=
  run s fun r => s.floatOp r isIeee m nw d a (some b) true false true opFscale

/-- FRCP (07 R193). -/
def execFrcp (nw : Bool) (d : BitVec 6) (a : BitVec 7) (m : Bool) (s : State) : Host.Outcome State Fault Refusal :=
  run s fun r => s.floatOp r frozenType m nw d a none false false false (opFrozen .rcp)

/-- FRSQ (07 R193). -/
def execFrsq (nw : Bool) (d : BitVec 6) (a : BitVec 7) (m : Bool) (s : State) : Host.Outcome State Fault Refusal :=
  run s fun r => s.floatOp r frozenType m nw d a none false false false (opFrozen .rsq)

/-- FEXP2 (07 R193). -/
def execFexp2 (nw : Bool) (d : BitVec 6) (a : BitVec 7) (m : Bool) (s : State) : Host.Outcome State Fault Refusal :=
  run s fun r => s.floatOp r frozenType m nw d a none false false false (opFrozen .exp2)

/-- FLOG2 (07 R193). -/
def execFlog2 (nw : Bool) (d : BitVec 6) (a : BitVec 7) (m : Bool) (s : State) : Host.Outcome State Fault Refusal :=
  run s fun r => s.floatOp r frozenType m nw d a none false false false (opFrozen .log2)

/-- FSINP (07 R193). -/
def execFsinp (nw : Bool) (d : BitVec 6) (a : BitVec 7) (m : Bool) (s : State) : Host.Outcome State Fault Refusal :=
  run s fun r => s.floatOp r frozenType m nw d a none false false false (opFrozen .sinp)

/-- FCOSP (07 R193). -/
def execFcosp (nw : Bool) (d : BitVec 6) (a : BitVec 7) (m : Bool) (s : State) : Host.Outcome State Fault Refusal :=
  run s fun r => s.floatOp r frozenType m nw d a none false false false (opFrozen .cosp)

/-- FTANH (07 R193). -/
def execFtanh (nw : Bool) (d : BitVec 6) (a : BitVec 7) (m : Bool) (s : State) : Host.Outcome State Fault Refusal :=
  run s fun r => s.floatOp r frozenType m nw d a none false false false (opFrozen .tanh)

/-- FADD (U-form) (07 R181). -/
def execFaddU (d : BitVec 6) (a b : BitVec 7) (m : Bool) (s : State) : Host.Outcome State Fault Refusal :=
  run s fun r => s.floatOpU r isIeee m d a (some b) false false opFadd

/-- FSUB (U-form) (07 R181). -/
def execFsubU (d : BitVec 6) (a b : BitVec 7) (m : Bool) (s : State) : Host.Outcome State Fault Refusal :=
  run s fun r => s.floatOpU r isIeee m d a (some b) false false opFsub

/-- FMUL (U-form) (07 R181). -/
def execFmulU (d : BitVec 6) (a b : BitVec 7) (m : Bool) (s : State) : Host.Outcome State Fault Refusal :=
  run s fun r => s.floatOpU r isIeee m d a (some b) false false opFmul

/-- FFMA (U-form) (07 R181). -/
def execFfmaU (d : BitVec 6) (a b : BitVec 7) (m : Bool) (s : State) : Host.Outcome State Fault Refusal :=
  run s fun r => s.floatOpU r isIeee m d a (some b) false true opFfma

/-- FMIN (U-form) (07 R182). -/
def execFminU (d : BitVec 6) (a b : BitVec 7) (m : Bool) (s : State) : Host.Outcome State Fault Refusal :=
  run s fun r => s.floatOpU r isIeee m d a (some b) false false opFmin

/-- FMAX (U-form) (07 R182). -/
def execFmaxU (d : BitVec 6) (a b : BitVec 7) (m : Bool) (s : State) : Host.Outcome State Fault Refusal :=
  run s fun r => s.floatOpU r isIeee m d a (some b) false false opFmax

/-- FABS (U-form) (07 R183). -/
def execFabsU (d : BitVec 6) (a : BitVec 7) (m : Bool) (s : State) : Host.Outcome State Fault Refusal :=
  run s fun r => s.floatOpU r isIeee m d a none false false opFabs

/-- FNEG (U-form) (07 R183). -/
def execFnegU (d : BitVec 6) (a : BitVec 7) (m : Bool) (s : State) : Host.Outcome State Fault Refusal :=
  run s fun r => s.floatOpU r isIeee m d a none false false opFneg

/-- FCLASS (U-form) (07 R184). -/
def execFclassU (d : BitVec 6) (a : BitVec 7) (m : Bool) (s : State) : Host.Outcome State Fault Refusal :=
  run s fun r => s.floatOpU r classType m d a none false false opFclass

/-- FRND (U-form) (07 R185). -/
def execFrndU (d : BitVec 6) (a : BitVec 7) (m : Bool) (s : State) : Host.Outcome State Fault Refusal :=
  run s fun r => s.floatOpU r isIeee m d a none false false opFrnd

/-- FSCALE (U-form) (07 R186). -/
def execFscaleU (d : BitVec 6) (a b : BitVec 7) (m : Bool) (s : State) : Host.Outcome State Fault Refusal :=
  run s fun r => s.floatOpU r isIeee m d a (some b) true false opFscale

/-- FRCP (U-form) (07 R193). -/
def execFrcpU (d : BitVec 6) (a : BitVec 7) (m : Bool) (s : State) : Host.Outcome State Fault Refusal :=
  run s fun r => s.floatOpU r frozenType m d a none false false (opFrozen .rcp)

/-- FRSQ (U-form) (07 R193). -/
def execFrsqU (d : BitVec 6) (a : BitVec 7) (m : Bool) (s : State) : Host.Outcome State Fault Refusal :=
  run s fun r => s.floatOpU r frozenType m d a none false false (opFrozen .rsq)

/-- FEXP2 (U-form) (07 R193). -/
def execFexp2U (d : BitVec 6) (a : BitVec 7) (m : Bool) (s : State) : Host.Outcome State Fault Refusal :=
  run s fun r => s.floatOpU r frozenType m d a none false false (opFrozen .exp2)

/-- FLOG2 (U-form) (07 R193). -/
def execFlog2U (d : BitVec 6) (a : BitVec 7) (m : Bool) (s : State) : Host.Outcome State Fault Refusal :=
  run s fun r => s.floatOpU r frozenType m d a none false false (opFrozen .log2)

/-- FSINP (U-form) (07 R193). -/
def execFsinpU (d : BitVec 6) (a : BitVec 7) (m : Bool) (s : State) : Host.Outcome State Fault Refusal :=
  run s fun r => s.floatOpU r frozenType m d a none false false (opFrozen .sinp)

/-- FCOSP (U-form) (07 R193). -/
def execFcospU (d : BitVec 6) (a : BitVec 7) (m : Bool) (s : State) : Host.Outcome State Fault Refusal :=
  run s fun r => s.floatOpU r frozenType m d a none false false (opFrozen .cosp)

/-- FTANH (U-form) (07 R193). -/
def execFtanhU (d : BitVec 6) (a : BitVec 7) (m : Bool) (s : State) : Host.Outcome State Fault Refusal :=
  run s fun r => s.floatOpU r frozenType m d a none false false (opFrozen .tanh)

/-- CVT (07 R187). -/
def execCvt (nw : Bool) (d : BitVec 6) (a : BitVec 7) (part : BitVec 3) (s : State) : Host.Outcome State Fault Refusal :=
  run s fun r => s.cvtOp r nw d a part

/-- CVT (U-form) (07 R187). -/
def execCvtU (d : BitVec 6) (a : BitVec 7) (part : BitVec 3) (s : State) : Host.Outcome State Fault Refusal :=
  run s fun r => s.cvtOpU r d a part

end Sys2Proof.Machine
end

