-- ==== Sys2Proof/Machine/LoadStore.lean ====
section
/-! DEFINITION. Loads and stores of memory and scratchpad, queue loads and stores, the arrival of late load data, the
fence, cache maintenance and stream-port binding (08 R201 to R210, R214, R231 to R233). -/

namespace Sys2Proof.Machine

/-! The access field (08 R201). -/

/-- What an access field asks: the offset in elements, the order and the scope; order 4 for a plain access. -/
structure Access where
  k : Int
  order : Nat
  scope : Nat
  deriving DecidableEq, Repr

/-- A load reads at the coherence point: every acquire and every scoped relaxed load (04 R111, 08 R205). -/
def Access.reads (x : Access) : Bool := x.order != 4
/-- A store is performed at the coherence point (08 R201). -/
def Access.coherent (x : Access) : Bool := x.order != 4 && decide (4 ≤ x.scope)
/-- The access acquires. -/
def Access.acquires (x : Access) : Bool := x.order == 1 || x.order == 3
/-- The access releases. -/
def Access.releases (x : Access) : Bool := x.order == 2 || x.order == 3

/-- Read an access field, with the orders the entry allows. -/
def State.accessOf (s : State) (r imm : Nat) (orders : List Nat) : Except Stop Access :=
  if !bitOf imm 6 then .ok ⟨signed 6 imm, 4, 0⟩
  else do
    need s r 0 (decide (bits imm 3 0 < 9) && orders.contains (bits imm 5 4))
    return ⟨0, bits imm 5 4, bits imm 3 0⟩

/-- A fault of an instruction that acts once per execution is one of the stream: its lanes are the whole EM. -/
def onStream {α : Type} (em : Word) : Except Stop α → Except Stop α
  | .error (.trap t) => .error (.trap { t with mask := em })
  | x => x

/-- The width of an access under the m-selected TYPE. -/
def Stream.accWidth (t : Stream) (m : Bool) : Nat := typeWidth (modeTYPE (t.mode m))

/-- The acquire that an acquiring access ends with (04 R113). -/
def State.acquireIf (s : State) (r : Nat) (x : Access) : State :=
  if x.acquires then s.acquire (s.coreNum r) x.scope else s

/-- The scope of the release that a releasing store begins with. -/
def Access.release (x : Access) : Option Nat := if x.releases then some x.scope else none

/-- The lane values that a load gives, extended (08 R202). -/
def Loaded.lane (x : Loaded) (ty w i : Nat) : Nat × Label :=
  match x.vals.find? fun v => v.1 == i with
  | some v => (extendElem ty w v.2.1, v.2.2)
  | none => (0, 0)

/-! Loads whose data come later (05 R128; log entry 3). -/

/-- A latch that waits for the data of a load. -/
def Stream.shiftAwait (t : Stream) (id : Nat) : Stream := { t with latches := ⟨none, some id⟩ :: t.latches.take 7 }

/-- The registers a load fills and the vectors it will put there. -/
def Stream.lateVecs (t : Stream) (d : Dst) (mask : Word) (f : Nat → Nat × Label) : List (Nat × Vec) :=
  (List.range (if d.wide then 2 else 1)).map fun k => (d.n + k, (t.vreg (d.n + k)).merge mask fun i => halfLane (f i) k)

/-- Write a load's result: at once, or, for a register where data come late, when they arrive. -/
def State.loadResult (s : State) (r : Nat) (d : Dst) (mask : Word) (f : Nat → Nat × Label) : Except Stop State :=
  if s.lateLoads ∧ d.n < 56 then
    let (id, s) := s.freshNum
    .ok (s.updStream r fun t =>
      let vs := t.lateVecs d mask f
      let p : PendingLoad := ⟨id, if d.nw then [] else vs, mask, vs.map Prod.snd, none⟩
      let t := vs.foldl (fun t _ => t.shiftAwait id) t
      { t with loads := t.loads ++ [p] })
  else s.writeDst r d mask f

/-- Fill the latches that wait for a load: the deepest takes the earliest vector still held. -/
def fillLatches (id : Nat) (vecs : List Vec) (ls : List Latch) : List Latch :=
  let due := (ls.filter fun l => l.awaits == some id).length
  let step (acc : List Latch × List Vec) (l : Latch) : List Latch × List Vec :=
    if l.awaits = some id then (acc.1 ++ [⟨some (acc.2.headD Vec.zero), none⟩], acc.2.drop 1) else (acc.1 ++ [l], acc.2)
  -- Latch 0 holds the vector shifted last.
  (ls.foldl step ([], (vecs.drop (vecs.length - due)).reverse)).1

/-- The data of a load arrive: its registers, latches and queue entry are filled, and the stream waits no more but where it finds
other data still to come (05 R128, 01 R19, 18 R425; log entry 113). -/
def onLoadDataArrival (e : Ev) (s : State) : Option State :=
  let r := e.n0
  let t := s.stream r
  match t.loads.find? fun p => p.id == e.n1 with
  | none => none
  | some p =>
    let s := s.updStream r fun t =>
      let t := p.dst.foldl (fun t d => (t.setV d.1 d.2).cleanReg d.1 p.mask) t
      { t with
        loads := t.loads.filter (·.id != p.id), latches := fillLatches p.id p.latches t.latches, dataWait := none,
        drowsy := false }
    match p.queue with
    | none => some s
    | some q => some (s.updCrew (crewOf r) fun c =>
        { c with loadQ := Tab.put q ((Tab.get [] c.loadQ q).map fun x =>
            if x.awaits = some p.id then { x with awaits := none } else x) c.loadQ })

/-- LOAD_DATA_ARRIVAL (05 R128). -/
def execLoadDataArrival (s : State) : Host.Outcome State Fault Refusal := event s onLoadDataArrival

/-! Loads and stores of memory (08 R206, R208). -/

/-- The address operand: a 64-bit pair (08 R202). -/
def addrWant (a : BitVec 7) : Want := { f := a.toNat, wide := true }

/-- LD (08 R206). -/
def execLd (hint : BitVec 2) (nw : Bool) (d : BitVec 6) (a imm : BitVec 7) (m : Bool) (s : State) :
    Host.Outcome State Fault Refusal :=
  run s fun r => do
    needHaul s r
    let x ← s.accessOf r imm.toNat [0, 1]
    let t := s.stream r
    let w := t.accWidth m
    let dst : Dst := { n := d.toNat, wide := w == 64, nw }
    let act := t.active m
    let p ← s.peek r act [addrWant a] (some dst)
    let l ← p.st.loadLanes r x.reads hint.toNat ((lanesOf act).map fun i => laneAsk w x.k i (p.val 0 i))
    let s' ← (l.st.acquireIf r x).loadResult r dst act (l.lane (modeTYPE (t.mode m)) w)
    return s'.complete r .memory p.regs l.lines

/-- ST (08 R206). -/
def execSt (hint : BitVec 2) (d : BitVec 6) (a imm : BitVec 7) (m : Bool) (s : State) :
    Host.Outcome State Fault Refusal :=
  run s fun r => do
    needHaul s r
    let x ← s.accessOf r imm.toNat [0, 2]
    let t := s.stream r
    let w := t.accWidth m
    let act := t.active m
    let p ← s.peek r act [addrWant a, { f := d.toNat, wide := w == 64, allow := .data }] none
    let (s', lines) ← p.st.storeLanes r x.coherent hint.toNat x.release
      ((lanesOf act).map fun i => (laneAsk w x.k i (p.val 0 i), p.val 1 i, p.lab 1 i))
    return (State.commit r { p with st := s' }).complete r .memory p.regs lines

/-- The address operand of a once-per-execution instruction: a uniform pair (08 R208). -/
def uniWant (a : BitVec 7) : Want := { f := a.toNat, wide := true, allow := .uni }

/-- LDU (08 R208). -/
def execLdu (hint : BitVec 2) (d : BitVec 6) (a imm : BitVec 7) (m : Bool) (s : State) :
    Host.Outcome State Fault Refusal :=
  run s fun r => do
    needHaul s r
    let x ← s.accessOf r imm.toNat [0, 1]
    let t := s.stream r
    let w := t.accWidth m
    need s r 3 (decide (d.toNat < 32) && (w != 64 || d.toNat % 2 == 0))
    let p ← s.peek r 0 [uniWant a] none
    let l ← onStream t.em (p.st.loadLanes r x.reads hint.toNat [laneAsk w x.k 0 (p.val 0 0)])
    let v := l.lane (modeTYPE (t.mode m)) w 0
    return ((l.st.acquireIf r x).updStream r fun t => t.putC d.toNat (w == 64) v.1 v.2).complete r .memory p.regs l.lines

/-- STU (08 R208). -/
def execStu (hint : BitVec 2) (d : BitVec 6) (a imm : BitVec 7) (m : Bool) (s : State) :
    Host.Outcome State Fault Refusal :=
  run s fun r => do
    needHaul s r
    let x ← s.accessOf r imm.toNat [0, 2]
    let t := s.stream r
    let w := t.accWidth m
    need s r 3 (decide (d.toNat < 32))
    let p ← s.peek r 0 [uniWant a, { f := 80 + d.toNat, wide := w == 64, allow := .uni }] none
    let (s', lines) ← onStream t.em (p.st.storeLanes r x.coherent hint.toNat x.release
      [(laneAsk w x.k 0 (p.val 0 0), p.val 1 0, p.lab 1 0)])
    return s'.complete r .memory p.regs lines

/-! Scratchpad (08 R207). -/

/-- LDS (08 R207). -/
def execLds (nw : Bool) (d : BitVec 6) (a imm : BitVec 7) (m : Bool) (s : State) : Host.Outcome State Fault Refusal :=
  run s fun r => do
    needHaul s r
    let t := s.stream r
    let w := t.accWidth m
    let dst : Dst := { n := d.toNat, wide := w == 64, nw }
    let act := t.active m
    let p ← s.peek r act [{ f := a.toNat }] (some dst)
    let l ← p.st.loadScratch r ((lanesOf act).map fun i => spAsk w (signed 7 imm.toNat) i (p.val 0 i))
    let s' ← l.st.loadResult r dst act (l.lane (modeTYPE (t.mode m)) w)
    return (State.commit r { p with st := s' }).complete r .memory p.regs l.lines

/-- STS (08 R207). -/
def execSts (d : BitVec 6) (a imm : BitVec 7) (m : Bool) (s : State) : Host.Outcome State Fault Refusal :=
  run s fun r => do
    needHaul s r
    let t := s.stream r
    let w := t.accWidth m
    let act := t.active m
    let p ← s.peek r act [{ f := a.toNat }, { f := d.toNat, wide := w == 64, allow := .data }] none
    let (s', lines) ← p.st.storeScratch r
      ((lanesOf act).map fun i => (spAsk w (signed 7 imm.toNat) i (p.val 0 i), p.val 1 i, p.lab 1 i))
    return (State.commit r { p with st := s' }).complete r .memory p.regs lines

/-! Queue loads and stores (08 R209, R210). -/

/-- A load queue has room for the entry of an LDQ, or the stream stalls or traps (08 R209). -/
def State.checkLoadRoom (s : State) (r q : Nat) : Except Stop Unit :=
  if (Tab.get [] (s.crewAt r).loadQ q).length < 8 then .ok ()
  else if !(s.gangAt r).single && s.workEnded r then .error (s.orphan r q)
  else .error (.stall s)

/-- Push an entry to a load queue; where data come late it waits for them (01 R19). -/
def State.pushLoad (s : State) (r q : Nat) (v : Vec) (mask : Word) : State :=
  let put (s : State) (x : QEntry) : State := s.updCrew (crewOf r) fun c =>
    { c with loadQ := Tab.put q (Tab.get [] c.loadQ q ++ [x]) c.loadQ }
  if s.lateLoads then
    let (id, s) := s.freshNum
    put (s.updStream r fun t => { t with loads := t.loads ++ [⟨id, [], mask, [], some q⟩] }) ⟨v, mask, some id⟩
  else put s ⟨v, mask, none⟩

/-- LDQ (08 R209). -/
def execLdq (hint q : BitVec 2) (a imm : BitVec 7) (m : Bool) (s : State) : Host.Outcome State Fault Refusal :=
  run s fun r => do
    needHaul s r
    let x ← s.accessOf r imm.toNat [0, 1]
    let t := s.stream r
    let w := t.accWidth m
    need s r 2 (w != 64)
    let act := t.active m
    let p ← s.peek r act [addrWant a] none
    s.checkLoadRoom r q.toNat
    let l ← p.st.loadLanes r x.reads hint.toNat ((lanesOf act).map fun i => laneAsk w x.k i (p.val 0 i))
    let v := Vec.zero.merge act fun i => halfLane (l.lane (modeTYPE (t.mode m)) w i) 0
    return ((l.st.acquireIf r x).pushLoad r q.toNat v act).complete r .memory p.regs l.lines

/-- The oldest entry of a store queue, or the stall or trap of an empty one (01 R19, 08 R210). -/
def State.oldestStore (s : State) (r q : Nat) : Except Stop QEntry :=
  match Tab.get [] (s.crewAt r).storeQ q with
  | e :: _ => .ok e
  | [] => if !(s.gangAt r).single && s.workEnded r then .error (s.orphan r (4 + q)) else .error (.stall s)

/-- STQ (08 R210). -/
def execStq (hint q : BitVec 2) (a imm : BitVec 7) (m : Bool) (s : State) : Host.Outcome State Fault Refusal :=
  run s fun r => do
    needHaul s r
    let x ← s.accessOf r imm.toNat [0, 2]
    let t := s.stream r
    let w := t.accWidth m
    need s r 2 (w != 64)
    let act := t.active m
    let p ← s.peek r act [addrWant a] none
    let e ← s.oldestStore r q.toNat
    let (s', lines) ← p.st.storeLanes r x.coherent hint.toNat x.release
      ((lanesOf (act &&& e.mask)).map fun i => (laneAsk w x.k i (p.val 0 i), (e.vec.lane i).v.toNat, (e.vec.lane i).l))
    let s' := s'.updCrew (crewOf r) fun c =>
      { c with storeQ := Tab.put q.toNat ((Tab.get [] c.storeQ q.toNat).drop 1) c.storeQ }
    return s'.complete r .memory p.regs lines

/-! Fences (08 R214, 04 R113). -/

/-- Release of a fence or another instruction, which may have to wait (04 R115). -/
def State.releaseOr (s : State) (r scope : Nat) : Except Stop State :=
  match s.domainWait (s.coreNum r) scope with
  | some t => .error (.stall t)
  | none => .ok (s.release (s.coreNum r) scope)

/-- FENCE (08 R214). -/
def execFence (scope : BitVec 4) (form : BitVec 2) (s : State) : Host.Outcome State Fault Refusal :=
  run s fun r => do
    needHaul s r
    need s r 0 (decide (scope.toNat < 9) && form != 0)
    let s' ← if form.toNat = 1 then pure s else s.releaseOr r scope.toNat
    let s' := if form.toNat = 2 then s' else s'.acquire (s.coreNum r) scope.toNat
    return s'.complete r .memory 0 0

/-! Cache maintenance (08 R231). -/

/-- The lines of the Active() lanes' addresses as accesses of one byte. -/
def lineAsks (act : Word) (p : Peek) : List Ask := (lanesOf act).map fun i => laneAsk 8 0 i (p.val 0 i)

/-- The local lines that spots lie in, with their pages. -/
def State.localLines (s : State) (xs : List Spot) : List (Nat × Leaf) :=
  xs.foldl (fun acc p => match s.window p.pa with
    | .mem a => if acc.any fun y => y.1 == a / 64 then acc else acc ++ [(a / 64, p.leaf)]
    | _ => acc) []

/-- Write back the dirty sectors of a line from a core's L1. -/
def State.cleanLine (s : State) (core line : Nat) : State :=
  (s.cleanSector core (2 * line)).cleanSector core (2 * line + 1)

/-- Write back and invalidate a line in a core's L1. -/
def State.dropLine (s : State) (core line : Nat) : State :=
  (s.dropSector core (2 * line)).dropSector core (2 * line + 1)

/-- PREF: lines are filled; a lane that would fault is dropped (08 R231). -/
def execPref (a : BitVec 7) (l2 m : Bool) (s : State) : Host.Outcome State Fault Refusal :=
  run s fun r => do
    needHaul s r
    let act := (s.stream r).active m
    let p ← s.peek r act [addrWant a] none
    let core := s.coreNum r
    let good := (lineAsks act p).filter (·.ok)
    let (xs, s') := good.foldl (fun (acc : List Spot × State) x =>
      match acc.2.spotsOf (s.gangAt r) (s.stream r).priv .read (va56 x.addr) 1 with
      | (.ok ys, t) => (acc.1 ++ ys, t)
      | (.error _, t) => (acc.1, t)) ([], p.st)
    let lines := s.localLines xs
    let s'' := lines.foldl (fun (t : State) y =>
      let at_ := y.2.attr (64 * y.1)
      let t := if at_.cpol == 2 then t else (t.readLine (dieOf core) at_ y.1).2
      if !l2 && t.usesL1 core at_ 0 then (t.fillSector core at_ (2 * y.1)).fillSector core at_ (2 * y.1 + 1) else t) s'
    return s''.complete r .memory p.regs lines.length

/-- CINV: dirty sectors are written back and the lines leave the L1, and with bit 0 the die's non-coherent copies go
too (08 R231). -/
def execCinv (a : BitVec 7) (l2 m : Bool) (s : State) : Host.Outcome State Fault Refusal :=
  run s fun r => do
    needHaul s r
    let act := (s.stream r).active m
    let p ← s.peek r act [addrWant a] none
    let core := s.coreNum r
    let (xs, s') ← p.st.resolve r .read (lineAsks act p)
    let lines := s.localLines (xs.flatMap Prod.snd)
    let s'' := lines.foldl (fun (t : State) y =>
      let t := t.dropLine core y.1
      if l2 then
        match t.l2Find (dieOf core) y.1 with
        | some x => if x.st = .nc then t.l2Del (dieOf core) y.1 else t
        | none => t
      else t) s'
    return s''.complete r .memory p.regs lines.length

/-- CFLUSH: the lines' dirty sectors go to their coherence point and stay valid (08 R231). -/
def execCflush (a : BitVec 7) (_l2 m : Bool) (s : State) : Host.Outcome State Fault Refusal :=
  run s fun r => do
    needHaul s r
    let act := (s.stream r).active m
    let p ← s.peek r act [addrWant a] none
    let core := s.coreNum r
    let (xs, s') ← p.st.resolve r .read (lineAsks act p)
    let lines := s.localLines (xs.flatMap Prod.snd)
    return (lines.foldl (fun (t : State) y => t.cleanLine core y.1) s').complete r .memory p.regs lines.length

/-! Stream ports (08 R232, R233). -/

/-- The stream whose port an instruction names: its own, or the work stream of a dual-stream crew. -/
def State.portStream (s : State) (r : Nat) (wrk : Bool) : Except Stop Nat := do
  need s r 3 (!wrk || !(s.gangAt r).single)
  return if wrk then haulOf r + 1 else r

/-- The pattern register that a descriptor sets, none where it is refused. -/
def patternOf (ws : List DWord) : Option Pattern :=
  let w1 := wordAt ws 1
  let base := wordAt ws 0
  let et := bits w1 52 48
  if bits w1 63 54 ≠ 0 ∨ bits (wordAt ws 3) 63 32 ≠ 0 ∨ !canonical base ∨ et = 31 ∨ typeWidth et = 64 ∨
      bits w1 15 0 = 0 ∨ bits w1 31 16 = 0 ∨ bits w1 47 32 = 0 then none
  else some
    { base := BitVec.ofNat 56 base, etype := BitVec.ofNat 5 et, dir := bitOf w1 53,
      cnt0 := BitVec.ofNat 16 w1, cnt1 := BitVec.ofNat 16 (w1 / 2 ^ 16), cnt2 := BitVec.ofNat 16 (w1 / 2 ^ 32),
      stride0 := w32 (wordAt ws 2), stride1 := w32 (wordAt ws 2 / 2 ^ 32), stride2 := w32 (wordAt ws 3),
      pos := 0, bound := true }

/-- Bind a pattern register of a stream. -/
def Stream.setPort (t : Stream) (n : Nat) (p : Pattern) : Stream := { t with ports := Tab.put n p t.ports }

/-- SPBIND (08 R232). -/
def execSpbind (wrk : Bool) (port : BitVec 2) (a : BitVec 7) (m : Bool) (s : State) :
    Host.Outcome State Fault Refusal :=
  run s fun r => do
    needHaul s r
    need s r 0 (!m)
    need s r 3 (isStreamCore (s.coreNum r))
    let who ← s.portStream r wrk
    let t := s.stream r
    if srcOf a.toNat = .z then
      return (s.updStream who fun t => t.setPort port.toNat { t.port port.toNat with bound := false }).complete r .memory 0 0
    else
      let p ← s.peek r 0 [uniWant a] none
      let l ← onStream t.em (p.st.loadLanes r false 0 ((List.range 4).map fun (i : Nat) => laneAsk 64 (i : Int) 0 (p.val 0 0)))
      match patternOf (l.vals.map fun v => w64 v.2.1) with
      | none => .error (s.streamFault r 0x22 port.toNat)
      | some x => return (l.st.updStream who fun t => t.setPort port.toNat x).complete r .memory p.regs l.lines

/-- SPPOS (08 R233). -/
def execSppos (d : BitVec 6) (hi wrk : Bool) (port : BitVec 2) (s : State) : Host.Outcome State Fault Refusal :=
  run s fun r => do
    needHaul s r
    need s r 3 (isStreamCore (s.coreNum r))
    need s r 3 (decide (d.toNat < 32))
    let who ← s.portStream r wrk
    let pos := ((s.stream who).port port.toNat).pos.toNat
    let x := if hi then bits pos 47 32 else bits pos 31 0
    return (s.updStream r fun t => t.setC d.toNat ⟨w32 x, 0⟩).complete r .memory 0 0

end Sys2Proof.Machine
end

