-- ==== Sys2Proof/Machine/Atomics.lean ====
section
/-! DEFINITION. Atomics, reductions and CLAIM, with the order log of deterministic partitions and its replay
(08 R211 to R213, 16 R402, R403). -/

namespace Sys2Proof.Machine

/-! The order log. -/

/-- The entries of an instance are still kept: it runs, or one of its versions is neither released nor void, or a re-run
of it is posted (16 R402). -/
def State.keepsLog (s : State) (part uid : Nat) : Bool :=
  (s.keyOfUid uid).isSome || ((s.part part).repost.any fun q => q.origUid == uid) ||
    match Tab.find uid s.past with
    | none => false
    | some x => x.versions.any fun v => let st := (s.ver v.2.1 v.2.2).st; st == .opened || st == .sealed

/-- Append an entry to a partition's order log, in its ring of device memory too. The ring is full when the entry in its next
slot is still kept; an instance then goes on without entries (16 R402, log entry 106). -/
def State.logEntry (s : State) (n : Nat) (w0 w1 : DWord) : State :=
  let part := partOfNode n
  let p := s.part part
  let kept := p.log.any fun e => e.1 == p.logPos && s.keepsLog part e.2.1
  if (s.node n).unlogged ∨ !(effDET (s.node n).eff) then s
  else if p.logSize < 16 ∨ kept then s.updNode n fun x => { x with unlogged := true }
  else
    let at_ := p.logBase + 16 * p.logPos
    let bs := leBytes 8 w0.toNat ++ leBytes 8 w1.toNat
    let log := p.log.filter (fun e => e.1 != p.logPos) ++ [(p.logPos, (s.node n).uid, w0, w1)]
    let s := s.setPart part { p with log, logPos := (p.logPos + 1) % (p.logSize / 16) }
    s.writeCoh 0 ⟨interleave at_, false, 2, 0, 0⟩ ((List.range 16).map fun i => (at_ + i, bs.getD i 0))

/-- Word 0 of an entry for a thread's operation. -/
def logWord (type n gangid vid ord : Nat) : DWord :=
  w64 (type * 2 ^ 60 + n % 4096 * 2 ^ 48 + gangid % 2 ^ 24 * 2 ^ 24 + vid % 512 * 2 ^ 15 + ord % 4096 * 2 ^ 3)

/-- The entry is of the instance at a node table entry. -/
def logOf (n : Nat) (e : DWord × DWord) : Bool := bits e.1.toNat 59 48 == n % 4096
/-- The entry is a thread's operation, an atomic or a CLAIM. -/
def logThread (n gangid vid : Nat) (e : DWord × DWord) : Bool :=
  logOf n e && bits e.1.toNat 63 60 != 3 && bits e.1.toNat 47 24 == gangid && bits e.1.toNat 23 15 == vid
/-- The entry is an atomic on a location. -/
def logAt (n pa : Nat) (e : DWord × DWord) : Bool :=
  logOf n e && bits e.1.toNat 63 60 == 1 && bits e.2.toNat 51 0 == pa

/-- What the replay says of an operation: proceed taking an entry, wait, or proceed with replay of the location ended
(16 R403). -/
inductive Replay where
  | take (e : DWord × DWord)
  | wait
  | diverge
  | free
  deriving DecidableEq, Repr

/-- The replay of a thread's operation: type, location, ordinal; a location whose replay has ended is no longer forced. An
operation for which the log holds nothing more is not in it. -/
def State.replayOf (s : State) (entries : List (DWord × DWord)) (n gangid vid type pa ord : Nat) : Replay :=
  if !(s.node n).follows || (s.part (partOfNode n)).replayEnded.contains (n % 4096, pa) then .free
  else match entries.find? (logThread n gangid vid) with
    | none => .diverge
    | some e =>
      if e.1 ≠ logWord type n gangid vid ord ∨ (type = 1 ∧ bits e.2.toNat 51 0 ≠ pa) then .diverge
      else if type ≠ 1 then .take e
      else match entries.find? (logAt n pa) with
        | none => .take e
        | some first =>
          if first = e then .take e
          else if (s.node n).doneGangs.contains (bits first.1.toNat 47 24) then .diverge
          else .wait

/-- The entries left when an operation diverges: those of its location go, and for a CLAIM, whose entries name no location,
the CLAIM entry that its thread met (16 R403). -/
def leftAfter (entries : List (DWord × DWord)) (n gangid vid type pa : Nat) : List (DWord × DWord) :=
  let es := entries.filter fun e => !logAt n pa e
  match es.find? (logThread n gangid vid) with
  | some e => if type = 2 ∧ bits e.1.toNat 63 60 = 2 then es.erase e else es
  | none => es

/-- The next ordinal of a thread's logged operations. -/
def Gang.ord (g : Gang) (vid : Nat) : Nat := Tab.get 0 g.ords vid

/-- What the replay of an instruction's operations leaves: the entries left, the entries taken, the locations whose replay
ended. -/
structure Followed where
  left : List (DWord × DWord)
  taken : List (DWord × DWord) := []
  ended : List Nat := []

/-- Replay checks for the operations of one instruction, in order; none where the instruction must wait. -/
def State.replayAll (s : State) (r type : Nat) : List (Nat × Nat) → Followed → Option Followed
  | [], x => some x
  | (vid, pa) :: rest, x =>
    let g := s.gangAt r
    if x.ended.contains pa then s.replayAll r type rest x
    else match s.replayOf x.left g.node g.gangid vid type pa (g.ord vid) with
      | .wait => none
      | .free => s.replayAll r type rest x
      | .take e => s.replayAll r type rest { x with left := x.left.erase e, taken := x.taken ++ [e] }
      | .diverge => s.replayAll r type rest
          { x with left := leftAfter x.left g.node g.gangid vid type pa, ended := x.ended ++ [pa] }

/-- Follow the replay for operations of an instruction, or stall at their point of performance; the end of a location's
replay is logged (16 R403). Answers the entries taken. -/
def State.followLog (s : State) (r type : Nat) (ops : List (Nat × Nat)) : Except Stop (List (DWord × DWord) × State) :=
  let p := s.partNum r
  match s.replayAll r type ops { left := (s.part p).replay } with
  | none => .error (.stall s)
  | some x =>
    let g := s.gangAt r
    let s := s.updPart p fun y =>
      { y with replay := x.left, replayEnded := y.replayEnded ++ x.ended.map fun pa => (g.node % 4096, pa) }
    .ok (x.taken, x.ended.foldl (fun s _ =>
      s.recordFault (effFDOM g.effcfg) p 11 0 0 (s.node g.node).addr 0 0 0 0 0 true) s)

/-- Count and log the operations of an instruction to logged pages (16 R402). -/
def State.logOps (s : State) (r type : Nat) (ops : List (Nat × DWord)) : State :=
  ops.foldl (fun s x =>
    let g := s.gangAt r
    let s := s.logEntry g.node (logWord type g.node g.gangid x.1 (g.ord x.1)) x.2
    s.updGang (gangOf r) fun g => { g with ords := Tab.put x.1 (g.ord x.1 + 1) g.ords }) s

/-! The update of one location (08 R212). -/

/-- The new value of an atomic; operations are numbered as ATOM's opcodes. -/
def atomNew (op ty old data compare : Nat) : Nat :=
  let w := typeWidth ty
  if op = 0 then (old + data) % 2 ^ w
  else if op = 1 then arith .min ty false old (intVal ty data)
  else if op = 2 then arith .max ty false old (intVal ty data)
  else if op = 3 then logic .and w old data
  else if op = 4 then logic .or w old data
  else if op = 5 then logic .xor w old data
  else if op = 6 then data % 2 ^ w
  else if op = 7 then (if old = compare % 2 ^ w then data % 2 ^ w else old)
  else opFadd ty ⟨0, false, false⟩ 0 old data 0

/-- The types that an atomic accepts. -/
def atomType (op ty : Nat) : Bool :=
  if op < 3 then isInt ty && decide (32 ≤ typeWidth ty)
  else if op < 8 then decide (32 ≤ typeWidth ty)
  else ty == 12 || ty == 13

/-- One lane's atomic: where, its data and label, and the value that a compare needs. -/
structure AtomLane where
  ask : Ask
  data : Nat
  compare : Nat
  lab : Label

/-- The die at which an atomic on local memory is performed, and how the line is held there: the home die's L2 on a coherent
page; on a non-coherent page memory, beside the issuing die's own copy (04 R108, 15 R356). -/
def State.atomPoint (s : State) (r : Nat) (l : Leaf) (a : Nat) : Nat × Attr :=
  let at_ := l.attr a
  if l.nc then (dieOf (s.coreNum r), at_) else (at_.home, at_)

/-- The bytes of a location as an atomic reads them at its point of performance (04 R108). -/
def State.readPoint (s : State) (r lane : Nat) (xs : List Spot) : List Byte × State :=
  xs.foldl (fun (acc : List Byte × State) p =>
    match acc.2.window p.pa with
    | .mem a =>
      let at_ := acc.2.atomPoint r p.leaf a
      let (b, t) := (acc.2.syncSectors (acc.2.coreNum r) [a]).readSync at_.1 at_.2 a 1
      (acc.1 ++ [b.getD 0 0], t)
    | .fabric _ _ => (acc.1 ++ [Tab.get 0 (acc.2.stream r).rdata (remoteKey lane p.pa)], acc.2)
    | _ => (acc.1 ++ [0], acc.2)) ([], s)

/-- Write the new value of an atomic at its point of performance; a remote home has performed it itself. -/
def State.writePoint (s : State) (r : Nat) (xs : List Spot) (bs : List Byte) : State :=
  match xs with
  | [] => s
  | p :: _ =>
    let core := s.coreNum r
    match s.window p.pa with
    | .mem a =>
      let at_ := s.atomPoint r p.leaf a
      let ws := (List.range bs.length).map fun i => (a + i, bs.getD i 0)
      ((s.syncSectors core (ws.map Prod.fst)).writeCoh at_.1 at_.2 ws).noteWrites core (sectorsOf (ws.map Prod.fst))
    | .fabric k _ => s.updCore core fun c =>
        { c with wrotePkg := if c.wrotePkg.contains k then c.wrotePkg else c.wrotePkg ++ [k] }
    | _ => s

/-- Lanes whose address is not aligned to the element raise the alignment fault (08 R212). -/
def checkAligned (asks : List Ask) : Except Stop Unit :=
  let bad := asks.filter fun a => a.addr % a.n != 0
  if bad ≠ [] then .error (laneTrap 0x1A 0 bad) else .ok ()

/-- The order of operations on memory: lanes in the order of 04 R100. -/
def State.atomOrder (s : State) (r : Nat) (xs : List (AtomLane × List Spot)) : List (AtomLane × List Spot) :=
  inOrder (fun x : AtomLane × List Spot => x.1.ask.lane) (s.laneOrder r (xs.map fun x => x.1.ask.lane)) xs

/-- Atomics of lanes to memory: the old values with their labels, the state and the lines touched. -/
def State.atomicMem (s : State) (r op ty : Nat) (x : Access) (lanes : List AtomLane) :
    Except Stop (Loaded) := do
  let (xs, s') ← s.resolve r .atomic (lanes.map (·.ask))
  checkAligned (lanes.map (·.ask))
  let full := (lanes.zip xs).map fun y => (y.1, y.2.2)
  s.checkWrites r true (full.map fun y => (y.1.ask, y.2, Label.join y.1.lab (spotsLabel y.2)))
  let s' ← if x.releases then s'.releaseOr r x.scope else pure s'
  s'.needRemote r 2 xs
  s'.checkMarks r xs
  let order := s'.atomOrder r full
  let logged := order.filter fun y => (s.gangAt r).det && y.2.any fun p => p.leaf.log
  let op1 (y : AtomLane × List Spot) : Nat × Nat := (s.vid r y.1.ask.lane, (y.2.map (·.pa)).headD 0)
  let (_, s') ← s'.followLog r 1 (logged.map op1)
  let s' := s'.logOps r 1 (logged.map fun y => ((op1 y).1, w64 (op1 y).2))
  let s' := s'.noteReads (s.nodeNum r) (xs.flatMap Prod.snd)
  let (vals, t) := order.foldl (fun (acc : List (Nat × Nat × Label) × State) y =>
    let (bs, t) := acc.2.readPoint r y.1.ask.lane y.2
    let old := leNat bs
    let t := t.writePoint r y.2 (leBytes y.1.ask.n (atomNew op ty old y.1.data y.1.compare))
    (acc.1 ++ [(y.1.ask.lane, old, spotsLabel y.2)], t)) ([], s')
  let t := if x.releases ∧ 4 ≤ x.scope then (t.release (s.coreNum r) x.scope).followRelease (s.coreNum r) x.scope else t
  return ⟨vals, linesOf (xs.flatMap Prod.snd), t.acquireIf r x⟩

/-- Atomics of lanes to the gang's scratchpad. -/
def State.atomicScratch (s : State) (r op ty : Nat) (x : Access) (lanes : List AtomLane) : Except Stop Loaded := do
  checkAligned (lanes.map (·.ask))
  s.checkScratch r true (lanes.map (·.ask))
  let s' ← if x.releases then s.releaseOr r x.scope else pure s
  let order := inOrder (fun y : AtomLane => y.ask.lane) (s.laneOrder r (lanes.map (·.ask.lane))) lanes
  let (vals, g) := order.foldl (fun (acc : List (Nat × Nat × Label) × Gang) y =>
    let old := leNat (acc.2.spBytes y.ask.addr y.ask.n)
    let l := acc.2.rangeLabel y.ask.addr y.ask.n
    let new := leBytes y.ask.n (atomNew op ty old y.data y.compare)
    let ws := (List.range new.length).map fun i => (y.ask.addr + i, new.getD i 0, Label.join l y.lab)
    (acc.1 ++ [(y.ask.lane, old, l)], acc.2.spWrite ws)) ([], s'.gangAt r)
  let t := s'.setGang (gangOf r) (g.spCount (lanes.map fun y => (y.ask.addr, y.ask.n)))
  return ⟨vals, spLines (lanes.map (·.ask)), t.acquireIf r x⟩

/-- The space, order and scope of an atomic's imm7, with the orders allowed (08 R211). -/
def State.atomField (s : State) (r imm : Nat) (orders : List Nat) : Except Stop (Bool × Access) := do
  need s r 0 (decide (bits imm 3 0 < 9) && orders.contains (bits imm 5 4))
  return (bitOf imm 6, ⟨0, bits imm 5 4, bits imm 3 0⟩)

/-- The address operand of an atomic in a space. -/
def atomAddr (sp : Bool) (a : BitVec 7) : Want := { f := a.toNat, wide := !sp }

/-- The access of a lane of an atomic. -/
def atomAsk (sp : Bool) (w lane addr : Nat) : Ask := if sp then spAsk w 0 lane addr else laneAsk w 0 lane addr

/-- Perform the atomics of lanes in their space. -/
def State.atomics (s : State) (r op ty : Nat) (sp : Bool) (x : Access) (lanes : List AtomLane) : Except Stop Loaded :=
  if sp then s.atomicScratch r op ty x lanes else s.atomicMem r op ty x lanes

/-- ATOM (08 R212). -/
def execAtom (op : BitVec 4) (nw : Bool) (d : BitVec 6) (a imm : BitVec 7) (m : Bool) (s : State) :
    Host.Outcome State Fault Refusal :=
  run s fun r => do
    needHaul s r
    let (sp, x) ← s.atomField r imm.toNat [0, 1, 2, 3]
    let ty ← s.typeIn r m (atomType op.toNat)
    let w := typeWidth ty
    let wide := w == 64
    let cas := op.toNat == 7
    let step := (if wide then 2 else 1) * (if cas then 2 else 1)
    needReg s r d.toNat
    need s r 3 (d.toNat % step == 0)
    let act := (s.stream r).active m
    let dst : Dst := { n := d.toNat, wide, nw }
    let more : List Want := if cas then [{ f := d.toNat + step / 2, wide }] else []
    let p ← s.peek r act (atomAddr sp a :: { f := d.toNat, wide } :: more) (some dst)
    let lanes := (lanesOf act).map fun i =>
      let k := if cas then 2 else 1
      (⟨atomAsk sp w i (p.val 0 i), p.val k i, p.val 1 i, Label.join (p.lab 1 i) (p.lab k i)⟩ : AtomLane)
    let l ← p.st.atomics r op.toNat ty sp x lanes
    let s' ← l.st.writeDst r dst act (l.lane ty w)
    return (State.commit r { p with st := s' }).complete r .memory p.regs l.lines

/-- RED (08 R212). Its operations are ATOM's, but for fadd at 6. -/
def execRed (op : BitVec 3) (d : BitVec 6) (a imm : BitVec 7) (m : Bool) (s : State) :
    Host.Outcome State Fault Refusal :=
  run s fun r => do
    needHaul s r
    let (sp, x) ← s.atomField r imm.toNat [0, 2]
    let o := if op.toNat = 6 then 8 else op.toNat
    let ty ← s.typeIn r m (atomType o)
    let w := typeWidth ty
    let act := (s.stream r).active m
    let p ← s.peek r act [atomAddr sp a, { f := d.toNat, wide := w == 64, allow := .data }] none
    let lanes := (lanesOf act).map fun i =>
      (⟨atomAsk sp w i (p.val 0 i), p.val 1 i, 0, p.lab 1 i⟩ : AtomLane)
    let l ← p.st.atomics r o ty sp x lanes
    return (State.commit r { p with st := l.st }).complete r .memory p.regs l.lines

/-! CLAIM (08 R213). -/

/-- Indices granted to a number of lanes from a record: FIRST and GRANTED. -/
def claimOf (record count : Nat) : Nat × Nat :=
  let next := bits record 31 0
  let limit := bits record 63 32
  (next, if next < limit then min count (limit - next) else 0)

/-- The record after a grant. -/
def claimNew (record granted : Nat) : Nat :=
  bits record 63 32 * 2 ^ 32 + (bits record 31 0 + granted) % 2 ^ 32

/-- CLAIM on a record in memory: FIRST, GRANTED, the record's label, the lines and the state. -/
def State.claimMem (s : State) (r count : Nat) (x : Access) (ask : Ask) : Except Stop (Nat × Nat × Label × Nat × State) := do
  let (xs, s') ← s.resolve r .atomic [ask]
  checkAligned [ask]
  let spots := xs.flatMap Prod.snd
  s.checkWrites r true [(ask, spots, spotsLabel spots)]
  let s' ← if x.releases then s'.releaseOr r x.scope else pure s'
  s'.needRemote r 2 xs
  s'.checkMarks r xs
  let logged := (s.gangAt r).det && spots.any fun p => p.leaf.log
  let vid := s.vid r ask.lane
  let (taken, s') ← if logged then s'.followLog r 2 [(vid, (spots.map (·.pa)).headD 0)] else pure ([], s')
  let (bs, t) := (s'.noteReads (s.nodeNum r) spots).readPoint r ask.lane spots
  let (first, granted) := match taken with
    | e :: _ => (bits e.2.toNat 63 32, bits e.2.toNat 31 0)
    | [] => claimOf (leNat bs) count
  let t := if logged then t.logOps r 2 [(vid, w64 (first * 2 ^ 32 + granted))] else t
  let t := t.writePoint r spots (leBytes 8 (claimNew (leNat bs) granted))
  let t := if x.releases ∧ 4 ≤ x.scope then (t.release (s.coreNum r) x.scope).followRelease (s.coreNum r) x.scope else t
  return (first, granted, spotsLabel spots, linesOf spots, t.acquireIf r x)

/-- CLAIM on a record in scratchpad. -/
def State.claimScratch (s : State) (r count : Nat) (x : Access) (ask : Ask) :
    Except Stop (Nat × Nat × Label × Nat × State) := do
  checkAligned [ask]
  s.checkScratch r true [ask]
  let s' ← if x.releases then s.releaseOr r x.scope else pure s
  let g := s'.gangAt r
  let old := leNat (g.spBytes ask.addr 8)
  let l := g.rangeLabel ask.addr 8
  let (first, granted) := claimOf old count
  let new := leBytes 8 (claimNew old granted)
  let g := (g.spWrite ((List.range 8).map fun i => (ask.addr + i, new.getD i 0, l))).spCount [(ask.addr, 8)]
  return (first, granted, l, 1, (s'.setGang (gangOf r) g).acquireIf r x)

/-- The rank of a lane among the lanes of a list. -/
def rankOf (order : List Nat) (lane : Nat) : Nat := (order.takeWhile (· != lane)).length

/-- CLAIM (08 R213). -/
def execClaim (nw : Bool) (d : BitVec 6) (a imm : BitVec 7) (m : Bool) (s : State) :
    Host.Outcome State Fault Refusal :=
  run s fun r => do
    needHaul s r
    let (sp, x) ← s.atomField r imm.toNat [0, 1, 2, 3]
    let act := (s.stream r).active m
    let dst : Dst := { n := d.toNat, nw }
    let order := s.byVid r act
    let p ← s.peek r act [{ atomAddr sp a with lanes := some (maskOf (order.take 1)) }] (some dst)
    match order with
    | [] =>
      let s' ← p.write r dst act fun _ => (0, 0)
      return s'.complete r .memory p.regs 0
    | low :: rest =>
      let ask := atomAsk sp 64 low (p.val 0 low)
      let (first, granted, l, lines, s') ← if sp then p.st.claimScratch r (rest.length + 1) x ask
        else p.st.claimMem r (rest.length + 1) x ask
      let s' ← s'.writeDst r dst act fun i =>
        let k := rankOf (low :: rest) i
        (if k < granted then (first + k) % 2 ^ 32 else 0xFFFFFFFF, l)
      return (State.commit r { p with st := s' }).complete r .memory p.regs lines

end Sys2Proof.Machine
end

