-- ==== Sys2Proof/Machine/Lanes.lean ====
section
/-! DEFINITION. Cross-lane instructions: lane fetches, broadcast, reductions, prefixes and peers (07 R194 to R199). -/

namespace Sys2Proof.Machine

/-- A crew-wide operation: sources are read in every Active() lane before any is written (07 R194). -/
def State.cross (s : State) (r : Nat) (m : Bool) (dst : Dst) (srcs : List Want) (f : Peek → Nat → Nat × Label) :
    Except Stop State := do
  let t := s.stream r
  let act := t.active m
  let p ← s.peek r act srcs (some dst)
  let s' ← p.write r dst act fun i => ((f p i).1, Label.join (f p i).2 (t.guardLabel m))
  return s'.complete r .control p.regs 0

/-- TYPE of the m-selected set is a 64-bit type. -/
def Stream.wideType (t : Stream) (m : Bool) : Bool := typeWidth (modeTYPE (t.mode m)) == 64

/-- The Active() lane that holds a thread, if it is present (07 R194). -/
def State.holder (s : State) (r : Nat) (act : Word) (id : Option Nat) : Option Nat :=
  id.bind fun v => (lanesOf act).find? fun l => s.vid r l == v

/-- The sources of a lane fetch: a, and b where it is a register. -/
def fetchWants (wide : Bool) (a : BitVec 7) (b : Option (BitVec 7)) : List Want :=
  { f := a.toNat, wide } :: (match b with | some b => [{ f := b.toNat }] | none => [])

/-- value(b) of a lane and its label: the second source, or the immediate. -/
def bValue (p : Peek) (imm : Option Nat) (i : Nat) : Nat × Label :=
  match imm with
  | some k => (k, 0)
  | none => (p.val 1 i % 2 ^ 32, p.lab 1 i)

/-- A lane fetch: each lane takes a from the thread a function of its own id and value(b) names, or its own a
(07 R194). -/
def State.laneFetch (s : State) (r : Nat) (m nw : Bool) (d : BitVec 6) (a : BitVec 7) (b : Option (BitVec 7))
    (imm : Option Nat) (who : Nat → Nat → Option Nat) : Except Stop State :=
  let t := s.stream r
  let wide := t.wideType m
  let act := t.active m
  s.cross r m { n := d.toNat, wide, nw } (fetchWants wide a b) fun p i =>
    let x := bValue p imm i
    let from_ := (s.holder r act (who (s.vid r i) x.1)).getD i
    (p.val 0 from_, Label.join (p.lab 0 from_) x.2)

/-- BCAST: value(b) is read in the lowest Active() lane (07 R195). -/
def State.broadcast (s : State) (r : Nat) (m nw : Bool) (d : BitVec 6) (a : BitVec 7) (b : Option (BitVec 7))
    (imm : Option Nat) : Except Stop State :=
  let t := s.stream r
  let wide := t.wideType m
  let act := t.active m
  let low := (lanesOf act).headD 0
  s.cross r m { n := d.toNat, wide, nw } (fetchWants wide a b) fun p i =>
    let from_ := (s.holder r act (some (bValue p imm low).1)).getD low
    (p.val 0 from_, Label.join (p.lab 0 from_) (bValue p imm i).2)

/-- LGET's source thread: the id in b. -/
def whoGet (_ b : Nat) : Option Nat := some b
/-- LFLIP's source thread: own id XOR b. -/
def whoFlip (id b : Nat) : Option Nat := some (id ^^^ b)
/-- LPREV's source thread: b ids lower, none below zero. -/
def whoPrev (id b : Nat) : Option Nat := if id < b then none else some (id - b)
/-- LNEXT's source thread: b ids higher. -/
def whoNext (id b : Nat) : Option Nat := some (id + b)

/-- LGET (07 R194). -/
def execLget (nw : Bool) (d : BitVec 6) (a b : BitVec 7) (m : Bool) (s : State) : Host.Outcome State Fault Refusal :=
  run s fun r => s.laneFetch r m nw d a (some b) none whoGet

/-- LFLIP (07 R194). -/
def execLflip (nw : Bool) (d : BitVec 6) (a b : BitVec 7) (m : Bool) (s : State) : Host.Outcome State Fault Refusal :=
  run s fun r => s.laneFetch r m nw d a (some b) none whoFlip

/-- LPREV (07 R194). -/
def execLprev (nw : Bool) (d : BitVec 6) (a b : BitVec 7) (m : Bool) (s : State) : Host.Outcome State Fault Refusal :=
  run s fun r => s.laneFetch r m nw d a (some b) none whoPrev

/-- LNEXT (07 R194). -/
def execLnext (nw : Bool) (d : BitVec 6) (a b : BitVec 7) (m : Bool) (s : State) : Host.Outcome State Fault Refusal :=
  run s fun r => s.laneFetch r m nw d a (some b) none whoNext

/-- BCAST (07 R195). -/
def execBcast (nw : Bool) (d : BitVec 6) (a b : BitVec 7) (m : Bool) (s : State) : Host.Outcome State Fault Refusal :=
  run s fun r => s.broadcast r m nw d a (some b) none

/-- LGET with an immediate id (07 R194). -/
def execLgetImm (nw : Bool) (d : BitVec 6) (a imm : BitVec 7) (m : Bool) (s : State) : Host.Outcome State Fault Refusal :=
  run s fun r => s.laneFetch r m nw d a none (some imm.toNat) whoGet

/-- LFLIP with an immediate mask (07 R194). -/
def execLflipImm (nw : Bool) (d : BitVec 6) (a imm : BitVec 7) (m : Bool) (s : State) : Host.Outcome State Fault Refusal :=
  run s fun r => s.laneFetch r m nw d a none (some imm.toNat) whoFlip

/-- LPREV with an immediate distance (07 R194). -/
def execLprevImm (nw : Bool) (d : BitVec 6) (a imm : BitVec 7) (m : Bool) (s : State) : Host.Outcome State Fault Refusal :=
  run s fun r => s.laneFetch r m nw d a none (some imm.toNat) whoPrev

/-- LNEXT with an immediate distance (07 R194). -/
def execLnextImm (nw : Bool) (d : BitVec 6) (a imm : BitVec 7) (m : Bool) (s : State) : Host.Outcome State Fault Refusal :=
  run s fun r => s.laneFetch r m nw d a none (some imm.toNat) whoNext

/-- BCAST with an immediate id (07 R195). -/
def execBcastImm (nw : Bool) (d : BitVec 6) (a imm : BitVec 7) (m : Bool) (s : State) : Host.Outcome State Fault Refusal :=
  run s fun r => s.broadcast r m nw d a none (some imm.toNat)

/-! Reductions and prefixes (07 R196 to R198). -/

/-- The types CRED and CSCAN accept: integers and f16, bf16, f32, f64. -/
def credType (t : Nat) : Bool := isInt t || isIeee t

/-- Combine two elements under an operation. -/
def credElem (op ty : Nat) (q : Rounding) (a b : Nat) : Nat :=
  let w := typeWidth ty
  if op = 3 then logic .and w a b
  else if op = 4 then logic .or w a b
  else if op = 5 then logic .xor w a b
  else if isInt ty then
    arith (if op = 0 then .add else if op = 1 then .min else .max) ty q.sat a (intVal ty b)
  else if op = 0 then opFadd ty q 0 a b 0
  else pickFloat ty (op == 2) a b

/-- Combine two lane values position by position. -/
def credLane (op ty : Nat) (q : Rounding) (a b : Nat) : Nat :=
  let w := typeWidth ty
  packed w fun k => credElem op ty q (subElem w a k) (subElem w b k)

/-- One round of the tree: neighbours combine, an odd last element stays. -/
def pairUp (f : Nat → Nat → Nat) : List Nat → List Nat
  | a :: b :: rest => f a b :: pairUp f rest
  | xs => xs

/-- The tree of CRED, within the rounds given. -/
def treeReduce (f : Nat → Nat → Nat) : Nat → List Nat → Nat
  | 0, xs => xs.headD 0
  | k + 1, xs => if xs.length ≤ 1 then xs.headD 0 else treeReduce f k (pairUp f xs)

/-- The running prefixes of CSCAN from its first element. -/
def prefixes (f : Nat → Nat → Nat) : Nat → List Nat → List Nat
  | _, [] => []
  | acc, x :: rest => f acc x :: prefixes f (f acc x) rest

/-- The identity element of the exclusive form (07 R198). -/
def credIdentity (op ty : Nat) : Nat :=
  let w := typeWidth ty
  if op = 0 ∨ op = 4 ∨ op = 5 then 0
  else if op = 3 then 2 ^ w - 1
  else if isInt ty then wrap w (if op = 1 then intMax ty else intMin ty)
  else (fmtOf ty).withSign (op == 2) (fmtOf ty).infBody

/-- The highest label among the Active() lanes' a (07 R197). -/
def Peek.highest (p : Peek) (act : Word) : Label := (lanesOf act).foldl (fun l i => Label.join l (p.lab 0 i)) 0

/-- The checks of CRED and CSCAN, which give TYPE and its rounding. -/
def State.credMode (s : State) (r : Nat) (op : BitVec 4) (m : Bool) : Except Stop (Nat × Rounding) := do
  need s r 0 (decide (op.toNat < 6))
  let ty ← s.typeIn r m credType
  return (ty, (roundingOf ((s.stream r).mode m)).uniform)

/-- CRED (07 R197). -/
def execCred (nw : Bool) (d : BitVec 6) (a : BitVec 7) (op : BitVec 4) (m : Bool) (s : State) :
    Host.Outcome State Fault Refusal :=
  run s fun r => do
    let (ty, q) ← s.credMode r op m
    let wide := typeWidth ty == 64
    let act := (s.stream r).active m
    s.cross r m { n := d.toNat, wide, nw } [{ f := a.toNat, wide }] fun p _ =>
      (treeReduce (credLane op.toNat ty q) 5 ((s.byVid r act).map (p.val 0)), p.highest act)

/-- CSCAN (07 R198). -/
def execCscan (nw : Bool) (d : BitVec 6) (a : BitVec 7) (excl : Bool) (op : BitVec 4) (m : Bool) (s : State) :
    Host.Outcome State Fault Refusal :=
  run s fun r => do
    let (ty, q) ← s.credMode r op m
    let wide := typeWidth ty == 64
    let act := (s.stream r).active m
    s.cross r m { n := d.toNat, wide, nw } [{ f := a.toNat, wide }] fun p i =>
      let order := s.byVid r act
      let xs := order.map (p.val 0)
      let incl := xs.headD 0 :: prefixes (credLane op.toNat ty q) (xs.headD 0) (xs.drop 1)
      let all := if excl then packed (typeWidth ty) (fun _ => credIdentity op.toNat ty) :: incl else incl
      (((order.zip all).find? fun x => x.1 == i).elim 0 Prod.snd, p.highest act)

/-- LPEER (07 R199). -/
def execLpeer (nw : Bool) (d : BitVec 6) (a : BitVec 7) (m : Bool) (s : State) : Host.Outcome State Fault Refusal :=
  run s fun r =>
    let act := (s.stream r).active m
    s.cross r m { n := d.toNat, nw } [{ f := a.toNat, wide := (s.stream r).wideType m }] fun p i =>
      (((maskWhere fun l => inMask act l && p.val 0 l == p.val 0 i)).toNat, p.highest act)

end Sys2Proof.Machine
end

