-- ==== Sys2Proof/Machine/Control.lean ====
section
/-! DEFINITION. Control flow, modes, masks, predicates, guards, loops, crew control and code (06 R140 to R166). -/

namespace Sys2Proof.Machine

/-! Modes and masks. -/

/-- The image of a mode set passes the checks of 05 R130. -/
def modeImageOk (x : Nat) : Bool :=
  bits x 17 13 != 31 && decide (bits x 12 10 < 6) && !(bits x 21 19 == 7 && bitOf x 18) && bits x 4 0 == 0 &&
    decide (x < 2 ^ 22)

/-- Write a mode set. -/
def Stream.setMode (t : Stream) (m : Bool) (x : Word) : Stream := if m then { t with mode1 := x } else { t with mode0 := x }

/-- MODE of some sets from an image (06 R142). -/
def State.writeMode (s : State) (r image : Nat) (sets : List Bool) (reads : Nat) : Except Stop State := do
  need s r 2 (modeImageOk image)
  return (s.updStream r fun t => sets.foldl (fun t m => t.setMode m (w32 image)) t).complete r .control reads 0

/-- A uniform source, z or c0 to c31, as it is read. -/
def State.uniform (s : State) (r f : Nat) (wide : Bool) : Except Stop Peek := s.peek r 0 [{ f, wide, allow := .uni }] none

/-- Write a 32-bit result to a uniform register named by a 6-bit field and complete. -/
def State.toUniform (s : State) (r : Nat) (c : Cls) (d reads : Nat) (x : Word) (l : Label) : Except Stop State := do
  need s r 3 (decide (d < 32))
  return (s.updStream r fun t => t.setC d ⟨x, l⟩).complete r c reads 0

/-- MODE writing mode set 0 (06 R142). -/
def execMode (image : BitVec 22) (s : State) : Host.Outcome State Fault Refusal :=
  run s fun r => s.writeMode r image.toNat [false] 0

/-- MODE.m1 (06 R142). -/
def execModeM1 (image : BitVec 22) (s : State) : Host.Outcome State Fault Refusal :=
  run s fun r => s.writeMode r image.toNat [true] 0

/-- MODE.both (06 R142). -/
def execModeBoth (image : BitVec 22) (s : State) : Host.Outcome State Fault Refusal :=
  run s fun r => s.writeMode r image.toNat [false, true] 0

/-- MODE from a uniform register (06 R142). -/
def execModeUniform (a : BitVec 7) (m : Bool) (s : State) : Host.Outcome State Fault Refusal :=
  run s fun r => do
    let p ← s.uniform r a.toNat false
    p.st.writeMode r (p.val 0 0) [m] p.regs

/-- GETMODE (06 R143). -/
def execGetmode (d : BitVec 6) (set1 : Bool) (s : State) : Host.Outcome State Fault Refusal :=
  run s fun r => s.toUniform r .control d.toNat 0 (w32 (bits ((s.stream r).mode set1).toNat 21 0)) 0

/-- SETEM: EM is the value with the lanes that are live (06 R144). -/
def execSetem (a : BitVec 7) (s : State) : Host.Outcome State Fault Refusal :=
  run s fun r => do
    let p ← s.uniform r a.toNat false
    return (p.st.updStream r fun t => { t with em := w32 (p.val 0 0) &&& t.live }).complete r .control p.regs 0

/-- GETEM (06 R144). -/
def execGetem (d : BitVec 6) (s : State) : Host.Outcome State Fault Refusal :=
  run s fun r => s.toUniform r .control d.toNat 0 (s.stream r).em 0

/-- A 7-bit field that names a predicate, slot or queue in its low 3 bits; the others are reserved (05 R121). -/
def predOf (s : State) (r : Nat) (f : BitVec 7) : Except Stop Nat := do
  need s r 0 (decide (f.toNat < 8))
  return f.toNat

/-- VOTE (06 R145). -/
def execVote (d : BitVec 6) (a : BitVec 7) (m : Bool) (s : State) : Host.Outcome State Fault Refusal :=
  run s fun r => do
    let n ← predOf s r a
    let t := s.stream r
    s.toUniform r .control d.toNat 0 (t.active m &&& (t.preg n).v) (Label.join (t.preg n).l (t.guardLabel m))

/-- All ones or all zeros. -/
def allLanes (b : Bool) : Word := if b then 0xFFFFFFFF else 0

/-- ANY and ALL: one bit to every lane of EM in pa, its inverse in pb (06 R145). -/
def State.anyAll (s : State) (r : Nat) (all : Bool) (pa pb : BitVec 3) (a : BitVec 7) (m : Bool) : Except Stop State := do
  let n ← predOf s r a
  let t := s.stream r
  let act := t.active m
  let hit := act &&& (t.preg n).v
  let b := if all then hit == act else hit != 0
  let l := Label.join (t.preg n).l (t.guardLabel m)
  return (s.updStream r fun t =>
    (t.putP pa.toNat t.em (allLanes b) l).putP pb.toNat t.em (allLanes !b) l).complete r .control 0 0

/-- ANY (06 R145). -/
def execAny (pa pb : BitVec 3) (a : BitVec 7) (m : Bool) (s : State) : Host.Outcome State Fault Refusal :=
  run s fun r => s.anyAll r false pa pb a m

/-- ALL (06 R145). -/
def execAll (pa pb : BitVec 3) (a : BitVec 7) (m : Bool) (s : State) : Host.Outcome State Fault Refusal :=
  run s fun r => s.anyAll r true pa pb a m

/-! Special registers. -/

/-- The value of a special register in a lane (03 R78). -/
def State.special (s : State) (r idx lane : Nat) : Nat :=
  let t := s.stream r
  let g := s.gangAt r
  match idx with
  | 0 => s.timestamp.toNat
  | 1 => s.cyclesOf (clusterOf g.core)
  | 2 => (s.node g.node).energyMj
  | 3 => s.vid r lane
  | 4 => lane
  | 5 => crewNum r
  | 6 => g.gangid
  | 7 => (isStreamCore g.core).toNat
  | 8 => g.core
  | 9 => (s.cluster (clusterOf g.core)).rnsmap.toNat
  | 10 => g.spcur
  | 11 => (t.genLane lane).toNat
  | 12 => t.live.toNat
  | 13 => t.trappc.toNat
  | 14 => t.trapcause.toNat
  | 15 => t.trapinfo.toNat
  | 16 => t.trapmask.toNat
  | 17 => t.trapem.toNat
  | 18 => t.vcount.toNat
  | _ => 0

/-- GETS: a special register into the Active() lanes, 64-bit ones into a pair (06 R163). -/
def execGets (nw : Bool) (d idx : BitVec 6) (s : State) : Host.Outcome State Fault Refusal :=
  run s fun r => do
    need s r 3 (decide (idx.toNat < 19))
    let t := s.stream r
    let dst : Dst := { n := d.toNat, wide := decide (idx.toNat < 3), nw }
    s.aluMask r .control (t.active false) (t.guardLabel false) dst [] false fun i _ _ => (s.special r idx.toNat i, 0)

/-! Predicate logic (06 R166). -/

/-- A predicate result in the Active() lanes. -/
def State.predLogic (s : State) (r : Nat) (m : Bool) (d : BitVec 3) (srcs : List (BitVec 3)) (f : List Word → Word) :
    Except Stop State :=
  let t := s.stream r
  let ps := srcs.map fun n => t.preg n.toNat
  let l := ps.foldl (fun l p => Label.join l p.l) (t.guardLabel m)
  .ok ((s.updStream r fun t => t.putP d.toNat (t.active m) (f (ps.map (·.v))) l).complete r .control 0 0)

/-- PAND (06 R166). -/
def execPand (d a b : BitVec 3) (m : Bool) (s : State) : Host.Outcome State Fault Refusal :=
  run s fun r => s.predLogic r m d [a, b] fun xs => xs.getD 0 0 &&& xs.getD 1 0

/-- POR (06 R166). -/
def execPor (d a b : BitVec 3) (m : Bool) (s : State) : Host.Outcome State Fault Refusal :=
  run s fun r => s.predLogic r m d [a, b] fun xs => xs.getD 0 0 ||| xs.getD 1 0

/-- PXOR (06 R166). -/
def execPxor (d a b : BitVec 3) (m : Bool) (s : State) : Host.Outcome State Fault Refusal :=
  run s fun r => s.predLogic r m d [a, b] fun xs => xs.getD 0 0 ^^^ xs.getD 1 0

/-- PNOT (06 R166). -/
def execPnot (d a : BitVec 3) (m : Bool) (s : State) : Host.Outcome State Fault Refusal :=
  run s fun r => s.predLogic r m d [a] fun xs => ~~~(xs.getD 0 0)

/-- PMOV (06 R166). -/
def execPmov (d a : BitVec 3) (m : Bool) (s : State) : Host.Outcome State Fault Refusal :=
  run s fun r => s.predLogic r m d [a] fun xs => xs.getD 0 0

/-- The types that CMP allows (06 R164). -/
def cmpType (t : Nat) : Bool := t == 3 || t == 4 || t == 8 || t == 9 || t == 12 || t == 13

/-- CMP (06 R164, R165). -/
def execCmp (cond comb pa pb : BitVec 3) (a b : BitVec 7) (m : Bool) (s : State) : Host.Outcome State Fault Refusal :=
  run s fun r => do
    let ty ← s.typeIn r m cmpType
    let t := s.stream r
    let wide := typeWidth ty == 64
    let lanes := if comb = 1 then t.em else t.active m
    let p ← s.peek r lanes [{ f := a.toNat, wide }, { f := b.toNat, wide }] none
    let res := maskWhere fun i => condHolds cond.toNat (compareElems ty (p.val 0 i) (p.val 1 i))
    let oldA := t.preg pa.toNat
    let oldB := t.preg pb.toNat
    let (x, y) := combine comb.toNat oldA.v oldB.v res
    let l := (lanesOf lanes).foldl (fun l i => Label.join l (p.label i)) 0
    let l := if comb = 1 then l else Label.join l (t.guardLabel m)
    let l := if 2 ≤ comb.toNat ∧ comb.toNat ≤ 5 then Label.join l oldA.l
      else if 6 ≤ comb.toNat then Label.join l oldB.l else l
    return ((State.commit r p).updStream r fun t =>
      (t.putP pa.toNat lanes x l).putP pb.toNat lanes y l).complete r .control p.regs 0

/-! Branches (06 R141, R146 to R151). -/

/-- The condition of a branch: none where it always holds (pred 7, sense 0). -/
def branchCond (s : State) (r : Nat) (pred : BitVec 3) (sense : Bool) : Except Stop (Option Word) := do
  need s r 3 (!(pred == 7 && sense))
  let p := ((s.stream r).preg pred.toNat).v
  return if pred = 7 then none else some (if sense then ~~~p else p)

/-- The condition holds in some lane (06 R141). -/
def someLane (em : Word) : Option Word → Bool
  | none => true
  | some c => (em &&& c) != 0

/-- A crew of the core other than k is ready and in no slot. -/
def State.otherReady (s : State) (core k : Nat) : Bool :=
  s.crews.any fun c => c.1 != k && (s.gang (c.1 / 16)).core == core && (s.gang (c.1 / 16)).live &&
    (match c.2.place with | .ready _ _ => true | _ => false)

/-- ROTATION: after a taken backward BRA or BRC, the crew leaves a slot it has held for 4,096 cycles when another waits
(01 R24). -/
def State.rotate (s : State) (r : Nat) : State :=
  let core := s.coreNum r
  if 4096 ≤ s.cyclesOf (clusterOf core) - (s.crewAt r).since ∧ s.otherReady core (crewOf r) then s.switchOut r false else s

/-- After a branch: a yield, or a rotation when it was taken backward. -/
def State.afterBranch (s : State) (r : Nat) (y backward : Bool) : State :=
  if y then s.switchOut r false else if backward then s.rotate r else s

/-- The offset of a branch leads backward; a branch to itself counts as one (01 R24, 06 R147, log entry 101). -/
def backwardOff (off : BitVec 18) : Bool := decide (signed 18 off.toNat ≤ 0)

/-- BRA (06 R146). -/
def execBra (y : Bool) (pred : BitVec 3) (sense : Bool) (off : BitVec 18) (s : State) : Host.Outcome State Fault Refusal :=
  run s fun r => do
    let c ← branchCond s r pred sense
    let t := s.stream r
    if someLane t.em c then
      return (s.jump r .control 0 (targetOf t.pc 18 off.toNat)).afterBranch r y (backwardOff off)
    else return (s.complete r .control 0 0).afterBranch r y false

/-- BRC: the lanes that take the branch go on alone (06 R147). -/
def execBrc (y : Bool) (pred : BitVec 3) (sense : Bool) (off : BitVec 18) (s : State) : Host.Outcome State Fault Refusal :=
  run s fun r => do
    let c ← branchCond s r pred sense
    let t := s.stream r
    let taking := match c with | none => t.em | some c => t.em &&& c
    if c.isNone || taking != 0 then
      return ((s.updStream r fun t => { t with em := taking }).jump r .control 0
        (targetOf t.pc 18 off.toNat)).afterBranch r y (backwardOff off)
    else return (s.complete r .control 0 0).afterBranch r y false

/-- BRG: the crew waits at a meeting of its gang, a switch point (06 R148, 01 R26). -/
def execBrg (pred : BitVec 3) (sense : Bool) (target reconv : BitVec 9) (s : State) : Host.Outcome State Fault Refusal :=
  run s fun r => do
    need s r 1 (s.gangAt r).single
    let _ ← branchCond s r pred sense
    need s r 3 (reconv != 0)
    let s := (s.chargeInstr r .control 0 0).updStream r fun t => { t with
      wait := some (.brg pred.toNat sense (targetOf t.pc 9 target.toNat) (targetOf t.pc 9 reconv.toNat)) }
    return (s.switchOut r true).settleGang (gangOf r)

/-- A code address from a value (06 R149). -/
def codeAddr (x : Nat) : BitVec 24 := BitVec.ofNat 24 (bits x 23 2 * 4)

/-- The lead lane's target and the lanes of EM that share it; none when EM is zero (06 R149). -/
def leadTarget (em : Word) (f : Nat → Nat) : Option (BitVec 24 × Word) :=
  match lanesOf em with
  | [] => none
  | lead :: _ =>
    let x := codeAddr (f lead)
    some (x, maskWhere fun i => inMask em i && codeAddr (f i) == x)

/-- JMPI (06 R149). -/
def execJmpi (a : BitVec 7) (s : State) : Host.Outcome State Fault Refusal :=
  run s fun r => do
    let t := s.stream r
    let p ← s.peek r t.em [{ f := a.toNat }] none
    let s' := State.commit r p
    match leadTarget t.em (p.val 0) with
    | none => return s'.complete r .control p.regs 0
    | some (x, em) => return (s'.updStream r fun t => { t with em := em }).jump r .control p.regs x

/-- CALL (06 R150). -/
def execCall (pred : BitVec 3) (sense : Bool) (off : BitVec 18) (s : State) : Host.Outcome State Fault Refusal :=
  run s fun r => do
    let c ← branchCond s r pred sense
    let t := s.stream r
    if someLane t.em c then
      if 16 ≤ t.rets.length then .error (s.streamFault r 0x14 0)
      else return (s.updStream r fun t => { t with rets := (t.pc + 4) :: t.rets }).jump r .control 0 (targetOf t.pc 18 off.toNat)
    else return s.complete r .control 0 0

/-- RET (06 R150). -/
def execRet (s : State) : Host.Outcome State Fault Refusal :=
  run s fun r =>
    let t := s.stream r
    match t.rets with
    | [] => .error (.trap { cause := 3, mask := t.em })
    | pc :: rest => .ok ((s.updStream r fun t => { t with rets := rest }).jump r .control 0 pc)

/-- CALLV: as JMPI, writing the link into the lanes that go on (06 R151). -/
def execCallv (nw : Bool) (d : BitVec 6) (a : BitVec 7) (s : State) : Host.Outcome State Fault Refusal :=
  run s fun r => do
    let t := s.stream r
    needReg s r d.toNat
    let dst : Dst := { n := d.toNat, nw }
    let p ← s.peek r t.em [{ f := a.toNat }] (some dst)
    let s' := State.commit r p
    match leadTarget t.em (p.val 0) with
    | none => return s'.complete r .control p.regs 0
    | some (x, em) =>
      let s' ← s'.writeDst r dst em fun _ => ((t.pc + 4).toNat, 0)
      return (s'.updStream r fun t => { t with em := em }).jump r .control p.regs x

/-- RETV (06 R151). -/
def execRetv (d : BitVec 6) (s : State) : Host.Outcome State Fault Refusal :=
  run s fun r => do
    let t := s.stream r
    let p ← s.peek r t.em [{ f := d.toNat, allow := .vec }] none
    match leadTarget t.em (p.val 0) with
    | none => return s.complete r .control p.regs 0
    | some (x, em) =>
      if em = t.em then return s.jump r .control p.regs x
      else .error (.trap { cause := 2, mask := t.em })

/-! Loops (06 R152 to R154, 03 R85). -/

/-- The words of a loop body that frames hold, by code address; none if a page is missing. -/
def State.bodyWords (s : State) (r : Nat) (start : BitVec 24) (n : Nat) : Option (Tab Word) :=
  let (sup, image) := s.imageOf r
  allSome ((List.range n).map fun i =>
    let pc := start + BitVec.ofNat 24 (4 * i)
    (s.findFrame (s.coreNum r) sup (s.partNum r) image (pc.toNat / 4096)).map fun f => (pc.toNat, f.word pc))

/-- LOOP (06 R152). -/
def execLoop (count : BitVec 7) (end15 : BitVec 15) (s : State) : Host.Outcome State Fault Refusal :=
  run s fun r => do
    need s r 3 (end15 != 0)
    let p ← s.uniform r count.toNat false
    let n := p.val 0 0
    let t := s.stream r
    let stop := t.pc + BitVec.ofNat 24 (4 * end15.toNat)
    if n = 0 then return p.st.jump r .control p.regs (stop + 4)
    else if 4 ≤ t.loops.length then .error (s.streamFault r 0x15 0)
    else
      let start := t.pc + 4
      let body := if end15.toNat ≤ 128 ∧ !(t.loops.any (·.captured)) then s.bodyWords r start end15.toNat else none
      let level : LoopLevel := ⟨start, stop, w32 n, body.isSome, (s.imageOf r).1⟩
      -- The new level is on top when LOOP completes, so no end check of an outer level is made.
      return (p.st.jump r .control p.regs start).updStream r fun t =>
        { t with loops := level :: t.loops, lbuf := body.getD t.lbuf }

/-- LBRK (06 R154). -/
def execLbrk (pred : BitVec 3) (sense : Bool) (off : BitVec 18) (s : State) : Host.Outcome State Fault Refusal :=
  run s fun r => do
    let c ← branchCond s r pred sense
    let t := s.stream r
    match t.loops with
    | [] => .error (s.streamFault r 0x15 0)
    | l :: rest =>
      if someLane t.em c then
        return (s.updStream r fun t => t.leaveLevel l rest).jump r .control 0 (targetOf t.pc 18 off.toNat)
      else return s.complete r .control 0 0

/-! Crew control and code (06 R155 to R161). -/

/-- NOP (06 R155). -/
def execNop (s : State) : Host.Outcome State Fault Refusal :=
  run s fun r => .ok (s.complete r .control 0 0)

/-- YIELD: NOP with the yield bit (05 R132). -/
def execYield (s : State) : Host.Outcome State Fault Refusal :=
  run s fun r => .ok ((s.complete r .control 0 0).switchOut r false)

/-- A store queue of a crew that holds an entry: the lowest, where several do (01 R19, log entry 102). -/
def Crew.heldStore (c : Crew) : Option Nat := (List.range 4).find? fun q => !(Tab.get [] c.storeQ q).isEmpty

/-- EXIT: the Active() threads end in the stream (06 R155, 01 R16, R19). -/
def execExit (s : State) : Host.Outcome State Fault Refusal :=
  run s fun r =>
    let t := s.stream r
    let act := t.active false
    let live := t.live &&& ~~~act
    if act = 0 then .ok (s.complete r .control 0 0)
    else
      match (if live = 0 ∧ !(s.gangAt r).single ∧ !isWork r then (s.crewAt r).heldStore else none) with
      | some q => .error (s.orphan r (4 + q))
      | none =>
        let s := (s.complete r .control 0 0).updStream r fun t => { t with live := live, em := t.em &&& ~~~act }
        .ok ((s.settleEnd r).settleGang (gangOf r))

/-- The 15-bit immediate of the word in hand. -/
def State.wordImm (s : State) : Nat := bits s.word.toNat 14 0

/-- BRK (06 R156). -/
def execBrk (s : State) : Host.Outcome State Fault Refusal :=
  run s fun r =>
    let act := (s.stream r).active false
    if act = 0 then .ok (s.complete r .control 0 0)
    else .error (.trap { cause := 0x13, info := w64 s.wordImm, mask := act })

/-- TRAP (06 R157). -/
def execTrap (s : State) : Host.Outcome State Fault Refusal :=
  run s fun r =>
    let act := (s.stream r).active false
    if act = 0 then .ok (s.complete r .control 0 0)
    else .error (.trap { cause := 8, info := w64 s.wordImm, mask := act })

/-- TRET (06 R158). With the handler-active bit clear its illegal-instruction trap reports SUB 3 (log entry 60). -/
def execTret (d : BitVec 6) (redir : Bool) (s : State) : Host.Outcome State Fault Refusal :=
  run s fun r => do
    let t := s.stream r
    need s r 0 (redir || d == 0)
    need s r 3 (t.hact && decide (d.toNat < 32))
    let target := if redir then some (codeAddr (t.creg d.toNat).v.toNat) else none
    return (s.chargeInstr r .control redir.toNat 0).updStream r fun t => t.leaveUser target

/-- ISYNC (06 R161). -/
def execIsync (s : State) : Host.Outcome State Fault Refusal :=
  run s fun r => .ok ((s.complete r .control 0 0).updStream r fun t =>
    { t with loops := t.loops.map fun l => { l with captured := false }, lbuf := [], fetched := [] })

/-- OVLOAD (06 R159). -/
def execOvload (a imm : BitVec 7) (s : State) : Host.Outcome State Fault Refusal :=
  run s fun r => do
    let p ← s.uniform r a.toNat false
    let s' ← p.st.loadPage r false (p.val 0 0 + imm.toNat)
    return s'.complete r .control p.regs 0

/-- OVCALL (06 R160). -/
def execOvcall (a imm : BitVec 7) (s : State) : Host.Outcome State Fault Refusal :=
  run s fun r => do
    let p ← s.uniform r a.toNat false
    let target := codeAddr (p.val 0 0 + 4 * imm.toNat)
    let t := s.stream r
    if 16 ≤ t.rets.length then .error (s.streamFault r 0x14 0)
    else
      let sup := s.inSup r
      let s' ← if s.holdsPage r sup (target.toNat / 4096) then .ok p.st else p.st.loadPage r sup (target.toNat / 4096)
      return (s'.updStream r fun t => { t with rets := (t.pc + 4) :: t.rets }).jump r .control p.regs target

/-- An unassigned opcode: the illegal-instruction trap at every level (05 R137). -/
def execUnassignedOpcode (s : State) : Host.Outcome State Fault Refusal :=
  run s fun r => .error (s.illegal r 0)

end Sys2Proof.Machine
end

