-- ==== Sys2Proof/Machine/Copies.lean ====
section
/-! DEFINITION. Copies and their batches, and the barrier objects: CPY, TCOPY, the copy engine's acceptance and
completion, CSEAL, CWAIT, CWAITN, BARINIT, BARARR, BARWAIT, BARTRY, GBAR (08 R216 to R230, 15 R366). -/

namespace Sys2Proof.Machine

/-! Batches (03 R76, 08 R224, R225). -/

/-- DONE advances over the batches that have completed. -/
def Stream.advanceDone : Nat → Stream → Stream
  | 0, t => t
  | k + 1, t =>
    if t.done ≠ t.sealed ∧ Tab.get 0 t.batchOut (t.done + 1).toNat = 0 then
      Stream.advanceDone k { t with done := t.done + 1, batchOut := Tab.del (t.done + 1).toNat t.batchOut }
    else t

/-- Seal the open copies into a batch; none when it would be a 33rd unfinished one. -/
def Stream.seal (t : Stream) : Option Stream :=
  if 32 ≤ (t.sealed - t.done).toNat then none
  else some (Stream.advanceDone 33 { t with sealed := t.sealed + 1, opn := 0 })

/-- A copy counts toward its batch as completed, with its error if it has one (08 R222). -/
def Stream.copyDone (t : Stream) (batch : BitVec 16) (err : Nat) : Stream :=
  let left := Tab.get 0 t.batchOut batch.toNat - 1
  let t := Stream.advanceDone 33 { t with batchOut := Tab.set 0 t.batchOut batch.toNat left }
  if err ≠ 0 ∧ !bitOf t.copyerr.toNat 31 then
    { t with copyerr := w32 (2 ^ 31 + err * 2 ^ 16 + batch.toNat) }
  else t

/-! The gang's barriers (03 R92, 08 R227, R228). -/

/-- A barrier's offset from an operand: bits 31:4 times 16 (08 R226). -/
def barOffset (x : Nat) : Nat := bits x 31 4 * 16

/-- The barrier lies in the gang's scratchpad. -/
def Gang.holdsBar (g : Gang) (off : Nat) : Bool := decide (off + 16 ≤ g.spSize)

/-- An arrival of n with bytes to take from PENDING; an excess sets OVERRUN (08 R228). -/
def Barrier.arrive (b : Barrier) (bytes n : Nat) : Barrier :=
  let b := if b.pending < bytes then { b with pending := 0, overrun := true } else { b with pending := b.pending - bytes }
  let b := if b.remaining < n then { b with overrun := true } else { b with remaining := b.remaining - n }
  b.settle

/-- A copy arrives on a barrier of a gang. -/
def State.copyArrive (s : State) (g off bytes n : Nat) : State :=
  s.updGang g fun x => x.putBarrier off ((x.barrier off).arrive bytes n)

/-! Issuing copies (08 R216 to R218, R223). -/

/-- The barrier that a command names and its arrival count. -/
def CopyCmd.bar (c : CopyCmd) : Option (Nat × Nat) :=
  match c.what with
  | .box _ b => b
  | .lanes _ _ _ _ => none

/-- A command discarded by its guard slot: it completes with 0 bytes and arrives with 0 bytes (08 R223). -/
def State.discardCopy (s : State) (r : Nat) (c : CopyCmd) : State :=
  let s := s.updStream r fun t => t.copyDone c.batch 0
  match c.bar with
  | none => s
  | some (off, n) =>
    let g := s.gangAt r
    if g.holdsBar off && (g.barrier off).good then s.copyArrive (gangOf r) off 0 n else s

/-- Enqueue a copy and count it in OPEN, or discard it at once; the queue holds 16 (08 R216). -/
def State.issueCopy (s : State) (r : Nat) (gv : Bool) (slot : Nat) (what : CopyWhat) : Except Stop State :=
  let t := s.stream r
  match (if t.opn = 65535 then t.seal else some t) with
  | none => .error (.stall s)
  | some u =>
    if 16 ≤ u.copyQ.length then .error (.stall s)
    else
      let g : Guard := if gv then u.guard slot else .on
      let batch := u.sealed + 1
      let cmd : CopyCmd := { what, guard := if g = .unset then some slot else none, batch }
      let count := Tab.get 0 u.batchOut batch.toNat + 1
      let u := { u with opn := u.opn + 1, batchOut := Tab.put batch.toNat count u.batchOut }
      if g = .off then .ok ((s.setStream r u).discardCopy r cmd)
      else .ok (s.setStream r { u with copyQ := u.copyQ ++ [cmd] })

/-- The switch point of an instruction with Y set, after its whole effect (05 R132). -/
def State.yieldIf (s : State) (r : Nat) (y : Bool) : State := if y then s.switchOut r false else s

/-- CPY (08 R217). -/
def execCpy (y gv : Bool) (slot : BitVec 3) (a b : BitVec 7) (sub : BitVec 4) (s : State) :
    Host.Outcome State Fault Refusal :=
  run s fun r => do
    needHaul s r
    let k := bits sub.toNat 1 0
    need s r 0 (k != 3)
    let srcSp := bitOf sub.toNat 2
    let dstSp := bitOf sub.toNat 3
    let act := (s.stream r).active false
    let p ← s.peek r act [{ f := a.toNat, wide := !srcSp }, { f := b.toNat, wide := !dstSp }] none
    let ls := (lanesOf act).map fun i => (⟨i, s.vid r i, w64 (p.val 0 i), w64 (p.val 1 i)⟩ : CpyLane)
    let s' ← if act = 0 then pure p.st else p.st.issueCopy r gv slot.toNat (.lanes (4 * 2 ^ k) srcSp dstSp ls)
    return ((State.commit r { p with st := s' }).complete r .memory p.regs 0).yieldIf r y

/-- The address of a descriptor that an instruction checks at issue: canonical and 64-byte aligned (08 R218). -/
def checkDesc (em : Word) (addr : Nat) : Except Stop Unit :=
  if !canonical addr then .error (.trap { cause := 0x18, info := w64 addr, mask := em })
  else if addr % 64 ≠ 0 then .error (.trap { cause := 0x1A, info := w64 addr, mask := em })
  else .ok ()

/-- TCOPY (08 R218). -/
def execTcopy (y gv : Bool) (slot : BitVec 3) (a b : BitVec 7) (sub : BitVec 4) (s : State) :
    Host.Outcome State Fault Refusal :=
  run s fun r => do
    needHaul s r
    let bar := bitOf sub.toNat 0
    let t := s.stream r
    let act := t.active false
    let p ← s.peek r 0 (uniWant a :: (if bar then [{ f := b.toNat, allow := .uni }] else [])) none
    let s' ← if act = 0 then pure p.st else do
      checkDesc t.em (p.val 0 0)
      let at_ := if bar then some (barOffset (p.val 1 0), bits sub.toNat 3 1) else none
      p.st.issueCopy r gv slot.toNat (.box (w64 (p.val 0 0)) at_)
    return (s'.complete r .memory p.regs 0).yieldIf r y

/-! Faults of engine translations (15 R366). -/

/-- The stream can take an engine fault: it is live, in no system handler, and its gang neither parks nor is parked. One that
its sibling's crew handler has stopped takes it too (log entry 103). -/
def State.takesFaults (s : State) (r : Nat) : Bool :=
  let t := s.stream r
  let g := s.gangAt r
  (Tab.find r s.streams).isSome && !t.ended && !t.intrap && g.live && !g.halted && !g.parking

/-- An engine fault of an operation waits for its delivery or for its handler's return. A stream that has ended or stops
for a park takes none: its operation walks again and fails. -/
def State.faultHeld (s : State) (r op : Nat) : Bool :=
  let t := s.stream r
  let g := s.gangAt r
  let takes := (Tab.find r s.streams).isSome && !t.ended && g.live && !g.halted && !g.parking
  (takes && t.efaults.any fun f => f.op == op) || (t.serving.map (·.op)) == some op

/-- What an engine operation's translation failure does: it is delivered to the stream the first time it meets the
address, otherwise the operation fails (15 R366). -/
def State.engineMiss (s : State) (r op : Nat) (copy : Bool) (walked : List Nat) (va : Nat) : Miss → Option State
  | .sub n =>
    if s.takesFaults r ∧ !walked.contains va then
      some (s.updStream r fun t => { t with efaults := t.efaults ++ [⟨w64 (wrap 64 (signed 56 va)), n, op, copy⟩] })
    else none
  | _ => none

/-- An integrity fault met by an engine ends its fault domain in the partition (13 R312). -/
def State.engineIntegrity (s : State) (g : Gang) : Miss → State
  | .integrity _ => s.endDomain (fun _ => false) g.part (effFDOM g.effcfg) 0x29
  | _ => s

/-- The stream's instruction in hand has begun its effect, which completes before the stream's next boundary: a SOPEN fill, a
CTXSAVE, a CTXLOAD, or an SSEAL that has proceeded (10 R264, R265, 13 R315; log entry 110). -/
def Stream.begun (t : Stream) : Bool :=
  t.midEffect || match t.wait with
    | some (.sopen _ _ _) | some (.sseal _ _ true) | some (.ctxsave _ _ _ _ _) | some (.ctxload _ _ _) => true
    | _ => false

/-- ENGINE_FAULT_DELIVERY: at its next boundary the stream takes the oldest fault, with SMASK zero (15 R366). -/
def onEngineFaultDelivery (e : Ev) (s : State) : Option State :=
  let r := e.n0
  match (s.stream r).efaults with
  | [] => none
  | f :: rest =>
    if s.takesFaults r ∧ (s.stream r).serving.isNone ∧ !(s.stream r).begun then
      some ((s.updStream r fun t => { t with efaults := rest, serving := some f }).systemTrap r
        { cause := 0x19, sub := f.sub, info := f.addr, mask := 0, word := some (s.spcWord r) })
    else none

/-- ENGINE_FAULT_DELIVERY (15 R366). -/
def execEngineFaultDelivery (s : State) : Host.Outcome State Fault Refusal := event s onEngineFaultDelivery

/-! Descriptors and what a copy moves (08 R218, R219). -/

/-- A dimension of a box. -/
structure BoxDim where
  size : Nat
  extent : Nat
  start : Int
  sstride : Int
  dstride : Int
  deriving DecidableEq, Repr

/-- A copy descriptor, read. -/
structure BoxDesc where
  src : Nat
  dst : Nat
  esize : Nat
  dims : List BoxDim
  ssp : Bool
  dsp : Bool
  mcast : Bool
  rows : Nat
  cols : Nat
  cores : Nat
  fill : Nat
  deriving DecidableEq, Repr

/-- Dimension i of a descriptor's words. -/
def boxDim (ws : List DWord) (i : Nat) : BoxDim :=
  let w (k : Nat) : Nat := wordAt ws (4 + 4 * i + k)
  ⟨bits (w 0) 63 32, bits (w 0) 31 0, signed 32 (w 1), signed 64 (w 2), signed 64 (w 3)⟩

/-- The descriptor is refused: code 8 (08 R221). -/
def boxBad (ws : List DWord) : Bool :=
  let w2 := wordAt ws 2
  let n := bits w2 5 3
  bits w2 63 21 != 0 || decide (4 < bits w2 2 0) || n == 0 || decide (5 < n) || (bitOf w2 8 && !bitOf w2 7) ||
    (List.range 5).any fun i =>
      if i < n then bits (wordAt ws (5 + 4 * i)) 63 32 != 0 || bits (wordAt ws (4 + 4 * i)) 63 32 == 0
      else (List.range 4).any fun k => wordAt ws (4 + 4 * i + k) != 0

/-- A descriptor from its words. -/
def boxDesc (ws : List DWord) : BoxDesc :=
  let w2 := wordAt ws 2
  { src := wordAt ws 0, dst := wordAt ws 1, esize := 2 ^ bits w2 2 0, dims := (List.range (bits w2 5 3)).map (boxDim ws),
    ssp := bitOf w2 6, dsp := bitOf w2 7, mcast := bitOf w2 8, rows := bits w2 12 9, cols := bits w2 16 13,
    cores := bits w2 20 17, fill := wordAt ws 3 }

/-- The tuples of a box, dimension 0 fastest. -/
def tuples : List Nat → List (List Nat)
  | [] => [[]]
  | n :: rest => (tuples rest).flatMap fun r => (List.range n).map (· :: r)

/-- Elements of a box. -/
def BoxDesc.count (d : BoxDesc) : Nat := d.dims.foldl (fun n x => n * x.extent) 1

/-- One element a copy moves: where it comes from, none for FILL, and where it goes, as addresses or scratchpad offsets,
and the virtual id of a CPY's lane at its issue. -/
structure Move where
  src : Option Int
  dst : Int
  vid : Nat
  deriving DecidableEq, Repr

/-- A number in 66-bit arithmetic, read as two's complement (08 R219, log entry 107). -/
def in66 (z : Int) : Int := signed 66 (wrap 66 z)

/-- The elements of a box (08 R219). -/
def BoxDesc.moves (d : BoxDesc) : List Move :=
  let src0 : Int := if d.ssp then (bits d.src 31 0 : Nat) else signed 64 d.src
  let dst0 : Int := if d.dsp then (bits d.dst 31 0 : Nat) else signed 64 d.dst
  (tuples (d.dims.map (·.extent))).map fun j =>
    let each : List (BoxDim × Int) := d.dims.zip (j.map fun i : Nat => (i : Int))
    let inside := each.all fun x => decide (0 ≤ x.1.start + x.2) && decide (x.1.start + x.2 < (x.1.size : Int))
    ⟨if inside then some (in66 (each.foldl (fun a x => a + (x.1.start + x.2) * x.1.sstride) src0)) else none,
      in66 (each.foldl (fun a x => a + x.2 * x.1.dstride) dst0), 0⟩

/-- What an accepted copy moves: bytes of an element, spaces, elements, FILL, and whether every source byte is read
before any is written. -/
structure Plan where
  n : Nat
  ssp : Bool
  dsp : Bool
  moves : List Move
  fill : List Byte
  /-- CPY: each lane's data has its own label, and sources are read first. -/
  perLane : Bool
  /-- Gangs whose scratchpad a DSP copy writes. -/
  gangs : List Nat

/-- The resident gangs of the same node on the cores a multicast names (08 R220); a descriptor with MCAST and no DSP, which is
refused, is no multicast (log entry 114). -/
def State.receivers (s : State) (g : Nat) (d : BoxDesc) : List Nat :=
  let x := s.gang g
  if !d.mcast ∨ !d.dsp then [g]
  else (s.gangsOfNode x.node).filterMap fun p =>
    let c := p.2.core
    let l := clusterOf c % 16
    if dieOf c = dieOf x.core ∧ bitOf d.cores (c % 4) ∧ bitOf d.rows (l / 4) ∧ bitOf d.cols (l % 4) then some p.1 else none

/-- The gangs that an accepted copy was bound to and that have not left their cores since: gang and instance are the same
(08 R220; log entry 121). -/
def State.bound (s : State) (c : Copy) : List Nat :=
  (c.gangs.filter fun x => (Tab.find x.1 s.gangs).map Gang.uid == some x.2).map Prod.fst

/-- The plan of an accepted copy whose descriptor has been read. -/
def State.planOf (s : State) (c : Copy) : Plan :=
  match c.cmd.what with
  | .lanes n ssp dsp ls =>
    { n, ssp, dsp, perLane := true, fill := [], gangs := s.bound c,
      moves := ls.map fun l =>
        ⟨some (if ssp then (bits l.src.toNat 31 0 : Nat) else signed 64 l.src.toNat),
          if dsp then (bits l.dst.toNat 31 0 : Nat) else signed 64 l.dst.toNat, l.vid⟩ }
  | .box _ _ =>
    let d := boxDesc c.desc
    { n := d.esize, ssp := d.ssp, dsp := d.dsp, perLane := false, moves := d.moves,
      fill := (leBytes 8 d.fill ++ leBytes 8 d.fill).take d.esize, gangs := s.bound c }

/-! Acceptance (08 R216, R228). -/

/-- What acceptance finds of one barrier: an error, or the bytes announced there. -/
def State.announce (s : State) (g off bytes : Nat) : State × CopyBar × Nat :=
  let x := s.gang g
  if !x.holdsBar off then (s, ⟨g, off, 0, false⟩, 3)
  else
    let b := x.barrier off
    if !b.good then (s, ⟨g, off, 0, false⟩, 9)
    else if 2 ^ 32 - 1 < b.pending + bytes then (s, ⟨g, off, 0, true⟩, 6)
    else (s.updGang g fun x => x.putBarrier off { b with pending := b.pending + bytes }, ⟨g, off, bytes, true⟩, 0)

/-- Announce a copy on the barriers of the gangs it is bound to. -/
def State.announceAll (s : State) (gs : List Nat) (off bytes : Nat) : State × List CopyBar × Nat :=
  gs.foldl (fun acc g =>
    let (t, b, e) := acc.1.announce g off bytes
    (t, acc.2.1 ++ [b], if acc.2.2 = 0 then e else acc.2.2)) (s, [], 0)

/-- The cluster whose copy engine serves a stream. -/
def State.engineOf (s : State) (r : Nat) : Nat := clusterOf (s.coreNum r)

/-- Change an accepted copy. -/
def State.updCopy (s : State) (cl id : Nat) (f : Copy → Copy) : State :=
  s.updCluster cl fun c => { c with copies := c.copies.map fun x => if x.id = id then f x else x }

/-! Completion (08 R216, R221, R228). -/

/-- A copy ends: it counts toward its batch, arrives on its barriers and leaves the engine, all at one moment. -/
def State.endCopy (s : State) (cl : Nat) (c : Copy) (err lines : Nat) : State :=
  let high := (s.cluster cl).railNow
  let n := match c.cmd.bar with
    | some (_, n) => n
    | none => 0
  let s := c.bars.foldl (fun s b =>
    if b.arrives && (s.bound c).contains b.gang then s.copyArrive b.gang b.offset b.bytes n else s) s
  let s := s.updStream c.stream fun t => t.copyDone c.cmd.batch err
  let s := s.chargeEngine c.stream (lines * (1000 + if high then 50 else 20))
  (s.updCluster cl fun x => { x with copies := x.copies.filter (·.id != c.id) }).dropOp c.id

/-! Acceptance (08 R216, R228). -/

/-- The command at the head of a stream's copy queue is accepted once its descriptor is read, or cannot be (code 5): the checks of
the descriptor and the announcement on the barriers of the gangs it is bound to, with no bytes where it is refused. A box
with an extent of 0 completes at once (08 R219 to R221, R228). -/
def State.takeCopy (s : State) (cl r id : Nat) (cmd : CopyCmd) (ws : Option (List DWord)) : State :=
  let s := s.updStream r fun t => { t with copyQ := t.copyQ.drop 1 }
  let words := ws.getD (List.replicate 24 0)
  let bad := boxBad words
  let d := boxDesc words
  let gs := s.receivers (gangOf r) d
  let (s, bars, e) := match cmd.bar with
    | none => (s, [], 0)
    | some (off, _) => s.announceAll gs off (if bad then 0 else d.count * d.esize)
  let err := if ws.isNone then 5 else if bad then 8 else e
  let c : Copy := { id, stream := r, cmd, desc := words, bars, err, gangs := gs.map fun g => (g, (s.gang g).uid) }
  let s := s.updCluster cl fun x => { x with copies := x.copies ++ [c] }
  if ws.isSome ∧ d.count = 0 then s.endCopy cl c err 0 else s

/-- The engine reads the descriptor of the command at the head: a request to another package goes out, a translation fault is
delivered, or the command is accepted. Until then it stays at the head, so that no later command of its queue is accepted
before it (08 R216, R221, 15 R366, 19 R449). -/
def State.openHead (s : State) (cl r id : Nat) (cmd : CopyCmd) (addr : Nat) : State :=
  let g := s.gangAt r
  match s.engineSpots g .read (va56 addr) 192 with
  | (.error (va, m), s') =>
    match s'.engineMiss r id true cmd.walked va m with
    | some t => t.updStream r fun t => { t with copyQ := match t.copyQ with
        | x :: rest => { x with walked := x.walked ++ [va] } :: rest
        | [] => [] }
    | none => (s'.engineIntegrity g m).takeCopy cl r id cmd none
  | (.ok xs, s') =>
    match s'.engineFetch g.core id xs with
    | some t => t
    | none =>
      if s'.opBad.contains id then s'.takeCopy cl r id cmd none
      else
        let (bs, t) := s'.engineRead g.core id xs
        (t.noteReads g.node xs).takeCopy cl r id cmd (some (dwords 24 bs))

/-- The oldest command of a stream's copy queue is discarded by its slot, or accepted; a held one blocks those behind it
(08 R216, R223). -/
def State.acceptCopy (s : State) (r : Nat) : Option State :=
  let t := s.stream r
  match t.copyQ with
  | [] => none
  | cmd :: rest =>
    let g := match cmd.guard with
      | none => Guard.on
      | some k => t.guard k
    match g with
    | .unset => none
    | .off => some ((s.setStream r { t with copyQ := rest }).discardCopy r cmd)
    | .on =>
      if cmd.op.any (s.faultHeld r) then none
      else
        let cl := s.engineOf r
        let (id, s) := match cmd.op with
          | some id => (id, s)
          | none => s.freshNum
        let cmd := { cmd with guard := none, op := some id }
        match cmd.what with
        | .lanes _ _ _ _ =>
          let own := gangOf r
          let c : Copy := { id, stream := r, cmd, desc := [], bars := [], err := 0, gangs := [(own, (s.gang own).uid)] }
          some ((s.setStream r { t with copyQ := rest }).updCluster cl fun x => { x with copies := x.copies ++ [c] })
        | .box addr _ => some ((s.setStream r { t with copyQ := cmd :: rest }).openHead cl r id cmd addr.toNat)

/-- The queue's commands are accepted one after the other, as far as each can be now. -/
def State.acceptCopies (s : State) (r : Nat) : Nat → State
  | 0 => s
  | k + 1 =>
    match s.acceptCopy r with
    | some t => if (t.stream r).copyQ.length < (s.stream r).copyQ.length then t.acceptCopies r k else t
    | none => s

/-- What a GSET does to the commands that its slot held: those of a true slot are held no longer, those of a false one are
discarded (03 R77). -/
def State.unholdCopies (s : State) (r : Nat) : State :=
  let t := s.stream r
  let gone := t.copyQ.filter fun c => c.guard.any fun k => t.guard k == .off
  let left := (t.copyQ.filter fun c => !(c.guard.any fun k => t.guard k == .off)).map fun c =>
    { c with guard := c.guard.filter fun k => t.guard k == .unset }
  gone.foldl (fun s c => s.discardCopy r c) (s.setStream r { t with copyQ := left })

/-- Commands whose slot a GSET has set proceed at once: the engine accepts the queue's commands in order up to them (03 R77,
08 R216, R234). -/
def State.wakeCopies (s : State) (r : Nat) : State :=
  if (s.stream r).copyQ.any fun c => c.guard.any fun k => (s.stream r).guard k != .unset then
    (s.unholdCopies r).acceptCopies r (s.stream r).copyQ.length
  else s

/-- A byte's place: a memory byte with its page, or a byte of a gang's scratchpad. -/
inductive Byte1 where
  | mem (p : Spot)
  | sp (g off : Nat)
  deriving DecidableEq, Repr

/-- What identifies a place. -/
def Byte1.key : Byte1 → Nat × Nat
  | .mem p => (0, p.pa)
  | .sp g off => (g + 1, off)

/-- An element with its places resolved: source bytes, destination bytes in each target, virtual id of the lane. -/
structure Element where
  src : Option (List Byte1)
  dst : List (List Byte1)
  vid : Nat

/-- The first address of an access of elements that lies outside the range. -/
def outOf56 (a : Int) (n : Nat) : Bool := !(in56 a && in56 (a + (n : Int) - 1))

/-- Resolve addresses for an engine operation: the places, or the address and kind of the first miss. -/
def State.resolveAll (s : State) (g : Gang) (k : Acc) (n : Nat) :
    List Int → Except (Nat × Miss) (List (List Spot)) × State
  | [] => (.ok [], s)
  | a :: rest =>
    match s.engineSpots g k (wrap 56 a) n with
    | (.error m, s) => (.error m, s)
    | (.ok xs, s) =>
      match s.resolveAll g k n rest with
      | (.error m, s) => (.error m, s)
      | (.ok ys, s) => (.ok (xs :: ys), s)

/-- The places of scratchpad offsets. -/
def spPlaces (g n : Nat) (off : Int) : List Byte1 := (List.range n).map fun i => .sp g (off.toNat + i)

/-- The element of a plan is found at a place among the sources: a lookup by position. -/
def zipElements (p : Plan) (g : Nat) (srcs : List (List Spot)) (dsts : List (List Spot)) : List Element :=
  (p.moves.foldl (fun (acc : List Element × List (List Spot) × List (List Spot)) m =>
    let (src, rest) : Option (List Byte1) × List (List Spot) := match m.src with
      | none => (none, acc.2.1)
      | some a => if p.ssp then (some (spPlaces g p.n a), acc.2.1)
        else (some ((acc.2.1.headD []).map .mem), acc.2.1.drop 1)
    let (dst, drest) : List (List Byte1) × List (List Spot) :=
      if p.dsp then (p.gangs.map fun t => spPlaces t p.n m.dst, acc.2.2)
      else ([(acc.2.2.headD []).map .mem], acc.2.2.drop 1)
    (acc.1 ++ [⟨src, dst, m.vid⟩], rest, drest)) ([], srcs, dsts)).1

/-- The label of a place. -/
def State.placeLabel (s : State) : Byte1 → Label
  | .mem p => p.leaf.label
  | .sp g off => (s.gang g).lineLabel (off / 64)

/-- The label of an element's data. -/
def State.elementLabel (s : State) (e : Element) : Label :=
  (e.src.getD []).foldl (fun l b => Label.join l (s.placeLabel b)) 0

/-- The error that a place holds. -/
def State.placeBad (s : State) : Byte1 → Bad
  | .mem p => s.erroneous [p]
  | .sp g off => (s.gang g).lineBad (off / 64)

/-- A byte as an engine operation reads it. -/
def State.placeRead (s : State) (core op : Nat) : Byte1 → Byte × State
  | .mem p => s.engineByte core op p
  | .sp g off => (rdByte (s.gang g).scratch off, s)

/-- The bytes of an element as read from places, or as an element moved earlier has left them. -/
def State.elementRead (s : State) (core op : Nat) (fill : List Byte) (e : Element) (moved : List ((Nat × Nat) × Byte)) :
    List Byte × State :=
  match e.src with
  | none => (fill, s)
  | some bs => bs.foldl (fun (acc : List Byte × State) b =>
      match (moved.filter fun w => w.1 == b.key).getLast? with
      | some w => (acc.1 ++ [w.2], acc.2)
      | none =>
        let (x, t) := acc.2.placeRead core op b
        (acc.1 ++ [x], t)) ([], s)

/-- The error that the checks of a whole copy find, 0 for none (08 R221; log entry 21 for the order). -/
def State.copyError (s : State) (g : Gang) (p : Plan) (es : List Element) : Nat :=
  let all : Label := es.foldl (fun l e => Label.join l (s.elementLabel e)) 0
  let pages (e : Element) : List Spot := e.dst.flatten.filterMap fun b => match b with | .mem x => some x | _ => none
  let lab (e : Element) : Label := if p.perLane then s.elementLabel e else all
  let own (m : Move) : Bool := (List.range p.n).all fun i => g.ranges.any fun b => b.covers g.gangid (wrap 56 (m.dst + i))
  if es.any fun e => (pages e).any fun x => x.leaf.label == 3 then 4
  else if es.any fun e => (pages e).any fun x => decide (x.leaf.label < lab e) then 2
  else if g.det && !p.dsp && !(p.moves.all own) then 7
  else 0

/-- The order in which elements of a copy land, free where they share bytes, by the virtual ids at issue in a deterministic
partition (08 R217, R219, 04 R100, R110), with whether an element reads its source before any is written. -/
def State.copyOrder (s : State) (r : Nat) (p : Plan) (es : List Element) : List (Element × Bool) :=
  let k := s.free
  let dsts : List (Nat × Nat) := es.flatMap fun e => e.dst.flatten.map Byte1.key
  let srcs : List (Nat × Nat) := es.flatMap fun e => (e.src.getD []).map Byte1.key
  let shared := decide (¬ dsts.Nodup)
  let own := !p.perLane && srcs.any fun x => dsts.contains x
  let num := es.zip (List.range es.length)
  let sorted := if !shared && !own then num
    else if p.perLane ∧ (s.gangAt r).det then sortBy (fun a b => decide (a.1.vid < b.1.vid)) num
    else sortBy (fun a b => decide (Config.laneKey k a.2 < Config.laneKey k b.2)) num
  sorted.map fun x => (x.1, !own || Config.laneKey (k + 1) x.2 % 2 == 0)

/-- The scratchpad accesses of a copy, one for each element it reads or writes there: gang and offset (03 R88). -/
def Plan.spOffsets (p : Plan) (own : Nat) : List (Nat × Nat) :=
  (if p.ssp then p.moves.filterMap fun m => m.src.map fun a => (own, a.toNat) else []) ++
    if p.dsp then p.gangs.flatMap fun t => p.moves.map fun m => (t, m.dst.toNat) else []

/-- Move the bytes of a copy that passed its checks: the state and the destination lines. Sealed data that go to another
package leave it provisional (16 R398). -/
def State.moveBytes (s : State) (c : Copy) (p : Plan) (es : List Element) : State × Nat :=
  let g := s.gangAt c.stream
  let all : Label := es.foldl (fun l e => Label.join l (s.elementLabel e)) 0
  let order := s.copyOrder c.stream p es
  -- Each element with its bytes, whether they are in error, and its label.
  let (_, ws, s1) := order.foldl
    (fun (acc : List ((Nat × Nat) × Byte) × List (Byte1 × Byte × Bad × Label) × State) x =>
      let (bs, t) := acc.2.2.elementRead g.core c.id p.fill x.1 (if x.2 then [] else acc.1)
      let bad := (x.1.src.getD []).foldl (fun b y => b.join (t.placeBad y)) Bad.none
      let lab := if p.perLane then s.elementLabel x.1 else all
      let new := x.1.dst.flatMap fun d => (d.zip bs).map fun y => (y.1, y.2, bad, lab)
      (acc.1 ++ new.map (fun y => (y.1.key, y.2.1)), acc.2.1 ++ new, t)) ([], [], { s with free := s.free + 2 })
  let from_ := (es.flatMap fun e => e.src.getD []).filterMap fun b => match b with
    | .mem x => some x
    | _ => none
  let s1 := s1.noteReads g.node from_
  let mem := ws.filterMap fun y => match y.1 with | .mem x => some (x, y.2.1, y.2.2.1) | _ => none
  let pkgs := distinct (mem.filterMap fun y => match s1.window y.1.pa with | .fabric k _ => some k | _ => none)
  let s1 := if pkgs = [] then s1 else s1.lend pkgs (s1.sealedIn (s1.node g.node) from_)
  let s2 := (s1.engineWrite g.core (mem.map fun y => (y.1, y.2.1)) (some c.id)).engineMarks g .none (mem.map (·.1))
  let s2 := s2.engineMarks g .poison ((mem.filter fun y => y.2.2 == .poison).map (·.1))
  let s2 := s2.engineMarks g .integrity ((mem.filter fun y => y.2.2 == .integrity).map (·.1))
  let s3 := p.gangs.foldl (fun s t =>
    let mine := ws.filterMap fun y => match y.1 with
      | .sp u off => if u = t then some (off, y.2.1, y.2.2.2, y.2.2.1) else none
      | _ => none
    if mine = [] then s
    else
      let hit := mine.map fun y => (y.1 / 64, y.2.2.2)
      (s.updGang t fun x => (x.spWrite (mine.map fun y => (y.1, y.2.1, y.2.2.1))).markLines hit).logBad g 1
        (hit.map fun y => (64 * y.1, y.2))) s2
  let s3 := (p.spOffsets (gangOf c.stream)).foldl (fun s y => s.updGang y.1 fun x => x.spCount [(y.2, p.n)]) s3
  (s3, (distinct (ws.map fun y => (y.1.key.1 * 2 ^ 64 + y.1.key.2) / 64)).length)

/-- The scratchpad ranges of a plan lie in the gangs' spaces (08 R221 code 3). -/
def State.spRangeOk (s : State) (r : Nat) (p : Plan) : Bool :=
  let ok (g : Nat) (a : Int) : Bool := decide (0 ≤ a) && decide (a + (p.n : Int) ≤ ((s.gang g).spSize : Int))
  p.moves.all fun m =>
    (match m.src with | some a => !p.ssp || ok (gangOf r) a | none => true) && (!p.dsp || p.gangs.all fun t => ok t m.dst)

/-- A copy waits for a granule move of a scratchpad it touches (03 R89). -/
def State.copyMoving (s : State) (r : Nat) (p : Plan) : Bool :=
  let hit (g : Nat) (a : Int) : Bool :=
    match (s.core (s.gang g).core).move with
    | none => false
    | some m => m.gang == g && (List.range p.n).any fun i => (a.toNat + i) / 32768 == min m.spcur (s.gang g).spcur
  p.moves.any fun m =>
    (match m.src with | some a => p.ssp && hit (gangOf r) a | none => false) || (p.dsp && p.gangs.any fun t => hit t m.dst)

/-- A copy that has moved its bytes ends, or stays until its writes to other packages are acknowledged (19 R449). -/
def State.finishMove (s : State) (cl : Nat) (c : Copy) (lines : Nat) : State :=
  match (s.remotes.filter fun q => q.op == some c.id && q.kind == 1).map (·.id) with
  | [] => s.endCopy cl c 0 lines
  | ids =>
    let high := (s.cluster cl).railNow
    (s.chargeEngine c.stream (lines * (1000 + if high then 50 else 20))).updCopy cl c.id fun x => { x with sent := some ids }

/-- COPY_COMPLETE of a copy with its descriptor read and no error so far. -/
def State.performCopy (s : State) (cl : Nat) (c : Copy) : Option State :=
  let g := s.gangAt c.stream
  let p := s.planOf c
  let srcs := p.moves.filterMap (·.src)
  let memSrc := if p.ssp then [] else srcs
  let memDst := if p.dsp then [] else p.moves.map (·.dst)
  if s.copyMoving c.stream p then none
  else if (memSrc ++ memDst).any fun a => outOf56 a p.n then some (s.endCopy cl c 1 0)
  else
    let fail (s : State) (va : Nat) (m : Miss) : State :=
      match s.engineMiss c.stream c.id true c.walked va m with
      | some t => t.updCopy cl c.id fun x => { x with walked := x.walked ++ [va] }
      | none => (s.engineIntegrity g m).endCopy cl c 5 0
    match s.resolveAll g .read p.n memSrc with
    | (.error (va, m), s) => some (fail s va m)
    | (.ok sx, s) =>
      match s.resolveAll g .write p.n memDst with
      | (.error (va, m), s) => some (fail s va m)
      | (.ok dx, s) =>
        match s.engineFetch g.core c.id sx.flatten with
        | some t => some t
        | none =>
          let es := zipElements p (gangOf c.stream) sx dx
          if dx.flatten.any s.hostHeld then none
          else if s.opBad.contains c.id ∨ dx.flatten.any s.unreachable then some (s.endCopy cl c 5 0)
          else if !s.spRangeOk c.stream p then some (s.endCopy cl c 3 0)
          else
            let e := s.copyError g p es
            if e ≠ 0 then some (s.endCopy cl c e 0)
            else
              let (t, lines) := s.moveBytes c p es
              some (t.finishMove cl c lines)

/-- COPY_COMPLETE for a copy: it ends with the error found at acceptance, moves its bytes, or ends once its writes to other
packages have been answered, with code 5 where one was not (08 R221, 19 R449). -/
def State.stepCopy (s : State) (cl : Nat) (c : Copy) : Option State :=
  if s.faultHeld c.stream c.id then none
  else match c.sent with
    | some ids =>
      if s.remotes.any fun q => ids.contains q.id then none
      else some (s.endCopy cl c (if s.opBad.contains c.id then 5 else 0) 0)
    | none => if c.err ≠ 0 then some (s.endCopy cl c c.err 0) else s.performCopy cl c

/-- COPY_COMPLETE (08 R216): the copy of the number given. -/
def onCopyComplete (e : Ev) (s : State) : Option State :=
  match s.clusters.findSome? fun p => (p.2.copies.find? fun c => c.id == e.n0).map fun c => (p.1, c) with
  | none => none
  | some (cl, c) => s.stepCopy cl c

/-- COPY_COMPLETE (08 R216). -/
def execCopyComplete (s : State) : Host.Outcome State Fault Refusal := event s onCopyComplete

/-- COPY_ACCEPT: the oldest command of a stream's copy queue. -/
def onCopyAccept (e : Ev) (s : State) : Option State :=
  if (s.crewAt e.n0).stopped then none else s.acceptCopy e.n0

/-- COPY_ACCEPT (08 R216). -/
def execCopyAccept (s : State) : Host.Outcome State Fault Refusal := event s onCopyAccept

/-! Sealing and waiting (08 R224, R225, R223). -/

/-- CSEAL (08 R224). -/
def execCseal (d : BitVec 6) (s : State) : Host.Outcome State Fault Refusal :=
  run s fun r => do
    needHaul s r
    need s r 3 (decide (d.toNat < 32))
    match (s.stream r).seal with
    | none => .error (.stall s)
    | some t => return (s.setStream r (t.setC d.toNat ⟨w32 t.sealed.toNat, 0⟩)).complete r .memory 0 0

/-- The guard slot of the first held command whose batch, or that of a command behind it, is one a wait covers
(08 R223). -/
def Stream.heldFor (t : Stream) (covers : BitVec 16 → Bool) : Option Nat :=
  let rest := t.copyQ.dropWhile fun c => match c.guard with
    | some k => t.guard k != .unset
    | none => true
  if rest.any fun c => covers c.batch then rest.head?.bind (·.guard) else none

/-- A wait that no other agent could end raises the guard-wait fault. -/
def State.checkHeld (s : State) (r : Nat) (covers : BitVec 16 → Bool) : Except Stop Unit :=
  match (s.stream r).heldFor covers with
  | some k => .error (s.streamFault r 0x23 k)
  | none => .ok ()

/-- Return COPYERR and clear it: the join of the copies covered (08 R225, 04 R113). -/
def State.takeCopyErr (s : State) (r d : Nat) : State :=
  (s.updStream r fun t => { t.setC d ⟨t.copyerr, 0⟩ with copyerr := 0 }).engineJoin (s.coreNum r)

/-- An instruction that is always a switch point starts its wait (01 R23). -/
def State.waitOut (s : State) (r : Nat) (w : Wait) : State :=
  (s.updStream r fun t => { t with wait := some w }).switchOut r true

/-- An instruction that is always a switch point ends: one that has waited has switched already. -/
def State.endWait (s : State) (r : Nat) (waited : Bool) : State := if waited then s else s.switchOut r false

/-- A batch is pending and not above another: a wait for that one covers it (03 R76, 08 R223). -/
def Stream.coversUpTo (t : Stream) (b x : BitVec 16) : Bool :=
  decide (1 ≤ (x - t.done).toNat) && decide ((x - t.done).toNat ≤ (b - t.done).toNat)

/-- CWAIT (08 R225). -/
def execCwait (d : BitVec 6) (src : BitVec 7) (s : State) : Host.Outcome State Fault Refusal :=
  run s fun r => do
    needHaul s r
    need s r 3 (decide (d.toNat < 32))
    let p ← s.peek r 0 [{ f := src.toNat, allow := .uni }] none
    let t := s.stream r
    let b : BitVec 16 := if srcOf src.toNat = .z then t.sealed else BitVec.ofNat 16 (p.val 0 0)
    if t.batchPending b then
      s.checkHeld r (t.coversUpTo b)
      return s.waitOut r (.cwait b)
    else return ((s.takeCopyErr r d.toNat).complete r .memory p.regs 0).endWait r t.wait.isSome

/-- CWAITN (08 R225). -/
def execCwaitn (d k : BitVec 6) (s : State) : Host.Outcome State Fault Refusal :=
  run s fun r => do
    needHaul s r
    need s r 3 (decide (k.toNat ≤ 32) && decide (d.toNat < 32))
    let t := s.stream r
    let open_ := (t.sealed - t.done).toNat
    if open_ ≤ k.toNat then return (s.takeCopyErr r d.toNat).complete r .memory 0 0
    else
      s.checkHeld r fun b => decide (1 ≤ (b - t.done).toNat) && decide ((b - t.done).toNat ≤ open_ - k.toNat)
      .error (.stall s)

/-! Barriers (08 R226 to R230). -/

/-- The lanes in which a barrier instruction reads its operands: the lowest Active() lane (08 R226). -/
def lowLane (act : Word) : Word := maskOf ((lanesOf act).take 1)

/-- The operand that names a barrier. -/
def barWant (a : BitVec 7) (act : Word) : Want := { f := a.toNat, lanes := some (lowLane act) }

/-- The value of a source in the lowest Active() lane. -/
def Peek.low (p : Peek) (k : Nat) (act : Word) : Nat := p.val k ((lanesOf act).headD 0)

/-- The barrier an instruction names: its range, a granule move, and, but for BARINIT, its format (03 R92). -/
def State.checkBar (s : State) (r off : Nat) (format : Bool) : Except Stop Unit :=
  let g := s.gangAt r
  if !g.holdsBar off then .error (s.streamFault r 0x1B off)
  else if s.moving r off 16 then .error (.stall s)
  else if format ∧ !(g.barrier off).good then .error (s.streamFault r 0x1F off)
  else .ok ()

/-- The sources of BARINIT and BARARR: the barrier and, with imm7 zero, the count. -/
def countWants (d : BitVec 6) (a imm : BitVec 7) (act : Word) : List Want :=
  barWant a act :: (if imm = 0 then [{ f := d.toNat, lanes := some (lowLane act) }] else [])

/-- The count; a count of 0 from d is a barrier-format fault (08 R226). -/
def State.countOf (s : State) (r off : Nat) (p : Peek) (act : Word) (imm : BitVec 7) : Except Stop Nat :=
  if imm ≠ 0 then .ok imm.toNat
  else
    let n := bits (p.low 1 act) 15 0
    if n = 0 then .error (s.streamFault r 0x1F off) else .ok n

/-- BARINIT (08 R227). -/
def execBarinit (d : BitVec 6) (a imm : BitVec 7) (m : Bool) (s : State) : Host.Outcome State Fault Refusal :=
  run s fun r => do
    needHaul s r
    let act := (s.stream r).active m
    if act = 0 then
      s.checkClass r (countWants d a imm act) none
      return s.complete r .memory 0 0
    else
      let p ← s.peek r act (countWants d a imm act) none
      let off := barOffset (p.low 0 act)
      s.checkBar r off false
      let n ← s.countOf r off p act imm
      return ((State.commit r p).updGang (gangOf r) fun g =>
        (g.putBarrier off ⟨0, false, 0, n, n, false⟩).spCount [(off, 16)]).complete r .memory p.regs 1

/-- BARARR (08 R227). -/
def execBararr (d : BitVec 6) (a imm : BitVec 7) (m : Bool) (s : State) : Host.Outcome State Fault Refusal :=
  run s fun r => do
    needHaul s r
    let act := (s.stream r).active m
    if act = 0 then
      s.checkClass r (countWants d a imm act) none
      return s.complete r .memory 0 0
    else
      let p ← s.peek r act (countWants d a imm act) none
      let off := barOffset (p.low 0 act)
      s.checkBar r off true
      let n ← s.countOf r off p act imm
      let b := (s.gangAt r).barrier off
      if b.remaining < n then
        .error (.trapAfter { cause := 4, info := w64 off, mask := (s.stream r).em }
          (s.updGang (gangOf r) fun g => g.putBarrier off { b with overrun := true }))
      else
        return ((State.commit r p).updGang (gangOf r) fun g =>
          (g.putBarrier off { b with remaining := b.remaining - n }.settle).spCount [(off, 16)]).complete r .memory p.regs 1

/-- What a wait or try returns: the phase and whether it is still p (08 R229). -/
def barValue (phase p : Nat) : Nat := phase + (if phase = p then 16 else 0)

/-- Return from BARWAIT or BARTRY: an error of the barrier's line is consumed; otherwise the value with the label of the
line, and where the phase is over the join of the copies bound to it (08 R228, 04 R113, 13 R313). -/
def State.barReturn (s : State) (r : Nat) (dst : Dst) (act : Word) (m : Bool) (off p : Nat) : Except Stop State := do
  let g := s.gangAt r
  let b := g.barrier off
  match g.lineBad (off / 64) with
  | .integrity => .error (s.streamFault r 0x29 off)
  | .poison => .error (.trap { cause := 0x28, sub := 1, info := w64 off, mask := (s.stream r).em })
  | .none =>
    let l := Label.join (g.lineLabel (off / 64)) ((s.stream r).guardLabel m)
    let s' ← (s.updGang (gangOf r) fun g => g.spCount [(off, 16)]).writeDst r dst act fun _ => (barValue b.phase p, l)
    return if b.phase = p then s' else s'.engineJoin (s.coreNum r)

/-- BARWAIT returns: its operand, read at its issue, is used up, and its latches are void, for its shift belongs to its
issue, before the switch (01 R23, 05 R128, 08 R229). -/
def barwaitEnd (r : Nat) (dst : Dst) (a : BitVec 7) (act : Word) (m : Bool) (off ph : Nat)
    (p : Peek) (waited : Bool) : Except Stop State := do
  let s' ← p.st.barReturn r dst act m off ph
  let s' := ((State.commit r { p with st := s' }).complete r .memory (barWant a act).regs 1).endWait r waited
  return s'.updStream r Stream.voidLatches

/-- BARWAIT (08 R229). -/
def execBarwait (nw : Bool) (d : BitVec 6) (a imm : BitVec 7) (m : Bool) (s : State) :
    Host.Outcome State Fault Refusal :=
  run s fun r => do
    needHaul s r
    let t := s.stream r
    let act := t.active m
    let dst : Dst := { n := d.toNat, nw }
    match t.wait with
    | some (.barwait off ph deadline expired) =>
      -- The operand was read at issue.
      s.checkBar r off true
      if ((s.gangAt r).barrier off).phase = ph ∧ !expired then
        return s.waitOut r (.barwait off ph deadline false)
      else
        s.checkRoom r (some dst)
        s.checkPortDst r (some dst)
        barwaitEnd r dst a act m off ph { pops := popsOf [barWant a act], ports := portsOf [barWant a act], st := s } true
    | _ =>
      if act = 0 then
        s.checkClass r [barWant a act] (some dst)
        return (s.complete r .memory 0 0).endWait r t.wait.isSome
      else
        let p ← s.peek r act [barWant a act] (some dst)
        let off := barOffset (p.low 0 act)
        let ph := bits (p.low 0 act) 3 0
        s.checkBar r off true
        if ((s.gangAt r).barrier off).phase = ph then
          return { s with consumed := p.st.consumed }.waitOut r (.barwait off ph (if imm = 0 then none else some (s.now + imm.toNat * 1024)) false)
        else barwaitEnd r dst a act m off ph p false

/-- BARWAIT_TIMEOUT: the bound of a waiting BARWAIT expires (08 R229). -/
def onBarwaitTimeout (e : Ev) (s : State) : Option State :=
  match (s.stream e.n0).wait with
  | some (.barwait off p (some dl) false) =>
    if dl ≤ s.now then some (s.updStream e.n0 fun t => { t with wait := some (.barwait off p (some dl) true) }) else none
  | _ => none

/-- BARWAIT_TIMEOUT (08 R229). -/
def execBarwaitTimeout (s : State) : Host.Outcome State Fault Refusal := event s onBarwaitTimeout

/-- BARTRY (08 R229). -/
def execBartry (nw : Bool) (d : BitVec 6) (a : BitVec 7) (m : Bool) (s : State) : Host.Outcome State Fault Refusal :=
  run s fun r => do
    needHaul s r
    let act := (s.stream r).active m
    let dst : Dst := { n := d.toNat, nw }
    if act = 0 then
      s.checkClass r [barWant a act] (some dst)
      return s.complete r .memory 0 0
    else
      let p ← s.peek r act [barWant a act] (some dst)
      let off := barOffset (p.low 0 act)
      s.checkBar r off true
      let s' ← p.st.barReturn r dst act m off (bits (p.low 0 act) 3 0)
      return (State.commit r { p with st := s' }).complete r .memory p.regs 1

/-- GBAR (08 R230): the stream waits at the gang barrier, which its own arrival may complete. -/
def execGbar (s : State) : Host.Outcome State Fault Refusal :=
  run s fun r => do
    needHaul s r
    match (s.stream r).wait with
    | some (.gbar true) => return s.complete r .memory 0 0
    | _ => return (s.waitOut r (.gbar false)).settleGang (gangOf r)

end Sys2Proof.Machine
end

