-- ==== Sys2Proof/Machine/Residue.lean ====
section
/-! DEFINITION. The residue number system and its instructions (02 R67 to R73, 09 R250 to R252). -/

namespace Sys2Proof.Machine

/-- The moduli of channels 0 to 9 (02 R67). -/
def moduli : List Nat := [509, 503, 499, 491, 487, 479, 467, 463, 521, 523]

/-- The modulus of a channel. -/
def modulus (c : Nat) : Nat := moduli.getD c 1

/-- The product of a list of numbers. -/
def product (xs : List Nat) : Nat := xs.foldl (· * ·) 1

/-- M, the product of the primaries. -/
def rnsM : Nat := product (moduli.take 8)

/-- The retired channel, if RNSMAP names one. -/
def retiredOf (map : Word) : Option Nat := if bitOf map.toNat 4 then some (bits map.toNat 3 0) else none

/-- The residue mode is out of service (02 R73). -/
def rnsOff (map : Word) : Bool := bitOf map.toNat 5

/-- The least non-negative remainder of an integer. -/
def imod (z : Int) (m : Nat) : Nat := (z % (m : Int)).toNat

/-- The residues of an integer; a retired channel holds 0 (02 R68). -/
def forward (map : Word) (z : Int) : List Nat :=
  (List.range 10).map fun c => if retiredOf map = some c then 0 else imod z (modulus c)

/-- Inverse(a, m), within the fuel. -/
def inverseFrom (a m : Nat) : Nat → Nat → Nat
  | 0, _ => 0
  | k + 1, b => if a * b % m = 1 then b else inverseFrom a m k (b + 1)

/-- Inverse(a, m): the b in 1 to m - 1 with a b = 1 mod m (02 R69). -/
def inverse (a m : Nat) : Nat := inverseFrom a m m 1

/-- One mixed-radix digit from the digits before it, with their moduli. -/
def mixedDigit (m residue : Nat) (before : List (Nat × Nat)) : Nat :=
  before.foldl (fun acc d => imod (((acc : Int) - (d.2 : Int)) * (inverse d.1 m : Int)) m) residue

/-- The mixed-radix digits of residues, each with its modulus. -/
def mixedDigits (xs : List (Nat × Nat)) : List (Nat × Nat) :=
  xs.foldl (fun acc x => acc ++ [(x.1, mixedDigit x.1 x.2 acc)]) []

/-- Reconstruct a signed integer from moduli and residues (02 R69). -/
def reconstruct (xs : List (Nat × Nat)) : Int :=
  let value := (mixedDigits xs).foldr (fun d acc => d.2 + d.1 * acc) 0
  let span := product (xs.map Prod.fst)
  if (span - 1) / 2 < value then (value : Int) - (span : Int) else (value : Int)

/-- The residue of a channel. -/
def resOf (rs : List Nat) (c : Nat) : Nat := rs.getD c 0

/-- Channels of a list with their residues. -/
def channels (rs : List Nat) (cs : List Nat) : List (Nat × Nat) := cs.map fun c => (modulus c, resOf rs c)

/-- The value matches a channel. -/
def matches_ (rs : List Nat) (v : Int) (c : Nat) : Bool := imod v (modulus c) == resOf rs c

/-- The value lies within plus or minus (span - 1) / 2. -/
def within (v : Int) (span : Nat) : Bool := decide (v.natAbs ≤ (span - 1) / 2)

/-- The primaries other than one, in ascending order. -/
def primariesBut (k : Nat) : List Nat := (List.range 8).filter (· != k)

/-- The value of candidate channel k, if the candidate holds (02 R70). -/
def candidate (rs : List Nat) (v : Int) (k : Nat) : Option Int :=
  if k < 8 then
    let w := reconstruct (channels rs (primariesBut k ++ [8]))
    if within w rnsM && matches_ rs w 9 then some w else none
  else if k = 8 then (if matches_ rs v 9 && !matches_ rs v 8 then some v else none)
  else if matches_ rs v 8 && !matches_ rs v 9 then some v else none

/-- Value and status in normal mode (02 R70, 09 R252). -/
def reconNormal (rs : List Nat) : Int × Nat :=
  let bad := (List.range 10).filter fun c => decide (modulus c ≤ resOf rs c)
  let v := reconstruct (channels rs (List.range 8))
  match bad with
  | _ :: _ :: _ => (0, 0xE)
  | [k] =>
    match candidate rs v k with
    | some w => (w, k + 1)
    | none => (if k < 8 then 0 else v, 0xE)
  | [] =>
    if matches_ rs v 8 && matches_ rs v 9 then (v, 0)
    else
      match (List.range 10).filterMap fun k => (candidate rs v k).map fun w => (k, w) with
      | [(k, w)] => (w, k + 1)
      | _ => (v, 0xE)

/-- Value and status with channel k retired (02 R72, 09 R252). -/
def reconDegraded (rs : List Nat) (k : Nat) : Int × Nat :=
  if (List.range 10).any fun c => c != k && decide (modulus c ≤ resOf rs c) then (0, 0xF)
  else if k < 8 then
    let w := reconstruct (channels rs (primariesBut k ++ [8]))
    (w, if within w (rnsM / modulus k) && matches_ rs w 9 then 0 else 0xF)
  else
    let v := reconstruct (channels rs (List.range 8))
    (v, if matches_ rs v (17 - k) then 0 else 0xF)

/-- Value and status of residues under a map. -/
def recon (map : Word) (rs : List Nat) : Int × Nat :=
  match retiredOf map with
  | some k => reconDegraded rs k
  | none => reconNormal rs

/-- The residues that five words hold (09 R236). -/
def unpackRes (ws : List Nat) : List Nat := ws.flatMap fun w => [bits w 15 0, bits w 31 16]

/-- The five words of residues. -/
def packRes (rs : List Nat) : List Nat :=
  (List.range 5).map fun k => resOf rs (2 * k) % 2 ^ 16 + resOf rs (2 * k + 1) % 2 ^ 16 * 2 ^ 16

/-! The instructions (09 R250 to R252). -/

/-- RNSMAP of the cluster where a stream runs. -/
def State.rnsmapOf (s : State) (r : Nat) : Word := (s.cluster (clusterOf (s.coreNum r))).rnsmap

/-- The residue-unavailable fault (02 R72). -/
def State.needResidue (s : State) (r : Nat) : Except Stop Unit :=
  if rnsOff (s.rnsmapOf r) then .error (s.streamFault r 0x21 (s.rnsmapOf r).toNat) else .ok ()

/-- A residue operand in v0 to v51, or a uniform one in c0 to c27, as five sources (09 R250). -/
def resWants (s : State) (r f : Nat) (uni : Bool) : Except Stop (List Want) := do
  match srcOf f with
  | .v n => need s r 3 (decide (n < 52))
  | .c n => need s r 3 (uni && decide (n < 28))
  | .q _ => .error (s.illegal r (if s.mayQueue r then 3 else 1))
  | _ => .error (s.illegal r 3)
  return (List.range 5).map fun k => { f := f + k }

/-- Write several registers from d upwards in the lanes of a mask, one latch shift for each. -/
def State.writeRegs (s : State) (r d : Nat) (nw : Bool) (mask : Word) (rows : List (Nat → LV)) : State :=
  s.updStream r fun t =>
    ((List.range rows.length).zip rows).foldl (fun t x => t.putReg (d + x.1) nw mask x.2) t

/-- A residue instruction: n registers written from a function of the lane's source words. -/
def State.residueOp (s : State) (r : Nat) (m nw : Bool) (d n : Nat) (srcs : List Want) (f : List Nat → List Nat) :
    Except Stop State := do
  need s r 3 (decide (d + n ≤ 56))
  let t := s.stream r
  let act := t.active m
  let p ← s.peek r act srcs none
  needArrived s r ((List.range n).map (d + ·))
  s.needResidue r
  let out := (List.range 32).map fun i => if inMask act i then f (p.vals.map fun o => (o.getD i (0, 0)).1) else []
  let lab (i : Nat) : Label := Label.join (p.label i) (t.guardLabel m)
  let rows := (List.range n).map fun k => fun i : Nat => (⟨w32 ((out.getD i []).getD k 0), lab i⟩ : LV)
  return ((State.commit r p).writeRegs r d nw act rows).complete r .float p.regs 0

/-- RNSF (09 R251). -/
def execRnsf (nw : Bool) (d : BitVec 6) (a : BitVec 7) (m : Bool) (s : State) : Host.Outcome State Fault Refusal :=
  run s fun r => do
    needWork s r
    let ty ← s.typeIn r m fun t => isInt t && decide (32 ≤ typeWidth t)
    let map := s.rnsmapOf r
    s.residueOp r m nw d.toNat 5 [{ f := a.toNat, wide := typeWidth ty == 64 }] fun xs =>
      packRes (forward map (if isSigned ty then signed (typeWidth ty) (xs.getD 0 0) else (xs.getD 0 0 : Nat)))

/-- The registers and words that RNSR writes under a TYPE (09 R252). -/
def rnsrWords (ty : Nat) (sat : Bool) (x : Int × Nat) : List Nat :=
  if typeWidth ty = 64 then
    let v := wrap 96 x.1
    [bits v 31 0, bits v 63 32, bits v 95 64, x.2]
  else [narrow ty sat x.1, x.2]

/-- RNSR (09 R252). -/
def execRnsr (nw : Bool) (d : BitVec 6) (a : BitVec 7) (m : Bool) (s : State) : Host.Outcome State Fault Refusal :=
  run s fun r => do
    needWork s r
    let ty ← s.typeIn r m fun t => isInt t && isSigned t && decide (32 ≤ typeWidth t)
    let w ← resWants s r a.toNat false
    let map := s.rnsmapOf r
    let sat := modeSAT ((s.stream r).mode m)
    s.residueOp r m nw d.toNat (if typeWidth ty = 64 then 4 else 2) w fun xs => rnsrWords ty sat (recon map (unpackRes xs))

/-- RNSC (09 R252). -/
def execRnsc (nw : Bool) (d : BitVec 6) (a : BitVec 7) (m : Bool) (s : State) : Host.Outcome State Fault Refusal :=
  run s fun r => do
    needWork s r
    let w ← resWants s r a.toNat false
    let map := s.rnsmapOf r
    s.residueOp r m nw d.toNat 1 w fun xs => [(recon map (unpackRes xs)).2]

/-- A channel-wise operation on two residue operands (09 R251). -/
def channelwise (map : Word) (f : Nat → Nat → Nat) (xs : List Nat) : List Nat :=
  let x := unpackRes (xs.take 5)
  let y := unpackRes (xs.drop 5)
  packRes ((List.range 10).map fun c =>
    if retiredOf map = some c then 0 else f (resOf x c) (resOf y c) % modulus c)

/-- RNSMUL (09 R251). -/
def execRnsmul (nw : Bool) (d : BitVec 6) (a b : BitVec 7) (m : Bool) (s : State) : Host.Outcome State Fault Refusal :=
  run s fun r => do
    needWork s r
    let wa ← resWants s r a.toNat false
    let wb ← resWants s r b.toNat true
    s.residueOp r m nw d.toNat 5 (wa ++ wb) (channelwise (s.rnsmapOf r) (· * ·))

/-- RNSADD (09 R251). -/
def execRnsadd (nw : Bool) (d : BitVec 6) (a b : BitVec 7) (m : Bool) (s : State) : Host.Outcome State Fault Refusal :=
  run s fun r => do
    needWork s r
    let wa ← resWants s r a.toNat false
    let wb ← resWants s r b.toNat true
    s.residueOp r m nw d.toNat 5 (wa ++ wb) (channelwise (s.rnsmapOf r) (· + ·))

end Sys2Proof.Machine
end

