-- ==== Sys2Proof/Machine/Matrix.lean ====
section
/-! DEFINITION. The matrix engine: commands and their checks at issue, acceptance, gathers, passes, weight slots, tile
commands, TWAIT and ACCRD (09 R235 to R249, 17 R415). -/

namespace Sys2Proof.Machine

/-! Names, checks and the command queue (09 R235 to R239). -/

/-- The tile names a command touches: one, or five in a residue form. -/
def tileNames (n : Nat) (res : Bool) : List Nat := if res then (List.range 5).map (n + ·) else [n]

/-- The gang tile of a name in a stream's crew (03 R81). -/
def State.gangTile (s : State) (r n : Nat) : Nat := crewNum r * (s.gangAt r).tstride + n

/-- The tile-range fault (03 R81). -/
def State.checkTiles (s : State) (r : Nat) (names : List Nat) : Except Stop Unit :=
  match names.find? fun n => decide ((s.gangAt r).tiles ≤ s.gangTile r n) with
  | some n => .error (s.streamFault r 0x20 n)
  | none => .ok ()

/-- The checks of a memory address of a command: canonical, then 64-byte aligned (09 R238). -/
def checkMxAddr (em : Word) (addr : Nat) : Except Stop Unit := checkDesc em addr

/-- The checks of scratchpad ranges of lanes: 16-byte aligned, then inside the gang's space (09 R238). -/
def State.checkMxScratch (s : State) (r : Nat) (lanes : List (Nat × Nat)) (n : Nat) (stream : Bool) :
    Except Stop Unit :=
  let ask (x : Nat × Nat) : Ask := ⟨x.1, x.2, true, n, none⟩
  let odd := lanes.filter fun x => x.2 % 16 != 0
  let out := lanes.filter fun x => decide ((s.gangAt r).spSize < x.2 + n)
  let wrap_ (e : Except Stop Unit) : Except Stop Unit := if stream then onStream (s.stream r).em e else e
  if odd ≠ [] then wrap_ (.error (laneTrap 0x1A 0 (odd.map ask)))
  else if out ≠ [] then wrap_ (.error (laneTrap 0x1B 0 (out.map ask)))
  else .ok ()

/-- The issue numbers of a stream's matrix commands that are not complete, with one more. -/
def Stream.mxBegin (t : Stream) (names : List Nat) : Stream :=
  { t with mxSeq := t.mxSeq + 1, mxOut := t.mxOut ++ [(t.mxSeq, names)] }

/-- A matrix command of a stream has completed, with its error if it has one (09 R237). -/
def Stream.mxDone (t : Stream) (seq err tile slot : Nat) : Stream :=
  let t := { t with mxOut := t.mxOut.filter fun x => x.1 != seq }
  if err ≠ 0 ∧ !bitOf t.mxerr.toNat 31 then
    { t with mxerr := w32 (2 ^ 31 + err * 2 ^ 20 + tile * 2 ^ 16 + slot * 2 ^ 10) }
  else t

/-- Enqueue a matrix command, held, proceeding or discarded under its guard slot; the queue holds 16 (09 R235, R239). -/
def State.issueMx (s : State) (r : Nat) (gv : Bool) (slot : Nat) (names : List Nat) (cmd : MxCmd) : Except Stop State :=
  let t := s.stream r
  let g : Guard := if gv then t.guard slot else .on
  if 16 ≤ t.mxQ.length then .error (.stall s)
  else if g = .off then .ok (s.setStream r { t with mxSeq := t.mxSeq + 1 })
  else
    let guard := if g = .unset then some slot else none
    let c := { cmd with guard, seq := t.mxSeq, acq := (s.crewAt r).syncAt }
    .ok (s.setStream r ({ t with mxQ := t.mxQ ++ [c] }.mxBegin names))

/-- A command with its fields, as issued by a stream. -/
def Stream.mxCmd (t : Stream) (op : MxOp) (tile slot : Nat) (z res sp : Bool) (addr : Nat) (rows : List (Nat × Nat)) : MxCmd :=
  { op, guard := none, tile, slot, z, r := res, sp, addr := w64 addr, mode0 := t.mode0, mode1 := t.mode1, rows, seq := 0 }

/-- The address operand of a command: an even uniform pair, or in scratchpad z or a uniform register. -/
def mxAddr (sp : Bool) (a : BitVec 7) : Want := { f := a.toNat, wide := !sp, allow := .uni }

/-- The types WLOAD takes for set 1 (09 R242). -/
def weightType (t : Nat) : Bool := t == 10 || t == 11 || (isInt t && typeWidth t == 8) || isB8 t || isB4 t
/-- The types QMMA takes for set 0 (09 R245). -/
def rowType (t : Nat) : Bool := t == 10 || t == 11 || isB8 t || isB4 t

/-- The TYPE and block checks of a mode set at use (02 R56). -/
def State.needBlocks (s : State) (r : Nat) (mode : Word) (ok : Nat → Bool) : Except Stop Unit := do
  need s r 2 (ok (modeTYPE mode))
  need s r 2 (!(isB4 (modeTYPE mode) && modeBLK mode == 1))

/-- WLOAD (09 R242). -/
def execWload (y gv : Bool) (slot : BitVec 3) (a : BitVec 7) (sp : Bool) (wsl : BitVec 6) (s : State) :
    Host.Outcome State Fault Refusal :=
  run s fun r => do
    needHaul s r
    let t := s.stream r
    s.needBlocks r t.mode1 weightType
    let p ← s.peek r 0 [mxAddr sp a] none
    let s' ← if t.active false = 0 then pure p.st else do
      if sp then s.checkMxScratch r [(0, p.val 0 0)] 12800 true else checkMxAddr t.em (p.val 0 0)
      p.st.issueMx r gv slot.toNat [] (t.mxCmd .wload 0 wsl.toNat false false sp (p.val 0 0) [])
    return (s'.complete r .matrix p.regs 0).yieldIf r y

/-- QMMA's and QMMAR's A-row operand: a vector register, a latch, a uniform register or z. -/
def rowWant (s : State) (r : Nat) (a : BitVec 7) : Except Stop Want :=
  match srcOf a.toNat with
  | .q _ => .error (s.illegal r (if s.mayQueue r then 3 else 1))
  | .t _ => .error (s.illegal r 3)
  | _ => .ok { f := a.toNat }

/-- QMMA and QMMAR at issue (09 R244, R246). -/
def State.issueRows (s : State) (r : Nat) (res y gv : Bool) (slot : Nat) (a : BitVec 7) (z : Bool) (wsl tile : Nat) :
    Except Stop State := do
  needHaul s r
  let t := s.stream r
  if res then
    need s r 2 (isInt (modeTYPE t.mode0) && typeWidth (modeTYPE t.mode0) == 8)
    need s r 3 (decide (tile ≤ 11))
  else s.needBlocks r t.mode0 rowType
  let w ← rowWant s r a
  let act := t.active false
  let p ← s.peek r act [w] none
  let s' ← if act = 0 then pure p.st else do
    s.checkTiles r (tileNames tile res)
    if res then s.needResidue r
    let rows := (lanesOf act).map fun i => (i, p.val 0 i % 2 ^ 32)
    s.checkMxScratch r rows 400 false
    p.st.issueMx r gv slot (tileNames tile res)
      (t.mxCmd (if res then .qmmar else .qmma) tile wsl z res true 0 rows)
  return ((State.commit r { p with st := s' }).complete r .matrix p.regs 0).yieldIf r y

/-- QMMA (09 R244, R245). -/
def execQmma (y gv : Bool) (slot : BitVec 3) (a : BitVec 7) (z : Bool) (wsl : BitVec 6) (tile : BitVec 4) (s : State) :
    Host.Outcome State Fault Refusal :=
  run s fun r => s.issueRows r false y gv slot.toNat a z wsl.toNat tile.toNat

/-- QMMAR (09 R246). -/
def execQmmar (y gv : Bool) (slot : BitVec 3) (a : BitVec 7) (z : Bool) (wsl : BitVec 6) (tile : BitVec 4) (s : State) :
    Host.Outcome State Fault Refusal :=
  run s fun r => s.issueRows r true y gv slot.toNat a z wsl.toNat tile.toNat

/-- ACCZ, ACCLD and ACCST at issue (09 R247). -/
def State.issueTile (s : State) (r : Nat) (op : MxOp) (gv : Bool) (slot : Nat) (a : Option (BitVec 7)) (res sp : Bool)
    (tile : Nat) : Except Stop State := do
  needHaul s r
  let t := s.stream r
  need s r 3 (!res || decide (tile ≤ 11))
  let p ← s.peek r 0 (match a with | some a => [mxAddr sp a] | none => []) none
  let names := tileNames tile res
  let s' ← if t.active false = 0 then pure p.st else do
    s.checkTiles r names
    if res then s.needResidue r
    if a.isSome then
      if sp then s.checkMxScratch r [(0, p.val 0 0)] (4096 * names.length) true else checkMxAddr t.em (p.val 0 0)
    p.st.issueMx r gv slot names (t.mxCmd op tile 0 false res sp (p.val 0 0) [])
  return s'.complete r .matrix p.regs 0

/-- ACCZ (09 R247). -/
def execAccz (gv : Bool) (slot : BitVec 3) (res : Bool) (tile : BitVec 4) (s : State) : Host.Outcome State Fault Refusal :=
  run s fun r => s.issueTile r .accz gv slot.toNat none res false tile.toNat

/-- ACCLD (09 R247). -/
def execAccld (gv : Bool) (slot : BitVec 3) (a : BitVec 7) (res sp : Bool) (tile : BitVec 4) (s : State) :
    Host.Outcome State Fault Refusal :=
  run s fun r => s.issueTile r .accld gv slot.toNat (some a) res sp tile.toNat

/-- ACCST (09 R247). -/
def execAccst (gv : Bool) (slot : BitVec 3) (a : BitVec 7) (res sp : Bool) (tile : BitVec 4) (s : State) :
    Host.Outcome State Fault Refusal :=
  run s fun r => s.issueTile r .accst gv slot.toNat (some a) res sp tile.toNat

/-- WFREE (09 R243). -/
def execWfree (gv : Bool) (slot : BitVec 3) (wsl : BitVec 6) (s : State) : Host.Outcome State Fault Refusal :=
  run s fun r => do
    needHaul s r
    let t := s.stream r
    let s' ← if t.active false = 0 then pure s
      else s.issueMx r gv slot.toNat [] (t.mxCmd .wfree 0 wsl.toNat false false false 0 [])
    return s'.complete r .matrix 0 0

/-! Dependences (09 R240, R241). -/

/-- The gang and gang tiles that an entry names. -/
def State.entryTiles (s : State) (e : MxEntry) : List (Nat × Nat) :=
  match e.cmd.op with
  | .wload | .wfree => []
  | _ => (tileNames e.cmd.tile e.cmd.r).map fun n => (gangOf e.stream, s.gangTile e.stream n)

/-- The entry loads or frees its slot. -/
def MxOp.changesSlot : MxOp → Bool
  | .wload | .wfree => true
  | _ => false

/-- The entry names a slot. -/
def MxOp.hasSlot : MxOp → Bool
  | .wload | .wfree | .qmma | .qmmar => true
  | _ => false

/-- The entry is performed in a pass. -/
def MxOp.isPass : MxOp → Bool
  | .qmma | .qmmar => true
  | _ => false

/-- Two entries conflict on a tile or on a slot (09 R240). -/
def State.conflict (s : State) (a b : MxEntry) : Bool :=
  ((s.entryTiles a).any fun x => (s.entryTiles b).contains x) ||
    (a.cmd.op.hasSlot && b.cmd.op.hasSlot && a.cmd.slot == b.cmd.slot &&
      (a.cmd.op.changesSlot || b.cmd.op.changesSlot))

/-- Every earlier conflicting entry has taken effect or belongs to the pass being formed (09 R241). -/
def State.mxReady (s : State) (table : List MxEntry) (pass : List Nat) (e : MxEntry) : Bool :=
  (table.takeWhile fun x => x.id != e.id).all fun x => pass.contains x.id || !s.conflict x e

/-- Note the moment at which entries became ready (09 R241, 14 R352). -/
def State.noteReady (s : State) (cl : Nat) : State :=
  let table := (s.cluster cl).table
  let now := s.cyclesOf cl
  let note (e : MxEntry) : MxEntry :=
    if e.readyAt.isNone && s.mxReady table [] e then { e with readyAt := some now } else e
  s.updCluster cl fun c => { c with table := c.table.map note }

/-- Change an entry of a reservation table. -/
def State.updEntry (s : State) (cl id : Nat) (f : MxEntry → MxEntry) : State :=
  s.updCluster cl fun c => { c with table := c.table.map fun x => if x.id = id then f x else x }

/-- An entry of the table by its number. -/
def State.entryOf (s : State) (cl id : Nat) : Option MxEntry := (s.cluster cl).table.find? fun e => e.id == id

/-- An entry has taken effect: it leaves the table, and its command is complete with its last entry. -/
def State.endEntry (s : State) (cl : Nat) (e : MxEntry) (err : Nat) : State :=
  let s := ((s.updCluster cl fun c => { c with table := c.table.filter fun x => x.id != e.id }).dropOp e.id).noteReady cl
  let tile := match e.cmd.op with
    | .wload | .wfree => 0
    | _ => e.cmd.tile
  let slot := if e.cmd.op.hasSlot then e.cmd.slot else 0
  let left := (s.cluster cl).table ++ (s.gangAt e.stream).mxSaved
  let more := left.any fun x => x.stream == e.stream && x.cmd.seq == e.cmd.seq
  s.updStream e.stream fun t =>
    if more then { t.mxDone (t.mxSeq + 1) err tile slot with mxOut := t.mxOut } else t.mxDone e.cmd.seq err tile slot

/-! Acceptance (09 R235, R254). -/

/-- The quarters of a command: those that hold a lane, or one entry for every other command. -/
def MxCmd.quarters (c : MxCmd) : List Nat :=
  match c.op with
  | .qmma | .qmmar => (List.range 4).filter fun q => c.rows.any fun x => x.1 / 8 == q
  | _ => [0]

/-- The streams whose cluster an engine serves. -/
def State.engineStreams (s : State) (cl : Nat) : List Nat := (s.streams.map Prod.fst).filter fun r => s.engineOf r == cl

/-- Commands at the head of a stream's matrix queue that no unset slot holds. -/
def Stream.freeMx (t : Stream) : List MxCmd :=
  t.mxQ.takeWhile fun c => match c.guard with
    | some k => t.guard k != .unset
    | none => true

/-- A queued command of another stream was issued before an observation that this one's issue follows: its crew
synchronised after its issue, and this one's crew synchronised then or later and before this issue. What another gang has
queued is passed over while that gang is parked, for it is accepted anew (09 R240, R254, log entry 97). -/
def State.mustFollow (s : State) (r : Nat) (c : MxCmd) : Bool :=
  (s.engineStreams (s.engineOf r)).any fun q => crewOf q != crewOf r && (gangOf q == gangOf r || !(s.gangAt q).parked) &&
    (s.stream q).freeMx.any fun d => match d.rel with
      | some t => decide (t ≤ c.acq)
      | none => false

/-- The oldest command of a stream's matrix queue enters the reservation table, all its entries together, or its slot
discards it (09 R235, R239, R240). -/
def State.acceptMx (s : State) (r : Nat) : Option State :=
  let t := s.stream r
  match t.mxQ with
  | [] => none
  | c :: rest =>
    let g := match c.guard with
      | none => Guard.on
      | some k => t.guard k
    match g with
    | .unset => none
    | .off => some (s.setStream r ({ t with mxQ := rest }.mxDone c.seq 0 0 0))
    | .on =>
      let cl := s.engineOf r
      let qs := c.quarters
      if 64 < (s.cluster cl).table.length + qs.length ∨ s.mustFollow r c then none
      else
        let map := (s.cluster cl).rnsmap
        let keys := (s.part (s.partNum r)).wkeys
        let entries := (qs.zip (List.range qs.length)).map fun x =>
          ({ id := s.fresh + x.2, stream := r, cmd := c, quarter := x.1, phase := .accepted, gathered := [], rnsmap := map,
             wkeys := keys } : MxEntry)
        some ((({ s with fresh := s.fresh + qs.length }.setStream r { t with mxQ := rest }).updCluster cl fun x =>
          { x with table := x.table ++ entries }).noteReady cl)

/-- Entries that a park removed are accepted again before anything else of the gang, in their order (09 R254). -/
def State.reacceptMx (s : State) (r : Nat) (x : MxEntry) : Option State :=
  let g := s.gangAt r
  let cl := s.engineOf r
  let (mine, rest) := g.mxSaved.partition fun y => y.stream == r && y.cmd.seq == x.cmd.seq
  if x.stream ≠ r ∨ 64 < (s.cluster cl).table.length + mine.length then none
  else
    let map := (s.cluster cl).rnsmap
    let keys := (s.part (s.partNum r)).wkeys
    let again := mine.map fun y => { y with rnsmap := map, wkeys := keys, walked := [], readyAt := none }
    some (((s.updGang (gangOf r) fun y => { y with mxSaved := rest }).updCluster cl fun c =>
      { c with table := c.table ++ again }).noteReady cl)

/-- What acceptance would do for a stream now, its core's turn apart. -/
def State.offerMx (s : State) (r : Nat) : Option State :=
  if (s.crewAt r).stopped then none
  else match (s.gangAt r).mxSaved with
    | x :: _ => s.reacceptMx r x
    | [] => s.acceptMx r

/-- The cores of a cluster before a core, from the one whose turn it is. -/
def Cluster.coresBefore (c : Cluster) (k : Nat) : List Nat :=
  ((List.range 4).map fun i => (c.mxTurn + i) % 4).takeWhile (· != k)

/-- MATRIX_ACCEPT: a stream's oldest command, when no core whose turn comes before its own has one to accept
(09 R235, R254). -/
def onMatrixAccept (e : Ev) (s : State) : Option State :=
  let r := e.n0
  let cl := s.engineOf r
  let k := s.coreNum r % 4
  let before := (s.cluster cl).coresBefore k
  match s.offerMx r with
  | none => none
  | some t =>
    if (s.engineStreams cl).any fun q => before.contains (s.coreNum q % 4) && (s.offerMx q).isSome then none
    else some (t.updCluster cl fun c => { c with mxTurn := (k + 1) % 4 })

/-- MATRIX_ACCEPT (09 R235). -/
def execMatrixAccept (s : State) : Host.Outcome State Fault Refusal := event s onMatrixAccept

/-- The head of a stream's matrix queue proceeds or is discarded at once where its slot is set: it is accepted, or keeps its
place with the slot no longer read (03 R77, 09 R239, R255). -/
def State.wakeMx (s : State) (r : Nat) : Nat → State
  | 0 => s
  | n + 1 =>
    let t := s.stream r
    match t.mxQ with
    | [] => s
    | c :: rest =>
      match c.guard with
      | none => s
      | some k =>
        if t.guard k = .unset then s
        else match (if (s.gangAt r).mxSaved.isEmpty || t.guard k == .off then s.acceptMx r else none) with
          | some u => State.wakeMx u r n
          | none => s.setStream r { t with mxQ := { c with guard := none } :: rest }

/-! Gathers (09 R244). -/

/-- The records of a quarter: lane, bytes, label, error. -/
def Gang.gather (g : Gang) (rows : List (Nat × Nat)) : List (Nat × List Byte × Label × Bad) :=
  rows.map fun x => (x.1, g.spBytes x.2 400, g.rangeLabel x.2 400, g.rangeBad x.2 400)

/-- The rows of an entry's quarter. -/
def MxEntry.rows (e : MxEntry) : List (Nat × Nat) := e.cmd.rows.filter fun x => x.1 / 8 == e.quarter

/-- GATHER_COMPLETE: the records of a quarter are read from the issuing gang's scratchpad, waiting for a granule move
(09 R244, R255). -/
def onGatherComplete (e : Ev) (s : State) : Option State :=
  match s.entryOf e.n0 e.n1 with
  | none => none
  | some x =>
    if x.phase ≠ .accepted ∨ !x.cmd.op.isPass ∨ x.rows.any fun y => s.moving x.stream y.2 400 then none
    else
      let high := (s.cluster e.n0).railNow
      let pj := x.rows.length * (if high then 350 else 180)
      let got := (s.gangAt x.stream).gather x.rows
      let s := s.updGang (gangOf x.stream) fun g => g.spCount (x.rows.map fun y => (y.2, 400))
      some ((s.updEntry e.n0 e.n1 fun y => { y with phase := .gathered, gathered := got }).chargeEngine x.stream pj)

/-- GATHER_COMPLETE (09 R244). -/
def execGatherComplete (s : State) : Host.Outcome State Fault Refusal := event s onGatherComplete

/-! Passes (09 R241, R245, R246). -/

/-- The fields of a mode set that a fused pass has in common and a slot records: TYPE, VAR, BLK, SCL. -/
def mxFields (mode : Word) : Nat := bits mode.toNat 17 13 * 2 ^ 13 + bits mode.toNat 8 5 * 2 ^ 5

/-- The entry has its records and nothing earlier holds it up. -/
def State.passReady (s : State) (table : List MxEntry) (pass : List Nat) (e : MxEntry) : Bool :=
  e.cmd.op.isPass && e.phase == .gathered && s.mxReady table pass e

/-- The effective class of an entry, by its age in intervals of 512 cycles since it became ready (14 R352). -/
def State.entryClass (s : State) (cl : Nat) (e : MxEntry) : Nat :=
  effClass (effCLASS (s.gangAt e.stream).effcfg) ((s.cyclesOf cl - e.readyAt.getD (s.cyclesOf cl)) / 512)

/-- An entry goes before another in the arbiter's choice: of higher effective class, or of the same and ready for longer
(14 R352). -/
def State.entryBefore (s : State) (cl : Nat) (a b : MxEntry) : Bool :=
  decide (s.entryClass cl b < s.entryClass cl a) ||
    (s.entryClass cl a == s.entryClass cl b && decide (a.readyAt.getD 0 < b.readyAt.getD 0))

/-- The first element that no other precedes. -/
def firstBy {α : Type} (before : α → α → Bool) : List α → Option α
  | [] => none
  | x :: rest => some (rest.foldl (fun best y => if before y best then y else best) x)

/-- Entries that may join a pass: of the same instruction, slot and fields, of other quarters (09 R241). -/
def fusible (first : MxEntry) (pass : List MxEntry) (e : MxEntry) : Bool :=
  e.cmd.op == first.cmd.op && e.cmd.slot == first.cmd.slot && mxFields e.cmd.mode0 == mxFields first.cmd.mode0 &&
    pass.all fun x => x.quarter != e.quarter && x.id != e.id

/-- The pass that the arbiter forms from an entry: up to three further entries, oldest first. -/
def State.formPass (s : State) (table : List MxEntry) (first : MxEntry) : List MxEntry :=
  table.foldl (fun pass e =>
    if pass.length < 4 && fusible first pass e && s.passReady table (pass.map (·.id)) e then pass ++ [e] else pass) [first]

/-- MATRIX_PASS: the arbiter picks the ready entry of the highest class, the oldest of them, and fuses others into its pass
(09 R241). -/
def onMatrixPass (e : Ev) (s : State) : Option State :=
  let cl := e.n0
  let s := s.noteReady cl
  let table := (s.cluster cl).table
  if table.any fun x => x.phase == .inPass then none
  else match firstBy (s.entryBefore cl) (table.filter (s.passReady table [])) with
    | none => none
    | some first =>
      let ids := (s.formPass table first).map (·.id)
      let mark (x : MxEntry) : MxEntry := if ids.contains x.id then { x with phase := .inPass } else x
      some (s.updCluster cl fun c => { c with table := c.table.map mark })

/-- MATRIX_PASS (09 R241). -/
def execMatrixPass (s : State) : Host.Outcome State Fault Refusal := event s onMatrixPass

/-- Element k of w bits of bytes. -/
def byteElem (bs : List Byte) (w k : Nat) : Nat :=
  if w = 4 then bits ((bs.getD (k / 2) 0).toNat) (4 * (k % 2) + 3) (4 * (k % 2))
  else if w = 8 then (bs.getD k 0).toNat
  else (bs.getD (2 * k) 0).toNat + 256 * (bs.getD (2 * k + 1) 0).toNat

/-- The type takes block scales (02 R55). -/
def hasScales (ty : Nat) : Bool := isB8 ty || isB4 ty

/-- The block length of an operand in elements: 48 where it has no scales (02 R55, R56). -/
def operandBlock (mode : Word) : Nat := if hasScales (modeTYPE mode) then blockLen (modeBLK mode) else 48

/-- The scale of an operand for the chunk that begins at an element. -/
def operandScale (mode : Word) (scales : List Byte) (elem : Nat) : XVal :=
  if hasScales (modeTYPE mode) then
    decodeScale (modeSCL mode) (scales.getD (elem / operandBlock mode) 0).toNat
  else XVal.ofInt 1

/-- The exact sum of a list of values (02 R62). -/
def exactSum : List XVal → XVal
  | [] => .fin false 0 0
  | x :: rest => rest.foldl (XVal.add false) x

/-- One accumulator element over the chunks of a K row, in ascending order (02 R62, 09 R245). -/
def passElement (modeA modeB : Word) (rec_ scalesA col scalesB : List Byte) (acc0 : Nat) : Nat :=
  let w := typeWidth (modeTYPE modeA)
  let len := min (operandBlock modeA) (operandBlock modeB)
  (List.range (384 * 8 / w / len)).foldl (fun acc c =>
    let prod (k : Nat) : XVal := XVal.mul
      (decodeFloat (modeTYPE modeA) (modeVAR modeA) (byteElem rec_ w k))
      (decodeFloat (modeTYPE modeB) (modeVAR modeB) (byteElem col w k))
    let sum := exactSum ((List.range len).map fun i => prod (c * len + i))
    let scaled := XVal.mul (XVal.mul sum (operandScale modeA scalesA (c * len))) (operandScale modeB scalesB (c * len))
    roundFloat 12 false false 0 0 (XVal.add false (decodeFloat 12 false acc) scaled)) acc0

/-- The exact term of a residue element (09 R246). -/
def residueTerm (tyA tyB : Nat) (rec_ col : List Byte) (shift : Nat) : Int :=
  let v (ty : Nat) (b : Byte) : Int := if isSigned ty then signed 8 b.toNat else (b.toNat : Int)
  ((List.range 384).foldl (fun (acc : Int) k => acc + v tyA (rec_.getD k 0) * v tyB (col.getD k 0)) 0) *
    ((2 ^ (8 * shift) : Nat) : Int)

/-- The new residues of an element, by channel; a channel's faulty adder adds a constant to its sum (12 R294, 16 R397). -/
def residueElement (map : Word) (adder : Tab Nat) (z : Bool) (old : List Nat) (term : Int) : List Nat :=
  (List.range 10).map fun c =>
    if retiredOf map = some c then 0
    else imod ((if z then 0 else (resOf old c : Int)) + term + ((Tab.get (0 : Nat) adder c : Nat) : Int)) (modulus c)

/-- A tile of a gang. -/
def Gang.tile (g : Gang) (k : Nat) : Tile := Tab.get {} g.tileStore k

/-- Word e of a tile. -/
def Tile.word (t : Tile) (e : Nat) : Nat := rdNat t.bytes (4 * e) 4

/-- Column j of a slot. -/
def WSlot.column (w : WSlot) (j : Nat) : List Byte := rdBytes w.bytes (384 * j) 384
/-- The scales of column j of a slot. -/
def WSlot.scales (w : WSlot) (j : Nat) : List Byte := rdBytes w.bytes (12288 + 16 * j) 16

/-- The error of a quarter at its turn, 0 for none, in the order of 09 R245. -/
def State.quarterError (s : State) (cl : Nat) (e : MxEntry) : Nat :=
  let w := Tab.get {} (s.cluster cl).slots e.cmd.slot
  let ta := modeTYPE e.cmd.mode0
  let tb := modeTYPE w.mode
  let eight (t : Nat) : Bool := isInt t && typeWidth t == 8
  if w.owner ≠ some (gangOf e.stream) then 11
  else if !w.valid then 12
  else if e.cmd.op = .qmmar then
    (if !eight tb || decide (3 < modeBLK e.cmd.mode0 + modeBLK w.mode) then 13 else 0)
  else if eight tb || typeWidth ta != typeWidth tb then 13
  else 0

/-- Rows of a tile written whole: their words, their errors, and the label of the pass. -/
def Tile.putRows (t : Tile) (rows : List (Nat × List Nat × Bad)) (l : Label) : Tile :=
  let kept (ls : List Nat) : List Nat := ls.filter fun i => !rows.any fun x => x.1 == i
  { bytes := rows.foldl (fun m x => wrBytes m (128 * x.1) (x.2.1.flatMap (leBytes 4))) t.bytes,
    label := Label.join t.label l,
    poison := kept t.poison ++ (rows.filter fun x => x.2.2 != .none).map Prod.fst,
    integ := kept t.integ ++ (rows.filter fun x => x.2.2 == .integrity).map Prod.fst }

/-- The error of a row of a tile. -/
def Tile.rowBad (t : Tile) (i : Nat) : Bad :=
  if t.integ.contains i then .integrity else if t.poison.contains i then .poison else .none

/-- The error of a slot. -/
def WSlot.bad (w : WSlot) : Bad := if w.integ then .integrity else if w.poison then .poison else .none

/-- The error of a row that a pass writes: of its record, of the slot, and of the old row it reads. -/
def passBad (w : WSlot) (z : Bool) (t : Tile) (x : Nat × List Byte × Label × Bad) : Bad :=
  (x.2.2.2.join w.bad).join (if z then .none else t.rowBad x.1)

/-- A quarter of a QMMA at its turn. -/
def Gang.quarterF (g : Gang) (w : WSlot) (e : MxEntry) (k : Nat) : Gang :=
  let t := g.tile k
  let rows := e.gathered.map fun x =>
    let old (j : Nat) : Nat := if e.cmd.z then 0 else t.word (32 * x.1 + j)
    (x.1, (List.range 32).map (fun j =>
      passElement e.cmd.mode0 w.mode x.2.1 (x.2.1.drop 384) (w.column j) (w.scales j) (old j)),
      passBad w e.cmd.z t x)
  let l := e.gathered.foldl (fun l x => Label.join l x.2.2.1) w.label
  { g with tileStore := Tab.put k (t.putRows rows l) g.tileStore }

/-- A quarter of a QMMAR at its turn, into the five tiles from k. -/
def Gang.quarterR (g : Gang) (w : WSlot) (adder : Tab Nat) (e : MxEntry) (k : Nat) : Gang :=
  let shift := modeBLK e.cmd.mode0 + modeBLK w.mode
  let l := (List.range 5).foldl (fun l i => Label.join l (g.tile (k + i)).label)
    (e.gathered.foldl (fun l x => Label.join l x.2.2.1) w.label)
  let word (x : Nat × List Byte × Label × Bad) (j i : Nat) : Nat :=
    let old := unpackRes ((List.range 5).map fun i => (g.tile (k + i)).word (32 * x.1 + j))
    (packRes (residueElement e.rnsmap adder e.cmd.z old
      (residueTerm (modeTYPE e.cmd.mode0) (modeTYPE w.mode) x.2.1 (w.column j) shift))).getD i 0
  (List.range 5).foldl (fun h i =>
    let t := g.tile (k + i)
    let rows := e.gathered.map fun x => (x.1, (List.range 32).map (fun j => word x j i), passBad w e.cmd.z t x)
    { h with tileStore := Tab.put (k + i) (t.putRows rows l) h.tileStore }) g

/-- A quarter takes effect: its error, or its rows (09 R245, R246). -/
def State.performQuarter (s : State) (cl : Nat) (e : MxEntry) : State :=
  let err := s.quarterError cl e
  let w := Tab.get {} (s.cluster cl).slots e.cmd.slot
  let k := s.gangTile e.stream e.cmd.tile
  let hit := e.gathered.map fun x => (e.cmd.tile, passBad w e.cmd.z ((s.gangAt e.stream).tile k) x)
  let s := if err ≠ 0 then s else s.updGang (gangOf e.stream) fun g =>
    if e.cmd.op = .qmmar then g.quarterR w (s.cluster cl).adder e k else g.quarterF w e k
  let high := (s.cluster cl).railNow
  let s := if err ≠ 0 then s
    else (s.chargeEngine e.stream (if high then 13650 else 7320)).logBad (s.gangAt e.stream) 2 hit
  s.endEntry cl e err

/-- PASS_COMPLETE: every quarter of the pass takes effect at once (09 R240). -/
def onPassComplete (e : Ev) (s : State) : Option State :=
  match (s.cluster e.n0).table.filter fun x => x.phase == .inPass with
  | [] => none
  | es => some (es.foldl (fun s x => s.performQuarter e.n0 x) s)

/-- PASS_COMPLETE (09 R240). -/
def execPassComplete (s : State) : Host.Outcome State Fault Refusal := event s onPassComplete

/-! Weight slots (09 R242, R243, 17 R415). -/

/-- The letters of a name as bytes. -/
def ascii (s : String) : List Byte := s.toList.map fun c => b8 c.toNat

/-- A number of n bytes, the most significant first. -/
def beBytes (n x : Nat) : List Byte := (leBytes n x).reverse

/-- AES-256 in counter mode over an image: the counter block of 16-byte block b is NONCE ‖ (b + 1), big-endian (17 R415). -/
def ctrCrypt (key nonce image : List Byte) : List Byte :=
  (List.range image.length).map fun i =>
    image.getD i 0 ^^^ (Config.aesBlock key (fitBytes 12 nonce ++ beBytes 4 (i / 16 + 1))).getD (i % 16) 0

/-- The trailer of a sealed image checks out: its zero fields, its key and its tag (17 R415). -/
def sealedKey (keys : Tab (List Byte)) (image trailer : List Byte) : Option (List Byte) :=
  match Tab.find (trailer.getD 12 0).toNat keys with
  | none => none
  | some key =>
    let tagKey := Config.shake256 (key ++ ascii "WTAG") 32
    let zero := ((trailer.drop 13).take 3 ++ trailer.drop 32).all fun b => b == 0
    if (trailer.getD 12 0).toNat < 16 ∧ zero ∧
        Config.kmac256 tagKey (ascii "QWGT") (trailer.take 16 ++ image) 16 = (trailer.drop 16).take 16 then some key
    else none

/-- Write a slot. -/
def State.setSlot (s : State) (cl k : Nat) (w : WSlot) : State :=
  s.updCluster cl fun c => { c with slots := Tab.put k w c.slots }

/-- A slot with an image's bytes. -/
def WSlot.fill (g : Nat) (mode : Word) (bs : List Byte) (l : Label) (bad : Bad) : WSlot :=
  { owner := some g, valid := true, bytes := wrBytes [] 0 bs, mode := w32 (mxFields mode), label := l,
    poison := bad != .none, integ := bad == .integrity }

/-- A remote read of an engine operation that has failed leaves its data in error. -/
def State.lostOp (s : State) (id : Nat) : Bad := if s.opBad.contains id then .poison else .none

/-- The die's copies of non-coherent lines go before an engine reads at the coherence point (04 R111, 09 R242). -/
def State.freshen (s : State) (core : Nat) (xs : List Spot) : State :=
  xs.foldl (fun s p => match s.window p.pa with
    | .mem a =>
      if p.leaf.nc && (s.l2Find (dieOf core) (a / 64)).map L2Line.st == some Coh.nc then s.l2Del (dieOf core) (a / 64) else s
    | _ => s) s

/-- WLOAD ends with an error, its slot owned and invalid. -/
def State.badLoad (s : State) (cl : Nat) (e : MxEntry) (err : Nat) : State :=
  let w := Tab.get {} (s.cluster cl).slots e.cmd.slot
  (s.setSlot cl e.cmd.slot { w with owner := some (gangOf e.stream), valid := false }).endEntry cl e err

/-- A load-port command has begun: a park waits for it (09 R254, 13 R315). -/
def State.started (s : State) (cl : Nat) (e : MxEntry) : State := s.updEntry cl e.id fun x => { x with phase := .started }

/-- The places of an engine operation's bytes in memory: resolved and with the remote bytes there, or what follows from
a failure: the state after a fault's delivery or a request, or an end with translation error. -/
def State.entrySpots (s : State) (cl : Nat) (e : MxEntry) (k : Acc) (addr n : Nat) (fetch : Bool) :
    Except (State × Bool) (List Spot × State) :=
  let g := s.gangAt e.stream
  match s.engineSpots g k (va56 addr) n with
  | (.error (va, m), s) =>
    match s.engineMiss e.stream e.id false e.walked va m with
    | some t => .error ((t.started cl e).updEntry cl e.id fun x => { x with walked := x.walked ++ [va] }, false)
    | none => .error (s.engineIntegrity g m, true)
  | (.ok xs, s) =>
    match (if fetch then s.engineFetch g.core e.id xs else none) with
    | some t => .error (t.started cl e, false)
    | none => .ok (xs, s)

/-- The image of a sealed page is checked, decrypted and put into the slot, or the check fails (17 R415). -/
def State.sealedLoad (s : State) (cl : Nat) (e : MxEntry) (xs : List Spot) : State :=
  let g := s.gangAt e.stream
  match s.entrySpots cl e .read (e.cmd.addr.toNat + 12800) 64 true with
  | .error (s, false) => s
  | .error (s, true) => s.badLoad cl e 5
  | .ok (ys, s) =>
    let (image, s) := s.engineRead g.core e.id xs
    let (trailer, s) := s.engineRead g.core e.id ys
    match (if ys.all fun p => p.leaf.label == 3 then sealedKey e.wkeys image trailer else none) with
    | none =>
      (s.recordFault (effFDOM g.effcfg) g.part 6 0 0 (w64 ((xs.map (·.pa)).headD 0)) 0 0 0 0 0 true).badLoad cl e 10
    | some key =>
      let plain := ctrCrypt key (trailer.take 12) image
      let s := s.logBad g 0 [((xs.map (·.pa)).headD 0, s.erroneous (xs ++ ys))]
      (s.setSlot cl e.cmd.slot (WSlot.fill (gangOf e.stream) e.cmd.mode1 plain 3 (s.erroneous (xs ++ ys)))).endEntry cl e 0

/-- WLOAD at its turn. -/
def State.performWload (s : State) (cl : Nat) (e : MxEntry) : State :=
  let g := s.gangAt e.stream
  let gn := gangOf e.stream
  let w := Tab.get {} (s.cluster cl).slots e.cmd.slot
  if w.owner.isSome ∧ w.owner ≠ some gn then s.endEntry cl e 11
  else
    let s := s.setSlot cl e.cmd.slot { w with owner := some gn }
    if e.cmd.sp then
      let off := e.cmd.addr.toNat
      let l := g.rangeLabel off 12800
      if l = 3 then s.badLoad cl e 10
      else
        let bad := g.rangeBad off 12800
        let s := (s.updGang gn fun g => g.spCount [(off, 12800)]).logBad g 1 [(off, bad)]
        (s.setSlot cl e.cmd.slot (WSlot.fill gn e.cmd.mode1 (g.spBytes off 12800) l bad)).endEntry cl e 0
    else match s.entrySpots cl e .read e.cmd.addr.toNat 12800 true with
      | .error (s, false) => s
      | .error (s, true) => s.badLoad cl e 5
      | .ok (xs, s) =>
        let s := (s.noteReads g.node xs).freshen g.core xs
        if spotsLabel xs = 3 then s.sealedLoad cl e xs
        else
          let bad := (s.erroneous xs).join (s.lostOp e.id)
          let (bs, s) := s.engineRead g.core e.id xs
          let s := s.logBad g 0 [((xs.map (·.pa)).headD 0, bad)]
          (s.setSlot cl e.cmd.slot (WSlot.fill gn e.cmd.mode1 bs (spotsLabel xs) bad)).endEntry cl e 0

/-- An entry of the load port at its turn: not waiting for a fault, and nothing earlier holds it up (09 R240). -/
def State.portReady (s : State) (cl : Nat) (e : MxEntry) : Bool :=
  !s.faultHeld e.stream e.id && s.mxReady (s.cluster cl).table [] e

/-- WLOAD_PERFORM (09 R242). -/
def onWloadPerform (e : Ev) (s : State) : Option State :=
  match s.entryOf e.n0 e.n1 with
  | none => none
  | some x =>
    if x.cmd.op = .wload ∧ s.portReady e.n0 x ∧ !(x.cmd.sp && s.moving x.stream x.cmd.addr.toNat 12800) then
      some (s.performWload e.n0 x)
    else none

/-- WLOAD_PERFORM (09 R242). -/
def execWloadPerform (s : State) : Host.Outcome State Fault Refusal := event s onWloadPerform

/-- WFREE_PERFORM (09 R243). -/
def onWfreePerform (e : Ev) (s : State) : Option State :=
  match s.entryOf e.n0 e.n1 with
  | none => none
  | some x =>
    if x.cmd.op = .wfree ∧ s.portReady e.n0 x then
      let w := Tab.get {} (s.cluster e.n0).slots x.cmd.slot
      if w.owner = some (gangOf x.stream) then some ((s.setSlot e.n0 x.cmd.slot {}).endEntry e.n0 x 0)
      else some (s.endEntry e.n0 x (if w.owner.isSome then 11 else 0))
    else none

/-- WFREE_PERFORM (09 R243). -/
def execWfreePerform (s : State) : Host.Outcome State Fault Refusal := event s onWfreePerform

/-! Tile commands (09 R247). -/

/-- Tiles from their image: label, and the rows whose bytes carry an error. -/
def Gang.loadTiles (g : Gang) (ks : List Nat) (bs : List Byte) (l : Label) (bad : Nat → Bad) : Gang :=
  ((List.range ks.length).zip ks).foldl (fun g x =>
    let row (i : Nat) : Bad := (bad (4096 * x.1 + 128 * i)).join (bad (4096 * x.1 + 128 * i + 64))
    let t : Tile := { bytes := wrBytes [] 0 ((bs.drop (4096 * x.1)).take 4096), label := l,
                      poison := (List.range 32).filter fun i => row i != .none,
                      integ := (List.range 32).filter fun i => row i == .integrity }
    { g with tileStore := Tab.put x.2 t g.tileStore }) g

/-- The image of tiles. -/
def Gang.tileImage (g : Gang) (ks : List Nat) : List Byte := ks.flatMap fun k => rdBytes (g.tile k).bytes 0 4096

/-- The highest label of tiles. -/
def Gang.tilesLabel (g : Gang) (ks : List Nat) : Label := ks.foldl (fun l k => Label.join l (g.tile k).label) 0

/-- The error of the row that the byte at a position of the image of tiles lies in. -/
def Gang.tileBad (g : Gang) (ks : List Nat) (i : Nat) : Bad :=
  (g.tile (ks.getD (i / 4096) 0)).rowBad (i % 4096 / 128)

/-- ACCLD at its turn. -/
def State.performAccld (s : State) (cl : Nat) (e : MxEntry) (ks : List Nat) : State :=
  let gn := gangOf e.stream
  let g := s.gang gn
  let n := 4096 * ks.length
  let names := (List.range ks.length).map (e.cmd.tile + ·)
  let locs (bad : Nat → Bad) : List (Nat × Bad) :=
    names.flatMap fun k => (List.range 64).map fun i => (k, bad (4096 * (k - e.cmd.tile) + 64 * i))
  if e.cmd.sp then
    let off := e.cmd.addr.toNat
    let bad (i : Nat) : Bad := g.lineBad ((off + i) / 64)
    ((s.updGang gn fun g => (g.loadTiles ks (g.spBytes off n) (g.rangeLabel off n) bad).spCount [(off, n)]).logBad g 2
      (locs bad)).endEntry cl e 0
  else match s.entrySpots cl e .read e.cmd.addr.toNat n true with
    | .error (s, false) => s
    | .error (s, true) => s.endEntry cl e 5
    | .ok (xs, s) =>
      let bad (i : Nat) : Bad := (s.lostOp e.id).join (s.erroneous ((xs.drop i).take 1))
      let (bs, t) := (s.noteReads g.node xs).engineRead g.core e.id xs
      ((t.updGang gn fun g => g.loadTiles ks bs (spotsLabel xs) bad).logBad g 2 (locs bad)).endEntry cl e 0

/-- ACCST at its turn: every check, then every byte. -/
def State.performAccst (s : State) (cl : Nat) (e : MxEntry) (ks : List Nat) : State :=
  let gn := gangOf e.stream
  let g := s.gang gn
  let bs := g.tileImage ks
  let l := g.tilesLabel ks
  let num := bs.zip (List.range bs.length)
  if e.cmd.sp then
    let off := e.cmd.addr.toNat
    let hit := num.map fun x => ((off + x.2) / 64, g.tileBad ks x.2)
    ((s.updGang gn fun g =>
      ((g.spWrite (num.map fun x => (off + x.2, x.1, l))).markLines hit).spCount [(off, bs.length)]).logBad g 1
      (hit.map fun x => (64 * x.1, x.2))).endEntry cl e 0
  else match s.entrySpots cl e .write e.cmd.addr.toNat bs.length false with
    | .error (s, false) => s
    | .error (s, true) => s.endEntry cl e 5
    | .ok (xs, s) =>
      let own := !g.det || (List.range bs.length).all fun i =>
        g.ranges.any fun b => b.covers g.gangid (va56 (e.cmd.addr.toNat + i))
      if xs.any fun p => p.leaf.label == 3 then s.endEntry cl e 4
      else if xs.any fun p => decide (p.leaf.label < l) then s.endEntry cl e 2
      else if !own then s.endEntry cl e 7
      else if xs.any s.hostHeld then s.started cl e
      else
        let hit (b : Bad) : List Spot := ((xs.zip (List.range xs.length)).filter fun x => g.tileBad ks x.2 == b).map Prod.fst
        let s := (s.engineWrite g.core (xs.zip bs)).engineMarks g .none xs
        ((s.engineMarks g .poison (hit .poison)).engineMarks g .integrity (hit .integrity)).endEntry cl e 0

/-- TILE_COMMAND_PERFORM (09 R247). -/
def onTileCommandPerform (e : Ev) (s : State) : Option State :=
  match s.entryOf e.n0 e.n1 with
  | none => none
  | some x =>
    let ks := (s.entryTiles x).map Prod.snd
    if !s.portReady e.n0 x ∨ (x.cmd.sp && s.moving x.stream x.cmd.addr.toNat (4096 * ks.length)) then none
    else match x.cmd.op with
      | .accz => some ((s.updGang (gangOf x.stream) fun g =>
          { g with tileStore := ks.foldl (fun t k => Tab.put k {} t) g.tileStore }).endEntry e.n0 x 0)
      | .accld => some (s.performAccld e.n0 x ks)
      | .accst => some (s.performAccst e.n0 x ks)
      | _ => none

/-- TILE_COMMAND_PERFORM (09 R247). -/
def execTileCommandPerform (s : State) : Host.Outcome State Fault Refusal := event s onTileCommandPerform

/-! Waiting and reading (09 R248, R249, R239). -/

/-- A wait on matrix commands that a command under an unset slot of this stream holds up: the slot (09 R239). -/
def Stream.heldMx (t : Stream) (covers : Nat → Bool) : Option Nat :=
  let rest := t.mxQ.dropWhile fun c => match c.guard with
    | some k => t.guard k != .unset
    | none => true
  if rest.any fun c => covers c.seq then rest.head?.bind (·.guard) else none

/-- TWAIT (09 R248). -/
def execTwait (d : BitVec 6) (allc res : Bool) (tile : BitVec 4) (s : State) : Host.Outcome State Fault Refusal :=
  run s fun r => do
    needHaul s r
    need s r 0 (!allc || (!res && tile == 0))
    need s r 3 (decide (d.toNat < 32))
    let t := s.stream r
    let names := tileNames tile.toNat res
    if !allc then s.checkTiles r names
    let due := t.mxOut.filter fun x => allc || x.2.any names.contains
    if due = [] then
      let s' := s.updStream r fun t => { t.setC d.toNat ⟨t.mxerr, 0⟩ with mxerr := 0 }
      return (s'.engineJoin (s.coreNum r)).complete r .matrix 0 0
    else match t.heldMx fun k => due.any fun x => x.1 == k with
      | some k => .error (s.streamFault r 0x23 k)
      | none => .error (.stall s)

/-- ACCRD (09 R249). -/
def execAccrd (nw : Bool) (d : BitVec 6) (res : Bool) (tile : BitVec 4) (b : BitVec 7) (m : Bool) (s : State) :
    Host.Outcome State Fault Refusal :=
  run s fun r => do
    needWork s r
    let _ ← s.typeIn r m fun t => t == 3 || t == 8 || t == 12
    let names := tileNames tile.toNat res
    need s r 3 (decide (d.toNat + names.length ≤ 56) && (!res || decide (tile.toNat ≤ 11)))
    let t := s.stream r
    let act := t.active m
    let p ← s.peek r act [{ f := b.toNat }] none
    needArrived s r ((List.range names.length).map (d.toNat + ·))
    s.checkTiles r names
    let g := s.gangAt r
    let at_ (i : Nat) : Nat := (p.val 0 i % 1024 + i) % 1024
    let hit (i n : Nat) : Bool := (g.tile (s.gangTile r n)).poison.contains (at_ i / 32)
    let integ (i n : Nat) : Bool := (g.tile (s.gangTile r n)).integ.contains (at_ i / 32)
    match names.find? fun n => (lanesOf act).any fun i => hit i n with
    | some n =>
      let lanes := maskWhere fun i => inMask act i && names.any (hit i)
      if (lanesOf act).any fun i => names.any (integ i) then .error (.trap { cause := 0x29, info := w64 n, mask := lanes })
      else .error (.trap { cause := 0x28, sub := 2, info := w64 n, mask := lanes })
    | none =>
      let rows := names.map fun n => fun i : Nat =>
        let x := g.tile (s.gangTile r n)
        (⟨w32 (x.word (at_ i)), Label.join (Label.join x.label (p.lab 0 i)) (t.guardLabel m)⟩ : LV)
      return ((State.commit r p).writeRegs r d.toNat nw act rows).complete r .matrix p.regs 0

end Sys2Proof.Machine
end

