-- ==== Sys2Proof/Machine/Hub.lean ====
section
/-! DEFINITION. The dispatch hub: reading descriptors and region control blocks, the checks of acceptance, the node table,
and the completion of gangs and nodes (01 R30 to R37, 13 R303 to R305, 14 R333 to R340, 16 R379, R380). -/

namespace Sys2Proof.Machine

/-! What the hub reads, through the partition's page table at the coherence point. -/

/-- The place of an address for the hub; a staged page is readable when its version is sealed or released. -/
def State.hubSpot (s : State) (part va : Nat) : Option Spot × State :=
  match s.walk part (s.part part).lead va with
  | (.leaf l, s) =>
    if l.stg then
      let k := l.pa / 2 ^ 22
      let p := s.pair k
      if s.pageSt k = .sealed ∨ s.pageSt k = .released then (some ⟨frameBase k p.version + va % l.size, l⟩, s) else (none, s)
    else (some ⟨l.pa + va % l.size, l⟩, s)
  | (_, s) => (none, s)

/-- Bytes of one page of device memory, and where they lie; none where they cannot be read. -/
def State.hubPart (s : State) (part va n : Nat) : Option (List Byte × Spot) × State :=
  match s.hubSpot part va with
  | (none, s) => (none, s)
  | (some p, s) =>
    match s.window p.pa with
    | .mem a =>
      if (List.range (n / 64 + 2)).any fun i =>
          decide (64 * (a / 64 + i) < a + n) && (match Tab.find (a / 64 + i) s.marks with
            | some .poison | some .integrity => true
            | _ => false) then (none, s)
      else
        let (bs, s) := s.readCoh (s.part part).lead (p.leaf.attr a) a n
        (some (bs, p), s)
    | _ => (none, s)

/-- Bytes of device memory, of one page or across two. -/
def State.hubBytes (s : State) (part va n : Nat) : Option (List Byte) × State :=
  let room := 2 ^ 16 - va % 2 ^ 16
  if n = 0 then (some [], s)
  else match s.hubPart part va (min n room) with
    | (none, s) => (none, s)
    | (some (a, _), s) =>
      if n ≤ room then (some a, s)
      else match s.hubPart part ((va + room) % 2 ^ 56) (n - room) with
        | (none, s) => (none, s)
        | (some (b, _), s) => (some (a ++ b), s)

/-- Doublewords at a canonical address. -/
def State.hubWords (s : State) (part : Nat) (addr : DWord) (n : Nat) : Option (List DWord) × State :=
  if !canonical addr.toNat then (none, s)
  else match s.hubBytes part (va56 addr.toNat) (8 * n) with
    | (none, s) => (none, s)
    | (some bs, s) => (some (dwords n bs), s)

/-! Boxes (01 R31). -/

/-- A box from its four words. -/
def boxOf (ws : List DWord) (k : Nat) : Box :=
  ⟨w64 (wordAt ws (4 * k)), bits (wordAt ws (4 * k + 1)) 63 32, bits (wordAt ws (4 * k + 1)) 31 0,
    w64 (wordAt ws (4 * k + 2)), w64 (wordAt ws (4 * k + 3))⟩

/-- The box has rows and no gang's box leaves the 56-bit range; its rows are linear in gang and row, so the corners
bound them. -/
def Box.good (b : Box) (gangs : Nat) : Bool :=
  b.len != 0 && b.count != 0 &&
    [0, gangs - 1].all fun g => [0, b.count - 1].all fun i =>
      decide (-(2 ^ 55 : Nat) ≤ (b.row g i).1) && decide ((b.row g i).2 ≤ (2 ^ 55 : Nat))

/-- The boxes of a list. -/
def boxesOf (ws : List DWord) (n : Nat) : List Box := (List.range n).map (boxOf ws)

/-! The staged output list (16 R379, R380). -/

/-- Words 2 to 7 of an entry are zero. -/
def stagedTail (e : List DWord) (ks : List Nat) : Bool := ks.all fun k => wordAt e k == 0

/-- Entry 0 as the witness kind reads it. -/
def stagedFirst (kind : Nat) (e : List DWord) : Bool :=
  let w1 := wordAt e 1
  let ety := bits w1 36 32
  let desc := bitOf w1 37
  let pitch := bits w1 31 0
  let w3 := wordAt e 3
  let types := bits w3 31 27 != 31 && bits w3 26 22 != 31
  if kind = 0 then ety == 0 && !desc && pitch == 0 && stagedTail e [2, 3, 4, 5, 6, 7]
  else if kind = 1 then
    !desc && types && bits w3 12 0 == 0 && bits (wordAt e 2) 63 48 != 0 &&
      (if bitOf w3 13 then ety == 4 else ety == 12) && canonical (wordAt e 4) && canonical (wordAt e 6)
  else if kind = 2 then (ety == 3 || ety == 8 || ety == 12) && pitch == 0 && stagedTail e [2, 3, 4, 5, 6, 7]
  else if kind = 3 then
    !desc && pitch == 0 && ((isInt ety && decide (typeWidth ety ≤ 32)) || isIeee ety) &&
      bits (wordAt e 2) 63 32 == 0 && stagedTail e [3, 5, 6, 7] && canonical (wordAt e 4)
  else
    !desc && pitch == 0 && (ety == 12 || ety == 13) && types && bits w3 21 0 == 0 && stagedTail e [7] &&
      canonical (wordAt e 4) && canonical (wordAt e 6)

/-- An entry of the list keeps its layout. -/
def stagedGood (kind i : Nat) (e : List DWord) : Bool :=
  let w1 := wordAt e 1
  canonical (wordAt e 0) && wordAt e 0 % 2 ^ 21 == 0 && bits w1 63 40 != 0 && bits w1 39 38 == 0 &&
    (if i = 0 then stagedFirst kind e else bits w1 37 0 == 0 && stagedTail e [2, 3, 4, 5, 6, 7])

/-! Node and kernel descriptors (01 R30, R32). -/

/-- The fields of a node descriptor, without its lists; none where it is rejected. -/
def nodeFields (ws : List DWord) : Option NodeDesc :=
  let w (k : Nat) : Nat := wordAt ws k
  let d : NodeDesc := {
    gangs := bits (w 0) 63 40 + 1, threads := bits (w 0) 39 31 + 1, single := bitOf (w 0) 30, kind := bits (w 0) 29 28,
    cores := bitOf (w 0) 27, early := bitOf (w 0) 26, wkind := bits (w 0) 25 22, smin := bits (w 0) 21 17,
    smax := bits (w 0) 16 12, tiles := bits (w 0) 11 5, kdesc := w64 (w 1), args := w64 (w 2), rcb := w64 (w 3),
    xdie := bits (w 8) 3 0 }
  if bits (w 0) 4 0 = 0 ∧ d.kind ≠ 3 ∧ d.wkind ≤ 4 ∧ d.smin ≤ d.smax ∧ d.smax ≤ 16 ∧ d.tiles ≤ 80 ∧
      (List.range 7).all (fun k => canonical (w (k + 1))) ∧ w 1 % 64 = 0 ∧ w 2 % 32 = 0 ∧
      bits (w 8) 63 58 ≤ 32 ∧ bits (w 8) 57 52 ≤ 32 ∧ bits (w 8) 51 47 ≤ 16 ∧ bits (w 8) 46 40 ≤ 64 ∧
      bits (w 8) 39 4 = 0 ∧ (List.range 7).all (fun k => w (k + 9) == 0) ∧
      (d.wkind = 0 ∨ bits (w 8) 51 47 ≠ 0) ∧ (bits (w 8) 51 47 = 0 ∨ w 6 % 64 = 0) then some d
  else none

/-- A node descriptor with its lists, read and checked (14 R335 check 1); none where it is rejected. -/
def State.readNode (s : State) (part : Nat) (addr : DWord) : Option NodeDesc × State :=
  if addr.toNat % 64 ≠ 0 then (none, s)
  else match s.hubWords part addr 16 with
    | (none, s) => (none, s)
    | (some ws, s) =>
      match nodeFields ws with
      | none => (none, s)
      | some d =>
        let w8 := wordAt ws 8
        let (nin, nout, nst, npr) := (bits w8 63 58, bits w8 57 52, bits w8 51 47, bits w8 46 40)
        match s.hubWords part (w64 (wordAt ws 4)) (4 * nin) with
        | (none, s) => (none, s)
        | (some iw, s) =>
          match s.hubWords part (w64 (wordAt ws 5)) (4 * nout) with
          | (none, s) => (none, s)
          | (some ow, s) =>
            match s.hubWords part (w64 (wordAt ws 6)) (8 * nst) with
            | (none, s) => (none, s)
            | (some sw, s) =>
              match s.hubWords part (w64 (wordAt ws 7)) npr with
              | (none, s) => (none, s)
              | (some pw, s) =>
                let ins := boxesOf iw nin
                let outs := boxesOf ow nout
                let staged := (List.range nst).map fun i => (sw.drop (8 * i)).take 8
                let ok := (ins ++ outs).all (fun b => b.good d.gangs) &&
                  (List.range nst).all fun i => stagedGood d.wkind i (staged.getD i [])
                if ok then (some { d with inBoxes := ins, outBoxes := outs, staged, preds := pw }, s) else (none, s)

/-- A kernel descriptor from its words; none where it is rejected. -/
def kernFields (ws : List DWord) : Option KernDesc :=
  let w (k : Nat) : Nat := wordAt ws k
  let size := (bits (w 1) 15 4 + 1) * 4096
  let single := bitOf (w 3) 22
  let hv := bitOf (w 2) 39
  let lv := bitOf (w 2) 14
  let handler := if hv then bits (w 2) 63 40 else 0
  let loader := if lv then bits (w 2) 38 15 else 0
  let entry1 := bits (w 1) 39 16
  let code (a : Nat) : Bool := a % 4 == 0 && decide (a < size)
  if canonical (w 0) ∧ w 0 % 4096 = 0 ∧ bits (w 1) 1 0 = 0 ∧ bits (w 2) 13 0 = 0 ∧ bits (w 3) 4 0 = 0 ∧
      (List.range 4).all (fun k => w (k + 4) == 0) ∧ bits (w 3) 21 20 ≠ 3 ∧ bits (w 3) 19 15 ≤ bits (w 3) 14 10 ∧
      bits (w 3) 14 10 ≤ 16 ∧ bits (w 3) 9 5 ≤ 16 ∧ code (bits (w 1) 63 40) ∧ code entry1 ∧ code handler ∧ code loader ∧
      (single → entry1 = 0) ∧ (lv → loader < (bits (w 1) 3 2 + 1) * 4096) then
    some {
      code := w64 (w 0), entry0 := BitVec.ofNat 24 (bits (w 1) 63 40), entry1 := BitVec.ofNat 24 entry1,
      pages := bits (w 1) 15 4 + 1, resident := bits (w 1) 3 2 + 1,
      handler := if hv then some (BitVec.ofNat 24 handler) else none,
      loader := if lv then some (BitVec.ofNat 24 loader) else none,
      seed := w32 (bits (w 3) 63 32), threads := bits (w 3) 31 23 + 1, single, kind := bits (w 3) 21 20,
      smin := bits (w 3) 19 15, smax := bits (w 3) 14 10, tstride := bits (w 3) 9 5 }
  else none

/-- The node keeps within its kernel: equal values, and a core kind that the kernel allows (01 R33, 14 R335). -/
def KernDesc.allows (k : KernDesc) (d : NodeDesc) : Bool :=
  k.threads == d.threads && k.single == d.single && k.smin == d.smin && k.smax == d.smax &&
    (k.kind == 2 || k.kind == d.kind)

/-! Region control blocks (13 R303 to R305). -/

/-- The 128 bytes of an RCB and its place. An RCB is 64-byte aligned, so each half lies in one page of any size (13 R303). -/
def State.readRcb (s : State) (part : Nat) (va : Nat) : Option (List Byte × Spot) × State :=
  match s.hubPart part va 64 with
  | (none, s) => (none, s)
  | (some (low, p), s) =>
    match s.hubPart part ((va + 64) % 2 ^ 56) 64 with
    | (none, s) => (none, s)
    | (some (high, _), s) => (some (low ++ high, p), s)

/-- The RCBs from an address to the root, own first: address, words, place; none where the chain is rejected. -/
def State.chainWords (part : Nat) : Nat → List DWord → DWord → State →
    Option (List (DWord × List DWord × Spot)) × State
  | 0, _, _, s => (none, s)
  | k + 1, seen, a, s =>
    if seen.contains a ∨ !canonical a.toNat ∨ a.toNat % 64 ≠ 0 then (none, s)
    else match s.readRcb part (va56 a.toNat) with
      | (none, s) => (none, s)
      | (some (bs, p), s) =>
        let ws := dwords 16 bs
        let parent := ws.getD 0 0
        if parent = 0 then (if a = (s.part part).partroot then some [(a, ws, p)] else none, s)
        else match State.chainWords part k (a :: seen) parent s with
          | (none, s) => (none, s)
          | (some rest, s) => (some ((a, ws, p) :: rest), s)

/-- The link of an RCB under its parent's, or of a root: none where a field breaks a rule. -/
def rcbLink (p : Part) (up : Option RcbLink) (a : DWord) (ws : List DWord) : Option RcbLink :=
  let w (k : Nat) : Nat := wordAt ws k
  let ovr := bits (w 4) 63 56
  let pc (hi lo : Nat) : Nat := match up with
    | some u => bits u.cfg.toNat hi lo
    | none => 0
  -- Own value, parent's value in force, in the order of OVR's bits.
  let fields : List (Nat × Nat) := [
    (bits (w 2) 63 48, (up.map (·.cores)).getD 0), (bits (w 2) 47 32, (up.map (·.tiles)).getD 0),
    (bits (w 2) 31 0, (up.map (·.memq)).getD 0), (bits (w 3) 63 32, (up.map (·.energy)).getD 0),
    (bits (w 4) 36 34, pc 36 34), (bits (w 4) 47 40, pc 47 40), (bits (w 4) 39 38, pc 39 38), (bits (w 4) 37 37, pc 37 37)]
  let value (i : Nat) : Nat :=
    let f := fields.getD i (0, 0)
    if bitOf ovr i then f.1 else f.2
  let clean := (List.range 8).all fun i => bitOf ovr i || (fields.getD i (0, 0)).1 == 0
  let above := up.isSome && [0, 1, 2, 3, 4, 6].any fun i => decide ((fields.getD i (0, 0)).2 < value i)
  let reserved := bits (w 3) 31 0 != 0 || bits (w 4) 55 50 != 0 || bits (w 4) 30 0 != 0 ||
    (List.range 9).any fun k => w (k + 7) != 0
  let caps := match up with
    | some u => bits u.cfg.toNat 55 48
    | none => bits p.partcfg.toNat 15 8
  let det := if bitOf p.partcfg.toNat 6 then 1 else value 7
  let depth := match up with
    | some u => bits u.cfg.toNat 33 31 + 1
    | none => 0
  let cap := (BitVec.ofNat 8 (bits (w 4) 55 48) &&& BitVec.ofNat 8 caps).toNat
  if reserved ∨ !clean ∨ above ∨ (up.isNone ∧ ovr ≠ 255) ∨ (up.isSome ∧ value 7 < pc 37 37) then none
  else some {
    addr := a, cores := value 0, tiles := value 1, memq := value 2, energy := value 3,
    cfg := w64 (ovr * 2 ^ 56 + cap * 2 ^ 48 + value 5 * 2 ^ 40 + value 6 * 2 ^ 38 + det * 2 ^ 37 + value 4 * 2 ^ 34 +
      depth * 2 ^ 31) }

/-- The links of a chain, own first, from its words. -/
def chainLinks (p : Part) : List (DWord × List DWord × Spot) → Option (List RcbLink)
  | [] => some []
  | x :: rest =>
    match chainLinks p rest with
    | none => none
    | some ls => (rcbLink p ls.head? x.1 x.2.1).map fun l => l :: ls

/-- A chain as accepted: its links and where its RCBs lie, with the words 5 read. -/
structure Chain where
  links : List RcbLink
  places : List (DWord × Spot × Nat)

/-- Read and check the chain of an RCB (13 R305). -/
def State.readChain (s : State) (part : Nat) (rcb : DWord) : Option Chain × State :=
  match State.chainWords part 8 [] rcb s with
  | (none, s) => (none, s)
  | (some xs, s) =>
    match chainLinks (s.part part) xs with
    | none => (none, s)
    | some links => (some ⟨links, xs.map fun x => (x.1, x.2.2, wordAt x.2.1 5)⟩, s)

/-! The checks of acceptance (14 R335). -/

/-- The clusters of a partition that the retirement map leaves. -/
def State.usable (s : State) (part : Nat) : List Nat :=
  (List.range 64).filter fun c => bitOf (s.part part).partclu.toNat c && !s.isRetired c

/-- The clusters that an instance may run on: its die exclusion, a probe's cluster, or the cluster exclusion where the
die exclusion leaves none (14 R354). -/
def State.allowed (s : State) (part : Nat) (x : Node) : List Nat :=
  let all := s.usable part
  match x.probe with
  | some (c, _) => all.filter (· == c)
  | none =>
    let some_ := all.filter fun c => !bitOf x.xdie (c / 16)
    if some_ ≠ [] ∨ x.origin ≠ .rerun then some_ else all.filter fun c => !bitOf x.xclu.toNat c

/-- The cores of a kind (00 R2). -/
def kindFits (kind core : Nat) : Bool := kind == 2 || (isStreamCore core == (kind == 1))

/-- Crews of a gang. -/
def NodeDesc.crews (d : NodeDesc) : Nat := (d.threads + 31) / 32
/-- Register banks of a gang. -/
def NodeDesc.banks (d : NodeDesc) : Nat := if d.single then d.crews else 2 * d.crews

/-- Gangs that an empty core holds. -/
def NodeDesc.perCore (d : NodeDesc) : Nat := if d.smin = 0 then 48 / d.banks else min (48 / d.banks) (16 / d.smin)

/-- What the cores of an empty cluster add, one after the other, within its 512 tiles. -/
def gains (per tiles : Nat) : Nat → Nat → List Nat
  | 0, _ => []
  | k + 1, left =>
    let n := if tiles = 0 then per else min per (left / tiles)
    n :: gains per tiles k (left - n * tiles)

/-- All gangs of a co-resident node could be resident at once in the empty partition, which no gang can below the shed level
in force (check 5, 14 R341). -/
def State.coresFit (s : State) (part : Nat) (x : Node) (links : List RcbLink) : Bool :=
  let d := x.desc
  let all := (s.allowed part x).flatMap fun c =>
    gains d.perCore d.tiles ((List.range 4).filter fun i => kindFits d.kind (4 * c + i)).length 512
  let cores := links.foldl (fun n l => min n l.cores) 256
  let best := (sortBy (fun a b : Nat => decide (b < a)) all).take cores
  decide ((s.part part).level ≤ effCLASS x.eff) && decide (d.gangs ≤ best.foldl (· + ·) 0) && links.all fun l => decide (d.gangs * d.tiles ≤ l.tiles)

/-- A node that passed every check. -/
structure Checked where
  node : Node
  chain : Chain

/-- Check 5 fails for a co-resident node. A re-execution that no cluster is left for is not judged: it ends with a status of
its own (14 R335, R354). -/
def State.crowded (s : State) (part : Nat) (x : Node) (links : List RcbLink) : Bool :=
  x.desc.cores && (x.origin != .rerun || s.allowed part x != []) && !s.coresFit part x links

/-- The checks of acceptance: the instance as accepted, or the status of its rejection. The instance given holds its
address, origin and exclusions; launcher is the RCB of the gang that launches it. -/
def State.checkNode (s : State) (part : Nat) (x : Node) (launcher : Option DWord) : Except Nat Checked × State :=
  match s.readNode part x.addr with
  | (none, s) => (.error 0x8001, s)
  | (some d, s) =>
    match s.hubWords part d.kdesc 8 with
    | (none, s) => (.error 0x8001, s)
    | (some kw, s) =>
      match kernFields kw with
      | none => (.error 0x8001, s)
      | some k =>
        if !k.allows d then (.error 0x8001, s)
        else match s.readChain part d.rcb with
          | (none, s) => (.error 0x8001, s)
          | (some c, s) =>
            let foreign : Bool := match launcher with
              | none => false
              | some r => d.xdie != 0 || !(c.links.any fun l => l.addr == r)
            let tight := c.links.any fun l =>
              decide (l.tiles < d.tiles) || l.cores == 0 || decide (l.memq < 2 * d.staged.length)
            let own := (c.links.head?.map (·.cfg)).getD 0
            let eff := match x.probe with
              | some (_, cls) => w64 (putBits own.toNat 36 34 cls)
              | none => own
            let y : Node := { x with
              desc := d, kern := k, chain := c.links, eff, memCharge := 2048 * d.staged.length,
              xdie := if x.origin = .rerun then x.xdie else d.xdie }
            if foreign ∨ tight then (.error 0x8001, s)
            else if s.crowded part y c.links then (.error 0x8002, s)
            else (.ok ⟨y, c⟩, s)

/-! The node table (14 R336 to R338). -/

/-- The first free entry: 0 to 4031, or 4032 to 4095 for re-execution posts. -/
def State.freeEntry (s : State) (part : Nat) (rerun : Bool) : Option Nat :=
  let r := if rerun then (List.range 64).map (· + 4032) else List.range 4032
  (r.find? fun i => (Tab.find (4096 * part + i) s.nodes).isNone).map (4096 * part + ·)

/-- The staging charge keeps every RCB of the chain within MEMQ in force. -/
def State.chargeFits (s : State) (part : Nat) (links : List RcbLink) (kib : Nat) : Bool :=
  kib == 0 || links.all fun l => decide ((s.rcbKib part l.addr + kib + 1023) / 1024 ≤ l.memq)

/-- RCBs that no accepted instance charged come into use: DEPTH is written, CUSED, TUSED and MUSED become 0, and EUSED is
taken as it stands (13 R303). -/
def State.useChain (s : State) (part : Nat) (c : Chain) : State :=
  (c.places.zip c.links).foldl (fun s x =>
    let l := x.2
    if (s.part part).rcbs.any fun u => u.addr == l.addr then s
    else match s.window x.1.2.1.pa with
      | .mem a =>
        let e := x.1.2.2
        let depth := bits l.cfg.toNat 33 31
        let u : RcbUse := ⟨l.addr, e * 10 ^ 9, e, a, x.1.2.1.leaf.attr a, depth⟩
        let s := s.updPart part fun p => { p with rcbs := p.rcbs ++ [u] }
        let (w, s) := s.readCoh (s.part part).lead u.held (a + 32) 8
        (s.rcbPut part u 4 (putBits (leNat w) 33 31 depth)).rcbPut part u 6 0
      | _ => s) s

/-- A predecessor's dependence is satisfied: it has left the table, or, for an early start, all its gangs have been
placed (01 R34). -/
def State.predDone (s : State) (early : Bool) (uid : Nat) : Bool :=
  match s.keyOfUid uid with
  | none => true
  | some k => early && decide ((s.node k).desc.gangs ≤ (s.node k).placed)

/-- NODE_READY: waiting instances whose dependences hold become ready (01 R34, 14 R338). -/
def State.settleReady (s : State) : State :=
  (s.nodes.map Prod.fst).foldl (fun s n =>
    let x := s.node n
    if x.st = .waiting ∧ x.preds.all (s.predDone x.desc.early) then
      s.setNode n { x with st := .ready, readyAt := s.now }
    else s) s

/-- What comes of a node offered for acceptance. -/
inductive Offer where
  | rejected (status : Nat) (s : State)
  | waits (s : State)
  | accepted (n : Nat) (s : State)

/-- Offer a node to the hub: its checks, its charge, its entry, the record it will need, its dependences (14 R335 to R337;
log entry 122). -/
def State.offer (s : State) (part : Nat) (x : Node) (launcher : Option DWord) : Offer :=
  match s.checkNode part x launcher with
  | (.error e, s) => .rejected e s
  | (.ok c, s) =>
    let y := c.node
    match s.freeEntry part (y.origin == .rerun) with
    | none => .waits s
    | some n =>
      if !s.recordRoom part ∨ !s.chargeFits part y.chain y.memCharge then .waits s
      else
        let (uid, s) := s.freshNum
        let last (a : DWord) : Option Nat := ((s.part part).latest.find? fun p => p.1 == a).map Prod.snd
        let preds := (y.desc.preds.filterMap last).filter fun u => (s.keyOfUid u).isSome
        let s := s.useChain part c.chain
        let s := s.setNode n { y with uid, inst := n % 4096, st := .waiting, preds, readyAt := s.now, lastPlaced := s.now }
        let s := s.updPart part fun p => { p with latest := (y.addr, uid) :: p.latest.filter (·.1 != y.addr) }
        .accepted n ((s.showCharges part y.chain).settleReady)

/-! Posts from the host (14 R333, R334). -/

/-- POST_FORWARD: the oldest post goes to the hub, which checks its RCB chain; it waits while the headframe keeps all the
completion records that it can (19 R446; log entry 122). -/
def onPostForward (e : Ev) (s : State) : Option State :=
  let k := e.n0
  let p := s.part k
  match p.posts, p.hubPost with
  | rcb :: rest, none =>
    if !s.recordRoom k then none else
    let s := (s.setPart k { p with posts := rest }).admitPosts k
    match s.hubWords k rcb 2 with
    | (none, s) => some (s.postCompletion k rcb 0x8001 0 false)
    | (some ws, s) =>
      let root := ws.getD 1 0
      match s.readChain k rcb with
      | (none, s) => some (s.postCompletion k (if root = 0 then rcb else root) 0x8001 0 false)
      | (some _, s) => if root = 0 then some s else some (s.updPart k fun p => { p with hubPost := some (root, rcb) })
  | _, _ => none

/-- POST_FORWARD (14 R333). -/
def execPostForward (s : State) : Host.Outcome State Fault Refusal := event s onPostForward

/-- NODE_ACCEPT: the posted root node is accepted, rejected, or waits for room (14 R335, R336). -/
def onNodeAccept (e : Ev) (s : State) : Option State :=
  let k := e.n0
  match (s.part k).hubPost with
  | none => none
  | some (addr, _) =>
    let taken (s : State) : State := (s.updPart k fun p => { p with hubPost := none }).admitPosts k
    if !s.recordRoom k then none else
    match s.offer k { addr, origin := .post } none with
    | .rejected st s => some ((taken s).postCompletion k addr st 0 false)
    | .waits _ => none
    | .accepted _ s => some (taken s)

/-- NODE_ACCEPT (14 R335). -/
def execNodeAccept (s : State) : Host.Outcome State Fault Refusal := event s onNodeAccept

/-! Completion (01 R37, 14 R338, R340). -/

/-- The staged page of list index i reached its seal count in the instance. -/
def State.reached (s : State) (x : Node) (i : Nat) : Bool :=
  x.versions.any fun v => v.1 == i && (s.ver v.2.1 v.2.2).st != .opened

/-- A seal count was not reached: the verdict, for a first run in an entry of its own, and every version becomes void; a
probe's have no entry (16 R393, R395). -/
def State.failSeal (s : State) (n : Nat) : State :=
  let x := s.node n
  let s := s.updNode n fun y => { y with short := true }
  if x.probe.isSome then s.voidNode x false 0
  else
    let v := (x.versions.headD (0, 0, 0))
    let live := x.versions.filter fun v => (s.ver v.2.1 v.2.2).st == .opened || (s.ver v.2.1 v.2.2).st == .sealed
    let page := ((x.desc.staged.getD v.1 []).getD 0 0).toNat
    let s := match x.entry with
      | some q => s.amendRecord q (s.verdictWords 6) true
      | none => s
    let (q, s) := s.recordSeq (effFDOM x.eff) (partOfNode n) 13 6 0 x.addr 0 page (v.2.2 * 2 ^ 32 + live.length * 2 ^ 16)
      (x.entry.getD 0) 0 true
    s.voidNode x false q

/-- CORE2 with V2 (16 R404). -/
def setCore2 (core : Nat) (ws : List DWord) : List DWord :=
  ws.set 2 (w64 (putBits (putBits (wordAt ws 2) 55 48 core) 39 39 1))

/-- A node that completes after a residue report named it is that entry's re-run (12 R294; log entry 112). -/
def State.noteRerun (s : State) (n : Nat) : State :=
  let x := s.node n
  let core := s.firstCore x
  let hit (ws : List DWord) : Bool :=
    bits (wordAt ws 0) 19 16 == 2 && bits (wordAt ws 0) 23 20 == partOfNode n && wordAt ws 1 == x.addr.toNat &&
      bits (wordAt ws 0) 15 12 != 0 && !bitOf (wordAt ws 2) 39
  (s.record.filter fun e => hit e.words).foldl (fun s e => s.amendRecord e.seq (setCore2 core) true) s

/-- NODE_COMPLETE: the instance leaves the table. With a seal count not reached, its versions become void (16 R395). -/
def State.completeNode (s : State) (n : Nat) : State :=
  let x := s.node n
  let whole := (List.range x.desc.staged.length).all (s.reached x)
  let s := (if whole then s else s.failSeal n).noteRerun n
  if x.left then (s.endInstance n 0x8006).settleReady
  else
    let s := s.leaveTable n .complete 0
    let s := if x.origin = .post then s.postCompletion (partOfNode n) x.addr 0 (n % 4096) false else s
    s.settleReady

/-- A CTXSAVE of the gang is in progress. -/
def State.saving (s : State) (g : Nat) : Bool :=
  s.streams.any fun p => match p.2.wait with
    | some (.ctxsave k _ _ _ none) => k == g
    | _ => false

/-- The streams of a gang have issued nothing that is still under way: no queued or accepted copy, matrix command,
collective, load or context image (01 R37). -/
def State.gangDrained (s : State) (g : Nat) : Bool :=
  let x := s.gang g
  let cl := s.cluster (clusterOf x.core)
  x.mxSaved.isEmpty && (streamsOf g x).all fun r =>
    let t := s.stream r
    t.copyQ.isEmpty && t.mxQ.isEmpty && t.collsOut.isEmpty && t.loads.isEmpty && !t.wait.any Wait.image &&
      !(cl.copies.any fun c => c.stream == r) && !(cl.table.any fun e => e.stream == r)

/-- A gang leaves its core: its slots become free, its banks, scratchpad and tiles are given back (03 R88, 09 R243). -/
def State.removeGang (s : State) (g : Nat) : State :=
  let x := s.gang g
  let cl := clusterOf x.core
  let free (w : WSlot) : WSlot := if w.owner = some g then {} else w
  let s := s.updCluster cl fun c => { c with slots := Tab.mapVals (fun _ w => free w) c.slots }
  let s := s.updCore x.core fun c => { c with
    l1gran := c.l1gran + (match c.move with
      | some m => if m.gang = g then max m.spcur x.spcur else x.spcur
      | none => x.spcur),
    move := if (c.move.map (·.gang)) = some g then none else c.move }
  let s := { s with
    streams := s.streams.filter fun p => gangOf p.1 != g,
    crews := s.crews.filter fun p => p.1 / 16 != g,
    gangs := Tab.del g s.gangs,
    colls := s.colls.filter fun c => gangOf c.stream != g,
    cur := if s.cur.map gangOf = some g then none else s.cur }
  if s.gangs.any fun p => clusterOf p.2.core == cl then s else s.updCluster cl fun c => { c with emptyAt := s.now }

/-- A witness area as the assay die receives it: a fault of nature may flip bits of one word (11 R282). -/
def flipWord (ws : List Word) (i flips : Nat) : List Word :=
  if flips = 0 then ws else ws.set i (ws.getD i 0 ^^^ w32 flips)

/-- What is still due before the writes of a gang, on every core that a gang of its instance has been on, are released at system
scope: none when nothing is (19 R447; log entry 123). -/
def State.writesDue (s : State) (x : Gang) : Option State :=
  (distinct (x.core :: ((s.findUid x.uid).map Node.wasOn).getD [])).findSome? fun c => s.domainWait c 7

/-- GANG_COMPLETE: the gang publishes its completion, a release at device scope; its witness area goes to the assay
die, its charges are returned, and its node may complete (01 R37). The remains of a gang of an ended node go too, once a
save of it has ended (13 R332). Both wait for the release of the core's writes at system scope, which a completion record
follows (19 R447; log entry 123). -/
def onGangComplete (e : Ev) (s : State) : Option State :=
  let g := e.n0
  match Tab.find g s.gangs with
  | none => none
  | some x =>
    if !((crewsOf g x).all fun k => (s.crew k).ended) ∨ !s.gangDrained g ∨ !(x.halted || x.live) ∨ (x.halted && s.saving g) then
      none
    else if (s.writesDue x).isSome then s.writesDue x
    else if x.halted then some ((s.release x.core 6).removeGang g).settleEnds
    else
      let s := s.release x.core 6
      let words := flipWord (x.witness.map Prod.fst) e.n2 e.n1
      let s := s.updNode x.node fun n => { n with
        doneGangs := n.doneGangs ++ [x.gangid],
        witness := if n.desc.wkind = 0 then n.witness else n.witness ++ [(x.gangid, x.core, words)],
        ranOn := n.ranOn ++ [(x.gangid, x.core)] }
      let s := s.removeGang g
      let n := s.node x.node
      let s := s.showCharges (partOfNode x.node) n.chain
      if n.doneGangs.length < n.desc.gangs then some s
      else if n.desc.wkind ≠ 0 then some (s.updNode x.node fun n => { n with st := .handoff })
      else some (s.completeNode x.node)

/-- GANG_COMPLETE (01 R37). -/
def execGangComplete (s : State) : Host.Outcome State Fault Refusal := event s onGangComplete

/-- WITNESS_HANDOFF: the assay die accepts the witness areas, and the node completes (01 R37). -/
def onWitnessHandoff (e : Ev) (s : State) : Option State :=
  match Tab.find e.n0 s.nodes with
  | none => none
  | some x => if x.st = .handoff then some (s.completeNode e.n0) else none

/-- WITNESS_HANDOFF (01 R37). -/
def execWitnessHandoff (s : State) : Host.Outcome State Fault Refusal := event s onWitnessHandoff

end Sys2Proof.Machine
end

