-- ==== Sys2Proof/Machine/Place.lean ====
section
/-! DEFINITION. Placing gangs on cores: resources, eligibility, budgets, reservations, and the start of a gang's crews
(01 R21, R38, 03 R88, 13 R314, 14 R341 to R347). -/

namespace Sys2Proof.Machine

/-! Resources of a core and a cluster (01 R21). -/

/-- Register banks that a gang occupies. -/
def Gang.banks (g : Gang) : Nat := if g.single then g.crews else 2 * g.crews

/-- The gangs on a core, whatever their state. -/
def State.onCore (s : State) (core : Nat) : List (Nat × Gang) := s.gangs.filter fun p => p.2.core == core

/-- Free register banks of a core. -/
def State.freeBanks (s : State) (core : Nat) : Nat := 48 - (s.onCore core).foldl (fun n p => n + p.2.banks) 0

/-- Free tiles of a cluster. -/
def State.freeTiles (s : State) (cl : Nat) : Nat :=
  512 - (s.gangs.filter fun p => clusterOf p.2.core == cl).foldl (fun n p => n + p.2.tiles) 0

/-- Granules that a new gang can obtain: those of the L1, and what gangs hold beyond their minimum unless a move is in
progress (03 R88). -/
def State.obtainable (s : State) (core : Nat) : Nat :=
  (s.core core).l1gran +
    (if (s.core core).move.isSome then 0 else (s.gangsOn core).foldl (fun n p => n + (p.2.spcur - p.2.smin)) 0)

/-- The core has room for a gang. -/
def State.hasRoom (s : State) (core banks smin tiles : Nat) : Bool :=
  decide (banks ≤ s.freeBanks core) && decide (smin ≤ s.obtainable core) && decide (tiles ≤ s.freeTiles (clusterOf core))

/-- Take granules from the L1, shrinking gangs beyond their minimum first, the latest placed first; dirty sectors are
written back (03 R88). -/
def State.takeGranules (s : State) (core n : Nat) : State :=
  if n = 0 then s
  else
    let s := (s.gangsOn core).reverse.foldl (fun s p =>
      let short := n - (s.core core).l1gran
      let x := s.gang p.1
      let k := min short (x.spcur - x.smin)
      (s.updGang p.1 fun x => { x with spcur := x.spcur - k }).updCore core fun c => { c with l1gran := c.l1gran + k }) s
    s.l1Shrink core ((s.core core).l1gran - n)

/-- The next placement sequence number of a core, past those of its live handles (13 R314). -/
def State.nextSeq (s : State) (core : Nat) : Nat → BitVec 16 → BitVec 16
  | 0, q => q
  | k + 1, q =>
    if (s.onCore core).any fun p => p.2.live && bits p.2.handle.toNat 15 0 == q.toNat then s.nextSeq core k (q + 1) else q

/-- A handle for a gang placed on a core, and the core's sequence number moved on. -/
def State.newHandle (s : State) (part core : Nat) : Word × State :=
  let q := s.nextSeq core 64 ((s.core core).seq + 1)
  (w32 (part * 2 ^ 28 + core * 2 ^ 20 + q.toNat), s.updCore core fun c => { c with seq := q })

/-! The start of a gang (01 R38). -/

/-- What a read of the argument block gives: its words with their label, a fault, or the wait for another package. -/
inductive ArgRead where
  | words (ws : List Word) (l : Label)
  | fault (t : Trap)
  | remote (pkg pa : Nat)

/-- The eight words of an argument block. -/
def argWords (bs : List Byte) : List Word := (List.range 8).map fun i => w32 (leNat ((bs.drop (4 * i)).take 4))

/-- The fault of an argument block that cannot be reached: SUB 3 for the label ceiling, 0 for every other refusal of its
translation, and SINFO its address (01 R38; log entry 104). -/
def argTrap (em : Word) (args : DWord) : Miss → Trap
  | .sub n => { cause := 0x19, sub := if n = 3 then 3 else 0, info := args, mask := em }
  | m => missTrap em args.toNat m

/-- Read the argument block of a stream at its coherence point, through its gang's translation (01 R38). An error in its data
is consumed as a plain load's is (13 R313, log entry 104). -/
def State.readArgs (s : State) (r : Nat) (args : DWord) : ArgRead × State :=
  let t := s.stream r
  let g := s.gangAt r
  let poisoned (pa : Nat) : ArgRead := .fault { cause := 0x28, info := w64 (pa / 64 * 64), mask := t.em }
  match s.spotOf g t.priv .read (va56 args.toNat) with
  | (.error m, s) => (.fault (argTrap t.em args m), s)
  | (.ok p, s) =>
    match s.window p.pa with
    | .mem a =>
      match s.blockMark a 32 with
      | some (_, .integrity) =>
        (.fault { cause := 0x29, info := w64 (pageAddress p.leaf.size args.toNat), mask := t.em }, s)
      | some _ => (poisoned a, s)
      | none =>
        let (bs, s) := s.readSync (dieOf g.core) (p.leaf.attr a) a 32
        (.words (argWords bs) p.leaf.label, s)
    | .fabric k _ =>
      if t.rpoison.contains (remoteKey 0 p.pa) then (poisoned p.pa, s)
      else match s.awaitRemote r k p.pa 32 with
        | some s' => (.remote k p.pa, s')
        | none =>
          (.words (argWords ((List.range 32).map fun i => Tab.get 0 t.rdata (remoteKey 0 (p.pa + i)))) p.leaf.label, s)
    | .host a => if s.retraining then (.remote 64 p.pa, s) else if s.linkDown then (poisoned p.pa, s) else (.words (argWords (rdBytes s.hostMem a 32)) p.leaf.label, s)
    | .reg o => (.words (argWords (s.readRegBytes (s.agentOf r) o 32)) p.leaf.label, s)
    | .bad => (.words (List.replicate 8 0) p.leaf.label, s)

/-- c0 to c7 hold the argument words, or zero with label 0 where there are none (01 R38). -/
def Stream.giveArgs (t : Stream) (a : Option (List Word × Label)) : Stream :=
  { t with
    c := (List.range 8).foldl (fun c i => Tab.put i (match a with | some (ws, l) => ⟨ws.getD i 0, l⟩ | none => {}) c) t.c,
    argFault := none, wait := none, rdata := [], rpoison := [] }

/-- Load the argument block of a stream before its entry instruction: its registers, the fault that its first instruction
meets, or a wait for the other package (01 R38, 19 R449). -/
def State.loadArgs (s : State) (r : Nat) : State :=
  let args := (s.node (s.nodeNum r)).desc.args
  match s.readArgs r args with
  | (.words ws l, s) => s.updStream r fun t => t.giveArgs (some (ws, l))
  | (.fault x, s) => s.updStream r fun t => { t with argFault := some x, wait := none, rdata := [], rpoison := [] }
  | (.remote k pa, s) => s.updStream r fun t => { t with argFault := none, wait := some (.args k pa) }

/-- The live lanes of crew c. -/
def NodeDesc.lanes (d : NodeDesc) (c : Nat) : Word :=
  if 32 * (c + 1) ≤ d.threads then 0xFFFFFFFF else w32 (2 ^ (d.threads - 32 * c) - 1)

/-- A stream as it starts, but for its arguments. -/
def startStream (d : NodeDesc) (k : KernDesc) (super : Bool) (gangid crew : Nat) (work : Bool) : Stream :=
  let live := d.lanes crew
  { pc := if work then k.entry1 else k.entry0, em := live, live,
    gen := if d.single || work then (List.range 32).map fun l => genSeed gangid (32 * crew + l) k.seed else [],
    priv := super }

/-- The kernel descriptor as the core reads it at placement; where it can no longer be read or fits the node no more, as it
was accepted (01 R32; log entry 109). -/
def State.kernelAt (s : State) (part : Nat) (x : Node) : KernDesc × State :=
  match s.hubWords part x.desc.kdesc 8 with
  | (none, s) => (x.kern, s)
  | (some ws, s) =>
    match kernFields ws with
    | some k => (if k.allows x.desc then k else x.kern, s)
    | none => (x.kern, s)

/-- The gang that an instance places next on a core. -/
def Node.newGang (x : Node) (n core : Nat) (k : KernDesc) (handle : Word) (order : Nat) : Gang :=
  let d := x.desc
  { part := partOfNode n, node := n, uid := x.uid, gangid := x.placed, handle, crews := d.crews, single := d.single, core, tiles := d.tiles,
    tstride := k.tstride, smin := d.smin, smax := d.smax, spcur := d.smin, nodeptr := x.addr, rcbptr := d.rcb,
    effcfg := x.eff, code := k.code, pages := k.pages, resident := k.resident, handler := k.handler, loader := k.loader,
    wkind := d.wkind, remap := (List.range (32 * d.crews)).map fun v => (v, v), det := effDET x.eff,
    ranges := if effDET x.eff then d.outBoxes else [], acquireDue := List.range d.crews, placed := order }

/-- Place the next gang of an instance on a core: the gang, its crews and streams, its charges (01 R38, 14 R343). -/
def State.placeGang (s : State) (n core : Nat) : State :=
  let x := s.node n
  let d := x.desc
  let part := partOfNode n
  let gangid := x.placed
  let (k, s) := s.kernelAt part x
  let (g, s) := s.freshNum
  let (handle, s) := s.newHandle part core
  let s := s.takeGranules core d.smin
  let (order, s) := s.freshNum
  let s := (s.setGang g (x.newGang n core k handle order)).updCore core fun c => { c with placements := c.placements + 1 }
  let start (s : State) (c : Nat) (work : Bool) : State :=
    (s.setStream (32 * g + 2 * c + work.toNat) (startStream d k (effSUPER x.eff) gangid c work)).loadArgs
      (32 * g + 2 * c + work.toNat)
  let s := (List.range d.crews).foldl (fun s c =>
    let s := start (s.setCrew (16 * g + c) {}) c false
    (if d.single then s else start s c true).makeReady (16 * g + c)) s
  let s := s.logEntry n (logWord 3 n gangid 0 0) (w64 core)
  let done := decide (gangid + 1 = d.gangs)
  let s := s.updNode n fun y => { y with
    placed := gangid + 1, lastDie := some (dieOf core), wasOn := y.wasOn ++ [core], lastPlaced := s.now, stuckAt := none,
    st := if done then .placed else .placing }
  let s := s.updPart part fun p => { p with
    reserve := if p.reserve = some x.uid then none else p.reserve,
    replay := p.replay.filter fun e => !(e.1 == logWord 3 n gangid 0 0) }
  let s := s.updCluster (clusterOf core) fun c => { c with island := if c.island = .retention then .running else c.island }
  (s.showCharges part x.chain).settleReady

/-! Choosing a core (14 R341 to R347). -/

/-- The cores an instance may ever use: clusters, dies and core kind. -/
def State.fixedCores (s : State) (part : Nat) (x : Node) : List Nat :=
  ((s.allowed part x).flatMap fun c => (List.range 4).map (4 * c + ·)).filter (kindFits x.desc.kind)

/-- The effective class of an instance at placement (14 R352). -/
def State.placeClass (s : State) (x : Node) : Nat :=
  effClass (effCLASS x.eff) ((s.now - max x.readyAt x.lastPlaced) / 50000)

/-- A core is kept for the waiting instance of a reservation (14 R346). -/
def State.reservedFrom (s : State) (part : Nat) (x : Node) : List Nat :=
  match (s.part part).reserve with
  | none => []
  | some u =>
    if u = x.uid then []
    else match s.keyOfUid u with
      | none => []
      | some k => if s.placeClass x ≤ s.placeClass (s.node k) then s.fixedCores part (s.node k) else []

/-- The charges of the next gang on a core keep within every RCB of the chain (14 R343). -/
def State.budgetFits (s : State) (part : Nat) (x : Node) (core : Nat) : Bool :=
  x.chain.all fun l =>
    let cs := s.rcbCores part l.addr
    decide ((if cs.contains core then cs.length else cs.length + 1) ≤ l.cores) &&
      decide (s.rcbTiles part l.addr + x.desc.tiles ≤ l.tiles) &&
      decide ((s.rcbKib part l.addr + x.gangKib + 1023) / 1024 ≤ l.memq)

/-- EUSED of some RCB of the chain has reached its budget (14 R343). -/
def State.energySpent (s : State) (part : Nat) (x : Node) : Bool :=
  x.chain.any fun l => l.energy != 0xFFFFFFFF &&
    ((s.part part).rcbs.any fun u => u.addr == l.addr && decide (1000 * l.energy ≤ u.shown))

/-- A gang of an incomplete predecessor of an early-started instance is saved and not resident (14 R345). -/
def State.predSaved (s : State) (x : Node) : Bool :=
  x.desc.early && x.preds.any fun u => match s.keyOfUid u with
    | none => false
    | some k => decide ((s.gangsOfNode k).length < (s.node k).held)

/-- The core logged for the next gang in a replay (14 R347, 16 R403); none where no log is followed. -/
def State.loggedCore (s : State) (part n : Nat) (fixed : List Nat) : Option Nat :=
  let x := s.node n
  match (s.part part).replay.find? fun e => logOf n e && bits e.1.toNat 63 60 == 3 with
  | none => none
  | some e =>
    let core := bits e.2.toNat 7 0
    if bits e.1.toNat 47 24 = x.placed ∧ fixed.contains core then some core else none

/-- The cores among some that could take the next gang now; none of a cluster in self-test (16 R397). -/
def State.openAmong (s : State) (n : Nat) (cands : List Nat) : List Nat :=
  let x := s.node n
  let part := partOfNode n
  let d := x.desc
  let kept := s.reservedFrom part x
  if effCLASS x.eff < (s.part part).level ∨ s.predSaved x then []
  else cands.filter fun c =>
    !kept.contains c && (s.cluster (clusterOf c)).selfTest.isNone && s.hasRoom c d.banks d.smin d.tiles && s.budgetFits part x c

/-- The cores that could take the next gang now: in a replay its logged core (14 R347). -/
def State.openCores (s : State) (n : Nat) : List Nat :=
  let fixed := s.fixedCores (partOfNode n) (s.node n)
  s.openAmong n (match s.loggedCore (partOfNode n) n fixed with
    | some c => [c]
    | none => fixed)

/-- Cores in the order of preference: the die of the last placement, the most free banks, the lowest number (14 R342). -/
def State.preferred (s : State) (n : Nat) (cs : List Nat) : List Nat :=
  let last := (s.node n).lastDie
  sortBy (fun a b : Nat =>
    let da := last == some (dieOf a)
    let db := last == some (dieOf b)
    if da ≠ db then da
    else if s.freeBanks a ≠ s.freeBanks b then decide (s.freeBanks b < s.freeBanks a)
    else decide (a < b)) cs

/-- The most gangs of a node that a core could still take. -/
def State.coreHolds (s : State) (d : NodeDesc) (c : Nat) : Nat :=
  min (s.freeBanks c / d.banks)
    (min (if d.smin = 0 then 48 else s.obtainable c / d.smin) (if d.tiles = 0 then 48 else s.freeTiles (clusterOf c) / d.tiles))

/-- The cores open now might hold so many gangs, on no more cores than any RCB of the chain allows: what a set of eligible
cores needs at least. In a replay the gangs left may be logged on any of the cores. -/
def State.mayHold (s : State) (n k : Nat) : Bool :=
  let x := s.node n
  let most := x.chain.foldl (fun m l => min m l.cores) 256
  let caps := sortBy (fun a b : Nat => decide (b < a)) ((s.openAmong n (s.fixedCores (partOfNode n) x)).map (s.coreHolds x.desc))
  decide (k ≤ (caps.take most).foldl (· + ·) 0)

/-- Place the gangs left of a co-resident instance on eligible cores, preferred ones first: the cores and the state, or none
where no set of cores takes them all (14 R344). -/
def State.placeAll (n : Nat) : Nat → State → Option (List Nat × State)
  | 0, s => some ([], s)
  | k + 1, s =>
    if s.mayHold n (k + 1) then
      (s.preferred n (s.openCores n)).findSome? fun c =>
        (State.placeAll n k (s.placeGang n c)).map fun r => (c :: r.1, r.2)
    else none

/-- The clusters of cores that must be woken before a gang can run there. -/
def State.asleep (s : State) (cs : List Nat) : List Nat :=
  (distinct (cs.map clusterOf)).filter fun c => (s.cluster c).island == .off || (s.cluster c).island == .waking

/-- Ask for the wakes that cores need; none where all have been asked for. -/
def State.wakeFor (s : State) (cs : List Nat) : Option State :=
  let new := (s.asleep cs).filter fun c => (s.cluster c).island == .off && !s.wakeQ.contains c
  if new = [] then none else some (new.foldl State.askWake s)

/-- What the hub can do for an instance: nothing, for want of an eligible core or of budget; or something now, but for a
cluster that is still waking (14 R342). -/
inductive Choice where
  | cannot
  | able (now : Option State)

/-- Place on cores once their clusters are awake. -/
def State.onAwake (s : State) (cs : List Nat) (t : State) : Choice :=
  if s.asleep cs = [] then .able (some t) else .able (s.wakeFor cs)

/-- The hub's choice for an instance: place its next gang or its whole set, wake a cluster first, or end it with its energy
spent (14 R342 to R344). -/
def State.tryPlace (s : State) (n : Nat) : Choice :=
  let x := s.node n
  if s.energySpent (partOfNode n) x then
    if x.held = 0 then .able (some ((s.endInstance n 0x8004).settleReady)) else .cannot
  else if x.desc.cores then
    match State.placeAll n (x.desc.gangs - x.placed) s with
    | none => .cannot
    | some (cs, t) => s.onAwake cs t
  else match s.preferred n (s.openCores n) with
    | [] => .cannot
    | c :: _ => s.onAwake [c] (s.placeGang n c)

/-- The hub can do nothing for an instance. -/
def State.stuck (s : State) (n : Nat) : Bool :=
  match s.tryPlace n with
  | .cannot => true
  | .able _ => false

/-- The instances the hub chooses among, in order (14 R342). -/
def State.placeOrder (s : State) (part : Nat) : List Nat :=
  let cands := s.nodes.filter fun p => partOfNode p.1 == part && (p.2.st == .ready || p.2.st == .placing)
  (sortBy (fun a b : Nat × Node =>
    let (ca, cb) := (s.placeClass a.2, s.placeClass b.2)
    if ca = cb then decide (a.2.uid < b.2.uid) else decide (cb < ca)) cands).map Prod.fst

/-- The hub notes since when its first choice has been unable to place; no other instance's time runs (14 R346). -/
def State.noteStuck (s : State) (order : List Nat) : State :=
  match order with
  | [] => s
  | n :: rest =>
    (rest.foldl (fun s m => s.updNode m fun x => { x with stuckAt := none }) s).updNode n fun x =>
      { x with stuckAt := if s.stuck n then some (x.stuckAt.getD s.now) else none }

/-- The hub places the next gang of the first instance in order that it can; while that one's cluster wakes it goes on to no
other (14 R342, R346). -/
def State.placeNext (s : State) (part : Nat) : Option State :=
  let order := s.placeOrder part
  let t := s.noteStuck order
  match order.find? fun n => !t.stuck n with
  | none => some t
  | some n =>
    match t.tryPlace n with
    | .able (some u) => some u
    | _ => some t

/-- PLACEMENT_RESERVATION: after 200 µs the hub reserves for its first choice (14 R346). -/
def onPlacementReservation (e : Ev) (s : State) : Option State :=
  match s.placeOrder e.n0 with
  | [] => none
  | n :: _ =>
    match (s.node n).stuckAt with
    | none => none
    | some t =>
      if t + 200000 ≤ s.now ∧ (s.part e.n0).reserve.isNone ∧ s.stuck n then
        some (s.updPart e.n0 fun p => { p with reserve := some (s.node n).uid })
      else none

/-- PLACEMENT_RESERVATION (14 R346). -/
def execPlacementReservation (s : State) : Host.Outcome State Fault Refusal := event s onPlacementReservation

end Sys2Proof.Machine
end

