-- ==== Sys2Proof/Machine/Sort.lean ====
section
/-! DEFINITION. The sort unit and the witness instructions: VSORT, VMERGE, VTOPK, VSELTH, WSEED, WPUT, WHASH, WPROJ
(10 R257 to R262, R266 to R270). -/

namespace Sys2Proof.Machine

/-! Entries and their order (10 R257). -/

/-- An entry: key, index, and the virtual id of the thread that supplied it. -/
structure SortEntry where
  key : Nat
  idx : Nat
  vid : Nat
  deriving DecidableEq, Repr

/-- The entry is valid. -/
def SortEntry.valid (e : SortEntry) : Bool := e.idx != 0xFFFFFFFF

/-- The types of keys: s32, n32, f32. -/
def keyType (t : Nat) : Bool := t == 3 || t == 8 || t == 12

/-- The place of a key in the key order of its type. -/
def keyRank (ty key : Nat) : Int :=
  if ty = 3 then signed 32 key
  else if ty = 8 then (key : Int)
  else if (decodeFloat 12 false key).isNan then ((2 ^ 40 + key : Nat) : Int)
  else if bitOf key 31 then -(bits key 30 0 : Int) - 1
  else (bits key 30 0 : Int)

/-- A key's place in the order in force, ascending or descending. -/
def orderRank (ty : Nat) (desc : Bool) (key : Nat) : Int := if desc then -keyRank ty key else keyRank ty key

/-- Entry e precedes entry f. -/
def precedes (ty : Nat) (desc : Bool) (e f : SortEntry) : Bool :=
  if e.valid != f.valid then e.valid
  else if !e.valid then false
  else
    let a := orderRank ty desc e.key
    let b := orderRank ty desc f.key
    if a ≠ b then decide (a < b)
    else if e.idx ≠ f.idx then decide (e.idx < f.idx)
    else decide (e.vid < f.vid)

/-- The sentinel of an order. -/
def sentinel (ty : Nat) (desc : Bool) : SortEntry :=
  let key := if ty = 3 then (if desc then 0x80000000 else 0x7FFFFFFF)
    else if ty = 8 then (if desc then 0 else 0xFFFFFFFF)
    else if desc then 0xFF800000 else 0xFFFFFFFF
  ⟨key, 0xFFFFFFFF, 0⟩

/-- Entries in order, invalid ones written out as sentinels. -/
def sortEntries (ty : Nat) (desc : Bool) (es : List SortEntry) : List SortEntry :=
  (sortBy (precedes ty desc) es).map fun e => if e.valid then e else sentinel ty desc

/-- Valid entries equal in key and index reduced to one; a sorted list. -/
def dedup : List SortEntry → List SortEntry
  | [] => []
  | e :: rest => e :: (match rest with
    | [] => []
    | f :: _ => if e.valid && f.valid && e.key == f.key && e.idx == f.idx then (dedup rest).drop 1 else dedup rest)

/-! The instructions of the sort unit (10 R258 to R262). -/

/-- Vector registers from a number upwards as sources. -/
def regWants (a n : Nat) : List Want := (List.range n).map fun k => { f := a + k, allow := .vec }

/-- What the sort instructions share: the class, TYPE, ranges, the sources read, and the lanes in ascending virtual id. -/
def State.sortStart (s : State) (r : Nat) (m : Bool) (d nd : Nat) (a : BitVec 7) (na : Nat) (more : List Want) :
    Except Stop (Nat × Peek × List Nat) := do
  needWork s r
  let ty ← s.typeIn r m keyType
  need s r 3 (decide (d + nd ≤ 56))
  match srcOf a.toNat with
  | .q _ => .error (s.illegal r (if s.mayQueue r then 3 else 1))
  | .v n => need s r 3 (decide (n + na ≤ 56))
  | _ => .error (s.illegal r 3)
  let act := (s.stream r).active m
  let p ← s.peek r act (regWants a.toNat na ++ more) none
  needArrived s r ((List.range nd).map (d + ·))
  return (ty, p, s.byVid r act)

/-- The highest label of the words that sources hold in some lanes, and the guard. -/
def State.sortLabel (s : State) (r : Nat) (m : Bool) (p : Peek) (ks lanes : List Nat) : Label :=
  ks.foldl (fun l k => lanes.foldl (fun l i => Label.join l (p.lab k i)) l) ((s.stream r).guardLabel m)

/-- The entries that lanes hold in two sources. -/
def State.entriesOf (s : State) (r : Nat) (p : Peek) (k : Nat) (lanes : List Nat) : List SortEntry :=
  lanes.map fun i => ⟨p.val k i, p.val (k + 1) i, s.vid r i⟩

/-- Words of a ranked list as a register: rank from a function of the lane. -/
def wordsAt (xs : List Nat) (l : Label) (rank : Nat → Nat) (i : Nat) : LV := ⟨w32 (xs.getD (rank i) 0), l⟩

/-- A sort instruction ends: its registers are written in the lanes of a mask. -/
def State.sortEnd (s : State) (r d : Nat) (mask : Word) (p : Peek) (rows : List (Nat → LV)) : State :=
  ((State.commit r { p with st := s }).writeRegs r d false mask rows).complete r .sort p.regs 0

/-- The flags words of ranked keys (10 R259). -/
def sortFlags (ty : Nat) (desc : Bool) (keys : List Nat) : List Nat :=
  (List.range keys.length).map fun r =>
    if r = 0 then 1
    else
      let a := keys.getD (r - 1) 0
      let b := keys.getD r 0
      (decide (orderRank ty desc a ≤ orderRank ty desc b)).toNat + 2 * (a == b).toNat

/-- The rank of a lane in ascending virtual id. -/
def laneRank (order : List Nat) (i : Nat) : Nat := (order.takeWhile (· != i)).length

/-- VSORT (10 R259). -/
def execVsort (d : BitVec 6) (a : BitVec 7) (desc m : Bool) (s : State) : Host.Outcome State Fault Refusal :=
  run s fun r => do
    let (ty, p, order) ← s.sortStart r m d.toNat 3 a 2 []
    let es := sortEntries ty desc (s.entriesOf r p 0 order)
    let l := s.sortLabel r m p [0, 1] order
    let keys := es.map (·.key)
    return p.st.sortEnd r d.toNat ((s.stream r).active m) p
      [wordsAt keys l (laneRank order), wordsAt (es.map (·.idx)) l (laneRank order),
        wordsAt (sortFlags ty desc keys) l (laneRank order)]

/-- VMERGE (10 R260). -/
def execVmerge (d : BitVec 6) (a : BitVec 7) (dd desc m : Bool) (s : State) : Host.Outcome State Fault Refusal :=
  run s fun r => do
    let (ty, p, order) ← s.sortStart r m d.toNat 4 a 4 []
    let n := order.length
    let all := sortEntries ty desc (s.entriesOf r p 0 order ++ s.entriesOf r p 2 order)
    let kept := if dd then dedup all else all
    let es := kept ++ List.replicate (2 * n - kept.length) (sentinel ty desc)
    let l := s.sortLabel r m p [0, 1, 2, 3] order
    let low := laneRank order
    let high (i : Nat) : Nat := n + laneRank order i
    return p.st.sortEnd r d.toNat ((s.stream r).active m) p
      [wordsAt (es.map (·.key)) l low, wordsAt (es.map (·.idx)) l low,
        wordsAt (es.map (·.key)) l high, wordsAt (es.map (·.idx)) l high]

/-- VTOPK (10 R261). -/
def execVtopk (d : BitVec 6) (a : BitVec 7) (least : Bool) (k : BitVec 6) (m : Bool) (s : State) :
    Host.Outcome State Fault Refusal :=
  run s fun r => do
    let n := k.toNat + 1
    let mm := (n + 31) / 32
    let (ty, p, order) ← s.sortStart r m d.toNat (2 * mm) a 2 (regWants d.toNat (2 * mm))
    let desc := !least
    let place (e : Nat) : Nat × Nat := (e / 32, e % 32)
    let old := (List.range n).map fun e =>
      (⟨p.val (2 + (place e).1) (place e).2, p.val (2 + mm + (place e).1) (place e).2, 0⟩ : SortEntry)
    let all := sortEntries ty desc ((old ++ s.entriesOf r p 0 order).filter (·.valid))
    let count := min n all.length
    let es := all.take count ++ List.replicate (32 * mm - count) (sentinel ty desc)
    let l0 := s.sortLabel r m p [0, 1] order
    let l := (List.range n).foldl (fun l e =>
      Label.join (Label.join l (p.lab (2 + (place e).1) (place e).2)) (p.lab (2 + mm + (place e).1) (place e).2)) l0
    let row (f : SortEntry → Nat) (j : Nat) : Nat → LV := wordsAt (es.map f) l fun i => 32 * j + i
    let rows := (List.range mm).map (row (·.key)) ++ (List.range mm).map (row (·.idx))
    if order = [] then return p.st.sortEnd r d.toNat 0 p rows
    else return (p.st.sortEnd r d.toNat 0xFFFFFFFF p rows).updStream r fun t => { t with vcount := w32 count }

/-- VSELTH (10 R262). -/
def execVselth (d : BitVec 6) (a b : BitVec 7) (m : Bool) (s : State) : Host.Outcome State Fault Refusal :=
  run s fun r => do
    let (ty, p, order) ← s.sortStart r m d.toNat 2 a 2 [{ f := b.toNat }]
    let low := (lanesOf ((s.stream r).active m)).headD 0
    let chosen := (s.entriesOf r p 0 order).filter fun e =>
      e.valid && decide (keyRank ty (p.val 2 low) ≤ keyRank ty e.key)
    let es := chosen ++ List.replicate (32 - chosen.length) (sentinel ty true)
    let l := Label.join (s.sortLabel r m p [0, 1] order) (p.lab 2 low)
    let rows := [wordsAt (es.map (·.key)) l id, wordsAt (es.map (·.idx)) l id]
    if order = [] then return p.st.sortEnd r d.toNat 0 p rows
    else return (p.st.sortEnd r d.toNat 0xFFFFFFFF p rows).updStream r fun t => { t with vcount := w32 chosen.length }

/-! The seed and the witness (10 R266 to R270). -/

/-- The witness-order fault. -/
def State.witnessOrder (s : State) (r : Nat) : Stop := s.streamFault r 0x25 0

/-- WSEED (10 R266). -/
def execWseed (d : BitVec 6) (s : State) : Host.Outcome State Fault Refusal :=
  run s fun r => do
    needHaul s r
    need s r 3 (decide (d.toNat < 32) && d.toNat % 2 == 0)
    let put (s : State) (x : Nat) : State := s.updStream r fun t => t.putC d.toNat true x 0
    if (s.gangAt r).wkind = 0 then .error (s.witnessOrder r)
    else match (s.node (s.nodeNum r)).seed with
      | some x =>
        return ((put s x.toNat).updCrew (crewOf r) fun c => { c with seed := some x }).complete r .memory 0 0
      | none =>
        match (s.stream r).wait with
        | some (.wseed _ true) => return (put s 0).complete r .memory 0 0
        | some _ => .error (.stall s)
        | none =>
          let limit := s.cyclesOf (clusterOf (s.coreNum r)) + 4096
          .error (.stall (s.updStream r fun t => { t with wait := some (.wseed limit false) }))

/-- WSEED_TIMEOUT (10 R266). -/
def onWseedTimeout (e : Ev) (s : State) : Option State :=
  match (s.stream e.n0).wait with
  | some (.wseed limit false) =>
    if limit ≤ s.cyclesOf (clusterOf (s.coreNum e.n0)) then
      some (s.updStream e.n0 fun t => { t with wait := some (.wseed limit true) })
    else none
  | _ => none

/-- WSEED_TIMEOUT (10 R266). -/
def execWseedTimeout (s : State) : Host.Outcome State Fault Refusal := event s onWseedTimeout

/-- The header word of WPUT (10 R267). -/
def wputHeader (tag : Nat) (work : Bool) (vid count : Nat) (wide : Bool) : Word :=
  w32 (tag * 2 ^ 28 + work.toNat * 2 ^ 27 + vid % 512 * 2 ^ 18 + (count - 1) % 32 * 2 ^ 13 + wide.toNat * 2 ^ 12)

/-- The labels of the lower and the upper word of a lane's value: each register of a pair has its own (10 R267). -/
def Stream.wordLabels (t : Stream) (p : Peek) (a i : Nat) : Label × Label :=
  match srcOf a with
  | .v n => (((t.vreg n).lane i).l, ((t.vreg (n + 1)).lane i).l)
  | .c n => ((t.creg n).l, (t.creg (n + 1)).l)
  | _ => (p.lab 0 i, p.lab 0 i)

/-- The words that WPUT appends for a lane: one, or bits 31:0 and then 63:32, each with its label (10 R267). -/
def Stream.wputWords (t : Stream) (p : Peek) (a : Nat) (wide : Bool) (i : Nat) : List (Word × Label) :=
  let ls := t.wordLabels p a i
  (w32 (p.val 0 i), ls.1) :: (if wide then [(w32 (p.val 0 i / 2 ^ 32), ls.2)] else [])

/-- WPUT (10 R267). -/
def execWput (a : BitVec 7) (tag : BitVec 4) (m : Bool) (s : State) : Host.Outcome State Fault Refusal :=
  run s fun r => do
    need s r 0 (decide (1 ≤ tag.toNat) && decide (tag.toNat ≤ 9))
    let t := s.stream r
    let wide := typeWidth (modeTYPE (t.mode m)) == 64
    let act := t.active m
    let p ← s.peek r act [{ f := a.toNat, wide }] none
    let order := s.byVid r act
    match order with
    | [] => return (State.commit r p).complete r .memory p.regs 0
    | low :: _ =>
      let g := s.gangAt r
      let header := (wputHeader tag.toNat (!g.single && isWork r) (s.vid r low) order.length wide, (0 : Label))
      let words := order.flatMap (t.wputWords p a.toNat wide)
      if 16384 < g.witness.length + 1 + words.length then .error (s.streamFault r 0x26 0)
      else return ((State.commit r p).updGang (gangOf r) fun g =>
        { g with witness := g.witness ++ header :: words }).complete r .memory p.regs 0

/-- The crew's seed for WHASH and WPROJ, or the stall or fault of an empty seed register (10 R270). -/
def State.crewSeed (s : State) (r : Nat) : Except Stop Nat :=
  match (s.crewAt r).seed with
  | some x => .ok x.toNat
  | none => if (s.gangAt r).single || s.haulEnded r then .error (s.witnessOrder r) else .error (.stall s)

/-- WHASH's accumulator after a value (10 R269). -/
def whash (seed acc a : Nat) : Nat :=
  let p := 2 ^ 61 - 1
  acc % p * ((seed % p + p - a % p) % p) % p

/-- A witness accumulator that reads the old destination and the seed. -/
def State.witnessOp (s : State) (r : Nat) (m nw : Bool) (d : BitVec 6) (wide : Bool) (srcs : List Want)
    (f : Nat → List Nat → Nat) : Except Stop State := do
  let dst : Dst := { n := d.toNat, wide, nw }
  needReg s r dst.n
  let t := s.stream r
  let act := t.active m
  let p ← s.peek r act (srcs ++ [{ f := d.toNat, wide }]) (some dst)
  let seed ← s.crewSeed r
  let args (i : Nat) : List Nat := p.vals.map fun o => (o.getD i (0, 0)).1
  let s' ← p.write r dst act fun i => (f seed (args i), Label.join (p.label i) (t.guardLabel m))
  return s'.complete r .sort p.regs 0

/-- WHASH (10 R269). -/
def execWhash (nw : Bool) (d : BitVec 6) (a : BitVec 7) (m : Bool) (s : State) : Host.Outcome State Fault Refusal :=
  run s fun r => do
    needWork s r
    let ty ← s.typeIn r m fun t => decide (32 ≤ typeWidth t)
    s.witnessOp r m nw d true [{ f := a.toNat, wide := typeWidth ty == 64 }] fun seed xs =>
      whash seed (xs.getD 1 0) (xs.getD 0 0)

/-- WPROJ's sign of an index is negative (10 R270). -/
def projNegative (seed index : Nat) : Bool :=
  let z := (seed + (index + 1) * 0x9E3779B97F4A7C15) % 2 ^ 64
  let z := (z ^^^ (z / 2 ^ 30)) * 0xBF58476D1CE4E5B9 % 2 ^ 64
  let z := (z ^^^ (z / 2 ^ 27)) * 0x94D049BB133111EB % 2 ^ 64
  bitOf (z ^^^ (z / 2 ^ 31)) 63

/-- WPROJ's accumulator after a value. -/
def wproj (ty seed old a index : Nat) : Nat :=
  let neg := projNegative seed index
  if isInt ty then
    let w := typeWidth ty
    wrap w ((old : Int) + if neg then -(a : Int) else (a : Int))
  else
    let x := decodeFloat ty false a
    roundFloat ty false false 0 0 (XVal.add false (decodeFloat ty false old) (if neg then x.neg else x))

/-- The types of WPROJ: f32, f64 and integers of 32 or 64 bits. -/
def projType (t : Nat) : Bool := (isInt t && decide (32 ≤ typeWidth t)) || t == 12 || t == 13

/-- WPROJ (10 R270). -/
def execWproj (nw : Bool) (d : BitVec 6) (a b : BitVec 7) (m : Bool) (s : State) : Host.Outcome State Fault Refusal :=
  run s fun r => do
    needWork s r
    let ty ← s.typeIn r m projType
    let wide := typeWidth ty == 64
    s.witnessOp r m nw d wide [{ f := a.toNat, wide }, { f := b.toNat }] fun seed xs =>
      wproj ty seed (xs.getD 2 0) (xs.getD 0 0) (xs.getD 1 0)

end Sys2Proof.Machine
end

