-- ==== Sys2Proof/Machine/Staging.lean ====
section
/-! DEFINITION. Staged pages, launches and triggers: SOPEN, SSEAL, LAUNCH, TRIG, WAITD, the fill of a frame, the seal of a
version and its digest (10 R263 to R265, R271, R272, 16 R381 to R383). -/

namespace Sys2Proof.Machine

/-! Frames. -/

/-- Take every line of a range of local memory out of the L2s, dirty data going to memory. -/
def State.flushRange (s : State) (base n : Nat) : State :=
  let inside (l : Nat) : Bool := decide (base ≤ 64 * l) && decide (64 * l < base + n)
  let s := (List.range 4).foldl (fun s h =>
    let busy := distinct ((s.msgs.filter fun m => m.home == h && inside m.line).map (·.line))
    let s := busy.foldl (fun s l => State.drain (16 * s.msgs.length + 64) h l s) s
    (((s.die h).dir.map Prod.fst).filter inside).foldl (fun s l => s.dirRecall h l) s) s
  { s with dies := Tab.mapVals (fun _ d => { d with l2 := d.l2.filter fun p => !inside p.1 }) s.dies }

/-- Fill a frame from another, with its errors and the marks of provisional data, or with zeros; a
protected frame counts a write of every sector (10 R264, 17 R409, R410). -/
def State.fillFrame (s : State) (dst : Nat) (src : Option Nat) : State :=
  let size := 2 ^ 21
  let s := s.flushRange dst size
  let s := match src with
    | some b => s.flushRange b size
    | none => s
  let inside (b a : Nat) : Bool := decide (b ≤ a) && decide (a < b + size)
  let kept := s.mem.filter fun c => !inside dst c.1
  let mem := match src with
    | none => kept
    | some b => (s.mem.filter fun c => inside b c.1).foldl (fun m c => wrByte m (c.1 - b + dst) c.2) kept
  let keptMarks := s.marks.filter fun m => !inside dst (64 * m.1)
  let marks := match src with
    | none => keptMarks
    | some b => (s.marks.filter fun m => inside b (64 * m.1)).foldl
        (fun t m => Tab.put (m.1 - b / 64 + dst / 64) m.2 t) keptMarks
  let s := { s with mem, marks }
  if s.protectedLine (dst / 64) then ((List.range (size / 64)).map (dst / 64 + ·)).foldl State.countWrite s else s

/-- The 64-bit words of a frame at its coherence point, as a running digest (10 R265). -/
def digestWords (m : List Host.Cell) (base : Nat) : Nat → Nat → Nat
  | 0, d => d
  | k + 1, d =>
    let p := 2 ^ 64 - 59
    digestWords m (base + 8) k ((d * 0x5A17C3E94D21B6F7 + rdNat m base 8 % p) % p)

/-! The page that SOPEN and SSEAL name (10 R264). -/

/-- The miss that a walk's result stands for. -/
def WalkRes.miss : WalkRes → Miss
  | .leaf _ | .unmapped => .sub 0
  | .integrity pa => .integrity pa
  | .poison pa => .poison pa

/-- The index in the node's staged list and the pair of a page's address; a probe has shadow pairs of its own. -/
def State.stagedPage (s : State) (r addr : Nat) : Except Stop ((Nat × Nat × Nat) × State) :=
  let g := s.gangAt r
  let x := s.node g.node
  match (List.range x.desc.staged.length).find? fun i => wordAt (x.desc.staged.getD i []) 0 == addr with
  | none => .error (s.streamFault r 0x24 addr)
  | some i =>
    if addr % 2 ^ 21 ≠ 0 then .error (s.streamFault r 0x24 addr)
    else match s.translate g.core g.part g.node (va56 addr) with
      | (.ok e, s') =>
        if !e.leaf.user ∧ !(s.stream r).priv then .error (.trap { cause := 0x19, info := w64 addr, mask := (s.stream r).em })
        else if !e.leaf.stg then .error (s.streamFault r 0x24 addr)
        else
          let pair := e.leaf.pa / 2 ^ 22
          .ok ((i, pair, if x.probe.isSome then 2 ^ 30 * (x.uid + 1) + pair else pair), s')
      | (.error m, _) => .error (.trap (missTrap (s.stream r).em addr m))

/-- LIVE among the versions of a pair up to one, as a SOPEN with K takes it, and whether its frame still holds it; for a
probe's first version it is that of the page itself, whose open version no agent of the probe may read (10 R264, 16 R381,
R393). -/
def State.carried (s : State) (key below : Nat) : Nat × Nat × Bool :=
  if key < 2 ^ 30 ∨ (s.pair key).vers.any (fun v => decide (v.1 ≤ below)) then
    let live := s.liveFrom key ((s.pair key).vers.length + 1) below
    (key, live, decide (below ≤ live + 1))
  else
    let real := key % 2 ^ 30
    let p := s.pair real
    let live := s.liveFrom real (p.vers.length + 1) (p.version - (s.pageSt real == .opened).toNat)
    (real, live, decide (p.version ≤ live + 1))

/-- A node's first SOPEN opens a new version: the version goes up, the frame waits for its fill (10 R264, 16 R381, R382).
A version carried from one that is sealed and not released enters the node's record. -/
def State.openVersion (s : State) (n i pair key : Nat) (keep : Bool) : State :=
  let x := s.node n
  let s := if (Tab.find key s.pairs).isSome then s
    else s.setPair key { version := if key = pair then 0 else (s.pair pair).version }
  let v := (s.pair key).version
  let e := x.desc.staged.getD i []
  let (k, live, intact) := s.carried key v
  let s := if keep ∧ intact ∧ (s.ver k live).st = .sealed then s.enterRead n ⟨none, k, live⟩ else s
  let s := s.updPair key fun p => { p with
    version := v + 1, part := partOfNode n, page := e.getD 0 0, sealCount := bits (wordAt e 1) 63 40, places := 0, seals := 0,
    filling := true, carry := keep, vers := Tab.put (v + 1) ⟨.opened, some x.uid, none, x.doomed⟩ p.vers }
  let s := s.updNode n fun y => { y with versions := y.versions ++ [(i, key, v + 1)] }
  let s := { s with gangs := Tab.mapVals (fun _ g => if g.node = n then
    { g with opened := g.opened.filter (· != key), sealedBy := g.sealedBy.filter (· != key),
             places := g.places.filter (·.2.1 != key) } else g) s.gangs }
  s.dropPairTlb pair

/-- SOPEN returns a version: the gang may write the page while that version is the current one. -/
def State.opens (s : State) (r d key v : Nat) : State :=
  let s := if (s.pair key).version ≠ v then s
    else s.updGang (gangOf r) fun g => { g with opened := if g.opened.contains key then g.opened else g.opened ++ [key] }
  s.updStream r fun t => t.setC d ⟨w32 v, 0⟩

/-- SOPEN (10 R264). -/
def execSopen (d : BitVec 6) (a : BitVec 7) (keep m : Bool) (s : State) : Host.Outcome State Fault Refusal :=
  run s fun r => do
    needHaul s r
    need s r 3 (decide (d.toNat < 32))
    let t := s.stream r
    let p ← s.peek r 0 [{ f := a.toNat, wide := true, allow := .uni }] none
    if t.active m = 0 then return p.st.complete r .memory p.regs 0
    match t.wait with
    | some (.sopen key v true) => return (p.st.opens r d.toNat key v).complete r .memory p.regs 0
    | _ =>
      let addr := p.val 0 0
      let ((i, pair, key), s') ← p.st.stagedPage r addr
      let n := s'.nodeNum r
      let v := (s'.pair key).version
      if s'.pageSt key = .opened then
        if (s'.ver key v).node ≠ some (s'.node n).uid then .error (s.streamFault r 0x24 addr)
        else if (s'.pair key).filling then return s'.updStream r fun t => { t with wait := some (.sopen key v false) }
        else return (s'.opens r d.toNat key v).complete r .memory p.regs 0
      else if v = 2 ^ 32 - 1 then .error (s.streamFault r 0x24 addr)
      else
        let s' := s'.openVersion n i pair key keep
        return s'.updStream r fun t => { t with wait := some (.sopen key (s'.pair key).version false) }

/-- The sectors of a frame that a fill left with an error of ECC are logged for the instance that opens the version
(16 R401). -/
def State.logFill (s : State) (key dst : Nat) : State :=
  let hit := s.marks.filter fun m => decide (dst ≤ 64 * m.1) && decide (64 * m.1 < dst + 2 ^ 21) && m.2 == .poison
  let fdom := match (s.ver key (s.pair key).version).node.bind s.findUid with
    | some x => effFDOM x.eff
    | none => 0
  hit.foldl (fun s m => s.recordFault fdom (s.pair key).part 3 0 0 (w64 (64 * m.1)) 0 0 0 0 0 true) s

/-- STAGING_FILL_DONE: the new frame holds the contents of LIVE or zeros, and the SOPENs that wait return (10 R264,
16 R381). -/
def onStagingFillDone (e : Ev) (s : State) : Option State :=
  let key := e.n0
  let p := s.pair key
  if !p.filling then none
  else
    let v := p.version
    let dst := frameBase key v
    let (k, live, intact) := s.carried key (v - 1)
    let s :=
      if !p.carry ∨ !intact then s.fillFrame dst none
      else if frameBase k live = dst then s
      else (s.fillFrame dst (some (frameBase k live))).logFill key dst
    let waits (r : Nat) : Bool := (s.stream r).wait == some (.sopen key v false)
    let rs := (s.streams.map Prod.fst).filter waits
    let secs := (List.range (2 ^ 16)).map (dst / 32 + ·)
    let cores := distinct (rs.map s.coreNum)
    let s := cores.foldl (fun s c => s.noteEngine c secs) s
    let s := s.updPair key fun p => { p with filling := false }
    some (rs.foldl (fun s r => s.updStream r fun t => { t with wait := some (.sopen key v true) }) s)

/-- STAGING_FILL_DONE (10 R264). -/
def execStagingFillDone (s : State) : Host.Outcome State Fault Refusal := event s onStagingFillDone

/-! Sealing (10 R265). -/

/-- A stream of the gang holds the gang's place in the seal count of a pair: the stream, numbered within the gang, and the
version. -/
def Gang.placeOf (g : Gang) (key : Nat) : Option (Nat × Nat) :=
  (g.places.find? fun x => x.2.1 == key).map fun x => (x.1, x.2.2)

/-- The page may be sealed by the gang now: it has opened the version that is open for its node, has not sealed it, and a
place is left (10 R265). -/
def State.sealable (s : State) (r key : Nat) : Bool :=
  let g := s.gangAt r
  let p := s.pair key
  g.writes key && s.pageSt key == .opened && (s.ver key p.version).node == some (s.node g.node).uid &&
    (g.placeOf key).isNone && decide (p.places < p.sealCount)

/-- SSEAL (10 R265). A stream whose stall an engine fault has interrupted keeps its place and stalls again (15 R366; log
entry 110). -/
def execSseal (d : BitVec 6) (a : BitVec 7) (m : Bool) (s : State) : Host.Outcome State Fault Refusal :=
  run s fun r => do
    needHaul s r
    need s r 3 (decide (d.toNat < 32))
    let t := s.stream r
    let p ← s.peek r 0 [{ f := a.toNat, wide := true, allow := .uni }] none
    if t.active m = 0 then return p.st.complete r .memory p.regs 0
    match t.wait with
    | some (.sseal _ v true) => return (p.st.updStream r fun t => t.setC d.toNat ⟨w32 v, 0⟩).complete r .memory p.regs 0
    | _ =>
      let addr := p.val 0 0
      let ((_, _, key), s') ← p.st.stagedPage r addr
      let v := (s'.pair key).version
      let stall (s : State) (v : Nat) : State := s.updStream r fun t => { t with wait := some (.sseal key v false) }
      match (s'.gangAt r).placeOf key with
      | some (i, v) => if i = r % 32 then return stall s' v else .error (s.streamFault r 0x24 addr)
      | none =>
        if !s'.sealable r key then .error (s.streamFault r 0x24 addr)
        else return stall ((s'.updPair key fun p => { p with places := p.places + 1 }).updGang (gangOf r) fun g =>
          { g with places := g.places ++ [(r % 32, key, v)] }) v

/-- VERSION_SEALED: the seal count is reached; the version becomes sealed, and void at once if its node is doomed
(16 R382, R392). -/
def State.sealVersion (s : State) (key : Nat) : State :=
  let p := s.pair key
  let v := p.version
  let x := s.ver key v
  let s := (s.updVer key v fun x => { x with st := .sealed }).dropPairTlb (key % 2 ^ 30)
  if x.doomed then
    match x.node.bind s.findUid with
    | some y => (s.recordDependant y p.page.toNat v 1 y.cause).voidVersion y.reposted y.cause key v
    | none => s.voidVersion false 0 key v
  else if 2 ^ 30 ≤ key then s
  else { s with nodes := Tab.mapVals (fun n y => if y.ovf ∧ partOfNode n = p.part then
    { y with record := y.record ++ [⟨none, key, v⟩] } else y) s.nodes }

/-- What a stream issued to the engines has completed; entries that a park removed have not (09 R254). -/
def State.enginesIdle (s : State) (r : Nat) : Bool :=
  let cl := s.cluster (clusterOf (s.coreNum r))
  (s.stream r).copyQ.isEmpty && (s.stream r).mxQ.isEmpty && !(cl.copies.any fun c => c.stream == r) &&
    !(cl.table.any fun e => e.stream == r) && !((s.gangAt r).mxSaved.any fun e => e.stream == r)

/-- SSEAL_PROCEED: with its copies and matrix commands complete, an SSEAL releases at device scope and ends the gang's
write permission (10 R265). -/
def onSsealProceed (e : Ev) (s : State) : Option State :=
  let r := e.n0
  match (s.stream r).wait with
  | some (.sseal key v false) =>
    if !s.enginesIdle r ∨ (s.crewAt r).stopped then none
    else
      let s := s.release (s.coreNum r) 6
      let s := s.updGang (gangOf r) fun g => { g with sealedBy := g.sealedBy ++ [key], places := g.places.filter fun x => !(x.1 == r % 32 && x.2.1 == key) }
      let s := s.updStream r fun t => { t with wait := some (.sseal key v true) }
      let s := s.updPair key fun p => { p with seals := p.seals + 1 }
      some (if (s.pair key).seals = (s.pair key).sealCount then s.sealVersion key else s)
  | _ => none

/-- SSEAL_PROCEED (10 R265). -/
def execSsealProceed (s : State) : Host.Outcome State Fault Refusal := event s onSsealProceed

/-- DIGEST_TAKEN: the copy engine takes the digest of a sealed version's frame (10 R265). -/
def onDigestTaken (e : Ev) (s : State) : Option State :=
  let key := e.n0
  match (s.pair key).vers.find? fun v => v.2.st == .sealed && v.2.digest.isNone with
  | none => none
  | some (v, _) =>
    let base := frameBase key v
    let s := s.flushRange base (2 ^ 21)
    some (s.updVer key v fun x => { x with digest := some (digestWords s.mem base (2 ^ 18) 0) })

/-- DIGEST_TAKEN (10 R265). -/
def execDigestTaken (s : State) : Host.Outcome State Fault Refusal := event s (assay onDigestTaken)

/-! Launches and triggers (10 R271, R272). -/

/-- LAUNCH (10 R271). -/
def execLaunch (a : BitVec 7) (m : Bool) (s : State) : Host.Outcome State Fault Refusal :=
  run s fun r => do
    needHaul s r
    let t := s.stream r
    let p ← s.peek r 0 [{ f := a.toNat, wide := true, allow := .uni }] none
    if t.active m = 0 then return p.st.complete r .memory p.regs 0
    let addr := p.val 0 0
    checkDesc t.em addr
    let g := s.gangAt r
    match (p.st.release g.core 6).offer g.part { addr := w64 addr, origin := .launch } (some g.rcbptr) with
    | .rejected _ _ => .error (s.streamFault r 0x27 addr)
    | .waits _ => .error (.stall s)
    | .accepted _ s' => return s'.complete r .memory p.regs 0

/-- TRIG (10 R272, 01 R35). -/
def execTrig (s : State) : Host.Outcome State Fault Refusal :=
  run s fun r => do
    needHaul s r
    let g := s.gangAt r
    let s := (s.release g.core 6).updGang (gangOf r) fun g => { g with triggered := true }
    let s := s.updNode g.node fun n => { n with
      trigGangs := if n.trigGangs.contains g.gangid then n.trigGangs else n.trigGangs ++ [g.gangid] }
    return s.complete r .memory 0 0

/-- WAITD (10 R272, 01 R36). -/
def execWaitd (s : State) : Host.Outcome State Fault Refusal :=
  run s fun r => do
    needHaul s r
    if s.waitdHolds (gangOf r) then
      return ((s.acquire (s.coreNum r) 6).complete r .memory 0 0).endWait r (s.stream r).wait.isSome
    else return s.waitOut r .waitd

end Sys2Proof.Machine
end

