-- ==== Sys2Proof/Machine/Collect.lean ====
section
/-! DEFINITION. Collectives: COLL, COLLW, the completion of a collective at a member, and the expiry of a bound
(10 R273 to R279, 19 R451, R452). -/

namespace Sys2Proof.Machine

/-! The descriptor (10 R274). -/

/-- A collective's descriptor, read. -/
structure CollDesc where
  src : Nat
  dst : Nat
  rel : Bool
  dedup : Bool
  order : Bool
  rop : Nat
  etype : Nat
  count : Nat
  bound : Nat
  k : Nat
  rank : Nat
  group : Nat
  deriving DecidableEq, Repr

/-- A descriptor from its eight words. -/
def collDesc (ws : List DWord) : CollDesc :=
  let w2 := wordAt ws 2
  let w3 := wordAt ws 3
  { src := wordAt ws 0, dst := wordAt ws 1, rel := bitOf w2 43, dedup := bitOf w2 42, order := bitOf w2 41,
    rop := bits w2 40 37, etype := bits w2 36 32, count := bits w2 31 0, bound := bits w3 63 48, k := bits w3 47 32,
    rank := bits w3 31 16, group := bits w3 15 0 }

/-- Records rather than elements move: sort and top-k. -/
def collRecords (op : Nat) : Bool := op == 4 || op == 5

/-- The element types a reduction accepts (10 R276). -/
def reduceType (rop ty : Nat) : Bool :=
  decide (3 ≤ rop) || isIeee ty && ty != 11 || ty == 11 || (isInt ty && decide (32 ≤ typeWidth ty))

/-- A reserved bit or code of a descriptor: code 8 (10 R279). -/
def collBad (op : Nat) (ws : List DWord) : Bool :=
  let d := collDesc ws
  bits (wordAt ws 2) 63 44 != 0 || bits (wordAt ws 4) 63 32 != 0 ||
    wordAt ws 5 != 0 || wordAt ws 6 != 0 || wordAt ws 7 != 0 || decide (6 ≤ d.rop) || d.count == 0 || d.etype == 31 ||
    (decide (op < 2) && !reduceType d.rop d.etype) || (collRecords op && !keyType d.etype) || (op == 5 && d.k == 0)

/-- The width of what a collective moves, in bits. -/
def CollDesc.width (d : CollDesc) (op : Nat) : Nat := if collRecords op then 64 else typeWidth d.etype

/-- Elements that a rank brings in a group of a size (10 R275). -/
def CollDesc.inputs (d : CollDesc) (op size rank : Nat) : Nat :=
  if op = 1 then size * d.count else if op = 3 ∧ rank ≠ 0 then 0 else d.count

/-- Elements that a member receives. -/
def CollDesc.outputs (d : CollDesc) (op size : Nat) : Nat :=
  if op = 2 then size * d.count else if op = 5 then d.k else d.count

/-- Bytes that n elements of w bits take. -/
def packedBytes (w n : Nat) : Nat := (n * w + 7) / 8

/-- The element at a position among bytes. -/
def elemAt (w : Nat) (bs : List Byte) (i : Nat) : Nat :=
  if w = 4 then bits (bs.getD (i / 2) 0).toNat (4 * (i % 2) + 3) (4 * (i % 2)) else leNat ((bs.drop (i * (w / 8))).take (w / 8))

/-- Elements laid out as bytes over the bytes that stood there: a last half byte keeps its other nibble. -/
def packElems (w : Nat) (old : List Byte) (xs : List Nat) : List Byte :=
  if w = 4 then
    (List.range (packedBytes 4 xs.length)).map fun i =>
      let hi := if 2 * i + 1 < xs.length then xs.getD (2 * i + 1) 0 % 16 else (old.getD i 0).toNat / 16
      b8 (xs.getD (2 * i) 0 % 16 + 16 * hi)
  else xs.flatMap fun x => leBytes (w / 8) x

/-! The operations (10 R275, R276). -/

/-- One element of a reduction over the inputs in ascending rank. -/
def reduceAt (d : CollDesc) (ins : List (List Byte)) (i : Nat) : Nat :=
  let w := typeWidth d.etype
  treeReduce (credElem d.rop d.etype ⟨0, false, false⟩) 10 (ins.map fun bs => elemAt w bs i)

/-- The records of all members as entries, the rank standing for the virtual id. -/
def recordsOf (d : CollDesc) (ins : List (List Byte)) : List SortEntry :=
  (ins.zip (List.range ins.length)).flatMap fun x =>
    (List.range d.count).map fun i =>
      let rec_ := elemAt 64 x.1 i
      ⟨rec_ % 2 ^ 32, rec_ / 2 ^ 32, x.2⟩

/-- The ranked entries of all members, valid ones first, a number of them, sentinels past the valid ones. -/
def ranked (op : Nat) (d : CollDesc) (ins : List (List Byte)) (n : Nat) : List SortEntry :=
  let desc := if op = 4 then d.order else !d.order
  let all := (sortEntries d.etype desc (recordsOf d ins)).filter (·.valid)
  let kept := (if d.dedup then dedup all else all).take n
  kept ++ List.replicate (n - kept.length) (sentinel d.etype desc)

/-- What a rank receives: its elements, and how many valid records. -/
def collResult (op : Nat) (d : CollDesc) (ins : List (List Byte)) : List Nat × Nat :=
  let size := ins.length
  let w := typeWidth d.etype
  if op = 0 then ((List.range d.count).map (reduceAt d ins), 0)
  else if op = 1 then ((List.range d.count).map fun k => reduceAt d ins (d.rank * d.count + k), 0)
  else if op = 2 then (ins.flatMap fun bs => (List.range d.count).map (elemAt w bs), 0)
  else if op = 3 then ((List.range d.count).map (elemAt w (ins.headD [])), 0)
  else
    let es := if op = 4 then ((ranked op d ins (size * d.count)).drop (d.rank * d.count)).take d.count else ranked op d ins d.k
    (es.map fun e => e.key % 2 ^ 32 + e.idx % 2 ^ 32 * 2 ^ 32, (es.filter (·.valid)).length)

/-! Outstanding collectives. -/

/-- Change an outstanding collective. -/
def State.updColl (s : State) (id : Nat) (f : Coll → Coll) : State :=
  { s with colls := s.colls.map fun c => if c.id = id then f c else c }

/-- The status word after a collective ends: the first error is held, PROV gathers (10 R279). -/
def collStatus (old : Word) (err num : Nat) (prov : Bool) : Word :=
  let x := if err ≠ 0 ∧ !bitOf old.toNat 31 then w32 (2 ^ 31 + err * 2 ^ 16 + num % 2 ^ 16) ||| (old &&& 0x40000000) else old
  if prov then x ||| 0x40000000 else x

/-- A collective ends at a member: it is no longer outstanding, and its status is kept. -/
def State.endColl (s : State) (c : Coll) (err : Nat) (prov : Bool) : State :=
  ({ s with colls := s.colls.filter (·.id != c.id) }.updStream c.stream fun t =>
    { t with collsOut := t.collsOut.filter (· != c.num), collStat := collStatus t.collStat err c.num prov }).dropOp c.id

/-- The member list of a collective's group (19 R452): package, partition, node descriptor address, GANGID. -/
def State.collMembers (s : State) (c : Coll) : List (Nat × Nat × DWord × Nat) :=
  Tab.get [] (s.part (s.gangAt c.stream).part).groups (collDesc c.desc).group

/-- The gang of a collective is the member of the list. -/
def State.isMember (s : State) (c : Coll) (m : Nat × Nat × DWord × Nat) : Bool :=
  let g := s.gangAt c.stream
  m.1 == s.fabid.toNat % 64 && m.2.1 == g.part && m.2.2.1 == g.nodeptr && m.2.2.2 == g.gangid

/-- A collective has arrived and waits for the others. -/
def Coll.arrived (c : Coll) : Bool := c.guard.isNone && c.input.isSome && c.all.isNone && c.err == 0

/-- The member's collective that the others wait for has ended in error: it never arrives (10 R278; log entry 48). -/
def State.missing (s : State) (group rank : Nat) (m : Nat × Nat × DWord × Nat) : Bool := s.failed.contains (m.2.1, group, rank)

/-- The oldest arrived collective of a member on a group; none while the one before it is missing. -/
def State.arrivedAt (s : State) (group rank : Nat) (m : Nat × Nat × DWord × Nat) : Option Coll :=
  if s.missing group rank m then none else s.colls.find? fun c => c.arrived && s.isMember c m && (collDesc c.desc).group == group && (collDesc c.desc).rank == rank

/-- The members of this package, with their ranks. -/
def State.localMembers (s : State) (ms : List (Nat × Nat × DWord × Nat)) : List (Nat × Nat × Nat × DWord × Nat) :=
  ((List.range ms.length).zip ms).filter fun x => x.2.1 == s.fabid.toNat % 64

/-! Arrival: the descriptor and the input are read. -/

/-- The range that n bytes from an address cover lies in the address space, and the address is element-aligned. -/
def collRange (w addr n : Nat) : Bool :=
  canonical addr && addr % (if w < 8 then 1 else w / 8) == 0 && !outOf56 (signed 64 addr) (max n 1)

/-- A failed translation of a collective at an address: delivered once, otherwise code 3 (15 R366, 10 R279). -/
def State.collMiss (s : State) (c : Coll) (va : Nat) (m : Miss) : State :=
  match s.engineMiss c.stream c.id false c.walked va m with
  | some t => t.updColl c.id fun x => { x with walked := x.walked ++ [va] }
  | none => (s.engineIntegrity (s.gangAt c.stream) m).updColl c.id fun x => { x with err := 3 }

/-- The descriptor of a collective is read and checked, and its bound begins (10 R274, R278, R279). -/
def State.readCollDesc (s : State) (c : Coll) : State :=
  let g := s.gangAt c.stream
  let va := va56 c.descAddr.toNat
  match s.engineSpots g .read va 64 with
  | (.error (at_, m), s) => (s.collMiss c at_ m).updColl c.id fun x => if x.err ≠ 0 then { x with desc := List.replicate 8 0 } else x
  | (.ok xs, s) =>
    match s.engineFetch g.core c.id xs with
    | some t => t
    | none =>
      let (bs, t) := s.engineRead g.core c.id xs
      let ws := dwords 8 bs
      let d := collDesc ws
      let c' := { c with desc := ws }
      let err :=
        if t.opBad.contains c.id ∨ t.erroneous xs ≠ .none then 3
        else if collBad c.op ws then 8
        else if !((t.collMembers c')[d.rank]?.any (t.isMember c')) then 7
        else if t.abandoned.contains (g.part, d.group, d.rank) then 6
        else 0
      let t := if err = 6 then { t with abandoned := t.abandoned.erase (g.part, d.group, d.rank) } else t
      (t.noteReads g.node xs).updColl c.id fun x =>
        { x with desc := ws, err, deadline := if d.bound = 0 then none else some (t.now + d.bound * 1000) }

/-- Unreleased versions that bytes come from: sealed staged pages and provisional sectors (10 R277, 19 R451). -/
def State.provOf (s : State) (x : Node) (xs : List Spot) : List VerRef :=
  (s.sealedIn x xs).map (fun v => (⟨none, v.1, v.2⟩ : VerRef)) ++
    (s.marksOf xs).flatMap fun m => match m.2 with
      | .provisional tags => tags.map fun x => ⟨some x.1, x.2.1, x.2.2⟩
      | _ => []

/-- The member arrives: its input is read, which enters the versions read in its node's record from the moment the read
translates (10 R275, R277, 16 R383, R398). -/
def State.readCollInput (s : State) (c : Coll) : State :=
  let g := s.gangAt c.stream
  let d := collDesc c.desc
  let ms := s.collMembers c
  let w := d.width c.op
  let n := packedBytes w (d.inputs c.op ms.length d.rank)
  if !collRange w d.src n then s.updColl c.id fun x => { x with err := 1 }
  else
    let va := va56 d.src
    match s.engineSpots g .read va n with
    | (.error (at_, m), s) => s.collMiss c at_ m
    | (.ok xs, s) =>
      let s := s.noteReads g.node xs
      match s.engineFetch g.core c.id xs with
      | some t => t
      | none =>
        let out := ms.any fun m => m.1 != s.fabid.toNat % 64
        if s.opBad.contains c.id ∨ (out ∧ (s.part g.part).strict ∧ xs.any fun p => !p.leaf.stg) then
          s.updColl c.id fun x => { x with err := 3 }
        else
          let (bs, t) := s.engineRead g.core c.id xs
          let inp : CollIn := ⟨bs, spotsLabel xs, s.erroneous xs, s.provOf (s.node g.node) xs⟩
          t.updColl c.id fun x => { x with input := some inp }

/-! All members have arrived. -/

/-- The inputs of members of other packages from the operands of COLL_COMPLETE: whether the descriptor agrees, and the
input of each, given the bytes each brings. -/
def remoteInputs (lens : List Nat) (bs : List Byte) (ns : List Nat) : List (Bool × CollIn) :=
  match lens with
  | [] => []
  | n :: rest =>
    let at_ (k : Nat) : Nat := ns.getD k 0
    let prov : List VerRef := (List.range (at_ 3)).map fun i => ⟨some (at_ (4 + 3 * i)), at_ (5 + 3 * i), at_ (6 + 3 * i)⟩
    let bad : Bad := if at_ 2 = 0 then .none else if at_ 2 = 1 then .poison else .integrity
    (at_ 0 == 1, ⟨bs.take n, labelOf (at_ 1), bad, prov⟩) :: remoteInputs rest (bs.drop n) (ns.drop (4 + 3 * at_ 3))

/-- A member's collective ends in error before it has arrived: the members of its group wait for it in vain, unless each of them
has failed so (10 R278; log entry 48). -/
def State.failColl (s : State) (c : Coll) : State :=
  let d := collDesc c.desc
  let s' := s.endColl c c.err false
  if c.input.isSome ∨ c.err = 6 ∨ c.err = 7 ∨ !((s.collMembers c)[d.rank]?.any (s.isMember c)) then s'
  else
    let ms := s.collMembers c
    let s' := { s' with failed := s'.failed ++ [((s.gangAt c.stream).part, d.group, d.rank)] }
    let here := (s.localMembers ms).map fun x => (x.2.2.1, d.group, x.1)
    if here.length = ms.length ∧ here.all s'.failed.contains then { s' with failed := here.foldl List.erase s'.failed } else s'

/-- Two members' descriptors agree (10 R278). -/
def collAgree (a b : Coll) : Bool :=
  let x := collDesc a.desc
  let y := collDesc b.desc
  a.op == b.op && x.etype == y.etype && x.rop == y.rop && x.count == y.count && x.order == y.order && x.dedup == y.dedup &&
    x.k == y.k

/-- Versions of other packages that arrived with data await their notices for 100 ms (19 R451). -/
def State.awaitForeign (s : State) (vs : List VerRef) : State :=
  vs.foldl (fun s v => match v.pkg with
    | none => s
    | some p =>
      if (s.foreign.any fun f => f.1 == p && f.2.1 == v.pair && f.2.2.1 == v.version) ∨
          s.foreignVoid.contains (p, v.pair, v.version) then s
      else { s with foreign := s.foreign ++ [(p, v.pair, v.version, s.now + 100000000)] }) s

/-- The version has been released; one of another package that has become void has not (10 R277, 19 R451). -/
def State.refReleased (s : State) (v : VerRef) : Bool :=
  match v.pkg with
  | none => (s.ver v.pair v.version).st == .released
  | some p => !(s.foreign.any fun f => f.1 == p && f.2.1 == v.pair && f.2.2.1 == v.version) &&
      !s.foreignVoid.contains (p, v.pair, v.version)

/-- The version is known to be void. -/
def State.refVoid (s : State) (v : VerRef) : Bool :=
  match v.pkg with
  | none => (s.ver v.pair v.version).st == .void
  | some p => s.foreignVoid.contains (p, v.pair, v.version)

/-- With every member arrived, each matched collective of this package holds the inputs of all, and the other packages hold
what of them is provisional; where descriptors disagree each ends with code 4 (10 R275, R278, 16 R398). None while a member
is absent. -/
def State.gatherColl (s : State) (c : Coll) (e : Ev) : Option State :=
  let d := collDesc c.desc
  let ms := s.collMembers c
  let own := s.fabid.toNat % 64
  let num := (List.range ms.length).zip ms
  let here := num.filter fun x => x.2.1 == own
  let there := num.filter fun x => x.2.1 != own
  match allSome (here.map fun x => (s.arrivedAt d.group x.1 x.2).map fun k => (x.1, k)) with
  | none => none
  | some cs =>
    if e.nums.length < 4 * there.length then none
    else
      let w := d.width c.op
      let rem := remoteInputs (there.map fun x => packedBytes w (d.inputs c.op ms.length x.1)) e.bytes e.nums
      let ids := cs.map fun x => x.2.id
      if !(cs.all fun x => collAgree c x.2) || !(rem.all Prod.fst) then
        some (ids.foldl (fun s i => s.updColl i fun x => { x with err := 4 }) s)
      else
        let got := cs.map (fun x => (x.1, x.2.input.getD {})) ++ (there.map Prod.fst).zip (rem.map Prod.snd)
        let all := (sortBy (fun a b : Nat × CollIn => decide (a.1 < b.1)) got).map Prod.snd
        let prov := all.flatMap (·.prov)
        let mine := prov.filterMap fun v => if v.pkg.isNone ∧ !s.refReleased v then some (v.pair, v.version) else none
        let s := ids.foldl (fun s i => s.updColl i fun x => { x with all := some all }) s
        some ((s.lend (distinct (there.map fun x => x.2.1)) mine).awaitForeign prov)

/-! Completion at a member. -/

/-- Tag the sectors of local addresses with versions of other packages, beside the tags they have (19 R451). -/
def State.tagSectors (s : State) (tags : List (Nat × Nat × Nat)) (as : List Nat) : State :=
  if tags = [] then s
  else
    let put (t : Tab Mark) (k : Nat) : Tab Mark := match Tab.find k t with
      | none => Tab.put k (.provisional tags) t
      | some (.provisional old) => Tab.put k (.provisional (old ++ tags.filter fun x => !old.contains x)) t
      | some _ => t
    { s with marks := (distinct (as.map (· / 64))).foldl put s.marks }

/-- Mark the sectors written with data of other packages' versions (19 R451). -/
def State.markProvisional (s : State) (xs : List Spot) (vs : List VerRef) : State :=
  s.tagSectors (vs.filterMap fun v => v.pkg.map fun p => (p, v.pair, v.version))
    (xs.filterMap fun p => match s.window p.pa with | .mem a => some a | _ => none)

/-- A member's instance has read, by its collective, a version that another member's input came from; one that has become void
meanwhile dooms it (10 R277, 16 R392, 19 R451). -/
def State.enterGiven (s : State) (n : Nat) (v : VerRef) : State :=
  let s := s.enterRead n v
  if s.refVoid v then
    match (if v.pkg.isNone then (s.ver v.pair v.version).node else none).bind s.findUid with
    | some y =>
      let rerun := y.st != .ended && !y.short && (y.reposted || (y.tested && !y.passed))
      s.doomAll rerun y.cause (partOfNode n) [s.node n]
    | none => s.doomAll false 0 (partOfNode n) [s.node n]
  else s

/-- The destination is checked and written, and VALID, and the member's collective ends (10 R275 to R277, R279). -/
def State.deliverColl (s : State) (c : Coll) (all : List CollIn) : Option State :=
  let g := s.gangAt c.stream
  let d := collDesc c.desc
  let w := d.width c.op
  let (xs, valid) := collResult c.op d (all.map (·.bytes))
  let n := packedBytes w xs.length
  let prov := (all.flatMap (·.prov)).filter fun v => !s.refReleased v
  let label : Label := all.foldl (fun l i => Label.join l i.label) 0
  -- Inputs leave a package only in a group that spans several.
  let due := if (s.collMembers c).any fun m => m.1 != s.fabid.toNat % 64 then prov else []
  if d.rel ∧ due ≠ [] then none
  else if !collRange w d.dst n then some (s.endColl c 1 false)
  else
    let fail (s : State) (va : Nat) (m : Miss) : State :=
      match s.engineMiss c.stream c.id false c.walked va m with
      | some t => t.updColl c.id fun x => { x with walked := x.walked ++ [va] }
      | none => (s.engineIntegrity g m).endColl c 3 false
    let va := va56 d.dst
    let vv := va56 (c.descAddr.toNat + 32)
    match s.engineSpots g .write va n with
    | (.error (at_, m), s) => some (fail s at_ m)
    | (.ok ps, s) =>
      match s.engineSpots g .write vv (if collRecords c.op then 4 else 0) with
      | (.error (at_, m), s) => some (fail s at_ m)
      | (.ok vs, s) =>
        let own := (List.range n).all fun i => g.ranges.any fun b => b.covers g.gangid ((va + i) % 2 ^ 56)
        if ps.any fun p => p.leaf.label == 3 || decide (p.leaf.label < label) then some (s.endColl c 2 false)
        else if g.det ∧ !own then some (s.endColl c 9 false)
        else if (ps ++ vs).any s.hostHeld then none
        else
          let (old, s) := if w = 4 then s.engineRead g.core c.id ps else ([], s)
          let ws := ps.zip (packElems w old xs)
          let s := (s.engineWrite g.core (ws ++ vs.zip (leBytes 4 valid))).engineMarks g (all.foldl (fun b i => b.join i.bad) .none) (ws.map Prod.fst)
          let s := s.markProvisional (ws.map Prod.fst) prov
          let s := prov.foldl (fun s v => s.enterGiven g.node v) s
          some (s.endColl c 0 (due != []))

/-- The next phase of a collective: its guard, its descriptor, its input, the gathering of all inputs, its completion. -/
def State.stepColl (s : State) (c : Coll) (e : Ev) : Option State :=
  let g := s.gangAt c.stream
  if s.faultHeld c.stream c.id ∨ g.parked ∨ (Tab.find c.stream s.streams).isNone then none
  else match c.guard with
    | some k =>
      match (s.stream c.stream).guard k with
      | .unset => none
      | .off => some (s.endColl c 0 false)
      | .on => some (s.updColl c.id fun x => { x with guard := none })
    | none =>
      if c.desc = [] then some (s.readCollDesc c)
      else if c.err ≠ 0 then some (s.failColl c)
      else match c.all with
        | some all => s.deliverColl c all
        | none => if c.input.isNone then some (s.readCollInput c) else s.gatherColl c e

/-- COLL_COMPLETE (10 R277): the next phase of the collective of the number given. -/
def onCollComplete (e : Ev) (s : State) : Option State :=
  match s.colls.find? (·.id == e.n0) with
  | none => none
  | some c => s.stepColl c e

/-- COLL_COMPLETE (10 R277). -/
def execCollComplete (s : State) : Host.Outcome State Fault Refusal := event s onCollComplete

/-- A member's collective on a group that has been issued, and whose descriptor has been read, but that has not arrived. -/
def State.comingAt (s : State) (group rank : Nat) (m : Nat × Nat × DWord × Nat) : Option Coll :=
  if s.missing group rank m then none else s.colls.find? fun c => c.desc != [] && c.guard.isNone && c.input.isNone && c.all.isNone && c.err == 0 && s.isMember c m &&
    (collDesc c.desc).group == group && (collDesc c.desc).rank == rank

/-- COLL_BOUND_EXPIRY (10 R278): while a member is absent, the member whose bound expires completes with code 5 and every
other with code 6; one whose collective the device has not read yet does so as soon as it is, and one whose collective ended
in error has done with it. -/
def onCollBoundExpiry (e : Ev) (s : State) : Option State :=
  match s.colls.find? (·.id == e.n0) with
  | none => none
  | some c =>
    let due : Bool := e.n1 == 1 || (match c.deadline with
      | some t => decide (t ≤ s.now)
      | none => false)
    let d := collDesc c.desc
    let ms := s.collMembers c
    let here := s.localMembers ms
    let absent := here.any (fun x => (s.arrivedAt d.group x.1 x.2).isNone) || (decide (here.length < ms.length) && e.n2 != 1)
    if !due || !c.arrived || !absent then none
    else
      some (here.foldl (fun s x =>
        match (s.arrivedAt d.group x.1 x.2).or (s.comingAt d.group x.1 x.2) with
        | some k => s.endColl k (if k.id = c.id ∧ e.n1 ≠ 1 then 5 else 6) false
        | none =>
          let who := (x.2.2.1, d.group, x.1)
          if s.failed.contains who then { s with failed := s.failed.erase who }
          else { s with abandoned := s.abandoned ++ [who] }) s)

/-- COLL_BOUND_EXPIRY (10 R278). -/
def execCollBoundExpiry (s : State) : Host.Outcome State Fault Refusal := event s onCollBoundExpiry

/-! COLL and COLLW (10 R273, R279). -/

/-- COLL (10 R273). -/
def execColl (gv : Bool) (slot : BitVec 3) (a : BitVec 7) (op : BitVec 4) (s : State) : Host.Outcome State Fault Refusal :=
  run s fun r => do
    needHaul s r
    need s r 0 (decide (op.toNat < 6))
    let t := s.stream r
    let p ← s.peek r 0 [uniWant a] none
    if t.active false = 0 then return p.st.complete r .memory p.regs 0
    let addr := p.val 0 0
    checkDesc t.em addr
    if 8 ≤ t.collsOut.length then .error (.stall s)
    else
      let core := s.coreNum r
      match s.domainWait core 7 with
      | some s' => .error (.stall s')
      | none =>
        let s' := p.st.release core 7
        let num := t.collNum + 1
        let g : Guard := if gv then t.guard slot.toNat else .on
        let s' := s'.updStream r fun t => { t with collNum := num }
        if g = .off then return s'.complete r .memory p.regs 0
        else
          let (id, s') := s'.freshNum
          let c : Coll := { id, stream := r, num := num.toNat, op := op.toNat, descAddr := w64 addr,
                            guard := if g = .unset then some slot.toNat else none, err := 0 }
          let s' := { s' with colls := s'.colls ++ [c] }.updStream r fun t => { t with collsOut := t.collsOut ++ [num.toNat] }
          return s'.complete r .memory p.regs 0

/-- Collectives up to this number are not outstanding: the number before the oldest outstanding one. -/
def Stream.collDone (t : Stream) : BitVec 16 :=
  match t.collsOut with
  | [] => t.collNum
  | n :: _ => BitVec.ofNat 16 n - 1

/-- The collective number lies in the pending window of 10 R279. -/
def Stream.collPending (t : Stream) (n : BitVec 16) : Bool :=
  decide (1 ≤ (n - t.collDone).toNat) && decide ((n - t.collDone).toNat ≤ (t.collNum - t.collDone).toNat)

/-- COLLW (10 R279). -/
def execCollw (d : BitVec 6) (src : BitVec 7) (s : State) : Host.Outcome State Fault Refusal :=
  run s fun r => do
    needHaul s r
    need s r 3 (decide (d.toNat < 32))
    let p ← s.peek r 0 [{ f := src.toNat, allow := .uni }] none
    let t := s.stream r
    let n : BitVec 16 := BitVec.ofNat 16 (p.val 0 0)
    let pending : Bool := if srcOf src.toNat = .z then !t.collsOut.isEmpty else t.collPending n
    if pending then .error (.stall s)
    else
      let core := s.coreNum r
      let s' := p.st.updStream r fun t => { t.setC d.toNat ⟨t.collStat, 0⟩ with collStat := 0 }
      return ((s'.engineJoin core).acquire core 7).complete r .memory p.regs 0

/-! GSET (06 R162): what the slots of a stream held proceeds or is discarded at once. -/

/-- A held collective of the stream proceeds, or is discarded, where its slot is set (03 R77, 10 R273). -/
def State.wakeColls (s : State) (r : Nat) : State :=
  (s.colls.filter (·.stream == r)).foldl (fun s c =>
    match c.guard with
    | none => s
    | some k =>
      match (s.stream r).guard k with
      | .unset => s
      | .off => s.endColl c 0 false
      | .on => s.updColl c.id fun x => { x with guard := none }) s

/-- What a GSET of a stream does to the commands its slots held: the copies, the matrix commands and the collectives
(08 R234, 09 R255, 10 R273). -/
def State.wakeHeld (s : State) (r : Nat) : State :=
  let s := s.wakeCopies r
  (s.wakeMx r (s.stream r).mxQ.length).wakeColls r

/-- GSET: the slot becomes unset, or true when the predicate is 1 in some lane of EM or names p7, and the commands held
under it proceed or are discarded at once (06 R162, 08 R234). -/
def execGset (unset : Bool) (a b : BitVec 7) (s : State) : Host.Outcome State Fault Refusal :=
  run s fun r => do
    let g ← predOf s r a
    let t := s.stream r
    if unset then
      need s r 3 (b == 0)
      return (s.updStream r fun t => { t with guards := Tab.set .unset t.guards g .unset }).complete r .control 0 0
    else
      let n ← predOf s r b
      let v : Guard := if n = 7 ∨ (t.preg n).v &&& t.em ≠ 0 then .on else .off
      return ((s.updStream r fun t => { t with guards := Tab.set .unset t.guards g v }).wakeHeld r).complete r .control 0 0

end Sys2Proof.Machine
end

