-- ==== Sys2Proof/Machine/Privileged.lean ====
section
/-! DEFINITION. The privileged instructions: MFP, MTP, ERET, HALT, TLBINV, PARK, UNPARK, SHEDACK, DECLASS, OVLOADP, and the
parking and resumption of gangs (13 R298 to R331). -/

namespace Sys2Proof.Machine

/-- The stream runs at supervisor level, or the privilege trap (13 R298). -/
def needSuper (s : State) (r : Nat) : Except Stop Unit := if (s.stream r).priv then .ok () else .error (s.privilege r 0)

/-! Privileged registers (13 R300 to R302). -/

/-- SSTATUS of a stream. -/
def Stream.sstatus (t : Stream) : Nat := t.phact.toNat * 8 + t.ppriv.toNat * 4 + t.priv.toNat * 2 + t.intrap.toNat

/-- A privileged register: whether it has 64 bits, and its value; none where the index is not listed. -/
def State.privReg (s : State) (r idx : Nat) : Option (Bool × Nat) :=
  let t := s.stream r
  let g := s.gangAt r
  let p := s.part g.part
  match idx with
  | 0 => some (false, t.sstatus)
  | 1 => some (false, t.spc.toNat)
  | 2 => some (false, t.scause.toNat)
  | 3 => some (true, t.sinfo.toNat)
  | 4 => some (false, t.smask.toNat)
  | 5 => some (false, t.sem.toNat)
  | 6 => some (false, t.sword.toNat)
  | 16 => some (false, g.handle.toNat)
  | 17 => some (true, g.nodeptr.toNat)
  | 18 => some (true, g.rcbptr.toNat)
  | 19 => some (true, g.effcfg.toNat)
  | 32 => some (false, p.partcfg.toNat)
  | 33 => some (true, p.partclu.toNat)
  | 34 => some (true, p.partroot.toNat)
  | 35 => some (false, p.svec.toNat)
  | 36 => some (true, p.simg.toNat)
  | 37 => some (false, p.simgsz.toNat)
  | 38 => some (false, p.htime.toNat)
  | 39 => some (false, p.shedstat.toNat)
  | 40 => some (true, p.ptbase.toNat)
  | n => if 8 ≤ n ∧ n < 16 then some (false, (Tab.get 0 t.sscr (n - 8)).toNat) else none

/-- MTP's effect on a register: the RW fields are written, RO fields and registers ignore the write; none where the value
lies outside the field's range (13 R322). -/
def State.privWrite (s : State) (r idx v : Nat) : Option State :=
  let part := s.partNum r
  let when (ok : Bool) (s : State) : Option State := if ok then some s else none
  match idx with
  | 0 => when (bits v 31 4 == 0) (s.updStream r fun t => { t with phact := bitOf v 3, ppriv := bitOf v 2 })
  | 1 => some (s.updStream r fun t => { t with spc := w32 (bits v 23 2 * 4) })
  | 5 => some (s.updStream r fun t => { t with sem := w32 v })
  | 35 => when (v % 4 == 0) (s.updPart part fun p => { p with svec := w32 v })
  | 36 => when (v % 4096 == 0 && decide (v < 2 ^ 40)) (s.updPart part fun p => { p with simg := w64 v })
  | 37 => when (decide (1 ≤ v) && decide (v ≤ 4096)) (s.updPart part fun p => { p with simgsz := w32 v })
  | 38 => when (decide (1 ≤ v) && decide (v ≤ 65535)) (s.updPart part fun p => { p with htime := w32 v })
  | 40 => when (bits v 10 1 == 0 && bits v 63 52 == 0) (s.updPart part fun p => { p with ptbase := w64 v })
  | n => some (if 8 ≤ n ∧ n < 16 then s.updStream r fun t => { t with sscr := Tab.put (n - 8) (w32 v) t.sscr } else s)

/-- MFP (13 R322). -/
def execMfp (d : BitVec 6) (idx : BitVec 7) (s : State) : Host.Outcome State Fault Refusal :=
  run s fun r =>
    match s.privReg r idx.toNat with
    | none => .error (s.illegal r 3)
    | some (wide, v) => do
      need s r 3 (decide (d.toNat < 32) && (!wide || d.toNat % 2 == 0))
      needSuper s r
      return (s.updStream r fun t => t.putC d.toNat wide v 0).complete r .privileged 0 0

/-- MTP (13 R322). -/
def execMtp (a idx : BitVec 7) (s : State) : Host.Outcome State Fault Refusal :=
  run s fun r =>
    match s.privReg r idx.toNat with
    | none => .error (s.illegal r 3)
    | some (wide, _) => do
      let p ← s.peek r 0 [{ f := a.toNat, wide, allow := .uni }] none
      match p.st.privWrite r idx.toNat (p.val 0 0) with
      | none => .error (s.illegal r 3)
      | some s' => do
        needSuper s r
        return s'.complete r .privileged p.regs 0

/-! Leaving a system handler, and ending a node (13 R323, R324). -/

/-- HALT's effect: the node of the stream's gang ends with a fault status. -/
def State.haltNode (s : State) (r status : Nat) : State :=
  (s.chargeInstr r .privileged 0 0).endInstance (s.nodeNum r) status

/-- The argument block after the return from its fault: read again with mode 0; otherwise c0 to c7 are zero with label 0
(01 R38). -/
def State.retryArgs (s : State) (r mode : Nat) : State :=
  match (s.stream r).argFault with
  | none => s
  | some _ => if mode = 0 then s.loadArgs r else s.updStream r fun t => t.giveArgs none

/-- ERET of a trap that ends the node, or in a node that has ended but for its handlers: the stream stops, and with the
last such stream the node ends (13 R323, 17 R417). -/
def State.eretHalt (s : State) (r : Nat) : State :=
  let n := s.nodeNum r
  let status := if (s.node n).endAtEret then (s.node n).status else 0x29
  if (s.node n).endAtEret ∧ (s.handlers n).any (· != r) then
    ((s.chargeInstr r .privileged 0 0).updStream r Stream.stop).settleEnd r
  else s.haltNode r status

/-- ERET (13 R323). -/
def execEret (d : BitVec 6) (form : BitVec 2) (s : State) : Host.Outcome State Fault Refusal :=
  run s fun r => do
    let mode := form.toNat
    need s r 3 (mode != 3)
    need s r 3 (mode != 2 || decide (d.toNat < 32))
    needSuper s r
    let t := s.stream r
    need s r 0 t.intrap
    if bits t.scause.toNat 7 0 = 0x29 ∨ (s.node (s.nodeNum r)).endAtEret then return s.eretHalt r
    else
      let target : BitVec 24 := BitVec.ofNat 24 (bits (t.creg d.toNat).v.toNat 23 2 * 4)
      let s' := s.chargeInstr r .privileged (if mode = 2 then 1 else 0) 0
      return (s'.updStream r fun t => t.leaveSystem mode target).retryArgs r mode

/-- HALT (13 R324). -/
def execHalt (status : BitVec 15) (s : State) : Host.Outcome State Fault Refusal :=
  run s fun r => do
    need s r 3 (status != 0)
    needSuper s r
    return s.haltNode r status.toNat

/-! TLBINV (13 R328). -/

/-- TLBINV (13 R328). -/
def execTlbinv (a : BitVec 7) (kind : BitVec 2) (scope : BitVec 4) (s : State) : Host.Outcome State Fault Refusal :=
  run s fun r => do
    needHaul s r
    need s r 3 (decide (kind.toNat < 2) && decide (3 ≤ scope.toNat) && decide (scope.toNat ≤ 6))
    let p ← s.peek r 0 [{ f := a.toNat, wide := kind == 0, allow := .uni }] none
    need s r 3 (kind == 0 || srcOf a.toNat == .z)
    needSuper s r
    let core := s.coreNum r
    let s' := p.st.release core scope.toNat
    let va := p.val 0 0
    let s' :=
      if kind = 1 then s'.tlbRemove core scope.toNat (s.partNum r) none
      else if canonical va then s'.tlbRemove core scope.toNat (s.partNum r) (some (va56 va))
      else s'
    return s'.complete r .privileged p.regs 0

/-! Parking (13 R314 to R316, R325). -/

/-- The gang that a live handle names. -/
def State.byHandle (s : State) (h : Nat) : Option (Nat × Gang) := s.gangs.find? fun p => p.2.live && p.2.handle.toNat == h

/-- What the operations of the gang are still doing: accepted copies, passes gathered, loads whose data is to come
(13 R315). -/
def State.parkBusy (s : State) (g : Nat) : Bool :=
  let x := s.gang g
  let cl := s.cluster (clusterOf x.core)
  (cl.copies.any fun c => gangOf c.stream == g) || (cl.table.any fun e => gangOf e.stream == g && e.phase != .accepted) ||
    (streamsOf g x).any fun r => !(s.stream r).loads.isEmpty

/-- A parked gang that nothing holds parked any more runs on: its crews are ready, or wait as they did, and each begins
with an acquire (13 R316, R325). -/
def State.resumeGang (s : State) (g : Nat) : State :=
  let x := s.gang g
  if !x.parked ∨ x.parkHold ∨ x.shedHold ∨ x.assayHold then s
  else
    let s := s.updGang g fun x => { x with parked := false, acquireDue := List.range x.crews }
    let s := s.updCluster (clusterOf x.core) fun c => { c with island := if c.island = .retention then .running else c.island }
    (crewsOf g x).foldl (fun s k =>
      if (s.crew k).ended then s.updCrew k fun c => { c with stopped := false, place := .waiting }
      else
        let s := s.updCrew k fun c => { c with stopped := false, place := .waiting }
        let outside := (crewStreams x.single k).any fun r => match (s.stream r).wait with
          | some w => w.outside && !s.waitOver r w
          | none => false
        if outside then s else s.makeReady k) s

/-- An island whose resident gangs are all parked enters retention: its clock stops (18 R427). -/
def State.retain (s : State) (cl : Nat) : State :=
  let on := s.gangs.filter fun p => clusterOf p.2.core == cl && p.2.live
  if on ≠ [] ∧ on.all (fun p => p.2.parked) ∧ (s.cluster cl).island = .running then
    s.updCluster cl fun c => { c with island := .retention }
  else s

/-- PARK_COMPLETE: with every live crew stopped and its operations drained, entries not begun leave the reservation table,
and the gang is parked with a release at device scope (13 R315, R316, 09 R254). -/
def onParkComplete (e : Ev) (s : State) : Option State :=
  let g := e.n0
  let x := s.gang g
  if !x.live ∨ x.parked ∨ x.req = .none ∨ !((crewsOf g x).all fun k => (s.crew k).stopped || (s.crew k).ended) ∨ s.parkBusy g then
    none
  else
    let cl := clusterOf x.core
    let (mine, rest) := (s.cluster cl).table.partition fun e => gangOf e.stream == g
    let s := s.updCluster cl fun c => { c with table := rest }
    let s := (streamsOf g x).foldl (fun s r => s.updStream r fun t => { t with efaults := [] }) s
    let s := (crewsOf g x).foldl (fun s k => s.updCrew k fun c => { c with place := .parked }) s
    let s := s.release x.core 6
    let (n, s) := s.freshNum
    let s := s.updGang g fun x => { x with
      parked := true, req := .none, parkOrder := n, shedAt := none, mxSaved := mine ++ x.mxSaved }
    some ((s.retain cl).resumeGang g)

/-- PARK_COMPLETE (13 R315). -/
def execParkComplete (s : State) : Host.Outcome State Fault Refusal := event s onParkComplete

/-- A park of the gang at its boundaries is asked for, unless one is already under way. -/
def Gang.askPark (x : Gang) (req : ParkReq) : Gang :=
  if x.parked then x else if x.req = .preempt then x else { x with req }

/-- Write a status to a uniform register and complete a privileged instruction. -/
def State.privStatus (s : State) (r d : Nat) (st : Word) (reads : Nat) : State :=
  (s.updStream r fun t => t.setC d ⟨st, 0⟩).complete r .privileged reads 0

/-- PARK (13 R325). -/
def execPark (d : BitVec 6) (a : BitVec 7) (form : BitVec 2) (s : State) : Host.Outcome State Fault Refusal :=
  run s fun r => do
    needHaul s r
    need s r 3 (decide (form.toNat < 2) && decide (d.toNat < 32) && srcOf a.toNat != .z)
    let p ← s.peek r 0 [{ f := a.toNat, allow := .uni }] none
    needSuper s r
    let give (s : State) (st : Nat) : State := s.privStatus r d.toNat (w32 st) p.regs
    match s.byHandle (p.val 0 0) with
    | none => return give p.st 2
    | some (g, x) =>
      if x.part ≠ s.partNum r then return give p.st 3
      else if form = 1 ∧ g = gangOf r then return give p.st 4
      else if x.parked then return give (p.st.updGang g fun y => { y with parkHold := true }) 0
      else if form = 0 then return give (p.st.updGang g fun y => { y.askPark .boundary with parkHold := true }) 1
      else
        let s' := s.updGang g fun y => { y.askPark .preempt with parkHold := true }
        .error (.stall (s'.updStream r fun t => { t with wait := some .park }))

/-- UNPARK (13 R325). -/
def execUnpark (d : BitVec 6) (a : BitVec 7) (s : State) : Host.Outcome State Fault Refusal :=
  run s fun r => do
    needHaul s r
    need s r 3 (decide (d.toNat < 32) && srcOf a.toNat != .z)
    let p ← s.peek r 0 [{ f := a.toNat, allow := .uni }] none
    needSuper s r
    let give (s : State) (st : Nat) : State := s.privStatus r d.toNat (w32 st) p.regs
    match s.byHandle (p.val 0 0) with
    | none => return give p.st 2
    | some (g, x) =>
      if x.part ≠ s.partNum r then return give p.st 3
      else if !x.parked then return give p.st 1
      else if s.saving g then .error (.stall s)
      else
        let s' := (p.st.updGang g fun y => { y with parkHold := false }).resumeGang g
        return give s' (if x.shedHold || x.assayHold then 5 else 0)

/-! SHEDACK, DECLASS and OVLOADP (13 R329 to R331). -/

/-- SHEDACK (13 R330): PEND is cleared, and a fall of the level that waited for it follows (18 R438). -/
def execShedack (d : BitVec 6) (s : State) : Host.Outcome State Fault Refusal :=
  run s fun r => do
    need s r 3 (decide (d.toNat < 32))
    needSuper s r
    let k := s.partNum r
    let st := (s.part k).shedstat
    let s' := s.updPart k fun p => { p with shedstat := p.shedstat &&& ~~~64 }
    return (s'.privStatus r d.toNat st 0).updateLevel k

/-- DECLASS (13 R329). -/
def execDeclass (nw : Bool) (d : BitVec 6) (a : BitVec 7) (lab : BitVec 2) (m : Bool) (s : State) :
    Host.Outcome State Fault Refusal :=
  run s fun r =>
    let dst : Dst := { n := d.toNat, nw }
    let want : Want := { f := a.toNat }
    match s.srcFault r want with
    | some k => .error (s.illegal r k)
    | none => do
      needReg s r dst.n
      needSuper s r
      if !effDECLASS (s.gangAt r).effcfg then .error (s.privilege r 1)
      let act := (s.stream r).active m
      let p ← s.peek r act [want] (some dst)
      let s' ← p.write r dst act fun i => (p.val 0 i, labelOf lab.toNat)
      return s'.complete r .privileged p.regs 0

/-- OVLOADP (13 R331): a page of the supervisor image comes into a frame of the executing core. -/
def execOvloadp (a k : BitVec 7) (s : State) : Host.Outcome State Fault Refusal :=
  run s fun r => do
    let p ← s.uniform r a.toNat false
    needSuper s r
    let s' ← p.st.loadPage r true (p.val 0 0 + k.toNat)
    return s'.complete r .privileged p.regs 0

end Sys2Proof.Machine
end

