-- ==== Sys2Proof/Machine/Context.lean ====
section
/-! DEFINITION. Context images: CTXSAVE and CTXLOAD, the writing of an image and the placing of a gang from one
(13 R318 to R320, R326, R327). -/

namespace Sys2Proof.Machine

/-! The image (13 R319). -/

/-- Weight slots that a gang owns. -/
def State.ownedSlots (s : State) (g : Nat) : Tab WSlot :=
  (s.cluster (clusterOf (s.gang g).core)).slots.filter fun w => w.2.owner == some g

/-- The size of a gang's image in KiB. -/
def imageKib (x : Gang) (slots : Nat) : Nat :=
  4 + 12 * (if x.single then x.crews else 2 * x.crews) + 12 * x.crews + 33 * x.smax + 4 * x.tiles + 13 * slots + 64

/-- The highest label of a vector. -/
def Vec.label (v : Vec) : Label := v.foldl (fun l x => Label.join l x.l) 0

/-- The highest label of a list. -/
def joinAll (ls : List Label) : Label := ls.foldl Label.join 0

/-- The highest label that a stream's registers carry. -/
def Stream.label (t : Stream) : Label :=
  joinAll (t.v.map (fun x => Vec.label x.2) ++ t.c.map (fun x => x.2.l) ++ t.p.map fun x => x.2.l)

/-- The highest label of a gang's contents, its reconvergence stack among them (13 R318, R319). -/
def State.contentsLabel (s : State) (g : Nat) : Label :=
  let x := s.gang g
  let queues (q : Tab (List QEntry)) : List Label := q.flatMap fun e => e.2.map fun y => Vec.label y.vec
  joinAll ((streamsOf g x).map (fun r => (s.stream r).label) ++
    (crewsOf g x).flatMap (fun k => queues (s.crew k).loadQ ++ queues (s.crew k).storeQ) ++
    (x.stack.flatMap fun e => e.saved.map (fun t => t.2.label) ++ e.raised.flatMap fun p => p.2.map fun q => q.2.l) ++
    x.scratchLab.map (·.2) ++ x.tileStore.map (fun t => t.2.label) ++ x.witness.map (·.2) ++
    (s.ownedSlots g).map fun w => w.2.label)

/-- A stream of the gang holds a pending event (13 R321). -/
def State.debugPending (s : State) (g : Nat) : Bool := (streamsOf g (s.gang g)).any fun r => (s.stream r).pending.isSome

/-- Header words 0 to 6 of an image; STAMP is the time at which its CTXSAVE began. -/
def State.imageHeader (s : State) (g kib : Nat) (sl : Bool) (nonce : Nat) (stamp : DWord) : List DWord :=
  let x := s.gang g
  [w64 (2 ^ 48 + (s.debugPending g).toNat * 2 ^ 33 + sl.toNat * 2 ^ 32 + kib), x.nodeptr, x.rcbptr,
    w64 (x.gangid * 2 ^ 40 + x.crews * 2 ^ 32 + x.single.toNat * 2 ^ 31 + (isStreamCore x.core).toNat * 2 ^ 30),
    stamp, w64 nonce, w64 (nonce / 2 ^ 64 % 2 ^ 32)]

/-- Bytes of words. -/
def wordBytes (ws : List DWord) : List Byte := ws.flatMap fun w => leBytes 8 w.toNat

/-- An image's bytes from its header words, tag and body. -/
def imageBytes (head : List DWord) (tag body : List Byte) : List Byte :=
  wordBytes head ++ fitBytes 16 tag ++ List.replicate (4096 - 72) 0 ++ body

/-- The places of an image of n KiB for a stream's access. -/
def State.imageSpots (s : State) (r : Nat) (k : Acc) : Nat → Nat → Option (List Spot) × State
  | _, 0 => (some [], s)
  | va, n + 1 =>
    match s.spotsOf (s.gangAt r) (s.stream r).priv k va 1024 with
    | (.error _, s) => (none, s)
    | (.ok xs, s) =>
      match State.imageSpots s r k ((va + 1024) % 2 ^ 56) n with
      | (none, s) => (none, s)
      | (some ys, s) => (some (xs ++ ys), s)

/-- The address range of an image lies in the address space. -/
def imageRange (addr kib : Nat) : Bool := canonical addr && !outOf56 (signed 64 addr) (1024 * kib)

/-- The places an image is written to; a sealed image may leave a STRICT partition's package (16 R398). -/
def State.saveSpots (s : State) (r : Nat) (sl : Bool) (addr kib : Nat) : Option (List Spot) × State :=
  if !imageRange addr kib then (none, s)
  else
    let part := s.partNum r
    let strict := (s.part part).strict
    let s := s.updPart part fun p => { p with strict := strict && !sl }
    let (xs, s) := s.imageSpots r .write (va56 addr) kib
    (xs, s.updPart part fun p => { p with strict })

/-- The saved state of a gang under a serial number, the commands and collectives that its streams hold among it; a descriptor
whose reading a copy had begun is read anew (03 R77, 13 R318). -/
def State.contextOf (s : State) (g serial : Nat) (sl : Bool) : Context :=
  let x := s.gang g
  { serial, gang := x, crews := s.crews.filter fun p => p.1 / 16 == g,
    streams := (s.streams.filter fun p => gangOf p.1 == g).map fun p =>
      (p.1, { p.2.voidLatches with copyQ := p.2.copyQ.map fun c => { c with op := none, walked := [] } }),
    slots := s.ownedSlots g, sealed := sl, nodeUid := x.uid, ckind := (isStreamCore x.core).toNat,
    colls := s.colls.filter fun c => gangOf c.stream == g }

/-- Write a gang's image to places: the state, with the context kept and the nonce used (13 R319). -/
def State.writeImage (s : State) (r g kib : Nat) (sl : Bool) (xs : List Spot) : State :=
  let part := s.partNum r
  let (serial, s) := s.freshNum
  let p := s.part part
  let nonce := if sl then p.nonce else 0
  let head := s.imageHeader g kib sl nonce (s.stream r).saveAt
  let body := fitBytes (1024 * kib - 4096) (Config.imageBody serial (1024 * kib - 4096))
  let (cipher, tag) := if sl then Config.gcmSeal p.ctxKey (leBytes 12 nonce) (wordBytes head) body else (body, List.replicate 16 0)
  let cipher := fitBytes (1024 * kib - 4096) cipher
  let c := s.contextOf g serial sl
  let s := { s with contexts := s.contexts ++ [c] }
  let s := if sl then s.setPart part { p with nonce := p.nonce + 1 } else s
  (s.engineWrite (s.coreNum r) (xs.zip (imageBytes head tag cipher))).engineMarks (s.gangAt r) .none xs

/-- CTXSAVE_DONE: the image is written and, with F, the gang's resources are freed (13 R319, R320, R326). -/
def onCtxsaveDone (e : Ev) (s : State) : Option State :=
  let r := e.n0
  match (s.stream r).wait with
  | some (.ctxsave g addr sl fr none) =>
    let held := s.hostHeld
    let finish (s : State) (st : Nat) : State :=
      s.updStream r fun t => { t with wait := some (.ctxsave g addr sl fr (some (w32 st))) }
    match Tab.find g s.gangs with
    | none => some (finish s 1)
    | some x =>
      let owned := s.ownedSlots g
      let kib := imageKib x owned.length
      if !sl ∧ owned.any fun w => w.2.label == 3 then some (finish s 4)
      else
        match s.saveSpots r sl addr.toNat kib with
        | (none, s) => some (finish s 3)
        | (some xs, s) =>
          let l := s.contentsLabel g
          if !sl ∧ xs.any fun p => p.leaf.label == 3 || decide (p.leaf.label < l) then some (finish s 2)
          else if xs.any held then none
          else
            let s := s.writeImage r g kib sl xs
            let s := if fr then ((s.removeGang g).showCharges x.part (s.node x.node).chain).settleEnds else s
            some (finish s 0)
  | _ => none

/-- CTXSAVE_DONE (13 R326). -/
def execCtxsaveDone (s : State) : Host.Outcome State Fault Refusal := event s onCtxsaveDone

/-- The 4 KiB alignment of an image's address. -/
def checkImage (em : Word) (addr : Nat) : Except Stop Unit :=
  if addr % 4096 ≠ 0 then .error (.trap { cause := 0x1A, info := w64 addr, mask := em }) else .ok ()

/-- CTXSAVE (13 R326). -/
def execCtxsave (d : BitVec 6) (a : BitVec 7) (fr sl : Bool) (s : State) : Host.Outcome State Fault Refusal :=
  run s fun r => do
    needHaul s r
    need s r 3 (decide (d.toNat < 32))
    let p ← s.peek r 0 [uniWant a] none
    needSuper s r
    let t := s.stream r
    match t.wait with
    | some (.ctxsave _ _ _ _ (some st)) => return p.st.privStatus r d.toNat st (p.regs + 1)
    | _ =>
      checkImage t.em (p.val 0 0)
      match s.byHandle (t.creg d.toNat).v.toNat with
      | none => return p.st.privStatus r d.toNat 1 (p.regs + 1)
      | some (g, x) =>
        if x.part ≠ s.partNum r then return p.st.privStatus r d.toNat 5 (p.regs + 1)
        else if !x.parked then return p.st.privStatus r d.toNat 1 (p.regs + 1)
        else
          let now := s.timestamp
          return p.st.updStream r fun t => { t with wait := some (.ctxsave g (w64 (p.val 0 0)) sl fr none), saveAt := now }

/-! CTXLOAD (13 R327). -/

/-- What an image says once read: its header words and its plain body, or a refusal, which says whether its tag failed
(13 R327). -/
def State.openImage (s : State) (part : Nat) (bs : List Byte) : Except Bool (List DWord × List Byte) :=
  let ws := dwords 512 bs
  let w (k : Nat) : Nat := wordAt ws k
  let rsv : Bool := bits (w 0) 47 34 != 0 || bits (w 3) 29 0 != 0 || bits (w 6) 63 32 != 0 || (ws.drop 9).any (· != 0)
  if bits (w 0) 63 48 ≠ 1 ∨ rsv then .error false
  else
    let body := bs.drop 4096
    if !bitOf (w 0) 32 then .ok (ws, body)
    else
      let nonce := w 5 + bits (w 6) 31 0 * 2 ^ 64
      let tag := (bs.drop 56).take 16
      match Config.gcmOpen (s.part part).ctxKey (leBytes 12 nonce) (bs.take 56) body tag with
      | some plain => .ok (ws, plain)
      | none => .error true

/-- A free key for a gang: the one it had, if no gang holds it, or a fresh one. -/
def State.gangKey (s : State) (old : Nat) : Nat × State := if (Tab.find old s.gangs).isNone then (old, s) else s.freshNum

/-- A saved context is placed, parked, on a core: its streams, crews, scratchpad, tiles and slots are as they were
(13 R318, R327). The new handle is the result. -/
def State.restore (s : State) (c : Context) (n core : Nat) : Word × State :=
  let x := c.gang
  let (g, s) := s.gangKey ((c.crews.map fun p => p.1 / 16).headD 0)
  let (handle, s) := s.newHandle x.part core
  let spcur := max x.smin (min x.spcur (s.obtainable core))
  let s := s.takeGranules core spcur
  let (order, s) := s.freshNum
  let stream (r : Nat) : Nat := 32 * g + r % 32
  let gang : Gang := { x with
    node := n, uid := (s.node n).uid, core, handle, live := true, parked := true, parkHold := true, req := .none, shedAt := none, assayHold := (s.cluster (clusterOf core)).selfTest.isSome,
    shedHold := decide (effCLASS x.effcfg < (s.part x.part).applied), spcur, placed := order, parkOrder := order,
    acquireDue := [], mxSaved := x.mxSaved.map fun e => { e with stream := stream e.stream } }
  let s := s.setGang g gang
  -- A request of another package's bytes is made anew.
  let s := c.streams.foldl (fun s p =>
    let s := s.setStream (stream p.1) p.2
    match p.2.wait with
    | some (.args _ _) => s.loadArgs (stream p.1)
    | _ => s) s
  let s := c.crews.foldl (fun s p => s.setCrew (16 * g + p.1 % 16) { p.2 with place := .parked, stopped := true }) s
  let s := s.updCluster (clusterOf core) fun k => { k with
    slots := c.slots.foldl (fun t w => Tab.put w.1 { w.2 with owner := some g } t) k.slots }
  let s := s.updNode n fun y => { y with wasOn := y.wasOn ++ [core] }
  let s := c.colls.foldl (fun (s : State) x =>
    let (id, s) := s.freshNum
    { s with colls := s.colls ++ [{ x with id, stream := stream x.stream }] }) s
  (handle, (s.askWake (clusterOf core)).showCharges x.part (s.node n).chain)

/-- The core can take a saved context: the free resources of 01 R21 and the slot numbers it owned. -/
def State.takesContext (s : State) (c : Context) (core : Nat) : Bool :=
  let x := c.gang
  s.hasRoom core x.banks x.smin x.tiles &&
    c.slots.all fun w => ((Tab.find w.1 (s.cluster (clusterOf core)).slots).bind (·.owner)).isNone

/-- What CTXLOAD of an image's bytes does: its result and the state. -/
def State.loadImage (s : State) (r core : Nat) (bs : List Byte) : Nat × State :=
  let part := s.partNum r
  let bad (k : Nat) : Nat := 2 ^ 31 + k
  match s.openImage part bs with
  | .error tagged =>
    let ws := dwords 9 bs
    (bad 3, if tagged then s.recordFault 0 part 9 0 0 (w64 (wordAt ws 1)) 0 0 0 0 0 true else s)
  | .ok (_, plain) =>
    match s.contexts.find? fun c => fitBytes plain.length (Config.imageBody c.serial plain.length) == plain with
    | none => (bad 3, s)
    | some c =>
      match s.keyOfUid c.nodeUid with
      | none => (bad 5, s)
      | some n =>
        let inPart := decide (core < 256) && bitOf (s.part part).partclu.toNat (clusterOf core) && c.gang.part == part
        if !inPart || (isStreamCore core).toNat != c.ckind then (bad 2, s)
        else if !s.takesContext c core then (bad 1, s)
        else
          let (h, s) := s.restore c n core
          (h.toNat, s)

/-- The number by which the reading of a stream's image is known among the engine operations. -/
def imageOp (r : Nat) : Nat := 2 ^ 40 + r

/-- An image lies in another package, or in host memory while the link retrains, and not all of it has come: the state after
the requests (19 R442, R449). -/
def State.imageAwaits (s : State) (r addr : Nat) : Option State :=
  let core := s.coreNum r
  let places (s : State) (kib : Nat) : Option (List Spot × State) :=
    if !imageRange addr kib then none
    else match s.imageSpots r .read (va56 addr) kib with
      | (some xs, s) => some (xs, s)
      | (none, _) => none
  match places s 4 with
  | none => none
  | some (xs, v) =>
    match v.engineFetch core (imageOp r) xs with
    | some t => some t
    | none =>
      let kib := bits (wordAt (dwords 1 (v.engineRead core (imageOp r) (xs.take 8)).1) 0) 31 0
      (places v (max 4 kib)).bind fun x => x.2.engineFetch core (imageOp r) x.1

/-- The bytes of an image of n KiB, none where it cannot be read. -/
def State.imageRead (s : State) (r addr kib : Nat) : Option (List Byte) × State :=
  if !imageRange addr kib then (none, s)
  else if s.opBad.contains (imageOp r) then (none, s.dropOp (imageOp r))
  else match s.imageSpots r .read (va56 addr) kib with
    | (none, s) => (none, s)
    | (some xs, s) =>
      let (bs, t) := s.engineRead (s.coreNum r) (imageOp r) xs
      (some bs, t.noteReads (s.nodeNum r) xs)

/-- CTXLOAD_DONE: the image is read and the gang placed, or nothing is (13 R327). -/
def onCtxloadDone (e : Ev) (s : State) : Option State :=
  let r := e.n0
  match (s.stream r).wait with
  | some (.ctxload core addr none) =>
    let finish (s : State) (st : Nat) : State := s.updStream r fun t => { t with wait := some (.ctxload core addr (some (w32 st))) }
    match s.imageAwaits r addr.toNat with
    | some t => some t
    | none =>
      match s.imageRead r addr.toNat 4 with
      | (none, s) => some (finish s (2 ^ 31 + 4))
      | (some head, s) =>
        let kib := bits (wordAt (dwords 1 head) 0) 31 0
        match s.imageRead r addr.toNat (max 4 kib) with
        | (none, s) => some (finish (s.dropOp (imageOp r)) (2 ^ 31 + 4))
        | (some bs, s) =>
          let (st, s) := (s.dropOp (imageOp r)).loadImage r core bs
          some (finish s st)
  | _ => none

/-- CTXLOAD_DONE (13 R327). -/
def execCtxloadDone (s : State) : Host.Outcome State Fault Refusal := event s onCtxloadDone

/-- CTXLOAD (13 R327). -/
def execCtxload (d : BitVec 6) (a : BitVec 7) (s : State) : Host.Outcome State Fault Refusal :=
  run s fun r => do
    needHaul s r
    need s r 3 (decide (d.toNat < 32))
    let p ← s.peek r 0 [uniWant a] none
    needSuper s r
    let t := s.stream r
    match t.wait with
    | some (.ctxload _ _ (some st)) => return p.st.privStatus r d.toNat st (p.regs + 1)
    | _ =>
      checkImage t.em (p.val 0 0)
      return p.st.updStream r fun t => { t with wait := some (.ctxload (t.creg d.toNat).v.toNat (w64 (p.val 0 0)) none) }

end Sys2Proof.Machine
end

