-- ==== Sys2Proof/Machine/Slots.lean ====
section
/-! DEFINITION. Issue slots, fetches and page refills, the handler time limit, the boundary between scratchpad and L1, and
the background cleaning of L1 sectors (01 R22 to R24, R41, 03 R83 to R89, 04 R111, 13 R310, 14 R350 to R352). -/

namespace Sys2Proof.Machine

/-! Issue slots (14 R351, R352). -/

/-- The order and the effective class of a ready crew; none for any other. -/
def State.readyCrew (s : State) (core k : Nat) : Option (Nat × Nat) :=
  let g := s.gang (k / 16)
  match (s.crew k).place with
  | .ready order cycle =>
    if g.core = core ∧ g.live ∧ !g.parked ∧ !(s.crew k).stopped ∧ !(s.crew k).ended then
      some (order, effClass (effCLASS g.effcfg) ((s.cyclesOf (clusterOf core) - cycle) / 8192))
    else none
  | _ => none

/-- The ready crew of a core that a free slot goes to: the highest effective class, then the one ready earliest. -/
def State.nextCrew (s : State) (core : Nat) : Option Nat :=
  let cands := s.crews.filterMap fun p => (s.readyCrew core p.1).map fun x => (p.1, x)
  let before (a b : Nat × Nat × Nat) : Bool := if a.2.2 = b.2.2 then decide (a.2.1 < b.2.1) else decide (b.2.2 < a.2.2)
  ((sortBy before cands).head?).map Prod.fst

/-- A slot of a core holds no crew. -/
def State.slotFree (s : State) (core slot : Nat) : Bool :=
  !(s.crews.any fun p => (s.gang (p.1 / 16)).core == core && p.2.place == .slot slot && !p.2.ended)

/-- SLOT_GRANT (14 R351). -/
def onSlotGrant (e : Ev) (s : State) : Option State :=
  if 4 ≤ e.n1 ∨ !s.slotFree e.n0 e.n1 then none
  else (s.nextCrew e.n0).map fun k =>
    s.updCrew k fun c => { c with place := .slot e.n1, since := s.cyclesOf (clusterOf e.n0) }

/-- SLOT_GRANT (14 R351). -/
def execSlotGrant (s : State) : Host.Outcome State Fault Refusal := event s onSlotGrant

/-! Fetching (03 R83 to R85, 01 R41). -/

/-- CODE_FETCH: a stream in its slot fetches the word at its program counter ahead of its issue, or meets the trap or the
refill of that fetch (03 R83). -/
def onCodeFetch (e : Ev) (s : State) : Option State :=
  let r := e.n0
  if !s.canIssue r ∨ (s.stream r).owed.isSome then none
  else
    let s := { s with cur := some r }
    match s.fetch r with
    | .word w s' => some (s'.updStream r fun t => { t with fetched := Tab.put t.pc.toNat w t.fetched })
    | f => some (s.missWord r f)

/-- CODE_FETCH (03 R83). -/
def execCodeFetch (s : State) : Host.Outcome State Fault Refusal := event s onCodeFetch

/-- A page comes into a frame for a stream that waits for it, and what follows; a page of another package is first asked for
(03 R83, 19 R449). -/
def State.refill (s : State) (r : Nat) (sup : Bool) (page : Nat) (word : Option Word) (f : State → State) : State :=
  let free (s : State) : State := s.updStream r fun t => { t with wait := none }
  match s.pageAwaits r sup page with
  | some s' => s'
  | none =>
    match s.readPage r sup page with
    | .error x => (free s).takeTrap r { x with word := word.or (some (s.spcWord r)) }
    | .ok (bs, s) => f (free (s.placePage r sup page bs))

/-- CODE_PAGE_REFILL: the page that a fetch or a handler entry waits for comes into a frame (03 R83, 01 R41). -/
def onCodePageRefill (e : Ev) (s : State) : Option State :=
  let r := e.n0
  let t := s.stream r
  if !(s.gangAt r).live ∨ (s.gangAt r).parked ∨ (s.crewAt r).stopped ∨ t.ended then none
  else match t.wait with
    | some (.refill page) => some (s.refill r (s.inSup r) page none id)
    | some (.handlerEntry x) =>
      (if x.cause = 9 then (s.gangAt r).loader else (s.gangAt r).handler).map fun pc =>
        s.refill r false (pc.toNat / 4096) x.word fun s => s.takeTrap r x
    | _ => none

/-- CODE_PAGE_REFILL (03 R83). -/
def execCodePageRefill (s : State) : Host.Outcome State Fault Refusal := event s onCodePageRefill

/-! The handler time limit (13 R310). -/

/-- HANDLER_TIME_LIMIT: a stream has been in its system handler for HTIME µs with a park of its gang pending. -/
def onHandlerTimeLimit (e : Ev) (s : State) : Option State :=
  let r := e.n0
  let t := s.stream r
  let limit := (s.part (s.partNum r)).htime.toNat * 1000
  if t.intrap ∧ (s.gangAt r).req ≠ .none ∧ (s.gangAt r).live ∧ t.trapAt + limit ≤ s.now then some (s.supervisorFault r 0x7FFE)
  else none

/-- HANDLER_TIME_LIMIT (13 R310). -/
def execHandlerTimeLimit (s : State) : Host.Outcome State Fault Refusal := event s onHandlerTimeLimit

/-! The boundary between scratchpad and L1 (03 R88, R89). -/

/-- The gang that adaptation takes a granule from: the fewest scratchpad accesses, ties to the latest placed. -/
def State.spVictim (s : State) (core : Nat) : Option (Nat × Gang) :=
  List.head? <| sortBy (fun a b : Nat × Gang => if a.2.spAcc = b.2.spAcc then decide (b.2.placed < a.2.placed) else decide (a.2.spAcc < b.2.spAcc))
    ((s.gangsOn core).filter fun p => decide (p.2.smin < p.2.spcur))

/-- The gang that adaptation gives a granule to: the most backed-area accesses, ties to the earliest placed. -/
def State.spTaker (s : State) (core : Nat) : Option (Nat × Gang) :=
  List.head? <| sortBy (fun a b : Nat × Gang => if a.2.spBack = b.2.spBack then decide (a.2.placed < b.2.placed) else decide (b.2.spBack < a.2.spBack))
    ((s.gangsOn core).filter fun p => decide (p.2.spcur < p.2.smax))

/-- The move that the counters of an interval ask for (03 R88). -/
def State.adapt (s : State) (core total gain tail : Nat) : State :=
  let begin_ (s : State) (g spcur : Nat) : State := s.updCore core fun c => { c with move := some ⟨g, spcur⟩ }
  let grow (s : State) : State :=
    if 1 ≤ (s.core core).l1gran ∧ (total < 256 ∨ tail * 64 < total) then
      match s.spTaker core with
      | some (g, x) => if 1 ≤ x.spBack then begin_ (s.l1Shrink core ((s.core core).l1gran - 1)) g (x.spcur + 1) else s
      | none => s
    else s
  if 256 ≤ total ∧ total ≤ gain * 8 then
    match s.spVictim core with
    | some (g, x) => begin_ s g (x.spcur - 1)
    | none => grow s
  else grow s

/-- SCRATCHPAD_ADAPT: every 65,536 delivered cycles the core may move one granule, as the counters of its sampling sets say,
and all counters start again (03 R88). -/
def onScratchpadAdapt (e : Ev) (s : State) : Option State :=
  let core := e.n0
  let now := s.cyclesOf (clusterOf core)
  if now < (s.core core).interval + 65536 ∨ (s.core core).move.isSome then none
  else
    let c := s.core core
    let s := s.adapt core c.l1total c.l1gain c.l1tail
    let s := (s.onCore core).foldl (fun s p => s.updGang p.1 fun x => { x with spAcc := 0, spBack := 0 }) s
    some (s.updCore core fun c => { c with interval := now, l1total := 0, l1gain := 0, l1tail := 0 })

/-- SCRATCHPAD_ADAPT (03 R88). -/
def execScratchpadAdapt (s : State) : Host.Outcome State Fault Refusal := event s onScratchpadAdapt

/-- GRANULE_MOVE_DONE: SPCUR changes; a granule given up is the L1's (03 R89). -/
def onGranuleMoveDone (e : Ev) (s : State) : Option State :=
  match (s.core e.n0).move with
  | none => none
  | some m =>
    let back := if m.spcur < (s.gang m.gang).spcur then 1 else 0
    some ((s.updGang m.gang fun x => { x with spcur := m.spcur }).updCore e.n0 fun c =>
      { c with move := none, l1gran := c.l1gran + back })

/-- GRANULE_MOVE_DONE (03 R89). -/
def execGranuleMoveDone (s : State) : Host.Outcome State Fault Refusal := event s onGranuleMoveDone

/-! Background cleaning (04 R111). -/

/-- L1_BACKGROUND_CLEAN: a sector that has been dirty for 65,536 cycles goes to its coherence point. -/
def onL1BackgroundClean (e : Ev) (s : State) : Option State :=
  match Tab.find e.n1 (s.core e.n0).l1 with
  | none => none
  | some x =>
    if x.dirty.any id ∧ x.since + 65536 ≤ s.cyclesOf (clusterOf e.n0) then some (s.cleanSector e.n0 e.n1) else none

/-- L1_BACKGROUND_CLEAN (04 R111). -/
def execL1BackgroundClean (s : State) : Host.Outcome State Fault Refusal := event s onL1BackgroundClean

end Sys2Proof.Machine
end

