-- ==== Sys2Proof/Machine/Diverge.lean ====
section
/-! DEFINITION. Gang divergence: the meeting at a BRG, the packing of threads onto paths, the end of a path, and the
restoration of the original packing (01 R26 to R29, 06 R148). -/

namespace Sys2Proof.Machine

/-! A thread's own state (01 R27). -/

/-- Lane i of a stream's vectors, live mask and generator receives what lane j of another holds. -/
def Stream.moveLane (t : Stream) (i : Nat) (u : Stream) (j : Nat) : Stream :=
  let put (n : Nat) (x : Vec) : Vec := x.set i ((u.vreg n).lane j)
  let named := distinct (t.v.map Prod.fst ++ u.v.map Prod.fst)
  let v := named.foldl (fun (w : Tab Vec) n => Tab.put n (put n (Tab.get Vec.zero w n)) w) t.v
  let bit (old new : Word) : Word := maskWhere fun k => if k = i then inMask new j else inMask old k
  let ps := distinct (t.p.map Prod.fst ++ u.p.map Prod.fst)
  let p := ps.foldl (fun (w : Tab LV) n => Tab.put n ⟨bit (Tab.get {} w n).v (u.preg n).v, (Tab.get {} w n).l⟩ w) t.p
  { t with v, p, live := bit t.live u.live, gen := if t.gen = [] then [] else t.gen.set i (u.genLane j) }

/-- Predicates with their labels raised to those of others. -/
def raiseLabels (p q : Tab LV) : Tab LV :=
  q.foldl (fun w x => Tab.put x.1 { Tab.get {} w x.1 with l := Label.join (Tab.get {} w x.1).l x.2.l } w) p

/-- The labels of a stream's predicates raised to those of others. -/
def Stream.joinPreds (t : Stream) (q : Tab LV) : Stream := { t with p := raiseLabels t.p q }

/-- A stream's scalar state copied from another: uniform registers, mode sets, loop stack with its captures, return stack,
guard slots, batch counters (01 R27, 06 R140). The copies outstanding stay with the physical stream. -/
def Stream.scalarsFrom (t u : Stream) : Stream :=
  { t with c := u.c, mode0 := u.mode0, mode1 := u.mode1, loops := u.loops, lbuf := u.lbuf, rets := u.rets,
           guards := u.guards, opn := u.opn, sealed := u.sealed, done := u.done }.advanceDone 33

/-! Paths (01 R26). -/

/-- Where the packing in force before the BRG held a thread: crew and lane. -/
def Reconv.home (e : Reconv) (vid : Nat) : Nat × Nat :=
  match e.remap.find? fun x => x.2 == vid with
  | some (k, _) => (k / 32, k % 32)
  | none => (0, 0)

/-- The stream of a crew as it stood at the BRG. -/
def Reconv.atBrg (e : Reconv) (c : Nat) : Stream := Tab.get {} e.saved c

/-- The physical stream of a crew filled with threads of a path. -/
def Reconv.pack (e : Reconv) (t : Stream) (vids : List Nat) (pc : BitVec 24) : Stream :=
  let src (vid : Nat) : Stream × Nat := (e.atBrg (e.home vid).1, (e.home vid).2)
  let base := t.scalarsFrom (src (vids.headD 0)).1
  let empty : Stream := { base with
    v := [], p := [], live := 0, gen := if t.gen = [] then [] else List.replicate 32 0, pc, wait := none, ended := false, fetched := [] }
  let t := (List.range vids.length).foldl (fun (t : Stream) l =>
    let x := src (vids.getD l 0)
    (t.moveLane l x.1 x.2).joinPreds x.1.p) empty
  { t.voidLatches with em := maskOf (List.range vids.length) }

/-- Cut a list into pieces of 32. -/
def pieces : Nat → List Nat → List (List Nat)
  | 0, _ => []
  | k + 1, xs => if xs = [] then [] else xs.take 32 :: pieces k (xs.drop 32)

/-- A path's start and the restoration synchronise the crews of the meeting: what the threads of one path did is released and
what those of the next do acquires it (04 R106, 09 R240). -/
def State.meetingSync (s : State) (g : Nat) (cs : List Nat) : State := cs.foldl (fun s c => s.noteSync (32 * g + 2 * c)) s

/-- Begin a path: its threads are packed onto the crews of the meeting in ascending number; the others are idle. -/
def State.startPath (s : State) (g : Nat) (e : Reconv) (rest : List Reconv) (p : Path) (more : List Path) : State :=
  let s := s.meetingSync g e.crews
  let used := e.crews.zip (pieces 16 p.vids)
  let e' := { e with running := used.map Prod.fst, pending := more }
  let remap : Tab Nat := used.flatMap fun x => (List.range x.2.length).map fun l => (32 * x.1 + l, x.2.getD l 0)
  let s := s.updGang g fun x => { x with stack := e' :: rest, remap }
  let s := e.crews.foldl (fun s c =>
    s.updStream (32 * g + 2 * c) fun t => { t.voidLatches with wait := some .reconv }) s
  used.foldl (fun s x =>
    (s.updStream (32 * g + 2 * x.1) fun t => e.pack t x.2 p.addr).makeReady (16 * g + x.1)) s

/-- The threads of the path in progress carry their state back to the streams that held them at the BRG; the labels of
their packed streams' predicates are kept for the restoration (01 R27). -/
def State.collectPath (s : State) (g : Nat) (e : Reconv) : Reconv :=
  (s.gang g).remap.foldl (fun (e : Reconv) x =>
    let (c, l) := e.home x.2
    let t := s.stream (32 * g + 2 * (x.1 / 32))
    { e with
      saved := Tab.put c ((Tab.get {} e.saved c).moveLane l t (x.1 % 32)) e.saved,
      raised := Tab.put c (raiseLabels (Tab.get [] e.raised c) t.p) e.raised }) e

/-- A stream after the last path: its threads, its scalar state and its EM as at the BRG, less threads that ended. -/
def Stream.rejoin (t saved : Stream) (pc : BitVec 24) : Stream :=
  { (t.scalarsFrom saved).voidLatches with
    v := saved.v, p := saved.p, live := saved.live, gen := saved.gen, em := saved.em &&& saved.live, pc, wait := none,
    fetched := [], ended := false }

/-- The original packing is restored, and every crew of the meeting continues at the reconvergence address (01 R26). -/
def State.restorePacking (s : State) (g : Nat) (e : Reconv) (rest : List Reconv) : State :=
  let s := (s.meetingSync g e.crews).updGang g fun x => { x with stack := rest, remap := e.remap }
  let s := e.crews.foldl (fun s c =>
    (s.updStream (32 * g + 2 * c) fun t => t.rejoin ((e.atBrg c).joinPreds (Tab.get [] e.raised c)) e.addr).makeReady (16 * g + c)) s
  (e.crews.foldl (fun s c => s.settleEnd (32 * g + 2 * c)) s).settleGang g

/-- The next path of an entry, or the restoration. -/
def State.nextPath (s : State) (g : Nat) (e : Reconv) (rest : List Reconv) : State :=
  match e.pending with
  | p :: more => s.startPath g e rest p more
  | [] => s.restorePacking g e rest

/-! The meeting (01 R26, R29, 06 R148). -/

/-- Threads of a crew that join a path: the EM lanes whose condition has a value. -/
def State.joining (s : State) (g c : Nat) (cond : Word) (taken : Bool) : List Nat :=
  let t := s.stream (32 * g + 2 * c)
  ((lanesOf t.em).filter fun i => inMask cond i == taken).map fun i => s.vid (32 * g + 2 * c) i

/-- The meeting divides the gang: an entry on the reconvergence stack, the fall-through path first, then the taken path,
a path with no threads skipped. -/
def State.divide (s : State) (g : Nat) (cs : List Nat) (pred : Nat) (sense : Bool) (fall taken rejoin : BitVec 24) : State :=
  let x := s.gang g
  let cond (c : Nat) : Word :=
    let p := ((s.stream (32 * g + 2 * c)).preg pred).v
    if sense then ~~~p else p
  let threads (b : Bool) : List Nat := sortBy (fun a b => decide (a < b)) (cs.flatMap fun c => s.joining g c (cond c) b)
  let paths := [(⟨threads false, fall⟩ : Path), ⟨threads true, taken⟩].filter fun p => p.vids != []
  let e : Reconv := {
    addr := rejoin, crews := cs, saved := cs.map fun c => (c, s.stream (32 * g + 2 * c)), remap := x.remap, running := [],
    pending := paths }
  s.nextPath g e x.stack

/-- A gang-stack overflow: every crew of the meeting traps at its BRG, and no thread moves. -/
def State.stackOverflow (s : State) (g : Nat) (cs : List Nat) : State :=
  cs.foldl (fun s c =>
    let r := 32 * g + 2 * c
    let t := s.stream r
    (s.updStream r fun t => { t with wait := none }).takeTrap r { cause := 6, info := w64 t.pc.toNat, mask := t.em, word := some (s.spcWord r) }) s

/-- BRG_MEETING: every crew of the meeting waits at one BRG; data of earlier loads have come. -/
def onBrgMeeting (e : Ev) (s : State) : Option State :=
  let g := e.n0
  let cs := s.countingCrews g
  let t (c : Nat) : Stream := s.stream (32 * g + 2 * c)
  match cs with
  | [] => none
  | c :: _ =>
    match (t c).wait with
    | some (.brg pred sense taken rejoin) =>
      let met := cs.all fun k => (t k).atBrg && (t k).pc == (t c).pc && !(s.crew (16 * g + k)).stopped && (t k).loads.isEmpty
      if !(s.gang g).live ∨ !met then none
      else if 16 ≤ (s.gang g).stack.length then some (s.stackOverflow g cs)
      else some (s.divide g cs pred sense ((t c).pc + 4) taken rejoin)
    | _ => none

/-- BRG_MEETING (01 R26). -/
def execBrgMeeting (s : State) : Host.Outcome State Fault Refusal := event s onBrgMeeting

/-- BRG_PATH_END: every crew that runs the path has reached the reconvergence point; the next path starts, or the packing is
restored. -/
def onBrgPathEnd (e : Ev) (s : State) : Option State :=
  let g := e.n0
  match (s.gang g).stack with
  | [] => none
  | x :: rest =>
    let there (c : Nat) : Bool :=
      (s.crew (16 * g + c)).ended ||
        ((s.stream (32 * g + 2 * c)).wait == some .reconv && !(s.crew (16 * g + c)).stopped &&
          (s.stream (32 * g + 2 * c)).loads.isEmpty)
    if !(s.gang g).live ∨ !x.running.all there then none
    else some (s.nextPath g (s.collectPath g x) rest)

/-- BRG_PATH_END (01 R26). -/
def execBrgPathEnd (s : State) : Host.Outcome State Fault Refusal := event s onBrgPathEnd

end Sys2Proof.Machine
end

