-- ==== Sys2Proof/Machine/Witness.lean ====
section
/-! DEFINITION. What the assay die computes of a node's witness: the order of the witness areas, the sampled choices, and
the projection, permutation, prefix and residual tests (10 R267, R268, 16 R386 to R390). -/

namespace Sys2Proof.Machine

/-! Reading the witness (10 R267, 16 R386). -/

/-- A value of the witness: its tag, its gang, the number of its first word in the gang's sorted area, and whether it is
the first under its header. -/
structure WVal where
  tag : Nat
  gang : Nat
  idx : Nat
  val : Nat
  first : Bool
  deriving DecidableEq, Repr

/-- An entry of a witness area: its header and the words after it. -/
structure WEntry where
  head : Nat
  words : List Nat
  deriving DecidableEq, Repr

def WEntry.tag (e : WEntry) : Nat := bits e.head 31 28
def WEntry.vid (e : WEntry) : Nat := bits e.head 26 18
def WEntry.stream (e : WEntry) : Nat := bits e.head 27 27
def WEntry.wide (e : WEntry) : Bool := bitOf e.head 12

/-- Cut an area into its entries; the first argument bounds their number. -/
def cutArea : Nat → List Nat → List WEntry
  | 0, _ => []
  | _ + 1, [] => []
  | k + 1, h :: rest =>
    let n := (bits h 17 13 + 1) * (if bitOf h 12 then 2 else 1)
    ⟨h, rest.take n⟩ :: cutArea k (rest.drop n)

/-- An area's entries in the order the assay die reads them: by TAG, VID, STREAM. -/
def sortArea (ws : List Nat) : List WEntry :=
  sortBy (fun a b => decide (a.tag < b.tag) || (a.tag == b.tag &&
    (decide (a.vid < b.vid) || (a.vid == b.vid && decide (a.stream < b.stream))))) (cutArea ws.length ws)

/-- The values of sorted entries, numbered from a word of the area. -/
def areaVals (gang : Nat) : Nat → List WEntry → List WVal
  | _, [] => []
  | at_, e :: rest =>
    let step := if e.wide then 2 else 1
    let one (k : Nat) : WVal :=
      ⟨e.tag, gang, at_ + 1 + step * k, e.words.getD (step * k) 0 + (if e.wide then 2 ^ 32 * e.words.getD (step * k + 1) 0 else 0),
        k == 0⟩
    (List.range (e.words.length / step)).map one ++ areaVals gang (at_ + 1 + e.words.length) rest

/-- A test that fails: the check, and the word that the first failing check names, with the gang that put it there. -/
structure TestFail where
  check : Nat
  tag : Nat
  idx : Nat
  gang : Option Nat
  deriving DecidableEq, Repr

/-- The check fails and names no witness word. -/
def failAt (check tag : Nat) : TestFail := ⟨check, tag, 0, none⟩
/-- The check fails and names a word. -/
def failOn (check : Nat) (v : WVal) : TestFail := ⟨check, v.tag, v.idx, some v.gang⟩

/-- The tags of a witness kind and their widths: the tag and whether it is wide (10 R268). -/
def kindTags (kind ety : Nat) : List (Nat × Bool) :=
  if kind = 1 then [(5, ety == 4), (6, ety == 4), (7, ety == 4)]
  else if kind = 2 then [(1, false), (2, true), (3, true)]
  else if kind = 3 then [(4, ety == 13)]
  else [(8, true), (9, true)]

/-- The first check of a kind (16 R404). -/
def firstCheck (kind : Nat) : Nat := if kind = 1 then 1 else if kind = 2 then 4 else if kind = 3 then 8 else 11

/-- The first entry with a tag or a width that its kind does not have. -/
def badEntry (kind ety gang : Nat) : Nat → List WEntry → Option TestFail
  | _, [] => none
  | at_, e :: rest =>
    if (kindTags kind ety).contains (e.tag, e.wide) then badEntry kind ety gang (at_ + 1 + e.words.length) rest
    else some ⟨firstCheck kind, e.tag, at_, some gang⟩

/-- The values of a tag. -/
def ofTag (vs : List WVal) (tag : Nat) : List WVal := vs.filter fun v => v.tag == tag

/-! Sampled choices (16 R386). -/

/-- The finaliser of 10 R270. -/
def mix (z : Nat) : Nat :=
  let z := z % 2 ^ 64
  let z := (z ^^^ (z / 2 ^ 30)) * 0xBF58476D1CE4E5B9 % 2 ^ 64
  let z := (z ^^^ (z / 2 ^ 27)) * 0x94D049BB133111EB % 2 ^ 64
  z ^^^ (z / 2 ^ 31)

/-- A sampled choice. -/
def pick (seed purpose t count : Nat) : Nat := mix (seed + (t + 1) * 0x9E3779B97F4A7C15 + purpose * 2 ^ 56) % count

/-! Exact arithmetic. -/

/-- The magnitude of a value. -/
def XVal.abs : XVal → XVal
  | .nan => .nan
  | .inf _ => .inf false
  | .fin _ m e => .fin false m e

/-- The difference. -/
def XVal.sub (a b : XVal) : XVal := XVal.add false a b.neg

/-- At most; false where either is NaN. -/
def XVal.le (a b : XVal) : Bool :=
  match XVal.cmp a b with
  | some c => decide (c ≤ 0)
  | none => false

/-- The exact sum of values, zero for none. -/
def xsum (xs : List XVal) : XVal := xs.foldl (XVal.add false) (.fin false 0 0)

/-- n 2^e. -/
def xpow (n : Nat) (e : Int) : XVal := .fin false n e

/-- The integer that a value is, modulo 2^64; none for any other value. -/
def XVal.mod64 : XVal → Option Nat
  | .fin neg m e =>
    if 0 ≤ e then some (wrap 64 (scaledInt neg m e 0))
    else if m % 2 ^ (-e).toNat = 0 then
      let z : Int := ((m / 2 ^ (-e).toNat : Nat) : Int)
      some (wrap 64 (if neg then -z else z))
    else none
  | _ => none

/-- The integer square root, bit by bit. -/
def isqrt (n : Nat) : Nat :=
  (List.range (Nat.log2 n / 2 + 1)).reverse.foldl (fun r k => if (r + 2 ^ k) * (r + 2 ^ k) ≤ n then r + 2 ^ k else r) 0

/-- The correctly rounded f64 square root of a value. -/
def sqrt64 (x : XVal) : Nat :=
  match x with
  | .fin _ m e =>
    if m = 0 then 0
    else
      let (m, e) := if e % 2 = 0 then (m, e) else (2 * m, e - 1)
      let big := m * 2 ^ 256
      let r := isqrt big
      let sticky := if r * r = big then 0 else 1
      roundFloat 13 false false 0 0 (.fin false (2 * r + sticky) (e / 2 - 128 - 1))
  | .inf _ => roundFloat 13 false false 0 0 (.inf false)
  | .nan => roundFloat 13 false false 0 0 .nan

/-! Operands and outputs in memory (16 R380, R386). -/

/-- A byte that the assay die reads for an instance: of a page that the instance staged, from the frame of its version,
unless the page is open or void; elsewhere through the partition's page table, in whatever window it lies and whatever error
its data carry. None where its address does not translate, or its page is open or void (16 R386). -/
def State.assayByte (s : State) (part : Nat) (x : Node) (va : Nat) : Option Byte :=
  let lead := (s.part part).lead
  let local_ (a : Nat) : Byte := (s.readCoh lead (s.plainAttr part lead a) a 1).1.getD 0 0
  match x.versions.find? fun v => va56 (wordAt (x.desc.staged.getD v.1 []) 0) / 2 ^ 21 == va / 2 ^ 21 with
  | some (_, key, v) =>
    let st := s.pageSt key
    if st = .opened ∨ st = .void then none else some (local_ (frameBase key v + va % 2 ^ 21))
  | none =>
    match s.hubSpot part va with
    | (none, _) => none
    | (some p, s) => some (match s.window p.pa with
      | .mem a => (s.readCoh lead (p.leaf.attr a) a 1).1.getD 0 0
      | .host a => (rdBytes s.hostMem a 1).getD 0 0
      | .fabric k a => Config.remoteByte s.turns k a
      | _ => 0)

/-- Bytes that the assay die reads for an instance. -/
def State.assayBytes (s : State) (part : Nat) (x : Node) (va n : Nat) : Option (List Byte) :=
  allSome ((List.range n).map fun i => s.assayByte part x ((va + i) % 2 ^ 56))

/-- The element of w bits at an index from an address. -/
def State.assayElem (s : State) (part : Nat) (x : Node) (addr : Int) (w i : Nat) : Option Nat :=
  if w = 4 then (s.assayBytes part x (wrap 56 (addr + ((i / 2 : Nat) : Int))) 1).map fun b => elemAt 4 b (i % 2)
  else (s.assayBytes part x (wrap 56 (addr + ((i * (w / 8) : Nat) : Int))) (w / 8)).map leNat

/-- An operand of rows: its address, its pitch, its type, block code, scale format and variant. -/
structure Operand where
  addr : Int
  pitch : Int
  ty : Nat
  blk : Nat := 0
  scl : Bool := false
  var : Bool := false

/-- Element k of a row of an operand, with its scale. -/
def State.operandAt (s : State) (part : Nat) (x : Node) (o : Operand) (row k : Nat) : Option XVal :=
  let base := o.addr + (row : Int) * o.pitch
  let w := typeWidth o.ty
  if hasScales o.ty then
    let per := 3072 / w
    let at_ := base + ((400 * (k / per) : Nat) : Int)
    match s.assayElem part x at_ w (k % per), s.assayElem part x (at_ + 384) 8 (k % per / blockLen o.blk) with
    | some e, some c => some (XVal.mul (decodeFloat o.ty o.var e) (decodeScale o.scl c))
    | _, _ => none
  else (s.assayElem part x base w k).map (decodeElem o.ty false)

/-- A row of an operand. -/
def State.rowAt (s : State) (part : Nat) (x : Node) (o : Operand) (row n : Nat) : Option (List XVal) :=
  allSome ((List.range n).map (s.operandAt part x o row))

/-! The projection test (16 R387). -/

/-- The operands of a projection. -/
structure Projection where
  rounds : Nat
  m : Nat
  n : Nat
  k : Nat
  res : Bool
  a : Operand
  b : Operand
  c : Operand

/-- The projection that entry 0 describes. -/
def projectionOf (e : List DWord) : Projection :=
  let w (k : Nat) : Nat := wordAt e k
  let res := bitOf (w 3) 13
  { rounds := bits (w 2) 63 48, m := bits (w 2) 47 24, n := bits (w 2) 23 0, k := bits (w 3) 63 32, res,
    a := { addr := signed 64 (w 4), pitch := signed 64 (w 5), ty := bits (w 3) 31 27, blk := bits (w 3) 21 20,
           scl := bitOf (w 3) 17, var := bitOf (w 3) 15 },
    b := { addr := signed 64 (w 6), pitch := signed 64 (w 7), ty := bits (w 3) 26 22, blk := bits (w 3) 19 18,
           scl := bitOf (w 3) 16, var := bitOf (w 3) 14 },
    c := { addr := signed 64 (w 0), pitch := (bits (w 1) 31 0 : Int), ty := if res then 4 else 12 } }

/-- The sign h_j times a value. -/
def signedBy (seed j : Nat) (x : XVal) : XVal := if projNegative seed j then x.neg else x

/-- A witness value against exact terms: equal modulo 2^64 with RES, otherwise within the bound. -/
def closeTo (res : Bool) (v : Nat) (terms : List XVal) : Bool :=
  let exact := xsum terms
  if res then exact.mod64 == some v
  else
    let bound := XVal.add false (XVal.mul (xpow terms.length (-23)) (xsum (terms.map XVal.abs))) (xpow terms.length (-148))
    (XVal.sub (decodeFloat 12 false v) exact).abs.le bound

/-- Check 2 of a row: y and z agree within the bound that the operands set. -/
def State.rowAgrees (s : State) (part : Nat) (x : Node) (p : Projection) (bsums : List XVal) (row : Nat) (y z : WVal) :
    Option TestFail :=
  if p.res then if y.val = z.val then none else some (failOn 2 y)
  else match s.rowAt part x p.a row p.k with
    | none => some (failAt 2 0)
    | some as =>
      let sum := xsum ((as.zip bsums).map fun q => XVal.mul q.1.abs q.2)
      let yv := decodeFloat 12 false y.val
      let zv := decodeFloat 12 false z.val
      let total := p.rounds + p.k + p.n
      let ok : Bool :=
        if sum.isFin then
          (XVal.sub yv zv).abs.le (XVal.add false (XVal.mul (xpow total (-23)) sum) (xpow total (-148)))
        else (yv.isNan && zv.isNan) || (!yv.isNan && !yv.isFin && yv == zv)
      if ok then none else some (failOn 2 y)

/-- Check 3 of one sampled choice. -/
def State.sampleAgrees (s : State) (part : Nat) (x : Node) (p : Projection) (seed t : Nat) (xs ys zs : List WVal) :
    Option TestFail :=
  let k := pick seed 2 t p.k
  let i := pick seed 1 t p.m
  let none_ : WVal := ⟨0, 0, 0, 0, false⟩
  let xk := xs.getD k none_
  let yi := ys.getD i none_
  let zi := zs.getD i none_
  let bk := allSome ((List.range p.n).map fun j => (s.operandAt part x p.b j k).map (signedBy seed j))
  let valX (v : WVal) : XVal := if p.res then XVal.ofInt (signed 64 v.val) else decodeFloat 12 false v.val
  let ax := (s.rowAt part x p.a i p.k).map fun as => (as.zip xs).map fun q => XVal.mul q.1 (valX q.2)
  let ch := (s.rowAt part x p.c i p.n).map fun cs => (cs.zip (List.range cs.length)).map fun q => signedBy seed q.2 q.1
  match bk, ax, ch with
  | some bk, some ax, some ch =>
    if !closeTo p.res xk.val bk then some (failOn 3 xk)
    else if !closeTo p.res yi.val ax then some (failOn 3 yi)
    else if !closeTo p.res zi.val ch then some (failOn 3 zi)
    else none
  | none, _, _ => some (failAt 3 0)
  | some bk, none, _ => some (if closeTo p.res xk.val bk then failAt 3 0 else failOn 3 xk)
  | some bk, some ax, none =>
    some (if !closeTo p.res xk.val bk then failOn 3 xk else if !closeTo p.res yi.val ax then failOn 3 yi else failAt 3 0)

/-- The projection test. -/
def State.testProjection (s : State) (part : Nat) (x : Node) (seed : Nat) (vs : List WVal) : Option TestFail :=
  let p := projectionOf (x.desc.staged.headD [])
  let (xs, ys, zs) := (ofTag vs 5, ofTag vs 6, ofTag vs 7)
  if xs.length ≠ p.k then some (failAt 1 5)
  else if ys.length ≠ p.m then some (failAt 1 6)
  else if zs.length ≠ p.m then some (failAt 1 7)
  else
    let bsums : Option (List XVal) := if p.res then some []
      else allSome ((List.range p.k).map fun k =>
        (allSome ((List.range p.n).map fun j => s.operandAt part x p.b j k)).map fun bs => xsum (bs.map XVal.abs))
    match bsums with
    | none => some (failAt 2 0)
    | some bsums =>
      match (ys.zip zs).zip (List.range p.m) |>.findSome? fun q => s.rowAgrees part x p bsums q.2 q.1.1 q.1.2 with
      | some f => some f
      | none =>
        if p.k = 0 ∨ p.m = 0 then none
        else (List.range 4).findSome? fun t => s.sampleAgrees part x p seed t xs ys zs

/-! The permutation test (16 R388). -/

/-- Check 7: a sampled flag against the keys it speaks of. -/
def State.flagAgrees (s : State) (part : Nat) (x : Node) (ety : Nat) (desc : Bool) (addr : Int) (j : Nat) (f : WVal) :
    Option TestFail :=
  match s.assayElem part x addr 32 (j - 1), s.assayElem part x addr 32 j with
  | some a, some b =>
    let ok := (f.val % 2 == 1) == decide (orderRank ety desc a ≤ orderRank ety desc b) && bitOf f.val 1 == (a == b)
    if ok then none else some (failOn 7 f)
  | _, _ => some (failAt 7 0)

/-- The permutation test. -/
def State.testPermutation (s : State) (part : Nat) (x : Node) (seed : Nat) (vs : List WVal) : Option TestFail :=
  let e := x.desc.staged.headD []
  let p61 := 2 ^ 61 - 1
  let (fs, ins, outs) := (ofTag vs 1, ofTag vs 2, ofTag vs 3)
  let prod (ws : List WVal) : Nat := ws.foldl (fun n v => n * v.val % p61) 1
  if fs = [] then some (failAt 4 1)
  else match (ins ++ outs).find? fun v => decide (p61 ≤ v.val) with
    | some v => some (failOn 4 v)
    | none =>
      match fs.find? fun v => bits v.val 31 2 != 0 || v.val % 2 == 0 with
      | some v => some (failOn 5 v)
      | none =>
        if prod ins ≠ prod outs then some (failAt 6 0)
        else if fs.length = 1 then none
        else (List.range 16).findSome? fun t =>
          let j := 1 + pick seed 3 t (fs.length - 1)
          let f := fs.getD j ⟨0, 0, 0, 0, false⟩
          if f.first then none
          else s.flagAgrees part x (bits (wordAt e 1) 36 32) (bitOf (wordAt e 1) 37) (signed 64 (wordAt e 0)) j f

/-! The prefix test (16 R389). -/

/-- The precision of an IEEE type: 2^-p is its unit. -/
def precisionOf (ty : Nat) : Nat := (fmtOf ty).tbits + 1

/-- Within 96 units of a magnitude, and a tail. -/
def within96 (ty : Nat) (d mag tail : XVal) : Bool :=
  d.abs.le (XVal.add false (XVal.mul (xpow 96 (-(precisionOf ty : Int))) mag) tail)

/-- Check 9 of a block. -/
def blockAgrees (ty fin_ prev total : Nat) : Bool :=
  let w := typeWidth ty
  if isInt ty then wrap w ((fin_ : Int) - (prev : Int) - ((total % 2 ^ w : Nat) : Int)) == 0
  else
    let v (c : Nat) : XVal := decodeFloat ty false c
    let least := XVal.mul (xpow 48 0) (v 1)
    within96 ty (XVal.sub (XVal.sub (v fin_) (v prev)) (v total))
      (xsum [(v prev).abs, (v total).abs, (v fin_).abs]) least

/-- Check 10: a block recomputed from the element before it. -/
def blockRecomputes (ty prev : Nat) (ins outs : List Nat) : Bool :=
  let w := typeWidth ty
  if isInt ty then
    ((ins.zip outs).foldl (fun (acc : Nat × Bool) q =>
      let y := (acc.1 + q.1) % 2 ^ w
      (y, acc.2 && q.2 % 2 ^ w == y)) (prev, true)).2
  else
    let v (c : Nat) : XVal := decodeFloat ty false c
    ((ins.zip outs).foldl (fun (acc : Nat × XVal × Bool) q =>
      let y := roundFloat ty false false 0 0 (XVal.add false (v acc.1) (v q.1))
      let mag := XVal.add false acc.2.1 (v q.1).abs
      (y, mag, acc.2.2 && within96 ty (XVal.sub (v q.2) (v y)) mag (.fin false 0 0))) (prev, (v prev).abs, true)).2.2

/-- The prefix test. -/
def State.testPrefix (s : State) (part : Nat) (x : Node) (seed : Nat) (vs : List WVal) : Option TestFail :=
  let e := x.desc.staged.headD []
  let ty := bits (wordAt e 1) 36 32
  let w := typeWidth ty
  let n := bits (wordAt e 2) 31 0
  let blocks := (n + 47) / 48
  let ts := ofTag vs 4
  let out (k : Nat) : Option Nat := s.assayElem part x (signed 64 (wordAt e 0)) w k
  let before (b : Nat) : Option Nat := if b = 0 then some 0 else out (48 * b - 1)
  if ts.length ≠ blocks then some (failAt 8 4)
  else if blocks = 0 then none
  else
    let check (q : WVal × Nat) : Option TestFail :=
      match out (min (48 * q.2 + 47) (n - 1)), before q.2 with
      | some fin_, some prev => if blockAgrees ty fin_ prev q.1.val then none else some (failOn 9 q.1)
      | _, _ => some (failAt 9 0)
    match (ts.zip (List.range blocks)).findSome? check with
    | some f => some f
    | none =>
      let b := pick seed 4 0 blocks
      let ks := (List.range (min 48 (n - 48 * b))).map (48 * b + ·)
      match before b, allSome (ks.map fun k => s.assayElem part x (signed 64 (wordAt e 4)) w k), allSome (ks.map out) with
      | some prev, some ins, some outs => if blockRecomputes ty prev ins outs then none else some (failAt 10 0)
      | _, _, _ => some (failAt 10 0)

/-! The residual test (16 R390). -/

/-- The residual test. -/
def State.testResidual (s : State) (part : Nat) (x : Node) (seed : Nat) (vs : List WVal) : Option TestFail :=
  let e := x.desc.staged.headD []
  let w (k : Nat) : Nat := wordAt e k
  let n := bits (w 3) 63 32
  let a : Operand := { addr := signed 64 (w 4), pitch := signed 64 (w 5), ty := bits (w 3) 31 27 }
  let b : Operand := { addr := signed 64 (w 6), pitch := 0, ty := bits (w 3) 26 22 }
  let sol : Operand := { addr := signed 64 (w 0), pitch := 0, ty := bits (w 1) 36 32 }
  let (rs, norms) := (ofTag vs 8, ofTag vs 9)
  let f (c : Nat) : XVal := decodeFloat 13 false c
  if rs.length ≠ n then some (failAt 11 8)
  else match norms with
    | [norm] =>
      let rho := f (sqrt64 (xsum (rs.map fun r => XVal.mul (f r.val) (f r.val))))
      if !(XVal.sub (f norm.val) rho).abs.le (XVal.mul (xpow 1 (-40)) rho) ∨ !rho.le (f (w 2)) then some (failOn 12 norm)
      else if n = 0 then none
      else (List.range 4).findSome? fun t =>
        let i := pick seed 5 t n
        let r := rs.getD i ⟨0, 0, 0, 0, false⟩
        match s.rowAt part x a i n, s.rowAt part x sol 0 n, s.operandAt part x b 0 i with
        | some as, some xs, some bi =>
          let terms := (as.zip xs).map fun q => XVal.mul q.1 q.2
          let exact := XVal.sub bi (xsum terms)
          let mag := XVal.add false bi.abs (xsum (terms.map XVal.abs))
          if (XVal.sub exact (f r.val)).abs.le (XVal.mul (xpow 1 (-50)) mag) then none else some (failOn 13 r)
        | _, _, _ => some (failAt 13 0)
    | _ => some (failAt 11 9)

/-! The test of a node's witness (16 R386). -/

/-- The first failing check of an instance's witness; none where it passes. -/
def State.testWitness (s : State) (part : Nat) (x : Node) : Option TestFail :=
  let kind := x.desc.wkind
  let ety := bits (wordAt (x.desc.staged.headD []) 1) 36 32
  let areas := sortBy (fun a b : Nat × Nat × List Word => decide (a.1 < b.1)) x.witness
  let sorted := areas.map fun g => (g.1, sortArea (g.2.2.map (·.toNat)))
  match sorted.findSome? fun g => badEntry kind ety g.1 0 g.2 with
  | some f => some f
  | none =>
    let vs := sorted.flatMap fun g => areaVals g.1 0 g.2
    let seed := (x.seed.getD 0).toNat
    if kind = 0 then none
    else if kind = 1 then s.testProjection part x seed vs
    else if kind = 2 then s.testPermutation part x seed vs
    else if kind = 3 then s.testPrefix part x seed vs
    else s.testResidual part x seed vs

end Sys2Proof.Machine
end

