-- ==== Sys2Proof/Machine/Verdict.lean ====
section
/-! DEFINITION. Seeds, the outcome of a witness test, re-runs, probes and verdicts, release and void of versions, the
re-execution post, and the retirement of a cluster (14 R354, 16 R382 to R396). -/

namespace Sys2Proof.Machine

/-! Seeds (16 R385). -/

/-- Every entry of the instance's staged list has reached its seal count. -/
def State.wholeOutput (s : State) (x : Node) : Bool := !x.short && (List.range x.desc.staged.length).all (s.reached x)

/-- The seed of a draw: any 64-bit value but zero (16 R385). -/
def seedOf (n : Nat) : DWord := w64 (1 + (Config.nodeSeed n).toNat % (2 ^ 64 - 1))

/-- SEED_REVEAL: a node whose staged outputs are all sealed gets its seed, whether it still runs or has completed (16 R385). -/
def onSeedReveal (e : Ev) (s : State) : Option State :=
  match (if e.n1 = 0 then Tab.find e.n0 s.nodes else Tab.find e.n0 s.past) with
  | none => none
  | some x =>
    if x.desc.wkind = 0 ∨ x.seed.isSome ∨ x.st = .ended ∨ !s.wholeOutput x then none
    else some ({ s with seeds := s.seeds + 1 }.updUid x.uid fun x => { x with seed := some (seedOf s.seeds) })

/-- SEED_REVEAL (16 R385). -/
def execSeedReveal (s : State) : Host.Outcome State Fault Refusal := event s (assay onSeedReveal)

/-! What an outcome writes. -/

/-- The digests of an instance's staged entries, in the list's order; none while one is still due. -/
def State.digestsOf (s : State) (x : Node) : Option (List Nat) :=
  allSome ((List.range x.desc.staged.length).map fun i =>
    (x.versions.find? fun v => v.1 == i).bind fun v => (s.ver v.2.1 v.2.2).digest)

/-- The core that ran the gang whose witness holds the word a failure names. -/
def Node.namedCore (x : Node) (f : TestFail) : Option Nat :=
  f.gang.bind fun g => (x.witness.find? fun w => w.1 == g).map (·.2.1)

/-- The tag and index of the word a failure names; zeros where it names none. -/
def TestFail.word (f : TestFail) : Nat × Nat := if f.gang.isSome then (f.tag, f.idx) else (0, 0)

/-- The bits of a list of small numbers. -/
def bitsOf (xs : List Nat) : Nat := (distinct xs).foldl (fun m k => m + 2 ^ k) 0

/-- Queue a re-execution post (14 R354). -/
def State.postRun (s : State) (part : Nat) (x : Node) (attempt xdie : Nat) (xclu : DWord) (probe : Option (Nat × Nat))
    (entry : Nat) : State :=
  s.updPart part fun p => { p with
    repost := p.repost ++ [⟨x.addr, xclu, x.inst, x.uid, xdie, probe, attempt, some entry⟩] }

/-- An entry receives its verdict and is final; nothing answers the failure any more (16 R394, R404). -/
def State.giveVerdict (s : State) (entry verdict : Nat) : State :=
  let s := { s with failures := s.failures.filter (·.entry != entry) }
  s.amendRecord entry (s.verdictWords verdict) true

/-! The first failure (16 R391). -/

/-- A first run fails its test: the entry opens, the re-run is posted, the versions become void, the dependants'
re-runs follow. -/
def State.failFirst (s : State) (part : Nat) (x : Node) (f : TestFail) : State :=
  let named := x.namedCore f
  let core1 := named.getD (s.firstCore x)
  let cores := match named with
    | some c => [c]
    | none => x.wasOn
  let xdie := bitsOf (cores.map dieOf)
  let xclu := s.suspects ||| w64 (if named.isSome then 0 else bitsOf (cores.map clusterOf))
  let v := x.versions.headD (0, 0, 0)
  let w2 := core1 * 2 ^ 56 + xdie * 2 ^ 32 + f.word.1 * 2 ^ 24 + f.word.2
  let (seq, s) := s.recordSeq (effFDOM x.eff) part 1 0 f.check x.addr w2 (s.pair v.2.1).page.toNat
    (v.2.2 * 2 ^ 32 + x.versions.length * 2 ^ 16) 0 (f.gang.getD 0) false
  let fl : Failure := ⟨seq, part, f.check, f.word.1, f.word.2, core1, (s.digestsOf x).getD [], xdie, xclu, []⟩
  let s := { s with failures := s.failures ++ [fl] }.updUid x.uid fun x => { x with cause := seq }
  (s.postRun part x 2 xdie xclu none seq).voidNode x true seq

/-! The failure of an attempt (16 R395). -/

/-- A completed instance ends after all with status 0x8006; what is bound to it and not doomed ends too (14 R339,
R340). -/
def State.failPast (s : State) (part uid : Nat) : State :=
  match Tab.find uid s.past with
  | none => s
  | some x =>
    if x.st = .ended then s
    else
      let s := { s with past := Tab.put uid { x with st := .ended, status := 0x8006 } s.past }
      let s := s.postCompletion part x.addr 0x8006 x.inst (x.origin == .rerun)
      let deps := (s.nodes.filter fun p => p.2.preds.contains uid && !p.2.doomed).map Prod.fst
      deps.foldl (fun s d => s.endInstance d 0x8003) s

/-- The doomed instances of a failure that will not be run again take status 0x8006, those that still run when they
complete (14 R340, 16 R392). -/
def State.leaveVoid (s : State) (part entry : Nat) : State :=
  let mine (x : Node) : Bool := x.doomed && x.cause == entry && !x.reposted && x.probe.isNone
  let gone := (s.past.filter fun p => mine p.2 && p.2.st == .complete).map Prod.fst
  let s := { s with nodes := Tab.mapVals (fun _ x => if mine x then { x with left := true } else x) s.nodes }
  gone.foldl (fun s u => s.failPast part u) s

/-- An attempt fails its test: a repeatable failure, the third one, or a third attempt. -/
def State.failAgain (s : State) (x : Node) (f : TestFail) (fl : Failure) : State :=
  let named := x.namedCore f
  let s := s.amendRecord fl.entry (setCore2 (named.getD (s.firstCore x))) false
  let same : Bool := x.attempt == 2 && f.check == fl.check && f.word == (fl.tag, fl.widx) && s.digestsOf x == some fl.digests
  if same ∨ 3 ≤ x.attempt then
    let s := s.giveVerdict fl.entry (if same then 5 else 9)
    let s := s.voidNode x false fl.entry
    (s.failPast fl.part x.uid).leaveVoid fl.part fl.entry
  else
    let cores := match named with
      | some c => [c]
      | none => x.wasOn
    let xdie := fl.xdie ||| bitsOf (cores.map dieOf)
    let xclu := fl.xclu ||| s.suspects
    (s.postRun fl.part x 3 xdie xclu none fl.entry).voidNode x true fl.entry

/-! The retirement of a cluster (16 R396). -/

/-- A re-execution that cannot be placed ends; a probe's verdict is 8 (14 R354, 16 R394, R401). -/
def State.unplaceable (s : State) (n : Nat) : State :=
  let x := s.node n
  let s := s.recordFault (effFDOM x.eff) (partOfNode n) 10 0 0 x.addr (x.xdie * 2 ^ 32) 0 0 (x.entry.getD 0) 0 true
  let s := match x.probe, x.entry with
    | some _, some q => s.giveVerdict q 8
    | _, _ => s
  (s.endInstance n 0x8005).settleReady

/-- Re-executions of which no gang has been placed and that no cluster is left for. -/
def State.stranded (s : State) : List Nat :=
  (s.nodes.filter fun p => p.2.origin == .rerun && p.2.placed == 0 && s.allowed (partOfNode p.1) p.2 == []).map Prod.fst

/-- A cluster is retired: its bit is set, its gangs are pre-empted, and re-executions that only it could take end. -/
def State.retireCluster (s : State) (cl link : Nat) : State :=
  if s.isRetired cl then s
  else
    let s := { s with retired := s.retired ||| w64 (2 ^ cl) }
    let s := s.recordFault 0 0 8 0 0 0 (4 * cl * 2 ^ 56) 0 0 link 0 true
    let gs := (s.gangs.filter fun p => clusterOf p.2.core == cl && p.2.live).map Prod.fst
    let s := gs.foldl (fun s g => s.updGang g fun x => { x.askPark .preempt with assayHold := true }) s
    s.stranded.foldl State.unplaceable s

/-- A parked gang of a retired cluster is saved and placed again on another core (16 R396). -/
def State.moveGang (s : State) (g core : Nat) : State :=
  let x := s.gang g
  let (serial, s) := s.freshNum
  let c := s.contextOf g serial false
  let (_, s) := (s.removeGang g).restore c x.node core
  (s.updGang g fun y => { y with parkHold := x.parkHold }).resumeGang g

/-- The first gang of a partition that waits to be moved, with a core that takes it and that no reservation keeps (14 R346). -/
def State.toMove (s : State) (part : Nat) : Option (Nat × Nat) :=
  (s.gangs.filter fun p => p.2.part == part && p.2.live && p.2.parked && s.isRetired (clusterOf p.2.core)).findSome? fun p =>
    let c := s.contextOf p.1 0 false
    ((s.fixedCores part (s.node p.2.node)).find? fun k => isStreamCore k == isStreamCore p.2.core && s.takesContext c k &&
      !(s.reservedFrom part (s.node p.2.node)).contains k).map
      fun k => (p.1, k)

/-- GANG_PLACE: the hub places again a gang that a retirement has displaced, or the next gang of the first instance it
can (14 R342, 16 R396). -/
def onGangPlace (e : Ev) (s : State) : Option State :=
  match s.toMove e.n0 with
  | some (g, core) => some (s.moveGang g core)
  | none => s.placeNext e.n0

/-- GANG_PLACE (14 R342). -/
def execGangPlace (s : State) : Host.Outcome State Fault Refusal := event s onGangPlace

/-! Probes (16 R393, R394). -/

/-- The probe's shadow frames are discarded. -/
def State.dropShadow (s : State) (x : Node) : State :=
  let mine (key : Nat) : Bool := key / 2 ^ 30 == x.uid + 1
  let inside (a : Nat) : Bool := decide (2 ^ 60 ≤ a) && mine ((a - 2 ^ 60) / 2 ^ 22)
  { s with
    pairs := s.pairs.filter fun p => !mine p.1,
    mem := s.mem.filter fun c => !inside c.1,
    marks := s.marks.filter fun m => !inside (64 * m.1),
    dies := Tab.mapVals (fun _ d => { d with
      l2 := d.l2.filter fun l => !inside (64 * l.1), dir := d.dir.filter fun l => !inside (64 * l.1) }) s.dies }

/-- The outcome of a probe gives the verdict; a lasting one adds to the cluster's count, and 2 retire it. -/
def State.settleProbe (s : State) (x : Node) (passed : Bool) (fl : Failure) : State :=
  let cl := clusterOf fl.core1
  let n := min 3 (Tab.get 0 s.lasting cl + (!passed).toNat)
  let s := { s with lasting := Tab.put cl n s.lasting }
  let core3 := s.firstCore x
  let s := s.amendRecord fl.entry (fun ws =>
    ws.set 2 (w64 (putBits (putBits (putBits (wordAt ws 2) 47 40 core3) 38 38 1) 37 37 passed.toNat))) false
  let s := s.giveVerdict fl.entry ((if fl.digests = fl.released then 1 else 3) + (!passed).toNat)
  let s := s.dropShadow x
  if !passed ∧ n = 2 then s.retireCluster cl fl.entry else s

/-! WITNESS_TEST (16 R386 to R395). -/

/-- The probe cannot pass: it ended, was doomed, or left a seal count unreached. -/
def State.probeLost (s : State) (x : Node) : Bool := x.st == .ended || x.doomed || !s.wholeOutput x

/-- WITNESS_TEST: the assay die tests the witness of a completed instance, and what follows from the outcome. -/
def onWitnessTest (e : Ev) (s : State) : Option State :=
  match Tab.find e.n0 s.past with
  | none => none
  | some x =>
    let fl := x.entry.bind fun q => s.failures.find? fun f => f.entry == q
    let part := ((s.pair (x.versions.headD (0, 0, 0)).2.1).part)
    let tested (passed : Bool) : State := s.updUid x.uid fun x => { x with tested := true, passed }
    if x.tested then none
    else if x.probe.isSome && s.probeLost x then fl.map fun f => (tested false).settleProbe x false f
    else if x.desc.wkind = 0 ∨ x.st ≠ .complete ∨ x.doomed ∨ !s.wholeOutput x ∨ x.seed.isNone then none
    else match s.digestsOf x with
      | none => none
      | some ds =>
        match s.testWitness part x, x.probe, fl with
        | none, some _, some f => some ((tested true).settleProbe x (ds == f.released) f)
        | some _, some _, some f => some ((tested false).settleProbe x false f)
        | _, some _, none => some (tested false)
        | none, none, _ => some (tested true)
        | some t, none, none => some ((tested false).failFirst part x t)
        | some t, none, some f => some ((tested false).failAgain x t f)

/-- WITNESS_TEST (16 R386). -/
def execWitnessTest (s : State) : Host.Outcome State Fault Refusal := event s (assay onWitnessTest)

/-! Release and void (16 R382, R384). -/

/-- Every version of the record but the instance's own is released: a foreign one is while no notice is due. -/
def State.recordReleased (s : State) (x : Node) : Bool :=
  x.record.all fun v => match v.pkg with
    | none => (x.versions.any fun u => u.2 == (v.pair, v.version)) || (s.ver v.pair v.version).st == .released
    | some k => !s.foreign.any fun f => f.1 == k && f.2.1 == v.pair && f.2.2.1 == v.version

/-- A version of a pair may be released: its digest is taken, its instance's witness has passed or it has none, and every
version in its record is released (16 R382). -/
def State.releasable (s : State) (v : Ver) : Bool :=
  v.st == .sealed && v.digest.isSome && !v.doomed && match v.node.bind s.findUid with
    | none => false
    | some x => x.st != .ended && !x.doomed && !x.short && s.recordReleased x &&
        (x.desc.wkind == 0 || (x.st == .complete && x.passed && s.wholeOutput x))

/-- The version that an instance released of the page that word 3 of an entry names. -/
def State.releasedOf (s : State) (x : Node) (ws : List DWord) : Nat :=
  let hit := x.versions.find? fun v => (s.pair v.2.1).page.toNat == wordAt ws 3
  (hit.getD (x.versions.headD (0, 0, 0))).2.2

/-- CORE2 and RVER of a released re-run. -/
def State.noteRelease (s : State) (x : Node) (ws : List DWord) : List DWord :=
  (setCore2 (s.firstCore x) ws).set 5 (w64 (putBits (wordAt ws 5) 63 32 (s.releasedOf x ws)))

/-- When every version of a re-run is released: the dependant's entry is completed; an attempt that answers a failure is
followed by its probe (16 R393). -/
def State.afterRelease (s : State) (uid : Nat) : State :=
  match s.findUid uid with
  | none => s
  | some x =>
    if !s.wholeOutput x ∨ !(x.versions.all fun v => (s.ver v.2.1 v.2.2).st == .released) then s
    else
      let s := match (x.orig.bind s.findUid).bind (·.depEntry) with
        | some q => s.amendRecord q (s.noteRelease x) true
        | none => s
      match x.entry.bind fun q => s.failures.find? fun f => f.entry == q with
      | none => s
      | some f =>
        if x.attempt < 2 ∨ x.probe.isSome then s
        else
          let ds := (s.digestsOf x).getD []
          let put (g : Failure) : Failure := if g.entry = f.entry then { g with released := ds } else g
          let s := { s with failures := s.failures.map put }
          let eq := (ds == f.digests).toNat
          let s := s.amendRecord f.entry (fun ws =>
            let ws := s.noteRelease x ws
            ws.set 2 (w64 (putBits (wordAt ws 2) 36 36 eq))) false
          s.postRun f.part x x.attempt 0 0 (some (clusterOf f.core1, 0)) f.entry

/-- VERSION_RELEASE: a sealed version of a pair whose conditions hold becomes released and its notice is sent. -/
def onVersionRelease (e : Ev) (s : State) : Option State :=
  let key := e.n0
  let p := s.pair key
  if 2 ^ 30 ≤ key then none
  else match p.vers.find? fun v => s.releasable v.2 with
    | none => none
    | some (v, q) =>
      let uid := q.node.getD 0
      let unw := ((s.findUid uid).map fun x => x.desc.wkind == 0).getD false
      let s := (s.updVer key v fun q => { q with st := .released }).dropPairTlb key
      some ((s.postNotice key v p.part false unw).afterRelease uid)

/-- VERSION_RELEASE (16 R384). -/
def execVersionRelease (s : State) : Host.Outcome State Fault Refusal := event s (assay onVersionRelease)

/-- An open or sealed version is due to become void: it is sealed and doomed, its node is gone, or its node completed
with a seal count not reached (16 R382). -/
def State.voidDue (s : State) (v : Ver) : Bool :=
  match v.st with
  | .sealed => v.doomed || match v.node.bind s.findUid with
    | none => false
    | some x => x.st == .ended || (x.st == .complete && !s.wholeOutput x)
  | .opened => match v.node.bind s.findUid with
    | none => false
    | some x => x.st == .ended || x.st == .complete
  | _ => false

/-- VERSION_VOID: a version of a pair whose condition holds becomes void, dooming its readers; its notice is sent. -/
def onVersionVoid (e : Ev) (s : State) : Option State :=
  let key := e.n0
  match (s.pair key).vers.find? fun v => s.voidDue v.2 with
  | none => none
  | some (v, q) =>
    let y := q.node.bind s.findUid
    let cause := (y.map (·.cause)).getD 0
    let s := match y with
      | some y => if q.doomed ∧ y.depEntry = none then s.recordDependant y (s.pair key).page.toNat v 1 cause else s
      | none => s
    some (s.voidVersion (q.doomed && (y.map (·.reposted)).getD false) cause key v)

/-- VERSION_VOID (16 R382). -/
def execVersionVoid (s : State) : Host.Outcome State Fault Refusal := event s (assay onVersionVoid)

/-! REEXECUTION_POST (14 R354). -/

/-- An instance has a whole order log, which its repetition follows (16 R402, R403). -/
def State.hasLog (s : State) (uid : Nat) : Bool := ((s.findUid uid).map fun x => !x.unlogged && effDET x.eff).getD false

/-- The log of an instance as its repetition at a table entry follows it. -/
def State.logFor (s : State) (part uid n : Nat) : List (DWord × DWord) :=
  if !s.hasLog uid then []
  else ((s.part part).log.filter fun e => e.2.1 == uid).map fun e =>
    (w64 (putBits e.2.2.1.toNat 59 48 (n % 4096)), e.2.2.2)

/-- REEXECUTION_POST: the hub takes the oldest re-execution post of a partition; it waits while there is no room. -/
def onReexecutionPost (e : Ev) (s : State) : Option State :=
  let k := e.n0
  match (s.part k).repost with
  | [] => none
  | q :: rest =>
    let x : Node := {
      addr := q.addr, origin := .rerun, xdie := q.xdie, xclu := q.xclu, probe := q.probe, attempt := q.attempt,
      entry := q.entry, orig := some q.origUid }
    let taken (s : State) : State := s.updPart k fun p => { p with repost := rest }
    match s.offer k x none with
    | .waits _ => none
    | .rejected _ s =>
      let s := (taken s).recordFault 0 k 10 0 0 q.addr (q.xdie * 2 ^ 32) 0 0 (q.entry.getD 0) 0 true
      some (match q.probe, q.entry with
        | some _, some f => s.giveVerdict f 8
        | _, _ => s)
    | .accepted n s =>
      let s := (taken s).updPart k fun p => { p with replay := p.replay ++ s.logFor k q.origUid n }
      let s := s.updNode n fun x => { x with follows := s.hasLog q.origUid }
      some (if s.allowed k (s.node n) = [] then s.unplaceable n else s)

/-- REEXECUTION_POST (14 R354). -/
def execReexecutionPost (s : State) : Host.Outcome State Fault Refusal := event s onReexecutionPost

end Sys2Proof.Machine
end

