-- ==== Sys2Proof/Machine/Scrub.lean ====
section
/-! DEFINITION. Physical accesses of the headframe and the fabric to local memory, how LPDDR 5X holds it (ciphertext, tags,
counter trees), residue reports and self-tests, strikes, and the patrol scrubber (16 R397 to R401, 17 R408 to R410,
19 R444). -/

namespace Sys2Proof.Machine

/-! Physical accesses (15 R356, 19 R444). -/

/-- The die whose directory tracks a line, or the home of its interleave. -/
def State.trackHome (s : State) (line : Nat) : Nat :=
  ((List.range 4).find? fun d => (s.dirFind d line).isSome).getD (interleave (64 * line))

/-- How an agent that names no page reaches a line: uncached, at its home. -/
def State.physAttr (s : State) (line : Nat) : Attr := { home := s.trackHome line, nc := false, cpol := 2 }

/-- Write bytes at physical addresses at the coherence point. -/
def State.physWrite (s : State) (ws : List (Nat × Byte)) : State :=
  let s := (distinct (ws.map fun w => w.1 / 64)).foldl
    (fun s l => s.writeLine 0 (s.physAttr l) l (lineMask l ws)) s
  s.clearMarks (ws.map Prod.fst)

/-- Read n bytes from a physical address at the coherence point. -/
def State.physRead (s : State) (pa n : Nat) : List Byte × State :=
  let lines := distinct ((List.range n).map fun i => (pa + i) / 64)
  let (got, s) := lines.foldl (fun (acc : Tab (List Byte) × State) l =>
    let (b, s) := acc.2.readLine 0 (acc.2.physAttr l) l
    (Tab.put l b acc.1, s)) ([], s)
  ((List.range n).map fun i => (Tab.get [] got ((pa + i) / 64)).getD ((pa + i) % 64) 0, s)

/-- The signature of the sectors of addresses. -/
def sigOf (as : List Nat) : Signature := (sectorsOf as).foldl (fun g x => g ||| sigBits x) 0

/-- The partition whose key id the frame of a local address holds (17 R408). -/
def State.frameOwner (s : State) (pa : Nat) : Option Nat :=
  match Tab.get 0 s.keyids (pa / 65536) with
  | 0 => none
  | k + 1 => some k

/-- The released partition that owns a cluster. -/
def State.ownerOf (s : State) (cl : Nat) : Nat :=
  ((s.parts.find? fun p => bitOf p.2.partclu.toNat cl).map Prod.fst).getD 0

/-! How LPDDR 5X holds a sector (17 R408 to R410). -/

/-- The memory key of a frame: the XTS keys and the tag key of its partition, or the device's (17 R407, R408). -/
def State.frameKey (s : State) (pa : Nat) : List Byte :=
  match s.frameOwner pa with
  | some p => (s.part p).memKey
  | none => s.deviceKey

/-- The blocks of a counter tree, level by level from the sectors up, over a number of children: eight to a block, until eight
or fewer remain, whose counters are the roots. -/
def treeLevels : Nat → Nat → List Nat
  | 0, _ => []
  | k + 1, n =>
    let m := (n + 7) / 8
    m :: (if m ≤ 8 then [] else treeLevels k m)

/-- The level and the number of the block at a place of a tree's storage, its levels lying one after the other. -/
def blockAt : List Nat → Nat → Nat → Option (Nat × Nat)
  | [], _, _ => none
  | m :: rest, level, i => if i < m then some (level, i) else blockAt rest (level + 1) (i - m)

/-- The sectors below the counter block in a sector of withheld storage: the first and how many, and the sectors under each
counter of the block (17 R410; log entry 17). -/
def State.treeBlock (s : State) (sector : Nat) : Option (Nat × Nat × Nat) :=
  s.parts.findSome? fun p => (p.2.ranges.zip p.2.withheld).findSome? fun (x : (Nat × Nat) × Nat × Nat) =>
    if x.2.1 / 64 ≤ sector ∧ sector < (x.2.1 + x.2.2) / 64 then
      (blockAt (treeLevels 16 (x.1.2 / 64)) 1 (sector - x.2.1 / 64)).map fun b =>
        (x.1.1 / 64 + b.2 * 8 ^ b.1, min (8 ^ b.1) (x.1.2 / 64 - b.2 * 8 ^ b.1), 8 ^ (b.1 - 1))
    else none

/-- Writes of a run of sectors so far. -/
def State.writesOf (s : State) (first n : Nat) : Nat :=
  (s.counters.filter fun c => decide (first ≤ c.1) && decide (c.1 < first + n)).foldl (fun k c => k + c.2) 0

/-- The 64 bytes of a sector: of a counter block its eight counters, each write of a child counting in its parent. -/
def State.sectorPlain (s : State) (sector : Nat) : List Byte :=
  match s.treeBlock sector with
  | some (first, _, step) => (List.range 8).flatMap fun i => leBytes 8 (s.writesOf (first + step * i) step)
  | none => s.memLine sector

/-- The counter that a sector's tag takes: its write counter in a protected range, the parent counter of a counter block, 0
elsewhere (17 R409, R410). -/
def State.sectorCounter (s : State) (sector : Nat) : Nat :=
  match s.treeBlock sector with
  | some (first, n, _) => s.writesOf first n
  | none => Tab.get 0 s.counters sector

/-- The XTS keys and the tag key of a memory key. -/
def xtsKeys (key : List Byte) : List Byte := fitBytes 64 key
def tagKey (key : List Byte) : List Byte := fitBytes 32 (key.drop 64)

/-- The tweak of a sector: its number as a 128-bit little-endian value (17 R408). -/
def sectorTweak (sector : Nat) : List Byte := leBytes 16 sector

/-- The ciphertext of a sector as LPDDR 5X holds it (17 R408). -/
def State.storedCipher (s : State) (sector : Nat) : List Byte :=
  fitBytes 64 (Config.xtsEncrypt (xtsKeys (s.frameKey (64 * sector))) (sectorTweak sector) (s.sectorPlain sector))

/-- The 56-bit tag of a ciphertext in a sector (17 R409). -/
def State.sectorTag (s : State) (sector : Nat) (cipher : List Byte) : List Byte :=
  fitBytes 7 (Config.kmac256 (tagKey (s.frameKey (64 * sector))) (ascii "QTAG")
    (leBytes 8 sector ++ leBytes 8 (s.sectorCounter sector) ++ cipher) 7)

/-- The tag that LPDDR 5X holds with a sector: every write of the sector recomputes it. -/
def State.storedTag (s : State) (sector : Nat) : List Byte := s.sectorTag sector (s.storedCipher sector)

/-- Sectors become integrity-poisoned; one that is poisoned stays so, for its tag is not tested (17 R409). -/
def State.failTags (s : State) (secs : List Nat) : State :=
  { s with marks := secs.foldl (fun t k => if Tab.find k t = some .poison then t else Tab.put k Mark.integrity t) s.marks }

/-- An L2 holds the sector's line modified: what LPDDR holds of it is stale, and the write-back that is to come, a complete write,
will clear whatever is found there (15 R369, 16 R400). -/
def State.stale (s : State) (line : Nat) : Bool :=
  (List.range 4).any fun d => ((s.l2Find d line).map L2Line.st) == some .m

/-- A sector is read whose ciphertext and tag an agent outside the package has replaced: with a tag that matches, the data are
those that the ciphertext decrypts to; otherwise they are read as an error of integrity, of every sector below where it is a
counter block, and the detection is logged (17 R409 to R411). -/
def State.meetSector (s : State) (sector part : Nat) (found : List Byte) : State :=
  let pa := 64 * sector
  let cipher := fitBytes 64 found
  let plain := fitBytes 64 (Config.xtsDecrypt (xtsKeys (s.frameKey pa)) (sectorTweak sector) cipher)
  let good := fitBytes 7 (found.drop 64) == s.sectorTag sector cipher
  if Tab.find sector s.marks = some .poison then s
  else
    let t := match s.treeBlock sector with
      | some (first, n, _) => if good then s else s.failTags ((List.range n).map (first + ·))
      | none =>
        let t := { s with mem := wrBytes s.mem pa plain }
        if good ∨ s.stale sector then t else t.failTags [sector]
    if good then t else t.recordFault 0 part 6 0 0 (w64 pa) 0 0 0 0 0 true

/-! Residue self-tests (16 R397). -/

/-- The node that a report names: the fault domain of its latest instance in the cluster's partition, and the core of the
cluster that it was on. -/
def State.reported (s : State) (cl : Nat) (addr : DWord) : Nat × Nat :=
  let last := ((s.part (s.ownerOf cl)).latest.find? fun p => p.1 == addr).bind fun p => s.findUid p.2
  match last with
  | none => (0, 4 * cl)
  | some x => (effFDOM x.eff, (x.wasOn.find? fun k => clusterOf k == cl).getD (4 * cl))

/-- RESIDUE_REPORT: a status reported for a cluster: the entry opens, and its gangs are parked for the self-test; a report that
comes during one waits for its end. -/
def onResidueReport (e : Ev) (s : State) : Option State :=
  let cl := e.n0
  if 64 ≤ cl ∨ s.isRetired cl then none
  else
    let map := (s.cluster cl).rnsmap.toNat
    let (fdom, core) := s.reported cl (w64 e.n2)
    let (seq, s) := s.recordSeq fdom (s.ownerOf cl) 2 0 0 (w64 e.n2) (core * 2 ^ 56) 0 0 0 (e.n1 % 16 * 256 + map % 256) false
    if (s.cluster cl).selfTest.isSome then
      some (s.updCluster cl fun c => { c with moreTests := c.moreTests ++ [(seq, e.n1)] })
    else
      let gs := (s.gangs.filter fun p => clusterOf p.2.core == cl && p.2.live).map Prod.fst
      let s := gs.foldl (fun s g => s.updGang g fun x => { x.askPark .preempt with assayHold := true }) s
      some (s.updCluster cl fun c => { c with selfTest := some (seq, e.n1) })

/-- RESIDUE_REPORT (16 R397). -/
def execResidueReport (s : State) : Host.Outcome State Fault Refusal := event s (assay onResidueReport)

/-- The exact term of an element of a vector of the self-test (16 R397): its operands are n8. -/
def selfTerm (v i j : Nat) : Int :=
  residueTerm 6 6 ((List.range 384).map fun k => b8 (v + 7 * k + 13 * i)) ((List.range 384).map fun k => b8 (3 * v + 5 * j + 11 * k))
    (v % 4)

/-- The channels that fail a vector of the self-test: some residue of an element, in a channel not retired, differs from that of
the exact term (16 R397). -/
def Cluster.failing (c : Cluster) : List Nat :=
  if c.adder.all fun a => a.2 == 0 then []
  else (List.range 10).filter fun k =>
    (List.range 64).any fun v => (List.range 32).any fun i => (List.range 32).any fun j =>
      resOf (residueElement c.rnsmap c.adder true [] (selfTerm v i j)) k != resOf (residueElement c.rnsmap [] true [] (selfTerm v i j)) k

/-- The map of a cluster with one more channel retired: a second one takes the residue mode out of service, and DEGRADED and
CHANNEL keep naming the first (02 R72, R73; log entry 105). -/
def retireChannel (map : Word) (k : Nat) : Word :=
  if 10 ≤ k ∨ rnsOff map ∨ retiredOf map = some k then map
  else match retiredOf map with
    | none => w32 (16 + k)
    | some _ => map ||| 32

/-- SELF_TEST_DONE: with every gang of the cluster parked, the vectors have run; channels that failed are retired, the
verdict is given, and the gangs run on, or the test of the next report begins. -/
def onSelfTestDone (e : Ev) (s : State) : Option State :=
  let cl := e.n0
  let gs := s.gangs.filter fun p => clusterOf p.2.core == cl && p.2.live
  match (s.cluster cl).selfTest with
  | none => none
  | some (seq, _) =>
    if !(gs.all fun p => p.2.parked) then none
    else
      let old := (s.cluster cl).rnsmap
      let map := (s.cluster cl).failing.foldl retireChannel old
      let more := (s.cluster cl).moreTests
      let s := s.updCluster cl fun c => { c with selfTest := more.head?, moreTests := more.tail, rnsmap := map }
      let s := { s with channels := Tab.put cl (bits map.toNat 5 0) s.channels }
      let s := s.amendRecord seq (fun ws => ws.set 7 (w64 (putBits (wordAt ws 7) 7 0 map.toNat))) false
      let s := s.giveVerdict seq (if map = old then 3 else 7)
      some (if more ≠ [] then s else gs.foldl (fun s p =>
        (s.updGang p.1 fun x => { x with assayHold := s.isRetired cl }).resumeGang p.1) s)

/-- SELF_TEST_DONE (16 R397). -/
def execSelfTestDone (s : State) : Host.Outcome State Fault Refusal := event s (assay onSelfTestDone)

/-! Strikes and scrubbing (16 R399 to R401). -/

/-- What a fault of nature leaves behind that nothing corrects: an error in a register bank, in a line of a gang's scratchpad or
in a row of one of its tiles, which its consumption finds, or a faulty adder in an engine (12 R294, 13 R313). -/
def State.damage (e : Ev) (s : State) : State :=
  if e.n1 = 1 then s.updStream e.n2 fun t => { t with regBad := if t.regBad.contains e.n3 then t.regBad else t.regBad ++ [e.n3] }
  else if e.n1 = 2 then s.updGang e.n2 fun g =>
    { g with scratchPoison := if g.scratchPoison.contains e.n3 then g.scratchPoison else g.scratchPoison ++ [e.n3] }
  else if e.n1 = 3 then s.updGang e.n2 fun g =>
    { g with tileStore := Tab.put e.n3 { g.tile e.n3 with poison := (g.tile e.n3).poison.filter (· != e.n4) ++ [e.n4] } g.tileStore }
  else if e.n1 = 4 then s.updCluster e.n2 fun c => { c with adder := Tab.put e.n3 e.n4 c.adder }
  else s

/-- A register of a bank: v0 to v55, c0 to c31, p0 to p6 (03 R74). -/
def bankHolds (n : Nat) : Bool := decide (n < 56) || (decide (64 ≤ n) && decide (n < 103))

/-- What such a fault names is there. -/
def State.damages (e : Ev) (s : State) : Bool :=
  if e.n1 = 0 then true
  else if e.n1 = 1 then (Tab.find e.n2 s.streams).isSome && bankHolds e.n3
  else if e.n1 = 2 then (Tab.find e.n2 s.gangs).isSome && decide (512 * e.n3 < 262144 * (s.gang e.n2).smax)
  else if e.n1 = 3 then (Tab.find e.n2 s.gangs).isSome && decide (e.n3 < (s.gang e.n2).tiles) && decide (e.n4 < 32)
  else e.n1 == 4 && decide (e.n2 < 64) && decide (e.n3 < 10)

/-- STRIKE_REPORT: results in lag are discarded and performed again, which no program sees; each cluster counts it. A fault may
leave an uncorrectable error behind. -/
def onStrikeReport (e : Ev) (s : State) : Option State :=
  let cls := (distinct e.nums).filter fun c => decide (c < 64)
  if (cls = [] ∧ e.n1 = 0) ∨ !s.damages e then none
  else some ((cls.foldl (fun s c => s.updCluster c fun x => { x with strikes := x.strikes + 1 }) s).damage e)

/-- STRIKE_REPORT (16 R399). -/
def execStrikeReport (s : State) : Host.Outcome State Fault Refusal := event s onStrikeReport

/-- The LPDDR 5X device that stores an address: its die and its number on the die (15 R356). -/
def deviceOf (pa : Nat) : Nat × Nat := (bits pa 39 38, bits pa 10 8)

/-- An ECC correction: one entry counts those of a device in an hour (16 R400). -/
def State.countEcc (s : State) (part pa : Nat) : State :=
  let hour (t : Nat) : Nat := t / 3600000000000
  match s.record.find? fun e => bits (wordAt e.words 0) 19 16 == 4 && deviceOf (wordAt e.words 1) == deviceOf pa &&
      hour (wordAt e.words 6) == hour s.now with
  | some e => s.amendRecord e.seq (fun ws => ws.set 7 (w64 (wordAt ws 7 + 1))) true
  | none => s.recordFault 0 part 4 0 0 (w64 pa) 0 0 0 0 1 true

/-- A write-back of the sector is on its way to its home, which the scrub lets pass (17 R420). -/
def State.writingBack (s : State) (line : Nat) : Bool :=
  s.msgs.any fun m => m.line == line && m.data.isSome && (m.kind == .writeBack || m.kind == .recallReply)

/-- PATROL_SCRUB: a sector is read, unless a write-back of it is under way. ECC is checked first: a corrected sector is counted and
its data written again, an uncorrectable one is poisoned; then its tag, of what is found there. No mark is left on a sector of
which an L2 holds the data (16 R400, 17 R409, R410, R420). -/
def onPatrolScrub (e : Ev) (s : State) : Option State :=
  let pa := 64 * e.n0
  let part := (s.frameOwner pa).getD 0
  if s.populated ≤ pa ∨ s.writingBack e.n0 then none
  else if e.n1 = 1 then some ((s.countEcc part pa).countWrite e.n0)
  else if e.n1 = 2 then
    let marks := if s.stale e.n0 then s.marks else Tab.put e.n0 Mark.poison s.marks
    some ({ s with marks }.recordFault 0 part 5 0 0 (w64 pa) 0 0 0 0 0 true)
  else if e.n1 = 0 ∧ e.bytes ≠ [] then some (s.meetSector e.n0 part e.bytes)
  else none

/-- PATROL_SCRUB (16 R400). -/
def execPatrolScrub (s : State) : Host.Outcome State Fault Refusal := event s onPatrolScrub

end Sys2Proof.Machine
end

