-- ==== Sys2Proof/Machine/Messages.lean ====
section
/-! DEFINITION. Page walks and the coherence messages between dies and homes, one message at a time (15 R365, R369 to
R373). -/

namespace Sys2Proof.Machine

/-- PAGE_WALK: a walk for a core completes and fills its TLB, with the staging frame and access that the instance of the
table entry given reaches, or finds the address unmapped. -/
def onPageWalk (e : Ev) (s : State) : Option State :=
  let part := s.ownerOf (clusterOf e.n0)
  if 256 ≤ e.n0 ∨ (tlbHit ((s.core e.n0).tlb.filter (s.serves e.n2)) part (e.n1 % 2 ^ 56)).isSome then none
  else some (s.translate e.n0 part e.n2 (e.n1 % 2 ^ 56)).2

/-- PAGE_WALK (15 R365). -/
def execPageWalk (s : State) : Host.Outcome State Fault Refusal := event s onPageWalk

/-- Deliver a message of a kind for a line, if it is the oldest in flight in its direction between the die and the
home (15 R371). -/
def State.message (s : State) (k : MsgKind) (e : Ev) : Option State :=
  match takeMsg (fun m => m.home == e.n0 && m.die == e.n1 && m.kind.toDie == k.toDie) s.msgs with
  | some (m, rest) => if m.kind = k ∧ m.line = e.n2 then some ({ s with msgs := rest }.deliver m) else none
  | none => none

/-- The operands name a home, a die and a line of local memory. -/
def msgRange (e : Ev) : Bool := decide (e.n0 < 4) && decide (e.n1 < 4) && decide (e.n2 < 2 ^ 34)

/-- A die that may send a request for a line sends it for a partition, whose ways the line will take, and it is delivered if
nothing in flight precedes it. -/
def State.request (s : State) (k : MsgKind) (may : Option L2Line → Bool) (e : Ev) : Option State :=
  match s.message k e with
  | some t => some t
  | none =>
    let home := (s.trackHome e.n2) == e.n0
    if msgRange e && home && (Tab.find e.n2 (s.die e.n1).asked).isNone && may (s.l2Find e.n1 e.n2) then
      let t := s.ask { home := e.n0, nc := false, cpol := 0, ways := s.wayMask e.n3 e.n1 } e.n1 e.n2 k
      some ((t.message k e).getD t)
    else none

/-- The die holds no coherent copy. -/
def mayFill (x : Option L2Line) : Bool :=
  match x with
  | none => true
  | some l => l.st == .nc

/-- READ_SHARED: a home handles a ReadShared, which a die sends for a line it lacks. -/
def onReadShared (e : Ev) (s : State) : Option State := s.request .readShared mayFill e
/-- READ_SHARED (15 R372). -/
def execReadShared (s : State) : Host.Outcome State Fault Refusal := event s onReadShared

/-- READ_OWN: a home handles a ReadOwn, which a die sends for a line it lacks. -/
def onReadOwn (e : Ev) (s : State) : Option State := s.request .readOwn mayFill e
/-- READ_OWN (15 R372). -/
def execReadOwn (s : State) : Host.Outcome State Fault Refusal := event s onReadOwn

/-- UPGRADE: a home handles an Upgrade, which a die sends for a line it holds in S. -/
def onUpgrade (e : Ev) (s : State) : Option State :=
  s.request .upgrade (fun x => match x with | some l => l.st == .s | none => false) e
/-- UPGRADE (15 R372). -/
def execUpgrade (s : State) : Host.Outcome State Fault Refusal := event s onUpgrade

/-- WRITE_BACK: a home handles a WriteBack, which a die sends when it evicts a line it holds in M, E or S, to the home it
has the line from. -/
def onWriteBack (e : Ev) (s : State) : Option State :=
  match s.message .writeBack e with
  | some t => some t
  | none =>
    match s.l2Find e.n1 e.n2 with
    | none => none
    | some l =>
      if !msgRange e || l.home != e.n0 || l.st == .nc || (Tab.find e.n2 (s.die e.n1).asked).isSome then none
      else
        let t := (s.l2Del e.n1 e.n2).send
          { kind := .writeBack, home := e.n0, die := e.n1, line := e.n2, data := if l.st = .m then some l.bytes else none }
        some ((t.message .writeBack e).getD t)
/-- WRITE_BACK (15 R372). -/
def execWriteBack (s : State) : Host.Outcome State Fault Refusal := event s onWriteBack

/-- GRANT: a die receives a Grant. -/
def onGrant (e : Ev) (s : State) : Option State := s.message .grant e
/-- GRANT (15 R370). -/
def execGrant (s : State) : Host.Outcome State Fault Refusal := event s onGrant

/-- RECALL_S: an owner receives Recall.S. -/
def onRecallS (e : Ev) (s : State) : Option State := s.message .recallS e
/-- RECALL_S (15 R372). -/
def execRecallS (s : State) : Host.Outcome State Fault Refusal := event s onRecallS

/-- RECALL_I: an owner receives Recall.I. -/
def onRecallI (e : Ev) (s : State) : Option State := s.message .recallI e
/-- RECALL_I (15 R372). -/
def execRecallI (s : State) : Host.Outcome State Fault Refusal := event s onRecallI

/-- INVALIDATE: a sharer receives Invalidate. -/
def onInvalidate (e : Ev) (s : State) : Option State := s.message .invalidate e
/-- INVALIDATE (15 R372). -/
def execInvalidate (s : State) : Host.Outcome State Fault Refusal := event s onInvalidate

/-- RECALL_REPLY: a home receives the answer to a Recall. -/
def onRecallReply (e : Ev) (s : State) : Option State := s.message .recallReply e
/-- RECALL_REPLY (15 R370). -/
def execRecallReply (s : State) : Host.Outcome State Fault Refusal := event s onRecallReply

/-- INV_ACK: a home receives the answer to an Invalidate. -/
def onInvAck (e : Ev) (s : State) : Option State := s.message .invAck e
/-- INV_ACK (15 R370). -/
def execInvAck (s : State) : Host.Outcome State Fault Refusal := event s onInvAck

end Sys2Proof.Machine
end

