-- ==== Sys2Proof/Machine/Fabric.lean ====
section
/-! DEFINITION. The scale-up fabric and the host's link: release messages, remote accesses from and to other packages,
provisional data and its notices, host accesses, host rings, replays, retraining and ports (04 R115, 16 R398, 19 R442 to
R451). -/

namespace Sys2Proof.Machine

/-! Release messages (04 R115, 19 R450). -/

/-- Word 0 of a release message: the sender, the type (1 release, 2 acknowledgement), the sequence (19 R450). -/
def releaseWord (id kind seq : Nat) : DWord := w64 (id % 64 * 2 ^ 58 + kind % 4 * 2 ^ 56 + seq % 2 ^ 32)

/-- The release messages of this package that are not acknowledged: their destinations and their two words, the second of
which is zero (19 R450). -/
def State.releaseMsgs (s : State) : List (Nat × DWord × DWord) :=
  s.releases.map fun x => (x.1, releaseWord (bits s.fabid.toNat 5 0) 1 x.2.1, 0)

/-- RELEASE_MESSAGE: the two words of a release message; ING enters every IN and NCIN and is cleared, and the package
acknowledges with the sequence of the message. -/
def onReleaseMessage (e : Ev) (s : State) : Option State :=
  if bits e.n0 57 56 ≠ 1 ∨ e.n1 ≠ 0 then none
  else some { ({ s with ing := 0 }.noteHost s.ing) with
    fabricAck := some (bits e.n0 63 58, releaseWord (bits s.fabid.toNat 5 0) 2 (bits e.n0 31 0), 0) }
/-- RELEASE_MESSAGE (04 R115). -/
def execReleaseMessage (s : State) : Host.Outcome State Fault Refusal := event s onReleaseMessage

/-- Word 0 of an acknowledgement names an outstanding release message: its package and its sequence. -/
def acknowledges (w : Nat) (x : Nat × Nat × Nat) : Bool :=
  bits w 57 56 == 2 && x.1 == bits w 63 58 && x.2.1 % 2 ^ 32 == bits w 31 0

/-- RELEASE_ACK: the two words of the acknowledgement of a release message of this package. -/
def onReleaseAck (e : Ev) (s : State) : Option State :=
  if e.n1 = 0 ∧ s.releases.any (acknowledges e.n0) then some { s with releases := s.releases.filter fun x => !acknowledges e.n0 x } else none
/-- RELEASE_ACK (19 R450). -/
def execReleaseAck (s : State) : Host.Outcome State Fault Refusal := event s onReleaseAck

/-! What may leave the package (16 R398). -/

/-- How a local byte leaves toward an agent outside: not at all, or with the tag of a sealed version (pair, version). -/
inductive Egress where
  | blocked
  | final
  | provisional (pair version : Nat)
  deriving DecidableEq, Repr

/-- The version of a pair whose frame holds a local address: the current one or the one before it. -/
def State.versionAt (s : State) (pa : Nat) : Option (Nat × Nat) :=
  let k := pa / 2 ^ 22
  (Tab.find k s.pairs).map fun p =>
    let frame := pa / 2 ^ 21 % 2
    (k, if p.version % 2 = frame then p.version else p.version - 1)

/-- The egress guard's answer for a local byte read from outside the package. -/
def State.egress (s : State) (pa : Nat) : Egress :=
  match s.versionAt pa with
  | some (k, v) =>
    match (s.ver k v).st with
    | .released => .final
    | .sealed => .provisional k v
    | .opened | .void => .blocked
  | none =>
    match s.frameOwner pa with
    | some p => if (s.part p).strict then .blocked else .final
    | none => .final

/-- The frame belongs to a protected partition (17 R414). -/
def State.protectedFrame (s : State) (pa : Nat) : Bool :=
  match s.frameOwner pa with
  | some p => bitOf (s.part p).partcfg.toNat 7
  | none => false

/-! Accesses of other packages (19 R449, R451). -/

/-- The tags that an operand lists: pair and version of each. -/
def tagPairs : List Nat → List (Nat × Nat)
  | pair :: version :: rest => (pair, version) :: tagPairs rest
  | _ => []

/-- The tags of versions of another package. -/
def tagRefs (pkg : Nat) (ns : List Nat) : List VerRef := (tagPairs ns).map fun x => ⟨some pkg, x.1, x.2⟩

/-- What the egress guard says of local bytes read from outside. -/
def State.egressAll (s : State) (as : List Nat) : List Egress := as.map s.egress

/-- The tags of the sealed versions that bytes read from outside lie in (16 R398). -/
def State.egressTags (s : State) (as : List Nat) : List (Nat × Nat) :=
  let tags := as.filterMap fun a => match s.egress a with
    | .provisional k v => some (k, v)
    | _ => none
  tags.foldl (fun l x => if l.contains x then l else l ++ [x]) []

/-- Bytes of a released version that a test holds for are among those read: their final data wait behind its notice
(16 R384). -/
def State.finalWaits (s : State) (waits : Nat → Nat → Bool) (as : List Nat) : Bool :=
  as.any fun a => s.egress a == .final && ((s.versionAt a).map fun v => waits v.1 v.2).getD false

/-- A notice of the version to another package has not left. -/
def State.noticeHeld (s : State) (pair version : Nat) : Bool :=
  s.notices.any fun x => bits x.2.1.toNat 51 22 == pair && bits x.2.2.toNat 63 32 == version

/-- A notice of the version waits for the host to drain its partition's ring (19 R446). -/
def State.noticeQueued (s : State) (pair version : Nat) : Bool :=
  s.parts.any fun p => (p.2.rings.getD 1 {}).wait.any fun w =>
    bits w.1.toNat 51 22 == pair && bits w.2.toNat 63 32 == version

/-- The location of an arriving atomic before and after it: n3 is 32 times the operation plus the type, the data are its
operand and then the value to compare. -/
def arrivingAtomic (n3 : Nat) (data : List Byte) (old : Nat) : Nat × Nat :=
  let ty := n3 % 32
  let n := typeWidth ty / 8
  (n, atomNew (n3 / 32) ty old (leNat (data.take n)) (leNat ((data.drop n).take n)))

/-- The answer to another package: bytes that the egress guards let pass, with the tags of sealed versions, of which the
package is to have the notices; otherwise an error, which holds no byte (16 R398, 19 R449). -/
def State.answerFabric (s : State) (pkg : Nat) (as : List Nat) (bs : List Byte) : State :=
  if (s.egressAll as).contains .blocked ∨ as.any fun a => (s.blockMark a 1).isSome then { s with fabricRead := [], fabricTag := [] }
  else { s.lend [pkg] (s.egressTags as) with fabricRead := bs, fabricTag := s.egressTags as }

/-- REMOTE_ACCESS_ARRIVAL: another package's load, store or atomic is performed at this home package. An atomic whose old
value may not leave is not performed. -/
def onRemoteAccessArrival (e : Ev) (s : State) : Option State :=
  let pa := e.n2
  let n := if e.n1 = 0 then e.n3 else if e.n1 = 1 then e.bytes.length else typeWidth (e.n3 % 32) / 8
  let as := (List.range n).map (pa + ·)
  if n = 0 ∨ s.populated < pa + n ∨ 64 ≤ e.n0 then none
  else if e.n1 = 1 then
    let tags := (tagPairs e.nums).map fun x => (e.n0, x.1, x.2)
    let s := ((s.physWrite (as.zip e.bytes)).tagSectors tags as).awaitForeign (tagRefs e.n0 e.nums)
    some { s with ing := s.ing ||| sigOf as }
  else if 3 ≤ e.n1 ∨ s.finalWaits s.noticeHeld as then none
  else
    let (old, t) := s.physRead pa n
    let t := t.answerFabric e.n0 as old
    if e.n1 = 0 ∨ t.fabricRead = [] then some t
    else
      let (_, new) := arrivingAtomic e.n3 e.bytes (leNat old)
      let t := t.physWrite (as.zip (leBytes n new))
      some { t with ing := t.ing ||| sigOf as }
/-- REMOTE_ACCESS_ARRIVAL (04 R115). -/
def execRemoteAccessArrival (s : State) : Host.Outcome State Fault Refusal := event s onRemoteAccessArrival

/-- The remote access leaves the list of those without an answer. -/
def State.dropRemote (s : State) (id : Nat) : State := { s with remotes := s.remotes.filter (·.id != id) }

/-- An error has reached an engine operation. -/
def State.spoilOp (s : State) (op : Nat) : State := if s.opBad.contains op then s else { s with opBad := s.opBad ++ [op] }

/-- Remote bytes arrive for the instruction or the engine operation that waits for them; the answer to a write brings none. -/
def State.takeRemote (s : State) (q : Remote) (bs : List Byte) (bad : Bool) : State :=
  let num := (List.range q.len).map fun i => (i, bs.getD i 0)
  if q.kind = 1 then (match q.op with | some op => if bad then s.spoilOp op else s | none => s) else
  match q.op, q.stream with
  | some op, _ =>
    let s := { s with opData := Tab.put op (num.foldl (fun t x => Tab.put (q.pa + x.1) x.2 t) (Tab.get [] s.opData op)) s.opData }
    if bad then s.spoilOp op else s
  | none, some r =>
    if (Tab.find r s.streams).isNone then s
    else s.updStream r fun t => { t with
      dataWait := none, drowsy := false,
      rdata := num.foldl (fun d x => Tab.put (remoteKey q.lane (q.pa + x.1)) x.2 d) t.rdata,
      rpoison := if bad then t.rpoison ++ [remoteKey q.lane q.pa] else t.rpoison }
  | none, none => s

/-- The node instance whose instruction or engine operation a remote access serves. -/
def State.remoteNode (s : State) (q : Remote) : Option Nat :=
  match q.stream with
  | some r => some (s.nodeNum r)
  | none =>
    let cl := s.cluster (clusterOf q.core)
    let rs := (s.streams.filter fun p => p.2.copyQ.any fun c => c.op.isSome && c.op == q.op).map Prod.fst ++
      (cl.copies.filter fun c => some c.id == q.op).map (·.stream) ++
      (cl.table.filter fun x => some x.id == q.op).map (·.stream) ++ (s.colls.filter fun c => some c.id == q.op).map (·.stream)
    rs.head?.map s.nodeNum

/-- A remote access has been answered or given up: it leaves the list, and the release messages that waited for a write or an
atomic go out (04 R113, R115). -/
def State.closeRemote (s : State) (q : Remote) : State :=
  let s := s.dropRemote q.id
  if q.kind = 0 then s else s.acknowledged q.core q.id

/-- A remote access is given up: a load or an atomic completes poisoned, a copy meets its error, any other store is discarded and
logged (19 R449). -/
def State.giveUp (s : State) (q : Remote) : State :=
  let s := s.closeRemote q
  if q.kind = 1 ∧ q.op.isNone then s.recordFault 0 (s.ownerOf (clusterOf q.core)) 3 0 0 (w64 q.pa) 0 0 0 0 0 true
  else s.takeRemote q [] true

/-- REMOTE_RESPONSE: an answer arrives; its tags enter the reading instance's node record, and their notices are awaited. One
that comes after its 1 ms is none. -/
def onRemoteResponse (e : Ev) (s : State) : Option State :=
  match s.remotes.find? fun q => q.id == e.n0 with
  | none => none
  | some q =>
    if q.deadline ≤ s.now then some (s.giveUp q)
    else
      let t := (s.closeRemote q).takeRemote q e.bytes (e.n1 == 1)
      match s.remoteNode q with
      | some n => some ((tagRefs q.pkg e.nums).foldl (fun t v => t.enterRead n v) (t.awaitForeign (tagRefs q.pkg e.nums)))
      | none => some t
/-- REMOTE_RESPONSE (19 R451). -/
def execRemoteResponse (s : State) : Host.Outcome State Fault Refusal := event s onRemoteResponse

/-- REMOTE_ACCESS_TIMEOUT: with an empty route, or with no answer within 1 ms, an access is given up. -/
def onRemoteAccessTimeout (e : Ev) (s : State) : Option State :=
  match s.remotes.find? fun q => q.id == e.n0 with
  | none => none
  | some q => if s.now < q.deadline ∧ Tab.get 0 s.routes q.pkg ≠ 0 then none else some (s.giveUp q)
/-- REMOTE_ACCESS_TIMEOUT (19 R449). -/
def execRemoteAccessTimeout (s : State) : Host.Outcome State Fault Refusal := event s onRemoteAccessTimeout

/-! Notices of other packages' versions (19 R451). -/

/-- A mark without a tag: nothing is left of one that had no other. -/
def Mark.without (tag : Nat × Nat × Nat) : Mark → Option Mark
  | .provisional tags =>
    let rest := tags.filter (· != tag)
    if rest = [] then none else some (.provisional rest)
  | m => some m

/-- The mark names a tag. -/
def Mark.names (tag : Nat × Nat × Nat) : Mark → Bool
  | .provisional tags => tags.contains tag
  | _ => false

/-- The notice of a tag has come: its wait ends, and its sectors lose it or, of a void version, are poisoned and logged
(19 R451). -/
def State.endForeign (s : State) (pkg pair version : Nat) (poison : Bool) : State :=
  let tag := (pkg, pair, version)
  let hit := (s.marks.filter fun m => m.2.names tag).map Prod.fst
  let s := { s with
    marks := if poison then hit.foldl (fun t k => Tab.put k Mark.poison t) s.marks
      else s.marks.filterMap fun m => (m.2.without tag).map fun x => (m.1, x),
    foreign := s.foreign.filter fun f => !(f.1 == pkg && f.2.1 == pair && f.2.2.1 == version) }
  if poison then
    hit.foldl (fun s k => s.recordFault 0 ((s.frameOwner (64 * k)).getD 0) 3 0 0 (w64 (64 * k)) 0 0 0 0 0 true) s
  else s

/-- The partition of an instance, at the hub or past. -/
def State.partOfUid (s : State) (x : Node) : Nat :=
  match s.keyOfUid x.uid, x.versions with
  | some n, _ => partOfNode n
  | none, v :: _ => (s.pair v.2.1).part
  | none, [] => ((s.parts.find? fun p => p.2.latest.any fun y => y.2 == x.uid).map Prod.fst).getD 0

/-- Instances whose record holds the tag are doomed, and this package runs them again (16 R392, 19 R451). -/
def State.doomForeign (s : State) (v : VerRef) : State :=
  let hit := (s.instances.filter fun x => !x.doomed && x.record.contains v).map fun x => (s.partOfUid x, x)
  (List.range 16).foldl (fun s p =>
    match (hit.filter fun x => x.1 == p).map Prod.snd with
    | [] => s
    | xs => s.doomAll true 0 p xs) s

/-- A foreign version is void, or its notice never came. -/
def State.voidForeign (s : State) (pkg pair version : Nat) : State :=
  let tag := (pkg, pair, version)
  let s := { s with foreignVoid := if s.foreignVoid.contains tag then s.foreignVoid else s.foreignVoid ++ [tag] }
  (s.endForeign pkg pair version true).doomForeign ⟨some pkg, pair, version⟩

/-- NOTICE_ARRIVAL: a notice of another package: its two words. -/
def onNoticeArrival (e : Ev) (s : State) : Option State :=
  let pkg := bits e.n0 63 58
  let pair := bits e.n0 51 22
  let version := bits e.n1 63 32
  if bits e.n1 31 28 = 2 then some (s.endForeign pkg pair version false)
  else if bits e.n1 31 28 = 3 then some (s.voidForeign pkg pair version)
  else none
/-- NOTICE_ARRIVAL (19 R451). -/
def execNoticeArrival (s : State) : Host.Outcome State Fault Refusal := event s onNoticeArrival

/-- PROVISIONAL_TIMEOUT: no notice of a tag came within 100 ms: package, pair, version. -/
def onProvisionalTimeout (e : Ev) (s : State) : Option State :=
  if s.foreign.any fun f => f.1 == e.n0 && f.2.1 == e.n1 && f.2.2.1 == e.n2 && decide (f.2.2.2 ≤ s.now) then
    some (s.voidForeign e.n0 e.n1 e.n2)
  else none
/-- PROVISIONAL_TIMEOUT (19 R451). -/
def execProvisionalTimeout (s : State) : Host.Outcome State Fault Refusal := event s onProvisionalTimeout

/-! Host accesses through BAR2 (19 R444, R445). -/

/-- The link carries traffic. -/
def State.linkUp (s : State) : Bool := !s.linkDown && !s.retraining

/-- The local address of a BAR2 offset. -/
def State.aperture (s : State) (off : Nat) : Nat := bits s.aperbase.toNat 3 0 * 2 ^ 36 + off % 2 ^ 36

/-- HOST_WRITE: bytes from an offset of BAR2; those beyond populated memory or in a refused frame are discarded. -/
def onHostWrite (e : Ev) (s : State) : Option State :=
  if !s.ready ∨ !s.linkUp then none
  else
    let all := (List.range e.bytes.length).map fun i => (s.aperture (e.n0 + i), e.bytes.getD i 0)
    let ws := all.filter fun w => decide (w.1 < s.populated) && !s.protectedFrame w.1
    if ws = [] then none
    else
      let s := (s.noteHost (sigOf (ws.map Prod.fst))).physWrite ws
      some { s with linkReplays := 0 }
/-- HOST_WRITE (19 R444). -/
def execHostWrite (s : State) : Host.Outcome State Fault Refusal := event s onHostWrite

/-- One byte as a host read gets it: all ones where it may not leave. -/
def State.hostByte (s : State) (a : Nat) : Byte × State :=
  if s.populated ≤ a ∨ s.protectedFrame a ∨ s.egress a = .blocked then (b8 255, s)
  else
    let (bs, s) := s.physRead a 1
    (bs.getD 0 0, s)

/-- HOST_READ: n bytes from an offset of BAR2, with the tags of the sealed versions they lie in; a released version's wait
behind its notice (16 R384, R398). -/
def onHostRead (e : Ev) (s : State) : Option State :=
  let as := ((List.range e.n1).map fun i => s.aperture (e.n0 + i)).filter fun a =>
    decide (a < s.populated) && !s.protectedFrame a
  if !s.ready ∨ !s.linkUp ∨ e.n1 = 0 ∨ s.finalWaits s.noticeQueued as then none
  else
    let (bs, t) := (List.range e.n1).foldl (fun (acc : List Byte × State) i =>
      let (b, s) := acc.2.hostByte (acc.2.aperture (e.n0 + i))
      (acc.1 ++ [b], s)) ([], s)
    some { t with hostRead := bs, hostTag := s.egressTags as, linkReplays := 0 }
/-- HOST_READ (19 R444). -/
def execHostRead (s : State) : Host.Outcome State Fault Refusal := event s onHostRead

/-! Host rings (19 R446). -/

/-- RING_ENTRY_WRITE: the oldest waiting entry of a ring of a partition goes to host memory and TAIL advances; posts that
waited for room among the records go on. -/
def onRingEntryWrite (e : Ev) (s : State) : Option State :=
  let p := s.part e.n0
  let r := p.rings.getD e.n1 {}
  let size := bits r.cfg.toNat 4 0
  match r.wait with
  | [] => none
  | (w0, w1) :: rest =>
    if 3 ≤ e.n1 ∨ !s.linkUp ∨ !bitOf r.cfg.toNat 31 ∨ size < 6 ∨ 16 < size ∨ 2 ^ size ≤ (r.tail - r.head).toNat then none
    else
      let base := r.lo.toNat + bits r.hi.toNat 13 0 * 2 ^ 32
      let at_ := base + 16 * (r.tail.toNat % 2 ^ size)
      let r := { r with tail := r.tail + 1, wait := rest, irqs := r.irqs + (bitOf r.cfg.toNat 30).toNat }
      let put (i : Nat) : Ring := if i = e.n1 then r else p.rings.getD i {}
      let s := s.setPart e.n0 { p with rings := [put 0, put 1, put 2] }
      some ({ s with
        hostMem := wrBytes s.hostMem at_ (leBytes 8 w0.toNat ++ leBytes 8 w1.toNat), linkReplays := 0 }.admitPosts e.n0)
/-- RING_ENTRY_WRITE (19 R446). -/
def execRingEntryWrite (s : State) : Host.Outcome State Fault Refusal := event s onRingEntryWrite

/-! The link itself and the ports (19 R442, R446). -/

/-- FLIT_REPLAY: a flit is replayed; the eighth consecutive replay retrains the link. -/
def onFlitReplay (_e : Ev) (s : State) : Option State :=
  if !s.linkUp then none
  else if s.linkReplays + 1 = 8 then some { s with linkReplays := 0, retraining := true }
  else some { s with linkReplays := s.linkReplays + 1 }
/-- FLIT_REPLAY (19 R442). -/
def execFlitReplay (s : State) : Host.Outcome State Fault Refusal := event s onFlitReplay

/-- LINK_RETRAIN_DONE: retraining succeeds (1) or fails (0); a third failure within one second takes the link down. -/
def onLinkRetrainDone (e : Ev) (s : State) : Option State :=
  if !s.retraining then none
  else if e.n0 = 1 then some { s with retraining := false }
  else
    let fails := (s.linkFails.filter fun t => decide (s.now < t + 1000000000)) ++ [s.now]
    if 3 ≤ fails.length then some { s with linkFails := fails, retraining := false, linkDown := true }
    else some { s with linkFails := fails }
/-- LINK_RETRAIN_DONE (19 R442). -/
def execLinkRetrainDone (s : State) : Host.Outcome State Fault Refusal := event s onLinkRetrainDone

/-- FABRIC_PORT_DOWN: a port goes down and the partition's event ring says so. -/
def onFabricPortDown (e : Ev) (s : State) : Option State :=
  if 16 ≤ e.n0 ∨ 64 ≤ e.n1 then none
  else
    let s := { s with portsDown := if s.portsDown.contains e.n1 then s.portsDown else s.portsDown ++ [e.n1] }
    some (s.postEvent e.n0 3 e.n1)
/-- FABRIC_PORT_DOWN (19 R446). -/
def execFabricPortDown (s : State) : Host.Outcome State Fault Refusal := event s onFabricPortDown

end Sys2Proof.Machine
end

