-- ==== Sys2Proof/Machine/Integer.lean ====
section
/-! DEFINITION. Integer and address instructions: vector, immediate and U-forms (06 R167 to R179). -/

namespace Sys2Proof.Machine

/-- The operation of an element: type, saturation, a, b, old destination. -/
abbrev ElemOp := Nat → Bool → Nat → Nat → Nat → Nat

/-- The value of an operation over the packed elements of its operands: a, then b if there is one, then the old
destination if it is read. -/
def elementwise (ty : Nat) (sat hasB : Bool) (f : ElemOp) (xs : List Nat) : Nat :=
  let w := typeWidth ty
  let b := if hasB then xs.getD 1 0 else 0
  let old := xs.getD (if hasB then 2 else 1) 0
  packed w fun k => f ty sat (subElem w (xs.getD 0 0) k) (subElem w b k) (subElem w old k)

/-- A vector integer instruction (06 R167). -/
def State.intOp (s : State) (r : Nat) (ok : Nat → Bool) (m nw : Bool) (d : BitVec 6) (a : BitVec 7)
    (b : Option (BitVec 7)) (old : Bool) (f : ElemOp) : Except Stop State := do
  let ty ← s.typeIn r m ok
  let wide := typeWidth ty == 64
  let srcs : List Want := { f := a.toNat, wide } :: (match b with | some b => [{ f := b.toNat, wide }] | none => [])
  let sat := modeSAT ((s.stream r).mode m)
  s.alu r .control m { n := d.toNat, wide, nw } old srcs (elementwise ty sat b.isSome f)

/-- Its U-form (06 R178). -/
def State.intOpU (s : State) (r : Nat) (ok : Nat → Bool) (m : Bool) (d : BitVec 6) (a : BitVec 7)
    (b : Option (BitVec 7)) (old : Bool) (f : ElemOp) : Except Stop State := do
  let ty ← s.typeIn r m ok
  let wide := typeWidth ty == 64
  let srcs : List Want := { f := a.toNat, wide } :: (match b with | some b => [{ f := b.toNat, wide }] | none => [])
  let sat := modeSAT ((s.stream r).mode m)
  s.aluU r .control d.toNat wide old 0 srcs (elementwise ty sat b.isSome f)

/-- Every type. -/
def anyType (_ : Nat) : Bool := true
/-- s32, n32, s64 and n64. -/
def wordType (t : Nat) : Bool := t == 3 || t == 4 || t == 8 || t == 9
/-- s32 and n32. -/
def carryType (t : Nat) : Bool := t == 3 || t == 8
/-- Every type but the 64-bit ones. -/
def notWide (t : Nat) : Bool := typeWidth t != 64
/-- s8 and n8. -/
def byteType (t : Nat) : Bool := t == 1 || t == 6

/-! The operations of an element. -/

def opArith (op : ArithOp) : ElemOp := fun ty sat a b _ => arith op ty sat a (intVal ty b)
def opMulh : ElemOp := fun ty _ a b _ => mulHigh ty a b
def opMad : ElemOp := fun ty sat a b o => narrow ty sat (intVal ty a * intVal ty b + intVal ty o)
def opAbs : ElemOp := fun ty sat a _ _ => narrow ty sat ((intVal ty a).natAbs : Int)
def opNeg : ElemOp := fun ty sat a _ _ => narrow ty sat (-(intVal ty a))
def opSad : ElemOp := fun ty sat a b o => narrow ty sat (((intVal ty a - intVal ty b).natAbs : Int) + intVal ty o)
def opLogic (op : LogicOp) : ElemOp := fun ty _ a b _ => logic op (typeWidth ty) a b
def opShift (op : ShiftOp) : ElemOp := fun ty _ a b _ => shift op (typeWidth ty) a b
def opFshl : ElemOp := fun ty _ a b o => funnel (typeWidth ty) a b o
def opBfe : ElemOp := fun ty _ a b _ => extract ty a (bits b 7 0) (bits b 15 8)
def opBfi : ElemOp := fun ty _ a b o => insertField (typeWidth ty) a o (bits b 7 0) (bits b 15 8)
def opPopc : ElemOp := fun ty _ a _ _ => popCount (typeWidth ty) a
def opClz : ElemOp := fun ty _ a _ _ => leadZeros (typeWidth ty) a
def opCtz : ElemOp := fun ty _ a _ _ => trailZeros (typeWidth ty) a
def opBrev : ElemOp := fun ty _ a _ _ => reverseBits (typeWidth ty) a
def opCopy : ElemOp := fun _ _ a _ _ => a

/-! The operations of an element with an immediate (06 R177). -/

def immArith (op : ArithOp) (imm : BitVec 7) : ElemOp := fun ty sat a _ _ => arith op ty sat a (signed 7 imm.toNat)
def immLogic (op : LogicOp) (imm : BitVec 7) : ElemOp :=
  fun ty _ a _ _ => logic op (typeWidth ty) a (wrap (typeWidth ty) (signed 7 imm.toNat))
def immShift (op : ShiftOp) (imm : BitVec 7) : ElemOp := fun ty _ a _ _ => shift op (typeWidth ty) a imm.toNat
def immBfe (imm : BitVec 7) : ElemOp :=
  fun ty _ a _ _ => extract ty a (8 * bits imm.toNat 5 3) (8 * (bits imm.toNat 2 0 + 1))

/-! Instructions that are not elementwise. -/

/-- IADDC and ISUBB: the result, with p6 as carry in and out in the Active() lanes (06 R169). -/
def State.carryOp (s : State) (r : Nat) (f : Nat → Nat → Nat → Nat × Bool) (m nw : Bool) (d : BitVec 6) (a b : BitVec 7) :
    Except Stop State := do
  let _ ← s.typeIn r m carryType
  let t := s.stream r
  let mask := t.active m
  let dst : Dst := { n := d.toNat, nw }
  let p ← s.peek r mask [{ f := a.toNat }, { f := b.toNat }] (some dst)
  let c := t.preg 6
  let out (i : Nat) : Nat × Bool := f (p.val 0 i) (p.val 1 i) (inMask c.v i).toNat
  let l := Label.join c.l (t.guardLabel m)
  let s' ← p.write r dst mask fun i => ((out i).1, Label.join (p.label i) l)
  let lp := (lanesOf mask).foldl (fun x i => Label.join x (p.label i)) l
  return (s'.updStream r fun t => t.putP 6 mask (maskWhere fun i => (out i).2) lp).complete r .control p.regs 0

/-- Their U-forms: lane 0 of p6 is read, and every lane of it written (06 R178). -/
def State.carryOpU (s : State) (r : Nat) (f : Nat → Nat → Nat → Nat × Bool) (m : Bool) (d : BitVec 6) (a b : BitVec 7) :
    Except Stop State := do
  let _ ← s.typeIn r m carryType
  need s r 3 (decide (d.toNat < 32))
  let p ← s.peek r 0 [{ f := a.toNat, allow := .uni }, { f := b.toNat, allow := .uni }] none
  let c := (s.stream r).preg 6
  let out := f (p.val 0 0) (p.val 1 0) (inMask c.v 0).toNat
  let l := Label.join (p.label 0) c.l
  return (s.updStream r fun t =>
    (t.putC d.toNat false out.1 l).putP 6 0xFFFFFFFF (if out.2 then 0xFFFFFFFF else 0) l).complete r .control p.regs 0

/-- BPERM acts on 32-bit registers under any type but a 64-bit one (06 R172). -/
def State.permOp (s : State) (r : Nat) (m nw : Bool) (d : BitVec 6) (a b : BitVec 7) : Except Stop State := do
  let _ ← s.typeIn r m notWide
  s.alu r .control m { n := d.toNat, nw } false [{ f := a.toNat }, { f := b.toNat }]
    fun xs => permute (xs.getD 0 0) (xs.getD 1 0)

/-- LEA: base pair and index, or an immediate index (06 R173, R177). -/
def State.leaOp (s : State) (r : Nat) (m nw : Bool) (d : BitVec 6) (a : BitVec 7) (b : Option (BitVec 7)) (imm : Int) :
    Except Stop State := do
  let ty ← s.typeIn r m anyType
  let srcs : List Want := { f := a.toNat, wide := true } :: (match b with | some b => [{ f := b.toNat }] | none => [])
  let index (xs : List Nat) : Int := if b.isSome then signed 32 (xs.getD 1 0) else imm
  s.alu r .control m { n := d.toNat, wide := true, nw } false srcs
    fun xs => address (typeWidth ty) (xs.getD 0 0) (index xs)

/-- The U-form of LEA, on even uniform pairs (06 R178). -/
def State.leaOpU (s : State) (r : Nat) (m : Bool) (d : BitVec 6) (a : BitVec 7) (b : Option (BitVec 7)) (imm : Int) :
    Except Stop State := do
  let ty ← s.typeIn r m anyType
  let srcs : List Want := { f := a.toNat, wide := true } :: (match b with | some b => [{ f := b.toNat }] | none => [])
  let index (xs : List Nat) : Int := if b.isSome then signed 32 (xs.getD 1 0) else imm
  s.aluU r .control d.toNat true false 0 srcs fun xs => address (typeWidth ty) (xs.getD 0 0) (index xs)

/-- SEL in every lane of EM: a where the guard bit is 1, b elsewhere (06 R175). -/
def State.selOp (s : State) (r : Nat) (m nw : Bool) (d : BitVec 6) (a b : BitVec 7) : Except Stop State := do
  let ty ← s.typeIn r m anyType
  let wide := typeWidth ty == 64
  let t := s.stream r
  let g := t.guardBits m
  s.aluMask r .control t.em (t.guardLabel m) { n := d.toNat, wide, nw } [{ f := a.toNat, wide }, { f := b.toNat, wide }]
    false fun i xs _ => (if inMask g i then xs.getD 0 0 else xs.getD 1 0, 0)

/-- The U-form of SEL (06 R178). -/
def State.selOpU (s : State) (r : Nat) (m : Bool) (d : BitVec 6) (a b : BitVec 7) : Except Stop State := do
  let ty ← s.typeIn r m anyType
  let wide := typeWidth ty == 64
  let t := s.stream r
  let pick := (t.guardBits m &&& t.em) != 0
  s.aluU r .control d.toNat wide false (t.guardLabel m) [{ f := a.toNat, wide }, { f := b.toNat, wide }]
    fun xs => if pick then xs.getD 0 0 else xs.getD 1 0

/-- IDOT4 (06 R176). -/
def State.dotOp (s : State) (r : Nat) (m nw : Bool) (d : BitVec 6) (a b : BitVec 7) : Except Stop State := do
  let ty ← s.typeIn r m byteType
  let sat := modeSAT ((s.stream r).mode m)
  s.alu r .control m { n := d.toNat, nw } true [{ f := a.toNat }, { f := b.toNat }]
    fun xs => dot4 ty sat (xs.getD 0 0) (xs.getD 1 0) (xs.getD 2 0)

/-- The U-form of IDOT4 (06 R178). -/
def State.dotOpU (s : State) (r : Nat) (m : Bool) (d : BitVec 6) (a b : BitVec 7) : Except Stop State := do
  let ty ← s.typeIn r m byteType
  let sat := modeSAT ((s.stream r).mode m)
  s.aluU r .control d.toNat false true 0 [{ f := a.toNat }, { f := b.toNat }]
    fun xs => dot4 ty sat (xs.getD 0 0) (xs.getD 1 0) (xs.getD 2 0)

/-! The instructions. -/

/-- IADD (06 R168). -/
def execIadd (nw : Bool) (d : BitVec 6) (a b : BitVec 7) (m : Bool) (s : State) : Host.Outcome State Fault Refusal :=
  run s fun r => s.intOp r isInt m nw d a (some b) false (opArith .add)

/-- ISUB (06 R168). -/
def execIsub (nw : Bool) (d : BitVec 6) (a b : BitVec 7) (m : Bool) (s : State) : Host.Outcome State Fault Refusal :=
  run s fun r => s.intOp r isInt m nw d a (some b) false (opArith .sub)

/-- IMUL (06 R168). -/
def execImul (nw : Bool) (d : BitVec 6) (a b : BitVec 7) (m : Bool) (s : State) : Host.Outcome State Fault Refusal :=
  run s fun r => s.intOp r isInt m nw d a (some b) false (opArith .mul)

/-- IMULH (06 R168). -/
def execImulh (nw : Bool) (d : BitVec 6) (a b : BitVec 7) (m : Bool) (s : State) : Host.Outcome State Fault Refusal :=
  run s fun r => s.intOp r isInt m nw d a (some b) false opMulh

/-- IMAD (06 R168). -/
def execImad (nw : Bool) (d : BitVec 6) (a b : BitVec 7) (m : Bool) (s : State) : Host.Outcome State Fault Refusal :=
  run s fun r => s.intOp r isInt m nw d a (some b) true opMad

/-- IABS (06 R168). -/
def execIabs (nw : Bool) (d : BitVec 6) (a : BitVec 7) (m : Bool) (s : State) : Host.Outcome State Fault Refusal :=
  run s fun r => s.intOp r isInt m nw d a none false opAbs

/-- INEG (06 R168). -/
def execIneg (nw : Bool) (d : BitVec 6) (a : BitVec 7) (m : Bool) (s : State) : Host.Outcome State Fault Refusal :=
  run s fun r => s.intOp r isInt m nw d a none false opNeg

/-- IMIN (06 R168). -/
def execImin (nw : Bool) (d : BitVec 6) (a b : BitVec 7) (m : Bool) (s : State) : Host.Outcome State Fault Refusal :=
  run s fun r => s.intOp r isInt m nw d a (some b) false (opArith .min)

/-- IMAX (06 R168). -/
def execImax (nw : Bool) (d : BitVec 6) (a b : BitVec 7) (m : Bool) (s : State) : Host.Outcome State Fault Refusal :=
  run s fun r => s.intOp r isInt m nw d a (some b) false (opArith .max)

/-- ISAD (06 R168). -/
def execIsad (nw : Bool) (d : BitVec 6) (a b : BitVec 7) (m : Bool) (s : State) : Host.Outcome State Fault Refusal :=
  run s fun r => s.intOp r isInt m nw d a (some b) true opSad

/-- AND (06 R168). -/
def execAnd (nw : Bool) (d : BitVec 6) (a b : BitVec 7) (m : Bool) (s : State) : Host.Outcome State Fault Refusal :=
  run s fun r => s.intOp r anyType m nw d a (some b) false (opLogic .and)

/-- OR (06 R168). -/
def execOr (nw : Bool) (d : BitVec 6) (a b : BitVec 7) (m : Bool) (s : State) : Host.Outcome State Fault Refusal :=
  run s fun r => s.intOp r anyType m nw d a (some b) false (opLogic .or)

/-- XOR (06 R168). -/
def execXor (nw : Bool) (d : BitVec 6) (a b : BitVec 7) (m : Bool) (s : State) : Host.Outcome State Fault Refusal :=
  run s fun r => s.intOp r anyType m nw d a (some b) false (opLogic .xor)

/-- ANDN (06 R168). -/
def execAndn (nw : Bool) (d : BitVec 6) (a b : BitVec 7) (m : Bool) (s : State) : Host.Outcome State Fault Refusal :=
  run s fun r => s.intOp r anyType m nw d a (some b) false (opLogic .andn)

/-- SHL (06 R170). -/
def execShl (nw : Bool) (d : BitVec 6) (a b : BitVec 7) (m : Bool) (s : State) : Host.Outcome State Fault Refusal :=
  run s fun r => s.intOp r anyType m nw d a (some b) false (opShift .shl)

/-- SHR (06 R170). -/
def execShr (nw : Bool) (d : BitVec 6) (a b : BitVec 7) (m : Bool) (s : State) : Host.Outcome State Fault Refusal :=
  run s fun r => s.intOp r anyType m nw d a (some b) false (opShift .shr)

/-- SAR (06 R170). -/
def execSar (nw : Bool) (d : BitVec 6) (a b : BitVec 7) (m : Bool) (s : State) : Host.Outcome State Fault Refusal :=
  run s fun r => s.intOp r anyType m nw d a (some b) false (opShift .sar)

/-- ROT (06 R170). -/
def execRot (nw : Bool) (d : BitVec 6) (a b : BitVec 7) (m : Bool) (s : State) : Host.Outcome State Fault Refusal :=
  run s fun r => s.intOp r anyType m nw d a (some b) false (opShift .rot)

/-- FSHL (06 R170). -/
def execFshl (nw : Bool) (d : BitVec 6) (a b : BitVec 7) (m : Bool) (s : State) : Host.Outcome State Fault Refusal :=
  run s fun r => s.intOp r wordType m nw d a (some b) true opFshl

/-- BFE (06 R171). -/
def execBfe (nw : Bool) (d : BitVec 6) (a b : BitVec 7) (m : Bool) (s : State) : Host.Outcome State Fault Refusal :=
  run s fun r => s.intOp r wordType m nw d a (some b) false opBfe

/-- BFI (06 R171). -/
def execBfi (nw : Bool) (d : BitVec 6) (a b : BitVec 7) (m : Bool) (s : State) : Host.Outcome State Fault Refusal :=
  run s fun r => s.intOp r wordType m nw d a (some b) true opBfi

/-- POPC (06 R168). -/
def execPopc (nw : Bool) (d : BitVec 6) (a : BitVec 7) (m : Bool) (s : State) : Host.Outcome State Fault Refusal :=
  run s fun r => s.intOp r isInt m nw d a none false opPopc

/-- CLZ (06 R168). -/
def execClz (nw : Bool) (d : BitVec 6) (a : BitVec 7) (m : Bool) (s : State) : Host.Outcome State Fault Refusal :=
  run s fun r => s.intOp r isInt m nw d a none false opClz

/-- CTZ (06 R168). -/
def execCtz (nw : Bool) (d : BitVec 6) (a : BitVec 7) (m : Bool) (s : State) : Host.Outcome State Fault Refusal :=
  run s fun r => s.intOp r isInt m nw d a none false opCtz

/-- BREV (06 R168). -/
def execBrev (nw : Bool) (d : BitVec 6) (a : BitVec 7) (m : Bool) (s : State) : Host.Outcome State Fault Refusal :=
  run s fun r => s.intOp r isInt m nw d a none false opBrev

/-- MOV (06 R175). -/
def execMov (nw : Bool) (d : BitVec 6) (a : BitVec 7) (m : Bool) (s : State) : Host.Outcome State Fault Refusal :=
  run s fun r => s.intOp r anyType m nw d a none false opCopy

/-- IADDC (06 R169). -/
def execIaddc (nw : Bool) (d : BitVec 6) (a b : BitVec 7) (m : Bool) (s : State) : Host.Outcome State Fault Refusal :=
  run s fun r => s.carryOp r addCarry m nw d a b

/-- ISUBB (06 R169). -/
def execIsubb (nw : Bool) (d : BitVec 6) (a b : BitVec 7) (m : Bool) (s : State) : Host.Outcome State Fault Refusal :=
  run s fun r => s.carryOp r subBorrow m nw d a b

/-- BPERM (06 R172). -/
def execBperm (nw : Bool) (d : BitVec 6) (a b : BitVec 7) (m : Bool) (s : State) : Host.Outcome State Fault Refusal :=
  run s fun r => s.permOp r m nw d a b

/-- LEA (06 R173). -/
def execLea (nw : Bool) (d : BitVec 6) (a b : BitVec 7) (m : Bool) (s : State) : Host.Outcome State Fault Refusal :=
  run s fun r => s.leaOp r m nw d a (some b) 0

/-- SEL (06 R175). -/
def execSel (nw : Bool) (d : BitVec 6) (a b : BitVec 7) (m : Bool) (s : State) : Host.Outcome State Fault Refusal :=
  run s fun r => s.selOp r m nw d a b

/-- IDOT4 (06 R176). -/
def execIdot4 (nw : Bool) (d : BitVec 6) (a b : BitVec 7) (m : Bool) (s : State) : Host.Outcome State Fault Refusal :=
  run s fun r => s.dotOp r m nw d a b

/-- IADD, immediate form (06 R177). -/
def execIaddImm (nw : Bool) (d : BitVec 6) (a imm : BitVec 7) (m : Bool) (s : State) : Host.Outcome State Fault Refusal :=
  run s fun r => s.intOp r isInt m nw d a none false (immArith .add imm)

/-- IMUL, immediate form (06 R177). -/
def execImulImm (nw : Bool) (d : BitVec 6) (a imm : BitVec 7) (m : Bool) (s : State) : Host.Outcome State Fault Refusal :=
  run s fun r => s.intOp r isInt m nw d a none false (immArith .mul imm)

/-- IMIN, immediate form (06 R177). -/
def execIminImm (nw : Bool) (d : BitVec 6) (a imm : BitVec 7) (m : Bool) (s : State) : Host.Outcome State Fault Refusal :=
  run s fun r => s.intOp r isInt m nw d a none false (immArith .min imm)

/-- IMAX, immediate form (06 R177). -/
def execImaxImm (nw : Bool) (d : BitVec 6) (a imm : BitVec 7) (m : Bool) (s : State) : Host.Outcome State Fault Refusal :=
  run s fun r => s.intOp r isInt m nw d a none false (immArith .max imm)

/-- AND, immediate form (06 R177). -/
def execAndImm (nw : Bool) (d : BitVec 6) (a imm : BitVec 7) (m : Bool) (s : State) : Host.Outcome State Fault Refusal :=
  run s fun r => s.intOp r anyType m nw d a none false (immLogic .and imm)

/-- OR, immediate form (06 R177). -/
def execOrImm (nw : Bool) (d : BitVec 6) (a imm : BitVec 7) (m : Bool) (s : State) : Host.Outcome State Fault Refusal :=
  run s fun r => s.intOp r anyType m nw d a none false (immLogic .or imm)

/-- XOR, immediate form (06 R177). -/
def execXorImm (nw : Bool) (d : BitVec 6) (a imm : BitVec 7) (m : Bool) (s : State) : Host.Outcome State Fault Refusal :=
  run s fun r => s.intOp r anyType m nw d a none false (immLogic .xor imm)

/-- ANDN, immediate form (06 R177). -/
def execAndnImm (nw : Bool) (d : BitVec 6) (a imm : BitVec 7) (m : Bool) (s : State) : Host.Outcome State Fault Refusal :=
  run s fun r => s.intOp r anyType m nw d a none false (immLogic .andn imm)

/-- SHL, immediate form (06 R177). -/
def execShlImm (nw : Bool) (d : BitVec 6) (a imm : BitVec 7) (m : Bool) (s : State) : Host.Outcome State Fault Refusal :=
  run s fun r => s.intOp r anyType m nw d a none false (immShift .shl imm)

/-- SHR, immediate form (06 R177). -/
def execShrImm (nw : Bool) (d : BitVec 6) (a imm : BitVec 7) (m : Bool) (s : State) : Host.Outcome State Fault Refusal :=
  run s fun r => s.intOp r anyType m nw d a none false (immShift .shr imm)

/-- SAR, immediate form (06 R177). -/
def execSarImm (nw : Bool) (d : BitVec 6) (a imm : BitVec 7) (m : Bool) (s : State) : Host.Outcome State Fault Refusal :=
  run s fun r => s.intOp r anyType m nw d a none false (immShift .sar imm)

/-- ROT, immediate form (06 R177). -/
def execRotImm (nw : Bool) (d : BitVec 6) (a imm : BitVec 7) (m : Bool) (s : State) : Host.Outcome State Fault Refusal :=
  run s fun r => s.intOp r anyType m nw d a none false (immShift .rot imm)

/-- LEA, immediate form (06 R177). -/
def execLeaImm (nw : Bool) (d : BitVec 6) (a imm : BitVec 7) (m : Bool) (s : State) : Host.Outcome State Fault Refusal :=
  run s fun r => s.leaOp r m nw d a none (signed 7 imm.toNat)

/-- BFE, immediate form; bit 6 of the immediate is reserved (06 R177). -/
def execBfeImm (nw : Bool) (d : BitVec 6) (a imm : BitVec 7) (m : Bool) (s : State) : Host.Outcome State Fault Refusal :=
  run s fun r => do
    need s r 0 (decide (imm.toNat < 64))
    s.intOp r wordType m nw d a none false (immBfe imm)

/-- IADD (U-form) (06 R168). -/
def execIaddU (d : BitVec 6) (a b : BitVec 7) (m : Bool) (s : State) : Host.Outcome State Fault Refusal :=
  run s fun r => s.intOpU r isInt m d a (some b) false (opArith .add)

/-- ISUB (U-form) (06 R168). -/
def execIsubU (d : BitVec 6) (a b : BitVec 7) (m : Bool) (s : State) : Host.Outcome State Fault Refusal :=
  run s fun r => s.intOpU r isInt m d a (some b) false (opArith .sub)

/-- IMUL (U-form) (06 R168). -/
def execImulU (d : BitVec 6) (a b : BitVec 7) (m : Bool) (s : State) : Host.Outcome State Fault Refusal :=
  run s fun r => s.intOpU r isInt m d a (some b) false (opArith .mul)

/-- IMULH (U-form) (06 R168). -/
def execImulhU (d : BitVec 6) (a b : BitVec 7) (m : Bool) (s : State) : Host.Outcome State Fault Refusal :=
  run s fun r => s.intOpU r isInt m d a (some b) false opMulh

/-- IMAD (U-form) (06 R168). -/
def execImadU (d : BitVec 6) (a b : BitVec 7) (m : Bool) (s : State) : Host.Outcome State Fault Refusal :=
  run s fun r => s.intOpU r isInt m d a (some b) true opMad

/-- IABS (U-form) (06 R168). -/
def execIabsU (d : BitVec 6) (a : BitVec 7) (m : Bool) (s : State) : Host.Outcome State Fault Refusal :=
  run s fun r => s.intOpU r isInt m d a none false opAbs

/-- INEG (U-form) (06 R168). -/
def execInegU (d : BitVec 6) (a : BitVec 7) (m : Bool) (s : State) : Host.Outcome State Fault Refusal :=
  run s fun r => s.intOpU r isInt m d a none false opNeg

/-- IMIN (U-form) (06 R168). -/
def execIminU (d : BitVec 6) (a b : BitVec 7) (m : Bool) (s : State) : Host.Outcome State Fault Refusal :=
  run s fun r => s.intOpU r isInt m d a (some b) false (opArith .min)

/-- IMAX (U-form) (06 R168). -/
def execImaxU (d : BitVec 6) (a b : BitVec 7) (m : Bool) (s : State) : Host.Outcome State Fault Refusal :=
  run s fun r => s.intOpU r isInt m d a (some b) false (opArith .max)

/-- ISAD (U-form) (06 R168). -/
def execIsadU (d : BitVec 6) (a b : BitVec 7) (m : Bool) (s : State) : Host.Outcome State Fault Refusal :=
  run s fun r => s.intOpU r isInt m d a (some b) true opSad

/-- AND (U-form) (06 R168). -/
def execAndU (d : BitVec 6) (a b : BitVec 7) (m : Bool) (s : State) : Host.Outcome State Fault Refusal :=
  run s fun r => s.intOpU r anyType m d a (some b) false (opLogic .and)

/-- OR (U-form) (06 R168). -/
def execOrU (d : BitVec 6) (a b : BitVec 7) (m : Bool) (s : State) : Host.Outcome State Fault Refusal :=
  run s fun r => s.intOpU r anyType m d a (some b) false (opLogic .or)

/-- XOR (U-form) (06 R168). -/
def execXorU (d : BitVec 6) (a b : BitVec 7) (m : Bool) (s : State) : Host.Outcome State Fault Refusal :=
  run s fun r => s.intOpU r anyType m d a (some b) false (opLogic .xor)

/-- ANDN (U-form) (06 R168). -/
def execAndnU (d : BitVec 6) (a b : BitVec 7) (m : Bool) (s : State) : Host.Outcome State Fault Refusal :=
  run s fun r => s.intOpU r anyType m d a (some b) false (opLogic .andn)

/-- SHL (U-form) (06 R170). -/
def execShlU (d : BitVec 6) (a b : BitVec 7) (m : Bool) (s : State) : Host.Outcome State Fault Refusal :=
  run s fun r => s.intOpU r anyType m d a (some b) false (opShift .shl)

/-- SHR (U-form) (06 R170). -/
def execShrU (d : BitVec 6) (a b : BitVec 7) (m : Bool) (s : State) : Host.Outcome State Fault Refusal :=
  run s fun r => s.intOpU r anyType m d a (some b) false (opShift .shr)

/-- SAR (U-form) (06 R170). -/
def execSarU (d : BitVec 6) (a b : BitVec 7) (m : Bool) (s : State) : Host.Outcome State Fault Refusal :=
  run s fun r => s.intOpU r anyType m d a (some b) false (opShift .sar)

/-- ROT (U-form) (06 R170). -/
def execRotU (d : BitVec 6) (a b : BitVec 7) (m : Bool) (s : State) : Host.Outcome State Fault Refusal :=
  run s fun r => s.intOpU r anyType m d a (some b) false (opShift .rot)

/-- FSHL (U-form) (06 R170). -/
def execFshlU (d : BitVec 6) (a b : BitVec 7) (m : Bool) (s : State) : Host.Outcome State Fault Refusal :=
  run s fun r => s.intOpU r wordType m d a (some b) true opFshl

/-- BFE (U-form) (06 R171). -/
def execBfeU (d : BitVec 6) (a b : BitVec 7) (m : Bool) (s : State) : Host.Outcome State Fault Refusal :=
  run s fun r => s.intOpU r wordType m d a (some b) false opBfe

/-- BFI (U-form) (06 R171). -/
def execBfiU (d : BitVec 6) (a b : BitVec 7) (m : Bool) (s : State) : Host.Outcome State Fault Refusal :=
  run s fun r => s.intOpU r wordType m d a (some b) true opBfi

/-- POPC (U-form) (06 R168). -/
def execPopcU (d : BitVec 6) (a : BitVec 7) (m : Bool) (s : State) : Host.Outcome State Fault Refusal :=
  run s fun r => s.intOpU r isInt m d a none false opPopc

/-- CLZ (U-form) (06 R168). -/
def execClzU (d : BitVec 6) (a : BitVec 7) (m : Bool) (s : State) : Host.Outcome State Fault Refusal :=
  run s fun r => s.intOpU r isInt m d a none false opClz

/-- CTZ (U-form) (06 R168). -/
def execCtzU (d : BitVec 6) (a : BitVec 7) (m : Bool) (s : State) : Host.Outcome State Fault Refusal :=
  run s fun r => s.intOpU r isInt m d a none false opCtz

/-- BREV (U-form) (06 R168). -/
def execBrevU (d : BitVec 6) (a : BitVec 7) (m : Bool) (s : State) : Host.Outcome State Fault Refusal :=
  run s fun r => s.intOpU r isInt m d a none false opBrev

/-- MOV (U-form) (06 R175). -/
def execMovU (d : BitVec 6) (a : BitVec 7) (m : Bool) (s : State) : Host.Outcome State Fault Refusal :=
  run s fun r => s.intOpU r anyType m d a none false opCopy

/-- IADDC (U-form) (06 R169). -/
def execIaddcU (d : BitVec 6) (a b : BitVec 7) (m : Bool) (s : State) : Host.Outcome State Fault Refusal :=
  run s fun r => s.carryOpU r addCarry m d a b

/-- ISUBB (U-form) (06 R169). -/
def execIsubbU (d : BitVec 6) (a b : BitVec 7) (m : Bool) (s : State) : Host.Outcome State Fault Refusal :=
  run s fun r => s.carryOpU r subBorrow m d a b

/-- BPERM (U-form) (06 R172, R178). -/
def execBpermU (d : BitVec 6) (a b : BitVec 7) (m : Bool) (s : State) : Host.Outcome State Fault Refusal :=
  run s fun r => do
    let _ ← s.typeIn r m notWide
    s.aluU r .control d.toNat false false 0 [{ f := a.toNat }, { f := b.toNat }]
      fun xs => permute (xs.getD 0 0) (xs.getD 1 0)

/-- LEA (U-form) (06 R173). -/
def execLeaU (d : BitVec 6) (a b : BitVec 7) (m : Bool) (s : State) : Host.Outcome State Fault Refusal :=
  run s fun r => s.leaOpU r m d a (some b) 0

/-- SEL (U-form) (06 R175). -/
def execSelU (d : BitVec 6) (a b : BitVec 7) (m : Bool) (s : State) : Host.Outcome State Fault Refusal :=
  run s fun r => s.selOpU r m d a b

/-- IDOT4 (U-form) (06 R176). -/
def execIdot4U (d : BitVec 6) (a b : BitVec 7) (m : Bool) (s : State) : Host.Outcome State Fault Refusal :=
  run s fun r => s.dotOpU r m d a b

/-- IADD, immediate form (U-form) (06 R177). -/
def execIaddImmU (d : BitVec 6) (a imm : BitVec 7) (m : Bool) (s : State) : Host.Outcome State Fault Refusal :=
  run s fun r => s.intOpU r isInt m d a none false (immArith .add imm)

/-- IMUL, immediate form (U-form) (06 R177). -/
def execImulImmU (d : BitVec 6) (a imm : BitVec 7) (m : Bool) (s : State) : Host.Outcome State Fault Refusal :=
  run s fun r => s.intOpU r isInt m d a none false (immArith .mul imm)

/-- IMIN, immediate form (U-form) (06 R177). -/
def execIminImmU (d : BitVec 6) (a imm : BitVec 7) (m : Bool) (s : State) : Host.Outcome State Fault Refusal :=
  run s fun r => s.intOpU r isInt m d a none false (immArith .min imm)

/-- IMAX, immediate form (U-form) (06 R177). -/
def execImaxImmU (d : BitVec 6) (a imm : BitVec 7) (m : Bool) (s : State) : Host.Outcome State Fault Refusal :=
  run s fun r => s.intOpU r isInt m d a none false (immArith .max imm)

/-- AND, immediate form (U-form) (06 R177). -/
def execAndImmU (d : BitVec 6) (a imm : BitVec 7) (m : Bool) (s : State) : Host.Outcome State Fault Refusal :=
  run s fun r => s.intOpU r anyType m d a none false (immLogic .and imm)

/-- OR, immediate form (U-form) (06 R177). -/
def execOrImmU (d : BitVec 6) (a imm : BitVec 7) (m : Bool) (s : State) : Host.Outcome State Fault Refusal :=
  run s fun r => s.intOpU r anyType m d a none false (immLogic .or imm)

/-- XOR, immediate form (U-form) (06 R177). -/
def execXorImmU (d : BitVec 6) (a imm : BitVec 7) (m : Bool) (s : State) : Host.Outcome State Fault Refusal :=
  run s fun r => s.intOpU r anyType m d a none false (immLogic .xor imm)

/-- ANDN, immediate form (U-form) (06 R177). -/
def execAndnImmU (d : BitVec 6) (a imm : BitVec 7) (m : Bool) (s : State) : Host.Outcome State Fault Refusal :=
  run s fun r => s.intOpU r anyType m d a none false (immLogic .andn imm)

/-- SHL, immediate form (U-form) (06 R177). -/
def execShlImmU (d : BitVec 6) (a imm : BitVec 7) (m : Bool) (s : State) : Host.Outcome State Fault Refusal :=
  run s fun r => s.intOpU r anyType m d a none false (immShift .shl imm)

/-- SHR, immediate form (U-form) (06 R177). -/
def execShrImmU (d : BitVec 6) (a imm : BitVec 7) (m : Bool) (s : State) : Host.Outcome State Fault Refusal :=
  run s fun r => s.intOpU r anyType m d a none false (immShift .shr imm)

/-- SAR, immediate form (U-form) (06 R177). -/
def execSarImmU (d : BitVec 6) (a imm : BitVec 7) (m : Bool) (s : State) : Host.Outcome State Fault Refusal :=
  run s fun r => s.intOpU r anyType m d a none false (immShift .sar imm)

/-- ROT, immediate form (U-form) (06 R177). -/
def execRotImmU (d : BitVec 6) (a imm : BitVec 7) (m : Bool) (s : State) : Host.Outcome State Fault Refusal :=
  run s fun r => s.intOpU r anyType m d a none false (immShift .rot imm)

/-- LEA, immediate form (U-form) (06 R177). -/
def execLeaImmU (d : BitVec 6) (a imm : BitVec 7) (m : Bool) (s : State) : Host.Outcome State Fault Refusal :=
  run s fun r => s.leaOpU r m d a none (signed 7 imm.toNat)

/-- BFE, immediate form (U-form); bit 6 of the immediate is reserved (06 R177). -/
def execBfeImmU (d : BitVec 6) (a imm : BitVec 7) (m : Bool) (s : State) : Host.Outcome State Fault Refusal :=
  run s fun r => do
    need s r 0 (decide (imm.toNat < 64))
    s.intOpU r wordType m d a none false (immBfe imm)

/-- LIM, guarded by set 0 (06 R174). -/
def execLim (nw : Bool) (d : BitVec 6) (imm : BitVec 15) (s : State) : Host.Outcome State Fault Refusal :=
  run s fun r => s.alu r .control false { n := d.toNat, nw } false [] fun _ => wrap 32 (signed 15 imm.toNat)

/-- LIMH: the old destination shifted left 15 plus the immediate (06 R174). -/
def execLimh (nw : Bool) (d : BitVec 6) (imm : BitVec 15) (s : State) : Host.Outcome State Fault Refusal :=
  run s fun r => s.alu r .control false { n := d.toNat, nw } true []
    fun xs => (xs.getD 0 0 * 2 ^ 15 + imm.toNat) % 2 ^ 32

/-- LIM (U-form) (06 R178). -/
def execLimU (d : BitVec 6) (imm : BitVec 15) (s : State) : Host.Outcome State Fault Refusal :=
  run s fun r => s.aluU r .control d.toNat false false 0 [] fun _ => wrap 32 (signed 15 imm.toNat)

/-- LIMH (U-form) (06 R178). -/
def execLimhU (d : BitVec 6) (imm : BitVec 15) (s : State) : Host.Outcome State Fault Refusal :=
  run s fun r => s.aluU r .control d.toNat false true 0 []
    fun xs => (xs.getD 0 0 * 2 ^ 15 + imm.toNat) % 2 ^ 32

end Sys2Proof.Machine
end

