-- ==== Sys2Proof/Machine/Manage.lean ====
section
/-! DEFINITION. The management commands that the host places in its memory and starts through MBOXLO (17 R412 to R419, 19
R448, R452, R456). -/

namespace Sys2Proof.Machine

/-! The command block. -/

/-- The eight words of the command block. -/
def State.mboxBlock (s : State) : List DWord := dwords 8 (rdBytes s.hostMem s.mboxAddr 64)

/-- CODE of a block. -/
def cmdCode (ws : List DWord) : Nat := bits (wordAt ws 0) 63 56
/-- The partition that a block names. -/
def cmdPart (ws : List DWord) : Nat := bits (wordAt ws 0) 55 52

/-- The command ends with a status. -/
def State.endCommand (s : State) (status : Nat) : State :=
  { s with mboxBusy := false, mboxStatus := BitVec.ofNat 16 status }

/-- The words of a block hold nothing outside the bits that the command's operands take, each a word, a top and a bottom
bit (19 R456). -/
def operandsOnly (ws : List DWord) (hasPart : Bool) (fs : List (Nat × Nat × Nat)) : Bool :=
  let rest (k : Nat) : Nat := (fs.filter fun f => f.1 == k).foldl (fun x f => putBits x f.2.1 f.2.2 0) (wordAt ws k)
  bits (wordAt ws 0) 51 0 == 0 && (hasPart || cmdPart ws == 0) && (List.range 7).all fun k => rest (k + 1) == 0

/-- Run a command if the block that is running has its code: before READY only the codes 8 to 10 run, none of them without
firmware, and others are discarded; a reserved bit ends it with status 0xFFFF; otherwise its effect gives the state and the
status. -/
def State.command (s : State) (code : Nat) (fs : List (Nat × Nat × Nat)) (f : List DWord → State × Nat) : Option State :=
  let ws := s.mboxBlock
  if !s.mboxBusy ∨ !s.linkUp ∨ cmdCode ws ≠ code then none
  else if !s.ready ∧ (s.noFirmware ∨ !(code == 8 || code == 9 || code == 10)) then some { s with mboxBusy := false }
  else if !operandsOnly ws (!(code == 9 || code == 10)) fs then some (s.endCommand 0xFFFF)
  else
    let (t, status) := f ws
    some (t.endCommand status)

/-- Write bytes to host memory. -/
def State.toHost (s : State) (a : Nat) (bs : List Byte) : State := { s with hostMem := wrBytes s.hostMem a bs }

/-- The cluster set of the partition has been set by a release. -/
def Part.isSet (p : Part) : Bool := p.partclu != 0

/-! Partition release (13 R308, 17 R408 to R412, 19 R448). -/

/-- The protected ranges of a command: base and size. -/
def State.rangeList (s : State) (a n : Nat) : List (Nat × Nat) :=
  (List.range n).map fun i => (rdNat s.hostMem (a + 16 * i) 8, rdNat s.hostMem (a + 16 * i + 8) 8)

/-- Two ranges share a byte. -/
def rangesMeet (a b : Nat × Nat) : Bool := decide (a.1 < b.1 + b.2) && decide (b.1 < a.1 + a.2)

/-- No two ranges of a list share a byte. -/
def apart : List (Nat × Nat) → Bool
  | [] => true
  | a :: rest => !(rest.any (rangesMeet a)) && apart rest

/-- The clusters of a mask on a die. -/
def dieMask (mask d : Nat) : Nat := bits mask (16 * d + 15) (16 * d)

/-- The clusters and ways that a release asks for overlap those of another partition, or are no whole quads with ways on
each of their dies and no other (status 1). -/
def State.releaseOverlap (s : State) (p mask ways : Nat) : Bool :=
  let others := s.parts.filter fun q => q.1 != p && q.2.isSet
  mask == 0 || (s.part p).isSet ||
    ((List.range 16).any fun q => bits mask (4 * q + 3) (4 * q) != 0 && bits mask (4 * q + 3) (4 * q) != 15) ||
    ((List.range 4).any fun d =>
      (dieMask mask d == 0) != (dieMask ways d == 0) ||
        others.any fun q => dieMask q.2.partclu.toNat d != 0 && (q.2.ways.getD d 0) &&& dieMask ways d != 0) ||
    others.any fun q => q.2.partclu.toNat &&& mask != 0

/-- The ranges or the order-log ring that a release asks for are bad (status 2). -/
def State.releaseBad (s : State) (p : Nat) (ws : List DWord) (ranges : List (Nat × Nat)) : Bool :=
  let log := bits (wordAt ws 5) 39 0
  let entries := bits (wordAt ws 6) 31 0
  let taken := (s.parts.filter fun q => q.1 != p).flatMap fun q => q.2.ranges ++ q.2.withheld
  decide (4 < bits (wordAt ws 3) 14 12) || !apart ranges ||
    (ranges.any fun r => r.1 % 2 ^ 21 != 0 || r.2 % 2 ^ 21 != 0 || r.2 == 0 || decide (s.populated < r.1 + r.2) ||
      taken.any (rangesMeet r)) ||
    decide (2 ^ 32 < ranges.foldl (fun n r => n + r.2) 0) ||
    (if bitOf (wordAt ws 3) 9 then
      log % 4096 != 0 || decide (entries < 256) || decide (2 ^ 24 < entries) || 2 ^ Nat.log2 entries != entries ||
        decide (s.populated < log + 16 * entries) || s.withheld log (16 * entries)
    else log != 0 || entries != 0)

/-- The frames of ranges take a key id and are zeroed (17 R408). -/
def State.assignFrames (s : State) (ranges : List (Nat × Nat)) (id : Nat) : State :=
  let inside (a : Nat) : Bool := ranges.any fun r => decide (r.1 ≤ a) && decide (a < r.1 + r.2)
  let s := ranges.foldl (fun s r => s.flushRange r.1 r.2) s
  let frames := ranges.flatMap fun r => (List.range (r.2 / 65536)).map (r.1 / 65536 + ·)
  { s with
    mem := s.mem.filter fun c => !inside c.1,
    marks := s.marks.filter fun m => !inside (64 * m.1),
    keyids := frames.foldl (fun t k => Tab.put k id t) s.keyids }

/-- The lead die: that of the lowest-numbered cluster of a mask. -/
def leadDie (mask : Nat) : Nat := ((List.range 4).find? fun d => dieMask mask d != 0).getD 0

/-! Storage that a release withholds (17 R410, R416). -/

/-- A size rounded up to 2 MiB. -/
def up2M (n : Nat) : Nat := (n + 2 ^ 21 - 1) / 2 ^ 21 * 2 ^ 21

/-- Local memory that a release may not withhold: ranges, order-log rings, and what is withheld already. -/
def State.reserved (s : State) : List (Nat × Nat) :=
  s.parts.flatMap fun p => p.2.ranges ++ p.2.withheld ++ if p.2.logSize = 0 then [] else [(p.2.logBase, p.2.logSize)]

/-- The highest 2 MiB-aligned place of a size in populated memory that is free of some ranges (log entry 17). -/
def freePlace (top size : Nat) (taken : List (Nat × Nat)) : Option (Nat × Nat) :=
  let ends := (top :: taken.map Prod.fst).filter fun e => decide (size ≤ e) && decide (e ≤ top)
  let places := ends.map fun e => ((e - size) / 2 ^ 21 * 2 ^ 21, size)
  (sortBy (fun a b : Nat × Nat => decide (b.1 < a.1)) (places.filter fun x => !taken.any (rangesMeet x))).head?

/-- Places for storage of the given sizes, none of them meeting another; an empty one where memory has no room. -/
def withhold (top : Nat) : List Nat → List (Nat × Nat) → List (Nat × Nat)
  | [], _ => []
  | n :: rest, taken =>
    let x := (freePlace top n taken).getD (0, 0)
    x :: withhold top rest (x :: taken)

/-- What a release withholds: for each protected range ⌈size ÷ 7⌉ rounded up to 2 MiB for its counter tree, and then the
eviction table, 2^20 entries of 16 bytes in the model's layout (17 R410, R416; log entry 17). -/
def State.treeStorage (s : State) (ranges log : List (Nat × Nat)) : List (Nat × Nat) :=
  withhold s.populated ((ranges.map fun r => up2M ((r.2 + 6) / 7)) ++ [2 ^ 24]) (s.reserved ++ ranges ++ log)

/-- A memory key as drawn from the k-th draw on: two XTS keys and a tag key (17 R407). -/
def drawnMemKey (k : Nat) : List Byte := (List.range 3).flatMap fun i => fitBytes 32 (Config.drawnKey (k + i))

/-- The release itself. -/
def State.releasePart (s : State) (p : Nat) (ws : List DWord) (ranges : List (Nat × Nat)) : State :=
  let mask := wordAt ws 1
  let w3 := wordAt ws 3
  let prot := bitOf w3 8
  let det := bitOf w3 9
  let s := s.assignFrames ranges (p + 1)
  let (k, s) := s.freeNum
  let reg (i : Nat) : Nat := (Config.releaseReg k i).toNat
  let old := s.part p
  let n := s.keys
  let x : Part := { old with
    released := !prot,
    partcfg := w32 (bits w3 7 0 * 256 + prot.toNat * 128 + det.toNat * 64 + leadDie mask * 16 + p),
    partclu := w64 mask,
    partroot := w64 (reg 0),
    ptbase := w64 (reg 1 / 2048 % 2 ^ 41 * 2048 + reg 1 % 2),
    svec := w32 (reg 2 / 4 * 4),
    simg := w64 (reg 3 / 4096 % 2 ^ 28 * 4096),
    simgsz := w32 (1 + reg 4 % 4096),
    strict := bitOf w3 10 || prot,
    ways := (List.range 4).map (dieMask (wordAt ws 2)),
    ranges, logBase := bits (wordAt ws 5) 39 0, logSize := 16 * bits (wordAt ws 6) 31 0, logPos := 0, log := [], replay := [],
    withheld := s.treeStorage ranges (if det then [(bits (wordAt ws 5) 39 0, 16 * bits (wordAt ws 6) 31 0)] else []),
    replayEnded := [],
    memKey := drawnMemKey n, ctxKey := fitBytes 32 (Config.drawnKey (n + 3)), xferKey := [], encapKey := n + 4, repNonce := [],
    exchanged := false, wkeys := [], evict := [], groups := [], nonce := 0 }
  let s := s.setPart p x
  ({ s with keys := n + 5, fabid := s.fabid ||| 0x80000000 }).updateLevel p

/-- PARTITION_RELEASE: command 1. -/
def onPartitionRelease (_e : Ev) (s : State) : Option State :=
  s.command 1 [(1, 63, 0), (2, 63, 0), (3, 10, 0), (3, 14, 12), (4, 45, 0), (5, 39, 0), (6, 31, 0)] fun ws =>
    let p := cmdPart ws
    let ranges := s.rangeList (wordAt ws 4) (min 4 (bits (wordAt ws 3) 14 12))
    if s.releaseOverlap p (wordAt ws 1) (wordAt ws 2) then (s, 1)
    else if s.releaseBad p ws ranges then (s, 2)
    else (s.releasePart p ws ranges, 0)
/-- PARTITION_RELEASE (19 R448). -/
def execPartitionRelease (s : State) : Host.Outcome State Fault Refusal := event s onPartitionRelease

/-! Keys (17 R412, R413). -/

/-- A key derived from an exchange for a purpose. -/
def derivedKey (ss : List Byte) (purpose : String) (nonce : List Byte) (partcfg : Word) (n : Nat) : List Byte :=
  fitBytes n (Config.shake256 (ss ++ ascii purpose ++ nonce ++ leBytes 4 partcfg.toNat) n)

/-- KEY_EXCHANGE: command 2, refused a second time for one release, before a report, or where no release was made. -/
def onKeyExchange (_e : Ev) (s : State) : Option State :=
  s.command 2 [(1, 45, 0)] fun ws =>
    let k := cmdPart ws
    let p := s.part k
    if !p.isSet ∨ p.exchanged ∨ p.repNonce = [] then (s, 1)
    else
      let ss := fitBytes 32 (Config.mlkemDecap p.encapKey (rdBytes s.hostMem (wordAt ws 1) 1088))
      let key (purpose : String) (n : Nat) : List Byte := derivedKey ss purpose p.repNonce p.partcfg n
      let x : Part :=
        if bitOf p.partcfg.toNat 7 then
          { p with exchanged := true, released := true, memKey := key "MEMX" 64 ++ key "MEMT" 32, ctxKey := key "CTXK" 32,
                   xferKey := key "XFER" 32 }
        else { p with exchanged := true, xferKey := key "XFER" 32 }
      ((s.setPart k x).updateLevel k, 0)
/-- KEY_EXCHANGE (17 R412). -/
def execKeyExchange (s : State) : Host.Outcome State Fault Refusal := event s onKeyExchange

/-- WEIGHT_KEY: command 3. A message that fails its tag is discarded and logged. -/
def onWeightKey (_e : Ev) (s : State) : Option State :=
  s.command 3 [(1, 45, 0)] fun ws =>
    let k := cmdPart ws
    let m := rdBytes s.hostMem (wordAt ws 1) 64
    let cut (a n : Nat) : List Byte := (m.drop a).take n
    let idx := leNat (cut 0 1)
    let good : Bool := (s.part k).xferKey != [] && decide (idx < 16) && leNat (cut 1 3) == 0
    match (if good then Config.gcmOpen (s.part k).xferKey (cut 4 12) [] (cut 16 32) (cut 48 16) else none) with
    | some key => (s.updPart k fun p => { p with wkeys := Tab.put idx (fitBytes 32 key) p.wkeys }, 0)
    | none => (s.recordFault 0 k 9 0 0 0 0 0 0 0 0 true, 1)
/-- WEIGHT_KEY (17 R413). -/
def execWeightKey (s : State) : Host.Outcome State Fault Refusal := event s onWeightKey

/-! Pages that leave and return (17 R416, R417). -/

/-- An entry of the eviction table. -/
def Part.evicted (p : Part) (page : DWord) : Option (Nat × Bool × Nat × Bool) :=
  (p.evict.find? fun e => e.1 == page).map Prod.snd

/-- Change an entry: version, quarantined, fault domain, out. -/
def Part.putEvict (p : Part) (page : DWord) (x : Nat × Bool × Nat × Bool) : Part :=
  { p with evict := (p.evict.filter fun e => e.1 != page) ++ [(page, x)] }

/-- The frame that the leaf entry of a page names, whether or not its state field still makes it a leaf: a level 4 entry
of 64 KiB or a level 3 entry of 2 MiB; of a staging page that of its current version (15 R363, 16 R381). -/
def State.frameFrom (part die va last : Nat) : Nat → Nat → Nat → State → Option Nat × State
  | 0, _, _, s => (none, s)
  | k + 1, level, table, s =>
    let (e, s) := s.tableEntry part die (table + 8 * walkIndex va level)
    if level = last then
      let pa := bits e 51 16 * 2 ^ 16
      let odd := if last = 3 ∧ bitOf e 13 then (s.pair (pa / 2 ^ 22)).version % 2 else 0
      (some (pa + 2 ^ 21 * odd), s)
    else if bits e 1 0 = 1 then State.frameFrom part die va last k (level + 1) (bits e 51 8 * 2 ^ 8 % 2 ^ 40) s
    else (none, s)

/-- The frame of a page of a partition. -/
def State.frameOf (s : State) (part va : Nat) (big : Bool) : Option Nat × State :=
  let b := (s.part part).ptbase.toNat
  if !bitOf b 0 then (none, s)
  else State.frameFrom part (s.part part).lead va (if big then 3 else 4) 5 0 (bits b 51 11 * 2 ^ 11 % 2 ^ 40) s

/-- The header words 0 to 4 of a blob. -/
def blobHead (part fdom : Nat) (big : Bool) (page : DWord) (version nonce : Nat) : List DWord :=
  [w64 (2 ^ 48 + part * 2 ^ 44 + fdom * 2 ^ 36 + big.toNat * 2 ^ 34), page, w64 (version * 2 ^ 32), w64 nonce,
    w64 (nonce / 2 ^ 64 % 2 ^ 32)]

/-- PAGE_EXPORT: command 4. -/
def onPageExport (_e : Ev) (s : State) : Option State :=
  s.command 4 [(1, 63, 0), (2, 63, 0), (3, 1, 0), (4, 45, 0)] fun ws =>
    let k := cmdPart ws
    let page := w64 (wordAt ws 2)
    let big := wordAt ws 3 == 1
    let size := if big then 2 ^ 21 else 2 ^ 16
    let p := s.part k
    let old := p.evicted page
    let full := decide (2 ^ 20 ≤ (p.evict.filter fun e => e.2.2.1 || e.2.2.2.2).length)
    let quarantined := (old.map fun x => x.2.1).getD false
    let inUse := (old.map fun x => x.2.2.2).getD false
    if 2 ≤ wordAt ws 3 ∨ !canonical page.toNat ∨ page.toNat % size ≠ 0 then (s, 0xFFFF)
    else if quarantined then (s, 4)
    else if full ∧ !inUse then (s, 5)
    else
      match s.readChain k (w64 (wordAt ws 1)) with
      | (none, s) => (s, 0xFFFF)
      | (some c, s) =>
        match s.frameOf k (va56 page.toNat) big with
        | (none, s) => (s, 0xFFFF)
        | (some pa, s) =>
          let fdom := effFDOM ((c.links.head?.map (·.cfg)).getD 0)
          let cores := (List.range 256).filter fun i => bitOf p.partclu.toNat (clusterOf i) && (Tab.find i s.cores).isSome
          let s := cores.foldl (fun s i => s.release i 6) s
          let (plain, s) := s.physRead (pa % 2 ^ 40) size
          let version := ((old.map Prod.fst).getD 0 + 1) % 2 ^ 32
          let nonce := (s.part k).nonce
          let head := blobHead k fdom big page version nonce
          let (cipher, tag) := Config.gcmSeal (s.part k).ctxKey (leBytes 12 nonce) (wordBytes head) plain
          let s := s.updPart k fun p => { (p.putEvict page (version, false, fdom, true)) with nonce := nonce + 1 }
          (s.toHost (wordAt ws 4) (wordBytes head ++ fitBytes 16 tag ++ List.replicate 8 0 ++ fitBytes size cipher), 0)
/-- PAGE_EXPORT (17 R416). -/
def execPageExport (s : State) : Host.Outcome State Fault Refusal := event s onPageExport

/-- An import that fails: the frame's sectors are integrity-poisoned, the entry is quarantined, the fault domain's nodes
end, those with a stream in its system handler at its ERET, and the event is logged (17 R417). -/
def State.failImport (s : State) (part target size : Nat) (page : DWord) (blobDom status : Nat) : State :=
  let old := (s.part part).evicted page
  let fdom := match old with
    | some (_, q, f, out) => if q || out then f else blobDom
    | none => blobDom
  let secs := (List.range (size / 64)).map (target / 64 + ·)
  let s := { s with marks := secs.foldl (fun t k => Tab.put k Mark.integrity t) s.marks }
  let s := match old with
    | some (v, q, f, out) => if q || out then s.updPart part fun p => p.putEvict page (v, true, f, false) else s
    | none => s
  ((s.endDomain (fun _ => true) part fdom 0x29).recordFault fdom part 6 0 0 (w64 target) 0 page.toNat 0 0 status true).settleReady

/-- PAGE_IMPORT: command 5. -/
def onPageImport (_e : Ev) (s : State) : Option State :=
  s.command 5 [(1, 39, 0), (2, 45, 0)] fun ws =>
    let k := cmdPart ws
    let at_ := wordAt ws 2
    let hb := rdBytes s.hostMem at_ 64
    let h (i : Nat) : Nat := wordAt (dwords 8 hb) i
    let big := bits (h 0) 35 34 == 1
    let size := if big then 2 ^ 21 else 2 ^ 16
    let target := wordAt ws 1 / size * size
    let page := w64 (h 1)
    let form : Bool := bits (h 0) 63 48 == 1 && bits (h 0) 47 44 == k && decide (bits (h 0) 35 34 < 2) && bits (h 0) 33 0 == 0 &&
      bits (h 2) 31 0 == 0 && bits (h 4) 63 32 == 0 && h 7 == 0
    let nonce := leBytes 12 (h 3 + bits (h 4) 31 0 * 2 ^ 64)
    let cipher := rdBytes s.hostMem (at_ + 64) size
    let fail (n : Nat) : State × Nat := (s.failImport k target size page (bits (h 0) 43 36) n, n)
    if wordAt ws 1 % size ≠ 0 ∨ s.populated < target + size then (s, 0xFFFF)
    else match (if form then Config.gcmOpen (s.part k).ctxKey nonce (hb.take 40) cipher ((hb.drop 40).take 16) else none) with
      | none => fail 1
      | some plain =>
        match (s.part k).evicted page with
        | none => fail 3
        | some (v, q, f, out) =>
          if q then fail 4
          else if !out then fail 3
          else if v ≠ bits (h 2) 63 32 then fail 2
          else
            let bytes := ((List.range size).map (target + ·)).zip (fitBytes size plain)
            let s := (s.noteHost (sigOf (bytes.map Prod.fst))).physWrite bytes
            (s.updPart k fun p => p.putEvict page (v, false, f, false), 0)
/-- PAGE_IMPORT (17 R416). -/
def execPageImport (s : State) : Host.Outcome State Fault Refusal := event s onPageImport

/-! Sealed transfers (17 R414). -/

/-- The associated data of a sealed transfer: partition, address, direction (1 out). -/
def transferAad (part pa dir : Nat) : List Byte := leBytes 1 part ++ leBytes 8 pa ++ leBytes 1 dir

/-- The 4 KiB block lies in local memory, in no frame of another protected partition. -/
def State.transferOk (s : State) (part pa : Nat) : Bool :=
  pa % 4096 == 0 && decide (pa + 4096 ≤ s.populated) && (!s.protectedFrame pa || s.frameOwner pa == some part)

/-- SEALED_TRANSFER_IN: command 6. -/
def onSealedTransferIn (_e : Ev) (s : State) : Option State :=
  s.command 6 [(1, 39, 0), (2, 45, 0)] fun ws =>
    let k := cmdPart ws
    let pa := wordAt ws 1
    let b := rdBytes s.hostMem (wordAt ws 2) (4096 + 28)
    let good : Bool := (s.part k).xferKey != [] && s.transferOk k pa
    match (if good then Config.gcmOpen (s.part k).xferKey ((b.drop 4096).take 12) (transferAad k pa 0) (b.take 4096)
        ((b.drop 4108).take 16) else none) with
    | none => (s, 1)
    | some plain =>
      let ws := ((List.range 4096).map (pa + ·)).zip (fitBytes 4096 plain)
      ((s.noteHost (sigOf (ws.map Prod.fst))).physWrite ws, 0)
/-- SEALED_TRANSFER_IN (17 R414). -/
def execSealedTransferIn (s : State) : Host.Outcome State Fault Refusal := event s onSealedTransferIn

/-- SEALED_TRANSFER_OUT: command 7. -/
def onSealedTransferOut (_e : Ev) (s : State) : Option State :=
  s.command 7 [(1, 39, 0), (2, 45, 0)] fun ws =>
    let k := cmdPart ws
    let pa := wordAt ws 1
    if (s.part k).xferKey = [] ∨ !s.transferOk k pa then (s, 1)
    else
      let (plain, s) := s.physRead pa 4096
      let nonce := (s.part k).nonce
      let (cipher, tag) := Config.gcmSeal (s.part k).xferKey (leBytes 12 nonce) (transferAad k pa 1) plain
      let s := s.updPart k fun p => { p with nonce := nonce + 1 }
      (s.toHost (wordAt ws 2) (fitBytes 4096 cipher ++ leBytes 12 nonce ++ fitBytes 16 tag), 0)
/-- SEALED_TRANSFER_OUT (17 R414). -/
def execSealedTransferOut (s : State) : Host.Outcome State Fault Refusal := event s onSealedTransferOut

/-! Attestation, certificate, fault record (17 R419, 16 R404). -/

/-- FWDIG: SHAKE256 of the whole signed firmware image, 64 bytes (17 R418). -/
def State.fwdig (s : State) : List Byte := fitBytes 64 (Config.shake256 s.firmware 64)

/-- The body of a partition's report: 1,416 bytes. -/
def State.reportBody (s : State) (k : Nat) (nonce : List Byte) : List Byte :=
  let p := s.part k
  let clu := (List.range 64).map fun i => b8 (Tab.get 0 s.lasting i * 64 + bits (s.cluster i).rnsmap.toNat 5 0)
  leBytes 4 1 ++ leBytes 4 p.partcfg.toNat ++ leBytes 8 p.partclu.toNat ++ leBytes 8 s.retired.toNat ++ clu ++
    leBytes 4 (p.strict.toNat + 2 * (!p.ranges.isEmpty).toNat) ++ leBytes 4 s.health.toNat ++
    s.fwdig ++ fitBytes 32 Config.deviceId ++ nonce ++ leBytes 8 s.now ++ fitBytes 1184 (Config.mlkemPublic p.encapKey)

/-- ATTESTATION: command 8. -/
def onAttestation (_e : Ev) (s : State) : Option State :=
  s.command 8 [(1, 45, 0), (2, 45, 0)] fun ws =>
    let k := cmdPart ws
    let nonce := rdBytes s.hostMem (wordAt ws 1) 32
    let body := s.reportBody k nonce
    let s := s.updPart k fun p => { p with repNonce := nonce }
    (s.toHost (wordAt ws 2) (body ++ fitBytes 3309 (Config.mldsaSign body)), 0)
/-- ATTESTATION (17 R419). -/
def execAttestation (s : State) : Host.Outcome State Fault Refusal := event s onAttestation

/-- CERTIFICATE_READ: command 9. -/
def onCertificateRead (_e : Ev) (s : State) : Option State :=
  s.command 9 [(1, 45, 0)] fun ws =>
    (s.toHost (wordAt ws 1) (leBytes 4 Config.certificate.length ++ Config.certificate), 0)
/-- CERTIFICATE_READ (19 R448). -/
def execCertificateRead (s : State) : Host.Outcome State Fault Refusal := event s onCertificateRead

/-- The entries that a read of the fault record returns. -/
def State.recordFrom (s : State) (first count fdom : Nat) : List FaultEntry :=
  ((sortBy (fun a b : FaultEntry => decide (a.seq < b.seq)) s.record).filter fun e =>
    decide (first ≤ e.seq) && (fdom == 0xFFFF || bits (wordAt e.words 0) 31 24 == fdom)).take count

/-- FAULT_RECORD_READ: command 10. -/
def onFaultRecordRead (_e : Ev) (s : State) : Option State :=
  s.command 10 [(1, 63, 0), (2, 15, 0), (3, 45, 0)] fun ws =>
    let xs := s.recordFrom (bits (wordAt ws 1) 63 32) (min 8192 (bits (wordAt ws 1) 31 0)) (wordAt ws 2)
    (s.toHost (wordAt ws 3) (xs.flatMap fun e => wordBytes e.words), xs.length)
/-- FAULT_RECORD_READ (16 R404). -/
def execFaultRecordRead (s : State) : Host.Outcome State Fault Refusal := event s onFaultRecordRead

/-! Collective groups (19 R452). -/

/-- COLLECTIVE_GROUP: command 11. -/
def onCollectiveGroup (_e : Ev) (s : State) : Option State :=
  s.command 11 [(1, 15, 0), (2, 45, 0), (3, 10, 0)] fun ws =>
    let k := cmdPart ws
    let g := wordAt ws 1
    let n := wordAt ws 3
    let at_ (i o len : Nat) : Nat := rdNat s.hostMem (wordAt ws 2 + 24 * i + o) len
    let member (i : Nat) : Nat × Nat × DWord × Nat := (at_ i 0 4, at_ i 4 4, w64 (at_ i 8 8), at_ i 16 8)
    if 256 ≤ g ∨ n < 2 ∨ 1024 < n then (s, 1)
    else (s.updPart k fun p => { p with groups := Tab.put g ((List.range n).map member) p.groups }, 0)
/-- COLLECTIVE_GROUP (19 R452). -/
def execCollectiveGroup (s : State) : Host.Outcome State Fault Refusal := event s onCollectiveGroup

/-- UNKNOWN_COMMAND: a code outside 1 to 11 ends with status 0xFFFF. -/
def onUnknownCommand (_e : Ev) (s : State) : Option State :=
  let c := cmdCode s.mboxBlock
  if !s.mboxBusy ∨ !s.linkUp ∨ (1 ≤ c ∧ c ≤ 11) then none
  else if !s.ready then some { s with mboxBusy := false }
  else some (s.endCommand 0xFFFF)
/-- UNKNOWN_COMMAND (19 R448). -/
def execUnknownCommand (s : State) : Host.Outcome State Fault Refusal := event s onUnknownCommand

end Sys2Proof.Machine
end

