-- ==== Sys2Proof/Machine/Island.lean ====
section
/-! DEFINITION. Host posts and register writes, islands, energy, droop, the power shelf's telemetry, shedding, and the reset of
the package (14 R333, 18 R421 to R440, 19 R453, R454). -/

namespace Sys2Proof.Machine

/-! Writes to the register window (18 R421, 19 R444 to R446). -/

/-- The agent that an operand names: 0 the host, 1 + p a supervisor stream of partition p, 17 + p a user stream. -/
def agentNum (n : Nat) : Agent :=
  if n = 0 then .host else if n < 17 then .super (n - 1) else .user (n - 17)

/-- POST_SUBMIT: a host write to POST3 of a partition page. -/
def onPostSubmit (e : Ev) (s : State) : Option State :=
  if 16 ≤ e.n0 ∨ !s.linkUp then none
  else some (s.writeReg .host (0x1000 * e.n0 + 12) (w32 e.n1))
/-- POST_SUBMIT (19 R446). -/
def execPostSubmit (s : State) : Host.Outcome State Fault Refusal := event s onPostSubmit

/-- FABID_WRITE. -/
def onFabidWrite (e : Ev) (s : State) : Option State :=
  if s.linkUp then some (s.writeReg .host 0x20018 (w32 e.n0)) else none
/-- FABID_WRITE (19 R445). -/
def execFabidWrite (s : State) : Host.Outcome State Fault Refusal := event s onFabidWrite

/-- A write by an agent; the host's come over the link (19 R443). -/
def State.agentWrite (s : State) (agent off : Nat) (v : Nat) : Option State :=
  if agent = 0 ∧ !s.linkUp then none
  else some (s.writeReg (agentNum agent) off (w32 v))

/-- ISLCTL_WRITE: agent, cluster, value. -/
def onIslctlWrite (e : Ev) (s : State) : Option State :=
  if 64 ≤ e.n1 then none else s.agentWrite e.n0 (0x10000 + 0x40 * e.n1) e.n2
/-- ISLCTL_WRITE (18 R422). -/
def execIslctlWrite (s : State) : Host.Outcome State Fault Refusal := event s onIslctlWrite

/-- REGISTER_WRITE: agent, offset in the window, value. -/
def onRegisterWrite (e : Ev) (s : State) : Option State := if e.n1 % 4 ≠ 0 then none else s.agentWrite e.n0 e.n1 e.n2
/-- REGISTER_WRITE (18 R421). -/
def execRegisterWrite (s : State) : Host.Outcome State Fault Refusal := event s onRegisterWrite

/-- PSHED_WRITE: a host write to a partition's PSHED. -/
def onPshedWrite (e : Ev) (s : State) : Option State :=
  if 16 ≤ e.n0 then none else s.agentWrite 0 (0x11080 + 4 * e.n0) e.n1
/-- PSHED_WRITE (18 R438). -/
def execPshedWrite (s : State) : Host.Outcome State Fault Refusal := event s onPshedWrite

/-! Islands (18 R423 to R428). -/

/-- RAIL_SWITCH_DONE: the rail in use becomes the one that ISLCTL names; the detector stays masked for 20 ns. -/
def onRailSwitchDone (e : Ev) (s : State) : Option State :=
  let c := s.cluster e.n0
  if c.island ≠ .switching then none
  else some (s.setCluster e.n0 { c with island := .running, railNow := bitOf c.islctl.toNat 0, maskTill := s.now + 20 })
/-- RAIL_SWITCH_DONE (18 R423). -/
def execRailSwitchDone (s : State) : Host.Outcome State Fault Refusal := event s onRailSwitchDone

/-- ISLAND_POWER_DOWN: an empty island with PDEN set, 100 µs after its last gang left, or an empty retired one, writes back
its L1s, loses its frames and powers down. -/
def onIslandPowerDown (e : Ev) (s : State) : Option State :=
  let cl := e.n0
  let c := s.cluster cl
  let gone := !(s.gangs.any fun p => clusterOf p.2.core == cl)
  let due := s.isRetired cl || (bitOf c.islctl.toNat 1 && decide (c.emptyAt + 100000 ≤ s.now))
  if 64 ≤ cl ∨ !gone ∨ !due ∨ !(c.island = .running ∨ c.island = .retention) then none
  else
    let cores := (List.range 4).map (4 * cl + ·)
    let s := cores.foldl (fun s k => ((s.core k).l1.map Prod.fst).foldl (fun s x => s.dropSector k x) s) s
    let s := cores.foldl (fun s k => s.updCore k fun x => { x with frames := [] }) s
    some (s.updCluster cl fun c => { c with island := if s.isRetired cl then .retired else .off, droop := .none, phase := 0, length := 0 })
/-- ISLAND_POWER_DOWN (18 R427). -/
def execIslandPowerDown (s : State) : Host.Outcome State Fault Refusal := event s onIslandPowerDown

/-- ISLAND_WAKE_START: the arbiter starts a die's oldest wake, with at most four in progress. -/
def onIslandWakeStart (e : Ev) (s : State) : Option State :=
  let busy := (s.clusters.filter fun c => c.1 / 16 == e.n0 && c.2.island == .waking).length
  match s.wakeQ.find? fun c => c / 16 == e.n0 with
  | none => none
  | some cl =>
    if 4 ≤ busy then none
    else
      let s := { s with wakeQ := s.wakeQ.filter (· != cl) }
      some (s.updCluster cl fun c => { c with island := if c.island = .off then .waking else c.island })
/-- ISLAND_WAKE_START (18 R427). -/
def execIslandWakeStart (s : State) : Host.Outcome State Fault Refusal := event s onIslandWakeStart

/-- ISLAND_WAKE_DONE: the island runs on the rail that ISLCTL names. -/
def onIslandWakeDone (e : Ev) (s : State) : Option State :=
  let c := s.cluster e.n0
  if c.island ≠ .waking then none
  else some (s.setCluster e.n0 { c with island := .running, railNow := bitOf c.islctl.toNat 0, emptyAt := s.now })
/-- ISLAND_WAKE_DONE (18 R427). -/
def execIslandWakeDone (s : State) : Host.Outcome State Fault Refusal := event s onIslandWakeDone

/-- LANE_GROUP_GATE: a group of a slot's lanes with no Active() lane for 512 delivered cycles is clock-gated. -/
def onLaneGroupGate (e : Ev) (s : State) : Option State :=
  let k := 4 * e.n1 + e.n2
  let c := s.core e.n0
  if 256 ≤ e.n0 ∨ 4 ≤ e.n1 ∨ 4 ≤ e.n2 ∨ c.gated.contains k ∨ s.cyclesOf (clusterOf e.n0) < Tab.get 0 c.laneUse k + 512 then none
  else some (s.setCore e.n0 { c with gated := c.gated ++ [k] })
/-- LANE_GROUP_GATE (18 R426). -/
def execLaneGroupGate (s : State) : Host.Outcome State Fault Refusal := event s onLaneGroupGate

/-- BANK_DROWSY: the bank of a stream that has waited more than 64 delivered cycles for load data becomes drowsy. -/
def onBankDrowsy (e : Ev) (s : State) : Option State :=
  match Tab.find e.n0 s.streams with
  | none => none
  | some t =>
    match t.dataWait with
    | none => none
    | some c =>
      if t.drowsy ∨ s.cyclesOf (clusterOf (s.coreNum e.n0)) ≤ c + 64 then none
      else some (s.setStream e.n0 { t with drowsy := true })
/-- BANK_DROWSY (18 R425). -/
def execBankDrowsy (s : State) : Host.Outcome State Fault Refusal := event s onBankDrowsy

/-- A register bank is drowsy: that of a stream which has waited for load data or whose island is in retention, and every
bank that holds no stream (18 R425, R427). -/
def State.bankDrowsy (s : State) (r : Nat) : Bool :=
  match Tab.find r s.streams with
  | none => true
  | some t => t.drowsy || (s.cluster (clusterOf (s.coreNum r))).island == .retention

/-- The banks of a core that are drowsy now (18 R425). -/
def State.drowsyBanks (s : State) (core : Nat) : Nat :=
  let here := (s.streams.map Prod.fst).filter fun r => (s.gangAt r).live && s.coreNum r == core
  48 - (here.filter fun r => !s.bankDrowsy r).length

/-! Energy, and the strike counts of a millisecond (18 R432, 16 R399). -/

/-- Whole mJ of a charge in pJ. -/
def wholeMj (pj : Nat) : Nat := pj / 10 ^ 9

/-- Every instance's ENERGY and every RCB's EUSED take the charges so far. -/
def State.takeCharges (s : State) (ms : Nat) : State :=
  let nodes : Tab Node := Tab.mapVals (fun _ x => { x with energyMj := wholeMj x.energyPj }) s.nodes
  let parts : Tab Part :=
    Tab.mapVals (fun _ p => { p with rcbs := p.rcbs.map fun u => { u with shown := wholeMj u.pj } }) s.parts
  let s : State := { s with energyMs := ms, nodes, parts }
  s.parts.foldl (fun (s : State) p => p.2.rcbs.foldl (fun (s : State) u => s.rcbPut p.1 u 5 u.shown) s) s

/-- The strikes of a cluster since the last update are logged. -/
def State.logStrikes (s : State) (cl : Nat) : State :=
  (s.recordFault 0 (s.ownerOf cl) 7 0 0 0 (4 * cl * 2 ^ 56) 0 0 0 (s.cluster cl).strikes true).updCluster cl fun x =>
    { x with strikes := 0 }

/-- ENERGY_UPDATE: at a whole millisecond ENERGY and EUSED take the charges so far, and strikes are logged. -/
def onEnergyUpdate (_e : Ev) (s : State) : Option State :=
  let ms := s.now / 1000000
  if ms ≤ s.energyMs then none
  else
    let hit := (s.clusters.filter fun c => c.2.strikes != 0).map Prod.fst
    some (hit.foldl State.logStrikes (s.takeCharges ms))
/-- ENERGY_UPDATE (18 R432). -/
def execEnergyUpdate (s : State) : Host.Outcome State Fault Refusal := event s onEnergyUpdate

/-! Droop (18 R429, R430). -/

/-- DROOP_TRIP: the supply of a cluster falls n1 mV below target; an armed detector that is not masked trips, and the
response begins, or begins again, with the next cycle. An island in retention keeps its supply and its detector. -/
def onDroopTrip (e : Ev) (s : State) : Option State :=
  let c := s.cluster e.n0
  if 64 ≤ e.n0 ∨ !bitOf c.droopctl.toNat 31 ∨ !(c.island = .running ∨ c.island = .retention) ∨ s.now < c.maskTill ∨
      e.n1 ≤ 2 * bits c.droopctl.toNat 7 0 then none
  else some (s.setCluster e.n0 { c with droopcnt := c.droopcnt + 1, droop := .tripped })
/-- DROOP_TRIP (18 R430). -/
def execDroopTrip (s : State) : Host.Outcome State Fault Refusal := event s onDroopTrip

/-- DROOP_STRETCH_END: the stretched cycles are over. -/
def onDroopStretchEnd (e : Ev) (s : State) : Option State :=
  let c := s.cluster e.n0
  match c.droop with
  | .stretch 0 => some (s.setCluster e.n0 { c with droop := c.halving })
  | _ => none
/-- DROOP_STRETCH_END (18 R430). -/
def execDroopStretchEnd (s : State) : Host.Outcome State Fault Refusal := event s onDroopStretchEnd

/-- DROOP_HALVE_END: the halved cycles have been delivered and the response is over. -/
def onDroopHalveEnd (e : Ev) (s : State) : Option State :=
  let c := s.cluster e.n0
  match c.droop with
  | .halve n =>
    if n < c.halve then none else some (s.setCluster e.n0 { c with droop := .none })
  | _ => none
/-- DROOP_HALVE_END (18 R430). -/
def execDroopHalveEnd (s : State) : Host.Outcome State Fault Refusal := event s onDroopHalveEnd

/-! Telemetry (18 R433 to R437). -/

/-- One bit of a CRC-16 with polynomial 0x1021. -/
def crcBit (x : Nat) : Nat := if 0x8000 ≤ x then (2 * x % 65536) ^^^ 0x1021 else 2 * x

/-- CRC-16 over bytes (18 R433). -/
def crc16 (bs : List Byte) : Nat :=
  bs.foldl (fun x b => (List.range 8).foldl (fun y _ => crcBit y) (x ^^^ (b.toNat * 256))) 0xFFFF

/-- The frame is valid. -/
def frameValid (f : List Byte) : Bool :=
  let at_ (i n : Nat) : Nat := leNat ((f.drop i).take n)
  f.length == 16 && at_ 0 1 == 0xD5 && bits (at_ 6 1) 6 3 == 0 && at_ 7 7 == 0 && at_ 14 2 == crc16 (f.take 14)

/-- The level that the droop curve asks for. -/
def State.curveLevel (s : State) (deficit sag : Nat) : Nat :=
  (List.range 8).foldl (fun m k =>
    let c := (Tab.get 0x0FFFFFFF s.curves k).toNat
    let v := bits c 27 16
    let f := bits c 15 0
    let hit : Bool := bitOf c 31 && ((v != 0xFFF && decide (v ≤ deficit)) || (f != 0xFFFF && decide (f ≤ sag)))
    if hit then max m (bits c 30 28) else m) 0

/-- The target that a valid frame gives. -/
def State.frameTarget (s : State) (vbus freq cmd : Nat) : Nat :=
  let curve := s.curveLevel (bits s.telcfg.toNat 31 16 - vbus) (bits s.telcfg.toNat 15 0 - freq)
  max curve (if bitOf cmd 7 then bits cmd 2 0 else 0)

/-- LEVEL follows a target: up at once, down by one after RESTN frames in a row below it (18 R437). -/
def State.follow (s : State) (target : Nat) : State :=
  let l := s.pkgLevel
  if l < target then { s with hyst := 0 }.setPkgLevel target
  else if target < l then
    if bits s.shedEff.toNat 31 16 ≤ s.hyst + 1 then { s with hyst := 0 }.setPkgLevel (l - 1) else { s with hyst := s.hyst + 1 }
  else { s with hyst := 0 }

/-- TELEMETRY_FRAME: a frame arrives from the power shelf; a package that stays in reset takes none (17 R418). -/
def onTelemetryFrame (e : Ev) (s : State) : Option State :=
  let at_ (i n : Nat) : Nat := leNat ((e.bytes.drop i).take n)
  if s.noFirmware then none
  else if !frameValid e.bytes then
    let st := s.telstat1.toNat
    some { s with telstat1 := w32 (putBits st 23 8 ((bits st 23 8 + 1) % 65536)) }
  else
    let target := s.frameTarget (at_ 2 2) (at_ 4 2) (at_ 6 1)
    let st := putBits (putBits (putBits s.telstat1.toNat 31 24 (at_ 1 1)) 7 7 0) 5 3 target
    let s := { s with
      telstat0 := w32 (at_ 2 2 * 65536 + at_ 4 2), telstat1 := w32 st, shedEff := s.shedcfg, frameAt := s.now }
    some (s.follow target)
/-- TELEMETRY_FRAME (18 R436). -/
def execTelemetryFrame (s : State) : Host.Outcome State Fault Refusal := event s onTelemetryFrame

/-- TELEMETRY_FAILSAFE: FAILN frame times of 50 µs have passed without a valid frame. -/
def onTelemetryFailsafe (_e : Ev) (s : State) : Option State :=
  let st := s.telstat1.toNat
  if s.noFirmware ∨ bitOf st 7 ∨ s.now < s.frameAt + 50000 * bits s.shedEff.toNat 15 8 then none
  else
    let level := bits s.shedEff.toNat 2 0
    let s := { s with telstat1 := w32 (putBits (putBits st 7 7 1) 5 3 level), frameAt := s.frameAt + 50000 * bits s.shedEff.toNat 15 8 }
    some (if s.pkgLevel < level then { s with hyst := 0 }.setPkgLevel level
      else if level < s.pkgLevel then s else { s with hyst := 0 })
/-- TELEMETRY_FAILSAFE (18 R436). -/
def execTelemetryFailsafe (s : State) : Host.Outcome State Fault Refusal := event s onTelemetryFailsafe

/-- FAIL_SAFE_FRAME_TIME: a frame time passes in fail-safe and counts as a frame with target FAILLEVEL. -/
def onFailSafeFrameTime (_e : Ev) (s : State) : Option State :=
  if s.noFirmware ∨ !bitOf s.telstat1.toNat 7 ∨ s.now < s.frameAt + 50000 then none
  else some ({ s with frameAt := s.frameAt + 50000 }.follow (bits s.shedEff.toNat 2 0))
/-- FAIL_SAFE_FRAME_TIME (18 R437). -/
def execFailSafeFrameTime (s : State) : Host.Outcome State Fault Refusal := event s onFailSafeFrameTime

/-! Shedding (18 R439, R440). -/

/-- A rise to a level: gangs of lower class that no shed holds are asked to park at their boundaries. -/
def State.shedBelow (s : State) (part level : Nat) : State :=
  { s with gangs := Tab.mapVals (fun _ x =>
    if x.part = part ∧ x.live ∧ !x.shedHold ∧ effCLASS x.effcfg < level then
      { x.askPark .boundary with shedHold := true, shedAt := if x.parked then none else some s.now }
    else x) s.gangs }

/-- A fall to a level: the shed's hold on gangs of its class or above ends; those parked run on, the highest class first
and then in the order in which they were parked. One that has not stopped yet stops and runs on. -/
def State.shedAbove (s : State) (part level : Nat) : State :=
  let hit := s.gangs.filter fun p => p.2.part == part && p.2.live && p.2.shedHold && decide (level ≤ effCLASS p.2.effcfg)
  let order := sortBy (fun a b : Nat × Gang =>
    decide (effCLASS b.2.effcfg < effCLASS a.2.effcfg) ||
      (effCLASS a.2.effcfg == effCLASS b.2.effcfg && decide (a.2.parkOrder < b.2.parkOrder))) hit
  order.foldl (fun s p => (s.updGang p.1 fun x => { x with shedHold := false, shedAt := none }).resumeGang p.1) s

/-- SHED_LEVEL_APPLY: a partition's level in force takes effect. -/
def onShedLevelApply (e : Ev) (s : State) : Option State :=
  let p := s.part e.n0
  if !p.released ∨ p.level = p.applied then none
  else
    let s' := s.setPart e.n0 { p with applied := p.level }
    some (if p.applied < p.level then s'.shedBelow e.n0 p.level else s'.shedAbove e.n0 p.level)
/-- SHED_LEVEL_APPLY (18 R439). -/
def execShedLevelApply (s : State) : Host.Outcome State Fault Refusal := event s onShedLevelApply

/-- SHED_PREEMPT: a gang that has not stopped 200 µs after the shed took effect is pre-empted. -/
def onShedPreempt (e : Ev) (s : State) : Option State :=
  let x := s.gang e.n0
  match x.shedAt with
  | none => none
  | some t =>
    if x.live ∧ !x.parked ∧ x.req ≠ .preempt ∧ t + 200000 ≤ s.now then some (s.updGang e.n0 fun x => x.askPark .preempt)
    else none
/-- SHED_PREEMPT (18 R439). -/
def execShedPreempt (s : State) : Host.Outcome State Fault Refusal := event s onShedPreempt

/-! Reset of the package (19 R453, R454). -/

/-- BUSTAT after bring-up: memory in units of 8 GiB, rate, error, the step that failed or 8 (19 R454). -/
def bringUp (memUnits rate err step : Nat) : Word :=
  w32 ((if 6 ≤ step then memUnits % 256 * 2 ^ 24 else 0) + (if 6 ≤ step then rate % 4 * 2 ^ 22 else 0) + err % 256 * 256 + step)

/-- What the boot ROM finds wrong with a firmware image, as BUSTAT ERR: 1 its signature or the key it is signed under, 2 its
security version (17 R418; log entry 6). -/
def imageError (image : List Byte) : Nat :=
  let key := Config.imageKey image
  if fitBytes 32 (Config.shake256 key 32) ≠ fitBytes 32 Config.fusedDigest ∨ !Config.mldsaVerify key image then 1
  else if Config.imageVersion image < Config.fusedCount then 2
  else 0

/-- The step of bring-up that an error stops (19 R453, R454). -/
def failedStep (err : Nat) : Nat := if err = 3 then 4 else if err = 4 then 5 else if err = 0 then 8 else 2

/-- How bring-up ends: an unreadable flash, the firmware image, a die's self-test, the training of memory at every rate, or
well. -/
def bringUpError (e : Ev) : Nat :=
  let image := imageError e.bytes
  if e.n2 = 5 then 5 else if image ≠ 0 then image else if e.n2 = 3 then 3 else if e.n2 = 4 ∨ e.n1 % 4 = 0 then 4 else 0

/-- Everything at its reset value but what is kept in non-volatile store and outside the device, and the model's own
fields. -/
def State.resetKept (s : State) : State :=
  { State.reset with
    hostMem := s.hostMem, record := s.record, recSeq := s.recSeq, retired := s.retired, lasting := s.lasting,
    channels := s.channels,
    clusters := (List.range 64).map fun i =>
      (i, ({ island := if bitOf s.retired.toNat i then .retired else .off, adder := (s.cluster i).adder } : Cluster)),
    seeds := s.seeds, keys := s.keys,
    agenda := s.agenda, free := s.free, turns := s.turns, fresh := s.fresh, lateLoads := s.lateLoads }

/-- Clusters fail their self-test: each is retired and recorded (16 R396, 19 R453). -/
def State.retireFailing (s : State) (mask : Nat) : State :=
  let fresh := (List.range 64).filter fun i => bitOf mask i && !bitOf s.retired.toNat i
  let s := { s with
    retired := s.retired ||| w64 mask,
    clusters := Tab.mapVals (fun i (c : Cluster) => if bitOf mask i then { c with island := .retired } else c) s.clusters }
  fresh.foldl (fun s i => s.recordFault 0 0 8 0 0 0 (4 * i * 2 ^ 56) 0 0 0 0 true) s

/-- What a step of bring-up leaves when it ends well: step 2 the firmware, step 3 keys and the retirement map, step 4 the
clusters that failed; step 6's zeros stand as nothing listed (17 R407, R418, 19 R453). -/
def State.endStep (s : State) (e : Ev) (step : Nat) : State :=
  if step = 2 then { s with firmware := e.bytes }
  else if step = 3 then { s with
    deviceKey := drawnMemKey s.keys, keys := s.keys + 3,
    clusters := Tab.mapVals (fun i (c : Cluster) => { c with rnsmap := w32 (Tab.get 0 s.channels i) }) s.clusters }
  else if step = 4 then s.retireFailing e.n3
  else s

/-- BUSTAT while a step is in progress, at the step that failed, or at READY (19 R454). -/
def State.showStep (s : State) (e : Ev) (err step : Nat) : State :=
  { s with bustat := bringUp e.n0 e.n1 err step, ready := step == 8,
           bring := if err = 0 ∧ step ≠ 8 then some e else none }

/-- Bring-up from package reset through the steps before one, which is then in progress, failed, or READY. -/
def State.broughtUp (s : State) (e : Ev) (err step : Nat) : State :=
  ((List.range step).foldl (fun t k => t.endStep e k) s.resetKept).showStep e err step

/-- The step of bring-up in progress ends: it fails, or the next one begins. -/
def State.nextStep (s : State) (e : Ev) : State :=
  let step := bits s.bustat.toNat 3 0
  let err := bringUpError e
  if err ≠ 0 ∧ failedStep err = step then s.showStep e err step else (s.endStep e step).showStep e 0 (step + 1)

/-- PACKAGE_RESET: everything returns to its reset value but what is kept in non-volatile store and outside the device,
and bring-up runs with the firmware image given, to READY or to the step that fails; to a step from 1 to 7 that n4 names, which
is then in progress; or, with n4 of 8, on from the step in progress. -/
def onPackageReset (e : Ev) (s : State) : Option State :=
  let err := bringUpError e
  let last := failedStep err
  if e.n4 = 8 then s.bring.map s.nextStep
  else if 1 ≤ e.n4 ∧ e.n4 ≤ 7 ∧ e.n4 ≤ last then some (s.broughtUp e 0 e.n4)
  else some (s.broughtUp e err last)
/-- PACKAGE_RESET (19 R453). -/
def execPackageReset (s : State) : Host.Outcome State Fault Refusal := event s onPackageReset

end Sys2Proof.Machine
end

