-- ==== Sys2Proof/Machine/Dispatch.lean ====
section
/-! DEFINITION. Every instruction and step of the device, sent to its meaning. -/

namespace Sys2Proof.Machine

def exec (i : Instr) (s : State) : Host.Outcome State Fault Refusal :=
  match i with
  | .nop => Sys2Proof.Machine.execNop s
  | .yield => Sys2Proof.Machine.execYield s
  | .exit => Sys2Proof.Machine.execExit s
  | .brk => Sys2Proof.Machine.execBrk s
  | .trap => Sys2Proof.Machine.execTrap s
  | .tret d redir => Sys2Proof.Machine.execTret d redir s
  | .isync => Sys2Proof.Machine.execIsync s
  | .ovload a imm => Sys2Proof.Machine.execOvload a imm s
  | .ovcall a imm => Sys2Proof.Machine.execOvcall a imm s
  | .mode image => Sys2Proof.Machine.execMode image s
  | .modeM1 image => Sys2Proof.Machine.execModeM1 image s
  | .modeBoth image => Sys2Proof.Machine.execModeBoth image s
  | .modeUniform a m => Sys2Proof.Machine.execModeUniform a m s
  | .getmode d set1 => Sys2Proof.Machine.execGetmode d set1 s
  | .setem a => Sys2Proof.Machine.execSetem a s
  | .getem d => Sys2Proof.Machine.execGetem d s
  | .vote d a m => Sys2Proof.Machine.execVote d a m s
  | .any pa pb a m => Sys2Proof.Machine.execAny pa pb a m s
  | .all pa pb a m => Sys2Proof.Machine.execAll pa pb a m s
  | .gset unset a b => Sys2Proof.Machine.execGset unset a b s
  | .gets nw d idx => Sys2Proof.Machine.execGets nw d idx s
  | .pand d a b m => Sys2Proof.Machine.execPand d a b m s
  | .por d a b m => Sys2Proof.Machine.execPor d a b m s
  | .pxor d a b m => Sys2Proof.Machine.execPxor d a b m s
  | .pnot d a m => Sys2Proof.Machine.execPnot d a m s
  | .pmov d a m => Sys2Proof.Machine.execPmov d a m s
  | .bra y pred sense off => Sys2Proof.Machine.execBra y pred sense off s
  | .brc y pred sense off => Sys2Proof.Machine.execBrc y pred sense off s
  | .brg pred sense target reconv => Sys2Proof.Machine.execBrg pred sense target reconv s
  | .jmpi a => Sys2Proof.Machine.execJmpi a s
  | .call pred sense off => Sys2Proof.Machine.execCall pred sense off s
  | .callv nw d a => Sys2Proof.Machine.execCallv nw d a s
  | .ret => Sys2Proof.Machine.execRet s
  | .retv d => Sys2Proof.Machine.execRetv d s
  | .loop count end15 => Sys2Proof.Machine.execLoop count end15 s
  | .lbrk pred sense off => Sys2Proof.Machine.execLbrk pred sense off s
  | .cmp cond comb pa pb a b m => Sys2Proof.Machine.execCmp cond comb pa pb a b m s
  | .iadd nw d a b m => Sys2Proof.Machine.execIadd nw d a b m s
  | .isub nw d a b m => Sys2Proof.Machine.execIsub nw d a b m s
  | .iaddc nw d a b m => Sys2Proof.Machine.execIaddc nw d a b m s
  | .isubb nw d a b m => Sys2Proof.Machine.execIsubb nw d a b m s
  | .imul nw d a b m => Sys2Proof.Machine.execImul nw d a b m s
  | .imulh nw d a b m => Sys2Proof.Machine.execImulh nw d a b m s
  | .imad nw d a b m => Sys2Proof.Machine.execImad nw d a b m s
  | .iabs nw d a m => Sys2Proof.Machine.execIabs nw d a m s
  | .ineg nw d a m => Sys2Proof.Machine.execIneg nw d a m s
  | .imin nw d a b m => Sys2Proof.Machine.execImin nw d a b m s
  | .imax nw d a b m => Sys2Proof.Machine.execImax nw d a b m s
  | .isad nw d a b m => Sys2Proof.Machine.execIsad nw d a b m s
  | .and nw d a b m => Sys2Proof.Machine.execAnd nw d a b m s
  | .or nw d a b m => Sys2Proof.Machine.execOr nw d a b m s
  | .xor nw d a b m => Sys2Proof.Machine.execXor nw d a b m s
  | .andn nw d a b m => Sys2Proof.Machine.execAndn nw d a b m s
  | .shl nw d a b m => Sys2Proof.Machine.execShl nw d a b m s
  | .shr nw d a b m => Sys2Proof.Machine.execShr nw d a b m s
  | .sar nw d a b m => Sys2Proof.Machine.execSar nw d a b m s
  | .rot nw d a b m => Sys2Proof.Machine.execRot nw d a b m s
  | .fshl nw d a b m => Sys2Proof.Machine.execFshl nw d a b m s
  | .bfe nw d a b m => Sys2Proof.Machine.execBfe nw d a b m s
  | .bfi nw d a b m => Sys2Proof.Machine.execBfi nw d a b m s
  | .popc nw d a m => Sys2Proof.Machine.execPopc nw d a m s
  | .clz nw d a m => Sys2Proof.Machine.execClz nw d a m s
  | .ctz nw d a m => Sys2Proof.Machine.execCtz nw d a m s
  | .brev nw d a m => Sys2Proof.Machine.execBrev nw d a m s
  | .bperm nw d a b m => Sys2Proof.Machine.execBperm nw d a b m s
  | .lea nw d a b m => Sys2Proof.Machine.execLea nw d a b m s
  | .mov nw d a m => Sys2Proof.Machine.execMov nw d a m s
  | .sel nw d a b m => Sys2Proof.Machine.execSel nw d a b m s
  | .idot4 nw d a b m => Sys2Proof.Machine.execIdot4 nw d a b m s
  | .iaddImm nw d a imm m => Sys2Proof.Machine.execIaddImm nw d a imm m s
  | .imulImm nw d a imm m => Sys2Proof.Machine.execImulImm nw d a imm m s
  | .iminImm nw d a imm m => Sys2Proof.Machine.execIminImm nw d a imm m s
  | .imaxImm nw d a imm m => Sys2Proof.Machine.execImaxImm nw d a imm m s
  | .andImm nw d a imm m => Sys2Proof.Machine.execAndImm nw d a imm m s
  | .orImm nw d a imm m => Sys2Proof.Machine.execOrImm nw d a imm m s
  | .xorImm nw d a imm m => Sys2Proof.Machine.execXorImm nw d a imm m s
  | .andnImm nw d a imm m => Sys2Proof.Machine.execAndnImm nw d a imm m s
  | .shlImm nw d a imm m => Sys2Proof.Machine.execShlImm nw d a imm m s
  | .shrImm nw d a imm m => Sys2Proof.Machine.execShrImm nw d a imm m s
  | .sarImm nw d a imm m => Sys2Proof.Machine.execSarImm nw d a imm m s
  | .rotImm nw d a imm m => Sys2Proof.Machine.execRotImm nw d a imm m s
  | .leaImm nw d a imm m => Sys2Proof.Machine.execLeaImm nw d a imm m s
  | .bfeImm nw d a imm m => Sys2Proof.Machine.execBfeImm nw d a imm m s
  | .lim nw d imm => Sys2Proof.Machine.execLim nw d imm s
  | .limh nw d imm => Sys2Proof.Machine.execLimh nw d imm s
  | .fadd nw d a b m => Sys2Proof.Machine.execFadd nw d a b m s
  | .fsub nw d a b m => Sys2Proof.Machine.execFsub nw d a b m s
  | .fmul nw d a b m => Sys2Proof.Machine.execFmul nw d a b m s
  | .ffma nw d a b m => Sys2Proof.Machine.execFfma nw d a b m s
  | .fmin nw d a b m => Sys2Proof.Machine.execFmin nw d a b m s
  | .fmax nw d a b m => Sys2Proof.Machine.execFmax nw d a b m s
  | .fabs nw d a m => Sys2Proof.Machine.execFabs nw d a m s
  | .fneg nw d a m => Sys2Proof.Machine.execFneg nw d a m s
  | .fclass nw d a m => Sys2Proof.Machine.execFclass nw d a m s
  | .frnd nw d a m => Sys2Proof.Machine.execFrnd nw d a m s
  | .fscale nw d a b m => Sys2Proof.Machine.execFscale nw d a b m s
  | .cvt nw d a part => Sys2Proof.Machine.execCvt nw d a part s
  | .fqblk nw d a half => Sys2Proof.Machine.execFqblk nw d a half s
  | .fsplit3 nw d a part => Sys2Proof.Machine.execFsplit3 nw d a part s
  | .frcp nw d a m => Sys2Proof.Machine.execFrcp nw d a m s
  | .frsq nw d a m => Sys2Proof.Machine.execFrsq nw d a m s
  | .fexp2 nw d a m => Sys2Proof.Machine.execFexp2 nw d a m s
  | .flog2 nw d a m => Sys2Proof.Machine.execFlog2 nw d a m s
  | .fsinp nw d a m => Sys2Proof.Machine.execFsinp nw d a m s
  | .fcosp nw d a m => Sys2Proof.Machine.execFcosp nw d a m s
  | .ftanh nw d a m => Sys2Proof.Machine.execFtanh nw d a m s
  | .lget nw d a b m => Sys2Proof.Machine.execLget nw d a b m s
  | .lflip nw d a b m => Sys2Proof.Machine.execLflip nw d a b m s
  | .lprev nw d a b m => Sys2Proof.Machine.execLprev nw d a b m s
  | .lnext nw d a b m => Sys2Proof.Machine.execLnext nw d a b m s
  | .bcast nw d a b m => Sys2Proof.Machine.execBcast nw d a b m s
  | .cred nw d a op m => Sys2Proof.Machine.execCred nw d a op m s
  | .cscan nw d a excl op m => Sys2Proof.Machine.execCscan nw d a excl op m s
  | .lpeer nw d a m => Sys2Proof.Machine.execLpeer nw d a m s
  | .lgetImm nw d a imm m => Sys2Proof.Machine.execLgetImm nw d a imm m s
  | .lflipImm nw d a imm m => Sys2Proof.Machine.execLflipImm nw d a imm m s
  | .lprevImm nw d a imm m => Sys2Proof.Machine.execLprevImm nw d a imm m s
  | .lnextImm nw d a imm m => Sys2Proof.Machine.execLnextImm nw d a imm m s
  | .bcastImm nw d a imm m => Sys2Proof.Machine.execBcastImm nw d a imm m s
  | .iaddU d a b m => Sys2Proof.Machine.execIaddU d a b m s
  | .isubU d a b m => Sys2Proof.Machine.execIsubU d a b m s
  | .iaddcU d a b m => Sys2Proof.Machine.execIaddcU d a b m s
  | .isubbU d a b m => Sys2Proof.Machine.execIsubbU d a b m s
  | .imulU d a b m => Sys2Proof.Machine.execImulU d a b m s
  | .imulhU d a b m => Sys2Proof.Machine.execImulhU d a b m s
  | .imadU d a b m => Sys2Proof.Machine.execImadU d a b m s
  | .iabsU d a m => Sys2Proof.Machine.execIabsU d a m s
  | .inegU d a m => Sys2Proof.Machine.execInegU d a m s
  | .iminU d a b m => Sys2Proof.Machine.execIminU d a b m s
  | .imaxU d a b m => Sys2Proof.Machine.execImaxU d a b m s
  | .isadU d a b m => Sys2Proof.Machine.execIsadU d a b m s
  | .andU d a b m => Sys2Proof.Machine.execAndU d a b m s
  | .orU d a b m => Sys2Proof.Machine.execOrU d a b m s
  | .xorU d a b m => Sys2Proof.Machine.execXorU d a b m s
  | .andnU d a b m => Sys2Proof.Machine.execAndnU d a b m s
  | .shlU d a b m => Sys2Proof.Machine.execShlU d a b m s
  | .shrU d a b m => Sys2Proof.Machine.execShrU d a b m s
  | .sarU d a b m => Sys2Proof.Machine.execSarU d a b m s
  | .rotU d a b m => Sys2Proof.Machine.execRotU d a b m s
  | .fshlU d a b m => Sys2Proof.Machine.execFshlU d a b m s
  | .bfeU d a b m => Sys2Proof.Machine.execBfeU d a b m s
  | .bfiU d a b m => Sys2Proof.Machine.execBfiU d a b m s
  | .popcU d a m => Sys2Proof.Machine.execPopcU d a m s
  | .clzU d a m => Sys2Proof.Machine.execClzU d a m s
  | .ctzU d a m => Sys2Proof.Machine.execCtzU d a m s
  | .brevU d a m => Sys2Proof.Machine.execBrevU d a m s
  | .bpermU d a b m => Sys2Proof.Machine.execBpermU d a b m s
  | .leaU d a b m => Sys2Proof.Machine.execLeaU d a b m s
  | .movU d a m => Sys2Proof.Machine.execMovU d a m s
  | .selU d a b m => Sys2Proof.Machine.execSelU d a b m s
  | .idot4U d a b m => Sys2Proof.Machine.execIdot4U d a b m s
  | .iaddImmU d a imm m => Sys2Proof.Machine.execIaddImmU d a imm m s
  | .imulImmU d a imm m => Sys2Proof.Machine.execImulImmU d a imm m s
  | .iminImmU d a imm m => Sys2Proof.Machine.execIminImmU d a imm m s
  | .imaxImmU d a imm m => Sys2Proof.Machine.execImaxImmU d a imm m s
  | .andImmU d a imm m => Sys2Proof.Machine.execAndImmU d a imm m s
  | .orImmU d a imm m => Sys2Proof.Machine.execOrImmU d a imm m s
  | .xorImmU d a imm m => Sys2Proof.Machine.execXorImmU d a imm m s
  | .andnImmU d a imm m => Sys2Proof.Machine.execAndnImmU d a imm m s
  | .shlImmU d a imm m => Sys2Proof.Machine.execShlImmU d a imm m s
  | .shrImmU d a imm m => Sys2Proof.Machine.execShrImmU d a imm m s
  | .sarImmU d a imm m => Sys2Proof.Machine.execSarImmU d a imm m s
  | .rotImmU d a imm m => Sys2Proof.Machine.execRotImmU d a imm m s
  | .leaImmU d a imm m => Sys2Proof.Machine.execLeaImmU d a imm m s
  | .bfeImmU d a imm m => Sys2Proof.Machine.execBfeImmU d a imm m s
  | .limU d imm => Sys2Proof.Machine.execLimU d imm s
  | .limhU d imm => Sys2Proof.Machine.execLimhU d imm s
  | .faddU d a b m => Sys2Proof.Machine.execFaddU d a b m s
  | .fsubU d a b m => Sys2Proof.Machine.execFsubU d a b m s
  | .fmulU d a b m => Sys2Proof.Machine.execFmulU d a b m s
  | .ffmaU d a b m => Sys2Proof.Machine.execFfmaU d a b m s
  | .fminU d a b m => Sys2Proof.Machine.execFminU d a b m s
  | .fmaxU d a b m => Sys2Proof.Machine.execFmaxU d a b m s
  | .fabsU d a m => Sys2Proof.Machine.execFabsU d a m s
  | .fnegU d a m => Sys2Proof.Machine.execFnegU d a m s
  | .fclassU d a m => Sys2Proof.Machine.execFclassU d a m s
  | .frndU d a m => Sys2Proof.Machine.execFrndU d a m s
  | .fscaleU d a b m => Sys2Proof.Machine.execFscaleU d a b m s
  | .cvtU d a part => Sys2Proof.Machine.execCvtU d a part s
  | .frcpU d a m => Sys2Proof.Machine.execFrcpU d a m s
  | .frsqU d a m => Sys2Proof.Machine.execFrsqU d a m s
  | .fexp2U d a m => Sys2Proof.Machine.execFexp2U d a m s
  | .flog2U d a m => Sys2Proof.Machine.execFlog2U d a m s
  | .fsinpU d a m => Sys2Proof.Machine.execFsinpU d a m s
  | .fcospU d a m => Sys2Proof.Machine.execFcospU d a m s
  | .ftanhU d a m => Sys2Proof.Machine.execFtanhU d a m s
  | .ld hint nw d a imm m => Sys2Proof.Machine.execLd hint nw d a imm m s
  | .st hint d a imm m => Sys2Proof.Machine.execSt hint d a imm m s
  | .ldu hint d a imm m => Sys2Proof.Machine.execLdu hint d a imm m s
  | .stu hint d a imm m => Sys2Proof.Machine.execStu hint d a imm m s
  | .lds nw d a imm m => Sys2Proof.Machine.execLds nw d a imm m s
  | .sts d a imm m => Sys2Proof.Machine.execSts d a imm m s
  | .ldq hint q a imm m => Sys2Proof.Machine.execLdq hint q a imm m s
  | .stq hint q a imm m => Sys2Proof.Machine.execStq hint q a imm m s
  | .atom op nw d a imm m => Sys2Proof.Machine.execAtom op nw d a imm m s
  | .red op d a imm m => Sys2Proof.Machine.execRed op d a imm m s
  | .claim nw d a imm m => Sys2Proof.Machine.execClaim nw d a imm m s
  | .fence scope form => Sys2Proof.Machine.execFence scope form s
  | .cpy y gv slot a b sub => Sys2Proof.Machine.execCpy y gv slot a b sub s
  | .tcopy y gv slot a b sub => Sys2Proof.Machine.execTcopy y gv slot a b sub s
  | .cseal d => Sys2Proof.Machine.execCseal d s
  | .cwait d src => Sys2Proof.Machine.execCwait d src s
  | .cwaitn d k => Sys2Proof.Machine.execCwaitn d k s
  | .barinit d a imm m => Sys2Proof.Machine.execBarinit d a imm m s
  | .bararr d a imm m => Sys2Proof.Machine.execBararr d a imm m s
  | .barwait nw d a imm m => Sys2Proof.Machine.execBarwait nw d a imm m s
  | .bartry nw d a m => Sys2Proof.Machine.execBartry nw d a m s
  | .gbar => Sys2Proof.Machine.execGbar s
  | .pref a l2 m => Sys2Proof.Machine.execPref a l2 m s
  | .cinv a l2 m => Sys2Proof.Machine.execCinv a l2 m s
  | .cflush a l2 m => Sys2Proof.Machine.execCflush a l2 m s
  | .spbind wrk port a m => Sys2Proof.Machine.execSpbind wrk port a m s
  | .sppos d hi wrk port => Sys2Proof.Machine.execSppos d hi wrk port s
  | .wload y gv slot a sp wsl => Sys2Proof.Machine.execWload y gv slot a sp wsl s
  | .qmma y gv slot a z wsl tile => Sys2Proof.Machine.execQmma y gv slot a z wsl tile s
  | .qmmar y gv slot a z wsl tile => Sys2Proof.Machine.execQmmar y gv slot a z wsl tile s
  | .accz gv slot res tile => Sys2Proof.Machine.execAccz gv slot res tile s
  | .accld gv slot a res sp tile => Sys2Proof.Machine.execAccld gv slot a res sp tile s
  | .accst gv slot a res sp tile => Sys2Proof.Machine.execAccst gv slot a res sp tile s
  | .twait d allc res tile => Sys2Proof.Machine.execTwait d allc res tile s
  | .wfree gv slot wsl => Sys2Proof.Machine.execWfree gv slot wsl s
  | .accrd nw d res tile b m => Sys2Proof.Machine.execAccrd nw d res tile b m s
  | .rnsf nw d a m => Sys2Proof.Machine.execRnsf nw d a m s
  | .rnsr nw d a m => Sys2Proof.Machine.execRnsr nw d a m s
  | .rnsc nw d a m => Sys2Proof.Machine.execRnsc nw d a m s
  | .rnsmul nw d a b m => Sys2Proof.Machine.execRnsmul nw d a b m s
  | .rnsadd nw d a b m => Sys2Proof.Machine.execRnsadd nw d a b m s
  | .vsort d a desc m => Sys2Proof.Machine.execVsort d a desc m s
  | .vmerge d a dd desc m => Sys2Proof.Machine.execVmerge d a dd desc m s
  | .vtopk d a least k m => Sys2Proof.Machine.execVtopk d a least k m s
  | .vselth d a b m => Sys2Proof.Machine.execVselth d a b m s
  | .sopen d a keep m => Sys2Proof.Machine.execSopen d a keep m s
  | .sseal d a m => Sys2Proof.Machine.execSseal d a m s
  | .wseed d => Sys2Proof.Machine.execWseed d s
  | .wput a tag m => Sys2Proof.Machine.execWput a tag m s
  | .whash nw d a m => Sys2Proof.Machine.execWhash nw d a m s
  | .wproj nw d a b m => Sys2Proof.Machine.execWproj nw d a b m s
  | .launch a m => Sys2Proof.Machine.execLaunch a m s
  | .trig => Sys2Proof.Machine.execTrig s
  | .waitd => Sys2Proof.Machine.execWaitd s
  | .coll gv slot a op => Sys2Proof.Machine.execColl gv slot a op s
  | .collw d src => Sys2Proof.Machine.execCollw d src s
  | .mfp d idx => Sys2Proof.Machine.execMfp d idx s
  | .mtp a idx => Sys2Proof.Machine.execMtp a idx s
  | .eret d form => Sys2Proof.Machine.execEret d form s
  | .tlbinv a kind scope => Sys2Proof.Machine.execTlbinv a kind scope s
  | .ctxsave d a fr sl => Sys2Proof.Machine.execCtxsave d a fr sl s
  | .ctxload d a => Sys2Proof.Machine.execCtxload d a s
  | .park d a form => Sys2Proof.Machine.execPark d a form s
  | .unpark d a => Sys2Proof.Machine.execUnpark d a s
  | .shedack d => Sys2Proof.Machine.execShedack d s
  | .declass nw d a lab m => Sys2Proof.Machine.execDeclass nw d a lab m s
  | .ovloadp a k => Sys2Proof.Machine.execOvloadp a k s
  | .halt status => Sys2Proof.Machine.execHalt status s
  | .codeFetch => Sys2Proof.Machine.execCodeFetch s
  | .codePageRefill => Sys2Proof.Machine.execCodePageRefill s
  | .loadDataArrival => Sys2Proof.Machine.execLoadDataArrival s
  | .handlerTimeLimit => Sys2Proof.Machine.execHandlerTimeLimit s
  | .slotGrant => Sys2Proof.Machine.execSlotGrant s
  | .brgMeeting => Sys2Proof.Machine.execBrgMeeting s
  | .brgPathEnd => Sys2Proof.Machine.execBrgPathEnd s
  | .gangComplete => Sys2Proof.Machine.execGangComplete s
  | .witnessHandoff => Sys2Proof.Machine.execWitnessHandoff s
  | .scratchpadAdapt => Sys2Proof.Machine.execScratchpadAdapt s
  | .granuleMoveDone => Sys2Proof.Machine.execGranuleMoveDone s
  | .l1BackgroundClean => Sys2Proof.Machine.execL1BackgroundClean s
  | .copyAccept => Sys2Proof.Machine.execCopyAccept s
  | .copyComplete => Sys2Proof.Machine.execCopyComplete s
  | .barwaitTimeout => Sys2Proof.Machine.execBarwaitTimeout s
  | .matrixAccept => Sys2Proof.Machine.execMatrixAccept s
  | .gatherComplete => Sys2Proof.Machine.execGatherComplete s
  | .matrixPass => Sys2Proof.Machine.execMatrixPass s
  | .passComplete => Sys2Proof.Machine.execPassComplete s
  | .wloadPerform => Sys2Proof.Machine.execWloadPerform s
  | .wfreePerform => Sys2Proof.Machine.execWfreePerform s
  | .tileCommandPerform => Sys2Proof.Machine.execTileCommandPerform s
  | .stagingFillDone => Sys2Proof.Machine.execStagingFillDone s
  | .ssealProceed => Sys2Proof.Machine.execSsealProceed s
  | .digestTaken => Sys2Proof.Machine.execDigestTaken s
  | .seedReveal => Sys2Proof.Machine.execSeedReveal s
  | .wseedTimeout => Sys2Proof.Machine.execWseedTimeout s
  | .witnessTest => Sys2Proof.Machine.execWitnessTest s
  | .versionRelease => Sys2Proof.Machine.execVersionRelease s
  | .versionVoid => Sys2Proof.Machine.execVersionVoid s
  | .reexecutionPost => Sys2Proof.Machine.execReexecutionPost s
  | .residueReport => Sys2Proof.Machine.execResidueReport s
  | .selfTestDone => Sys2Proof.Machine.execSelfTestDone s
  | .strikeReport => Sys2Proof.Machine.execStrikeReport s
  | .patrolScrub => Sys2Proof.Machine.execPatrolScrub s
  | .collComplete => Sys2Proof.Machine.execCollComplete s
  | .collBoundExpiry => Sys2Proof.Machine.execCollBoundExpiry s
  | .postSubmit => Sys2Proof.Machine.execPostSubmit s
  | .postForward => Sys2Proof.Machine.execPostForward s
  | .nodeAccept => Sys2Proof.Machine.execNodeAccept s
  | .gangPlace => Sys2Proof.Machine.execGangPlace s
  | .placementReservation => Sys2Proof.Machine.execPlacementReservation s
  | .parkComplete => Sys2Proof.Machine.execParkComplete s
  | .ctxsaveDone => Sys2Proof.Machine.execCtxsaveDone s
  | .ctxloadDone => Sys2Proof.Machine.execCtxloadDone s
  | .shedPreempt => Sys2Proof.Machine.execShedPreempt s
  | .pageWalk => Sys2Proof.Machine.execPageWalk s
  | .engineFaultDelivery => Sys2Proof.Machine.execEngineFaultDelivery s
  | .readShared => Sys2Proof.Machine.execReadShared s
  | .readOwn => Sys2Proof.Machine.execReadOwn s
  | .upgrade => Sys2Proof.Machine.execUpgrade s
  | .writeBack => Sys2Proof.Machine.execWriteBack s
  | .grant => Sys2Proof.Machine.execGrant s
  | .recallS => Sys2Proof.Machine.execRecallS s
  | .recallI => Sys2Proof.Machine.execRecallI s
  | .invalidate => Sys2Proof.Machine.execInvalidate s
  | .recallReply => Sys2Proof.Machine.execRecallReply s
  | .invAck => Sys2Proof.Machine.execInvAck s
  | .releaseMessage => Sys2Proof.Machine.execReleaseMessage s
  | .releaseAck => Sys2Proof.Machine.execReleaseAck s
  | .remoteAccessArrival => Sys2Proof.Machine.execRemoteAccessArrival s
  | .remoteResponse => Sys2Proof.Machine.execRemoteResponse s
  | .remoteAccessTimeout => Sys2Proof.Machine.execRemoteAccessTimeout s
  | .noticeArrival => Sys2Proof.Machine.execNoticeArrival s
  | .provisionalTimeout => Sys2Proof.Machine.execProvisionalTimeout s
  | .hostWrite => Sys2Proof.Machine.execHostWrite s
  | .hostRead => Sys2Proof.Machine.execHostRead s
  | .ringEntryWrite => Sys2Proof.Machine.execRingEntryWrite s
  | .partitionRelease => Sys2Proof.Machine.execPartitionRelease s
  | .keyExchange => Sys2Proof.Machine.execKeyExchange s
  | .weightKey => Sys2Proof.Machine.execWeightKey s
  | .pageExport => Sys2Proof.Machine.execPageExport s
  | .pageImport => Sys2Proof.Machine.execPageImport s
  | .sealedTransferIn => Sys2Proof.Machine.execSealedTransferIn s
  | .sealedTransferOut => Sys2Proof.Machine.execSealedTransferOut s
  | .attestation => Sys2Proof.Machine.execAttestation s
  | .certificateRead => Sys2Proof.Machine.execCertificateRead s
  | .faultRecordRead => Sys2Proof.Machine.execFaultRecordRead s
  | .collectiveGroup => Sys2Proof.Machine.execCollectiveGroup s
  | .unknownCommand => Sys2Proof.Machine.execUnknownCommand s
  | .fabidWrite => Sys2Proof.Machine.execFabidWrite s
  | .islctlWrite => Sys2Proof.Machine.execIslctlWrite s
  | .registerWrite => Sys2Proof.Machine.execRegisterWrite s
  | .railSwitchDone => Sys2Proof.Machine.execRailSwitchDone s
  | .islandPowerDown => Sys2Proof.Machine.execIslandPowerDown s
  | .islandWakeStart => Sys2Proof.Machine.execIslandWakeStart s
  | .islandWakeDone => Sys2Proof.Machine.execIslandWakeDone s
  | .laneGroupGate => Sys2Proof.Machine.execLaneGroupGate s
  | .bankDrowsy => Sys2Proof.Machine.execBankDrowsy s
  | .energyUpdate => Sys2Proof.Machine.execEnergyUpdate s
  | .droopTrip => Sys2Proof.Machine.execDroopTrip s
  | .droopStretchEnd => Sys2Proof.Machine.execDroopStretchEnd s
  | .droopHalveEnd => Sys2Proof.Machine.execDroopHalveEnd s
  | .telemetryFrame => Sys2Proof.Machine.execTelemetryFrame s
  | .telemetryFailsafe => Sys2Proof.Machine.execTelemetryFailsafe s
  | .shedLevelApply => Sys2Proof.Machine.execShedLevelApply s
  | .flitReplay => Sys2Proof.Machine.execFlitReplay s
  | .linkRetrainDone => Sys2Proof.Machine.execLinkRetrainDone s
  | .packageReset => Sys2Proof.Machine.execPackageReset s
  | .unassignedOpcode => Sys2Proof.Machine.execUnassignedOpcode s
  | .fabricPortDown => Sys2Proof.Machine.execFabricPortDown s
  | .failSafeFrameTime => Sys2Proof.Machine.execFailSafeFrameTime s
  | .pshedWrite => Sys2Proof.Machine.execPshedWrite s

end Sys2Proof.Machine
end

