-- ==== Sys2Proof/Machine/Fields.lean ====
section
/-! DEFINITION. What an instruction reads of its stream's register bank by its fields, and the lanes it is active in: for the
rationing of operand reads, the clock gates of the lanes, the charges of predicates and the errors of a bank (03 R74, 05 R120,
R131, 13 R313, 18 R424, R426, R432). -/

namespace Sys2Proof.Machine

/-- The source fields of an instruction, in the code of 05 R122: its operand fields, the destination where its entry reads the
old value or takes data from it, and a uniform register that a 6-bit field names. -/
def Instr.sources : Instr → List Nat
  | .ovload a _ | .ovcall a _ | .modeUniform a _ | .setem a | .jmpi a | .callv _ _ a | .iabs _ _ a _ | .ineg _ _ a _
  | .popc _ _ a _ | .clz _ _ a _ | .ctz _ _ a _ | .brev _ _ a _ | .mov _ _ a _ | .iaddImm _ _ a _ _ | .imulImm _ _ a _ _
  | .iminImm _ _ a _ _ | .imaxImm _ _ a _ _ | .andImm _ _ a _ _ | .orImm _ _ a _ _ | .xorImm _ _ a _ _ | .andnImm _ _ a _ _
  | .shlImm _ _ a _ _ | .shrImm _ _ a _ _ | .sarImm _ _ a _ _ | .rotImm _ _ a _ _ | .leaImm _ _ a _ _ | .bfeImm _ _ a _ _
  | .fabs _ _ a _ | .fneg _ _ a _ | .fclass _ _ a _ | .frnd _ _ a _ | .cvt _ _ a _ | .fqblk _ _ a _ | .fsplit3 _ _ a _
  | .frcp _ _ a _ | .frsq _ _ a _ | .fexp2 _ _ a _ | .flog2 _ _ a _ | .fsinp _ _ a _ | .fcosp _ _ a _ | .ftanh _ _ a _
  | .cred _ _ a _ _ | .cscan _ _ a _ _ _ | .lpeer _ _ a _ | .lgetImm _ _ a _ _ | .lflipImm _ _ a _ _ | .lprevImm _ _ a _ _
  | .lnextImm _ _ a _ _ | .bcastImm _ _ a _ _ | .iabsU _ a _ | .inegU _ a _ | .popcU _ a _ | .clzU _ a _ | .ctzU _ a _
  | .brevU _ a _ | .movU _ a _ | .iaddImmU _ a _ _ | .imulImmU _ a _ _ | .iminImmU _ a _ _ | .imaxImmU _ a _ _
  | .andImmU _ a _ _ | .orImmU _ a _ _ | .xorImmU _ a _ _ | .andnImmU _ a _ _ | .shlImmU _ a _ _ | .shrImmU _ a _ _
  | .sarImmU _ a _ _ | .rotImmU _ a _ _ | .leaImmU _ a _ _ | .bfeImmU _ a _ _ | .fabsU _ a _ | .fnegU _ a _ | .fclassU _ a _
  | .frndU _ a _ | .cvtU _ a _ | .frcpU _ a _ | .frsqU _ a _ | .fexp2U _ a _ | .flog2U _ a _ | .fsinpU _ a _ | .fcospU _ a _
  | .ftanhU _ a _ | .ld _ _ _ a _ _ | .ldu _ _ a _ _ | .lds _ _ a _ _ | .ldq _ _ a _ _ | .stq _ _ a _ _ | .claim _ _ a _ _
  | .barwait _ _ a _ _ | .bartry _ _ a _ | .pref a _ _ | .cinv a _ _ | .cflush a _ _ | .spbind _ _ a _ | .wload _ _ _ a _ _
  | .qmma _ _ _ a _ _ _ | .qmmar _ _ _ a _ _ _ | .accld _ _ a _ _ _ | .accst _ _ a _ _ _ | .rnsf _ _ a _ | .rnsr _ _ a _
  | .rnsc _ _ a _ | .vsort _ a _ _ | .vmerge _ a _ _ _ | .vtopk _ a _ _ _ | .sopen _ a _ _ | .sseal _ a _ | .wput a _ _
  | .whash _ _ a _ | .launch a _ | .coll _ _ a _ | .mtp a _ | .tlbinv a _ _ | .park _ a _ | .unpark _ a | .declass _ _ a _ _
  | .ovloadp a _ => [a.toNat]
  | .retv d | .limh _ d _ => [d.toNat]
  | .loop count _ => [count.toNat]
  | .cmp _ _ _ _ a b _ | .iadd _ _ a b _ | .isub _ _ a b _ | .iaddc _ _ a b _ | .isubb _ _ a b _ | .imul _ _ a b _
  | .imulh _ _ a b _ | .imin _ _ a b _ | .imax _ _ a b _ | .and _ _ a b _ | .or _ _ a b _ | .xor _ _ a b _ | .andn _ _ a b _
  | .shl _ _ a b _ | .shr _ _ a b _ | .sar _ _ a b _ | .rot _ _ a b _ | .bfe _ _ a b _ | .bperm _ _ a b _ | .lea _ _ a b _
  | .sel _ _ a b _ | .fadd _ _ a b _ | .fsub _ _ a b _ | .fmul _ _ a b _ | .fmin _ _ a b _ | .fmax _ _ a b _ | .fscale _ _ a b _
  | .lget _ _ a b _ | .lflip _ _ a b _ | .lprev _ _ a b _ | .lnext _ _ a b _ | .bcast _ _ a b _ | .iaddU _ a b _
  | .isubU _ a b _ | .iaddcU _ a b _ | .isubbU _ a b _ | .imulU _ a b _ | .imulhU _ a b _ | .iminU _ a b _ | .imaxU _ a b _
  | .andU _ a b _ | .orU _ a b _ | .xorU _ a b _ | .andnU _ a b _ | .shlU _ a b _ | .shrU _ a b _ | .sarU _ a b _
  | .rotU _ a b _ | .bfeU _ a b _ | .bpermU _ a b _ | .leaU _ a b _ | .selU _ a b _ | .faddU _ a b _ | .fsubU _ a b _
  | .fmulU _ a b _ | .fminU _ a b _ | .fmaxU _ a b _ | .fscaleU _ a b _ | .cpy _ _ _ a b _ | .tcopy _ _ _ a b _
  | .rnsmul _ _ a b _ | .rnsadd _ _ a b _ | .vselth _ a b _ | .wproj _ _ a b _ => [a.toNat, b.toNat]
  | .imad _ d a b _ | .isad _ d a b _ | .fshl _ d a b _ | .bfi _ d a b _ | .idot4 _ d a b _ | .ffma _ d a b _ => [a.toNat, b.toNat, d.toNat]
  | .imadU d a b _ | .isadU d a b _ | .fshlU d a b _ | .bfiU d a b _ | .idot4U d a b _ | .ffmaU d a b _ => [a.toNat, b.toNat, 80 + d.toNat]
  | .limhU d _ => [80 + d.toNat]
  | .st _ d a _ _ | .sts d a _ _ | .atom _ _ d a _ _ | .red _ d a _ _ => [a.toNat, d.toNat]
  | .stu _ d a _ _ | .ctxsave d a _ _ | .ctxload d a => [a.toNat, 80 + d.toNat]
  | .cwait _ src | .collw _ src => [src.toNat]
  | .accrd _ _ _ _ b _ => [b.toNat]
  | .tret d true => [80 + d.toNat]
  | .eret d form => if form = 2 then [80 + d.toNat] else []
  | .barinit d a imm _ | .bararr d a imm _ => if imm = 0 then [a.toNat, d.toNat] else [a.toNat]
  | _ => []

/-- The lanes an instruction works in. -/
inductive LaneUse where
  /-- None: it executes once. -/
  | none
  /-- The lanes of EM. -/
  | em
  /-- The lanes that the guard of set 0 or of set 1 enables. -/
  | guard (m : Bool)
  deriving DecidableEq, Repr

/-- The lanes of an instruction: Active() by the guard of the set that its format selects, EM for a branch, a loop or a MODE and
for the indirect transfers, none for U-forms and what works on uniform state (05 R124, R131). -/
def Instr.lanes : Instr → LaneUse
  | .exit | .brk | .trap | .gets .. | .lim .. | .limh .. | .cvt .. | .fqblk .. | .fsplit3 .. | .cpy .. | .tcopy .. | .wload ..
  | .qmma .. | .qmmar .. | .accz .. | .accld .. | .accst .. | .wfree .. | .coll .. => .guard false
  | .mode .. | .modeM1 .. | .modeBoth .. | .bra .. | .brc .. | .brg .. | .call .. | .lbrk .. | .loop .. | .jmpi .. | .callv ..
  | .retv .. => .em
  | .vote _ _ m | .any _ _ _ m | .all _ _ _ m | .pand _ _ _ m | .por _ _ _ m | .pxor _ _ _ m | .pnot _ _ m | .pmov _ _ m
  | .iadd _ _ _ _ m | .isub _ _ _ _ m | .iaddc _ _ _ _ m | .isubb _ _ _ _ m | .imul _ _ _ _ m | .imulh _ _ _ _ m
  | .imad _ _ _ _ m | .iabs _ _ _ m | .ineg _ _ _ m | .imin _ _ _ _ m | .imax _ _ _ _ m | .isad _ _ _ _ m | .and _ _ _ _ m
  | .or _ _ _ _ m | .xor _ _ _ _ m | .andn _ _ _ _ m | .shl _ _ _ _ m | .shr _ _ _ _ m | .sar _ _ _ _ m | .rot _ _ _ _ m
  | .fshl _ _ _ _ m | .bfe _ _ _ _ m | .bfi _ _ _ _ m | .popc _ _ _ m | .clz _ _ _ m | .ctz _ _ _ m | .brev _ _ _ m
  | .bperm _ _ _ _ m | .lea _ _ _ _ m | .mov _ _ _ m | .sel _ _ _ _ m | .idot4 _ _ _ _ m | .iaddImm _ _ _ _ m
  | .imulImm _ _ _ _ m | .iminImm _ _ _ _ m | .imaxImm _ _ _ _ m | .andImm _ _ _ _ m | .orImm _ _ _ _ m | .xorImm _ _ _ _ m
  | .andnImm _ _ _ _ m | .shlImm _ _ _ _ m | .shrImm _ _ _ _ m | .sarImm _ _ _ _ m | .rotImm _ _ _ _ m | .leaImm _ _ _ _ m
  | .bfeImm _ _ _ _ m | .fadd _ _ _ _ m | .fsub _ _ _ _ m | .fmul _ _ _ _ m | .ffma _ _ _ _ m | .fmin _ _ _ _ m
  | .fmax _ _ _ _ m | .fabs _ _ _ m | .fneg _ _ _ m | .fclass _ _ _ m | .frnd _ _ _ m | .fscale _ _ _ _ m | .frcp _ _ _ m
  | .frsq _ _ _ m | .fexp2 _ _ _ m | .flog2 _ _ _ m | .fsinp _ _ _ m | .fcosp _ _ _ m | .ftanh _ _ _ m | .lget _ _ _ _ m
  | .lflip _ _ _ _ m | .lprev _ _ _ _ m | .lnext _ _ _ _ m | .bcast _ _ _ _ m | .cred _ _ _ _ m | .cscan _ _ _ _ _ m
  | .lpeer _ _ _ m | .lgetImm _ _ _ _ m | .lflipImm _ _ _ _ m | .lprevImm _ _ _ _ m | .lnextImm _ _ _ _ m | .bcastImm _ _ _ _ m
  | .ld _ _ _ _ _ m | .st _ _ _ _ m | .lds _ _ _ _ m | .sts _ _ _ m | .ldq _ _ _ _ m | .stq _ _ _ _ m | .atom _ _ _ _ _ m
  | .red _ _ _ _ m | .claim _ _ _ _ m | .barinit _ _ _ m | .bararr _ _ _ m | .barwait _ _ _ _ m | .bartry _ _ _ m | .pref _ _ m
  | .cinv _ _ m | .cflush _ _ m | .spbind _ _ _ m | .accrd _ _ _ _ _ m | .rnsf _ _ _ m | .rnsr _ _ _ m | .rnsc _ _ _ m
  | .rnsmul _ _ _ _ m | .rnsadd _ _ _ _ m | .vsort _ _ _ m | .vmerge _ _ _ _ m | .vtopk _ _ _ _ m | .vselth _ _ _ m
  | .sopen _ _ _ m | .sseal _ _ m | .wput _ _ m | .whash _ _ _ m | .wproj _ _ _ _ m | .launch _ m | .declass _ _ _ _ m => .guard m
  | .cmp _ comb _ _ _ _ m => if comb = 1 then .em else .guard m
  | _ => .none

/-- The predicates that an instruction names as operands or reads by its entry (06 R145 to R148, R162, R164 to R169). -/
def Instr.predicates : Instr → List Nat
  | .vote _ a _ => [a.toNat % 8]
  | .any _ _ a _ | .all _ _ a _ => [a.toNat % 8]
  | .gset false _ b => [b.toNat % 8]
  | .pand _ a b _ | .por _ a b _ | .pxor _ a b _ => [a.toNat, b.toNat]
  | .pnot _ a _ | .pmov _ a _ => [a.toNat]
  | .bra _ p _ _ | .brc _ p _ _ | .brg p _ _ _ | .call p _ _ | .lbrk p _ _ => [p.toNat]
  | .cmp _ comb pa pb _ _ _ => if 6 ≤ comb.toNat then [pb.toNat] else if 2 ≤ comb.toNat then [pa.toNat] else []
  | .iaddc .. | .isubb .. | .iaddcU .. | .isubbU .. => [6]
  | _ => []

/-- The predicates of the register file that an instruction reads, each once: those it names and the guard of its set; p7 is no
register (03 R74, R75). -/
def Stream.predsRead (t : Stream) (i : Instr) : List Nat :=
  let guard : List Nat := match Instr.lanes i with
    | .guard m => [modeGP (t.mode m)]
    | _ => []
  (distinct (Instr.predicates i ++ guard)).filter (· != 7)

/-- The lanes in which an instruction works now. -/
def Stream.lanesOf (t : Stream) (i : Instr) : Word :=
  match Instr.lanes i with
  | .none => 0
  | .em => t.em
  | .guard m => t.active m

/-- The instruction reads the register file: a vector or uniform register or a predicate (18 R424). -/
def Stream.gathers (t : Stream) (i : Instr) : Bool :=
  (Instr.sources i).any (fun f => decide (f < 56) || (decide (80 ≤ f) && decide (f < 112))) || t.predsRead i != []

/-- The registers of the bank that an instruction reads beside the operands that the operand collector checks: its predicates, and
the uniform register that a 6-bit field names (13 R313). -/
def Stream.banksRead (t : Stream) (i : Instr) : List Nat :=
  let named : List Nat := match i with
    | .tret d true => [64 + d.toNat]
    | .eret d form => if form = 2 then [64 + d.toNat] else []
    | .ctxsave d .. | .ctxload d _ => [64 + d.toNat]
    | _ => []
  named ++ (t.predsRead i).map (96 + ·)

end Sys2Proof.Machine
end

