-- ==== Sys2Proof/Machine/Policy.lean ====
section
/-! DEFINITION. Which agent moves in a step: the event at the head of the agenda, or by turns a stream and an event of the
device that is due; and what a stream does before an instruction executes (log entry 1). -/

namespace Sys2Proof.Machine

/-- The instruction is a step of the device, not an instruction of a stream. -/
def Instr.isEvent (i : Instr) : Bool := (encode i).isNone && i != .unassignedOpcode

/-- Who moves. -/
inductive Turn where
  /-- A step of the device with its operands. -/
  | event (i : Instr) (e : Ev)
  | stream (r : Nat)
  | idle
  deriving DecidableEq, Repr

/-! Events of the device that may be due when no agenda says otherwise (log entry 1). -/

/-- One event for each number of a list. -/
def each (i : Instr) (ks : List Nat) : List (Instr × Ev) := ks.map fun k => (i, { n0 := k })

/-- Events of streams. -/
def State.streamEvents (s : State) : List (Instr × Ev) :=
  s.streams.flatMap fun p =>
    (p.2.loads.map fun l => (Instr.loadDataArrival, ({ n0 := p.1, n1 := l.id } : Ev))) ++
    [Instr.engineFaultDelivery, .codePageRefill, .handlerTimeLimit, .copyAccept, .matrixAccept, .barwaitTimeout, .wseedTimeout,
      .ssealProceed, .ctxsaveDone, .ctxloadDone, .bankDrowsy].map fun i => (i, { n0 := p.1 })

/-- Events of gangs. -/
def State.gangEvents (s : State) : List (Instr × Ev) :=
  s.gangs.flatMap fun p =>
    [Instr.brgMeeting, .brgPathEnd, .gangComplete, .parkComplete, .shedPreempt].map fun i => (i, { n0 := p.1 })

/-- Events of cores. -/
def State.coreEvents (s : State) : List (Instr × Ev) :=
  (distinct (s.crews.map fun c => (s.gang (c.1 / 16)).core)).flatMap (fun k =>
    (List.range 4).map fun n => (Instr.slotGrant, ({ n0 := k, n1 := n } : Ev))) ++
  s.cores.flatMap fun p =>
    [(Instr.scratchpadAdapt, ({ n0 := p.1 } : Ev)), (.granuleMoveDone, { n0 := p.1 })] ++
      p.2.l1.map fun x => (Instr.l1BackgroundClean, { n0 := p.1, n1 := x.1 })

/-- Events of clusters, their engines and their islands. -/
def State.clusterEvents (s : State) : List (Instr × Ev) :=
  s.clusters.flatMap fun p =>
    (p.2.copies.map fun c => (Instr.copyComplete, ({ n0 := c.id } : Ev))) ++
    (p.2.table.flatMap fun x => [Instr.gatherComplete, .wloadPerform, .wfreePerform, .tileCommandPerform].map fun i =>
      (i, ({ n0 := p.1, n1 := x.id } : Ev))) ++
    [Instr.matrixPass, .passComplete, .selfTestDone, .railSwitchDone, .islandPowerDown, .islandWakeDone, .droopStretchEnd,
      .droopHalveEnd].map fun i => (i, { n0 := p.1 })

/-- Events of nodes, staged pages and the assay die. -/
def State.nodeEvents (s : State) : List (Instr × Ev) :=
  s.nodes.flatMap (fun p => [Instr.witnessHandoff, .seedReveal].map fun i => (i, ({ n0 := p.1 } : Ev))) ++
  s.pairs.flatMap (fun p => [Instr.stagingFillDone, .digestTaken, .versionRelease, .versionVoid].map fun i =>
    (i, ({ n0 := p.1 } : Ev))) ++
  each .witnessTest (s.past.map Prod.fst)

/-- Events of partitions, their hubs and their rings. -/
def State.partEvents (s : State) : List (Instr × Ev) :=
  s.parts.flatMap fun p =>
    ([Instr.reexecutionPost, .postForward, .nodeAccept, .gangPlace, .placementReservation, .shedLevelApply].map fun i =>
      (i, ({ n0 := p.1 } : Ev))) ++
    (List.range 3).map fun k => (Instr.ringEntryWrite, { n0 := p.1, n1 := k })

/-- The event by which a coherence message is handled. -/
def MsgKind.event : MsgKind → Instr
  | .readShared => .readShared
  | .readOwn => .readOwn
  | .upgrade => .upgrade
  | .writeBack => .writeBack
  | .grant => .grant
  | .recallS => .recallS
  | .recallI => .recallI
  | .invalidate => .invalidate
  | .recallReply => .recallReply
  | .invAck => .invAck

/-- The event of the management command in hand. -/
def State.commandEvent (s : State) : Instr :=
  match cmdCode s.mboxBlock with
  | 1 => .partitionRelease
  | 2 => .keyExchange
  | 3 => .weightKey
  | 4 => .pageExport
  | 5 => .pageImport
  | 6 => .sealedTransferIn
  | 7 => .sealedTransferOut
  | 8 => .attestation
  | 9 => .certificateRead
  | 10 => .faultRecordRead
  | 11 => .collectiveGroup
  | _ => .unknownCommand

/-- Events of the package: messages, collectives, the fabric, commands, power. -/
def State.packageEvents (s : State) : List (Instr × Ev) :=
  (s.msgs.map fun m => (m.kind.event, ({ n0 := m.home, n1 := m.die, n2 := m.line } : Ev))) ++
  each .collComplete (s.colls.map Coll.id) ++ each .collBoundExpiry (s.colls.map Coll.id) ++
  each .remoteAccessTimeout (s.remotes.map Remote.id) ++
  (s.foreign.map fun f => (Instr.provisionalTimeout, ({ n0 := f.1, n1 := f.2.1, n2 := f.2.2.1 } : Ev))) ++
  (if s.mboxBusy then [(s.commandEvent, ({} : Ev))] else []) ++
  (if s.bring.isSome then [(.packageReset, ({ n4 := 8 } : Ev))] else []) ++
  each .islandWakeStart (List.range 4) ++
  [(Instr.energyUpdate, ({} : Ev)), (.telemetryFailsafe, {}), (.failSafeFrameTime, {})]

/-- Every event of the device that may be due. -/
def State.dueEvents (s : State) : List (Instr × Ev) :=
  s.streamEvents ++ s.gangEvents ++ s.coreEvents ++ s.clusterEvents ++ s.nodeEvents ++ s.partEvents ++ s.packageEvents

/-- The event changes something now. -/
def State.happens (s : State) (x : Instr × Ev) : Bool :=
  let s := { s with ev := x.2 }
  match exec x.1 s with
  | .next t => t != s
  | _ => false

/-- The first event that is due, looked for from a place that moves on with every turn, so that none waits for ever
(log entry 1). -/
def State.dueEvent (s : State) : Option (Instr × Ev) :=
  let xs := s.dueEvents
  let k := if xs.length = 0 then 0 else s.turns / 2 % xs.length
  (xs.drop k ++ xs.take k).find? s.happens

/-- Streams and the device take turns when the agenda is empty; a side with nothing to do passes (log entry 1). -/
def State.plainTurn (s : State) : Turn :=
  let stream (other : Turn) : Turn := match s.nextIssuer with
    | some r => .stream r
    | none => other
  let device (other : Turn) : Turn := match s.dueEvent with
    | some (i, e) => .event i e
    | none => other
  if s.turns % 2 = 1 then stream (device .idle) else device (stream .idle)

/-- Who moves next. An entry of the agenda that is no event of the device is passed over. -/
def State.turn (s : State) : Turn :=
  match s.agenda with
  | (i, e) :: _ => if Instr.isEvent i then .event i e else .idle
  | [] => s.plainTurn

/-! What an instruction's issue leaves beside its meaning. -/

/-- The instruction may be the releasing or the acquiring side of a synchronisation: a scoped access, an atomic, a fence, a
barrier, an observation of engines, graphs or collectives, or an end (04 R102 to R105; log entry 97). -/
def Instr.syncs : Instr → Bool
  | .ld _ _ _ _ imm _ | .ldq _ _ _ imm _ | .st _ _ _ imm _ | .stq _ _ _ imm _ | .ldu _ _ _ imm _ | .stu _ _ _ imm _ =>
    bitOf imm.toNat 6
  | .atom .. | .red .. | .claim .. | .fence .. | .barinit .. | .bararr .. | .barwait .. | .bartry .. | .gbar | .brg ..
  | .cwait .. | .cwaitn .. | .twait .. | .accrd .. | .waitd | .launch .. | .trig | .coll .. | .collw .. | .sopen .. | .sseal ..
  | .exit => true
  | _ => false

/-- An instruction of a work or single stream uses the lane groups of its slot that hold lanes in which it works, and ungates
them (18 R426; log entry 113). -/
def State.useLanes (s : State) (r : Nat) (i : Instr) : State :=
  let now := s.cyclesOf (clusterOf (s.coreNum r))
  let on := (s.stream r).lanesOf i
  match (s.crewAt r).place with
  | .slot n =>
    if !(s.gangAt r).single && !isWork r then s
    else
      let used := ((List.range 4).filter fun g => bits on.toNat (8 * g + 7) (8 * g) != 0).map (4 * n + ·)
      s.updCore (s.coreNum r) fun c => { c with
        laneUse := used.foldl (fun t k => Tab.put k now t) c.laneUse, gated := c.gated.filter fun k => !used.contains k }
  | _ => s

/-- An instruction issues: the acquire that is due, the lanes it uses, its place among the crew's synchronisations, and the
predicates and named registers that it reads of its bank (13 R313, 18 R432). -/
def State.issues (s : State) (r : Nat) (i : Instr) : State :=
  let due := (s.gangAt r).acquireDue.contains (crewNum r)
  let t := s.stream r
  let s := ((s.dueAcquire r).useLanes r i).noteBanks r (t.banksRead i)
  let s := { s with predReads := (t.predsRead i).length }
  if due || Instr.syncs i then s.noteSync r else s

/-- The instruction waits in its slot for operands that rationing keeps from being gathered (18 R424). -/
def State.rationed (s : State) (r : Nat) (i : Instr) : Bool :=
  (s.cluster (clusterOf (s.coreNum r))).rations && (s.stream r).gathers i

/-- What comes of a stream's turn before any instruction executes. -/
inductive Ready where
  | run (i : Instr) (s : State)
  | stop (s : State)

/-- The stream takes what it owes or its argument block that has come, fetches, decodes, stops before a boundary park's points,
and waits for the gathering of its operands (01 R38, 13 R315, R321, 18 R424). -/
def State.prepare (s : State) (r : Nat) : Ready :=
  let s := { s with cur := some r, stalled := false, consumed := none }
  match (s.stream r).owed, (s.stream r).wait with
  | some x, _ => .stop (s.takeOwed r x)
  | none, some (.args _ _) => .stop (s.loadArgs r)
  | none, _ =>
    match s.fetch r with
    | .word w s' =>
      let s' := { s' with word := w }.updStream r fun t => { t with fetched := [] }
      match decode w with
      | .error _ => .stop (s'.badWord r)
      | .ok i =>
        if (s'.gangAt r).req = .boundary ∧ Instr.parkPoint i ∧ !(s'.stream r).intrap then .stop (s'.stopCrew (crewOf r))
        else if s'.rationed r i then .stop { s with stalled := true }
        else .run i (s'.issues r i)
    | f => .stop (s.missWord r f)

end Sys2Proof.Machine
end

