-- ==== Sys2Proof/Machine/Step.lean ====
section
/-! DEFINITION. One step of the package: time passes, then one event of the device happens or one stream executes one
instruction, and what the boundary settles follows. -/

namespace Sys2Proof.Machine

/-- The boundary after an instruction or event. -/
def settled (o : Host.Outcome State Fault Refusal) : Host.Outcome State Fault Refusal :=
  match o with
  | .next s => .next s.settle
  | .fault f => .fault f
  | .refused x => .refused x

/-- One step (log entries 1 and 5). -/
def step (s0 : State) : Host.Outcome State Fault Refusal :=
  let s := s0.tick
  match s.turn with
  | .event i e => settled (exec i { s with agenda := s.agenda.drop 1, ev := e })
  | .stream r =>
    match s.prepare r with
    | .run i t => settled (exec i t)
    | .stop t => .next t.settle
  | .idle => .next ({ s with agenda := s.agenda.drop 1 }).settle

/-- The package with a released partition, one node and one gang of one single-stream crew in slot 0 of core 0, whose
resident code page holds the word at code address 0, so that the next step fetches and executes it. It stands for the
host's bring-up, partition release and post (log entry 2). -/
def State.withFetchWord (s : State) (nbits w : Nat) : State :=
  let word := w32 (w % 2 ^ nbits)
  let gang : Gang := {
    part := 0, node := 0, gangid := 0, handle := 0, crews := 1, single := true, core := 0, spcur := 1, smin := 1, smax := 1,
    tiles := 16, pages := 1, resident := 1, remap := (List.range 32).map fun l => (l, l), code := 0, effcfg := 0 }
  let stream : Stream := { em := 0xFFFFFFFF, live := 0xFFFFFFFF, gen := (List.range 32).map fun l => genSeed 0 l 0 }
  let crew : Crew := { place := .slot 0 }
  let frame : Frame := ⟨false, 0, 0, 0, if word = 0 then [] else [(0, word)], 0⟩
  { s with
    ready := true,
    agenda := [],
    cur := none,
    turns := 0,
    parts := Tab.put 0 { s.part 0 with released := true, partclu := 1 } s.parts,
    nodes := Tab.put 0 { st := .placed, placed := 1 } s.nodes,
    gangs := Tab.put 0 gang s.gangs,
    crews := Tab.put 0 crew s.crews,
    streams := Tab.put 0 stream s.streams,
    clusters := Tab.put 0 { s.cluster 0 with island := .running } s.clusters,
    cores := Tab.put 0 { s.core 0 with frames := [frame], l1gran := 15 } s.cores }

end Sys2Proof.Machine
end

