-- ==== Sys2Proof/Safety.lean ====
section
/-! DEFINITION. The terms that claims use: what counts as a well-kept state, when an instruction's operands can be read, what
an instruction may change, and the tables of 06 and 07 as rows. -/

namespace Sys2Proof

/-- Local memory and host memory are in canonical form (log entry 4). -/
def MemoryInv (s : Machine.State) : Prop :=
  Machine.Memory.wf s.mem = true ∧ Machine.Memory.wf s.hostMem = true

namespace Machine

/-! When a stream can execute. -/

/-- A listed stream is in hand, whose register bank holds no uncorrectable error (13 R313). -/
abbrev State.inHand (s : State) (r : Nat) : Prop :=
  s.cur = some r ∧ (Tab.find r s.streams).isSome = true ∧ (s.stream r).regBad = []

/-- The stream may execute haul instructions (01 R17). -/
abbrev State.haulOk (s : State) (r : Nat) : Prop := ((s.gangAt r).single || !isWork r) = true

/-- The stream may execute work instructions (01 R17). -/
abbrev State.workOk (s : State) (r : Nat) : Prop := ((s.gangAt r).single || isWork r) = true

/-- The stream is at supervisor level (13 R309). -/
abbrev State.superOk (s : State) (r : Nat) : Prop := (s.stream r).priv = true

/-- A load queue has an entry whose data are there. -/
def State.canPop (s : State) (r q : Nat) : Bool :=
  match Tab.get [] (s.crewAt r).loadQ q with
  | e :: _ => e.awaits.isNone
  | [] => false

/-- A store queue takes an entry: it has room, and its haul stream has not ended. -/
def State.canPush (s : State) (r q : Nat) : Bool :=
  decide ((Tab.get [] (s.crewAt r).storeQ q).length < 8) && ((s.gangAt r).single || !s.haulEnded r)

/-- Every source can be read and the destination written, none of them a stream port: operand classes allowed, latches
not void, no register or latch waiting for a load, queues with entries and room (05 R122 to R128, 01 R19). -/
abbrev State.readable (s : State) (r : Nat) (ws : List Want) (dst : Option Dst) : Prop :=
  (∀ w ∈ ws, s.srcFault r w = none) ∧ (∀ d ∈ dst, s.dstFault r d = none) ∧ (s.stream r).voidRead ws = none ∧
  (s.stream r).waits ws (match dst with
    | some d => if d.n < 56 then regsOf d.n d.wide else []
    | none => []) = false ∧
  (∀ q ∈ popsOf ws, s.canPop r q = true) ∧ (∀ d ∈ dst, d.n < 60) ∧ (∀ d ∈ dst, 56 ≤ d.n → s.canPush r (d.n - 56) = true) ∧
  portsOf ws = []

/-- The value of a source in a lane. -/
def State.operand (s : State) (r : Nat) (w : Want) (i : Nat) : Nat := ((s.plainSrc r w).getD i (0, 0)).1

/-- The label of a source in a lane. -/
def State.operandLabel (s : State) (r : Nat) (w : Want) (i : Nat) : Label := ((s.plainSrc r w).getD i (0, 0)).2

/-- The highest label of sources in a lane. -/
def State.operandsLabel (s : State) (r : Nat) (ws : List Want) (i : Nat) : Label :=
  ws.foldl (fun l w => Label.join l (s.operandLabel r w i)) 0

/-! What an instruction leaves alone. -/

/-- A stream without what every completion may change. -/
def Stream.core (t : Stream) : Stream :=
  { t with pc := 0, loops := [], lbuf := [], rdata := [], rpoison := [], wait := none, dataWait := none, drowsy := false }

/-- A stream without what a vector instruction may change as well: registers, latches, generators. -/
def Stream.lessVec (t : Stream) : Stream := { t.core with v := [], latches := [], gen := [], regBad := [] }

/-- A stream without its uniform registers. -/
def Stream.lessUni (t : Stream) : Stream := { t.core with c := [] }

/-- A stream without its predicates. -/
def Stream.lessPred (t : Stream) : Stream := { t.core with p := [] }

/-- A node instance without the energy charged to it. -/
def Node.lessEnergy (n : Node) : Node := { n with energyPj := 0 }

/-- A partition without the energy charged to its RCBs. -/
def Part.lessEnergy (p : Part) : Part := { p with rcbs := p.rcbs.map fun u => { u with pj := 0 } }

/-- A crew without its queues. -/
def Crew.lessQueues (c : Crew) : Crew := { c with loadQ := [], storeQ := [] }

/-- Every byte of local memory, host memory and scratchpad reads as before. -/
def SameMemory (s t : State) : Prop :=
  (∀ a, rdByte t.mem a = rdByte s.mem a) ∧ (∀ a, rdByte t.hostMem a = rdByte s.hostMem a) ∧
    ∀ g a, rdByte (t.gang g).scratch a = rdByte (s.gang g).scratch a

/-- Nothing changed but the stream in hand, in the fields that e leaves out, its crew's queues, and the energy charged to
node instances and RCBs (18 R432). -/
structure OnlyStream (s t : State) (r : Nat) (e : Stream → Stream) : Prop where
  stream : e (t.stream r) = e (s.stream r)
  streams : ∀ j, j ≠ r → t.stream j = s.stream j
  crew : (t.crewAt r).lessQueues = (s.crewAt r).lessQueues
  crews : ∀ k, k ≠ crewOf r → t.crew k = s.crew k
  nodes : ∀ n, (t.node n).lessEnergy = (s.node n).lessEnergy
  parts : ∀ p, (t.part p).lessEnergy = (s.part p).lessEnergy
  rest : { t with streams := [], crews := [], nodes := [], parts := [] } = { s with streams := [], crews := [], nodes := [], parts := [] }
  memory : SameMemory s t

/-- The stream has gone on to its next instruction, through the ends of its loops (06 R141, R153). -/
def WentOn (s t : State) (r : Nat) : Prop :=
  (t.stream r).pc = (s.stream r).next.pc ∧ (t.stream r).loops = (s.stream r).next.loops

/-! A vector result (05 R123, R126, R127). -/

/-- The vectors that a destination receives, lowest register first. -/
def State.received (s : State) (r : Nat) (d : Dst) (mask : Word) (val : Nat → Nat × Label) : List Vec :=
  if d.n < 56 then
    (List.range (if d.wide then 2 else 1)).map fun k =>
      ((s.stream r).vreg (d.n + k)).merge mask fun i => halfLane (val i) k
  else [Vec.zero.merge mask fun i => halfLane (val i) 0]

/-- The lanes of a mask of a destination hold the values and labels given, others what they held; with nw only the latches
take the result; queues give up what was read and take what was written. -/
structure Wrote (s t : State) (r : Nat) (ws : List Want) (d : Dst) (mask : Word) (val : Nat → Nat × Label) : Prop where
  regs : ∀ n, (t.stream r).vreg n =
    if d.n < 56 ∧ d.nw = false ∧ (n = d.n ∨ d.wide = true ∧ n = d.n + 1)
    then ((s.stream r).vreg n).merge mask fun i => halfLane (val i) (n - d.n) else (s.stream r).vreg n
  latches : (t.stream r).latches = (s.received r d mask val).foldl (fun ls x => ⟨some x, none⟩ :: ls.take 7) (s.stream r).latches
  pushed : ∀ q, Tab.get [] (t.crewAt r).storeQ q =
    Tab.get [] (s.crewAt r).storeQ q ++ if d.n = 56 + q ∧ q < 4 then [⟨Vec.zero.merge mask fun i => halfLane (val i) 0, mask, none⟩] else []
  popped : ∀ q, Tab.get [] (t.crewAt r).loadQ q =
    if q ∈ popsOf ws then (Tab.get [] (s.crewAt r).loadQ q).drop 1 else Tab.get [] (s.crewAt r).loadQ q

/-! The vector instructions as rows (06 R167 to R177, 07 R180 to R193). -/

/-- A row: its class, whether it needs a work stream, whether TYPE and the fields are allowed, the lanes it writes and the
label they take besides the sources', its destination and sources, whether it draws random words, and the value and next
generator of a lane from its sources. -/
structure AluRow where
  cls : Cls := .control
  work : Bool := false
  ok : Bool
  mask : Word
  lab : Label
  dst : Dst
  srcs : List Want
  draws : Bool := false
  val : Nat → List Nat → Word → Nat × Word

/-- The sources of a row: a, b if it has one, and the old destination if it reads it. -/
def rowWants (wide : Bool) (a : BitVec 7) (b : Option (BitVec 7)) (bWide : Bool) (old : Option Nat) : List Want :=
  { f := a.toNat, wide } :: (match b with | some b => [{ f := b.toNat, wide := bWide }] | none => []) ++
    (match old with | some n => [{ f := n, wide }] | none => [])

/-- An integer row. -/
def intRow (t : Stream) (ok : Nat → Bool) (m nw : Bool) (d : BitVec 6) (a : BitVec 7) (b : Option (BitVec 7)) (old : Bool)
    (f : ElemOp) : AluRow :=
  let ty := modeTYPE (t.mode m)
  let wide := typeWidth ty == 64
  { ok := ok ty && (!old || decide (d.toNat < 56)), mask := t.active m, lab := t.guardLabel m,
    dst := { n := d.toNat, wide, nw }, srcs := rowWants wide a b wide (if old then some d.toNat else none),
    val := fun _ xs _ => (elementwise ty (modeSAT (t.mode m)) b.isSome f xs, 0) }

/-- A row on whole 32-bit registers. -/
def wordRow (t : Stream) (ok : Nat → Bool) (m nw : Bool) (d : BitVec 6) (srcs : List Want) (old : Bool) (f : List Nat → Nat) :
    AluRow :=
  { ok := ok (modeTYPE (t.mode m)) && (!old || decide (d.toNat < 56)), mask := t.active m, lab := t.guardLabel m,
    dst := { n := d.toNat, nw }, srcs := srcs ++ if old then [{ f := d.toNat }] else [], val := fun _ xs _ => (f xs, 0) }

/-- LEA's row. -/
def leaRow (t : Stream) (m nw : Bool) (d : BitVec 6) (srcs : List Want) (index : List Nat → Int) : AluRow :=
  { ok := true, mask := t.active m, lab := t.guardLabel m, dst := { n := d.toNat, wide := true, nw }, srcs,
    val := fun _ xs _ => (wrap 64 ((xs.getD 0 0 : Int) + index xs * (typeWidth (modeTYPE (t.mode m)) : Int) / 8), 0) }

/-- SEL's row: every lane of EM. -/
def selRow (t : Stream) (m nw : Bool) (d : BitVec 6) (a b : BitVec 7) : AluRow :=
  let wide := typeWidth (modeTYPE (t.mode m)) == 64
  { ok := true, mask := t.em, lab := t.guardLabel m, dst := { n := d.toNat, wide, nw },
    srcs := [{ f := a.toNat, wide }, { f := b.toNat, wide }],
    val := fun i xs _ => (if inMask (t.guardBits m) i then xs.getD 0 0 else xs.getD 1 0, 0) }

/-- A floating-point row. -/
def floatRow (t : Stream) (ok : Nat → Bool) (m nw : Bool) (d : BitVec 6) (a : BitVec 7) (b : Option (BitVec 7))
    (scale old draws : Bool) (f : FloatOp) : AluRow :=
  let ty := modeTYPE (t.mode m)
  let wide := typeWidth ty == 64
  let q := roundingOf (t.mode m)
  { cls := .float, work := true, ok := ok ty && (!old || decide (d.toNat < 56)), mask := t.active m, lab := t.guardLabel m,
    dst := { n := d.toNat, wide, nw }, srcs := rowWants wide a b (wide && !scale) (if old then some d.toNat else none),
    draws := draws && q.mode == 5,
    val := fun _ xs g => floatElems ty q draws b.isSome (if scale && wide then 32 else typeWidth ty) f xs g }

/-- CVT's row: set 0 names the source's type and set 1 the destination's. -/
def cvtRow (t : Stream) (nw : Bool) (d : BitVec 6) (a : BitVec 7) (part : BitVec 3) : AluRow :=
  let src := modeTYPE t.mode0
  let dst := modeTYPE t.mode1
  let q := roundingOf t.mode1
  let keep := decide (perLane (typeWidth src) < perLane (typeWidth dst)) && decide (d.toNat < 56)
  { cls := .float, work := true, ok := partOk src dst part.toNat, mask := t.active false, lab := t.guardLabel false,
    dst := { n := d.toNat, wide := typeWidth dst == 64, nw },
    srcs := { f := a.toNat, wide := typeWidth src == 64 } :: (if keep then [{ f := d.toNat }] else []), draws := q.mode == 5,
    val := fun _ xs g => convLane src (modeVAR t.mode0) dst q part.toNat (xs.getD 0 0) (xs.getD 1 0) g }

/-- The rows of the vector instructions that compute each lane from that lane's sources. -/
def aluRow (t : Stream) : Instr → Option AluRow
  | .iadd nw d a b m => some (intRow t isInt m nw d a (some b) false (fun ty sat a b _ => narrow ty sat (intVal ty a + intVal ty b)))
  | .isub nw d a b m => some (intRow t isInt m nw d a (some b) false (fun ty sat a b _ => narrow ty sat (intVal ty a - intVal ty b)))
  | .imul nw d a b m => some (intRow t isInt m nw d a (some b) false (fun ty sat a b _ => narrow ty sat (intVal ty a * intVal ty b)))
  | .imulh nw d a b m => some (intRow t isInt m nw d a (some b) false (fun ty _ a b _ => mulHigh ty a b))
  | .imad nw d a b m => some (intRow t isInt m nw d a (some b) true (fun ty sat a b o => narrow ty sat (intVal ty a * intVal ty b + intVal ty o)))
  | .iabs nw d a m => some (intRow t isInt m nw d a none false (fun ty sat a _ _ => narrow ty sat |intVal ty a|))
  | .ineg nw d a m => some (intRow t isInt m nw d a none false (fun ty sat a _ _ => narrow ty sat (-intVal ty a)))
  | .imin nw d a b m => some (intRow t isInt m nw d a (some b) false (fun ty sat a b _ => narrow ty sat (min (intVal ty a) (intVal ty b))))
  | .imax nw d a b m => some (intRow t isInt m nw d a (some b) false (fun ty sat a b _ => narrow ty sat (max (intVal ty a) (intVal ty b))))
  | .isad nw d a b m => some (intRow t isInt m nw d a (some b) true (fun ty sat a b o => narrow ty sat (|intVal ty a - intVal ty b| + intVal ty o)))
  | .and nw d a b m => some (intRow t anyType m nw d a (some b) false (fun ty _ a b _ => (a &&& b) % 2 ^ typeWidth ty))
  | .or nw d a b m => some (intRow t anyType m nw d a (some b) false (fun ty _ a b _ => (a ||| b) % 2 ^ typeWidth ty))
  | .xor nw d a b m => some (intRow t anyType m nw d a (some b) false (fun ty _ a b _ => (a ^^^ b) % 2 ^ typeWidth ty))
  | .andn nw d a b m => some (intRow t anyType m nw d a (some b) false (fun ty _ a b _ => logic .andn (typeWidth ty) a b))
  | .shl nw d a b m => some (intRow t anyType m nw d a (some b) false (fun ty _ a b _ => shift .shl (typeWidth ty) a b))
  | .shr nw d a b m => some (intRow t anyType m nw d a (some b) false (fun ty _ a b _ => shift .shr (typeWidth ty) a b))
  | .sar nw d a b m => some (intRow t anyType m nw d a (some b) false (fun ty _ a b _ => shift .sar (typeWidth ty) a b))
  | .rot nw d a b m => some (intRow t anyType m nw d a (some b) false (fun ty _ a b _ => shift .rot (typeWidth ty) a b))
  | .fshl nw d a b m => some (intRow t wordType m nw d a (some b) true (fun ty _ a b o => funnel (typeWidth ty) a b o))
  | .bfe nw d a b m => some (intRow t wordType m nw d a (some b) false (fun ty _ a b _ => extract ty a (bits b 7 0) (bits b 15 8)))
  | .bfi nw d a b m => some (intRow t wordType m nw d a (some b) true (fun ty _ a b o => insertField (typeWidth ty) a o (bits b 7 0) (bits b 15 8)))
  | .popc nw d a m => some (intRow t isInt m nw d a none false (fun ty _ a _ _ => popCount (typeWidth ty) a))
  | .clz nw d a m => some (intRow t isInt m nw d a none false (fun ty _ a _ _ => leadZeros (typeWidth ty) a))
  | .ctz nw d a m => some (intRow t isInt m nw d a none false (fun ty _ a _ _ => trailZeros (typeWidth ty) a))
  | .brev nw d a m => some (intRow t isInt m nw d a none false (fun ty _ a _ _ => reverseBits (typeWidth ty) a))
  | .mov nw d a m => some (intRow t anyType m nw d a none false (fun _ _ a _ _ => a))
  | .iaddImm nw d a imm m => some (intRow t isInt m nw d a none false (fun ty sat a _ _ => narrow ty sat (intVal ty a + signed 7 imm.toNat)))
  | .imulImm nw d a imm m => some (intRow t isInt m nw d a none false (fun ty sat a _ _ => narrow ty sat (intVal ty a * signed 7 imm.toNat)))
  | .iminImm nw d a imm m => some (intRow t isInt m nw d a none false (fun ty sat a _ _ => narrow ty sat (min (intVal ty a) (signed 7 imm.toNat))))
  | .imaxImm nw d a imm m => some (intRow t isInt m nw d a none false (fun ty sat a _ _ => narrow ty sat (max (intVal ty a) (signed 7 imm.toNat))))
  | .andImm nw d a imm m => some (intRow t anyType m nw d a none false (fun ty _ a _ _ => logic .and (typeWidth ty) a (wrap (typeWidth ty) (signed 7 imm.toNat))))
  | .orImm nw d a imm m => some (intRow t anyType m nw d a none false (fun ty _ a _ _ => logic .or (typeWidth ty) a (wrap (typeWidth ty) (signed 7 imm.toNat))))
  | .xorImm nw d a imm m => some (intRow t anyType m nw d a none false (fun ty _ a _ _ => logic .xor (typeWidth ty) a (wrap (typeWidth ty) (signed 7 imm.toNat))))
  | .andnImm nw d a imm m => some (intRow t anyType m nw d a none false (fun ty _ a _ _ => logic .andn (typeWidth ty) a (wrap (typeWidth ty) (signed 7 imm.toNat))))
  | .shlImm nw d a imm m => some (intRow t anyType m nw d a none false (fun ty _ a _ _ => shift .shl (typeWidth ty) a imm.toNat))
  | .shrImm nw d a imm m => some (intRow t anyType m nw d a none false (fun ty _ a _ _ => shift .shr (typeWidth ty) a imm.toNat))
  | .sarImm nw d a imm m => some (intRow t anyType m nw d a none false (fun ty _ a _ _ => shift .sar (typeWidth ty) a imm.toNat))
  | .rotImm nw d a imm m => some (intRow t anyType m nw d a none false (fun ty _ a _ _ => shift .rot (typeWidth ty) a imm.toNat))
  | .bfeImm nw d a imm m => some (intRow t wordType m nw d a none false
      (fun ty _ a _ _ => extract ty a (8 * bits imm.toNat 5 3) (8 * (bits imm.toNat 2 0 + 1))))
  | .bperm nw d a b m => some (wordRow t notWide m nw d [{ f := a.toNat }, { f := b.toNat }] false
      fun xs => permute (xs.getD 0 0) (xs.getD 1 0))
  | .idot4 nw d a b m => some (wordRow t byteType m nw d [{ f := a.toNat }, { f := b.toNat }] true
      fun xs => dot4 (modeTYPE (t.mode m)) (modeSAT (t.mode m)) (xs.getD 0 0) (xs.getD 1 0) (xs.getD 2 0))
  | .lea nw d a b m => some (leaRow t m nw d [{ f := a.toNat, wide := true }, { f := b.toNat }] fun xs => signed 32 (xs.getD 1 0))
  | .leaImm nw d a imm m => some (leaRow t m nw d [{ f := a.toNat, wide := true }] fun _ => signed 7 imm.toNat)
  | .sel nw d a b m => some (selRow t m nw d a b)
  | .lim nw d imm => some (wordRow t anyType false nw d [] false fun _ => wrap 32 (signed 15 imm.toNat))
  | .limh nw d imm => some (wordRow t anyType false nw d [] true fun xs => (xs.getD 0 0 * 2 ^ 15 + imm.toNat) % 2 ^ 32)
  | .fadd nw d a b m => some (floatRow t isIeee m nw d a (some b) false false true opFadd)
  | .fsub nw d a b m => some (floatRow t isIeee m nw d a (some b) false false true opFsub)
  | .fmul nw d a b m => some (floatRow t isIeee m nw d a (some b) false false true opFmul)
  | .ffma nw d a b m => some (floatRow t isIeee m nw d a (some b) false true true opFfma)
  | .fmin nw d a b m => some (floatRow t isIeee m nw d a (some b) false false false opFmin)
  | .fmax nw d a b m => some (floatRow t isIeee m nw d a (some b) false false false opFmax)
  | .fabs nw d a m => some (floatRow t isIeee m nw d a none false false false opFabs)
  | .fneg nw d a m => some (floatRow t isIeee m nw d a none false false false opFneg)
  | .fclass nw d a m => some (floatRow t classType m nw d a none false false false opFclass)
  | .frnd nw d a m => some (floatRow t isIeee m nw d a none false false true opFrnd)
  | .fscale nw d a b m => some (floatRow t isIeee m nw d a (some b) true false true opFscale)
  | .frcp nw d a m => some (floatRow t frozenType m nw d a none false false false (opFrozen .rcp))
  | .frsq nw d a m => some (floatRow t frozenType m nw d a none false false false (opFrozen .rsq))
  | .fexp2 nw d a m => some (floatRow t frozenType m nw d a none false false false (opFrozen .exp2))
  | .flog2 nw d a m => some (floatRow t frozenType m nw d a none false false false (opFrozen .log2))
  | .fsinp nw d a m => some (floatRow t frozenType m nw d a none false false false (opFrozen .sinp))
  | .fcosp nw d a m => some (floatRow t frozenType m nw d a none false false false (opFrozen .cosp))
  | .ftanh nw d a m => some (floatRow t frozenType m nw d a none false false false (opFrozen .tanh))
  | .cvt nw d a part => some (cvtRow t nw d a part)
  | _ => none

/-! The U-forms as rows (06 R178, 07 R180). -/

/-- A row of a U-form: as AluRow, with one uniform destination and one value. -/
structure UniRow where
  cls : Cls := .control
  work : Bool := false
  ok : Bool
  d : Nat
  wide : Bool
  lab : Label := 0
  srcs : List Want
  val : List Nat → Nat

/-- A uniform source. -/
def uniWide (a : BitVec 7) (wide : Bool) : Want := { f := a.toNat, wide, allow := .uni }
/-- A 32-bit uniform source. -/
def uni (a : BitVec 7) : Want := uniWide a false

/-- The sources of a U-form. -/
def uniWants (wide : Bool) (a : BitVec 7) (b : Option (BitVec 7)) (bWide : Bool) (old : Option Nat) : List Want :=
  uniWide a wide :: (match b with | some b => [uniWide b bWide] | none => []) ++
    (match old with | some n => [{ f := 80 + n, wide, allow := .uni }] | none => [])

/-- An integer U-form. -/
def intURow (t : Stream) (ok : Nat → Bool) (m : Bool) (d : BitVec 6) (a : BitVec 7) (b : Option (BitVec 7)) (old : Bool)
    (f : ElemOp) : UniRow :=
  let ty := modeTYPE (t.mode m)
  let wide := typeWidth ty == 64
  { ok := ok ty, d := d.toNat, wide, srcs := uniWants wide a b wide (if old then some d.toNat else none),
    val := fun xs => elementwise ty (modeSAT (t.mode m)) b.isSome f xs }

/-- A U-form on whole 32-bit registers. -/
def wordURow (t : Stream) (ok : Nat → Bool) (m : Bool) (d : BitVec 6) (srcs : List Want) (old : Bool) (f : List Nat → Nat) :
    UniRow :=
  { ok := ok (modeTYPE (t.mode m)), d := d.toNat, wide := false,
    srcs := srcs ++ if old then [{ f := 80 + d.toNat, allow := .uni }] else [], val := f }

/-- LEA's U-form. -/
def leaURow (t : Stream) (m : Bool) (d : BitVec 6) (srcs : List Want) (index : List Nat → Int) : UniRow :=
  { ok := true, d := d.toNat, wide := true, srcs,
    val := fun xs => wrap 64 ((xs.getD 0 0 : Int) + index xs * (typeWidth (modeTYPE (t.mode m)) : Int) / 8) }

/-- SEL's U-form: a where the guard is 1 in some lane of EM. -/
def selURow (t : Stream) (m : Bool) (d : BitVec 6) (a b : BitVec 7) : UniRow :=
  let wide := typeWidth (modeTYPE (t.mode m)) == 64
  { ok := true, d := d.toNat, wide, lab := t.guardLabel m, srcs := [uniWide a wide, uniWide b wide],
    val := fun xs => if (t.guardBits m &&& t.em) != 0 then xs.getD 0 0 else xs.getD 1 0 }

/-- A floating-point U-form. -/
def floatURow (t : Stream) (ok : Nat → Bool) (m : Bool) (d : BitVec 6) (a : BitVec 7) (b : Option (BitVec 7))
    (scale old : Bool) (f : FloatOp) : UniRow :=
  let ty := modeTYPE (t.mode m)
  let wide := typeWidth ty == 64
  { cls := .float, work := true, ok := ok ty, d := d.toNat, wide,
    srcs := uniWants wide a b (wide && !scale) (if old then some d.toNat else none),
    val := fun xs => (floatElems ty (roundingOf (t.mode m)).uniform false b.isSome
      (if scale && wide then 32 else typeWidth ty) f xs 0).1 }

/-- CVT's U-form. -/
def cvtURow (t : Stream) (d : BitVec 6) (a : BitVec 7) (part : BitVec 3) : UniRow :=
  let src := modeTYPE t.mode0
  let dst := modeTYPE t.mode1
  let wide := typeWidth dst == 64
  { cls := .float, work := true, ok := partOk src dst part.toNat, d := d.toNat, wide,
    srcs := uniWide a (typeWidth src == 64) ::
      (if perLane (typeWidth src) < perLane (typeWidth dst) then [{ f := 80 + d.toNat, wide, allow := .uni }] else []),
    val := fun xs => (convLane src (modeVAR t.mode0) dst (roundingOf t.mode1).uniform part.toNat (xs.getD 0 0) (xs.getD 1 0) 0).1 }

/-- The rows of the U-forms. -/
def uniRow (t : Stream) : Instr → Option UniRow
  | .iaddU d a b m => some (intURow t isInt m d a (some b) false (fun ty sat a b _ => narrow ty sat (intVal ty a + intVal ty b)))
  | .isubU d a b m => some (intURow t isInt m d a (some b) false (fun ty sat a b _ => narrow ty sat (intVal ty a - intVal ty b)))
  | .imulU d a b m => some (intURow t isInt m d a (some b) false (fun ty sat a b _ => narrow ty sat (intVal ty a * intVal ty b)))
  | .imulhU d a b m => some (intURow t isInt m d a (some b) false (fun ty _ a b _ => mulHigh ty a b))
  | .imadU d a b m => some (intURow t isInt m d a (some b) true (fun ty sat a b o => narrow ty sat (intVal ty a * intVal ty b + intVal ty o)))
  | .iabsU d a m => some (intURow t isInt m d a none false (fun ty sat a _ _ => narrow ty sat |intVal ty a|))
  | .inegU d a m => some (intURow t isInt m d a none false (fun ty sat a _ _ => narrow ty sat (-intVal ty a)))
  | .iminU d a b m => some (intURow t isInt m d a (some b) false (fun ty sat a b _ => narrow ty sat (min (intVal ty a) (intVal ty b))))
  | .imaxU d a b m => some (intURow t isInt m d a (some b) false (fun ty sat a b _ => narrow ty sat (max (intVal ty a) (intVal ty b))))
  | .isadU d a b m => some (intURow t isInt m d a (some b) true (fun ty sat a b o => narrow ty sat (|intVal ty a - intVal ty b| + intVal ty o)))
  | .andU d a b m => some (intURow t anyType m d a (some b) false (fun ty _ a b _ => (a &&& b) % 2 ^ typeWidth ty))
  | .orU d a b m => some (intURow t anyType m d a (some b) false (fun ty _ a b _ => (a ||| b) % 2 ^ typeWidth ty))
  | .xorU d a b m => some (intURow t anyType m d a (some b) false (fun ty _ a b _ => (a ^^^ b) % 2 ^ typeWidth ty))
  | .andnU d a b m => some (intURow t anyType m d a (some b) false (fun ty _ a b _ => logic .andn (typeWidth ty) a b))
  | .shlU d a b m => some (intURow t anyType m d a (some b) false (fun ty _ a b _ => shift .shl (typeWidth ty) a b))
  | .shrU d a b m => some (intURow t anyType m d a (some b) false (fun ty _ a b _ => shift .shr (typeWidth ty) a b))
  | .sarU d a b m => some (intURow t anyType m d a (some b) false (fun ty _ a b _ => shift .sar (typeWidth ty) a b))
  | .rotU d a b m => some (intURow t anyType m d a (some b) false (fun ty _ a b _ => shift .rot (typeWidth ty) a b))
  | .fshlU d a b m => some (intURow t wordType m d a (some b) true (fun ty _ a b o => funnel (typeWidth ty) a b o))
  | .bfeU d a b m => some (intURow t wordType m d a (some b) false (fun ty _ a b _ => extract ty a (bits b 7 0) (bits b 15 8)))
  | .bfiU d a b m => some (intURow t wordType m d a (some b) true (fun ty _ a b o => insertField (typeWidth ty) a o (bits b 7 0) (bits b 15 8)))
  | .popcU d a m => some (intURow t isInt m d a none false (fun ty _ a _ _ => popCount (typeWidth ty) a))
  | .clzU d a m => some (intURow t isInt m d a none false (fun ty _ a _ _ => leadZeros (typeWidth ty) a))
  | .ctzU d a m => some (intURow t isInt m d a none false (fun ty _ a _ _ => trailZeros (typeWidth ty) a))
  | .brevU d a m => some (intURow t isInt m d a none false (fun ty _ a _ _ => reverseBits (typeWidth ty) a))
  | .movU d a m => some (intURow t anyType m d a none false (fun _ _ a _ _ => a))
  | .iaddImmU d a imm m => some (intURow t isInt m d a none false (fun ty sat a _ _ => narrow ty sat (intVal ty a + signed 7 imm.toNat)))
  | .imulImmU d a imm m => some (intURow t isInt m d a none false (fun ty sat a _ _ => narrow ty sat (intVal ty a * signed 7 imm.toNat)))
  | .iminImmU d a imm m => some (intURow t isInt m d a none false (fun ty sat a _ _ => narrow ty sat (min (intVal ty a) (signed 7 imm.toNat))))
  | .imaxImmU d a imm m => some (intURow t isInt m d a none false (fun ty sat a _ _ => narrow ty sat (max (intVal ty a) (signed 7 imm.toNat))))
  | .andImmU d a imm m => some (intURow t anyType m d a none false (fun ty _ a _ _ => logic .and (typeWidth ty) a (wrap (typeWidth ty) (signed 7 imm.toNat))))
  | .orImmU d a imm m => some (intURow t anyType m d a none false (fun ty _ a _ _ => logic .or (typeWidth ty) a (wrap (typeWidth ty) (signed 7 imm.toNat))))
  | .xorImmU d a imm m => some (intURow t anyType m d a none false (fun ty _ a _ _ => logic .xor (typeWidth ty) a (wrap (typeWidth ty) (signed 7 imm.toNat))))
  | .andnImmU d a imm m => some (intURow t anyType m d a none false (fun ty _ a _ _ => logic .andn (typeWidth ty) a (wrap (typeWidth ty) (signed 7 imm.toNat))))
  | .shlImmU d a imm m => some (intURow t anyType m d a none false (fun ty _ a _ _ => shift .shl (typeWidth ty) a imm.toNat))
  | .shrImmU d a imm m => some (intURow t anyType m d a none false (fun ty _ a _ _ => shift .shr (typeWidth ty) a imm.toNat))
  | .sarImmU d a imm m => some (intURow t anyType m d a none false (fun ty _ a _ _ => shift .sar (typeWidth ty) a imm.toNat))
  | .rotImmU d a imm m => some (intURow t anyType m d a none false (fun ty _ a _ _ => shift .rot (typeWidth ty) a imm.toNat))
  | .bfeImmU d a imm m => some (intURow t wordType m d a none false
      (fun ty _ a _ _ => extract ty a (8 * bits imm.toNat 5 3) (8 * (bits imm.toNat 2 0 + 1))))
  | .bpermU d a b m => some (wordURow t notWide m d [uni a, uni b] false fun xs => permute (xs.getD 0 0) (xs.getD 1 0))
  | .idot4U d a b m => some (wordURow t byteType m d [uni a, uni b] true
      fun xs => dot4 (modeTYPE (t.mode m)) (modeSAT (t.mode m)) (xs.getD 0 0) (xs.getD 1 0) (xs.getD 2 0))
  | .leaU d a b m => some (leaURow t m d [uniWide a true, uni b] fun xs => signed 32 (xs.getD 1 0))
  | .leaImmU d a imm m => some (leaURow t m d [uniWide a true] fun _ => signed 7 imm.toNat)
  | .selU d a b m => some (selURow t m d a b)
  | .limU d imm => some (wordURow t anyType false d [] false fun _ => wrap 32 (signed 15 imm.toNat))
  | .limhU d imm => some (wordURow t anyType false d [] true fun xs => (xs.getD 0 0 * 2 ^ 15 + imm.toNat) % 2 ^ 32)
  | .faddU d a b m => some (floatURow t isIeee m d a (some b) false false opFadd)
  | .fsubU d a b m => some (floatURow t isIeee m d a (some b) false false opFsub)
  | .fmulU d a b m => some (floatURow t isIeee m d a (some b) false false opFmul)
  | .ffmaU d a b m => some (floatURow t isIeee m d a (some b) false true opFfma)
  | .fminU d a b m => some (floatURow t isIeee m d a (some b) false false opFmin)
  | .fmaxU d a b m => some (floatURow t isIeee m d a (some b) false false opFmax)
  | .fabsU d a m => some (floatURow t isIeee m d a none false false opFabs)
  | .fnegU d a m => some (floatURow t isIeee m d a none false false opFneg)
  | .fclassU d a m => some (floatURow t classType m d a none false false opFclass)
  | .frndU d a m => some (floatURow t isIeee m d a none false false opFrnd)
  | .fscaleU d a b m => some (floatURow t isIeee m d a (some b) true false opFscale)
  | .frcpU d a m => some (floatURow t frozenType m d a none false false (opFrozen .rcp))
  | .frsqU d a m => some (floatURow t frozenType m d a none false false (opFrozen .rsq))
  | .fexp2U d a m => some (floatURow t frozenType m d a none false false (opFrozen .exp2))
  | .flog2U d a m => some (floatURow t frozenType m d a none false false (opFrozen .log2))
  | .fsinpU d a m => some (floatURow t frozenType m d a none false false (opFrozen .sinp))
  | .fcospU d a m => some (floatURow t frozenType m d a none false false (opFrozen .cosp))
  | .ftanhU d a m => some (floatURow t frozenType m d a none false false (opFrozen .tanh))
  | .cvtU d a part => some (cvtURow t d a part)
  | _ => none

/-! Control, predicates and crews. -/

/-- A stream without what a transfer of control may change. -/
def Stream.flow (t : Stream) : Stream := { t.core with fetched := [] }

/-- Nothing changed but what OnlyStream allows, the latches of the crew's streams, the crew's place, and the count of
numbers given out: what an instruction that is a switch point may do (01 R23). -/
structure OnlyCrew (s t : State) (r : Nat) (e : Stream → Stream) : Prop where
  stream : e { t.stream r with latches := [] } = e { s.stream r with latches := [] }
  fellow : ∀ j, j ≠ r → crewOf j = crewOf r → { t.stream j with latches := [] } = { s.stream j with latches := [] }
  streams : ∀ j, crewOf j ≠ crewOf r → t.stream j = s.stream j
  crew : { (t.crewAt r).lessQueues with place := .parked } = { (s.crewAt r).lessQueues with place := .parked }
  crews : ∀ k, k ≠ crewOf r → t.crew k = s.crew k
  nodes : ∀ n, (t.node n).lessEnergy = (s.node n).lessEnergy
  parts : ∀ p, (t.part p).lessEnergy = (s.part p).lessEnergy
  rest : { t with streams := [], crews := [], nodes := [], parts := [], fresh := 0 } =
    { s with streams := [], crews := [], nodes := [], parts := [], fresh := 0 }
  memory : SameMemory s t

/-- The load queues that sources name gave up their head, and nothing was pushed. -/
def Popped (s t : State) (r : Nat) (ws : List Want) : Prop :=
  (∀ q, Tab.get [] (t.crewAt r).loadQ q =
    if q ∈ popsOf ws then (Tab.get [] (s.crewAt r).loadQ q).drop 1 else Tab.get [] (s.crewAt r).loadQ q) ∧
  ∀ q, Tab.get [] (t.crewAt r).storeQ q = Tab.get [] (s.crewAt r).storeQ q

/-- Predicates after a write of bits in the lanes of a mask: p7 is constant, no lane means no write, and the label is the
result's where all 32 lanes are written, the higher of it and the old one otherwise (06 R145). -/
def predSet (f : Nat → LV) (n : Nat) (lanes val : Word) (l : Label) : Nat → LV := fun k =>
  if k = n ∧ n ≠ 7 ∧ lanes ≠ 0 then
    ⟨((f n).v &&& ~~~lanes) ||| (val &&& lanes), if lanes = 0xFFFFFFFF then l else Label.join (f n).l l⟩
  else f k

/-- The highest label of sources over the lanes of a mask. -/
def State.lanesLabel (s : State) (r : Nat) (ws : List Want) (mask : Word) (l : Label) : Label :=
  (lanesOf mask).foldl (fun l i => Label.join l (s.operandsLabel r ws i)) l

/-- A vector carry form: its sum or difference with carry, destination, sources and mode set (06 R169). -/
def carryForm : Instr → Option ((Nat → Nat → Nat → Nat × Bool) × Dst × List Want × Bool)
  | .iaddc nw d a b m => some (fun a b c => ((a + b + c) % 2 ^ 32, decide (2 ^ 32 ≤ a + b + c)),
      { n := d.toNat, nw }, [{ f := a.toNat }, { f := b.toNat }], m)
  | .isubb nw d a b m => some (fun a b c => (wrap 32 ((a : Int) - b - c), decide (a < b + c)),
      { n := d.toNat, nw }, [{ f := a.toNat }, { f := b.toNat }], m)
  | _ => none

/-- A U-form with carry (06 R178). -/
def carryUForm : Instr → Option ((Nat → Nat → Nat → Nat × Bool) × Nat × List Want × Bool)
  | .iaddcU d a b m => some (fun a b c => ((a + b + c) % 2 ^ 32, decide (2 ^ 32 ≤ a + b + c)), d.toNat, [uni a, uni b], m)
  | .isubbU d a b m => some (fun a b c => (wrap 32 ((a : Int) - b - c), decide (a < b + c)), d.toNat, [uni a, uni b], m)
  | _ => none

/-- A lane fetch: its nw bit, destination, a, b or an immediate, mode set, and the thread it takes a from (07 R194). -/
structure FetchForm where
  nw : Bool
  d : BitVec 6
  a : BitVec 7
  b : Option (BitVec 7)
  imm : Nat := 0
  m : Bool
  who : Nat → Nat → Option Nat

/-- The lane fetches. -/
def fetchForm : Instr → Option FetchForm
  | .lget nw d a b m => some { nw, d, a, b := some b, m, who := fun _ x => some x }
  | .lflip nw d a b m => some { nw, d, a, b := some b, m, who := fun id x => some (id ^^^ x) }
  | .lprev nw d a b m => some { nw, d, a, b := some b, m, who := fun id x => if id < x then none else some (id - x) }
  | .lnext nw d a b m => some { nw, d, a, b := some b, m, who := fun id x => some (id + x) }
  | .lgetImm nw d a imm m => some { nw, d, a, b := none, imm := imm.toNat, m, who := fun _ x => some x }
  | .lflipImm nw d a imm m => some { nw, d, a, b := none, imm := imm.toNat, m, who := fun id x => some (id ^^^ x) }
  | .lprevImm nw d a imm m => some { nw, d, a, b := none, imm := imm.toNat, m, who := fun id x => if id < x then none else some (id - x) }
  | .lnextImm nw d a imm m => some { nw, d, a, b := none, imm := imm.toNat, m, who := fun id x => some (id + x) }
  | _ => none

/-- The broadcasts (07 R195). -/
def castForm : Instr → Option FetchForm
  | .bcast nw d a b m => some { nw, d, a, b := some b, m, who := fun _ x => some x }
  | .bcastImm nw d a imm m => some { nw, d, a, b := none, imm := imm.toNat, m, who := fun _ x => some x }
  | _ => none

/-- TYPE of the form's set is a 64-bit type. -/
def FetchForm.wide (f : FetchForm) (t : Stream) : Bool := typeWidth (modeTYPE (t.mode f.m)) == 64

/-- Its source a. -/
def FetchForm.srcA (f : FetchForm) (t : Stream) : Want := { f := f.a.toNat, wide := f.wide t }

/-- Its sources. -/
def FetchForm.srcs (f : FetchForm) (t : Stream) : List Want :=
  f.srcA t :: (match f.b with | some b => [{ f := b.toNat }] | none => [])

/-- Its destination. -/
def FetchForm.dst (f : FetchForm) (t : Stream) : Dst := { n := f.d.toNat, wide := f.wide t, nw := f.nw }

/-- value(b) in a lane. -/
def FetchForm.value (f : FetchForm) (s : State) (r i : Nat) : Nat :=
  match f.b with
  | some b => s.operand r { f := b.toNat } i % 2 ^ 32
  | none => f.imm

/-- The label of value(b) in a lane. -/
def FetchForm.label (f : FetchForm) (s : State) (r i : Nat) : Label :=
  match f.b with
  | some b => s.operandLabel r { f := b.toNat } i
  | none => 0

/-- The Active() lane that holds a thread, or the lane given when none does (07 R194). -/
def State.laneOf (s : State) (r : Nat) (act : Word) (id : Option Nat) (own : Nat) : Nat :=
  match id with
  | none => own
  | some v => ((lanesOf act).find? fun l => s.vid r l == v).getD own

/-! Traps and privileged registers. -/

/-- A stream without what a system trap writes (13 R309). -/
def Stream.lessSys (t : Stream) : Stream :=
  { t.flow with
    spc := 0, scause := 0, sinfo := 0, smask := 0, sem := 0, sword := 0, phact := false, ppriv := false, priv := false,
    intrap := false, em := 0, hact := false, trapAt := 0, latches := [], serving := none }

/-- A stream without what a user trap writes (01 R40). -/
def Stream.lessUser (t : Stream) : Stream :=
  { t.flow with trappc := 0, trapcause := 0, trapinfo := 0, trapmask := 0, trapem := 0, em := 0, hact := false, latches := [] }

/-- What MTP of a value leaves in a privileged register: RW fields take it, the others and RO registers keep the old value
(13 R300 to R302, R322). -/
def mtpValue (idx old v : Nat) : Nat :=
  if idx = 0 then old % 4 + bits v 3 2 * 4
  else if idx = 1 then bits v 23 2 * 4
  else if idx = 5 ∨ 8 ≤ idx ∧ idx < 16 ∨ idx = 35 ∨ idx = 37 ∨ idx = 38 then v % 2 ^ 32
  else if idx = 36 ∨ idx = 40 then v % 2 ^ 64
  else old

/-- The values MTP may write to a privileged register (13 R322; HTIME above 65,535 is log entry 54). -/
def mtpOk (idx v : Nat) : Bool :=
  if idx = 0 then bits v 31 4 == 0
  else if idx = 35 then v % 4 == 0
  else if idx = 36 then v % 4096 == 0 && decide (v < 2 ^ 40)
  else if idx = 37 then decide (1 ≤ v) && decide (v ≤ 4096)
  else if idx = 38 then decide (1 ≤ v) && decide (v ≤ 65535)
  else if idx = 40 then bits v 10 1 == 0 && bits v 63 52 == 0
  else true

/-- The illegal-instruction trap of a stream with a subcode (13 R311). -/
def State.illegalTrap (s : State) (r sub : Nat) : Trap :=
  { cause := 0x10, sub, info := w64 s.word.toNat, mask := (s.stream r).em }

/-- The privilege trap of a stream (13 R311). -/
def State.levelTrap (s : State) (r : Nat) : Trap :=
  { cause := 0x11, sub := 0, info := w64 s.word.toNat, mask := (s.stream r).em }

/-- A 64-bit uniform source. -/
def uniPair (a : BitVec 7) : Want := uniWide a true

/-- Cores that a scope takes in: 3 the core, 4 its cluster, 5 its die, 6 the package (04 R105). -/
def inScope (scope core k : Nat) : Prop :=
  if scope = 3 then k = core else if scope = 4 then clusterOf k = clusterOf core
  else if scope = 5 then dieOf k = dieOf core else True

/-! Memory. -/

/-- No write is on its way to memory: no coherence message in flight, no modified line in an L2, no dirty sector in an L1. -/
def Quiet (s : State) : Prop :=
  s.msgs = [] ∧ (∀ die line x, s.l2Find die line = some x → x.st ≠ .m) ∧
    ∀ k sec x, Tab.find sec (s.core k).l1 = some x → x.dirty.any id = false

/-- The streams, crews, gangs and host memory of a state are those of another. -/
def SameStreams (s t : State) : Prop := t.streams = s.streams ∧ t.crews = s.crews ∧ t.gangs = s.gangs ∧ t.hostMem = s.hostMem

/-- The accesses of the enabled lanes of an address pair to elements of the m-selected TYPE (08 R201 to R203). -/
def State.laneAsks (s : State) (r : Nat) (m : Bool) (k : Int) (a : BitVec 7) (mask : Word) : List Ask :=
  (lanesOf mask).map fun i => laneAsk ((s.stream r).accWidth m) k i (s.operand r { f := a.toNat, wide := true } i)

/-- The accesses of the enabled lanes to scratchpad (08 R207). -/
def State.spAsks (s : State) (r : Nat) (m : Bool) (imm a : BitVec 7) : List Ask :=
  (lanesOf ((s.stream r).active m)).map fun i =>
    spAsk ((s.stream r).accWidth m) (signed 7 imm.toNat) i (s.operand r { f := a.toNat } i)

/-- The byte of scratchpad lies outside what an access touches. -/
def Ask.avoids (x : Ask) (a : Nat) : Prop := a < x.addr ∨ x.addr + x.n ≤ a

/-- The form of an atomic: its operation as ATOM numbers it, destination, sources and the sources of data and compare. -/
structure AtomForm where
  op : Nat
  m : Bool
  dst : Option Dst
  srcs : List Want
  data : Want
  compare : Option Want

/-- ATOM and RED in a space (08 R212): a compare-and-swap takes its compare value first and its data after it. -/
def atomForm (t : Stream) (sp : Bool) : Instr → Option AtomForm
  | .atom op nw d a _ m =>
    let wide := typeWidth (modeTYPE (t.mode m)) == 64
    let first : Want := { f := d.toNat, wide }
    let second : Want := { f := d.toNat + (if wide then 2 else 1), wide }
    let cas := op.toNat == 7
    some { op := op.toNat, m, dst := some { n := d.toNat, wide, nw },
           srcs := { f := a.toNat, wide := !sp } :: first :: (if cas then [second] else []),
           data := if cas then second else first, compare := some first }
  | .red op d a _ m =>
    let data : Want := { f := d.toNat, wide := typeWidth (modeTYPE (t.mode m)) == 64, allow := .data }
    some { op := if op.toNat = 6 then 8 else op.toNat, m, dst := none, srcs := [{ f := a.toNat, wide := !sp }, data],
           data, compare := none }
  | _ => none

/-! Instructions that write several registers. -/

/-- The registers from d upwards took, in the lanes of a mask, the lanes of the rows, one latch shift for each; with nw only
the latches took them; queues gave up what was read. -/
structure WroteRows (s t : State) (r : Nat) (ws : List Want) (d : Nat) (nw : Bool) (mask : Word) (rows : List (Nat → LV)) : Prop where
  regs : ∀ n, (t.stream r).vreg n =
    if nw = false ∧ d ≤ n ∧ n < d + rows.length then ((s.stream r).vreg n).merge mask (rows.getD (n - d) fun _ => {})
    else (s.stream r).vreg n
  latches : (t.stream r).latches = ((List.range rows.length).map fun k =>
    ((s.stream r).vreg (d + k)).merge mask (rows.getD k fun _ => {})).foldl (fun ls x => ⟨some x, none⟩ :: ls.take 7) (s.stream r).latches
  popped : Popped s t r ws

/-- No register of n from d upwards waits for a load. -/
abbrev Stream.arrived (t : Stream) (d n : Nat) : Prop := ∀ k, k < n → t.awaited (d + k) = false

/-- A residue instruction: whether TYPE and the operands are allowed, its nw bit, destination and number of registers, mode
set, sources, and the words it writes from a lane's source words (09 R250 to R252). -/
structure ResForm where
  ok : Bool
  nw : Bool
  d : Nat
  n : Nat
  m : Bool
  srcs : List Want
  words : List Nat → List Nat

/-- Five sources from a residue operand's first. -/
def fiveFrom (f : BitVec 7) : List Want := (List.range 5).map fun k => { f := f.toNat + k }

/-- A residue operand: v0 to v51, or, where a uniform one is allowed, c0 to c27 (09 R250). -/
def resOperand (f : BitVec 7) (uni : Bool) : Bool :=
  decide (f.toNat < 52) || (uni && decide (80 ≤ f.toNat) && decide (f.toNat < 108))

/-- The residue instructions under a TYPE, a saturation bit and a map. -/
def resForm (t : Stream) (map : Word) : Instr → Option ResForm
  | .rnsf nw d a m =>
    let ty := modeTYPE (t.mode m)
    some { ok := isInt ty && decide (32 ≤ typeWidth ty), nw, d := d.toNat, n := 5, m, srcs := [{ f := a.toNat, wide := typeWidth ty == 64 }],
           words := fun xs =>
             packRes (forward map (if isSigned ty then signed (typeWidth ty) (xs.getD 0 0) else (xs.getD 0 0 : Nat))) }
  | .rnsr nw d a m =>
    let ty := modeTYPE (t.mode m)
    some { ok := isInt ty && isSigned ty && decide (32 ≤ typeWidth ty) && resOperand a false, nw, d := d.toNat,
           n := if typeWidth ty = 64 then 4 else 2, m, srcs := fiveFrom a,
           words := fun xs => rnsrWords ty (modeSAT (t.mode m)) (recon map (unpackRes xs)) }
  | .rnsc nw d a m =>
    some { ok := resOperand a false, nw, d := d.toNat, n := 1, m, srcs := fiveFrom a, words := fun xs => [(recon map (unpackRes xs)).2] }
  | .rnsmul nw d a b m =>
    some { ok := resOperand a false && resOperand b true, nw, d := d.toNat, n := 5, m, srcs := fiveFrom a ++ fiveFrom b,
           words := channelwise map (· * ·) }
  | .rnsadd nw d a b m =>
    some { ok := resOperand a false && resOperand b true, nw, d := d.toNat, n := 5, m, srcs := fiveFrom a ++ fiveFrom b,
           words := channelwise map (· + ·) }
  | _ => none

/-! The sort unit and the witness (10 R257 to R270). -/

/-- The highest label of sources in some lanes, and of the guard. -/
def State.sourcesLabel (s : State) (r : Nat) (m : Bool) (ws : List Want) (lanes : List Nat) : Label :=
  ws.foldl (fun l w => lanes.foldl (fun l i => Label.join l (s.operandLabel r w i)) l) ((s.stream r).guardLabel m)

/-- The entries of lanes in two sources. -/
def State.entries (s : State) (r : Nat) (lanes : List Nat) (key idx : Want) : List SortEntry :=
  lanes.map fun i => ⟨s.operand r key i, s.operand r idx i, s.vid r i⟩

/-- A stream without what a sort instruction may change. -/
def Stream.lessSort (t : Stream) : Stream := { t.lessVec with vcount := 0 }


end Machine

end Sys2Proof
end

