-- ==== Sys2Proof/Certificates/Slice0/Obligations.lean ====
section
/-! DEFINITION. The statements for the provers, from the numbered rules of the spec. A log entry named in a docstring is the
model's choice, no rule. -/

open Sys2Proof Sys2Proof.Machine

/-! A step. -/

/-- When it is a stream's turn, it owes no trap, and the word fetched at its program counter decodes, and no boundary park
stops it there, step is exec of the decoded instruction, with the word kept for the traps that report it, words fetched
ahead dropped, what its issue leaves made, and the boundary settled after it; while rationing keeps the instruction's
operands from being gathered it waits in its slot (log entry 18). Issue leaves alone every stream, crew, gang and byte
of memory, but that a due acquire is made and that an instruction which synchronises is noted. The word is that of the
frame which holds the page of the program counter, unless the loop buffer or a word fetched earlier gives it. With an
event at the head of the agenda, step is exec of that event with its operands. Whose turn it is, and the agenda, are log
entry 1; what synchronises is log entry 97. -/
def Obligations.StepRunsWhatIsNext : Prop :=
  (∀ (s v : State) (r : Nat) (w : Word) (i : Instr),
    s.tick.turn = .stream r → (s.tick.stream r).owed = none → (∀ k pa, (s.tick.stream r).wait ≠ some (.args k pa)) →
    ({ s.tick with cur := some r, stalled := false, consumed := none } : State).fetch r = .word w v → decode w = .ok i →
    ¬((v.gangAt r).req = .boundary ∧ Instr.parkPoint i = true ∧ (v.stream r).intrap = false) →
    let u := ({ v with word := w } : State).updStream r fun t => { t with fetched := [] }
    (u.rationed r i = false → step s = settled (exec i (u.issues r i))) ∧
    (u.rationed r i = true →
      step s = .next ({ s.tick with cur := some r, stalled := true, consumed := none } : State).settle)) ∧
  (∀ (s : State) (r : Nat) (i : Instr), (s.gangAt r).acquireDue.contains (crewNum r) = false → Instr.syncs i = false →
    (s.issues r i).streams = s.streams ∧ (s.issues r i).crews = s.crews ∧ (s.issues r i).gangs = s.gangs ∧
      (s.issues r i).mem = s.mem ∧ (s.issues r i).hostMem = s.hostMem ∧ (s.issues r i).cur = s.cur) ∧
  (∀ (s : State) (r : Nat) (f : Frame),
    (s.stream r).captured (s.imageOf r).1 = false → Tab.find (s.stream r).pc.toNat (s.stream r).fetched = none →
    (s.stream r).pc.toNat / 4096 < s.imagePages r →
    s.findFrame (s.coreNum r) (s.imageOf r).1 (s.partNum r) (s.imageOf r).2 ((s.stream r).pc.toNat / 4096) = some f →
    ∃ v, s.fetch r = .word (Tab.get 0 f.words ((s.stream r).pc.toNat % 4096 / 4)) v ∧
      v.streams = s.streams ∧ v.mem = s.mem ∧ v.gangs = s.gangs) ∧
  ∀ (s : State) (i : Instr) (e : Ev) (rest : List (Instr × Ev)),
    s.agenda = (i, e) :: rest → Instr.isEvent i = true →
    step s = settled (exec i { s.tick with agenda := rest, ev := e })

/-! Encoding. -/

/-- Decoding what the encoder writes gives the instruction back, for every well-formed instruction. -/
def Obligations.DecodeOfEncode : Prop :=
  ∀ (i : Instr) (w : Word), i.wf = true → encode i = some w → decode w = .ok i

/-- A word that decodes to an instruction other than BRK, TRAP and an unassigned opcode is what the encoder writes for it;
BRK and TRAP are followed by the immediate that the trap reports, and an unassigned opcode has no encoding. -/
def Obligations.EncodeOfDecode : Prop :=
  ∀ (w : Word) (i : Instr), decode w = .ok i →
    i.wf = true ∧ (i ≠ .brk → i ≠ .trap → i ≠ .unassignedOpcode → encode i = some w) ∧
    (i = .brk → w.toNat / 2 ^ 22 = 3) ∧ (i = .trap → w.toNat / 2 ^ 22 = 4) ∧
    (i = .unassignedOpcode → assignedOpcode (w.toNat / 2 ^ 22) = false)

/-- Words that the spec's worked examples give with their instructions decode to those instructions. -/
def Obligations.SpecWordsDecode : Prop :=
  decode 0x02486000 = .ok (.mode 0x086000) ∧ decode 0x20228206 = .ok (.iadd true 5 2 3 false) ∧
  decode 0x28434004 = .ok (.imulImm false 6 64 2 false) ∧ decode 0x00400000 = .ok .yield ∧ decode 0x00800000 = .ok .exit ∧
  decode 0x180A0190 = .ok (.cmp 4 0 1 2 1 72 false) ∧ decode 0x083BFFFB = .ok (.bra false 7 false 0x3FFFB) ∧
  decode 0x39810100 = .ok (.cscan false 2 1 false 0 false) ∧ decode 0x5600001B = .ok (.fence 6 3) ∧
  decode 0x64018002 = .ok (.accrd false 3 false 0 1 false) ∧ decode 0x70850204 = .ok (.vtopk 10 2 false 2 false) ∧
  decode 0xA34558B2 = .ok (.orU 10 88 89 false) ∧ decode 0xF143D200 = .ok (.ctxload 7 82) ∧
  decode 0xF0800001 = .ok (.eret 0 1) ∧ decode 0xF1005206 = .ok (.ctxsave 0 82 true true)

/-! Memory. -/

/-- Every step keeps the canonical form of local memory and host memory (log entry 4). -/
def Obligations.StepKeepsMemoryForm : Prop :=
  ∀ s t : State, MemoryInv s → step s = .next t → MemoryInv t

/-- Memory after reset is in canonical form, and a byte written reads back while every other byte is as it was. Model's
choices: log entry 4. -/
def Obligations.MemoryReadsWhatWasWritten : Prop :=
  MemoryInv State.reset ∧
  ∀ (m : List Host.Cell) (a : Nat) (bs : List Byte), Memory.wf m = true →
    Memory.wf (wrBytes m a bs) = true ∧
    (∀ i, i < bs.length → rdByte (wrBytes m a bs) (a + i) = bs.getD i 0) ∧
    ∀ c, c < a ∨ a + bs.length ≤ c → rdByte (wrBytes m a bs) c = rdByte m c

/-! Vector instructions. -/

/-- Every vector instruction that computes each lane from that lane's sources completes when its operands can be read: the
enabled lanes of the destination hold its result, with the highest label of its sources and guard, the latches shift,
queues advance, only a stochastic rounding draws random words, and nothing else changes. A TYPE or a field that it does
not allow raises the illegal-instruction trap. Where a source's register bank holds an error the instruction takes the
poison-consumption trap with SUB 3 in place of all that (SINFO: model's choice, log entry 98). -/
def Obligations.VectorInstructionsCompute : Prop :=
  ∀ (s : State) (r : Nat) (i : Instr) (x : AluRow), s.cur = some r → (Tab.find r s.streams).isSome = true →
    aluRow (s.stream r) i = some x → i.wf = true → (x.work = true → s.workOk r) →
    (x.ok = false → ∃ sub ∈ [1, 2, 3], exec i s = .next (s.takeTrap r (s.illegalTrap r sub))) ∧
    (x.ok = true → s.readable r x.srcs (some x.dst) → s.consumed = none →
      ∀ n, (vregsOf x.srcs).find? (fun k => (s.stream r).regBad.contains k) = some n →
        exec i s = .next (s.takeTrap r { cause := 0x28, sub := 3, mask := (s.stream r).em, info := (s.bankTrap r n).info })) ∧
    (x.ok = true → s.readable r x.srcs (some x.dst) → (s.stream r).regBad = [] → ∃ t, exec i s = .next t ∧
      Wrote s t r x.srcs x.dst x.mask (fun k =>
        ((x.val k (x.srcs.map fun w => s.operand r w k) ((s.stream r).genLane k)).1, Label.join (s.operandsLabel r x.srcs k) x.lab)) ∧
      (∀ k, k < 32 → (t.stream r).genLane k =
        if x.draws = true ∧ inMask x.mask k = true
        then (x.val k (x.srcs.map fun w => s.operand r w k) ((s.stream r).genLane k)).2 else (s.stream r).genLane k) ∧
      WentOn s t r ∧ OnlyStream s t r Stream.lessVec)

/-- Every U-form completes whatever EM holds: its uniform register, or the even pair of a 64-bit result, takes the value and
the highest label of its sources, and nothing else changes. A TYPE, a field or a destination that it does not allow
raises the illegal-instruction trap. -/
def Obligations.UniformFormsCompute : Prop :=
  ∀ (s : State) (r : Nat) (i : Instr) (x : UniRow), s.inHand r → uniRow (s.stream r) i = some x →
    i.wf = true → (x.work = true → s.workOk r) →
    ((x.ok = false ∨ 32 ≤ x.d ∨ x.wide = true ∧ x.d % 2 = 1) →
      ∃ sub ∈ [2, 3], exec i s = .next (s.takeTrap r (s.illegalTrap r sub))) ∧
    (x.ok = true → x.d < 32 → (x.wide = true → x.d % 2 = 0) → s.readable r x.srcs none → ∃ t, exec i s = .next t ∧
      (∀ n, (t.stream r).creg n =
        if n = x.d then ⟨w32 (x.val (x.srcs.map fun w => s.operand r w 0)), Label.join (s.operandsLabel r x.srcs 0) x.lab⟩
        else if x.wide = true ∧ n = x.d + 1 then
          ⟨w32 (x.val (x.srcs.map fun w => s.operand r w 0) / 2 ^ 32), Label.join (s.operandsLabel r x.srcs 0) x.lab⟩
        else (s.stream r).creg n) ∧
      WentOn s t r ∧ t.crews = s.crews ∧ OnlyStream s t r Stream.lessUni)

/-- IADDC and ISUBB and their U-forms: the sum with the carry p6 holds, or the difference less the borrow, and p6 takes the
carry or borrow out, in each enabled lane; a U-form reads lane 0 of p6 and writes all of it. Only s32 and n32 are
allowed. Model's choices: log entry 22. -/
def Obligations.CarryInstructionsCompute : Prop :=
  (∀ (s : State) (r : Nat) (i : Instr) (f : Nat → Nat → Nat → Nat × Bool) (d : Dst) (ws : List Want) (m : Bool), s.inHand r →
    carryForm i = some (f, d, ws, m) →
    (carryType (modeTYPE ((s.stream r).mode m)) = false → exec i s = .next (s.takeTrap r (s.illegalTrap r 2))) ∧
    (carryType (modeTYPE ((s.stream r).mode m)) = true → s.readable r ws (some d) →
    let out (k : Nat) : Nat × Bool :=
      f (s.operand r (ws.getD 0 { f := 0 }) k) (s.operand r (ws.getD 1 { f := 0 }) k) (inMask ((s.stream r).preg 6).v k).toNat
    let lab := Label.join ((s.stream r).preg 6).l ((s.stream r).guardLabel m)
    ∃ t, exec i s = .next t ∧
      Wrote s t r ws d ((s.stream r).active m) (fun k => ((out k).1, Label.join (s.operandsLabel r ws k) lab)) ∧
      (∀ n, (t.stream r).preg n = predSet (s.stream r).preg 6 ((s.stream r).active m) (maskWhere fun k => (out k).2)
        (s.lanesLabel r ws ((s.stream r).active m) lab) n) ∧
      WentOn s t r ∧ OnlyStream s t r (fun u => { u.lessVec with p := [] }))) ∧
  ∀ (s : State) (r : Nat) (i : Instr) (f : Nat → Nat → Nat → Nat × Bool) (d : Nat) (ws : List Want) (m : Bool), s.inHand r →
    carryUForm i = some (f, d, ws, m) →
    (carryType (modeTYPE ((s.stream r).mode m)) = false → exec i s = .next (s.takeTrap r (s.illegalTrap r 2))) ∧
    (carryType (modeTYPE ((s.stream r).mode m)) = true → d < 32 → s.readable r ws none →
    let out := f (s.operand r (ws.getD 0 { f := 0 }) 0) (s.operand r (ws.getD 1 { f := 0 }) 0) (inMask ((s.stream r).preg 6).v 0).toNat
    let lab := Label.join (s.operandsLabel r ws 0) ((s.stream r).preg 6).l
    ∃ t, exec i s = .next t ∧
      (∀ n, (t.stream r).creg n = if n = d then ⟨w32 out.1, lab⟩ else (s.stream r).creg n) ∧
      (∀ n, (t.stream r).preg n = predSet (s.stream r).preg 6 0xFFFFFFFF (if out.2 then 0xFFFFFFFF else 0) lab n) ∧
      WentOn s t r ∧ t.crews = s.crews ∧ OnlyStream s t r (fun u => { u.lessUni with p := [] }))

/-- GETS writes a special register into the enabled lanes, with the guard's label, a 64-bit one into a pair. A reserved
index, or an odd pair, is illegal. -/
def Obligations.GetsReadsSpecialRegisters : Prop :=
  ∀ (s : State) (r : Nat) (nw : Bool) (d idx : BitVec 6), s.inHand r →
    ((19 ≤ idx.toNat ∨ idx.toNat < 3 ∧ d.toNat < 56 ∧ d.toNat % 2 = 1) →
      exec (.gets nw d idx) s = .next (s.takeTrap r (s.illegalTrap r 3))) ∧
    (idx.toNat < 19 → s.readable r [] (some { n := d.toNat, wide := decide (idx.toNat < 3), nw }) →
    ∃ t, exec (.gets nw d idx) s = .next t ∧
      Wrote s t r [] { n := d.toNat, wide := decide (idx.toNat < 3), nw } ((s.stream r).active false)
        (fun k => (s.special r idx.toNat k, (s.stream r).guardLabel false)) ∧
      (t.stream r).gen = (s.stream r).gen ∧ WentOn s t r ∧ OnlyStream s t r Stream.lessVec)

/-! Cross-lane instructions. -/

/-- LGET, LFLIP, LPREV and LNEXT: an enabled lane takes a of the enabled thread that its own id and value(b) name, or its
own a when no enabled lane holds that thread. BCAST: every enabled lane takes a of the thread that value(b) of the
lowest enabled lane names, or that lane's own a. -/
def Obligations.LaneFetchesCompute : Prop :=
  (∀ (s : State) (r : Nat) (i : Instr) (f : FetchForm), s.inHand r → fetchForm i = some f →
    s.readable r (f.srcs (s.stream r)) (some (f.dst (s.stream r))) →
    let src (k : Nat) : Nat := s.laneOf r ((s.stream r).active f.m) (f.who (s.vid r k) (f.value s r k)) k
    ∃ t, exec i s = .next t ∧
      Wrote s t r (f.srcs (s.stream r)) (f.dst (s.stream r)) ((s.stream r).active f.m) (fun k =>
        (s.operand r (f.srcA (s.stream r)) (src k),
          Label.join (Label.join (s.operandLabel r (f.srcA (s.stream r)) (src k)) (f.label s r k)) ((s.stream r).guardLabel f.m))) ∧
      (t.stream r).gen = (s.stream r).gen ∧ WentOn s t r ∧ OnlyStream s t r Stream.lessVec) ∧
  ∀ (s : State) (r : Nat) (i : Instr) (f : FetchForm), s.inHand r → castForm i = some f →
    s.readable r (f.srcs (s.stream r)) (some (f.dst (s.stream r))) →
    let low := (lanesOf ((s.stream r).active f.m)).headD 0
    let src := s.laneOf r ((s.stream r).active f.m) (some (f.value s r low)) low
    ∃ t, exec i s = .next t ∧
      Wrote s t r (f.srcs (s.stream r)) (f.dst (s.stream r)) ((s.stream r).active f.m) (fun k =>
        (s.operand r (f.srcA (s.stream r)) src,
          Label.join (Label.join (s.operandLabel r (f.srcA (s.stream r)) src) (f.label s r k)) ((s.stream r).guardLabel f.m))) ∧
      (t.stream r).gen = (s.stream r).gen ∧ WentOn s t r ∧ OnlyStream s t r Stream.lessVec

/-- CRED gives every enabled lane the tree reduction, in ascending thread id, of a over the enabled lanes; CSCAN gives each
the running prefix up to it, or, in the exclusive form, before it, starting with the operation's identity; LPEER gives
each the mask of the enabled lanes whose a equals its own. The label is the highest among the enabled lanes' a and the
guard. CRED and CSCAN are illegal under a binary8 or b4 TYPE and with an operation above 5. -/
def Obligations.CrewReductionsCompute : Prop :=
  ∀ (s : State) (r : Nat) (nw excl : Bool) (d : BitVec 6) (a : BitVec 7) (op : BitVec 4) (m : Bool), s.inHand r →
    let u := s.stream r
    let ty := modeTYPE (u.mode m)
    let act := u.active m
    let src : Want := { f := a.toNat, wide := typeWidth ty == 64 }
    let dst : Dst := { n := d.toNat, wide := typeWidth ty == 64, nw }
    let top := (lanesOf act).foldl (fun l k => Label.join l (s.operandLabel r src k)) 0
    let f := credLane op.toNat ty (roundingOf (u.mode m)).uniform
    let xs := (s.byVid r act).map (s.operand r src)
    let running := xs.headD 0 :: prefixes f (xs.headD 0) (xs.drop 1)
    ((6 ≤ op.toNat ∨ credType ty = false) → ∀ i ∈ [Instr.cred nw d a op m, .cscan nw d a excl op m],
      ∃ sub ∈ [0, 2], exec i s = .next (s.takeTrap r (s.illegalTrap r sub))) ∧
    (op.toNat < 6 → credType ty = true → s.readable r [src] (some dst) →
      (∃ t, exec (.cred nw d a op m) s = .next t ∧
        Wrote s t r [src] dst act (fun _ => (treeReduce f 5 xs, Label.join top (u.guardLabel m))) ∧
        (t.stream r).gen = u.gen ∧ WentOn s t r ∧ OnlyStream s t r Stream.lessVec) ∧
      ∃ t, exec (.cscan nw d a excl op m) s = .next t ∧
        Wrote s t r [src] dst act (fun k =>
          ((((s.byVid r act).zip (if excl then packed (typeWidth ty) (fun _ => credIdentity op.toNat ty) :: running else running)).find?
            fun p => p.1 == k).elim 0 Prod.snd, Label.join top (u.guardLabel m))) ∧
        (t.stream r).gen = u.gen ∧ WentOn s t r ∧ OnlyStream s t r Stream.lessVec) ∧
    (s.readable r [src] (some { n := d.toNat, nw }) →
      ∃ t, exec (.lpeer nw d a m) s = .next t ∧
        Wrote s t r [src] { n := d.toNat, nw } act (fun k =>
          ((maskWhere fun l => inMask act l && s.operand r src l == s.operand r src k).toNat, Label.join top (u.guardLabel m))) ∧
        (t.stream r).gen = u.gen ∧ WentOn s t r ∧ OnlyStream s t r Stream.lessVec)

/-! Predicates, guards and modes. -/

/-- CMP writes the condition on each lane, combined with the old predicates as its combining type says, to pa and then to
pb, in the enabled lanes, or in every lane of EM for the combining type that takes no guard. A TYPE it does not compare
is illegal. Model's choices: log entry 22. -/
def Obligations.CompareComputes : Prop :=
  ∀ (s : State) (r : Nat) (cond comb pa pb : BitVec 3) (a b : BitVec 7) (m : Bool), s.inHand r →
    let u := s.stream r
    let ty := modeTYPE (u.mode m)
    let ws : List Want := [{ f := a.toNat, wide := typeWidth ty == 64 }, { f := b.toNat, wide := typeWidth ty == 64 }]
    let lanes := if comb = 1 then u.em else u.active m
    let res := maskWhere fun k => condHolds cond.toNat (compareElems ty (s.operand r (ws.getD 0 { f := 0 }) k) (s.operand r (ws.getD 1 { f := 0 }) k))
    let lab := s.lanesLabel r ws lanes 0
    let lab := if comb = 1 then lab else Label.join lab (u.guardLabel m)
    let lab := if 2 ≤ comb.toNat ∧ comb.toNat ≤ 5 then Label.join lab (u.preg pa.toNat).l
      else if 6 ≤ comb.toNat then Label.join lab (u.preg pb.toNat).l else lab
    let out := combine comb.toNat (u.preg pa.toNat).v (u.preg pb.toNat).v res
    (cmpType ty = false → exec (.cmp cond comb pa pb a b m) s = .next (s.takeTrap r (s.illegalTrap r 2))) ∧
    (cmpType ty = true → s.readable r ws none →
    ∃ t, exec (.cmp cond comb pa pb a b m) s = .next t ∧
      (∀ n, (t.stream r).preg n = predSet (predSet u.preg pa.toNat lanes out.1 lab) pb.toNat lanes out.2 lab n) ∧
      Popped s t r ws ∧ WentOn s t r ∧ OnlyStream s t r Stream.lessPred)

/-- PAND, POR, PXOR, PNOT and PMOV write their result to a predicate in the enabled lanes; ANY and ALL write one bit to
every lane of EM in pa and its inverse in pb: whether the predicate holds in some, or in each, of the enabled lanes.
Model's choices: log entry 22. -/
def Obligations.PredicateInstructionsCompute : Prop :=
  ∀ (s : State) (r : Nat) (d x y : BitVec 3) (a : BitVec 7) (m : Bool), s.inHand r →
    let u := s.stream r
    let lab2 := Label.join (Label.join (u.guardLabel m) (u.preg x.toNat).l) (u.preg y.toNat).l
    let lab1 := Label.join (u.guardLabel m) (u.preg x.toNat).l
    let wrote (i : Instr) (val : Word) (lab : Label) : Prop :=
      ∃ t, exec i s = .next t ∧ (∀ n, (t.stream r).preg n = predSet u.preg d.toNat (u.active m) val lab n) ∧
        WentOn s t r ∧ t.crews = s.crews ∧ OnlyStream s t r Stream.lessPred
    let hit := u.active m &&& (u.preg a.toNat).v
    let lab := Label.join (u.preg a.toNat).l (u.guardLabel m)
    let all (b : Bool) : Word := if b then 0xFFFFFFFF else 0
    let both (i : Instr) (b : Bool) : Prop :=
      ∃ t, exec i s = .next t ∧
        (∀ n, (t.stream r).preg n = predSet (predSet u.preg x.toNat u.em (all b) lab) y.toNat u.em (all !b) lab n) ∧
        WentOn s t r ∧ t.crews = s.crews ∧ OnlyStream s t r Stream.lessPred
    wrote (.pand d x y m) ((u.preg x.toNat).v &&& (u.preg y.toNat).v) lab2 ∧
    wrote (.por d x y m) ((u.preg x.toNat).v ||| (u.preg y.toNat).v) lab2 ∧
    wrote (.pxor d x y m) ((u.preg x.toNat).v ^^^ (u.preg y.toNat).v) lab2 ∧
    wrote (.pnot d x m) (~~~(u.preg x.toNat).v) lab1 ∧
    wrote (.pmov d x m) (u.preg x.toNat).v lab1 ∧
    (a.toNat < 8 → both (.any x y a m) (hit != 0) ∧ both (.all x y a m) (hit == u.active m))

/-- VOTE, GETMODE and GETEM write a uniform register: the enabled lanes in which a predicate is 1, a mode set's image, EM.
GSET unsets a guard slot, or sets it true where its predicate is 1 in some lane of EM or is p7, and false otherwise, and
where its stream has no command queued changes nothing else. -/
def Obligations.VotesGuardsAndModeReads : Prop :=
  ∀ (s : State) (r : Nat) (d : BitVec 6) (a b : BitVec 7) (m : Bool), s.inHand r →
    let u := s.stream r
    let toUni (i : Instr) (x : Word) (lab : Label) : Prop :=
      ∃ t, exec i s = .next t ∧ (∀ n, (t.stream r).creg n = if n = d.toNat then ⟨x, lab⟩ else u.creg n) ∧
        WentOn s t r ∧ t.crews = s.crews ∧ OnlyStream s t r Stream.lessUni
    let guard (i : Instr) (g : Guard) : Prop :=
      ∃ t, exec i s = .next t ∧ (∀ n, (t.stream r).guard n = if n = a.toNat then g else u.guard n) ∧
        WentOn s t r ∧ t.crews = s.crews ∧ OnlyStream s t r (fun v => { v.core with guards := [] })
    (d.toNat < 32 →
      (a.toNat < 8 → toUni (.vote d a m) (u.active m &&& (u.preg a.toNat).v) (Label.join (u.preg a.toNat).l (u.guardLabel m))) ∧
      toUni (.getmode d m) (w32 (bits (u.mode m).toNat 21 0)) 0 ∧ toUni (.getem d) u.em 0) ∧
    (a.toNat < 8 → guard (.gset true a 0) .unset ∧
      (b.toNat < 8 → (∃ t, exec (.gset false a b) s = .next t) ∧ (u.copyQ = [] → u.mxQ = [] →
        (∀ c ∈ s.colls, c.stream ≠ r) → guard (.gset false a b) (if b.toNat = 7 ∨ (u.preg b.toNat).v &&& u.em ≠ 0 then .on else .off))))

/-- MODE writes a legal image to mode set 0, set 1 or both, from an immediate or a uniform register, and an illegal image
raises the illegal-instruction trap with SUB 2; SETEM writes the live lanes of a value to EM, and is illegal with a
source that is neither z nor a uniform register. Model's choice: log entry 116 (SUB 2 for reserved bits, too). -/
def Obligations.ModeAndMaskWrites : Prop :=
  ∀ (s : State) (r : Nat) (image : BitVec 22) (a : BitVec 7) (m : Bool), s.inHand r →
    let u := s.stream r
    let ws : List Want := [{ f := a.toNat, allow := .uni }]
    let x := s.operand r { f := a.toNat, allow := .uni } 0
    let modes (i : Instr) (zero one : Word) : Prop :=
      ∃ t, exec i s = .next t ∧ (t.stream r).mode0 = zero ∧ (t.stream r).mode1 = one ∧
        WentOn s t r ∧ t.crews = s.crews ∧ OnlyStream s t r (fun v => { v.core with mode0 := 0, mode1 := 0 })
    let image' := w32 image.toNat
    (modeImageOk image.toNat = true →
      modes (.mode image) image' u.mode1 ∧ modes (.modeM1 image) u.mode0 image' ∧ modes (.modeBoth image) image' image') ∧
    (modeImageOk image.toNat = false →
      ∀ i ∈ [Instr.mode image, .modeM1 image, .modeBoth image],
        exec i s = .next (s.takeTrap r (s.illegalTrap r 2))) ∧
    ((a.toNat < 72 ∨ 72 < a.toNat ∧ a.toNat < 80 ∨ 112 ≤ a.toNat) →
      ∃ sub ∈ [1, 3], exec (.setem a) s = .next (s.takeTrap r (s.illegalTrap r sub))) ∧
    (s.readable r ws none →
      (modeImageOk x = false → exec (.modeUniform a m) s = .next (s.takeTrap r (s.illegalTrap r 2))) ∧
      (modeImageOk x = true → modes (.modeUniform a m) (if m then u.mode0 else w32 x) (if m then w32 x else u.mode1)) ∧
      ∃ t, exec (.setem a) s = .next t ∧ (t.stream r).em = w32 x &&& u.live ∧
        WentOn s t r ∧ t.crews = s.crews ∧ OnlyStream s t r (fun v => { v.core with em := 0 }))

/-! Control flow. -/

/-- BRA goes to its target when its condition holds in some lane of EM; BRC does so in the lanes in which it holds, which
alone stay in EM; otherwise both go on. Neither changes another register. With the yield bit the crew leaves its slot
and is ready, and a taken backward branch may rotate it. -/
def Obligations.BranchesTransferControl : Prop :=
  ∀ (s : State) (r : Nat) (y : Bool) (pred : BitVec 3) (sense : Bool) (off : BitVec 18), s.inHand r →
    let u := s.stream r
    let c : Word := if pred = 7 then 0xFFFFFFFF else if sense then ~~~(u.preg pred.toNat).v else (u.preg pred.toNat).v
    let target := targetOf u.pc 18 off.toNat
    let always : Bool := pred == 7
    ¬(pred = 7 ∧ sense = true) →
    (∃ t, exec (.bra y pred sense off) s = .next t ∧ (t.stream r).em = u.em ∧
      ((always = true ∨ u.em &&& c ≠ 0) → (t.stream r).pc = target ∧ (t.stream r).loops = u.loops) ∧
      (¬(always = true ∨ u.em &&& c ≠ 0) → WentOn s t r) ∧
      (y = true → ∃ n age, (t.crewAt r).place = .ready n age) ∧
      (y = false → 0 < signed 18 off.toNat → t.crews = s.crews ∧ (t.stream r).latches = u.latches) ∧
      OnlyCrew s t r Stream.flow) ∧
    ∃ t, exec (.brc y pred sense off) s = .next t ∧
      ((always = true ∨ u.em &&& c ≠ 0) → (t.stream r).em = u.em &&& c ∧ (t.stream r).pc = target ∧ (t.stream r).loops = u.loops) ∧
      (¬(always = true ∨ u.em &&& c ≠ 0) → (t.stream r).em = u.em ∧ WentOn s t r) ∧
      (y = true → ∃ n age, (t.crewAt r).place = .ready n age) ∧
      (y = false → 0 < signed 18 off.toNat → t.crews = s.crews ∧ (t.stream r).latches = u.latches) ∧
      OnlyCrew s t r (fun v => { v.flow with em := 0 })

/-- JMPI, CALLV and RETV go to the lead lane's target with the lanes of EM that share it, CALLV writing the link there and
RETV trapping with user cause 2 where lanes of EM differ. With no lane in EM they go on and write nothing. Model's
choices: log entry 23. -/
def Obligations.IndirectJumpsFollowTheLeadLane : Prop :=
  (∀ (s : State) (r : Nat) (nw : Bool) (d : BitVec 6) (a : BitVec 7), s.inHand r → (s.stream r).em = 0 →
    (s.readable r [{ f := a.toNat }] none →
      ∃ t, exec (.jmpi a) s = .next t ∧ Popped s t r [{ f := a.toNat }] ∧ WentOn s t r ∧ OnlyStream s t r Stream.core) ∧
    (d.toNat < 56 → s.readable r [{ f := a.toNat }] (some { n := d.toNat, nw }) →
      ∃ t, exec (.callv nw d a) s = .next t ∧ Popped s t r [{ f := a.toNat }] ∧ WentOn s t r ∧ OnlyStream s t r Stream.core) ∧
    (d.toNat < 56 → s.readable r [{ f := d.toNat, allow := .vec }] none →
      ∃ t, exec (.retv d) s = .next t ∧ t.crews = s.crews ∧ WentOn s t r ∧ OnlyStream s t r Stream.core)) ∧
  ∀ (s : State) (r : Nat) (nw : Bool) (d : BitVec 6) (a : BitVec 7) (lead : Nat) (others : List Nat), s.inHand r →
    lanesOf (s.stream r).em = lead :: others →
    let u := s.stream r
    let src : Want := { f := a.toNat }
    let target (w : Want) (k : Nat) : BitVec 24 := BitVec.ofNat 24 (bits (s.operand r w k) 23 2 * 4)
    let stay (w : Want) : Word := maskWhere fun k => inMask u.em k && target w k == target w lead
    (s.readable r [src] none →
      ∃ t, exec (.jmpi a) s = .next t ∧ (t.stream r).pc = target src lead ∧ (t.stream r).em = stay src ∧
        (t.stream r).loops = u.loops ∧ Popped s t r [src] ∧ OnlyStream s t r (fun v => { v.flow with em := 0 })) ∧
    (d.toNat < 56 → s.readable r [src] (some { n := d.toNat, nw }) →
      ∃ t, exec (.callv nw d a) s = .next t ∧ (t.stream r).pc = target src lead ∧ (t.stream r).em = stay src ∧
        (t.stream r).loops = u.loops ∧
        Wrote s t r [src] { n := d.toNat, nw } (stay src) (fun _ => ((u.pc + 4).toNat, 0)) ∧ (t.stream r).gen = u.gen ∧
        OnlyStream s t r (fun v => { v.lessVec with fetched := [], em := 0 })) ∧
    (d.toNat < 56 → s.readable r [{ f := d.toNat, allow := .vec }] none →
      (stay { f := d.toNat, allow := .vec } = u.em →
        ∃ t, exec (.retv d) s = .next t ∧ (t.stream r).pc = target { f := d.toNat, allow := .vec } lead ∧
          (t.stream r).loops = u.loops ∧ OnlyStream s t r Stream.flow) ∧
      (stay { f := d.toNat, allow := .vec } ≠ u.em →
        exec (.retv d) s = .next (s.takeTrap r { cause := 2, mask := u.em })))

/-- CALL pushes the address after it on the return stack and goes to its target when its condition holds, raises trap 0x14
on a full stack, and goes on otherwise; RET pops the stack and goes there, and traps with user cause 3 on an empty
stack; OVCALL calls a code address of the image whose page a frame holds. -/
def Obligations.CallsUseTheReturnStack : Prop :=
  ∀ (s : State) (r : Nat) (pred : BitVec 3) (sense : Bool) (off : BitVec 18) (a imm : BitVec 7), s.inHand r →
    let u := s.stream r
    let c : Word := if sense then ~~~(u.preg pred.toNat).v else (u.preg pred.toNat).v
    let holds : Prop := pred = 7 ∨ u.em &&& c ≠ 0
    let pushes (i : Instr) (pc : BitVec 24) : Prop :=
      ∃ t, exec i s = .next t ∧ (t.stream r).pc = pc ∧ (t.stream r).rets = (u.pc + 4) :: u.rets ∧
        (t.stream r).loops = u.loops ∧ OnlyStream s t r (fun v => { v.flow with rets := [] })
    (¬(pred = 7 ∧ sense = true) →
      (holds → u.rets.length < 16 → pushes (.call pred sense off) (targetOf u.pc 18 off.toNat)) ∧
      (holds → 16 ≤ u.rets.length →
        exec (.call pred sense off) s = .next (s.takeTrap r { cause := 0x14, info := 0, mask := u.em })) ∧
      (¬holds → ∃ t, exec (.call pred sense off) s = .next t ∧ WentOn s t r ∧ OnlyStream s t r Stream.core)) ∧
    (∀ pc rest, u.rets = pc :: rest →
      ∃ t, exec .ret s = .next t ∧ (t.stream r).pc = pc ∧ (t.stream r).rets = rest ∧ (t.stream r).loops = u.loops ∧
        OnlyStream s t r (fun v => { v.flow with rets := [] })) ∧
    (u.rets = [] → exec .ret s = .next (s.takeTrap r { cause := 3, mask := u.em })) ∧
    (s.readable r [{ f := a.toNat, allow := .uni }] none → u.rets.length < 16 →
      let target := BitVec.ofNat 24 (bits (s.operand r { f := a.toNat, allow := .uni } 0 + 4 * imm.toNat) 23 2 * 4)
      s.holdsPage r (s.inSup r) (target.toNat / 4096) = true → pushes (.ovcall a imm) target)

/-- LOOP with a count of zero goes past the loop; with another count it pushes a level whose body begins after it and ends
at its end address; at four levels it raises trap 0x15. LBRK leaves the innermost level and goes to its target when its
condition holds. An instruction at the end address of the innermost level goes back while the count is above one, and
leaves the level after that. -/
def Obligations.LoopsRepeatTheirBody : Prop :=
  ∀ (s : State) (r : Nat) (count : BitVec 7) (stop15 : BitVec 15) (pred : BitVec 3) (sense : Bool) (off : BitVec 18), s.inHand r →
    let u := s.stream r
    let n := s.operand r { f := count.toNat, allow := .uni } 0
    let stop := u.pc + BitVec.ofNat 24 (4 * stop15.toNat)
    let c : Word := if sense then ~~~(u.preg pred.toNat).v else (u.preg pred.toNat).v
    let holds : Prop := pred = 7 ∨ u.em &&& c ≠ 0
    (stop15 ≠ 0 → s.readable r [{ f := count.toNat, allow := .uni }] none →
      (n = 0 → ∃ t, exec (.loop count stop15) s = .next t ∧ (t.stream r).pc = stop + 4 ∧ (t.stream r).loops = u.loops ∧
        OnlyStream s t r Stream.flow) ∧
      (n ≠ 0 → u.loops.length < 4 → ∃ t l, exec (.loop count stop15) s = .next t ∧ (t.stream r).pc = u.pc + 4 ∧
        (t.stream r).loops = l :: u.loops ∧ l.start = u.pc + 4 ∧ l.stop = stop ∧ l.count = w32 n ∧ OnlyStream s t r Stream.flow) ∧
      (n ≠ 0 → 4 ≤ u.loops.length →
        exec (.loop count stop15) s = .next (s.takeTrap r { cause := 0x15, info := 0, mask := u.em }))) ∧
    (¬(pred = 7 ∧ sense = true) →
      (∀ l rest, u.loops = l :: rest →
        (holds → ∃ t, exec (.lbrk pred sense off) s = .next t ∧ (t.stream r).pc = targetOf u.pc 18 off.toNat ∧
          (t.stream r).loops = rest ∧ OnlyStream s t r Stream.flow) ∧
        (¬holds → ∃ t, exec (.lbrk pred sense off) s = .next t ∧ WentOn s t r ∧ OnlyStream s t r Stream.core)) ∧
      (u.loops = [] → exec (.lbrk pred sense off) s = .next (s.takeTrap r { cause := 0x15, info := 0, mask := u.em }))) ∧
    (∀ l rest, u.loops = l :: rest →
      (u.pc ≠ l.stop → u.next.pc = u.pc + 4 ∧ u.next.loops = l :: rest) ∧
      (u.pc = l.stop → 1 < l.count.toNat → u.next.pc = l.start ∧ u.next.loops = { l with count := l.count - 1 } :: rest) ∧
      (u.pc = l.stop → l.count.toNat ≤ 1 → (∀ k ∈ rest, k.stop ≠ u.pc) → u.next.pc = u.pc + 4 ∧ u.next.loops = rest))

/-- NOP completes and only goes on. YIELD completes and goes on, its crew leaving the slot, ready. ISYNC completes and goes
on with captured and fetched words dropped. EXIT of no enabled lane completes and goes on; EXIT of enabled lanes
completes and takes them from the live lanes and EM, the stream ending when none is left. OVLOAD of a page of the kernel
image completes where the page lies in local memory, leaving it in a frame of the core; a page beyond the image is a
code-range fault. -/
def Obligations.CrewControlCompletes : Prop :=
  (∀ (s : State) (r : Nat), s.inHand r →
    ∃ t, exec .nop s = .next t ∧ WentOn s t r ∧ t.crews = s.crews ∧ OnlyStream s t r Stream.core) ∧
  (∀ (s : State) (r : Nat), s.inHand r →
    ∃ t, exec .yield s = .next t ∧ WentOn s t r ∧ (∃ n age, (t.crewAt r).place = .ready n age) ∧ OnlyCrew s t r Stream.core) ∧
  (∀ (s : State) (r : Nat), s.inHand r →
    ∃ t, exec .isync s = .next t ∧ (t.stream r).pc = (s.stream r).next.pc ∧ (t.stream r).fetched = [] ∧ (t.stream r).lbuf = [] ∧
      (t.stream r).loops = (s.stream r).next.loops.map (fun l => { l with captured := false }) ∧ t.crews = s.crews ∧
      OnlyStream s t r Stream.flow) ∧
  (∀ (s : State) (r : Nat), s.inHand r →
    let u := s.stream r
    let act := u.active false
    (act = 0 → ∃ t, exec .exit s = .next t ∧ WentOn s t r ∧ t.crews = s.crews ∧ OnlyStream s t r Stream.core) ∧
    (act ≠ 0 → u.live &&& ~~~act ≠ 0 →
      (∀ c ∈ s.countingCrews (gangOf r), (s.stream (32 * gangOf r + 2 * c)).wait = none) →
      ∃ t, exec .exit s = .next t ∧ (t.stream r).live = u.live &&& ~~~act ∧ (t.stream r).em = u.em &&& ~~~act ∧ WentOn s t r ∧
        t.crews = s.crews ∧ OnlyStream s t r (fun v => { v.core with live := 0, em := 0 })) ∧
    (act ≠ 0 → u.live &&& ~~~act = 0 → (s.gangAt r).stack = [] → (s.gangAt r).single = true → r % 2 = 0 →
      (∀ c ∈ s.countingCrews (gangOf r), (s.stream (32 * gangOf r + 2 * c)).wait = none) →
      ∃ t, exec .exit s = .next t ∧ (t.stream r).ended = true ∧ (t.crewAt r).ended = true ∧ t.mem = s.mem)) ∧
  ∀ (s : State) (r : Nat) (a imm : BitVec 7), s.inHand r → s.readable r [{ f := a.toNat, allow := .uni }] none →
    let u := s.stream r
    let g := s.gangAt r
    let page := s.operand r { f := a.toNat, allow := .uni } 0 + imm.toNat
    (g.pages ≤ page → exec (.ovload a imm) s = .next (s.takeTrap r { cause := 0x16, info := w64 page, mask := u.em })) ∧
    ∀ p v x, page < g.pages → s.spotOf g u.priv .read (va56 (g.code.toNat + 4096 * page)) = (.ok p, v) →
      v.window p.pa = .mem x → v.blockMark x 4096 = none →
      ∃ t, exec (.ovload a imm) s = .next t ∧ WentOn s t r ∧ t.gangs = s.gangs ∧ t.crews = s.crews ∧
        ∃ f ∈ (t.core (s.coreNum r)).frames, f.page = page ∧ f.part = s.partNum r ∧ f.sup = false ∧ f.image = g.code

/-! Traps. -/

/-- A system trap of a stream that is in no system handler, whatever its level: the registers of R300 take its state, the
stream is at supervisor level with EM equal to the trap's mask and the program counter at SVEC, its latches are void,
its crew leaves the slot ready, and no other register and no memory changes. Integrity faults and uncorrectable errors,
which do more, are not in it. -/
def Obligations.SystemTrapEntrySavesTheStream : Prop :=
  ∀ (s : State) (r : Nat) (x : Trap), (s.stream r).intrap = false → (s.gangAt r).parking = false →
    9 < x.cause → x.cause ≠ 0x28 → x.cause ≠ 0x29 →
    let u := s.stream r
    let t := s.takeTrap r x
    let v := t.stream r
    v.spc = w32 u.pc.toNat ∧ v.scause = w32 (x.sub * 256 + x.cause) ∧ v.sinfo = x.info ∧ v.smask = x.mask ∧ v.sem = u.em ∧
      v.sword = x.word.getD s.word ∧ v.phact = u.hact ∧ v.ppriv = u.priv ∧ v.priv = true ∧ v.intrap = true ∧ v.em = x.mask ∧
      v.pc = BitVec.ofNat 24 (s.part (s.partNum r)).svec.toNat ∧ v.hact = false ∧
      v.latches = List.replicate 8 {} ∧ (∃ n age, (t.crewAt r).place = .ready n age) ∧ OnlyCrew s t r Stream.lessSys

/-- A user trap of a stream in no handler, whose crew handler is named on a page that a frame holds: the user trap registers
take the trap, EM is its mask, the program counter is the handler's entry, and the crew leaves its slot ready. Raised in
the user handler, the trap is a handler fault of system software; with no handler named it goes to system software as it
is. -/
def Obligations.UserTrapEntry : Prop :=
  ∀ (s : State) (r : Nat) (x : Trap), (s.stream r).intrap = false → (s.gangAt r).parking = false → 1 ≤ x.cause → x.cause ≤ 8 →
    let u := s.stream r
    let t := s.takeTrap r x
    let v := t.stream r
    (∀ pc, u.hact = false → (s.gangAt r).handler = some pc → pc.toNat / 4096 < (s.gangAt r).pages →
      s.holdsPage r false (pc.toNat / 4096) = true →
      v.trappc = w32 u.pc.toNat ∧ v.trapcause = w32 x.cause ∧ v.trapinfo = w32 x.info.toNat ∧ v.trapmask = x.mask ∧
        v.trapem = u.em ∧ v.em = x.mask ∧ v.hact = true ∧ v.pc = pc ∧ v.latches = List.replicate 8 {} ∧
        (∃ n age, (t.crewAt r).place = .ready n age) ∧ OnlyCrew s t r Stream.lessUser) ∧
    (u.hact = true → t = s.takeTrap r { cause := 0x12, sub := x.cause, info := x.info, mask := x.mask, word := x.word }) ∧
    (u.hact = false → (s.gangAt r).handler = none →
      v.spc = w32 u.pc.toNat ∧ v.scause = w32 (x.sub * 256 + x.cause) ∧ v.sinfo = x.info ∧ v.smask = x.mask ∧ v.intrap = true)

/-- A trap in a system handler enters no handler: the node instance ends with status 0x7FFF and an event of kind 2 with the
gang's handle is posted. A trap of a stream whose gang is being parked becomes its pending event instead, and its crew
stops. The consumption of an uncorrectable error is logged before either, and an integrity fault ends its fault domain
after it. -/
def Obligations.NestedTrapsAndParks : Prop :=
  ∀ (s : State) (r : Nat) (x : Trap),
    let g := s.gangAt r
    let logged := s.recordFault (effFDOM g.effcfg) g.part 3 0 0 x.info 0 0 0 0 x.sub true
    (x.cause ≠ 0x28 → x.cause ≠ 0x29 → (s.stream r).intrap = true →
      s.takeTrap r x = (s.endInstance (s.nodeNum r) 0x7FFF).postEvent (s.partNum r) 2 (0x7FFF * 2 ^ 32 + g.handle.toNat)) ∧
    (x.cause = 0x28 → s.takeTrap r x = logged.deliverTrap r x) ∧
    (x.cause = 0x29 → s.takeTrap r x = (s.deliverTrap r x).endDomain (· == r) g.part (effFDOM g.effcfg) 0x29) ∧
    (x.cause ≠ 0x28 → x.cause ≠ 0x29 → (s.stream r).intrap = false → g.parking = true → g.single = true → r % 2 = 0 →
      (Tab.find r s.streams).isSome = true →
      let t := s.takeTrap r x
      (t.stream r).pending = some { x with word := some (x.word.getD s.word) } ∧ (t.stream r).pc = (s.stream r).pc ∧ (t.stream r).intrap = false ∧
        (t.crewAt r).stopped = true ∧ t.nodes = s.nodes ∧ t.mem = s.mem)

/-- BRK of enabled lanes raises cause 0x13 with its immediate and those lanes; TRAP raises user cause 8 so; of no lane they
only go on. An unassigned opcode raises the illegal-instruction trap with SUB 0. -/
def Obligations.TrapInstructionsTrap : Prop :=
  ∀ (s : State) (r : Nat), s.inHand r →
    let act := (s.stream r).active false
    (act ≠ 0 →
      exec .brk s = .next (s.takeTrap r { cause := 0x13, info := w64 (bits s.word.toNat 14 0), mask := act }) ∧
      exec .trap s = .next (s.takeTrap r { cause := 8, info := w64 (bits s.word.toNat 14 0), mask := act })) ∧
    (act = 0 → ∀ i ∈ [Instr.brk, .trap], ∃ t, exec i s = .next t ∧ WentOn s t r ∧ t.crews = s.crews ∧ OnlyStream s t r Stream.core) ∧
    exec .unassignedOpcode s = .next (s.takeTrap r (s.illegalTrap r 0))

/-- TRET in the handler restores EM from TRAPEM less the threads that ended, leaves the handler with void latches, and goes
to TRAPPC, past it after a TRAP instruction, or to the address a uniform register holds; outside a handler it is illegal
(with SUB 3: model's choice, log entry 60). -/
def Obligations.TretLeavesTheHandler : Prop :=
  ∀ (s : State) (r : Nat) (d : BitVec 6), s.inHand r → d.toNat < 32 →
    let u := s.stream r
    let back := BitVec.ofNat 24 u.trappc.toNat
    let leaves (i : Instr) (pc : BitVec 24) (loops : List LoopLevel) : Prop :=
      ∃ t, exec i s = .next t ∧ (t.stream r).em = u.trapem &&& u.live ∧ (t.stream r).hact = false ∧
        (t.stream r).latches = List.replicate 8 {} ∧ (t.stream r).pc = pc ∧ (t.stream r).loops = loops ∧ t.crews = s.crews ∧
        OnlyStream s t r (fun v => { v.flow with em := 0, hact := false, latches := [] })
    (u.hact = true →
      (u.trapcause ≠ 8 → leaves (.tret 0 false) back u.loops) ∧
      (u.trapcause = 8 → leaves (.tret 0 false) ({ u with pc := back } : Stream).next.pc ({ u with pc := back } : Stream).next.loops) ∧
      leaves (.tret d true) (BitVec.ofNat 24 (bits (u.creg d.toNat).v.toNat 23 2 * 4)) u.loops) ∧
    (u.hact = false → ∀ i ∈ [Instr.tret 0 false, .tret d true], exec i s = .next (s.takeTrap r (s.illegalTrap r 3)))

/-- ERET restores the level, the handler-active bit and EM from the saved ones, leaves the handler with void latches, and
goes to SPC, past it, or to the address a uniform register holds; after the fault of an argument block, with mode 1 or
2, c0 to c7 are zero with label 0. For a cause marked "ends" it ends the node, and in a node that an import has ended it
stops its stream, the last such stream ending the node. Outside a system handler, or with mode 3, it is illegal. Model's
choices: log entries 60 (the subcodes), 81 and 93 (the handlers of a node that has ended). -/
def Obligations.EretLeavesTheHandler : Prop :=
  ∀ (s : State) (r : Nat) (d : BitVec 6) (form : BitVec 2), s.inHand r → (form = 2 → d.toNat < 32) →
    let u := s.stream r
    let n := s.nodeNum r
    let back : Stream := { u with pc := BitVec.ofNat 24 u.spc.toNat }
    (s.superOk r → u.intrap = true → form ≠ 3 → bits u.scause.toNat 7 0 ≠ 0x29 → (s.node n).endAtEret = false →
      (u.argFault = none →
        ∃ t, exec (.eret d form) s = .next t ∧ (t.stream r).priv = u.ppriv ∧ (t.stream r).hact = u.phact ∧
          (t.stream r).intrap = false ∧ (t.stream r).em = u.sem &&& u.live ∧ (t.stream r).latches = List.replicate 8 {} ∧
          (t.stream r).pc = (if form = 0 then back.pc else if form = 1 then back.next.pc
            else BitVec.ofNat 24 (bits (u.creg d.toNat).v.toNat 23 2 * 4)) ∧
          (t.stream r).loops = (if form = 1 then back.next.loops else u.loops) ∧ t.crews = s.crews ∧
          OnlyStream s t r (fun v => { v.flow with
            priv := false, hact := false, intrap := false, em := 0, latches := [], serving := none })) ∧
      (u.argFault.isSome = true → form ≠ 0 →
        ∃ t, exec (.eret d form) s = .next t ∧ (t.stream r).argFault = none ∧ (t.stream r).intrap = false ∧
          ∀ k, (t.stream r).creg k = if k < 8 then {} else u.creg k)) ∧
    (s.superOk r → u.intrap = true → form ≠ 3 → (s.node n).endAtEret = false → bits u.scause.toNat 7 0 = 0x29 →
      exec (.eret d form) s = .next ((s.chargeInstr r .privileged 0 0).endInstance n 0x29)) ∧
    (s.superOk r → u.intrap = true → form ≠ 3 → (s.node n).endAtEret = true →
      ((s.handlers n).any (· != r) = false →
        exec (.eret d form) s = .next ((s.chargeInstr r .privileged 0 0).endInstance n (s.node n).status)) ∧
      ((s.handlers n).any (· != r) = true →
        exec (.eret d form) s = .next (((s.chargeInstr r .privileged 0 0).updStream r Stream.stop).settleEnd r))) ∧
    (s.superOk r → u.intrap = false → form ≠ 3 → exec (.eret d form) s = .next (s.takeTrap r (s.illegalTrap r 0))) ∧
    (form = 3 → exec (.eret d form) s = .next (s.takeTrap r (s.illegalTrap r 3)))

/-! Privileged instructions. -/

/-- Every privileged instruction, legal as it stands, raises the privilege trap with SUB 0 in a stream at user level. -/
def Obligations.PrivilegedInstructionsTrapAtUserLevel : Prop :=
  ∀ (s : State) (r : Nat) (nw fr sl m : Bool) (d : BitVec 6) (a idx : BitVec 7) (lab form kind : BitVec 2) (scope : BitVec 4)
    (status : BitVec 15), s.inHand r → (s.stream r).priv = false →
    let traps (i : Instr) : Prop := exec i s = .next (s.takeTrap r (s.levelTrap r))
    (∀ wide v, s.privReg r idx.toNat = some (wide, v) →
      (d.toNat < 32 → (wide = true → d.toNat % 2 = 0) → traps (.mfp d idx)) ∧
      (s.readable r [uniWide a wide] none → mtpOk idx.toNat (s.operand r (uniWide a wide) 0) = true → traps (.mtp a idx))) ∧
    (form ≠ 3 → (form = 2 → d.toNat < 32) → traps (.eret d form)) ∧
    (status ≠ 0 → traps (.halt status)) ∧ (d.toNat < 32 → traps (.shedack d)) ∧
    (s.readable r [uni a] none → traps (.ovloadp a idx)) ∧
    (d.toNat < 56 → s.srcFault r { f := a.toNat } = none → traps (.declass nw d a lab m)) ∧
    (s.haulOk r →
      (kind.toNat < 2 → 3 ≤ scope.toNat → scope.toNat ≤ 6 → s.readable r [uniWide a (kind == 0)] none →
        (kind = 0 ∨ a.toNat = 72) → traps (.tlbinv a kind scope)) ∧
      (d.toNat < 32 → s.readable r [uniPair a] none → traps (.ctxsave d a fr sl) ∧ traps (.ctxload d a)) ∧
      (d.toNat < 32 → a.toNat ≠ 72 → s.readable r [uni a] none →
        (form.toNat < 2 → traps (.park d a form)) ∧ traps (.unpark d a)))

/-- MFP reads a privileged register into a uniform register or pair. MTP writes the RW fields of one, leaves RO fields and
registers as they are, and with a value outside a field's range changes nothing and is illegal with SUB 3 at either
level, as both are for an index that no register has. Model's choices: log entries 54 and 60. -/
def Obligations.PrivilegedRegistersReadAndWrite : Prop :=
  ∀ (s : State) (r : Nat) (d : BitVec 6) (a idx : BitVec 7), s.inHand r →
    (∀ wide old, s.privReg r idx.toNat = some (wide, old) →
      (s.superOk r → d.toNat < 32 → (wide = true → d.toNat % 2 = 0) →
        ∃ t, exec (.mfp d idx) s = .next t ∧
          (∀ n, (t.stream r).creg n = if n = d.toNat then ⟨w32 old, 0⟩
            else if wide = true ∧ n = d.toNat + 1 then ⟨w32 (old / 2 ^ 32), 0⟩ else (s.stream r).creg n) ∧
          WentOn s t r ∧ t.crews = s.crews ∧ OnlyStream s t r Stream.lessUni) ∧
      (s.readable r [uniWide a wide] none →
        let v := s.operand r (uniWide a wide) 0
        (s.superOk r → mtpOk idx.toNat v = true →
          ∃ t, exec (.mtp a idx) s = .next t ∧ t.privReg r idx.toNat = some (wide, mtpValue idx.toNat old v) ∧ WentOn s t r ∧
            (∀ k : Nat, k ≠ idx.toNat → t.privReg r k = s.privReg r k) ∧ t.crews = s.crews ∧ t.mem = s.mem ∧
            (t.stream r).c = (s.stream r).c ∧ (t.stream r).v = (s.stream r).v ∧ (∀ j, j ≠ r → t.stream j = s.stream j)) ∧
        (mtpOk idx.toNat v = false → exec (.mtp a idx) s = .next (s.takeTrap r (s.illegalTrap r 3))))) ∧
    (s.privReg r idx.toNat = none →
      exec (.mfp d idx) s = .next (s.takeTrap r (s.illegalTrap r 3)) ∧
      exec (.mtp a idx) s = .next (s.takeTrap r (s.illegalTrap r 3)))

/-- At supervisor level: HALT ends the node instance with its status; SHEDACK reads SHEDSTAT and clears PEND; DECLASS moves
lanes with the label it names, for a gang with that capability, and is a privilege trap with SUB 1 otherwise; TLBINV
leaves the cores of its scope no translation of the address, or of the partition; OVLOADP puts a page of the supervisor
image into a frame of the core. -/
def Obligations.SupervisorInstructionsComplete : Prop :=
  ∀ (s : State) (r : Nat) (nw m : Bool) (d : BitVec 6) (a k : BitVec 7) (lab kind : BitVec 2) (scope : BitVec 4)
    (status : BitVec 15), s.inHand r → s.superOk r →
    let u := s.stream r
    let p := s.partNum r
    (status ≠ 0 → exec (.halt status) s = .next ((s.chargeInstr r .privileged 0 0).endInstance (s.nodeNum r) status.toNat)) ∧
    (d.toNat < 32 → min s.pkgLevel (bits (s.part p).pshed.toNat 2 0) = (s.part p).level →
      ∃ t, exec (.shedack d) s = .next t ∧ (t.part p).shedstat = (s.part p).shedstat &&& ~~~64 ∧
        (∀ n, (t.stream r).creg n = if n = d.toNat then ⟨(s.part p).shedstat, 0⟩ else u.creg n) ∧ WentOn s t r ∧
        (∀ j, j ≠ p → (t.part j).lessEnergy = (s.part j).lessEnergy) ∧ t.crews = s.crews ∧ t.mem = s.mem) ∧
    (s.readable r [{ f := a.toNat }] (some { n := d.toNat, nw }) → d.toNat < 56 →
      (effDECLASS (s.gangAt r).effcfg = true →
        ∃ t, exec (.declass nw d a lab m) s = .next t ∧
          Wrote s t r [{ f := a.toNat }] { n := d.toNat, nw } (u.active m)
            (fun i => (s.operand r { f := a.toNat } i, labelOf lab.toNat)) ∧
          WentOn s t r ∧ OnlyStream s t r Stream.lessVec) ∧
      (effDECLASS (s.gangAt r).effcfg = false →
        exec (.declass nw d a lab m) s = .next (s.takeTrap r { s.levelTrap r with sub := 1 }))) ∧
    (s.haulOk r → kind.toNat < 2 → 3 ≤ scope.toNat → scope.toNat ≤ 6 → s.readable r [uniWide a (kind == 0)] none →
      (kind = 0 ∨ a.toNat = 72) →
      let va := s.operand r (uniWide a (kind == 0)) 0
      ∃ t, exec (.tlbinv a kind scope) s = .next t ∧ WentOn s t r ∧ t.crews = s.crews ∧ t.gangs = s.gangs ∧
        ∀ c, inScope scope.toNat (s.coreNum r) c → ∀ e ∈ (t.core c).tlb, e.part = p →
          kind = 0 ∧ (canonical va = true → ¬(e.vpage ≤ va56 va ∧ va56 va < e.vpage + e.leaf.size))) ∧
    (s.readable r [uni a] none →
      let image := (s.part p).simg
      let page := s.operand r (uni a) 0 + k.toNat
      let pa := (image.toNat + 4096 * page) % 2 ^ 64
      ((s.part p).simgsz.toNat ≤ page →
        exec (.ovloadp a k) s = .next (s.takeTrap r { cause := 0x16, sub := 1, info := w64 page, mask := u.em })) ∧
      ∀ x, page < (s.part p).simgsz.toNat → pa < 2 ^ 52 → s.wellPlaced pa 4096 = true → s.window pa = .mem x →
        s.blockMark x 4096 = none →
        ∃ t, exec (.ovloadp a k) s = .next t ∧ WentOn s t r ∧ t.gangs = s.gangs ∧ t.crews = s.crews ∧
          ∃ f ∈ (t.core (s.coreNum r)).frames, f.page = page ∧ f.part = p ∧ f.sup = true ∧ f.image = image)

/-- PARK and UNPARK answer with a status: 2 for no gang, 3 for another partition's, PARK 4 for its own gang with mode 1, 0
for a parked gang and 1 once a boundary park is asked for, UNPARK 1 for a gang that is not parked, and 5 or 0 for one
that is. PARK with mode 1 asks for a pre-emption and waits. Model's choices: log entries 60 and 61. -/
def Obligations.ParkAndUnparkAnswer : Prop :=
  ∀ (s : State) (r : Nat) (d : BitVec 6) (a : BitVec 7) (form : BitVec 2), s.inHand r → s.superOk r → s.haulOk r →
    d.toNat < 32 → a.toNat ≠ 72 → s.readable r [uni a] none →
    let h := s.operand r (uni a) 0
    let gives (i : Instr) (st : Nat) (after : State → Prop) : Prop :=
      ∃ t, exec i s = .next t ∧ (∀ n, (t.stream r).creg n = if n = d.toNat then ⟨w32 st, 0⟩ else (s.stream r).creg n) ∧
        (t.stream r).pc = (s.stream r).next.pc ∧ t.mem = s.mem ∧ after t
    (s.byHandle h = none → (form.toNat < 2 → gives (.park d a form) 2 (·.gangs = s.gangs)) ∧ gives (.unpark d a) 2 (·.gangs = s.gangs)) ∧
    ∀ g x, s.byHandle h = some (g, x) → s.gang g = x →
      (x.part ≠ s.partNum r →
        (form.toNat < 2 → gives (.park d a form) 3 (·.gangs = s.gangs)) ∧ gives (.unpark d a) 3 (·.gangs = s.gangs)) ∧
      (x.part = s.partNum r →
        (g = gangOf r → gives (.park d a 1) 4 (·.gangs = s.gangs)) ∧
        (x.parked = true →
          (g ≠ gangOf r → form.toNat < 2 → gives (.park d a form) 0 (fun t => t.gang g = { x with parkHold := true })) ∧
          (s.saving g = false →
            (x.shedHold = true ∨ x.assayHold = true → gives (.unpark d a) 5 (fun t => t.gang g = { x with parkHold := false })) ∧
            (x.shedHold = false → x.assayHold = false → g ≠ gangOf r →
              gives (.unpark d a) 0 (fun t => (t.gang g).parked = false ∧ (t.gang g).parkHold = false)))) ∧
        (x.parked = false →
          gives (.unpark d a) 1 (·.gangs = s.gangs) ∧
          gives (.park d a 0) 1 (fun t => (t.gang g).parkHold = true ∧ (t.gang g).req ≠ .none ∧ (t.gang g).parked = false) ∧
          (g ≠ gangOf r → ∃ t, exec (.park d a 1) s = .next t ∧ t.stalled = true ∧ (t.stream r).wait = some .park ∧
            (t.gang g).parkHold = true ∧ (t.gang g).req = .preempt ∧ (t.stream r).pc = (s.stream r).pc)))

/-- CTXSAVE and CTXLOAD begin and wait in the slot, CTXSAVE answering 1 for no parked gang and 5 for another partition's at
once; executed again when the image is written or read, they write the status or handle to their uniform register. An
image address that 4 KiB does not divide is an alignment fault. Model's choices: log entries 58 and 59. -/
def Obligations.ContextInstructionsComplete : Prop :=
  ∀ (s : State) (r : Nat) (d : BitVec 6) (a : BitVec 7) (fr sl : Bool), s.inHand r → s.superOk r → s.haulOk r →
    d.toNat < 32 → s.readable r [uniPair a] none →
    let u := s.stream r
    let va := s.operand r (uniPair a) 0
    let gives (i : Instr) (st : Word) : Prop :=
      ∃ t, exec i s = .next t ∧ (∀ n, (t.stream r).creg n = if n = d.toNat then ⟨st, 0⟩ else u.creg n) ∧
        WentOn s t r ∧ t.crews = s.crews ∧ OnlyStream s t r Stream.lessUni
    (∀ g ad sl' fr' st, u.wait = some (.ctxsave g ad sl' fr' (some st)) → gives (.ctxsave d a fr sl) st) ∧
    (∀ c ad st, u.wait = some (.ctxload c ad (some st)) → gives (.ctxload d a) st) ∧
    (u.wait = none → va % 4096 ≠ 0 → ∀ i ∈ [Instr.ctxsave d a fr sl, .ctxload d a],
      exec i s = .next (s.takeTrap r { cause := 0x1A, info := w64 va, mask := u.em })) ∧
    (u.wait = none → va % 4096 = 0 →
      (s.byHandle (u.creg d.toNat).v.toNat = none → gives (.ctxsave d a fr sl) 1) ∧
      (∀ g x, s.byHandle (u.creg d.toNat).v.toNat = some (g, x) →
        (x.part ≠ s.partNum r → gives (.ctxsave d a fr sl) 5) ∧
        (x.part = s.partNum r → x.parked = false → gives (.ctxsave d a fr sl) 1) ∧
        (x.part = s.partNum r → x.parked = true →
          exec (.ctxsave d a fr sl) s =
            .next (s.updStream r fun t => { t with wait := some (.ctxsave g (w64 va) sl fr none), saveAt := s.timestamp }))) ∧
      exec (.ctxload d a) s = .next (s.updStream r fun t =>
        { t with wait := some (.ctxload (u.creg d.toNat).v.toNat (w64 va) none) }))

/-! Loads and stores. -/

/-- LD, LDU and LDQ complete when their operands can be read and the access meets no fault: the destination takes the
element that each enabled lane's address names, extended to 32 bits, with the label of its page; LDQ pushes the vector
to its queue. When data come late (log entry 3), the registers and the queue entry wait for them and take them at
LOAD_DATA_ARRIVAL. -/
def Obligations.LoadsDeliver : Prop :=
  ∀ (s : State) (r : Nat) (hint q : BitVec 2) (nw : Bool) (d : BitVec 6) (a imm : BitVec 7) (m : Bool) (x : Access) (l : Loaded),
    s.inHand r → s.haulOk r → s.accessOf r imm.toNat [0, 1] = .ok x →
    let u := s.stream r
    let ty := modeTYPE (u.mode m)
    let w := u.accWidth m
    let act := u.active m
    let ws : List Want := [{ f := a.toNat, wide := true }]
    let after := l.st.acquireIf r x
    let v := (Vec.zero.merge act fun i => halfLane (l.lane ty w i) 0)
    (s.loadLanes r x.reads hint.toNat (s.laneAsks r m x.k a act) = .ok l →
      (s.readable r ws (some { n := d.toNat, wide := w == 64, nw }) →
        (after.lateLoads = false ∨ 56 ≤ d.toNat →
          ∃ t, exec (.ld hint nw d a imm m) s = .next t ∧
            Wrote after t r ws { n := d.toNat, wide := w == 64, nw } act (l.lane ty w) ∧ (t.stream r).gen = (after.stream r).gen ∧
            WentOn after t r ∧ OnlyStream after t r Stream.lessVec) ∧
        (after.lateLoads = true → d.toNat < 56 →
          let vs := (after.stream r).lateVecs { n := d.toNat, wide := w == 64, nw } act (l.lane ty w)
          ∃ t, exec (.ld hint nw d a imm m) s = .next t ∧
            (t.stream r).loads = (after.stream r).loads ++ [⟨after.fresh, if nw then [] else vs, act, vs.map Prod.snd, none⟩] ∧
            (t.stream r).v = (after.stream r).v ∧ WentOn after t r)) ∧
      (w ≠ 64 → s.readable r ws none → (Tab.get [] (s.crewAt r).loadQ q.toNat).length < 8 →
        ∃ t, exec (.ldq hint q a imm m) s = .next t ∧ WentOn after t r ∧
          Tab.get [] (t.crewAt r).loadQ q.toNat = Tab.get [] (after.crewAt r).loadQ q.toNat ++
            [⟨v, act, if after.lateLoads then some after.fresh else none⟩] ∧
          (after.lateLoads = false → OnlyStream after t r Stream.core))) ∧
    (s.loadLanes r x.reads hint.toNat [laneAsk w x.k 0 (s.operand r (uniPair a) 0)] = .ok l →
      d.toNat < 32 → (w = 64 → d.toNat % 2 = 0) → s.readable r [uniPair a] none →
      ∃ t, exec (.ldu hint d a imm m) s = .next t ∧
        (∀ n, (t.stream r).creg n = if n = d.toNat then ⟨w32 (l.lane ty w 0).1, (l.lane ty w 0).2⟩
          else if w = 64 ∧ n = d.toNat + 1 then ⟨w32 ((l.lane ty w 0).1 / 2 ^ 32), (l.lane ty w 0).2⟩ else (after.stream r).creg n) ∧
        WentOn after t r ∧ OnlyStream after t r Stream.lessUni)

/-- ST, STU and STQ complete when their operands can be read and the access meets no fault, with the stored state and
nothing else changed; STQ uses up the oldest entry of its queue, storing the lanes in that entry's mask. Model's
choices: log entries 5, 7, 10 and 32. -/
def Obligations.StoresComplete : Prop :=
  ∀ (s s' : State) (r lines : Nat) (hint q : BitVec 2) (d : BitVec 6) (a imm : BitVec 7) (m : Bool) (x : Access),
    s.inHand r → s.haulOk r → s.accessOf r imm.toNat [0, 2] = .ok x →
    let u := s.stream r
    let w := u.accWidth m
    let act := u.active m
    let addr : Want := { f := a.toNat, wide := true }
    let data : Want := { f := d.toNat, wide := w == 64, allow := .data }
    let udata : Want := { f := 80 + d.toNat, wide := w == 64, allow := .uni }
    (s.readable r [addr, data] none →
      s.storeLanes r x.coherent hint.toNat x.release ((lanesOf act).map fun i =>
        (laneAsk w x.k i (s.operand r addr i), s.operand r data i, s.operandLabel r data i)) = .ok (s', lines) →
      ∃ t, exec (.st hint d a imm m) s = .next t ∧ Popped s' t r [addr, data] ∧ WentOn s' t r ∧ OnlyStream s' t r Stream.core) ∧
    (d.toNat < 32 → s.readable r [uniPair a, udata] none →
      s.storeLanes r x.coherent hint.toNat x.release
        [(laneAsk w x.k 0 (s.operand r (uniPair a) 0), s.operand r udata 0, s.operandLabel r udata 0)] = .ok (s', lines) →
      ∃ t, exec (.stu hint d a imm m) s = .next t ∧ WentOn s' t r ∧ t.crews = s'.crews ∧ OnlyStream s' t r Stream.core) ∧
    (w ≠ 64 → s.readable r [addr] none → ∀ e rest, Tab.get [] (s.crewAt r).storeQ q.toNat = e :: rest →
      s.storeLanes r x.coherent hint.toNat x.release ((lanesOf (act &&& e.mask)).map fun i =>
        (laneAsk w x.k i (s.operand r addr i), (e.vec.lane i).v.toNat, (e.vec.lane i).l)) = .ok (s', lines) →
      ∃ t, exec (.stq hint q a imm m) s = .next t ∧
        (∀ k, Tab.get [] (t.crewAt r).storeQ k =
          if k = q.toNat then (Tab.get [] (s'.crewAt r).storeQ k).drop 1 else Tab.get [] (s'.crewAt r).storeQ k) ∧
        (t.crewAt r).loadQ = (s'.crewAt r).loadQ ∧ WentOn s' t r ∧ OnlyStream s' t r Stream.core)

/-- Loading changes no stream, crew, gang or byte of host memory, and, while no write is on its way to local memory, no byte
of that. A plain store to local memory through uncached pages, while no other write is on its way there, leaves every
byte that no lane stores to as it was, and every stream, crew, gang and byte of host memory. Model's choices: log
entries 5, 7 and 10. -/
def Obligations.MemoryChangesOnlyWhereStored : Prop :=
  (∀ (s : State) (r : Nat) (coh : Bool) (hint : Nat) (asks : List Ask) (l : Loaded),
    s.loadLanes r coh hint asks = .ok l → SameStreams s l.st ∧ (Quiet s → l.st.mem = s.mem)) ∧
  ∀ (s s1 s' : State) (r hint lines : Nat) (asks : List (Ask × Nat × Label)) (xs : List (Ask × List Spot)),
    Quiet s → s.resolve r .write (asks.map Prod.fst) = .ok (xs, s1) →
    (∀ x ∈ xs, ∀ p ∈ x.2, p.leaf.cpol = 2 ∧ ∃ a, s.window p.pa = .mem a) →
    s.storeLanes r false hint none asks = .ok (s', lines) →
    SameStreams s s' ∧
      ∀ a, (∀ x ∈ xs, ∀ p ∈ x.2, s.window p.pa ≠ .mem a) → rdByte s'.mem a = rdByte s.mem a

/-- LDS and STS complete when their operands can be read and every enabled lane lies in the gang's scratchpad: LDS gives
each lane its element with the highest label of its lines, changing no memory; STS changes no byte that no lane stores
to, and a lane whose bytes no other lane touches reads back as stored. Model's choices: log entry 7. -/
def Obligations.ScratchpadLoadsAndStores : Prop :=
  ∀ (s : State) (r : Nat) (nw : Bool) (d : BitVec 6) (a imm : BitVec 7) (m : Bool), s.inHand r → s.haulOk r →
    let u := s.stream r
    let w := u.accWidth m
    let act := u.active m
    let addr : Want := { f := a.toNat }
    let data : Want := { f := d.toNat, wide := w == 64, allow := .data }
    let asks := s.spAsks r m imm a
    let dst : Dst := { n := d.toNat, wide := w == 64, nw }
    let g := s.gangAt r
    (s.readable r [addr] (some dst) → s.checkScratch r true asks = .ok () → s.lateLoads = false ∨ 56 ≤ d.toNat →
      ∃ t, exec (.lds nw d a imm m) s = .next t ∧
        Wrote s t r [addr] dst act (fun i => match asks.find? fun x => x.lane == i with
          | some x => (extendElem (modeTYPE (u.mode m)) w (x.elem (g.spBytes x.addr x.n)), g.rangeLabel x.addr x.n)
          | none => (0, 0)) ∧
        (t.stream r).gen = u.gen ∧ WentOn s t r ∧ t.mem = s.mem ∧ t.hostMem = s.hostMem ∧
        ∀ k, (t.gang k).scratch = (s.gang k).scratch ∧ (t.gang k).scratchLab = (s.gang k).scratchLab) ∧
    (s.readable r [addr, data] none → s.checkScratch r false asks = .ok () →
      ∃ t, exec (.sts d a imm m) s = .next t ∧ Popped s t r [addr, data] ∧ WentOn s t r ∧ t.mem = s.mem ∧ t.hostMem = s.hostMem ∧
        (∀ k, k ≠ gangOf r → t.gang k = s.gang k) ∧
        (∀ p, (∀ x ∈ asks, x.avoids p) → rdByte (t.gangAt r).scratch p = rdByte g.scratch p) ∧
        ∀ x ∈ asks, x.nib = none → (∀ y ∈ asks, y.lane ≠ x.lane → ∀ i, i < x.n → y.avoids (x.addr + i)) →
          ∀ i, i < x.n → rdByte (t.gangAt r).scratch (x.addr + i) = (leBytes x.n (s.operand r data x.lane)).getD i 0)

/-! Atomics. -/

/-- ATOM and RED complete when their operands can be read and the access meets no fault; ATOM's destination takes the old
value in each enabled lane. Model's choices: log entries 5, 7 and 10. -/
def Obligations.AtomicsComplete : Prop :=
  ∀ (s : State) (r : Nat) (sp : Bool) (x : Access) (i : Instr) (f : AtomForm) (l : Loaded), s.inHand r → s.haulOk r → i.wf = true →
    let u := s.stream r
    let ty := modeTYPE (u.mode f.m)
    let w := typeWidth ty
    let act := u.active f.m
    let addr (k : Nat) : Nat := s.operand r (f.srcs.getD 0 { f := 0 }) k
    let lanes := (lanesOf act).map fun k => (⟨if sp then spAsk w 0 k (addr k) else laneAsk w 0 k (addr k), s.operand r f.data k,
      (f.compare.map fun c => s.operand r c k).getD 0,
      Label.join ((f.compare.map fun c => s.operandLabel r c k).getD 0) (s.operandLabel r f.data k)⟩ : AtomLane)
    atomForm u sp i = some f → atomType f.op ty = true → s.readable r f.srcs f.dst →
    s.atomics r f.op ty sp x lanes = .ok l →
    ((∃ op nw d a imm m, i = .atom op nw d a imm m ∧ s.atomField r imm.toNat [0, 1, 2, 3] = .ok (sp, x) ∧
        d.toNat < 56 ∧ d.toNat % ((if w = 64 then 2 else 1) * (if op.toNat = 7 then 2 else 1)) = 0) →
      ∃ t, exec i s = .next t ∧ WentOn l.st t r ∧ (∀ d ∈ f.dst, Wrote l.st t r f.srcs d act (l.lane ty w)) ∧
        (t.stream r).gen = (l.st.stream r).gen ∧ OnlyStream l.st t r Stream.lessVec) ∧
    ((∃ op d a imm m, i = .red op d a imm m ∧ s.atomField r imm.toNat [0, 2] = .ok (sp, x)) →
      ∃ t, exec i s = .next t ∧ Popped l.st t r f.srcs ∧ WentOn l.st t r ∧ OnlyStream l.st t r Stream.core)

/-- A relaxed atomic of one lane on scratchpad reads the old element and leaves the new one there, changing no other byte of
the gang's scratchpad and no memory. CLAIM on a scratchpad record gives the enabled lanes, in ascending thread id,
consecutive indices from NEXT while they are below LIMIT, all ones to the rest, and moves NEXT on by as many as it
granted; with no enabled lane it completes. Model's choices: log entries 5 and 7. -/
def Obligations.ScratchpadAtomicsUpdateTheirElement : Prop :=
  (∀ (s : State) (r op ty scope : Nat) (y : AtomLane), y.ask.addr % y.ask.n = 0 → s.checkScratch r true [y.ask] = .ok () →
    let g := s.gangAt r
    let old := leNat (g.spBytes y.ask.addr y.ask.n)
    ∃ l, s.atomics r op ty true ⟨0, 0, scope⟩ [y] = .ok l ∧
      l.vals = [(y.ask.lane, old, g.rangeLabel y.ask.addr y.ask.n)] ∧
      (∀ i, i < y.ask.n → rdByte (l.st.gangAt r).scratch (y.ask.addr + i) =
        (leBytes y.ask.n (atomNew op ty old y.data y.compare)).getD i 0) ∧
      (∀ p, y.ask.avoids p → rdByte (l.st.gangAt r).scratch p = rdByte g.scratch p) ∧
      l.st.mem = s.mem ∧ l.st.hostMem = s.hostMem ∧ l.st.streams = s.streams ∧ l.st.crews = s.crews) ∧
  ∀ (s : State) (r : Nat) (nw : Bool) (d : BitVec 6) (a imm : BitVec 7) (m : Bool) (x : Access) (sp : Bool),
    s.inHand r → s.haulOk r → s.atomField r imm.toNat [0, 1, 2, 3] = .ok (sp, x) →
    let act := (s.stream r).active m
    let addr : Want := { f := a.toNat, wide := !sp }
    let dst : Dst := { n := d.toNat, nw }
    s.readable r [addr] (some dst) →
    (act = 0 → ∃ t, exec (.claim nw d a imm m) s = .next t ∧ Wrote s t r [addr] dst act (fun _ => (0, 0)) ∧
      WentOn s t r ∧ OnlyStream s t r Stream.lessVec) ∧
    (∀ low rest, s.byVid r act = low :: rest → sp = true → x.order = 0 →
      let ask := spAsk 64 0 low (s.operand r addr low)
      let g := s.gangAt r
      let record := leNat (g.spBytes ask.addr 8)
      let next := bits record 31 0
      let limit := bits record 63 32
      let granted := if next < limit then min (rest.length + 1) (limit - next) else 0
      ask.addr % 8 = 0 → s.checkScratch r true [ask] = .ok () →
      ∃ t, exec (.claim nw d a imm m) s = .next t ∧
        Wrote s t r [addr] dst act (fun i =>
          (if rankOf (low :: rest) i < granted then (next + rankOf (low :: rest) i) % 2 ^ 32 else 0xFFFFFFFF, g.rangeLabel ask.addr 8)) ∧
        leNat ((t.gangAt r).spBytes ask.addr 8) = limit * 2 ^ 32 + (next + granted) % 2 ^ 32 ∧
        (∀ p, p < ask.addr ∨ ask.addr + 8 ≤ p → rdByte (t.gangAt r).scratch p = rdByte g.scratch p) ∧
        WentOn s t r ∧ t.mem = s.mem)

/-! Ordering, caches and stream ports. -/

/-- FENCE completes, unless a release at domain or system scope must wait, in which case the stream stalls: a release of
cluster scope or wider leaves the core's cluster signature clear, an acquire of such scope its incoming signature. PREF
always completes; CINV leaves none of its lines in the L1, CFLUSH none of them dirty there. None of them changes a
register. Model's choices: log entry 10. -/
def Obligations.FencesAndCacheMaintenance : Prop :=
  ∀ (s : State) (r : Nat) (scope : BitVec 4) (form : BitVec 2) (a : BitVec 7) (l2 m : Bool), s.inHand r → s.haulOk r →
    let core := s.coreNum r
    let act := (s.stream r).active m
    let same (t : State) : Prop := WentOn s t r ∧ (t.stream r).core = (s.stream r).core ∧ (∀ j, j ≠ r → t.stream j = s.stream j) ∧
      t.crews = s.crews ∧ t.gangs = s.gangs ∧ t.hostMem = s.hostMem
    let ws : List Want := [{ f := a.toNat, wide := true }]
    let asks := (lanesOf act).map fun i => laneAsk 8 0 i (s.operand r { f := a.toNat, wide := true } i)
    (scope.toNat < 9 → form ≠ 0 →
      ((form = 1 ∨ s.domainWait core scope.toNat = none) →
        ∃ t, exec (.fence scope form) s = .next t ∧ same t ∧
          (form ≠ 1 → 4 ≤ scope.toNat → (t.core core).outcl = 0) ∧ (form ≠ 2 → 4 ≤ scope.toNat → (t.core core).sigIn = 0)) ∧
      (∀ v, form ≠ 1 → s.domainWait core scope.toNat = some v → exec (.fence scope form) s = .next { v with stalled := true })) ∧
    (s.readable r ws none →
      (∃ t, exec (.pref a l2 m) s = .next t ∧ same t) ∧
      ∀ xs s', s.resolve r .read asks = .ok (xs, s') →
        (∃ t, exec (.cinv a l2 m) s = .next t ∧ same t ∧
          ∀ y ∈ s.localLines (xs.flatMap Prod.snd),
            Tab.find (2 * y.1) (t.core core).l1 = none ∧ Tab.find (2 * y.1 + 1) (t.core core).l1 = none) ∧
        ∃ t, exec (.cflush a l2 m) s = .next t ∧ same t ∧
          ∀ y ∈ s.localLines (xs.flatMap Prod.snd), ∀ sec ∈ [2 * y.1, 2 * y.1 + 1], ∀ z,
            Tab.find sec (t.core core).l1 = some z → z.dirty.any id = false)

/-- On a stream core, SPBIND binds a pattern register of its stream, or of the work stream of its dual-stream crew, from a
legal descriptor or, with z, unbinds it, and SPPOS reads a position; on a mesh core both are illegal with SUB 3, and so
is an operand that names a stream port there. SPBIND with its m bit set is illegal with SUB 0 on either kind of core.
Model's choices: log entries 11 (which of two defects is reported), 20 and 119. -/
def Obligations.StreamPortInstructions : Prop :=
  ∀ (s : State) (r : Nat) (port : BitVec 2) (a : BitVec 7) (hi wrk : Bool) (d : BitVec 6) (l : Loaded), s.inHand r → s.haulOk r →
    let u := s.stream r
    let who := if wrk then haulOf r + 1 else r
    exec (.spbind wrk port a true) s = .next (s.takeTrap r (s.illegalTrap r 0)) ∧
    let only (b t : State) : Prop := (∀ j, j ≠ who → j ≠ r → t.stream j = b.stream j) ∧ WentOn b t r ∧ t.crews = b.crews ∧
      (∀ j, { (t.stream j).core with ports := [] } = { (b.stream j).core with ports := [] }) ∧ t.mem = b.mem ∧ t.gangs = b.gangs
    (isStreamCore (s.coreNum r) = true → (wrk = true → (s.gangAt r).single = false) →
      (∃ t, exec (.spbind wrk port 72 false) s = .next t ∧ only s t ∧
        ∀ n, (t.stream who).port n = if n = port.toNat then { (s.stream who).port n with bound := false } else (s.stream who).port n) ∧
      (∀ x, a.toNat ≠ 72 → s.readable r [uniPair a] none →
        s.loadLanes r false 0 ((List.range 4).map fun i => laneAsk 64 i 0 (s.operand r (uniPair a) 0)) = .ok l →
        patternOf (l.vals.map fun v => w64 v.2.1) = some x →
        ∃ t, exec (.spbind wrk port a false) s = .next t ∧ only l.st t ∧
          ∀ n, (t.stream who).port n = if n = port.toNat then x else (l.st.stream who).port n) ∧
      (d.toNat < 32 →
        let pos := ((s.stream who).port port.toNat).pos.toNat
        ∃ t, exec (.sppos d hi wrk port) s = .next t ∧
          (∀ n, (t.stream r).creg n = if n = d.toNat then ⟨w32 (if hi then bits pos 47 32 else bits pos 31 0), 0⟩ else u.creg n) ∧
          WentOn s t r ∧ t.crews = s.crews ∧ OnlyStream s t r Stream.lessUni)) ∧
    (isStreamCore (s.coreNum r) = false →
      exec (.spbind wrk port a false) s = .next (s.takeTrap r (s.illegalTrap r 3)) ∧
      exec (.sppos d hi wrk port) s = .next (s.takeTrap r (s.illegalTrap r 3)) ∧
      (60 ≤ a.toNat → a.toNat < 64 → s.srcFault r { f := a.toNat } = some 3) ∧
      (60 ≤ d.toNat → s.dstFault r { n := d.toNat } = some 3))

/-! Copies and barriers. -/

/-- CPY and TCOPY of enabled lanes enter a command into the stream's copy queue, held where their guard slot is unset, and
count it in the open batch; with the slot false they complete with the command discarded, and of no lane they do
nothing. With Y the crew leaves its slot. Model's choices: log entries 29 and 120. -/
def Obligations.CopyCommandsIssue : Prop :=
  ∀ (s : State) (r : Nat) (y gv : Bool) (slot : BitVec 3) (a b : BitVec 7) (sub : BitVec 4), s.inHand r → s.haulOk r →
    let u := s.stream r
    let act := u.active false
    let g : Guard := if gv then u.guard slot.toNat else .on
    let less (v : Stream) : Stream := { v.core with copyQ := [], opn := 0, batchOut := [], done := 0 }
    let leaves (t : State) : Prop := WentOn s t r ∧ (y = true → ∃ n age, (t.crewAt r).place = .ready n age)
    let issues (i : Instr) (what : CopyWhat) : Prop :=
      ∃ t, exec i s = .next t ∧ leaves t ∧ (t.stream r).opn = u.opn + 1 ∧
        (g ≠ .off → OnlyCrew s t r less ∧ (t.stream r).done = u.done ∧
          (t.stream r).copyQ = u.copyQ ++ [{ what, guard := if g = .unset then some slot.toNat else none, batch := u.sealed + 1 }] ∧
          Tab.get 0 (t.stream r).batchOut (u.sealed + 1).toNat = Tab.get 0 u.batchOut (u.sealed + 1).toNat + 1) ∧
        (g = .off → (t.stream r).copyQ = u.copyQ)
    let wsC : List Want := [{ f := a.toNat, wide := !bitOf sub.toNat 2 }, { f := b.toNat, wide := !bitOf sub.toNat 3 }]
    let wsT : List Want := uniPair a :: (if bitOf sub.toNat 0 then [uni b] else [])
    u.opn ≠ 65535 → u.copyQ.length < 16 →
    (bits sub.toNat 1 0 ≠ 3 → s.readable r wsC none →
      (act = 0 → ∃ t, exec (.cpy y gv slot a b sub) s = .next t ∧ leaves t ∧ OnlyCrew s t r Stream.core) ∧
      (act ≠ 0 → issues (.cpy y gv slot a b sub)
        (.lanes (4 * 2 ^ bits sub.toNat 1 0) (bitOf sub.toNat 2) (bitOf sub.toNat 3) ((lanesOf act).map fun k =>
          ⟨k, s.vid r k, w64 (s.operand r (wsC.getD 0 { f := 0 }) k), w64 (s.operand r (wsC.getD 1 { f := 0 }) k)⟩)))) ∧
    (s.readable r wsT none →
      (act = 0 → ∃ t, exec (.tcopy y gv slot a b sub) s = .next t ∧ leaves t ∧ OnlyCrew s t r Stream.core) ∧
      (act ≠ 0 → canonical (s.operand r (uniPair a) 0) = true → s.operand r (uniPair a) 0 % 64 = 0 →
        issues (.tcopy y gv slot a b sub) (.box (w64 (s.operand r (uniPair a) 0))
          (if bitOf sub.toNat 0 then some (bits (s.operand r (uni b) 0) 31 4 * 16, bits sub.toNat 3 1) else none))))

/-- CSEAL closes the open copies into the next batch and returns its number, and stalls while 32 batches are unfinished.
CWAIT returns and clears COPYERR once its batch is complete, and otherwise leaves the slot to wait for it; CWAITN
returns so once at most k batches are unfinished, and otherwise stalls. -/
def Obligations.BatchesSealAndWait : Prop :=
  ∀ (s : State) (r : Nat) (d k : BitVec 6) (src : BitVec 7), s.inHand r → s.haulOk r → d.toNat < 32 →
    let u := s.stream r
    let unfinished := (u.sealed - u.done).toNat
    let returns (i : Instr) : Prop :=
      ∃ t, exec i s = .next t ∧ (∀ n, (t.stream r).creg n = if n = d.toNat then ⟨u.copyerr, 0⟩ else u.creg n) ∧
        (t.stream r).copyerr = 0 ∧ WentOn s t r ∧ t.gangs = s.gangs ∧ t.hostMem = s.hostMem ∧ (t.stream r).v = u.v
    (unfinished < 32 → ∃ t, exec (.cseal d) s = .next t ∧ (t.stream r).sealed = u.sealed + 1 ∧ (t.stream r).opn = 0 ∧
      (∀ n, (t.stream r).creg n = if n = d.toNat then ⟨w32 (u.sealed + 1).toNat, 0⟩ else u.creg n) ∧ WentOn s t r ∧
      t.crews = s.crews ∧ OnlyStream s t r (fun v => { v.lessUni with sealed := 0, opn := 0, done := 0, batchOut := [] })) ∧
    (32 ≤ unfinished → exec (.cseal d) s = .next { s with stalled := true }) ∧
    (s.readable r [uni src] none →
      let b : BitVec 16 := if src.toNat = 72 then u.sealed else BitVec.ofNat 16 (s.operand r (uni src) 0)
      (u.batchPending b = false → returns (.cwait d src)) ∧
      (u.batchPending b = true → u.heldFor (u.coversUpTo b) = none →
        ∃ t, exec (.cwait d src) s = .next t ∧ (t.stream r).wait = some (.cwait b) ∧ (t.stream r).pc = u.pc ∧
          (t.crewAt r).place = .waiting)) ∧
    (k.toNat ≤ 32 →
      (unfinished ≤ k.toNat → returns (.cwaitn d k)) ∧
      (k.toNat < unfinished →
        u.heldFor (fun b => decide (1 ≤ (b - u.done).toNat) && decide ((b - u.done).toNat ≤ unfinished - k.toNat)) = none →
        exec (.cwaitn d k) s = .next { s with stalled := true }))

/-- BARINIT sets a barrier of the gang's scratchpad to a count; BARARR takes its count from REMAINING, with an excess
setting OVERRUN and trapping with user cause 4; the phase moves on when nothing is due. Of no enabled lane they only go
on. -/
def Obligations.BarriersCountArrivals : Prop :=
  ∀ (s : State) (r : Nat) (d : BitVec 6) (a imm : BitVec 7) (m : Bool), s.inHand r → s.haulOk r →
    let act := (s.stream r).active m
    let low := (lanesOf act).headD 0
    let cnt : Want := { f := d.toNat }
    let ws : List Want := { f := a.toNat } :: (if imm = 0 then [cnt] else [])
    let off := bits (s.operand r { f := a.toNat } low) 31 4 * 16
    let n := if imm = 0 then bits (s.operand r cnt low) 15 0 else imm.toNat
    let b := (s.gangAt r).barrier off
    let changes (i : Instr) (b' : Barrier) : Prop :=
      ∃ t, exec i s = .next t ∧ (t.gangAt r).barrier off = b' ∧ Popped s t r ws ∧ WentOn s t r ∧ t.mem = s.mem ∧
        (t.stream r).core = (s.stream r).core ∧ (∀ j, j ≠ r → t.stream j = s.stream j) ∧
        (∀ p, p < off ∨ off + 16 ≤ p → rdByte (t.gangAt r).scratch p = rdByte (s.gangAt r).scratch p) ∧
        ∀ g, g ≠ gangOf r → t.gang g = s.gang g
    s.readable r ws none →
    (act = 0 → ∀ i ∈ [Instr.barinit d a imm m, .bararr d a imm m],
      ∃ t, exec i s = .next t ∧ t.crews = s.crews ∧ WentOn s t r ∧ OnlyStream s t r Stream.core) ∧
    (act ≠ 0 → (s.gangAt r).holdsBar off = true → s.moving r off 16 = false → n ≠ 0 →
      changes (.barinit d a imm m) ⟨0, false, 0, n, n, false⟩ ∧
      (b.good = true → n ≤ b.remaining → changes (.bararr d a imm m) ({ b with remaining := b.remaining - n } : Barrier).settle) ∧
      (b.good = true → b.remaining < n →
        let s' := s.updGang (gangOf r) fun g => g.putBarrier off { b with overrun := true }
        exec (.bararr d a imm m) s = .next (s'.takeTrap r { cause := 4, info := w64 off, mask := (s.stream r).em })))

/-- BARWAIT and BARTRY return the barrier's phase, with 16 added while it is still the phase they name, BARWAIT once the
phase is over or its bound has expired, leaving its slot to wait until then for the barrier it named at its issue, and
of no enabled lane they only go on; GBAR completes once the gang barrier has released it. Model's choices: log entry 30. -/
def Obligations.BarrierWaitsReturnThePhase : Prop :=
  ∀ (s : State) (r : Nat) (nw : Bool) (d : BitVec 6) (a imm : BitVec 7) (m : Bool), s.inHand r → s.haulOk r →
    let u := s.stream r
    let act := u.active m
    let low := (lanesOf act).headD 0
    let ws : List Want := [{ f := a.toNat }]
    let dst : Dst := { n := d.toNat, nw }
    let off := bits (s.operand r { f := a.toNat } low) 31 4 * 16
    let ph := bits (s.operand r { f := a.toNat } low) 3 0
    let b := (s.gangAt r).barrier off
    let val (off ph : Nat) (_ : Nat) : Nat × Label :=
      let b := (s.gangAt r).barrier off
      (b.phase + (if b.phase = ph then 16 else 0), Label.join ((s.gangAt r).lineLabel (off / 64)) (u.guardLabel m))
    let sound (off : Nat) : Prop := (s.gangAt r).holdsBar off = true ∧ s.moving r off 16 = false ∧
      ((s.gangAt r).barrier off).good = true ∧ (s.gangAt r).lineBad (off / 64) = .none
    let returns (off ph : Nat) : Prop :=
      ∃ t, exec (.barwait nw d a imm m) s = .next t ∧ WentOn s t r ∧ (t.gangAt r).scratch = (s.gangAt r).scratch ∧
        (∀ g, g ≠ gangOf r → t.gang g = s.gang g) ∧ (t.stream r).latches = List.replicate 8 {} ∧
        ∀ n, (t.stream r).vreg n = if n = d.toNat ∧ nw = false ∧ n < 56
          then (u.vreg n).merge act (fun k => halfLane (val off ph k) 0) else u.vreg n
    (s.readable r ws (some dst) →
      (act = 0 →
        (∃ t, exec (.bartry nw d a m) s = .next t ∧ t.crews = s.crews ∧ WentOn s t r ∧ OnlyStream s t r Stream.core) ∧
        (u.wait = none →
          ∃ t, exec (.barwait nw d a imm m) s = .next t ∧ (∀ n, (t.stream r).vreg n = u.vreg n) ∧ WentOn s t r)) ∧
      (act ≠ 0 → sound off →
        (∃ t, exec (.bartry nw d a m) s = .next t ∧ Wrote s t r ws dst act (val off ph) ∧ (t.stream r).gen = u.gen ∧
          WentOn s t r ∧ (t.gangAt r).scratch = (s.gangAt r).scratch ∧ ∀ g, g ≠ gangOf r → t.gang g = s.gang g) ∧
        (b.phase ≠ ph → u.wait = none → returns off ph) ∧
        (b.phase = ph → u.wait = none → ∃ t, exec (.barwait nw d a imm m) s = .next t ∧ (t.stream r).pc = u.pc ∧
          (t.stream r).wait = some (.barwait off ph (if imm = 0 then none else some (s.now + imm.toNat * 1024)) false) ∧
          (t.crewAt r).place = .waiting))) ∧
    (∀ off' ph' deadline expired, u.wait = some (.barwait off' ph' deadline expired) → s.readable r [] (some dst) →
      sound off' → (((s.gangAt r).barrier off').phase ≠ ph' ∨ expired = true) → returns off' ph') ∧
    (u.wait = some (.gbar true) → ∃ t, exec .gbar s = .next t ∧ WentOn s t r ∧ t.crews = s.crews ∧ OnlyStream s t r Stream.core) ∧
    (u.wait ≠ some (.gbar true) →
      exec .gbar s = .next (((s.updStream r fun t => { t with wait := some (.gbar false) }).switchOut r true).settleGang (gangOf r)))

/-! Several registers. -/

/-- The residue instructions complete, while the residue unit is in service, with the words of 09 R251 and R252 in each
enabled lane of their registers; while it is out of service they raise trap 0x21. -/
def Obligations.ResidueInstructionsCompute : Prop :=
  ∀ (s : State) (r : Nat) (i : Instr) (f : ResForm), s.inHand r → s.workOk r →
    let u := s.stream r
    resForm u (s.rnsmapOf r) i = some f → f.ok = true → f.d + f.n ≤ 56 → s.readable r f.srcs none → u.arrived f.d f.n →
    (rnsOff (s.rnsmapOf r) = false →
      ∃ t, exec i s = .next t ∧
        WroteRows s t r f.srcs f.d f.nw (u.active f.m) ((List.range f.n).map fun k => fun i =>
          ⟨w32 ((f.words (f.srcs.map fun w => s.operand r w i)).getD k 0), Label.join (s.operandsLabel r f.srcs i) (u.guardLabel f.m)⟩) ∧
        (t.stream r).gen = u.gen ∧ WentOn s t r ∧ OnlyStream s t r Stream.lessVec) ∧
    (rnsOff (s.rnsmapOf r) = true →
      exec i s = .next (s.takeTrap r { cause := 0x21, info := w64 (s.rnsmapOf r).toNat, mask := u.em }))

/-- FSPLIT3 writes the three terms of each enabled lane to three registers, in the half it names for a bf16 result. FQBLK
writes the quantised row to four registers, those of which it writes no lane left alone. Model's choices: log entry 25. -/
def Obligations.SplitAndBlockConversionsComplete : Prop :=
  ∀ (s : State) (r : Nat) (nw : Bool) (d : BitVec 6) (a : BitVec 7) (b : Bool), s.inHand r → s.workOk r →
    let u := s.stream r
    let src := modeTYPE u.mode0
    let dt := modeTYPE u.mode1
    let mask := u.active false
    let ws : List Want := { f := a.toNat, wide := src == 13 } :: (List.range 3).map fun k => { f := d.toNat + k }
    let term (k i : Nat) : Nat := (splitTerms dt (decodeFloat src false (s.operand r (ws.getD 0 { f := 0 }) i))).getD k 0
    let lab (i : Nat) : Label := Label.join (s.operandLabel r (ws.getD 0 { f := 0 }) i) (u.guardLabel false)
    let bf : Bool := src == 12 && dt == 11
    ((bf = true ∨ src = 13 ∧ dt = 12 ∧ b = false) → d.toNat + 2 < 56 → s.readable r ws none →
      ∃ t, exec (.fsplit3 nw d a b) s = .next t ∧
        WroteRows s t r ws d.toNat nw mask ((List.range 3).map fun k => fun i =>
          let old := (u.vreg (d.toNat + k)).lane i
          if bf then ⟨w32 (putSub 16 old.v.toNat b.toNat (term k i)), Label.join (lab i) old.l⟩ else ⟨w32 (term k i), lab i⟩) ∧
        (t.stream r).gen = u.gen ∧ WentOn s t r ∧ OnlyStream s t r Stream.lessVec) ∧
    (frozenType src = true → (isB4 dt = true ∧ modeBLK u.mode1 ≠ 1 ∨ isB8 dt = true ∧ b = false) →
      a.toNat + (if src = 12 then 12 else 6) ≤ 56 → d.toNat + 3 < 56 →
      u.arrived a.toNat (if src = 12 then 12 else 6) → u.arrived d.toNat 4 →
      let row := quantise u d.toNat a.toNat b.toNat
      ∃ t, exec (.fqblk nw d a b) s = .next t ∧
        (∀ n, (t.stream r).vreg n = if nw = false ∧ d.toNat ≤ n ∧ n < d.toNat + 4 ∧ row.masks.getD (n - d.toNat) 0 ≠ 0
          then row.regs.getD (n - d.toNat) [] else u.vreg n) ∧
        (∀ n i, nw = false → d.toNat ≤ n → n < d.toNat + 3 → inMask (row.masks.getD (n - d.toNat) 0) i = false →
          ((t.stream r).vreg n).lane i = (u.vreg n).lane i) ∧
        (modeRND u.mode1 ≠ 5 → (t.stream r).gen = u.gen) ∧
        (mask = 0 → (t.stream r).v = u.v ∧ (t.stream r).latches = u.latches) ∧
        WentOn s t r ∧ t.crews = s.crews ∧ OnlyStream s t r Stream.lessVec)

/-- The sort unit's order puts valid entries first, by key, then index, then thread, as a rearrangement in which invalid
entries are sentinels. VSORT writes the entries of the enabled lanes so ranked and the flags between neighbours, VMERGE
both lists merged, VTOPK the first entries of the old list and the new one, VSELTH the entries not below the threshold
of the lowest lane; the last two also write VCOUNT. -/
def Obligations.SortUnitCompletes : Prop :=
  (∀ (ty : Nat) (desc : Bool) (es : List SortEntry),
    (sortEntries ty desc es).Perm (es.map fun e => if e.valid then e else sentinel ty desc) ∧
      (sortEntries ty desc es).Pairwise fun e f => precedes ty desc f e = false) ∧
  ∀ (s : State) (r : Nat) (d : BitVec 6) (a b : BitVec 7) (x desc : Bool) (kf : BitVec 6) (m : Bool), s.inHand r → s.workOk r →
    let u := s.stream r
    let ty := modeTYPE (u.mode m)
    let act := u.active m
    let order := s.byVid r act
    let reg (k : Nat) : Want := { f := a.toNat + k, allow := .vec }
    let done (i : Instr) (ws : List Want) (mask : Word) (vc : Word) (rows : List (Nat → LV)) : Prop :=
      ∃ t, exec i s = .next t ∧ WroteRows s t r ws d.toNat false mask rows ∧ (t.stream r).vcount = vc ∧
        (t.stream r).gen = u.gen ∧ WentOn s t r ∧ OnlyStream s t r Stream.lessSort
    let two := [reg 0, reg 1]
    let four := two ++ [reg 2, reg 3]
    keyType ty = true →
    (a.toNat + 2 ≤ 56 → d.toNat + 3 ≤ 56 → s.readable r two none → u.arrived d.toNat 3 →
      let es := sortEntries ty desc (s.entries r order (reg 0) (reg 1))
      let l := s.sourcesLabel r m two order
      done (.vsort d a desc m) two act u.vcount
        [wordsAt (es.map (·.key)) l (laneRank order), wordsAt (es.map (·.idx)) l (laneRank order),
          wordsAt (sortFlags ty desc (es.map (·.key))) l (laneRank order)]) ∧
    (a.toNat + 4 ≤ 56 → d.toNat + 4 ≤ 56 → s.readable r four none → u.arrived d.toNat 4 →
      let all := sortEntries ty desc (s.entries r order (reg 0) (reg 1) ++ s.entries r order (reg 2) (reg 3))
      let kept := if x then dedup all else all
      let es := kept ++ List.replicate (2 * order.length - kept.length) (sentinel ty desc)
      let l := s.sourcesLabel r m four order
      let high (i : Nat) : Nat := order.length + laneRank order i
      done (.vmerge d a x desc m) four act u.vcount
        [wordsAt (es.map (·.key)) l (laneRank order), wordsAt (es.map (·.idx)) l (laneRank order),
          wordsAt (es.map (·.key)) l high, wordsAt (es.map (·.idx)) l high]) ∧
    (let n := kf.toNat + 1
     let k := (n + 31) / 32
     let old (j : Nat) : Want := { f := d.toNat + j, allow := .vec }
     let ws := two ++ (List.range (2 * k)).map old
     a.toNat + 2 ≤ 56 → d.toNat + 2 * k ≤ 56 → s.readable r ws none → u.arrived d.toNat (2 * k) →
      let was := (List.range n).map fun e =>
        (⟨s.operand r (old (e / 32)) (e % 32), s.operand r (old (k + e / 32)) (e % 32), 0⟩ : SortEntry)
      let all := sortEntries ty (!x) ((was ++ s.entries r order (reg 0) (reg 1)).filter (·.valid))
      let es := all.take (min n all.length) ++ List.replicate (32 * k - min n all.length) (sentinel ty (!x))
      let l := (List.range n).foldl (fun l e => Label.join (Label.join l (s.operandLabel r (old (e / 32)) (e % 32)))
        (s.operandLabel r (old (k + e / 32)) (e % 32))) (s.sourcesLabel r m two order)
      let row (f : SortEntry → Nat) (j : Nat) : Nat → LV := wordsAt (es.map f) l fun i => 32 * j + i
      done (.vtopk d a x kf m) ws (if act = 0 then 0 else 0xFFFFFFFF) (if act = 0 then u.vcount else w32 (min n all.length))
        ((List.range k).map (row (·.key)) ++ (List.range k).map (row (·.idx)))) ∧
    (let ws := two ++ [{ f := b.toNat }]
     a.toNat + 2 ≤ 56 → d.toNat + 2 ≤ 56 → s.readable r ws none → u.arrived d.toNat 2 →
      let low := (lanesOf act).headD 0
      let chosen := (s.entries r order (reg 0) (reg 1)).filter fun e =>
        e.valid && decide (keyRank ty (s.operand r { f := b.toNat } low) ≤ keyRank ty e.key)
      let es := chosen ++ List.replicate (32 - chosen.length) (sentinel ty true)
      let l := Label.join (s.sourcesLabel r m two order) (s.operandLabel r { f := b.toNat } low)
      done (.vselth d a b m) ws (if act = 0 then 0 else 0xFFFFFFFF) (if act = 0 then u.vcount else w32 chosen.length)
        [wordsAt (es.map (·.key)) l id, wordsAt (es.map (·.idx)) l id])

/-- WSEED returns the node's seed and keeps it for the crew, returns zero once it has waited its limit, and stalls before
that; in a node with no witness it raises trap 0x25. WPUT appends a header and the enabled lanes' words, each with its
own label, to the gang's buffer, or raises trap 0x26 where they do not fit. WHASH and WPROJ add each lane's value to its
accumulator with the crew's seed. -/
def Obligations.WitnessInstructionsComplete : Prop :=
  ∀ (s : State) (r : Nat) (nw : Bool) (d : BitVec 6) (a b : BitVec 7) (tag : BitVec 4) (m : Bool), s.inHand r →
    let u := s.stream r
    let ty := modeTYPE (u.mode m)
    let wide := typeWidth ty == 64
    let act := u.active m
    let seeded (base : State) (x : Nat) : Prop :=
      ∃ t, exec (.wseed d) s = .next t ∧
        (∀ n, (t.stream r).creg n = if n = d.toNat then ⟨w32 x, 0⟩ else if n = d.toNat + 1 then ⟨w32 (x / 2 ^ 32), 0⟩ else u.creg n) ∧
        WentOn base t r ∧ OnlyStream base t r Stream.lessUni
    (s.haulOk r → d.toNat < 32 → d.toNat % 2 = 0 →
      ((s.gangAt r).wkind = 0 → exec (.wseed d) s = .next (s.takeTrap r { cause := 0x25, info := 0, mask := u.em })) ∧
      ((s.gangAt r).wkind ≠ 0 →
        (∀ x, (s.node (s.nodeNum r)).seed = some x →
          seeded (s.updCrew (crewOf r) fun c => { c with seed := some x }) x.toNat) ∧
        ((s.node (s.nodeNum r)).seed = none →
          (∀ k, u.wait = some (.wseed k true) → seeded s 0) ∧
          (u.wait = none → ∃ t, exec (.wseed d) s = .next t ∧ t.stalled = true ∧
            (t.stream r).wait = some (.wseed (s.cyclesOf (clusterOf (s.coreNum r)) + 4096) false) ∧ (t.stream r).pc = u.pc)))) ∧
    (1 ≤ tag.toNat → tag.toNat ≤ 9 → s.readable r [{ f := a.toNat, wide }] none →
      let order := s.byVid r act
      let src : Want := { f := a.toNat, wide }
      let header := (wputHeader tag.toNat (!(s.gangAt r).single && isWork r) (s.vid r (order.headD 0)) order.length wide, (0 : Label))
      let half (k : Nat) : Want := { f := a.toNat + if a.toNat < 56 ∨ 80 ≤ a.toNat ∧ a.toNat < 112 then k else 0 }
      let words := order.flatMap fun i => (w32 (s.operand r src i), s.operandLabel r (half 0) i) ::
        (if wide then [(w32 (s.operand r src i / 2 ^ 32), s.operandLabel r (half 1) i)] else [])
      let after := s.updGang (gangOf r) fun g => { g with witness := g.witness ++ header :: words }
      (order = [] → ∃ t, exec (.wput a tag m) s = .next t ∧ Popped s t r [src] ∧ WentOn s t r ∧ OnlyStream s t r Stream.core) ∧
      (order ≠ [] → (s.gangAt r).witness.length + 1 + words.length ≤ 16384 →
        ∃ t, exec (.wput a tag m) s = .next t ∧ Popped s t r [src] ∧ WentOn s t r ∧ OnlyStream after t r Stream.core) ∧
      (order ≠ [] → 16384 < (s.gangAt r).witness.length + 1 + words.length →
        exec (.wput a tag m) s = .next (s.takeTrap r { cause := 0x26, info := 0, mask := u.em }))) ∧
    (s.workOk r → d.toNat < 56 → ∀ seed, (s.crewAt r).seed = some seed →
      let acc (i : Instr) (w : Bool) (ws : List Want) (f : Nat → Nat) : Prop :=
        s.readable r ws (some { n := d.toNat, wide := w, nw }) →
          ∃ t, exec i s = .next t ∧
            Wrote s t r ws { n := d.toNat, wide := w, nw } act (fun k => (f k, Label.join (s.operandsLabel r ws k) (u.guardLabel m))) ∧
            (t.stream r).gen = u.gen ∧ WentOn s t r ∧ OnlyStream s t r Stream.lessVec
      let x : Want := { f := a.toNat, wide }
      let old (w : Bool) : Want := { f := d.toNat, wide := w }
      (32 ≤ typeWidth ty → acc (.whash nw d a m) true [x, old true] fun k =>
        whash seed.toNat (s.operand r (old true) k) (s.operand r x k)) ∧
      (projType ty = true → acc (.wproj nw d a b m) wide [x, { f := b.toNat }, old wide] fun k =>
        wproj ty seed.toNat (s.operand r (old wide) k) (s.operand r x k) (s.operand r { f := b.toNat } k)))

/-! The matrix engine's instructions. -/

/-- WLOAD, QMMA, QMMAR, ACCZ, ACCLD, ACCST and WFREE of enabled lanes enter a command into the stream's matrix queue, held
where their guard slot is unset, with its tiles outstanding; with the slot false they complete with the command
discarded, and of no lane they do nothing. With Y the crew leaves its slot. -/
def Obligations.MatrixCommandsIssue : Prop :=
  ∀ (s : State) (r : Nat) (y gv z sp res : Bool) (slot : BitVec 3) (a : BitVec 7) (wsl : BitVec 6) (tile : BitVec 4),
    s.inHand r → s.haulOk r →
    let u := s.stream r
    let act := u.active false
    let g : Guard := if gv then u.guard slot.toNat else .on
    let less (v : Stream) : Stream := { v.core with mxQ := [], mxOut := [], mxSeq := 0 }
    let addr : Want := { f := a.toNat, wide := !sp, allow := .uni }
    let at_ := s.operand r addr 0
    let names (res : Bool) : List Nat := if res then (List.range 5).map (tile.toNat + ·) else [tile.toNat]
    let tilesOk (res : Bool) : Prop := ∀ n ∈ names res, s.gangTile r n < (s.gangAt r).tiles
    let fits (n : Nat) : Prop := if sp then at_ % 16 = 0 ∧ at_ + n ≤ (s.gangAt r).spSize else canonical at_ = true ∧ at_ % 64 = 0
    let command (op : MxOp) (tile slot : Nat) (z res sp : Bool) (addr : Nat) (rows : List (Nat × Nat)) : MxCmd :=
      { op, guard := none, tile, slot, z, r := res, sp, addr := w64 addr, mode0 := u.mode0, mode1 := u.mode1, rows, seq := 0 }
    let issues (i : Instr) (y : Bool) (names : List Nat) (cmd : MxCmd) (ok : Prop) : Prop :=
      (act = 0 → ∃ t, exec i s = .next t ∧ WentOn s t r ∧ (y = true → ∃ n age, (t.crewAt r).place = .ready n age) ∧
        OnlyCrew s t r Stream.core) ∧
      (act ≠ 0 → ok → u.mxQ.length < 16 →
        ∃ t, exec i s = .next t ∧ WentOn s t r ∧ (y = true → ∃ n age, (t.crewAt r).place = .ready n age) ∧
          OnlyCrew s t r less ∧ (t.stream r).mxSeq = u.mxSeq + 1 ∧
          (g ≠ .off → (t.stream r).mxOut = u.mxOut ++ [(u.mxSeq, names)] ∧
            (t.stream r).mxQ = u.mxQ ++
              [{ cmd with guard := if g = .unset then some slot.toNat else none, seq := u.mxSeq, acq := (s.crewAt r).syncAt }]) ∧
          (g = .off → (t.stream r).mxOut = u.mxOut ∧ (t.stream r).mxQ = u.mxQ))
    let blocksOk (mode : Word) : Prop := ¬(isB4 (modeTYPE mode) = true ∧ modeBLK mode = 1)
    (s.readable r [addr] none →
      (weightType (modeTYPE u.mode1) = true → blocksOk u.mode1 →
        issues (.wload y gv slot a sp wsl) y [] (command .wload 0 wsl.toNat false false sp at_ []) (fits 12800)) ∧
      ((res = true → tile.toNat ≤ 11) →
        issues (.accld gv slot a res sp tile) false (names res) (command .accld tile.toNat 0 false res sp at_ [])
          (tilesOk res ∧ (res = true → rnsOff (s.rnsmapOf r) = false) ∧ fits (4096 * (names res).length)) ∧
        issues (.accst gv slot a res sp tile) false (names res) (command .accst tile.toNat 0 false res sp at_ [])
          (tilesOk res ∧ (res = true → rnsOff (s.rnsmapOf r) = false) ∧ fits (4096 * (names res).length)))) ∧
    ((res = true → tile.toNat ≤ 11) →
      issues (.accz gv slot res tile) false (names res) (command .accz tile.toNat 0 false res false 0 [])
        (tilesOk res ∧ (res = true → rnsOff (s.rnsmapOf r) = false))) ∧
    issues (.wfree gv slot wsl) false [] (command .wfree 0 wsl.toNat false false false 0 []) True ∧
    (s.readable r [{ f := a.toNat }] none → popsOf [{ f := a.toNat }] = [] →
      let rows := (lanesOf act).map fun i => (i, s.operand r { f := a.toNat } i % 2 ^ 32)
      let inside : Prop := ∀ x ∈ rows, x.2 % 16 = 0 ∧ x.2 + 400 ≤ (s.gangAt r).spSize
      (rowType (modeTYPE u.mode0) = true → blocksOk u.mode0 →
        issues (.qmma y gv slot a z wsl tile) y (names false) (command .qmma tile.toNat wsl.toNat z false true 0 rows)
          (tilesOk false ∧ inside)) ∧
      (isInt (modeTYPE u.mode0) = true → typeWidth (modeTYPE u.mode0) = 8 → tile.toNat ≤ 11 →
        issues (.qmmar y gv slot a z wsl tile) y (names true) (command .qmmar tile.toNat wsl.toNat z true true 0 rows)
          (tilesOk true ∧ rnsOff (s.rnsmapOf r) = false ∧ inside)))

/-- TWAIT returns and clears MXERR once no command of its tiles is outstanding, and stalls before that, unless a command
held by an unset guard is among them, which raises trap 0x23; a name beyond the gang's tiles raises trap 0x20; ACCRD
reads words of a tile, or of five, into registers. Model's choices: log entry 31. -/
def Obligations.TilesAreAwaitedAndRead : Prop :=
  ∀ (s : State) (r : Nat) (nw all res : Bool) (d : BitVec 6) (tile : BitVec 4) (b : BitVec 7) (m : Bool), s.inHand r →
    let u := s.stream r
    let names : List Nat := if res then (List.range 5).map (tile.toNat + ·) else [tile.toNat]
    let due := u.mxOut.filter fun x => all || x.2.any names.contains
    (s.haulOk r → d.toNat < 32 → (all = true → res = false ∧ tile = 0) →
      (∀ n, all = false → names.find? (fun n => decide ((s.gangAt r).tiles ≤ s.gangTile r n)) = some n →
        exec (.twait d all res tile) s = .next (s.takeTrap r { cause := 0x20, info := w64 n, mask := u.em })) ∧
      ((all = false → ∀ n ∈ names, s.gangTile r n < (s.gangAt r).tiles) →
      (due = [] → ∃ t, exec (.twait d all res tile) s = .next t ∧
        (∀ n, (t.stream r).creg n = if n = d.toNat then ⟨u.mxerr, 0⟩ else u.creg n) ∧ (t.stream r).mxerr = 0 ∧
        (t.core (s.coreNum r)).sigIn = 0 ∧ WentOn s t r ∧ t.crews = s.crews ∧ t.gangs = s.gangs ∧ t.hostMem = s.hostMem) ∧
      (due ≠ [] → u.heldMx (fun k => due.any fun x => x.1 == k) = none →
        exec (.twait d all res tile) s = .next { s with stalled := true }) ∧
      (∀ k, due ≠ [] → u.heldMx (fun k => due.any fun x => x.1 == k) = some k →
        exec (.twait d all res tile) s = .next (s.takeTrap r { cause := 0x23, info := w64 k, mask := u.em })))) ∧
    (s.workOk r → modeTYPE (u.mode m) ∈ [3, 8, 12] → d.toNat + names.length ≤ 56 → (res = true → tile.toNat ≤ 11) →
      let act := u.active m
      let src : Want := { f := b.toNat }
      let word (i : Nat) : Nat := (s.operand r src i % 1024 + i) % 1024
      let t (n : Nat) : Tile := (s.gangAt r).tile (s.gangTile r n)
      s.readable r [src] none → u.arrived d.toNat names.length → (∀ n ∈ names, s.gangTile r n < (s.gangAt r).tiles) →
      (∀ n ∈ names, ∀ i ∈ lanesOf act, (t n).poison.contains (word i / 32) = false) →
      ∃ v, exec (.accrd nw d res tile b m) s = .next v ∧
        WroteRows s v r [src] d.toNat nw act (names.map fun n => fun i =>
          ⟨w32 ((t n).word (word i)), Label.join (Label.join (t n).label (s.operandLabel r src i)) (u.guardLabel m)⟩) ∧
        (v.stream r).gen = u.gen ∧ WentOn s v r ∧ OnlyStream s v r Stream.lessVec)

/-! Nodes, staged pages and collectives. -/

/-- TRIG marks the gang triggered, WAITD goes on once every gang it depends on has triggered or completed and waits before
that, and LAUNCH offers a descriptor to the node queue, traps with 0x27 where it is refused, and stalls while there is
no room. SOPEN returns the version of a staged page that its node opened and filled; it opens a new version, to be
filled, of a page that no node has open, and returns that version once it is filled; SSEAL takes one of the places of
the seal count, waits for the engines and then returns the version it sealed. A page that may not be opened or sealed
raises trap 0x24. Model's choices: log entries 45 and 47. -/
def Obligations.NodeInstructionsComplete : Prop :=
  ∀ (s : State) (r : Nat) (d : BitVec 6) (a : BitVec 7) (keep m : Bool), s.inHand r → s.haulOk r →
    let u := s.stream r
    let g := s.gangAt r
    let trapped (i : Instr) (cause info : Nat) : Prop :=
      exec i s = .next (s.takeTrap r { cause, info := w64 info, mask := u.em })
    let idle (i : Instr) : Prop := ∃ t, exec i s = .next t ∧ WentOn s t r ∧ t.crews = s.crews ∧ OnlyStream s t r Stream.core
    let marked := ((s.release g.core 6).updGang (gangOf r) fun g => { g with triggered := true }).updNode g.node fun n =>
      { n with trigGangs := if n.trigGangs.contains g.gangid then n.trigGangs else n.trigGangs ++ [g.gangid] }
    (∃ t, exec .trig s = .next t ∧ (t.gangAt r).triggered = true ∧ (t.node g.node).trigGangs.contains g.gangid = true ∧
      WentOn s t r ∧ OnlyStream marked t r Stream.core) ∧
    (s.waitdHolds (gangOf r) = true →
      ∃ t, exec .waitd s = .next t ∧ WentOn s t r ∧ t.gangs = s.gangs ∧ t.hostMem = s.hostMem ∧ (t.stream r).v = u.v ∧
        (t.stream r).c = u.c) ∧
    (s.waitdHolds (gangOf r) = false →
      ∃ t, exec .waitd s = .next t ∧ (t.stream r).wait = some .waitd ∧ (t.stream r).pc = u.pc ∧ (t.crewAt r).place = .waiting) ∧
    (s.readable r [uniPair a] none →
      let addr := s.operand r (uniPair a) 0
      (u.active m = 0 → idle (.launch a m) ∧ (d.toNat < 32 → idle (.sopen d a keep m) ∧ idle (.sseal d a m))) ∧
      (u.active m ≠ 0 → canonical addr = true → addr % 64 = 0 →
        let offered := (s.release g.core 6).offer g.part { addr := w64 addr, origin := .launch } (some g.rcbptr)
        (∀ n v, offered = .accepted n v → ∃ t, exec (.launch a m) s = .next t ∧ WentOn v t r ∧ OnlyStream v t r Stream.core) ∧
        (∀ e v, offered = .rejected e v → trapped (.launch a m) 0x27 addr) ∧
        (∀ v, offered = .waits v → exec (.launch a m) s = .next { s with stalled := true })) ∧
      (u.active m ≠ 0 → d.toNat < 32 → ∀ i pair key v, s.stagedPage r addr = .ok ((i, pair, key), v) →
        let ver := (v.pair key).version
        let own : Prop := (v.ver key ver).node = some (v.node (v.nodeNum r)).uid
        let fresh_ : Prop := ∀ k w, u.wait ≠ some (.sopen k w true)
        let unsealed : Prop := ∀ k w, u.wait ≠ some (.sseal k w true)
        let waits (i : Instr) (w : Wait) : Prop :=
          ∃ t, exec i s = .next t ∧ (t.stream r).wait = some w ∧ (t.stream r).pc = (v.stream r).pc ∧ t.mem = v.mem
        (fresh_ → v.pageSt key = .opened → own → (v.pair key).filling = false →
          ∃ t, exec (.sopen d a keep m) s = .next t ∧ (t.gangAt r).opened.contains key = true ∧
            (∀ n, (t.stream r).creg n = if n = d.toNat then ⟨w32 ver, 0⟩ else (v.stream r).creg n) ∧ WentOn v t r) ∧
        (fresh_ → v.pageSt key = .opened → own → (v.pair key).filling = true → waits (.sopen d a keep m) (.sopen key ver false)) ∧
        (fresh_ → v.pageSt key = .opened → ¬own → trapped (.sopen d a keep m) 0x24 addr) ∧
        (fresh_ → v.pageSt key ≠ .opened → ver = 2 ^ 32 - 1 → trapped (.sopen d a keep m) 0x24 addr) ∧
        (fresh_ → v.pageSt key ≠ .opened → ver < 2 ^ 32 - 1 → (key = pair ∨ (Tab.find key v.pairs).isSome = true) →
          ∃ t, exec (.sopen d a keep m) s = .next t ∧ (t.stream r).wait = some (.sopen key (ver + 1) false) ∧
            (t.pair key).version = ver + 1 ∧ (t.pair key).filling = true) ∧
        (unsealed → (v.gangAt r).placeOf key = none → v.sealable r key = true →
          waits (.sseal d a m) (.sseal key ver false) ∧
          ∃ t, exec (.sseal d a m) s = .next t ∧ (t.pair key).places = (v.pair key).places + 1) ∧
        (unsealed → (v.gangAt r).placeOf key = none → v.sealable r key = false → trapped (.sseal d a m) 0x24 addr) ∧
        (∀ k w, unsealed → (v.gangAt r).placeOf key = some (k, w) →
          (k = r % 32 → waits (.sseal d a m) (.sseal key w false)) ∧ (k ≠ r % 32 → trapped (.sseal d a m) 0x24 addr))) ∧
      (u.active m ≠ 0 → d.toNat < 32 → ∀ key w,
        let returned (t : State) : Prop := WentOn s t r ∧ t.crews = s.crews ∧
          ∀ n, (t.stream r).creg n = if n = d.toNat then ⟨w32 w, 0⟩ else u.creg n
        (u.wait = some (.sopen key w true) → ∃ t, exec (.sopen d a keep m) s = .next t ∧ returned t) ∧
        (u.wait = some (.sseal key w true) →
          ∃ t, exec (.sseal d a m) s = .next t ∧ returned t ∧ OnlyStream s t r Stream.lessUni)))

/-- COLL of enabled lanes takes the stream's next collective number and enters a collective, held where its guard slot is
unset, stalling while eight are outstanding; with the slot false it only takes the number. COLLW returns and clears the
status once its collective is complete, and stalls before that. Model's choices: log entry 48. -/
def Obligations.CollectivesAreEnteredAndAwaited : Prop :=
  ∀ (s : State) (r : Nat) (gv : Bool) (slot : BitVec 3) (d : BitVec 6) (a : BitVec 7) (op : BitVec 4), s.inHand r → s.haulOk r →
    let u := s.stream r
    let g : Guard := if gv then u.guard slot.toNat else .on
    let addr := s.operand r (uniPair a) 0
    (op.toNat < 6 → s.readable r [uniPair a] none →
      (u.active false = 0 → ∃ t, exec (.coll gv slot a op) s = .next t ∧ WentOn s t r ∧ OnlyStream s t r Stream.core) ∧
      (u.active false ≠ 0 → canonical addr = true → addr % 64 = 0 →
        (8 ≤ u.collsOut.length → exec (.coll gv slot a op) s = .next { s with stalled := true }) ∧
        (u.collsOut.length < 8 → s.domainWait (s.coreNum r) 7 = none →
          let after := s.release (s.coreNum r) 7
          ∃ t, exec (.coll gv slot a op) s = .next t ∧ WentOn s t r ∧ (t.stream r).collNum = u.collNum + 1 ∧ t.mem = after.mem ∧
            (g = .off → t.colls = s.colls ∧ (t.stream r).collsOut = u.collsOut) ∧
            (g ≠ .off → (t.stream r).collsOut = u.collsOut ++ [(u.collNum + 1).toNat] ∧
              t.colls = s.colls ++ [{ id := after.fresh, stream := r, num := (u.collNum + 1).toNat, op := op.toNat, descAddr := w64 addr,
                                      guard := if g = .unset then some slot.toNat else none, err := 0 }])))) ∧
    (d.toNat < 32 → s.readable r [uni a] none →
      let n : BitVec 16 := BitVec.ofNat 16 (s.operand r (uni a) 0)
      let pending : Bool := if a.toNat = 72 then !u.collsOut.isEmpty else u.collPending n
      (pending = true → exec (.collw d a) s = .next { s with stalled := true }) ∧
      (pending = false → ∃ t, exec (.collw d a) s = .next t ∧ WentOn s t r ∧ (t.stream r).collStat = 0 ∧
        (∀ n, (t.stream r).creg n = if n = d.toNat then ⟨u.collStat, 0⟩ else u.creg n) ∧ t.gangs = s.gangs ∧ t.hostMem = s.hostMem))

/-! Events of the device. -/

/-- What a stream waits for happens: a word is fetched ahead, a page it waits for enters a frame, a load's data fill its
registers and queue entry, a free slot goes to the next ready crew, a bounded wait expires, a handler past its limit
ends its node, an old dirty sector is cleaned, idle lanes are gated and a waiting stream's bank is drowsy. Model's
choices: log entries 3, 7, 9 and 80. -/
def Obligations.StreamEventsHappen : Prop :=
  ∀ s : State,
    let e := s.ev
    let r := e.n0
    let u := s.stream r
    (∀ w v, s.canIssue r = true → u.owed = none → ({ s with cur := some r } : State).fetch r = .word w v →
      ∃ t, exec .codeFetch s = .next t ∧ Tab.find u.pc.toNat (t.stream r).fetched = some w ∧ (t.stream r).pc = u.pc ∧
        t.mem = s.mem ∧ t.gangs = s.gangs) ∧
    (∀ page, (s.gangAt r).live = true → (s.gangAt r).parked = false → (s.crewAt r).stopped = false → u.ended = false →
      u.wait = some (.refill page) →
      (∀ pa at_ size v a, s.pagePlace r (s.inSup r) page = (.ok (pa, at_, size), v) → v.window pa = .mem a →
        v.blockMark a 4096 = none →
        ∃ t, exec .codePageRefill s = .next t ∧ (t.stream r).wait = none ∧ (t.stream r).pc = u.pc ∧
          ∃ f ∈ (t.core (s.coreNum r)).frames, f.page = page ∧ f.part = s.partNum r ∧ f.sup = s.inSup r) ∧
      (∀ x v, s.pagePlace r (s.inSup r) page = (.error x, v) →
        exec .codePageRefill s = .next ((s.updStream r fun t => { t with wait := none }).takeTrap r { x with word := some (s.spcWord r) }))) ∧
    (∀ p, u.loads.find? (fun p => p.id == e.n1) = some p → (p.dst.map Prod.fst).Nodup →
      ∃ t, exec .loadDataArrival s = .next t ∧ (∀ d ∈ p.dst, (t.stream r).vreg d.1 = d.2) ∧
        (∀ n, (∀ d ∈ p.dst, d.1 ≠ n) → (t.stream r).vreg n = u.vreg n) ∧ (t.stream r).loads = u.loads.filter (·.id != p.id) ∧
        (t.stream r).pc = u.pc ∧ (∀ j, j ≠ r → t.stream j = s.stream j) ∧ t.mem = s.mem ∧ t.gangs = s.gangs ∧
        ∀ q, p.queue = some q → Tab.get [] (t.crewAt r).loadQ q = (Tab.get [] (s.crewAt r).loadQ q).map fun x =>
          if x.awaits = some p.id then { x with awaits := none } else x) ∧
    (u.intrap = true → (s.gangAt r).req ≠ .none → (s.gangAt r).live = true →
      u.trapAt + (s.part (s.partNum r)).htime.toNat * 1000 ≤ s.now →
      exec .handlerTimeLimit s = .next (s.supervisorFault r 0x7FFE)) ∧
    (∀ k, e.n1 < 4 → s.slotFree e.n0 e.n1 = true → s.nextCrew e.n0 = some k →
      ∃ t, exec .slotGrant s = .next t ∧ (t.crew k).place = .slot e.n1 ∧ (∀ j, j ≠ k → t.crew j = s.crew j) ∧
        t.streams = s.streams ∧ t.gangs = s.gangs ∧ t.mem = s.mem) ∧
    (∀ off p dl, u.wait = some (.barwait off p (some dl) false) → dl ≤ s.now →
      exec .barwaitTimeout s = .next (s.updStream r fun t => { t with wait := some (.barwait off p (some dl) true) })) ∧
    (∀ n, u.wait = some (.wseed n false) → n ≤ s.cyclesOf (clusterOf (s.coreNum r)) →
      exec .wseedTimeout s = .next (s.updStream r fun t => { t with wait := some (.wseed n true) })) ∧
    (∀ x, Tab.find e.n1 (s.core e.n0).l1 = some x → x.dirty.any id = true → x.since + 65536 ≤ s.cyclesOf (clusterOf e.n0) →
      ∃ t, exec .l1BackgroundClean s = .next t ∧ t.streams = s.streams ∧ t.crews = s.crews ∧ t.gangs = s.gangs ∧
        ∀ z, Tab.find e.n1 (t.core e.n0).l1 = some z → z.dirty.any id = false) ∧
    (e.n0 < 256 → e.n1 < 4 → e.n2 < 4 → (s.core e.n0).gated.contains (4 * e.n1 + e.n2) = false →
      Tab.get 0 (s.core e.n0).laneUse (4 * e.n1 + e.n2) + 512 ≤ s.cyclesOf (clusterOf e.n0) →
      exec .laneGroupGate s = .next (s.setCore e.n0 { s.core e.n0 with gated := (s.core e.n0).gated ++ [4 * e.n1 + e.n2] })) ∧
    (∀ c, (Tab.find r s.streams).isSome = true → u.dataWait = some c → u.drowsy = false →
      c + 64 < s.cyclesOf (clusterOf (s.coreNum r)) → exec .bankDrowsy s = .next (s.setStream r { u with drowsy := true }))

/-- BRG leaves its crew waiting at its gang's meeting. BRG_MEETING divides the gang, the path that falls through first, or
the taken path where no thread falls through; at sixteen entries every crew traps instead. BRG_PATH_END starts the next
path or restores the packing. GANG_COMPLETE hands a gang's completion to its node, once no write to another package is
due, WITNESS_HANDOFF completes a node, GANG_PLACE places again a gang that a retirement displaced, or the next gang of
the first instance in order, PLACEMENT_RESERVATION reserves for it once it has waited, PARK_COMPLETE parks a drained
gang, SHED_PREEMPT pre-empts one that has not stopped, SCRATCHPAD_ADAPT begins an interval anew and GRANULE_MOVE_DONE
ends a move. Model's choices: log entries 9, 41, 53, 55, 56, 57, 68, 115 and 123. -/
def Obligations.GangEventsHappen : Prop :=
  (∀ (s : State) (r : Nat) (pred : BitVec 3) (sense : Bool) (target reconv : BitVec 9), s.inHand r →
    ((s.gangAt r).single = false → exec (.brg pred sense target reconv) s = .next (s.takeTrap r (s.illegalTrap r 1))) ∧
    ((s.gangAt r).single = true → ¬(pred = 7 ∧ sense = true) → reconv ≠ 0 → isWork r = false → (s.stream r).ended = false →
      crewNum r ∈ s.countingCrews (gangOf r) →
      (∀ c ∈ s.countingCrews (gangOf r), 32 * gangOf r + 2 * c ≠ r →
        (s.stream (32 * gangOf r + 2 * c)).wait ≠ some (.gbar false) ∧
          ((s.stream (32 * gangOf r + 2 * c)).atBrg = true → (s.stream (32 * gangOf r + 2 * c)).pc = (s.stream r).pc)) →
      ∃ t, exec (.brg pred sense target reconv) s = .next t ∧ (t.stream r).pc = (s.stream r).pc ∧
        (t.stream r).wait = some (.brg pred.toNat sense (targetOf (s.stream r).pc 9 target.toNat)
          (targetOf (s.stream r).pc 9 reconv.toNat)) ∧
        (t.crewAt r).place = .waiting ∧ OnlyCrew s t r Stream.core)) ∧
  ∀ s : State,
    let e := s.ev
    let g := e.n0
    let x := s.gang g
    (∀ c cs pred sense taken rejoin, s.countingCrews g = c :: cs → x.live = true →
      (s.stream (32 * g + 2 * c)).wait = some (.brg pred sense taken rejoin) →
      (∀ k ∈ c :: cs, (s.stream (32 * g + 2 * k)).atBrg = true ∧ (s.stream (32 * g + 2 * k)).pc = (s.stream (32 * g + 2 * c)).pc ∧
        (s.crew (16 * g + k)).stopped = false ∧ (s.stream (32 * g + 2 * k)).loads = []) →
      let cond (k : Nat) : Word := let p := ((s.stream (32 * g + 2 * k)).preg pred).v; if sense then ~~~p else p
      let path (b : Bool) : List Nat := (c :: cs).flatMap fun k => s.joining g k (cond k) b
      let starts (pc : BitVec 24) : Prop :=
        ∃ t entry, exec .brgMeeting s = .next t ∧ (t.gang g).stack = entry :: x.stack ∧ entry.addr = rejoin ∧ entry.crews = c :: cs ∧
          entry.remap = x.remap ∧ ∀ k ∈ entry.running, (t.stream (32 * g + 2 * k)).pc = pc
      (16 ≤ x.stack.length → exec .brgMeeting s = .next (s.stackOverflow g (c :: cs))) ∧
      (x.stack.length < 16 → path false ≠ [] → starts ((s.stream (32 * g + 2 * c)).pc + 4)) ∧
      (x.stack.length < 16 → path false = [] → path true ≠ [] → starts taken)) ∧
    (∀ entry rest, x.stack = entry :: rest → x.live = true →
      (∀ c ∈ entry.running, (s.crew (16 * g + c)).ended = true ∨ (s.stream (32 * g + 2 * c)).wait = some .reconv ∧
        (s.crew (16 * g + c)).stopped = false ∧ (s.stream (32 * g + 2 * c)).loads = []) →
      (∀ p more, entry.pending = p :: more →
        ∃ t next, exec .brgPathEnd s = .next t ∧ (t.gang g).stack = next :: rest ∧ next.addr = entry.addr ∧ next.pending = more ∧
          ∀ c ∈ next.running, (t.stream (32 * g + 2 * c)).pc = p.addr) ∧
      (entry.pending = [] → exec .brgPathEnd s = .next (s.restorePacking g (s.collectPath g entry) rest))) ∧
    (Tab.find g s.gangs = some x → (∀ k ∈ crewsOf g x, (s.crew k).ended = true) → s.gangDrained g = true → x.live = true →
      x.halted = false →
      (∀ v, s.writesDue x = some v → exec .gangComplete s = .next v) ∧
      (s.writesDue x = none → (s.node x.node).doneGangs.length + 1 < (s.node x.node).desc.gangs →
        ∃ t, exec .gangComplete s = .next t ∧ (t.node x.node).doneGangs = (s.node x.node).doneGangs ++ [x.gangid] ∧
          Tab.find g t.gangs = none ∧ t.hostMem = s.hostMem) ∧
      (s.writesDue x = none → (s.node x.node).desc.gangs ≤ (s.node x.node).doneGangs.length + 1 → (s.node x.node).desc.wkind ≠ 0 →
        ∃ t, exec .gangComplete s = .next t ∧ (t.node x.node).st = .handoff ∧ Tab.find g t.gangs = none)) ∧
    (∀ n, Tab.find e.n0 s.nodes = some n → n.st = .handoff → exec .witnessHandoff s = .next (s.completeNode e.n0)) ∧
    ((s.core e.n0).interval + 65536 ≤ s.cyclesOf (clusterOf e.n0) → (s.core e.n0).move = none →
      ∃ t, exec .scratchpadAdapt s = .next t ∧ (t.core e.n0).interval = s.cyclesOf (clusterOf e.n0) ∧ t.streams = s.streams ∧
        ∀ k, (t.gang k).scratch = (s.gang k).scratch) ∧
    (∀ m, (s.core e.n0).move = some m →
      ∃ t, exec .granuleMoveDone s = .next t ∧ (t.gang m.gang).spcur = m.spcur ∧ (t.core e.n0).move = none ∧
        (t.core e.n0).l1gran = (s.core e.n0).l1gran + (if m.spcur < (s.gang m.gang).spcur then 1 else 0) ∧
        t.mem = s.mem ∧ ∀ k, (t.gang k).scratch = (s.gang k).scratch) ∧
    (x.live = true → x.parked = false → x.req ≠ .none → x.parkHold = true →
      (∀ k ∈ crewsOf g x, (s.crew k).stopped = true ∨ (s.crew k).ended = true) → s.parkBusy g = false →
      ∃ t, exec .parkComplete s = .next t ∧ (t.gang g).parked = true ∧ (t.gang g).req = .none ∧
        (∀ k ∈ crewsOf g x, (t.crew k).place = .parked) ∧ (∀ r ∈ streamsOf g x, (t.stream r).pc = (s.stream r).pc) ∧ t.hostMem = s.hostMem) ∧
    (∀ k core, s.toMove e.n0 = some (k, core) → exec .gangPlace s = .next (s.moveGang k core)) ∧
    (∀ n rest, s.toMove e.n0 = none → s.placeOrder e.n0 = n :: rest →
      let v := s.noteStuck (n :: rest)
      (∀ c cs, v.energySpent (partOfNode n) (v.node n) = false → (v.node n).desc.cores = false →
        v.preferred n (v.openCores n) = c :: cs → v.asleep [c] = [] → exec .gangPlace s = .next (v.placeGang n c)) ∧
      (v.energySpent (partOfNode n) (v.node n) = true → (v.node n).held = 0 →
        exec .gangPlace s = .next ((v.endInstance n 0x8004).settleReady))) ∧
    (∀ n rest at_, s.placeOrder e.n0 = n :: rest → (s.node n).stuckAt = some at_ → at_ + 200000 ≤ s.now →
      (s.part e.n0).reserve = none → s.stuck n = true →
      exec .placementReservation s = .next (s.updPart e.n0 fun p => { p with reserve := some (s.node n).uid })) ∧
    (∀ at_, x.shedAt = some at_ → x.live = true → x.parked = false → x.req ≠ .preempt → at_ + 200000 ≤ s.now →
      exec .shedPreempt s = .next (s.updGang g fun x => x.askPark .preempt))

/-- The engines take up their commands and carry them out. COPY_ACCEPT discards the oldest copy or enters it in its
cluster's list, a box once its descriptor is read, and one with no element ends there; COPY_COMPLETE ends an accepted
copy with its error or with its bytes moved, one to another package when its writes are answered. MATRIX_ACCEPT, when no
other stream of the engine has a command, discards the oldest one or enters its quarters in the reservation table.
GATHER_COMPLETE gathers records, MATRIX_PASS forms a pass from a ready entry that none precedes and PASS_COMPLETE
performs one, WLOAD_PERFORM fills a weight slot from scratchpad, WFREE_PERFORM frees one, TILE_COMMAND_PERFORM clears
tiles. ENGINE_FAULT_DELIVERY gives a stream its oldest engine fault. COLL_COMPLETE releases a held collective or ends
one with its error or its data delivered, COLL_BOUND_EXPIRY ends one past its bound with code 5 while a member is
absent. CTXSAVE_DONE and CTXLOAD_DONE end a save and a load with a status, and a load of a whole image places its gang,
parked and as it was saved, under a new handle. Model's choices: log entries 5, 9, 48 (a sealed destination), 50
(members that a bound leaves behind), 51, 52, 58, 110 and 121. -/
def Obligations.EngineEventsHappen : Prop :=
  ∀ s : State,
    let e := s.ev
    let r := e.n0
    let u := s.stream r
    let guard (k : Option Nat) : Guard := match k with | none => .on | some k => u.guard k
    ((s.crewAt r).stopped = false → ∀ cmd rest, u.copyQ = cmd :: rest →
      (guard cmd.guard = .unset → exec .copyAccept s = .next s) ∧
      (guard cmd.guard = .off → exec .copyAccept s = .next ((s.setStream r { u with copyQ := rest }).discardCopy r cmd)) ∧
      (guard cmd.guard = .on → cmd.op = none →
        let cl := s.engineOf r
        let g := s.gangAt r
        let taken : CopyCmd := { cmd with guard := none, op := some s.fresh }
        (∀ n a b ls, cmd.what = .lanes n a b ls →
          ∃ t, exec .copyAccept s = .next t ∧ (t.stream r).copyQ = rest ∧ t.mem = s.mem ∧
            (t.cluster cl).copies = (s.cluster cl).copies ++
              [{ id := s.fresh, stream := r, cmd := taken, desc := [], bars := [], err := 0, gangs := [(gangOf r, g.uid)] }]) ∧
        (∀ addr bar xs v, cmd.what = .box addr bar →
          ({ s with fresh := s.fresh + 1 }.setStream r { u with copyQ := taken :: rest }).engineSpots g .read (va56 addr.toNat) 192 =
            (.ok xs, v) →
          v.engineFetch g.core s.fresh xs = none → v.opBad.contains s.fresh = false →
          let read := v.engineRead g.core s.fresh xs
          exec .copyAccept s = .next ((read.2.noteReads g.node xs).takeCopy cl r s.fresh taken (some (dwords 24 read.1)))))) ∧
    (∀ cl r id cmd ws,
      let d := boxDesc ws
      boxBad ws = false → cmd.bar = none →
      (d.count ≠ 0 → ∃ c, ((s.takeCopy cl r id cmd (some ws)).cluster cl).copies = (s.cluster cl).copies ++ [c] ∧
        c.id = id ∧ c.stream = r ∧ c.desc = ws ∧ c.err = 0) ∧
      ((∀ c ∈ (s.cluster cl).copies, c.id ≠ id) → d.count = 0 →
        ((s.takeCopy cl r id cmd (some ws)).cluster cl).copies = (s.cluster cl).copies)) ∧
    (∀ cl c, (s.clusters.findSome? fun p => (p.2.copies.find? fun c => c.id == e.n0).map fun c => (p.1, c)) = some (cl, c) →
      s.faultHeld c.stream c.id = false →
      (∀ ids, c.sent = some ids → (s.remotes.any fun q => ids.contains q.id) = false →
        exec .copyComplete s = .next (s.endCopy cl c (if s.opBad.contains c.id then 5 else 0) 0)) ∧
      (c.sent = none → c.err ≠ 0 → exec .copyComplete s = .next (s.endCopy cl c c.err 0)) ∧
      (c.sent = none → c.err = 0 →
        let g := s.gangAt c.stream
        let p := s.planOf c
        let from_ := if p.ssp then [] else p.moves.filterMap (·.src)
        let onto := if p.dsp then [] else p.moves.map (·.dst)
        s.copyMoving c.stream p = false →
        ((from_ ++ onto).any (fun a => outOf56 a p.n) = true → exec .copyComplete s = .next (s.endCopy cl c 1 0)) ∧
        ((from_ ++ onto).any (fun a => outOf56 a p.n) = false → ∀ sx v dx w,
          s.resolveAll g .read p.n from_ = (.ok sx, v) → v.resolveAll g .write p.n onto = (.ok dx, w) →
          w.engineFetch g.core c.id sx.flatten = none → dx.flatten.any w.hostHeld = false →
          ((w.opBad.contains c.id = true ∨ dx.flatten.any w.unreachable = true) →
            exec .copyComplete s = .next (w.endCopy cl c 5 0)) ∧
          (w.opBad.contains c.id = false → dx.flatten.any w.unreachable = false →
            let es := zipElements p (gangOf c.stream) sx dx
            (w.spRangeOk c.stream p = false → exec .copyComplete s = .next (w.endCopy cl c 3 0)) ∧
            (w.spRangeOk c.stream p = true → w.copyError g p es ≠ 0 →
              exec .copyComplete s = .next (w.endCopy cl c (w.copyError g p es) 0)) ∧
            (w.spRangeOk c.stream p = true → w.copyError g p es = 0 →
              exec .copyComplete s = .next ((w.moveBytes c p es).1.finishMove cl c (w.moveBytes c p es).2)))))) ∧
    ((s.crewAt r).stopped = false → (s.gangAt r).mxSaved = [] →
      (∀ q ∈ s.engineStreams (s.engineOf r), q ≠ r → (s.stream q).mxQ = [] ∧ (s.gangAt q).mxSaved = []) →
      ∀ c rest, u.mxQ = c :: rest →
      let cl := s.engineOf r
      let turned (t : State) : State := t.updCluster cl fun x => { x with mxTurn := (s.coreNum r % 4 + 1) % 4 }
      let entry (x : MxEntry) : Nat × MxCmd × Nat × MxPhase := (x.stream, x.cmd, x.quarter, x.phase)
      (guard c.guard = .unset → exec .matrixAccept s = .next s) ∧
      (guard c.guard = .off → exec .matrixAccept s = .next (turned (s.setStream r ({ u with mxQ := rest }.mxDone c.seq 0 0 0)))) ∧
      (guard c.guard = .on → (s.cluster cl).table.length + c.quarters.length ≤ 64 →
        ∃ t, exec .matrixAccept s = .next t ∧ (t.stream r).mxQ = rest ∧ t.gangs = s.gangs ∧ t.mem = s.mem ∧
          (t.cluster cl).mxTurn = (s.coreNum r % 4 + 1) % 4 ∧
          (t.cluster cl).table.map entry = (s.cluster cl).table.map entry ++ c.quarters.map fun q => (r, c, q, .accepted))) ∧
    (∀ x, s.entryOf e.n0 e.n1 = some x →
      let counted (t : State) : Prop := (t.gangAt x.stream).scratch = (s.gangAt x.stream).scratch ∧
        (t.gangAt x.stream).tileStore = (s.gangAt x.stream).tileStore ∧ (∀ k, k ≠ gangOf x.stream → t.gang k = s.gang k) ∧
        t.mem = s.mem
      (x.phase = .accepted → x.cmd.op.isPass = true → (x.rows.any fun y => s.moving x.stream y.2 400) = false →
        ∃ t, exec .gatherComplete s = .next t ∧ counted t ∧
          t.entryOf e.n0 e.n1 = some { x with phase := .gathered, gathered := (s.gangAt x.stream).gather x.rows }) ∧
      (s.portReady e.n0 x = true →
        let slot := Tab.get {} (s.cluster e.n0).slots x.cmd.slot
        let g := s.gangAt x.stream
        let off := x.cmd.addr.toNat
        (x.cmd.op = .wload → x.cmd.sp = true → s.moving x.stream off 12800 = false →
          (slot.owner = none ∨ slot.owner = some (gangOf x.stream)) → g.rangeLabel off 12800 ≠ 3 → g.rangeBad off 12800 = .none →
          ∃ t, exec .wloadPerform s = .next t ∧ counted t ∧ t.entryOf e.n0 e.n1 = none ∧
            Tab.get {} (t.cluster e.n0).slots x.cmd.slot =
              WSlot.fill (gangOf x.stream) x.cmd.mode1 (g.spBytes off 12800) (g.rangeLabel off 12800) .none) ∧
        (x.cmd.op = .wfree → slot.owner = some (gangOf x.stream) →
          ∃ t, exec .wfreePerform s = .next t ∧ t.gangs = s.gangs ∧ t.mem = s.mem ∧ t.entryOf e.n0 e.n1 = none ∧
            Tab.get {} (t.cluster e.n0).slots x.cmd.slot = {}) ∧
        (x.cmd.op = .accz → x.cmd.sp = false →
          ∃ t, exec .tileCommandPerform s = .next t ∧ t.mem = s.mem ∧ t.entryOf e.n0 e.n1 = none ∧
            (∀ k ∈ s.entryTiles x, (t.gang k.1).tile k.2 = {}) ∧
            ∀ k, k ∉ (s.entryTiles x).map Prod.snd → (t.gangAt x.stream).tile k = g.tile k))) ∧
    (let v := s.noteReady e.n0
     let table := (v.cluster e.n0).table
     (∀ y ∈ table, y.phase ≠ .inPass) → (∃ y ∈ table, v.passReady table [] y = true) →
      ∃ first ∈ table, v.passReady table [] first = true ∧
        (∀ y ∈ table, v.passReady table [] y = true → v.entryBefore e.n0 y first = false) ∧
        ∃ t, exec .matrixPass s = .next t ∧ t.gangs = s.gangs ∧ t.mem = s.mem ∧
          (t.cluster e.n0).table = table.map fun y =>
            if ((v.formPass table first).map (·.id)).contains y.id then { y with phase := .inPass } else y) ∧
    (∀ y ys, (s.cluster e.n0).table.filter (fun x => x.phase == .inPass) = y :: ys →
      exec .passComplete s = .next ((y :: ys).foldl (fun s x => s.performQuarter e.n0 x) s) ∧
      (s.quarterError e.n0 y ≠ 0 → (s.performQuarter e.n0 y).gangs = s.gangs)) ∧
    (∀ f rest, u.efaults = f :: rest → s.takesFaults r = true → u.serving = none → u.begun = false →
      exec .engineFaultDelivery s = .next ((s.updStream r fun t => { t with efaults := rest, serving := some f }).systemTrap r
        { cause := 0x19, sub := f.sub, info := f.addr, mask := 0, word := some (s.spcWord r) })) ∧
    (∀ c, s.colls.find? (·.id == e.n0) = some c →
      let g := s.gangAt c.stream
      let d := collDesc c.desc
      (s.faultHeld c.stream c.id = false → g.parked = false → (Tab.find c.stream s.streams).isSome = true →
        (∀ k, c.guard = some k → (s.stream c.stream).guard k = .off → exec .collComplete s = .next (s.endColl c 0 false)) ∧
        (∀ k, c.guard = some k → (s.stream c.stream).guard k = .on →
          exec .collComplete s = .next (s.updColl c.id fun x => { x with guard := none })) ∧
        (c.guard = none → c.desc ≠ [] → c.err ≠ 0 → exec .collComplete s = .next (s.failColl c) ∧
          ∀ y ∈ (s.failColl c).colls, y.id ≠ c.id) ∧
        (∀ all, c.guard = none → c.desc ≠ [] → c.err = 0 → c.all = some all →
          let bytes := packedBytes (d.width c.op) (collResult c.op d (all.map (·.bytes))).1.length
          let label : Label := all.foldl (fun l i => Label.join l i.label) 0
          (∀ i ∈ all, i.prov = []) → collRange (d.width c.op) d.dst bytes = true → ∀ ps v vs w,
          s.engineSpots g .write (va56 d.dst) bytes = (.ok ps, v) →
          v.engineSpots g .write (va56 (c.descAddr.toNat + 32)) (if collRecords c.op then 4 else 0) = (.ok vs, w) →
          (ps.any (fun p => p.leaf.label == 3 || decide (p.leaf.label < label)) = true →
            exec .collComplete s = .next (w.endColl c 2 false)) ∧
          (ps.any (fun p => p.leaf.label == 3 || decide (p.leaf.label < label)) = false → g.det = false →
            (ps ++ vs).any w.hostHeld = false →
            ∃ t, exec .collComplete s = .next t ∧ (∀ y ∈ t.colls, y.id ≠ c.id) ∧
              (t.stream c.stream).collsOut = (s.stream c.stream).collsOut.filter (· != c.num) ∧
              (t.stream c.stream).collStat = (s.stream c.stream).collStat))) ∧
      (∀ at_ m, c.deadline = some at_ → at_ ≤ s.now → e.n1 = 0 → c.arrived = true →
        s.arrivedAt d.group m.1 m.2 = some c →
        (s.localMembers (s.collMembers c) = [m] → 1 < (s.collMembers c).length → e.n2 = 0 →
          exec .collBoundExpiry s = .next (s.endColl c 5 false)) ∧
        (∀ m', s.localMembers (s.collMembers c) = [m, m'] → s.arrivedAt d.group m'.1 m'.2 = none →
          s.comingAt d.group m'.1 m'.2 = none →
          let who := (m'.2.2.1, d.group, m'.1)
          (s.failed.contains who = false →
            exec .collBoundExpiry s = .next { s.endColl c 5 false with abandoned := s.abandoned ++ [who] }) ∧
          (s.failed.contains who = true →
            exec .collBoundExpiry s = .next { s.endColl c 5 false with failed := s.failed.erase who })))) ∧
    (∀ g addr sl fr, u.wait = some (.ctxsave g addr sl fr none) →
      (s.retraining = false → ∃ t st, exec .ctxsaveDone s = .next t ∧ (t.stream r).wait = some (.ctxsave g addr sl fr (some st))) ∧
      (Tab.find g s.gangs = none →
        exec .ctxsaveDone s = .next (s.updStream r fun t => { t with wait := some (.ctxsave g addr sl fr (some 1)) })) ∧
      (∀ x v, Tab.find g s.gangs = some x → sl = true → s.saveSpots r sl addr.toNat (imageKib x (s.ownedSlots g).length) = (none, v) →
        exec .ctxsaveDone s = .next (v.updStream r fun t => { t with wait := some (.ctxsave g addr sl fr (some 3)) })) ∧
      (∀ x xs v, Tab.find g s.gangs = some x → sl = true →
        s.saveSpots r sl addr.toNat (imageKib x (s.ownedSlots g).length) = (some xs, v) →
        xs.any s.hostHeld = false →
        ∃ t, exec .ctxsaveDone s = .next t ∧ (t.stream r).wait = some (.ctxsave g addr sl fr (some 0)))) ∧
    (∀ core addr, u.wait = some (.ctxload core addr none) →
      (s.imageAwaits r addr.toNat = none → ∃ t st, exec .ctxloadDone s = .next t ∧ (t.stream r).wait = some (.ctxload core addr (some st))) ∧
      (imageRange addr.toNat 4 = false → exec .ctxloadDone s =
        .next (s.updStream r fun t => { t with wait := some (.ctxload core addr (some (w32 (2 ^ 31 + 4)))) })) ∧
      (∀ head v bs w, s.imageAwaits r addr.toNat = none → s.imageRead r addr.toNat 4 = (some head, v) →
        v.imageRead r addr.toNat (max 4 (bits (wordAt (dwords 1 head) 0) 31 0)) = (some bs, w) →
        let x := (w.dropOp (imageOp r)).loadImage r core bs
        exec .ctxloadDone s = .next (x.2.updStream r fun t => { t with wait := some (.ctxload core addr (some (w32 x.1))) }))) ∧
    (∀ core bs ws plain c n, s.openImage (s.partNum r) bs = .ok (ws, plain) →
      (s.contexts.find? fun c => fitBytes plain.length (Config.imageBody c.serial plain.length) == plain) = some c →
      s.keyOfUid c.nodeUid = some n → core < 256 → bitOf (s.part (s.partNum r)).partclu.toNat (clusterOf core) = true →
      c.gang.part = s.partNum r → (isStreamCore core).toNat = c.ckind → s.takesContext c core = true →
      (∀ p ∈ c.streams, ∀ k pa, p.2.wait ≠ some (.args k pa)) →
      let x := s.loadImage r core bs
      ∃ g y, Tab.find g x.2.gangs = some y ∧ x.1 = y.handle.toNat ∧ y.part = s.partNum r ∧ y.node = n ∧
        y.core = core ∧ y.parked = true ∧ y.parkHold = true ∧ y.gangid = c.gang.gangid ∧ y.scratch = c.gang.scratch ∧
        y.tileStore = c.gang.tileStore ∧ y.witness = c.gang.witness ∧ y.stack = c.gang.stack ∧
        ∀ k, k ≠ g → (x.2.gang k).scratch = (s.gang k).scratch ∧ (x.2.gang k).tileStore = (s.gang k).tileStore)

/-- STAGING_FILL_DONE lets the SOPENs of a filled version return, SSEAL_PROCEED seals for a gang and, at the seal count, the
version, DIGEST_TAKEN takes its digest, SEED_REVEAL gives a node its seed, WITNESS_TEST passes or fails its witness,
VERSION_RELEASE and VERSION_VOID settle versions, and REEXECUTION_POST posts a re-execution. RESIDUE_REPORT parks a
cluster's gangs for its self-test, or keeps a report for the next, and SELF_TEST_DONE retires the channels that failed.
STRIKE_REPORT counts strikes, or leaves an error in a register bank or a faulty adder; PATROL_SCRUB counts a corrected
sector, marks an uncorrectable one and marks one whose tag does not match. POST_FORWARD brings a post to the hub and
NODE_ACCEPT makes it a node, while fewer than 4,096 completion records wait. Model's choices: log entries 6, 9, 13 (that
STRIKE_REPORT leaves every stream and memory as they were), 36, 39, 40, 43, 69, 84 and 122. -/
def Obligations.AssayAndHubEventsHappen : Prop :=
  ∀ s : State,
    let e := s.ev
    let key := e.n0
    let pr := s.pair key
    (pr.filling = true →
      ∃ t, exec .stagingFillDone s = .next t ∧ (t.pair key).filling = false ∧ t.gangs = s.gangs ∧ t.crews = s.crews ∧
        ∀ r, (Tab.find r s.streams).isSome = true →
          (t.stream r).wait =
            if (s.stream r).wait = some (.sopen key pr.version false) then some (.sopen key pr.version true) else (s.stream r).wait) ∧
    (∀ page v, (s.stream e.n0).wait = some (.sseal page v false) → s.enginesIdle e.n0 = true → (s.crewAt e.n0).stopped = false →
      ((s.pair page).seals + 1 ≠ (s.pair page).sealCount →
        ∃ t, exec .ssealProceed s = .next t ∧ (t.stream e.n0).wait = some (.sseal page v true) ∧
          (t.gangAt e.n0).sealedBy = (s.gangAt e.n0).sealedBy ++ [page] ∧ (t.pair page).seals = (s.pair page).seals + 1) ∧
      ((s.pair page).seals + 1 = (s.pair page).sealCount → (s.ver page (s.pair page).version).doomed = false →
        ∃ t, exec .ssealProceed s = .next t ∧ (t.stream e.n0).wait = some (.sseal page v true) ∧
          (t.ver page (s.pair page).version).st = .sealed)) ∧
    (∀ v q, pr.vers.find? (fun v => v.2.st == .sealed && v.2.digest.isNone) = some (v, q) →
      ∃ t, exec .digestTaken s = .next t ∧ (t.ver key v).digest = some (digestWords t.mem (frameBase key v) (2 ^ 18) 0) ∧
        t.streams = s.streams ∧ t.gangs = s.gangs) ∧
    (∀ x, (if e.n1 = 0 then Tab.find e.n0 s.nodes else Tab.find e.n0 s.past) = some x → x.desc.wkind ≠ 0 → x.seed = none →
      x.st ≠ .ended → s.wholeOutput x = true → e.n4 = 0 → exec .seedReveal s =
        .next ({ s with seeds := s.seeds + 1 }.updUid x.uid fun x => { x with seed := some (seedOf s.seeds) })) ∧
    (∀ x ds, Tab.find e.n0 s.past = some x → x.tested = false → x.probe = none → x.entry = none → x.desc.wkind ≠ 0 →
      x.st = .complete → x.doomed = false → s.wholeOutput x = true → x.seed.isSome = true → s.digestsOf x = some ds → e.n4 = 0 →
      let part := (s.pair (x.versions.headD (0, 0, 0)).2.1).part
      (s.testWitness part x = none →
        exec .witnessTest s = .next (s.updUid x.uid fun x => { x with tested := true, passed := true })) ∧
      (∀ f, s.testWitness part x = some f → exec .witnessTest s =
        .next ((s.updUid x.uid fun x => { x with tested := true, passed := false }).failFirst part x f))) ∧
    (∀ v q, key < 2 ^ 30 → pr.vers.find? (fun v => s.releasable v.2) = some (v, q) → e.n4 = 0 →
      exec .versionRelease s = .next ((((s.updVer key v fun q => { q with st := .released }).dropPairTlb key).postNotice key v
        pr.part false (((s.findUid (q.node.getD 0)).map fun x => x.desc.wkind == 0).getD false)).afterRelease (q.node.getD 0))) ∧
    (∀ v q, pr.vers.find? (fun v => s.voidDue v.2) = some (v, q) → q.doomed = false → e.n4 = 0 →
      exec .versionVoid s = .next (s.voidVersion false (((q.node.bind s.findUid).map (·.cause)).getD 0) key v)) ∧
    (∀ q rest, (s.part e.n0).repost = q :: rest →
      let x : Node := { addr := q.addr, origin := .rerun, xdie := q.xdie, xclu := q.xclu, probe := q.probe, attempt := q.attempt,
                        entry := q.entry, orig := some q.origUid }
      (∀ v, s.offer e.n0 x none = .waits v → exec .reexecutionPost s = .next s) ∧
      (∀ n v, s.offer e.n0 x none = .accepted n v →
        let taken := v.updPart e.n0 fun p => { p with repost := rest }
        let y := (taken.updPart e.n0 fun p => { p with replay := p.replay ++ v.logFor e.n0 q.origUid n })
        let y := y.updNode n fun x => { x with follows := y.hasLog q.origUid }
        y.allowed e.n0 (y.node n) ≠ [] → exec .reexecutionPost s = .next y)) ∧
    (e.n0 < 64 → (s.cluster e.n0).selfTest = none → s.isRetired e.n0 = false →
      ∃ t seq, exec .residueReport s = .next t ∧ (t.cluster e.n0).selfTest = some (seq, e.n1) ∧ t.streams = s.streams ∧
        ∀ p ∈ s.gangs, clusterOf p.2.core = e.n0 → p.2.live = true → (t.gang p.1).assayHold = true) ∧
    (∀ x, e.n0 < 64 → (s.cluster e.n0).selfTest = some x → s.isRetired e.n0 = false →
      ∃ t seq, exec .residueReport s = .next t ∧ (t.cluster e.n0).selfTest = some x ∧
        (t.cluster e.n0).moreTests = (s.cluster e.n0).moreTests ++ [(seq, e.n1)]) ∧
    (∀ x, (s.cluster e.n0).selfTest = some x → (s.cluster e.n0).moreTests = [] →
      (∀ p ∈ s.gangs, clusterOf p.2.core = e.n0 → p.2.live = true → p.2.parked = true) →
      ∃ t, exec .selfTestDone s = .next t ∧ (t.cluster e.n0).selfTest = none ∧
        (t.cluster e.n0).rnsmap = (s.cluster e.n0).failing.foldl retireChannel (s.cluster e.n0).rnsmap) ∧
    (e.n1 = 0 → ∃ t, exec .strikeReport s = .next t ∧ t.streams = s.streams ∧ t.mem = s.mem ∧
      ∀ c, (t.cluster c).strikes = (s.cluster c).strikes + if c ∈ e.nums ∧ c < 64 then 1 else 0) ∧
    (e.n1 = 1 → (Tab.find e.n2 s.streams).isSome = true → e.n3 < 56 →
      ∃ t, exec .strikeReport s = .next t ∧ e.n3 ∈ (t.stream e.n2).regBad ∧ t.mem = s.mem) ∧
    (e.n1 = 4 → e.n2 < 64 → e.n3 < 10 →
      ∃ t, exec .strikeReport s = .next t ∧ Tab.get 0 (t.cluster e.n2).adder e.n3 = e.n4 ∧ t.streams = s.streams) ∧
    (64 * e.n0 < s.populated → s.writingBack e.n0 = false →
      let owner := (s.frameOwner (64 * e.n0)).getD 0
      (e.n1 = 1 → exec .patrolScrub s = .next ((s.countEcc owner (64 * e.n0)).countWrite e.n0)) ∧
      (e.n1 = 2 → s.stale e.n0 = false → ∃ t, exec .patrolScrub s = .next t ∧ t.mem = s.mem ∧ t.marks = Tab.put e.n0 Mark.poison s.marks) ∧
      (e.n1 = 2 → s.stale e.n0 = true → ∃ t, exec .patrolScrub s = .next t ∧ t.mem = s.mem ∧ t.marks = s.marks) ∧
      (e.n1 = 0 → e.bytes ≠ [] →
        exec .patrolScrub s = .next (s.meetSector e.n0 owner e.bytes) ∧
        (s.treeBlock e.n0 = none → s.stale e.n0 = false → Tab.find e.n0 s.marks ≠ some .poison →
          fitBytes 7 (e.bytes.drop 64) ≠ s.sectorTag e.n0 (fitBytes 64 e.bytes) →
          Tab.find e.n0 (s.meetSector e.n0 owner e.bytes).marks = some .integrity))) ∧
    (64 * e.n0 < s.populated → s.writingBack e.n0 = true → exec .patrolScrub s = .next s) ∧
    (s.recordRoom e.n0 = false → exec .postForward s = .next s ∧ exec .nodeAccept s = .next s) ∧
    (∀ rcb rest, (s.part e.n0).posts = rcb :: rest → (s.part e.n0).hubPost = none → s.recordRoom e.n0 = true →
      let taken := (s.setPart e.n0 { s.part e.n0 with posts := rest }).admitPosts e.n0
      (∀ v, taken.hubWords e.n0 rcb 2 = (none, v) → exec .postForward s = .next (v.postCompletion e.n0 rcb 0x8001 0 false)) ∧
      (∀ ws v c w, taken.hubWords e.n0 rcb 2 = (some ws, v) → v.readChain e.n0 rcb = (some c, w) → ws.getD 1 0 ≠ 0 →
        exec .postForward s = .next (w.updPart e.n0 fun p => { p with hubPost := some (ws.getD 1 0, rcb) }))) ∧
    (∀ addr rcb, (s.part e.n0).hubPost = some (addr, rcb) → s.recordRoom e.n0 = true →
      let taken (v : State) : State := (v.updPart e.n0 fun p => { p with hubPost := none }).admitPosts e.n0
      (∀ n v, s.offer e.n0 { addr, origin := .post } none = .accepted n v → exec .nodeAccept s = .next (taken v)) ∧
      (∀ st v, s.offer e.n0 { addr, origin := .post } none = .rejected st v →
        exec .nodeAccept s = .next ((taken v).postCompletion e.n0 addr st 0 false)) ∧
      (∀ v, s.offer e.n0 { addr, origin := .post } none = .waits v → exec .nodeAccept s = .next s))

/-- READ_SHARED, READ_OWN, UPGRADE, WRITE_BACK, GRANT, RECALL_S, RECALL_I, INVALIDATE, RECALL_REPLY and INV_ACK deliver the
message of their kind that is the oldest in flight in its direction between its home and its die; with none in flight a
die sends the request its state allows, or the WriteBack of a line it holds, and it is handled. A request for a line
that no directory entry tracks is granted in E with memory's data; a Grant gives the die its line, a Recall.I or an
Invalidate takes it, a Recall.S leaves it in S, and the data of a WriteBack or of an answer go to memory, the last
answer bringing the Grant. PAGE_WALK gives a core a translation it lacks. Model's choices: log entries 9 and 10. -/
def Obligations.CoherenceEventsHappen : Prop :=
  ∀ s : State,
    let e := s.ev
    let next (k : MsgKind) : Option (Msg × List Msg) :=
      takeMsg (fun m => m.home == e.n0 && m.die == e.n1 && m.kind.toDie == k.toDie) s.msgs
    let delivers (i : Instr) (k : MsgKind) : Prop :=
      ∀ m rest, next k = some (m, rest) → m.kind = k → m.line = e.n2 → exec i s = .next ({ s with msgs := rest }.deliver m)
    let requests (i : Instr) (k : MsgKind) (may : Prop) : Prop :=
      next k = none → msgRange e = true → s.trackHome e.n2 = e.n0 → Tab.find e.n2 (s.die e.n1).asked = none → may →
      let how : Attr := { home := e.n0, nc := false, cpol := 0, ways := s.wayMask e.n3 e.n1 }
      let asked := s.updDie e.n1 fun d => { d with asked := Tab.put e.n2 (k, how) d.asked }
      exec i s = .next (asked.homeRequest e.n0 e.n1 e.n2 k)
    delivers .readShared .readShared ∧ delivers .readOwn .readOwn ∧ delivers .upgrade .upgrade ∧
    delivers .writeBack .writeBack ∧ delivers .grant .grant ∧ delivers .recallS .recallS ∧ delivers .recallI .recallI ∧
    delivers .invalidate .invalidate ∧ delivers .recallReply .recallReply ∧ delivers .invAck .invAck ∧
    requests .readShared .readShared (∀ l, s.l2Find e.n1 e.n2 = some l → l.st = .nc) ∧
    requests .readOwn .readOwn (∀ l, s.l2Find e.n1 e.n2 = some l → l.st = .nc) ∧
    requests .upgrade .upgrade (∃ l, s.l2Find e.n1 e.n2 = some l ∧ l.st = .s) ∧
    (∀ l, next .writeBack = none → msgRange e = true → s.l2Find e.n1 e.n2 = some l → l.home = e.n0 → l.st ≠ .nc →
      Tab.find e.n2 (s.die e.n1).asked = none →
      exec .writeBack s =
        .next ((s.l2Del e.n1 e.n2).homeWriteBack e.n0 e.n1 e.n2 (if l.st = .m then some l.bytes else none))) ∧
    (∀ m : Msg,
      let t := s.deliver m
      ((m.kind = .readShared ∨ m.kind = .readOwn ∨ m.kind = .upgrade) → s.dirFind m.home m.line = none →
        (s.dirLines m.home m.line).length < 16 →
        { kind := .grant, home := m.home, die := m.die, line := m.line, data := some (s.memLine m.line), st := .e } ∈ t.msgs) ∧
      (∀ b, m.kind = .grant → m.data = some b → ∃ l, t.l2Find m.die m.line = some l ∧ l.st = m.st ∧ l.bytes = b) ∧
      (∀ l, s.l2Find m.die m.line = some l →
        (m.kind = .recallI ∧ (l.st = .m ∨ l.st = .e) ∨ m.kind = .invalidate ∧ l.st = .s → t.l2Find m.die m.line = none) ∧
        (m.kind = .recallS → (l.st = .m ∨ l.st = .e) → t.l2Find m.die m.line = some { l with st := .s })) ∧
      (∀ b : List Byte, (m.kind = .writeBack ∨ m.kind = .recallReply ∨ m.kind = .invAck) → m.data = some b →
        t.mem = wrBytes s.mem (64 * m.line) b ∧ t.streams = s.streams) ∧
      (∀ entry txn, (m.kind = .recallReply ∨ m.kind = .invAck) → s.dirFind m.home m.line = some entry → entry.txn = some txn →
        txn.due = [m.die] →
        ∃ g ∈ t.msgs, g.kind = .grant ∧ g.home = m.home ∧ g.die = txn.die ∧ g.line = m.line)) ∧
    (let part := s.ownerOf (clusterOf e.n0)
     e.n0 < 256 → tlbHit ((s.core e.n0).tlb.filter (s.serves e.n2)) part (e.n1 % 2 ^ 56) = none →
      exec .pageWalk s = .next (s.translate e.n0 part e.n2 (e.n1 % 2 ^ 56)).2)

/-- What these events do: a release message and its acknowledgement, an arriving write or read of local memory, the answer
to a remote access and its time limit, notices and the expiry of a provisional version, the host's write and read of the
aperture, a ring entry, replays and retraining of the link, a fabric port that goes down, a package reset and the steps
of bring-up, a post, which is held while the queue is full, and the host's writes of FABID, DROOPCTL, ISLCTL and PSHED,
of which a package without firmware takes none. Model's choices: log entries 9, 72, 74, 78 and 122. -/
def Obligations.FabricAndHostEventsHappen : Prop :=
  ∀ s : State,
    let e := s.ev
    (bits e.n0 57 56 = 1 → e.n1 = 0 → exec .releaseMessage s = .next { ({ s with ing := 0 }.noteHost s.ing) with
      fabricAck := some (bits e.n0 63 58, releaseWord (bits s.fabid.toNat 5 0) 2 (bits e.n0 31 0), 0) }) ∧
    (∀ x ∈ s.releases, bits e.n0 57 56 = 2 → e.n1 = 0 → x.1 = bits e.n0 63 58 → x.2.1 % 2 ^ 32 = bits e.n0 31 0 →
      exec .releaseAck s = .next { s with releases := s.releases.filter fun y => !acknowledges e.n0 y }) ∧
    (let bytes := (List.range e.bytes.length).map (e.n2 + ·)
     e.n0 < 64 → e.n1 = 1 → e.bytes ≠ [] → e.n2 + e.bytes.length ≤ s.populated → e.nums = [] →
      let v := s.physWrite (bytes.zip e.bytes)
      exec .remoteAccessArrival s = .next { v with ing := v.ing ||| sigOf bytes }) ∧
    (let as := (List.range e.n3).map (e.n2 + ·)
     let v := (s.physRead e.n2 e.n3).2
     e.n0 < 64 → e.n1 = 0 → e.n3 ≠ 0 → e.n2 + e.n3 ≤ s.populated → s.finalWaits s.noticeHeld as = false →
      let passes : Bool := !((v.egressAll as).contains .blocked) && !(as.any fun a => (v.blockMark a 1).isSome)
      ∃ t, exec .remoteAccessArrival s = .next t ∧ t.mem = v.mem ∧
        t.fabricRead = (if passes = true then (s.physRead e.n2 e.n3).1 else []) ∧
        t.fabricTag = if passes = true then v.egressTags as else []) ∧
    (∀ q, s.remotes.find? (fun q => q.id == e.n0) = some q →
      (s.now < q.deadline → e.nums = [] →
        exec .remoteResponse s = .next ((s.closeRemote q).takeRemote q e.bytes (e.n1 == 1))) ∧
      (q.deadline ≤ s.now → exec .remoteResponse s = .next (s.giveUp q)) ∧
      ((q.deadline ≤ s.now ∨ Tab.get 0 s.routes q.pkg = 0) → exec .remoteAccessTimeout s = .next (s.giveUp q)) ∧
      ((q.kind ≠ 1 ∨ q.op ≠ none) → s.giveUp q = (s.closeRemote q).takeRemote q [] true) ∧
      (q.kind = 1 → q.op = none →
        s.giveUp q = (s.closeRemote q).recordFault 0 ((s.closeRemote q).ownerOf (clusterOf q.core)) 3 0 0 (w64 q.pa) 0 0 0 0 0 true)) ∧
    ((bits e.n1 31 28 = 2 → exec .noticeArrival s =
        .next (s.endForeign (bits e.n0 63 58) (bits e.n0 51 22) (bits e.n1 63 32) false)) ∧
      (bits e.n1 31 28 = 3 → exec .noticeArrival s =
        .next (s.voidForeign (bits e.n0 63 58) (bits e.n0 51 22) (bits e.n1 63 32)))) ∧
    ((s.foreign.any fun f => f.1 == e.n0 && f.2.1 == e.n1 && f.2.2.1 == e.n2 && decide (f.2.2.2 ≤ s.now)) = true →
      exec .provisionalTimeout s = .next (s.voidForeign e.n0 e.n1 e.n2)) ∧
    (let ws := ((List.range e.bytes.length).map fun i => (s.aperture (e.n0 + i), e.bytes.getD i 0)).filter fun w =>
       decide (w.1 < s.populated) && !s.protectedFrame w.1
     s.ready = true → s.linkUp = true → ws ≠ [] →
      exec .hostWrite s = .next { (s.noteHost (sigOf (ws.map Prod.fst))).physWrite ws with linkReplays := 0 }) ∧
    (let a := s.aperture e.n0
     let as := [a].filter fun a => decide (a < s.populated) && !s.protectedFrame a
     s.ready = true → s.linkUp = true → e.n1 = 1 → s.finalWaits s.noticeQueued as = false →
      let x := s.hostByte a
      exec .hostRead s = .next { x.2 with hostRead := [x.1], hostTag := s.egressTags as, linkReplays := 0 } ∧
      (s.protectedFrame a = true → x.1 = 255)) ∧
    (let p := s.part e.n0
     let ring := p.rings.getD e.n1 {}
     let size := bits ring.cfg.toNat 4 0
     ∀ w0 w1 rest, ring.wait = (w0, w1) :: rest → e.n1 < 3 → s.linkUp = true → bitOf ring.cfg.toNat 31 = true → 6 ≤ size →
      size ≤ 16 → (ring.tail - ring.head).toNat < 2 ^ size → p.heldPosts = [] →
      ∃ t, exec .ringEntryWrite s = .next t ∧ ((t.part e.n0).rings.getD e.n1 {}).tail = ring.tail + 1 ∧
        ((t.part e.n0).rings.getD e.n1 {}).wait = rest ∧ t.mem = s.mem ∧
        t.hostMem = wrBytes s.hostMem (ring.lo.toNat + bits ring.hi.toNat 13 0 * 2 ^ 32 + 16 * (ring.tail.toNat % 2 ^ size))
          (leBytes 8 w0.toNat ++ leBytes 8 w1.toNat)) ∧
    (s.linkUp = true →
      (s.linkReplays + 1 = 8 → exec .flitReplay s = .next { s with linkReplays := 0, retraining := true }) ∧
      (s.linkReplays + 1 ≠ 8 → exec .flitReplay s = .next { s with linkReplays := s.linkReplays + 1 })) ∧
    (s.retraining = true →
      let fails := (s.linkFails.filter fun t => decide (s.now < t + 1000000000)) ++ [s.now]
      (e.n0 = 1 → exec .linkRetrainDone s = .next { s with retraining := false }) ∧
      (e.n0 ≠ 1 → 3 ≤ fails.length →
        exec .linkRetrainDone s = .next { s with linkFails := fails, retraining := false, linkDown := true }) ∧
      (e.n0 ≠ 1 → fails.length < 3 → exec .linkRetrainDone s = .next { s with linkFails := fails })) ∧
    (e.n0 < 16 → e.n1 < 64 → ∃ t, exec .fabricPortDown s = .next t ∧ t.portsDown.contains e.n1 = true ∧ t.mem = s.mem ∧
      ((t.part e.n0).rings.getD 2 {}).wait =
        ((s.part e.n0).rings.getD 2 {}).wait ++ [(s.timestamp, w64 (3 * 2 ^ 56 + e.n1))]) ∧
    (e.n4 = 0 → ∃ t, exec .packageReset s = .next t ∧ t.hostMem = s.hostMem ∧ t.lasting = s.lasting ∧ t.mem = State.reset.mem ∧
      t.streams = State.reset.streams ∧ t.gangs = State.reset.gangs ∧ t.nodes = State.reset.nodes ∧ t.parts = State.reset.parts ∧
      t.ready = decide (bringUpError e = 0) ∧ bits t.bustat.toNat 3 0 = failedStep (bringUpError e)) ∧
    (1 ≤ e.n4 → e.n4 ≤ 7 → e.n4 ≤ failedStep (bringUpError e) →
      ∃ t, exec .packageReset s = .next t ∧ t.ready = false ∧ t.bring = some e ∧ bits t.bustat.toNat 3 0 = e.n4 ∧ bits t.bustat.toNat 15 8 = 0) ∧
    (e.n4 = 8 → (s.bring = none → exec .packageReset s = .next s) ∧ ∀ b, s.bring = some b →
      let k := bits s.bustat.toNat 3 0
      (bringUpError b ≠ 0 → failedStep (bringUpError b) = k → exec .packageReset s =
        .next { s with bustat := bringUp b.n0 b.n1 (bringUpError b) k, ready := k == 8, bring := none }) ∧
      (¬(bringUpError b ≠ 0 ∧ failedStep (bringUpError b) = k) → exec .packageReset s =
        .next { s.endStep b k with bustat := bringUp b.n0 b.n1 0 (k + 1), ready := k + 1 == 8, bring := if k + 1 ≠ 8 then some b else none })) ∧
    (e.n0 < 16 → s.linkUp = true → s.ready = true → s.noFirmware = false → (s.part e.n0).released = true →
      (s.part e.n0).post2 = 0 → w32 e.n1 = 0 →
      let rcb := w64 ((s.part e.n0).post0.toNat + (s.part e.n0).post1.toNat * 2 ^ 32)
      ∃ t, exec .postSubmit s = .next t ∧ t.mem = s.mem ∧
        ((s.part e.n0).heldPosts = [] → 0 < (s.part e.n0).postFree →
          (t.part e.n0).posts = (s.part e.n0).posts ++ [rcb] ∧ (t.part e.n0).heldPosts = []) ∧
        ((s.part e.n0).postFree = 0 → (∀ y ∈ (s.part e.n0).heldPosts, y.2 = true) →
          (t.part e.n0).posts = (s.part e.n0).posts ∧ (t.part e.n0).heldPosts = (s.part e.n0).heldPosts ++ [(rcb, true)])) ∧
    (s.linkUp = true → s.noFirmware = false →
      exec .fabidWrite s = .next (if bitOf s.fabid.toNat 31 then s else { s with fabid := w32 (2 ^ 31 + bits (w32 e.n0).toNat 5 0) })) ∧
    (∀ c, e.n0 = 0 → s.linkUp = true → s.noFirmware = false → e.n1 = 0x10000 + 0x40 * c + 4 → c < 64 → s.isRetired c = false →
      exec .registerWrite s = .next (s.updCluster c fun x => { x with
        droopctl := w32 (bits (w32 e.n2).toNat 31 31 * 2 ^ 31 + bits (w32 e.n2).toNat 23 12 * 2 ^ 12 + bits (w32 e.n2).toNat 7 0) })) ∧
    (e.n1 < 64 → e.n0 = 0 → s.linkUp = true → s.noFirmware = false → s.isRetired e.n1 = false →
      exec .islctlWrite s = .next (s.writeIslctl true e.n1 (w32 e.n2))) ∧
    (e.n0 < 16 → s.linkUp = true → s.noFirmware = false → exec .pshedWrite s = .next (s.writePshed e.n0 (w32 e.n1))) ∧
    (s.noFirmware = true → s.linkUp = true → e.n0 < 16 → exec .fabidWrite s = .next s ∧ exec .pshedWrite s = .next s)

/-- Every management command that is running leaves the mailbox free; one with a reserved bit in its first word ends with
status 0xFFFF and changes no memory, one of an unknown code with status 0xFFFF; before READY only codes 8 to 10 run.
Release, weight key, page import, sealed transfer in, certificate read and fault record read end with their whole
effect, key exchange, page export, sealed transfer out, attestation and collective group with the effect stated, and
each with its error status in the cases stated. Model's choices: log entries 6, 9, 75 and 77. -/
def Obligations.ManagementCommandsEnd : Prop :=
  ∀ s : State,
    let ws := s.mboxBlock
    let k := cmdPart ws
    let ends (t : State) (status : Nat) : Prop := t.mboxBusy = false ∧ t.mboxStatus = BitVec.ofNat 16 status
    let codes : List (Instr × Nat) := [(.partitionRelease, 1), (.keyExchange, 2), (.weightKey, 3), (.pageExport, 4), (.pageImport, 5),
      (.sealedTransferIn, 6), (.sealedTransferOut, 7), (.attestation, 8), (.certificateRead, 9), (.faultRecordRead, 10),
      (.collectiveGroup, 11)]
    s.mboxBusy = true → s.linkUp = true →
    (∀ x ∈ codes, cmdCode ws = x.2 →
      (∃ t, exec x.1 s = .next t ∧ t.mboxBusy = false ∧
        (x.2 ≠ 5 → t.streams = s.streams ∧ t.crews = s.crews ∧ t.gangs = s.gangs)) ∧
      (s.ready = false → (x.2 ∉ [8, 9, 10] ∨ s.noFirmware = true) → exec x.1 s = .next { s with mboxBusy := false }) ∧
      (s.ready = true → bits (wordAt ws 0) 51 0 ≠ 0 → ∃ t, exec x.1 s = .next t ∧ ends t 0xFFFF ∧ t.mem = s.mem ∧ t.hostMem = s.hostMem)) ∧
    ((cmdCode ws = 0 ∨ 11 < cmdCode ws) → s.ready = true → exec .unknownCommand s = .next (s.endCommand 0xFFFF)) ∧
    ((cmdCode ws = 0 ∨ 11 < cmdCode ws) → s.ready = false → exec .unknownCommand s = .next { s with mboxBusy := false }) ∧
    (s.ready = true →
      (cmdCode ws = 1 → operandsOnly ws true [(1, 63, 0), (2, 63, 0), (3, 10, 0), (3, 14, 12), (4, 45, 0), (5, 39, 0), (6, 31, 0)] = true →
        let ranges := s.rangeList (wordAt ws 4) (min 4 (bits (wordAt ws 3) 14 12))
        (s.releaseOverlap k (wordAt ws 1) (wordAt ws 2) = true → exec .partitionRelease s = .next (s.endCommand 1)) ∧
        (s.releaseOverlap k (wordAt ws 1) (wordAt ws 2) = false → s.releaseBad k ws ranges = true →
          exec .partitionRelease s = .next (s.endCommand 2)) ∧
        (s.releaseOverlap k (wordAt ws 1) (wordAt ws 2) = false → s.releaseBad k ws ranges = false →
          exec .partitionRelease s = .next ((s.releasePart k ws ranges).endCommand 0))) ∧
      (cmdCode ws = 2 → operandsOnly ws true [(1, 45, 0)] = true →
        (((s.part k).isSet = false ∨ (s.part k).exchanged = true ∨ (s.part k).repNonce = []) →
          exec .keyExchange s = .next (s.endCommand 1)) ∧
        ((s.part k).isSet = true → (s.part k).exchanged = false → (s.part k).repNonce ≠ [] →
          let p := s.part k
          let ss := fitBytes 32 (Config.mlkemDecap p.encapKey (rdBytes s.hostMem (wordAt ws 1) 1088))
          let key (purpose : String) (n : Nat) : List Byte := derivedKey ss purpose p.repNonce p.partcfg n
          ∃ t, exec .keyExchange s = .next t ∧ ends t 0 ∧ (t.part k).exchanged = true ∧ (t.part k).xferKey = key "XFER" 32 ∧
            (bitOf p.partcfg.toNat 7 = true → (t.part k).released = true ∧ (t.part k).memKey = key "MEMX" 64 ++ key "MEMT" 32 ∧
              (t.part k).ctxKey = key "CTXK" 32) ∧
            (bitOf p.partcfg.toNat 7 = false → (t.part k).released = p.released ∧ (t.part k).memKey = p.memKey ∧
              (t.part k).ctxKey = p.ctxKey) ∧
            (∀ j, j ≠ k → t.part j = s.part j) ∧ t.mem = s.mem ∧ t.hostMem = s.hostMem)) ∧
      (cmdCode ws = 3 → operandsOnly ws true [(1, 45, 0)] = true →
        ((s.part k).xferKey = [] → ∃ t, exec .weightKey s = .next t ∧ ends t 1 ∧ t.mem = s.mem ∧ t.parts = s.parts) ∧
        (let m := rdBytes s.hostMem (wordAt ws 1) 64
         let cut (a n : Nat) : List Byte := (m.drop a).take n
         let idx := leNat (cut 0 1)
         (s.part k).xferKey ≠ [] → idx < 16 → leNat (cut 1 3) = 0 →
         exec .weightKey s = .next (match Config.gcmOpen (s.part k).xferKey (cut 4 12) [] (cut 16 32) (cut 48 16) with
           | some key => (s.updPart k fun p => { p with wkeys := Tab.put idx (fitBytes 32 key) p.wkeys }).endCommand 0
           | none => (s.recordFault 0 k 9 0 0 0 0 0 0 0 0 true).endCommand 1))) ∧
      (cmdCode ws = 4 → operandsOnly ws true [(1, 63, 0), (2, 63, 0), (3, 1, 0), (4, 45, 0)] = true →
        (canonical (wordAt ws 2) = false → exec .pageExport s = .next (s.endCommand 0xFFFF)) ∧
        (let page := w64 (wordAt ws 2)
         let big := wordAt ws 3 == 1
         let size := if big then 2 ^ 21 else 2 ^ 16
         let p := s.part k
         let old := p.evicted page
         wordAt ws 3 < 2 → canonical (wordAt ws 2) = true → wordAt ws 2 % size = 0 → (old.map fun x => x.2.1).getD false = false →
         ((old.map fun x => x.2.2.2).getD false = true ∨ (p.evict.filter fun e => e.2.2.1 || e.2.2.2.2).length < 2 ^ 20) →
         ∀ c v pa w, s.readChain k (w64 (wordAt ws 1)) = (some c, v) → v.frameOf k (va56 page.toNat) big = (some pa, w) →
         let fdom := effFDOM ((c.links.head?.map (·.cfg)).getD 0)
         let cores := (List.range 256).filter fun i => bitOf p.partclu.toNat (clusterOf i) && (Tab.find i w.cores).isSome
         let x := (cores.foldl (fun s i => s.release i 6) w).physRead (pa % 2 ^ 40) size
         let version := ((old.map Prod.fst).getD 0 + 1) % 2 ^ 32
         let head := blobHead k fdom big page version (x.2.part k).nonce
         let sealed_ := Config.gcmSeal (x.2.part k).ctxKey (leBytes 12 (x.2.part k).nonce) (Machine.wordBytes head) x.1
         ∃ t, exec .pageExport s = .next t ∧ ends t 0 ∧ (t.part k).evicted page = some (version, false, fdom, true) ∧
           (t.part k).nonce = (x.2.part k).nonce + 1 ∧ t.mem = x.2.mem ∧
           t.hostMem = wrBytes x.2.hostMem (wordAt ws 4)
             (Machine.wordBytes head ++ fitBytes 16 sealed_.2 ++ List.replicate 8 0 ++ fitBytes size sealed_.1))) ∧
      (cmdCode ws = 5 → operandsOnly ws true [(1, 39, 0), (2, 45, 0)] = true →
        (s.populated < wordAt ws 1 → exec .pageImport s = .next (s.endCommand 0xFFFF)) ∧
        (let hb := rdBytes s.hostMem (wordAt ws 2) 64
         let h (i : Nat) : Nat := wordAt (dwords 8 hb) i
         let big := bits (h 0) 35 34 == 1
         let size := if big then 2 ^ 21 else 2 ^ 16
         let page := w64 (h 1)
         let fails (n : Nat) : State := (s.failImport k (wordAt ws 1) size page (bits (h 0) 43 36) n).endCommand n
         wordAt ws 1 % size = 0 → wordAt ws 1 + size ≤ s.populated →
         bits (h 0) 63 48 = 1 → bits (h 0) 47 44 = k → bits (h 0) 35 34 < 2 → bits (h 0) 33 0 = 0 → bits (h 2) 31 0 = 0 →
         bits (h 4) 63 32 = 0 → h 7 = 0 →
         exec .pageImport s = .next (match Config.gcmOpen (s.part k).ctxKey (leBytes 12 (h 3 + bits (h 4) 31 0 * 2 ^ 64)) (hb.take 40)
             (rdBytes s.hostMem (wordAt ws 2 + 64) size) ((hb.drop 40).take 16), (s.part k).evicted page with
           | none, _ => fails 1
           | some _, none => fails 3
           | some plain, some (v, q, f, out) =>
             if q then fails 4 else if out = false then fails 3 else if v ≠ bits (h 2) 63 32 then fails 2
             else
               let bytes := ((List.range size).map (wordAt ws 1 + ·)).zip (fitBytes size plain)
               ((((s.noteHost (sigOf (bytes.map Prod.fst))).physWrite bytes).updPart k fun p => p.putEvict page (v, false, f, false))).endCommand 0))) ∧
      (cmdCode ws = 6 → operandsOnly ws true [(1, 39, 0), (2, 45, 0)] = true →
        ((s.part k).xferKey = [] → exec .sealedTransferIn s = .next (s.endCommand 1)) ∧
        (let pa := wordAt ws 1
         let b := rdBytes s.hostMem (wordAt ws 2) (4096 + 28)
         (s.part k).xferKey ≠ [] → s.transferOk k pa = true →
         exec .sealedTransferIn s = .next (match Config.gcmOpen (s.part k).xferKey ((b.drop 4096).take 12) (transferAad k pa 0) (b.take 4096)
             ((b.drop 4108).take 16) with
           | none => s.endCommand 1
           | some plain =>
             let ws := ((List.range 4096).map (pa + ·)).zip (fitBytes 4096 plain)
             ((s.noteHost (sigOf (ws.map Prod.fst))).physWrite ws).endCommand 0))) ∧
      (cmdCode ws = 7 → operandsOnly ws true [(1, 39, 0), (2, 45, 0)] = true →
        ((s.part k).xferKey = [] → exec .sealedTransferOut s = .next (s.endCommand 1)) ∧
        ((s.part k).xferKey ≠ [] → s.transferOk k (wordAt ws 1) = true →
          ∃ t, exec .sealedTransferOut s = .next t ∧ ends t 0 ∧ (t.part k).nonce = (s.part k).nonce + 1)) ∧
      (cmdCode ws = 8 → operandsOnly ws true [(1, 45, 0), (2, 45, 0)] = true →
        ∃ t, exec .attestation s = .next t ∧ ends t 0 ∧ (t.part k).repNonce = rdBytes s.hostMem (wordAt ws 1) 32 ∧ t.mem = s.mem) ∧
      (cmdCode ws = 9 → operandsOnly ws false [(1, 45, 0)] = true →
        exec .certificateRead s =
          .next ((s.toHost (wordAt ws 1) (leBytes 4 Config.certificate.length ++ Config.certificate)).endCommand 0)) ∧
      (cmdCode ws = 10 → operandsOnly ws false [(1, 63, 0), (2, 15, 0), (3, 45, 0)] = true →
        let xs := s.recordFrom (bits (wordAt ws 1) 63 32) (min 8192 (bits (wordAt ws 1) 31 0)) (wordAt ws 2)
        exec .faultRecordRead s = .next ((s.toHost (wordAt ws 3) (xs.flatMap fun e => Machine.wordBytes e.words)).endCommand xs.length)) ∧
      (cmdCode ws = 11 → operandsOnly ws true [(1, 15, 0), (2, 45, 0), (3, 10, 0)] = true →
        ((256 ≤ wordAt ws 1 ∨ wordAt ws 3 < 2 ∨ 1024 < wordAt ws 3) → exec .collectiveGroup s = .next (s.endCommand 1)) ∧
        (wordAt ws 1 < 256 → 2 ≤ wordAt ws 3 → wordAt ws 3 ≤ 1024 →
          ∃ t, exec .collectiveGroup s = .next t ∧ ends t 0 ∧ t.mem = s.mem ∧
            (Tab.get [] (t.part k).groups (wordAt ws 1)).length = wordAt ws 3)))

/-- Islands switch rails, power down and wake; droop responses begin and end; energy counters are taken up each millisecond;
telemetry frames and their absence set the level, and a level takes effect on a partition's gangs. Model's choices: log
entries 9, 79 and 80. -/
def Obligations.PowerEventsHappen : Prop :=
  ∀ s : State,
    let e := s.ev
    let c := s.cluster e.n0
    (c.island = .switching →
      exec .railSwitchDone s = .next (s.setCluster e.n0
        { c with island := .running, railNow := bitOf c.islctl.toNat 0, maskTill := s.now + 20 })) ∧
    (e.n0 < 64 → (∀ p ∈ s.gangs, clusterOf p.2.core ≠ e.n0) → bitOf c.islctl.toNat 1 = true → c.emptyAt + 100000 ≤ s.now →
      (c.island = .running ∨ c.island = .retention) → s.isRetired e.n0 = false →
      ∃ t, exec .islandPowerDown s = .next t ∧ (t.cluster e.n0).island = .off ∧
        (∀ j, j < 4 → (t.core (4 * e.n0 + j)).frames = [] ∧ (t.core (4 * e.n0 + j)).tlb = (s.core (4 * e.n0 + j)).tlb) ∧
        t.streams = s.streams ∧ t.gangs = s.gangs) ∧
    (∀ cl, s.wakeQ.find? (fun c => c / 16 == e.n0) = some cl → (s.cluster cl).island = .off →
      (s.clusters.filter fun c => c.1 / 16 == e.n0 && c.2.island == .waking).length < 4 →
      ∃ t, exec .islandWakeStart s = .next t ∧ (t.cluster cl).island = .waking ∧ t.wakeQ = s.wakeQ.filter (· != cl) ∧
        t.streams = s.streams) ∧
    (c.island = .waking → exec .islandWakeDone s =
      .next (s.setCluster e.n0 { c with island := .running, railNow := bitOf c.islctl.toNat 0, emptyAt := s.now })) ∧
    (s.energyMs < s.now / 1000000 →
      ∃ t, exec .energyUpdate s = .next t ∧ t.energyMs = s.now / 1000000 ∧ t.streams = s.streams ∧ t.gangs = s.gangs ∧
        (∀ n x, Tab.find n s.nodes = some x → (t.node n).energyMj = wholeMj x.energyPj) ∧
        ∀ k, (t.cluster k).strikes = 0) ∧
    (e.n0 < 64 → bitOf c.droopctl.toNat 31 = true → (c.island = .running ∨ c.island = .retention) → c.maskTill ≤ s.now →
      2 * bits c.droopctl.toNat 7 0 < e.n1 →
      exec .droopTrip s = .next (s.setCluster e.n0 { c with droopcnt := c.droopcnt + 1, droop := .tripped })) ∧
    (let n := bits c.droopctl.toNat 15 12
     let h := bits c.droopctl.toNat 23 16
     (c.droop = .tripped → n ≠ 0 → c.startCycle.droop = .stretch n ∧ c.startCycle.length = c.period * 3 / 2) ∧
     (∀ m, c.droop = .stretch m → 0 < m → c.startCycle.droop = .stretch m ∧ c.startCycle.length = c.period * 3 / 2 ∧
       c.endCycle.droop = .stretch (m - 1) ∧ c.endCycle.cycles = c.cycles + 1) ∧
     ((c.droop = .stretch 0 ∨ c.droop = .tripped ∧ n = 0) → h ≠ 0 → c.startCycle.droop = .halve 0 ∧ c.startCycle.length = c.period) ∧
     (∀ m, c.droop = .halve m → (m < h → c.startCycle.droop = .halve m ∧ c.startCycle.length = c.period ∧
       c.endCycle.droop = .halve (m + 1) ∧ (c.issues = true ↔ m % 2 = 0)) ∧ (h ≤ m → c.startCycle.droop = .none))) ∧
    (c.droop = .stretch 0 → exec .droopStretchEnd s = .next (s.setCluster e.n0 { c with droop := c.halving })) ∧
    (∀ n, c.droop = .halve n → bits c.droopctl.toNat 23 16 ≤ n → exec .droopHalveEnd s = .next (s.setCluster e.n0 { c with droop := .none })) ∧
    (s.noFirmware = false →
      (frameValid e.bytes = false → exec .telemetryFrame s = .next { s with
        telstat1 := w32 (putBits s.telstat1.toNat 23 8 ((bits s.telstat1.toNat 23 8 + 1) % 65536)) }) ∧
      (frameValid e.bytes = true →
        let at_ (i n : Nat) : Nat := leNat ((e.bytes.drop i).take n)
        let target := s.frameTarget (at_ 2 2) (at_ 4 2) (at_ 6 1)
        ∃ t, exec .telemetryFrame s = .next t ∧ t.telstat0 = w32 (at_ 2 2 * 65536 + at_ 4 2) ∧ t.shedEff = s.shedcfg ∧
          t.frameAt = s.now ∧ (s.pkgLevel < target → target < 8 → t.pkgLevel = target) ∧ t.streams = s.streams ∧ t.gangs = s.gangs)) ∧
    (s.noFirmware = false → bitOf s.telstat1.toNat 7 = false → s.frameAt + 50000 * bits s.shedEff.toNat 15 8 ≤ s.now →
      ∃ t, exec .telemetryFailsafe s = .next t ∧ bitOf t.telstat1.toNat 7 = true ∧
        t.frameAt = s.frameAt + 50000 * bits s.shedEff.toNat 15 8 ∧
        (s.pkgLevel < bits s.shedEff.toNat 2 0 → t.pkgLevel = bits s.shedEff.toNat 2 0) ∧ t.streams = s.streams) ∧
    ((s.part e.n0).released = true → (s.part e.n0).applied < (s.part e.n0).level →
      ∃ t, exec .shedLevelApply s = .next t ∧ (t.part e.n0).applied = (s.part e.n0).level ∧ t.streams = s.streams ∧
        ∀ g x, Tab.find g s.gangs = some x → x.part = e.n0 → x.live = true → effCLASS x.effcfg < (s.part e.n0).level →
          (t.gang g).shedHold = true) ∧
    (s.noFirmware = false → bitOf s.telstat1.toNat 7 = true → s.frameAt + 50000 ≤ s.now →
      exec .failSafeFrameTime s = .next ({ s with frameAt := s.frameAt + 50000 }.follow (bits s.shedEff.toNat 2 0)))
end

