-- ==== Sys2Proof/Laws/Table.lean ====
section
/-! SUPPORT. The laws of sparse tables and byte memories: a read after a write, what a write leaves alone, and the canonical
form that every write keeps. -/

namespace Sys2Proof.Machine

variable {α : Type}

theorem Tab.find_put_same (k : Nat) (a : α) (t : Tab α) : Tab.find k (Tab.put k a t) = some a := by
  induction t with
  | nil => simp [Tab.put, Tab.find]
  | cons p t ih =>
    obtain ⟨j, b⟩ := p
    simp only [Tab.put]
    split
    · simp [Tab.find]
    · split
      · simp [Tab.find]
      · rename_i h1 h2
        simp [Tab.find, ih, Ne.symm h2]

theorem Tab.find_put_other {k j : Nat} (a : α) (t : Tab α) (h : j ≠ k) : Tab.find j (Tab.put k a t) = Tab.find j t := by
  induction t with
  | nil => simp [Tab.put, Tab.find, Ne.symm h]
  | cons p t ih =>
    obtain ⟨i, b⟩ := p
    simp only [Tab.put]
    split
    · simp [Tab.find, Ne.symm h]
    · split
      · rename_i h1 h2; subst h2; simp [Tab.find, Ne.symm h]
      · simp only [Tab.find]; split <;> simp_all

@[simp] theorem Tab.get_put_same (d : α) (k : Nat) (a : α) (t : Tab α) : Tab.get d (Tab.put k a t) k = a := by
  simp [Tab.get, Tab.find_put_same]

theorem Tab.get_put_other (d : α) {k j : Nat} (a : α) (t : Tab α) (h : j ≠ k) :
    Tab.get d (Tab.put k a t) j = Tab.get d t j := by
  simp [Tab.get, Tab.find_put_other a t h]

/-- A table whose keys rise lists nothing below its bound. -/
theorem Tab.find_below {lo k : Nat} {t : Tab α} (h : risingFrom lo t = true) (hk : k < lo) : Tab.find k t = none := by
  induction t generalizing lo with
  | nil => rfl
  | cons p t ih =>
    obtain ⟨j, b⟩ := p
    simp only [risingFrom, Bool.and_eq_true, decide_eq_true_eq] at h
    have hj : j ≠ k := by omega
    simp [Tab.find, hj]
    exact ih h.2 (by omega)

theorem risingFrom_mono {lo lo' : Nat} {t : Tab α} (h : risingFrom lo t = true) (hl : lo' ≤ lo) : risingFrom lo' t = true := by
  cases t with
  | nil => rfl
  | cons p t =>
    simp only [risingFrom, Bool.and_eq_true, decide_eq_true_eq] at h ⊢
    exact ⟨by omega, h.2⟩

theorem risingFrom_put {lo k : Nat} (a : α) {t : Tab α} (h : risingFrom lo t = true) (hk : lo ≤ k) :
    risingFrom lo (Tab.put k a t) = true := by
  induction t generalizing lo with
  | nil => simp [Tab.put, risingFrom, hk]
  | cons p t ih =>
    obtain ⟨j, b⟩ := p
    simp only [risingFrom, Bool.and_eq_true, decide_eq_true_eq] at h
    simp only [Tab.put]
    split
    · simp only [risingFrom, Bool.and_eq_true, decide_eq_true_eq]
      exact ⟨hk, by omega, h.2⟩
    · split
      · rename_i h1 h2; subst h2
        simp only [risingFrom, Bool.and_eq_true, decide_eq_true_eq]
        exact ⟨hk, h.2⟩
      · simp only [risingFrom, Bool.and_eq_true, decide_eq_true_eq]
        exact ⟨h.1, ih h.2 (by omega)⟩

theorem risingFrom_del {lo k : Nat} {t : Tab α} (h : risingFrom lo t = true) : risingFrom lo (Tab.del k t) = true := by
  induction t generalizing lo with
  | nil => rfl
  | cons p t ih =>
    obtain ⟨j, b⟩ := p
    simp only [risingFrom, Bool.and_eq_true, decide_eq_true_eq] at h
    simp only [Tab.del]
    split
    · exact risingFrom_mono (ih h.2) (by omega)
    · simp only [risingFrom, Bool.and_eq_true, decide_eq_true_eq]
      exact ⟨h.1, ih h.2⟩

theorem risingFrom_filter {lo : Nat} (f : Nat × α → Bool) {t : Tab α} (h : risingFrom lo t = true) :
    risingFrom lo (t.filter f) = true := by
  induction t generalizing lo with
  | nil => rfl
  | cons p t ih =>
    obtain ⟨j, b⟩ := p
    simp only [risingFrom, Bool.and_eq_true, decide_eq_true_eq] at h
    simp only [List.filter_cons]
    split
    · simp only [risingFrom, Bool.and_eq_true, decide_eq_true_eq]
      exact ⟨h.1, ih h.2⟩
    · exact ih (risingFrom_mono h.2 (by omega))

theorem Tab.mem_put {k : Nat} {a : α} {t : Tab α} {p : Nat × α} (h : p ∈ Tab.put k a t) : p = (k, a) ∨ p ∈ t := by
  induction t with
  | nil => simpa [Tab.put] using h
  | cons q t ih =>
    obtain ⟨j, b⟩ := q
    simp only [Tab.put] at h
    split at h
    · simpa using h
    · split at h
      · simp only [List.mem_cons] at h ⊢; tauto
      · simp only [List.mem_cons] at h ⊢
        rcases h with h | h
        · tauto
        · rcases ih h with h | h <;> tauto

theorem Tab.mem_del {k : Nat} {t : Tab α} {p : Nat × α} (h : p ∈ Tab.del k t) : p ∈ t := by
  induction t with
  | nil => simp [Tab.del] at h
  | cons q t ih =>
    obtain ⟨j, b⟩ := q
    simp only [Tab.del] at h
    split at h
    · exact List.mem_cons_of_mem _ (ih h)
    · simp only [List.mem_cons] at h ⊢
      rcases h with h | h
      · tauto
      · exact .inr (ih h)

theorem Tab.find_del_same (k : Nat) (t : Tab α) : Tab.find k (Tab.del k t) = none := by
  induction t with
  | nil => rfl
  | cons p t ih =>
    obtain ⟨j, b⟩ := p
    simp only [Tab.del]
    split
    · exact ih
    · rename_i hj; simp [Tab.find, hj, ih]

theorem Tab.find_del_other {k j : Nat} (t : Tab α) (h : j ≠ k) : Tab.find j (Tab.del k t) = Tab.find j t := by
  induction t with
  | nil => rfl
  | cons p t ih =>
    obtain ⟨i, b⟩ := p
    simp only [Tab.del]
    split
    · rename_i hi; subst hi; simp [Tab.find, Ne.symm h, ih]
    · simp only [Tab.find]; split <;> simp_all

/-- A table with a default reads what was set. -/
theorem Tab.get_set [DecidableEq α] (d : α) (t : Tab α) (k j : Nat) (a : α) :
    Tab.get d (Tab.set d t k a) j = if j = k then a else Tab.get d t j := by
  unfold Tab.set Tab.get
  by_cases hj : j = k
  · subst hj
    split
    · rename_i h; simp [Tab.find_del_same, h]
    · simp [Tab.find_put_same]
  · split
    · simp [Tab.find_del_other t hj]
    · simp [Tab.find_put_other a t hj]

/-! Byte memories. -/

theorem Memory.wf_iff (m : List Host.Cell) :
    Memory.wf m = true ↔ risingFrom 0 m = true ∧ ∀ c ∈ m, c.2 ≠ 0 := by
  simp [Memory.wf, List.all_eq_true]

theorem Memory.wf_nil : Memory.wf [] = true := rfl

/-- Writing a byte keeps the canonical form. -/
theorem Memory.wf_wrByte {m : List Host.Cell} (h : Memory.wf m = true) (a : Nat) (b : Byte) :
    Memory.wf (wrByte m a b) = true := by
  rw [Memory.wf_iff] at h ⊢
  unfold wrByte Tab.set
  split
  · exact ⟨risingFrom_del h.1, fun c hc => h.2 c (Tab.mem_del hc)⟩
  · rename_i hb
    refine ⟨risingFrom_put b h.1 (Nat.zero_le _), fun c hc => ?_⟩
    rcases Tab.mem_put hc with rfl | hc
    · exact hb
    · exact h.2 c hc

/-- Writing bytes keeps the canonical form. -/
theorem Memory.wf_wrBytes {m : List Host.Cell} (h : Memory.wf m = true) (a : Nat) (bs : List Byte) :
    Memory.wf (wrBytes m a bs) = true := by
  induction bs generalizing m a with
  | nil => exact h
  | cons b bs ih => exact ih (Memory.wf_wrByte h a b) (a + 1)

/-- Dropping bytes keeps the canonical form. -/
theorem Memory.wf_filter {m : List Host.Cell} (h : Memory.wf m = true) (f : Host.Cell → Bool) :
    Memory.wf (m.filter f) = true := by
  rw [Memory.wf_iff] at h ⊢
  exact ⟨risingFrom_filter f h.1, fun c hc => h.2 c (List.mem_of_mem_filter hc)⟩

/-- Writing a list of bytes, one at a time, keeps the canonical form. -/
theorem Memory.wf_foldl_wrByte {β : Type} (f : β → Nat × Byte) (xs : List β) {m : List Host.Cell} (h : Memory.wf m = true) :
    Memory.wf (xs.foldl (fun m x => wrByte m (f x).1 (f x).2) m) = true := by
  induction xs generalizing m with
  | nil => exact h
  | cons x xs ih => exact ih (Memory.wf_wrByte h _ _)

/-- A byte read where it was written. -/
theorem rdByte_wrByte_same (m : List Host.Cell) (a : Nat) (b : Byte) : rdByte (wrByte m a b) a = b := by
  unfold rdByte wrByte Tab.set Tab.get
  split
  · rename_i hb; simp [Tab.find_del_same, hb]
  · simp [Tab.find_put_same]

/-- A byte read elsewhere is as it was. -/
theorem rdByte_wrByte_other (m : List Host.Cell) {a c : Nat} (b : Byte) (h : c ≠ a) : rdByte (wrByte m a b) c = rdByte m c := by
  unfold rdByte wrByte Tab.set Tab.get
  split
  · simp [Tab.find_del_other m h]
  · simp [Tab.find_put_other b m h]

/-- Bytes written from an address leave the others. -/
theorem rdByte_wrBytes_other (m : List Host.Cell) (a c : Nat) (bs : List Byte) (h : c < a ∨ a + bs.length ≤ c) :
    rdByte (wrBytes m a bs) c = rdByte m c := by
  induction bs generalizing m a with
  | nil => rfl
  | cons b bs ih =>
    simp only [List.length_cons] at h
    simp only [wrBytes]
    rw [ih _ (a + 1) (by omega), rdByte_wrByte_other _ _ (by omega)]

/-- Bytes written from an address read back. -/
theorem rdByte_wrBytes_same (m : List Host.Cell) (a : Nat) (bs : List Byte) (i : Nat) (hi : i < bs.length) :
    rdByte (wrBytes m a bs) (a + i) = bs.getD i 0 := by
  induction bs generalizing m a i with
  | nil => simp at hi
  | cons b bs ih =>
    simp only [wrBytes]
    cases i with
    | zero =>
      rw [rdByte_wrBytes_other _ _ _ _ (by omega)]
      simpa using rdByte_wrByte_same m a b
    | succ i =>
      have := ih (wrByte m a b) (a + 1) i (by simpa using hi)
      simpa [Nat.add_assoc, Nat.add_comm 1 i] using this

end Sys2Proof.Machine
end

