-- ==== Sys2Proof/Laws/State.lean ====
section
/-! SUPPORT. One lemma per field of State per update, so that no proof unfolds a record update: what each setter leaves and what it
sets. An upd is a set (State.upd…_eq). -/

namespace Sys2Proof.Machine

/-! setStream. -/

@[simp] theorem State.updStream_eq (s : State) (k : Nat) (f : Stream → Stream) : s.updStream k f = s.setStream k (f (s.stream k)) := rfl
@[simp] theorem State.setStream_timestamp (s : State) (k : Nat) (x : Stream) : (s.setStream k x).timestamp = s.timestamp := rfl
@[simp] theorem State.setStream_streams (s : State) (k : Nat) (x : Stream) : (s.setStream k x).streams = Tab.put k x s.streams := rfl
@[simp] theorem State.setStream_crews (s : State) (k : Nat) (x : Stream) : (s.setStream k x).crews = s.crews := rfl
@[simp] theorem State.setStream_gangs (s : State) (k : Nat) (x : Stream) : (s.setStream k x).gangs = s.gangs := rfl
@[simp] theorem State.setStream_cores (s : State) (k : Nat) (x : Stream) : (s.setStream k x).cores = s.cores := rfl
@[simp] theorem State.setStream_clusters (s : State) (k : Nat) (x : Stream) : (s.setStream k x).clusters = s.clusters := rfl
@[simp] theorem State.setStream_dies (s : State) (k : Nat) (x : Stream) : (s.setStream k x).dies = s.dies := rfl
@[simp] theorem State.setStream_mem (s : State) (k : Nat) (x : Stream) : (s.setStream k x).mem = s.mem := rfl
@[simp] theorem State.setStream_marks (s : State) (k : Nat) (x : Stream) : (s.setStream k x).marks = s.marks := rfl
@[simp] theorem State.setStream_counters (s : State) (k : Nat) (x : Stream) : (s.setStream k x).counters = s.counters := rfl
@[simp] theorem State.setStream_keyids (s : State) (k : Nat) (x : Stream) : (s.setStream k x).keyids = s.keyids := rfl
@[simp] theorem State.setStream_hostMem (s : State) (k : Nat) (x : Stream) : (s.setStream k x).hostMem = s.hostMem := rfl
@[simp] theorem State.setStream_msgs (s : State) (k : Nat) (x : Stream) : (s.setStream k x).msgs = s.msgs := rfl
@[simp] theorem State.setStream_parts (s : State) (k : Nat) (x : Stream) : (s.setStream k x).parts = s.parts := rfl
@[simp] theorem State.setStream_nodes (s : State) (k : Nat) (x : Stream) : (s.setStream k x).nodes = s.nodes := rfl
@[simp] theorem State.setStream_past (s : State) (k : Nat) (x : Stream) : (s.setStream k x).past = s.past := rfl
@[simp] theorem State.setStream_endRecs (s : State) (k : Nat) (x : Stream) : (s.setStream k x).endRecs = s.endRecs := rfl
@[simp] theorem State.setStream_pairs (s : State) (k : Nat) (x : Stream) : (s.setStream k x).pairs = s.pairs := rfl
@[simp] theorem State.setStream_colls (s : State) (k : Nat) (x : Stream) : (s.setStream k x).colls = s.colls := rfl
@[simp] theorem State.setStream_abandoned (s : State) (k : Nat) (x : Stream) : (s.setStream k x).abandoned = s.abandoned := rfl
@[simp] theorem State.setStream_failed (s : State) (k : Nat) (x : Stream) : (s.setStream k x).failed = s.failed := rfl
@[simp] theorem State.setStream_failures (s : State) (k : Nat) (x : Stream) : (s.setStream k x).failures = s.failures := rfl
@[simp] theorem State.setStream_contexts (s : State) (k : Nat) (x : Stream) : (s.setStream k x).contexts = s.contexts := rfl
@[simp] theorem State.setStream_remotes (s : State) (k : Nat) (x : Stream) : (s.setStream k x).remotes = s.remotes := rfl
@[simp] theorem State.setStream_opData (s : State) (k : Nat) (x : Stream) : (s.setStream k x).opData = s.opData := rfl
@[simp] theorem State.setStream_opBad (s : State) (k : Nat) (x : Stream) : (s.setStream k x).opBad = s.opBad := rfl
@[simp] theorem State.setStream_foreign (s : State) (k : Nat) (x : Stream) : (s.setStream k x).foreign = s.foreign := rfl
@[simp] theorem State.setStream_foreignVoid (s : State) (k : Nat) (x : Stream) : (s.setStream k x).foreignVoid = s.foreignVoid := rfl
@[simp] theorem State.setStream_provisional (s : State) (k : Nat) (x : Stream) : (s.setStream k x).provisional = s.provisional := rfl
@[simp] theorem State.setStream_notices (s : State) (k : Nat) (x : Stream) : (s.setStream k x).notices = s.notices := rfl
@[simp] theorem State.setStream_releases (s : State) (k : Nat) (x : Stream) : (s.setStream k x).releases = s.releases := rfl
@[simp] theorem State.setStream_relSeq (s : State) (k : Nat) (x : Stream) : (s.setStream k x).relSeq = s.relSeq := rfl
@[simp] theorem State.setStream_fabricAck (s : State) (k : Nat) (x : Stream) : (s.setStream k x).fabricAck = s.fabricAck := rfl
@[simp] theorem State.setStream_ing (s : State) (k : Nat) (x : Stream) : (s.setStream k x).ing = s.ing := rfl
@[simp] theorem State.setStream_record (s : State) (k : Nat) (x : Stream) : (s.setStream k x).record = s.record := rfl
@[simp] theorem State.setStream_recSeq (s : State) (k : Nat) (x : Stream) : (s.setStream k x).recSeq = s.recSeq := rfl
@[simp] theorem State.setStream_held (s : State) (k : Nat) (x : Stream) : (s.setStream k x).held = s.held := rfl
@[simp] theorem State.setStream_lost (s : State) (k : Nat) (x : Stream) : (s.setStream k x).lost = s.lost := rfl
@[simp] theorem State.setStream_retired (s : State) (k : Nat) (x : Stream) : (s.setStream k x).retired = s.retired := rfl
@[simp] theorem State.setStream_lasting (s : State) (k : Nat) (x : Stream) : (s.setStream k x).lasting = s.lasting := rfl
@[simp] theorem State.setStream_channels (s : State) (k : Nat) (x : Stream) : (s.setStream k x).channels = s.channels := rfl
@[simp] theorem State.setStream_health (s : State) (k : Nat) (x : Stream) : (s.setStream k x).health = s.health := rfl
@[simp] theorem State.setStream_seeds (s : State) (k : Nat) (x : Stream) : (s.setStream k x).seeds = s.seeds := rfl
@[simp] theorem State.setStream_keys (s : State) (k : Nat) (x : Stream) : (s.setStream k x).keys = s.keys := rfl
@[simp] theorem State.setStream_deviceKey (s : State) (k : Nat) (x : Stream) : (s.setStream k x).deviceKey = s.deviceKey := rfl
@[simp] theorem State.setStream_firmware (s : State) (k : Nat) (x : Stream) : (s.setStream k x).firmware = s.firmware := rfl
@[simp] theorem State.setStream_mboxlo (s : State) (k : Nat) (x : Stream) : (s.setStream k x).mboxlo = s.mboxlo := rfl
@[simp] theorem State.setStream_mboxhi (s : State) (k : Nat) (x : Stream) : (s.setStream k x).mboxhi = s.mboxhi := rfl
@[simp] theorem State.setStream_mboxAddr (s : State) (k : Nat) (x : Stream) : (s.setStream k x).mboxAddr = s.mboxAddr := rfl
@[simp] theorem State.setStream_mboxBusy (s : State) (k : Nat) (x : Stream) : (s.setStream k x).mboxBusy = s.mboxBusy := rfl
@[simp] theorem State.setStream_mboxStatus (s : State) (k : Nat) (x : Stream) : (s.setStream k x).mboxStatus = s.mboxStatus := rfl
@[simp] theorem State.setStream_aperbase (s : State) (k : Nat) (x : Stream) : (s.setStream k x).aperbase = s.aperbase := rfl
@[simp] theorem State.setStream_fabid (s : State) (k : Nat) (x : Stream) : (s.setStream k x).fabid = s.fabid := rfl
@[simp] theorem State.setStream_bustat (s : State) (k : Nat) (x : Stream) : (s.setStream k x).bustat = s.bustat := rfl
@[simp] theorem State.setStream_bring (s : State) (k : Nat) (x : Stream) : (s.setStream k x).bring = s.bring := rfl
@[simp] theorem State.setStream_routes (s : State) (k : Nat) (x : Stream) : (s.setStream k x).routes = s.routes := rfl
@[simp] theorem State.setStream_ready (s : State) (k : Nat) (x : Stream) : (s.setStream k x).ready = s.ready := rfl
@[simp] theorem State.setStream_telcfg (s : State) (k : Nat) (x : Stream) : (s.setStream k x).telcfg = s.telcfg := rfl
@[simp] theorem State.setStream_shedcfg (s : State) (k : Nat) (x : Stream) : (s.setStream k x).shedcfg = s.shedcfg := rfl
@[simp] theorem State.setStream_shedEff (s : State) (k : Nat) (x : Stream) : (s.setStream k x).shedEff = s.shedEff := rfl
@[simp] theorem State.setStream_curves (s : State) (k : Nat) (x : Stream) : (s.setStream k x).curves = s.curves := rfl
@[simp] theorem State.setStream_telstat0 (s : State) (k : Nat) (x : Stream) : (s.setStream k x).telstat0 = s.telstat0 := rfl
@[simp] theorem State.setStream_telstat1 (s : State) (k : Nat) (x : Stream) : (s.setStream k x).telstat1 = s.telstat1 := rfl
@[simp] theorem State.setStream_hyst (s : State) (k : Nat) (x : Stream) : (s.setStream k x).hyst = s.hyst := rfl
@[simp] theorem State.setStream_frameAt (s : State) (k : Nat) (x : Stream) : (s.setStream k x).frameAt = s.frameAt := rfl
@[simp] theorem State.setStream_wakeQ (s : State) (k : Nat) (x : Stream) : (s.setStream k x).wakeQ = s.wakeQ := rfl
@[simp] theorem State.setStream_linkReplays (s : State) (k : Nat) (x : Stream) : (s.setStream k x).linkReplays = s.linkReplays := rfl
@[simp] theorem State.setStream_linkFails (s : State) (k : Nat) (x : Stream) : (s.setStream k x).linkFails = s.linkFails := rfl
@[simp] theorem State.setStream_retraining (s : State) (k : Nat) (x : Stream) : (s.setStream k x).retraining = s.retraining := rfl
@[simp] theorem State.setStream_linkDown (s : State) (k : Nat) (x : Stream) : (s.setStream k x).linkDown = s.linkDown := rfl
@[simp] theorem State.setStream_portsDown (s : State) (k : Nat) (x : Stream) : (s.setStream k x).portsDown = s.portsDown := rfl
@[simp] theorem State.setStream_hostRead (s : State) (k : Nat) (x : Stream) : (s.setStream k x).hostRead = s.hostRead := rfl
@[simp] theorem State.setStream_hostTag (s : State) (k : Nat) (x : Stream) : (s.setStream k x).hostTag = s.hostTag := rfl
@[simp] theorem State.setStream_fabricRead (s : State) (k : Nat) (x : Stream) : (s.setStream k x).fabricRead = s.fabricRead := rfl
@[simp] theorem State.setStream_fabricTag (s : State) (k : Nat) (x : Stream) : (s.setStream k x).fabricTag = s.fabricTag := rfl
@[simp] theorem State.setStream_energyMs (s : State) (k : Nat) (x : Stream) : (s.setStream k x).energyMs = s.energyMs := rfl
@[simp] theorem State.setStream_agenda (s : State) (k : Nat) (x : Stream) : (s.setStream k x).agenda = s.agenda := rfl
@[simp] theorem State.setStream_ev (s : State) (k : Nat) (x : Stream) : (s.setStream k x).ev = s.ev := rfl
@[simp] theorem State.setStream_cur (s : State) (k : Nat) (x : Stream) : (s.setStream k x).cur = s.cur := rfl
@[simp] theorem State.setStream_word (s : State) (k : Nat) (x : Stream) : (s.setStream k x).word = s.word := rfl
@[simp] theorem State.setStream_consumed (s : State) (k : Nat) (x : Stream) : (s.setStream k x).consumed = s.consumed := rfl
@[simp] theorem State.setStream_predReads (s : State) (k : Nat) (x : Stream) : (s.setStream k x).predReads = s.predReads := rfl
@[simp] theorem State.setStream_stalled (s : State) (k : Nat) (x : Stream) : (s.setStream k x).stalled = s.stalled := rfl
@[simp] theorem State.setStream_free (s : State) (k : Nat) (x : Stream) : (s.setStream k x).free = s.free := rfl
@[simp] theorem State.setStream_turns (s : State) (k : Nat) (x : Stream) : (s.setStream k x).turns = s.turns := rfl
@[simp] theorem State.setStream_fresh (s : State) (k : Nat) (x : Stream) : (s.setStream k x).fresh = s.fresh := rfl
@[simp] theorem State.setStream_lateLoads (s : State) (k : Nat) (x : Stream) : (s.setStream k x).lateLoads = s.lateLoads := rfl
@[simp] theorem State.stream_setStream (s : State) (k : Nat) (x : Stream) : (s.setStream k x).stream k = x := by
  simp [State.stream, State.setStream]
theorem State.stream_setStream_other (s : State) {j k : Nat} (x : Stream) (h : j ≠ k) : (s.setStream k x).stream j = s.stream j := by
  simp [State.stream, State.setStream, Tab.get_put_other _ _ _ h]
@[simp] theorem State.crew_setStream (s : State) (j k : Nat) (x : Stream) : (s.setStream k x).crew j = s.crew j := rfl
@[simp] theorem State.gang_setStream (s : State) (j k : Nat) (x : Stream) : (s.setStream k x).gang j = s.gang j := rfl
@[simp] theorem State.core_setStream (s : State) (j k : Nat) (x : Stream) : (s.setStream k x).core j = s.core j := rfl
@[simp] theorem State.cluster_setStream (s : State) (j k : Nat) (x : Stream) : (s.setStream k x).cluster j = s.cluster j := rfl
@[simp] theorem State.die_setStream (s : State) (j k : Nat) (x : Stream) : (s.setStream k x).die j = s.die j := rfl
@[simp] theorem State.part_setStream (s : State) (j k : Nat) (x : Stream) : (s.setStream k x).part j = s.part j := rfl
@[simp] theorem State.node_setStream (s : State) (j k : Nat) (x : Stream) : (s.setStream k x).node j = s.node j := rfl
@[simp] theorem State.pair_setStream (s : State) (j k : Nat) (x : Stream) : (s.setStream k x).pair j = s.pair j := rfl

/-! setCrew. -/

@[simp] theorem State.updCrew_eq (s : State) (k : Nat) (f : Crew → Crew) : s.updCrew k f = s.setCrew k (f (s.crew k)) := rfl
@[simp] theorem State.setCrew_timestamp (s : State) (k : Nat) (x : Crew) : (s.setCrew k x).timestamp = s.timestamp := rfl
@[simp] theorem State.setCrew_streams (s : State) (k : Nat) (x : Crew) : (s.setCrew k x).streams = s.streams := rfl
@[simp] theorem State.setCrew_crews (s : State) (k : Nat) (x : Crew) : (s.setCrew k x).crews = Tab.put k x s.crews := rfl
@[simp] theorem State.setCrew_gangs (s : State) (k : Nat) (x : Crew) : (s.setCrew k x).gangs = s.gangs := rfl
@[simp] theorem State.setCrew_cores (s : State) (k : Nat) (x : Crew) : (s.setCrew k x).cores = s.cores := rfl
@[simp] theorem State.setCrew_clusters (s : State) (k : Nat) (x : Crew) : (s.setCrew k x).clusters = s.clusters := rfl
@[simp] theorem State.setCrew_dies (s : State) (k : Nat) (x : Crew) : (s.setCrew k x).dies = s.dies := rfl
@[simp] theorem State.setCrew_mem (s : State) (k : Nat) (x : Crew) : (s.setCrew k x).mem = s.mem := rfl
@[simp] theorem State.setCrew_marks (s : State) (k : Nat) (x : Crew) : (s.setCrew k x).marks = s.marks := rfl
@[simp] theorem State.setCrew_counters (s : State) (k : Nat) (x : Crew) : (s.setCrew k x).counters = s.counters := rfl
@[simp] theorem State.setCrew_keyids (s : State) (k : Nat) (x : Crew) : (s.setCrew k x).keyids = s.keyids := rfl
@[simp] theorem State.setCrew_hostMem (s : State) (k : Nat) (x : Crew) : (s.setCrew k x).hostMem = s.hostMem := rfl
@[simp] theorem State.setCrew_msgs (s : State) (k : Nat) (x : Crew) : (s.setCrew k x).msgs = s.msgs := rfl
@[simp] theorem State.setCrew_parts (s : State) (k : Nat) (x : Crew) : (s.setCrew k x).parts = s.parts := rfl
@[simp] theorem State.setCrew_nodes (s : State) (k : Nat) (x : Crew) : (s.setCrew k x).nodes = s.nodes := rfl
@[simp] theorem State.setCrew_past (s : State) (k : Nat) (x : Crew) : (s.setCrew k x).past = s.past := rfl
@[simp] theorem State.setCrew_endRecs (s : State) (k : Nat) (x : Crew) : (s.setCrew k x).endRecs = s.endRecs := rfl
@[simp] theorem State.setCrew_pairs (s : State) (k : Nat) (x : Crew) : (s.setCrew k x).pairs = s.pairs := rfl
@[simp] theorem State.setCrew_colls (s : State) (k : Nat) (x : Crew) : (s.setCrew k x).colls = s.colls := rfl
@[simp] theorem State.setCrew_abandoned (s : State) (k : Nat) (x : Crew) : (s.setCrew k x).abandoned = s.abandoned := rfl
@[simp] theorem State.setCrew_failed (s : State) (k : Nat) (x : Crew) : (s.setCrew k x).failed = s.failed := rfl
@[simp] theorem State.setCrew_failures (s : State) (k : Nat) (x : Crew) : (s.setCrew k x).failures = s.failures := rfl
@[simp] theorem State.setCrew_contexts (s : State) (k : Nat) (x : Crew) : (s.setCrew k x).contexts = s.contexts := rfl
@[simp] theorem State.setCrew_remotes (s : State) (k : Nat) (x : Crew) : (s.setCrew k x).remotes = s.remotes := rfl
@[simp] theorem State.setCrew_opData (s : State) (k : Nat) (x : Crew) : (s.setCrew k x).opData = s.opData := rfl
@[simp] theorem State.setCrew_opBad (s : State) (k : Nat) (x : Crew) : (s.setCrew k x).opBad = s.opBad := rfl
@[simp] theorem State.setCrew_foreign (s : State) (k : Nat) (x : Crew) : (s.setCrew k x).foreign = s.foreign := rfl
@[simp] theorem State.setCrew_foreignVoid (s : State) (k : Nat) (x : Crew) : (s.setCrew k x).foreignVoid = s.foreignVoid := rfl
@[simp] theorem State.setCrew_provisional (s : State) (k : Nat) (x : Crew) : (s.setCrew k x).provisional = s.provisional := rfl
@[simp] theorem State.setCrew_notices (s : State) (k : Nat) (x : Crew) : (s.setCrew k x).notices = s.notices := rfl
@[simp] theorem State.setCrew_releases (s : State) (k : Nat) (x : Crew) : (s.setCrew k x).releases = s.releases := rfl
@[simp] theorem State.setCrew_relSeq (s : State) (k : Nat) (x : Crew) : (s.setCrew k x).relSeq = s.relSeq := rfl
@[simp] theorem State.setCrew_fabricAck (s : State) (k : Nat) (x : Crew) : (s.setCrew k x).fabricAck = s.fabricAck := rfl
@[simp] theorem State.setCrew_ing (s : State) (k : Nat) (x : Crew) : (s.setCrew k x).ing = s.ing := rfl
@[simp] theorem State.setCrew_record (s : State) (k : Nat) (x : Crew) : (s.setCrew k x).record = s.record := rfl
@[simp] theorem State.setCrew_recSeq (s : State) (k : Nat) (x : Crew) : (s.setCrew k x).recSeq = s.recSeq := rfl
@[simp] theorem State.setCrew_held (s : State) (k : Nat) (x : Crew) : (s.setCrew k x).held = s.held := rfl
@[simp] theorem State.setCrew_lost (s : State) (k : Nat) (x : Crew) : (s.setCrew k x).lost = s.lost := rfl
@[simp] theorem State.setCrew_retired (s : State) (k : Nat) (x : Crew) : (s.setCrew k x).retired = s.retired := rfl
@[simp] theorem State.setCrew_lasting (s : State) (k : Nat) (x : Crew) : (s.setCrew k x).lasting = s.lasting := rfl
@[simp] theorem State.setCrew_channels (s : State) (k : Nat) (x : Crew) : (s.setCrew k x).channels = s.channels := rfl
@[simp] theorem State.setCrew_health (s : State) (k : Nat) (x : Crew) : (s.setCrew k x).health = s.health := rfl
@[simp] theorem State.setCrew_seeds (s : State) (k : Nat) (x : Crew) : (s.setCrew k x).seeds = s.seeds := rfl
@[simp] theorem State.setCrew_keys (s : State) (k : Nat) (x : Crew) : (s.setCrew k x).keys = s.keys := rfl
@[simp] theorem State.setCrew_deviceKey (s : State) (k : Nat) (x : Crew) : (s.setCrew k x).deviceKey = s.deviceKey := rfl
@[simp] theorem State.setCrew_firmware (s : State) (k : Nat) (x : Crew) : (s.setCrew k x).firmware = s.firmware := rfl
@[simp] theorem State.setCrew_mboxlo (s : State) (k : Nat) (x : Crew) : (s.setCrew k x).mboxlo = s.mboxlo := rfl
@[simp] theorem State.setCrew_mboxhi (s : State) (k : Nat) (x : Crew) : (s.setCrew k x).mboxhi = s.mboxhi := rfl
@[simp] theorem State.setCrew_mboxAddr (s : State) (k : Nat) (x : Crew) : (s.setCrew k x).mboxAddr = s.mboxAddr := rfl
@[simp] theorem State.setCrew_mboxBusy (s : State) (k : Nat) (x : Crew) : (s.setCrew k x).mboxBusy = s.mboxBusy := rfl
@[simp] theorem State.setCrew_mboxStatus (s : State) (k : Nat) (x : Crew) : (s.setCrew k x).mboxStatus = s.mboxStatus := rfl
@[simp] theorem State.setCrew_aperbase (s : State) (k : Nat) (x : Crew) : (s.setCrew k x).aperbase = s.aperbase := rfl
@[simp] theorem State.setCrew_fabid (s : State) (k : Nat) (x : Crew) : (s.setCrew k x).fabid = s.fabid := rfl
@[simp] theorem State.setCrew_bustat (s : State) (k : Nat) (x : Crew) : (s.setCrew k x).bustat = s.bustat := rfl
@[simp] theorem State.setCrew_bring (s : State) (k : Nat) (x : Crew) : (s.setCrew k x).bring = s.bring := rfl
@[simp] theorem State.setCrew_routes (s : State) (k : Nat) (x : Crew) : (s.setCrew k x).routes = s.routes := rfl
@[simp] theorem State.setCrew_ready (s : State) (k : Nat) (x : Crew) : (s.setCrew k x).ready = s.ready := rfl
@[simp] theorem State.setCrew_telcfg (s : State) (k : Nat) (x : Crew) : (s.setCrew k x).telcfg = s.telcfg := rfl
@[simp] theorem State.setCrew_shedcfg (s : State) (k : Nat) (x : Crew) : (s.setCrew k x).shedcfg = s.shedcfg := rfl
@[simp] theorem State.setCrew_shedEff (s : State) (k : Nat) (x : Crew) : (s.setCrew k x).shedEff = s.shedEff := rfl
@[simp] theorem State.setCrew_curves (s : State) (k : Nat) (x : Crew) : (s.setCrew k x).curves = s.curves := rfl
@[simp] theorem State.setCrew_telstat0 (s : State) (k : Nat) (x : Crew) : (s.setCrew k x).telstat0 = s.telstat0 := rfl
@[simp] theorem State.setCrew_telstat1 (s : State) (k : Nat) (x : Crew) : (s.setCrew k x).telstat1 = s.telstat1 := rfl
@[simp] theorem State.setCrew_hyst (s : State) (k : Nat) (x : Crew) : (s.setCrew k x).hyst = s.hyst := rfl
@[simp] theorem State.setCrew_frameAt (s : State) (k : Nat) (x : Crew) : (s.setCrew k x).frameAt = s.frameAt := rfl
@[simp] theorem State.setCrew_wakeQ (s : State) (k : Nat) (x : Crew) : (s.setCrew k x).wakeQ = s.wakeQ := rfl
@[simp] theorem State.setCrew_linkReplays (s : State) (k : Nat) (x : Crew) : (s.setCrew k x).linkReplays = s.linkReplays := rfl
@[simp] theorem State.setCrew_linkFails (s : State) (k : Nat) (x : Crew) : (s.setCrew k x).linkFails = s.linkFails := rfl
@[simp] theorem State.setCrew_retraining (s : State) (k : Nat) (x : Crew) : (s.setCrew k x).retraining = s.retraining := rfl
@[simp] theorem State.setCrew_linkDown (s : State) (k : Nat) (x : Crew) : (s.setCrew k x).linkDown = s.linkDown := rfl
@[simp] theorem State.setCrew_portsDown (s : State) (k : Nat) (x : Crew) : (s.setCrew k x).portsDown = s.portsDown := rfl
@[simp] theorem State.setCrew_hostRead (s : State) (k : Nat) (x : Crew) : (s.setCrew k x).hostRead = s.hostRead := rfl
@[simp] theorem State.setCrew_hostTag (s : State) (k : Nat) (x : Crew) : (s.setCrew k x).hostTag = s.hostTag := rfl
@[simp] theorem State.setCrew_fabricRead (s : State) (k : Nat) (x : Crew) : (s.setCrew k x).fabricRead = s.fabricRead := rfl
@[simp] theorem State.setCrew_fabricTag (s : State) (k : Nat) (x : Crew) : (s.setCrew k x).fabricTag = s.fabricTag := rfl
@[simp] theorem State.setCrew_energyMs (s : State) (k : Nat) (x : Crew) : (s.setCrew k x).energyMs = s.energyMs := rfl
@[simp] theorem State.setCrew_agenda (s : State) (k : Nat) (x : Crew) : (s.setCrew k x).agenda = s.agenda := rfl
@[simp] theorem State.setCrew_ev (s : State) (k : Nat) (x : Crew) : (s.setCrew k x).ev = s.ev := rfl
@[simp] theorem State.setCrew_cur (s : State) (k : Nat) (x : Crew) : (s.setCrew k x).cur = s.cur := rfl
@[simp] theorem State.setCrew_word (s : State) (k : Nat) (x : Crew) : (s.setCrew k x).word = s.word := rfl
@[simp] theorem State.setCrew_consumed (s : State) (k : Nat) (x : Crew) : (s.setCrew k x).consumed = s.consumed := rfl
@[simp] theorem State.setCrew_predReads (s : State) (k : Nat) (x : Crew) : (s.setCrew k x).predReads = s.predReads := rfl
@[simp] theorem State.setCrew_stalled (s : State) (k : Nat) (x : Crew) : (s.setCrew k x).stalled = s.stalled := rfl
@[simp] theorem State.setCrew_free (s : State) (k : Nat) (x : Crew) : (s.setCrew k x).free = s.free := rfl
@[simp] theorem State.setCrew_turns (s : State) (k : Nat) (x : Crew) : (s.setCrew k x).turns = s.turns := rfl
@[simp] theorem State.setCrew_fresh (s : State) (k : Nat) (x : Crew) : (s.setCrew k x).fresh = s.fresh := rfl
@[simp] theorem State.setCrew_lateLoads (s : State) (k : Nat) (x : Crew) : (s.setCrew k x).lateLoads = s.lateLoads := rfl
@[simp] theorem State.crew_setCrew (s : State) (k : Nat) (x : Crew) : (s.setCrew k x).crew k = x := by
  simp [State.crew, State.setCrew]
theorem State.crew_setCrew_other (s : State) {j k : Nat} (x : Crew) (h : j ≠ k) : (s.setCrew k x).crew j = s.crew j := by
  simp [State.crew, State.setCrew, Tab.get_put_other _ _ _ h]
@[simp] theorem State.stream_setCrew (s : State) (j k : Nat) (x : Crew) : (s.setCrew k x).stream j = s.stream j := rfl
@[simp] theorem State.gang_setCrew (s : State) (j k : Nat) (x : Crew) : (s.setCrew k x).gang j = s.gang j := rfl
@[simp] theorem State.core_setCrew (s : State) (j k : Nat) (x : Crew) : (s.setCrew k x).core j = s.core j := rfl
@[simp] theorem State.cluster_setCrew (s : State) (j k : Nat) (x : Crew) : (s.setCrew k x).cluster j = s.cluster j := rfl
@[simp] theorem State.die_setCrew (s : State) (j k : Nat) (x : Crew) : (s.setCrew k x).die j = s.die j := rfl
@[simp] theorem State.part_setCrew (s : State) (j k : Nat) (x : Crew) : (s.setCrew k x).part j = s.part j := rfl
@[simp] theorem State.node_setCrew (s : State) (j k : Nat) (x : Crew) : (s.setCrew k x).node j = s.node j := rfl
@[simp] theorem State.pair_setCrew (s : State) (j k : Nat) (x : Crew) : (s.setCrew k x).pair j = s.pair j := rfl

/-! setGang. -/

@[simp] theorem State.updGang_eq (s : State) (k : Nat) (f : Gang → Gang) : s.updGang k f = s.setGang k (f (s.gang k)) := rfl
@[simp] theorem State.setGang_timestamp (s : State) (k : Nat) (x : Gang) : (s.setGang k x).timestamp = s.timestamp := rfl
@[simp] theorem State.setGang_streams (s : State) (k : Nat) (x : Gang) : (s.setGang k x).streams = s.streams := rfl
@[simp] theorem State.setGang_crews (s : State) (k : Nat) (x : Gang) : (s.setGang k x).crews = s.crews := rfl
@[simp] theorem State.setGang_gangs (s : State) (k : Nat) (x : Gang) : (s.setGang k x).gangs = Tab.put k x s.gangs := rfl
@[simp] theorem State.setGang_cores (s : State) (k : Nat) (x : Gang) : (s.setGang k x).cores = s.cores := rfl
@[simp] theorem State.setGang_clusters (s : State) (k : Nat) (x : Gang) : (s.setGang k x).clusters = s.clusters := rfl
@[simp] theorem State.setGang_dies (s : State) (k : Nat) (x : Gang) : (s.setGang k x).dies = s.dies := rfl
@[simp] theorem State.setGang_mem (s : State) (k : Nat) (x : Gang) : (s.setGang k x).mem = s.mem := rfl
@[simp] theorem State.setGang_marks (s : State) (k : Nat) (x : Gang) : (s.setGang k x).marks = s.marks := rfl
@[simp] theorem State.setGang_counters (s : State) (k : Nat) (x : Gang) : (s.setGang k x).counters = s.counters := rfl
@[simp] theorem State.setGang_keyids (s : State) (k : Nat) (x : Gang) : (s.setGang k x).keyids = s.keyids := rfl
@[simp] theorem State.setGang_hostMem (s : State) (k : Nat) (x : Gang) : (s.setGang k x).hostMem = s.hostMem := rfl
@[simp] theorem State.setGang_msgs (s : State) (k : Nat) (x : Gang) : (s.setGang k x).msgs = s.msgs := rfl
@[simp] theorem State.setGang_parts (s : State) (k : Nat) (x : Gang) : (s.setGang k x).parts = s.parts := rfl
@[simp] theorem State.setGang_nodes (s : State) (k : Nat) (x : Gang) : (s.setGang k x).nodes = s.nodes := rfl
@[simp] theorem State.setGang_past (s : State) (k : Nat) (x : Gang) : (s.setGang k x).past = s.past := rfl
@[simp] theorem State.setGang_endRecs (s : State) (k : Nat) (x : Gang) : (s.setGang k x).endRecs = s.endRecs := rfl
@[simp] theorem State.setGang_pairs (s : State) (k : Nat) (x : Gang) : (s.setGang k x).pairs = s.pairs := rfl
@[simp] theorem State.setGang_colls (s : State) (k : Nat) (x : Gang) : (s.setGang k x).colls = s.colls := rfl
@[simp] theorem State.setGang_abandoned (s : State) (k : Nat) (x : Gang) : (s.setGang k x).abandoned = s.abandoned := rfl
@[simp] theorem State.setGang_failed (s : State) (k : Nat) (x : Gang) : (s.setGang k x).failed = s.failed := rfl
@[simp] theorem State.setGang_failures (s : State) (k : Nat) (x : Gang) : (s.setGang k x).failures = s.failures := rfl
@[simp] theorem State.setGang_contexts (s : State) (k : Nat) (x : Gang) : (s.setGang k x).contexts = s.contexts := rfl
@[simp] theorem State.setGang_remotes (s : State) (k : Nat) (x : Gang) : (s.setGang k x).remotes = s.remotes := rfl
@[simp] theorem State.setGang_opData (s : State) (k : Nat) (x : Gang) : (s.setGang k x).opData = s.opData := rfl
@[simp] theorem State.setGang_opBad (s : State) (k : Nat) (x : Gang) : (s.setGang k x).opBad = s.opBad := rfl
@[simp] theorem State.setGang_foreign (s : State) (k : Nat) (x : Gang) : (s.setGang k x).foreign = s.foreign := rfl
@[simp] theorem State.setGang_foreignVoid (s : State) (k : Nat) (x : Gang) : (s.setGang k x).foreignVoid = s.foreignVoid := rfl
@[simp] theorem State.setGang_provisional (s : State) (k : Nat) (x : Gang) : (s.setGang k x).provisional = s.provisional := rfl
@[simp] theorem State.setGang_notices (s : State) (k : Nat) (x : Gang) : (s.setGang k x).notices = s.notices := rfl
@[simp] theorem State.setGang_releases (s : State) (k : Nat) (x : Gang) : (s.setGang k x).releases = s.releases := rfl
@[simp] theorem State.setGang_relSeq (s : State) (k : Nat) (x : Gang) : (s.setGang k x).relSeq = s.relSeq := rfl
@[simp] theorem State.setGang_fabricAck (s : State) (k : Nat) (x : Gang) : (s.setGang k x).fabricAck = s.fabricAck := rfl
@[simp] theorem State.setGang_ing (s : State) (k : Nat) (x : Gang) : (s.setGang k x).ing = s.ing := rfl
@[simp] theorem State.setGang_record (s : State) (k : Nat) (x : Gang) : (s.setGang k x).record = s.record := rfl
@[simp] theorem State.setGang_recSeq (s : State) (k : Nat) (x : Gang) : (s.setGang k x).recSeq = s.recSeq := rfl
@[simp] theorem State.setGang_held (s : State) (k : Nat) (x : Gang) : (s.setGang k x).held = s.held := rfl
@[simp] theorem State.setGang_lost (s : State) (k : Nat) (x : Gang) : (s.setGang k x).lost = s.lost := rfl
@[simp] theorem State.setGang_retired (s : State) (k : Nat) (x : Gang) : (s.setGang k x).retired = s.retired := rfl
@[simp] theorem State.setGang_lasting (s : State) (k : Nat) (x : Gang) : (s.setGang k x).lasting = s.lasting := rfl
@[simp] theorem State.setGang_channels (s : State) (k : Nat) (x : Gang) : (s.setGang k x).channels = s.channels := rfl
@[simp] theorem State.setGang_health (s : State) (k : Nat) (x : Gang) : (s.setGang k x).health = s.health := rfl
@[simp] theorem State.setGang_seeds (s : State) (k : Nat) (x : Gang) : (s.setGang k x).seeds = s.seeds := rfl
@[simp] theorem State.setGang_keys (s : State) (k : Nat) (x : Gang) : (s.setGang k x).keys = s.keys := rfl
@[simp] theorem State.setGang_deviceKey (s : State) (k : Nat) (x : Gang) : (s.setGang k x).deviceKey = s.deviceKey := rfl
@[simp] theorem State.setGang_firmware (s : State) (k : Nat) (x : Gang) : (s.setGang k x).firmware = s.firmware := rfl
@[simp] theorem State.setGang_mboxlo (s : State) (k : Nat) (x : Gang) : (s.setGang k x).mboxlo = s.mboxlo := rfl
@[simp] theorem State.setGang_mboxhi (s : State) (k : Nat) (x : Gang) : (s.setGang k x).mboxhi = s.mboxhi := rfl
@[simp] theorem State.setGang_mboxAddr (s : State) (k : Nat) (x : Gang) : (s.setGang k x).mboxAddr = s.mboxAddr := rfl
@[simp] theorem State.setGang_mboxBusy (s : State) (k : Nat) (x : Gang) : (s.setGang k x).mboxBusy = s.mboxBusy := rfl
@[simp] theorem State.setGang_mboxStatus (s : State) (k : Nat) (x : Gang) : (s.setGang k x).mboxStatus = s.mboxStatus := rfl
@[simp] theorem State.setGang_aperbase (s : State) (k : Nat) (x : Gang) : (s.setGang k x).aperbase = s.aperbase := rfl
@[simp] theorem State.setGang_fabid (s : State) (k : Nat) (x : Gang) : (s.setGang k x).fabid = s.fabid := rfl
@[simp] theorem State.setGang_bustat (s : State) (k : Nat) (x : Gang) : (s.setGang k x).bustat = s.bustat := rfl
@[simp] theorem State.setGang_bring (s : State) (k : Nat) (x : Gang) : (s.setGang k x).bring = s.bring := rfl
@[simp] theorem State.setGang_routes (s : State) (k : Nat) (x : Gang) : (s.setGang k x).routes = s.routes := rfl
@[simp] theorem State.setGang_ready (s : State) (k : Nat) (x : Gang) : (s.setGang k x).ready = s.ready := rfl
@[simp] theorem State.setGang_telcfg (s : State) (k : Nat) (x : Gang) : (s.setGang k x).telcfg = s.telcfg := rfl
@[simp] theorem State.setGang_shedcfg (s : State) (k : Nat) (x : Gang) : (s.setGang k x).shedcfg = s.shedcfg := rfl
@[simp] theorem State.setGang_shedEff (s : State) (k : Nat) (x : Gang) : (s.setGang k x).shedEff = s.shedEff := rfl
@[simp] theorem State.setGang_curves (s : State) (k : Nat) (x : Gang) : (s.setGang k x).curves = s.curves := rfl
@[simp] theorem State.setGang_telstat0 (s : State) (k : Nat) (x : Gang) : (s.setGang k x).telstat0 = s.telstat0 := rfl
@[simp] theorem State.setGang_telstat1 (s : State) (k : Nat) (x : Gang) : (s.setGang k x).telstat1 = s.telstat1 := rfl
@[simp] theorem State.setGang_hyst (s : State) (k : Nat) (x : Gang) : (s.setGang k x).hyst = s.hyst := rfl
@[simp] theorem State.setGang_frameAt (s : State) (k : Nat) (x : Gang) : (s.setGang k x).frameAt = s.frameAt := rfl
@[simp] theorem State.setGang_wakeQ (s : State) (k : Nat) (x : Gang) : (s.setGang k x).wakeQ = s.wakeQ := rfl
@[simp] theorem State.setGang_linkReplays (s : State) (k : Nat) (x : Gang) : (s.setGang k x).linkReplays = s.linkReplays := rfl
@[simp] theorem State.setGang_linkFails (s : State) (k : Nat) (x : Gang) : (s.setGang k x).linkFails = s.linkFails := rfl
@[simp] theorem State.setGang_retraining (s : State) (k : Nat) (x : Gang) : (s.setGang k x).retraining = s.retraining := rfl
@[simp] theorem State.setGang_linkDown (s : State) (k : Nat) (x : Gang) : (s.setGang k x).linkDown = s.linkDown := rfl
@[simp] theorem State.setGang_portsDown (s : State) (k : Nat) (x : Gang) : (s.setGang k x).portsDown = s.portsDown := rfl
@[simp] theorem State.setGang_hostRead (s : State) (k : Nat) (x : Gang) : (s.setGang k x).hostRead = s.hostRead := rfl
@[simp] theorem State.setGang_hostTag (s : State) (k : Nat) (x : Gang) : (s.setGang k x).hostTag = s.hostTag := rfl
@[simp] theorem State.setGang_fabricRead (s : State) (k : Nat) (x : Gang) : (s.setGang k x).fabricRead = s.fabricRead := rfl
@[simp] theorem State.setGang_fabricTag (s : State) (k : Nat) (x : Gang) : (s.setGang k x).fabricTag = s.fabricTag := rfl
@[simp] theorem State.setGang_energyMs (s : State) (k : Nat) (x : Gang) : (s.setGang k x).energyMs = s.energyMs := rfl
@[simp] theorem State.setGang_agenda (s : State) (k : Nat) (x : Gang) : (s.setGang k x).agenda = s.agenda := rfl
@[simp] theorem State.setGang_ev (s : State) (k : Nat) (x : Gang) : (s.setGang k x).ev = s.ev := rfl
@[simp] theorem State.setGang_cur (s : State) (k : Nat) (x : Gang) : (s.setGang k x).cur = s.cur := rfl
@[simp] theorem State.setGang_word (s : State) (k : Nat) (x : Gang) : (s.setGang k x).word = s.word := rfl
@[simp] theorem State.setGang_consumed (s : State) (k : Nat) (x : Gang) : (s.setGang k x).consumed = s.consumed := rfl
@[simp] theorem State.setGang_predReads (s : State) (k : Nat) (x : Gang) : (s.setGang k x).predReads = s.predReads := rfl
@[simp] theorem State.setGang_stalled (s : State) (k : Nat) (x : Gang) : (s.setGang k x).stalled = s.stalled := rfl
@[simp] theorem State.setGang_free (s : State) (k : Nat) (x : Gang) : (s.setGang k x).free = s.free := rfl
@[simp] theorem State.setGang_turns (s : State) (k : Nat) (x : Gang) : (s.setGang k x).turns = s.turns := rfl
@[simp] theorem State.setGang_fresh (s : State) (k : Nat) (x : Gang) : (s.setGang k x).fresh = s.fresh := rfl
@[simp] theorem State.setGang_lateLoads (s : State) (k : Nat) (x : Gang) : (s.setGang k x).lateLoads = s.lateLoads := rfl
@[simp] theorem State.gang_setGang (s : State) (k : Nat) (x : Gang) : (s.setGang k x).gang k = x := by
  simp [State.gang, State.setGang]
theorem State.gang_setGang_other (s : State) {j k : Nat} (x : Gang) (h : j ≠ k) : (s.setGang k x).gang j = s.gang j := by
  simp [State.gang, State.setGang, Tab.get_put_other _ _ _ h]
@[simp] theorem State.stream_setGang (s : State) (j k : Nat) (x : Gang) : (s.setGang k x).stream j = s.stream j := rfl
@[simp] theorem State.crew_setGang (s : State) (j k : Nat) (x : Gang) : (s.setGang k x).crew j = s.crew j := rfl
@[simp] theorem State.core_setGang (s : State) (j k : Nat) (x : Gang) : (s.setGang k x).core j = s.core j := rfl
@[simp] theorem State.cluster_setGang (s : State) (j k : Nat) (x : Gang) : (s.setGang k x).cluster j = s.cluster j := rfl
@[simp] theorem State.die_setGang (s : State) (j k : Nat) (x : Gang) : (s.setGang k x).die j = s.die j := rfl
@[simp] theorem State.part_setGang (s : State) (j k : Nat) (x : Gang) : (s.setGang k x).part j = s.part j := rfl
@[simp] theorem State.node_setGang (s : State) (j k : Nat) (x : Gang) : (s.setGang k x).node j = s.node j := rfl
@[simp] theorem State.pair_setGang (s : State) (j k : Nat) (x : Gang) : (s.setGang k x).pair j = s.pair j := rfl

/-! setCore. -/

@[simp] theorem State.updCore_eq (s : State) (k : Nat) (f : Core → Core) : s.updCore k f = s.setCore k (f (s.core k)) := rfl
@[simp] theorem State.setCore_timestamp (s : State) (k : Nat) (x : Core) : (s.setCore k x).timestamp = s.timestamp := rfl
@[simp] theorem State.setCore_streams (s : State) (k : Nat) (x : Core) : (s.setCore k x).streams = s.streams := rfl
@[simp] theorem State.setCore_crews (s : State) (k : Nat) (x : Core) : (s.setCore k x).crews = s.crews := rfl
@[simp] theorem State.setCore_gangs (s : State) (k : Nat) (x : Core) : (s.setCore k x).gangs = s.gangs := rfl
@[simp] theorem State.setCore_cores (s : State) (k : Nat) (x : Core) : (s.setCore k x).cores = Tab.put k x s.cores := rfl
@[simp] theorem State.setCore_clusters (s : State) (k : Nat) (x : Core) : (s.setCore k x).clusters = s.clusters := rfl
@[simp] theorem State.setCore_dies (s : State) (k : Nat) (x : Core) : (s.setCore k x).dies = s.dies := rfl
@[simp] theorem State.setCore_mem (s : State) (k : Nat) (x : Core) : (s.setCore k x).mem = s.mem := rfl
@[simp] theorem State.setCore_marks (s : State) (k : Nat) (x : Core) : (s.setCore k x).marks = s.marks := rfl
@[simp] theorem State.setCore_counters (s : State) (k : Nat) (x : Core) : (s.setCore k x).counters = s.counters := rfl
@[simp] theorem State.setCore_keyids (s : State) (k : Nat) (x : Core) : (s.setCore k x).keyids = s.keyids := rfl
@[simp] theorem State.setCore_hostMem (s : State) (k : Nat) (x : Core) : (s.setCore k x).hostMem = s.hostMem := rfl
@[simp] theorem State.setCore_msgs (s : State) (k : Nat) (x : Core) : (s.setCore k x).msgs = s.msgs := rfl
@[simp] theorem State.setCore_parts (s : State) (k : Nat) (x : Core) : (s.setCore k x).parts = s.parts := rfl
@[simp] theorem State.setCore_nodes (s : State) (k : Nat) (x : Core) : (s.setCore k x).nodes = s.nodes := rfl
@[simp] theorem State.setCore_past (s : State) (k : Nat) (x : Core) : (s.setCore k x).past = s.past := rfl
@[simp] theorem State.setCore_endRecs (s : State) (k : Nat) (x : Core) : (s.setCore k x).endRecs = s.endRecs := rfl
@[simp] theorem State.setCore_pairs (s : State) (k : Nat) (x : Core) : (s.setCore k x).pairs = s.pairs := rfl
@[simp] theorem State.setCore_colls (s : State) (k : Nat) (x : Core) : (s.setCore k x).colls = s.colls := rfl
@[simp] theorem State.setCore_abandoned (s : State) (k : Nat) (x : Core) : (s.setCore k x).abandoned = s.abandoned := rfl
@[simp] theorem State.setCore_failed (s : State) (k : Nat) (x : Core) : (s.setCore k x).failed = s.failed := rfl
@[simp] theorem State.setCore_failures (s : State) (k : Nat) (x : Core) : (s.setCore k x).failures = s.failures := rfl
@[simp] theorem State.setCore_contexts (s : State) (k : Nat) (x : Core) : (s.setCore k x).contexts = s.contexts := rfl
@[simp] theorem State.setCore_remotes (s : State) (k : Nat) (x : Core) : (s.setCore k x).remotes = s.remotes := rfl
@[simp] theorem State.setCore_opData (s : State) (k : Nat) (x : Core) : (s.setCore k x).opData = s.opData := rfl
@[simp] theorem State.setCore_opBad (s : State) (k : Nat) (x : Core) : (s.setCore k x).opBad = s.opBad := rfl
@[simp] theorem State.setCore_foreign (s : State) (k : Nat) (x : Core) : (s.setCore k x).foreign = s.foreign := rfl
@[simp] theorem State.setCore_foreignVoid (s : State) (k : Nat) (x : Core) : (s.setCore k x).foreignVoid = s.foreignVoid := rfl
@[simp] theorem State.setCore_provisional (s : State) (k : Nat) (x : Core) : (s.setCore k x).provisional = s.provisional := rfl
@[simp] theorem State.setCore_notices (s : State) (k : Nat) (x : Core) : (s.setCore k x).notices = s.notices := rfl
@[simp] theorem State.setCore_releases (s : State) (k : Nat) (x : Core) : (s.setCore k x).releases = s.releases := rfl
@[simp] theorem State.setCore_relSeq (s : State) (k : Nat) (x : Core) : (s.setCore k x).relSeq = s.relSeq := rfl
@[simp] theorem State.setCore_fabricAck (s : State) (k : Nat) (x : Core) : (s.setCore k x).fabricAck = s.fabricAck := rfl
@[simp] theorem State.setCore_ing (s : State) (k : Nat) (x : Core) : (s.setCore k x).ing = s.ing := rfl
@[simp] theorem State.setCore_record (s : State) (k : Nat) (x : Core) : (s.setCore k x).record = s.record := rfl
@[simp] theorem State.setCore_recSeq (s : State) (k : Nat) (x : Core) : (s.setCore k x).recSeq = s.recSeq := rfl
@[simp] theorem State.setCore_held (s : State) (k : Nat) (x : Core) : (s.setCore k x).held = s.held := rfl
@[simp] theorem State.setCore_lost (s : State) (k : Nat) (x : Core) : (s.setCore k x).lost = s.lost := rfl
@[simp] theorem State.setCore_retired (s : State) (k : Nat) (x : Core) : (s.setCore k x).retired = s.retired := rfl
@[simp] theorem State.setCore_lasting (s : State) (k : Nat) (x : Core) : (s.setCore k x).lasting = s.lasting := rfl
@[simp] theorem State.setCore_channels (s : State) (k : Nat) (x : Core) : (s.setCore k x).channels = s.channels := rfl
@[simp] theorem State.setCore_health (s : State) (k : Nat) (x : Core) : (s.setCore k x).health = s.health := rfl
@[simp] theorem State.setCore_seeds (s : State) (k : Nat) (x : Core) : (s.setCore k x).seeds = s.seeds := rfl
@[simp] theorem State.setCore_keys (s : State) (k : Nat) (x : Core) : (s.setCore k x).keys = s.keys := rfl
@[simp] theorem State.setCore_deviceKey (s : State) (k : Nat) (x : Core) : (s.setCore k x).deviceKey = s.deviceKey := rfl
@[simp] theorem State.setCore_firmware (s : State) (k : Nat) (x : Core) : (s.setCore k x).firmware = s.firmware := rfl
@[simp] theorem State.setCore_mboxlo (s : State) (k : Nat) (x : Core) : (s.setCore k x).mboxlo = s.mboxlo := rfl
@[simp] theorem State.setCore_mboxhi (s : State) (k : Nat) (x : Core) : (s.setCore k x).mboxhi = s.mboxhi := rfl
@[simp] theorem State.setCore_mboxAddr (s : State) (k : Nat) (x : Core) : (s.setCore k x).mboxAddr = s.mboxAddr := rfl
@[simp] theorem State.setCore_mboxBusy (s : State) (k : Nat) (x : Core) : (s.setCore k x).mboxBusy = s.mboxBusy := rfl
@[simp] theorem State.setCore_mboxStatus (s : State) (k : Nat) (x : Core) : (s.setCore k x).mboxStatus = s.mboxStatus := rfl
@[simp] theorem State.setCore_aperbase (s : State) (k : Nat) (x : Core) : (s.setCore k x).aperbase = s.aperbase := rfl
@[simp] theorem State.setCore_fabid (s : State) (k : Nat) (x : Core) : (s.setCore k x).fabid = s.fabid := rfl
@[simp] theorem State.setCore_bustat (s : State) (k : Nat) (x : Core) : (s.setCore k x).bustat = s.bustat := rfl
@[simp] theorem State.setCore_bring (s : State) (k : Nat) (x : Core) : (s.setCore k x).bring = s.bring := rfl
@[simp] theorem State.setCore_routes (s : State) (k : Nat) (x : Core) : (s.setCore k x).routes = s.routes := rfl
@[simp] theorem State.setCore_ready (s : State) (k : Nat) (x : Core) : (s.setCore k x).ready = s.ready := rfl
@[simp] theorem State.setCore_telcfg (s : State) (k : Nat) (x : Core) : (s.setCore k x).telcfg = s.telcfg := rfl
@[simp] theorem State.setCore_shedcfg (s : State) (k : Nat) (x : Core) : (s.setCore k x).shedcfg = s.shedcfg := rfl
@[simp] theorem State.setCore_shedEff (s : State) (k : Nat) (x : Core) : (s.setCore k x).shedEff = s.shedEff := rfl
@[simp] theorem State.setCore_curves (s : State) (k : Nat) (x : Core) : (s.setCore k x).curves = s.curves := rfl
@[simp] theorem State.setCore_telstat0 (s : State) (k : Nat) (x : Core) : (s.setCore k x).telstat0 = s.telstat0 := rfl
@[simp] theorem State.setCore_telstat1 (s : State) (k : Nat) (x : Core) : (s.setCore k x).telstat1 = s.telstat1 := rfl
@[simp] theorem State.setCore_hyst (s : State) (k : Nat) (x : Core) : (s.setCore k x).hyst = s.hyst := rfl
@[simp] theorem State.setCore_frameAt (s : State) (k : Nat) (x : Core) : (s.setCore k x).frameAt = s.frameAt := rfl
@[simp] theorem State.setCore_wakeQ (s : State) (k : Nat) (x : Core) : (s.setCore k x).wakeQ = s.wakeQ := rfl
@[simp] theorem State.setCore_linkReplays (s : State) (k : Nat) (x : Core) : (s.setCore k x).linkReplays = s.linkReplays := rfl
@[simp] theorem State.setCore_linkFails (s : State) (k : Nat) (x : Core) : (s.setCore k x).linkFails = s.linkFails := rfl
@[simp] theorem State.setCore_retraining (s : State) (k : Nat) (x : Core) : (s.setCore k x).retraining = s.retraining := rfl
@[simp] theorem State.setCore_linkDown (s : State) (k : Nat) (x : Core) : (s.setCore k x).linkDown = s.linkDown := rfl
@[simp] theorem State.setCore_portsDown (s : State) (k : Nat) (x : Core) : (s.setCore k x).portsDown = s.portsDown := rfl
@[simp] theorem State.setCore_hostRead (s : State) (k : Nat) (x : Core) : (s.setCore k x).hostRead = s.hostRead := rfl
@[simp] theorem State.setCore_hostTag (s : State) (k : Nat) (x : Core) : (s.setCore k x).hostTag = s.hostTag := rfl
@[simp] theorem State.setCore_fabricRead (s : State) (k : Nat) (x : Core) : (s.setCore k x).fabricRead = s.fabricRead := rfl
@[simp] theorem State.setCore_fabricTag (s : State) (k : Nat) (x : Core) : (s.setCore k x).fabricTag = s.fabricTag := rfl
@[simp] theorem State.setCore_energyMs (s : State) (k : Nat) (x : Core) : (s.setCore k x).energyMs = s.energyMs := rfl
@[simp] theorem State.setCore_agenda (s : State) (k : Nat) (x : Core) : (s.setCore k x).agenda = s.agenda := rfl
@[simp] theorem State.setCore_ev (s : State) (k : Nat) (x : Core) : (s.setCore k x).ev = s.ev := rfl
@[simp] theorem State.setCore_cur (s : State) (k : Nat) (x : Core) : (s.setCore k x).cur = s.cur := rfl
@[simp] theorem State.setCore_word (s : State) (k : Nat) (x : Core) : (s.setCore k x).word = s.word := rfl
@[simp] theorem State.setCore_consumed (s : State) (k : Nat) (x : Core) : (s.setCore k x).consumed = s.consumed := rfl
@[simp] theorem State.setCore_predReads (s : State) (k : Nat) (x : Core) : (s.setCore k x).predReads = s.predReads := rfl
@[simp] theorem State.setCore_stalled (s : State) (k : Nat) (x : Core) : (s.setCore k x).stalled = s.stalled := rfl
@[simp] theorem State.setCore_free (s : State) (k : Nat) (x : Core) : (s.setCore k x).free = s.free := rfl
@[simp] theorem State.setCore_turns (s : State) (k : Nat) (x : Core) : (s.setCore k x).turns = s.turns := rfl
@[simp] theorem State.setCore_fresh (s : State) (k : Nat) (x : Core) : (s.setCore k x).fresh = s.fresh := rfl
@[simp] theorem State.setCore_lateLoads (s : State) (k : Nat) (x : Core) : (s.setCore k x).lateLoads = s.lateLoads := rfl
@[simp] theorem State.core_setCore (s : State) (k : Nat) (x : Core) : (s.setCore k x).core k = x := by
  simp [State.core, State.setCore]
theorem State.core_setCore_other (s : State) {j k : Nat} (x : Core) (h : j ≠ k) : (s.setCore k x).core j = s.core j := by
  simp [State.core, State.setCore, Tab.get_put_other _ _ _ h]
@[simp] theorem State.stream_setCore (s : State) (j k : Nat) (x : Core) : (s.setCore k x).stream j = s.stream j := rfl
@[simp] theorem State.crew_setCore (s : State) (j k : Nat) (x : Core) : (s.setCore k x).crew j = s.crew j := rfl
@[simp] theorem State.gang_setCore (s : State) (j k : Nat) (x : Core) : (s.setCore k x).gang j = s.gang j := rfl
@[simp] theorem State.cluster_setCore (s : State) (j k : Nat) (x : Core) : (s.setCore k x).cluster j = s.cluster j := rfl
@[simp] theorem State.die_setCore (s : State) (j k : Nat) (x : Core) : (s.setCore k x).die j = s.die j := rfl
@[simp] theorem State.part_setCore (s : State) (j k : Nat) (x : Core) : (s.setCore k x).part j = s.part j := rfl
@[simp] theorem State.node_setCore (s : State) (j k : Nat) (x : Core) : (s.setCore k x).node j = s.node j := rfl
@[simp] theorem State.pair_setCore (s : State) (j k : Nat) (x : Core) : (s.setCore k x).pair j = s.pair j := rfl

/-! setCluster. -/

@[simp] theorem State.updCluster_eq (s : State) (k : Nat) (f : Cluster → Cluster) : s.updCluster k f = s.setCluster k (f (s.cluster k)) := rfl
@[simp] theorem State.setCluster_timestamp (s : State) (k : Nat) (x : Cluster) : (s.setCluster k x).timestamp = s.timestamp := rfl
@[simp] theorem State.setCluster_streams (s : State) (k : Nat) (x : Cluster) : (s.setCluster k x).streams = s.streams := rfl
@[simp] theorem State.setCluster_crews (s : State) (k : Nat) (x : Cluster) : (s.setCluster k x).crews = s.crews := rfl
@[simp] theorem State.setCluster_gangs (s : State) (k : Nat) (x : Cluster) : (s.setCluster k x).gangs = s.gangs := rfl
@[simp] theorem State.setCluster_cores (s : State) (k : Nat) (x : Cluster) : (s.setCluster k x).cores = s.cores := rfl
@[simp] theorem State.setCluster_clusters (s : State) (k : Nat) (x : Cluster) : (s.setCluster k x).clusters = Tab.put k x s.clusters := rfl
@[simp] theorem State.setCluster_dies (s : State) (k : Nat) (x : Cluster) : (s.setCluster k x).dies = s.dies := rfl
@[simp] theorem State.setCluster_mem (s : State) (k : Nat) (x : Cluster) : (s.setCluster k x).mem = s.mem := rfl
@[simp] theorem State.setCluster_marks (s : State) (k : Nat) (x : Cluster) : (s.setCluster k x).marks = s.marks := rfl
@[simp] theorem State.setCluster_counters (s : State) (k : Nat) (x : Cluster) : (s.setCluster k x).counters = s.counters := rfl
@[simp] theorem State.setCluster_keyids (s : State) (k : Nat) (x : Cluster) : (s.setCluster k x).keyids = s.keyids := rfl
@[simp] theorem State.setCluster_hostMem (s : State) (k : Nat) (x : Cluster) : (s.setCluster k x).hostMem = s.hostMem := rfl
@[simp] theorem State.setCluster_msgs (s : State) (k : Nat) (x : Cluster) : (s.setCluster k x).msgs = s.msgs := rfl
@[simp] theorem State.setCluster_parts (s : State) (k : Nat) (x : Cluster) : (s.setCluster k x).parts = s.parts := rfl
@[simp] theorem State.setCluster_nodes (s : State) (k : Nat) (x : Cluster) : (s.setCluster k x).nodes = s.nodes := rfl
@[simp] theorem State.setCluster_past (s : State) (k : Nat) (x : Cluster) : (s.setCluster k x).past = s.past := rfl
@[simp] theorem State.setCluster_endRecs (s : State) (k : Nat) (x : Cluster) : (s.setCluster k x).endRecs = s.endRecs := rfl
@[simp] theorem State.setCluster_pairs (s : State) (k : Nat) (x : Cluster) : (s.setCluster k x).pairs = s.pairs := rfl
@[simp] theorem State.setCluster_colls (s : State) (k : Nat) (x : Cluster) : (s.setCluster k x).colls = s.colls := rfl
@[simp] theorem State.setCluster_abandoned (s : State) (k : Nat) (x : Cluster) : (s.setCluster k x).abandoned = s.abandoned := rfl
@[simp] theorem State.setCluster_failed (s : State) (k : Nat) (x : Cluster) : (s.setCluster k x).failed = s.failed := rfl
@[simp] theorem State.setCluster_failures (s : State) (k : Nat) (x : Cluster) : (s.setCluster k x).failures = s.failures := rfl
@[simp] theorem State.setCluster_contexts (s : State) (k : Nat) (x : Cluster) : (s.setCluster k x).contexts = s.contexts := rfl
@[simp] theorem State.setCluster_remotes (s : State) (k : Nat) (x : Cluster) : (s.setCluster k x).remotes = s.remotes := rfl
@[simp] theorem State.setCluster_opData (s : State) (k : Nat) (x : Cluster) : (s.setCluster k x).opData = s.opData := rfl
@[simp] theorem State.setCluster_opBad (s : State) (k : Nat) (x : Cluster) : (s.setCluster k x).opBad = s.opBad := rfl
@[simp] theorem State.setCluster_foreign (s : State) (k : Nat) (x : Cluster) : (s.setCluster k x).foreign = s.foreign := rfl
@[simp] theorem State.setCluster_foreignVoid (s : State) (k : Nat) (x : Cluster) : (s.setCluster k x).foreignVoid = s.foreignVoid := rfl
@[simp] theorem State.setCluster_provisional (s : State) (k : Nat) (x : Cluster) : (s.setCluster k x).provisional = s.provisional := rfl
@[simp] theorem State.setCluster_notices (s : State) (k : Nat) (x : Cluster) : (s.setCluster k x).notices = s.notices := rfl
@[simp] theorem State.setCluster_releases (s : State) (k : Nat) (x : Cluster) : (s.setCluster k x).releases = s.releases := rfl
@[simp] theorem State.setCluster_relSeq (s : State) (k : Nat) (x : Cluster) : (s.setCluster k x).relSeq = s.relSeq := rfl
@[simp] theorem State.setCluster_fabricAck (s : State) (k : Nat) (x : Cluster) : (s.setCluster k x).fabricAck = s.fabricAck := rfl
@[simp] theorem State.setCluster_ing (s : State) (k : Nat) (x : Cluster) : (s.setCluster k x).ing = s.ing := rfl
@[simp] theorem State.setCluster_record (s : State) (k : Nat) (x : Cluster) : (s.setCluster k x).record = s.record := rfl
@[simp] theorem State.setCluster_recSeq (s : State) (k : Nat) (x : Cluster) : (s.setCluster k x).recSeq = s.recSeq := rfl
@[simp] theorem State.setCluster_held (s : State) (k : Nat) (x : Cluster) : (s.setCluster k x).held = s.held := rfl
@[simp] theorem State.setCluster_lost (s : State) (k : Nat) (x : Cluster) : (s.setCluster k x).lost = s.lost := rfl
@[simp] theorem State.setCluster_retired (s : State) (k : Nat) (x : Cluster) : (s.setCluster k x).retired = s.retired := rfl
@[simp] theorem State.setCluster_lasting (s : State) (k : Nat) (x : Cluster) : (s.setCluster k x).lasting = s.lasting := rfl
@[simp] theorem State.setCluster_channels (s : State) (k : Nat) (x : Cluster) : (s.setCluster k x).channels = s.channels := rfl
@[simp] theorem State.setCluster_health (s : State) (k : Nat) (x : Cluster) : (s.setCluster k x).health = s.health := rfl
@[simp] theorem State.setCluster_seeds (s : State) (k : Nat) (x : Cluster) : (s.setCluster k x).seeds = s.seeds := rfl
@[simp] theorem State.setCluster_keys (s : State) (k : Nat) (x : Cluster) : (s.setCluster k x).keys = s.keys := rfl
@[simp] theorem State.setCluster_deviceKey (s : State) (k : Nat) (x : Cluster) : (s.setCluster k x).deviceKey = s.deviceKey := rfl
@[simp] theorem State.setCluster_firmware (s : State) (k : Nat) (x : Cluster) : (s.setCluster k x).firmware = s.firmware := rfl
@[simp] theorem State.setCluster_mboxlo (s : State) (k : Nat) (x : Cluster) : (s.setCluster k x).mboxlo = s.mboxlo := rfl
@[simp] theorem State.setCluster_mboxhi (s : State) (k : Nat) (x : Cluster) : (s.setCluster k x).mboxhi = s.mboxhi := rfl
@[simp] theorem State.setCluster_mboxAddr (s : State) (k : Nat) (x : Cluster) : (s.setCluster k x).mboxAddr = s.mboxAddr := rfl
@[simp] theorem State.setCluster_mboxBusy (s : State) (k : Nat) (x : Cluster) : (s.setCluster k x).mboxBusy = s.mboxBusy := rfl
@[simp] theorem State.setCluster_mboxStatus (s : State) (k : Nat) (x : Cluster) : (s.setCluster k x).mboxStatus = s.mboxStatus := rfl
@[simp] theorem State.setCluster_aperbase (s : State) (k : Nat) (x : Cluster) : (s.setCluster k x).aperbase = s.aperbase := rfl
@[simp] theorem State.setCluster_fabid (s : State) (k : Nat) (x : Cluster) : (s.setCluster k x).fabid = s.fabid := rfl
@[simp] theorem State.setCluster_bustat (s : State) (k : Nat) (x : Cluster) : (s.setCluster k x).bustat = s.bustat := rfl
@[simp] theorem State.setCluster_bring (s : State) (k : Nat) (x : Cluster) : (s.setCluster k x).bring = s.bring := rfl
@[simp] theorem State.setCluster_routes (s : State) (k : Nat) (x : Cluster) : (s.setCluster k x).routes = s.routes := rfl
@[simp] theorem State.setCluster_ready (s : State) (k : Nat) (x : Cluster) : (s.setCluster k x).ready = s.ready := rfl
@[simp] theorem State.setCluster_telcfg (s : State) (k : Nat) (x : Cluster) : (s.setCluster k x).telcfg = s.telcfg := rfl
@[simp] theorem State.setCluster_shedcfg (s : State) (k : Nat) (x : Cluster) : (s.setCluster k x).shedcfg = s.shedcfg := rfl
@[simp] theorem State.setCluster_shedEff (s : State) (k : Nat) (x : Cluster) : (s.setCluster k x).shedEff = s.shedEff := rfl
@[simp] theorem State.setCluster_curves (s : State) (k : Nat) (x : Cluster) : (s.setCluster k x).curves = s.curves := rfl
@[simp] theorem State.setCluster_telstat0 (s : State) (k : Nat) (x : Cluster) : (s.setCluster k x).telstat0 = s.telstat0 := rfl
@[simp] theorem State.setCluster_telstat1 (s : State) (k : Nat) (x : Cluster) : (s.setCluster k x).telstat1 = s.telstat1 := rfl
@[simp] theorem State.setCluster_hyst (s : State) (k : Nat) (x : Cluster) : (s.setCluster k x).hyst = s.hyst := rfl
@[simp] theorem State.setCluster_frameAt (s : State) (k : Nat) (x : Cluster) : (s.setCluster k x).frameAt = s.frameAt := rfl
@[simp] theorem State.setCluster_wakeQ (s : State) (k : Nat) (x : Cluster) : (s.setCluster k x).wakeQ = s.wakeQ := rfl
@[simp] theorem State.setCluster_linkReplays (s : State) (k : Nat) (x : Cluster) : (s.setCluster k x).linkReplays = s.linkReplays := rfl
@[simp] theorem State.setCluster_linkFails (s : State) (k : Nat) (x : Cluster) : (s.setCluster k x).linkFails = s.linkFails := rfl
@[simp] theorem State.setCluster_retraining (s : State) (k : Nat) (x : Cluster) : (s.setCluster k x).retraining = s.retraining := rfl
@[simp] theorem State.setCluster_linkDown (s : State) (k : Nat) (x : Cluster) : (s.setCluster k x).linkDown = s.linkDown := rfl
@[simp] theorem State.setCluster_portsDown (s : State) (k : Nat) (x : Cluster) : (s.setCluster k x).portsDown = s.portsDown := rfl
@[simp] theorem State.setCluster_hostRead (s : State) (k : Nat) (x : Cluster) : (s.setCluster k x).hostRead = s.hostRead := rfl
@[simp] theorem State.setCluster_hostTag (s : State) (k : Nat) (x : Cluster) : (s.setCluster k x).hostTag = s.hostTag := rfl
@[simp] theorem State.setCluster_fabricRead (s : State) (k : Nat) (x : Cluster) : (s.setCluster k x).fabricRead = s.fabricRead := rfl
@[simp] theorem State.setCluster_fabricTag (s : State) (k : Nat) (x : Cluster) : (s.setCluster k x).fabricTag = s.fabricTag := rfl
@[simp] theorem State.setCluster_energyMs (s : State) (k : Nat) (x : Cluster) : (s.setCluster k x).energyMs = s.energyMs := rfl
@[simp] theorem State.setCluster_agenda (s : State) (k : Nat) (x : Cluster) : (s.setCluster k x).agenda = s.agenda := rfl
@[simp] theorem State.setCluster_ev (s : State) (k : Nat) (x : Cluster) : (s.setCluster k x).ev = s.ev := rfl
@[simp] theorem State.setCluster_cur (s : State) (k : Nat) (x : Cluster) : (s.setCluster k x).cur = s.cur := rfl
@[simp] theorem State.setCluster_word (s : State) (k : Nat) (x : Cluster) : (s.setCluster k x).word = s.word := rfl
@[simp] theorem State.setCluster_consumed (s : State) (k : Nat) (x : Cluster) : (s.setCluster k x).consumed = s.consumed := rfl
@[simp] theorem State.setCluster_predReads (s : State) (k : Nat) (x : Cluster) : (s.setCluster k x).predReads = s.predReads := rfl
@[simp] theorem State.setCluster_stalled (s : State) (k : Nat) (x : Cluster) : (s.setCluster k x).stalled = s.stalled := rfl
@[simp] theorem State.setCluster_free (s : State) (k : Nat) (x : Cluster) : (s.setCluster k x).free = s.free := rfl
@[simp] theorem State.setCluster_turns (s : State) (k : Nat) (x : Cluster) : (s.setCluster k x).turns = s.turns := rfl
@[simp] theorem State.setCluster_fresh (s : State) (k : Nat) (x : Cluster) : (s.setCluster k x).fresh = s.fresh := rfl
@[simp] theorem State.setCluster_lateLoads (s : State) (k : Nat) (x : Cluster) : (s.setCluster k x).lateLoads = s.lateLoads := rfl
@[simp] theorem State.cluster_setCluster (s : State) (k : Nat) (x : Cluster) : (s.setCluster k x).cluster k = x := by
  simp [State.cluster, State.setCluster]
theorem State.cluster_setCluster_other (s : State) {j k : Nat} (x : Cluster) (h : j ≠ k) : (s.setCluster k x).cluster j = s.cluster j := by
  simp [State.cluster, State.setCluster, Tab.get_put_other _ _ _ h]
@[simp] theorem State.stream_setCluster (s : State) (j k : Nat) (x : Cluster) : (s.setCluster k x).stream j = s.stream j := rfl
@[simp] theorem State.crew_setCluster (s : State) (j k : Nat) (x : Cluster) : (s.setCluster k x).crew j = s.crew j := rfl
@[simp] theorem State.gang_setCluster (s : State) (j k : Nat) (x : Cluster) : (s.setCluster k x).gang j = s.gang j := rfl
@[simp] theorem State.core_setCluster (s : State) (j k : Nat) (x : Cluster) : (s.setCluster k x).core j = s.core j := rfl
@[simp] theorem State.die_setCluster (s : State) (j k : Nat) (x : Cluster) : (s.setCluster k x).die j = s.die j := rfl
@[simp] theorem State.part_setCluster (s : State) (j k : Nat) (x : Cluster) : (s.setCluster k x).part j = s.part j := rfl
@[simp] theorem State.node_setCluster (s : State) (j k : Nat) (x : Cluster) : (s.setCluster k x).node j = s.node j := rfl
@[simp] theorem State.pair_setCluster (s : State) (j k : Nat) (x : Cluster) : (s.setCluster k x).pair j = s.pair j := rfl

/-! setDie. -/

@[simp] theorem State.updDie_eq (s : State) (k : Nat) (f : Die → Die) : s.updDie k f = s.setDie k (f (s.die k)) := rfl
@[simp] theorem State.setDie_timestamp (s : State) (k : Nat) (x : Die) : (s.setDie k x).timestamp = s.timestamp := rfl
@[simp] theorem State.setDie_streams (s : State) (k : Nat) (x : Die) : (s.setDie k x).streams = s.streams := rfl
@[simp] theorem State.setDie_crews (s : State) (k : Nat) (x : Die) : (s.setDie k x).crews = s.crews := rfl
@[simp] theorem State.setDie_gangs (s : State) (k : Nat) (x : Die) : (s.setDie k x).gangs = s.gangs := rfl
@[simp] theorem State.setDie_cores (s : State) (k : Nat) (x : Die) : (s.setDie k x).cores = s.cores := rfl
@[simp] theorem State.setDie_clusters (s : State) (k : Nat) (x : Die) : (s.setDie k x).clusters = s.clusters := rfl
@[simp] theorem State.setDie_dies (s : State) (k : Nat) (x : Die) : (s.setDie k x).dies = Tab.put k x s.dies := rfl
@[simp] theorem State.setDie_mem (s : State) (k : Nat) (x : Die) : (s.setDie k x).mem = s.mem := rfl
@[simp] theorem State.setDie_marks (s : State) (k : Nat) (x : Die) : (s.setDie k x).marks = s.marks := rfl
@[simp] theorem State.setDie_counters (s : State) (k : Nat) (x : Die) : (s.setDie k x).counters = s.counters := rfl
@[simp] theorem State.setDie_keyids (s : State) (k : Nat) (x : Die) : (s.setDie k x).keyids = s.keyids := rfl
@[simp] theorem State.setDie_hostMem (s : State) (k : Nat) (x : Die) : (s.setDie k x).hostMem = s.hostMem := rfl
@[simp] theorem State.setDie_msgs (s : State) (k : Nat) (x : Die) : (s.setDie k x).msgs = s.msgs := rfl
@[simp] theorem State.setDie_parts (s : State) (k : Nat) (x : Die) : (s.setDie k x).parts = s.parts := rfl
@[simp] theorem State.setDie_nodes (s : State) (k : Nat) (x : Die) : (s.setDie k x).nodes = s.nodes := rfl
@[simp] theorem State.setDie_past (s : State) (k : Nat) (x : Die) : (s.setDie k x).past = s.past := rfl
@[simp] theorem State.setDie_endRecs (s : State) (k : Nat) (x : Die) : (s.setDie k x).endRecs = s.endRecs := rfl
@[simp] theorem State.setDie_pairs (s : State) (k : Nat) (x : Die) : (s.setDie k x).pairs = s.pairs := rfl
@[simp] theorem State.setDie_colls (s : State) (k : Nat) (x : Die) : (s.setDie k x).colls = s.colls := rfl
@[simp] theorem State.setDie_abandoned (s : State) (k : Nat) (x : Die) : (s.setDie k x).abandoned = s.abandoned := rfl
@[simp] theorem State.setDie_failed (s : State) (k : Nat) (x : Die) : (s.setDie k x).failed = s.failed := rfl
@[simp] theorem State.setDie_failures (s : State) (k : Nat) (x : Die) : (s.setDie k x).failures = s.failures := rfl
@[simp] theorem State.setDie_contexts (s : State) (k : Nat) (x : Die) : (s.setDie k x).contexts = s.contexts := rfl
@[simp] theorem State.setDie_remotes (s : State) (k : Nat) (x : Die) : (s.setDie k x).remotes = s.remotes := rfl
@[simp] theorem State.setDie_opData (s : State) (k : Nat) (x : Die) : (s.setDie k x).opData = s.opData := rfl
@[simp] theorem State.setDie_opBad (s : State) (k : Nat) (x : Die) : (s.setDie k x).opBad = s.opBad := rfl
@[simp] theorem State.setDie_foreign (s : State) (k : Nat) (x : Die) : (s.setDie k x).foreign = s.foreign := rfl
@[simp] theorem State.setDie_foreignVoid (s : State) (k : Nat) (x : Die) : (s.setDie k x).foreignVoid = s.foreignVoid := rfl
@[simp] theorem State.setDie_provisional (s : State) (k : Nat) (x : Die) : (s.setDie k x).provisional = s.provisional := rfl
@[simp] theorem State.setDie_notices (s : State) (k : Nat) (x : Die) : (s.setDie k x).notices = s.notices := rfl
@[simp] theorem State.setDie_releases (s : State) (k : Nat) (x : Die) : (s.setDie k x).releases = s.releases := rfl
@[simp] theorem State.setDie_relSeq (s : State) (k : Nat) (x : Die) : (s.setDie k x).relSeq = s.relSeq := rfl
@[simp] theorem State.setDie_fabricAck (s : State) (k : Nat) (x : Die) : (s.setDie k x).fabricAck = s.fabricAck := rfl
@[simp] theorem State.setDie_ing (s : State) (k : Nat) (x : Die) : (s.setDie k x).ing = s.ing := rfl
@[simp] theorem State.setDie_record (s : State) (k : Nat) (x : Die) : (s.setDie k x).record = s.record := rfl
@[simp] theorem State.setDie_recSeq (s : State) (k : Nat) (x : Die) : (s.setDie k x).recSeq = s.recSeq := rfl
@[simp] theorem State.setDie_held (s : State) (k : Nat) (x : Die) : (s.setDie k x).held = s.held := rfl
@[simp] theorem State.setDie_lost (s : State) (k : Nat) (x : Die) : (s.setDie k x).lost = s.lost := rfl
@[simp] theorem State.setDie_retired (s : State) (k : Nat) (x : Die) : (s.setDie k x).retired = s.retired := rfl
@[simp] theorem State.setDie_lasting (s : State) (k : Nat) (x : Die) : (s.setDie k x).lasting = s.lasting := rfl
@[simp] theorem State.setDie_channels (s : State) (k : Nat) (x : Die) : (s.setDie k x).channels = s.channels := rfl
@[simp] theorem State.setDie_health (s : State) (k : Nat) (x : Die) : (s.setDie k x).health = s.health := rfl
@[simp] theorem State.setDie_seeds (s : State) (k : Nat) (x : Die) : (s.setDie k x).seeds = s.seeds := rfl
@[simp] theorem State.setDie_keys (s : State) (k : Nat) (x : Die) : (s.setDie k x).keys = s.keys := rfl
@[simp] theorem State.setDie_deviceKey (s : State) (k : Nat) (x : Die) : (s.setDie k x).deviceKey = s.deviceKey := rfl
@[simp] theorem State.setDie_firmware (s : State) (k : Nat) (x : Die) : (s.setDie k x).firmware = s.firmware := rfl
@[simp] theorem State.setDie_mboxlo (s : State) (k : Nat) (x : Die) : (s.setDie k x).mboxlo = s.mboxlo := rfl
@[simp] theorem State.setDie_mboxhi (s : State) (k : Nat) (x : Die) : (s.setDie k x).mboxhi = s.mboxhi := rfl
@[simp] theorem State.setDie_mboxAddr (s : State) (k : Nat) (x : Die) : (s.setDie k x).mboxAddr = s.mboxAddr := rfl
@[simp] theorem State.setDie_mboxBusy (s : State) (k : Nat) (x : Die) : (s.setDie k x).mboxBusy = s.mboxBusy := rfl
@[simp] theorem State.setDie_mboxStatus (s : State) (k : Nat) (x : Die) : (s.setDie k x).mboxStatus = s.mboxStatus := rfl
@[simp] theorem State.setDie_aperbase (s : State) (k : Nat) (x : Die) : (s.setDie k x).aperbase = s.aperbase := rfl
@[simp] theorem State.setDie_fabid (s : State) (k : Nat) (x : Die) : (s.setDie k x).fabid = s.fabid := rfl
@[simp] theorem State.setDie_bustat (s : State) (k : Nat) (x : Die) : (s.setDie k x).bustat = s.bustat := rfl
@[simp] theorem State.setDie_bring (s : State) (k : Nat) (x : Die) : (s.setDie k x).bring = s.bring := rfl
@[simp] theorem State.setDie_routes (s : State) (k : Nat) (x : Die) : (s.setDie k x).routes = s.routes := rfl
@[simp] theorem State.setDie_ready (s : State) (k : Nat) (x : Die) : (s.setDie k x).ready = s.ready := rfl
@[simp] theorem State.setDie_telcfg (s : State) (k : Nat) (x : Die) : (s.setDie k x).telcfg = s.telcfg := rfl
@[simp] theorem State.setDie_shedcfg (s : State) (k : Nat) (x : Die) : (s.setDie k x).shedcfg = s.shedcfg := rfl
@[simp] theorem State.setDie_shedEff (s : State) (k : Nat) (x : Die) : (s.setDie k x).shedEff = s.shedEff := rfl
@[simp] theorem State.setDie_curves (s : State) (k : Nat) (x : Die) : (s.setDie k x).curves = s.curves := rfl
@[simp] theorem State.setDie_telstat0 (s : State) (k : Nat) (x : Die) : (s.setDie k x).telstat0 = s.telstat0 := rfl
@[simp] theorem State.setDie_telstat1 (s : State) (k : Nat) (x : Die) : (s.setDie k x).telstat1 = s.telstat1 := rfl
@[simp] theorem State.setDie_hyst (s : State) (k : Nat) (x : Die) : (s.setDie k x).hyst = s.hyst := rfl
@[simp] theorem State.setDie_frameAt (s : State) (k : Nat) (x : Die) : (s.setDie k x).frameAt = s.frameAt := rfl
@[simp] theorem State.setDie_wakeQ (s : State) (k : Nat) (x : Die) : (s.setDie k x).wakeQ = s.wakeQ := rfl
@[simp] theorem State.setDie_linkReplays (s : State) (k : Nat) (x : Die) : (s.setDie k x).linkReplays = s.linkReplays := rfl
@[simp] theorem State.setDie_linkFails (s : State) (k : Nat) (x : Die) : (s.setDie k x).linkFails = s.linkFails := rfl
@[simp] theorem State.setDie_retraining (s : State) (k : Nat) (x : Die) : (s.setDie k x).retraining = s.retraining := rfl
@[simp] theorem State.setDie_linkDown (s : State) (k : Nat) (x : Die) : (s.setDie k x).linkDown = s.linkDown := rfl
@[simp] theorem State.setDie_portsDown (s : State) (k : Nat) (x : Die) : (s.setDie k x).portsDown = s.portsDown := rfl
@[simp] theorem State.setDie_hostRead (s : State) (k : Nat) (x : Die) : (s.setDie k x).hostRead = s.hostRead := rfl
@[simp] theorem State.setDie_hostTag (s : State) (k : Nat) (x : Die) : (s.setDie k x).hostTag = s.hostTag := rfl
@[simp] theorem State.setDie_fabricRead (s : State) (k : Nat) (x : Die) : (s.setDie k x).fabricRead = s.fabricRead := rfl
@[simp] theorem State.setDie_fabricTag (s : State) (k : Nat) (x : Die) : (s.setDie k x).fabricTag = s.fabricTag := rfl
@[simp] theorem State.setDie_energyMs (s : State) (k : Nat) (x : Die) : (s.setDie k x).energyMs = s.energyMs := rfl
@[simp] theorem State.setDie_agenda (s : State) (k : Nat) (x : Die) : (s.setDie k x).agenda = s.agenda := rfl
@[simp] theorem State.setDie_ev (s : State) (k : Nat) (x : Die) : (s.setDie k x).ev = s.ev := rfl
@[simp] theorem State.setDie_cur (s : State) (k : Nat) (x : Die) : (s.setDie k x).cur = s.cur := rfl
@[simp] theorem State.setDie_word (s : State) (k : Nat) (x : Die) : (s.setDie k x).word = s.word := rfl
@[simp] theorem State.setDie_consumed (s : State) (k : Nat) (x : Die) : (s.setDie k x).consumed = s.consumed := rfl
@[simp] theorem State.setDie_predReads (s : State) (k : Nat) (x : Die) : (s.setDie k x).predReads = s.predReads := rfl
@[simp] theorem State.setDie_stalled (s : State) (k : Nat) (x : Die) : (s.setDie k x).stalled = s.stalled := rfl
@[simp] theorem State.setDie_free (s : State) (k : Nat) (x : Die) : (s.setDie k x).free = s.free := rfl
@[simp] theorem State.setDie_turns (s : State) (k : Nat) (x : Die) : (s.setDie k x).turns = s.turns := rfl
@[simp] theorem State.setDie_fresh (s : State) (k : Nat) (x : Die) : (s.setDie k x).fresh = s.fresh := rfl
@[simp] theorem State.setDie_lateLoads (s : State) (k : Nat) (x : Die) : (s.setDie k x).lateLoads = s.lateLoads := rfl
@[simp] theorem State.die_setDie (s : State) (k : Nat) (x : Die) : (s.setDie k x).die k = x := by
  simp [State.die, State.setDie]
theorem State.die_setDie_other (s : State) {j k : Nat} (x : Die) (h : j ≠ k) : (s.setDie k x).die j = s.die j := by
  simp [State.die, State.setDie, Tab.get_put_other _ _ _ h]
@[simp] theorem State.stream_setDie (s : State) (j k : Nat) (x : Die) : (s.setDie k x).stream j = s.stream j := rfl
@[simp] theorem State.crew_setDie (s : State) (j k : Nat) (x : Die) : (s.setDie k x).crew j = s.crew j := rfl
@[simp] theorem State.gang_setDie (s : State) (j k : Nat) (x : Die) : (s.setDie k x).gang j = s.gang j := rfl
@[simp] theorem State.core_setDie (s : State) (j k : Nat) (x : Die) : (s.setDie k x).core j = s.core j := rfl
@[simp] theorem State.cluster_setDie (s : State) (j k : Nat) (x : Die) : (s.setDie k x).cluster j = s.cluster j := rfl
@[simp] theorem State.part_setDie (s : State) (j k : Nat) (x : Die) : (s.setDie k x).part j = s.part j := rfl
@[simp] theorem State.node_setDie (s : State) (j k : Nat) (x : Die) : (s.setDie k x).node j = s.node j := rfl
@[simp] theorem State.pair_setDie (s : State) (j k : Nat) (x : Die) : (s.setDie k x).pair j = s.pair j := rfl

/-! setPart. -/

@[simp] theorem State.updPart_eq (s : State) (k : Nat) (f : Part → Part) : s.updPart k f = s.setPart k (f (s.part k)) := rfl
@[simp] theorem State.setPart_timestamp (s : State) (k : Nat) (x : Part) : (s.setPart k x).timestamp = s.timestamp := rfl
@[simp] theorem State.setPart_streams (s : State) (k : Nat) (x : Part) : (s.setPart k x).streams = s.streams := rfl
@[simp] theorem State.setPart_crews (s : State) (k : Nat) (x : Part) : (s.setPart k x).crews = s.crews := rfl
@[simp] theorem State.setPart_gangs (s : State) (k : Nat) (x : Part) : (s.setPart k x).gangs = s.gangs := rfl
@[simp] theorem State.setPart_cores (s : State) (k : Nat) (x : Part) : (s.setPart k x).cores = s.cores := rfl
@[simp] theorem State.setPart_clusters (s : State) (k : Nat) (x : Part) : (s.setPart k x).clusters = s.clusters := rfl
@[simp] theorem State.setPart_dies (s : State) (k : Nat) (x : Part) : (s.setPart k x).dies = s.dies := rfl
@[simp] theorem State.setPart_mem (s : State) (k : Nat) (x : Part) : (s.setPart k x).mem = s.mem := rfl
@[simp] theorem State.setPart_marks (s : State) (k : Nat) (x : Part) : (s.setPart k x).marks = s.marks := rfl
@[simp] theorem State.setPart_counters (s : State) (k : Nat) (x : Part) : (s.setPart k x).counters = s.counters := rfl
@[simp] theorem State.setPart_keyids (s : State) (k : Nat) (x : Part) : (s.setPart k x).keyids = s.keyids := rfl
@[simp] theorem State.setPart_hostMem (s : State) (k : Nat) (x : Part) : (s.setPart k x).hostMem = s.hostMem := rfl
@[simp] theorem State.setPart_msgs (s : State) (k : Nat) (x : Part) : (s.setPart k x).msgs = s.msgs := rfl
@[simp] theorem State.setPart_parts (s : State) (k : Nat) (x : Part) : (s.setPart k x).parts = Tab.put k x s.parts := rfl
@[simp] theorem State.setPart_nodes (s : State) (k : Nat) (x : Part) : (s.setPart k x).nodes = s.nodes := rfl
@[simp] theorem State.setPart_past (s : State) (k : Nat) (x : Part) : (s.setPart k x).past = s.past := rfl
@[simp] theorem State.setPart_endRecs (s : State) (k : Nat) (x : Part) : (s.setPart k x).endRecs = s.endRecs := rfl
@[simp] theorem State.setPart_pairs (s : State) (k : Nat) (x : Part) : (s.setPart k x).pairs = s.pairs := rfl
@[simp] theorem State.setPart_colls (s : State) (k : Nat) (x : Part) : (s.setPart k x).colls = s.colls := rfl
@[simp] theorem State.setPart_abandoned (s : State) (k : Nat) (x : Part) : (s.setPart k x).abandoned = s.abandoned := rfl
@[simp] theorem State.setPart_failed (s : State) (k : Nat) (x : Part) : (s.setPart k x).failed = s.failed := rfl
@[simp] theorem State.setPart_failures (s : State) (k : Nat) (x : Part) : (s.setPart k x).failures = s.failures := rfl
@[simp] theorem State.setPart_contexts (s : State) (k : Nat) (x : Part) : (s.setPart k x).contexts = s.contexts := rfl
@[simp] theorem State.setPart_remotes (s : State) (k : Nat) (x : Part) : (s.setPart k x).remotes = s.remotes := rfl
@[simp] theorem State.setPart_opData (s : State) (k : Nat) (x : Part) : (s.setPart k x).opData = s.opData := rfl
@[simp] theorem State.setPart_opBad (s : State) (k : Nat) (x : Part) : (s.setPart k x).opBad = s.opBad := rfl
@[simp] theorem State.setPart_foreign (s : State) (k : Nat) (x : Part) : (s.setPart k x).foreign = s.foreign := rfl
@[simp] theorem State.setPart_foreignVoid (s : State) (k : Nat) (x : Part) : (s.setPart k x).foreignVoid = s.foreignVoid := rfl
@[simp] theorem State.setPart_provisional (s : State) (k : Nat) (x : Part) : (s.setPart k x).provisional = s.provisional := rfl
@[simp] theorem State.setPart_notices (s : State) (k : Nat) (x : Part) : (s.setPart k x).notices = s.notices := rfl
@[simp] theorem State.setPart_releases (s : State) (k : Nat) (x : Part) : (s.setPart k x).releases = s.releases := rfl
@[simp] theorem State.setPart_relSeq (s : State) (k : Nat) (x : Part) : (s.setPart k x).relSeq = s.relSeq := rfl
@[simp] theorem State.setPart_fabricAck (s : State) (k : Nat) (x : Part) : (s.setPart k x).fabricAck = s.fabricAck := rfl
@[simp] theorem State.setPart_ing (s : State) (k : Nat) (x : Part) : (s.setPart k x).ing = s.ing := rfl
@[simp] theorem State.setPart_record (s : State) (k : Nat) (x : Part) : (s.setPart k x).record = s.record := rfl
@[simp] theorem State.setPart_recSeq (s : State) (k : Nat) (x : Part) : (s.setPart k x).recSeq = s.recSeq := rfl
@[simp] theorem State.setPart_held (s : State) (k : Nat) (x : Part) : (s.setPart k x).held = s.held := rfl
@[simp] theorem State.setPart_lost (s : State) (k : Nat) (x : Part) : (s.setPart k x).lost = s.lost := rfl
@[simp] theorem State.setPart_retired (s : State) (k : Nat) (x : Part) : (s.setPart k x).retired = s.retired := rfl
@[simp] theorem State.setPart_lasting (s : State) (k : Nat) (x : Part) : (s.setPart k x).lasting = s.lasting := rfl
@[simp] theorem State.setPart_channels (s : State) (k : Nat) (x : Part) : (s.setPart k x).channels = s.channels := rfl
@[simp] theorem State.setPart_health (s : State) (k : Nat) (x : Part) : (s.setPart k x).health = s.health := rfl
@[simp] theorem State.setPart_seeds (s : State) (k : Nat) (x : Part) : (s.setPart k x).seeds = s.seeds := rfl
@[simp] theorem State.setPart_keys (s : State) (k : Nat) (x : Part) : (s.setPart k x).keys = s.keys := rfl
@[simp] theorem State.setPart_deviceKey (s : State) (k : Nat) (x : Part) : (s.setPart k x).deviceKey = s.deviceKey := rfl
@[simp] theorem State.setPart_firmware (s : State) (k : Nat) (x : Part) : (s.setPart k x).firmware = s.firmware := rfl
@[simp] theorem State.setPart_mboxlo (s : State) (k : Nat) (x : Part) : (s.setPart k x).mboxlo = s.mboxlo := rfl
@[simp] theorem State.setPart_mboxhi (s : State) (k : Nat) (x : Part) : (s.setPart k x).mboxhi = s.mboxhi := rfl
@[simp] theorem State.setPart_mboxAddr (s : State) (k : Nat) (x : Part) : (s.setPart k x).mboxAddr = s.mboxAddr := rfl
@[simp] theorem State.setPart_mboxBusy (s : State) (k : Nat) (x : Part) : (s.setPart k x).mboxBusy = s.mboxBusy := rfl
@[simp] theorem State.setPart_mboxStatus (s : State) (k : Nat) (x : Part) : (s.setPart k x).mboxStatus = s.mboxStatus := rfl
@[simp] theorem State.setPart_aperbase (s : State) (k : Nat) (x : Part) : (s.setPart k x).aperbase = s.aperbase := rfl
@[simp] theorem State.setPart_fabid (s : State) (k : Nat) (x : Part) : (s.setPart k x).fabid = s.fabid := rfl
@[simp] theorem State.setPart_bustat (s : State) (k : Nat) (x : Part) : (s.setPart k x).bustat = s.bustat := rfl
@[simp] theorem State.setPart_bring (s : State) (k : Nat) (x : Part) : (s.setPart k x).bring = s.bring := rfl
@[simp] theorem State.setPart_routes (s : State) (k : Nat) (x : Part) : (s.setPart k x).routes = s.routes := rfl
@[simp] theorem State.setPart_ready (s : State) (k : Nat) (x : Part) : (s.setPart k x).ready = s.ready := rfl
@[simp] theorem State.setPart_telcfg (s : State) (k : Nat) (x : Part) : (s.setPart k x).telcfg = s.telcfg := rfl
@[simp] theorem State.setPart_shedcfg (s : State) (k : Nat) (x : Part) : (s.setPart k x).shedcfg = s.shedcfg := rfl
@[simp] theorem State.setPart_shedEff (s : State) (k : Nat) (x : Part) : (s.setPart k x).shedEff = s.shedEff := rfl
@[simp] theorem State.setPart_curves (s : State) (k : Nat) (x : Part) : (s.setPart k x).curves = s.curves := rfl
@[simp] theorem State.setPart_telstat0 (s : State) (k : Nat) (x : Part) : (s.setPart k x).telstat0 = s.telstat0 := rfl
@[simp] theorem State.setPart_telstat1 (s : State) (k : Nat) (x : Part) : (s.setPart k x).telstat1 = s.telstat1 := rfl
@[simp] theorem State.setPart_hyst (s : State) (k : Nat) (x : Part) : (s.setPart k x).hyst = s.hyst := rfl
@[simp] theorem State.setPart_frameAt (s : State) (k : Nat) (x : Part) : (s.setPart k x).frameAt = s.frameAt := rfl
@[simp] theorem State.setPart_wakeQ (s : State) (k : Nat) (x : Part) : (s.setPart k x).wakeQ = s.wakeQ := rfl
@[simp] theorem State.setPart_linkReplays (s : State) (k : Nat) (x : Part) : (s.setPart k x).linkReplays = s.linkReplays := rfl
@[simp] theorem State.setPart_linkFails (s : State) (k : Nat) (x : Part) : (s.setPart k x).linkFails = s.linkFails := rfl
@[simp] theorem State.setPart_retraining (s : State) (k : Nat) (x : Part) : (s.setPart k x).retraining = s.retraining := rfl
@[simp] theorem State.setPart_linkDown (s : State) (k : Nat) (x : Part) : (s.setPart k x).linkDown = s.linkDown := rfl
@[simp] theorem State.setPart_portsDown (s : State) (k : Nat) (x : Part) : (s.setPart k x).portsDown = s.portsDown := rfl
@[simp] theorem State.setPart_hostRead (s : State) (k : Nat) (x : Part) : (s.setPart k x).hostRead = s.hostRead := rfl
@[simp] theorem State.setPart_hostTag (s : State) (k : Nat) (x : Part) : (s.setPart k x).hostTag = s.hostTag := rfl
@[simp] theorem State.setPart_fabricRead (s : State) (k : Nat) (x : Part) : (s.setPart k x).fabricRead = s.fabricRead := rfl
@[simp] theorem State.setPart_fabricTag (s : State) (k : Nat) (x : Part) : (s.setPart k x).fabricTag = s.fabricTag := rfl
@[simp] theorem State.setPart_energyMs (s : State) (k : Nat) (x : Part) : (s.setPart k x).energyMs = s.energyMs := rfl
@[simp] theorem State.setPart_agenda (s : State) (k : Nat) (x : Part) : (s.setPart k x).agenda = s.agenda := rfl
@[simp] theorem State.setPart_ev (s : State) (k : Nat) (x : Part) : (s.setPart k x).ev = s.ev := rfl
@[simp] theorem State.setPart_cur (s : State) (k : Nat) (x : Part) : (s.setPart k x).cur = s.cur := rfl
@[simp] theorem State.setPart_word (s : State) (k : Nat) (x : Part) : (s.setPart k x).word = s.word := rfl
@[simp] theorem State.setPart_consumed (s : State) (k : Nat) (x : Part) : (s.setPart k x).consumed = s.consumed := rfl
@[simp] theorem State.setPart_predReads (s : State) (k : Nat) (x : Part) : (s.setPart k x).predReads = s.predReads := rfl
@[simp] theorem State.setPart_stalled (s : State) (k : Nat) (x : Part) : (s.setPart k x).stalled = s.stalled := rfl
@[simp] theorem State.setPart_free (s : State) (k : Nat) (x : Part) : (s.setPart k x).free = s.free := rfl
@[simp] theorem State.setPart_turns (s : State) (k : Nat) (x : Part) : (s.setPart k x).turns = s.turns := rfl
@[simp] theorem State.setPart_fresh (s : State) (k : Nat) (x : Part) : (s.setPart k x).fresh = s.fresh := rfl
@[simp] theorem State.setPart_lateLoads (s : State) (k : Nat) (x : Part) : (s.setPart k x).lateLoads = s.lateLoads := rfl
@[simp] theorem State.part_setPart (s : State) (k : Nat) (x : Part) : (s.setPart k x).part k = x := by
  simp [State.part, State.setPart]
theorem State.part_setPart_other (s : State) {j k : Nat} (x : Part) (h : j ≠ k) : (s.setPart k x).part j = s.part j := by
  simp [State.part, State.setPart, Tab.get_put_other _ _ _ h]
@[simp] theorem State.stream_setPart (s : State) (j k : Nat) (x : Part) : (s.setPart k x).stream j = s.stream j := rfl
@[simp] theorem State.crew_setPart (s : State) (j k : Nat) (x : Part) : (s.setPart k x).crew j = s.crew j := rfl
@[simp] theorem State.gang_setPart (s : State) (j k : Nat) (x : Part) : (s.setPart k x).gang j = s.gang j := rfl
@[simp] theorem State.core_setPart (s : State) (j k : Nat) (x : Part) : (s.setPart k x).core j = s.core j := rfl
@[simp] theorem State.cluster_setPart (s : State) (j k : Nat) (x : Part) : (s.setPart k x).cluster j = s.cluster j := rfl
@[simp] theorem State.die_setPart (s : State) (j k : Nat) (x : Part) : (s.setPart k x).die j = s.die j := rfl
@[simp] theorem State.node_setPart (s : State) (j k : Nat) (x : Part) : (s.setPart k x).node j = s.node j := rfl
@[simp] theorem State.pair_setPart (s : State) (j k : Nat) (x : Part) : (s.setPart k x).pair j = s.pair j := rfl

/-! setNode. -/

@[simp] theorem State.updNode_eq (s : State) (k : Nat) (f : Node → Node) : s.updNode k f = s.setNode k (f (s.node k)) := rfl
@[simp] theorem State.setNode_timestamp (s : State) (k : Nat) (x : Node) : (s.setNode k x).timestamp = s.timestamp := rfl
@[simp] theorem State.setNode_streams (s : State) (k : Nat) (x : Node) : (s.setNode k x).streams = s.streams := rfl
@[simp] theorem State.setNode_crews (s : State) (k : Nat) (x : Node) : (s.setNode k x).crews = s.crews := rfl
@[simp] theorem State.setNode_gangs (s : State) (k : Nat) (x : Node) : (s.setNode k x).gangs = s.gangs := rfl
@[simp] theorem State.setNode_cores (s : State) (k : Nat) (x : Node) : (s.setNode k x).cores = s.cores := rfl
@[simp] theorem State.setNode_clusters (s : State) (k : Nat) (x : Node) : (s.setNode k x).clusters = s.clusters := rfl
@[simp] theorem State.setNode_dies (s : State) (k : Nat) (x : Node) : (s.setNode k x).dies = s.dies := rfl
@[simp] theorem State.setNode_mem (s : State) (k : Nat) (x : Node) : (s.setNode k x).mem = s.mem := rfl
@[simp] theorem State.setNode_marks (s : State) (k : Nat) (x : Node) : (s.setNode k x).marks = s.marks := rfl
@[simp] theorem State.setNode_counters (s : State) (k : Nat) (x : Node) : (s.setNode k x).counters = s.counters := rfl
@[simp] theorem State.setNode_keyids (s : State) (k : Nat) (x : Node) : (s.setNode k x).keyids = s.keyids := rfl
@[simp] theorem State.setNode_hostMem (s : State) (k : Nat) (x : Node) : (s.setNode k x).hostMem = s.hostMem := rfl
@[simp] theorem State.setNode_msgs (s : State) (k : Nat) (x : Node) : (s.setNode k x).msgs = s.msgs := rfl
@[simp] theorem State.setNode_parts (s : State) (k : Nat) (x : Node) : (s.setNode k x).parts = s.parts := rfl
@[simp] theorem State.setNode_nodes (s : State) (k : Nat) (x : Node) : (s.setNode k x).nodes = Tab.put k x s.nodes := rfl
@[simp] theorem State.setNode_past (s : State) (k : Nat) (x : Node) : (s.setNode k x).past = s.past := rfl
@[simp] theorem State.setNode_endRecs (s : State) (k : Nat) (x : Node) : (s.setNode k x).endRecs = s.endRecs := rfl
@[simp] theorem State.setNode_pairs (s : State) (k : Nat) (x : Node) : (s.setNode k x).pairs = s.pairs := rfl
@[simp] theorem State.setNode_colls (s : State) (k : Nat) (x : Node) : (s.setNode k x).colls = s.colls := rfl
@[simp] theorem State.setNode_abandoned (s : State) (k : Nat) (x : Node) : (s.setNode k x).abandoned = s.abandoned := rfl
@[simp] theorem State.setNode_failed (s : State) (k : Nat) (x : Node) : (s.setNode k x).failed = s.failed := rfl
@[simp] theorem State.setNode_failures (s : State) (k : Nat) (x : Node) : (s.setNode k x).failures = s.failures := rfl
@[simp] theorem State.setNode_contexts (s : State) (k : Nat) (x : Node) : (s.setNode k x).contexts = s.contexts := rfl
@[simp] theorem State.setNode_remotes (s : State) (k : Nat) (x : Node) : (s.setNode k x).remotes = s.remotes := rfl
@[simp] theorem State.setNode_opData (s : State) (k : Nat) (x : Node) : (s.setNode k x).opData = s.opData := rfl
@[simp] theorem State.setNode_opBad (s : State) (k : Nat) (x : Node) : (s.setNode k x).opBad = s.opBad := rfl
@[simp] theorem State.setNode_foreign (s : State) (k : Nat) (x : Node) : (s.setNode k x).foreign = s.foreign := rfl
@[simp] theorem State.setNode_foreignVoid (s : State) (k : Nat) (x : Node) : (s.setNode k x).foreignVoid = s.foreignVoid := rfl
@[simp] theorem State.setNode_provisional (s : State) (k : Nat) (x : Node) : (s.setNode k x).provisional = s.provisional := rfl
@[simp] theorem State.setNode_notices (s : State) (k : Nat) (x : Node) : (s.setNode k x).notices = s.notices := rfl
@[simp] theorem State.setNode_releases (s : State) (k : Nat) (x : Node) : (s.setNode k x).releases = s.releases := rfl
@[simp] theorem State.setNode_relSeq (s : State) (k : Nat) (x : Node) : (s.setNode k x).relSeq = s.relSeq := rfl
@[simp] theorem State.setNode_fabricAck (s : State) (k : Nat) (x : Node) : (s.setNode k x).fabricAck = s.fabricAck := rfl
@[simp] theorem State.setNode_ing (s : State) (k : Nat) (x : Node) : (s.setNode k x).ing = s.ing := rfl
@[simp] theorem State.setNode_record (s : State) (k : Nat) (x : Node) : (s.setNode k x).record = s.record := rfl
@[simp] theorem State.setNode_recSeq (s : State) (k : Nat) (x : Node) : (s.setNode k x).recSeq = s.recSeq := rfl
@[simp] theorem State.setNode_held (s : State) (k : Nat) (x : Node) : (s.setNode k x).held = s.held := rfl
@[simp] theorem State.setNode_lost (s : State) (k : Nat) (x : Node) : (s.setNode k x).lost = s.lost := rfl
@[simp] theorem State.setNode_retired (s : State) (k : Nat) (x : Node) : (s.setNode k x).retired = s.retired := rfl
@[simp] theorem State.setNode_lasting (s : State) (k : Nat) (x : Node) : (s.setNode k x).lasting = s.lasting := rfl
@[simp] theorem State.setNode_channels (s : State) (k : Nat) (x : Node) : (s.setNode k x).channels = s.channels := rfl
@[simp] theorem State.setNode_health (s : State) (k : Nat) (x : Node) : (s.setNode k x).health = s.health := rfl
@[simp] theorem State.setNode_seeds (s : State) (k : Nat) (x : Node) : (s.setNode k x).seeds = s.seeds := rfl
@[simp] theorem State.setNode_keys (s : State) (k : Nat) (x : Node) : (s.setNode k x).keys = s.keys := rfl
@[simp] theorem State.setNode_deviceKey (s : State) (k : Nat) (x : Node) : (s.setNode k x).deviceKey = s.deviceKey := rfl
@[simp] theorem State.setNode_firmware (s : State) (k : Nat) (x : Node) : (s.setNode k x).firmware = s.firmware := rfl
@[simp] theorem State.setNode_mboxlo (s : State) (k : Nat) (x : Node) : (s.setNode k x).mboxlo = s.mboxlo := rfl
@[simp] theorem State.setNode_mboxhi (s : State) (k : Nat) (x : Node) : (s.setNode k x).mboxhi = s.mboxhi := rfl
@[simp] theorem State.setNode_mboxAddr (s : State) (k : Nat) (x : Node) : (s.setNode k x).mboxAddr = s.mboxAddr := rfl
@[simp] theorem State.setNode_mboxBusy (s : State) (k : Nat) (x : Node) : (s.setNode k x).mboxBusy = s.mboxBusy := rfl
@[simp] theorem State.setNode_mboxStatus (s : State) (k : Nat) (x : Node) : (s.setNode k x).mboxStatus = s.mboxStatus := rfl
@[simp] theorem State.setNode_aperbase (s : State) (k : Nat) (x : Node) : (s.setNode k x).aperbase = s.aperbase := rfl
@[simp] theorem State.setNode_fabid (s : State) (k : Nat) (x : Node) : (s.setNode k x).fabid = s.fabid := rfl
@[simp] theorem State.setNode_bustat (s : State) (k : Nat) (x : Node) : (s.setNode k x).bustat = s.bustat := rfl
@[simp] theorem State.setNode_bring (s : State) (k : Nat) (x : Node) : (s.setNode k x).bring = s.bring := rfl
@[simp] theorem State.setNode_routes (s : State) (k : Nat) (x : Node) : (s.setNode k x).routes = s.routes := rfl
@[simp] theorem State.setNode_ready (s : State) (k : Nat) (x : Node) : (s.setNode k x).ready = s.ready := rfl
@[simp] theorem State.setNode_telcfg (s : State) (k : Nat) (x : Node) : (s.setNode k x).telcfg = s.telcfg := rfl
@[simp] theorem State.setNode_shedcfg (s : State) (k : Nat) (x : Node) : (s.setNode k x).shedcfg = s.shedcfg := rfl
@[simp] theorem State.setNode_shedEff (s : State) (k : Nat) (x : Node) : (s.setNode k x).shedEff = s.shedEff := rfl
@[simp] theorem State.setNode_curves (s : State) (k : Nat) (x : Node) : (s.setNode k x).curves = s.curves := rfl
@[simp] theorem State.setNode_telstat0 (s : State) (k : Nat) (x : Node) : (s.setNode k x).telstat0 = s.telstat0 := rfl
@[simp] theorem State.setNode_telstat1 (s : State) (k : Nat) (x : Node) : (s.setNode k x).telstat1 = s.telstat1 := rfl
@[simp] theorem State.setNode_hyst (s : State) (k : Nat) (x : Node) : (s.setNode k x).hyst = s.hyst := rfl
@[simp] theorem State.setNode_frameAt (s : State) (k : Nat) (x : Node) : (s.setNode k x).frameAt = s.frameAt := rfl
@[simp] theorem State.setNode_wakeQ (s : State) (k : Nat) (x : Node) : (s.setNode k x).wakeQ = s.wakeQ := rfl
@[simp] theorem State.setNode_linkReplays (s : State) (k : Nat) (x : Node) : (s.setNode k x).linkReplays = s.linkReplays := rfl
@[simp] theorem State.setNode_linkFails (s : State) (k : Nat) (x : Node) : (s.setNode k x).linkFails = s.linkFails := rfl
@[simp] theorem State.setNode_retraining (s : State) (k : Nat) (x : Node) : (s.setNode k x).retraining = s.retraining := rfl
@[simp] theorem State.setNode_linkDown (s : State) (k : Nat) (x : Node) : (s.setNode k x).linkDown = s.linkDown := rfl
@[simp] theorem State.setNode_portsDown (s : State) (k : Nat) (x : Node) : (s.setNode k x).portsDown = s.portsDown := rfl
@[simp] theorem State.setNode_hostRead (s : State) (k : Nat) (x : Node) : (s.setNode k x).hostRead = s.hostRead := rfl
@[simp] theorem State.setNode_hostTag (s : State) (k : Nat) (x : Node) : (s.setNode k x).hostTag = s.hostTag := rfl
@[simp] theorem State.setNode_fabricRead (s : State) (k : Nat) (x : Node) : (s.setNode k x).fabricRead = s.fabricRead := rfl
@[simp] theorem State.setNode_fabricTag (s : State) (k : Nat) (x : Node) : (s.setNode k x).fabricTag = s.fabricTag := rfl
@[simp] theorem State.setNode_energyMs (s : State) (k : Nat) (x : Node) : (s.setNode k x).energyMs = s.energyMs := rfl
@[simp] theorem State.setNode_agenda (s : State) (k : Nat) (x : Node) : (s.setNode k x).agenda = s.agenda := rfl
@[simp] theorem State.setNode_ev (s : State) (k : Nat) (x : Node) : (s.setNode k x).ev = s.ev := rfl
@[simp] theorem State.setNode_cur (s : State) (k : Nat) (x : Node) : (s.setNode k x).cur = s.cur := rfl
@[simp] theorem State.setNode_word (s : State) (k : Nat) (x : Node) : (s.setNode k x).word = s.word := rfl
@[simp] theorem State.setNode_consumed (s : State) (k : Nat) (x : Node) : (s.setNode k x).consumed = s.consumed := rfl
@[simp] theorem State.setNode_predReads (s : State) (k : Nat) (x : Node) : (s.setNode k x).predReads = s.predReads := rfl
@[simp] theorem State.setNode_stalled (s : State) (k : Nat) (x : Node) : (s.setNode k x).stalled = s.stalled := rfl
@[simp] theorem State.setNode_free (s : State) (k : Nat) (x : Node) : (s.setNode k x).free = s.free := rfl
@[simp] theorem State.setNode_turns (s : State) (k : Nat) (x : Node) : (s.setNode k x).turns = s.turns := rfl
@[simp] theorem State.setNode_fresh (s : State) (k : Nat) (x : Node) : (s.setNode k x).fresh = s.fresh := rfl
@[simp] theorem State.setNode_lateLoads (s : State) (k : Nat) (x : Node) : (s.setNode k x).lateLoads = s.lateLoads := rfl
@[simp] theorem State.node_setNode (s : State) (k : Nat) (x : Node) : (s.setNode k x).node k = x := by
  simp [State.node, State.setNode]
theorem State.node_setNode_other (s : State) {j k : Nat} (x : Node) (h : j ≠ k) : (s.setNode k x).node j = s.node j := by
  simp [State.node, State.setNode, Tab.get_put_other _ _ _ h]
@[simp] theorem State.stream_setNode (s : State) (j k : Nat) (x : Node) : (s.setNode k x).stream j = s.stream j := rfl
@[simp] theorem State.crew_setNode (s : State) (j k : Nat) (x : Node) : (s.setNode k x).crew j = s.crew j := rfl
@[simp] theorem State.gang_setNode (s : State) (j k : Nat) (x : Node) : (s.setNode k x).gang j = s.gang j := rfl
@[simp] theorem State.core_setNode (s : State) (j k : Nat) (x : Node) : (s.setNode k x).core j = s.core j := rfl
@[simp] theorem State.cluster_setNode (s : State) (j k : Nat) (x : Node) : (s.setNode k x).cluster j = s.cluster j := rfl
@[simp] theorem State.die_setNode (s : State) (j k : Nat) (x : Node) : (s.setNode k x).die j = s.die j := rfl
@[simp] theorem State.part_setNode (s : State) (j k : Nat) (x : Node) : (s.setNode k x).part j = s.part j := rfl
@[simp] theorem State.pair_setNode (s : State) (j k : Nat) (x : Node) : (s.setNode k x).pair j = s.pair j := rfl

/-! setPair. -/

@[simp] theorem State.updPair_eq (s : State) (k : Nat) (f : Pair → Pair) : s.updPair k f = s.setPair k (f (s.pair k)) := rfl
@[simp] theorem State.setPair_timestamp (s : State) (k : Nat) (x : Pair) : (s.setPair k x).timestamp = s.timestamp := rfl
@[simp] theorem State.setPair_streams (s : State) (k : Nat) (x : Pair) : (s.setPair k x).streams = s.streams := rfl
@[simp] theorem State.setPair_crews (s : State) (k : Nat) (x : Pair) : (s.setPair k x).crews = s.crews := rfl
@[simp] theorem State.setPair_gangs (s : State) (k : Nat) (x : Pair) : (s.setPair k x).gangs = s.gangs := rfl
@[simp] theorem State.setPair_cores (s : State) (k : Nat) (x : Pair) : (s.setPair k x).cores = s.cores := rfl
@[simp] theorem State.setPair_clusters (s : State) (k : Nat) (x : Pair) : (s.setPair k x).clusters = s.clusters := rfl
@[simp] theorem State.setPair_dies (s : State) (k : Nat) (x : Pair) : (s.setPair k x).dies = s.dies := rfl
@[simp] theorem State.setPair_mem (s : State) (k : Nat) (x : Pair) : (s.setPair k x).mem = s.mem := rfl
@[simp] theorem State.setPair_marks (s : State) (k : Nat) (x : Pair) : (s.setPair k x).marks = s.marks := rfl
@[simp] theorem State.setPair_counters (s : State) (k : Nat) (x : Pair) : (s.setPair k x).counters = s.counters := rfl
@[simp] theorem State.setPair_keyids (s : State) (k : Nat) (x : Pair) : (s.setPair k x).keyids = s.keyids := rfl
@[simp] theorem State.setPair_hostMem (s : State) (k : Nat) (x : Pair) : (s.setPair k x).hostMem = s.hostMem := rfl
@[simp] theorem State.setPair_msgs (s : State) (k : Nat) (x : Pair) : (s.setPair k x).msgs = s.msgs := rfl
@[simp] theorem State.setPair_parts (s : State) (k : Nat) (x : Pair) : (s.setPair k x).parts = s.parts := rfl
@[simp] theorem State.setPair_nodes (s : State) (k : Nat) (x : Pair) : (s.setPair k x).nodes = s.nodes := rfl
@[simp] theorem State.setPair_past (s : State) (k : Nat) (x : Pair) : (s.setPair k x).past = s.past := rfl
@[simp] theorem State.setPair_endRecs (s : State) (k : Nat) (x : Pair) : (s.setPair k x).endRecs = s.endRecs := rfl
@[simp] theorem State.setPair_pairs (s : State) (k : Nat) (x : Pair) : (s.setPair k x).pairs = Tab.put k x s.pairs := rfl
@[simp] theorem State.setPair_colls (s : State) (k : Nat) (x : Pair) : (s.setPair k x).colls = s.colls := rfl
@[simp] theorem State.setPair_abandoned (s : State) (k : Nat) (x : Pair) : (s.setPair k x).abandoned = s.abandoned := rfl
@[simp] theorem State.setPair_failed (s : State) (k : Nat) (x : Pair) : (s.setPair k x).failed = s.failed := rfl
@[simp] theorem State.setPair_failures (s : State) (k : Nat) (x : Pair) : (s.setPair k x).failures = s.failures := rfl
@[simp] theorem State.setPair_contexts (s : State) (k : Nat) (x : Pair) : (s.setPair k x).contexts = s.contexts := rfl
@[simp] theorem State.setPair_remotes (s : State) (k : Nat) (x : Pair) : (s.setPair k x).remotes = s.remotes := rfl
@[simp] theorem State.setPair_opData (s : State) (k : Nat) (x : Pair) : (s.setPair k x).opData = s.opData := rfl
@[simp] theorem State.setPair_opBad (s : State) (k : Nat) (x : Pair) : (s.setPair k x).opBad = s.opBad := rfl
@[simp] theorem State.setPair_foreign (s : State) (k : Nat) (x : Pair) : (s.setPair k x).foreign = s.foreign := rfl
@[simp] theorem State.setPair_foreignVoid (s : State) (k : Nat) (x : Pair) : (s.setPair k x).foreignVoid = s.foreignVoid := rfl
@[simp] theorem State.setPair_provisional (s : State) (k : Nat) (x : Pair) : (s.setPair k x).provisional = s.provisional := rfl
@[simp] theorem State.setPair_notices (s : State) (k : Nat) (x : Pair) : (s.setPair k x).notices = s.notices := rfl
@[simp] theorem State.setPair_releases (s : State) (k : Nat) (x : Pair) : (s.setPair k x).releases = s.releases := rfl
@[simp] theorem State.setPair_relSeq (s : State) (k : Nat) (x : Pair) : (s.setPair k x).relSeq = s.relSeq := rfl
@[simp] theorem State.setPair_fabricAck (s : State) (k : Nat) (x : Pair) : (s.setPair k x).fabricAck = s.fabricAck := rfl
@[simp] theorem State.setPair_ing (s : State) (k : Nat) (x : Pair) : (s.setPair k x).ing = s.ing := rfl
@[simp] theorem State.setPair_record (s : State) (k : Nat) (x : Pair) : (s.setPair k x).record = s.record := rfl
@[simp] theorem State.setPair_recSeq (s : State) (k : Nat) (x : Pair) : (s.setPair k x).recSeq = s.recSeq := rfl
@[simp] theorem State.setPair_held (s : State) (k : Nat) (x : Pair) : (s.setPair k x).held = s.held := rfl
@[simp] theorem State.setPair_lost (s : State) (k : Nat) (x : Pair) : (s.setPair k x).lost = s.lost := rfl
@[simp] theorem State.setPair_retired (s : State) (k : Nat) (x : Pair) : (s.setPair k x).retired = s.retired := rfl
@[simp] theorem State.setPair_lasting (s : State) (k : Nat) (x : Pair) : (s.setPair k x).lasting = s.lasting := rfl
@[simp] theorem State.setPair_channels (s : State) (k : Nat) (x : Pair) : (s.setPair k x).channels = s.channels := rfl
@[simp] theorem State.setPair_health (s : State) (k : Nat) (x : Pair) : (s.setPair k x).health = s.health := rfl
@[simp] theorem State.setPair_seeds (s : State) (k : Nat) (x : Pair) : (s.setPair k x).seeds = s.seeds := rfl
@[simp] theorem State.setPair_keys (s : State) (k : Nat) (x : Pair) : (s.setPair k x).keys = s.keys := rfl
@[simp] theorem State.setPair_deviceKey (s : State) (k : Nat) (x : Pair) : (s.setPair k x).deviceKey = s.deviceKey := rfl
@[simp] theorem State.setPair_firmware (s : State) (k : Nat) (x : Pair) : (s.setPair k x).firmware = s.firmware := rfl
@[simp] theorem State.setPair_mboxlo (s : State) (k : Nat) (x : Pair) : (s.setPair k x).mboxlo = s.mboxlo := rfl
@[simp] theorem State.setPair_mboxhi (s : State) (k : Nat) (x : Pair) : (s.setPair k x).mboxhi = s.mboxhi := rfl
@[simp] theorem State.setPair_mboxAddr (s : State) (k : Nat) (x : Pair) : (s.setPair k x).mboxAddr = s.mboxAddr := rfl
@[simp] theorem State.setPair_mboxBusy (s : State) (k : Nat) (x : Pair) : (s.setPair k x).mboxBusy = s.mboxBusy := rfl
@[simp] theorem State.setPair_mboxStatus (s : State) (k : Nat) (x : Pair) : (s.setPair k x).mboxStatus = s.mboxStatus := rfl
@[simp] theorem State.setPair_aperbase (s : State) (k : Nat) (x : Pair) : (s.setPair k x).aperbase = s.aperbase := rfl
@[simp] theorem State.setPair_fabid (s : State) (k : Nat) (x : Pair) : (s.setPair k x).fabid = s.fabid := rfl
@[simp] theorem State.setPair_bustat (s : State) (k : Nat) (x : Pair) : (s.setPair k x).bustat = s.bustat := rfl
@[simp] theorem State.setPair_bring (s : State) (k : Nat) (x : Pair) : (s.setPair k x).bring = s.bring := rfl
@[simp] theorem State.setPair_routes (s : State) (k : Nat) (x : Pair) : (s.setPair k x).routes = s.routes := rfl
@[simp] theorem State.setPair_ready (s : State) (k : Nat) (x : Pair) : (s.setPair k x).ready = s.ready := rfl
@[simp] theorem State.setPair_telcfg (s : State) (k : Nat) (x : Pair) : (s.setPair k x).telcfg = s.telcfg := rfl
@[simp] theorem State.setPair_shedcfg (s : State) (k : Nat) (x : Pair) : (s.setPair k x).shedcfg = s.shedcfg := rfl
@[simp] theorem State.setPair_shedEff (s : State) (k : Nat) (x : Pair) : (s.setPair k x).shedEff = s.shedEff := rfl
@[simp] theorem State.setPair_curves (s : State) (k : Nat) (x : Pair) : (s.setPair k x).curves = s.curves := rfl
@[simp] theorem State.setPair_telstat0 (s : State) (k : Nat) (x : Pair) : (s.setPair k x).telstat0 = s.telstat0 := rfl
@[simp] theorem State.setPair_telstat1 (s : State) (k : Nat) (x : Pair) : (s.setPair k x).telstat1 = s.telstat1 := rfl
@[simp] theorem State.setPair_hyst (s : State) (k : Nat) (x : Pair) : (s.setPair k x).hyst = s.hyst := rfl
@[simp] theorem State.setPair_frameAt (s : State) (k : Nat) (x : Pair) : (s.setPair k x).frameAt = s.frameAt := rfl
@[simp] theorem State.setPair_wakeQ (s : State) (k : Nat) (x : Pair) : (s.setPair k x).wakeQ = s.wakeQ := rfl
@[simp] theorem State.setPair_linkReplays (s : State) (k : Nat) (x : Pair) : (s.setPair k x).linkReplays = s.linkReplays := rfl
@[simp] theorem State.setPair_linkFails (s : State) (k : Nat) (x : Pair) : (s.setPair k x).linkFails = s.linkFails := rfl
@[simp] theorem State.setPair_retraining (s : State) (k : Nat) (x : Pair) : (s.setPair k x).retraining = s.retraining := rfl
@[simp] theorem State.setPair_linkDown (s : State) (k : Nat) (x : Pair) : (s.setPair k x).linkDown = s.linkDown := rfl
@[simp] theorem State.setPair_portsDown (s : State) (k : Nat) (x : Pair) : (s.setPair k x).portsDown = s.portsDown := rfl
@[simp] theorem State.setPair_hostRead (s : State) (k : Nat) (x : Pair) : (s.setPair k x).hostRead = s.hostRead := rfl
@[simp] theorem State.setPair_hostTag (s : State) (k : Nat) (x : Pair) : (s.setPair k x).hostTag = s.hostTag := rfl
@[simp] theorem State.setPair_fabricRead (s : State) (k : Nat) (x : Pair) : (s.setPair k x).fabricRead = s.fabricRead := rfl
@[simp] theorem State.setPair_fabricTag (s : State) (k : Nat) (x : Pair) : (s.setPair k x).fabricTag = s.fabricTag := rfl
@[simp] theorem State.setPair_energyMs (s : State) (k : Nat) (x : Pair) : (s.setPair k x).energyMs = s.energyMs := rfl
@[simp] theorem State.setPair_agenda (s : State) (k : Nat) (x : Pair) : (s.setPair k x).agenda = s.agenda := rfl
@[simp] theorem State.setPair_ev (s : State) (k : Nat) (x : Pair) : (s.setPair k x).ev = s.ev := rfl
@[simp] theorem State.setPair_cur (s : State) (k : Nat) (x : Pair) : (s.setPair k x).cur = s.cur := rfl
@[simp] theorem State.setPair_word (s : State) (k : Nat) (x : Pair) : (s.setPair k x).word = s.word := rfl
@[simp] theorem State.setPair_consumed (s : State) (k : Nat) (x : Pair) : (s.setPair k x).consumed = s.consumed := rfl
@[simp] theorem State.setPair_predReads (s : State) (k : Nat) (x : Pair) : (s.setPair k x).predReads = s.predReads := rfl
@[simp] theorem State.setPair_stalled (s : State) (k : Nat) (x : Pair) : (s.setPair k x).stalled = s.stalled := rfl
@[simp] theorem State.setPair_free (s : State) (k : Nat) (x : Pair) : (s.setPair k x).free = s.free := rfl
@[simp] theorem State.setPair_turns (s : State) (k : Nat) (x : Pair) : (s.setPair k x).turns = s.turns := rfl
@[simp] theorem State.setPair_fresh (s : State) (k : Nat) (x : Pair) : (s.setPair k x).fresh = s.fresh := rfl
@[simp] theorem State.setPair_lateLoads (s : State) (k : Nat) (x : Pair) : (s.setPair k x).lateLoads = s.lateLoads := rfl
@[simp] theorem State.pair_setPair (s : State) (k : Nat) (x : Pair) : (s.setPair k x).pair k = x := by
  simp [State.pair, State.setPair]
theorem State.pair_setPair_other (s : State) {j k : Nat} (x : Pair) (h : j ≠ k) : (s.setPair k x).pair j = s.pair j := by
  simp [State.pair, State.setPair, Tab.get_put_other _ _ _ h]
@[simp] theorem State.stream_setPair (s : State) (j k : Nat) (x : Pair) : (s.setPair k x).stream j = s.stream j := rfl
@[simp] theorem State.crew_setPair (s : State) (j k : Nat) (x : Pair) : (s.setPair k x).crew j = s.crew j := rfl
@[simp] theorem State.gang_setPair (s : State) (j k : Nat) (x : Pair) : (s.setPair k x).gang j = s.gang j := rfl
@[simp] theorem State.core_setPair (s : State) (j k : Nat) (x : Pair) : (s.setPair k x).core j = s.core j := rfl
@[simp] theorem State.cluster_setPair (s : State) (j k : Nat) (x : Pair) : (s.setPair k x).cluster j = s.cluster j := rfl
@[simp] theorem State.die_setPair (s : State) (j k : Nat) (x : Pair) : (s.setPair k x).die j = s.die j := rfl
@[simp] theorem State.part_setPair (s : State) (j k : Nat) (x : Pair) : (s.setPair k x).part j = s.part j := rfl
@[simp] theorem State.node_setPair (s : State) (j k : Nat) (x : Pair) : (s.setPair k x).node j = s.node j := rfl

end Sys2Proof.Machine
end

