-- ==== Sys2Proof/Laws/Ops.lean ====
section
/-! SUPPORT. What each shared operation can do, said once: running an instruction, an event, reading operands, writing a
result, completing. -/

namespace Sys2Proof.Machine

/-! Running. -/

theorem run_next {s t : State} {r : Nat} {f : Nat → Except Stop State} (h : s.inHand r) (hf : f r = .ok t) : run s f = .next t := by
  obtain ⟨hc, hr, hb⟩ := h
  obtain ⟨u, hu⟩ := Option.isSome_iff_exists.mp hr
  simp [run, hc, hu, hf, State.consumption, hb]

/-- A completed instruction that read a register of a bank with an error takes its trap instead. -/
theorem run_consumes {s t : State} {x : Trap} {r : Nat} {f : Nat → Except Stop State} (hc : s.cur = some r)
    (hr : (Tab.find r s.streams).isSome = true) (hn : s.consumed = none) (hb : (s.stream r).regBad ≠ []) (hf : f r = .ok t)
    (ht : t.consumed = some x) : run s f = .next (s.takeTrap r x) := by
  obtain ⟨u, hu⟩ := Option.isSome_iff_exists.mp hr
  have hs : { s with consumed := none } = s := by rw [← hn]
  have : s.consumption r t = s.takeTrap r x := by simp only [State.consumption, hb, if_false, ht, hs]
  simp [run, hc, hu, hf, this]

theorem run_trap {s : State} {x : Trap} {r : Nat} {f : Nat → Except Stop State} (h : s.inHand r) (hf : f r = .error (.trap x)) :
    run s f = .next (s.takeTrap r x) := by
  obtain ⟨hc, hr, -⟩ := h
  obtain ⟨u, hu⟩ := Option.isSome_iff_exists.mp hr
  simp [run, hc, hu, hf]

theorem run_stall {s t : State} {r : Nat} {f : Nat → Except Stop State} (h : s.inHand r) (hf : f r = .error (.stall t)) :
    run s f = .next { t with stalled := true } := by
  obtain ⟨hc, hr, -⟩ := h
  obtain ⟨u, hu⟩ := Option.isSome_iff_exists.mp hr
  simp [run, hc, hu, hf]

/-- With no listed stream in hand an instruction faults; otherwise it always answers a next state. -/
theorem run_cases (s : State) (f : Nat → Except Stop State) :
    (run s f = .fault .noStream ∧ ¬∃ r, s.inHand r) ∨ ∃ t, run s f = .next t := by
  unfold run
  cases hc : s.cur with
  | none => exact .inl ⟨rfl, fun ⟨r, h⟩ => by simp [State.inHand, hc] at h⟩
  | some r =>
    simp only
    cases hu : Tab.find r s.streams with
    | none => exact .inl ⟨rfl, fun ⟨q, h⟩ => by simp [State.inHand, hc] at h; obtain ⟨rfl, h, -⟩ := h; simp [hu] at h⟩
    | some u =>
      right
      simp only
      split <;> exact ⟨_, rfl⟩

theorem event_some {s t : State} {f : Ev → State → Option State} (h : f s.ev s = some t) : event s f = .next t := by
  simp [event, h]

theorem event_none {s : State} {f : Ev → State → Option State} (h : f s.ev s = none) : event s f = .next s := by
  simp [event, h]

/-! Operands. -/

theorem checkAll_ok {α : Type} {f : α → Except Stop Unit} {xs : List α} (h : ∀ x ∈ xs, f x = .ok ()) : checkAll f xs = .ok () := by
  induction xs with
  | nil => rfl
  | cons x xs ih =>
    simp only [checkAll, h x (by simp)]
    exact ih fun y hy => h y (by simp [hy])

theorem findSome_none {α β : Type} {f : α → Option β} {xs : List α} (h : ∀ x ∈ xs, f x = none) : xs.findSome? f = none := by
  induction xs with
  | nil => rfl
  | cons x xs ih => simp [h x (by simp), ih fun y hy => h y (by simp [hy])]

theorem checkPop_ok {s : State} {r q : Nat} (h : s.canPop r q = true) : s.checkPop r q = .ok () := by
  unfold State.canPop at h
  unfold State.checkPop
  split at h
  · rename_i e _ hq
    rw [hq]
    simp only
    simp [Option.isNone_iff_eq_none] at h
    simp [h]
  · simp at h

theorem checkPush_ok {s : State} {r q : Nat} (h : s.canPush r q = true) : s.checkPush r q = .ok () := by
  simp only [State.canPush, Bool.and_eq_true, decide_eq_true_eq, Bool.or_eq_true] at h
  unfold State.checkPush
  rcases h.2 with hs | hs <;> simp_all

theorem mem_distinct {n : Nat} {xs : List Nat} : n ∈ distinct xs ↔ n ∈ xs := by
  induction xs with
  | nil => simp [distinct]
  | cons x xs ih =>
    simp only [distinct, List.mem_cons, List.mem_filter, ih]
    by_cases h : n = x <;> simp [h]

theorem checkRoom_ok {s : State} {r : Nat} {dst : Option Dst} (h60 : ∀ d ∈ dst, d.n < 60)
    (hq : ∀ d ∈ dst, 56 ≤ d.n → s.canPush r (d.n - 56) = true) : s.checkRoom r dst = .ok () := by
  cases dst with
  | none => rfl
  | some d =>
    simp only [State.checkRoom]
    split
    · rename_i h; exact checkPush_ok (hq d rfl h.1)
    · rfl

theorem checkPortDst_ok {s : State} {r : Nat} {dst : Option Dst} (h60 : ∀ d ∈ dst, d.n < 60) : s.checkPortDst r dst = .ok () := by
  cases dst with
  | none => rfl
  | some d => simp [State.checkPortDst, show ¬ 60 ≤ d.n from Nat.not_le.mpr (h60 d rfl)]

/-- Registers of a bank without an error leave nothing to consume. -/
theorem noteBanks_clean {s : State} {r : Nat} (h : (s.stream r).regBad = []) (ns : List Nat) : s.noteBanks r ns = s := by
  have : (ns.find? fun n => (s.stream r).regBad.contains n) = none := List.find?_eq_none.mpr fun n _ => by simp [h]
  simp only [State.noteBanks, this]

/-- Readable operands are read: their values, nothing used up, a register bank's error noted. -/
theorem peek_readable {s : State} {r : Nat} {ws : List Want} {dst : Option Dst} (mask : Word) (h : s.readable r ws dst) :
    s.peek r mask ws dst =
      .ok { vals := ws.map (s.plainSrc r), pops := popsOf ws, ports := [], regs := (ws.map Want.regs).foldl (· + ·) 0,
            st := s.noteBanks r (vregsOf ws) } := by
  obtain ⟨hs, hd, hv, hw, hp, h60, hq, ht⟩ := h
  have hs' := findSome_none hs
  have hplain : ∀ w ∈ ws, (match srcOf w.f with
      | .t n => Tab.get [] ([] : Tab Opd) n
      | _ => s.plainSrc r w) = s.plainSrc r w := by
    intro w hw'
    have : ∀ n, srcOf w.f ≠ .t n := by
      intro n hn
      have : n ∈ portsOf ws := mem_distinct.mpr (List.mem_filterMap.mpr ⟨w, hw', by simp [hn]⟩)
      simp [ht] at this
    split
    · rename_i n hn; exact absurd hn (this n)
    · rfl
  have hpops := checkAll_ok fun q hq' => checkPop_ok (hp q hq')
  have hbind : dst.bind (s.dstFault r) = none := by
    cases dst with
    | none => rfl
    | some d => exact hd d rfl
  have hroom := checkRoom_ok h60 hq
  have hport := checkPortDst_ok (s := s) (r := r) h60
  cases dst <;>
  · simp only at hw
    simp only [State.peek, hs', hbind, hv, hw, hpops, hroom, hport, ht]
    simp [bind, Except.bind, pure, Except.pure]
    exact hplain

end Sys2Proof.Machine
end

