-- ==== Sys2Proof/Laws/Frame.lean ====
section
/-! SUPPORT. Frames compose: what changes only a stream and its queues, in the terms of Safety (OnlyStream), and the parts of
an instruction that do no more than that. -/

namespace Sys2Proof.Machine

theorem SameMemory.refl (s : State) : SameMemory s s := ⟨fun _ => rfl, fun _ => rfl, fun _ _ => rfl⟩

theorem SameMemory.trans {s t u : State} (h : SameMemory s t) (k : SameMemory t u) : SameMemory s u :=
  ⟨fun a => (k.1 a).trans (h.1 a), fun a => (k.2.1 a).trans (h.2.1 a), fun g a => (k.2.2 g a).trans (h.2.2 g a)⟩

theorem OnlyStream.refl (s : State) (r : Nat) (e : Stream → Stream) : OnlyStream s s r e :=
  ⟨rfl, fun _ _ => rfl, rfl, fun _ _ => rfl, fun _ => rfl, fun _ => rfl, rfl, SameMemory.refl s⟩

theorem OnlyStream.trans {s t u : State} {r : Nat} {e : Stream → Stream} (h : OnlyStream s t r e) (k : OnlyStream t u r e) :
    OnlyStream s u r e :=
  ⟨k.stream.trans h.stream, fun j hj => (k.streams j hj).trans (h.streams j hj), k.crew.trans h.crew,
    fun j hj => (k.crews j hj).trans (h.crews j hj), fun n => (k.nodes n).trans (h.nodes n), fun p => (k.parts p).trans (h.parts p),
    k.rest.trans h.rest, h.memory.trans k.memory⟩

/-- A coarser eraser. -/
theorem OnlyStream.mono {s t : State} {r : Nat} {e f : Stream → Stream} (h : OnlyStream s t r e)
    (hf : ∀ u v, e u = e v → f u = f v) : OnlyStream s t r f :=
  { h with stream := hf _ _ h.stream }

/-- A change of the stream in the fields left out. -/
theorem OnlyStream.updStream (s : State) (r : Nat) (e : Stream → Stream) (f : Stream → Stream) (h : e (f (s.stream r)) = e (s.stream r)) :
    OnlyStream s (s.updStream r f) r e where
  stream := by simp [h]
  streams := fun j hj => by simp [State.stream_setStream_other _ _ hj]
  crew := rfl
  crews := fun _ _ => rfl
  nodes := fun _ => rfl
  parts := fun _ => rfl
  rest := rfl
  memory := ⟨fun _ => rfl, fun _ => rfl, fun _ _ => rfl⟩

/-- A change of the crew's queues. -/
theorem OnlyStream.updCrew (s : State) (r : Nat) (e : Stream → Stream) (f : Crew → Crew)
    (h : (f (s.crewAt r)).lessQueues = (s.crewAt r).lessQueues) :
    OnlyStream s (s.updCrew (crewOf r) f) r e where
  stream := rfl
  streams := fun _ _ => rfl
  crew := by simpa [State.crewAt] using h
  crews := fun j hj => by simp [State.crew_setCrew_other _ _ hj]
  nodes := fun _ => rfl
  parts := fun _ => rfl
  rest := rfl
  memory := ⟨fun _ => rfl, fun _ => rfl, fun _ _ => rfl⟩

/-- The charge for an instruction. -/
theorem OnlyStream.charge (s : State) (r : Nat) (e : Stream → Stream) (c : Cls) (reads lines : Nat) :
    OnlyStream s (s.chargeInstr r c reads lines) r e where
  stream := rfl
  streams := fun _ _ => rfl
  crew := rfl
  crews := fun _ _ => rfl
  nodes := fun n => by
    simp only [State.chargeInstr, State.charge, State.chargeChain, State.updPart_eq, State.node_setPart]
    by_cases h : n = s.nodeNum r
    · subst h; simp [Node.lessEnergy]
    · simp [State.node_setNode_other _ _ h]
  parts := fun p => by
    simp only [State.chargeInstr, State.charge, State.chargeChain, State.updPart_eq, State.part_setNode]
    by_cases h : p = partOfNode (s.nodeNum r)
    · subst h
      simp only [State.part_setPart, Part.lessEnergy, List.map_map]
      congr 1
      refine List.map_congr_left fun u _ => ?_
      simp only [Function.comp]
      split <;> rfl
    · simp [State.part_setPart_other _ _ h]
  rest := rfl
  memory := ⟨fun _ => rfl, fun _ => rfl, fun _ _ => rfl⟩

/-- The loop-end check changes the program counter, the loop stack and the captured loop buffer only. -/
theorem Stream.loopEnd_core (t : Stream) (ls : List LoopLevel) : (t.loopEnd ls).core = t.core := by
  induction ls generalizing t with
  | nil => rfl
  | cons l ls ih =>
    simp only [Stream.loopEnd]
    split
    · split
      · rfl
      · rw [ih]; rfl
    · rfl

theorem Stream.next_core (t : Stream) : t.next.core = t.core := Stream.loopEnd_core t t.loops

/-- Completing changes only what every completion may change. -/
theorem OnlyStream.complete (s : State) (r : Nat) (c : Cls) (reads lines : Nat) :
    OnlyStream s (s.complete r c reads lines) r Stream.core :=
  (OnlyStream.charge s r _ c reads lines).trans
    (OnlyStream.updStream _ r _ _ (Stream.next_core ((s.chargeInstr r c reads lines).stream r)))

end Sys2Proof.Machine
end

