-- ==== Sys2Proof/Laws/Vector.lean ====
section
/-! SUPPORT. What writing a result and using up the sources do, and the one lemma about the executor of vector instructions. -/

namespace Sys2Proof.Machine

/-! Using up queue entries. -/

/-- A crew whose load queues in a list each gave up their head. -/
def Crew.popAll (c : Crew) (qs : List Nat) : Crew :=
  qs.foldl (fun c q => { c with loadQ := Tab.put q ((Tab.get [] c.loadQ q).drop 1) c.loadQ }) c

theorem Crew.popAll_lessQueues (c : Crew) (qs : List Nat) : (c.popAll qs).lessQueues = c.lessQueues := by
  induction qs generalizing c with
  | nil => rfl
  | cons q qs ih => exact ih _

theorem Crew.popAll_storeQ (c : Crew) (qs : List Nat) : (c.popAll qs).storeQ = c.storeQ := by
  induction qs generalizing c with
  | nil => rfl
  | cons q qs ih => exact ih _

theorem Crew.popAll_loadQ (c : Crew) (qs : List Nat) (hn : qs.Nodup) (q : Nat) :
    Tab.get [] (c.popAll qs).loadQ q = if q ∈ qs then (Tab.get [] c.loadQ q).drop 1 else Tab.get [] c.loadQ q := by
  induction qs generalizing c with
  | nil => simp [Crew.popAll]
  | cons k qs ih =>
    simp only [List.nodup_cons] at hn
    refine (ih _ hn.2).trans ?_
    by_cases hk : q = k
    · subst hk; simp [hn.1]
    · simp [hk, Tab.get_put_other _ _ _ hk]

theorem distinct_nodup (xs : List Nat) : (distinct xs).Nodup := by
  induction xs with
  | nil => simp [distinct]
  | cons x xs ih =>
    simp only [distinct, List.nodup_cons, List.mem_filter, bne_self_eq_false, Bool.false_eq_true, and_false, not_false_eq_true, true_and]
    exact ih.filter _

/-- Using up what was read, when no port was. -/
theorem commit_pops (r : Nat) (p : Peek) (hp : p.ports = []) :
    (State.commit r p).stream r = p.st.stream r ∧ (State.commit r p).crewAt r = (p.st.crewAt r).popAll p.pops ∧
      OnlyStream p.st (State.commit r p) r Stream.core := by
  obtain ⟨vals, pops, ports, regs, s⟩ := p
  simp only at hp
  subst hp
  simp only [State.commit, List.foldl_nil]
  induction pops generalizing s with
  | nil => exact ⟨rfl, rfl, OnlyStream.refl _ _ _⟩
  | cons q qs ih =>
    simp only [List.foldl_cons]
    obtain ⟨h1, h2, h3⟩ := ih (s.updCrew (crewOf r) fun c => { c with loadQ := Tab.put q ((Tab.get [] c.loadQ q).drop 1) c.loadQ })
    refine ⟨h1.trans rfl, ?_, (OnlyStream.updCrew s r _ _ rfl).trans h3⟩
    rw [h2]
    simp [State.crewAt, Crew.popAll]

/-! Writing a result. -/

theorem Stream.vreg_shift (t : Stream) (v : Vec) (n : Nat) : (t.shift v).vreg n = t.vreg n := rfl

theorem Stream.vreg_setV (t : Stream) (n k : Nat) (v : Vec) : (t.setV n v).vreg k = if k = n then v else t.vreg k := by
  by_cases h : k = n
  · subst h; simp [Stream.vreg, Stream.setV]
  · simp [Stream.vreg, Stream.setV, h, Tab.get_put_other _ _ _ h]

/-- Correcting a bank changes nothing but what is known of its errors. -/
theorem Stream.cleanReg_bank (t : Stream) (n : Nat) (mask : Word) : ∃ b, t.cleanReg n mask = { t with regBad := b } := by
  unfold Stream.cleanReg
  split
  · exact ⟨_, rfl⟩
  · exact ⟨t.regBad, rfl⟩

theorem Stream.vreg_cleanReg (t : Stream) (n : Nat) (mask : Word) (k : Nat) : (t.cleanReg n mask).vreg k = t.vreg k := by
  obtain ⟨b, h⟩ := t.cleanReg_bank n mask
  rw [h]; rfl

theorem Stream.putReg_vreg (t : Stream) (n : Nat) (nw : Bool) (mask : Word) (f : Nat → LV) (k : Nat) :
    (t.putReg n nw mask f).vreg k = if nw = false ∧ k = n then (t.vreg n).merge mask f else t.vreg k := by
  unfold Stream.putReg
  cases nw <;> simp [Stream.vreg_cleanReg, Stream.vreg_setV, Stream.vreg_shift]

theorem Stream.putReg_latches (t : Stream) (n : Nat) (nw : Bool) (mask : Word) (f : Nat → LV) :
    (t.putReg n nw mask f).latches = ⟨some ((t.vreg n).merge mask f), none⟩ :: t.latches.take 7 := by
  obtain ⟨b, h⟩ := ((t.shift ((t.vreg n).merge mask f)).setV n ((t.vreg n).merge mask f)).cleanReg_bank n mask
  cases nw <;> simp only [Stream.putReg, h] <;> rfl

theorem Stream.putReg_less (t : Stream) (n : Nat) (nw : Bool) (mask : Word) (f : Nat → LV) :
    (t.putReg n nw mask f).lessVec = t.lessVec := by
  obtain ⟨b, h⟩ := ((t.shift ((t.vreg n).merge mask f)).setV n ((t.vreg n).merge mask f)).cleanReg_bank n mask
  cases nw <;> simp only [Stream.putReg, h] <;> rfl

theorem Stream.putReg_keeps (t : Stream) (n : Nat) (nw : Bool) (mask : Word) (f : Nat → LV) :
    (t.putReg n nw mask f).pc = t.pc ∧ (t.putReg n nw mask f).loops = t.loops ∧ (t.putReg n nw mask f).gen = t.gen := by
  obtain ⟨b, h⟩ := ((t.shift ((t.vreg n).merge mask f)).setV n ((t.vreg n).merge mask f)).cleanReg_bank n mask
  cases nw <;> simp only [Stream.putReg, h] <;> exact ⟨rfl, rfl, rfl⟩

/-- What a write to a register or a store queue does: the stream's registers and latches, the crew's queue. -/
structure Put (s t : State) (r : Nat) (d : Dst) (mask : Word) (val : Nat → Nat × Label) : Prop where
  regs : ∀ n, (t.stream r).vreg n =
    if d.n < 56 ∧ d.nw = false ∧ (n = d.n ∨ d.wide = true ∧ n = d.n + 1)
    then ((s.stream r).vreg n).merge mask fun i => halfLane (val i) (n - d.n) else (s.stream r).vreg n
  latches : (t.stream r).latches = (s.received r d mask val).foldl (fun ls x => ⟨some x, none⟩ :: ls.take 7) (s.stream r).latches
  pushed : ∀ q, Tab.get [] (t.crewAt r).storeQ q =
    Tab.get [] (s.crewAt r).storeQ q ++ if d.n = 56 + q ∧ q < 4 then [⟨Vec.zero.merge mask fun i => halfLane (val i) 0, mask, none⟩] else []
  loadQ : (t.crewAt r).loadQ = (s.crewAt r).loadQ
  less : (t.stream r).lessVec = (s.stream r).lessVec
  pc : (t.stream r).pc = (s.stream r).pc
  loops : (t.stream r).loops = (s.stream r).loops
  gen : (t.stream r).gen = (s.stream r).gen
  only : OnlyStream s t r Stream.lessVec

/-- A write to a register, a pair or a store queue. -/
theorem writeDst_put (s : State) (r : Nat) (d : Dst) (mask : Word) (val : Nat → Nat × Label) (h : d.n < 60) :
    ∃ t, s.writeDst r d mask val = .ok t ∧ Put s t r d mask val := by
  unfold State.writeDst
  by_cases h56 : d.n < 56
  · rw [if_pos h56]
    refine ⟨_, rfl, ?_⟩
    have hq : ∀ q, ¬ (d.n = 56 + q ∧ q < 4) := by omega
    cases hw : d.wide
    · constructor
      · intro n
        simp only [State.updStream_eq, State.stream_setStream, Bool.false_eq_true, if_false, List.range_one, List.foldl_cons, List.foldl_nil,
          Stream.putReg_vreg, Nat.add_zero, h56, true_and]
        by_cases hn : n = d.n
        · subst hn; simp
        · simp [hn, hw]
      · simp [State.updStream_eq, State.received, h56, hw, Stream.putReg_latches, List.range_one]
      · intro q; simp [hq q, State.crewAt]
      · rfl
      · simp [Stream.putReg_less, List.range_one]
      · simp [(Stream.putReg_keeps _ _ _ _ _).1, List.range_one]
      · simp [(Stream.putReg_keeps _ _ _ _ _).2.1, List.range_one]
      · simp [(Stream.putReg_keeps _ _ _ _ _).2.2, List.range_one]
      · exact OnlyStream.updStream s r _ _ (by simp [Stream.putReg_less, List.range_one])
    · have h2 : List.range 2 = [0, 1] := rfl
      constructor
      · intro n
        simp only [State.updStream_eq, State.stream_setStream, if_true, h2, List.foldl_cons, List.foldl_nil,
          Stream.putReg_vreg, true_and, Nat.add_zero, h56]
        cases hnw : d.nw
        · by_cases hn : n = d.n
          · subst hn; simp
          · by_cases hn1 : n = d.n + 1
            · subst hn1; simp [hw]
            · simp [hn, hn1]
        · simp
      · simp only [State.updStream_eq, State.stream_setStream, State.received, h56, hw, if_true, h2, List.foldl_cons, List.foldl_nil,
          Stream.putReg_latches, List.map_cons, List.map_nil, Nat.add_zero, Stream.putReg_vreg]
        simp
      · intro q; simp [hq q, State.crewAt]
      · rfl
      · simp [Stream.putReg_less, h2]
      · simp [(Stream.putReg_keeps _ _ _ _ _).1, h2]
      · simp [(Stream.putReg_keeps _ _ _ _ _).2.1, h2]
      · simp [(Stream.putReg_keeps _ _ _ _ _).2.2, h2]
      · exact OnlyStream.updStream s r _ _ (by simp [Stream.putReg_less, h2])
  · rw [if_neg h56]
    simp only [h, if_true]
    refine ⟨_, rfl, ?_⟩
    constructor
    · intro n; simp [h56, Stream.vreg_shift]
    · simp [State.received, h56, Stream.shift]
    · intro q
      simp only [State.updStream_eq, State.updCrew_eq, State.crewAt, State.crew_setStream, State.crew_setCrew]
      by_cases hq : q = d.n - 56
      · subst hq; rw [if_pos (by omega)]; simp
      · simp [Tab.get_put_other _ _ _ hq, show ¬ (d.n = 56 + q ∧ q < 4) by omega]
    · simp [State.crewAt]
    · simp [Stream.shift, Stream.lessVec, Stream.core]
    · simp [Stream.shift]
    · simp [Stream.shift]
    · simp [Stream.shift]
    · exact (OnlyStream.updCrew s r _ (fun c => { c with storeQ := Tab.put (d.n - 56) (Tab.get [] c.storeQ (d.n - 56) ++
        [⟨Vec.zero.merge mask fun i => halfLane (val i) 0, mask, none⟩]) c.storeQ }) rfl).trans (OnlyStream.updStream _ r _ _ rfl)

theorem lessVec_of_core (u v : Stream) (h : u.core = v.core) : u.lessVec = v.lessVec := by simp [Stream.lessVec, h]

/-- Lanes outside a mask do not matter to a merge. -/
theorem Vec.merge_congr (old : Vec) (mask : Word) {f g : Nat → LV} (h : ∀ i, i < 32 → inMask mask i = true → f i = g i) :
    old.merge mask f = old.merge mask g := by
  unfold Vec.merge Vec.ofFn
  refine List.map_congr_left fun i hi => ?_
  by_cases hm : inMask mask i = true
  · simp [hm, h i (List.mem_range.mp hi) hm]
  · simp [hm]

theorem Put.congr {s t : State} {r : Nat} {d : Dst} {mask : Word} {f g : Nat → Nat × Label} (p : Put s t r d mask f)
    (h : ∀ i, i < 32 → inMask mask i = true → f i = g i) : Put s t r d mask g := by
  have hm : ∀ (old : Vec) k, (old.merge mask fun i => halfLane (f i) k) = old.merge mask fun i => halfLane (g i) k :=
    fun old k => Vec.merge_congr old mask fun i hi hb => by rw [h i hi hb]
  refine { p with regs := ?_, latches := ?_, pushed := ?_ }
  · intro n; rw [p.regs n, hm]
  · rw [p.latches]; simp only [State.received, hm]
  · intro q; rw [p.pushed q]; simp only [hm]

/-- Completing keeps registers, latches, generators and queues, and goes on from where the stream stood. -/
theorem complete_keeps (s : State) (r : Nat) (c : Cls) (reads lines : Nat) :
    let t := s.complete r c reads lines
    (t.stream r).core = (s.stream r).core ∧ t.crewAt r = s.crewAt r ∧
      (t.stream r).pc = (s.stream r).next.pc ∧ (t.stream r).loops = (s.stream r).next.loops := by
  refine ⟨(OnlyStream.complete s r c reads lines).stream, ?_, ?_, ?_⟩
  · simp [State.complete, State.crewAt, State.chargeInstr, State.charge, State.chargeChain]
  · simp [State.complete, State.chargeInstr, State.charge, State.chargeChain]
  · simp [State.complete, State.chargeInstr, State.charge, State.chargeChain]

theorem Stream.loopEnd_pc (t u : Stream) (ls : List LoopLevel) (hp : t.pc = u.pc) :
    (t.loopEnd ls).pc = (u.loopEnd ls).pc ∧ (t.loops = u.loops → (t.loopEnd ls).loops = (u.loopEnd ls).loops) := by
  induction ls generalizing t u with
  | nil => exact ⟨by simp [Stream.loopEnd, hp], fun h => by simp [Stream.loopEnd, h]⟩
  | cons l ls ih =>
    simp only [Stream.loopEnd, hp]
    split
    · split
      · exact ⟨rfl, fun _ => rfl⟩
      · obtain ⟨h1, h2⟩ := ih (t.leaveLevel l ls) (u.leaveLevel l ls) hp
        exact ⟨h1, fun _ => h2 rfl⟩
    · exact ⟨rfl, fun h => h⟩

/-- Where a stream goes on depends on its program counter and loop stack alone. -/
theorem Stream.next_pc {t u : Stream} (hp : t.pc = u.pc) (hl : t.loops = u.loops) :
    t.next.pc = u.next.pc ∧ t.next.loops = u.next.loops := by
  unfold Stream.next
  rw [hl]
  obtain ⟨h1, h2⟩ := Stream.loopEnd_pc t u u.loops hp
  exact ⟨h1, h2 hl⟩

theorem lanes_getD (f : Nat → Nat × Word) {i : Nat} (hi : i < 32) : ((List.range 32).map f).getD i (0, 0) = f i := by
  simp [List.getD_eq_getElem?_getD, hi]

/-- Vector instructions complete on readable operands, with the values their function gives, and change nothing else. -/
theorem aluMask_ok {s : State} {r : Nat} (c : Cls) {mask : Word} {lab : Label} {d : Dst} {srcs : List Want} (draws : Bool)
    (f : Nat → List Nat → Word → Nat × Word) (h : s.readable r srcs (some d))
    (hb : (s.stream r).regBad = []) :
    ∃ t, s.aluMask r c mask lab d srcs draws f = .ok t ∧
      Wrote s t r srcs d mask (fun i =>
        ((f i (srcs.map fun w => s.operand r w i) ((s.stream r).genLane i)).1, Label.join (s.operandsLabel r srcs i) lab)) ∧
      (t.stream r).gen = (if draws then (s.stream r).setGen mask fun i =>
        (f i (srcs.map fun w => s.operand r w i) ((s.stream r).genLane i)).2 else s.stream r).gen ∧
      WentOn s t r ∧ OnlyStream s t r Stream.lessVec := by
  have h60 := h.2.2.2.2.2.1 d rfl
  unfold State.aluMask
  rw [peek_readable mask h, noteBanks_clean hb]
  simp only [bind, Except.bind, Peek.write, pure, Except.pure]
  generalize hout : (List.range 32).map (fun i => if inMask mask i then
    f i ((srcs.map (s.plainSrc r)).map fun o => (o.getD i (0, 0)).1) ((s.stream r).genLane i) else (0, 0)) = out
  have hlane : ∀ i, i < 32 → inMask mask i = true →
      out.getD i (0, 0) = f i (srcs.map fun w => s.operand r w i) ((s.stream r).genLane i) := by
    intro i hi hm
    rw [← hout, lanes_getD _ hi, if_pos hm, List.map_map]
    rfl
  generalize hp : Peek.label (⟨srcs.map (s.plainSrc r), popsOf srcs, [], (srcs.map Want.regs).foldl (· + ·) 0, s⟩ : Peek) = lb
  have hlb : ∀ i, lb i = s.operandsLabel r srcs i := by
    intro i
    rw [← hp]
    simp only [Peek.label, State.operandsLabel, List.foldl_map]
    rfl
  obtain ⟨u, hu, hput⟩ := writeDst_put s r d mask (fun i => ((out.getD i (0, 0)).1, Label.join (lb i) lab)) h60
  have hput := hput.congr (g := fun i =>
      ((f i (srcs.map fun w => s.operand r w i) ((s.stream r).genLane i)).1, Label.join (s.operandsLabel r srcs i) lab))
    fun i hi hm => by simp only [hlane i hi hm, hlb]
  simp only [hu]
  refine ⟨_, rfl, ?_⟩
  obtain ⟨hc1, hc2, hc3⟩ := commit_pops r ⟨srcs.map (s.plainSrc r), popsOf srcs, [], (srcs.map Want.regs).foldl (· + ·) 0, u⟩ rfl
  generalize State.commit r ⟨srcs.map (s.plainSrc r), popsOf srcs, [], (srcs.map Want.regs).foldl (· + ·) 0, u⟩ = v at hc1 hc2 hc3
  simp only at hc1 hc2 hc3
  generalize hw : (if draws = true then v.updStream r fun t => t.setGen mask fun i => (out.getD i (0, 0)).2 else v) = w
  -- what the generator update does
  have hg : (w.stream r).gen = (if draws then (s.stream r).setGen mask fun i =>
        (f i (srcs.map fun w => s.operand r w i) ((s.stream r).genLane i)).2 else s.stream r).gen := by
    rw [← hw]
    cases draws
    · simp [hc1, hput.gen]
    · simp only [if_true, State.updStream_eq, State.stream_setStream, Stream.setGen, hc1]
      refine List.map_congr_left fun i hi => ?_
      have hgl : (u.stream r).genLane i = (s.stream r).genLane i := by simp [Stream.genLane, hput.gen]
      by_cases hm : inMask mask i = true
      · simp only [hm, if_true]; rw [hlane i (List.mem_range.mp hi) hm]
      · simp [hm, hgl]
  have hwv : { w.stream r with gen := [] } = { v.stream r with gen := [] } ∧ w.crewAt r = v.crewAt r ∧
      OnlyStream v w r Stream.lessVec := by
    rw [← hw]
    cases draws
    · exact ⟨rfl, rfl, OnlyStream.refl _ _ _⟩
    · simp only [if_true]
      exact ⟨by simp [Stream.setGen], rfl, OnlyStream.updStream _ _ _ _ rfl⟩
  obtain ⟨hw1, hw2, hw3⟩ := hwv
  rw [hc1] at hw1
  rw [hc2] at hw2
  obtain ⟨hk1, hk2, hk3, hk4⟩ := complete_keeps w r c ((srcs.map Want.regs).foldl (· + ·) 0) 0
  have hk5 := OnlyStream.complete w r c ((srcs.map Want.regs).foldl (· + ·) 0) 0
  generalize w.complete r c ((srcs.map Want.regs).foldl (· + ·) 0) 0 = t at hk1 hk2 hk3 hk4 hk5
  have hv0 : (t.stream r).v = (w.stream r).v := by have h := congrArg Stream.v hk1; exact h
  have hv1 : (w.stream r).v = (u.stream r).v := by have h := congrArg Stream.v hw1; exact h
  have hl0 : (t.stream r).latches = (w.stream r).latches := by have h := congrArg Stream.latches hk1; exact h
  have hl1 : (w.stream r).latches = (u.stream r).latches := by have h := congrArg Stream.latches hw1; exact h
  have hp1 : (w.stream r).pc = (u.stream r).pc := by have h := congrArg Stream.pc hw1; exact h
  have ho1 : (w.stream r).loops = (u.stream r).loops := by have h := congrArg Stream.loops hw1; exact h
  have hg0 : (t.stream r).gen = (w.stream r).gen := by have h := congrArg Stream.gen hk1; exact h
  have hv := hv0.trans hv1
  have hl := hl0.trans hl1
  have hwpc := hp1.trans hput.pc
  have hwloops := ho1.trans hput.loops
  obtain ⟨hn1, hn2⟩ := Stream.next_pc hwpc hwloops
  refine ⟨⟨?_, ?_, ?_, ?_⟩, ?_, ⟨hk3.trans hn1, hk4.trans hn2⟩, ?_⟩
  · intro n
    rw [← hput.regs n]
    simp [Stream.vreg, hv]
  · rw [hl, hput.latches]
  · intro q
    rw [hk2, hw2, Crew.popAll_storeQ, hput.pushed q]
  · intro q
    rw [hk2, hw2, Crew.popAll_loadQ _ (popsOf srcs) (distinct_nodup _), hput.loadQ]
  · exact hg0.trans hg
  · exact ((hput.only.trans (hc3.mono lessVec_of_core)).trans hw3).trans (hk5.mono lessVec_of_core)

/-- On readable operands of which a register's bank holds an error, a vector instruction notes the first such register. -/
theorem aluMask_consumes {s : State} {r n : Nat} (c : Cls) (mask : Word) (lab : Label) {d : Dst} {srcs : List Want} (draws : Bool)
    (f : Nat → List Nat → Word → Nat × Word) (h : s.readable r srcs (some d)) (hn : s.consumed = none)
    (hb : (vregsOf srcs).find? (fun k => (s.stream r).regBad.contains k) = some n) :
    ∃ t, s.aluMask r c mask lab d srcs draws f = .ok t ∧ t.consumed = some (s.bankTrap r n) := by
  have h60 := h.2.2.2.2.2.1 d rfl
  have hs : s.noteBanks r (vregsOf srcs) = { s with consumed := some (s.bankTrap r n) } := by
    simp only [State.noteBanks, hb, hn, Option.getD_none]
  unfold State.aluMask
  rw [peek_readable mask h, hs]
  simp only [bind, Except.bind, Peek.write, pure, Except.pure]
  generalize hg : (fun i => _ : Nat → Nat × Label) = g
  obtain ⟨u, hu, hput⟩ := writeDst_put { s with consumed := some (s.bankTrap r n) } r d mask g h60
  simp only [hu]
  refine ⟨_, rfl, ?_⟩
  have hu' : u.consumed = some (s.bankTrap r n) := congrArg State.consumed hput.only.rest
  generalize hv : State.commit r _ = v
  have hv' : v.consumed = some (s.bankTrap r n) := by
    rw [← hv]
    exact (congrArg State.consumed (commit_pops r ⟨_, _, [], _, u⟩ rfl).2.2.rest).trans hu'
  generalize hw : (if draws = true then _ else v) = w
  have hw' : w.consumed = some (s.bankTrap r n) := by
    rw [← hw]
    cases draws
    · exact hv'
    · exact hv'
  exact (congrArg State.consumed (OnlyStream.complete w r c ((srcs.map Want.regs).foldl (· + ·) 0) 0).rest).trans hw'

end Sys2Proof.Machine
end

