-- ==== Sys2Proof/Laws/Control.lean ====
section
/-! SUPPORT. Predicate writes, and the shape that most instructions without a vector result have: a change of the stream, then
completion. -/

namespace Sys2Proof.Machine

/-- Correcting a bank changes no predicate. -/
theorem Stream.preg_cleanReg (t : Stream) (n : Nat) (mask : Word) (k : Nat) : (t.cleanReg n mask).preg k = t.preg k := by
  obtain ⟨b, h⟩ := t.cleanReg_bank n mask
  rw [h]; rfl

/-- A bank without an error stays as it is. -/
theorem Stream.cleanReg_none (t : Stream) (n : Nat) (mask : Word) (h : t.regBad = []) : t.cleanReg n mask = t := by
  cases t
  subst h
  unfold Stream.cleanReg
  split <;> rfl

/-- A predicate write to a stream whose register bank holds no error is the write of its table. -/
theorem putP_none (t : Stream) (n : Nat) (lanes val : Word) (l : Label) (hb : t.regBad = []) :
  ∃ p, t.putP n lanes val l = { t with p := p } := by
  unfold Stream.putP
  split
  · exact ⟨t.p, rfl⟩
  · rw [Stream.cleanReg_none]
    · unfold Stream.setP
      split
      · exact ⟨t.p, rfl⟩
      · exact ⟨_, rfl⟩
    · unfold Stream.setP
      split <;> exact hb

/-- What a predicate reads after a write. -/
theorem putP_preg (t : Stream) (n : Nat) (lanes val : Word) (l : Label) (k : Nat) :
   (t.putP n lanes val l).preg k = predSet t.preg n lanes val l k := by
  unfold Stream.putP predSet
  split
  · simp_all
  · rename_i h
    simp only [Stream.preg_cleanReg, Stream.setP]
    by_cases h7 : n = 7
    · simp [h7]
    · simp only [h7, if_false]
      by_cases hk : k = n
      · subst hk
        simp only [Stream.preg, h7, if_false, Tab.get_put_same, h, ne_eq, not_false_eq_true, and_self, if_true]
      · simp [Stream.preg, hk, Tab.get_put_other _ _ _ hk]

/-- A write to a predicate of a stream whose register bank holds no error changes the predicates only. -/
theorem putP_core (t : Stream) (n : Nat) (lanes val : Word) (l : Label) (hb : t.regBad = []) :
  { (t.putP n lanes val l) with p := [] } = { t with p := [] } := by
  obtain ⟨p, h⟩ := putP_none t n lanes val l hb
  rw [h]

/-- An instruction that changes its stream and completes. -/
theorem upd_complete {s : State} {r : Nat} {f : Stream → Stream} {e : Stream → Stream} (c rd ln)
   (hpc : (f (s.stream r)).pc = (s.stream r).pc) (hl : (f (s.stream r)).loops = (s.stream r).loops)
   (he : e (f (s.stream r)) = e (s.stream r)) (hcore : ∀ u v : Stream, u.core = v.core → e u = e v) :
   let t := (s.updStream r f).complete r c rd ln
   (t.stream r).core = (f (s.stream r)).core ∧ WentOn s t r ∧ t.crews = s.crews ∧ OnlyStream s t r e := by
  obtain ⟨h1, h2, h3, h4⟩ := complete_keeps (s.updStream r f) r c rd ln
  simp only [State.updStream_eq, State.stream_setStream] at h1 h3 h4
  obtain ⟨n1, n2⟩ := Stream.next_pc hpc hl
  refine ⟨h1, ⟨h3.trans n1, h4.trans n2⟩, ?_, ?_⟩
  · simp [State.complete, State.chargeInstr, State.charge, State.chargeChain]
  · exact (OnlyStream.updStream s r e f he).trans ((OnlyStream.complete _ r c rd ln).mono hcore)

theorem preg_of_core {u v : Stream} (h : u.core = v.core) (n) : u.preg n = v.preg n := by
  have h := congrArg Stream.p h
  have h : u.p = v.p := h
  simp [Stream.preg, h]

theorem lessPred_core (u v : Stream) (h : u.core = v.core) : u.lessPred = v.lessPred := by simp [Stream.lessPred, h]
theorem lessUni_core (u v : Stream) (h : u.core = v.core) : u.lessUni = v.lessUni := by simp [Stream.lessUni, h]

theorem putP_keeps (t : Stream) (n : Nat) (lanes val : Word) (l : Label) (hb : t.regBad = []) :
  (t.putP n lanes val l).pc = t.pc ∧ (t.putP n lanes val l).loops = t.loops ∧ (t.putP n lanes val l).lessPred = t.lessPred := by
  obtain ⟨p, h⟩ := putP_none t n lanes val l hb
  rw [h]
  exact ⟨rfl, rfl, rfl⟩

end Sys2Proof.Machine
end

