-- ==== Sys2Proof/Tests/Slice0.lean ====
section
/-! SUPPORT. Tests: ill-formed instructions, words of the spec, single steps, and for every statement states that meet its
hypotheses. -/

namespace Sys2Proof.Tests

-- One test after the other, so that the file takes no more memory than its largest test.
set_option Elab.async false

open Machine

/-! Ill-formed instructions, one for each check of WellFormed. -/

theorem test_wf_refuses :
    (Instr.tret 1 false).wf = false ∧ (Instr.vote 0 8 false).wf = false ∧ (Instr.any 0 0 8 false).wf = false ∧
    (Instr.all 0 0 8 false).wf = false ∧ (Instr.gset false 8 0).wf = false ∧ (Instr.gset false 0 8).wf = false ∧
    (Instr.gset true 0 1).wf = false ∧ (Instr.bfeImm false 0 0 64 false).wf = false ∧ (Instr.bfeImmU 0 0 64 false).wf = false ∧
    (Instr.atom 9 false 0 0 0 false).wf = false ∧ (Instr.red 7 0 0 0 false).wf = false ∧
    (Instr.eret 1 1).wf = false ∧ (Instr.barinit 1 0 1 false).wf = false ∧ (Instr.bararr 1 0 1 false).wf = false := by decide

theorem test_wf_refuses_commands :
    (Instr.cpy false false 1 0 0 0).wf = false ∧ (Instr.tcopy false false 1 0 0 0).wf = false ∧
    (Instr.tcopy false false 0 0 1 0).wf = false ∧ (Instr.tcopy false false 0 0 0 2).wf = false ∧
    (Instr.wload false false 1 0 false 0).wf = false ∧ (Instr.qmma false false 1 0 false 0 0).wf = false ∧
    (Instr.qmmar false false 1 0 false 0 0).wf = false ∧ (Instr.accz false 1 false 0).wf = false ∧
    (Instr.accld false 1 0 false false 0).wf = false ∧ (Instr.accst false 1 0 false false 0).wf = false ∧
    (Instr.twait 0 true true 0).wf = false ∧ (Instr.twait 0 true false 1).wf = false ∧
    (Instr.wfree false 1 0).wf = false ∧ (Instr.coll false 1 0 0).wf = false := by decide

/-! Words: those of the spec's worked examples, and words laid out field by field from 05 R120. -/

theorem test_decode_control :
    decode 0x00800000 = .ok .exit ∧ decode 0x08880004 = .ok (.brc false 1 false 4) ∧ decode 0x0AA9800E = .ok (.loop 0x53 14) ∧
    decode 0x03C50000 = .ok (.getem 10) ∧ decode 0x04058200 = .ok (.vote 11 2 false) ∧ decode 0x05050001 = .ok (.gets false 10 1) ∧
    decode 0x01468001 = .ok (.tret 13 true) ∧ decode 0x02BA8000 = .ok (.modeM1 0x3A8000) := by decide
theorem test_decode_integer :
    decode 0x2003C106 = .ok (.iadd false 7 65 3 false) ∧ decode 0x2C05FFFF = .ok (.lim false 11 0x7FFF) ∧
    decode 0x2C43B333 = .ok (.limh false 7 0x3333) ∧ decode 0x27035206 = .ok (.lea false 6 82 3 false) ∧
    decode 0x2A458A20 = .ok (.shrImm false 11 10 16 false) ∧ decode 0x27413800 = .ok (.mov false 2 56 false) := by decide
theorem test_decode_uniform :
    decode 0xA002D1A4 = .ok (.iaddU 5 81 82 false) ∧ decode 0xA8015202 = .ok (.iaddImmU 2 82 1 false) ∧
    decode 0xAC0100FF = .ok (.limU 2 255) ∧ decode 0xB000D1A4 = .ok (.faddU 1 81 82 false) := by decide
theorem test_decode_float :
    decode 0x3021D005 = .ok (.fadd true 3 80 2 true) ∧ decode 0x30C28102 = .ok (.ffma false 5 1 1 false) ∧
    decode 0x32C10106 = .ok (.cvt false 2 1 3) ∧ decode 0x33041402 = .ok (.fqblk false 8 20 true) := by decide
theorem test_decode_lanes :
    decode 0x3A820102 = .ok (.lprevImm false 4 1 1 false) ∧ decode 0x39828120 = .ok (.cscan false 5 1 true 0 false) ∧
    decode 0x39418100 = .ok (.cred false 3 1 0 false) := by decide
theorem test_decode_memory :
    decode 0x40010400 = .ok (.ld 0 false 2 4 0 false) ∧ decode 0x4283D2FE = .ok (.ldu 2 7 82 127 false) ∧
    decode 0x46008601 = .ok (.stq 0 1 6 0 true) ∧ decode 0x44055100 = .ok (.lds false 10 81 0 false) ∧
    decode 0x51C20683 = .ok (.atom 7 false 4 6 0x41 true) ∧ decode 0x55820600 = .ok (.red 6 4 6 0 false) ∧
    decode 0x55C08200 = .ok (.claim false 1 2 0 false) ∧ decode 0x5D035000 = .ok (.spbind true 2 80 false) := by decide
theorem test_decode_copies :
    decode 0x58768029 = .ok (.cpy true true 5 80 2 9) ∧ decode 0x58829513 = .ok (.tcopy false false 0 0x52 0x51 3) ∧
    decode 0x59430048 = .ok (.cwait 6 72) ∧ decode 0x5A435100 = .ok (.bararr 6 0x51 0 false) ∧
    decode 0x5A845502 = .ok (.barwait false 8 0x55 1 false) ∧ decode 0x5B000000 = .ok .gbar := by decide
theorem test_decode_matrix :
    decode 0x60800400 = .ok (.qmma false false 0 0 true 0 0) ∧ decode 0x60029000 = .ok (.wload false false 0 0x52 false 0) ∧
    decode 0x62430000 = .ok (.twait 6 false false 0) ∧ decode 0x65000514 = .ok (.rnsmul false 0 5 10 false) := by decide
theorem test_decode_assay :
    decode 0x70050200 = .ok (.vsort 10 2 false false) ∧ decode 0x750B0A01 = .ok (.whash false 22 10 true) ∧
    decode 0x74C01607 = .ok (.wput 22 3 true) ∧ decode 0x74045200 = .ok (.sopen 8 82 false false) ∧
    decode 0x78005400 = .ok (.launch 84 false) ∧ decode 0x7A2EA002 = .ok (.coll true 3 84 2) := by decide
theorem test_decode_privileged :
    decode 0xF0020002 = .ok (.mfp 4 2) ∧ decode 0xF2C00003 = .ok (.halt 3) ∧ decode 0xF0C0482C = .ok (.tlbinv 72 1 6) ∧
    decode 0xF2418200 = .ok (.declass false 3 2 0 false) ∧ decode 0xF182D002 = .ok (.park 5 80 1) ∧
    decode 0xF1C45700 = .ok (.unpark 8 87) := by decide
theorem test_decode_refuses :
    decode 0x06800000 = .ok .unassignedOpcode ∧ decode 0x00000001 = .error .reservedBits ∧ decode 0x59028040 = .error .reservedBits := by
  decide

/-! States: the one gang of State.withFetchWord on core 0, its stream in hand, under a TYPE of 05 R130; and the same with a
page of memory at address 0 that its core's TLB translates. -/

def base : State := { State.reset.withFetchWord 32 0 with cur := some 0 }
def typed (ty : Nat) : State := base.updStream 0 fun t => { t with mode0 := w32 (0x380000 + 0x2000 * ty), mode1 := w32 (0x380000 + 0x2000 * ty) }
def leaf : Leaf := ⟨4096, 0, false, false, false, 0, false, 2, 0, true, true, 0⟩
def mapped (s : State) : State :=
  { s.updCore 0 fun c => { c with tlb := [⟨0, 0, leaf, none⟩] } with bustat := 0x80000001, parts := Tab.put 0 { s.part 0 with ptbase := 1 } s.parts }
def dual (s : State) : State := (s.updGang 0 fun g => { g with single := false }).setStream 1 (s.stream 0)
def super (s : State) : State := s.updStream 0 fun t => { t with priv := true }
def waiting (s : State) (w : Wait) : State := s.updStream 0 fun t => { t with wait := some w }
def noLane (s : State) : State := s.updStream 0 fun t => { t with em := 0 }

theorem ok_of {ε α : Type} {e : Except ε α} (h : (match e with | .ok _ => true | .error _ => false) = true) : ∃ x, e = .ok x := by
  cases e <;> simp_all
theorem some_of {α : Type} {e : Option α} (h : e.isSome = true) : ∃ x, e = some x := Option.isSome_iff_exists.mp h
theorem done_of {ε : Type} {e : Except ε Unit} (h : (match e with | .ok _ => true | .error _ => false) = true) : e = .ok () := by
  cases e <;> simp_all
/-! Witnesses: for each statement, states and operands that meet its hypotheses. -/

theorem witness_StepRunsWhatIsNext :
    let s := State.reset.withFetchWord 32 0x00400000
    (s.tick.turn = .stream 0 ∧ (s.tick.stream 0).owed = none ∧ (s.tick.stream 0).wait = none ∧
      (∃ v, ({ s.tick with cur := some 0, stalled := false, consumed := none } : State).fetch 0 = .word 0x00400000 v ∧
        ¬((v.gangAt 0).req = .boundary ∧ Instr.parkPoint .yield = true ∧ (v.stream 0).intrap = false) ∧ (v.gangAt 0).acquireDue = [] ∧
        (({ v with word := 0x00400000 } : State).updStream 0 fun t => { t with fetched := [] }).rationed 0 .yield = false) ∧
      decode 0x00400000 = .ok .yield) ∧
    ((s.stream 0).captured (s.imageOf 0).1 = false ∧ Tab.find (s.stream 0).pc.toNat (s.stream 0).fetched = none ∧
      (s.stream 0).pc.toNat / 4096 < s.imagePages 0 ∧
      (s.findFrame (s.coreNum 0) (s.imageOf 0).1 (s.partNum 0) (s.imageOf 0).2 ((s.stream 0).pc.toNat / 4096)).isSome = true) ∧
    ({ s with agenda := [(Instr.strikeReport, {})] } : State).agenda = [(Instr.strikeReport, {})] ∧
    Instr.isEvent .strikeReport = true :=
  ⟨⟨by decide, by decide, by decide, ⟨_, rfl, by decide, by decide, by decide⟩, by decide⟩,
    by decide, rfl, by decide⟩

/-- A word that gathers an operand, under RATION 7, after k cycles. -/
def rationing (k : DWord) : State := (State.reset.withFetchWord 32 0x2003C106).updCluster 0 fun c => { c with islctl := 0x70, cycles := k }
/-- The cycles that a cluster delivers in these units. -/
def advance (c : Cluster) (units : Nat) : Nat :=
  let first := if c.phase = 0 then c.period else c.length
  if c.phase + units < first then 0 else 1 + (c.phase + units - first) / c.period
def elapsed : DWord := w64 (advance ((rationing 0).cluster 0) (12 * Config.elapsedNs 0))
theorem some_phase (x : DWord) : (0 + x).toNat % 8 < 7 ∨ (1 + x).toNat % 8 < 7 := by
  have e : (1 + x).toNat = (1 + x.toNat) % 2 ^ 64 := BitVec.toNat_add 1 x
  have := x.isLt
  have z : (0 + x).toNat = (0 + x.toNat) % 2 ^ 64 := BitVec.toNat_add 0 x
  rw [e, z]
  omega
theorem rations_of {c : Cluster} {x : DWord} (h : c.islctl = 0x70) (k : c.cycles = x) (hx : x.toNat % 8 < 7) : c.rations = true := by
  unfold Cluster.rations
  rw [h, k]
  simpa [bits] using hx
def gathered (k : DWord) : Cluster := (rationing k).tick.cluster 0
theorem gathered_islctl (k : DWord) : (gathered k).islctl = 0x70 := rfl
theorem gathered_cycles (k : DWord) : (gathered k).cycles = k + elapsed := by
  show (((rationing k).cluster 0).run (Config.elapsedNs 0)).cycles = _
  rfl
theorem witness_StepRunsWhatIsNext_rationed :
    ∃ k, let q := rationing k
      q.tick.turn = .stream 0 ∧ (q.tick.stream 0).owed = none ∧ (q.tick.stream 0).wait = none ∧
      ∃ v, ({ q.tick with cur := some 0, stalled := false, consumed := none } : State).fetch 0 = .word 0x2003C106 v ∧
        (v.gangAt 0).req ≠ .boundary ∧
        (({ v with word := 0x2003C106 } : State).updStream 0 fun t => { t with fetched := [] }).rationed 0 (.iadd false 7 65 3 false) = true := by
  rcases some_phase elapsed with h | h
  · exact ⟨0, by decide, rfl, rfl, _, rfl, by decide, (Bool.and_eq_true _ _).mpr ⟨rations_of (gathered_islctl 0) (gathered_cycles 0) h, by decide +kernel⟩⟩
  · exact ⟨1, by decide, rfl, rfl, _, rfl, by decide, (Bool.and_eq_true _ _).mpr ⟨rations_of (gathered_islctl 1) (gathered_cycles 1) h, by decide +kernel⟩⟩

theorem witness_DecodeOfEncode : (Instr.tcopy true true 7 72 80 15).wf = true ∧ (encode (.tcopy true true 7 72 80 15)).isSome = true := by decide
theorem witness_EncodeOfDecode :
    decode 0x00C07FFF = .ok .brk ∧ decode 0x01007FFF = .ok .trap ∧ decode 0xFFFFFFFF = .ok .unassignedOpcode ∧
    decode 0x20228206 = .ok (.iadd true 5 2 3 false) := by decide
theorem witness_StepKeepsMemoryForm :
    MemoryInv (State.reset.withFetchWord 32 0x00400000) ∧ ∃ t, step (State.reset.withFetchWord 32 0x00400000) = .next t :=
  ⟨by unfold MemoryInv; decide, _, rfl⟩
theorem witness_MemoryReadsWhatWasWritten : Memory.wf [(5, 7), (9, 1)] = true ∧ 1 < ([3, 4] : List Byte).length := by decide

theorem witness_VectorInstructionsCompute :
    (base.inHand 0 ∧ ∃ x, aluRow (base.stream 0) (.ffma true 55 0 111 true) = some x ∧ (Instr.ffma true 55 0 111 true).wf = true ∧
      x.work = true ∧ base.workOk 0 ∧ x.ok = true ∧ base.readable 0 x.srcs (some x.dst)) ∧
    ((typed 3).inHand 0 ∧ ∃ x, aluRow ((typed 3).stream 0) (.bfeImm false 59 72 63 false) = some x ∧
      (Instr.bfeImm false 59 72 63 false).wf = true ∧ x.ok = true ∧ (typed 3).readable 0 x.srcs (some x.dst)) ∧
    ∃ x, aluRow (base.stream 0) (.iadd true 55 0 111 true) = some x ∧ x.ok = false :=
  ⟨⟨by decide, _, rfl, by decide⟩, ⟨by decide, _, rfl, by decide⟩, _, rfl, by decide⟩
theorem witness_VectorInstructionsCompute_bank :
    let bad := (typed 9).updStream 0 fun t => { t with regBad := [1] }
    bad.cur = some 0 ∧ (Tab.find 0 bad.streams).isSome = true ∧ bad.consumed = none ∧
    ∃ x, aluRow (bad.stream 0) (.iadd false 54 0 110 true) = some x ∧ (Instr.iadd false 54 0 110 true).wf = true ∧ x.ok = true ∧
      bad.readable 0 x.srcs (some x.dst) ∧ (vregsOf x.srcs).find? (fun k => (bad.stream 0).regBad.contains k) = some 1 :=
  ⟨by decide, by decide, by decide, _, rfl, by decide⟩

theorem witness_UniformFormsCompute :
    (∃ x, uniRow ((typed 8).stream 0) (.imadU 30 72 111 false) = some x ∧ x.ok = true ∧ x.wide = false ∧ x.d < 32 ∧
      (typed 8).readable 0 x.srcs none) ∧
    (∃ x, uniRow ((typed 9).stream 0) (.iaddU 30 80 110 false) = some x ∧ x.ok = true ∧ x.wide = true ∧ x.d % 2 = 0 ∧
      (typed 9).readable 0 x.srcs none) ∧
    (∃ x, uniRow ((typed 9).stream 0) (.iaddU 31 80 110 false) = some x ∧ x.wide = true ∧ x.d % 2 = 1) ∧
    (∃ x, uniRow (base.stream 0) (.iaddU 31 80 111 false) = some x ∧ x.ok = false) ∧
    (∃ x, uniRow (base.stream 0) (.movU 32 80 false) = some x ∧ x.work = false ∧ 32 ≤ x.d) ∧ base.workOk 0 :=
  ⟨⟨_, rfl, by decide⟩, ⟨_, rfl, by decide⟩, ⟨_, rfl, by decide⟩, ⟨_, rfl, by decide⟩, ⟨_, rfl, by decide⟩, by decide⟩

theorem witness_CarryInstructionsCompute :
    (∃ f d ws m, carryForm (.iaddc false 59 0 111 false) = some (f, d, ws, m) ∧
      carryType (modeTYPE ((typed 3).stream 0).mode0) = true ∧ (typed 3).readable 0 ws (some d)) ∧
    carryType (modeTYPE ((typed 9).stream 0).mode0) = false ∧ (typed 3).inHand 0 ∧
    ∃ f ws m, carryUForm (.isubbU 31 72 111 false) = some (f, 31, ws, m) ∧ (typed 3).readable 0 ws none :=
  ⟨⟨_, _, _, _, rfl, by decide, by decide⟩, by decide, by decide, _, _, _, rfl, by decide⟩

theorem witness_GetsReadsSpecialRegisters :
    base.inHand 0 ∧ base.readable 0 [] (some { n := 54, wide := decide (2 < 3), nw := true }) ∧
    base.readable 0 [] (some { n := 55, wide := decide (18 < 3), nw := false }) := by decide

theorem witness_LaneFetchesCompute :
    (∃ f, fetchForm (.lnext false 54 0 111 false) = some f ∧
      (typed 9).readable 0 (f.srcs ((typed 9).stream 0)) (some (f.dst ((typed 9).stream 0)))) ∧
    (typed 9).inHand 0 ∧
    ∃ f, castForm (.bcastImm true 55 0 127 true) = some f ∧ (noLane base).inHand 0 ∧
      (noLane base).readable 0 (f.srcs ((noLane base).stream 0)) (some (f.dst ((noLane base).stream 0))) :=
  ⟨⟨_, rfl, by decide⟩, by decide, _, rfl, by decide, by decide⟩

theorem witness_CrewReductionsCompute :
    (typed 3).inHand 0 ∧ credType (modeTYPE ((typed 3).stream 0).mode0) = true ∧
    (typed 3).readable 0 [{ f := 111, wide := false }] (some { n := 55, wide := false, nw := false }) ∧
    credType (modeTYPE ((typed 30).stream 0).mode0) = false ∧ base.readable 0 [{ f := 0 }] (some { n := 55, nw := true }) := by decide

theorem witness_CompareComputes :
    (typed 9).inHand 0 ∧ cmpType (modeTYPE ((typed 9).stream 0).mode0) = true ∧
    (typed 9).readable 0 [{ f := 54, wide := true }, { f := 80, wide := true }] none ∧
    cmpType (modeTYPE ((typed 10).stream 0).mode0) = false := by decide

theorem witness_PredicateInstructionsCompute : base.inHand 0 ∧ (7 : BitVec 7).toNat < 8 := by decide

theorem witness_VotesGuardsAndModeReads :
    base.inHand 0 ∧ (31 : BitVec 6).toNat < 32 ∧ (7 : BitVec 7).toNat < 8 ∧ (0 : BitVec 7).toNat < 8 := by decide

theorem witness_ModeAndMaskWrites :
    let big := base.updStream 0 fun t => t.setC 31 ⟨0x00400000, 0⟩
    modeImageOk (0x398000 : BitVec 22).toNat = true ∧ modeImageOk (0x3FFFFF : BitVec 22).toNat = false ∧
    base.readable 0 [{ f := 72, allow := .uni }] none ∧ modeImageOk (base.operand 0 { f := 72, allow := .uni } 0) = true ∧
    big.inHand 0 ∧ big.readable 0 [{ f := 111, allow := .uni }] none ∧ modeImageOk (big.operand 0 { f := 111, allow := .uni } 0) = false ∧
    ((71 : BitVec 7).toNat < 72 ∧ 72 < (73 : BitVec 7).toNat ∧ 112 ≤ (112 : BitVec 7).toNat) := by decide

/-! Control flow. -/

theorem witness_BranchesTransferControl :
    let off := base.updStream 0 fun t => { t with p := [] }
    off.inHand 0 ∧ ¬((0 : BitVec 3) = 7 ∧ false = true) ∧ (off.stream 0).em &&& ((off.stream 0).preg 0).v = 0 ∧
    (off.stream 0).em &&& ~~~((off.stream 0).preg 0).v ≠ 0 ∧ 0 < signed 18 (1 : BitVec 18).toNat ∧ ¬0 < signed 18 (0 : BitVec 18).toNat := by
  decide

def twoLinks : State := base.updStream 0 fun t => { t with v := [(1, ⟨4, 0⟩ :: List.replicate 31 ⟨8, 0⟩)] }
def stayLinks (n : Nat) : Word := maskWhere fun k => inMask 0xFFFFFFFF k &&
  BitVec.ofNat 24 (bits (twoLinks.operand 0 { f := n, allow := .vec } k) 23 2 * 4) ==
    BitVec.ofNat 24 (bits (twoLinks.operand 0 { f := n, allow := .vec } 0) 23 2 * 4)
theorem witness_IndirectJumpsFollowTheLeadLane_noLane :
    (noLane base).inHand 0 ∧ ((noLane base).stream 0).em = 0 ∧ (noLane base).readable 0 [{ f := 72 }] (some { n := 55, nw := true }) ∧
    (noLane base).readable 0 [{ f := 55, allow := .vec }] none := by decide
theorem witness_IndirectJumpsFollowTheLeadLane :
    twoLinks.inHand 0 ∧ (∃ others, lanesOf (twoLinks.stream 0).em = 0 :: others) ∧ (twoLinks.stream 0).em = 0xFFFFFFFF ∧
    twoLinks.readable 0 [{ f := 72 }] (some { n := 0, nw := false }) ∧ twoLinks.readable 0 [{ f := 1, allow := .vec }] none ∧
    twoLinks.readable 0 [{ f := 55, allow := .vec }] none ∧ stayLinks 1 ≠ 0xFFFFFFFF ∧ stayLinks 55 = 0xFFFFFFFF :=
  ⟨by decide, ⟨_, rfl⟩, by decide, by decide, by decide, by decide, by decide +kernel, by decide +kernel⟩

theorem witness_CallsUseTheReturnStack :
    let full := base.updStream 0 fun t => { t with rets := List.replicate 16 8 }
    let near := base.updStream 0 fun t => { t with rets := List.replicate 15 8 }
    full.inHand 0 ∧ 16 ≤ (full.stream 0).rets.length ∧ (near.stream 0).rets.length < 16 ∧ (∃ pc rest, (near.stream 0).rets = pc :: rest) ∧
    (base.stream 0).rets = [] ∧ near.inHand 0 ∧ near.readable 0 [{ f := 80, allow := .uni }] none ∧
    near.holdsPage 0 (near.inSup 0) ((BitVec.ofNat 24 (bits (near.operand 0 { f := 80, allow := .uni } 0 + 4 * (127 : BitVec 7).toNat) 23 2 * 4)).toNat / 4096) = true :=
  ⟨by decide, by decide, by decide, ⟨_, _, rfl⟩, by decide, by decide, by decide, by decide⟩

theorem witness_LoopsRepeatTheirBody :
    let l (n : Word) : LoopLevel := ⟨4, 8, n, false, false⟩
    let one := base.updStream 0 fun t => t.setC 0 ⟨1, 0⟩
    let deep := one.updStream 0 fun t => { t with loops := List.replicate 4 (l 1) }
    let last (n : Word) := one.updStream 0 fun t => { t with pc := 8, loops := [l n] }
    one.inHand 0 ∧ (1 : BitVec 15) ≠ 0 ∧ one.readable 0 [{ f := 80, allow := .uni }, { f := 72, allow := .uni }] none ∧
    one.operand 0 { f := 80, allow := .uni } 0 ≠ 0 ∧ one.operand 0 { f := 72, allow := .uni } 0 = 0 ∧ (one.stream 0).loops.length < 4 ∧
    4 ≤ (deep.stream 0).loops.length ∧ (deep.stream 0).loops = l 1 :: List.replicate 3 (l 1) ∧ (one.stream 0).loops = [] ∧
    (deep.stream 0).pc ≠ (l 1).stop ∧ ((last 2).stream 0).pc = (l 2).stop ∧ 1 < (l 2).count.toNat ∧ (l 1).count.toNat ≤ 1 ∧
    ((last 1).stream 0).loops = [l 1] := by decide

theorem witness_CrewControlCompletes :
    let one := base.updStream 0 fun t => { t with em := 1 }
    (base.inHand 0 ∧ ((noLane base).stream 0).active false = 0 ∧ (one.stream 0).active false ≠ 0 ∧
      (one.stream 0).live &&& ~~~(one.stream 0).active false ≠ 0 ∧
      (∀ c ∈ one.countingCrews (gangOf 0), (one.stream (32 * gangOf 0 + 2 * c)).wait = none)) ∧
    ((base.stream 0).active false ≠ 0 ∧ (base.stream 0).live &&& ~~~(base.stream 0).active false = 0 ∧ (base.gangAt 0).stack = [] ∧
      (base.gangAt 0).single = true ∧ (∀ c ∈ base.countingCrews (gangOf 0), (base.stream (32 * gangOf 0 + 2 * c)).wait = none)) ∧
    ((mapped base).inHand 0 ∧ (mapped base).readable 0 [{ f := 72, allow := .uni }] none ∧
      (mapped base).operand 0 { f := 72, allow := .uni } 0 + (0 : BitVec 7).toNat < ((mapped base).gangAt 0).pages ∧
      ((mapped base).gangAt 0).pages ≤ (mapped base).operand 0 { f := 72, allow := .uni } 0 + (127 : BitVec 7).toNat) ∧
    ∃ p v x, (mapped base).spotOf ((mapped base).gangAt 0) ((mapped base).stream 0).priv .read
        (va56 (((mapped base).gangAt 0).code.toNat + 4096 * 0)) = (.ok p, v) ∧
      v.window p.pa = .mem x ∧ v.blockMark x 4096 = none :=
  ⟨by decide, by decide, by decide, _, _, _, rfl, rfl, by decide +kernel⟩

/-! Traps and privileged instructions. -/

theorem witness_SystemTrapEntrySavesTheStream :
    (base.stream 0).intrap = false ∧ (base.gangAt 0).parking = false ∧ 9 < ({ cause := 0x10 } : Trap).cause ∧
    ({ cause := 0x10 } : Trap).cause ≠ 0x28 ∧ ({ cause := 0x10 } : Trap).cause ≠ 0x29 := by decide

theorem witness_UserTrapEntry :
    let handled := base.updGang 0 fun g => { g with handler := some 0x40 }
    let inside := base.updStream 0 fun t => { t with hact := true }
    ((handled.stream 0).intrap = false ∧ (handled.gangAt 0).parking = false ∧ 1 ≤ ({ cause := 1 } : Trap).cause ∧
      ({ cause := 8 } : Trap).cause ≤ 8 ∧ (handled.stream 0).hact = false ∧ (handled.gangAt 0).handler = some 0x40 ∧
      (0x40 : BitVec 24).toNat / 4096 < (handled.gangAt 0).pages ∧ handled.holdsPage 0 false ((0x40 : BitVec 24).toNat / 4096) = true) ∧
    ((inside.stream 0).hact = true ∧ (inside.stream 0).intrap = false ∧ (inside.gangAt 0).parking = false) ∧
    (base.stream 0).hact = false ∧ (base.gangAt 0).handler = none := by decide

theorem witness_NestedTrapsAndParks :
    let inside := base.updStream 0 fun t => { t with intrap := true }
    let parks := base.updGang 0 fun g => { g with req := .preempt }
    (inside.stream 0).intrap = true ∧ (parks.stream 0).intrap = false ∧ (parks.gangAt 0).parking = true ∧
    (parks.gangAt 0).single = true ∧ 0 % 2 = 0 ∧ (Tab.find 0 parks.streams).isSome = true ∧
    ({ cause := 0x28 } : Trap).cause = 0x28 ∧ ({ cause := 0x29 } : Trap).cause = 0x29 := by decide

theorem witness_TrapInstructionsTrap :
    base.inHand 0 ∧ (base.stream 0).active false ≠ 0 ∧ (noLane base).inHand 0 ∧ ((noLane base).stream 0).active false = 0 := by decide

theorem witness_TretLeavesTheHandler :
    let inside (c : Word) := base.updStream 0 fun t => { t with hact := true, trapcause := c }
    (inside 8).inHand 0 ∧ (31 : BitVec 6).toNat < 32 ∧ ((inside 8).stream 0).hact = true ∧ ((inside 8).stream 0).trapcause = 8 ∧
    ((inside 1).stream 0).trapcause ≠ 8 ∧ (base.stream 0).hact = false := by decide

theorem witness_EretLeavesTheHandler :
    let inside (c : Word) := (super base).updStream 0 fun t => { t with intrap := true, scause := c }
    ((inside 0x10).inHand 0 ∧ (inside 0x10).superOk 0 ∧ ((inside 0x10).stream 0).intrap = true ∧ (2 : BitVec 2) ≠ 3 ∧
      (31 : BitVec 6).toNat < 32 ∧ bits ((inside 0x10).stream 0).scause.toNat 7 0 ≠ 0x29 ∧
      ((inside 0x10).node ((inside 0x10).nodeNum 0)).endAtEret = false ∧ ((inside 0x10).stream 0).argFault = none) ∧
    bits ((inside 0x29).stream 0).scause.toNat 7 0 = 0x29 ∧ (super base).superOk 0 ∧ ((super base).stream 0).intrap = false := by decide
theorem witness_EretLeavesTheHandler_ended :
    let inside := (super base).updStream 0 fun t => { t with intrap := true, scause := 0x10 }
    let fault := inside.updStream 0 fun t => { t with argFault := some { cause := 0x19 } }
    let ends := inside.updNode 0 fun n => { n with endAtEret := true }
    let two := ends.setStream 2 (ends.stream 0)
    ((fault.stream 0).argFault.isSome = true ∧ (1 : BitVec 2) ≠ 0 ∧ fault.inHand 0) ∧
    (ends.node (ends.nodeNum 0)).endAtEret = true ∧ (ends.handlers (ends.nodeNum 0)).any (· != 0) = false ∧ ends.inHand 0 ∧
    ((two.updGang 0 fun g => { g with crews := 2 }).handlers (two.nodeNum 0)).any (· != 0) = true ∧ two.inHand 0 := by decide

theorem witness_PrivilegedInstructionsTrapAtUserLevel :
    (base.inHand 0 ∧ (base.stream 0).priv = false ∧ base.haulOk 0 ∧ (30 : BitVec 6).toNat < 32 ∧ (30 : BitVec 6).toNat % 2 = 0) ∧
    ((base.privReg 0 0).isSome = true ∧ (base.privReg 0 3).isSome = true ∧ base.readable 0 [uniWide 72 false] none ∧
      base.readable 0 [uniWide 110 true] none ∧ base.srcFault 0 { f := 111 } = none) := by decide

theorem witness_PrivilegedRegistersReadAndWrite :
    ((super base).inHand 0 ∧ (super base).superOk 0 ∧ (∃ old, (super base).privReg 0 0 = some (false, old)) ∧
      (∃ old, (super base).privReg 0 36 = some (true, old)) ∧ (super base).readable 0 [uniWide 72 false] none ∧
      (super base).readable 0 [uniWide 110 true] none) ∧
    mtpOk 38 ((super base).operand 0 (uniWide 72 false) 0) = false ∧ mtpOk 36 ((super base).operand 0 (uniWide 110 true) 0) = true ∧
    (super base).privReg 0 127 = none :=
  ⟨⟨by decide, by decide, ⟨_, rfl⟩, ⟨_, rfl⟩, by decide, by decide⟩, by decide, by decide, by decide⟩

theorem witness_SupervisorInstructionsComplete :
    let s := super (mapped base)
    let may := s.updGang 0 fun g => { g with effcfg := w64 (2 ^ 64 - 1) }
    (s.inHand 0 ∧ s.superOk 0 ∧ s.haulOk 0 ∧ min s.pkgLevel (bits (s.part (s.partNum 0)).pshed.toNat 2 0) = (s.part (s.partNum 0)).level) ∧
    (s.readable 0 [{ f := 111 }] (some { n := 55, nw := true }) ∧ effDECLASS (s.gangAt 0).effcfg = false ∧
      effDECLASS (may.gangAt 0).effcfg = true ∧ may.inHand 0) ∧
    (s.readable 0 [uniWide 110 true] none ∧ s.readable 0 [uniWide 72 false] none ∧
      canonical (s.operand 0 (uniWide 110 true) 0) = true) ∧
    let v := s.updPart 0 fun p => { p with simgsz := 1 }
    v.readable 0 [uni 72] none ∧ v.operand 0 (uni 72) 0 + (0 : BitVec 7).toNat < (v.part (v.partNum 0)).simgsz.toNat ∧
    (v.part (v.partNum 0)).simgsz.toNat ≤ v.operand 0 (uni 72) 0 + (127 : BitVec 7).toNat ∧
    ((v.part (v.partNum 0)).simg.toNat + 4096 * 0) % 2 ^ 64 < 2 ^ 52 ∧ v.wellPlaced 0 4096 = true ∧ v.window 0 = .mem 0 ∧
    v.blockMark 0 4096 = none :=
  ⟨by decide, by decide, by decide, by decide, by decide, by decide, by decide, by decide, rfl, by decide +kernel⟩

def otherGang (s : State) (x : Gang) : State := { s with gangs := Tab.put 1 { x with handle := 7 } s.gangs, crews := Tab.put 16 {} s.crews }
def naming (s : State) (h : Word) : State := s.updStream 0 fun t => t.setC 31 ⟨h, 0⟩
theorem witness_ParkAndUnparkAnswer :
    let s := naming (super base) 7
    let own := naming (super base) 0
    let beside (x : Gang) := otherGang s { s.gangAt 0 with parked := x.parked, shedHold := x.shedHold, part := x.part }
    (s.inHand 0 ∧ s.superOk 0 ∧ s.haulOk 0 ∧ (31 : BitVec 6).toNat < 32 ∧ (111 : BitVec 7).toNat ≠ 72 ∧ s.readable 0 [uni 111] none ∧
      s.byHandle (s.operand 0 (uni 111) 0) = none) ∧
    (own.byHandle (own.operand 0 (uni 111) 0) = some (gangOf 0, own.gangAt 0) ∧ (own.gangAt 0).part = own.partNum 0 ∧
      (own.gangAt 0).parked = false) ∧
    (let v := beside { part := 1 }
     v.byHandle (v.operand 0 (uni 111) 0) = some (1, v.gang 1) ∧ (v.gang 1).part ≠ v.partNum 0) ∧
    (let v := beside {}
     v.byHandle (v.operand 0 (uni 111) 0) = some (1, v.gang 1) ∧ (v.gang 1).part = v.partNum 0 ∧ (v.gang 1).parked = false) ∧
    (let v := beside { parked := true }
     v.byHandle (v.operand 0 (uni 111) 0) = some (1, v.gang 1) ∧ (v.gang 1).parked = true ∧ v.saving 1 = false ∧
       (v.gang 1).shedHold = false ∧ (v.gang 1).assayHold = false) ∧
    let v := beside { parked := true, shedHold := true }
    v.byHandle (v.operand 0 (uni 111) 0) = some (1, v.gang 1) ∧ (v.gang 1).shedHold = true ∧ v.saving 1 = false := by decide

theorem witness_ContextInstructionsComplete :
    let s := naming (super base) 7
    let at_ (n : Word) := s.updStream 0 fun t => t.setC 2 ⟨n, 0⟩
    let saves (w : Wait) := s.updStream 0 fun t => { t with wait := some w }
    (s.inHand 0 ∧ s.superOk 0 ∧ s.haulOk 0 ∧ s.readable 0 [uniPair 82] none ∧ (s.stream 0).wait = none ∧
      s.operand 0 (uniPair 82) 0 % 4096 = 0 ∧ (at_ 4095).operand 0 (uniPair 82) 0 % 4096 ≠ 0) ∧
    (((saves (.ctxsave 0 0 true true (some 0))).stream 0).wait = some (.ctxsave 0 0 true true (some 0)) ∧
      ((saves (.ctxload 0 0 (some 0))).stream 0).wait = some (.ctxload 0 0 (some 0)) ∧
      s.byHandle ((s.stream 0).creg 31).v.toNat = none) ∧
    (let v := otherGang s { s.gangAt 0 with part := 1 }
     v.byHandle ((v.stream 0).creg 31).v.toNat = some (1, v.gang 1) ∧ (v.gang 1).part ≠ v.partNum 0) ∧
    (let v := otherGang s (s.gangAt 0)
     v.byHandle ((v.stream 0).creg 31).v.toNat = some (1, v.gang 1) ∧ (v.gang 1).part = v.partNum 0 ∧ (v.gang 1).parked = false) ∧
    let v := otherGang s { s.gangAt 0 with parked := true }
    v.byHandle ((v.stream 0).creg 31).v.toNat = some (1, v.gang 1) ∧ (v.gang 1).part = v.partNum 0 ∧ (v.gang 1).parked = true := by
  decide

/-! Memory. -/

def queued (what : CopyWhat) (guard : Option Nat) : CopyCmd := { what, guard, batch := 1 }
def few (s : State) : State := s.updStream 0 fun t => { t with em := 1 }
def withV (s : State) (n : Nat) (x : Word) : State := s.updStream 0 fun t => { t with v := Tab.put n (List.replicate 32 ⟨x, 0⟩) t.v }
def late (s : State) : State := { s with lateLoads := true }

theorem witness_LoadsDeliver :
    let s := few (mapped base)
    ((s.inHand 0 ∧ s.haulOk 0 ∧ s.readable 0 [{ f := 54, wide := true }] (some { n := 54, wide := false, nw := false }) ∧
      s.readable 0 [{ f := 54, wide := true }] (some { n := 57, wide := false, nw := false }) ∧ s.readable 0 [uniPair 110] none ∧
      (Tab.get [] (s.crewAt 0).loadQ 3).length < 8 ∧ (s.stream 0).accWidth false ≠ 64) ∧
      (∃ x, s.accessOf 0 63 [0, 1] = .ok x) ∧ ∃ x, s.accessOf 0 88 [0, 1] = .ok x) ∧
    (∃ l, s.loadLanes 0 false 0 (s.laneAsks 0 false 0 54 ((s.stream 0).active false)) = .ok l ∧
      (l.st.acquireIf 0 ⟨0, 4, 0⟩).lateLoads = false) ∧
    (∃ l, (late s).loadLanes 0 false 0 ((late s).laneAsks 0 false 0 54 ((late s).stream 0 |>.active false)) = .ok l ∧
      (l.st.acquireIf 0 ⟨0, 4, 0⟩).lateLoads = true) ∧
    ∃ l, s.loadLanes 0 false 0 [laneAsk 32 0 0 (s.operand 0 (uniPair 110) 0)] = .ok l :=
  ⟨⟨by decide, ok_of (by decide), ok_of (by decide)⟩, ⟨_, rfl, by decide⟩, ⟨_, rfl, by decide⟩, _, rfl⟩

theorem witness_StoresComplete :
    let s := (few (mapped base)).updCrew 0 fun c => { c with storeQ := [(3, [⟨Vec.zero, 1, none⟩])] }
    (s.inHand 0 ∧ s.haulOk 0 ∧ s.readable 0 [{ f := 54, wide := true }, { f := 55, wide := false, allow := .data }] none ∧
      s.readable 0 [uniPair 110, { f := 80 + 31, wide := false, allow := .uni }] none ∧ (s.stream 0).accWidth false ≠ 64 ∧
      s.readable 0 [{ f := 54, wide := true }] none ∧ Tab.get [] (s.crewAt 0).storeQ 3 = [⟨Vec.zero, 1, none⟩]) ∧
    (∃ x, s.accessOf 0 104 [0, 2] = .ok x) ∧
    (∃ y, s.storeLanes 0 false 0 none ((lanesOf ((s.stream 0).active false)).map fun i =>
      (laneAsk 32 0 i (s.operand 0 { f := 54, wide := true } i), s.operand 0 { f := 55, allow := .data } i,
        s.operandLabel 0 { f := 55, allow := .data } i)) = .ok y) ∧
    ∃ y, s.storeLanes 0 false 0 none [(laneAsk 32 0 0 (s.operand 0 (uniPair 110) 0), 0, 0)] = .ok y :=
  ⟨by decide, ok_of (by decide), ok_of (by decide), ok_of (by decide)⟩

theorem mem_of {w : Window} (h : (match w with | .mem _ => true | _ => false) = true) : ∃ a, w = .mem a := by
  cases w <;> simp_all

theorem quiet_mapped : Quiet (few (mapped base)) := by
  refine ⟨rfl, fun die line x h => ?_, fun k sec x h => ?_⟩
  · exact nomatch h.symm.trans (show (few (mapped base)).l2Find die line = none from rfl)
  · rcases k with _ | k
    · simp [show ((few (mapped base)).core 0).l1 = [] from rfl, Tab.find] at h
    · simp [show ((few (mapped base)).core (k + 1)).l1 = [] from rfl, Tab.find] at h

theorem witness_MemoryChangesOnlyWhereStored :
    let s := few (mapped base)
    let asks : List (Ask × Nat × Label) := [(laneAsk 32 0 0 4092, 7, 0)]
    (∃ l, s.loadLanes 0 true 3 [laneAsk 32 0 0 4092] = .ok l) ∧ Quiet s ∧
    (∃ xs s1, s.resolve 0 .write (asks.map Prod.fst) = .ok (xs, s1) ∧
      ∀ x ∈ xs, ∀ p ∈ x.2, p.leaf.cpol = 2 ∧ ∃ a, s.window p.pa = .mem a) ∧ ∃ y, s.storeLanes 0 false 0 none asks = .ok y :=
  ⟨ok_of (by decide), quiet_mapped, ⟨_, _, rfl, by
    intro x hx p hp
    exact ⟨by revert x p; decide, mem_of (by revert x p; decide)⟩⟩, ok_of (by decide)⟩

theorem witness_ScratchpadLoadsAndStores :
    let s := few base
    s.inHand 0 ∧ s.haulOk 0 ∧ s.readable 0 [{ f := 55 }] (some { n := 55, wide := false, nw := false }) ∧
    s.readable 0 [{ f := 55 }, { f := 54, wide := false, allow := .data }] none ∧ s.lateLoads = false ∧
    (∀ x ∈ s.spAsks 0 false 0 55, x.nib = none) ∧
    s.checkScratch 0 true (s.spAsks 0 false 63 55) = .ok () ∧ s.checkScratch 0 false (s.spAsks 0 false 0 55) = .ok () :=
  ⟨by decide, by decide, by decide, by decide, by decide, by decide, done_of (by decide), done_of (by decide)⟩

theorem witness_AtomicsComplete :
    let s := few (typed 3)
    let cas : Instr := .atom 7 false 54 0 0x44 false
    (s.inHand 0 ∧ s.haulOk 0 ∧ cas.wf = true ∧ ∃ f x, atomForm (s.stream 0) true cas = some f ∧ s.atomField 0 0x44 [0, 1, 2, 3] = .ok (true, x) ∧
      atomType f.op 3 = true ∧ s.readable 0 f.srcs f.dst ∧ ∃ l, s.atomics 0 f.op 3 true x [⟨spAsk 32 0 0 0, 0, 0, 0⟩] = .ok l) ∧
    (54 < 56 ∧ 54 % ((if (32 : Nat) = 64 then 2 else 1) * (if (7 : Nat) = 7 then 2 else 1)) = 0) ∧
    ∃ f x, atomForm (s.stream 0) true (.red 6 55 0 0x48 false) = some f ∧ s.atomField 0 0x48 [0, 2] = .ok (true, x) ∧
      s.readable 0 f.srcs f.dst ∧ ∃ l, s.atomics 0 f.op 3 true x [⟨spAsk 32 0 0 0, 0, 0, 0⟩] = .ok l :=
  ⟨⟨by decide, by decide, by decide, _, _, rfl, rfl, by decide, by decide, ok_of (by decide)⟩, by decide,
    _, _, rfl, rfl, by decide, ok_of (by decide)⟩

theorem witness_ScratchpadAtomicsUpdateTheirElement :
    let s := few base
    let y : AtomLane := ⟨spAsk 64 0 31 32760, 5, 0, 0⟩
    (y.ask.addr % y.ask.n = 0 ∧ s.checkScratch 0 true [y.ask] = .ok ()) ∧
    (∃ x, s.inHand 0 ∧ s.haulOk 0 ∧ s.atomField 0 0x44 [0, 1, 2, 3] = .ok (true, x) ∧ x.order = 0 ∧
      s.readable 0 [{ f := 55, wide := false }] (some { n := 55, nw := false })) ∧
    (∃ low rest, s.byVid 0 ((s.stream 0).active false) = low :: rest) ∧ (spAsk 64 0 0 (s.operand 0 { f := 55 } 0)).addr % 8 = 0 ∧
    s.checkScratch 0 true [spAsk 64 0 0 (s.operand 0 { f := 55 } 0)] = .ok () ∧ ((noLane base).stream 0).active false = 0 ∧
    (∃ x, (noLane base).atomField 0 0x08 [0, 1, 2, 3] = .ok (false, x)) ∧ (noLane base).readable 0 [{ f := 54, wide := true }] (some { n := 55, nw := true }) :=
  ⟨⟨by decide, done_of (by decide)⟩, ⟨_, by decide, by decide, rfl, by decide, by decide⟩, ⟨_, _, rfl⟩, by decide,
    done_of (by decide), by decide, ⟨_, rfl⟩, by decide⟩

theorem witness_FencesAndCacheMaintenance :
    let s := few (mapped base)
    let owes := s.updCore 0 fun c => { c with wrotePkg := [1] }
    (s.inHand 0 ∧ s.haulOk 0 ∧ (8 : BitVec 4).toNat < 9 ∧ (3 : BitVec 2) ≠ 0 ∧ s.domainWait (s.coreNum 0) 8 = none ∧
      s.readable 0 [{ f := 54, wide := true }] none) ∧
    (∃ v, owes.domainWait (owes.coreNum 0) 7 = some v) ∧
    ∃ x, s.resolve 0 .read ((lanesOf ((s.stream 0).active false)).map fun i => laneAsk 8 0 i (s.operand 0 { f := 54, wide := true } i)) = .ok x :=
  ⟨by decide, ⟨_, rfl⟩, ok_of (by decide)⟩

def onStreamCore (s : State) : State :=
  { (s.updGang 0 fun g => { g with core := 3 }).updCore 3 fun c => { c with tlb := [⟨0, 0, leaf, none⟩] } with
    mem := wrBytes [] 0 (leBytes 8 0 ++ leBytes 8 (1 + 2 ^ 16 + 2 ^ 32 + 3 * 2 ^ 48)) }
theorem witness_StreamPortInstructions :
    let s := onStreamCore (mapped base)
    (s.inHand 0 ∧ s.haulOk 0 ∧ isStreamCore (s.coreNum 0) = true ∧ s.readable 0 [uniPair 110] none ∧ (31 : BitVec 6).toNat < 32) ∧
    ((dual s).inHand 0 ∧ (dual s).haulOk 0 ∧ ((dual s).gangAt 0).single = false) ∧ isStreamCore (base.coreNum 0) = false := by decide
theorem witness_StreamPortInstructions_descriptor :
    (match (onStreamCore (mapped base)).loadLanes 0 false 0 ((List.range 4).map fun i => laneAsk 64 i 0
        ((onStreamCore (mapped base)).operand 0 (uniPair 110) 0)) with
      | .ok l => (patternOf (l.vals.map fun v => w64 v.2.1)).isSome
      | .error _ => false) = true := by decide +kernel

/-! Copies and barriers. -/

theorem witness_CopyCommandsIssue :
    let s := few base
    let late := s.updStream 0 fun t => { t with opn := 65534, copyQ := List.replicate 15 (queued (.box 0 none) none) }
    let off := s.updStream 0 fun t => { t with guards := [(7, .off)] }
    (late.inHand 0 ∧ late.haulOk 0 ∧ (late.stream 0).opn ≠ 65535 ∧ (late.stream 0).copyQ.length < 16 ∧ bits (14 : BitVec 4).toNat 1 0 ≠ 3 ∧
      late.readable 0 [{ f := 0, wide := false }, { f := 55, wide := false }] none ∧ late.readable 0 (uniPair 110 :: [uni 111]) none) ∧
    ((late.stream 0).active false ≠ 0 ∧ ((noLane base).stream 0).active false = 0 ∧ canonical (late.operand 0 (uniPair 110) 0) = true ∧
      late.operand 0 (uniPair 110) 0 % 64 = 0 ∧ (off.stream 0).guard 7 = .off ∧ (late.stream 0).guard 7 = .unset) := by decide

theorem witness_BatchesSealAndWait :
    let busy (n : BitVec 16) := base.updStream 0 fun t => { t with sealed := n, batchOut := [(1, 1)], copyQ := [queued (.box 0 none) none] }
    let un (n : BitVec 16) := (((busy n).stream 0).sealed - ((busy n).stream 0).done).toNat
    ((busy 31).inHand 0 ∧ (busy 31).haulOk 0 ∧ un 31 < 32 ∧ 32 ≤ un 32 ∧ (busy 32).readable 0 [uni 72] none) ∧
    (((busy 32).stream 0).batchPending 32 = true ∧ ((busy 32).stream 0).heldFor (((busy 32).stream 0).coversUpTo 32) = none ∧ (base.stream 0).batchPending 0 = false) ∧
    ((32 : BitVec 6).toNat ≤ 32 ∧ un 32 ≤ (32 : BitVec 6).toNat ∧ (31 : BitVec 6).toNat < un 32 ∧
      ((busy 32).stream 0).heldFor (fun b => decide (1 ≤ (b - 0).toNat) && decide ((b - 0).toNat ≤ 32 - 31)) = none) := by decide

theorem witness_BarriersCountArrivals :
    let s := few base
    let set := s.updGang 0 fun g => g.putBarrier 0 ⟨0, false, 15, 1, 2, false⟩
    (s.inHand 0 ∧ s.haulOk 0 ∧ s.readable 0 ({ f := 55 } :: [{ f := 0 }]) none ∧ s.readable 0 [{ f := 55 }] none ∧ (s.stream 0).active false ≠ 0 ∧
      ((noLane base).stream 0).active false = 0) ∧
    ((set.gangAt 0).holdsBar 0 = true ∧ set.moving 0 0 16 = false ∧ (1 : BitVec 7).toNat ≠ 0 ∧ ((set.gangAt 0).barrier 0).good = true ∧
      (1 : BitVec 7).toNat ≤ ((set.gangAt 0).barrier 0).remaining ∧ ((set.gangAt 0).barrier 0).remaining < (2 : BitVec 7).toNat) := by decide

theorem witness_BarrierWaitsReturnThePhase :
    let s := few base
    let set (p : Nat) := s.updGang 0 fun g => g.putBarrier 0 ⟨0, false, p, 1, 2, false⟩
    let let_ (b : Bool) := s.updStream 0 fun t => { t with wait := some (.gbar b) }
    (s.inHand 0 ∧ s.haulOk 0 ∧ s.readable 0 [{ f := 55 }] (some { n := 55, nw := true }) ∧ (s.stream 0).active false ≠ 0 ∧
      ((noLane base).stream 0).active false = 0 ∧ ((set 15).gangAt 0).holdsBar 0 = true ∧ (set 15).moving 0 0 16 = false) ∧
    (((set 15).gangAt 0).barrier 0).good = true ∧ (((set 15).gangAt 0).barrier 0).phase ≠ 0 ∧ (((set 0).gangAt 0).barrier 0).phase = 0 ∧
      (s.stream 0).wait = none ∧ ((let_ true).stream 0).wait = some (.gbar true) ∧ (s.stream 0).wait ≠ some (.gbar true) := by decide
theorem witness_BarrierWaitsReturnThePhase_waited :
    let s := (few base).updGang 0 fun g => g.putBarrier 0 ⟨0, false, 15, 1, 2, false⟩
    ∀ x ∈ [(0, false), (15, true)], let t := waiting s (.barwait 0 x.1 none x.2)
      t.inHand 0 ∧ t.haulOk 0 ∧ t.readable 0 [] (some { n := 55, nw := true }) ∧ (t.stream 0).wait = some (.barwait 0 x.1 none x.2) ∧
      (t.gangAt 0).holdsBar 0 = true ∧ t.moving 0 0 16 = false ∧ ((t.gangAt 0).barrier 0).good = true ∧
      (t.gangAt 0).lineBad (0 / 64) = .none ∧ (((t.gangAt 0).barrier 0).phase ≠ x.1 ∨ x.2 = true) := by decide

/-! Residue numbers, conversions, the sort unit and the witness. -/

theorem witness_ResidueInstructionsCompute :
    (∃ f, resForm ((typed 9).stream 0) ((typed 9).rnsmapOf 0) (.rnsmul false 51 51 107 false) = some f ∧ f.ok = true ∧ f.d + f.n ≤ 56 ∧
      (typed 9).readable 0 f.srcs none ∧ ((typed 9).stream 0).arrived f.d f.n) ∧
    (typed 9).inHand 0 ∧ (typed 9).workOk 0 ∧ rnsOff ((typed 9).rnsmapOf 0) = false ∧
    (∃ f, resForm ((typed 4).stream 0) ((typed 4).rnsmapOf 0) (.rnsr true 52 51 false) = some f ∧ f.ok = true ∧ f.n = 4 ∧ f.d + f.n ≤ 56) ∧
    rnsOff ((base.updCluster 0 fun c => { c with rnsmap := 63 }).rnsmapOf 0) = true :=
  ⟨⟨_, rfl, by decide⟩, by decide, by decide, by decide, ⟨_, rfl, by decide⟩, by decide⟩

def types (src dst : Nat) : State :=
  base.updStream 0 fun t => { t with mode0 := w32 (0x380000 + 0x2000 * src), mode1 := w32 (0x380000 + 0x2000 * dst) }
theorem witness_SplitAndBlockConversionsComplete :
    ((types 12 11).inHand 0 ∧ (types 12 11).workOk 0 ∧
      (types 12 11).readable 0 ({ f := 111, wide := false } :: (List.range 3).map fun k => { f := 53 + k }) none) ∧
    (types 13 12).readable 0 ({ f := 54, wide := true } :: (List.range 3).map fun k => { f := 53 + k }) none ∧
    (frozenType (modeTYPE ((types 12 20).stream 0).mode0) = true ∧ isB8 (modeTYPE ((types 12 20).stream 0).mode1) = true ∧
      ((types 12 20).stream 0).arrived 44 12 ∧ ((types 12 20).stream 0).arrived 52 4) := by decide

theorem witness_SortUnitCompletes :
    ((typed 12).inHand 0 ∧ (typed 12).workOk 0 ∧ keyType 12 = true ∧ keyType (modeTYPE (((typed 12).stream 0).mode true)) = true) ∧
    ((typed 12).readable 0 [{ f := 54, allow := .vec }, { f := 55, allow := .vec }] none ∧ ((typed 12).stream 0).arrived 53 3) ∧
    ((typed 3).readable 0 ((List.range 4).map fun k => { f := 52 + k, allow := .vec }) none ∧ ((typed 3).stream 0).arrived 52 4) ∧
    ((typed 8).readable 0 ([{ f := 54, allow := .vec }, { f := 55, allow := .vec }] ++
      (List.range 4).map fun j => { f := 52 + j, allow := .vec }) none ∧ ((63 : BitVec 6).toNat + 1 + 31) / 32 = 2) ∧
    (typed 8).readable 0 [{ f := 54, allow := .vec }, { f := 55, allow := .vec }, { f := 111 }] none := by decide

def proved (s : State) (x : Option (BitVec 64)) (b : Bool) : State :=
  { (s.updGang 0 fun g => { g with wkind := if b then 1 else 0 }) with nodes := Tab.put (s.nodeNum 0) { s.node (s.nodeNum 0) with seed := x } s.nodes }
theorem witness_WitnessInstructionsComplete :
    (base.inHand 0 ∧ base.haulOk 0 ∧ base.workOk 0 ∧ ((proved base none false).gangAt 0).wkind = 0) ∧
    (((proved base (some 9) true).gangAt 0).wkind ≠ 0 ∧ ((proved base (some 9) true).node ((proved base (some 9) true).nodeNum 0)).seed = some 9 ∧
      (proved base (some 9) true).haulOk 0) ∧
    ((proved base none true).node ((proved base none true).nodeNum 0)).seed = none ∧ ((proved base none true).stream 0).wait = none ∧
    (((proved base none true).updStream 0 fun t => { t with wait := some (.wseed 4096 true) }).stream 0).wait = some (.wseed 4096 true) := by
  decide
theorem witness_WitnessInstructionsComplete_words :
    let full (n : Nat) := (typed 9).updGang 0 fun g => { g with witness := List.replicate n (0, 0) }
    ((typed 9).readable 0 [{ f := 110, wide := true }] none ∧ 1 ≤ (9 : BitVec 4).toNat ∧ (typed 9).byVid 0 (((typed 9).stream 0).active true) ≠ []) ∧
    (noLane (typed 9)).byVid 0 (((noLane (typed 9)).stream 0).active true) = [] ∧
    (((full 0).gangAt 0).witness.length + 1 + 64 ≤ 16384 ∧ ∀ n, 16320 ≤ n → 16384 < ((full n).gangAt 0).witness.length + 1 + 64) := by
  refine ⟨by decide, by decide, by decide, fun n h => ?_⟩
  show 16384 < (List.replicate n ((0 : Word), (0 : Label))).length + 1 + 64
  rw [List.length_replicate]; omega
theorem witness_WitnessInstructionsComplete_accumulators :
    let s := (typed 9).updCrew 0 fun c => { c with seed := some 1 }
    (s.workOk 0 ∧ (s.crewAt 0).seed = some 1 ∧ 32 ≤ typeWidth 9 ∧ projType 9 = true) ∧
    s.readable 0 [{ f := 0, wide := true }, { f := 54, wide := true }] (some { n := 54, wide := true, nw := true }) ∧
    s.readable 0 [{ f := 0, wide := true }, { f := 111 }, { f := 54, wide := true }] (some { n := 54, wide := true, nw := false }) := by decide

/-! The matrix engine. -/

def tiles (s : State) (n : Nat) : State := s.updGang 0 fun g => { g with tiles := n }
theorem witness_MatrixCommandsIssue :
    let s := tiles (types 10 11) 16
    (s.inHand 0 ∧ s.haulOk 0 ∧ s.readable 0 [{ f := 110, wide := true, allow := .uni }] none ∧
      s.readable 0 [{ f := 111, wide := false, allow := .uni }] none ∧ s.readable 0 [{ f := 55 }] none ∧ popsOf [{ f := 55 }] = []) ∧
    ((s.stream 0).active false ≠ 0 ∧ ((noLane s).stream 0).active false = 0 ∧ (s.stream 0).mxQ.length < 16) ∧
    (weightType (modeTYPE (s.stream 0).mode1) = true ∧ ¬(isB4 11 = true ∧ modeBLK (s.stream 0).mode1 = 1) ∧
      rowType (modeTYPE (s.stream 0).mode0) = true) ∧
    (∀ n ∈ (List.range 5).map (11 + ·), s.gangTile 0 n < (s.gangAt 0).tiles) ∧ rnsOff (s.rnsmapOf 0) = false := by decide
theorem witness_MatrixCommandsIssue_addresses :
    let s := tiles (types 10 11) 16
    (canonical (s.operand 0 { f := 110, wide := true, allow := .uni } 0) = true ∧ s.operand 0 { f := 110, wide := true, allow := .uni } 0 % 64 = 0) ∧
    (s.operand 0 { f := 111, wide := false, allow := .uni } 0 + 20480 ≤ (s.gangAt 0).spSize) ∧
    (∀ x ∈ (lanesOf ((s.stream 0).active false)).map fun i => (i, s.operand 0 { f := 55 } i % 2 ^ 32), x.2 % 16 = 0 ∧ x.2 + 400 ≤ (s.gangAt 0).spSize) ∧
    (isInt (modeTYPE ((types 1 1).stream 0).mode0) = true ∧ typeWidth (modeTYPE ((types 1 1).stream 0).mode0) = 8) := by decide

theorem witness_TilesAreAwaitedAndRead :
    let s := tiles (typed 12) 16
    let due := s.updStream 0 fun t => { t with mxOut := [(0, [15])] }
    let held := due.updStream 0 fun t => { t with mxQ := [⟨.accz, some 7, 15, 0, false, false, false, 0, 0, 0, [], 0, 0, none⟩] }
    (s.inHand 0 ∧ s.haulOk 0 ∧ s.workOk 0 ∧ (31 : BitVec 6).toNat < 32 ∧ (s.stream 0).mxOut.filter (fun x => true || x.2.any [(0 : Nat)].contains) = []) ∧
    ((due.stream 0).mxOut.filter (fun x => false || x.2.any [15].contains) ≠ [] ∧
      (due.stream 0).heldMx (fun k => ((due.stream 0).mxOut.any fun x => x.1 == k)) = none ∧
      (held.stream 0).heldMx (fun k => ((held.stream 0).mxOut.any fun x => x.1 == k)) = some 7) ∧
    (modeTYPE ((s.stream 0).mode true) ∈ [3, 8, 12] ∧ s.readable 0 [{ f := 0 }] none ∧ (s.stream 0).arrived 51 5) ∧
    (∀ n ∈ (List.range 5).map (11 + ·), s.gangTile 0 n < (s.gangAt 0).tiles) := by decide
theorem witness_TilesAreAwaitedAndRead_range :
    let s := tiles (typed 12) 15
    ((List.range 5).map (11 + ·)).find? (fun n => decide ((s.gangAt 0).tiles ≤ s.gangTile 0 n)) = some 15 ∧ s.inHand 0 ∧ s.haulOk 0 := by
  decide
theorem witness_TilesAreAwaitedAndRead_words :
    let s := few (tiles (typed 12) 16)
    ∀ n ∈ (List.range 5).map (11 + ·), ∀ i ∈ lanesOf ((s.stream 0).active true),
      ((s.gangAt 0).tile (s.gangTile 0 n)).poison.contains (((s.operand 0 { f := 0 } i % 1024 + i) % 1024) / 32) = false := by decide
/-! Nodes, staged pages and collectives. -/

/-- Descriptors at 0x10000 under a page table with one 1 GiB leaf: a node with n staged pages, a kernel, a root RCB of MEMQ q. -/
def described (n q : Nat) : State :=
  let words (l : List Nat) := l.flatMap (leBytes 8)
  { (base.updStream 0 fun t => { t with c := Tab.put 30 ⟨0x10000, 0⟩ t.c }).updGang 0 fun g => { g with rcbptr := 0x10200 } with
    bustat := 0x80000001
    parts := Tab.put 0 { base.part 0 with ptbase := 1, partroot := 0x10200 } base.parts
    dies := Tab.put 0 { base.die 0 with walks := [(0, 0, 0x1001), (0, 0x1000, 0x2001), (0, 0x2000, 0xE)] } base.dies
    mem := wrBytes [] 0x10000 (words ([31 * 2 ^ 31 + 2 ^ 30 + 2 ^ 28, 0x10100, 0, 0x10200, 0, 0, 0x10300, 0, n * 2 ^ 47])) ++
      wrBytes [] 0x10100 (words [0x20000, 0, 0, 31 * 2 ^ 23 + 2 ^ 22 + 2 ^ 21]) ++
      wrBytes [] 0x10210 (words [2 ^ 48 + 2 ^ 32 + q, 0, 255 * 2 ^ 56]) ++ wrBytes [] 0x10300 (words [0x200000, 2 ^ 40]) }
def launched (n q : Nat) : Offer :=
  ((described n q).release ((described n q).gangAt 0).core 6).offer 0 { addr := w64 ((described n q).operand 0 (uniPair 110) 0), origin := .launch }
    (some ((described n q).gangAt 0).rcbptr)
theorem accepted_of {o : Offer} (h : (match o with | .accepted _ _ => true | _ => false) = true) : ∃ n v, o = .accepted n v := by
  cases o <;> simp_all
theorem rejected_of {o : Offer} (h : (match o with | .rejected _ _ => true | _ => false) = true) : ∃ e v, o = .rejected e v := by
  cases o <;> simp_all
theorem waits_of {o : Offer} (h : (match o with | .waits _ => true | _ => false) = true) : ∃ v, o = .waits v := by
  cases o <;> simp_all
theorem witness_NodeInstructionsComplete_launch :
    (∃ n v, launched 1 2 = .accepted n v) ∧ (∃ e v, launched 1 1 = .rejected e v) :=
  ⟨accepted_of (by decide +kernel), rejected_of (by decide +kernel)⟩
theorem witness_NodeInstructionsComplete_wait :
    let s := described 1 2
    let busy := { s with nodes := Tab.put 7 { chain := [⟨0x10200, 1, 0, 2, 0, 0⟩], memCharge := 2048 } s.nodes }
    ∃ v, (busy.release (busy.gangAt 0).core 6).offer 0 { addr := w64 (busy.operand 0 (uniPair 110) 0), origin := .launch }
      (some (busy.gangAt 0).rcbptr) = .waits v := waits_of (by decide +kernel)

/-- A node whose only staged page, at 2 MiB, has the pair number 1, as this pair stands. -/
def staging (p : Pair) : State :=
  let s := base.updStream 0 fun t => { t with c := Tab.put 30 ⟨0x200000, 0⟩ t.c }
  { s.updCore 0 fun c => { c with tlb := [⟨0, 0x200000, { leaf with size := 2 ^ 21, pa := 2 ^ 22, stg := true }, none⟩] } with
    parts := Tab.put 0 { s.part 0 with ptbase := 1 } s.parts, pairs := [(1, p)], nodes := Tab.put (s.nodeNum 0) { s.node (s.nodeNum 0) with uid := 5, desc := { staged := [[0x200000]] } } s.nodes }
def ofNode (n : Option Nat) (filling : Bool) : Pair := { version := 3, vers := [(3, ⟨.opened, n, none, false⟩)], sealCount := 1, filling }
theorem witness_NodeInstructionsComplete_staged :
    let own := staging (ofNode (some 5) false)
    let page (s : State) : Prop := ∃ v, s.stagedPage 0 (s.operand 0 (uniPair 110) 0) = .ok ((0, 1, 1), v) ∧ (v.pair 1).version = 3
    (page own ∧ own.pageSt 1 = .opened ∧ (own.ver 1 3).node = some (own.node (own.nodeNum 0)).uid ∧ (own.pair 1).filling = false) ∧
    (page (staging (ofNode (some 5) true)) ∧ ((staging (ofNode (some 5) true)).pair 1).filling = true) ∧
    (page (staging (ofNode none false)) ∧ ((staging (ofNode none false)).ver 1 3).node ≠ some 5) ∧
    (page (staging { version := 3 }) ∧ (staging { version := 3 }).pageSt 1 ≠ .opened ∧ (Tab.find 1 (staging { version := 3 }).pairs).isSome = true) :=
  ⟨⟨⟨_, rfl, by decide⟩, by decide⟩, ⟨⟨_, rfl, by decide⟩, by decide⟩, ⟨⟨_, rfl, by decide⟩, by decide⟩, ⟨_, rfl, by decide⟩, by decide⟩
theorem witness_NodeInstructionsComplete_last :
    let s := staging { version := 2 ^ 32 - 1 }
    (∃ v, s.stagedPage 0 (s.operand 0 (uniPair 110) 0) = .ok ((0, 1, 1), v) ∧ (v.pair 1).version = 2 ^ 32 - 1 ∧ v.pageSt 1 ≠ .opened) ∧
    ((waiting base (.sopen 1 4 true)).inHand 0 ∧ (waiting base (.sopen 1 4 true)).haulOk 0 ∧
      (waiting base (.sopen 1 4 true)).readable 0 [uniPair 110] none ∧ ((waiting base (.sopen 1 4 true)).stream 0).active true ≠ 0 ∧
      ((waiting base (.sopen 1 4 true)).stream 0).wait = some (.sopen 1 4 true)) := ⟨⟨_, rfl, by decide⟩, by decide⟩
theorem witness_NodeInstructionsComplete_seal :
    let s := (staging (ofNode (some 5) false)).updGang 0 fun g => { g with opened := [1] }
    let placed (k : Nat) := s.updGang 0 fun g => { g with places := [(k, 1, 3)] }
    ((∃ v, s.stagedPage 0 (s.operand 0 (uniPair 110) 0) = .ok ((0, 1, 1), v) ∧ (v.gangAt 0).placeOf 1 = none ∧ v.sealable 0 1 = true) ∧
      (s.stream 0).wait = none ∧ (s.stream 0).active true ≠ 0 ∧ s.haulOk 0) ∧
    (∃ v, (staging (ofNode (some 5) false)).stagedPage 0 ((staging (ofNode (some 5) false)).operand 0 (uniPair 110) 0) = .ok ((0, 1, 1), v) ∧
      (v.gangAt 0).placeOf 1 = none ∧ v.sealable 0 1 = false) ∧
    (∃ v, (placed 0).stagedPage 0 ((placed 0).operand 0 (uniPair 110) 0) = .ok ((0, 1, 1), v) ∧ (v.gangAt 0).placeOf 1 = some (0 % 32, 3)) ∧
    ∃ v, (placed 1).stagedPage 0 ((placed 1).operand 0 (uniPair 110) 0) = .ok ((0, 1, 1), v) ∧ (v.gangAt 0).placeOf 1 = some (1, 3) :=
  ⟨⟨⟨_, rfl, by decide⟩, by decide⟩, ⟨_, rfl, by decide⟩, ⟨_, rfl, by decide⟩, _, rfl, by decide⟩
theorem witness_NodeInstructionsComplete_sealed :
    let s := waiting base (.sseal 1 3 true)
    s.inHand 0 ∧ s.haulOk 0 ∧ s.readable 0 [uniPair 110] none ∧ (s.stream 0).wait = some (.sseal 1 3 true) ∧ (s.stream 0).active true ≠ 0 := by
  decide
theorem witness_NodeInstructionsComplete_depends :
    let box : Box := ⟨0, 64, 1, 0, 0⟩
    let s := base.updNode (base.nodeNum 0) fun n => { n with preds := [9], desc := { inBoxes := [box] } }
    let waits := { s with nodes := Tab.put 7 { uid := 9, desc := { outBoxes := [box] } } s.nodes }
    (base.inHand 0 ∧ base.haulOk 0 ∧ base.waitdHolds (gangOf 0) = true ∧ waits.waitdHolds (gangOf 0) = false ∧
      waits.inHand 0 ∧ waits.haulOk 0) ∧
    (base.readable 0 [uniPair 110] none ∧ ((noLane base).stream 0).active true = 0) := by decide

theorem witness_CollectivesAreEnteredAndAwaited :
    let full := base.updStream 0 fun t => { t with collsOut := List.range 8, collNum := 65535 }
    let some_ := base.updStream 0 fun t => { t with collsOut := [1], collNum := 1 }
    (base.inHand 0 ∧ base.haulOk 0 ∧ (5 : BitVec 4).toNat < 6 ∧ base.readable 0 [uniPair 110] none ∧ base.readable 0 [uni 111] none) ∧
    ((base.stream 0).active false ≠ 0 ∧ ((noLane base).stream 0).active false = 0 ∧ canonical (base.operand 0 (uniPair 110) 0) = true ∧
      base.operand 0 (uniPair 110) 0 % 64 = 0) ∧
    (8 ≤ (full.stream 0).collsOut.length ∧ base.domainWait (base.coreNum 0) 7 = none) ∧
    ((some_.stream 0).collPending 1 = true ∧ (some_.stream 0).collPending 0 = false ∧ (some_.stream 0).collsOut.isEmpty = false) := by decide

/-! Events of the device. -/

def evt (s : State) (a b c d e : Nat) : State := { s with ev := { n0 := a, n1 := b, n2 := c, n3 := d, n4 := e, bytes := [], nums := [] } }

def cycled (s : State) (n : Nat) : State := s.updCluster 0 fun c => { c with cycles := w64 n }
theorem word_of {f : Fetched} (h : (match f with | .word _ _ => true | _ => false) = true) : ∃ w v, f = .word w v := by cases f <;> simp_all

theorem witness_StreamEventsHappen_fetch :
    let s := evt base 0 0 0 0 0
    (s.canIssue 0 = true ∧ (s.stream 0).owed = none ∧ ∃ w v, ({ s with cur := some 0 } : State).fetch 0 = .word w v) ∧
    ((s.gangAt 0).live = true ∧ (s.gangAt 0).parked = false ∧ (s.crewAt 0).stopped = false ∧ (s.stream 0).ended = false ∧
      ((waiting s (.refill 0)).stream 0).wait = some (.refill 0)) :=
  ⟨⟨by decide, by decide, word_of (by decide)⟩, by decide⟩
theorem witness_StreamEventsHappen_page :
    let s (n : Nat) := waiting (evt (mapped base) 0 0 0 0 0) (.refill n)
    (∃ pa at_ size v a, (s 0).pagePlace 0 ((s 0).inSup 0) 0 = (.ok (pa, at_, size), v) ∧ v.window pa = .mem a ∧ v.blockMark a 4096 = none) ∧
    ∃ x v, (s 1).pagePlace 0 ((s 1).inSup 0) 1 = (.error x, v) :=
  ⟨⟨_, _, _, _, _, rfl, rfl, by decide +kernel⟩, _, _, rfl⟩
theorem witness_StreamEventsHappen_data :
    let s := evt base 0 9 0 0 0
    let p : PendingLoad := ⟨9, [(54, Vec.zero), (55, Vec.zero)], 1, [], some 3⟩
    let t := s.updStream 0 fun t => { t with loads := [p] }
    let trap := { (s.updStream 0 fun t => { t with intrap := true }).updGang 0 fun g => { g with req := .boundary } with timestamp := 100000 }
    ((t.stream 0).loads.find? (fun p => p.id == 9) = some p ∧ (p.dst.map Prod.fst).Nodup ∧ p.queue = some 3 ∧ (t.stream 0).loads ≠ []) ∧
    ((trap.stream 0).intrap = true ∧ (trap.gangAt 0).req ≠ .none ∧ (trap.gangAt 0).live = true ∧
      (trap.stream 0).trapAt + (trap.part (trap.partNum 0)).htime.toNat * 1000 ≤ trap.now) := by decide
theorem witness_StreamEventsHappen_waits :
    let s := evt base 0 1 0 0 0
    let ready := s.setCrew 0 { s.crew 0 with place := .ready 0 0 }
    let bounded := waiting s (.barwait 8 1 (some 0) false)
    ((ready.slotFree 0 1 = true ∧ ready.nextCrew 0 = some 0) ∧ ((bounded.stream 0).wait = some (.barwait 8 1 (some 0) false) ∧ 0 ≤ bounded.now)) ∧
    (((waiting (cycled s 4096) (.wseed 4096 false)).stream 0).wait = some (.wseed 4096 false) ∧
      4096 ≤ (waiting (cycled s 4096) (.wseed 4096 false)).cyclesOf (clusterOf (s.coreNum 0))) := by decide
theorem witness_StreamEventsHappen_power :
    let s := cycled (evt base 0 3 3 0 0) 65536
    let x : Sector := { bytes := List.replicate 32 1, dirty := List.replicate 32 true, held := ⟨0, false, 0, 0, 0⟩, since := 0, filled := 0, used := 0 }
    let old := s.updCore 0 fun c => { c with l1 := [(3, x)] }
    let loading := s.updStream 0 fun t => { t with dataWait := some 65471 }
    (Tab.find 3 (old.core 0).l1 = some x ∧ x.dirty.any id = true ∧ x.since + 65536 ≤ old.cyclesOf (clusterOf 0)) ∧
    (s.ev.n0 < 256 ∧ s.ev.n1 < 4 ∧ s.ev.n2 < 4 ∧ (s.core 0).gated.contains (4 * 3 + 3) = false ∧
      Tab.get 0 (s.core 0).laneUse (4 * 3 + 3) + 512 ≤ s.cyclesOf (clusterOf 0)) ∧
    ((Tab.find 0 loading.streams).isSome = true ∧ (loading.stream 0).dataWait = some 65471 ∧ (loading.stream 0).drowsy = false ∧
      65471 + 64 < loading.cyclesOf (clusterOf (loading.coreNum 0))) := by decide

theorem some_nil {α : Type} {xs : List α} (h : xs ≠ []) : ∃ x ys, xs = x :: ys := by cases xs <;> simp_all

theorem witness_GangEventsHappen_branch :
    let two := base.updGang 0 fun g => { g with crews := 2 }
    let near := two.setStream 2 { two.stream 0 with wait := some (.brg 1 false 40 80) }
    (∀ s ∈ [two, near], s.inHand 0 ∧ (s.gangAt 0).single = true ∧ ¬((7 : BitVec 3) = 7 ∧ false = true) ∧ (511 : BitVec 9) ≠ 0 ∧
      isWork 0 = false ∧ (s.stream 0).ended = false ∧ crewNum 0 ∈ s.countingCrews (gangOf 0) ∧
      ∀ c ∈ s.countingCrews (gangOf 0), 32 * gangOf 0 + 2 * c ≠ 0 → (s.stream (32 * gangOf 0 + 2 * c)).wait ≠ some (.gbar false) ∧
        ((s.stream (32 * gangOf 0 + 2 * c)).atBrg = true → (s.stream (32 * gangOf 0 + 2 * c)).pc = (s.stream 0).pc)) ∧
    ((dual base).inHand 0 ∧ ((dual base).gangAt 0).single = false) := by decide
def met (n : Nat) : State :=
  (waiting (evt base 0 0 0 0 0) (.brg 7 false 40 80)).updGang 0 fun g => { g with stack := List.replicate n { addr := 0, crews := [0], saved := [], remap := [], running := [0], pending := [] } }
theorem witness_GangEventsHappen_meeting :
    (∀ n ∈ [0, 15, 16], (met n).countingCrews 0 = [0] ∧ ((met n).gang 0).live = true ∧
      ([0].flatMap fun k => (met n).joining 0 k ((met n).stream (32 * 0 + 2 * k) |>.preg 7).v false) = [] ∧
      ([0].flatMap fun k => (met n).joining 0 k ((met n).stream (32 * 0 + 2 * k) |>.preg 7).v true) ≠ [] ∧
      ((met n).stream (32 * 0 + 2 * 0)).wait = some (.brg 7 false 40 80) ∧ ((met n).stream (32 * 0 + 2 * 0)).atBrg = true ∧
      ((met n).crew (16 * 0 + 0)).stopped = false ∧ ((met n).stream (32 * 0 + 2 * 0)).loads = [] ∧ ((met n).gang 0).stack.length = n) ∧
    ([0].flatMap fun k => (waiting base (.brg 7 true 40 80)).joining 0 k
      (~~~((waiting base (.brg 7 true 40 80)).stream (32 * 0 + 2 * k) |>.preg 7).v) false) ≠ [] := by decide
theorem witness_GangEventsHappen_path :
    let entry (ps : List Path) : Reconv := { addr := 80, crews := [0], saved := [(0, base.stream 0)], remap := (base.gang 0).remap, running := [0], pending := ps }
    ∀ ps ∈ [[], [(⟨[3, 9], 40⟩ : Path)]],
      let s := (waiting (evt base 0 0 0 0 0) .reconv).updGang 0 fun g => { g with stack := [entry ps] }
      (s.gang 0).stack = [entry ps] ∧ (s.gang 0).live = true ∧ ∀ c ∈ (entry ps).running, (s.crew (16 * 0 + c)).ended = true ∨
        (s.stream (32 * 0 + 2 * c)).wait = some .reconv ∧ (s.crew (16 * 0 + c)).stopped = false ∧ (s.stream (32 * 0 + 2 * c)).loads = [] := by decide
theorem witness_GangEventsHappen_end :
    let s := (evt base 0 0 0 0 0).updNode 0 fun n => { n with desc := { gangs := 2 } }
    let t := s.updCrew 0 fun c => { c with ended := true }
    (Tab.find 0 t.gangs = some (t.gang 0) ∧ (∀ k ∈ crewsOf 0 (t.gang 0), (t.crew k).ended = true) ∧ t.gangDrained 0 = true ∧
      (t.gang 0).live = true ∧ (t.gang 0).halted = false ∧ (t.writesDue (t.gang 0)).isNone = true ∧
      (({ t with releases := [(0, 0, (t.gang 0).core)] } : State).writesDue (t.gang 0)).isSome = true ∧
      (t.node (t.gang 0).node).doneGangs.length + 1 < (t.node (t.gang 0).node).desc.gangs) ∧
    (∃ n, Tab.find 0 (s.updNode 0 fun n => { n with st := .handoff }).nodes = some n ∧ n.st = .handoff) := ⟨by decide, _, rfl, rfl⟩
theorem witness_GangEventsHappen_core :
    let s := cycled (evt base 0 0 0 0 0) 65536
    let moving := s.updCore 0 fun c => { c with move := some ⟨0, 0⟩ }
    let park := (s.updGang 0 fun g => { g with req := .boundary, parkHold := true, shedAt := some 0 }).updCrew 0 fun c => { c with stopped := true }
    ((s.core 0).interval + 65536 ≤ s.cyclesOf (clusterOf 0) ∧ (s.core 0).move = none ∧ (moving.core 0).move = some ⟨0, 0⟩) ∧
    ((park.gang 0).live = true ∧ (park.gang 0).parked = false ∧ (park.gang 0).req ≠ .none ∧ (park.gang 0).parkHold = true ∧
      (∀ k ∈ crewsOf 0 (park.gang 0), (park.crew k).stopped = true ∨ (park.crew k).ended = true) ∧ park.parkBusy 0 = false) ∧
    ((park.gang 0).shedAt = some 0 ∧ (park.gang 0).req ≠ .preempt ∧ 0 + 200000 ≤ ({ park with timestamp := 200000 } : State).now) := by decide
theorem witness_GangEventsHappen_moves :
    let s := evt base 0 0 0 0 0
    let away := { (s.updGang 0 fun g => { g with parked := true }).updPart 0 fun p => { p with partclu := 3 } with retired := 1 }
    away.toMove 0 = some (0, 4) := by decide +kernel
def readied (d : NodeDesc) : State :=
  let s := { evt base 0 0 0 0 0 with timestamp := 200000 }
  { s with nodes := Tab.put 1 { st := .ready, desc := d, stuckAt := some 0 } s.nodes }
theorem witness_GangEventsHappen_place :
    let s := readied { gangs := 2, threads := 33, smin := 2 }
    let v := s.noteStuck [1]
    (s.toMove 0 = none ∧ s.placeOrder 0 = [1] ∧ v.energySpent (partOfNode 1) (v.node 1) = false ∧ (v.node 1).desc.cores = false ∧
      ∃ c cs, v.preferred 1 (v.openCores 1) = c :: cs ∧ v.asleep [c] = []) ∧
    let bounded := s.updNode 1 fun n => { n with chain := [⟨4096, 1, 0, 0, 0, 0⟩] }
    let spent := bounded.updPart 0 fun p => { p with rcbs := [⟨4096, 0, 0, 0, ⟨0, false, 0, 0, 0⟩, 0⟩] }
    spent.toMove 0 = none ∧ spent.placeOrder 0 = [1] ∧
      (spent.noteStuck [1]).energySpent (partOfNode 1) ((spent.noteStuck [1]).node 1) = true ∧ ((spent.noteStuck [1]).node 1).held = 0 :=
  ⟨⟨by decide +kernel, by decide +kernel, by decide +kernel, by decide +kernel, _, _, rfl, by decide +kernel⟩, by decide +kernel⟩
theorem witness_GangEventsHappen_reserve :
    let s := readied { gangs := 1, threads := 1, smin := 99 }
    s.placeOrder 0 = [1] ∧ (s.node 1).stuckAt = some 0 ∧ 0 + 200000 ≤ s.now ∧ (s.part 0).reserve = none ∧ s.stuck 1 = true := by
  decide +kernel

def copying (what : CopyWhat) (guard : Option Nat) : State := (evt base 0 0 0 0 0).updStream 0 fun t => { t with copyQ := [queued what guard] }
def command (op : MxOp) (guard : Option Nat) (sp : Bool) : MxCmd := ⟨op, guard, 0, 0, false, false, sp, 0, 0, 0, [(0, 0)], 0, 0, none⟩
def issued (op : MxOp) (guard : Option Nat) : State := (evt base 0 0 0 0 0).updStream 0 fun t => { t with mxQ := [command op guard true] }
def entered (op : MxOp) (phase : MxPhase) (sp : Bool) : State :=
  (evt base 0 4 0 0 0).updCluster 0 fun c => { c with
    table := [{ id := 4, stream := 0, cmd := command op none sp, quarter := 0, phase, gathered := [] }], slots := [(0, { owner := some 0 })] }
theorem witness_EngineEventsHappen_issue :
    let s := copying (.lanes 4 false false [⟨0, 0, 0, 64⟩]) none
    ((s.stream 0).copyQ = [queued (.lanes 4 false false [⟨0, 0, 0, 64⟩]) none] ∧ (queued (.box 0 none) none).op = none) ∧
    let held := copying (.box 0 none) (some 7)
    let off := held.updStream 0 fun t => { t with guards := [(7, .off)] }
    ((s.crewAt 0).stopped = false ∧ (s.gangAt 0).mxSaved = [] ∧ ((s.stream 0).copyQ.length = 1 ∧ (held.stream 0).copyQ.length = 1)) ∧
    ((held.stream 0).guard 7 = .unset ∧ (off.stream 0).guard 7 = .off ∧ ((issued .qmma none).stream 0).mxQ = [command .qmma none true] ∧
      ((issued .accz (some 7)).stream 0).guard 7 = .unset ∧ ((issued .accz none).gangAt 0).mxSaved = [] ∧
      (∀ q ∈ (issued .qmma none).engineStreams ((issued .qmma none).engineOf 0), q ≠ 0 →
        ((issued .qmma none).stream q).mxQ = [] ∧ ((issued .qmma none).gangAt q).mxSaved = [])) ∧
    (((issued .qmma none).cluster ((issued .qmma none).engineOf 0)).table.length + (command .qmma none true).quarters.length ≤ 64) := by decide
theorem witness_EngineEventsHappen_head :
    let s := (copying (.box 0 none) none).updCluster 0 fun c => { c with port := [⟨0, 0, leaf, none⟩] }
    let s := s.updPart 0 fun p => { p with ptbase := 1 }
    let v := { s with fresh := s.fresh + 1 }.setStream 0 { s.stream 0 with copyQ := [{ queued (.box 0 none) none with op := some s.fresh }] }
    (match v.engineSpots (s.gangAt 0) .read 0 192 with
      | (.ok xs, w) => (w.engineFetch (s.gangAt 0).core s.fresh xs).isNone && !w.opBad.contains s.fresh
      | _ => false) = true ∧
    (∀ n ∈ [0, 5], let ws : List DWord := [0, 0, 8, 0, w64 (2 ^ 32 + n)] ++ List.replicate 19 0
      boxBad ws = false ∧ (boxDesc ws).count = n) ∧ (queued (.box 0 none) none).bar = none :=
  ⟨by decide +kernel, by decide +kernel, rfl⟩
def copied (s : State) (what : CopyWhat) (desc : List DWord) (err : Nat) : State × Copy :=
  let c : Copy := { id := 0, stream := 0, cmd := queued what none, desc, bars := [], err }
  (s.updCluster 0 fun x => { x with copies := [c] }, c)
def accepted (x : State × Copy) : Prop :=
  (x.1.clusters.findSome? fun p => (p.2.copies.find? fun c => c.id == 0).map fun c => (p.1, c)) = some (0, x.2) ∧
    x.1.faultHeld 0 0 = false
theorem witness_EngineEventsHappen_box :
    let ends (err : Nat) := copied (evt base 0 0 0 0 0) (.box 0 none) [0, 0, 8, 0, 0, 0, 0, 0] err
    let sends (s : State) : State × Copy :=
      let x := copied s (.lanes 4 false false [⟨0, 0, 0, 64⟩]) [] 0
      (x.1.updCopy 0 0 fun c => { c with sent := some [3] }, { x.2 with sent := some [3] })
    (accepted (ends 4) ∧ (ends 4).2.sent = none ∧ (ends 4).2.err ≠ 0 ∧ accepted (ends 0) ∧ (ends 0).2.err = 0 ∧ (ends 0).2.sent = none) ∧
    (accepted (sends (evt base 0 0 0 0 0)) ∧ ((sends (evt base 0 0 0 0 0)).1.remotes.any fun q => [3].contains q.id) = false) := by
  unfold accepted; decide
theorem witness_EngineEventsHappen_range :
    let x := copied (evt base 0 0 0 0 0) (.lanes 4 true false [⟨0, 0, 0, w64 (2 ^ 55)⟩]) [] 0
    let p := x.1.planOf x.2
    accepted x ∧ x.1.copyMoving 0 p = false ∧ p.ssp = true ∧ p.dsp = false ∧ (p.moves.map (·.dst)).any (fun a => outOf56 a p.n) = true := by
  unfold accepted; decide
theorem witness_EngineEventsHappen_copy :
    let x (ssp : Bool) := copied ((mapped (evt base 0 0 0 0 0)).updCluster 0 fun c => { c with port := [⟨0, 0, leaf, none⟩] }) (.lanes 4 ssp false [⟨0, 0, 0, 64⟩]) [] 0
    let p := (x true).1.planOf (x true).2
    (accepted (x true) ∧ (x true).1.copyMoving 0 p = false ∧ (p.moves.map (·.dst)).any (fun a => outOf56 a p.n) = false) ∧
    ∃ sx v dx w, (x true).1.resolveAll ((x true).1.gangAt 0) .read p.n (if p.ssp then [] else p.moves.filterMap (·.src)) = (.ok sx, v) ∧
      v.resolveAll ((x true).1.gangAt 0) .write p.n (if p.dsp then [] else p.moves.map (·.dst)) = (.ok dx, w) ∧
      w.engineFetch ((x true).1.gangAt 0).core 0 sx.flatten = none ∧ dx.flatten.any w.hostHeld = false ∧ w.opBad.contains 0 = false ∧
      dx.flatten.any w.unreachable = false ∧ w.spRangeOk 0 p = true ∧
      w.copyError ((x true).1.gangAt 0) p (zipElements p 0 sx dx) = 0 := by
  unfold accepted
  exact ⟨by decide, _, _, _, _, rfl, rfl, rfl, by decide, by decide, by decide, by decide, by decide +kernel⟩
theorem witness_EngineEventsHappen_copyErrors :
    let onPort (s : State) : State := (mapped s).updCluster 0 fun c => { c with port := [⟨0, 0, leaf, none⟩] }
    let out := copied (onPort (evt base 0 0 0 0 0)) (.lanes 4 true false [⟨0, 0, w64 (2 ^ 20), 64⟩]) [] 0
    let bad := copied (onPort { evt base 0 0 0 0 0 with opBad := [0] }) (.lanes 4 true false [⟨0, 0, 0, 64⟩]) [] 0
    ∀ x ∈ [(out, false), (bad, true)], let s := x.1.1
      let p := s.planOf x.1.2
      (accepted x.1 ∧ s.copyMoving 0 p = false ∧ (p.moves.map (·.dst)).any (fun a => outOf56 a p.n) = false ∧ p.ssp = true ∧ p.dsp = false) ∧
      (match s.resolveAll (s.gangAt 0) .write p.n (p.moves.map (·.dst)) with
        | (.ok dx, w) => (w.engineFetch (s.gangAt 0).core 0 []).isNone && !dx.flatten.any w.hostHeld && !dx.flatten.any w.unreachable &&
            w.opBad.contains 0 == x.2 && (x.2 || !w.spRangeOk 0 p)
        | _ => false) = true := by
  unfold accepted; decide +kernel
theorem witness_EngineEventsHappen_matrix :
    let s := entered .qmma .accepted true
    let done := entered .qmma .gathered true
    let pass := entered .qmma .inPass true
    (∃ x, s.entryOf 0 4 = some x ∧ x.phase = .accepted ∧ x.cmd.op.isPass = true ∧ (x.rows.any fun y => s.moving x.stream y.2 400) = false) ∧
    ((∀ y ∈ ((done.noteReady 0).cluster 0).table, y.phase ≠ .inPass) ∧
      ∃ y ∈ ((done.noteReady 0).cluster 0).table, (done.noteReady 0).passReady ((done.noteReady 0).cluster 0).table [] y = true) ∧
    (∃ y, (pass.cluster 0).table.filter (fun x => x.phase == .inPass) = [y] ∧ pass.quarterError 0 y ≠ 0) :=
  ⟨⟨_, rfl, by decide⟩, ⟨by decide, _, .head _, by decide⟩, ⟨_, rfl, by decide⟩⟩
theorem witness_EngineEventsHappen_port :
    (∃ x, (entered .wload .accepted true).entryOf 0 4 = some x ∧ (entered .wload .accepted true).portReady 0 x = true ∧ x.cmd.op = .wload ∧
      x.cmd.sp = true ∧ (entered .wload .accepted true).moving x.stream x.cmd.addr.toNat 12800 = false ∧
      (Tab.get {} ((entered .wload .accepted true).cluster 0).slots x.cmd.slot).owner = some (gangOf x.stream)) ∧
    (∃ x, (entered .wfree .accepted false).entryOf 0 4 = some x ∧ (entered .wfree .accepted false).portReady 0 x = true ∧
      (Tab.get {} ((entered .wfree .accepted false).cluster 0).slots x.cmd.slot).owner = some (gangOf x.stream)) ∧
    (∃ x, (entered .accz .accepted false).entryOf 0 4 = some x ∧ (entered .accz .accepted false).portReady 0 x = true ∧ x.cmd.op = .accz ∧ x.cmd.sp = false) :=
  ⟨⟨_, rfl, by decide⟩, ⟨_, rfl, by decide⟩, _, rfl, by decide⟩
theorem rangeLabel_none (g : Gang) (h : g.scratchLab = []) (off n : Nat) : g.rangeLabel off n = 0 := by
  unfold Gang.rangeLabel
  induction List.range n with
  | nil => rfl
  | cons i l ih => simpa [List.foldl, Gang.lineLabel, h, Tab.get, Tab.find, Label.join] using ih
theorem witness_EngineEventsHappen_label : ((entered .wload .accepted true).gangAt 0).rangeLabel 0 12800 ≠ 3 := by
  rw [rangeLabel_none _ rfl]; decide
theorem witness_EngineEventsHappen_fault :
    let f : EngineFault := ⟨4096, 0, 0, true⟩
    let s := (evt base 0 0 0 0 0).updStream 0 fun t => { t with efaults := [f] }
    (s.stream 0).efaults = [f] ∧ s.takesFaults 0 = true ∧ (s.stream 0).serving = none ∧ (s.stream 0).begun = false := by decide
def joined (c : Coll) (ms : List (Nat × Nat × DWord × Nat)) : State :=
  { (evt base 0 0 0 0 0).updPart 0 fun p => { p with groups := [(0, ms)], ptbase := 1 } with colls := [c] }
def member (k : Option Nat) (err : Nat) : Coll :=
  { id := 0, stream := 0, num := 1, op := 0, descAddr := 0, guard := k, err, desc := [0, 64, w64 (3 * 2 ^ 32 + 1), 0] }
theorem witness_EngineEventsHappen_collective :
    let on (g : Guard) := (joined (member (some 7) 0) []).updStream 0 fun t => { t with guards := [(7, g)] }
    (∀ g ∈ [Guard.off, .on], (on g).colls.find? (·.id == 0) = some (member (some 7) 0) ∧ (on g).faultHeld 0 0 = false ∧
      ((on g).gangAt 0).parked = false ∧ (Tab.find 0 (on g).streams).isSome = true ∧ ((on g).stream 0).guard 7 = g) ∧
    (joined (member none 8) []).colls.find? (·.id == 0) = some (member none 8) ∧ (joined (member none 8) []).faultHeld 0 0 = false ∧
    (member none 8).desc ≠ [] := by decide
theorem witness_EngineEventsHappen_collected :
    let d : Coll := { member none 0 with all := some [{ bytes := [1, 0, 0, 0] }, { bytes := [2, 0, 0, 0] }] }
    let s := (joined d []).updCluster 0 fun c => { c with port := [⟨0, 0, leaf, none⟩] }
    let bytes := packedBytes ((collDesc d.desc).width 0) (collResult 0 (collDesc d.desc) [[1, 0, 0, 0], [2, 0, 0, 0]]).1.length
    (d.guard = none ∧ d.desc ≠ [] ∧ d.err = 0 ∧ collRange ((collDesc d.desc).width 0) (collDesc d.desc).dst bytes = true ∧
      (s.gangAt 0).det = false ∧ s.faultHeld 0 0 = false) ∧
    ∃ ps v vs w, s.engineSpots (s.gangAt 0) .write (va56 (collDesc d.desc).dst) bytes = (.ok ps, v) ∧
      v.engineSpots (s.gangAt 0) .write (va56 (d.descAddr.toNat + 32)) (if collRecords 0 then 4 else 0) = (.ok vs, w) ∧
      ps.any (fun p => p.leaf.label == 3 || decide (p.leaf.label < 0)) = false ∧ (ps ++ vs).any w.hostHeld = false :=
  ⟨by decide +kernel, _, _, _, _, rfl, rfl, by decide +kernel⟩
theorem witness_EngineEventsHappen_bound :
    let d : Coll := { member none 0 with deadline := some 0, input := some {} }
    let s := joined d [(0, 0, 0, 0), (0, 0, 0, 1)]
    (∀ t ∈ [joined d [(0, 0, 0, 0), (1, 0, 0, 0)], s],
      t.colls.find? (·.id == 0) = some d ∧ 0 ≤ t.now ∧ d.arrived = true ∧ t.ev.n1 = 0 ∧ t.ev.n2 = 0 ∧
        t.arrivedAt (collDesc d.desc).group 0 (0, 0, 0, 0) = some d) ∧
    (joined d [(0, 0, 0, 0), (1, 0, 0, 0)]).localMembers [(0, 0, 0, 0), (1, 0, 0, 0)] = [(0, 0, 0, 0, 0)] ∧
    s.localMembers (s.collMembers d) = [(0, 0, 0, 0, 0), (1, 0, 0, 0, 1)] ∧
    s.arrivedAt (collDesc d.desc).group 1 (0, 0, 0, 1) = none ∧ s.comingAt (collDesc d.desc).group 1 (0, 0, 0, 1) = none ∧
    s.failed.contains (0, (collDesc d.desc).group, 1) = false ∧
    ({ s with failed := [(0, (collDesc d.desc).group, 1)] } : State).failed.contains (0, (collDesc d.desc).group, 1) = true :=
  ⟨by decide, by decide, by decide, by decide, by decide, by decide, by decide⟩
def saving (g addr : Nat) : State :=
  (waiting (mapped (evt base 0 0 0 0 0)) (.ctxsave g (w64 addr) true true none)).updCore 0 fun c => { c with tlb := [⟨0, 0, { leaf with size := 2 ^ 30 }, none⟩] }
theorem witness_EngineEventsHappen_context :
    ((saving 5 0).stream 0).wait = some (.ctxsave 5 0 true true none) ∧ Tab.find 5 (saving 5 0).gangs = none ∧
    Tab.find 0 (saving 0 0).gangs = some ((saving 0 0).gang 0) ∧
    (let s := waiting (evt base 0 0 0 0 0) (.ctxload 0 (w64 (2 ^ 55)) none)
     (s.stream 0).wait = some (.ctxload 0 (w64 (2 ^ 55)) none) ∧ imageRange (w64 (2 ^ 55)).toNat 4 = false ∧
     s.imageAwaits 0 (w64 (2 ^ 55)).toNat = none) ∧ (saving 5 0).retraining = false := by decide
theorem pair_some {α β : Type} {p : Option α × β} (h : p.1.isSome = true) : ∃ x v, p = (some x, v) := by
  obtain ⟨_ | x, v⟩ := p
  · cases h
  · exact ⟨x, v, rfl⟩
theorem pair_none {α β : Type} {p : Option α × β} (h : p.1.isNone = true) : ∃ v, p = (none, v) := by
  obtain ⟨_ | x, v⟩ := p
  · exact ⟨v, rfl⟩
  · cases h
theorem witness_EngineEventsHappen_image :
    (∃ xs v, (saving 0 0).saveSpots 0 true (w64 0).toNat (imageKib ((saving 0 0).gang 0) ((saving 0 0).ownedSlots 0).length) = (some xs, v) ∧
      xs.any (saving 0 0).hostHeld = false) ∧
    ∃ v, (saving 0 (2 ^ 40)).saveSpots 0 true (w64 (2 ^ 40)).toNat (imageKib ((saving 0 0).gang 0) ((saving 0 0).ownedSlots 0).length) = (none, v) :=
  have ⟨xs, v, h⟩ := pair_some (by decide +kernel)
  ⟨⟨xs, v, h, by
    rw [List.any_eq_false]
    intro x _
    simp [State.hostHeld, show (saving 0 0).retraining = false from rfl]⟩, pair_none (by decide +kernel)⟩
theorem both_of {α β γ δ : Type} {p : Option α × β} {q : α → β → Option γ × δ}
    (h : (match p with | (some a, v) => (q a v).1.isSome | _ => false) = true) : ∃ a v, p = (some a, v) ∧ ∃ b w, q a v = (some b, w) := by
  obtain ⟨_ | a, v⟩ := p
  · cases h
  · exact ⟨a, v, rfl, pair_some h⟩
/-- A place in host memory of an unstaged page. -/
def onHost (s : State) (p : Spot) : Bool := (match s.window p.pa with | .host _ => true | _ => false) && !p.leaf.stg
theorem onHost_window {s : State} {p : Spot} (h : onHost s p = true) : ∃ a, s.window p.pa = .host a := by
  unfold onHost at h
  split at h
  · rename_i a k; exact ⟨a, k⟩
  · simp at h
theorem runsBy_const {α β : Type} [DecidableEq β] (f : α → β) (b : β) : ∀ xs : List α, (∀ x ∈ xs, f x = b) →
    runsBy f xs = [] ∨ ∃ ys, runsBy f xs = [(b, ys)]
  | [], _ => .inl rfl
  | x :: rest, h => by
    have hx := h x (.head _)
    rcases runsBy_const f b rest fun y k => h y (.tail _ k) with k | ⟨ys, k⟩
    · exact .inr ⟨[x], by simp [runsBy, k, hx]⟩
    · exact .inr ⟨x :: ys, by simp [runsBy, k, hx]⟩
theorem noRuns {f : Spot → Option Nat} {xs : List Spot} (h : ∀ x ∈ xs, f x = none) :
    ((runsBy f xs).filterMap fun g => match g.1, g.2 with | some k, p :: _ => some (k, p.pa, g.2.length) | _, _ => none) = [] := by
  rcases runsBy_const f none xs h with k | ⟨ys, k⟩ <;> rw [k] <;> rfl
theorem engineFetch_host (s : State) (core op : Nat) (xs : List Spot) (h : ∀ p ∈ xs, onHost s p = true)
    (hr : s.retraining = false) (hd : s.linkDown = false) : s.engineFetch core op xs = none := by
  have runs : s.fabricRuns xs = [] := noRuns fun p k => by obtain ⟨a, w⟩ := onHost_window (h p k); simp [w]
  have held : xs.any s.hostHeld = false := by rw [List.any_eq_false]; intro p _; simp [State.hostHeld, hr]
  have lost : xs.any s.hostLost = false := by rw [List.any_eq_false]; intro p _; simp [State.hostLost, hd]
  simp [State.engineFetch, runs, held, lost]
theorem engineRead_host (s : State) (core op : Nat) (xs : List Spot) (h : ∀ p ∈ xs, onHost s p = true) :
    s.engineRead core op xs = (xs.map fun p => (s.engineByte core op p).1, s) := by
  have step (p : Spot) (k : onHost s p = true) : (s.engineByte core op p).2 = s := by
    obtain ⟨a, w⟩ := onHost_window k
    simp [State.engineByte, w]
  have all : ∀ (ys : List Spot) (bs : List Byte), (∀ p ∈ ys, onHost s p = true) →
      ys.foldl (fun (acc : List Byte × State) p => let (b, t) := acc.2.engineByte core op p; (acc.1 ++ [b], t)) (bs, s) =
        (bs ++ ys.map (fun p => (s.engineByte core op p).1), s) := by
    intro ys
    induction ys with
    | nil => simp
    | cons y ys ih =>
      intro bs k
      have := step y (k y (.head _))
      simp only [List.foldl_cons, List.map_cons, this]
      rw [ih _ fun p q => k p (.tail _ q)]
      simp
  simpa [State.engineRead] using all xs [] h
theorem noteReads_host (s : State) (n : Nat) (xs : List Spot) (h : ∀ p ∈ xs, onHost s p = true) : s.noteReads n xs = s := by
  have stg : xs.filterMap (fun p => if p.leaf.stg then some (pairKey (s.node n) (p.leaf.pa / 2 ^ 22)) else none) = [] := by
    rw [List.filterMap_eq_nil_iff]
    intro p k
    have := h p k
    simp only [onHost, Bool.and_eq_true, Bool.not_eq_true'] at this
    simp [this.2]
  have mem : xs.filterMap (fun p => match s.window p.pa with | .mem a => some (a / 64) | _ => none) = [] := by
    rw [List.filterMap_eq_nil_iff]
    intro p k
    obtain ⟨a, w⟩ := onHost_window (h p k)
    simp [w]
  have marks : s.marksOf xs = [] := congrArg (fun l => (distinct l).filterMap fun k => (Tab.find k s.marks).map fun m => (k, m)) mem
  unfold State.noteReads
  rw [stg, marks]
  rfl
/-- A load of an image at address 0, whose page lies in host memory. -/
def loading : State :=
  (waiting (mapped (evt base 0 0 0 0 0)) (.ctxload 1 0 none)).updCore 0 fun c => { c with tlb := [⟨0, 0, { leaf with pa := 2 ^ 47 }, none⟩] }
/-- The places of n bytes from an address of that page. -/
def placed (a n : Nat) : List Spot := (List.range n).map fun i => ⟨2 ^ 47 + a + (i + 0), { leaf with pa := 2 ^ 47 }⟩
theorem placed_host (a n : Nat) (h : a + n ≤ 4096) : ∀ p ∈ placed a n, onHost loading p = true := by
  intro p hp
  obtain ⟨i, hi, rfl⟩ := List.mem_map.mp hp
  have hi : i < n := List.mem_range.mp hi
  have top : bits (2 ^ 47 + a + (i + 0)) 51 46 = 2 := by simp only [bits]; omega
  have low : ¬ 2 ^ 52 ≤ 2 ^ 47 + a + (i + 0) := by omega
  have w : ∃ b, loading.window (2 ^ 47 + a + (i + 0)) = .host b := by
    unfold State.window
    rw [if_neg low, top]
    exact ⟨_, rfl⟩
  obtain ⟨b, w⟩ := w
  simp only [onHost, w, leaf]
  rfl
theorem loading_spot : ∀ k ∈ [0, 1, 2, 3], loading.spotsOf (loading.gangAt 0) (loading.stream 0).priv .read (1024 * k) 1024 =
    (.ok (placed (1024 * k) 1024), loading) := by
  intro k hk
  have at_ : loading.spotOf (loading.gangAt 0) (loading.stream 0).priv .read (1024 * k) =
      (.ok ⟨2 ^ 47 + 1024 * k, { leaf with pa := 2 ^ 47 }⟩, loading) := by
    simp only [List.mem_cons, List.not_mem_nil, or_false] at hk
    rcases hk with rfl | rfl | rfl | rfl <;> rfl
  have room : 1024 ≤ 2 ^ 16 - 1024 * k % 2 ^ 16 := by
    simp only [List.mem_cons, List.not_mem_nil, or_false] at hk
    omega
  unfold State.spotsOf
  rw [at_]
  exact if_pos room
def imagePlaces : List Spot := placed 0 1024 ++ (placed 1024 1024 ++ (placed 2048 1024 ++ (placed 3072 1024 ++ [])))
theorem imagePlaces_host : ∀ p ∈ imagePlaces, onHost loading p = true := by
  intro p hp
  simp only [imagePlaces, List.mem_append, List.not_mem_nil, or_false] at hp
  rcases hp with h | h | h | h <;> exact placed_host _ _ (by decide) p h
theorem loading_places : loading.imageSpots 0 .read 0 4 = (some imagePlaces, loading) := by
  have h0 := loading_spot 0 (by decide)
  have h1 := loading_spot 1 (by decide)
  have h2 := loading_spot 2 (by decide)
  have h3 := loading_spot 3 (by decide)
  simp only [State.imageSpots, Nat.mul_zero, Nat.mul_one, Nat.reduceMul, Nat.reduceAdd, Nat.reduceMod, Nat.reducePow] at *
  simp only [h0, h1, h2, h3]
  rfl
theorem imageAwaits_of {s : State} {r addr : Nat} {xs : List Spot} (hr : imageRange addr 4 = true)
    (hs : s.imageSpots r .read (va56 addr) 4 = (some xs, s)) (hf : s.engineFetch (s.coreNum r) (imageOp r) xs = none)
    (hk : bits (wordAt (dwords 1 (s.engineRead (s.coreNum r) (imageOp r) (xs.take 8)).1) 0) 31 0 = 0) : s.imageAwaits r addr = none := by
  simp only [State.imageAwaits, hr, hs, hf, hk, Nat.max_zero, Bool.not_true, Bool.false_eq_true, if_false, Option.bind_some]
theorem imageRead_of {s : State} {r addr : Nat} {xs : List Spot} (hr : imageRange addr 4 = true) (hg : s.opBad.contains (imageOp r) = false)
    (hs : s.imageSpots r .read (va56 addr) 4 = (some xs, s)) (h : ∀ p ∈ xs, onHost s p = true) :
    s.imageRead r addr 4 = (some (xs.map fun p => (s.engineByte (s.coreNum r) (imageOp r) p).1), s) := by
  simp only [State.imageRead, hr, hg, hs, engineRead_host s _ _ xs h, noteReads_host s _ xs h, Bool.not_true, Bool.false_eq_true, if_false]
theorem imageRead_again {s : State} {r addr : Nat} {bs : List Byte} (h : s.imageRead r addr 4 = (some bs, s))
    (k : bits (wordAt (dwords 1 bs) 0) 31 0 = 0) :
    ∃ head v, s.imageRead r addr 4 = (some head, v) ∧ ∃ bs w, v.imageRead r addr (max 4 (bits (wordAt (dwords 1 head) 0) 31 0)) = (some bs, w) :=
  ⟨bs, s, h, bs, s, by rw [k, Nat.max_zero]; exact h⟩
theorem imagePlaces_kib : bits (wordAt (dwords 1 (imagePlaces.map fun p => (loading.engineByte (loading.coreNum 0) (imageOp 0) p).1)) 0) 31 0 = 0 := by
  decide +kernel
theorem imagePlaces_head : bits (wordAt (dwords 1 (loading.engineRead (loading.coreNum 0) (imageOp 0) (imagePlaces.take 8)).1) 0) 31 0 = 0 := by
  decide +kernel
theorem witness_EngineEventsHappen_read :
    (loading.stream 0).wait = some (.ctxload 1 0 none) ∧ loading.imageAwaits 0 0 = none ∧
    ∃ head v, loading.imageRead 0 0 4 = (some head, v) ∧ ∃ bs w, v.imageRead 0 0 (max 4 (bits (wordAt (dwords 1 head) 0) 31 0)) = (some bs, w) :=
  ⟨by decide, imageAwaits_of (by decide) loading_places (engineFetch_host loading _ _ _ imagePlaces_host rfl rfl) imagePlaces_head,
    imageRead_again (imageRead_of (by decide) (by decide) loading_places imagePlaces_host) imagePlaces_kib⟩
theorem image_of {e : Except Bool (List DWord × List Byte)} (h : (match e with | .ok x => x.2.isEmpty | .error _ => false) = true) :
    ∃ ws, e = .ok (ws, []) := by
  obtain _ | ⟨ws, xs⟩ := e
  · cases h
  · cases xs
    · exact ⟨ws, rfl⟩
    · cases h
theorem witness_EngineEventsHappen_load :
    let s := (evt base 0 0 0 0 0).updPart 0 fun p => { p with partclu := 1 }
    let c : Context := ⟨0, s.gang 0, [], [], [], false, (s.node (s.nodeNum 0)).uid, 0, []⟩
    let v := { s with contexts := [c] }
    let bs := leBytes 8 (2 ^ 48) ++ List.replicate 4088 0
    (∃ ws, v.openImage (v.partNum 0) bs = .ok (ws, [])) ∧
    (v.contexts.find? fun c => fitBytes 0 (Config.imageBody c.serial 0) == []) = some c ∧ (∃ n, v.keyOfUid c.nodeUid = some n) ∧
    bitOf (v.part (v.partNum 0)).partclu.toNat (clusterOf 1) = true ∧ c.gang.part = v.partNum 0 ∧ (isStreamCore 1).toNat = c.ckind ∧
    v.takesContext c 1 = true ∧ ∀ p ∈ c.streams, ∀ k pa, p.2.wait ≠ some (.args k pa) :=
  ⟨image_of (by decide +kernel), rfl, some_of (by decide), by decide, by decide, by decide, by decide, by intro p h; cases h⟩

def pairs (s : State) (p : Pair) : State := { s with pairs := [(1, p)] }
def sealedVer (n : Nat) : Ver := ⟨.sealed, some n, none, false⟩
theorem witness_AssayAndHubEventsHappen_seal :
    let s := { pairs (waiting (evt base 0 0 0 0 0) (.sseal 1 3 false)) { ofNode (some 5) false with sealCount := 2 } with past := [] }
    let last := pairs s { ofNode (some 5) false with sealCount := 1 }
    ((evt (pairs base (ofNode none true)) 1 0 0 0 0).pair 1).filling = true ∧
    ((s.stream 0).wait = some (.sseal 1 3 false) ∧ s.enginesIdle 0 = true ∧ (s.crewAt 0).stopped = false ∧ (s.pair 1).seals + 1 ≠ (s.pair 1).sealCount) ∧
    ((last.pair 1).seals + 1 = (last.pair 1).sealCount ∧ (last.ver 1 (last.pair 1).version).doomed = false) := by decide
theorem witness_AssayAndHubEventsHappen_digest :
    ∃ v q, ((pairs base { version := 3, vers := [(3, sealedVer 5)] }).pair 1).vers.find? (fun v => v.2.st == .sealed && v.2.digest.isNone) = some (v, q) :=
  ⟨_, _, rfl⟩
def finished (kind : Nat) (w2 : DWord) : Node :=
  { uid := 5, st := .complete, seed := some 1, desc := { wkind := kind, staged := [[0x200000, w64 (2 ^ 40 + 12 * 2 ^ 32), w2]] }, versions := [(0, 1, 3)] }
def tested (kind : Nat) (w2 : DWord) (v : Ver) : State :=
  { pairs (evt base 5 0 0 0 0) { version := 3, vers := [(3, v)] } with past := [(5, finished kind w2)] }
theorem witness_AssayAndHubEventsHappen_seed :
    let s := { tested 3 0 (sealedVer 5) with nodes := [(5, { finished 3 0 with seed := none })] }
    ∃ x, Tab.find 5 s.nodes = some x ∧ x.desc.wkind ≠ 0 ∧ x.seed = none ∧ s.wholeOutput x = true := ⟨_, rfl, by decide⟩
theorem witness_AssayAndHubEventsHappen_test :
    let v : Ver := ⟨.sealed, some 5, some 0, false⟩
    let s := tested 3 0 v
    let t := tested 4 0 v
    (∃ x, Tab.find 5 s.past = some x ∧ x.tested = false ∧ x.probe = none ∧ x.entry = none ∧ x.desc.wkind ≠ 0 ∧ x.st = .complete ∧
      x.doomed = false ∧ s.wholeOutput x = true ∧ x.seed.isSome = true ∧ (∃ ds, s.digestsOf x = some ds) ∧ s.testWitness 0 x = none) ∧
    (∃ x, Tab.find 5 t.past = some x ∧ x.tested = false ∧ x.probe = none ∧ x.entry = none ∧ x.desc.wkind ≠ 0 ∧ x.st = .complete ∧
      x.doomed = false ∧ t.wholeOutput x = true ∧ x.seed.isSome = true ∧ (∃ ds, t.digestsOf x = some ds) ∧ ∃ f, t.testWitness 0 x = some f) :=
  ⟨⟨_, rfl, by decide, by decide, by decide, by decide, by decide, by decide, by decide, by decide, ⟨_, rfl⟩, by decide +kernel⟩,
    ⟨_, rfl, by decide, by decide, by decide, by decide, by decide, by decide, by decide, by decide, ⟨_, rfl⟩, some_of (by decide +kernel)⟩⟩
theorem witness_AssayAndHubEventsHappen_version :
    let s := tested 0 0 ⟨.sealed, some 5, some 0, false⟩
    let void := { s with past := [(5, { finished 0 0 with st := .ended })] }
    ((1 : Nat) < 2 ^ 30 ∧ ∃ v q, (s.pair 1).vers.find? (fun v => s.releasable v.2) = some (v, q)) ∧
    (∃ v q, (void.pair 1).vers.find? (fun v => void.voidDue v.2) = some (v, q) ∧ q.doomed = false) := ⟨⟨by decide, _, _, rfl⟩, _, _, rfl, rfl⟩
def reposting (s : State) : State :=
  evt (s.updPart 0 fun p => { p with repost := [⟨0x10000, 0, 0, 0, 0, none, 2, none⟩], partclu := 1 }) 0 0 0 0 0
def again : Node := { addr := 0x10000, origin := .rerun, attempt := 2, orig := some 0 }
theorem accepted_with {o : Offer} {P : Nat → State → Bool} (h : (match o with | .accepted n v => P n v | _ => false) = true) :
    ∃ n v, o = .accepted n v ∧ P n v = true := by
  cases o <;> simp_all
theorem witness_AssayAndHubEventsHappen_repost :
    let s := reposting (described 1 2)
    let busy := { s with nodes := Tab.put 7 { chain := [⟨0x10200, 1, 0, 2, 0, 0⟩], memCharge := 2048 } s.nodes }
    (∃ q rest, (s.part 0).repost = q :: rest) ∧ (∃ v, busy.offer 0 again none = .waits v) ∧
    ∃ n v, s.offer 0 again none = .accepted n v ∧
      (let taken := v.updPart 0 fun p => { p with repost := [] }
       let y := taken.updPart 0 fun p => { p with replay := p.replay ++ v.logFor 0 0 n }
       let y := y.updNode n fun x => { x with follows := y.hasLog 0 }
       decide (y.allowed 0 (y.node n) ≠ [])) = true :=
  ⟨⟨_, _, rfl⟩, waits_of (by decide +kernel), accepted_with (by decide +kernel)⟩
theorem witness_AssayAndHubEventsHappen_faults :
    let s (n1 n2 n3 : Nat) := evt (mapped base) 0 n1 n2 n3 7
    ((s 0 0 0).ev.n1 = 0 ∧ (s 1 0 55).ev.n1 = 1 ∧ (Tab.find (s 1 0 55).ev.n2 (s 1 0 55).streams).isSome = true ∧ (s 1 0 55).ev.n3 < 56 ∧
      (s 4 63 9).ev.n1 = 4 ∧ (s 4 63 9).ev.n2 < 64 ∧ (s 4 63 9).ev.n3 < 10) ∧
    (let old (st : Coh) := (s 2 0 0).updDie 0 fun d => { d with l2 := [(0, { st, bytes := [] })] }
     (old .m).stale 0 = true ∧ (old .s).stale 0 = false ∧
      ({ s 1 0 0 with msgs := [⟨.writeBack, 0, 1, 0, some [], .s⟩] } : State).writingBack 0 = true) ∧
    (64 * (s 0 0 0).ev.n0 < (s 0 0 0).populated ∧ (s 0 0 0).writingBack 0 = false ∧ (s 0 0 0).treeBlock 0 = none ∧ Tab.find 0 (s 0 0 0).marks ≠ some Mark.poison) := by decide
theorem witness_AssayAndHubEventsHappen_tag (t : List Byte) :
    ∃ bs : List Byte, bs ≠ [] ∧ fitBytes 7 (bs.drop 64) ≠ t := by
  by_cases h : t = List.replicate 7 0
  · exact ⟨List.replicate 71 1, by decide, by rw [h]; decide⟩
  · exact ⟨[0], by decide, fun k => h (k.symm.trans (by decide))⟩
theorem witness_AssayAndHubEventsHappen_residue :
    let s := evt base 0 1 0 0 0
    let test := s.updCluster 0 fun c => { c with selfTest := some (0, 0) }
    let parked := test.updGang 0 fun g => { g with parked := true }
    ((s.cluster 0).selfTest = none ∧ s.isRetired 0 = false) ∧ (parked.cluster 0).selfTest = some (0, 0) ∧
    (test.cluster 0).selfTest = some (0, 0) ∧ test.isRetired 0 = false ∧ (parked.cluster 0).moreTests = [] ∧
    (∀ p ∈ parked.gangs, clusterOf p.2.core = 0 → p.2.live = true → p.2.parked = true) ∧ 64 * 0 < (mapped s).populated := by decide
def posting (s : State) (a : DWord) : State :=
  { s.updPart 0 fun p => { p with posts := [a] } with mem := wrBytes s.mem 0x10208 (leBytes 8 0x10000) }
theorem witness_AssayAndHubEventsHappen_post :
    let s := described 1 2
    let taken (s : State) := (s.setPart 0 { s.part 0 with posts := [] }).admitPosts 0
    (∀ n, 4096 ≤ n → (s.updPart 0 fun p => { p with rings := [{ wait := List.replicate n (0, 0) }, {}, {}] }).recordRoom 0 = false) ∧
    (posting s 0x10200).recordRoom 0 = true ∧
    (((posting s 0x10200).part 0).posts = [0x10200] ∧ ((posting s 0x10200).part 0).hubPost = none) ∧
    (∃ v, (taken (posting s (w64 (2 ^ 60)))).hubWords 0 (w64 (2 ^ 60)) 2 = (none, v)) ∧
    (match (taken (posting s 0x10200)).hubWords 0 0x10200 2 with
      | (some ws, v) => (v.readChain 0 0x10200).1.isSome && decide (ws.getD 1 0 ≠ 0)
      | _ => false) = true :=
  ⟨fun n h => by
      show decide ((List.replicate n ((0 : DWord), (0 : DWord))).length + _ + _ < 4096) = false
      rw [List.length_replicate, decide_eq_false_iff_not]; omega,
    by decide +kernel, by decide +kernel, pair_none (by decide +kernel), by decide +kernel⟩
theorem witness_AssayAndHubEventsHappen_accept :
    let s (n q : Nat) := (described n q).updPart 0 fun p => { p with hubPost := some (0x10000, 0x10200) }
    let busy := { s 1 2 with nodes := Tab.put 7 { chain := [⟨0x10200, 1, 0, 2, 0, 0⟩], memCharge := 2048 } (s 1 2).nodes }
    ((s 1 2).part 0).hubPost = some (0x10000, 0x10200) ∧ (s 1 2).recordRoom 0 = true ∧ (∃ n v, (s 1 2).offer 0 { addr := 0x10000, origin := .post } none = .accepted n v) ∧
    (∃ e v, (s 1 1).offer 0 { addr := 0x10000, origin := .post } none = .rejected e v) ∧
    ∃ v, busy.offer 0 { addr := 0x10000, origin := .post } none = .waits v :=
  ⟨by decide +kernel, by decide +kernel, accepted_of (by decide +kernel), rejected_of (by decide +kernel), waits_of (by decide +kernel)⟩

def sent (k : MsgKind) : Msg := ⟨k, 0, 1, 64, none, .s⟩
theorem witness_CoherenceEventsHappen_messages :
    ∀ k ∈ [MsgKind.readShared, .readOwn, .upgrade, .writeBack, .grant, .recallS, .recallI, .invalidate, .recallReply, .invAck],
      let s := { evt base 0 1 64 0 0 with msgs := [sent k] }
      takeMsg (fun m => m.home == s.ev.n0 && m.die == s.ev.n1 && m.kind.toDie == k.toDie) s.msgs = some (sent k, []) ∧
        (sent k).kind = k ∧ (sent k).line = s.ev.n2 := by decide
theorem witness_CoherenceEventsHappen_requests :
    let s := evt base 0 1 0 0 0
    let shared := s.updDie 1 fun d => { d with l2 := [(0, { st := .s, bytes := List.replicate 64 0 })] }
    (takeMsg (fun m => m.home == 0 && m.die == 1 && m.kind.toDie == MsgKind.readOwn.toDie) s.msgs = none ∧ msgRange s.ev = true ∧
      s.trackHome 0 = 0 ∧ Tab.find 0 (s.die 1).asked = none ∧ s.l2Find 1 0 = none) ∧
    (takeMsg (fun m => m.home == 0 && m.die == 1 && m.kind.toDie == MsgKind.upgrade.toDie) shared.msgs = none ∧ shared.trackHome 0 = 0 ∧
      Tab.find 0 (shared.die 1).asked = none ∧ shared.l2Find 1 0 = some { st := .s, bytes := List.replicate 64 0 }) ∧
    (s.ev.n0 < 256 ∧ tlbHit ((s.core 0).tlb.filter (s.serves 0)) (s.ownerOf (clusterOf 0)) (1 % 2 ^ 56) = none) := by decide
theorem witness_CoherenceEventsHappen_lines :
    let with_ (st : Coh) := (evt base 0 1 64 0 0).updDie 1 fun d => { d with l2 := [(64, { st, bytes := List.replicate 64 7 })] }
    let waits := base.updDie 0 fun d => { d with dir := [(64, { st := some (.owned 1), txn := some ⟨2, .readOwn, [1]⟩ })] }
    (∀ st ∈ [Coh.m, .e, .s], (with_ st).l2Find 1 64 = some { st, bytes := List.replicate 64 7 } ∧ Tab.find 64 ((with_ st).die 1).asked = none ∧
      takeMsg (fun m => m.home == 0 && m.die == 1 && m.kind.toDie == MsgKind.writeBack.toDie) (with_ st).msgs = none) ∧
    (base.dirFind 0 64 = none ∧ (base.dirLines 0 64).length < 16 ∧
      waits.dirFind 0 64 = some { st := some (.owned 1), txn := some ⟨2, .readOwn, [1]⟩ }) ∧
    ((sent .recallI).kind = .recallI ∧ (sent .invalidate).kind = .invalidate ∧
      ({ sent .grant with data := some [7] } : Msg).data = some [7] ∧ ({ sent .writeBack with data := some [7] } : Msg).kind = .writeBack) := by decide

theorem witness_FabricAndHostEventsHappen_fabric :
    let s := { mapped (evt base 1 1 0 4 0) with releases := [(1, 1, 0)] }
    let w := { s with ev := { n0 := 63, n1 := 1, n2 := 2 ^ 40 - 2, bytes := [1, 2] } }
    (bits (2 ^ 56) 57 56 = 1 ∧ (1, 1, 0) ∈ s.releases ∧ bits (2 ^ 58 + 2 ^ 57 + 1) 57 56 = 2 ∧
      1 = bits (2 ^ 58 + 2 ^ 57 + 1) 63 58 ∧ 1 % 2 ^ 32 = bits (2 ^ 58 + 2 ^ 57 + 1) 31 0 ∧ 1 < 64 ∧ w.ev.bytes ≠ [] ∧ w.ev.n2 + w.ev.bytes.length ≤ w.populated ∧ w.ev.nums = []) ∧
    (0 + 4 ≤ s.populated ∧ s.finalWaits s.noticeHeld ((List.range 4).map (0 + ·)) = false) ∧
    (let remote (k due : Nat) (op : Option Nat) : Remote := { id := 1, core := 0, stream := none, pkg := 1, pa := 64, len := 4, lane := 0, kind := k, deadline := due, op }
     ∀ k ∈ [0, 1], ∀ due ∈ [0, 5], ∀ op ∈ [none, some 3], let t := { s with remotes := [remote k due op] }
       t.remotes.find? (fun q => q.id == 1) = some (remote k due op) ∧ t.now = 0 ∧ ((remote k due op).deadline ≤ t.now ∨ t.now < (remote k due op).deadline) ∧
         t.ev.nums = [] ∧ Tab.get 0 t.routes 1 = 0) ∧
    (bits (2 * 2 ^ 28) 31 28 = 2 ∧ bits (3 * 2 ^ 28) 31 28 = 3) ∧
    ((({ s with foreign := [(1, 1, 0, 0)] } : State).foreign.any fun f => f.1 == 1 && f.2.1 == 1 && f.2.2.1 == 0 && decide (f.2.2.2 ≤ s.now)) = true) := by
  decide
theorem witness_FabricAndHostEventsHappen_host :
    let s := { mapped (evt base 0 1 0 0 0) with ev := { n0 := 64, n1 := 1, bytes := [9] } }
    let shut := { s.updPart 2 fun p => { p with partcfg := 128 } with keyids := [(0, 3)] }
    (s.ready = true ∧ s.linkUp = true ∧ (((List.range s.ev.bytes.length).map fun i => (s.aperture (s.ev.n0 + i), s.ev.bytes.getD i 0)).filter
      fun w => decide (w.1 < s.populated) && !s.protectedFrame w.1) ≠ []) ∧
    (shut.protectedFrame (shut.aperture 64) = true ∧ shut.ready = true ∧ shut.linkUp = true ∧
      shut.finalWaits shut.noticeQueued [] = false ∧ s.finalWaits s.noticeQueued [s.aperture 64] = false) := by decide
theorem witness_FabricAndHostEventsHappen_ring :
    let ring : Ring := { lo := 4096, cfg := w32 (2 ^ 31 + 6), wait := [(1, 2)] }
    let s := (evt base 0 1 0 0 0).updPart 0 fun p => { p with rings := [{}, ring, {}], post2 := 0 }
    ((s.part 0).rings.getD 1 {}).wait = [(1, 2)] ∧ s.linkUp = true ∧ bitOf ring.cfg.toNat 31 = true ∧ bits ring.cfg.toNat 4 0 = 6 ∧
      (ring.tail - ring.head).toNat < 2 ^ bits ring.cfg.toNat 4 0 ∧ (s.part 0).heldPosts = [] := by decide
theorem witness_FabricAndHostEventsHappen_link :
    let s := evt base 0 0 0 0 0
    ((∀ n ∈ [6, 7], ({ s with linkReplays := n } : State).linkUp = true) ∧ 7 + 1 = 8 ∧ 6 + 1 ≠ 8) ∧
    (let t := { s with retraining := true, linkFails := [0, 0] }
     t.retraining = true ∧ 3 ≤ ((t.linkFails.filter fun x => decide (t.now < x + 1000000000)) ++ [t.now]).length) ∧
    ({ s with retraining := true } : State).retraining = true := by decide
theorem witness_FabricAndHostEventsHappen_registers :
    let s := evt base 0 0x10004 5 0 0
    (s.linkUp = true ∧ s.ready = true ∧ s.noFirmware = false ∧ (s.part 0).released = true ∧ 0 < (s.part 0).postFree ∧ (s.part 0).heldPosts = [] ∧
      (s.part 0).post2 = 0 ∧ w32 0 = 0) ∧
    (({ s with ready := false, bustat := 0x200 } : State).noFirmware = true) ∧
    (bitOf s.fabid.toNat 31 = false ∧ s.ev.n1 = 0x10000 + 0x40 * 0 + 4 ∧ s.isRetired 0 = false) := by decide
theorem witness_FabricAndHostEventsHappen_full (n : Nat) (h : 256 ≤ n) :
    let s := (evt base 0 0 0 0 0).updPart 0 fun p => { p with posts := List.replicate n 0, heldPosts := [(0, true)] }
    (s.linkUp = true ∧ s.ready = true ∧ s.noFirmware = false ∧ (s.part 0).released = true ∧ (s.part 0).post2 = 0) ∧
    (∀ y ∈ (s.part 0).heldPosts, y.2 = true) ∧ (s.part 0).postFree = 0 := by
  refine ⟨⟨rfl, rfl, show (evt base 0 0 0 0 0).noFirmware = false by decide, rfl, rfl⟩, fun y k => ?_, ?_⟩
  · cases k with
    | head => rfl
    | tail _ k => cases k
  · show 256 - ((List.replicate n (0 : DWord)).length + 0) = 0
    rw [List.length_replicate]
    omega

theorem witness_FabricAndHostEventsHappen_reset :
    let flash : Ev := { n2 := 5 }
    let up (k step : Nat) : State := { evt base 0 0 5 0 k with bustat := w32 step, ready := false, bring := some flash }
    (bringUpError flash ≠ 0 ∧ failedStep (bringUpError flash) = 2 ∧ base.bring = none) ∧
    (∀ k ∈ [0, 1, 2, 8], (up k 0).ev.n4 = k ∧ bringUpError (up k 0).ev = bringUpError flash ∧ (up k 0).bring = some flash) ∧
    ∀ step ∈ [1, 2, 7], bits (up 8 step).bustat.toNat 3 0 = step := by decide

/-- A state whose mailbox holds this command block. -/
def posted (s : State) (ws : List Nat) : State :=
  { s with mboxlo := 0x1000, mboxAddr := 0x1000, mboxBusy := true, hostMem := wrBytes s.hostMem 0x1000 (ws.flatMap (leBytes 8)) }
def mailbox (ws : List Nat) : State := posted (mapped (evt base 0 0 0 0 0)) ws
theorem witness_ManagementCommandsEnd_codes :
    (∀ k ∈ [1, 2, 3, 4, 5, 6, 7, 8, 9, 10, 11], cmdCode (mailbox [k * 2 ^ 56]).mboxBlock = k ∧ (mailbox [k * 2 ^ 56]).mboxBusy = true ∧
      (mailbox [k * 2 ^ 56]).linkUp = true ∧ (mailbox [k * 2 ^ 56]).ready = true) ∧
    (cmdCode (mailbox [12 * 2 ^ 56]).mboxBlock = 12 ∧ cmdCode (mailbox [0]).mboxBlock = 0 ∧
      bits (wordAt (mailbox [2 ^ 56 + 1]).mboxBlock 0) 51 0 ≠ 0) ∧ ({ mailbox [2 ^ 56] with ready := false } : State).ready = false ∧
    ({ mailbox [8 * 2 ^ 56] with ready := false, bustat := 0x200 } : State).noFirmware = true := by decide +kernel
def release (ws : List Nat) : State := mailbox ((2 ^ 56 + 2 ^ 52) :: ws)
def ranges (s : State) : List (Nat × Nat) := s.rangeList (wordAt s.mboxBlock 4) (min 4 (bits (wordAt s.mboxBlock 3) 14 12))
theorem witness_ManagementCommandsEnd_release :
    (∀ ws ∈ [[15, 65535], [14, 65535], [15, 65535, 5 * 2 ^ 12]],
      operandsOnly (release ws).mboxBlock true [(1, 63, 0), (2, 63, 0), (3, 10, 0), (3, 14, 12), (4, 45, 0), (5, 39, 0), (6, 31, 0)] = true) ∧
    (let s := release [14, 65535]; s.releaseOverlap 1 (wordAt s.mboxBlock 1) (wordAt s.mboxBlock 2) = true) ∧
    (let s := release [15 * 2 ^ 4, 65535, 5 * 2 ^ 12]
     s.releaseOverlap 1 (wordAt s.mboxBlock 1) (wordAt s.mboxBlock 2) = false ∧ s.releaseBad 1 s.mboxBlock (ranges s) = true) ∧
    (let s := release [15 * 2 ^ 4, 65535]
     s.releaseOverlap 1 (wordAt s.mboxBlock 1) (wordAt s.mboxBlock 2) = false ∧ s.releaseBad 1 s.mboxBlock (ranges s) = false) := by decide +kernel
theorem witness_ManagementCommandsEnd_keys :
    (operandsOnly (mailbox [2 * 2 ^ 56]).mboxBlock true [(1, 45, 0)] = true ∧ ((mailbox [2 * 2 ^ 56]).part 0).repNonce = [] ∧
      ((mailbox [3 * 2 ^ 56]).part 0).xferKey = []) ∧
    (operandsOnly (mailbox [4 * 2 ^ 56, 0, 2 ^ 60]).mboxBlock true [(1, 63, 0), (2, 63, 0), (3, 1, 0), (4, 45, 0)] = true ∧
      canonical (wordAt (mailbox [4 * 2 ^ 56, 0, 2 ^ 60]).mboxBlock 2) = false) ∧
    (let s := { mailbox [5 * 2 ^ 56, 2 ^ 33 + 1] with bustat := 0x01000001 }
     operandsOnly s.mboxBlock true [(1, 39, 0), (2, 45, 0)] = true ∧ s.populated < wordAt s.mboxBlock 1) ∧
    (let s := (mailbox [7 * 2 ^ 56, 4096]).updPart 0 fun p => { p with xferKey := [1] }
     operandsOnly s.mboxBlock true [(1, 39, 0), (2, 45, 0)] = true ∧ (s.part 0).xferKey ≠ [] ∧ s.transferOk 0 (wordAt s.mboxBlock 1) = true) := by
  decide +kernel
theorem witness_ManagementCommandsEnd_exchange :
    let s := (mailbox [2 * 2 ^ 56, 0x2000]).updPart 0 fun p => { p with partclu := 1, repNonce := [1] }
    let w := (mailbox [3 * 2 ^ 56, 0x2000]).updPart 0 fun p => { p with xferKey := [1] }
    let t := (mailbox [6 * 2 ^ 56, 4096]).updPart 0 fun p => { p with xferKey := [1] }
    (operandsOnly s.mboxBlock true [(1, 45, 0)] = true ∧ (s.part 0).isSet = true ∧ (s.part 0).exchanged = false ∧ (s.part 0).repNonce ≠ [] ∧
      bitOf (s.part 0).partcfg.toNat 7 = false ∧
      bitOf ((s.updPart 0 fun p => { p with partcfg := 128 }).part 0).partcfg.toNat 7 = true) ∧
    (operandsOnly w.mboxBlock true [(1, 45, 0)] = true ∧ (w.part 0).xferKey ≠ [] ∧
      leNat ((rdBytes w.hostMem (wordAt w.mboxBlock 1) 64).take 1) < 16 ∧ leNat (((rdBytes w.hostMem (wordAt w.mboxBlock 1) 64).drop 1).take 3) = 0) ∧
    (operandsOnly t.mboxBlock true [(1, 39, 0), (2, 45, 0)] = true ∧ (t.part 0).xferKey ≠ [] ∧ t.transferOk 0 (wordAt t.mboxBlock 1) = true) := by
  decide +kernel
theorem witness_ManagementCommandsEnd_pages :
    let table (x : Nat × Nat) (m : List (Nat × Byte)) : List (Nat × Byte) := wrBytes m x.1 (leBytes 8 x.2)
    let walked := [(0x20000, 0x21001), (0x21000, 0x22001), (0x22000, 0x23001), (0x23000, 0x24001), (0x24008, 0x1000E)].foldr table (described 1 2).mem
    let s := posted { (described 1 2).updPart 0 fun p => { p with ptbase := 0x20001 } with mem := walked, dies := [] } [4 * 2 ^ 56, 0x10200, 2 ^ 16, 0, 0x3000]
    let imports (h : List Nat) : State := { mailbox [5 * 2 ^ 56, 2 ^ 16, 0x3000] with hostMem := wrBytes [] 0x3000 (h.flatMap (leBytes 8)), bustat := 0x80000001 }
    (operandsOnly s.mboxBlock true [(1, 63, 0), (2, 63, 0), (3, 1, 0), (4, 45, 0)] = true ∧ wordAt s.mboxBlock 3 < 2 ∧
      canonical (wordAt s.mboxBlock 2) = true ∧ wordAt s.mboxBlock 2 % 2 ^ 16 = 0 ∧ ((s.part 0).evicted (w64 (wordAt s.mboxBlock 2))).isNone = true ∧
      ((s.part 0).evict.filter fun e => e.2.2.1 || e.2.2.2.2).length < 2 ^ 20) ∧
    (∃ c v, s.readChain 0 (w64 (wordAt s.mboxBlock 1)) = (some c, v) ∧ ∃ pa w, v.frameOf 0 (va56 (2 ^ 16)) false = (some pa, w)) ∧
    (let t := imports [2 ^ 48]
     let h (i : Nat) : Nat := wordAt (dwords 8 (rdBytes t.hostMem 0x3000 64)) i
     2 ^ 16 + 2 ^ 16 ≤ t.populated ∧ bits (h 0) 63 48 = 1 ∧ bits (h 0) 47 44 = 0 ∧ bits (h 0) 35 34 < 2 ∧ bits (h 0) 33 0 = 0 ∧ bits (h 2) 31 0 = 0 ∧
      bits (h 4) 63 32 = 0 ∧ h 7 = 0) :=
  ⟨by decide +kernel, both_of (by decide +kernel), by decide +kernel⟩
theorem witness_ManagementCommandsEnd_reads :
    operandsOnly (mailbox [8 * 2 ^ 56, 2 ^ 46 - 1]).mboxBlock true [(1, 45, 0), (2, 45, 0)] = true ∧
    operandsOnly (mailbox [9 * 2 ^ 56, 2 ^ 46 - 1]).mboxBlock false [(1, 45, 0)] = true ∧
    operandsOnly (mailbox [10 * 2 ^ 56, 2 ^ 64 - 1, 65535, 0]).mboxBlock false [(1, 63, 0), (2, 15, 0), (3, 45, 0)] = true ∧
    (∀ x ∈ [(255, 2), (256, 2), (255, 1), (0, 1024), (0, 1025)],
      operandsOnly (mailbox [11 * 2 ^ 56, x.1, 0, x.2]).mboxBlock true [(1, 15, 0), (2, 45, 0), (3, 10, 0)] = true ∧
      wordAt (mailbox [11 * 2 ^ 56, x.1, 0, x.2]).mboxBlock 1 = x.1 ∧ wordAt (mailbox [11 * 2 ^ 56, x.1, 0, x.2]).mboxBlock 3 = x.2) := by decide +kernel

def island (st : IslandState) : State := (evt base 0 0 0 0 0).setCluster 0 { base.cluster 0 with island := st, islctl := 2 }
theorem witness_PowerEventsHappen_islands :
    ((island .switching).cluster 0).island = .switching ∧ ((island .waking).cluster 0).island = .waking ∧
    (∀ st ∈ [IslandState.running, .retention], let s := { island st with gangs := [], timestamp := 100000 }
      (∀ p ∈ s.gangs, clusterOf p.2.core ≠ 0) ∧ bitOf (s.cluster 0).islctl.toNat 1 = true ∧ (s.cluster 0).emptyAt + 100000 ≤ s.now ∧
        ((s.cluster 0).island = .running ∨ (s.cluster 0).island = .retention) ∧ s.isRetired 0 = false) ∧
    (let s := { island .off with wakeQ := [0] }
     s.wakeQ.find? (fun c => c / 16 == 0) = some 0 ∧ (s.cluster 0).island = .off ∧
       (s.clusters.filter fun c => c.1 / 16 == 0 && c.2.island == .waking).length < 4) := by decide
theorem witness_PowerEventsHappen_droop :
    let s := (evt base 0 41 0 0 0).updCluster 0 fun c => { c with droop := .stretch 0 }
    (0 < ({ s with timestamp := 1000000 } : State).now / 1000000 ∧ s.energyMs = 0) ∧
    (bitOf (s.cluster 0).droopctl.toNat 31 = true ∧ (s.cluster 0).island = .running ∧ (s.cluster 0).maskTill ≤ s.now ∧
      2 * bits (s.cluster 0).droopctl.toNat 7 0 < 41) ∧
    (∀ d ∈ [Droop.tripped, .stretch 0, .stretch 15, .halve 0, .halve 63, .halve 64],
      let c := { s.cluster 0 with droop := d, droopctl := w32 (2 ^ 31 + 64 * 2 ^ 16 + 15 * 2 ^ 12) }
      c.droop = d ∧ bits c.droopctl.toNat 15 12 ≠ 0 ∧ bits c.droopctl.toNat 23 16 = 64) ∧
    (bits ({ s.cluster 0 with droopctl := w32 (2 ^ 31 + 2 ^ 16) } : Cluster).droopctl.toNat 15 12 = 0) ∧
    ((s.cluster 0).droop = .stretch 0 ∧ bits (s.cluster 0).droopctl.toNat 23 16 ≤ 64 ∧
      ((s.updCluster 0 fun c => { c with droop := .halve 64 }).cluster 0).droop = .halve 64) := by decide
def telemetry (cmd : Nat) : List Byte :=
  let f := leBytes 14 (0xD5 + cmd * 2 ^ 48)
  f ++ leBytes 2 (crc16 f)
theorem witness_PowerEventsHappen_frames :
    let s := evt base 0 0 0 0 0
    s.noFirmware = false ∧ s.ready = true ∧ frameValid [] = false ∧ frameValid (telemetry 0x87) = true ∧ s.pkgLevel < s.frameTarget 0 0 0x87 ∧ s.frameTarget 0 0 0x87 < 8 := by decide +kernel
theorem witness_PowerEventsHappen_failsafe :
    let s := evt base 0 0 0 0 0
    let late := { s with timestamp := 2 ^ 40 }
    (late.noFirmware = false ∧ bitOf late.telstat1.toNat 7 = false ∧ late.frameAt + 50000 * bits late.shedEff.toNat 15 8 ≤ late.now ∧ late.pkgLevel < bits (0x00641403 : Word).toNat 2 0) ∧
    (bitOf ({ late with telstat1 := 128 } : State).telstat1.toNat 7 = true ∧ late.frameAt + 50000 ≤ late.now) ∧
    (let t := s.updPart 0 fun p => { p with shedstat := 0x11 }
     (t.part 0).released = true ∧ (t.part 0).applied < (t.part 0).level) := by decide

/-! One step of a word, on the operands of the spec's worked examples: the values are the spec's. -/

/-- The state after a word is decoded and carried out. -/
def after (w : Word) (s : State) : State :=
  match decode w with
  | .ok i => (match exec i s with
    | .next t => t
    | _ => s)
  | .error _ => s
def lanes (xs : List Nat) : Vec := (List.range 32).map fun i => ⟨w32 (xs.getD i 0), 0⟩
def holding (ty em : Nat) (vs : List (Nat × List Nat)) : State :=
  (typed ty).updStream 0 fun t => { t with em := w32 em, live := w32 em, v := vs.foldl (fun v x => Tab.put x.1 (lanes x.2) v) t.v }
def values (s : State) (n k : Nat) : List Nat := (List.range k).map fun i => (((s.stream 0).vreg n).lane i).v.toNat

-- 05, "a suppressed write and a void latch": iadd.nw v5, v2, v3.
theorem test_step_suppressed_write :
    let t := after 0x20228206 (holding 3 15 [(2, [10, 20, 30, 40]), (3, [1, 2, 3, 4]), (5, List.replicate 32 7)])
    values t 5 4 = [7, 7, 7, 7] ∧ (((t.stream 0).latches.headD {}).val.map fun v => (v.take 4).map (·.v.toNat)) = some [11, 22, 33, 44] := by
  decide +kernel
-- 06 R168: the narrowing of ISUB 3 - 5 under n8, of IMIN and IMAX of 200 and -5, and of IABS of the least s32.
theorem test_step_narrows :
    (values (after 0x20410206 (holding 6 1 [(2, [3]), (3, [5])])) 2 1).map (· % 256) = [254] ∧
    values (after 0x21C10200 ((holding 3 1 [(2, [2 ^ 31])]))) 2 1 = [2 ^ 31] := by decide +kernel
-- 06, "if-else under BRC".
def ifElse : State := (holding 3 15 [(1, [5, 2 ^ 32 - 3, 0, 8])]).updStream 0 fun t => { t with pc := 4 }
theorem test_step_compare :
    let t := after 0x180A0190 ifElse
    ((t.stream 0).preg 1).v &&& 15 = 9 ∧ ((t.stream 0).preg 2).v &&& 15 = 6 ∧ (t.stream 0).pc = 8 := by decide +kernel
theorem test_step_branch :
    let s := ifElse.updStream 0 fun t => { t with p := [(1, ⟨9, 0⟩), (2, ⟨6, 0⟩)], pc := 0x10 }
    ((after 0x08880004 s).stream 0).pc = 0x20 ∧ ((after 0x08880004 s).stream 0).em = 9 ∧ ((after 0x04058200 s).stream 0).creg 11 = ⟨6, 0⟩ := by
  decide +kernel
theorem test_step_backward : ((after 0x083BFFFB (ifElse.updStream 0 fun t => { t with pc := 0x28 })).stream 0).pc = 0x14 := by decide +kernel
theorem test_step_joins :
    let s := ifElse.updStream 0 fun t => { t with em := 6, c := [(10, ⟨15, 0⟩)], v := Tab.put 2 (lanes [10, 0, 0, 16]) t.v }
    values (after 0x2C010064 s) 2 4 = [10, 100, 100, 16] ∧
      (((after 0x2C010064 s).stream 0).latches.headD {}).val.map (fun v => (v.take 4).map (·.v.toNat)) = some [10, 100, 100, 16] ∧
      ((after 0x03805A00 s).stream 0).em = 15 ∧ ((after 0x00800000 s).stream 0).ended = false := by decide +kernel
theorem test_step_exit : ((after 0x00800000 ifElse).stream 0).ended = true := by decide +kernel
-- 07, "tree and sequential order".
def prefixes : State := holding 12 15 [(1, [0x4B800000, 0x3F800000, 0x3F800000, 0xCB800000])]
theorem test_step_scan : values (after 0x39810100 prefixes) 2 4 = [0x4B800000, 0x4B800000, 0x4B800000, 0] := by decide +kernel
theorem test_step_tree : values (after 0x39418100 prefixes) 3 1 = [0x3F800000] := by decide +kernel
-- 02, "FRCP of 1.5009765625", and the b8p4 code 0x3A, which is 0.625.
theorem test_step_frcp : values (after 0x34010100 (holding 12 1 [(1, [0x3FC02000])])) 2 1 = [0x3F2A8E3E] := by decide +kernel
theorem test_decode_b8p4 : decodeFloat 20 false 0x3A = .fin false 10 (-4) := by decide +kernel
-- 07 R192: the split of the f32 nearest to 1/3.
theorem test_split : splitTerms 11 (decodeFloat 12 false 0x3EAAAAAB) = [0x3EAA, 0x3AAA, 0x36AB] := by decide +kernel
-- 10, "a top-3 list over two calls": the first VTOPK.
theorem test_step_topk :
    let s := (holding 3 255 [(2, [0, 1, 2, 3, 0, 1, 2, 3]), (3, [0, 1, 2, 3, 4, 5, 6, 7]), (11, List.replicate 32 0xFFFFFFFF)]).updStream 0
      fun t => { t with em := 3 }
    let t := after 0x70850204 s
    (values t 10 2, values t 11 3) = ([1, 0], [1, 0, 0xFFFFFFFF]) ∧ (t.stream 0).vcount = 2 := by decide +kernel
-- 01, "one gang-divergent branch": where the threads of the fall-through path lie.
theorem test_step_meeting :
    let two := (waiting (evt base 0 0 0 0 0) (.brg 1 false 40 80)).updGang 0 fun g => { g with crews := 2, remap := (List.range 64).map fun v => (v, v) }
    let multiples : Tab LV := [(1, ⟨0x11111111, 0⟩)]
    let s := (two.updStream 0 fun t => { t with p := multiples }).setStream 2 { (two.stream 0) with p := multiples }
    (match exec .brgMeeting s with
      | .next t => decide (((t.stream 0).em, (t.stream 2).em) = (0xFFFFFFFF, 0xFFFF) ∧ t.vid 2 1 = 45 ∧ t.vid 0 31 = 42 ∧ t.vid 0 3 = 5)
      | _ => false) = true := by decide +kernel
end Sys2Proof.Tests
end

section
/-! SUPPORT. Instructions that only go on, uniform sources, and destinations that may not stand. -/

namespace Sys2Proof.Machine

/-- An instruction that completes and only goes on. -/
theorem run_complete {s : State} {r : Nat} {f : Nat → Except Stop State} {c : Cls} {reads lines : Nat} (h : s.inHand r)
    (hf : f r = .ok (s.complete r c reads lines)) :
    ∃ t, run s f = .next t ∧ WentOn s t r ∧ t.crews = s.crews ∧ OnlyStream s t r Stream.core := by
  obtain ⟨-, -, hpc, hloops⟩ := complete_keeps s r c reads lines
  exact ⟨_, run_next h hf, ⟨hpc, hloops⟩, rfl, OnlyStream.complete s r c reads lines⟩

/-- A uniform source that can be read gives its value, and nothing is used up. -/
theorem uniform_readable {s : State} {r f : Nat} (h : s.inHand r) (hr : s.readable r [{ f, allow := .uni }] none) :
    ∃ p, s.uniform r f false = .ok p ∧ p.st = s ∧ p.val 0 0 = s.operand r { f, allow := .uni } 0 := by
  obtain ⟨-, -, hbank⟩ := h
  exact ⟨_, peek_readable 0 hr, noteBanks_clean hbank _, rfl⟩

/-- Sources that may stand beside a destination that may not: the illegal-instruction trap. -/
theorem peek_illegalDst {s : State} {r : Nat} {ws : List Want} {d : Dst} {sub : Nat} (mask : Word)
    (hs : ∀ w ∈ ws, s.srcFault r w = none) (hd : s.dstFault r d = some sub) :
    s.peek r mask ws (some d) = .error (s.illegal r sub) := by
  simp only [State.peek, findSome_none hs, Option.bind_some, hd]
  rfl

@[simp] theorem Label.zero_join (l : Label) : Label.join 0 l = l := by simp [Label.join]

theorem dstFault_oddPair {s : State} {r : Nat} {d : Dst} (h : d.n < 56) (hw : d.wide = true) (ho : d.n % 2 = 1) :
    s.dstFault r d = some 3 := by
  simp [State.dstFault, h, hw, ho]

end Sys2Proof.Machine
end

section
/-! SUPPORT. What a transfer of control and a switch point change (06 R141, 01 R23). -/

namespace Sys2Proof.Machine

theorem Stream.flow_of_core {u v : Stream} (h : u.core = v.core) : u.flow = v.flow := by simp [Stream.flow, h]

@[simp] theorem State.stream_jump (s : State) (r : Nat) (c : Cls) (reads : Nat) (pc : BitVec 24) :
    (s.jump r c reads pc).stream r =
      { s.stream r with pc := pc, fetched := [], wait := none, dataWait := none, drowsy := false } :=
  State.stream_setStream _ _ _

theorem OnlyStream.jump (s : State) (r : Nat) (c : Cls) (reads : Nat) (pc : BitVec 24) :
    OnlyStream s (s.jump r c reads pc) r Stream.flow :=
  (OnlyStream.charge s r _ c reads 0).trans (OnlyStream.updStream _ r _ _ rfl)

/-- An instruction that changes its stream and transfers control. -/
theorem OnlyStream.upd_jump {s : State} {r : Nat} {f e : Stream → Stream} (c : Cls) (reads : Nat) (pc : BitVec 24)
    (he : e (f (s.stream r)) = e (s.stream r)) (hflow : ∀ u v : Stream, u.flow = v.flow → e u = e v) :
    OnlyStream s ((s.updStream r f).jump r c reads pc) r e :=
  (OnlyStream.updStream s r e f he).trans ((OnlyStream.jump _ r c reads pc).mono hflow)

/-! Switch points. -/

theorem OnlyCrew.refl (s : State) (r : Nat) (e : Stream → Stream) : OnlyCrew s s r e :=
  ⟨rfl, fun _ _ _ => rfl, fun _ _ => rfl, rfl, fun _ _ => rfl, fun _ => rfl, fun _ => rfl, rfl, SameMemory.refl s⟩

theorem OnlyCrew.trans {s t u : State} {r : Nat} {e : Stream → Stream} (h : OnlyCrew s t r e) (k : OnlyCrew t u r e) :
    OnlyCrew s u r e :=
  ⟨k.stream.trans h.stream, fun j hj hc => (k.fellow j hj hc).trans (h.fellow j hj hc),
    fun j hc => (k.streams j hc).trans (h.streams j hc), k.crew.trans h.crew, fun j hj => (k.crews j hj).trans (h.crews j hj),
    fun n => (k.nodes n).trans (h.nodes n), fun p => (k.parts p).trans (h.parts p), k.rest.trans h.rest,
    h.memory.trans k.memory⟩

/-- What changes only a stream changes only its crew, for an eraser that does not look at the latches. -/
theorem OnlyStream.onlyCrew {s t : State} {r : Nat} {e : Stream → Stream} (h : OnlyStream s t r e)
    (he : ∀ u : Stream, e { u with latches := [] } = { e u with latches := [] }) : OnlyCrew s t r e where
  stream := by rw [he, he, h.stream]
  fellow j hj _ := by rw [h.streams j hj]
  streams j hc := h.streams j fun hj => hc (by rw [hj])
  crew := by rw [h.crew]
  crews := h.crews
  nodes := h.nodes
  parts := h.parts
  rest := congrArg (fun x : State => { x with fresh := 0 }) h.rest
  memory := h.memory

theorem mem_crewStreams {single : Bool} {k j : Nat} (h : j ∈ crewStreams single k) : crewOf j = k := by
  unfold crewStreams at h
  unfold crewOf
  split at h <;> simp at h <;> omega

/-- Voiding the latches of some streams changes those streams' latches alone. -/
theorem foldl_voidLatches (js : List Nat) (s : State) :
    ∃ ts, js.foldl (fun s j => s.updStream j Stream.voidLatches) s = { s with streams := ts } ∧
      (∀ j, { ({ s with streams := ts } : State).stream j with latches := [] } = { s.stream j with latches := [] }) ∧
      ∀ j, j ∉ js → ({ s with streams := ts } : State).stream j = s.stream j := by
  induction js generalizing s with
  | nil => exact ⟨s.streams, rfl, fun _ => rfl, fun _ _ => rfl⟩
  | cons i js ih =>
    obtain ⟨ts, heq, hless, hother⟩ := ih (s.updStream i Stream.voidLatches)
    refine ⟨ts, heq, fun j => (hless j).trans ?_, fun j hj => ?_⟩
    · by_cases hj : j = i
      · subst hj; simp [Stream.voidLatches]
      · simp [State.stream_setStream_other _ _ hj]
    · rw [List.mem_cons, not_or] at hj
      exact (hother j hj.2).trans (State.stream_setStream_other _ _ hj.1)

theorem OnlyCrew.voidCrew (s : State) (r : Nat) (e : Stream → Stream) : OnlyCrew s (s.voidCrew r) r e := by
  obtain ⟨ts, heq, hless, hother⟩ := foldl_voidLatches (crewStreams (s.gangAt r).single (crewOf r)) s
  rw [State.voidCrew, heq]
  exact ⟨congrArg e (hless r), fun j _ _ => hless j, fun j hc => hother j fun hj => hc (mem_crewStreams hj), rfl,
    fun _ _ => rfl, fun _ => rfl, fun _ => rfl, rfl, SameMemory.refl _⟩

theorem OnlyCrew.makeReady (s : State) (r : Nat) (e : Stream → Stream) : OnlyCrew s (s.makeReady (crewOf r)) r e where
  stream := rfl
  fellow _ _ _ := rfl
  streams _ _ := rfl
  crew := by simp [State.makeReady, State.freshNum, State.crewAt, State.crew, Crew.lessQueues]
  crews _ hk := State.crew_setCrew_other _ _ hk
  nodes _ := rfl
  parts _ := rfl
  rest := rfl
  memory := SameMemory.refl s

/-- A crew that leaves its slot ready changes its place and its latches alone. -/
theorem OnlyCrew.switchOut (s : State) (r : Nat) (e : Stream → Stream) : OnlyCrew s (s.switchOut r false) r e :=
  (OnlyCrew.voidCrew s r e).trans (OnlyCrew.makeReady _ r e)

theorem switchOut_ready (s : State) (r : Nat) : ∃ n age, ((s.switchOut r false).crewAt r).place = .ready n age :=
  ⟨_, _, congrArg Crew.place (State.crew_setCrew _ _ _)⟩

/-- Outside its latches the stream of a crew that leaves its slot is as it was. -/
theorem stream_switchOut (s : State) (r : Nat) :
    { (s.switchOut r false).stream r with latches := [] } = { s.stream r with latches := [] } :=
  (OnlyCrew.switchOut s r id).stream

end Sys2Proof.Machine
end

section
/-! Branches (06 R141, R146, R147). -/

namespace Sys2Proof.Machine

/-- After a branch the crew stays in its slot, or leaves it ready, as it does with the yield bit. -/
theorem afterBranch_cases (s : State) (r : Nat) (y backward : Bool) :
    s.afterBranch r y backward = s ∧ y = false ∨ s.afterBranch r y backward = s.switchOut r false := by
  cases y
  · cases backward
    · exact .inl ⟨rfl, rfl⟩
    · by_cases hr : 4096 ≤ s.cyclesOf (clusterOf (s.coreNum r)) - (s.crewAt r).since ∧ s.otherReady (s.coreNum r) (crewOf r)
      · exact .inr (if_pos hr)
      · exact .inl ⟨if_neg hr, rfl⟩
  · exact .inr rfl

theorem OnlyCrew.afterBranch (s : State) (r : Nat) (y backward : Bool) (e : Stream → Stream) :
    OnlyCrew s (s.afterBranch r y backward) r e := by
  obtain ⟨h, -⟩ | h := afterBranch_cases s r y backward
  · rw [h]; exact OnlyCrew.refl s r e
  · rw [h]; exact OnlyCrew.switchOut s r e

theorem afterBranch_keeps (s : State) (r : Nat) (y backward : Bool) :
    let t := (s.afterBranch r y backward).stream r
    t.pc = (s.stream r).pc ∧ t.loops = (s.stream r).loops ∧ t.em = (s.stream r).em := by
  have h := (OnlyCrew.afterBranch s r y backward id).stream
  exact ⟨(congrArg Stream.pc h :), (congrArg Stream.loops h :), (congrArg Stream.em h :)⟩

theorem afterBranch_ready (s : State) (r : Nat) (backward : Bool) :
    ∃ n age, ((s.afterBranch r true backward).crewAt r).place = .ready n age :=
  switchOut_ready s r

/-- What a branch leaves of the state it went on to: the yield bit sends the crew out of its slot, and with neither it nor a
backward target nothing more happens. -/
theorem branch_ends {s t : State} {r : Nat} {e : Stream → Stream} (y : Bool) {backward : Bool} {forward : Prop}
    (only : OnlyStream s t r e) (he : ∀ u : Stream, e { u with latches := [] } = { e u with latches := [] })
    (hcrews : t.crews = s.crews) (hlatches : (t.stream r).latches = (s.stream r).latches) (hb : forward → backward = false) :
    let v := t.afterBranch r y backward
    (y = true → ∃ n age, (v.crewAt r).place = .ready n age) ∧
      (y = false → forward → v.crews = s.crews ∧ (v.stream r).latches = (s.stream r).latches) ∧ OnlyCrew s v r e := by
  refine ⟨fun hy => ?_, fun hy hf => ?_, (only.onlyCrew he).trans (OnlyCrew.afterBranch t r y backward e)⟩
  · subst hy; exact afterBranch_ready t r backward
  · rw [hy, hb hf]; exact ⟨hcrews, hlatches⟩

theorem backwardOff_of_pos {off : BitVec 18} (h : 0 < signed 18 off.toNat) : backwardOff off = false :=
  decide_eq_false (not_le.mpr h)

/-- The lanes in which the condition of a branch holds, with the sense applied; every lane under pred 7. -/
def Stream.branchMask (t : Stream) (pred : BitVec 3) (sense : Bool) : Word :=
  if pred = 7 then 0xFFFFFFFF else if sense then ~~~(t.preg pred.toNat).v else (t.preg pred.toNat).v

/-- The branch is taken: always under pred 7, otherwise where its condition holds in some lane of EM (06 R141). -/
def Stream.takes (t : Stream) (pred : BitVec 3) (sense : Bool) : Prop :=
  pred = 7 ∨ t.em &&& t.branchMask pred sense ≠ 0

/-- What the condition of a legal branch is: its lanes, or none where it always holds. -/
theorem branchCond_legal (s : State) (r : Nat) {pred : BitVec 3} {sense : Bool} (h : ¬(pred = 7 ∧ sense = true)) :
    ∃ c, branchCond s r pred sense = .ok c ∧ (someLane (s.stream r).em c = true ↔ (s.stream r).takes pred sense) ∧
      c.getD 0xFFFFFFFF = (s.stream r).branchMask pred sense := by
  by_cases hp : pred = 7
  · subst hp
    obtain rfl : sense = false := by simpa using h
    exact ⟨none, rfl, ⟨fun _ => .inl rfl, fun _ => rfl⟩, rfl⟩
  · refine ⟨some ((s.stream r).branchMask pred sense), ?_, ?_, rfl⟩
    · simp only [branchCond, Stream.branchMask, need, beq_false_of_ne hp, if_neg hp]
      rfl
    · rw [Stream.takes, or_iff_right hp]
      exact bne_iff_ne

section

variable {s : State} {r : Nat} {y : Bool} {pred : BitVec 3} {sense : Bool} {off : BitVec 18}

theorem exec_bra_taken (h : s.inHand r) (hok : ¬(pred = 7 ∧ sense = true)) (ht : (s.stream r).takes pred sense) :
    exec (.bra y pred sense off) s =
      .next ((s.jump r .control 0 (targetOf (s.stream r).pc 18 off.toNat)).afterBranch r y (backwardOff off)) := by
  obtain ⟨c, hc, hsome, -⟩ := branchCond_legal s r hok
  refine run_next h ?_
  simp only [hc, bind, Except.bind]
  exact if_pos (hsome.mpr ht)

theorem exec_bra_passed (h : s.inHand r) (hok : ¬(pred = 7 ∧ sense = true)) (ht : ¬(s.stream r).takes pred sense) :
    exec (.bra y pred sense off) s = .next ((s.complete r .control 0 0).afterBranch r y false) := by
  obtain ⟨c, hc, hsome, -⟩ := branchCond_legal s r hok
  refine run_next h ?_
  simp only [hc, bind, Except.bind]
  exact if_neg fun hl => ht (hsome.mp hl)

theorem exec_brc_taken (h : s.inHand r) (hok : ¬(pred = 7 ∧ sense = true)) (ht : (s.stream r).takes pred sense) :
    exec (.brc y pred sense off) s =
      .next (((s.updStream r fun t => { t with em := (s.stream r).em &&& (s.stream r).branchMask pred sense }).jump r .control 0
        (targetOf (s.stream r).pc 18 off.toNat)).afterBranch r y (backwardOff off)) := by
  obtain ⟨c, hc, hsome, hmask⟩ := branchCond_legal s r hok
  refine run_next h ?_
  rw [← hmask]
  simp only [hc, bind, Except.bind]
  cases c with
  | none => rw [show (s.stream r).em &&& (none : Option Word).getD 0xFFFFFFFF = (s.stream r).em from BitVec.and_allOnes]; rfl
  | some c => exact if_pos (hsome.mpr ht)

theorem exec_brc_passed (h : s.inHand r) (hok : ¬(pred = 7 ∧ sense = true)) (ht : ¬(s.stream r).takes pred sense) :
    exec (.brc y pred sense off) s = .next ((s.complete r .control 0 0).afterBranch r y false) := by
  obtain ⟨c, hc, hsome, -⟩ := branchCond_legal s r hok
  refine run_next h ?_
  simp only [hc, bind, Except.bind]
  cases c with
  | none => exact absurd (hsome.mp rfl) ht
  | some c => exact if_neg fun hl => ht (hsome.mp hl)

end

theorem afterBranch_lands (s : State) (r : Nat) (c : Cls) (reads : Nat) (pc : BitVec 24) (y backward : Bool) :
    let t := ((s.jump r c reads pc).afterBranch r y backward).stream r
    t.em = (s.stream r).em ∧ t.pc = pc ∧ t.loops = (s.stream r).loops := by
  obtain ⟨hpc, hloops, hem⟩ := afterBranch_keeps (s.jump r c reads pc) r y backward
  rw [State.stream_jump] at hpc hloops hem
  exact ⟨hem, hpc, hloops⟩

theorem afterBranch_goesOn (s : State) (r : Nat) (c : Cls) (reads lines : Nat) (y backward : Bool) :
    (((s.complete r c reads lines).afterBranch r y backward).stream r).em = (s.stream r).em ∧
      WentOn s ((s.complete r c reads lines).afterBranch r y backward) r := by
  obtain ⟨hcore, -, hpc, hloops⟩ := complete_keeps s r c reads lines
  obtain ⟨hpc', hloops', hem'⟩ := afterBranch_keeps (s.complete r c reads lines) r y backward
  have hem : ((s.complete r c reads lines).stream r).em = (s.stream r).em := (congrArg Stream.em hcore :)
  exact ⟨hem'.trans hem, hpc'.trans hpc, hloops'.trans hloops⟩

theorem complete_latches (s : State) (r : Nat) (c : Cls) (reads lines : Nat) :
    ((s.complete r c reads lines).stream r).latches = (s.stream r).latches :=
  (congrArg Stream.latches (complete_keeps s r c reads lines).1 :)

/-- Settles O17, by whether the condition holds: a taken branch jumps, another goes on, and what the yield bit and a
rotation add is the same for all four (branch_ends). -/
theorem branchesTransferControl : Obligations.BranchesTransferControl := by
  intro s r y pred sense off h u c target always hok
  have htakes : (always = true ∨ u.em &&& c ≠ 0) ↔ u.takes pred sense := by
    rw [beq_iff_eq]; rfl
  simp only [htakes]
  have honly := OnlyStream.complete s r .control 0 0
  have hlatches := complete_latches s r .control 0 0
  obtain ⟨hem, hon⟩ := afterBranch_goesOn s r .control 0 0 y false
  by_cases ht : u.takes pred sense
  · constructor
    · obtain ⟨hem', hpc, hloops⟩ := afterBranch_lands s r .control 0 target y (backwardOff off)
      exact ⟨_, exec_bra_taken h hok ht, hem', fun _ => ⟨hpc, hloops⟩, fun hn => absurd ht hn,
        branch_ends y (OnlyStream.jump s r .control 0 target) (fun _ => rfl) rfl (by simp) backwardOff_of_pos⟩
    · let v := s.updStream r fun t => { t with em := u.em &&& c }
      have hv : v.stream r = { u with em := u.em &&& c } := State.stream_setStream _ _ _
      obtain ⟨hem', hpc, hloops⟩ := afterBranch_lands v r .control 0 target y (backwardOff off)
      rw [hv] at hem' hloops
      exact ⟨_, exec_brc_taken h hok ht, fun _ => ⟨hem', hpc, hloops⟩, fun hn => absurd ht hn,
        branch_ends y (OnlyStream.upd_jump .control 0 target rfl fun _ _ h => by rw [h]) (fun _ => rfl) rfl
          (by simp) backwardOff_of_pos⟩
  · exact ⟨⟨_, exec_bra_passed h hok ht, hem, fun hn => absurd hn ht, fun _ => hon,
        branch_ends y (honly.mono fun _ _ => Stream.flow_of_core) (fun _ => rfl) rfl hlatches fun _ => rfl⟩,
      _, exec_brc_passed h hok ht, fun hn => absurd hn ht, fun _ => ⟨hem, hon⟩,
        branch_ends y (honly.mono fun _ _ h => by rw [Stream.flow_of_core h]) (fun _ => rfl) rfl hlatches fun _ => rfl⟩

end Sys2Proof.Machine
end

section
/-! Calls (06 R150, R160). -/

namespace Sys2Proof.Machine

section

variable {s : State} {r : Nat} {pred : BitVec 3} {sense : Bool} {off : BitVec 18}

theorem exec_call_pushed (h : s.inHand r) (hok : ¬(pred = 7 ∧ sense = true)) (ht : (s.stream r).takes pred sense)
    (hroom : (s.stream r).rets.length < 16) :
    exec (.call pred sense off) s =
      .next ((s.updStream r fun t => { t with rets := (t.pc + 4) :: t.rets }).jump r .control 0
        (targetOf (s.stream r).pc 18 off.toNat)) := by
  obtain ⟨c, hc, hsome, -⟩ := branchCond_legal s r hok
  refine run_next h ?_
  simp only [hc, bind, Except.bind]
  exact (if_pos (hsome.mpr ht)).trans (if_neg (not_le.mpr hroom))

theorem exec_call_full (h : s.inHand r) (hok : ¬(pred = 7 ∧ sense = true)) (ht : (s.stream r).takes pred sense)
    (hfull : 16 ≤ (s.stream r).rets.length) :
    exec (.call pred sense off) s = .next (s.takeTrap r { cause := 0x14, info := 0, mask := (s.stream r).em }) := by
  obtain ⟨c, hc, hsome, -⟩ := branchCond_legal s r hok
  refine run_trap h ?_
  simp only [hc, bind, Except.bind]
  exact (if_pos (hsome.mpr ht)).trans (if_pos hfull)

theorem exec_call_passed (h : s.inHand r) (hok : ¬(pred = 7 ∧ sense = true)) (ht : ¬(s.stream r).takes pred sense) :
    ∃ t, exec (.call pred sense off) s = .next t ∧ WentOn s t r ∧ t.crews = s.crews ∧ OnlyStream s t r Stream.core := by
  obtain ⟨c, hc, hsome, -⟩ := branchCond_legal s r hok
  refine run_complete h (c := .control) (reads := 0) (lines := 0) ?_
  simp only [hc, bind, Except.bind]
  exact if_neg fun hl => ht (hsome.mp hl)

end

theorem exec_ovcall_held {s : State} {r : Nat} {a imm : BitVec 7} (h : s.inHand r)
    (hr : s.readable r [{ f := a.toNat, allow := .uni }] none) (hroom : (s.stream r).rets.length < 16)
    (hpage : s.holdsPage r (s.inSup r)
      ((codeAddr (s.operand r { f := a.toNat, allow := .uni } 0 + 4 * imm.toNat)).toNat / 4096) = true) :
    ∃ reads, exec (.ovcall a imm) s =
      .next ((s.updStream r fun t => { t with rets := (t.pc + 4) :: t.rets }).jump r .control reads
        (codeAddr (s.operand r { f := a.toNat, allow := .uni } 0 + 4 * imm.toNat))) := by
  obtain ⟨p, hp, hst, hval⟩ := uniform_readable h hr
  refine ⟨p.regs, run_next h ?_⟩
  simp only [hp, hst, hval, hpage, bind, Except.bind]
  exact if_neg (not_le.mpr hroom)

/-- What a push of a return address and a jump leave. -/
theorem pushed_jump (s : State) (r reads : Nat) (rets : List (BitVec 24)) (pc : BitVec 24) :
    let t := (s.updStream r fun t => { t with rets }).jump r .control reads pc
    (t.stream r).pc = pc ∧ (t.stream r).rets = rets ∧ (t.stream r).loops = (s.stream r).loops ∧
      OnlyStream s t r fun v => { v.flow with rets := [] } := by
  refine ⟨?_, ?_, ?_, OnlyStream.upd_jump _ _ _ rfl fun _ _ h => by rw [h]⟩ <;> simp

/-- Settles O19: what CALL, RET and OVCALL push or pop, and that they change nothing else, is one lemma (pushed_jump). -/
theorem callsUseTheReturnStack : Obligations.CallsUseTheReturnStack := by
  intro s r pred sense off a imm h u c holds pushes
  refine ⟨fun hok => ?_, fun pc rest hrets => ?_, fun hrets => ?_, fun hr hroom => ?_⟩
  · have htakes : holds ↔ u.takes pred sense := by
      by_cases hp : pred = 7
      · exact ⟨fun _ => .inl hp, fun _ => .inl hp⟩
      · simp only [holds, Stream.takes, Stream.branchMask, if_neg hp]; rfl
    simp only [htakes]
    refine ⟨fun ht hroom => ⟨_, exec_call_pushed h hok ht hroom, pushed_jump s r 0 _ _⟩,
      fun ht hfull => exec_call_full h hok ht hfull, fun ht => ?_⟩
    obtain ⟨t, hexec, hon, -, honly⟩ := exec_call_passed (off := off) h hok ht
    exact ⟨t, hexec, hon, honly⟩
  · refine ⟨_, run_next h (t := (s.updStream r fun t => { t with rets := rest }).jump r .control 0 pc) ?_,
      pushed_jump s r 0 rest pc⟩
    simp only [show (s.stream r).rets = pc :: rest from hrets]
  · refine run_trap h ?_
    simp only [show (s.stream r).rets = [] from hrets]
    rfl
  · intro target hpage
    obtain ⟨reads, hexec⟩ := exec_ovcall_held h hr hroom hpage
    exact ⟨_, hexec, pushed_jump s r reads _ _⟩

end Sys2Proof.Machine
end

section
/-! Special registers (06 R163), and the instructions that trap (05 R137, 06 R156, R157). -/

namespace Sys2Proof.Machine

/-- Settles O10: GETS is a vector instruction without sources, whose destination is a pair for the 64-bit registers. -/
theorem getsReadsSpecialRegisters : Obligations.GetsReadsSpecialRegisters := by
  intro s r nw d idx h
  constructor
  · rintro (hi | ⟨hi, hd, hodd⟩)
    · refine run_trap h ?_
      simp only [need, decide_eq_false (not_lt.mpr hi)]
      rfl
    · refine run_trap h ?_
      have hfault : s.dstFault r { n := d.toNat, wide := decide (idx.toNat < 3), nw } = some 3 :=
        dstFault_oddPair hd (decide_eq_true hi) hodd
      simp only [need, decide_eq_true (show idx.toNat < 19 by omega), State.aluMask,
        peek_illegalDst (ws := []) _ (List.forall_mem_nil _) hfault]
      rfl
  · intro hi hr
    have ⟨_, _, hbank⟩ := h
    obtain ⟨t, ht, hwrote, hgen, hon, honly⟩ := aluMask_ok (lab := (s.stream r).guardLabel false)
      (mask := (s.stream r).active false) .control false (fun i _ _ => (s.special r idx.toNat i, 0)) hr hbank
    refine ⟨t, run_next h ?_, ?_, hgen, hon, honly⟩
    · simp only [need, decide_eq_true hi]
      exact ht
    · simpa [State.operandsLabel] using hwrote

/-- Settles O25, by whether a lane is enabled. -/
theorem trapInstructionsTrap : Obligations.TrapInstructionsTrap := by
  intro s r h
  refine ⟨fun ha => ⟨run_trap h (if_neg ha), run_trap h (if_neg ha)⟩, fun ha i hi => ?_,
    run_trap (f := fun r => .error (s.illegal r 0)) h rfl⟩
  obtain rfl | rfl : i = .brk ∨ i = .trap := by simpa using hi
  · exact run_complete h (if_pos ha)
  · exact run_complete h (if_pos ha)

end Sys2Proof.Machine
end

section
/-! SUPPORT. Reads at the coherence point and address translations change memory, dies, cores and messages, and leave the
streams, crews, gangs and host memory alone (15 R358 to R375). -/

namespace Sys2Proof.Machine

/-- The part of a state that reads of memory leave alone: the streams, crews, gangs and host memory. -/
def State.residents (s : State) : Tab Stream × Tab Crew × Tab Gang × List Host.Cell := (s.streams, s.crews, s.gangs, s.hostMem)

theorem sameStreams_iff {s t : State} : SameStreams s t ↔ t.residents = s.residents := by
  simp [SameStreams, State.residents]

theorem residents_foldl {β : Type} {f : State → β → State} (h : ∀ s b, (f s b).residents = s.residents) (xs : List β)
    (s : State) : (xs.foldl f s).residents = s.residents := by
  induction xs generalizing s with
  | nil => rfl
  | cons x xs ih => exact (ih _).trans (h s x)

theorem residents_foldl_snd {α β : Type} {f : α × State → β → α × State}
    (h : ∀ acc b, (f acc b).2.residents = acc.2.residents) (xs : List β) (acc : α × State) :
    (xs.foldl f acc).2.residents = acc.2.residents := by
  induction xs generalizing acc with
  | nil => rfl
  | cons x xs ih => exact (ih _).trans (h acc x)

@[simp] theorem residents_setCore (s : State) (k : Nat) (x : Core) : (s.setCore k x).residents = s.residents := rfl
@[simp] theorem residents_setDie (s : State) (k : Nat) (x : Die) : (s.setDie k x).residents = s.residents := rfl
@[simp] theorem residents_fresh (s : State) (n : Nat) : ({ s with fresh := n } : State).residents = s.residents := rfl
@[simp] theorem residents_msgs (s : State) (ms : List Msg) : ({ s with msgs := ms } : State).residents = s.residents := rfl
@[simp] theorem residents_send (s : State) (m : Msg) : (s.send m).residents = s.residents := rfl
@[simp] theorem residents_l2Put (s : State) (die line : Nat) (x : L2Line) : (s.l2Put die line x).residents = s.residents := rfl
@[simp] theorem residents_l2Del (s : State) (die line : Nat) : (s.l2Del die line).residents = s.residents := rfl
@[simp] theorem residents_dirPut (s : State) (home line : Nat) (e : DirEntry) :
    (s.dirPut home line e).residents = s.residents := rfl
@[simp] theorem residents_dirDel (s : State) (home line : Nat) : (s.dirDel home line).residents = s.residents := rfl
@[simp] theorem residents_ask (s : State) (at_ : Attr) (die line : Nat) (kind : MsgKind) :
    (s.ask at_ die line kind).residents = s.residents := rfl

@[simp] theorem residents_setMemLine (s : State) (line : Nat) (bs : List Byte) :
    (s.setMemLine line bs).residents = s.residents := by
  unfold State.setMemLine State.countWrite
  split <;> rfl

@[simp] theorem residents_l2Evict (s : State) (die line : Nat) : (s.l2Evict die line).residents = s.residents := by
  unfold State.l2Evict
  split
  · rfl
  · dsimp only; split <;> rfl

@[simp] theorem residents_l2Room (s : State) (die line : Nat) (ways : List Nat) :
    (s.l2Room die line ways).residents = s.residents := by
  unfold State.l2Room
  dsimp only
  repeat' split
  all_goals simp

@[simp] theorem residents_l2Fill (s : State) (die line : Nat) (at_ : Attr) (st : Coh) (b : List Byte) :
    (s.l2Fill die line at_ st b).residents = s.residents := by
  unfold State.l2Fill
  dsimp only
  repeat' split
  all_goals simp

@[simp] theorem residents_l2Touch (s : State) (die line hint : Nat) : (s.l2Touch die line hint).residents = s.residents := by
  unfold State.l2Touch
  repeat' split
  all_goals simp

@[simp] theorem residents_dieGrant (s : State) (m : Msg) : (s.dieGrant m).residents = s.residents := by
  unfold State.dieGrant
  dsimp only
  repeat' split
  all_goals simp

@[simp] theorem residents_dieAnswer (s : State) (m : Msg) : (s.dieAnswer m).residents = s.residents := by
  unfold State.dieAnswer
  dsimp only
  repeat' split
  all_goals simp

@[simp] theorem residents_homeWriteBack (s : State) (home die line : Nat) (data : Option (List Byte)) :
    (s.homeWriteBack home die line data).residents = s.residents := by
  unfold State.homeWriteBack
  dsimp only
  repeat' split
  all_goals simp

@[simp] theorem residents_landLine (s : State) (home line : Nat) : (s.landLine home line).residents = s.residents :=
  residents_foldl (fun s m => by split <;> simp) _ _

@[simp] theorem residents_recallFrom (s : State) (home line : Nat) (kind : MsgKind) (die : Nat) :
    (s.recallFrom home line kind die).residents = s.residents := by
  unfold State.recallFrom
  dsimp only
  repeat' split
  all_goals simp

@[simp] theorem residents_dirRecall (s : State) (home line : Nat) : (s.dirRecall home line).residents = s.residents := by
  unfold State.dirRecall
  dsimp only
  repeat' split
  all_goals simp [residents_foldl]

theorem residents_dirRoom {s t : State} {home line : Nat} (h : s.dirRoom home line = some t) : t.residents = s.residents := by
  unfold State.dirRoom at h
  dsimp only at h
  split at h
  · cases h; rfl
  · split at h
    · cases h
    · cases h; simp

@[simp] theorem residents_finishTxn (s : State) (home line : Nat) (e : DirEntry) (t : Txn) :
    (s.finishTxn home line e t).residents = s.residents := rfl

@[simp] theorem residents_beginTxn (s : State) (home line : Nat) (e : DirEntry) (die : Nat) (kind : MsgKind) :
    (s.beginTxn home line e die kind).residents = s.residents := by
  unfold State.beginTxn
  extract_lets used t due ask txn
  split
  · exact residents_finishTxn t home line used txn
  · exact residents_foldl (fun s _ => residents_send s _) due _

@[simp] theorem residents_homeRequest (s : State) (home die line : Nat) (kind : MsgKind) :
    (s.homeRequest home die line kind).residents = s.residents := by
  unfold State.homeRequest
  split
  · split <;> simp
  · split
    · simp
    · rename_i t ht
      simp [residents_dirRoom ht]

@[simp] theorem residents_nextRequests (home line n : Nat) (s : State) :
    (State.nextRequests home line n s).residents = s.residents := by
  induction n generalizing s with
  | zero => rfl
  | succ n ih =>
    unfold State.nextRequests
    repeat' split
    all_goals simp [ih]

@[simp] theorem residents_homeAnswer (s : State) (home die line : Nat) (data : Option (List Byte)) :
    (s.homeAnswer home die line data).residents = s.residents := by
  unfold State.homeAnswer State.nextRequest
  dsimp only
  repeat' split
  all_goals simp

@[simp] theorem residents_deliver (s : State) (m : Msg) : (s.deliver m).residents = s.residents := by
  unfold State.deliver
  split <;> simp

@[simp] theorem residents_drain (n home line : Nat) (s : State) : (State.drain n home line s).residents = s.residents := by
  induction n generalizing s with
  | zero => rfl
  | succ n ih =>
    unfold State.drain
    split
    · rfl
    · simp [ih]

@[simp] theorem residents_quiet (s : State) (home line : Nat) : (s.quiet home line).residents = s.residents := by
  unfold State.quiet
  dsimp only
  split <;> simp [residents_foldl]

@[simp] theorem residents_obtain (s : State) (at_ : Attr) (die line : Nat) (own : Bool) :
    (s.obtain at_ die line own).residents = s.residents := by
  unfold State.obtain
  dsimp only
  repeat' split
  all_goals simp

@[simp] theorem residents_purge (s : State) (home line : Nat) : (s.purge home line).residents = s.residents := by
  simp [State.purge]

@[simp] theorem residents_readLine (s : State) (die : Nat) (at_ : Attr) (line : Nat) :
    (s.readLine die at_ line).2.residents = s.residents := by
  unfold State.readLine
  dsimp only
  repeat' split
  all_goals simp

@[simp] theorem residents_readCoh (s : State) (die : Nat) (at_ : Attr) (pa n : Nat) :
    (s.readCoh die at_ pa n).2.residents = s.residents := by
  unfold State.readCoh
  dsimp only
  refine residents_foldl_snd (fun acc l => ?_) _ _
  exact residents_readLine acc.2 die at_ l

@[simp] theorem residents_readSync (s : State) (die : Nat) (at_ : Attr) (pa n : Nat) :
    (s.readSync die at_ pa n).2.residents = s.residents := by
  unfold State.readSync
  dsimp only
  split
  · simp
  · rw [residents_readCoh]
    exact residents_foldl (fun s l => by split <;> simp) _ _

@[simp] theorem residents_tableEntry (s : State) (part die pa : Nat) : (s.tableEntry part die pa).2.residents = s.residents := by
  unfold State.tableEntry
  split <;> simp

@[simp] theorem residents_cacheWalk (s : State) (part die pa e : Nat) : (s.cacheWalk part die pa e).residents = s.residents := rfl

@[simp] theorem residents_walkFrom (part die va n level table : Nat) (s : State) :
    (State.walkFrom part die va n level table s).2.residents = s.residents := by
  induction n generalizing level table s with
  | zero => rfl
  | succ n ih =>
    unfold State.walkFrom
    dsimp only
    repeat' split
    all_goals simp [ih]

@[simp] theorem residents_walk (s : State) (part die va : Nat) : (s.walk part die va).2.residents = s.residents := by
  unfold State.walk
  dsimp only
  repeat' split
  all_goals simp

@[simp] theorem residents_translate (s : State) (core part n va : Nat) :
    (s.translate core part n va).2.residents = s.residents := by
  unfold State.translate
  dsimp only
  repeat' split
  all_goals simp

@[simp] theorem residents_spotOf (s : State) (g : Gang) (priv : Bool) (k : Acc) (va : Nat) :
    (s.spotOf g priv k va).2.residents = s.residents :=
  residents_translate s _ _ _ va

end Sys2Proof.Machine
end

section
/-! Pages of the kernel image (06 R159). -/

namespace Sys2Proof.Machine

theorem SameStreams.stream {s t : State} (h : SameStreams s t) (r : Nat) : t.stream r = s.stream r :=
  have ⟨hstreams, _, _, _⟩ := h
  congrArg (Tab.get ({} : Stream) · r) hstreams

theorem SameStreams.gangAt {s t : State} (h : SameStreams s t) (r : Nat) : t.gangAt r = s.gangAt r :=
  have ⟨_, _, hgangs, _⟩ := h
  congrArg (Tab.get ({} : Gang) · (gangOf r)) hgangs

theorem SameStreams.spotOf {s v : State} {g : Gang} {priv : Bool} {k : Acc} {va : Nat} {x : Except Miss Spot}
    (h : s.spotOf g priv k va = (x, v)) : SameStreams s v := by
  have hv : (s.spotOf g priv k va).2 = v := by rw [h]
  exact sameStreams_iff.mpr (hv ▸ residents_spotOf s g priv k va)

section

variable {s v : State} {r page x : Nat} {p : Spot}

/-- Where a page of the kernel's image lies is what the translation of its address gives. -/
theorem pagePlace_user
    (hspot : s.spotOf (s.gangAt r) (s.stream r).priv .read (va56 ((s.gangAt r).code.toNat + 4096 * page)) = (.ok p, v)) :
    s.pagePlace r false page = (.ok (p.pa, p.leaf.attr p.pa, p.leaf.size), v) := by
  simp only [State.pagePlace, State.imageBase, Bool.false_eq_true, if_false, hspot]

/-- A page of the kernel's image that lies whole in local memory is read and placed. -/
theorem loadPage_local (hpage : page < (s.gangAt r).pages)
    (hspot : s.spotOf (s.gangAt r) (s.stream r).priv .read (va56 ((s.gangAt r).code.toNat + 4096 * page)) = (.ok p, v))
    (hmem : v.window p.pa = .mem x) (hmark : v.blockMark x 4096 = none) :
    ∃ bs u, s.loadPage r false page = .ok (u.placePage r false page bs) ∧ SameStreams s u := by
  have hplace := pagePlace_user hspot
  have hawait : s.pageAwaits r false page = none := by simp only [State.pageAwaits, hplace, hmem]
  have hread : s.readPage r false page = .ok (v.readSync (dieOf (v.coreNum r)) (p.leaf.attr p.pa) x 4096) := by
    simp only [State.readPage, hplace, hmem, hmark]
  refine ⟨(v.readSync (dieOf (v.coreNum r)) (p.leaf.attr p.pa) x 4096).1,
    (v.readSync (dieOf (v.coreNum r)) (p.leaf.attr p.pa) x 4096).2, ?_, ?_⟩
  · have hin : ¬ s.pagesIn r false ≤ page := not_le.mpr hpage
    simp only [State.loadPage, if_neg hin, hawait, hread]
  · exact sameStreams_iff.mpr ((residents_readSync v _ _ _ _).trans (sameStreams_iff.mp (SameStreams.spotOf hspot)))

theorem loadPage_beyond (hpage : (s.gangAt r).pages ≤ page) :
    s.loadPage r false page = .error (.trap { cause := 0x16, info := w64 page, mask := (s.stream r).em }) :=
  if_pos hpage

end

/-- A page placed in a frame: the frame names it, and of streams, crews and gangs only the stream's remote bytes are gone. -/
theorem placePage_user (s : State) (r page : Nat) (bs : List Byte) :
    let t := s.placePage r false page bs
    t.stream r = { s.stream r with rdata := [], rpoison := [] } ∧ t.crews = s.crews ∧ t.gangs = s.gangs ∧
      ∃ f ∈ (t.core (s.coreNum r)).frames, f.page = page ∧ f.part = s.partNum r ∧ f.sup = false ∧ f.image = (s.gangAt r).code :=
  ⟨State.stream_setStream _ _ _, rfl, rfl, ⟨false, s.partNum r, (s.gangAt r).code, page, pageWords bs, s.fresh⟩, by
    unfold State.placePage
    rw [State.updCore_eq, State.core_setCore]
    exact List.mem_cons_self, rfl, rfl, rfl, rfl⟩

theorem exec_ovload_local {s v : State} {r x : Nat} {p : Spot} {a imm : BitVec 7} (h : s.inHand r)
    (hr : s.readable r [{ f := a.toNat, allow := .uni }] none)
    (hpage : s.operand r { f := a.toNat, allow := .uni } 0 + imm.toNat < (s.gangAt r).pages)
    (hspot : s.spotOf (s.gangAt r) (s.stream r).priv .read
      (va56 ((s.gangAt r).code.toNat + 4096 * (s.operand r { f := a.toNat, allow := .uni } 0 + imm.toNat))) = (.ok p, v))
    (hmem : v.window p.pa = .mem x) (hmark : v.blockMark x 4096 = none) :
    ∃ t, exec (.ovload a imm) s = .next t ∧ WentOn s t r ∧ t.gangs = s.gangs ∧ t.crews = s.crews ∧
      ∃ f ∈ (t.core (s.coreNum r)).frames, f.page = s.operand r { f := a.toNat, allow := .uni } 0 + imm.toNat ∧
        f.part = s.partNum r ∧ f.sup = false ∧ f.image = (s.gangAt r).code := by
  obtain ⟨q, hq, hst, hval⟩ := uniform_readable h hr
  obtain ⟨bs, u, hload, hsame⟩ := loadPage_local hpage hspot hmem hmark
  obtain ⟨hstream, hcrews, hgangs, hframe⟩ :=
    placePage_user u r (s.operand r { f := a.toNat, allow := .uni } 0 + imm.toNat) bs
  simp only [State.coreNum, State.partNum, hsame.gangAt r] at hframe
  have ⟨_, hcrews', hgangs', _⟩ := hsame
  refine ⟨_, run_next h (t := (u.placePage r false _ bs).complete r .control q.regs 0) ?_, ?_,
    hgangs.trans hgangs', hcrews.trans hcrews', hframe⟩
  · simp only [hq, hst, hval, bind, Except.bind, hload]
    rfl
  · obtain ⟨-, -, hpc, hloops⟩ := complete_keeps (u.placePage r false _ bs) r .control q.regs 0
    rw [hstream, hsame.stream r] at hpc hloops
    obtain ⟨hpc', hloops'⟩ := Stream.next_pc (t := { s.stream r with rdata := [], rpoison := [] }) (u := s.stream r) rfl rfl
    exact ⟨hpc.trans hpc', hloops.trans hloops'⟩

theorem exec_ovload_beyond {s : State} {r : Nat} {a imm : BitVec 7} (h : s.inHand r)
    (hr : s.readable r [{ f := a.toNat, allow := .uni }] none)
    (hpage : (s.gangAt r).pages ≤ s.operand r { f := a.toNat, allow := .uni } 0 + imm.toNat) :
    exec (.ovload a imm) s = .next (s.takeTrap r
      { cause := 0x16, info := w64 (s.operand r { f := a.toNat, allow := .uni } 0 + imm.toNat), mask := (s.stream r).em }) := by
  obtain ⟨q, hq, hst, hval⟩ := uniform_readable h hr
  refine run_trap h ?_
  simp only [hq, hst, hval, bind, Except.bind, loadPage_beyond hpage]

end Sys2Proof.Machine
end

section
/-! The end of threads (06 R155, 01 R16). -/

namespace Sys2Proof.Machine

/-- A gang none of whose counting crews waits has no barrier or meeting to settle. -/
theorem settleGang_idle {s : State} {g : Nat} (h : ∀ c ∈ s.countingCrews g, (s.stream (32 * g + 2 * c)).wait = none) :
    s.settleGang g = s := by
  have hbar : (s.countingCrews g).any (fun c => (s.stream (32 * g + 2 * c)).wait == some (.gbar false)) = false :=
    List.any_eq_false.mpr fun c hc => by simp [h c hc]
  have hbrg : (s.countingCrews g).any (fun c => (s.stream (32 * g + 2 * c)).atBrg) = false :=
    List.any_eq_false.mpr fun c hc => by simp [Stream.atBrg, h c hc]
  have hg : s.settleGbar g = s := by
    simp only [State.settleGbar, hbar, Bool.false_and, Bool.false_eq_true, if_false]
  have hm : s.settleMismatch g = s := by
    simp only [State.settleMismatch, hbrg, Bool.false_and, Bool.false_eq_true, if_false]
  rw [State.settleGang, hg, hm]

/-- Where crews and threads of a gang only end, no crew comes to count in its meetings. -/
theorem mem_countingCrews_of_ended {s t : State} {g c : Nat} (hgang : t.gang g = s.gang g)
    (hcrew : ∀ k, (s.crew k).ended = true → (t.crew k).ended = true)
    (hlive : ∀ j, (s.stream j).live = 0 → (t.stream j).live = 0) (h : c ∈ t.countingCrews g) : c ∈ s.countingCrews g := by
  simp only [State.countingCrews, hgang, List.mem_filter, Bool.and_eq_true, Bool.or_eq_true, Bool.not_eq_true', bne_iff_ne] at h ⊢
  obtain ⟨hmem, hended, hon⟩ := h
  refine ⟨hmem, ?_, hon.imp_left fun hne h0 => hne (hlive _ h0)⟩
  cases he : (s.crew (16 * g + c)).ended
  · rfl
  · rw [hcrew _ he] at hended; cases hended

/-- The state after the enabled threads of a stream ended, before what that settles. -/
def State.exited (s : State) (r : Nat) : State :=
  (s.complete r .control 0 0).updStream r fun t =>
    { t with live := (s.stream r).live &&& ~~~(s.stream r).active false, em := t.em &&& ~~~(s.stream r).active false }

theorem exec_exit_settles {s : State} {r : Nat} (h : s.inHand r) (hact : (s.stream r).active false ≠ 0)
    (hqueue : (s.stream r).live &&& ~~~(s.stream r).active false ≠ 0 ∨ (s.gangAt r).single = true) :
    exec .exit s = .next (((s.exited r).settleEnd r).settleGang (gangOf r)) := by
  refine run_next h ((if_neg hact).trans ?_)
  have hq : ¬((s.stream r).live &&& ~~~(s.stream r).active false = 0 ∧ !(s.gangAt r).single ∧ !isWork r) := by
    rintro ⟨h0, hs, -⟩
    rcases hqueue with hl | hl
    · exact hl h0
    · simp [hl] at hs
  rw [if_neg hq]
  rfl

/-- The threads that end leave the live lanes and EM, and the stream goes on. -/
theorem exited_keeps (s : State) (r : Nat) :
    let t := s.exited r
    let act := (s.stream r).active false
    (t.stream r).live = (s.stream r).live &&& ~~~act ∧ (t.stream r).em = (s.stream r).em &&& ~~~act ∧ (t.stream r).wait = none ∧
      WentOn s t r ∧ OnlyStream s t r fun v => { v.core with live := 0, em := 0 } := by
  obtain ⟨hcore, -, hpc, hloops⟩ := complete_keeps s r .control 0 0
  have hem : ((s.complete r .control 0 0).stream r).em = (s.stream r).em := (congrArg Stream.em hcore :)
  have hwait : ((s.complete r .control 0 0).stream r).wait = none := congrArg Stream.wait (State.stream_setStream _ _ _)
  have ht : (s.exited r).stream r = { (s.complete r .control 0 0).stream r with
      live := (s.stream r).live &&& ~~~(s.stream r).active false,
      em := ((s.complete r .control 0 0).stream r).em &&& ~~~(s.stream r).active false } := State.stream_setStream _ _ _
  dsimp only [WentOn]
  rw [ht]
  exact ⟨rfl, congrArg (· &&& _) hem, hwait, ⟨hpc, hloops⟩,
    ((OnlyStream.complete s r .control 0 0).mono fun _ _ h => by rw [h]).trans (OnlyStream.updStream _ r _ _ rfl)⟩

/-- Threads that leave others of their stream live end nothing more. -/
theorem settleEnd_live {s : State} {r : Nat} (h : (s.stream r).live ≠ 0) : s.settleEnd r = s := if_pos h

/-- The last thread of a single stream, on no gang-divergent path, ends the stream and its crew. -/
theorem settleEnd_last {s : State} {r : Nat} (hlive : (s.stream r).live = 0) (hstack : (s.gangAt r).stack = [])
    (hsingle : (s.gangAt r).single = true) (heven : r % 2 = 0) :
    s.settleEnd r = (s.updStream r fun t => { t with ended := true, wait := none }).updCrew (crewOf r) fun c =>
      { c with ended := true, place := .waiting, loadQ := [] } := by
  have hr : 2 * crewOf r = r := by unfold crewOf; omega
  have hall : ((crewStreams (s.gangAt r).single (crewOf r)).all fun x =>
      ((s.updStream r fun t => { t with ended := true, wait := none }).stream x).ended) = true := by
    simp [crewStreams, hsingle, hr]
  unfold State.settleEnd
  rw [hstack]
  exact (if_neg (not_not.mpr hlive)).trans ((if_neg Bool.false_ne_true).trans (if_pos hall))

/-- Settling the end of threads of a stream in a gang none of whose counting crews waits does no more than end the stream. -/
theorem settleGang_exit {s t : State} {r : Nat} (hgang : t.gangAt r = s.gangAt r)
    (hcrew : ∀ k, (s.crew k).ended = true → (t.crew k).ended = true) (hstreams : ∀ j, j ≠ r → t.stream j = s.stream j)
    (hlive : (s.stream r).live = 0 → (t.stream r).live = 0) (hwait : (t.stream r).wait = none)
    (hidle : ∀ c ∈ s.countingCrews (gangOf r), (s.stream (32 * gangOf r + 2 * c)).wait = none) :
    t.settleGang (gangOf r) = t := by
  refine settleGang_idle fun c hc => ?_
  have hc' := mem_countingCrews_of_ended hgang hcrew (fun j h0 => ?_) hc
  · by_cases hj : 32 * gangOf r + 2 * c = r
    · rw [hj, hwait]
    · rw [hstreams _ hj, hidle c hc']
  · by_cases hj : j = r
    · subst hj; exact hlive h0
    · rw [hstreams j hj, h0]

theorem exec_exit_some {s : State} {r : Nat} (h : s.inHand r) (hact : (s.stream r).active false ≠ 0)
    (hlive : (s.stream r).live &&& ~~~(s.stream r).active false ≠ 0)
    (hidle : ∀ c ∈ s.countingCrews (gangOf r), (s.stream (32 * gangOf r + 2 * c)).wait = none) :
    exec .exit s = .next (s.exited r) := by
  obtain ⟨hlive', -, hwait, -, honly⟩ := exited_keeps s r
  have hend : (s.exited r).settleEnd r = s.exited r := settleEnd_live (by rw [hlive']; exact hlive)
  have hgang : (s.exited r).settleGang (gangOf r) = s.exited r :=
    settleGang_exit (s := s) rfl (fun _ => id) honly.streams (fun h0 => absurd (by simp [h0]) hlive) hwait hidle
  rw [exec_exit_settles h hact (.inl hlive), hend, hgang]

theorem exec_exit_last {s : State} {r : Nat} (h : s.inHand r) (hact : (s.stream r).active false ≠ 0)
    (hlive : (s.stream r).live &&& ~~~(s.stream r).active false = 0) (hstack : (s.gangAt r).stack = [])
    (hsingle : (s.gangAt r).single = true) (heven : r % 2 = 0)
    (hidle : ∀ c ∈ s.countingCrews (gangOf r), (s.stream (32 * gangOf r + 2 * c)).wait = none) :
    ∃ t, exec .exit s = .next t ∧ (t.stream r).ended = true ∧ (t.crewAt r).ended = true ∧ t.mem = s.mem := by
  obtain ⟨hlive', -, -, -, honly⟩ := exited_keeps s r
  have hend := settleEnd_last (s := s.exited r) (hlive'.trans hlive) hstack hsingle heven
  generalize ht : (s.exited r).settleEnd r = t at hend
  have hstream : t.stream r = { (s.exited r).stream r with ended := true, wait := none } := by rw [hend]; simp
  have hcrew : (t.crewAt r).ended = true := by rw [hend]; simp [State.crewAt]
  have hgang : t.settleGang (gangOf r) = t := by
    refine settleGang_exit (by rw [hend]; rfl) (fun k hk => ?_) (fun j hj => ?_) (fun _ => ?_) (by rw [hstream]) hidle
    · by_cases hkr : k = crewOf r
      · rw [hkr]; exact hcrew
      · rw [hend, State.updCrew_eq, State.crew_setCrew_other _ _ hkr]; exact hk
    · rw [hend]; exact (State.stream_setStream_other _ _ hj).trans (honly.streams j hj)
    · rw [hstream]; exact hlive'.trans hlive
  refine ⟨t, ?_, by rw [hstream], hcrew, by rw [hend]; rfl⟩
  rw [exec_exit_settles h hact (.inr hsingle), ht, hgang]

end Sys2Proof.Machine
end

section
/-! NOP, YIELD, ISYNC, EXIT and OVLOAD (06 R155, R159, R161). -/

namespace Sys2Proof.Machine

theorem exec_yield_completes {s : State} {r : Nat} (h : s.inHand r) :
    ∃ t, exec .yield s = .next t ∧ WentOn s t r ∧ (∃ n age, (t.crewAt r).place = .ready n age) ∧
      OnlyCrew s t r Stream.core := by
  obtain ⟨-, -, hpc, hloops⟩ := complete_keeps s r .control 0 0
  have hkeep := stream_switchOut (s.complete r .control 0 0) r
  exact ⟨_, run_next (f := fun r => .ok ((s.complete r .control 0 0).switchOut r false)) h rfl,
    ⟨(congrArg Stream.pc hkeep :).trans hpc, (congrArg Stream.loops hkeep :).trans hloops⟩,
    switchOut_ready _ r, ((OnlyStream.complete s r .control 0 0).onlyCrew fun _ => rfl).trans (OnlyCrew.switchOut _ r _)⟩

/-- A stream whose captured loops and fetched words are dropped. -/
def Stream.dropFetched (t : Stream) : Stream :=
  { t with loops := t.loops.map fun l => { l with captured := false }, lbuf := [], fetched := [] }

theorem exec_isync_completes {s : State} {r : Nat} (h : s.inHand r) :
    ∃ t, exec .isync s = .next t ∧ (t.stream r).pc = (s.stream r).next.pc ∧ (t.stream r).fetched = [] ∧ (t.stream r).lbuf = [] ∧
      (t.stream r).loops = (s.stream r).next.loops.map (fun l => { l with captured := false }) ∧ t.crews = s.crews ∧
      OnlyStream s t r Stream.flow := by
  obtain ⟨-, -, hpc, hloops⟩ := complete_keeps s r .control 0 0
  have ht : ((s.complete r .control 0 0).updStream r Stream.dropFetched).stream r =
      ((s.complete r .control 0 0).stream r).dropFetched := State.stream_setStream _ _ _
  refine ⟨_, run_next (f := fun r => .ok ((s.complete r .control 0 0).updStream r Stream.dropFetched)) h rfl, ?_⟩
  rw [ht]
  exact ⟨hpc, rfl, rfl, congrArg _ hloops, rfl, ((OnlyStream.complete s r .control 0 0).mono fun _ _ => Stream.flow_of_core).trans
    (OnlyStream.updStream _ r _ _ rfl)⟩

/-- Settles O21: each instruction by its own lemma, EXIT by whether lanes are enabled and whether any stays live. -/
theorem crewControlCompletes : Obligations.CrewControlCompletes := by
  refine ⟨fun s r h => ?nop, fun s r h => exec_yield_completes h, fun s r h => exec_isync_completes h, fun s r h => ?exit,
    fun s r a imm h hr => ?ovload⟩
  case nop => exact run_complete h (c := .control) (reads := 0) (lines := 0) (by rfl)
  case exit =>
    refine ⟨fun hact => run_complete h (if_pos hact), fun hact hlive hidle => ?_, fun hact hlive hstack hsingle heven hidle => ?_⟩
    · obtain ⟨hlive', hem, -, hon, honly⟩ := exited_keeps s r
      exact ⟨_, exec_exit_some h hact hlive hidle, hlive', hem, hon, rfl, honly⟩
    · exact exec_exit_last h hact hlive hstack hsingle heven hidle
  case ovload =>
    exact ⟨fun hpage => exec_ovload_beyond h hr hpage,
      fun p v x hpage hspot hmem hmark => exec_ovload_local h hr hpage hspot hmem hmark⟩

end Sys2Proof.Machine
end

section
/-! SUPPORT. Crew-wide operations: every source is read in each lane, then one result is written (07 R194). -/

namespace Sys2Proof.Machine

/-- What reading operands leaves when nothing traps, stalls or comes from a port. -/
def State.peeked (s : State) (r : Nat) (ws : List Want) : Peek :=
  { vals := ws.map (s.plainSrc r), pops := popsOf ws, regs := (ws.map Want.regs).foldl (· + ·) 0, st := s }

theorem peek_peeked {s : State} {r : Nat} {ws : List Want} {dst : Option Dst} (mask : Word) (h : s.inHand r)
    (hr : s.readable r ws dst) : s.peek r mask ws dst = .ok (s.peeked r ws) := by
  obtain ⟨-, -, hbank⟩ := h
  rw [peek_readable mask hr, noteBanks_clean hbank]
  rfl

@[simp] theorem peeked_val_zero (s : State) (r : Nat) (w : Want) (ws : List Want) :
    (s.peeked r (w :: ws)).val 0 = s.operand r w := rfl

@[simp] theorem peeked_lab_zero (s : State) (r : Nat) (w : Want) (ws : List Want) :
    (s.peeked r (w :: ws)).lab 0 = s.operandLabel r w := rfl

@[simp] theorem highest_peeked (s : State) (r : Nat) (w : Want) (ws : List Want) (act : Word) :
    (s.peeked r (w :: ws)).highest act = (lanesOf act).foldl (fun l k => Label.join l (s.operandLabel r w k)) 0 := rfl

/-- A result that was written stays where only what every completion may change is changed. -/
theorem Wrote.of_core {s t u : State} {r : Nat} {ws : List Want} {d : Dst} {mask : Word} {val : Nat → Nat × Label}
    (h : Wrote s t r ws d mask val) (hcore : (u.stream r).core = (t.stream r).core) (hcrew : u.crewAt r = t.crewAt r) :
    Wrote s u r ws d mask val where
  regs n := by
    have hv : (u.stream r).v = (t.stream r).v := (congrArg Stream.v hcore :)
    rw [← h.regs n]
    simp only [Stream.vreg, hv]
  latches := (congrArg Stream.latches hcore :).trans h.latches
  pushed q := by rw [hcrew, h.pushed q]
  popped q := by rw [hcrew, h.popped q]

/-- Writing a result that was computed from operands, and using these up. -/
theorem write_peeked (s : State) (r : Nat) (ws : List Want) (d : Dst) (mask : Word) (val : Nat → Nat × Label) (h : d.n < 60) :
    ∃ t, (s.peeked r ws).write r d mask val = .ok t ∧ Wrote s t r ws d mask val ∧
      (t.stream r).pc = (s.stream r).pc ∧ (t.stream r).loops = (s.stream r).loops ∧
      (t.stream r).gen = (s.stream r).gen ∧ OnlyStream s t r Stream.lessVec := by
  obtain ⟨u, hu, hput⟩ := writeDst_put s r d mask val h
  obtain ⟨t, ht⟩ : ∃ t, t = State.commit r { s.peeked r ws with st := u } := ⟨_, rfl⟩
  obtain ⟨hstream, hcrew, honly⟩ : t.stream r = u.stream r ∧ t.crewAt r = (u.crewAt r).popAll (popsOf ws) ∧
      OnlyStream u t r Stream.core := ht ▸ commit_pops r { s.peeked r ws with st := u } rfl
  refine ⟨t, ?_, ⟨?_, ?_, ?_, ?_⟩, ?_, ?_, ?_, ?_⟩
  · simp only [Peek.write, show (s.peeked r ws).st = s from rfl, hu, ht]
    rfl
  · rw [hstream]; exact hput.regs
  · rw [hstream]; exact hput.latches
  · intro q; rw [hcrew, Crew.popAll_storeQ]; exact hput.pushed q
  · intro q
    rw [hcrew, Crew.popAll_loadQ _ (popsOf ws) (distinct_nodup _), hput.loadQ]
  · rw [hstream]; exact hput.pc
  · rw [hstream]; exact hput.loops
  · rw [hstream]; exact hput.gen
  · exact hput.only.trans (honly.mono lessVec_of_core)

/-- An instruction that writes a result to the enabled lanes of a set, draws no random word, and goes on. -/
def CrossDone (s : State) (r : Nat) (i : Instr) (m : Bool) (ws : List Want) (d : Dst) (val : Nat → Nat × Label) : Prop :=
  ∃ t, exec i s = .next t ∧ Wrote s t r ws d ((s.stream r).active m) val ∧
    (t.stream r).gen = (s.stream r).gen ∧ WentOn s t r ∧ OnlyStream s t r Stream.lessVec

/-- A crew-wide operation completes on readable operands, with the values its function gives, and changes nothing else. -/
theorem cross_completes {s : State} {r : Nat} {i : Instr} {m : Bool} {d : Dst} {ws : List Want} {g : Nat → Except Stop State}
    {f : Peek → Nat → Nat × Label} (h : s.inHand r) (hr : s.readable r ws (some d)) (hi : exec i s = run s g)
    (hg : g r = s.cross r m d ws f) :
    CrossDone s r i m ws d fun k =>
      ((f (s.peeked r ws) k).1, Label.join (f (s.peeked r ws) k).2 ((s.stream r).guardLabel m)) := by
  have ⟨_, _, _, _, _, h60, _, _⟩ := hr
  obtain ⟨u, hu, hwrote, hpc, hloops, hgen, honly⟩ := write_peeked s r ws d ((s.stream r).active m)
    (fun k => ((f (s.peeked r ws) k).1, Label.join (f (s.peeked r ws) k).2 ((s.stream r).guardLabel m))) (h60 d rfl)
  obtain ⟨hcore, hcrew, hpc', hloops'⟩ := complete_keeps u r .control (s.peeked r ws).regs 0
  obtain ⟨hnext, hnextLoops⟩ := Stream.next_pc hpc hloops
  refine ⟨u.complete r .control (s.peeked r ws).regs 0, hi.trans (run_next h ?_), hwrote.of_core hcore hcrew, ?_,
    ⟨hpc'.trans hnext, hloops'.trans hnextLoops⟩, honly.trans ((OnlyStream.complete u r _ _ 0).mono lessVec_of_core)⟩
  · simp only [hg, State.cross, peek_peeked _ h hr, bind, Except.bind, hu]
    rfl
  · exact (congrArg Stream.gen hcore :).trans hgen

end Sys2Proof.Machine
end

section
/-! Lane fetches and broadcasts (07 R194, R195). -/

namespace Sys2Proof.Machine

/-- The immediate that stands in place of b. -/
def FetchForm.immediate (f : FetchForm) : Option Nat := if f.b.isSome then none else some f.imm

@[simp] theorem FetchForm.val_srcA (s : State) (r : Nat) (f : FetchForm) :
    (s.peeked r (f.srcs (s.stream r))).val 0 = s.operand r (f.srcA (s.stream r)) := peeked_val_zero ..

@[simp] theorem FetchForm.lab_srcA (s : State) (r : Nat) (f : FetchForm) :
    (s.peeked r (f.srcs (s.stream r))).lab 0 = s.operandLabel r (f.srcA (s.stream r)) := peeked_lab_zero ..

/-- What a form reads as value(b), and its label. -/
theorem bValue_peeked (s : State) (r : Nat) (f : FetchForm) (k : Nat) :
    bValue (s.peeked r (f.srcs (s.stream r))) f.immediate k = (f.value s r k, f.label s r k) := by
  obtain ⟨nw, d, a, b, imm, m, who⟩ := f
  cases b with
  | none => rfl
  | some b => rfl

theorem holder_getD (s : State) (r : Nat) (act : Word) (id : Option Nat) (own : Nat) :
    (s.holder r act id).getD own = s.laneOf r act id own := by
  cases id with
  | none => rfl
  | some v => rfl

theorem exec_fetchForm {i : Instr} {f : FetchForm} (hf : fetchForm i = some f) (s : State) :
    exec i s = run s fun r => s.laneFetch r f.m f.nw f.d f.a f.b f.immediate f.who := by
  unfold fetchForm at hf
  split at hf <;> cases hf <;> rfl

theorem exec_castForm {i : Instr} {f : FetchForm} (hf : castForm i = some f) (s : State) :
    exec i s = run s fun r => s.broadcast r f.m f.nw f.d f.a f.b f.immediate := by
  unfold castForm at hf
  split at hf <;> cases hf <;> rfl

/-- Settles O11: both are crew-wide operations, whose function is the form's own fetch. -/
theorem laneFetchesCompute : Obligations.LaneFetchesCompute := by
  constructor
  · intro s r i f h hf hr
    have hdone := cross_completes (ws := f.srcs (s.stream r)) h hr (exec_fetchForm hf s) rfl
    simp only [bValue_peeked, holder_getD, FetchForm.val_srcA, FetchForm.lab_srcA] at hdone
    exact hdone
  · intro s r i f h hf hr
    have hdone := cross_completes (ws := f.srcs (s.stream r)) h hr (exec_castForm hf s) rfl
    simp only [bValue_peeked, holder_getD, FetchForm.val_srcA, FetchForm.lab_srcA] at hdone
    exact hdone

end Sys2Proof.Machine
end

section
/-! Crew-wide reductions, prefixes and peers (07 R197 to R199). -/

namespace Sys2Proof.Machine

/-- Under an operation and a TYPE that are allowed, CRED and CSCAN take the TYPE and its rounding. -/
theorem credMode_ok {s : State} {r : Nat} {op : BitVec 4} {m : Bool} (hop : op.toNat < 6)
    (hty : credType (modeTYPE ((s.stream r).mode m)) = true) :
    s.credMode r op m = .ok (modeTYPE ((s.stream r).mode m), (roundingOf ((s.stream r).mode m)).uniform) := by
  simp only [State.credMode, need, decide_eq_true hop, State.typeIn, hty]
  rfl

/-- An operation above 5 is refused before the TYPE is looked at. -/
theorem credMode_illegal {s : State} {r : Nat} {op : BitVec 4} {m : Bool}
    (h : 6 ≤ op.toNat ∨ credType (modeTYPE ((s.stream r).mode m)) = false) :
    ∃ sub ∈ [0, 2], s.credMode r op m = .error (s.illegal r sub) := by
  by_cases hop : op.toNat < 6
  · have hty := h.resolve_left (Nat.not_le.mpr hop)
    refine ⟨2, by simp, ?_⟩
    simp only [State.credMode, need, decide_eq_true hop, State.typeIn, hty]
    rfl
  · refine ⟨0, by simp, ?_⟩
    simp only [State.credMode, need, decide_eq_false hop]
    rfl

/-- Settles O12: CRED and CSCAN check operation and TYPE, and then all three are crew-wide operations on one source. -/
theorem crewReductionsCompute : Obligations.CrewReductionsCompute := by
  intro s r nw excl d a op m h
  refine ⟨fun hbad i hi => ?illegal, fun hop hty hr => ⟨?cred, ?cscan⟩, fun hr => ?lpeer⟩
  case illegal =>
    obtain ⟨sub, hsub, hmode⟩ := credMode_illegal hbad
    refine ⟨sub, hsub, ?_⟩
    obtain rfl | rfl : i = .cred nw d a op m ∨ i = .cscan nw d a excl op m := by simpa using hi
    · exact run_trap h (by rw [hmode]; rfl)
    · exact run_trap h (by rw [hmode]; rfl)
  case cred =>
    have hdone := cross_completes (i := .cred nw d a op m) h hr rfl (by rw [credMode_ok hop hty]; rfl)
    simp only [peeked_val_zero, highest_peeked] at hdone
    exact hdone
  case cscan =>
    have hdone := cross_completes (i := .cscan nw d a excl op m) h hr rfl (by rw [credMode_ok hop hty]; rfl)
    simp only [peeked_val_zero, highest_peeked] at hdone
    exact hdone
  case lpeer =>
    have hdone := cross_completes (i := .lpeer nw d a m) h hr rfl rfl
    simp only [peeked_val_zero, highest_peeked] at hdone
    exact hdone

end Sys2Proof.Machine
end

section
/-! SUPPORT. Words as fields side by side: what reading the fields of a word that was put together gives, and the other way round
(05 R120). -/

namespace Sys2Proof

/-- A segment of a word: a field, a flag, or bits that are zero. -/
inductive Seg where
  | bits (lo len : Nat)
  | flag (lo : Nat)
  | zero (lo len : Nat)

namespace Seg

def lo : Seg → Nat
  | bits lo _ => lo
  | flag lo => lo
  | zero lo _ => lo

def len : Seg → Nat
  | bits _ len => len
  | flag _ => 1
  | zero _ len => len

/-- Segments that lie one below the other from bit `hi` down to bit 0. -/
def tile : Nat → List Seg → Bool
  | hi, [] => hi == 0
  | hi, x :: xs => x.lo + x.len == hi && tile x.lo xs

/-- The places of the zero bits. -/
def zeros : List Seg → List (Nat × Nat)
  | [] => []
  | zero lo len :: xs => (lo, len) :: zeros xs
  | bits _ _ :: xs => zeros xs
  | flag _ :: xs => zeros xs

/-- Values for the fields and flags, in order. -/
def Args : List Seg → Type
  | [] => Unit
  | bits _ len :: xs => BitVec len × Args xs
  | flag _ :: xs => Bool × Args xs
  | zero _ _ :: xs => Args xs

/-- What takes the fields and flags in order. -/
def Form : List Seg → Type
  | [] => Instr
  | bits _ len :: xs => BitVec len → Form xs
  | flag _ :: xs => Bool → Form xs
  | zero _ _ :: xs => Form xs

/-- The instruction that a form makes of values. -/
def app : (xs : List Seg) → Form xs → Args xs → Instr
  | [], i, _ => i
  | bits _ _ :: xs, c, as => app xs (c as.1) as.2
  | flag _ :: xs, c, as => app xs (c as.1) as.2
  | zero _ _ :: xs, c, as => app xs c as

/-- The sum of a base and values at their places. -/
def place : (xs : List Seg) → Nat → Args xs → Nat
  | [], n, _ => n
  | bits lo _ :: xs, n, as => place xs (n + as.1.toNat * 2 ^ lo) as.2
  | flag lo :: xs, n, as => place xs (n + as.1.toNat * 2 ^ lo) as.2
  | zero _ _ :: xs, n, as => place xs n as

/-- The values that a word holds. -/
def read (w : Word) : (xs : List Seg) → Args xs
  | [] => ()
  | bits lo len :: xs => (field w lo len, read w xs)
  | flag lo :: xs => (Sys2Proof.flag w lo, read w xs)
  | zero _ _ :: xs => read w xs

/-- The value of a segment in a word is zero where the segment is. -/
def clear (n : Nat) (xs : List Seg) : Prop := ∀ z ∈ zeros xs, n / 2 ^ z.1 % 2 ^ z.2 = 0

end Seg

theorem toNat_field (w : Word) (lo len : Nat) : (field w lo len).toNat = w.toNat / 2 ^ lo % 2 ^ len := BitVec.toNat_ofNat _ _

theorem toNat_flag (w : Word) (k : Nat) : (flag w k).toNat = w.toNat / 2 ^ k % 2 := by
  unfold flag
  obtain h | h := Nat.mod_two_eq_zero_or_one (w.toNat / 2 ^ k) <;> rw [h] <;> rfl

theorem field_of_toNat {w : Word} {lo len : Nat} {v : BitVec len} (h : w.toNat / 2 ^ lo % 2 ^ len = v.toNat) :
    field w lo len = v := BitVec.eq_of_toNat_eq ((toNat_field w lo len).trans h)

theorem flag_of_toNat {w : Word} {lo : Nat} {b : Bool} (h : w.toNat / 2 ^ lo % 2 = b.toNat) : flag w lo = b := by
  unfold flag
  rw [h]
  cases b <;> rfl

/-- Bits 2 ^ lo and up of a sum, above lower bits. -/
theorem digit_of_sum {n v rest lo len : Nat} (hn : n % 2 ^ (lo + len) = 0) (hv : v < 2 ^ len) (hr : rest < 2 ^ lo) :
    (n + v * 2 ^ lo + rest) / 2 ^ lo % 2 ^ len = v := by
  obtain ⟨k, rfl⟩ := Nat.dvd_of_mod_eq_zero hn
  have hpow : 2 ^ (lo + len) * k + v * 2 ^ lo + rest = rest + 2 ^ lo * (v + 2 ^ len * k) := by rw [Nat.pow_add]; ring
  rw [hpow, Nat.add_mul_div_left _ _ (Nat.two_pow_pos lo), Nat.div_eq_of_lt hr, Nat.zero_add, Nat.add_mul_mod_self_left,
    Nat.mod_eq_of_lt hv]

theorem low_of_sum {n v lo len : Nat} (hn : n % 2 ^ (lo + len) = 0) : (n + v * 2 ^ lo) % 2 ^ lo = 0 := by
  obtain ⟨k, rfl⟩ := Nat.dvd_of_mod_eq_zero hn
  rw [Nat.pow_add, Nat.mul_assoc, Nat.add_mod, Nat.mul_mod_right, Nat.mul_mod_left, Nat.zero_mod]

/-- A number down to bit lo is the number down to a higher bit and the digits between. -/
theorem digits_join (n lo len : Nat) : n / 2 ^ (lo + len) * 2 ^ (lo + len) + n / 2 ^ lo % 2 ^ len * 2 ^ lo = n / 2 ^ lo * 2 ^ lo := by
  have h := Nat.div_add_mod (n / 2 ^ lo) (2 ^ len)
  rw [Nat.div_div_eq_div_mul, ← Nat.pow_add] at h
  conv_rhs => rw [← h]
  rw [Nat.pow_add]; ring

namespace Seg

theorem place_add (xs : List Seg) (n : Nat) (as : Args xs) : place xs n as = n + place xs 0 as := by
  induction xs generalizing n with
  | nil => rfl
  | cons x xs ih =>
    cases x with
    | bits lo len => rw [place, ih, place, ih (0 + _)]; omega
    | flag lo => rw [place, ih, place, ih (0 + _)]; omega
    | zero lo len => exact ih n as

theorem place_lt {hi : Nat} {xs : List Seg} (h : tile hi xs = true) (as : Args xs) : place xs 0 as < 2 ^ hi := by
  induction xs generalizing hi with
  | nil => exact Nat.two_pow_pos hi
  | cons x xs ih =>
    simp only [tile, Bool.and_eq_true, beq_iff_eq] at h
    obtain ⟨rfl, h⟩ := h
    have step {v : Nat} (as : Args xs) (hv : v < 2 ^ x.len) : place xs (0 + v * 2 ^ x.lo) as < 2 ^ (x.lo + x.len) := by
      rw [place_add, Nat.pow_add, Nat.zero_add]
      calc v * 2 ^ x.lo + place xs 0 as < v * 2 ^ x.lo + 2 ^ x.lo := Nat.add_lt_add_left (ih h as) _
        _ = 2 ^ x.lo * (v + 1) := by ring
        _ ≤ 2 ^ x.lo * 2 ^ x.len := Nat.mul_le_mul_left _ hv
    cases x with
    | bits lo len => exact step as.2 as.1.isLt
    | flag lo => exact step as.2 (Bool.toNat_lt as.1)
    | zero lo len => exact (ih h as).trans_le (Nat.pow_le_pow_right (by decide) (Nat.le_add_right lo len))

/-- Values put side by side are read back, and the bits between them are zero. -/
theorem read_place {hi n : Nat} {xs : List Seg} (h : tile hi xs = true) (hn : n % 2 ^ hi = 0) (as : Args xs) {w : Word}
    (hw : w.toNat = place xs n as) : read w xs = as ∧ clear w.toNat xs := by
  induction xs generalizing hi n with
  | nil => exact ⟨rfl, fun _ hz => absurd hz List.not_mem_nil⟩
  | cons x xs ih =>
    simp only [tile, Bool.and_eq_true, beq_iff_eq] at h
    obtain ⟨rfl, h⟩ := h
    have step {v : Nat} {as : Args xs} (hv : v < 2 ^ x.len) (hw : w.toNat = place xs (n + v * 2 ^ x.lo) as) :
        w.toNat / 2 ^ x.lo % 2 ^ x.len = v ∧ read w xs = as ∧ clear w.toNat xs :=
      ⟨by rw [hw, place_add]; exact digit_of_sum hn hv (place_lt h as), ih h (low_of_sum hn) as hw⟩
    cases x with
    | bits lo len =>
      obtain ⟨hdigit, hread, hclear⟩ := step as.1.isLt hw
      exact ⟨Prod.ext (field_of_toNat hdigit) hread, hclear⟩
    | flag lo =>
      obtain ⟨hdigit, hread, hclear⟩ := step (Bool.toNat_lt as.1) hw
      exact ⟨Prod.ext (flag_of_toNat hdigit) hread, hclear⟩
    | zero lo len =>
      obtain ⟨hdigit, hread, hclear⟩ := step (v := 0) (as := as) (Nat.two_pow_pos _) (by rw [Nat.zero_mul]; exact hw)
      exact ⟨hread, List.forall_mem_cons.mpr ⟨hdigit, hclear⟩⟩

/-- A word is its fields put side by side below its upper bits. -/
theorem place_read {hi : Nat} {xs : List Seg} (h : tile hi xs = true) {w : Word} (hc : clear w.toNat xs) :
    place xs (w.toNat / 2 ^ hi * 2 ^ hi) (read w xs) = w.toNat := by
  induction xs generalizing hi with
  | nil =>
    obtain rfl : hi = 0 := beq_iff_eq.mp h
    exact (Nat.mul_one _).trans (Nat.div_one _)
  | cons x xs ih =>
    simp only [tile, Bool.and_eq_true, beq_iff_eq] at h
    obtain ⟨rfl, h⟩ := h
    cases x with
    | bits lo len =>
      rw [place, read, toNat_field]
      exact (congrArg (place xs · _) (digits_join w.toNat lo len)).trans (ih h hc)
    | flag lo =>
      rw [place, read, toNat_flag]
      exact (congrArg (place xs · _) (digits_join w.toNat lo 1)).trans (ih h hc)
    | zero lo len =>
      obtain ⟨hzero, hc⟩ := List.forall_mem_cons.mp hc
      have hjoin := digits_join w.toNat lo len
      rw [hzero, Nat.zero_mul, Nat.add_zero] at hjoin
      exact (congrArg (place xs · _) hjoin).trans (ih h hc)

end Seg

end Sys2Proof
end

section
/-! Decoding and encoding (05 R119 to R137): the rows of the opcode map, and each word as the fields of its format. -/

namespace Sys2Proof

/-- Rows in the order of their opcodes, from an opcode up. -/
def rowsRise : Nat → List OpcodeRow → Bool
  | _, [] => true
  | lo, r :: rs => decide (lo ≤ r.first) && decide (r.first ≤ r.last) && rowsRise (r.last + 1) rs

theorem first_of_rise {lo : Nat} {rows : List OpcodeRow} (h : rowsRise lo rows = true) {r : OpcodeRow} (hr : r ∈ rows) :
    lo ≤ r.first := by
  induction rows generalizing lo with
  | nil => cases hr
  | cons x rows ih =>
    simp only [rowsRise, Bool.and_eq_true, decide_eq_true_eq] at h
    obtain ⟨⟨hlo, hx⟩, h⟩ := h
    obtain rfl | hr := List.mem_cons.mp hr
    · exact hlo
    · have := ih h hr
      omega

theorem findRow_mem {lo op : Nat} {rows : List OpcodeRow} (h : rowsRise lo rows = true) {r : OpcodeRow} (hr : r ∈ rows)
    (hfirst : r.first ≤ op) (hlast : op ≤ r.last) : findRow op rows = some r := by
  induction rows generalizing lo with
  | nil => cases hr
  | cons x rows ih =>
    simp only [rowsRise, Bool.and_eq_true, decide_eq_true_eq] at h
    obtain ⟨-, h⟩ := h
    obtain rfl | hr := List.mem_cons.mp hr
    · exact if_pos ⟨hfirst, hlast⟩
    · have := first_of_rise h hr
      exact (if_neg (by omega)).trans (ih h hr)

theorem mem_of_findRow {op : Nat} {rows : List OpcodeRow} {r : OpcodeRow} (h : findRow op rows = some r) :
    r ∈ rows ∧ r.first ≤ op ∧ op ≤ r.last := by
  induction rows with
  | nil => cases h
  | cons x rows ih =>
    rw [findRow] at h
    split at h
    · cases h
      exact ⟨List.mem_cons_self, ‹_›⟩
    · obtain ⟨hr, hop⟩ := ih h
      exact ⟨List.mem_cons_of_mem _ hr, hop⟩

/-! Formats that several instructions share. -/

namespace Seg

def none : List Seg := [.zero 0 22]
def regFlag : List Seg := [.zero 21 1, .bits 15 6, .zero 1 14, .flag 0]
def srcImm : List Seg := [.zero 15 7, .bits 8 7, .bits 1 7, .zero 0 1]
def image : List Seg := [.bits 0 22]
def srcSet : List Seg := [.zero 15 7, .bits 8 7, .zero 1 7, .flag 0]
def src : List Seg := [.zero 15 7, .bits 8 7, .zero 0 8]
def reg : List Seg := [.zero 21 1, .bits 15 6, .zero 0 15]
def uniOne : List Seg := [.zero 21 1, .bits 15 6, .bits 8 7, .zero 1 7, .flag 0]
def predPair : List Seg := [.bits 19 3, .bits 16 3, .zero 15 1, .bits 8 7, .zero 1 7, .flag 0]
def predTwo : List Seg := [.zero 18 4, .bits 15 3, .zero 11 4, .bits 8 3, .zero 4 4, .bits 1 3, .flag 0]
def predOne : List Seg := [.zero 18 4, .bits 15 3, .zero 11 4, .bits 8 3, .zero 1 7, .flag 0]
def branch : List Seg := [.flag 22, .bits 19 3, .flag 18, .bits 0 18]
def jump : List Seg := [.bits 19 3, .flag 18, .bits 0 18]
def vecTwo : List Seg := [.flag 21, .bits 15 6, .bits 8 7, .bits 1 7, .flag 0]
def vecOne : List Seg := [.flag 21, .bits 15 6, .bits 8 7, .zero 1 7, .flag 0]
def vecImm : List Seg := [.flag 21, .bits 15 6, .bits 0 15]
def rowsOne : List Seg := [.flag 21, .bits 15 6, .bits 8 7, .zero 2 6, .flag 1, .zero 0 1]
def hinted : List Seg := [.bits 22 2, .zero 21 1, .bits 15 6, .bits 8 7, .bits 1 7, .flag 0]
def uniTwo : List Seg := [.zero 21 1, .bits 15 6, .bits 8 7, .bits 1 7, .flag 0]
def queued : List Seg := [.bits 22 2, .zero 17 5, .bits 15 2, .bits 8 7, .bits 1 7, .flag 0]
def copy : List Seg := [.flag 22, .flag 21, .bits 18 3, .bits 11 7, .bits 4 7, .bits 0 4]
def regIdx : List Seg := [.zero 21 1, .bits 15 6, .zero 7 8, .bits 0 7]
def cache : List Seg := [.zero 15 7, .bits 8 7, .zero 2 6, .flag 1, .flag 0]
def matrix : List Seg := [.flag 22, .flag 21, .bits 18 3, .bits 11 7, .flag 10, .bits 4 6, .bits 0 4]
def tileMove : List Seg := [.flag 21, .bits 18 3, .bits 11 7, .flag 10, .flag 9, .zero 4 5, .bits 0 4]
def regFlags : List Seg := [.zero 21 1, .bits 15 6, .bits 8 7, .zero 2 6, .flag 1, .flag 0]
def uniImm : List Seg := [.zero 21 1, .bits 15 6, .bits 0 15]
def regSrc : List Seg := [.zero 21 1, .bits 15 6, .bits 8 7, .zero 0 8]

end Seg

theorem wordOf_toNat {w : Word} {n : Nat} (h : n = w.toNat) : wordOf n = w := by
  rw [h, wordOf, BitVec.ofNat_toNat, BitVec.setWidth_eq]

theorem clear_of_reserved {w : Word} {r : OpcodeRow} {xs : List Seg} (h : (Seg.zeros xs).all r.reserved.contains = true)
    (hr : reservedClear w r = true) : Seg.clear w.toNat xs := fun z hz =>
  beq_iff_eq.mp (List.all_eq_true.mp hr z (List.contains_iff_mem.mp (List.all_eq_true.mp h z hz)))

theorem reserved_of_clear {w : Word} {r : OpcodeRow} {xs : List Seg} (h : r.reserved.all (Seg.zeros xs).contains = true)
    (hc : Seg.clear w.toNat xs) : reservedClear w r = true :=
  List.all_eq_true.mpr fun z hz => beq_iff_eq.mpr (hc z (List.contains_iff_mem.mp (List.all_eq_true.mp h z hz)))

theorem decode_row {w : Word} {r : OpcodeRow} (h : rowOf (w.toNat / 2 ^ 22) = some r) (hr : reservedClear w r = true)
    (hwf : (r.make w).wf = true) : decode w = .ok (r.make w) := by
  simp only [decode, h, hr, hwf, if_true]

section

variable {r : OpcodeRow} {base hi : Nat} {xs : List Seg} {c : Seg.Form xs} {as : Seg.Args xs} {w : Word}

/-- The word of an instruction is decoded to it where the word's opcode selects the instruction's row. -/
theorem decode_place (hwf : (Seg.app xs c as).wf = true) (hw : encode (Seg.app xs c as) = some w)
    (hencode : encode (Seg.app xs c as) = some (wordOf (Seg.place xs base as)))
    (hrow : rowOf (Seg.place xs base as / 2 ^ 22) = some r) (hmake : ∀ w, r.make w = Seg.app xs c (Seg.read w xs))
    (hreserved : r.reserved.all (Seg.zeros xs).contains = true) (htile : Seg.tile hi xs = true) (hbase : base % 2 ^ hi = 0)
    (hsmall : base + 2 ^ hi ≤ 2 ^ 32) : decode w = .ok (Seg.app xs c as) := by
  obtain rfl := Option.some.inj (hw.symm.trans hencode)
  have hw : (wordOf (Seg.place xs base as)).toNat = Seg.place xs base as := by
    have hlt := Seg.place_lt htile as
    rw [Seg.place_add]
    exact Nat.mod_eq_of_lt (by omega)
  obtain ⟨hread, hclear⟩ := Seg.read_place htile hbase as hw
  have hi : r.make (wordOf (Seg.place xs base as)) = Seg.app xs c as := by rw [hmake, hread]
  rw [← hi]
  exact decode_row (by rw [hw]; exact hrow) (reserved_of_clear hreserved hclear) (by rw [hi]; exact hwf)

/-- The opcode of a word is that of its base, and what the fields above bit 22 add to it. -/
theorem opcode_place (htile : Seg.tile hi xs = true) (hhi : 22 ≤ hi) (as : Seg.Args xs) :
    base / 2 ^ 22 ≤ Seg.place xs base as / 2 ^ 22 ∧
      (base % 2 ^ 22 = 0 → Seg.place xs base as / 2 ^ 22 < base / 2 ^ 22 + 2 ^ (hi - 22)) := by
  obtain ⟨k, rfl⟩ := Nat.exists_eq_add_of_le hhi
  have hlt := Seg.place_lt htile as
  rw [Seg.place_add]
  refine ⟨Nat.div_le_div_right (Nat.le_add_right _ _), fun hbase => ?_⟩
  rw [Nat.pow_add] at hlt
  rw [Nat.add_sub_cancel_left, Nat.div_lt_iff_lt_mul (by decide), Nat.add_mul, Nat.div_mul_cancel (Nat.dvd_of_mod_eq_zero hbase)]
  exact Nat.add_lt_add_left (by rwa [Nat.mul_comm]) _

/-- The opcode that a field just above bit 22 adds to. -/
theorem opcode_head {len : Nat} (htile : Seg.tile 22 xs = true) (hbase : base % 2 ^ 22 = 0) (v : BitVec len) (as : Seg.Args xs) :
    Seg.place (.bits 22 len :: xs) base (v, as) / 2 ^ 22 = base / 2 ^ 22 + v.toNat := by
  obtain ⟨hle, hlt⟩ := opcode_place (base := base + v.toNat * 2 ^ 22) htile le_rfl as
  have hop : Seg.place xs (base + v.toNat * 2 ^ 22) as / 2 ^ 22 = (base + v.toNat * 2 ^ 22) / 2 ^ 22 :=
    Nat.le_antisymm (Nat.le_of_lt_succ (hlt (by omega))) hle
  exact hop.trans (Nat.add_mul_div_right _ _ (by decide))

/-- An instruction of one opcode. -/
theorem decode_single (xs : List Seg) {c : Seg.Form xs} (as : Seg.Args xs) (hwf : (Seg.app xs c as).wf = true)
    (hw : encode (Seg.app xs c as) = some w) (hencode : encode (Seg.app xs c as) = some (wordOf (Seg.place xs base as)))
    (hrow : rowOf (base / 2 ^ 22) = some r) (hmake : ∀ w, r.make w = Seg.app xs c (Seg.read w xs))
    (hlayout : (r.reserved.all (Seg.zeros xs).contains && Seg.tile 22 xs && base % 2 ^ 22 == 0 && decide (base + 2 ^ 22 ≤ 2 ^ 32)) = true) :
    decode w = .ok (Seg.app xs c as) := by
  simp only [Bool.and_eq_true, beq_iff_eq, decide_eq_true_eq] at hlayout
  obtain ⟨⟨⟨hreserved, htile⟩, hbase⟩, hsmall⟩ := hlayout
  obtain ⟨hle, hlt⟩ := opcode_place (base := base) htile le_rfl as
  have hop : Seg.place xs base as / 2 ^ 22 = base / 2 ^ 22 := Nat.le_antisymm (Nat.le_of_lt_succ (hlt hbase)) hle
  exact decode_place hwf hw hencode (by rw [hop]; exact hrow) hmake hreserved htile hbase hsmall

/-- An instruction of several opcodes, whose row is the k-th of its group. -/
theorem decode_several (hi : Nat) (xs : List Seg) (g k : Nat) {c : Seg.Form xs} (as : Seg.Args xs)
    (hlast : Seg.place xs base as / 2 ^ 22 ≤ r.last) (hwf : (Seg.app xs c as).wf = true)
    (hw : encode (Seg.app xs c as) = some w) (hencode : encode (Seg.app xs c as) = some (wordOf (Seg.place xs base as)))
    (hrow : (groupRows g)[k]? = some r) (hmake : ∀ w, r.make w = Seg.app xs c (Seg.read w xs))
    (hlayout : (r.reserved.all (Seg.zeros xs).contains && Seg.tile hi xs && base % 2 ^ hi == 0 && decide (base + 2 ^ hi ≤ 2 ^ 32) &&
      decide (22 ≤ hi)) = true)
    (hgroup : (rowsRise 0 (groupRows g) && base / 2 ^ 22 == r.first && r.first / 64 == g && r.last / 64 == g) = true) :
    decode w = .ok (Seg.app xs c as) := by
  simp only [Bool.and_eq_true, beq_iff_eq, decide_eq_true_eq] at hlayout hgroup
  obtain ⟨⟨⟨⟨hreserved, htile⟩, hbase⟩, hsmall⟩, hhi⟩ := hlayout
  obtain ⟨⟨⟨hrise, hfirst⟩, hlow⟩, hhigh⟩ := hgroup
  obtain ⟨hle, -⟩ := opcode_place (base := base) htile hhi as
  rw [hfirst] at hle
  have hg : Seg.place xs base as / 2 ^ 22 / 64 = g :=
    Nat.le_antisymm (hhigh ▸ Nat.div_le_div_right hlast) (hlow ▸ Nat.div_le_div_right hle)
  have hfind : rowOf (Seg.place xs base as / 2 ^ 22) = some r := by
    rw [rowOf, hg]
    exact findRow_mem hrise (List.mem_of_getElem? hrow) hle hlast
  exact decode_place hwf hw hencode hfind hmake hreserved htile hbase hsmall

/-- The same where the fields above bit 22 reach every opcode of the row. -/
theorem decode_wide (hi : Nat) (xs : List Seg) (g k : Nat) {c : Seg.Form xs} (as : Seg.Args xs) (hwf : (Seg.app xs c as).wf = true)
    (hw : encode (Seg.app xs c as) = some w) (hencode : encode (Seg.app xs c as) = some (wordOf (Seg.place xs base as)))
    (hrow : (groupRows g)[k]? = some r) (hmake : ∀ w, r.make w = Seg.app xs c (Seg.read w xs))
    (hlayout : (r.reserved.all (Seg.zeros xs).contains && Seg.tile hi xs && base % 2 ^ hi == 0 && decide (base + 2 ^ hi ≤ 2 ^ 32) &&
      decide (22 ≤ hi)) = true)
    (hgroup : (rowsRise 0 (groupRows g) && base / 2 ^ 22 == r.first && r.first / 64 == g && r.last / 64 == g) = true)
    (hlast : (base % 2 ^ 22 == 0 && r.last + 1 == base / 2 ^ 22 + 2 ^ (hi - 22)) = true) : decode w = .ok (Seg.app xs c as) := by
  refine decode_several hi xs g k as ?_ hwf hw hencode hrow hmake hlayout hgroup
  simp only [Bool.and_eq_true, beq_iff_eq, decide_eq_true_eq] at hlayout hlast
  obtain ⟨⟨⟨⟨-, htile⟩, -⟩, -⟩, hhi⟩ := hlayout
  obtain ⟨hbase, hlast⟩ := hlast
  have hlt := (opcode_place (base := base) htile hhi as).2 hbase
  omega

end

/-- In a row every word without a reserved bit is what the encoder writes for what the row makes of it, but for BRK and TRAP. -/
def RowKept (r : OpcodeRow) : Prop :=
  ∀ w : Word, r.first ≤ w.toNat / 2 ^ 22 → w.toNat / 2 ^ 22 ≤ r.last → reservedClear w r = true →
    encode (r.make w) = some w ∨ r.make w = .brk ∧ w.toNat / 2 ^ 22 = 3 ∨ r.make w = .trap ∧ w.toNat / 2 ^ 22 = 4

theorem rowKept (hi : Nat) (xs : List Seg) {r : OpcodeRow} {c : Seg.Form xs}
    (h : ∀ w as, r.make w = Seg.app xs c (Seg.read w xs) ∧
      encode (Seg.app xs c as) = some (wordOf (Seg.place xs (r.first * 2 ^ 22) as)))
    (hlayout : ((Seg.zeros xs).all r.reserved.contains && Seg.tile hi xs && r.first * 2 ^ 22 % 2 ^ hi == 0 &&
      decide ((r.last + 1) * 2 ^ 22 ≤ r.first * 2 ^ 22 + 2 ^ hi)) = true) : RowKept r := by
  intro w hfirst hlast hclear
  simp only [Bool.and_eq_true, beq_iff_eq, decide_eq_true_eq] at hlayout
  obtain ⟨⟨⟨hreserved, htile⟩, hbase⟩, hwide⟩ := hlayout
  have hupper : w.toNat / 2 ^ hi * 2 ^ hi = r.first * 2 ^ 22 := by
    obtain ⟨q, hq⟩ := Nat.dvd_of_mod_eq_zero hbase
    have hle : 2 ^ hi * q ≤ w.toNat := by omega
    have hlt : w.toNat < 2 ^ hi * (q + 1) := by rw [Nat.mul_succ]; omega
    rw [hq, Nat.mul_comm]
    congr 1
    exact Nat.div_eq_of_lt_le (by rwa [Nat.mul_comm]) (by rwa [Nat.mul_comm])
  have hplace := Seg.place_read htile (clear_of_reserved hreserved hclear)
  rw [hupper] at hplace
  obtain ⟨hmake, hencode⟩ := h w (Seg.read w xs)
  rw [hmake, hencode]
  exact .inl (congrArg some (wordOf_toNat hplace))

theorem rows0_kept : ∀ r ∈ opcodeRows0, RowKept r := by
  simp only [opcodeRows0, List.forall_mem_cons, List.not_mem_nil, false_imp_iff, implies_true, and_true]
  exact ⟨rowKept 22 Seg.none (fun _ _ => ⟨rfl, rfl⟩) rfl, rowKept 22 Seg.none (fun _ _ => ⟨rfl, rfl⟩) rfl,
    rowKept 22 Seg.none (fun _ _ => ⟨rfl, rfl⟩) rfl, fun _ h₁ h₂ _ => .inr (.inl ⟨rfl, Nat.le_antisymm h₂ h₁⟩),
    fun _ h₁ h₂ _ => .inr (.inr ⟨rfl, Nat.le_antisymm h₂ h₁⟩), rowKept 22 Seg.regFlag (fun _ _ => ⟨rfl, rfl⟩) rfl,
    rowKept 22 Seg.none (fun _ _ => ⟨rfl, rfl⟩) rfl, rowKept 22 Seg.srcImm (fun _ _ => ⟨rfl, rfl⟩) rfl,
    rowKept 22 Seg.srcImm (fun _ _ => ⟨rfl, rfl⟩) rfl, rowKept 22 Seg.image (fun _ _ => ⟨rfl, rfl⟩) rfl,
    rowKept 22 Seg.image (fun _ _ => ⟨rfl, rfl⟩) rfl, rowKept 22 Seg.image (fun _ _ => ⟨rfl, rfl⟩) rfl,
    rowKept 22 Seg.srcSet (fun _ _ => ⟨rfl, rfl⟩) rfl, rowKept 22 Seg.regFlag (fun _ _ => ⟨rfl, rfl⟩) rfl,
    rowKept 22 Seg.src (fun _ _ => ⟨rfl, rfl⟩) rfl, rowKept 22 Seg.reg (fun _ _ => ⟨rfl, rfl⟩) rfl,
    rowKept 22 Seg.uniOne (fun _ _ => ⟨rfl, rfl⟩) rfl, rowKept 22 Seg.predPair (fun _ _ => ⟨rfl, rfl⟩) rfl,
    rowKept 22 Seg.predPair (fun _ _ => ⟨rfl, rfl⟩) rfl,
    rowKept 22 [.zero 16 6, .flag 15, .bits 8 7, .bits 1 7, .zero 0 1] (fun _ _ => ⟨rfl, rfl⟩) rfl,
    rowKept 22 [.flag 21, .bits 15 6, .zero 6 9, .bits 0 6] (fun _ _ => ⟨rfl, rfl⟩) rfl,
    rowKept 22 Seg.predTwo (fun _ _ => ⟨rfl, rfl⟩) rfl, rowKept 22 Seg.predTwo (fun _ _ => ⟨rfl, rfl⟩) rfl,
    rowKept 22 Seg.predTwo (fun _ _ => ⟨rfl, rfl⟩) rfl, rowKept 22 Seg.predOne (fun _ _ => ⟨rfl, rfl⟩) rfl,
    rowKept 22 Seg.predOne (fun _ _ => ⟨rfl, rfl⟩) rfl, rowKept 23 Seg.branch (fun _ _ => ⟨rfl, rfl⟩) rfl,
    rowKept 23 Seg.branch (fun _ _ => ⟨rfl, rfl⟩) rfl,
    rowKept 22 [.bits 19 3, .flag 18, .bits 9 9, .bits 0 9] (fun _ _ => ⟨rfl, rfl⟩) rfl,
    rowKept 22 Seg.src (fun _ _ => ⟨rfl, rfl⟩) rfl, rowKept 22 Seg.jump (fun _ _ => ⟨rfl, rfl⟩) rfl,
    rowKept 22 [.flag 21, .bits 15 6, .bits 8 7, .zero 0 8] (fun _ _ => ⟨rfl, rfl⟩) rfl,
    rowKept 22 Seg.none (fun _ _ => ⟨rfl, rfl⟩) rfl, rowKept 22 Seg.reg (fun _ _ => ⟨rfl, rfl⟩) rfl,
    rowKept 22 [.bits 15 7, .bits 0 15] (fun _ _ => ⟨rfl, rfl⟩) rfl, rowKept 22 Seg.jump (fun _ _ => ⟨rfl, rfl⟩) rfl⟩

theorem rows1_kept : ∀ r ∈ opcodeRows1, RowKept r := by
  simp only [opcodeRows1, List.forall_mem_cons, List.not_mem_nil, false_imp_iff, implies_true, and_true]
  exact rowKept 28 [.bits 25 3, .bits 22 3, .bits 19 3, .bits 16 3, .zero 15 1, .bits 8 7, .bits 1 7, .flag 0] (fun _ _ => ⟨rfl, rfl⟩) rfl

theorem rows2_kept : ∀ r ∈ opcodeRows2, RowKept r := by
  simp only [opcodeRows2, List.forall_mem_cons, List.not_mem_nil, false_imp_iff, implies_true, and_true]
  exact ⟨rowKept 22 Seg.vecTwo (fun _ _ => ⟨rfl, rfl⟩) rfl, rowKept 22 Seg.vecTwo (fun _ _ => ⟨rfl, rfl⟩) rfl,
    rowKept 22 Seg.vecTwo (fun _ _ => ⟨rfl, rfl⟩) rfl, rowKept 22 Seg.vecTwo (fun _ _ => ⟨rfl, rfl⟩) rfl,
    rowKept 22 Seg.vecTwo (fun _ _ => ⟨rfl, rfl⟩) rfl, rowKept 22 Seg.vecTwo (fun _ _ => ⟨rfl, rfl⟩) rfl,
    rowKept 22 Seg.vecTwo (fun _ _ => ⟨rfl, rfl⟩) rfl, rowKept 22 Seg.vecOne (fun _ _ => ⟨rfl, rfl⟩) rfl,
    rowKept 22 Seg.vecOne (fun _ _ => ⟨rfl, rfl⟩) rfl, rowKept 22 Seg.vecTwo (fun _ _ => ⟨rfl, rfl⟩) rfl,
    rowKept 22 Seg.vecTwo (fun _ _ => ⟨rfl, rfl⟩) rfl, rowKept 22 Seg.vecTwo (fun _ _ => ⟨rfl, rfl⟩) rfl,
    rowKept 22 Seg.vecTwo (fun _ _ => ⟨rfl, rfl⟩) rfl, rowKept 22 Seg.vecTwo (fun _ _ => ⟨rfl, rfl⟩) rfl,
    rowKept 22 Seg.vecTwo (fun _ _ => ⟨rfl, rfl⟩) rfl, rowKept 22 Seg.vecTwo (fun _ _ => ⟨rfl, rfl⟩) rfl,
    rowKept 22 Seg.vecTwo (fun _ _ => ⟨rfl, rfl⟩) rfl, rowKept 22 Seg.vecTwo (fun _ _ => ⟨rfl, rfl⟩) rfl,
    rowKept 22 Seg.vecTwo (fun _ _ => ⟨rfl, rfl⟩) rfl, rowKept 22 Seg.vecTwo (fun _ _ => ⟨rfl, rfl⟩) rfl,
    rowKept 22 Seg.vecTwo (fun _ _ => ⟨rfl, rfl⟩) rfl, rowKept 22 Seg.vecTwo (fun _ _ => ⟨rfl, rfl⟩) rfl,
    rowKept 22 Seg.vecTwo (fun _ _ => ⟨rfl, rfl⟩) rfl, rowKept 22 Seg.vecOne (fun _ _ => ⟨rfl, rfl⟩) rfl,
    rowKept 22 Seg.vecOne (fun _ _ => ⟨rfl, rfl⟩) rfl, rowKept 22 Seg.vecOne (fun _ _ => ⟨rfl, rfl⟩) rfl,
    rowKept 22 Seg.vecOne (fun _ _ => ⟨rfl, rfl⟩) rfl, rowKept 22 Seg.vecTwo (fun _ _ => ⟨rfl, rfl⟩) rfl,
    rowKept 22 Seg.vecTwo (fun _ _ => ⟨rfl, rfl⟩) rfl, rowKept 22 Seg.vecOne (fun _ _ => ⟨rfl, rfl⟩) rfl,
    rowKept 22 Seg.vecTwo (fun _ _ => ⟨rfl, rfl⟩) rfl, rowKept 22 Seg.vecTwo (fun _ _ => ⟨rfl, rfl⟩) rfl,
    rowKept 22 Seg.vecTwo (fun _ _ => ⟨rfl, rfl⟩) rfl, rowKept 22 Seg.vecTwo (fun _ _ => ⟨rfl, rfl⟩) rfl,
    rowKept 22 Seg.vecTwo (fun _ _ => ⟨rfl, rfl⟩) rfl, rowKept 22 Seg.vecTwo (fun _ _ => ⟨rfl, rfl⟩) rfl,
    rowKept 22 Seg.vecTwo (fun _ _ => ⟨rfl, rfl⟩) rfl, rowKept 22 Seg.vecTwo (fun _ _ => ⟨rfl, rfl⟩) rfl,
    rowKept 22 Seg.vecTwo (fun _ _ => ⟨rfl, rfl⟩) rfl, rowKept 22 Seg.vecTwo (fun _ _ => ⟨rfl, rfl⟩) rfl,
    rowKept 22 Seg.vecTwo (fun _ _ => ⟨rfl, rfl⟩) rfl, rowKept 22 Seg.vecTwo (fun _ _ => ⟨rfl, rfl⟩) rfl,
    rowKept 22 Seg.vecTwo (fun _ _ => ⟨rfl, rfl⟩) rfl, rowKept 22 Seg.vecTwo (fun _ _ => ⟨rfl, rfl⟩) rfl,
    rowKept 22 Seg.vecTwo (fun _ _ => ⟨rfl, rfl⟩) rfl, rowKept 22 Seg.vecTwo (fun _ _ => ⟨rfl, rfl⟩) rfl,
    rowKept 22 Seg.vecImm (fun _ _ => ⟨rfl, rfl⟩) rfl, rowKept 22 Seg.vecImm (fun _ _ => ⟨rfl, rfl⟩) rfl⟩

theorem rows3_kept : ∀ r ∈ opcodeRows3, RowKept r := by
  simp only [opcodeRows3, List.forall_mem_cons, List.not_mem_nil, false_imp_iff, implies_true, and_true]
  exact ⟨rowKept 22 Seg.vecTwo (fun _ _ => ⟨rfl, rfl⟩) rfl, rowKept 22 Seg.vecTwo (fun _ _ => ⟨rfl, rfl⟩) rfl,
    rowKept 22 Seg.vecTwo (fun _ _ => ⟨rfl, rfl⟩) rfl, rowKept 22 Seg.vecTwo (fun _ _ => ⟨rfl, rfl⟩) rfl,
    rowKept 22 Seg.vecTwo (fun _ _ => ⟨rfl, rfl⟩) rfl, rowKept 22 Seg.vecTwo (fun _ _ => ⟨rfl, rfl⟩) rfl,
    rowKept 22 Seg.vecOne (fun _ _ => ⟨rfl, rfl⟩) rfl, rowKept 22 Seg.vecOne (fun _ _ => ⟨rfl, rfl⟩) rfl,
    rowKept 22 Seg.vecOne (fun _ _ => ⟨rfl, rfl⟩) rfl, rowKept 22 Seg.vecOne (fun _ _ => ⟨rfl, rfl⟩) rfl,
    rowKept 22 Seg.vecTwo (fun _ _ => ⟨rfl, rfl⟩) rfl,
    rowKept 22 [.flag 21, .bits 15 6, .bits 8 7, .zero 4 4, .bits 1 3, .zero 0 1] (fun _ _ => ⟨rfl, rfl⟩) rfl,
    rowKept 22 Seg.rowsOne (fun _ _ => ⟨rfl, rfl⟩) rfl, rowKept 22 Seg.rowsOne (fun _ _ => ⟨rfl, rfl⟩) rfl,
    rowKept 22 Seg.vecOne (fun _ _ => ⟨rfl, rfl⟩) rfl, rowKept 22 Seg.vecOne (fun _ _ => ⟨rfl, rfl⟩) rfl,
    rowKept 22 Seg.vecOne (fun _ _ => ⟨rfl, rfl⟩) rfl, rowKept 22 Seg.vecOne (fun _ _ => ⟨rfl, rfl⟩) rfl,
    rowKept 22 Seg.vecOne (fun _ _ => ⟨rfl, rfl⟩) rfl, rowKept 22 Seg.vecOne (fun _ _ => ⟨rfl, rfl⟩) rfl,
    rowKept 22 Seg.vecOne (fun _ _ => ⟨rfl, rfl⟩) rfl, rowKept 22 Seg.vecTwo (fun _ _ => ⟨rfl, rfl⟩) rfl,
    rowKept 22 Seg.vecTwo (fun _ _ => ⟨rfl, rfl⟩) rfl, rowKept 22 Seg.vecTwo (fun _ _ => ⟨rfl, rfl⟩) rfl,
    rowKept 22 Seg.vecTwo (fun _ _ => ⟨rfl, rfl⟩) rfl, rowKept 22 Seg.vecTwo (fun _ _ => ⟨rfl, rfl⟩) rfl,
    rowKept 22 [.flag 21, .bits 15 6, .bits 8 7, .zero 5 3, .bits 1 4, .flag 0] (fun _ _ => ⟨rfl, rfl⟩) rfl,
    rowKept 22 [.flag 21, .bits 15 6, .bits 8 7, .zero 6 2, .flag 5, .bits 1 4, .flag 0] (fun _ _ => ⟨rfl, rfl⟩) rfl,
    rowKept 22 Seg.vecOne (fun _ _ => ⟨rfl, rfl⟩) rfl, rowKept 22 Seg.vecTwo (fun _ _ => ⟨rfl, rfl⟩) rfl,
    rowKept 22 Seg.vecTwo (fun _ _ => ⟨rfl, rfl⟩) rfl, rowKept 22 Seg.vecTwo (fun _ _ => ⟨rfl, rfl⟩) rfl,
    rowKept 22 Seg.vecTwo (fun _ _ => ⟨rfl, rfl⟩) rfl, rowKept 22 Seg.vecTwo (fun _ _ => ⟨rfl, rfl⟩) rfl⟩

theorem rows4_kept : ∀ r ∈ opcodeRows4, RowKept r := by
  simp only [opcodeRows4, List.forall_mem_cons, List.not_mem_nil, false_imp_iff, implies_true, and_true]
  exact ⟨rowKept 24 [.bits 22 2, .flag 21, .bits 15 6, .bits 8 7, .bits 1 7, .flag 0] (fun _ _ => ⟨rfl, rfl⟩) rfl,
    rowKept 24 Seg.hinted (fun _ _ => ⟨rfl, rfl⟩) rfl, rowKept 24 Seg.hinted (fun _ _ => ⟨rfl, rfl⟩) rfl,
    rowKept 24 Seg.hinted (fun _ _ => ⟨rfl, rfl⟩) rfl, rowKept 22 Seg.vecTwo (fun _ _ => ⟨rfl, rfl⟩) rfl,
    rowKept 22 Seg.uniTwo (fun _ _ => ⟨rfl, rfl⟩) rfl, rowKept 24 Seg.queued (fun _ _ => ⟨rfl, rfl⟩) rfl,
    rowKept 24 Seg.queued (fun _ _ => ⟨rfl, rfl⟩) rfl⟩

theorem rows5_kept : ∀ r ∈ opcodeRows5, RowKept r := by
  simp only [opcodeRows5, List.forall_mem_cons, List.not_mem_nil, false_imp_iff, implies_true, and_true]
  exact ⟨rowKept 26 [.bits 22 4, .flag 21, .bits 15 6, .bits 8 7, .bits 1 7, .flag 0] (fun _ _ => ⟨rfl, rfl⟩) rfl,
    rowKept 25 [.bits 22 3, .zero 21 1, .bits 15 6, .bits 8 7, .bits 1 7, .flag 0] (fun _ _ => ⟨rfl, rfl⟩) rfl,
    rowKept 22 Seg.vecTwo (fun _ _ => ⟨rfl, rfl⟩) rfl,
    rowKept 22 [.zero 6 16, .bits 2 4, .bits 0 2] (fun _ _ => ⟨rfl, rfl⟩) rfl, rowKept 23 Seg.copy (fun _ _ => ⟨rfl, rfl⟩) rfl,
    rowKept 23 Seg.copy (fun _ _ => ⟨rfl, rfl⟩) rfl, rowKept 22 Seg.reg (fun _ _ => ⟨rfl, rfl⟩) rfl,
    rowKept 22 Seg.regIdx (fun _ _ => ⟨rfl, rfl⟩) rfl,
    rowKept 22 [.zero 21 1, .bits 15 6, .zero 6 9, .bits 0 6] (fun _ _ => ⟨rfl, rfl⟩) rfl,
    rowKept 22 Seg.uniTwo (fun _ _ => ⟨rfl, rfl⟩) rfl, rowKept 22 Seg.uniTwo (fun _ _ => ⟨rfl, rfl⟩) rfl,
    rowKept 22 Seg.vecTwo (fun _ _ => ⟨rfl, rfl⟩) rfl, rowKept 22 Seg.vecOne (fun _ _ => ⟨rfl, rfl⟩) rfl,
    rowKept 22 Seg.none (fun _ _ => ⟨rfl, rfl⟩) rfl, rowKept 22 Seg.cache (fun _ _ => ⟨rfl, rfl⟩) rfl,
    rowKept 22 Seg.cache (fun _ _ => ⟨rfl, rfl⟩) rfl, rowKept 22 Seg.cache (fun _ _ => ⟨rfl, rfl⟩) rfl,
    rowKept 22 [.zero 18 4, .flag 17, .bits 15 2, .bits 8 7, .zero 1 7, .flag 0] (fun _ _ => ⟨rfl, rfl⟩) rfl,
    rowKept 22 [.zero 21 1, .bits 15 6, .zero 4 11, .flag 3, .flag 2, .bits 0 2] (fun _ _ => ⟨rfl, rfl⟩) rfl⟩

theorem rows6_kept : ∀ r ∈ opcodeRows6, RowKept r := by
  simp only [opcodeRows6, List.forall_mem_cons, List.not_mem_nil, false_imp_iff, implies_true, and_true]
  exact ⟨rowKept 23 [.flag 22, .flag 21, .bits 18 3, .bits 11 7, .flag 10, .bits 4 6, .zero 0 4] (fun _ _ => ⟨rfl, rfl⟩) rfl,
    rowKept 23 Seg.matrix (fun _ _ => ⟨rfl, rfl⟩) rfl, rowKept 23 Seg.matrix (fun _ _ => ⟨rfl, rfl⟩) rfl,
    rowKept 22 [.flag 21, .bits 18 3, .zero 11 7, .flag 10, .zero 4 6, .bits 0 4] (fun _ _ => ⟨rfl, rfl⟩) rfl,
    rowKept 22 Seg.tileMove (fun _ _ => ⟨rfl, rfl⟩) rfl, rowKept 22 Seg.tileMove (fun _ _ => ⟨rfl, rfl⟩) rfl,
    rowKept 22 [.zero 21 1, .bits 15 6, .zero 6 9, .flag 5, .flag 4, .bits 0 4] (fun _ _ => ⟨rfl, rfl⟩) rfl,
    rowKept 22 [.flag 21, .bits 18 3, .zero 10 8, .bits 4 6, .zero 0 4] (fun _ _ => ⟨rfl, rfl⟩) rfl,
    rowKept 22 [.flag 21, .bits 15 6, .zero 13 2, .flag 12, .bits 8 4, .bits 1 7, .flag 0] (fun _ _ => ⟨rfl, rfl⟩) rfl,
    rowKept 22 Seg.vecOne (fun _ _ => ⟨rfl, rfl⟩) rfl, rowKept 22 Seg.vecOne (fun _ _ => ⟨rfl, rfl⟩) rfl,
    rowKept 22 Seg.vecOne (fun _ _ => ⟨rfl, rfl⟩) rfl, rowKept 22 Seg.vecTwo (fun _ _ => ⟨rfl, rfl⟩) rfl,
    rowKept 22 Seg.vecTwo (fun _ _ => ⟨rfl, rfl⟩) rfl⟩

theorem rows7_kept : ∀ r ∈ opcodeRows7, RowKept r := by
  simp only [opcodeRows7, List.forall_mem_cons, List.not_mem_nil, false_imp_iff, implies_true, and_true]
  exact ⟨rowKept 22 Seg.regFlags (fun _ _ => ⟨rfl, rfl⟩) rfl,
    rowKept 22 [.zero 21 1, .bits 15 6, .bits 8 7, .zero 3 5, .flag 2, .flag 1, .flag 0] (fun _ _ => ⟨rfl, rfl⟩) rfl,
    rowKept 22 [.zero 21 1, .bits 15 6, .bits 8 7, .flag 7, .bits 1 6, .flag 0] (fun _ _ => ⟨rfl, rfl⟩) rfl,
    rowKept 22 Seg.uniTwo (fun _ _ => ⟨rfl, rfl⟩) rfl, rowKept 22 Seg.regFlags (fun _ _ => ⟨rfl, rfl⟩) rfl,
    rowKept 22 Seg.uniOne (fun _ _ => ⟨rfl, rfl⟩) rfl, rowKept 22 Seg.reg (fun _ _ => ⟨rfl, rfl⟩) rfl,
    rowKept 22 [.zero 15 7, .bits 8 7, .zero 5 3, .bits 1 4, .flag 0] (fun _ _ => ⟨rfl, rfl⟩) rfl,
    rowKept 22 Seg.vecOne (fun _ _ => ⟨rfl, rfl⟩) rfl, rowKept 22 Seg.vecTwo (fun _ _ => ⟨rfl, rfl⟩) rfl,
    rowKept 22 Seg.srcSet (fun _ _ => ⟨rfl, rfl⟩) rfl, rowKept 22 Seg.none (fun _ _ => ⟨rfl, rfl⟩) rfl,
    rowKept 22 Seg.none (fun _ _ => ⟨rfl, rfl⟩) rfl,
    rowKept 22 [.flag 21, .bits 18 3, .bits 11 7, .zero 4 7, .bits 0 4] (fun _ _ => ⟨rfl, rfl⟩) rfl,
    rowKept 22 Seg.regIdx (fun _ _ => ⟨rfl, rfl⟩) rfl⟩

theorem rows10_kept : ∀ r ∈ opcodeRows10, RowKept r := by
  simp only [opcodeRows10, List.forall_mem_cons, List.not_mem_nil, false_imp_iff, implies_true, and_true]
  exact ⟨rowKept 22 Seg.uniTwo (fun _ _ => ⟨rfl, rfl⟩) rfl, rowKept 22 Seg.uniTwo (fun _ _ => ⟨rfl, rfl⟩) rfl,
    rowKept 22 Seg.uniTwo (fun _ _ => ⟨rfl, rfl⟩) rfl, rowKept 22 Seg.uniTwo (fun _ _ => ⟨rfl, rfl⟩) rfl,
    rowKept 22 Seg.uniTwo (fun _ _ => ⟨rfl, rfl⟩) rfl, rowKept 22 Seg.uniTwo (fun _ _ => ⟨rfl, rfl⟩) rfl,
    rowKept 22 Seg.uniTwo (fun _ _ => ⟨rfl, rfl⟩) rfl, rowKept 22 Seg.uniOne (fun _ _ => ⟨rfl, rfl⟩) rfl,
    rowKept 22 Seg.uniOne (fun _ _ => ⟨rfl, rfl⟩) rfl, rowKept 22 Seg.uniTwo (fun _ _ => ⟨rfl, rfl⟩) rfl,
    rowKept 22 Seg.uniTwo (fun _ _ => ⟨rfl, rfl⟩) rfl, rowKept 22 Seg.uniTwo (fun _ _ => ⟨rfl, rfl⟩) rfl,
    rowKept 22 Seg.uniTwo (fun _ _ => ⟨rfl, rfl⟩) rfl, rowKept 22 Seg.uniTwo (fun _ _ => ⟨rfl, rfl⟩) rfl,
    rowKept 22 Seg.uniTwo (fun _ _ => ⟨rfl, rfl⟩) rfl, rowKept 22 Seg.uniTwo (fun _ _ => ⟨rfl, rfl⟩) rfl,
    rowKept 22 Seg.uniTwo (fun _ _ => ⟨rfl, rfl⟩) rfl, rowKept 22 Seg.uniTwo (fun _ _ => ⟨rfl, rfl⟩) rfl,
    rowKept 22 Seg.uniTwo (fun _ _ => ⟨rfl, rfl⟩) rfl, rowKept 22 Seg.uniTwo (fun _ _ => ⟨rfl, rfl⟩) rfl,
    rowKept 22 Seg.uniTwo (fun _ _ => ⟨rfl, rfl⟩) rfl, rowKept 22 Seg.uniTwo (fun _ _ => ⟨rfl, rfl⟩) rfl,
    rowKept 22 Seg.uniTwo (fun _ _ => ⟨rfl, rfl⟩) rfl, rowKept 22 Seg.uniOne (fun _ _ => ⟨rfl, rfl⟩) rfl,
    rowKept 22 Seg.uniOne (fun _ _ => ⟨rfl, rfl⟩) rfl, rowKept 22 Seg.uniOne (fun _ _ => ⟨rfl, rfl⟩) rfl,
    rowKept 22 Seg.uniOne (fun _ _ => ⟨rfl, rfl⟩) rfl, rowKept 22 Seg.uniTwo (fun _ _ => ⟨rfl, rfl⟩) rfl,
    rowKept 22 Seg.uniTwo (fun _ _ => ⟨rfl, rfl⟩) rfl, rowKept 22 Seg.uniOne (fun _ _ => ⟨rfl, rfl⟩) rfl,
    rowKept 22 Seg.uniTwo (fun _ _ => ⟨rfl, rfl⟩) rfl, rowKept 22 Seg.uniTwo (fun _ _ => ⟨rfl, rfl⟩) rfl,
    rowKept 22 Seg.uniTwo (fun _ _ => ⟨rfl, rfl⟩) rfl, rowKept 22 Seg.uniTwo (fun _ _ => ⟨rfl, rfl⟩) rfl,
    rowKept 22 Seg.uniTwo (fun _ _ => ⟨rfl, rfl⟩) rfl, rowKept 22 Seg.uniTwo (fun _ _ => ⟨rfl, rfl⟩) rfl,
    rowKept 22 Seg.uniTwo (fun _ _ => ⟨rfl, rfl⟩) rfl, rowKept 22 Seg.uniTwo (fun _ _ => ⟨rfl, rfl⟩) rfl,
    rowKept 22 Seg.uniTwo (fun _ _ => ⟨rfl, rfl⟩) rfl, rowKept 22 Seg.uniTwo (fun _ _ => ⟨rfl, rfl⟩) rfl,
    rowKept 22 Seg.uniTwo (fun _ _ => ⟨rfl, rfl⟩) rfl, rowKept 22 Seg.uniTwo (fun _ _ => ⟨rfl, rfl⟩) rfl,
    rowKept 22 Seg.uniTwo (fun _ _ => ⟨rfl, rfl⟩) rfl, rowKept 22 Seg.uniTwo (fun _ _ => ⟨rfl, rfl⟩) rfl,
    rowKept 22 Seg.uniTwo (fun _ _ => ⟨rfl, rfl⟩) rfl, rowKept 22 Seg.uniTwo (fun _ _ => ⟨rfl, rfl⟩) rfl,
    rowKept 22 Seg.uniImm (fun _ _ => ⟨rfl, rfl⟩) rfl, rowKept 22 Seg.uniImm (fun _ _ => ⟨rfl, rfl⟩) rfl⟩

theorem rows11_kept : ∀ r ∈ opcodeRows11, RowKept r := by
  simp only [opcodeRows11, List.forall_mem_cons, List.not_mem_nil, false_imp_iff, implies_true, and_true]
  exact ⟨rowKept 22 Seg.uniTwo (fun _ _ => ⟨rfl, rfl⟩) rfl, rowKept 22 Seg.uniTwo (fun _ _ => ⟨rfl, rfl⟩) rfl,
    rowKept 22 Seg.uniTwo (fun _ _ => ⟨rfl, rfl⟩) rfl, rowKept 22 Seg.uniTwo (fun _ _ => ⟨rfl, rfl⟩) rfl,
    rowKept 22 Seg.uniTwo (fun _ _ => ⟨rfl, rfl⟩) rfl, rowKept 22 Seg.uniTwo (fun _ _ => ⟨rfl, rfl⟩) rfl,
    rowKept 22 Seg.uniOne (fun _ _ => ⟨rfl, rfl⟩) rfl, rowKept 22 Seg.uniOne (fun _ _ => ⟨rfl, rfl⟩) rfl,
    rowKept 22 Seg.uniOne (fun _ _ => ⟨rfl, rfl⟩) rfl, rowKept 22 Seg.uniOne (fun _ _ => ⟨rfl, rfl⟩) rfl,
    rowKept 22 Seg.uniTwo (fun _ _ => ⟨rfl, rfl⟩) rfl,
    rowKept 22 [.zero 21 1, .bits 15 6, .bits 8 7, .zero 4 4, .bits 1 3, .zero 0 1] (fun _ _ => ⟨rfl, rfl⟩) rfl,
    rowKept 22 Seg.uniOne (fun _ _ => ⟨rfl, rfl⟩) rfl, rowKept 22 Seg.uniOne (fun _ _ => ⟨rfl, rfl⟩) rfl,
    rowKept 22 Seg.uniOne (fun _ _ => ⟨rfl, rfl⟩) rfl, rowKept 22 Seg.uniOne (fun _ _ => ⟨rfl, rfl⟩) rfl,
    rowKept 22 Seg.uniOne (fun _ _ => ⟨rfl, rfl⟩) rfl, rowKept 22 Seg.uniOne (fun _ _ => ⟨rfl, rfl⟩) rfl,
    rowKept 22 Seg.uniOne (fun _ _ => ⟨rfl, rfl⟩) rfl⟩

theorem rows15_kept : ∀ r ∈ opcodeRows15, RowKept r := by
  simp only [opcodeRows15, List.forall_mem_cons, List.not_mem_nil, false_imp_iff, implies_true, and_true]
  exact ⟨rowKept 22 Seg.regIdx (fun _ _ => ⟨rfl, rfl⟩) rfl, rowKept 22 Seg.srcImm (fun _ _ => ⟨rfl, rfl⟩) rfl,
    rowKept 22 [.zero 21 1, .bits 15 6, .zero 2 13, .bits 0 2] (fun _ _ => ⟨rfl, rfl⟩) rfl,
    rowKept 22 [.zero 15 7, .bits 8 7, .zero 7 1, .bits 5 2, .bits 1 4, .zero 0 1] (fun _ _ => ⟨rfl, rfl⟩) rfl,
    rowKept 22 [.zero 21 1, .bits 15 6, .bits 8 7, .zero 3 5, .flag 2, .flag 1, .zero 0 1] (fun _ _ => ⟨rfl, rfl⟩) rfl,
    rowKept 22 Seg.regSrc (fun _ _ => ⟨rfl, rfl⟩) rfl,
    rowKept 22 [.zero 21 1, .bits 15 6, .bits 8 7, .zero 3 5, .bits 1 2, .zero 0 1] (fun _ _ => ⟨rfl, rfl⟩) rfl,
    rowKept 22 Seg.regSrc (fun _ _ => ⟨rfl, rfl⟩) rfl, rowKept 22 Seg.reg (fun _ _ => ⟨rfl, rfl⟩) rfl,
    rowKept 22 [.flag 21, .bits 15 6, .bits 8 7, .zero 3 5, .bits 1 2, .flag 0] (fun _ _ => ⟨rfl, rfl⟩) rfl,
    rowKept 22 Seg.srcImm (fun _ _ => ⟨rfl, rfl⟩) rfl, rowKept 22 [.zero 15 7, .bits 0 15] (fun _ _ => ⟨rfl, rfl⟩) rfl⟩

theorem group_kept {g : Nat} {r : OpcodeRow} (h : r ∈ groupRows g) : RowKept r := by
  unfold groupRows at h
  split at h
  · exact rows0_kept r h
  · exact rows1_kept r h
  · exact rows2_kept r h
  · exact rows3_kept r h
  · exact rows4_kept r h
  · exact rows5_kept r h
  · exact rows6_kept r h
  · exact rows7_kept r h
  · exact rows10_kept r h
  · exact rows11_kept r h
  · exact rows15_kept r h
  · exact absurd h List.not_mem_nil

/-- The opcodes without a row are those that the map does not assign. -/
theorem unassigned_of_rowOf : ∀ op < 1024, (rowOf op).isSome = assignedOpcode op := by decide +kernel

/-- Settles O3, row by row: a word is its fields side by side, so that the encoder puts it together again. -/
theorem encodeOfDecode : Obligations.EncodeOfDecode := by
  intro w i h
  unfold decode at h
  split at h
  next hrow =>
    cases h
    have hop : w.toNat / 2 ^ 22 < 1024 := by have := w.isLt; omega
    have hnone := unassigned_of_rowOf _ hop
    rw [hrow] at hnone
    exact ⟨rfl, fun _ _ hne => absurd rfl hne, nofun, nofun, fun _ => hnone.symm⟩
  next r hrow =>
    obtain ⟨hr, hfirst, hlast⟩ := mem_of_findRow hrow
    split at h
    next hclear =>
      dsimp only at h
      split at h
      next hwf =>
        cases h
        refine ⟨hwf, ?_⟩
        obtain henc | ⟨hi, hop⟩ | ⟨hi, hop⟩ := group_kept hr w hfirst hlast hclear
        · refine ⟨fun _ _ _ => henc, fun hi => ?_, fun hi => ?_, fun hi => ?_⟩
          · rw [hi] at henc; cases henc; rfl
          · rw [hi] at henc; cases henc; rfl
          · rw [hi] at henc; cases henc
        · rw [hi]; exact ⟨fun hne => absurd rfl hne, fun _ => hop, nofun, nofun⟩
        · rw [hi]; exact ⟨fun _ hne => absurd rfl hne, nofun, fun _ => hop, nofun⟩
      next => cases h
    next => cases h

/-- Settles O2, format by format: the fields of a word are the values that the encoder put side by side. -/
theorem decodeOfEncode : Obligations.DecodeOfEncode := by
  intro i w hwf hw
  cases i
  case nop | yield | exit | isync | ret | gbar | trig | waitd =>
    exact decode_single Seg.none () hwf hw rfl rfl (fun _ => rfl) rfl
  case brk | trap =>
    exact decode_single [.zero 15 7, .zero 0 15] () hwf hw rfl rfl (fun _ => rfl) rfl
  case tret | getmode =>
    exact decode_single Seg.regFlag (_, _, ()) hwf hw rfl rfl (fun _ => rfl) rfl
  case ovload | ovcall | mtp | ovloadp =>
    exact decode_single Seg.srcImm (_, _, ()) hwf hw rfl rfl (fun _ => rfl) rfl
  case mode | modeM1 | modeBoth =>
    exact decode_single Seg.image (_, ()) hwf hw rfl rfl (fun _ => rfl) rfl
  case modeUniform | launch =>
    exact decode_single Seg.srcSet (_, _, ()) hwf hw rfl rfl (fun _ => rfl) rfl
  case setem | jmpi =>
    exact decode_single Seg.src (_, ()) hwf hw rfl rfl (fun _ => rfl) rfl
  case getem | retv | cseal | wseed | shedack =>
    exact decode_single Seg.reg (_, ()) hwf hw rfl rfl (fun _ => rfl) rfl
  case vote | sseal | iabsU | inegU | popcU | clzU | ctzU | brevU | movU | fabsU | fnegU | fclassU | frndU | frcpU | frsqU |
      fexp2U | flog2U | fsinpU | fcospU | ftanhU =>
    exact decode_single Seg.uniOne (_, _, _, ()) hwf hw rfl rfl (fun _ => rfl) rfl
  case any | all =>
    exact decode_single Seg.predPair (_, _, _, _, ()) hwf hw rfl rfl (fun _ => rfl) rfl
  case gset =>
    exact decode_single [.zero 16 6, .flag 15, .bits 8 7, .bits 1 7, .zero 0 1] (_, _, _, ()) hwf hw rfl rfl (fun _ => rfl) rfl
  case gets =>
    exact decode_single [.flag 21, .bits 15 6, .zero 6 9, .bits 0 6] (_, _, _, ()) hwf hw rfl rfl (fun _ => rfl) rfl
  case pand | por | pxor =>
    exact decode_single Seg.predTwo (_, _, _, _, ()) hwf hw rfl rfl (fun _ => rfl) rfl
  case pnot | pmov =>
    exact decode_single Seg.predOne (_, _, _, ()) hwf hw rfl rfl (fun _ => rfl) rfl
  case bra =>
    exact decode_wide 23 Seg.branch 0 26 (_, _, _, _, ()) hwf hw rfl rfl (fun _ => rfl) rfl rfl rfl
  case brc =>
    exact decode_wide 23 Seg.branch 0 27 (_, _, _, _, ()) hwf hw rfl rfl (fun _ => rfl) rfl rfl rfl
  case brg =>
    exact decode_single [.bits 19 3, .flag 18, .bits 9 9, .bits 0 9] (_, _, _, _, ()) hwf hw rfl rfl (fun _ => rfl) rfl
  case call | lbrk =>
    exact decode_single Seg.jump (_, _, _, ()) hwf hw rfl rfl (fun _ => rfl) rfl
  case callv =>
    exact decode_single [.flag 21, .bits 15 6, .bits 8 7, .zero 0 8] (_, _, _, ()) hwf hw rfl rfl (fun _ => rfl) rfl
  case loop =>
    exact decode_single [.bits 15 7, .bits 0 15] (_, _, ()) hwf hw rfl rfl (fun _ => rfl) rfl
  case cmp =>
    exact decode_wide 28 [.bits 25 3, .bits 22 3, .bits 19 3, .bits 16 3, .zero 15 1, .bits 8 7, .bits 1 7, .flag 0] 1 0 (_, _, _, _, _, _, _, ())
      hwf hw rfl rfl (fun _ => rfl) rfl rfl rfl
  case iadd | isub | iaddc | isubb | imul | imulh | imad | imin | imax | isad | and | or | xor | andn | shl | shr | sar |
      rot | fshl | bfe | bfi | bperm | lea | sel | idot4 | iaddImm | imulImm | iminImm | imaxImm | andImm | orImm | xorImm |
      andnImm | shlImm | shrImm | sarImm | rotImm | leaImm | bfeImm | fadd | fsub | fmul | ffma | fmin | fmax | fscale |
      lget | lflip | lprev | lnext | bcast | lgetImm | lflipImm | lprevImm | lnextImm | bcastImm | lds | claim | barwait |
      rnsmul | rnsadd | wproj =>
    exact decode_single Seg.vecTwo (_, _, _, _, _, ()) hwf hw rfl rfl (fun _ => rfl) rfl
  case iabs | ineg | popc | clz | ctz | brev | mov | fabs | fneg | fclass | frnd | frcp | frsq | fexp2 | flog2 | fsinp |
      fcosp | ftanh | lpeer | bartry | rnsf | rnsr | rnsc | whash =>
    exact decode_single Seg.vecOne (_, _, _, _, ()) hwf hw rfl rfl (fun _ => rfl) rfl
  case lim | limh =>
    exact decode_single Seg.vecImm (_, _, _, ()) hwf hw rfl rfl (fun _ => rfl) rfl
  case cvt =>
    exact decode_single [.flag 21, .bits 15 6, .bits 8 7, .zero 4 4, .bits 1 3, .zero 0 1] (_, _, _, _, ())
      hwf hw rfl rfl (fun _ => rfl) rfl
  case fqblk | fsplit3 =>
    exact decode_single Seg.rowsOne (_, _, _, _, ()) hwf hw rfl rfl (fun _ => rfl) rfl
  case cred =>
    exact decode_single [.flag 21, .bits 15 6, .bits 8 7, .zero 5 3, .bits 1 4, .flag 0] (_, _, _, _, _, ())
      hwf hw rfl rfl (fun _ => rfl) rfl
  case cscan =>
    exact decode_single [.flag 21, .bits 15 6, .bits 8 7, .zero 6 2, .flag 5, .bits 1 4, .flag 0] (_, _, _, _, _, _, ())
      hwf hw rfl rfl (fun _ => rfl) rfl
  case ld =>
    exact decode_wide 24 [.bits 22 2, .flag 21, .bits 15 6, .bits 8 7, .bits 1 7, .flag 0] 4 0 (_, _, _, _, _, _, ())
      hwf hw rfl rfl (fun _ => rfl) rfl rfl rfl
  case st =>
    exact decode_wide 24 Seg.hinted 4 1 (_, _, _, _, _, ()) hwf hw rfl rfl (fun _ => rfl) rfl rfl rfl
  case ldu =>
    exact decode_wide 24 Seg.hinted 4 2 (_, _, _, _, _, ()) hwf hw rfl rfl (fun _ => rfl) rfl rfl rfl
  case stu =>
    exact decode_wide 24 Seg.hinted 4 3 (_, _, _, _, _, ()) hwf hw rfl rfl (fun _ => rfl) rfl rfl rfl
  case sts | barinit | bararr | vselth | iaddU | isubU | iaddcU | isubbU | imulU | imulhU | imadU | iminU | imaxU | isadU |
      andU | orU | xorU | andnU | shlU | shrU | sarU | rotU | fshlU | bfeU | bfiU | bpermU | leaU | selU | idot4U |
      iaddImmU | imulImmU | iminImmU | imaxImmU | andImmU | orImmU | xorImmU | andnImmU | shlImmU | shrImmU | sarImmU |
      rotImmU | leaImmU | bfeImmU | faddU | fsubU | fmulU | ffmaU | fminU | fmaxU | fscaleU =>
    exact decode_single Seg.uniTwo (_, _, _, _, ()) hwf hw rfl rfl (fun _ => rfl) rfl
  case ldq =>
    exact decode_wide 24 Seg.queued 4 6 (_, _, _, _, _, ()) hwf hw rfl rfl (fun _ => rfl) rfl rfl rfl
  case stq =>
    exact decode_wide 24 Seg.queued 4 7 (_, _, _, _, _, ()) hwf hw rfl rfl (fun _ => rfl) rfl rfl rfl
  case atom op nw d a imm m =>
    exact decode_several 26 [.bits 22 4, .flag 21, .bits 15 6, .bits 8 7, .bits 1 7, .flag 0] 5 0 (op, nw, d, a, imm, m, ())
      ((opcode_head rfl rfl op _).trans_le (Nat.add_le_add_left (of_decide_eq_true hwf) 0x140))
      hwf hw rfl rfl (fun _ => rfl) rfl rfl
  case red op d a imm m =>
    exact decode_several 25 [.bits 22 3, .zero 21 1, .bits 15 6, .bits 8 7, .bits 1 7, .flag 0] 5 1 (op, d, a, imm, m, ())
      ((opcode_head rfl rfl op _).trans_le (Nat.add_le_add_left (of_decide_eq_true hwf) 0x150))
      hwf hw rfl rfl (fun _ => rfl) rfl rfl
  case fence =>
    exact decode_single [.zero 6 16, .bits 2 4, .bits 0 2] (_, _, ()) hwf hw rfl rfl (fun _ => rfl) rfl
  case cpy =>
    exact decode_wide 23 Seg.copy 5 4 (_, _, _, _, _, _, ()) hwf hw rfl rfl (fun _ => rfl) rfl rfl rfl
  case tcopy =>
    exact decode_wide 23 Seg.copy 5 5 (_, _, _, _, _, _, ()) hwf hw rfl rfl (fun _ => rfl) rfl rfl rfl
  case cwait | collw | mfp =>
    exact decode_single Seg.regIdx (_, _, ()) hwf hw rfl rfl (fun _ => rfl) rfl
  case cwaitn =>
    exact decode_single [.zero 21 1, .bits 15 6, .zero 6 9, .bits 0 6] (_, _, ()) hwf hw rfl rfl (fun _ => rfl) rfl
  case pref | cinv | cflush =>
    exact decode_single Seg.cache (_, _, _, ()) hwf hw rfl rfl (fun _ => rfl) rfl
  case spbind =>
    exact decode_single [.zero 18 4, .flag 17, .bits 15 2, .bits 8 7, .zero 1 7, .flag 0] (_, _, _, _, ())
      hwf hw rfl rfl (fun _ => rfl) rfl
  case sppos =>
    exact decode_single [.zero 21 1, .bits 15 6, .zero 4 11, .flag 3, .flag 2, .bits 0 2] (_, _, _, _, ())
      hwf hw rfl rfl (fun _ => rfl) rfl
  case wload =>
    exact decode_wide 23 [.flag 22, .flag 21, .bits 18 3, .bits 11 7, .flag 10, .bits 4 6, .zero 0 4] 6 0 (_, _, _, _, _, _, ())
      hwf hw rfl rfl (fun _ => rfl) rfl rfl rfl
  case qmma =>
    exact decode_wide 23 Seg.matrix 6 1 (_, _, _, _, _, _, _, ()) hwf hw rfl rfl (fun _ => rfl) rfl rfl rfl
  case qmmar =>
    exact decode_wide 23 Seg.matrix 6 2 (_, _, _, _, _, _, _, ()) hwf hw rfl rfl (fun _ => rfl) rfl rfl rfl
  case accz =>
    exact decode_single [.flag 21, .bits 18 3, .zero 11 7, .flag 10, .zero 4 6, .bits 0 4] (_, _, _, _, ())
      hwf hw rfl rfl (fun _ => rfl) rfl
  case accld | accst =>
    exact decode_single Seg.tileMove (_, _, _, _, _, _, ()) hwf hw rfl rfl (fun _ => rfl) rfl
  case twait =>
    exact decode_single [.zero 21 1, .bits 15 6, .zero 6 9, .flag 5, .flag 4, .bits 0 4] (_, _, _, _, ())
      hwf hw rfl rfl (fun _ => rfl) rfl
  case wfree =>
    exact decode_single [.flag 21, .bits 18 3, .zero 10 8, .bits 4 6, .zero 0 4] (_, _, _, ()) hwf hw rfl rfl (fun _ => rfl) rfl
  case accrd =>
    exact decode_single [.flag 21, .bits 15 6, .zero 13 2, .flag 12, .bits 8 4, .bits 1 7, .flag 0] (_, _, _, _, _, _, ())
      hwf hw rfl rfl (fun _ => rfl) rfl
  case vsort | sopen =>
    exact decode_single Seg.regFlags (_, _, _, _, ()) hwf hw rfl rfl (fun _ => rfl) rfl
  case vmerge =>
    exact decode_single [.zero 21 1, .bits 15 6, .bits 8 7, .zero 3 5, .flag 2, .flag 1, .flag 0] (_, _, _, _, _, ())
      hwf hw rfl rfl (fun _ => rfl) rfl
  case vtopk =>
    exact decode_single [.zero 21 1, .bits 15 6, .bits 8 7, .flag 7, .bits 1 6, .flag 0] (_, _, _, _, _, ())
      hwf hw rfl rfl (fun _ => rfl) rfl
  case wput =>
    exact decode_single [.zero 15 7, .bits 8 7, .zero 5 3, .bits 1 4, .flag 0] (_, _, _, ()) hwf hw rfl rfl (fun _ => rfl) rfl
  case coll =>
    exact decode_single [.flag 21, .bits 18 3, .bits 11 7, .zero 4 7, .bits 0 4] (_, _, _, _, ())
      hwf hw rfl rfl (fun _ => rfl) rfl
  case limU | limhU =>
    exact decode_single Seg.uniImm (_, _, ()) hwf hw rfl rfl (fun _ => rfl) rfl
  case cvtU =>
    exact decode_single [.zero 21 1, .bits 15 6, .bits 8 7, .zero 4 4, .bits 1 3, .zero 0 1] (_, _, _, ())
      hwf hw rfl rfl (fun _ => rfl) rfl
  case eret =>
    exact decode_single [.zero 21 1, .bits 15 6, .zero 2 13, .bits 0 2] (_, _, ()) hwf hw rfl rfl (fun _ => rfl) rfl
  case tlbinv =>
    exact decode_single [.zero 15 7, .bits 8 7, .zero 7 1, .bits 5 2, .bits 1 4, .zero 0 1] (_, _, _, ())
      hwf hw rfl rfl (fun _ => rfl) rfl
  case ctxsave =>
    exact decode_single [.zero 21 1, .bits 15 6, .bits 8 7, .zero 3 5, .flag 2, .flag 1, .zero 0 1] (_, _, _, _, ())
      hwf hw rfl rfl (fun _ => rfl) rfl
  case ctxload | unpark =>
    exact decode_single Seg.regSrc (_, _, ()) hwf hw rfl rfl (fun _ => rfl) rfl
  case park =>
    exact decode_single [.zero 21 1, .bits 15 6, .bits 8 7, .zero 3 5, .bits 1 2, .zero 0 1] (_, _, _, ())
      hwf hw rfl rfl (fun _ => rfl) rfl
  case declass =>
    exact decode_single [.flag 21, .bits 15 6, .bits 8 7, .zero 3 5, .bits 1 2, .flag 0] (_, _, _, _, _, ())
      hwf hw rfl rfl (fun _ => rfl) rfl
  case halt =>
    exact decode_single [.zero 15 7, .bits 0 15] (_, ()) hwf hw rfl rfl (fun _ => rfl) rfl
  all_goals cases hw

end Sys2Proof
end

section
/-! SUPPORT. Instructions that change their stream and go on. -/

namespace Sys2Proof.Machine

/-- An instruction that changes fields of its stream which no completion looks at, and then goes on. -/
theorem run_upd {s : State} {r : Nat} {g : Nat → Except Stop State} {f e : Stream → Stream} {c : Cls} {reads lines : Nat}
    (h : s.inHand r) (hg : g r = .ok ((s.updStream r f).complete r c reads lines))
    (hpc : (f (s.stream r)).pc = (s.stream r).pc) (hloops : (f (s.stream r)).loops = (s.stream r).loops)
    (he : e (f (s.stream r)) = e (s.stream r)) (hcore : ∀ u v : Stream, u.core = v.core → e u = e v) :
    ∃ t, run s g = .next t ∧ (t.stream r).core = (f (s.stream r)).core ∧ WentOn s t r ∧ t.crews = s.crews ∧ OnlyStream s t r e :=
  ⟨_, run_next h hg, upd_complete c reads lines hpc hloops he hcore⟩

theorem creg_of_core {u v : Stream} (h : u.core = v.core) (n : Nat) : u.creg n = v.creg n := by
  have hc : u.c = v.c := (congrArg Stream.c h :)
  simp only [Stream.creg, hc]

/-- What a uniform register reads after a write. -/
theorem Stream.creg_setC (t : Stream) (n k : Nat) (x : LV) : (t.setC n x).creg k = if k = n then x else t.creg k := by
  by_cases h : k = n
  · subst h; simp [Stream.creg, Stream.setC, Stream.cleanBank]
  · simp [Stream.creg, Stream.setC, Stream.cleanBank, h, Tab.get_put_other _ _ _ h]

/-- A write to a uniform register of a stream whose register bank holds no error changes the uniform registers alone. -/
theorem Stream.setC_bank (t : Stream) (n : Nat) (x : LV) (hb : t.regBad = []) : t.setC n x = { t with c := Tab.put n x t.c } := by
  simp [Stream.setC, Stream.cleanBank, hb]

/-- An instruction that writes a 32-bit result to a uniform register. -/
theorem toUniform_completes {s : State} {r d : Nat} {g : Nat → Except Stop State} {c : Cls} {reads : Nat} {x : Word} {l : Label}
    (h : s.inHand r) (hd : d < 32) (hg : g r = s.toUniform r c d reads x l) :
    ∃ t, run s g = .next t ∧ (∀ n, (t.stream r).creg n = if n = d then ⟨x, l⟩ else (s.stream r).creg n) ∧
      WentOn s t r ∧ t.crews = s.crews ∧ OnlyStream s t r Stream.lessUni := by
  have ⟨_, _, hbank⟩ := h
  have hset := (s.stream r).setC_bank d ⟨x, l⟩ hbank
  obtain ⟨t, ht, hcore, hon, hcrews, honly⟩ := run_upd (g := g) (f := fun t => t.setC d ⟨x, l⟩) (e := Stream.lessUni) (c := c)
    (reads := reads) (lines := 0) h (by simp only [hg, State.toUniform, need, decide_eq_true hd]; rfl) (by rw [hset]) (by rw [hset]) (by rw [hset]; rfl)
    lessUni_core
  exact ⟨t, ht, fun n => by rw [creg_of_core hcore, Stream.creg_setC], hon, hcrews, honly⟩

/-- A predicate write to a stream whose register bank holds no error leaves the bank so. -/
theorem putP_regBad (t : Stream) (n : Nat) (lanes val : Word) (l : Label) (hb : t.regBad = []) :
    (t.putP n lanes val l).regBad = [] := by
  obtain ⟨p, h⟩ := putP_none t n lanes val l hb
  rw [h]
  exact hb

/-- An instruction that writes a predicate and goes on. -/
theorem putP_completes {s : State} {r n : Nat} {i : Instr} {g : Nat → Except Stop State} {lanes val : Word} {l : Label}
    (h : s.inHand r) (hi : exec i s = run s g)
    (hg : g r = .ok ((s.updStream r fun t => t.putP n lanes val l).complete r .control 0 0)) :
    ∃ t, exec i s = .next t ∧ (∀ k, (t.stream r).preg k = predSet (s.stream r).preg n lanes val l k) ∧
      WentOn s t r ∧ t.crews = s.crews ∧ OnlyStream s t r Stream.lessPred := by
  have ⟨_, _, hbank⟩ := h
  obtain ⟨hpc, hloops, hless⟩ := putP_keeps (s.stream r) n lanes val l hbank
  obtain ⟨t, ht, hcore, hrest⟩ := run_upd h hg hpc hloops hless lessPred_core
  exact ⟨t, hi.trans ht, fun k => by rw [preg_of_core hcore, putP_preg], hrest⟩

theorem putP_twice_keeps (t : Stream) (n k : Nat) (lanes x y : Word) (l : Label) (hb : t.regBad = []) :
    let u := (t.putP n lanes x l).putP k lanes y l
    u.pc = t.pc ∧ u.loops = t.loops ∧ u.lessPred = t.lessPred := by
  obtain ⟨hpc, hloops, hless⟩ := putP_keeps t n lanes x l hb
  obtain ⟨hpc', hloops', hless'⟩ := putP_keeps (t.putP n lanes x l) k lanes y l (putP_regBad t n lanes x l hb)
  exact ⟨hpc'.trans hpc, hloops'.trans hloops, hless'.trans hless⟩

theorem putP_twice_preg (t : Stream) (n k : Nat) (lanes x y : Word) (l : Label) (i : Nat) :
    ((t.putP n lanes x l).putP k lanes y l).preg i = predSet (predSet t.preg n lanes x l) k lanes y l i := by
  rw [putP_preg, show (t.putP n lanes x l).preg = predSet t.preg n lanes x l from funext (putP_preg t n lanes x l)]

end Sys2Proof.Machine
end

section
/-! Predicate logic, ANY and ALL (06 R145, R166). -/

namespace Sys2Proof.Machine

theorem predOf_ok {s : State} {r : Nat} {a : BitVec 7} (ha : a.toNat < 8) : predOf s r a = .ok a.toNat := by
  simp only [predOf, need, decide_eq_true ha]
  rfl

/-- ANY and ALL write one bit and its inverse to the lanes of EM. -/
theorem anyAll_completes {s : State} {r : Nat} {i : Instr} {all : Bool} {x y : BitVec 3} {a : BitVec 7} {m b : Bool} (h : s.inHand r)
    (ha : a.toNat < 8) (hi : exec i s = run s fun r => s.anyAll r all x y a m)
    (hb : b = if all then (s.stream r).active m &&& ((s.stream r).preg a.toNat).v == (s.stream r).active m
      else (s.stream r).active m &&& ((s.stream r).preg a.toNat).v != 0) :
    let lab := Label.join ((s.stream r).preg a.toNat).l ((s.stream r).guardLabel m)
    ∃ t, exec i s = .next t ∧
      (∀ n, (t.stream r).preg n = predSet (predSet (s.stream r).preg x.toNat (s.stream r).em (allLanes b) lab) y.toNat
        (s.stream r).em (allLanes !b) lab n) ∧
      WentOn s t r ∧ t.crews = s.crews ∧ OnlyStream s t r Stream.lessPred := by
  intro lab
  have ⟨_, _, hbank⟩ := h
  obtain ⟨hpc, hloops, hless⟩ :=
    putP_twice_keeps (s.stream r) x.toNat y.toNat (s.stream r).em (allLanes b) (allLanes !b) lab hbank
  obtain ⟨t, ht, hcore, hrest⟩ := run_upd (g := fun r => s.anyAll r all x y a m) (c := .control) (reads := 0) (lines := 0)
    (f := fun t => (t.putP x.toNat t.em (allLanes b) lab).putP y.toNat t.em (allLanes !b) lab) h
    (by simp only [State.anyAll, predOf_ok ha, bind, Except.bind, ← hb]; rfl) hpc hloops hless lessPred_core
  exact ⟨t, hi.trans ht, fun n => by rw [preg_of_core hcore, putP_twice_preg], hrest⟩

/-- Settles O14: each predicate instruction is one write of a predicate in the enabled lanes; ANY and ALL are two. -/
theorem predicateInstructionsCompute : Obligations.PredicateInstructionsCompute := by
  intro s r d x y a m h
  exact ⟨putP_completes (g := fun r => s.predLogic r m d [x, y] fun xs => xs.getD 0 0 &&& xs.getD 1 0) h rfl rfl,
    putP_completes (g := fun r => s.predLogic r m d [x, y] fun xs => xs.getD 0 0 ||| xs.getD 1 0) h rfl rfl,
    putP_completes (g := fun r => s.predLogic r m d [x, y] fun xs => xs.getD 0 0 ^^^ xs.getD 1 0) h rfl rfl,
    putP_completes (g := fun r => s.predLogic r m d [x] fun xs => ~~~(xs.getD 0 0)) h rfl rfl,
    putP_completes (g := fun r => s.predLogic r m d [x] fun xs => xs.getD 0 0) h rfl rfl,
    fun ha => ⟨anyAll_completes (all := false) h ha rfl rfl, anyAll_completes (all := true) h ha rfl rfl⟩⟩

end Sys2Proof.Machine
end

section
/-! VOTE, mode reads and guard slots (06 R143 to R145, R162). -/

namespace Sys2Proof.Machine

/-- A slot of a stream with nothing queued is set, and nothing else happens. -/
theorem wakeHeld_idle {s : State} {r : Nat} (hcopy : (s.stream r).copyQ = []) (hmx : (s.stream r).mxQ = [])
    (hcolls : ∀ c ∈ s.colls, c.stream ≠ r) : s.wakeHeld r = s := by
  have hfilter : s.colls.filter (·.stream == r) = [] := List.filter_eq_nil_iff.mpr fun c hc => by simp [hcolls c hc]
  have hwake : s.wakeCopies r = s := by simp [State.wakeCopies, hcopy]
  simp only [State.wakeHeld, hwake, hmx, List.length_nil, State.wakeMx, State.wakeColls, hfilter, List.foldl_nil]

theorem guard_of_core {u v : Stream} (h : u.core = v.core) (n : Nat) : u.guard n = v.guard n := by
  have hg : u.guards = v.guards := (congrArg Stream.guards h :)
  simp only [Stream.guard, hg]

/-- An instruction that writes a guard slot and goes on. -/
theorem guard_completes {s : State} {r n : Nat} {g : Nat → Except Stop State} {x : Guard} (h : s.inHand r)
    (hg : g r = .ok ((s.updStream r fun t => { t with guards := Tab.set .unset t.guards n x }).complete r .control 0 0)) :
    ∃ t, run s g = .next t ∧ (∀ k, (t.stream r).guard k = if k = n then x else (s.stream r).guard k) ∧
      WentOn s t r ∧ t.crews = s.crews ∧ OnlyStream s t r (fun v => { v.core with guards := [] }) := by
  obtain ⟨t, ht, hcore, hrest⟩ := run_upd (e := fun v => { v.core with guards := [] }) h hg rfl rfl rfl fun _ _ h => by rw [h]
  exact ⟨t, ht, fun k => (guard_of_core hcore k).trans (Tab.get_set _ _ _ _ _), hrest⟩

/-- Settles O15: three writes of a uniform register, and writes of a guard slot, after which a stream with nothing queued
has nothing to wake. -/
theorem votesGuardsAndModeReads : Obligations.VotesGuardsAndModeReads := by
  intro s r d a b m h
  refine ⟨fun hd => ⟨fun ha => ?vote, toUniform_completes h hd rfl, toUniform_completes h hd rfl⟩,
    fun ha => ⟨?unset, fun hb => ⟨?gset, fun hcopy hmx hcolls => ?idle⟩⟩⟩
  case vote => exact toUniform_completes h hd (by simp only [predOf_ok ha]; rfl)
  case unset => exact guard_completes h (by simp only [predOf_ok ha]; rfl)
  case gset => exact ⟨_, run_next h (by simp only [predOf_ok ha, predOf_ok hb]; rfl)⟩
  case idle =>
    refine guard_completes h ?_
    simp only [predOf_ok ha, predOf_ok hb, bind, Except.bind, Bool.false_eq_true, if_false]
    refine congrArg (fun s' : State => Except.ok (s'.complete r .control 0 0)) (wakeHeld_idle ?_ ?_ hcolls)
    · exact (congrArg Stream.copyQ (s.stream_setStream r _)).trans hcopy
    · exact (congrArg Stream.mxQ (s.stream_setStream r _)).trans hmx

end Sys2Proof.Machine
end

section
/-! MODE and SETEM (06 R142, R144). -/

namespace Sys2Proof.Machine

theorem writeMode_illegal {s : State} {r image reads : Nat} {sets : List Bool} (h : modeImageOk image = false) :
    s.writeMode r image sets reads = .error (s.illegal r 2) := by
  simp only [State.writeMode, need, h]
  rfl

/-- A legal image goes to the sets named. -/
theorem writeMode_completes {s : State} {r image reads : Nat} {sets : List Bool} {g : Nat → Except Stop State} {zero one : Word}
    (h : s.inHand r) (hok : modeImageOk image = true) (hg : g r = s.writeMode r image sets reads)
    (hsets : sets.foldl (fun t m => t.setMode m (w32 image)) (s.stream r) = { s.stream r with mode0 := zero, mode1 := one }) :
    ∃ t, run s g = .next t ∧ (t.stream r).mode0 = zero ∧ (t.stream r).mode1 = one ∧
      WentOn s t r ∧ t.crews = s.crews ∧ OnlyStream s t r (fun v => { v.core with mode0 := 0, mode1 := 0 }) := by
  obtain ⟨t, ht, hcore, hrest⟩ := run_upd (g := g) (e := fun v => { v.core with mode0 := 0, mode1 := 0 }) (c := .control)
    (reads := reads) (f := fun t => sets.foldl (fun t m => t.setMode m (w32 image)) t) (lines := 0) h
    (by simp only [hg, State.writeMode, need, hok]; rfl) (by rw [hsets]) (by rw [hsets]) (by rw [hsets]; rfl) fun _ _ h => by rw [h]
  rw [hsets] at hcore
  exact ⟨t, ht, (congrArg Stream.mode0 hcore :), (congrArg Stream.mode1 hcore :), hrest⟩

/-- A source that is neither z nor a uniform register may not stand where one is read. -/
theorem srcFault_notUniform {s : State} {r : Nat} {a : BitVec 7} (h : a.toNat < 72 ∨ 72 < a.toNat ∧ a.toNat < 80 ∨ 112 ≤ a.toNat) :
    ∃ sub ∈ [1, 3], s.srcFault r { f := a.toNat, allow := .uni } = some sub := by
  have hsrc : srcOf a.toNat ≠ .z ∧ ∀ n, srcOf a.toNat ≠ .c n := by
    unfold srcOf
    refine ⟨?_, fun n => ?_⟩ <;> split_ifs <;> simp <;> omega
  cases hc : srcOf a.toNat with
  | z => exact absurd hc hsrc.1
  | c n => exact absurd hc (hsrc.2 n)
  | q n => cases hq : s.mayQueue r <;> simp [State.srcFault, hc, hq]
  | v n => simp [State.srcFault, hc]
  | t n => simp [State.srcFault, hc]
  | l n => simp [State.srcFault, hc]
  | bad => simp [State.srcFault, hc]

/-- Settles O16: MODE checks its image and writes sets of one list; SETEM is one write of EM. -/
theorem modeAndMaskWrites : Obligations.ModeAndMaskWrites := by
  intro s r image a m h
  have ⟨_, _, hbank⟩ := h
  refine ⟨fun hok => ⟨writeMode_completes h hok rfl rfl, writeMode_completes h hok rfl rfl, writeMode_completes h hok rfl rfl⟩,
    fun hbad i hi => ?illegal, fun ha => ?source, fun hr => ⟨fun hbad => ?badImage, fun hok => ?uniform, ?setem⟩⟩
  case illegal =>
    obtain rfl | rfl | rfl : i = .mode image ∨ i = .modeM1 image ∨ i = .modeBoth image := by simpa using hi
    all_goals exact run_trap h (writeMode_illegal hbad)
  case source =>
    obtain ⟨sub, hsub, hfault⟩ := srcFault_notUniform (s := s) (r := r) ha
    refine ⟨sub, hsub, run_trap h ?_⟩
    simp only [State.uniform, State.peek, List.findSome?, hfault]
    rfl
  all_goals obtain ⟨p, hp, hst, hval⟩ := uniform_readable h hr
  case badImage =>
    refine run_trap h ?_
    simp only [hp, hst, hval, bind, Except.bind, writeMode_illegal hbad]
    rfl
  case uniform =>
    refine writeMode_completes (reads := p.regs) (sets := [m]) h hok ?_ (by cases m <;> rfl)
    simp only [hp, hst, hval, bind, Except.bind]
  case setem =>
    obtain ⟨t, ht, hcore, hrest⟩ := run_upd (e := fun v => { v.core with em := 0 }) (c := .control) (reads := p.regs) (lines := 0)
      (f := fun t => { t with em := w32 (s.operand r { f := a.toNat, allow := .uni } 0) &&& t.live }) h
      (g := fun r => do
        let p ← s.uniform r a.toNat false
        return (p.st.updStream r fun t => { t with em := w32 (p.val 0 0) &&& t.live }).complete r .control p.regs 0)
      (by simp only [hp, hst, hval, bind, Except.bind]; rfl) rfl rfl rfl fun _ _ h => by rw [h]
    exact ⟨t, ht, (congrArg Stream.em hcore :), hrest⟩

end Sys2Proof.Machine
end

section
/-! Vector instructions as rows (06 R167 to R177, 07 R180 to R193): each instruction runs the row that the table gives it. -/

namespace Sys2Proof.Machine

/-! The operations of an element, in the words of the table. -/

theorem opArith_min : opArith .min = fun ty sat a b _ => narrow ty sat (min (intVal ty a) (intVal ty b)) := by
  funext ty sat a b o
  rw [Int.min_def]
  rfl

theorem opArith_max : opArith .max = fun ty sat a b _ => narrow ty sat (max (intVal ty a) (intVal ty b)) := by
  funext ty sat a b o
  rw [Int.max_def]
  rfl

theorem immArith_min (imm : BitVec 7) :
    immArith .min imm = fun ty sat a _ _ => narrow ty sat (min (intVal ty a) (signed 7 imm.toNat)) := by
  funext ty sat a b o
  rw [Int.min_def]
  rfl

theorem immArith_max (imm : BitVec 7) :
    immArith .max imm = fun ty sat a _ _ => narrow ty sat (max (intVal ty a) (signed 7 imm.toNat)) := by
  funext ty sat a b o
  rw [Int.max_def]
  rfl

theorem opAbs_eq : opAbs = fun ty sat a _ _ => narrow ty sat |intVal ty a| := by
  funext ty sat a b o
  rw [Int.abs_eq_natAbs]
  rfl

theorem opSad_eq : opSad = fun ty sat a b o => narrow ty sat (|intVal ty a - intVal ty b| + intVal ty o) := by
  funext ty sat a b o
  rw [Int.abs_eq_natAbs]
  rfl

theorem opLogic_and : opLogic .and = fun ty _ a b _ => (a &&& b) % 2 ^ typeWidth ty := by
  funext ty sat a b o
  exact Nat.and_mod_two_pow.symm

theorem opLogic_or : opLogic .or = fun ty _ a b _ => (a ||| b) % 2 ^ typeWidth ty := by
  funext ty sat a b o
  exact Nat.or_mod_two_pow.symm

theorem opLogic_xor : opLogic .xor = fun ty _ a b _ => (a ^^^ b) % 2 ^ typeWidth ty := by
  funext ty sat a b o
  exact Nat.xor_mod_two_pow.symm

/-! What it is to run a row. -/

/-- An execution runs a row: a TYPE or field that the row does not allow is an illegal instruction, and otherwise it is the
row's computation. -/
def AluRow.runs (x : AluRow) (s : State) (r : Nat) (res : Except Stop State) : Prop :=
  (x.ok = false → ∃ sub ∈ [1, 2, 3], res = .error (s.illegal r sub)) ∧
  (x.ok = true → res = s.aluMask r x.cls x.mask x.lab x.dst x.srcs x.draws x.val)

theorem need_true (s : State) (r sub : Nat) : need s r sub true = .ok () := rfl
theorem need_false (s : State) (r sub : Nat) : need s r sub false = .error (s.illegal r sub) := rfl

theorem typeIn_ok {s : State} {r : Nat} {m : Bool} {ok : Nat → Bool} (h : ok (modeTYPE ((s.stream r).mode m)) = true) :
    s.typeIn r m ok = .ok (modeTYPE ((s.stream r).mode m)) := if_pos h

theorem typeIn_illegal {s : State} {r : Nat} {m : Bool} {ok : Nat → Bool} (h : ok (modeTYPE ((s.stream r).mode m)) = false) :
    s.typeIn r m ok = .error (s.illegal r 2) := if_neg (by simp [h])

theorem needReg_ok {s : State} {r n : Nat} (h : n < 56) : needReg s r n = .ok () := by
  simp only [needReg, need, decide_eq_true h, if_true]

/-- A field that names no register where one must stand. -/
theorem needReg_illegal {s : State} {r n : Nat} (h : ¬n < 56) : ∃ sub ∈ [1, 2, 3], needReg s r n = .error (s.illegal r sub) := by
  simp only [needReg, need, h, decide_false, Bool.false_eq_true, if_false]
  exact ⟨_, by split <;> simp, rfl⟩

theorem needWork_ok {s : State} {r : Nat} (h : s.workOk r) : needWork s r = .ok () := by
  simp only [needWork, need, h, if_true]

/-- A TYPE checked before a row's computation. -/
theorem typed_runs {x : AluRow} {s : State} {r : Nat} {m k : Bool} {ok : Nat → Bool} {g : Nat → Except Stop State}
    (hok : x.ok = (ok (modeTYPE ((s.stream r).mode m)) && k))
    (hg : ({ x with ok := k } : AluRow).runs s r (g (modeTYPE ((s.stream r).mode m)))) : x.runs s r (s.typeIn r m ok >>= g) := by
  cases hty : ok (modeTYPE ((s.stream r).mode m)) <;> rw [hty] at hok
  · rw [typeIn_illegal hty]
    exact ⟨fun _ => ⟨2, by simp, rfl⟩, fun h => absurd (hok.symm.trans h) (by simp)⟩
  · rw [typeIn_ok hty]
    rw [Bool.true_and] at hok
    exact ⟨fun h => hg.1 (hok ▸ h), fun h => hg.2 (hok ▸ h)⟩

/-- A row that reads its old destination wants a register there. -/
theorem alu_runs (s : State) (r : Nat) (c : Cls) (m : Bool) (dst : Dst) (old : Bool) (srcs : List Want) (f : List Nat → Nat) :
    AluRow.runs { cls := c, ok := !old || decide (dst.n < 56), mask := (s.stream r).active m, lab := (s.stream r).guardLabel m, dst,
                  srcs := srcs ++ if old then [{ f := dst.n, wide := dst.wide }] else [], val := fun _ xs _ => (f xs, 0) }
      s r (s.alu r c m dst old srcs f) := by
  unfold State.alu
  cases old with
  | false => exact ⟨fun h => (nomatch h), fun _ => by simp⟩
  | true =>
    by_cases hn : dst.n < 56
    · rw [needReg_ok hn]
      exact ⟨fun h => by simp [hn] at h, fun _ => rfl⟩
    · obtain ⟨sub, hsub, hbad⟩ := needReg_illegal (s := s) (r := r) hn
      rw [hbad]
      exact ⟨fun _ => ⟨sub, hsub, rfl⟩, fun h => by simp [hn] at h⟩

theorem intOp_runs {f g : ElemOp} (hf : f = g) (s : State) (r : Nat) (ok : Nat → Bool) (m nw : Bool) (d : BitVec 6) (a : BitVec 7)
    (b : Option (BitVec 7)) (old : Bool) :
    (intRow (s.stream r) ok m nw d a b old g).runs s r (s.intOp r ok m nw d a b old f) := by
  subst hf
  have h (ty : Nat) := alu_runs s r .control m { n := d.toNat, wide := typeWidth ty == 64, nw } old
    (rowWants (typeWidth ty == 64) a b (typeWidth ty == 64) none) (elementwise ty (modeSAT ((s.stream r).mode m)) b.isSome f)
  refine typed_runs rfl ?_
  cases b <;> cases old <;> exact h _

/-- BPERM and IDOT4: a TYPE checked, and whole 32-bit registers. -/
theorem word_runs (s : State) (r : Nat) (ok : Nat → Bool) (m nw : Bool) (d : BitVec 6) (srcs : List Want) (old : Bool)
    (f : List Nat → Nat) (g : Nat → Except Stop State)
    (hg : g (modeTYPE ((s.stream r).mode m)) = s.alu r .control m { n := d.toNat, nw } old srcs f) :
    (wordRow (s.stream r) ok m nw d srcs old f).runs s r (s.typeIn r m ok >>= g) := by
  refine typed_runs rfl ?_
  rw [hg]
  exact alu_runs s r .control m { n := d.toNat, nw } old srcs f

theorem leaOp_runs (s : State) (r : Nat) (m nw : Bool) (d : BitVec 6) (a b : BitVec 7) (imm : Int) :
    (leaRow (s.stream r) m nw d [{ f := a.toNat, wide := true }, { f := b.toNat }] fun xs => signed 32 (xs.getD 1 0)).runs s r
      (s.leaOp r m nw d a (some b) imm) :=
  typed_runs rfl (alu_runs s r .control m { n := d.toNat, wide := true, nw } false _ _)

theorem leaOp_imm_runs (s : State) (r : Nat) (m nw : Bool) (d : BitVec 6) (a : BitVec 7) (imm : Int) :
    (leaRow (s.stream r) m nw d [{ f := a.toNat, wide := true }] fun _ => imm).runs s r (s.leaOp r m nw d a none imm) :=
  typed_runs rfl (alu_runs s r .control m { n := d.toNat, wide := true, nw } false _ _)

theorem selOp_runs (s : State) (r : Nat) (m nw : Bool) (d : BitVec 6) (a b : BitVec 7) :
    (selRow (s.stream r) m nw d a b).runs s r (s.selOp r m nw d a b) :=
  ⟨fun h => (nomatch h), fun _ => rfl⟩

theorem floatOp_runs {s : State} {r : Nat} (hw : s.workOk r) (ok : Nat → Bool) (m nw : Bool) (d : BitVec 6) (a : BitVec 7)
    (b : Option (BitVec 7)) (scale old draws : Bool) (f : FloatOp) :
    (floatRow (s.stream r) ok m nw d a b scale old draws f).runs s r (s.floatOp r ok m nw d a b scale old draws f) := by
  unfold State.floatOp
  rw [needWork_ok hw]
  refine typed_runs (k := !old || decide (d.toNat < 56)) rfl ?_
  cases old with
  | false => cases b <;> exact ⟨fun h => (nomatch h), fun _ => rfl⟩
  | true =>
    dsimp only
    by_cases hn : d.toNat < 56
    · rw [needReg_ok hn]
      cases b <;> exact ⟨fun h => by simp [hn] at h, fun _ => rfl⟩
    · obtain ⟨sub, hsub, hbad⟩ := needReg_illegal (s := s) (r := r) hn
      rw [hbad]
      exact ⟨fun _ => ⟨sub, hsub, rfl⟩, fun h => by simp [hn] at h⟩

theorem cvtOp_runs {s : State} {r : Nat} (hw : s.workOk r) (nw : Bool) (d : BitVec 6) (a : BitVec 7) (part : BitVec 3) :
    (cvtRow (s.stream r) nw d a part).runs s r (s.cvtOp r nw d a part) := by
  unfold State.cvtOp
  rw [needWork_ok hw]
  cases hok : partOk (modeTYPE (s.stream r).mode0) (modeTYPE (s.stream r).mode1) part.toNat
  · simp only [hok, need_false, bind, Except.bind]
    exact ⟨fun _ => ⟨3, by simp, rfl⟩, fun h => (nomatch hok.symm.trans h)⟩
  · simp only [hok, need_true, bind, Except.bind]
    exact ⟨fun h => (nomatch hok.symm.trans h), fun _ => rfl⟩

theorem run_illegal {s : State} {r sub : Nat} {g : Nat → Except Stop State} (hcur : s.cur = some r)
    (hlive : (Tab.find r s.streams).isSome = true) (hg : g r = .error (s.illegal r sub)) :
    run s g = .next (s.takeTrap r (s.illegalTrap r sub)) := by
  obtain ⟨u, hu⟩ := Option.isSome_iff_exists.mp hlive
  simp only [run, hcur, hu, hg]
  rfl

/-- Each instruction of the table runs its row. -/
theorem aluRow_runs {s : State} {r : Nat} {i : Instr} {x : AluRow} (hx : aluRow (s.stream r) i = some x) (hwf : i.wf = true)
    (hwork : x.work = true → s.workOk r) : ∃ g, exec i s = run s g ∧ x.runs s r (g r) := by
  cases i with
  | iadd | isub | imul | imulh | imad | ineg | andn | shl | shr | sar | rot | fshl | bfe | bfi | popc | clz | ctz | brev | mov
  | iaddImm | imulImm | andImm | orImm | xorImm | andnImm | shlImm | shrImm | sarImm | rotImm =>
    cases hx
    exact ⟨_, rfl, intOp_runs rfl ..⟩
  | imin => cases hx; exact ⟨_, rfl, intOp_runs opArith_min ..⟩
  | imax => cases hx; exact ⟨_, rfl, intOp_runs opArith_max ..⟩
  | iabs => cases hx; exact ⟨_, rfl, intOp_runs opAbs_eq ..⟩
  | isad => cases hx; exact ⟨_, rfl, intOp_runs opSad_eq ..⟩
  | and => cases hx; exact ⟨_, rfl, intOp_runs opLogic_and ..⟩
  | or => cases hx; exact ⟨_, rfl, intOp_runs opLogic_or ..⟩
  | xor => cases hx; exact ⟨_, rfl, intOp_runs opLogic_xor ..⟩
  | iminImm => cases hx; exact ⟨_, rfl, intOp_runs (immArith_min _) ..⟩
  | imaxImm => cases hx; exact ⟨_, rfl, intOp_runs (immArith_max _) ..⟩
  | bfeImm nw d a imm m =>
    cases hx
    have h6 : need s r 0 (decide (imm.toNat < 64)) = .ok () := congrArg (need s r 0) hwf
    refine ⟨_, rfl, ?_⟩
    rw [h6]
    exact intOp_runs rfl ..
  | bperm | idot4 =>
    cases hx
    exact ⟨_, rfl, word_runs (hg := rfl) ..⟩
  | lea =>
    cases hx
    exact ⟨_, rfl, leaOp_runs ..⟩
  | leaImm =>
    cases hx
    exact ⟨_, rfl, leaOp_imm_runs ..⟩
  | sel =>
    cases hx
    exact ⟨_, rfl, selOp_runs ..⟩
  | lim nw d imm => cases hx; exact ⟨_, rfl, alu_runs s r .control false { n := d.toNat, nw } false [] _⟩
  | limh nw d imm => cases hx; exact ⟨_, rfl, alu_runs s r .control false { n := d.toNat, nw } true [] _⟩
  | fadd | fsub | fmul | ffma | fmin | fmax | fabs | fneg | fclass | frnd | fscale | frcp | frsq | fexp2 | flog2 | fsinp | fcosp
  | ftanh =>
    cases hx
    exact ⟨_, rfl, floatOp_runs (hwork rfl) ..⟩
  | cvt =>
    cases hx
    exact ⟨_, rfl, cvtOp_runs (hwork rfl) ..⟩
  | _ => cases hx

/-- A lane's generator after the generators of some lanes were set. -/
theorem Stream.genLane_setGen (t : Stream) (mask : Word) (f : Nat → Word) {k : Nat} (hk : k < 32) :
    (t.setGen mask f).genLane k = if inMask mask k = true then f k else t.genLane k := by
  simp [Stream.genLane, Stream.setGen, List.getD_eq_getElem?_getD, hk]

/-- Settles O7: each instruction runs its row, and what a row does is what a masked vector computation does. -/
theorem vectorInstructionsCompute : Obligations.VectorInstructionsCompute := by
  intro s r i x hcur hlive hx hwf hwork
  obtain ⟨g, hexec, hillegal, hruns⟩ := aluRow_runs hx hwf hwork
  rw [hexec]
  refine ⟨fun hok => ?illegal, fun hok hread hcons n hn => ?poisoned, fun hok hread hbank => ?computes⟩
  case illegal =>
    obtain ⟨sub, hsub, hbad⟩ := hillegal hok
    exact ⟨sub, hsub, run_illegal hcur hlive hbad⟩
  case poisoned =>
    obtain ⟨t, ht, hconsumed⟩ := aluMask_consumes x.cls x.mask x.lab x.draws x.val hread hcons hn
    have hbank : (s.stream r).regBad ≠ [] := fun h => by simpa [h] using List.find?_some hn
    exact run_consumes hcur hlive hcons hbank ((hruns hok).trans ht) hconsumed
  case computes =>
    obtain ⟨t, ht, hwrote, hgen, hon, honly⟩ := aluMask_ok x.cls (mask := x.mask) (lab := x.lab) x.draws x.val hread hbank
    refine ⟨t, run_next ⟨hcur, hlive, hbank⟩ ((hruns hok).trans ht), hwrote, fun k hk => ?_, hon, honly⟩
    have hlane : (t.stream r).genLane k = Stream.genLane (if x.draws then (s.stream r).setGen x.mask fun i =>
        (x.val i (x.srcs.map fun w => s.operand r w i) ((s.stream r).genLane i)).2 else s.stream r) k := by
      simp only [Stream.genLane, hgen]
    rw [hlane]
    cases x.draws
    · simp
    · simp [Stream.genLane_setGen _ _ _ hk]

end Sys2Proof.Machine
end

section
/-! U-forms as rows (06 R178, 07 R180): each U-form runs the row that the table gives it. -/

namespace Sys2Proof.Machine

/-- The computation of a U-form's row: read its sources, write its register or pair, go on. -/
def State.uniRun (s : State) (r : Nat) (x : UniRow) : Except Stop State := do
  let p ← s.peek r 0 x.srcs none
  return ((State.commit r p).updStream r fun t => t.putC x.d x.wide (x.val (p.vals.map fun o => (o.getD 0 (0, 0)).1))
    (Label.join (p.label 0) x.lab)).complete r x.cls p.regs 0

/-- A row's destination is a uniform register, an even one for a pair. -/
def UniRow.dstOk (x : UniRow) : Bool := decide (x.d < 32) && (!x.wide || x.d % 2 == 0)

/-- An execution runs a row: a TYPE, field or destination that it does not allow is an illegal instruction, and otherwise it
is the row's computation on uniform sources. -/
structure UniRow.Runs (x : UniRow) (s : State) (r : Nat) (res : Except Stop State) : Prop where
  illegal : (x.ok && x.dstOk) = false → ∃ sub ∈ [2, 3], res = .error (s.illegal r sub)
  runs : (x.ok && x.dstOk) = true → res = s.uniRun r x
  uniform : ∀ w ∈ x.srcs, w.allow = .uni

theorem aluU_runs (work : Bool) (s : State) (r : Nat) (c : Cls) (d : Nat) (wide old : Bool) (lab : Label) (srcs : List Want) (f : List Nat → Nat) :
    UniRow.Runs { cls := c, work, ok := true, d, wide, lab, val := f,
                  srcs := (srcs ++ if old then [({ f := 80 + d, wide } : Want)] else []).map fun w : Want => { w with allow := .uni } }
      s r (s.aluU r c d wide old lab srcs f) where
  illegal h := by
    have hbad : (decide (d < 32) && (!wide || d % 2 == 0)) = false := h
    exact ⟨3, by simp, by simp only [State.aluU, hbad, need_false, bind, Except.bind]⟩
  runs h := by
    have hgood : (decide (d < 32) && (!wide || d % 2 == 0)) = true := h
    unfold State.aluU
    rw [hgood, need_true]
    cases old
    · simp only [State.uniRun, List.append_nil, Bool.false_eq_true, if_false]
      rfl
    · rfl
  uniform w hw := by
    obtain ⟨v, -, rfl⟩ := List.mem_map.mp hw
    rfl

/-- A TYPE checked before a U-form's row. -/
theorem typedU_runs {x : UniRow} {s : State} {r : Nat} {m : Bool} {ok : Nat → Bool} {g : Nat → Except Stop State}
    (hok : x.ok = ok (modeTYPE ((s.stream r).mode m)))
    (hg : ({ x with ok := true } : UniRow).Runs s r (g (modeTYPE ((s.stream r).mode m)))) : x.Runs s r (s.typeIn r m ok >>= g) := by
  obtain ⟨hbad, hgood, huni⟩ := hg
  cases hty : ok (modeTYPE ((s.stream r).mode m)) <;> rw [hty] at hok
  · rw [typeIn_illegal hty]
    exact ⟨fun _ => ⟨2, by simp, rfl⟩, fun h => absurd h (by simp [hok]), huni⟩
  · rw [typeIn_ok hty]
    exact ⟨fun h => hbad (by rwa [hok] at h), fun h => hgood (by rwa [hok] at h), huni⟩

theorem intOpU_runs {f g : ElemOp} (hf : f = g) (s : State) (r : Nat) (ok : Nat → Bool) (m : Bool) (d : BitVec 6) (a : BitVec 7)
    (b : Option (BitVec 7)) (old : Bool) :
    (intURow (s.stream r) ok m d a b old g).Runs s r (s.intOpU r ok m d a b old f) := by
  subst hf
  have h (ty : Nat) := aluU_runs false s r .control d.toNat (typeWidth ty == 64) old 0
    (rowWants (typeWidth ty == 64) a b (typeWidth ty == 64) none) (elementwise ty (modeSAT ((s.stream r).mode m)) b.isSome f)
  refine typedU_runs rfl ?_
  cases b <;> cases old <;> exact h _

/-- BPERM and IDOT4 as U-forms. -/
theorem wordU_runs (s : State) (r : Nat) (ok : Nat → Bool) (m : Bool) (d : BitVec 6) (a b : BitVec 7) (old : Bool)
    (f : List Nat → Nat) (g : Nat → Except Stop State)
    (hg : g (modeTYPE ((s.stream r).mode m)) = s.aluU r .control d.toNat false old 0 [{ f := a.toNat }, { f := b.toNat }] f) :
    (wordURow (s.stream r) ok m d [uni a, uni b] old f).Runs s r (s.typeIn r m ok >>= g) := by
  refine typedU_runs rfl ?_
  rw [hg]
  have h := aluU_runs false s r .control d.toNat false old 0 [{ f := a.toNat }, { f := b.toNat }] f
  cases old <;> exact h

theorem leaOpU_runs (s : State) (r : Nat) (m : Bool) (d : BitVec 6) (a b : BitVec 7) (imm : Int) :
    (leaURow (s.stream r) m d [uniWide a true, uni b] fun xs => signed 32 (xs.getD 1 0)).Runs s r (s.leaOpU r m d a (some b) imm) :=
  typedU_runs rfl (aluU_runs false s r .control d.toNat true false 0 [{ f := a.toNat, wide := true }, { f := b.toNat }] _)

theorem leaOpU_imm_runs (s : State) (r : Nat) (m : Bool) (d : BitVec 6) (a : BitVec 7) (imm : Int) :
    (leaURow (s.stream r) m d [uniWide a true] fun _ => imm).Runs s r (s.leaOpU r m d a none imm) :=
  typedU_runs rfl (aluU_runs false s r .control d.toNat true false 0 [{ f := a.toNat, wide := true }] _)

theorem selOpU_runs (s : State) (r : Nat) (m : Bool) (d : BitVec 6) (a b : BitVec 7) :
    (selURow (s.stream r) m d a b).Runs s r (s.selOpU r m d a b) := by
  have h (ty : Nat) := aluU_runs false s r .control d.toNat (typeWidth ty == 64) false ((s.stream r).guardLabel m)
    [{ f := a.toNat, wide := typeWidth ty == 64 }, { f := b.toNat, wide := typeWidth ty == 64 }]
    fun xs => if ((s.stream r).guardBits m &&& (s.stream r).em) != 0 then xs.getD 0 0 else xs.getD 1 0
  exact typedU_runs rfl (h _)

theorem floatOpU_runs {s : State} {r : Nat} (hw : s.workOk r) (ok : Nat → Bool) (m : Bool) (d : BitVec 6) (a : BitVec 7)
    (b : Option (BitVec 7)) (scale old : Bool) (f : FloatOp) :
    (floatURow (s.stream r) ok m d a b scale old f).Runs s r (s.floatOpU r ok m d a b scale old f) := by
  have h (ty : Nat) := aluU_runs true s r .float d.toNat (typeWidth ty == 64) old 0
    (rowWants (typeWidth ty == 64) a b (typeWidth ty == 64 && !scale) none)
    fun xs => (floatElems ty (roundingOf ((s.stream r).mode m)).uniform false b.isSome
      (if scale && typeWidth ty == 64 then 32 else typeWidth ty) f xs 0).1
  unfold State.floatOpU
  rw [needWork_ok hw]
  refine typedU_runs rfl ?_
  cases b <;> cases old <;> exact h _

theorem cvtOpU_runs {s : State} {r : Nat} (hw : s.workOk r) (d : BitVec 6) (a : BitVec 7) (part : BitVec 3) :
    (cvtURow (s.stream r) d a part).Runs s r (s.cvtOpU r d a part) := by
  have h := aluU_runs true s r .float d.toNat (typeWidth (modeTYPE (s.stream r).mode1) == 64)
    (decide (perLane (typeWidth (modeTYPE (s.stream r).mode0)) < perLane (typeWidth (modeTYPE (s.stream r).mode1)))) 0
    [{ f := a.toNat, wide := typeWidth (modeTYPE (s.stream r).mode0) == 64 }]
    fun xs => (convLane (modeTYPE (s.stream r).mode0) (modeVAR (s.stream r).mode0) (modeTYPE (s.stream r).mode1)
      (roundingOf (s.stream r).mode1).uniform part.toNat (xs.getD 0 0) (xs.getD 1 0) 0).1
  have huni : ∀ w ∈ (cvtURow (s.stream r) d a part).srcs, w.allow = .uni := by
    simp only [cvtURow]
    split <;> simp [uniWide]
  unfold State.cvtOpU
  rw [needWork_ok hw]
  cases hok : partOk (modeTYPE (s.stream r).mode0) (modeTYPE (s.stream r).mode1) part.toNat
  · simp only [hok, need_false, bind, Except.bind]
    exact ⟨fun _ => ⟨3, by simp, rfl⟩, fun h => by simp [cvtURow, hok] at h, huni⟩
  · simp only [hok, need_true, bind, Except.bind]
    convert h using 1
    simp only [cvtURow, hok, uniWide]
    by_cases hk : perLane (typeWidth (modeTYPE (s.stream r).mode0)) < perLane (typeWidth (modeTYPE (s.stream r).mode1)) <;> simp [hk]

/-- Each U-form of the table runs its row. -/
theorem uniRow_runs {s : State} {r : Nat} {i : Instr} {x : UniRow} (hx : uniRow (s.stream r) i = some x) (hwf : i.wf = true)
    (hwork : x.work = true → s.workOk r) : ∃ g, exec i s = run s g ∧ x.Runs s r (g r) := by
  cases i with
  | iaddU | isubU | imulU | imulhU | imadU | inegU | andnU | shlU | shrU | sarU | rotU | fshlU | bfeU | bfiU | popcU | clzU | ctzU
  | brevU | movU | iaddImmU | imulImmU | andImmU | orImmU | xorImmU | andnImmU | shlImmU | shrImmU | sarImmU | rotImmU =>
    cases hx
    exact ⟨_, rfl, intOpU_runs rfl ..⟩
  | iminU => cases hx; exact ⟨_, rfl, intOpU_runs opArith_min ..⟩
  | imaxU => cases hx; exact ⟨_, rfl, intOpU_runs opArith_max ..⟩
  | iabsU => cases hx; exact ⟨_, rfl, intOpU_runs opAbs_eq ..⟩
  | isadU => cases hx; exact ⟨_, rfl, intOpU_runs opSad_eq ..⟩
  | andU => cases hx; exact ⟨_, rfl, intOpU_runs opLogic_and ..⟩
  | orU => cases hx; exact ⟨_, rfl, intOpU_runs opLogic_or ..⟩
  | xorU => cases hx; exact ⟨_, rfl, intOpU_runs opLogic_xor ..⟩
  | iminImmU => cases hx; exact ⟨_, rfl, intOpU_runs (immArith_min _) ..⟩
  | imaxImmU => cases hx; exact ⟨_, rfl, intOpU_runs (immArith_max _) ..⟩
  | bfeImmU d a imm m =>
    cases hx
    have h6 : need s r 0 (decide (imm.toNat < 64)) = .ok () := congrArg (need s r 0) hwf
    refine ⟨_, rfl, ?_⟩
    rw [h6]
    exact intOpU_runs rfl ..
  | bpermU | idot4U =>
    cases hx
    exact ⟨_, rfl, wordU_runs (hg := rfl) ..⟩
  | leaU => cases hx; exact ⟨_, rfl, leaOpU_runs ..⟩
  | leaImmU => cases hx; exact ⟨_, rfl, leaOpU_imm_runs ..⟩
  | selU => cases hx; exact ⟨_, rfl, selOpU_runs ..⟩
  | limU d imm => cases hx; exact ⟨_, rfl, aluU_runs false s r .control d.toNat false false 0 [] _⟩
  | limhU d imm => cases hx; exact ⟨_, rfl, aluU_runs false s r .control d.toNat false true 0 [] _⟩
  | faddU | fsubU | fmulU | ffmaU | fminU | fmaxU | fabsU | fnegU | fclassU | frndU | fscaleU | frcpU | frsqU | fexp2U | flog2U
  | fsinpU | fcospU | ftanhU =>
    cases hx
    exact ⟨_, rfl, floatOpU_runs (hwork rfl) ..⟩
  | cvtU => cases hx; exact ⟨_, rfl, cvtOpU_runs (hwork rfl) ..⟩
  | _ => cases hx

/-- A uniform source that may stand where it does names no queue. -/
theorem srcOf_uniform {s : State} {r : Nat} {w : Want} (hw : w.allow = .uni) (h : s.srcFault r w = none) (n : Nat) :
    srcOf w.f ≠ .q n := by
  intro hq
  cases hm : s.mayQueue r <;> simp [State.srcFault, hq, hw, hm] at h

theorem popsOf_uniform {s : State} {r : Nat} {ws : List Want} (huni : ∀ w ∈ ws, w.allow = .uni)
    (h : ∀ w ∈ ws, s.srcFault r w = none) : popsOf ws = [] := by
  have hnone : ws.filterMap (fun w => match srcOf w.f with | .q n => some n | _ => none) = [] := by
    refine List.filterMap_eq_nil_iff.mpr fun w hw => ?_
    have hq := srcOf_uniform (huni w hw) (h w hw)
    split
    · exact absurd ‹_› (hq _)
    · rfl
  exact (congrArg distinct hnone :)

/-- The label of a source list in a lane, as it is peeked. -/
theorem label_peek (s u : State) (r : Nat) (ws : List Want) (pops ports : List Nat) (n i : Nat) :
    Peek.label ⟨ws.map (s.plainSrc r), pops, ports, n, u⟩ i = s.operandsLabel r ws i := by
  simp only [Peek.label, State.operandsLabel, List.foldl_map]
  rfl

/-- On readable uniform sources a row is one write of its destination. -/
theorem uniRun_ok {s : State} {r : Nat} {x : UniRow} (h : s.inHand r) (huni : ∀ w ∈ x.srcs, w.allow = .uni)
    (hr : s.readable r x.srcs none) :
    ∃ n, s.uniRun r x = .ok ((s.updStream r fun t => t.putC x.d x.wide (x.val (x.srcs.map fun w => s.operand r w 0))
      (Label.join (s.operandsLabel r x.srcs 0) x.lab)).complete r x.cls n 0) := by
  have ⟨_, _, hbank⟩ := h
  refine ⟨(x.srcs.map Want.regs).foldl (· + ·) 0, ?_⟩
  unfold State.uniRun
  rw [peek_readable 0 hr, noteBanks_clean hbank, popsOf_uniform huni hr.1]
  simp only [bind, Except.bind, label_peek, List.map_map]
  rfl

/-- A write to a uniform register or pair of a stream whose register bank holds no error changes the uniform registers alone. -/
theorem Stream.putC_bank (t : Stream) (n : Nat) (wide : Bool) (x : Nat) (l : Label) (hb : t.regBad = []) :
    ∃ c, t.putC n wide x l = { t with c } := by
  cases wide
  · exact ⟨_, t.setC_bank n _ hb⟩
  · have hlow := t.setC_bank n ⟨w32 x, l⟩ hb
    have hhigh := (t.setC n ⟨w32 x, l⟩).setC_bank (n + 1) ⟨w32 (x / 2 ^ 32), l⟩ (by rw [hlow]; exact hb)
    rw [hlow] at hhigh
    exact ⟨_, (congrArg (fun u : Stream => u.setC (n + 1) ⟨w32 (x / 2 ^ 32), l⟩) hlow).trans hhigh⟩

theorem Stream.creg_putC (t : Stream) (n : Nat) (wide : Bool) (x : Nat) (l : Label) (k : Nat) :
    (t.putC n wide x l).creg k = if k = n then ⟨w32 x, l⟩
      else if wide = true ∧ k = n + 1 then ⟨w32 (x / 2 ^ 32), l⟩ else t.creg k := by
  cases wide
  · simp [Stream.putC, Stream.creg_setC]
  · by_cases hk : k = n
    · simp [Stream.putC, Stream.creg_setC, hk]
    · simp [Stream.putC, Stream.creg_setC, hk]

/-- An instruction that writes a uniform register or pair and goes on. -/
theorem putC_completes {s : State} {r d : Nat} {wide : Bool} {g : Nat → Except Stop State} {c : Cls} {n x : Nat} {l : Label}
    (h : s.inHand r) (hg : g r = .ok ((s.updStream r fun t => t.putC d wide x l).complete r c n 0)) :
    ∃ t, run s g = .next t ∧
      (∀ k, (t.stream r).creg k = if k = d then ⟨w32 x, l⟩
        else if wide = true ∧ k = d + 1 then ⟨w32 (x / 2 ^ 32), l⟩ else (s.stream r).creg k) ∧
      WentOn s t r ∧ t.crews = s.crews ∧ OnlyStream s t r Stream.lessUni := by
  have ⟨_, _, hbank⟩ := h
  obtain ⟨cs, hcs⟩ := (s.stream r).putC_bank d wide x l hbank
  obtain ⟨t, ht, hcore, hrest⟩ := run_upd (e := Stream.lessUni) h hg (by rw [hcs]) (by rw [hcs]) (by rw [hcs]; rfl) lessUni_core
  exact ⟨t, ht, fun k => by rw [creg_of_core hcore, Stream.creg_putC], hrest⟩

/-- Settles O8: each U-form runs its row, which is one write of a uniform register or pair. -/
theorem uniformFormsCompute : Obligations.UniformFormsCompute := by
  intro s r i x h hx hwf hwork
  obtain ⟨g, hexec, hrun⟩ := uniRow_runs hx hwf hwork
  have ⟨hcur, hlive, hbank⟩ := h
  rw [hexec]
  refine ⟨fun hbad => ?illegal, fun hok hd heven hr => ?computes⟩
  case illegal =>
    obtain ⟨sub, hsub, hres⟩ := hrun.illegal (by
      rcases hbad with hok | hd | ⟨hw, hodd⟩
      · simp [hok]
      · simp [UniRow.dstOk, Nat.not_lt.mpr hd]
      · simp [UniRow.dstOk, hw, hodd])
    exact ⟨sub, hsub, run_illegal hcur hlive hres⟩
  case computes =>
    have hdst : (x.ok && x.dstOk) = true := by
      cases hw : x.wide
      · simp [UniRow.dstOk, hok, hd, hw]
      · simp [UniRow.dstOk, hok, hd, heven hw]
    obtain ⟨n, hn⟩ := uniRun_ok h hrun.uniform hr
    obtain ⟨t, ht, hcreg, hrest⟩ := putC_completes h ((hrun.runs hdst).trans hn)
    exact ⟨t, ht, hcreg, hrest⟩

end Sys2Proof.Machine
end

section
/-! IADDC, ISUBB and CMP (06 R164, R165, R169, R178). -/

namespace Sys2Proof.Machine

/-! Sources read, used up, and the stream changed. -/

/-- Using up what was read takes the heads of the queues named and changes nothing else. -/
theorem commit_peeked (s : State) (r : Nat) (ws : List Want) :
    (State.commit r (s.peeked r ws)).stream r = s.stream r ∧ Popped s (State.commit r (s.peeked r ws)) r ws ∧
      OnlyStream s (State.commit r (s.peeked r ws)) r Stream.core := by
  obtain ⟨hstream, hcrew, honly⟩ := commit_pops r (s.peeked r ws) rfl
  refine ⟨hstream, ⟨fun q => ?_, fun q => ?_⟩, honly⟩
  · rw [hcrew]
    exact Crew.popAll_loadQ _ (popsOf ws) (distinct_nodup _) q
  · rw [hcrew, Crew.popAll_storeQ]
    rfl

/-- Queues after a completion are those before it. -/
theorem Popped.of_crew {s t u : State} {r : Nat} {ws : List Want} (h : Popped s t r ws) (hcrew : u.crewAt r = t.crewAt r) :
    Popped s u r ws := by
  unfold Popped
  rw [hcrew]
  exact h

/-- An instruction that reads operands, changes fields of its stream which no completion looks at, and then goes on. -/
theorem run_popped {s : State} {r : Nat} {i : Instr} {ws : List Want} {g : Nat → Except Stop State} {f e : Stream → Stream}
    {c : Cls} {reads lines : Nat} (h : s.inHand r) (hi : exec i s = run s g)
    (hg : g r = .ok (((State.commit r (s.peeked r ws)).updStream r f).complete r c reads lines))
    (hpc : (f (s.stream r)).pc = (s.stream r).pc) (hloops : (f (s.stream r)).loops = (s.stream r).loops)
    (he : e (f (s.stream r)) = e (s.stream r)) (hcore : ∀ u v : Stream, u.core = v.core → e u = e v) :
    ∃ t, exec i s = .next t ∧ (t.stream r).core = (f (s.stream r)).core ∧ Popped s t r ws ∧ WentOn s t r ∧ OnlyStream s t r e := by
  obtain ⟨hstream, hpopped, honly⟩ := commit_peeked s r ws
  generalize State.commit r (s.peeked r ws) = v at hg hstream hpopped honly
  obtain ⟨hcore', ⟨hpc', hloops'⟩, hcrews, honly'⟩ := upd_complete (s := v) (r := r) (f := f) (e := e) c reads lines
    (by rw [hstream, hpc]) (by rw [hstream, hloops]) (by rw [hstream, he]) hcore
  rw [hstream] at hcore' hpc' hloops'
  exact ⟨_, hi.trans (run_next h hg), hcore', hpopped.of_crew (by simp only [State.crewAt, State.crew, hcrews]),
    ⟨hpc', hloops'⟩, (honly.mono hcore).trans honly'⟩

/-! CMP. -/

theorem label_peeked (s : State) (r : Nat) (ws : List Want) (i : Nat) : (s.peeked r ws).label i = s.operandsLabel r ws i :=
  label_peek s s r ws ..

/-- Settles O13: CMP pops what it read and writes two predicates. -/
theorem compareComputes : Obligations.CompareComputes := by
  intro s r cond comb pa pb a b m h u ty ws lanes res lab lab' lab'' out
  have ⟨hcur, hlive, hbank⟩ := h
  refine ⟨fun hty => ?illegal, fun hty hr => ?computes⟩
  case illegal => exact run_illegal hcur hlive (by rw [typeIn_illegal hty]; rfl)
  case computes =>
    obtain ⟨hpc, hloops, hless⟩ := putP_twice_keeps u pa.toNat pb.toNat lanes out.1 out.2 lab'' hbank
    obtain ⟨t, ht, hcore, hpopped, hon, honly⟩ := run_popped (i := .cmp cond comb pa pb a b m) (ws := ws) (c := .control)
      (reads := (s.peeked r ws).regs) (lines := 0) (e := Stream.lessPred)
      (f := fun t => (t.putP pa.toNat lanes out.1 lab'').putP pb.toNat lanes out.2 lab'') h rfl
      (by
        simp only [typeIn_ok hty, bind, Except.bind]
        rw [peek_peeked _ h hr]
        simp only [label_peeked]
        rfl) hpc hloops hless lessPred_core
    exact ⟨t, ht, fun n => by rw [preg_of_core hcore, putP_twice_preg], hpopped, hon, honly⟩

/-! IADDC and ISUBB. -/

/-- A predicate write changes the predicates and, where it corrects one, the register bank's errors. -/
theorem putP_table (t : Stream) (n : Nat) (lanes val : Word) (l : Label) :
    ∃ p b, t.putP n lanes val l = { t with p := p, regBad := b } := by
  have hset (n : Nat) (x : LV) : ∃ p, t.setP n x = { t with p := p } := by
    unfold Stream.setP
    split
    · exact ⟨t.p, rfl⟩
    · exact ⟨_, rfl⟩
  unfold Stream.putP
  split
  · exact ⟨t.p, t.regBad, rfl⟩
  · obtain ⟨p, hp⟩ := hset n ⟨((t.preg n).v &&& ~~~lanes) ||| (val &&& lanes),
      if lanes = 0xFFFFFFFF then l else Label.join (t.preg n).l l⟩
    obtain ⟨b, hb⟩ := ({ t with p := p } : Stream).cleanReg_bank (96 + n) lanes
    exact ⟨p, b, (congrArg (fun u : Stream => u.cleanReg (96 + n) lanes) hp).trans hb⟩

/-- A stream without what a carry form may change: its vector registers and its predicates. -/
theorem lessVecPred_core (u v : Stream) (h : u.core = v.core) :
    ({ u.lessVec with p := [] } : Stream) = { v.lessVec with p := [] } := by rw [lessVec_of_core u v h]

/-- A result that was written stays where registers, latches and queues do. -/
theorem Wrote.of_same {s t u : State} {r : Nat} {ws : List Want} {d : Dst} {mask : Word} {val : Nat → Nat × Label}
    (h : Wrote s t r ws d mask val) (hv : (u.stream r).v = (t.stream r).v) (hl : (u.stream r).latches = (t.stream r).latches)
    (hcrew : u.crewAt r = t.crewAt r) : Wrote s u r ws d mask val where
  regs n := by
    rw [← h.regs n]
    simp only [Stream.vreg, hv]
  latches := hl.trans h.latches
  pushed q := by rw [hcrew, h.pushed q]
  popped q := by rw [hcrew, h.popped q]

theorem OnlyStream.preg {s t : State} {r : Nat} (h : OnlyStream s t r Stream.lessVec) (n : Nat) :
    (t.stream r).preg n = (s.stream r).preg n := by
  have hp : (t.stream r).p = (s.stream r).p := (congrArg Stream.p h.stream :)
  simp only [Stream.preg, hp]

/-- A carry form on readable operands: its result, then the carries in p6. -/
theorem carryOp_completes {s : State} {r : Nat} {i : Instr} {f : Nat → Nat → Nat → Nat × Bool} {m nw : Bool} {d : BitVec 6}
    {a b : BitVec 7} (h : s.inHand r) (hi : exec i s = run s fun r => s.carryOp r f m nw d a b)
    (hty : carryType (modeTYPE ((s.stream r).mode m)) = true)
    (hr : s.readable r [{ f := a.toNat }, { f := b.toNat }] (some { n := d.toNat, nw })) :
    let ws : List Want := [{ f := a.toNat }, { f := b.toNat }]
    let out (k : Nat) : Nat × Bool :=
      f (s.operand r { f := a.toNat } k) (s.operand r { f := b.toNat } k) (inMask ((s.stream r).preg 6).v k).toNat
    let lab := Label.join ((s.stream r).preg 6).l ((s.stream r).guardLabel m)
    ∃ t, exec i s = .next t ∧
      Wrote s t r ws { n := d.toNat, nw } ((s.stream r).active m) (fun k => ((out k).1, Label.join (s.operandsLabel r ws k) lab)) ∧
      (∀ n, (t.stream r).preg n = predSet (s.stream r).preg 6 ((s.stream r).active m) (maskWhere fun k => (out k).2)
        (s.lanesLabel r ws ((s.stream r).active m) lab) n) ∧
      WentOn s t r ∧ OnlyStream s t r (fun u => { u.lessVec with p := [] }) := by
  intro ws out lab
  obtain ⟨-, -, -, -, -, h60, -⟩ := id hr
  obtain ⟨u, hu, hwrote, hpc, hloops, -, honly⟩ := write_peeked s r ws { n := d.toNat, nw } ((s.stream r).active m)
    (fun k => ((out k).1, Label.join (s.operandsLabel r ws k) lab)) (h60 _ rfl)
  let put (t : Stream) : Stream := t.putP 6 ((s.stream r).active m) (maskWhere fun k => (out k).2)
    (s.lanesLabel r ws ((s.stream r).active m) lab)
  obtain ⟨p, bad, hput⟩ : ∃ p bad, put (u.stream r) = { u.stream r with p := p, regBad := bad } := putP_table ..
  obtain ⟨hcore, ⟨hpc', hloops'⟩, hcrews, honly'⟩ := upd_complete (s := u) (r := r) (f := put)
    (e := fun u => { u.lessVec with p := [] }) .control (s.peeked r ws).regs 0 (by rw [hput]) (by rw [hput]) (by rw [hput]; rfl)
    lessVecPred_core
  rw [hput] at hcore
  obtain ⟨hnext, hnextLoops⟩ := Stream.next_pc hpc hloops
  refine ⟨_, hi.trans (run_next h ?computed), hwrote.of_same (congrArg Stream.v hcore :) (congrArg Stream.latches hcore :) ?crew,
    fun n => ?predicates, ⟨hpc'.trans hnext, hloops'.trans hnextLoops⟩, (honly.mono fun u v h => ?less).trans honly'⟩
  case computed =>
    simp only [State.carryOp, typeIn_ok hty, bind, Except.bind]
    rw [peek_peeked _ h hr]
    simp only [label_peeked]
    refine (congrArg (fun e : Except Stop State => e.bind fun s' => .ok ((s'.updStream r put).complete r .control _ 0)) hu).trans ?_
    rfl
  case crew => simp only [State.crewAt, State.crew, hcrews]
  case predicates =>
    rw [preg_of_core hcore, ← hput, putP_preg, show (u.stream r).preg = (s.stream r).preg from funext honly.preg]
  case less => rw [h]

/-- A stream without its uniform registers and predicates. -/
theorem lessUniPred_core (u v : Stream) (h : u.core = v.core) :
    ({ u.lessUni with p := [] } : Stream) = { v.lessUni with p := [] } := by rw [lessUni_core u v h]

/-- A U-form with carry on readable operands: its uniform register, then all of p6. -/
theorem carryOpU_completes {s : State} {r : Nat} {i : Instr} {f : Nat → Nat → Nat → Nat × Bool} {m : Bool} {d : BitVec 6}
    {a b : BitVec 7} (h : s.inHand r) (hi : exec i s = run s fun r => s.carryOpU r f m d a b)
    (hty : carryType (modeTYPE ((s.stream r).mode m)) = true) (hd : d.toNat < 32) (hr : s.readable r [uni a, uni b] none) :
    let out := f (s.operand r (uni a) 0) (s.operand r (uni b) 0) (inMask ((s.stream r).preg 6).v 0).toNat
    let lab := Label.join (s.operandsLabel r [uni a, uni b] 0) ((s.stream r).preg 6).l
    ∃ t, exec i s = .next t ∧
      (∀ n, (t.stream r).creg n = if n = d.toNat then ⟨w32 out.1, lab⟩ else (s.stream r).creg n) ∧
      (∀ n, (t.stream r).preg n = predSet (s.stream r).preg 6 0xFFFFFFFF (if out.2 then 0xFFFFFFFF else 0) lab n) ∧
      WentOn s t r ∧ t.crews = s.crews ∧ OnlyStream s t r (fun u => { u.lessUni with p := [] }) := by
  intro out lab
  have ⟨_, _, hbank⟩ := h
  obtain ⟨c, hc⟩ := (s.stream r).putC_bank d.toNat false out.1 lab hbank
  let put (t : Stream) : Stream := (t.putC d.toNat false out.1 lab).putP 6 0xFFFFFFFF (if out.2 then 0xFFFFFFFF else 0) lab
  obtain ⟨p, hp⟩ := putP_none ((s.stream r).putC d.toNat false out.1 lab) 6 0xFFFFFFFF (if out.2 then 0xFFFFFFFF else 0) lab
    (by rw [hc]; exact hbank)
  have hput : put (s.stream r) = { s.stream r with c, p } := by
    simp only [put, hp]
    rw [hc]
  obtain ⟨t, ht, hcore, hon, hcrews, honly⟩ := run_upd (g := fun r => s.carryOpU r f m d a b) (f := put)
    (e := fun u => { u.lessUni with p := [] }) (c := .control) (reads := (s.peeked r [uni a, uni b]).regs) (lines := 0) h
    (by
      simp only [State.carryOpU, typeIn_ok hty, need, decide_eq_true hd, if_true, bind, Except.bind]
      have hpeek := peek_peeked 0 h hr
      simp only [uni, uniWide] at hpeek
      rw [hpeek]
      simp only [label_peeked]
      rfl) (by rw [hput]) (by rw [hput]) (by rw [hput]; rfl) lessUniPred_core
  refine ⟨t, hi.trans ht, fun n => ?_, fun n => ?_, hon, hcrews, honly⟩
  · have hcreg : (put (s.stream r)).creg n = ((s.stream r).putC d.toNat false out.1 lab).creg n := by
      rw [hput, hc]
      rfl
    rw [creg_of_core hcore, hcreg, Stream.creg_putC]
    simp
  · have hpreg : ((s.stream r).putC d.toNat false out.1 lab).preg = (s.stream r).preg := by
      rw [hc]
      rfl
    rw [preg_of_core hcore, putP_preg, hpreg]

/-- Settles O9: a carry form is a result and a write of p6. -/
theorem carryInstructionsCompute : Obligations.CarryInstructionsCompute := by
  refine ⟨fun s r i f d ws m h hform => ⟨fun hty => ?illegal, fun hty hr => ?computes⟩,
    fun s r i f d ws m h hform => ⟨fun hty => ?illegalU, fun hty hd hr => ?computesU⟩⟩
  all_goals have ⟨hcur, hlive, hbank⟩ := h
  case illegal =>
    cases i with
    | iaddc | isubb => cases hform; exact run_illegal hcur hlive (by rw [State.carryOp, typeIn_illegal hty]; rfl)
    | _ => cases hform
  case computes =>
    cases i with
    | iaddc => cases hform; exact carryOp_completes (f := addCarry) h (by rfl) hty hr
    | isubb => cases hform; exact carryOp_completes (f := subBorrow) h (by rfl) hty hr
    | _ => cases hform
  case illegalU =>
    cases i with
    | iaddcU | isubbU => cases hform; exact run_illegal hcur hlive (by rw [State.carryOpU, typeIn_illegal hty]; rfl)
    | _ => cases hform
  case computesU =>
    cases i with
    | iaddcU => cases hform; exact carryOpU_completes (f := addCarry) h (by rfl) hty hd hr
    | isubbU => cases hform; exact carryOpU_completes (f := subBorrow) h (by rfl) hty hd hr
    | _ => cases hform

end Sys2Proof.Machine
end

section
/-! Loops (06 R152 to R154). -/

namespace Sys2Proof.Machine

/-! The end check. -/

theorem loopEnd_elsewhere {t : Stream} {l : LoopLevel} (rest : List LoopLevel) (h : t.pc ≠ l.stop) :
    t.loopEnd (l :: rest) = { t with pc := t.pc + 4 } := if_neg h

theorem loopEnd_again {t : Stream} {l : LoopLevel} (rest : List LoopLevel) (h : t.pc = l.stop) (hc : 1 < l.count.toNat) :
    t.loopEnd (l :: rest) = { t with pc := l.start, loops := { l with count := l.count - 1 } :: rest } := by
  simp only [Stream.loopEnd, h, if_true, hc]

theorem loopEnd_leaves {t : Stream} {l : LoopLevel} (rest : List LoopLevel) (h : t.pc = l.stop) (hc : ¬1 < l.count.toNat) :
    t.loopEnd (l :: rest) = (t.leaveLevel l rest).loopEnd rest := by
  simp only [Stream.loopEnd, h, if_true, hc, if_false]

/-- Levels that do not end here let the stream pass. -/
theorem loopEnd_outer {t : Stream} {ls : List LoopLevel} (h : ∀ k ∈ ls, k.stop ≠ t.pc) : t.loopEnd ls = { t with pc := t.pc + 4 } := by
  cases ls with
  | nil => rfl
  | cons l rest => exact loopEnd_elsewhere rest (h l List.mem_cons_self).symm

/-! LOOP. -/

theorem exec_loop_empty {s : State} {r : Nat} {count : BitVec 7} {stop15 : BitVec 15} (h : s.inHand r) (hstop : stop15 ≠ 0)
    (hr : s.readable r [{ f := count.toNat, allow := .uni }] none)
    (hn : s.operand r { f := count.toNat, allow := .uni } 0 = 0) :
    ∃ reads, exec (.loop count stop15) s =
      .next (s.jump r .control reads ((s.stream r).pc + BitVec.ofNat 24 (4 * stop15.toNat) + 4)) := by
  obtain ⟨p, hp, hst, hval⟩ := uniform_readable h hr
  refine ⟨p.regs, run_next h ?_⟩
  simp only [need, bne_iff_ne.mpr hstop, if_true, bind, Except.bind, hp, hval, hn, hst]
  rfl

/-- The level that LOOP pushes. -/
theorem exec_loop_pushes {s : State} {r : Nat} {count : BitVec 7} {stop15 : BitVec 15} (h : s.inHand r) (hstop : stop15 ≠ 0)
    (hr : s.readable r [{ f := count.toNat, allow := .uni }] none)
    (hn : s.operand r { f := count.toNat, allow := .uni } 0 ≠ 0) (hroom : (s.stream r).loops.length < 4) :
    ∃ (reads : Nat) (body : Option (Tab Word)), exec (.loop count stop15) s =
      .next ((s.jump r .control reads ((s.stream r).pc + 4)).updStream r fun t => { t with
        loops := ⟨(s.stream r).pc + 4, (s.stream r).pc + BitVec.ofNat 24 (4 * stop15.toNat),
          w32 (s.operand r { f := count.toNat, allow := .uni } 0), body.isSome, (s.imageOf r).1⟩ :: t.loops, lbuf := body.getD t.lbuf }) := by
  obtain ⟨p, hp, hst, hval⟩ := uniform_readable h hr
  refine ⟨p.regs, if stop15.toNat ≤ 128 ∧ !((s.stream r).loops.any (·.captured)) then
    s.bodyWords r ((s.stream r).pc + 4) stop15.toNat else none, run_next h ?_⟩
  simp only [need, bne_iff_ne.mpr hstop, if_true, bind, Except.bind, hp, hval, if_neg hn, if_neg (not_le.mpr hroom), hst]
  rfl

theorem exec_loop_full {s : State} {r : Nat} {count : BitVec 7} {stop15 : BitVec 15} (h : s.inHand r) (hstop : stop15 ≠ 0)
    (hr : s.readable r [{ f := count.toNat, allow := .uni }] none)
    (hn : s.operand r { f := count.toNat, allow := .uni } 0 ≠ 0) (hfull : 4 ≤ (s.stream r).loops.length) :
    exec (.loop count stop15) s = .next (s.takeTrap r { cause := 0x15, info := 0, mask := (s.stream r).em }) := by
  obtain ⟨p, hp, hst, hval⟩ := uniform_readable h hr
  refine run_trap h ?_
  simp only [need, bne_iff_ne.mpr hstop, if_true, bind, Except.bind, hp, hval, if_neg hn, if_pos hfull]
  rfl

/-! LBRK. -/

theorem exec_lbrk_taken {s : State} {r : Nat} {pred : BitVec 3} {sense : Bool} {off : BitVec 18} {l : LoopLevel}
    {rest : List LoopLevel} (h : s.inHand r) (hok : ¬(pred = 7 ∧ sense = true)) (hl : (s.stream r).loops = l :: rest)
    (ht : (s.stream r).takes pred sense) :
    exec (.lbrk pred sense off) s =
      .next ((s.updStream r fun t => t.leaveLevel l rest).jump r .control 0 (targetOf (s.stream r).pc 18 off.toNat)) := by
  obtain ⟨c, hc, hsome, -⟩ := branchCond_legal s r hok
  refine run_next h ?_
  simp only [hc, bind, Except.bind, hl]
  exact if_pos (hsome.mpr ht)

theorem exec_lbrk_passed {s : State} {r : Nat} {pred : BitVec 3} {sense : Bool} {off : BitVec 18} {l : LoopLevel}
    {rest : List LoopLevel} (h : s.inHand r) (hok : ¬(pred = 7 ∧ sense = true)) (hl : (s.stream r).loops = l :: rest)
    (ht : ¬(s.stream r).takes pred sense) :
    ∃ t, exec (.lbrk pred sense off) s = .next t ∧ WentOn s t r ∧ t.crews = s.crews ∧ OnlyStream s t r Stream.core := by
  obtain ⟨c, hc, hsome, -⟩ := branchCond_legal s r hok
  refine run_complete h (c := .control) (reads := 0) (lines := 0) ?_
  simp only [hc, bind, Except.bind, hl]
  exact if_neg fun hl => ht (hsome.mp hl)

theorem exec_lbrk_outside {s : State} {r : Nat} {pred : BitVec 3} {sense : Bool} {off : BitVec 18} (h : s.inHand r)
    (hok : ¬(pred = 7 ∧ sense = true)) (hl : (s.stream r).loops = []) :
    exec (.lbrk pred sense off) s = .next (s.takeTrap r { cause := 0x15, info := 0, mask := (s.stream r).em }) := by
  obtain ⟨c, hc, -, -⟩ := branchCond_legal s r hok
  refine run_trap h ?_
  simp only [hc, bind, Except.bind, hl]
  rfl

theorem takes_iff (t : Stream) (pred : BitVec 3) (sense : Bool) :
    (pred = 7 ∨ t.em &&& (if sense then ~~~(t.preg pred.toNat).v else (t.preg pred.toNat).v) ≠ 0) ↔ t.takes pred sense := by
  by_cases hp : pred = 7
  · exact ⟨fun _ => .inl hp, fun _ => .inl hp⟩
  · simp only [Stream.takes, Stream.branchMask, if_neg hp]

/-- Settles O20: LOOP and LBRK by the outcome of their checks, the end check by its cases (loopEnd_again and its fellows). -/
theorem loopsRepeatTheirBody : Obligations.LoopsRepeatTheirBody := by
  intro s r count stop15 pred sense off h u n stop c holds
  have htakes : holds ↔ u.takes pred sense := takes_iff u pred sense
  simp only [htakes]
  refine ⟨fun hstop hr => ⟨fun hn => ?skipped, fun hn hroom => ?pushed, exec_loop_full h hstop hr⟩, fun hok => ⟨fun l rest hl =>
    ⟨fun ht => ?broken, fun ht => ?passed⟩, exec_lbrk_outside h hok⟩, fun l rest hl => ⟨fun hpc => ?inside, fun hpc hc => ?again,
    fun hpc hc hother => ?left⟩⟩
  case skipped =>
    obtain ⟨reads, he⟩ := exec_loop_empty h hstop hr hn
    exact ⟨_, he, by simp [stop, u], by simp [u], OnlyStream.jump s r .control reads _⟩
  case pushed =>
    obtain ⟨reads, body, he⟩ := exec_loop_pushes h hstop hr hn hroom
    refine ⟨_, _, he, by simp [u], by simp [u]; rfl, rfl, rfl, rfl, ?_⟩
    exact (OnlyStream.jump s r .control reads _).trans (OnlyStream.updStream _ r _ _ rfl)
  case broken =>
    refine ⟨_, exec_lbrk_taken h hok hl ht, by simp [u], by simp [Stream.leaveLevel], ?_⟩
    exact OnlyStream.upd_jump .control 0 _ rfl fun _ _ => id
  case passed =>
    obtain ⟨t, he, hon, -, honly⟩ := exec_lbrk_passed (off := off) h hok hl ht
    exact ⟨t, he, hon, honly⟩
  all_goals rw [Stream.next, hl]
  case inside => rw [loopEnd_elsewhere rest hpc]; exact ⟨rfl, hl⟩
  case again => rw [loopEnd_again rest hpc hc]; exact ⟨rfl, rfl⟩
  case left =>
    rw [loopEnd_leaves rest hpc (not_lt.mpr hc), loopEnd_outer (t := u.leaveLevel l rest) hother]
    exact ⟨rfl, rfl⟩

end Sys2Proof.Machine
end

section
/-! Jumps to the lead lane's target (06 R149, R151). -/

namespace Sys2Proof.Machine

theorem leadTarget_none {em : Word} (h : em = 0) (f : Nat → Nat) : leadTarget em f = none := by
  subst h
  rfl

/-- The lead lane's target, and the lanes of EM that share it. -/
theorem leadTarget_some {em : Word} {lead : Nat} {others : List Nat} (h : lanesOf em = lead :: others) (f : Nat → Nat) :
    leadTarget em f = some (codeAddr (f lead), maskWhere fun k => inMask em k && codeAddr (f k) == codeAddr (f lead)) := by
  simp only [leadTarget, h]

/-- An instruction that uses up its operands and goes on. -/
theorem run_commit {s : State} {r : Nat} {ws : List Want} {g : Nat → Except Stop State} {c : Cls} {reads lines : Nat} (h : s.inHand r)
    (hg : g r = .ok ((State.commit r (s.peeked r ws)).complete r c reads lines)) :
    ∃ t, run s g = .next t ∧ Popped s t r ws ∧ WentOn s t r ∧ OnlyStream s t r Stream.core := by
  obtain ⟨hstream, hpopped, honly⟩ := commit_peeked s r ws
  generalize State.commit r (s.peeked r ws) = v at hg hstream hpopped honly
  obtain ⟨-, hcrew, hpc, hloops⟩ := complete_keeps v r c reads lines
  rw [hstream] at hpc hloops
  exact ⟨_, run_next h hg, hpopped.of_crew hcrew, ⟨hpc, hloops⟩, honly.trans (OnlyStream.complete v r c reads lines)⟩

/-- Operands used up, a result then written. -/
theorem commit_write (s : State) (r : Nat) (ws : List Want) (d : Dst) (mask : Word) (val : Nat → Nat × Label) (h : d.n < 60) :
    ∃ t, (State.commit r (s.peeked r ws)).writeDst r d mask val = .ok t ∧ Wrote s t r ws d mask val ∧
      (t.stream r).loops = (s.stream r).loops ∧ (t.stream r).gen = (s.stream r).gen ∧ OnlyStream s t r Stream.lessVec := by
  obtain ⟨hstream, ⟨hload, hstore⟩, honly⟩ := commit_peeked s r ws
  generalize State.commit r (s.peeked r ws) = v at hstream hload hstore honly
  obtain ⟨t, ht, hput⟩ := writeDst_put v r d mask val h
  have hreceived : v.received r d mask val = s.received r d mask val := by simp only [State.received, hstream]
  refine ⟨t, ht, ⟨fun n => ?_, ?_, fun q => ?_, fun q => ?_⟩, ?_, ?_, (honly.mono lessVec_of_core).trans hput.only⟩
  · rw [hput.regs, hstream]
  · rw [hput.latches, hstream, hreceived]
  · rw [hput.pushed, hstore]
  · rw [hput.loadQ, hload]
  · rw [hput.loops, hstream]
  · rw [hput.gen, hstream]

/-- A transfer of control that leaves some lanes in EM. -/
theorem em_jump (s : State) (r reads : Nat) (em : Word) (pc : BitVec 24) :
    let t := (s.updStream r fun t => { t with em }).jump r .control reads pc
    t.stream r = { s.stream r with em, pc, fetched := [], wait := none, dataWait := none, drowsy := false } ∧ t.crewAt r = s.crewAt r ∧
      OnlyStream s t r fun v => { v.flow with em := 0 } := by
  exact ⟨by simp, rfl, OnlyStream.upd_jump _ _ _ rfl fun _ _ h => by rw [h]⟩

/-- The lanes of EM that share the lead lane's target in a source. -/
def State.stays (s : State) (r : Nat) (w : Want) (lead : Nat) : Word :=
  maskWhere fun k => inMask (s.stream r).em k && codeAddr (s.operand r w k) == codeAddr (s.operand r w lead)

section
variable {s : State} {r lead : Nat} {others : List Nat} (h : s.inHand r) (hlanes : lanesOf (s.stream r).em = lead :: others)
include h hlanes

/-- JMPI with a lead lane. -/
theorem jmpi_led {a : BitVec 7} (hr : s.readable r [{ f := a.toNat }] none) :
    ∃ t, exec (.jmpi a) s = .next t ∧ (t.stream r).pc = codeAddr (s.operand r { f := a.toNat } lead) ∧
      (t.stream r).em = s.stays r { f := a.toNat } lead ∧ (t.stream r).loops = (s.stream r).loops ∧
      Popped s t r [{ f := a.toNat }] ∧ OnlyStream s t r fun v => { v.flow with em := 0 } := by
  obtain ⟨hstream, hpopped, honly⟩ := commit_peeked s r [{ f := a.toNat }]
  obtain ⟨hjump, hcrew, honly'⟩ := em_jump (State.commit r (s.peeked r [{ f := a.toNat }])) r (s.peeked r [{ f := a.toNat }]).regs
    (s.stays r { f := a.toNat } lead) (codeAddr (s.operand r { f := a.toNat } lead))
  refine ⟨_, run_next h ?_, congrArg Stream.pc hjump, congrArg Stream.em hjump, (congrArg Stream.loops hjump).trans ?_,
    hpopped.of_crew hcrew, (honly.mono fun u v h => ?_).trans honly'⟩
  · simp only [peek_peeked _ h hr, leadTarget_some hlanes, bind, Except.bind]
    rfl
  · rw [hstream]
  · rw [Stream.flow_of_core h]

/-- CALLV with a lead lane. -/
theorem callv_led {nw : Bool} {d : BitVec 6} {a : BitVec 7} (hd : d.toNat < 56)
    (hr : s.readable r [{ f := a.toNat }] (some { n := d.toNat, nw })) :
    ∃ t, exec (.callv nw d a) s = .next t ∧ (t.stream r).pc = codeAddr (s.operand r { f := a.toNat } lead) ∧
      (t.stream r).em = s.stays r { f := a.toNat } lead ∧ (t.stream r).loops = (s.stream r).loops ∧
      Wrote s t r [{ f := a.toNat }] { n := d.toNat, nw } (s.stays r { f := a.toNat } lead)
        (fun _ => (((s.stream r).pc + 4).toNat, 0)) ∧
      (t.stream r).gen = (s.stream r).gen ∧ OnlyStream s t r fun v => { v.lessVec with fetched := [], em := 0 } := by
  obtain ⟨v, hv, hwrote, hloops, hgen, honly⟩ := commit_write s r [{ f := a.toNat }] { n := d.toNat, nw }
    (s.stays r { f := a.toNat } lead) (fun _ => (((s.stream r).pc + 4).toNat, 0)) (Nat.lt_of_lt_of_le hd (by decide))
  obtain ⟨hjump, hcrew, honly'⟩ := em_jump v r (s.peeked r [{ f := a.toNat }]).regs
    (s.stays r { f := a.toNat } lead) (codeAddr (s.operand r { f := a.toNat } lead))
  refine ⟨_, run_next h ?_, congrArg Stream.pc hjump, congrArg Stream.em hjump, (congrArg Stream.loops hjump).trans hloops,
    hwrote.of_same (congrArg Stream.v hjump :) (congrArg Stream.latches hjump :) hcrew, (congrArg Stream.gen hjump).trans hgen,
    (honly.mono fun u v h => ?_).trans (honly'.mono fun u v h => ?_)⟩
  · simp only [needReg_ok hd, peek_peeked _ h hr, leadTarget_some hlanes, bind, Except.bind]
    refine (congrArg (fun e : Except Stop State => e.bind fun s' => .ok ((s'.updStream r fun t => { t with
      em := s.stays r { f := a.toNat } lead }).jump r .control _ (codeAddr (s.operand r { f := a.toNat } lead)))) hv).trans ?_
    rfl
  · rw [h]
  · exact (congrArg (fun w : Stream => { w.lessVec with fetched := [], em := 0 }) h :)

/-- RETV with a lead lane. -/
theorem retv_led {d : BitVec 6} (hr : s.readable r [{ f := d.toNat, allow := .vec }] none) :
    (s.stays r { f := d.toNat, allow := .vec } lead = (s.stream r).em →
      ∃ t, exec (.retv d) s = .next t ∧ (t.stream r).pc = codeAddr (s.operand r { f := d.toNat, allow := .vec } lead) ∧
        (t.stream r).loops = (s.stream r).loops ∧ OnlyStream s t r Stream.flow) ∧
    (s.stays r { f := d.toNat, allow := .vec } lead ≠ (s.stream r).em →
      exec (.retv d) s = .next (s.takeTrap r { cause := 2, mask := (s.stream r).em })) := by
  have hjump := s.stream_jump r .control (s.peeked r [{ f := d.toNat, allow := .vec }]).regs
    (codeAddr (s.operand r { f := d.toNat, allow := .vec } lead))
  refine ⟨fun hstay => ⟨_, run_next h ?_, (congrArg Stream.pc hjump :), (congrArg Stream.loops hjump :),
    OnlyStream.jump s r .control _ _⟩, fun hstay => run_trap h ?_⟩
  · simp only [peek_peeked _ h hr, leadTarget_some hlanes, bind, Except.bind]
    exact if_pos hstay
  · simp only [peek_peeked _ h hr, leadTarget_some hlanes, bind, Except.bind]
    exact if_neg hstay

end

/-- Settles O18, by whether EM has a lane: with none the instruction completes; with a lead lane it jumps, after what it
writes. -/
theorem indirectJumpsFollowTheLeadLane : Obligations.IndirectJumpsFollowTheLeadLane := by
  refine ⟨fun s r nw d a h hem => ⟨fun hr => ?jmpiNone, fun hd hr => ?callvNone, fun hd hr => ?retvNone⟩, ?led⟩
  case led =>
    intro s r nw d a lead others h hlanes u src target stay
    exact ⟨jmpi_led h hlanes, callv_led h hlanes, fun _ => retv_led h hlanes⟩
  case jmpiNone =>
    refine run_commit h (c := .control) (reads := (s.peeked r [{ f := a.toNat }]).regs) (lines := 0) ?_
    simp only [peek_peeked _ h hr, leadTarget_none hem, bind, Except.bind]
    rfl
  case callvNone =>
    refine run_commit h (c := .control) (reads := (s.peeked r [{ f := a.toNat }]).regs) (lines := 0) ?_
    simp only [needReg_ok hd, peek_peeked _ h hr, leadTarget_none hem, bind, Except.bind]
    rfl
  case retvNone =>
    have he : exec (.retv d) s = .next (s.complete r .control (s.peeked r [{ f := d.toNat, allow := .vec }]).regs 0) := by
      refine run_next h ?_
      simp only [peek_peeked _ h hr, leadTarget_none hem, bind, Except.bind]
      rfl
    obtain ⟨-, -, hpc, hloops⟩ := complete_keeps s r .control (s.peeked r [{ f := d.toNat, allow := .vec }]).regs 0
    exact ⟨_, he, rfl, ⟨hpc, hloops⟩, OnlyStream.complete ..⟩

end Sys2Proof.Machine
end

section
/-! Taking a trap (01 R40, R41, 13 R309, R310, R321). -/

namespace Sys2Proof.Machine

/-- Latches that are void stay void where a crew's latches are made so. -/
theorem voidCrew_latches {s : State} {r k : Nat} (h : (s.stream k).latches = List.replicate 8 {}) :
    ((s.voidCrew r).stream k).latches = List.replicate 8 {} := by
  unfold State.voidCrew
  generalize crewStreams (s.gangAt r).single (crewOf r) = js
  induction js generalizing s with
  | nil => exact h
  | cons j js ih =>
    refine ih ?_
    by_cases hj : k = j
    · subst hj
      exact congrArg Stream.latches (State.stream_setStream s k _)
    · exact (congrArg Stream.latches (State.stream_setStream_other s _ hj)).trans h

theorem OnlyCrew.updStream (s : State) (r : Nat) (e f : Stream → Stream)
    (h : e { f (s.stream r) with latches := [] } = e { s.stream r with latches := [] }) : OnlyCrew s (s.updStream r f) r e where
  stream := by rw [State.updStream_eq, State.stream_setStream, h]
  fellow j hj _ := by rw [State.updStream_eq, State.stream_setStream_other _ _ hj]
  streams j hc := State.stream_setStream_other _ _ fun hj => hc (by rw [hj])
  crew := rfl
  crews _ _ := rfl
  nodes _ := rfl
  parts _ := rfl
  rest := rfl
  memory := SameMemory.refl s

/-- A stream with void latches that enters a handler, and its crew leaves the slot. -/
theorem enter_switchOut {s : State} {r : Nat} {f e : Stream → Stream} (hvoid : (f (s.stream r)).latches = List.replicate 8 {})
    (he : e { f (s.stream r) with latches := [] } = e { s.stream r with latches := [] }) :
    let t := (s.updStream r f).switchOut r false
    t.stream r = f (s.stream r) ∧ (∃ n age, (t.crewAt r).place = .ready n age) ∧ OnlyCrew s t r e := by
  intro t
  have hstream : (s.updStream r f).stream r = f (s.stream r) := State.stream_setStream ..
  have hless := stream_switchOut (s.updStream r f) r
  have hlatches : (t.stream r).latches = List.replicate 8 {} :=
    voidCrew_latches (s := s.updStream r f) (r := r) (by rw [hstream, hvoid])
  refine ⟨?_, switchOut_ready _ r, (OnlyCrew.updStream s r e f he).trans (OnlyCrew.switchOut _ r e)⟩
  calc t.stream r = { { t.stream r with latches := [] } with latches := (t.stream r).latches } := rfl
    _ = { { (s.updStream r f).stream r with latches := [] } with latches := List.replicate 8 {} } := by rw [hless, hlatches]
    _ = f (s.stream r) := by rw [hstream, ← hvoid]

/-! How a trap is delivered. -/

/-- Only the consumption of an uncorrectable error and an integrity fault do more than their delivery. -/
theorem takeTrap_plain {s : State} {r : Nat} {x : Trap} (hpoison : x.cause ≠ 0x28) (hintegrity : x.cause ≠ 0x29) :
    s.takeTrap r x = s.deliverTrap r x := by
  simp only [State.takeTrap, hpoison, hintegrity, if_false]

theorem deliverTrap_unparked {s : State} {r : Nat} {x : Trap} (h : (s.gangAt r).parking = false ∨ (s.stream r).intrap = true) :
    s.deliverTrap r x = if x.cause ≤ 9 then s.userTrap r x else s.systemTrap r x := by
  refine if_neg fun hp => ?_
  rcases h with h | h <;> simp [h] at hp

theorem systemTrap_entered {s : State} {r : Nat} {x : Trap} (h : (s.stream r).intrap = false) :
    s.systemTrap r x =
      (s.updStream r fun t => t.enterSystem x (x.word.getD s.word) (s.part (s.partNum r)).svec s.now).switchOut r false :=
  if_neg (by simp [h])

theorem systemTrap_nested {s : State} {r : Nat} {x : Trap} (h : (s.stream r).intrap = true) :
    s.systemTrap r x = s.supervisorFault r 0x7FFF := if_pos h

/-- A user trap that goes to system software as it is. -/
theorem userTrap_unhandled {s : State} {r : Nat} {x : Trap} (hin : (s.stream r).intrap = false) (hact : (s.stream r).hact = false)
    (hcause : x.cause ≠ 9) (hnone : (s.gangAt r).handler = none) : s.userTrap r x = s.systemTrap r x := by
  simp only [State.userTrap, hin, hact, hcause, hnone, Bool.false_eq_true, if_false]

/-- A user trap in the user handler. -/
theorem userTrap_inHandler {s : State} {r : Nat} {x : Trap} (hin : (s.stream r).intrap = false) (hact : (s.stream r).hact = true) :
    s.userTrap r x = s.systemTrap r (handlerFault x) := by
  simp only [State.userTrap, hin, hact, Bool.false_eq_true, if_false, if_true]

/-- A user trap whose handler can be entered. -/
theorem userTrap_handled {s : State} {r : Nat} {x : Trap} {pc : BitVec 24} (hin : (s.stream r).intrap = false)
    (hact : (s.stream r).hact = false) (hcause : x.cause ≠ 9) (hpc : (s.gangAt r).handler = some pc)
    (hpage : pc.toNat / 4096 < (s.gangAt r).pages) (hheld : s.holdsPage r false (pc.toNat / 4096) = true) :
    s.userTrap r x = (s.updStream r fun t => t.enterUser x pc).switchOut r false := by
  simp only [State.userTrap, hin, hact, hcause, hpc, Nat.not_le.mpr hpage, hheld, Bool.false_eq_true, if_false, Bool.not_true,
    and_false]

/-- Settles O22: the trap is delivered as the entry of the system handler, and the crew leaves its slot. -/
theorem systemTrapEntrySavesTheStream : Obligations.SystemTrapEntrySavesTheStream := by
  intro s r x hin hpark hcause hpoison hintegrity u t v
  have ht : t = (s.updStream r fun t => t.enterSystem x (x.word.getD s.word) (s.part (s.partNum r)).svec s.now).switchOut r false := by
    rw [← systemTrap_entered hin]
    exact ((takeTrap_plain hpoison hintegrity).trans (deliverTrap_unparked (.inl hpark))).trans (if_neg (by omega))
  obtain ⟨hv, hready, honly⟩ := enter_switchOut (s := s) (r := r) (e := Stream.lessSys)
    (f := fun t => t.enterSystem x (x.word.getD s.word) (s.part (s.partNum r)).svec s.now) rfl rfl
  rw [← ht] at hv hready honly
  rw [show v = _ from hv]
  exact ⟨rfl, rfl, rfl, rfl, rfl, rfl, rfl, rfl, rfl, rfl, rfl, rfl, rfl, rfl, hready, honly⟩

/-- Settles O23, by where the trap goes: the crew handler, or system software as a handler fault or as it is. -/
theorem userTrapEntry : Obligations.UserTrapEntry := by
  intro s r x hin hpark hlow hhigh u t v
  have hplain {y : Trap} (hy : y.cause ≤ 0x12) : s.takeTrap r y = if y.cause ≤ 9 then s.userTrap r y else s.systemTrap r y := by
    rw [takeTrap_plain (by omega) (by omega), deliverTrap_unparked (.inl hpark)]
  have ht : t = s.userTrap r x := (hplain (by omega)).trans (if_pos (by omega))
  refine ⟨fun pc hact hpc hpage hheld => ?handled, fun hact => ?inHandler, fun hact hnone => ?unhandled⟩
  case handled =>
    rw [userTrap_handled hin hact (by omega) hpc hpage hheld] at ht
    obtain ⟨hv, hready, honly⟩ := enter_switchOut (s := s) (r := r) (e := Stream.lessUser) (f := fun t => t.enterUser x pc) rfl rfl
    rw [← ht] at hv hready honly
    rw [show v = _ from hv]
    exact ⟨rfl, rfl, rfl, rfl, rfl, rfl, rfl, rfl, rfl, hready, honly⟩
  case inHandler =>
    rw [ht, userTrap_inHandler hin hact]
    exact ((hplain (y := handlerFault x) (le_refl 0x12)).trans (if_neg (by simp [handlerFault]))).symm
  case unhandled =>
    rw [userTrap_unhandled hin hact (by omega) hnone, systemTrap_entered hin] at ht
    obtain ⟨hv, -, -⟩ := enter_switchOut (s := s) (r := r) (e := Stream.lessSys)
      (f := fun t => t.enterSystem x (x.word.getD s.word) (s.part (s.partNum r)).svec s.now) rfl rfl
    rw [← ht] at hv
    rw [show v = _ from hv]
    exact ⟨rfl, rfl, rfl, rfl, rfl⟩

/-- A change of some streams that keeps a field of each keeps it in all. -/
theorem foldl_updStream_keeps {α : Type} {f : Stream → Stream} {p : Stream → α} (hf : ∀ t, p (f t) = p t) (js : List Nat) (s : State) :
    let t := js.foldl (fun s j => s.updStream j f) s
    t.nodes = s.nodes ∧ t.mem = s.mem ∧ ∀ k, p (t.stream k) = p (s.stream k) := by
  induction js generalizing s with
  | nil => exact ⟨rfl, rfl, fun _ => rfl⟩
  | cons j js ih =>
    obtain ⟨hnodes, hmem, hstreams⟩ := ih (s.updStream j f)
    refine ⟨hnodes, hmem, fun k => (hstreams k).trans ?_⟩
    by_cases hk : k = j
    · subst hk
      exact (congrArg p (State.stream_setStream s k _)).trans (hf _)
    · exact congrArg p (State.stream_setStream_other s _ hk)

/-- A stopped crew: its streams stay where they are, at their level. -/
theorem stopCrew_keeps (s : State) (k : Nat) :
    let t := s.stopCrew k
    t.nodes = s.nodes ∧ t.mem = s.mem ∧ ∀ j, ((t.stream j).pc, (t.stream j).intrap) = ((s.stream j).pc, (s.stream j).intrap) := by
  refine foldl_updStream_keeps (p := fun t => (t.pc, t.intrap)) (fun t => ?_) _ s
  dsimp only
  split <;> rfl

/-- Settles O24, by the kind of trap and by what the stream's gang is doing. -/
theorem nestedTrapsAndParks : Obligations.NestedTrapsAndParks := by
  intro s r x g logged
  refine ⟨fun hpoison hintegrity hin => ?nested, fun hc => ?poison, fun hc => ?integrity,
    fun hpoison hintegrity hin hpark hsingle heven hlive => ?parks⟩
  case nested =>
    rw [takeTrap_plain hpoison hintegrity, deliverTrap_unparked (.inr hin), systemTrap_nested hin, State.userTrap, if_pos hin,
      systemTrap_nested hin, ite_self]
    rfl
  case poison => simp [State.takeTrap, hc, logged, g]
  case integrity => simp [State.takeTrap, hc, g]
  case parks =>
    intro t
    have ht : t = (s.stopCrew (crewOf r)).updStream r fun t => { t with pending := some { x with word := some (x.word.getD s.word) } } :=
      (takeTrap_plain hpoison hintegrity).trans (if_pos ⟨hpark, by simp [hin]⟩)
    obtain ⟨hnodes, hmem, hstreams⟩ := stopCrew_keeps s (crewOf r)
    obtain ⟨hpc, hintrap⟩ := Prod.mk.inj (hstreams r)
    have hstream : t.stream r = { (s.stopCrew (crewOf r)).stream r with pending := some { x with word := some (x.word.getD s.word) } } := by
      rw [ht, State.updStream_eq, State.stream_setStream]
    rw [hstream]
    refine ⟨rfl, hpc, hintrap.trans hin, ?_, ?_, ?_⟩
    all_goals rw [ht]
    · exact congrArg Crew.stopped (State.crew_setCrew ..)
    · exact hnodes
    · exact hmem

end Sys2Proof.Machine
end

section
/-! The return from a trap (06 R158, 13 R323). -/

namespace Sys2Proof.Machine

/-- A stream that leaves a handler, charged for it. -/
theorem charge_leaves (s : State) (r : Nat) (c : Cls) (reads : Nat) {f e : Stream → Stream} (he : e (f (s.stream r)) = e (s.stream r)) :
    let t := (s.chargeInstr r c reads 0).updStream r f
    t.stream r = f (s.stream r) ∧ t.crews = s.crews ∧ OnlyStream s t r e :=
  ⟨State.stream_setStream .., rfl, (OnlyStream.charge s r e c reads 0).trans (OnlyStream.updStream _ r e f he)⟩

/-! TRET. -/

theorem exec_tret {s : State} {r : Nat} {d : BitVec 6} {redir : Bool} (h : s.inHand r) (hd : redir = true ∨ d = 0)
    (hd32 : d.toNat < 32) (hact : (s.stream r).hact = true) :
    exec (.tret d redir) s = .next ((s.chargeInstr r .control redir.toNat 0).updStream r fun t =>
      t.leaveUser (if redir then some (codeAddr ((s.stream r).creg d.toNat).v.toNat) else none)) := by
  have hform : (redir || d == 0) = true := by rcases hd with rfl | rfl <;> simp
  refine run_next h ?_
  simp only [need, hform, hact, decide_eq_true hd32, Bool.and_self, if_true, bind, Except.bind]
  rfl

/-- A stream without what a return from the user handler changes. -/
def Stream.lessUserReturn (t : Stream) : Stream := { t.flow with em := 0, hact := false, latches := [] }

theorem leaveUser_keeps (t : Stream) (redirect : Option (BitVec 24)) : (t.leaveUser redirect).lessUserReturn = t.lessUserReturn := by
  unfold Stream.leaveUser
  cases redirect with
  | some pc => rfl
  | none =>
    dsimp only
    split
    · simp only [Stream.lessUserReturn, Stream.flow, Stream.next_core]
      rfl
    · rfl

/-- The fields that a return from the user handler restores. -/
theorem leaveUser_fields (t : Stream) (redirect : Option (BitVec 24)) :
    (t.leaveUser redirect).em = t.trapem &&& t.live ∧ (t.leaveUser redirect).hact = false ∧
      (t.leaveUser redirect).latches = List.replicate 8 {} := by
  unfold Stream.leaveUser
  cases redirect with
  | some pc => exact ⟨rfl, rfl, rfl⟩
  | none =>
    dsimp only
    split
    · have h := Stream.next_core { t.voidLatches with
        em := t.trapem &&& t.live, hact := false, fetched := [], wait := none, pc := BitVec.ofNat 24 t.trappc.toNat }
      exact ⟨(congrArg Stream.em h :), (congrArg Stream.hact h :), (congrArg Stream.latches h :)⟩
    · exact ⟨rfl, rfl, rfl⟩

/-- Where a return from the user handler goes on. -/
theorem leaveUser_after_trap {t : Stream} (h : t.trapcause = 8) :
    (t.leaveUser none).pc = ({ t with pc := BitVec.ofNat 24 t.trappc.toNat } : Stream).next.pc ∧
      (t.leaveUser none).loops = ({ t with pc := BitVec.ofNat 24 t.trappc.toNat } : Stream).next.loops := by
  simp only [Stream.leaveUser, h, if_true]
  exact Stream.next_pc rfl rfl

theorem leaveUser_back {t : Stream} (h : t.trapcause ≠ 8) :
    (t.leaveUser none).pc = BitVec.ofNat 24 t.trappc.toNat ∧ (t.leaveUser none).loops = t.loops := by
  exact ⟨(congrArg Stream.pc (if_neg h) :), (congrArg Stream.loops (if_neg h) :)⟩

/-- Settles O26: TRET is one change of its stream, whose target depends on the form and on the trap. -/
theorem tretLeavesTheHandler : Obligations.TretLeavesTheHandler := by
  intro s r d h hd u back leaves
  have hleaves {e : BitVec 6} {redir : Bool} (hform : redir = true ∨ e = 0) (he : e.toNat < 32) (hact : u.hact = true)
      {pc : BitVec 24} {loops : List LoopLevel}
      (hpc : (u.leaveUser (if redir then some (codeAddr (u.creg e.toNat).v.toNat) else none)).pc = pc)
      (hloops : (u.leaveUser (if redir then some (codeAddr (u.creg e.toNat).v.toNat) else none)).loops = loops) :
      leaves (.tret e redir) pc loops := by
    obtain ⟨hem, hhact, hlatches⟩ := leaveUser_fields u (if redir then some (codeAddr (u.creg e.toNat).v.toNat) else none)
    obtain ⟨hstream, hcrews, honly⟩ := charge_leaves s r .control redir.toNat (e := Stream.lessUserReturn)
      (f := fun t => t.leaveUser (if redir then some (codeAddr (u.creg e.toNat).v.toNat) else none)) (leaveUser_keeps ..)
    refine ⟨_, exec_tret h hform he hact, ?_, ?_, ?_, ?_, ?_, hcrews, honly⟩
    all_goals rw [hstream]
    all_goals assumption
  refine ⟨fun hact => ⟨fun hc => ?back, fun hc => ?past, ?redirected⟩, fun hact i hi => ?illegal⟩
  case back => exact hleaves (.inr rfl) (by decide) hact (leaveUser_back hc).1 (leaveUser_back hc).2
  case past => exact hleaves (.inr rfl) (by decide) hact (leaveUser_after_trap hc).1 (leaveUser_after_trap hc).2
  case redirected => exact hleaves (.inl rfl) hd hact rfl rfl
  case illegal =>
    have hhact : (s.stream r).hact = false := hact
    have ⟨hcur, hlive, _⟩ := h
    obtain rfl | rfl : i = .tret 0 false ∨ i = .tret d true := by simpa using hi
    all_goals
      refine run_illegal hcur hlive ?_
      simp only [need, hhact, Bool.false_and, Bool.false_eq_true, if_false, bind, Except.bind]
      rfl

/-! ERET. -/

/-- A legal form of ERET passes its checks. -/
theorem eret_form {form : BitVec 2} {d : BitVec 6} (hform : form ≠ 3) (hd : form = 2 → d.toNat < 32) :
    (form.toNat != 3) = true ∧ (form.toNat != 2 || decide (d.toNat < 32)) = true := by
  refine ⟨by simpa [← BitVec.toNat_inj] using hform, ?_⟩
  by_cases hf : form = 2
  · simp [hd hf]
  · have : (form.toNat != 2) = true := by simpa [← BitVec.toNat_inj] using hf
    simp [this]

/-- ERET of a stream at supervisor level in its system handler, with a legal form. -/
theorem exec_eret {s : State} {r : Nat} {d : BitVec 6} {form : BitVec 2} (h : s.inHand r) (hd : form = 2 → d.toNat < 32)
    (hform : form ≠ 3) (hsuper : s.superOk r) (hin : (s.stream r).intrap = true) :
    exec (.eret d form) s = .next (if bits (s.stream r).scause.toNat 7 0 = 0x29 ∨ (s.node (s.nodeNum r)).endAtEret then s.eretHalt r
      else ((s.chargeInstr r .privileged (if form.toNat = 2 then 1 else 0) 0).updStream r fun t => t.leaveSystem form.toNat
        (BitVec.ofNat 24 (bits ((s.stream r).creg d.toNat).v.toNat 23 2 * 4))).retryArgs r form.toNat) := by
  obtain ⟨h3, h2⟩ := eret_form hform hd
  refine run_next h ?_
  simp only [need, h3, h2, hin, if_true, needSuper, hsuper, bind, Except.bind]
  split <;> rfl

/-- A stream without what a return from the system handler changes. -/
def Stream.lessReturn (t : Stream) : Stream :=
  { t.flow with priv := false, hact := false, intrap := false, em := 0, latches := [], serving := none }

/-- A stream as a return from the system handler restores it, but for where it goes on. -/
def Stream.restored (t : Stream) (pc : BitVec 24) : Stream :=
  { t.voidLatches with
    priv := t.ppriv, hact := t.phact, intrap := false, em := t.sem &&& t.live, fetched := [], wait := none, serving := none, pc }

theorem leaveSystem_past (t : Stream) (target : BitVec 24) :
    t.leaveSystem 1 target = (t.restored (BitVec.ofNat 24 t.spc.toNat)).next := rfl

theorem two_bits (x : BitVec 2) : x = 0 ∨ x = 1 ∨ x = 2 ∨ x = 3 := by
  revert x
  decide

/-- The stream after its return, and where it goes on, by the mode. -/
theorem leaveSystem_fields (t : Stream) (form : BitVec 2) (target : BitVec 24) :
    let u := t.leaveSystem form.toNat target
    u.lessReturn = t.lessReturn ∧ u.priv = t.ppriv ∧ u.hact = t.phact ∧ u.intrap = false ∧ u.em = t.sem &&& t.live ∧
      u.latches = List.replicate 8 {} ∧ u.argFault = t.argFault ∧ u.c = t.c := by
  have hpast := Stream.next_core (t.restored (BitVec.ofNat 24 t.spc.toNat))
  obtain rfl | rfl | rfl | rfl := two_bits form
  case inr.inl =>
    refine ⟨?_, (congrArg Stream.priv hpast :), (congrArg Stream.hact hpast :), (congrArg Stream.intrap hpast :),
      (congrArg Stream.em hpast :), (congrArg Stream.latches hpast :), (congrArg Stream.argFault hpast :),
      (congrArg Stream.c hpast :)⟩
    exact (congrArg (fun u : Stream => { u with
      fetched := [], priv := false, hact := false, intrap := false, em := 0, latches := [], serving := none }) hpast :)
  all_goals exact ⟨rfl, rfl, rfl, rfl, rfl, rfl, rfl, rfl⟩

theorem leaveSystem_pc (t : Stream) (form : BitVec 2) (target : BitVec 24) :
    let back : Stream := { t with pc := BitVec.ofNat 24 t.spc.toNat }
    (t.leaveSystem form.toNat target).pc = (if form = 0 then back.pc else if form = 1 then back.next.pc else target) ∧
      (t.leaveSystem form.toNat target).loops = if form = 1 then back.next.loops else t.loops := by
  obtain rfl | rfl | rfl | rfl := two_bits form
  case inr.inl => exact Stream.next_pc (t := t.restored (BitVec.ofNat 24 t.spc.toNat)) rfl rfl
  all_goals exact ⟨rfl, rfl⟩

/-- A table after the same entry was put under several keys. -/
theorem get_foldl_put {α : Type} (d x : α) (is : List Nat) (c : Tab α) (k : Nat) :
    Tab.get d (is.foldl (fun c i => Tab.put i x c) c) k = if k ∈ is then x else Tab.get d c k := by
  induction is generalizing c with
  | nil => rfl
  | cons i is ih =>
    rw [List.foldl_cons, ih]
    by_cases hk : k = i
    · subst hk; simp
    · simp [hk, Tab.get_put_other _ _ _ hk]

/-- The registers of a stream that is given no arguments. -/
theorem creg_giveArgs_none (t : Stream) (k : Nat) : (t.giveArgs none).creg k = if k < 8 then {} else t.creg k := by
  simp only [Stream.creg, Stream.giveArgs, get_foldl_put, List.mem_range]

theorem retryArgs_none {s : State} {r mode : Nat} (h : (s.stream r).argFault = none) : s.retryArgs r mode = s := by
  simp only [State.retryArgs, h]

theorem retryArgs_dropped {s : State} {r mode : Nat} (h : (s.stream r).argFault.isSome = true) (hmode : mode ≠ 0) :
    s.retryArgs r mode = s.updStream r fun t => t.giveArgs none := by
  obtain ⟨x, hx⟩ := Option.isSome_iff_exists.mp h
  simp only [State.retryArgs, hx, if_neg hmode]

/-- Settles O27: ERET by the state of the node and of the stream's argument block. -/
theorem eretLeavesTheHandler : Obligations.EretLeavesTheHandler := by
  intro s r d form h hd u n back
  have ⟨hcur, hlive, _⟩ := h
  let target : BitVec 24 := BitVec.ofNat 24 (bits (u.creg d.toNat).v.toNat 23 2 * 4)
  obtain ⟨hless, hpriv, hhact, hintrap, hem, hlatches, hfault, hc⟩ := leaveSystem_fields u form target
  obtain ⟨hpc, hloops⟩ := leaveSystem_pc u form target
  obtain ⟨hstream, hcrews, honly⟩ := charge_leaves s r .privileged (if form.toNat = 2 then 1 else 0) (e := Stream.lessReturn)
    (f := fun t => t.leaveSystem form.toNat target) hless
  refine ⟨fun hsuper hin hform hcause hnode => ⟨fun hargs => ?returns, fun hargs hmode => ?dropsArgs⟩,
    fun hsuper hin hform hnode hcause => ?integrity, fun hsuper hin hform hnode => ⟨fun hlast => ?last, fun hothers => ?others⟩,
    fun hsuper hin hform => ?outside, fun hform => ?mode3⟩
  case returns =>
    have he := exec_eret h hd hform hsuper hin
    rw [if_neg (by simp [u, n] at hcause hnode; simp [hcause, hnode]),
      retryArgs_none (by rw [hstream]; exact hfault.trans hargs)] at he
    refine ⟨_, he, ?_⟩
    rw [hstream]
    exact ⟨hpriv, hhact, hintrap, hem, hlatches, hpc, hloops, hcrews, honly⟩
  case dropsArgs =>
    have hmode0 : form.toNat ≠ 0 := by simpa [← BitVec.toNat_inj] using hmode
    have he := exec_eret h hd hform hsuper hin
    rw [if_neg (by simp [u, n] at hcause hnode; simp [hcause, hnode]),
      retryArgs_dropped (by rw [hstream]; exact (congrArg Option.isSome hfault).trans hargs) hmode0] at he
    refine ⟨_, he, ?_⟩
    rw [State.updStream_eq _ r (fun t => t.giveArgs none), State.stream_setStream, hstream]
    refine ⟨rfl, hintrap, fun k => ?_⟩
    rw [creg_giveArgs_none]
    exact congrArg (fun c => if k < 8 then {} else Tab.get {} c k) hc
  case integrity =>
    have he := exec_eret h hd hform hsuper hin
    rw [if_pos (.inl hcause)] at he
    simpa [State.eretHalt, State.haltNode, n, show (s.node (s.nodeNum r)).endAtEret = false from hnode] using he
  case last =>
    have he := exec_eret h hd hform hsuper hin
    rw [if_pos (.inr hnode)] at he
    simpa [State.eretHalt, State.haltNode, n, show (s.node (s.nodeNum r)).endAtEret = true from hnode,
      show (s.handlers (s.nodeNum r)).any (· != r) = false from hlast] using he
  case others =>
    have he := exec_eret h hd hform hsuper hin
    rw [if_pos (.inr hnode)] at he
    simpa [State.eretHalt, State.haltNode, n, show (s.node (s.nodeNum r)).endAtEret = true from hnode,
      show (s.handlers (s.nodeNum r)).any (· != r) = true from hothers] using he
  case outside =>
    refine run_illegal hcur hlive ?_
    obtain ⟨h3, h2⟩ := eret_form hform hd
    simp only [need, h3, h2, show (s.stream r).intrap = false from hin, needSuper, show (s.stream r).priv = true from hsuper,
      if_true, Bool.false_eq_true, if_false, bind, Except.bind]
  case mode3 =>
    subst hform
    exact run_illegal (sub := 3) hcur hlive (by rfl)

end Sys2Proof.Machine
end

section
/-! Privileged instructions (13 R298 to R331). -/

namespace Sys2Proof.Machine

/-! Checks. -/

theorem needHaul_ok {s : State} {r : Nat} (h : s.haulOk r) : needHaul s r = .ok () := by
  simp only [needHaul, need, h, if_true]

theorem needSuper_ok {s : State} {r : Nat} (h : s.superOk r) : needSuper s r = .ok () := if_pos h

/-- Privileged registers take the values of their range and no others. -/
theorem privWrite_isSome (s : State) (r idx v : Nat) : (s.privWrite r idx v).isSome = mtpOk idx v := by
  unfold State.privWrite
  split
  case h_9 => simp_all [mtpOk]
  all_goals simp only [mtpOk]
  all_goals split <;> simp_all

theorem srcOf_notZ {a : BitVec 7} (h : a.toNat ≠ 72) : (srcOf a.toNat != .z) = true := by
  unfold srcOf
  split_ifs <;> simp_all

/-- What a uniform source gives, in the words of the instructions that read it. -/
theorem peek_uni {s : State} {r : Nat} {a : BitVec 7} {wide : Bool} (h : s.inHand r) (hr : s.readable r [uniWide a wide] none) :
    s.peek r 0 [{ f := a.toNat, wide, allow := .uni }] none = .ok (s.peeked r [uniWide a wide]) := peek_peeked 0 h hr

/-- Settles O28: the check of the level comes after those of the form. -/
theorem privilegedInstructionsTrapAtUserLevel : Obligations.PrivilegedInstructionsTrapAtUserLevel := by
  intro s r nw fr sl m d a idx lab form kind scope status h hpriv traps
  have hsuper : needSuper s r = .error (s.privilege r 0) := if_neg (by simp [hpriv])
  refine ⟨fun wide v hv => ⟨fun hd heven => ?mfp, fun hr hok => ?mtp⟩, fun hform hd => ?eret, fun hstatus => ?halt,
    fun hd => ?shedack, fun hr => ?ovloadp, fun hd hsrc => ?declass, fun hhaul => ⟨fun hkind hlow hhigh hr hz => ?tlbinv,
    fun hd hr => ⟨?ctxsave, ?ctxload⟩, fun hd ha hr => ⟨fun hform => ?park, ?unpark⟩⟩⟩
  all_goals refine run_trap h ?_
  case mfp =>
    have hdst : (decide (d.toNat < 32) && (!wide || d.toNat % 2 == 0)) = true := by cases wide <;> simp_all
    simp only [hv, hdst, need_true, hsuper, bind, Except.bind]
    rfl
  case mtp =>
    obtain ⟨t, ht⟩ := Option.isSome_iff_exists.mp ((privWrite_isSome s r idx.toNat _).trans hok)
    have hwrite : (s.peeked r [uniWide a wide]).st.privWrite r idx.toNat ((s.peeked r [uniWide a wide]).val 0 0) = some t := ht
    simp only [hv, peek_uni h hr, hwrite, hsuper, bind, Except.bind]
    rfl
  case eret =>
    obtain ⟨h3, h2⟩ := eret_form hform hd
    simp only [h3, h2, need_true, hsuper, bind, Except.bind]
    rfl
  case halt =>
    simp only [bne_iff_ne.mpr hstatus, need_true, hsuper, bind, Except.bind]
    rfl
  case shedack =>
    simp only [decide_eq_true hd, need_true, hsuper, bind, Except.bind]
    rfl
  case ovloadp =>
    simp only [State.uniform, peek_uni h hr, hsuper, bind, Except.bind]
    rfl
  case declass =>
    simp only [hsrc, needReg_ok hd, hsuper, bind, Except.bind]
    rfl
  case tlbinv =>
    have hform : (decide (kind.toNat < 2) && decide (3 ≤ scope.toNat) && decide (scope.toNat ≤ 6)) = true := by simp [hkind, hlow, hhigh]
    have hsrc : (kind == 0 || srcOf a.toNat == .z) = true := by
      rcases hz with rfl | hz
      · rfl
      · simp [hz, srcOf]
    simp only [needHaul_ok hhaul, hform, hsrc, need_true, peek_uni h hr, hsuper, bind, Except.bind]
    rfl
  case ctxsave | ctxload =>
    have hp : s.peek r 0 [uniWant a] none = _ := peek_uni h hr
    simp only [needHaul_ok hhaul, decide_eq_true hd, need_true, hp, hsuper, bind, Except.bind]
    rfl
  case park =>
    simp only [needHaul_ok hhaul, decide_eq_true hd, decide_eq_true hform, srcOf_notZ ha, Bool.and_self, need_true, peek_uni h hr,
      hsuper, bind, Except.bind]
    rfl
  case unpark =>
    simp only [needHaul_ok hhaul, decide_eq_true hd, srcOf_notZ ha, Bool.and_self, need_true, peek_uni h hr, hsuper, bind, Except.bind]
    rfl

end Sys2Proof.Machine
end

section
/-! MFP and MTP (13 R322). -/

namespace Sys2Proof.Machine

theorem gangAt_setStream (s : State) (k r : Nat) (x : Stream) : (s.setStream k x).gangAt r = s.gangAt r := rfl
theorem gangAt_setPart (s : State) (k r : Nat) (x : Part) : (s.setPart k x).gangAt r = s.gangAt r := rfl

/-- Privileged registers are fields of the stream, its gang and its partition that no completion changes. -/
theorem privReg_complete (s : State) (r k : Nat) (c : Cls) (reads lines : Nat) :
    (s.complete r c reads lines).privReg r k = s.privReg r k := by
  have honly := OnlyStream.complete s r c reads lines
  have hstream := honly.stream
  have hpart := honly.parts (s.gangAt r).part
  simp only [Stream.core, Stream.mk.injEq] at hstream
  simp only [Part.lessEnergy, Part.mk.injEq] at hpart
  have hgang : (s.complete r c reads lines).gangAt r = s.gangAt r := rfl
  unfold State.privReg
  rw [hgang]
  simp only [Stream.sstatus, hstream, hpart]

/-- A scratch register. -/
theorem privReg_scratch (s : State) (r : Nat) {k : Nat} (hlow : 8 ≤ k) (hhigh : k < 16) :
    s.privReg r k = some (false, (Tab.get 0 (s.stream r).sscr (k - 8)).toNat) := by
  unfold State.privReg
  split
  case h_21 => simp [hlow, hhigh]
  all_goals omega

/-- MTP of a scratch register. -/
theorem privWrite_scratch (s : State) (r v : Nat) {k : Nat} (hlow : 8 ≤ k) (hhigh : k < 16) :
    s.privWrite r k v = some (s.updStream r fun t => { t with sscr := Tab.put (k - 8) (w32 v) t.sscr }) := by
  unfold State.privWrite
  split
  case h_9 => simp [hlow, hhigh]
  all_goals omega

/-- The other registers do not depend on the scratch registers. -/
theorem privReg_sscr (s : State) (r : Nat) (sscr : Tab Word) {k : Nat} (h : ¬(8 ≤ k ∧ k < 16)) :
    (s.updStream r fun t => { t with sscr }).privReg r k = s.privReg r k := by
  unfold State.privReg
  split
  case h_21 => simp only [if_neg h]
  all_goals simp [Stream.sstatus, gangAt_setStream]

/-- MTP leaves the other registers alone. -/
theorem privReg_privWrite_other {s t : State} {r idx v k : Nat} (h : s.privWrite r idx v = some t) (hk : k ≠ idx) :
    t.privReg r k = s.privReg r k := by
  by_cases hs : 8 ≤ idx ∧ idx < 16
  · obtain ⟨hlow, hhigh⟩ := hs
    rw [privWrite_scratch s r v hlow hhigh] at h
    cases h
    by_cases hs : 8 ≤ k ∧ k < 16
    · rw [privReg_scratch _ _ hs.1 hs.2, privReg_scratch _ _ hs.1 hs.2, State.updStream_eq, State.stream_setStream]
      exact congrArg (fun x : Word => some (false, x.toNat)) (Tab.get_put_other _ _ _ (by omega))
    · exact privReg_sscr s r _ hs
  · unfold State.privWrite at h
    split at h
    case h_2 | h_3 =>
      cases h
      unfold State.privReg
      split <;> simp_all [Stream.sstatus, gangAt_setStream]
    case h_9 => rw [if_neg hs] at h; cases h; rfl
    all_goals
      simp only [Option.ite_none_right_eq_some, Option.some.injEq] at h
      obtain ⟨-, rfl⟩ := h
      unfold State.privReg
      split <;> simp_all [Stream.sstatus, gangAt_setStream, gangAt_setPart, State.partNum]

/-- SSTATUS of a stream whose two saved bits were written. -/
theorem sstatus_written (t : Stream) (v : Nat) :
    ({ t with phact := bitOf v 3, ppriv := bitOf v 2 } : Stream).sstatus = t.sstatus % 4 + bits v 3 2 * 4 := by
  have hlow : t.sstatus % 4 = t.priv.toNat * 2 + t.intrap.toNat := by
    have := Bool.toNat_lt t.priv
    have := Bool.toNat_lt t.intrap
    simp only [Stream.sstatus]
    omega
  have hbit (k : Nat) : (bitOf v k).toNat = v / 2 ^ k % 2 := by
    simp only [bitOf]
    rcases Nat.mod_two_eq_zero_or_one (v / 2 ^ k) with h | h <;> simp [h]
  rw [hlow]
  simp only [Stream.sstatus, hbit, bits]
  omega

/-- A register that MTP writes holds the value in its RW fields. -/
theorem privReg_privWrite {s t : State} {r idx v old : Nat} {wide : Bool} (hold : s.privReg r idx = some (wide, old))
    (h : s.privWrite r idx v = some t) : t.privReg r idx = some (wide, mtpValue idx old v) := by
  by_cases hs : 8 ≤ idx ∧ idx < 16
  · obtain ⟨hlow, hhigh⟩ := hs
    have hvalue : mtpValue idx old v = v % 2 ^ 32 := by
      rw [mtpValue, if_neg (by omega), if_neg (by omega), if_pos (by omega)]
    rw [privWrite_scratch s r v hlow hhigh] at h
    cases h
    rw [privReg_scratch _ _ hlow hhigh] at hold ⊢
    cases hold
    rw [State.updStream_eq, State.stream_setStream, hvalue]
    simp [w32]
  · unfold State.privWrite at h
    split at h
    case h_1 =>
      simp only [Option.ite_none_right_eq_some, Option.some.injEq] at h
      obtain ⟨-, rfl⟩ := h
      cases hold
      refine congrArg (fun x => some (false, x)) ?_
      rw [State.updStream_eq, State.stream_setStream]
      exact sstatus_written _ v
    case h_2 =>
      cases h
      cases hold
      simp [State.privReg, mtpValue, w32, bits]
      omega
    case h_3 =>
      cases h
      cases hold
      simp [State.privReg, mtpValue, w32]
    case h_9 _ h0 h1 h5 h35 h36 h37 h38 h40 =>
      have hvalue : mtpValue idx old v = old := by
        have hne : idx ≠ 0 ∧ idx ≠ 1 ∧ idx ≠ 5 ∧ idx ≠ 35 ∧ idx ≠ 36 ∧ idx ≠ 37 ∧ idx ≠ 38 ∧ idx ≠ 40 :=
          ⟨h0, h1, h5, h35, h36, h37, h38, h40⟩
        simp only [mtpValue, hne, hs, or_self, if_false]
      rw [if_neg hs] at h
      cases h
      rw [hold, hvalue]
    all_goals
      simp only [Option.ite_none_right_eq_some, Option.some.injEq] at h
      obtain ⟨-, rfl⟩ := h
      cases hold
      simp [State.privReg, State.partNum, gangAt_setPart, mtpValue, w32, w64]

/-- What MTP leaves alone besides privileged registers. -/
structure MtpFrame (s t : State) (r : Nat) : Prop where
  crews : t.crews = s.crews
  mem : t.mem = s.mem
  streams : ∀ j, j ≠ r → t.stream j = s.stream j
  c : (t.stream r).c = (s.stream r).c
  v : (t.stream r).v = (s.stream r).v
  pc : (t.stream r).pc = (s.stream r).pc
  loops : (t.stream r).loops = (s.stream r).loops

theorem MtpFrame.refl (s : State) (r : Nat) : MtpFrame s s r := ⟨rfl, rfl, fun _ _ => rfl, rfl, rfl, rfl, rfl⟩

theorem MtpFrame.updPart (s : State) (r k : Nat) (f : Part → Part) : MtpFrame s (s.updPart k f) r :=
  ⟨rfl, rfl, fun _ _ => rfl, rfl, rfl, rfl, rfl⟩

theorem MtpFrame.updStream (s : State) (r : Nat) {f : Stream → Stream} (hc : (f (s.stream r)).c = (s.stream r).c)
    (hv : (f (s.stream r)).v = (s.stream r).v) (hpc : (f (s.stream r)).pc = (s.stream r).pc)
    (hloops : (f (s.stream r)).loops = (s.stream r).loops) : MtpFrame s (s.updStream r f) r := by
  have hstream : (s.updStream r f).stream r = f (s.stream r) := State.stream_setStream ..
  refine ⟨rfl, rfl, fun _ hj => State.stream_setStream_other _ _ hj, ?_, ?_, ?_, ?_⟩
  all_goals rw [hstream]; assumption

theorem privWrite_frame {s t : State} {r idx v : Nat} (h : s.privWrite r idx v = some t) : MtpFrame s t r := by
  unfold State.privWrite at h
  split at h
  case h_2 | h_3 => cases h; exact .updStream s r rfl rfl rfl rfl
  case h_9 =>
    cases h
    split
    · exact .updStream s r rfl rfl rfl rfl
    · exact .refl s r
  all_goals
    simp only [Option.ite_none_right_eq_some, Option.some.injEq] at h
    obtain ⟨-, rfl⟩ := h
  case h_1 => exact .updStream s r rfl rfl rfl rfl
  all_goals exact .updPart s r _ _

/-- Settles O29: MFP is one write of its uniform register or pair; MTP is the write of its register, and then completes. -/
theorem privilegedRegistersReadAndWrite : Obligations.PrivilegedRegistersReadAndWrite := by
  intro s r d a idx h
  refine ⟨fun wide old hold => ⟨fun hsuper hd heven => ?mfp, fun hr => ⟨fun hsuper hok => ?mtp, fun hbad => ?range⟩⟩,
    fun hnone => ⟨run_trap h (by simp only [hnone]; rfl), run_trap h (by simp only [hnone]; rfl)⟩⟩
  case mfp =>
    have hdst : (decide (d.toNat < 32) && (!wide || d.toNat % 2 == 0)) = true := by cases wide <;> simp_all
    exact putC_completes h (by simp only [hold, hdst, need_true, needSuper_ok hsuper]; rfl)
  all_goals
    have hsome := privWrite_isSome s r idx.toNat (s.operand r (uniWide a wide) 0)
    have hpeek := peek_uni h hr
  case mtp =>
    rw [hok, Option.isSome_iff_exists] at hsome
    obtain ⟨t, ht⟩ := hsome
    have hwrite : (s.peeked r [uniWide a wide]).st.privWrite r idx.toNat ((s.peeked r [uniWide a wide]).val 0 0) = some t := ht
    obtain ⟨hcrews, hmem, hstreams, hc, hv, hpc, hloops⟩ := privWrite_frame ht
    obtain ⟨hcore, -, hpc', hloops'⟩ := complete_keeps t r .privileged (s.peeked r [uniWide a wide]).regs 0
    have honly := OnlyStream.complete t r .privileged (s.peeked r [uniWide a wide]).regs 0
    have hnext := Stream.next_pc hpc hloops
    refine ⟨t.complete r .privileged (s.peeked r [uniWide a wide]).regs 0, run_next h ?_, ?_, ⟨hpc'.trans hnext.1, hloops'.trans hnext.2⟩,
      fun k hk => ?_, hcrews, hmem, ?_, ?_, fun j hj => (honly.streams j hj).trans (hstreams j hj)⟩
    · simp only [hold, hpeek, hwrite, needSuper_ok hsuper, bind, Except.bind]
      rfl
    · rw [privReg_complete, privReg_privWrite hold ht]
    · rw [privReg_complete, privReg_privWrite_other ht hk]
    · exact (congrArg Stream.c hcore :).trans hc
    · exact (congrArg Stream.v hcore :).trans hv
  case range =>
    rw [show mtpOk idx.toNat (s.operand r (uniWide a wide) 0) = false from hbad, Option.isSome_eq_false_iff,
      Option.isNone_iff_eq_none] at hsome
    have hwrite : (s.peeked r [uniWide a wide]).st.privWrite r idx.toNat ((s.peeked r [uniWide a wide]).val 0 0) = none := hsome
    refine run_trap h ?_
    simp only [hold, hpeek, hwrite, bind, Except.bind]
    rfl

end Sys2Proof.Machine
end

section
/-! SUPPORT. What traffic of the caches leaves alone: everything but cores, dies, messages in flight, and local memory with its
write counters, which stays in canonical form (03 R86, 15 R369 to R375). -/

namespace Sys2Proof.Machine

/-- A state without what caches, messages and local memory hold; with no caches of cores it keeps the cores. -/
def State.uncached (s : State) (l1 : Bool) : State :=
  { s with cores := bif l1 then [] else s.cores, dies := [], msgs := [], fresh := 0, mem := [], counters := [] }

/-- A state reached from another by traffic of the caches alone, or of those below the cores alone. -/
structure CacheStep (s t : State) (l1 : Bool := true) : Prop where
  rest : t.uncached l1 = s.uncached l1
  canonical : Memory.wf s.mem = true → Memory.wf t.mem = true

namespace CacheStep

variable {s t : State} {l1 : Bool}

@[simp] theorem refl (s : State) : CacheStep s s l1 := ⟨rfl, id⟩

theorem trans {u : State} (h : CacheStep s t l1) (h' : CacheStep t u l1) : CacheStep s u l1 :=
  ⟨h'.rest.trans h.rest, h'.canonical ∘ h.canonical⟩

/-- A change that memory has no part in. -/
theorem keeps {u : State} (h : CacheStep s t l1) (hrest : u.uncached l1 = t.uncached l1) (hmem : u.mem = t.mem) : CacheStep s u l1 :=
  ⟨hrest.trans h.rest, fun hwf => by rw [hmem]; exact h.canonical hwf⟩

theorem foldl {β : Type} {f : State → β → State} (h : CacheStep s t l1) (hf : ∀ u b, CacheStep s u l1 → CacheStep s (f u b) l1) (xs : List β) :
    CacheStep s (xs.foldl f t) l1 := by
  induction xs generalizing t with
  | nil => exact h
  | cons x xs ih => exact ih (hf t x h)

theorem foldl_snd {α β : Type} {f : α × State → β → α × State} {acc : α × State} (h : CacheStep s acc.2 l1)
    (hf : ∀ a b, CacheStep s a.2 l1 → CacheStep s (f a b).2 l1) (xs : List β) : CacheStep s (xs.foldl f acc).2 l1 := by
  induction xs generalizing acc with
  | nil => exact h
  | cons x xs ih => exact ih (hf acc x h)

@[simp] theorem setCore (h : CacheStep s t) (k : Nat) (x : Core) : CacheStep s (t.setCore k x) := h.keeps rfl rfl
@[simp] theorem setDie (h : CacheStep s t l1) (k : Nat) (x : Die) : CacheStep s (t.setDie k x) l1 := h.keeps rfl rfl
@[simp] theorem updCore (h : CacheStep s t) (k : Nat) (f : Core → Core) : CacheStep s (t.updCore k f) := h.setCore ..
@[simp] theorem updDie (h : CacheStep s t l1) (k : Nat) (f : Die → Die) : CacheStep s (t.updDie k f) l1 := h.setDie ..
@[simp] theorem fresh (h : CacheStep s t l1) (n : Nat) : CacheStep s { t with fresh := n } l1 := h.keeps rfl rfl
@[simp] theorem msgs (h : CacheStep s t l1) (ms : List Msg) : CacheStep s { t with msgs := ms } l1 := h.keeps rfl rfl
@[simp] theorem send (h : CacheStep s t l1) (m : Msg) : CacheStep s (t.send m) l1 := h.keeps rfl rfl
@[simp] theorem l2Put (h : CacheStep s t l1) (die line : Nat) (x : L2Line) : CacheStep s (t.l2Put die line x) l1 := h.keeps rfl rfl
@[simp] theorem l2Del (h : CacheStep s t l1) (die line : Nat) : CacheStep s (t.l2Del die line) l1 := h.keeps rfl rfl
@[simp] theorem dirPut (h : CacheStep s t l1) (home line : Nat) (e : DirEntry) : CacheStep s (t.dirPut home line e) l1 := h.keeps rfl rfl
@[simp] theorem dirDel (h : CacheStep s t l1) (home line : Nat) : CacheStep s (t.dirDel home line) l1 := h.keeps rfl rfl
@[simp] theorem ask (h : CacheStep s t l1) (at_ : Attr) (die line : Nat) (kind : MsgKind) : CacheStep s (t.ask at_ die line kind) l1 :=
  h.keeps rfl rfl

@[simp] theorem setMemLine (h : CacheStep s t l1) (line : Nat) (bs : List Byte) : CacheStep s (t.setMemLine line bs) l1 := by
  have hwrite : CacheStep s { t with mem := wrBytes t.mem (64 * line) bs } l1 :=
    ⟨h.rest, fun hwf => Memory.wf_wrBytes (h.canonical hwf) _ _⟩
  unfold State.setMemLine State.countWrite
  split
  · exact hwrite.keeps rfl rfl
  · exact hwrite

@[simp] theorem l2Evict (h : CacheStep s t l1) (die line : Nat) : CacheStep s (t.l2Evict die line) l1 := by
  unfold State.l2Evict
  split
  · exact h
  · dsimp only; split <;> simp [h]

@[simp] theorem l2Room (h : CacheStep s t l1) (die line : Nat) (ways : List Nat) : CacheStep s (t.l2Room die line ways) l1 := by
  unfold State.l2Room
  dsimp only
  repeat' split
  all_goals simp [h]

@[simp] theorem l2Fill (h : CacheStep s t l1) (die line : Nat) (at_ : Attr) (st : Coh) (b : List Byte) :
    CacheStep s (t.l2Fill die line at_ st b) l1 := by
  unfold State.l2Fill
  extract_lets u ways keep v taken way
  have hu : CacheStep s u l1 := by
    dsimp only [u]
    repeat' split
    all_goals simp [h]
  split
  · exact hu.l2Put ..
  · exact ((hu.l2Room die line ways).fresh _).l2Put ..

@[simp] theorem l2Touch (h : CacheStep s t l1) (die line hint : Nat) : CacheStep s (t.l2Touch die line hint) l1 := by
  unfold State.l2Touch
  repeat' split
  all_goals simp [h]

@[simp] theorem dieGrant (h : CacheStep s t l1) (m : Msg) : CacheStep s (t.dieGrant m) l1 := by
  unfold State.dieGrant
  dsimp only
  repeat' split
  all_goals simp [h]

@[simp] theorem dieAnswer (h : CacheStep s t l1) (m : Msg) : CacheStep s (t.dieAnswer m) l1 := by
  unfold State.dieAnswer
  dsimp only
  repeat' split
  all_goals simp [h]

@[simp] theorem homeWriteBack (h : CacheStep s t l1) (home die line : Nat) (data : Option (List Byte)) :
    CacheStep s (t.homeWriteBack home die line data) l1 := by
  unfold State.homeWriteBack
  dsimp only
  repeat' split
  all_goals simp [h]

@[simp] theorem landLine (h : CacheStep s t l1) (home line : Nat) : CacheStep s (t.landLine home line) l1 :=
  foldl (h.msgs _) (fun u m hu => by split <;> simp [hu]) _

@[simp] theorem recallFrom (h : CacheStep s t l1) (home line : Nat) (kind : MsgKind) (die : Nat) :
    CacheStep s (t.recallFrom home line kind die) l1 := by
  unfold State.recallFrom
  extract_lets u answer
  have hu : CacheStep s u l1 := h.dieAnswer _
  split
  · exact hu
  · dsimp only
    split
    · exact (hu.msgs _).setMemLine ..
    · exact hu.msgs _

@[simp] theorem dirRecall (h : CacheStep s t l1) (home line : Nat) : CacheStep s (t.dirRecall home line) l1 := by
  unfold State.dirRecall
  dsimp only
  split
  · simp [h]
  · refine setDie ?_ _ _
    split
    · simp [h]
    · exact foldl (by simp [h]) (fun u d hu => by simp [hu]) _
    · simp [h]

theorem dirRoom {u : State} (h : CacheStep s t l1) {home line : Nat} (hu : t.dirRoom home line = some u) : CacheStep s u l1 := by
  unfold State.dirRoom at hu
  dsimp only at hu
  split at hu
  · cases hu; exact h
  · split at hu
    · cases hu
    · cases hu; simp [h]

@[simp] theorem finishTxn (h : CacheStep s t l1) (home line : Nat) (e : DirEntry) (x : Txn) :
    CacheStep s (t.finishTxn home line e x) l1 := h.keeps rfl rfl

@[simp] theorem beginTxn (h : CacheStep s t l1) (home line : Nat) (e : DirEntry) (die : Nat) (kind : MsgKind) :
    CacheStep s (t.beginTxn home line e die kind) l1 := by
  unfold State.beginTxn
  extract_lets used u due ask txn
  have hu : CacheStep s u l1 := h.fresh _
  split
  · exact hu.finishTxn home line used txn
  · exact foldl (hu.dirPut ..) (fun v _ hv => hv.send _) due

@[simp] theorem homeRequest (h : CacheStep s t l1) (home die line : Nat) (kind : MsgKind) :
    CacheStep s (t.homeRequest home die line kind) l1 := by
  unfold State.homeRequest
  split
  · split <;> simp [h]
  · split
    · simp [h]
    · rename_i u hu
      simp [h.dirRoom hu]

@[simp] theorem nextRequests (h : CacheStep s t l1) (home line n : Nat) : CacheStep s (State.nextRequests home line n t) l1 := by
  induction n generalizing t with
  | zero => exact h
  | succ n ih =>
    unfold State.nextRequests
    repeat' split
    all_goals simp [ih, h]

@[simp] theorem homeAnswer (h : CacheStep s t l1) (home die line : Nat) (data : Option (List Byte)) :
    CacheStep s (t.homeAnswer home die line data) l1 := by
  unfold State.homeAnswer State.nextRequest
  extract_lets u
  have hu : CacheStep s u l1 := by
    dsimp only [u]
    split <;> simp [h]
  split
  · exact hu
  · split
    · exact hu
    · dsimp only
      split
      · exact (hu.finishTxn ..).nextRequests ..
      · exact hu.dirPut ..

@[simp] theorem deliver (h : CacheStep s t l1) (m : Msg) : CacheStep s (t.deliver m) l1 := by
  unfold State.deliver
  split <;> simp [h]

@[simp] theorem drain (h : CacheStep s t l1) (n home line : Nat) : CacheStep s (State.drain n home line t) l1 := by
  induction n generalizing t with
  | zero => exact h
  | succ n ih =>
    unfold State.drain
    split
    · exact h
    · exact ih ((h.msgs _).deliver _)

@[simp] theorem quiet (h : CacheStep s t l1) (home line : Nat) : CacheStep s (t.quiet home line) l1 := by
  unfold State.quiet
  dsimp only
  split
  · simp [h]
  · exact foldl (by simp [h]) (fun u p hu => by simp [hu]) _

@[simp] theorem obtain (h : CacheStep s t l1) (at_ : Attr) (die line : Nat) (own : Bool) :
    CacheStep s (t.obtain at_ die line own) l1 := by
  unfold State.obtain
  extract_lets u owned fetch
  have hu : CacheStep s u l1 := h.quiet ..
  have howned {v : State} (hv : CacheStep s v l1) : CacheStep s (owned v) l1 := by
    dsimp only [owned]
    repeat' split
    all_goals simp [hv]
  have hfetch (k : MsgKind) : CacheStep s (fetch k) l1 := howned ((hu.ask ..).drain ..)
  split
  · exact hu
  · exact howned hu
  · split
    · exact hfetch _
    · exact hu
  · exact hfetch _

@[simp] theorem purge (h : CacheStep s t l1) (home line : Nat) : CacheStep s (t.purge home line) l1 := by simp [State.purge, h]

@[simp] theorem readLine (h : CacheStep s t l1) (die : Nat) (at_ : Attr) (line : Nat) : CacheStep s (t.readLine die at_ line).2 l1 := by
  unfold State.readLine
  extract_lets u v w z
  have hu : CacheStep s u l1 := h.purge ..
  have hz : CacheStep s z l1 := (h.obtain ..).l2Touch ..
  split
  · repeat' split
    all_goals simp [h, hu]
  · split
    · split
      · exact h.quiet ..
      · exact (h.quiet ..).dirRecall ..
    · split <;> exact hz

@[simp] theorem writeLine (h : CacheStep s t l1) (die : Nat) (at_ : Attr) (line : Nat) (new : List (Option Byte)) :
    CacheStep s (t.writeLine die at_ line new) l1 := by
  unfold State.writeLine
  extract_lets u v w x y
  split
  · refine setMemLine ?_ _ _
    dsimp only [v]
    repeat' split
    all_goals simp [u, h]
  · split
    · exact setMemLine (foldl (h.quiet _ _) (fun z d hz => by split <;> simp [hz]) _) _ _
    · have hy : CacheStep s y l1 := (h.obtain ..).l2Touch ..
      split <;> simp [hy]

@[simp] theorem writeCoh (h : CacheStep s t l1) (die : Nat) (at_ : Attr) (ws : List (Nat × Byte)) : CacheStep s (t.writeCoh die at_ ws) l1 :=
  foldl h (fun u l hu => by simp [hu]) _

@[simp] theorem readCoh (h : CacheStep s t l1) (die : Nat) (at_ : Attr) (pa n : Nat) : CacheStep s (t.readCoh die at_ pa n).2 l1 :=
  foldl_snd (f := fun (acc : Tab (List Byte) × State) l => (Tab.put l (acc.2.readLine die at_ l).1 acc.1, (acc.2.readLine die at_ l).2))
    (acc := ([], t)) h (fun _ l ha => ha.readLine die at_ l) _

@[simp] theorem readSync (h : CacheStep s t l1) (die : Nat) (at_ : Attr) (pa n : Nat) : CacheStep s (t.readSync die at_ pa n).2 l1 := by
  unfold State.readSync
  dsimp only
  split
  · simp [h]
  · exact readCoh (foldl h (fun u l hu => by split <;> simp [hu]) _) _ _ _ _

@[simp] theorem noteWrites (h : CacheStep s t) (core : Nat) (secs : List Nat) : CacheStep s (t.noteWrites core secs) := h.keeps rfl rfl
@[simp] theorem noteEngine (h : CacheStep s t) (core : Nat) (secs : List Nat) : CacheStep s (t.noteEngine core secs) := h.keeps rfl rfl

@[simp] theorem noteHost (h : CacheStep s t) (g : Signature) : CacheStep s (t.noteHost g) :=
  foldl (foldl h (fun _ _ hu => hu.setCore _ _) _) (fun _ _ hu => hu.setDie _ _) _

@[simp] theorem cleanSector (h : CacheStep s t) (core sec : Nat) : CacheStep s (t.cleanSector core sec) := by
  unfold State.cleanSector
  dsimp only
  repeat' split
  all_goals simp [h]

@[simp] theorem dropSector (h : CacheStep s t) (core sec : Nat) : CacheStep s (t.dropSector core sec) := by
  simp [State.dropSector, h]

@[simp] theorem l1Evict (h : CacheStep s t) (core line : Nat) : CacheStep s (t.l1Evict core line) :=
  ((h.dropSector ..).dropSector ..).setCore ..

@[simp] theorem l1Room (h : CacheStep s t) (core line : Nat) : CacheStep s (t.l1Room core line) := by
  unfold State.l1Room
  dsimp only
  repeat' split
  all_goals simp [h]

@[simp] theorem l1Shrink (h : CacheStep s t) (core gran : Nat) : CacheStep s (t.l1Shrink core gran) :=
  setCore (foldl h (fun u p hu => by simp [hu]) _) _ _

@[simp] theorem l1Touch (h : CacheStep s t) (core hint line : Nat) : CacheStep s (t.l1Touch core hint line) := h.keeps rfl rfl

@[simp] theorem fillSector (h : CacheStep s t) (core : Nat) (at_ : Attr) (sec : Nat) : CacheStep s (t.fillSector core at_ sec) := by
  unfold State.fillSector
  split
  · exact h
  · have hread := (h.l1Room core (sec / 2)).readCoh (dieOf core) at_ (32 * sec) 32
    exact (hread.fresh _).updCore ..

@[simp] theorem readPlain (h : CacheStep s t) (core : Nat) (at_ : Attr) (hint pa : Nat) :
    CacheStep s (t.readPlain core at_ hint pa).2 := by
  unfold State.readPlain
  dsimp only
  repeat' split
  all_goals simp [h]

@[simp] theorem pokeSector (h : CacheStep s t) (core sec : Nat) (ws : List (Nat × Byte)) (through : Bool) :
    CacheStep s (t.pokeSector core sec ws through) := by
  unfold State.pokeSector
  split <;> simp [h]

@[simp] theorem writePlain (h : CacheStep s t) (core : Nat) (at_ : Attr) (hint : Nat) (ws : List (Nat × Byte)) :
    CacheStep s (t.writePlain core at_ hint ws) := by
  unfold State.writePlain
  dsimp only
  refine noteWrites ?_ _ _
  split
  · exact foldl h (fun u x hu => by simp [hu]) _
  · exact writeCoh (foldl h (fun u x hu => by simp [hu]) _) _ _ _

@[simp] theorem syncSectors (h : CacheStep s t) (core : Nat) (as : List Nat) : CacheStep s (t.syncSectors core as) :=
  foldl h (fun u x hu => by simp [hu]) _

@[simp] theorem publish (h : CacheStep s t) (core scope : Nat) (g : Signature) : CacheStep s (t.publish core scope g) := by
  unfold State.publish
  extract_lets u
  have hu : CacheStep s u := foldl h (fun _ _ hv => hv.setCore _ _) _
  split
  · exact foldl hu (fun _ _ hv => hv.setDie _ _) _
  · exact hu

@[simp] theorem release (h : CacheStep s t) (core scope : Nat) : CacheStep s (t.release core scope) := by
  unfold State.release
  split
  · exact h
  · refine setCore (publish ?_ _ _ _) _ _
    exact foldl h (fun u x hu => by simp [hu]) _

@[simp] theorem engineJoin (h : CacheStep s t) (core : Nat) : CacheStep s (t.engineJoin core) :=
  setCore (foldl h (fun u x hu => by split <;> simp [hu]) _) _ _

@[simp] theorem acquire (h : CacheStep s t) (core scope : Nat) : CacheStep s (t.acquire core scope) := by
  unfold State.acquire
  repeat' split
  all_goals simp [h]

@[simp] theorem evictL1 (h : CacheStep s t) (k core : Nat) : CacheStep s (t.evictL1 k core) :=
  foldl h (fun u x hu => by split <;> simp [hu]) _

@[simp] theorem tableEntry (h : CacheStep s t) (part die pa : Nat) : CacheStep s (t.tableEntry part die pa).2 := by
  unfold State.tableEntry
  split <;> simp [h]

@[simp] theorem cacheWalk (h : CacheStep s t) (part die pa e : Nat) : CacheStep s (t.cacheWalk part die pa e) := h.keeps rfl rfl

@[simp] theorem walkFrom (h : CacheStep s t) (part die va n level table : Nat) :
    CacheStep s (State.walkFrom part die va n level table t).2 := by
  induction n generalizing level table t with
  | zero => exact h
  | succ n ih =>
    unfold State.walkFrom
    extract_lets pa
    split
    · exact h
    · exact h
    · have hu : CacheStep s (t.tableEntry part die pa).2 := h.tableEntry ..
      generalize t.tableEntry part die pa = x at hu ⊢
      obtain ⟨e, u⟩ := x
      dsimp only at hu ⊢
      split
      · split <;> exact hu
      · split
        · have hv (e : Nat) : CacheStep s (u.cacheWalk part die pa e) := hu.cacheWalk ..
          split
          · exact hu
          · split
            · exact ih (hv e) _ _
            · exact hv e
        · exact hu

@[simp] theorem walk (h : CacheStep s t) (part die va : Nat) : CacheStep s (t.walk part die va).2 := by
  unfold State.walk
  dsimp only
  repeat' split
  all_goals simp [h]

@[simp] theorem translate (h : CacheStep s t) (core part n va : Nat) : CacheStep s (t.translate core part n va).2 := by
  unfold State.translate
  dsimp only
  repeat' split
  all_goals simp [h]

@[simp] theorem spotOf (h : CacheStep s t) (g : Gang) (priv : Bool) (k : Acc) (va : Nat) : CacheStep s (t.spotOf g priv k va).2 :=
  h.translate _ _ _ _

end CacheStep

end Sys2Proof.Machine
end

section
/-! What a step of the caches leaves, field by field. -/

namespace Sys2Proof.Machine.CacheStep

variable {s t : State}

theorem same (h : CacheStep s t) : SameStreams s t :=
  ⟨(congrArg State.streams h.rest :), (congrArg State.crews h.rest :), (congrArg State.gangs h.rest :),
    (congrArg State.hostMem h.rest :)⟩

theorem streams (h : CacheStep s t) : t.streams = s.streams := (congrArg State.streams h.rest :)
theorem crews (h : CacheStep s t) : t.crews = s.crews := (congrArg State.crews h.rest :)
theorem gangs (h : CacheStep s t) : t.gangs = s.gangs := (congrArg State.gangs h.rest :)
theorem parts (h : CacheStep s t) : t.parts = s.parts := (congrArg State.parts h.rest :)
theorem nodes (h : CacheStep s t) : t.nodes = s.nodes := (congrArg State.nodes h.rest :)
theorem clusters (h : CacheStep s t) : t.clusters = s.clusters := (congrArg State.clusters h.rest :)

end Sys2Proof.Machine.CacheStep
end

section
/-! What a supervisor's status write leaves (13 R325 to R331). -/

namespace Sys2Proof.Machine

/-- A status written to a uniform register, and the instruction completes. -/
theorem privStatus_writes {s : State} {r : Nat} (hbank : (s.stream r).regBad = []) (d : Nat) (st : Word) (reads : Nat) :
    let t := s.privStatus r d st reads
    (∀ n, (t.stream r).creg n = if n = d then ⟨st, 0⟩ else (s.stream r).creg n) ∧ WentOn s t r ∧ t.crews = s.crews ∧
      OnlyStream s t r Stream.lessUni := by
  have hset := (s.stream r).setC_bank d ⟨st, 0⟩ hbank
  obtain ⟨hcore, hrest⟩ := upd_complete (s := s) (r := r) (f := fun t => t.setC d ⟨st, 0⟩) (e := Stream.lessUni) .privileged reads 0
    (by rw [hset]) (by rw [hset]) (by rw [hset]; rfl) lessUni_core
  exact ⟨fun n => by rw [State.privStatus, creg_of_core hcore, Stream.creg_setC], hrest⟩

end Sys2Proof.Machine
end

section
/-! SHEDACK (13 R330). -/

namespace Sys2Proof.Machine

/-- Clearing PEND of SHEDSTAT leaves the level it shows. -/
theorem level_ack (x : Word) : bits (x &&& ~~~64).toNat 2 0 = bits x.toNat 2 0 := by
  have h : (x &&& ~~~64#32).toNat % 2 ^ 3 = x.toNat % 2 ^ 3 := by
    rw [BitVec.toNat_and, Nat.and_mod_two_pow]
    exact (Nat.and_two_pow_sub_one_eq_mod _ 3).trans (Nat.mod_mod _ _)
  simpa [bits] using h

/-- A level that is what it should be stays. -/
theorem updateLevel_settled {s : State} {k : Nat} (h : min s.pkgLevel (bits (s.part k).pshed.toNat 2 0) = (s.part k).level) :
    s.updateLevel k = s := if_pos (.inr h)

theorem shedack_completes {s : State} {r : Nat} {d : BitVec 6} (h : s.inHand r) (hsuper : s.superOk r) (hd : d.toNat < 32)
    (hlevel : min s.pkgLevel (bits (s.part (s.partNum r)).pshed.toNat 2 0) = (s.part (s.partNum r)).level) :
    ∃ t, exec (.shedack d) s = .next t ∧
      (t.part (s.partNum r)).shedstat = (s.part (s.partNum r)).shedstat &&& ~~~64 ∧
      (∀ n, (t.stream r).creg n = if n = d.toNat then ⟨(s.part (s.partNum r)).shedstat, 0⟩ else (s.stream r).creg n) ∧
      WentOn s t r ∧ (∀ j, j ≠ s.partNum r → (t.part j).lessEnergy = (s.part j).lessEnergy) ∧ t.crews = s.crews ∧ t.mem = s.mem := by
  have ⟨_, _, hbank⟩ := h
  obtain ⟨u, hu⟩ : ∃ u, u = s.updPart (s.partNum r) fun p => { p with shedstat := p.shedstat &&& ~~~64 } := ⟨_, rfl⟩
  have hpart : u.part (s.partNum r) = { s.part (s.partNum r) with shedstat := (s.part (s.partNum r)).shedstat &&& ~~~64 } := by
    rw [hu, State.updPart_eq, State.part_setPart]
  have hother {j : Nat} (hj : j ≠ s.partNum r) : u.part j = s.part j := by
    rw [hu, State.updPart_eq, State.part_setPart_other _ _ hj]
  have hstream : u.stream r = s.stream r := by rw [hu]; rfl
  obtain ⟨hcreg, hon, hcrews, honly⟩ := privStatus_writes (s := u) (r := r) (hstream ▸ hbank) d.toNat (s.part (s.partNum r)).shedstat 0
  have hless := (honly.parts (s.partNum r)).trans (congrArg Part.lessEnergy hpart)
  refine ⟨u.privStatus r d.toNat (s.part (s.partNum r)).shedstat 0, run_next h ?_, (congrArg Part.shedstat hless :), ?_, ?_, ?_, ?_, ?_⟩
  · simp only [decide_eq_true hd, need_true, needSuper_ok hsuper, bind, Except.bind]
    rw [← hu]
    refine congrArg Except.ok (updateLevel_settled ?_)
    have hpshed : ((u.privStatus r d.toNat (s.part (s.partNum r)).shedstat 0).part (s.partNum r)).pshed = (s.part (s.partNum r)).pshed :=
      (congrArg Part.pshed hless :)
    have hshed : ((u.privStatus r d.toNat (s.part (s.partNum r)).shedstat 0).part (s.partNum r)).shedstat =
        (s.part (s.partNum r)).shedstat &&& ~~~64 := (congrArg Part.shedstat hless :)
    have hpkg : (u.privStatus r d.toNat (s.part (s.partNum r)).shedstat 0).pkgLevel = s.pkgLevel := by rw [hu]; rfl
    rw [hpkg, hpshed, hlevel, Part.level, Part.level, hshed, level_ack]
  · intro n
    rw [hcreg, hstream]
  · have ⟨hpc, hloops⟩ := hon
    rw [hstream] at hpc hloops
    exact ⟨hpc, hloops⟩
  · intro j hj
    rw [honly.parts j, hother hj]
  · rw [hcrews, hu]; rfl
  · rw [hu]; rfl

end Sys2Proof.Machine
end

section
/-! TLBINV (13 R328). -/

namespace Sys2Proof.Machine

theorem Tab.find_mapVals {α : Type} (f : Nat → α → α) (t : Tab α) (k : Nat) :
    Tab.find k (Tab.mapVals f t) = (Tab.find k t).map (f k) := by
  induction t with
  | nil => rfl
  | cons p t ih =>
    obtain ⟨j, a⟩ := p
    by_cases h : j = k
    · subst h; simp [Tab.mapVals, Tab.find]
    · simpa [Tab.mapVals, Tab.find, h] using ih

/-- A core of the scope holds no translation of the address, or of the partition. -/
theorem tlbRemove_removes {s : State} {core scope part k : Nat} {va : Option Nat} (hlow : 3 ≤ scope) (hhigh : scope ≤ 6)
    (hin : inScope scope core k) : ∀ e ∈ ((s.tlbRemove core scope part va).core k).tlb, e.part = part →
      ∃ a, va = some a ∧ ¬(e.vpage ≤ a ∧ a < e.vpage + e.leaf.size) := by
  intro e he hpart
  have hin' : (if scope = 3 then k == core else if scope = 4 then clusterOf k == clusterOf core
      else if scope = 5 then dieOf k == dieOf core else true) = true := by
    unfold inScope at hin
    split_ifs at hin ⊢ <;> simp_all
  simp only [State.core, Tab.get, State.tlbRemove, Tab.find_mapVals] at he
  cases hc : Tab.find k s.cores with
  | none => simp [hc] at he
  | some c =>
    simp only [hc, Option.map_some, Option.getD_some, hin', if_true, List.mem_filter] at he
    cases va with
    | none => simp [hpart] at he
    | some a =>
      obtain ⟨-, hkeep⟩ := he
      have hout : a < e.vpage ∨ e.vpage + e.leaf.size ≤ a := by simpa [hpart] using hkeep
      exact ⟨a, rfl, by omega⟩

/-- What TLBINV leaves of the translations: none of its kind in the cores of its scope. -/
def State.tlbGone (s : State) (core scope part va : Nat) (kind : BitVec 2) : State :=
  if kind = 1 then s.tlbRemove core scope part none
  else if canonical va then s.tlbRemove core scope part (some (va56 va))
  else s

theorem tlbGone_same (s : State) (core scope part va : Nat) (kind : BitVec 2) : SameStreams s (s.tlbGone core scope part va kind) := by
  unfold State.tlbGone
  split_ifs <;> exact ⟨rfl, rfl, rfl, rfl⟩

theorem tlbGone_gone {s : State} {core scope part va k : Nat} {kind : BitVec 2} (hkind : kind.toNat < 2) (hlow : 3 ≤ scope)
    (hhigh : scope ≤ 6) (hin : inScope scope core k) : ∀ e ∈ ((s.tlbGone core scope part va kind).core k).tlb, e.part = part →
      kind = 0 ∧ (canonical va = true → ¬(e.vpage ≤ va56 va ∧ va56 va < e.vpage + e.leaf.size)) := by
  intro e he hpart
  obtain rfl | rfl : kind = 0 ∨ kind = 1 := by
    obtain h | h | h | h := two_bits kind
    · exact .inl h
    · exact .inr h
    all_goals subst h; exact absurd hkind (by decide)
  · refine ⟨rfl, fun hva => ?_⟩
    simp only [State.tlbGone, hva, if_true, show (0 : BitVec 2) ≠ 1 by decide, if_false] at he
    obtain ⟨a, ha, hout⟩ := tlbRemove_removes hlow hhigh hin e he hpart
    cases ha
    exact hout
  · obtain ⟨a, ha, -⟩ := tlbRemove_removes (va := none) hlow hhigh hin e he hpart
    cases ha

/-- Streams, crews and gangs stay where translations are removed, and the instruction goes on. -/
theorem tlbinv_completes {s : State} {r : Nat} {a : BitVec 7} {kind : BitVec 2} {scope : BitVec 4} (h : s.inHand r) (hsuper : s.superOk r)
    (hhaul : s.haulOk r) (hkind : kind.toNat < 2) (hlow : 3 ≤ scope.toNat) (hhigh : scope.toNat ≤ 6)
    (hr : s.readable r [uniWide a (kind == 0)] none) (hz : kind = 0 ∨ a.toNat = 72) :
    ∃ t, exec (.tlbinv a kind scope) s = .next t ∧ WentOn s t r ∧ t.crews = s.crews ∧ t.gangs = s.gangs ∧
      ∀ c, inScope scope.toNat (s.coreNum r) c → ∀ e ∈ (t.core c).tlb, e.part = s.partNum r →
        kind = 0 ∧ (canonical (s.operand r (uniWide a (kind == 0)) 0) = true →
          ¬(e.vpage ≤ va56 (s.operand r (uniWide a (kind == 0)) 0) ∧
            va56 (s.operand r (uniWide a (kind == 0)) 0) < e.vpage + e.leaf.size)) := by
  obtain ⟨u, hu⟩ : ∃ u, u = (s.release (s.coreNum r) scope.toNat).tlbGone (s.coreNum r) scope.toNat (s.partNum r)
      (s.operand r (uniWide a (kind == 0)) 0) kind := ⟨_, rfl⟩
  have hsame : SameStreams s u := by
    rw [hu]
    exact sameStreams_iff.mpr ((sameStreams_iff.mp (tlbGone_same ..)).trans
      (sameStreams_iff.mp ((CacheStep.refl s).release (s.coreNum r) scope.toNat).same))
  have ⟨_, hcrews, hgangs, _⟩ := hsame
  obtain ⟨-, -, hpc, hloops⟩ := complete_keeps u r .privileged (s.peeked r [uniWide a (kind == 0)]).regs 0
  rw [hsame.stream r] at hpc hloops
  refine ⟨u.complete r .privileged (s.peeked r [uniWide a (kind == 0)]).regs 0, run_next h ?_, ⟨hpc, hloops⟩, hcrews, hgangs,
    fun c hc => ?_⟩
  · have hform : (decide (kind.toNat < 2) && decide (3 ≤ scope.toNat) && decide (scope.toNat ≤ 6)) = true := by simp [hkind, hlow, hhigh]
    have hsrc : (kind == 0 || srcOf a.toNat == .z) = true := by
      rcases hz with rfl | hz
      · rfl
      · simp [hz, srcOf]
    simp only [needHaul_ok hhaul, hform, hsrc, need_true, peek_uni h hr, needSuper_ok hsuper, bind, Except.bind]
    rw [hu]
    rfl
  · rw [show (u.complete r .privileged (s.peeked r [uniWide a (kind == 0)]).regs 0).core c = u.core c from rfl, hu]
    exact tlbGone_gone hkind hlow hhigh hc

end Sys2Proof.Machine
end

section
/-! DECLASS and OVLOADP (13 R329, R331). -/

namespace Sys2Proof.Machine

theorem declass_completes {s : State} {r : Nat} {nw m : Bool} {d : BitVec 6} {a : BitVec 7} {lab : BitVec 2} (h : s.inHand r)
    (hsuper : s.superOk r) (hr : s.readable r [{ f := a.toNat }] (some { n := d.toNat, nw })) (hd : d.toNat < 56)
    (hcap : effDECLASS (s.gangAt r).effcfg = true) :
    ∃ t, exec (.declass nw d a lab m) s = .next t ∧
      Wrote s t r [{ f := a.toNat }] { n := d.toNat, nw } ((s.stream r).active m)
        (fun i => (s.operand r { f := a.toNat } i, labelOf lab.toNat)) ∧
      WentOn s t r ∧ OnlyStream s t r Stream.lessVec := by
  obtain ⟨v, hv, hwrote, hpc, hloops, -, honly⟩ := write_peeked s r [{ f := a.toNat }] { n := d.toNat, nw } ((s.stream r).active m)
    (fun i => (s.operand r { f := a.toNat } i, labelOf lab.toNat)) (Nat.lt_of_lt_of_le hd (by decide))
  obtain ⟨hcore, hcrew, hpc', hloops'⟩ := complete_keeps v r .privileged (s.peeked r [{ f := a.toNat }]).regs 0
  have hnext := Stream.next_pc hpc hloops
  have hsrc : s.srcFault r { f := a.toNat } = none := hr.1 _ (by simp)
  refine ⟨v.complete r .privileged (s.peeked r [{ f := a.toNat }]).regs 0, run_next h ?_, hwrote.of_core hcore hcrew,
    ⟨hpc'.trans hnext.1, hloops'.trans hnext.2⟩, honly.trans ((OnlyStream.complete v r .privileged _ 0).mono lessVec_of_core)⟩
  simp only [hsrc, needReg_ok hd, needSuper_ok hsuper, hcap, peek_peeked _ h hr, Bool.not_true, Bool.false_eq_true, if_false, bind,
    Except.bind]
  exact (congrArg (fun e : Except Stop State => e.bind fun s' => .ok (s'.complete r .privileged _ 0)) hv :)

theorem declass_denied {s : State} {r : Nat} {nw m : Bool} {d : BitVec 6} {a : BitVec 7} {lab : BitVec 2} (h : s.inHand r)
    (hsuper : s.superOk r) (hsrc : s.srcFault r { f := a.toNat } = none) (hd : d.toNat < 56)
    (hcap : effDECLASS (s.gangAt r).effcfg = false) :
    exec (.declass nw d a lab m) s = .next (s.takeTrap r { s.levelTrap r with sub := 1 }) := by
  refine run_trap h ?_
  simp only [hsrc, needReg_ok hd, needSuper_ok hsuper, hcap, Bool.not_false, if_true, bind, Except.bind]
  rfl

/-- A page of the supervisor image that lies whole in local memory is read and placed. -/
theorem loadPage_supervisor {s : State} {r page pa x : Nat} (hpage : page < (s.part (s.partNum r)).simgsz.toNat)
    (hat : ((s.part (s.partNum r)).simg.toNat + 4096 * page) % 2 ^ 64 = pa) (hpa : pa < 2 ^ 52)
    (hplaced : s.wellPlaced pa 4096 = true) (hmem : s.window pa = .mem x) (hmark : s.blockMark x 4096 = none) :
    ∃ bs u, s.loadPage r true page = .ok (u.placePage r true page bs) ∧ CacheStep s u := by
  have hplace : s.pagePlace r true page = (.ok (pa, s.plainAttr (s.partNum r) (dieOf (s.coreNum r)) pa, 65536), s) := by
    simp only [State.pagePlace, State.imageBase, if_true, hat, hpa, hplaced, and_self]
  have hawait : s.pageAwaits r true page = none := by simp only [State.pageAwaits, hplace, hmem]
  obtain ⟨q, hq⟩ : ∃ q, q = s.readSync (dieOf (s.coreNum r)) (s.plainAttr (s.partNum r) (dieOf (s.coreNum r)) pa) x 4096 := ⟨_, rfl⟩
  have hread : s.readPage r true page = .ok q := by simp only [State.readPage, hplace, hmem, hmark, hq]
  have hin : ¬ s.pagesIn r true ≤ page := not_le.mpr hpage
  refine ⟨q.1, q.2, ?_, hq ▸ (CacheStep.refl s).readSync ..⟩
  simp only [State.loadPage, if_neg hin, hawait, hread]

theorem loadPage_beyondSupervisor {s : State} {r page : Nat} (hpage : (s.part (s.partNum r)).simgsz.toNat ≤ page) :
    s.loadPage r true page = .error (.trap { cause := 0x16, sub := 1, info := w64 page, mask := (s.stream r).em }) :=
  if_pos hpage

/-- A page of the supervisor image placed in a frame. -/
theorem placePage_supervisor (s : State) (r page : Nat) (bs : List Byte) :
    let t := s.placePage r true page bs
    t.stream r = { s.stream r with rdata := [], rpoison := [] } ∧ t.crews = s.crews ∧ t.gangs = s.gangs ∧
      ∃ f ∈ (t.core (s.coreNum r)).frames, f.page = page ∧ f.part = s.partNum r ∧ f.sup = true ∧
        f.image = (s.part (s.partNum r)).simg :=
  ⟨State.stream_setStream _ _ _, rfl, rfl, ⟨true, s.partNum r, (s.part (s.partNum r)).simg, page, pageWords bs, s.fresh⟩, by
    unfold State.placePage
    rw [State.updCore_eq, State.core_setCore]
    exact List.mem_cons_self, rfl, rfl, rfl, rfl⟩

theorem ovloadp_completes {s : State} {r x page : Nat} {a k : BitVec 7} (h : s.inHand r) (hsuper : s.superOk r)
    (hr : s.readable r [uni a] none) (hk : s.operand r (uni a) 0 + k.toNat = page)
    (hpage : page < (s.part (s.partNum r)).simgsz.toNat)
    (hpa : ((s.part (s.partNum r)).simg.toNat + 4096 * page) % 2 ^ 64 < 2 ^ 52)
    (hplaced : s.wellPlaced (((s.part (s.partNum r)).simg.toNat + 4096 * page) % 2 ^ 64) 4096 = true)
    (hmem : s.window (((s.part (s.partNum r)).simg.toNat + 4096 * page) % 2 ^ 64) = .mem x) (hmark : s.blockMark x 4096 = none) :
    ∃ t, exec (.ovloadp a k) s = .next t ∧ WentOn s t r ∧ t.gangs = s.gangs ∧ t.crews = s.crews ∧
      ∃ f ∈ (t.core (s.coreNum r)).frames, f.page = page ∧ f.part = s.partNum r ∧ f.sup = true ∧
        f.image = (s.part (s.partNum r)).simg := by
  obtain ⟨bs, u, hload, hstep⟩ := loadPage_supervisor hpage rfl hpa hplaced hmem hmark
  obtain ⟨hstream, hcrews, hgangs, hframe⟩ := placePage_supervisor u r page bs
  have hpart (k : Nat) : u.part k = s.part k := congrArg (Tab.get ({} : Part) · k) hstep.parts
  simp only [State.coreNum, State.partNum, hstep.same.gangAt r, hpart] at hframe
  obtain ⟨-, -, hpc, hloops⟩ := complete_keeps (u.placePage r true page bs) r .privileged (s.peeked r [uni a]).regs 0
  rw [hstream, hstep.same.stream r] at hpc hloops
  obtain ⟨hpc', hloops'⟩ := Stream.next_pc (t := { s.stream r with rdata := [], rpoison := [] }) (u := s.stream r) rfl rfl
  refine ⟨(u.placePage r true page bs).complete r .privileged (s.peeked r [uni a]).regs 0, run_next h ?_,
    ⟨hpc.trans hpc', hloops.trans hloops'⟩, hgangs.trans hstep.gangs, hcrews.trans hstep.crews, hframe⟩
  have hload' : (s.peeked r [uni a]).st.loadPage r true ((s.peeked r [uni a]).val 0 0 + k.toNat) = .ok (u.placePage r true page bs) :=
    (congrArg (s.loadPage r true) hk).trans hload
  simp only [State.uniform, peek_uni h hr, needSuper_ok hsuper, bind, Except.bind, uni] at hload' ⊢
  simp only [uniWide] at hload' ⊢
  simp only [hload']
  rfl

/-- Settles O30: each instruction by its own lemma. -/
theorem supervisorInstructionsComplete : Obligations.SupervisorInstructionsComplete := by
  intro s r nw m d a k lab kind scope status h hsuper u p
  refine ⟨fun hstatus => run_next h ?halt, fun hd hlevel => shedack_completes h hsuper hd hlevel,
    fun hr hd => ⟨declass_completes h hsuper hr hd, declass_denied h hsuper (hr.1 _ (by simp)) hd⟩,
    fun hhaul hkind hlow hhigh hr hz => tlbinv_completes h hsuper hhaul hkind hlow hhigh hr hz,
    fun hr => ⟨fun hpage => run_trap h ?beyond, fun x hpage hpa hplaced hmem hmark =>
      ovloadp_completes h hsuper hr rfl hpage hpa hplaced hmem hmark⟩⟩
  case halt =>
    simp only [bne_iff_ne.mpr hstatus, need_true, needSuper_ok hsuper, bind, Except.bind]
    rfl
  case beyond =>
    have hload := loadPage_beyondSupervisor (s := s) (r := r) hpage
    simp only [State.uniform, peek_uni h hr, needSuper_ok hsuper, bind, Except.bind]
    exact (congrArg (fun e : Except Stop State => e.bind fun s' => .ok (s'.complete r .privileged _ 0)) hload :)

end Sys2Proof.Machine
end

section
/-! PARK and UNPARK (13 R325). -/

namespace Sys2Proof.Machine

/-- A status given after a change that the stream and memory have no part in. -/
theorem privStatus_gives {s u : State} {r : Nat} (hbank : (s.stream r).regBad = []) (hstream : u.stream r = s.stream r)
    (hmem : u.mem = s.mem) (d : Nat) (st : Word) (reads : Nat) :
    let t := u.privStatus r d st reads
    (∀ n, (t.stream r).creg n = if n = d then ⟨st, 0⟩ else (s.stream r).creg n) ∧ (t.stream r).pc = (s.stream r).next.pc ∧
      t.mem = s.mem ∧ t.gangs = u.gangs := by
  obtain ⟨hcreg, hon, -, -⟩ := privStatus_writes (s := u) (r := r) (hstream ▸ hbank) d st reads
  rw [hstream] at hcreg
  exact ⟨hcreg, hstream ▸ hon.1, hmem, rfl⟩

theorem gang_of_gangs {s t : State} (h : t.gangs = s.gangs) (g : Nat) : t.gang g = s.gang g := congrArg (Tab.get ({} : Gang) · g) h

/-- A gang that something holds parked stays as it is. -/
theorem resumeGang_held {s : State} {g : Nat} (h : (s.gang g).shedHold = true ∨ (s.gang g).assayHold = true) : s.resumeGang g = s := by
  refine if_pos ?_
  rcases h with h | h <;> simp [h]

/-- The streams, gangs and memory of a state. -/
def State.placing (s : State) : Tab Stream × Tab Gang × List Host.Cell := (s.streams, s.gangs, s.mem)

theorem placing_foldl {β : Type} {f : State → β → State} (h : ∀ s b, (f s b).placing = s.placing) (xs : List β) (s : State) :
    (xs.foldl f s).placing = s.placing := by
  induction xs generalizing s with
  | nil => rfl
  | cons x xs ih => exact (ih _).trans (h s x)

/-- A gang that nothing holds parked runs on: its crews are ready or wait, and no stream changes. -/
theorem resumeGang_resumes {s : State} {g : Nat} (hparked : (s.gang g).parked = true) (hpark : (s.gang g).parkHold = false)
    (hshed : (s.gang g).shedHold = false) (hassay : (s.gang g).assayHold = false) :
    (s.resumeGang g).placing =
      (s.updGang g fun x => { x with parked := false, acquireDue := List.range x.crews }).placing := by
  have hno : ¬((!(s.gang g).parked) = true ∨ (s.gang g).parkHold = true ∨ (s.gang g).shedHold = true ∨ (s.gang g).assayHold = true) := by
    simp [hparked, hpark, hshed, hassay]
  unfold State.resumeGang
  extract_lets x u v
  rw [if_neg hno]
  refine placing_foldl (fun w k => ?_) _ v
  dsimp only
  split
  · rfl
  · split <;> rfl

/-- What an instruction does is what it does to the stream in hand. -/
theorem run_congr {s : State} {r : Nat} {f g : Nat → Except Stop State} (h : s.inHand r) (hfg : f r = g r) : run s f = run s g := by
  obtain ⟨hcur, hlive, -⟩ := h
  obtain ⟨t, ht⟩ := Option.isSome_iff_exists.mp hlive
  simp only [run, hcur, ht, hfg]

theorem gang_updGang (s : State) (g : Nat) (f : Gang → Gang) : (s.updGang g f).gang g = f (s.gang g) := State.gang_setGang ..

section

variable {s : State} {r : Nat} {d : BitVec 6} {a : BitVec 7} {form : BitVec 2} (h : s.inHand r) (hsuper : s.superOk r)
  (hhaul : s.haulOk r) (hd : d.toNat < 32) (ha : a.toNat ≠ 72) (hr : s.readable r [uni a] none)
include h hsuper hhaul hd ha hr

/-- PARK, past its checks. -/
theorem exec_park (hform : form.toNat < 2) : ∃ reads, exec (.park d a form) s = run s fun _ =>
    match s.byHandle (s.operand r (uni a) 0) with
    | none => .ok (s.privStatus r d.toNat (w32 2) reads)
    | some (g, x) =>
      if x.part ≠ s.partNum r then .ok (s.privStatus r d.toNat (w32 3) reads)
      else if form = 1 ∧ g = gangOf r then .ok (s.privStatus r d.toNat (w32 4) reads)
      else if x.parked then .ok ((s.updGang g fun y => { y with parkHold := true }).privStatus r d.toNat (w32 0) reads)
      else if form = 0 then
        .ok ((s.updGang g fun y => { y.askPark .boundary with parkHold := true }).privStatus r d.toNat (w32 1) reads)
      else .error (.stall ((s.updGang g fun y => { y.askPark .preempt with parkHold := true }).updStream r fun t =>
        { t with wait := some .park })) := by
  refine ⟨(s.peeked r [uni a]).regs, run_congr h ?_⟩
  simp only [needHaul_ok hhaul, decide_eq_true hd, decide_eq_true hform, srcOf_notZ ha, Bool.and_self, need_true, peek_uni h hr,
    needSuper_ok hsuper, bind, Except.bind]
  rfl

/-- UNPARK, past its checks. -/
theorem exec_unpark : ∃ reads, exec (.unpark d a) s = run s fun _ =>
    match s.byHandle (s.operand r (uni a) 0) with
    | none => .ok (s.privStatus r d.toNat (w32 2) reads)
    | some (g, x) =>
      if x.part ≠ s.partNum r then .ok (s.privStatus r d.toNat (w32 3) reads)
      else if !x.parked then .ok (s.privStatus r d.toNat (w32 1) reads)
      else if s.saving g then .error (.stall s)
      else .ok (((s.updGang g fun y => { y with parkHold := false }).resumeGang g).privStatus r d.toNat
        (w32 (if x.shedHold || x.assayHold then 5 else 0)) reads) := by
  refine ⟨(s.peeked r [uni a]).regs, run_congr h ?_⟩
  simp only [needHaul_ok hhaul, decide_eq_true hd, srcOf_notZ ha, Bool.and_self, need_true, peek_uni h hr,
    needSuper_ok hsuper, bind, Except.bind]
  rfl

end

theorem askPark_parked (x : Gang) (req : ParkReq) : (x.askPark req).parked = x.parked := by
  unfold Gang.askPark
  split_ifs <;> rfl

theorem askPark_preempt {x : Gang} (h : x.parked = false) : (x.askPark .preempt).req = .preempt := by
  simp only [Gang.askPark, h, Bool.false_eq_true, if_false]
  split_ifs with hreq
  · exact hreq
  · rfl

theorem askPark_asks {x : Gang} (h : x.parked = false) {req : ParkReq} (hreq : req ≠ .none) : (x.askPark req).req ≠ .none := by
  simp only [Gang.askPark, h, Bool.false_eq_true, if_false]
  split_ifs with hpre
  · rw [hpre]; decide
  · exact hreq

/-- Settles O31: each status by the branch that gives it. -/
theorem parkAndUnparkAnswer : Obligations.ParkAndUnparkAnswer := by
  intro s r d a form h hsuper hhaul hd ha hr hnd gives
  have ⟨_, _, hbank⟩ := h
  have hgives {i : Instr} {u : State} {st reads : Nat} {after : State → Prop}
      (hexec : exec i s = run s fun _ => .ok (u.privStatus r d.toNat (w32 st) reads)) (hstreams : u.streams = s.streams)
      (hmem : u.mem = s.mem) (hafter : ∀ t : State, t.gangs = u.gangs → after t) : gives i st after := by
    obtain ⟨hcreg, hpc, hmem', hgangs⟩ := privStatus_gives hbank (congrArg (Tab.get ({} : Stream) · r) hstreams) hmem d.toNat (w32 st) reads
    exact ⟨_, hexec.trans (run_next h rfl), hcreg, hpc, hmem', hafter _ hgangs⟩
  obtain ⟨n, hunpark⟩ := exec_unpark h hsuper hhaul hd ha hr
  refine ⟨fun hnone => ⟨fun hform => ?parkNone, ?unparkNone⟩, fun g x hsome hx => ⟨fun hpart => ⟨fun hform => ?parkOther, ?unparkOther⟩,
    fun hpart => ⟨fun hown => ?own, fun hparked => ⟨fun hne hform => ?parkParked, fun hsaving => ⟨fun hheld => ?held,
    fun hshed hassay hne => ?resumes⟩⟩, fun hparked => ⟨?unparkRunning, ?boundary, fun hne => ?preempt⟩⟩⟩⟩
  case parkNone =>
    obtain ⟨m, hpark⟩ := exec_park h hsuper hhaul hd ha hr hform
    rw [show s.byHandle (s.operand r (uni a) 0) = none from hnone] at hpark
    exact hgives hpark rfl rfl fun t => id
  case unparkNone =>
    rw [show s.byHandle (s.operand r (uni a) 0) = none from hnone] at hunpark
    exact hgives hunpark rfl rfl fun t => id
  all_goals have hby : s.byHandle (s.operand r (uni a) 0) = some (g, x) := hsome
  all_goals
    rw [hby] at hunpark
  case parkOther =>
    obtain ⟨m, hpark⟩ := exec_park h hsuper hhaul hd ha hr hform
    simp only [hby, if_pos hpart] at hpark
    exact hgives hpark rfl rfl fun t => id
  case unparkOther =>
    simp only [if_pos hpart] at hunpark
    exact hgives hunpark rfl rfl fun t => id
  all_goals
    simp only [hpart, ne_eq, not_true, if_false] at hunpark
  case own =>
    obtain ⟨m, hpark⟩ := exec_park (form := 1) h hsuper hhaul hd ha hr (by decide)
    simp only [hby, hpart, hown, ne_eq, not_true, if_false, and_self, if_true] at hpark
    exact hgives hpark rfl rfl fun t => id
  all_goals
    simp only [hparked, Bool.not_true, Bool.not_false, Bool.false_eq_true, if_false, if_true] at hunpark
  case parkParked =>
    obtain ⟨m, hpark⟩ := exec_park h hsuper hhaul hd ha hr hform
    simp only [hby, hpart, hne, hparked, ne_eq, not_true, if_false, and_false, if_true] at hpark
    exact hgives hpark rfl rfl fun t ht => by rw [gang_of_gangs ht, gang_updGang, hx]
  case unparkRunning => exact hgives hunpark rfl rfl fun t => id
  case boundary =>
    obtain ⟨m, hpark⟩ := exec_park (form := 0) h hsuper hhaul hd ha hr (by decide)
    simp only [hby, hpart, hparked, ne_eq, not_true, if_false, show (0 : BitVec 2) ≠ 1 by decide, false_and, Bool.false_eq_true,
      if_true] at hpark
    refine hgives hpark rfl rfl fun t ht => ?_
    rw [gang_of_gangs ht, gang_updGang, hx]
    exact ⟨rfl, askPark_asks hparked (by decide), (askPark_parked x _).trans hparked⟩
  case preempt =>
    obtain ⟨m, hpark⟩ := exec_park (form := 1) h hsuper hhaul hd ha hr (by decide)
    simp only [hby, hpart, hparked, hne, ne_eq, not_true, if_false, show (1 : BitVec 2) ≠ 0 by decide, and_false, Bool.false_eq_true] at hpark
    let asked := s.updGang g fun y => { y.askPark .preempt with parkHold := true }
    have hstream : ((asked.updStream r fun t => { t with wait := some .park })).stream r = { s.stream r with wait := some .park } :=
      State.stream_setStream ..
    have hgang : asked.gang g = { x.askPark .preempt with parkHold := true } := hx ▸ gang_updGang ..
    refine ⟨_, hpark.trans (run_stall h rfl), rfl, (congrArg Stream.wait hstream :), (congrArg Gang.parkHold hgang :),
      (congrArg Gang.req hgang :).trans (askPark_preempt hparked), (congrArg Stream.pc hstream :)⟩
  all_goals
    rw [show s.saving g = false from hsaving] at hunpark
    have hfree : (s.updGang g fun y => { y with parkHold := false }).gang g = { x with parkHold := false } := hx ▸ gang_updGang ..
  case held =>
    have hor : (x.shedHold || x.assayHold) = true := by simpa using hheld
    rw [resumeGang_held (by rw [hfree]; exact hheld), hor] at hunpark
    exact hgives hunpark rfl rfl fun t ht => by rw [gang_of_gangs ht, hfree]
  case resumes =>
    rw [hshed, hassay] at hunpark
    have hplacing := resumeGang_resumes (s := s.updGang g fun y => { y with parkHold := false }) (g := g)
      (by rw [hfree]; exact hparked) (by rw [hfree]) (by rw [hfree]; exact hshed) (by rw [hfree]; exact hassay)
    have hgangs := (congrArg (fun p => p.2.1) hplacing :)
    refine hgives hunpark (congrArg Prod.fst hplacing :) (congrArg (fun p => p.2.2) hplacing :) fun t ht => ?_
    rw [gang_of_gangs (ht.trans hgangs), gang_updGang, hfree]
    exact ⟨rfl, rfl⟩

end Sys2Proof.Machine
end

section
/-! CTXSAVE and CTXLOAD (13 R326, R327). -/

namespace Sys2Proof.Machine

/-- A status that an instruction in hand gives. -/
theorem run_privStatus {s : State} {r d reads : Nat} {st : Word} {i : Instr} {g : Nat → Except Stop State} (h : s.inHand r)
    (hi : exec i s = run s g) (hg : g r = .ok (s.privStatus r d st reads)) :
    ∃ t, exec i s = .next t ∧ (∀ n, (t.stream r).creg n = if n = d then ⟨st, 0⟩ else (s.stream r).creg n) ∧
      WentOn s t r ∧ t.crews = s.crews ∧ OnlyStream s t r Stream.lessUni :=
  have ⟨_, _, hbank⟩ := h
  ⟨_, hi.trans (run_next h hg), privStatus_writes hbank d st reads⟩

theorem checkImage_ok {em : Word} {a : Nat} (h : a % 4096 = 0) : checkImage em a = .ok () := if_neg (by simp [h])

theorem checkImage_unaligned {em : Word} {a : Nat} (h : a % 4096 ≠ 0) :
    checkImage em a = .error (.trap { cause := 0x1A, info := w64 a, mask := em }) := if_pos h

/-- Settles O32: each outcome by the branch that gives it. -/
theorem contextInstructionsComplete : Obligations.ContextInstructionsComplete := by
  intro s r d a fr sl h hsuper hhaul hd hr u va gives
  have hpeek : s.peek r 0 [uniWant a] none = .ok (s.peeked r [uniPair a]) := peek_uni h hr
  refine ⟨fun g ad sl' fr' st hwait => ?saved, fun c ad st hwait => ?loaded, fun hwait hva i hi => ?unaligned,
    fun hwait hva => ⟨fun hnone => ?saveNone, fun g x hsome => ⟨fun hpart => ?saveOther, fun hpart hparked => ?saveRunning,
    fun hpart hparked => ?saveBegins⟩, ?loadBegins⟩⟩
  all_goals have hwait' : (s.stream r).wait = _ := hwait
  case saved =>
    refine run_privStatus (reads := (s.peeked r [uniPair a]).regs + 1) h rfl ?_
    simp only [needHaul_ok hhaul, decide_eq_true hd, need_true, hpeek, needSuper_ok hsuper, hwait', bind, Except.bind]
    rfl
  case loaded =>
    refine run_privStatus (reads := (s.peeked r [uniPair a]).regs + 1) h rfl ?_
    simp only [needHaul_ok hhaul, decide_eq_true hd, need_true, hpeek, needSuper_ok hsuper, hwait', bind, Except.bind]
    rfl
  case unaligned =>
    have hcheck : checkImage (s.stream r).em ((s.peeked r [uniPair a]).val 0 0) = _ := checkImage_unaligned hva
    obtain rfl | rfl : i = .ctxsave d a fr sl ∨ i = .ctxload d a := by simpa using hi
    all_goals
      refine run_trap h ?_
      simp only [needHaul_ok hhaul, decide_eq_true hd, need_true, hpeek, needSuper_ok hsuper, hwait', bind, Except.bind, hcheck]
      rfl
  all_goals have hcheck : checkImage (s.stream r).em ((s.peeked r [uniPair a]).val 0 0) = .ok () := checkImage_ok hva
  case loadBegins =>
    refine run_next h ?_
    simp only [needHaul_ok hhaul, decide_eq_true hd, need_true, hpeek, needSuper_ok hsuper, hwait', bind, Except.bind, hcheck]
    rfl
  case saveNone =>
    refine run_privStatus (reads := (s.peeked r [uniPair a]).regs + 1) h rfl ?_
    have hby : s.byHandle ((s.stream r).creg d.toNat).v.toNat = none := hnone
    simp only [needHaul_ok hhaul, decide_eq_true hd, need_true, hpeek, needSuper_ok hsuper, hwait', bind, Except.bind, hcheck, hby]
    rfl
  all_goals have hby : s.byHandle ((s.stream r).creg d.toNat).v.toNat = some (g, x) := hsome
  case saveOther =>
    refine run_privStatus (reads := (s.peeked r [uniPair a]).regs + 1) h rfl ?_
    simp only [needHaul_ok hhaul, decide_eq_true hd, need_true, hpeek, needSuper_ok hsuper, hwait', bind, Except.bind, hcheck, hby,
      if_pos hpart]
    rfl
  case saveRunning =>
    refine run_privStatus (reads := (s.peeked r [uniPair a]).regs + 1) h rfl ?_
    simp only [needHaul_ok hhaul, decide_eq_true hd, need_true, hpeek, needSuper_ok hsuper, hwait', bind, Except.bind, hcheck, hby,
      hpart, hparked, ne_eq, not_true, if_false, Bool.not_false, if_true]
    rfl
  case saveBegins =>
    refine run_next h ?_
    simp only [needHaul_ok hhaul, decide_eq_true hd, need_true, hpeek, needSuper_ok hsuper, hwait', bind, Except.bind, hcheck, hby,
      hpart, hparked, ne_eq, not_true, if_false, Bool.not_true, Bool.false_eq_true]
    rfl

end Sys2Proof.Machine
end

section
/-! Loads of memory: what the access leaves (08 R201 to R206). -/

namespace Sys2Proof.Machine

/-- A computation that succeeds is one whose parts do. -/
theorem bind_ok {ε α β : Type} {x : Except ε α} {f : α → Except ε β} {b : β} (h : x >>= f = .ok b) : ∃ a, x = .ok a ∧ f a = .ok b := by
  cases x with
  | error e => cases h
  | ok a => exact ⟨a, rfl, h⟩

namespace CacheStep

variable {s t : State}

@[simp] theorem spotsOf (h : CacheStep s t) (g : Gang) (priv : Bool) (k : Acc) (va n : Nat) :
    CacheStep s (t.spotsOf g priv k va n).2 := by
  have hfirst := h.spotOf g priv k va
  unfold State.spotsOf
  extract_lets fill room
  generalize t.spotOf g priv k va = x at hfirst ⊢
  obtain ⟨x | p, u⟩ := x
  · exact hfirst
  · have hsecond := CacheStep.spotOf (t := u) hfirst g priv k ((va + room) % 2 ^ 56)
    dsimp only
    generalize u.spotOf g priv k ((va + room) % 2 ^ 56) = y at hsecond ⊢
    split
    · exact hfirst
    · obtain ⟨y | q, v⟩ := y
      · exact hsecond
      · exact hsecond

theorem resolve (h : CacheStep s t) {r : Nat} {k : Acc} {asks : List Ask} {xs : List (Ask × List Spot)} {u : State}
    (hx : t.resolve r k asks = .ok (xs, u)) : CacheStep s u := by
  unfold State.resolve at hx
  extract_lets bad g priv at hx
  split at hx
  · cases hx
  · have hfold : CacheStep s (asks.foldl (fun (acc : List (Ask × Except Miss (List Spot)) × State) a =>
        (acc.1 ++ [(a, (acc.2.spotsOf g priv k (va56 a.addr) a.n).1)], (acc.2.spotsOf g priv k (va56 a.addr) a.n).2)) ([], t)).2 := by
      refine foldl_snd h (fun a b ha => ?_) asks
      exact ha.spotsOf ..
    dsimp only at hx
    split at hx
    · cases hx
    · cases hx
      exact hfold

end CacheStep

/-- Loading the bytes of a lane. -/
theorem CacheStep.readSpot {s t : State} (h : CacheStep s t) (r : Nat) (coh : Bool) (hint lane : Nat) (p : Spot) :
    CacheStep s (t.readSpot r coh hint lane p).2 := by
  unfold State.readSpot
  split
  · split
    · exact (h.syncSectors ..).readSync ..
    · exact h.readPlain ..
  all_goals exact h

theorem CacheStep.readSpots {s t : State} (h : CacheStep s t) (r : Nat) (coh : Bool) (hint lane : Nat) (xs : List Spot) :
    CacheStep s (t.readSpots r coh hint lane xs).2 := by
  unfold State.readSpots
  split
  · exact h
  · split
    · exact h
    · refine foldl_snd h (fun a b ha => ?_) _
      exact ha.readSpot ..

theorem CacheStep.touchL1 {s t : State} (h : CacheStep s t) (r : Nat) (coh : Bool) (hint : Nat) (xs : List Spot) :
    CacheStep s (t.touchL1 r coh hint xs) :=
  foldl h (fun _ _ hu => hu.l1Touch ..) _

/-- A state without its node table. -/
def State.lessNodes (s : State) : State := { s with nodes := [] }

theorem lessNodes_foldl {β : Type} {f : State → β → State} (h : ∀ s b, (f s b).lessNodes = s.lessNodes) (xs : List β) (s : State) :
    (xs.foldl f s).lessNodes = s.lessNodes := by
  induction xs generalizing s with
  | nil => rfl
  | cons x xs ih => exact (ih _).trans (h s x)

theorem lessNodes_enterRead (s : State) (n : Nat) (v : VerRef) : (s.enterRead n v).lessNodes = s.lessNodes := by
  unfold State.enterRead
  dsimp only
  split_ifs <;> rfl

/-- What reads leave in the node record changes the node table alone. -/
theorem lessNodes_noteReads (s : State) (n : Nat) (xs : List Spot) : (s.noteReads n xs).lessNodes = s.lessNodes := by
  unfold State.noteReads
  refine (lessNodes_foldl (fun t m => ?_) _ _).trans (lessNodes_foldl (fun t k => ?_) _ s)
  · split
    · exact lessNodes_foldl (fun t x => lessNodes_enterRead ..) _ t
    · rfl
  · unfold State.recordRead
    split
    · exact lessNodes_enterRead ..
    · rfl

/-- A load: what it resolves, and what it leaves by steps of the caches beside the node record. -/
theorem loadLanes_steps {s : State} {r : Nat} {coh : Bool} {hint : Nat} {asks : List Ask} {l : Loaded}
    (h : s.loadLanes r coh hint asks = .ok l) :
    ∃ u v, CacheStep s u ∧ v.lessNodes = u.lessNodes ∧ CacheStep v l.st := by
  obtain ⟨⟨xs, u⟩, hres, h⟩ := bind_ok h
  obtain ⟨-, -, h⟩ := bind_ok h
  obtain ⟨-, -, h⟩ := bind_ok h
  cases h
  refine ⟨u, u.noteReads (s.nodeNum r) (xs.flatMap Prod.snd), (CacheStep.refl s).resolve hres, lessNodes_noteReads .., ?_⟩
  refine CacheStep.foldl_snd (CacheStep.touchL1 (.refl _) ..) (fun a b ha => ?_) xs
  exact ha.readSpots ..

theorem loadLanes_same {s : State} {r : Nat} {coh : Bool} {hint : Nat} {asks : List Ask} {l : Loaded}
    (h : s.loadLanes r coh hint asks = .ok l) : SameStreams s l.st := by
  obtain ⟨u, v, hsu, huv, hvl⟩ := loadLanes_steps h
  have hnodes : SameStreams u v := ⟨(congrArg State.streams huv :), (congrArg State.crews huv :), (congrArg State.gangs huv :),
    (congrArg State.hostMem huv :)⟩
  exact sameStreams_iff.mpr ((sameStreams_iff.mp hvl.same).trans
    ((sameStreams_iff.mp hnodes).trans (sameStreams_iff.mp hsu.same)))

theorem CacheStep.acquireIf {s t : State} (h : CacheStep s t) (r : Nat) (x : Access) : CacheStep s (t.acquireIf r x) := by
  unfold State.acquireIf
  split
  · exact h.acquire ..
  · exact h

end Sys2Proof.Machine
end

section
/-! A result written after an access, sources used up, and the instruction goes on. -/

namespace Sys2Proof.Machine

/-- What an instruction leaves that wrote a result to the lanes of a mask after it reached a state. -/
structure WroteOn (b t : State) (r : Nat) (ws : List Want) (d : Dst) (mask : Word) (val : Nat → Nat × Label) : Prop where
  wrote : Wrote b t r ws d mask val
  gen : (t.stream r).gen = (b.stream r).gen
  wentOn : WentOn b t r
  only : OnlyStream b t r Stream.lessVec

/-- A result written, the sources that were read used up, and the instruction completes. -/
theorem writeDst_commits (b : State) (r : Nat) (ws : List Want) (d : Dst) (mask : Word) (val : Nat → Nat × Label) (h : d.n < 60)
    (c : Cls) (reads lines : Nat) :
    ∃ u, b.writeDst r d mask val = .ok u ∧ ∀ p : Peek, p.pops = popsOf ws → p.ports = [] → p.st = u →
      WroteOn b ((State.commit r p).complete r c reads lines) r ws d mask val := by
  obtain ⟨u, hu, hput⟩ := writeDst_put b r d mask val h
  refine ⟨u, hu, fun p hpops hports hst => ?_⟩
  obtain ⟨v, hv, hwrote, hpc, hloops, hgen, honly⟩ := write_peeked b r ws d mask val h
  obtain rfl : State.commit r p = v := by
    have hwrite : (b.peeked r ws).write r d mask val = .ok (State.commit r { b.peeked r ws with st := u }) := by
      simp only [Peek.write, show (b.peeked r ws).st = b from rfl, hu]
      rfl
    have hcommit : State.commit r p = State.commit r { b.peeked r ws with st := u } := by
      simp only [State.commit, hpops, hports, hst]
      rfl
    exact hcommit.trans (Except.ok.inj (hwrite.symm.trans hv))
  obtain ⟨hcore, hcrew, hpc', hloops'⟩ := complete_keeps (State.commit r p) r c reads lines
  obtain ⟨hnext, hnextLoops⟩ := Stream.next_pc hpc hloops
  exact ⟨hwrote.of_core hcore hcrew, (congrArg Stream.gen hcore :).trans hgen, ⟨hpc'.trans hnext, hloops'.trans hnextLoops⟩,
    honly.trans ((OnlyStream.complete _ r c reads lines).mono lessVec_of_core)⟩

/-- Sources that are all pairs name no queue. -/
theorem popsOf_wide {s : State} {r : Nat} {ws : List Want} (hwide : ∀ w ∈ ws, w.wide = true) (h : ∀ w ∈ ws, s.srcFault r w = none) :
    popsOf ws = [] := by
  have hnone : ws.filterMap (fun w => match srcOf w.f with | .q n => some n | _ => none) = [] := by
    refine List.filterMap_eq_nil_iff.mpr fun w hw => ?_
    have hfault := h w hw
    split
    · rename_i n hq
      cases hm : s.mayQueue r <;> simp [State.srcFault, hq, hwide w hw, hm] at hfault
    · rfl
  exact (congrArg distinct hnone :)

/-- With no queue among the sources nothing is used up. -/
theorem commit_nothing {r : Nat} {p : Peek} (hpops : p.pops = []) (hports : p.ports = []) : State.commit r p = p.st := by
  simp only [State.commit, hpops, hports, List.foldl_nil]

end Sys2Proof.Machine
end

section
/-! LD, LDQ and LDU (08 R206, R208, R209). -/

namespace Sys2Proof.Machine

/-- Latches that wait for a load change nothing else of a stream. -/
theorem foldl_shiftAwait {α : Type} (xs : List α) (id : Nat) (t : Stream) :
    ∃ ls, xs.foldl (fun t _ => t.shiftAwait id) t = { t with latches := ls } := by
  induction xs generalizing t with
  | nil => exact ⟨t.latches, rfl⟩
  | cons x xs ih =>
    obtain ⟨ls, hls⟩ := ih (t.shiftAwait id)
    exact ⟨ls, hls⟩

/-- A stream whose load is under way: its latches wait for the data, and the load is listed with what it will fill. -/
def Stream.awaitLoad (t : Stream) (id : Nat) (d : Dst) (mask : Word) (f : Nat → Nat × Label) : Stream :=
  let vs := t.lateVecs d mask f
  let u := vs.foldl (fun t _ => t.shiftAwait id) t
  { u with loads := u.loads ++ [⟨id, if d.nw then [] else vs, mask, vs.map Prod.snd, none⟩] }

theorem awaitLoad_keeps (t : Stream) (id : Nat) (d : Dst) (mask : Word) (f : Nat → Nat × Label) :
    let u := t.awaitLoad id d mask f
    u.loads = t.loads ++ [⟨id, if d.nw then [] else t.lateVecs d mask f, mask, (t.lateVecs d mask f).map Prod.snd, none⟩] ∧
      u.v = t.v ∧ u.pc = t.pc ∧ u.loops = t.loops := by
  obtain ⟨ls, hls⟩ := foldl_shiftAwait (t.lateVecs d mask f) id t
  simp only [Stream.awaitLoad, hls, and_self]

theorem loadResult_late {s : State} (r : Nat) (d : Dst) (mask : Word) (f : Nat → Nat × Label) (h : s.lateLoads = true) (hd : d.n < 56) :
    s.loadResult r d mask f =
      .ok (({ s with fresh := s.fresh + 1 } : State).updStream r fun t => t.awaitLoad s.fresh d mask f) :=
  if_pos ⟨h, hd⟩

section

variable {s : State} {r : Nat} {hint q : BitVec 2} {nw m : Bool} {d : BitVec 6} {a imm : BitVec 7} {x : Access} {l : Loaded}
  (h : s.inHand r) (hhaul : s.haulOk r) (hacc : s.accessOf r imm.toNat [0, 1] = .ok x)
  (hload : s.loadLanes r x.reads hint.toNat (s.laneAsks r m x.k a ((s.stream r).active m)) = .ok l)
include h hhaul hacc hload

theorem ld_exec (hr : s.readable r [{ f := a.toNat, wide := true }] (some { n := d.toNat, wide := (s.stream r).accWidth m == 64, nw })) :
    exec (.ld hint nw d a imm m) s = run s fun r => do
      let u ← (l.st.acquireIf r x).loadResult r { n := d.toNat, wide := (s.stream r).accWidth m == 64, nw } ((s.stream r).active m)
        (l.lane (modeTYPE ((s.stream r).mode m)) ((s.stream r).accWidth m))
      return u.complete r .memory (s.peeked r [{ f := a.toNat, wide := true }]).regs l.lines := by
  refine run_congr h ?_
  have hpeek := peek_peeked ((s.stream r).active m) h hr
  have hload' : (s.peeked r [addrWant a]).st.loadLanes r x.reads hint.toNat ((lanesOf ((s.stream r).active m)).map fun i =>
      laneAsk ((s.stream r).accWidth m) x.k i ((s.peeked r [addrWant a]).val 0 i)) = .ok l := hload
  simp only [addrWant] at hpeek hload' ⊢
  simp only [needHaul_ok hhaul, hacc, hpeek, hload', bind, Except.bind]

/-- LD whose data come at once, or which pushes them to a store queue. -/
theorem ld_now (hr : s.readable r [{ f := a.toNat, wide := true }] (some { n := d.toNat, wide := (s.stream r).accWidth m == 64, nw }))
    (hnow : (l.st.acquireIf r x).lateLoads = false ∨ 56 ≤ d.toNat) :
    ∃ t, exec (.ld hint nw d a imm m) s = .next t ∧
      WroteOn (l.st.acquireIf r x) t r [{ f := a.toNat, wide := true }] { n := d.toNat, wide := (s.stream r).accWidth m == 64, nw }
        ((s.stream r).active m) (l.lane (modeTYPE ((s.stream r).mode m)) ((s.stream r).accWidth m)) := by
  have ⟨hsrc, _, _, _, _, h60, _, _⟩ := hr
  obtain ⟨u, hu, hwrote⟩ := writeDst_commits (l.st.acquireIf r x) r [{ f := a.toNat, wide := true }]
    { n := d.toNat, wide := (s.stream r).accWidth m == 64, nw } ((s.stream r).active m)
    (l.lane (modeTYPE ((s.stream r).mode m)) ((s.stream r).accWidth m)) (h60 _ rfl) .memory
    (s.peeked r [{ f := a.toNat, wide := true }]).regs l.lines
  have hpops : popsOf [({ f := a.toNat, wide := true } : Want)] = [] := popsOf_wide (by simp) hsrc
  have hdone := hwrote ⟨[], [], [], 0, u⟩ hpops.symm rfl rfl
  rw [commit_nothing rfl rfl] at hdone
  refine ⟨_, (ld_exec h hhaul hacc hload hr).trans (run_next h ?_), hdone⟩
  have hresult : (l.st.acquireIf r x).loadResult r { n := d.toNat, wide := (s.stream r).accWidth m == 64, nw }
      ((s.stream r).active m) (l.lane (modeTYPE ((s.stream r).mode m)) ((s.stream r).accWidth m)) = .ok u :=
    (if_neg (by rcases hnow with hl | hd <;> simp_all)).trans hu
  simp only [hresult, bind, Except.bind]
  rfl

/-- LD whose data come late: its registers wait for them. -/
theorem ld_late (hr : s.readable r [{ f := a.toNat, wide := true }] (some { n := d.toNat, wide := (s.stream r).accWidth m == 64, nw }))
    (hlate : (l.st.acquireIf r x).lateLoads = true) (hd : d.toNat < 56) :
    let after := l.st.acquireIf r x
    let act := (s.stream r).active m
    let vs := (after.stream r).lateVecs { n := d.toNat, wide := (s.stream r).accWidth m == 64, nw } act
      (l.lane (modeTYPE ((s.stream r).mode m)) ((s.stream r).accWidth m))
    ∃ t, exec (.ld hint nw d a imm m) s = .next t ∧
      (t.stream r).loads = (after.stream r).loads ++ [⟨after.fresh, if nw then [] else vs, act, vs.map Prod.snd, none⟩] ∧
      (t.stream r).v = (after.stream r).v ∧ WentOn after t r := by
  intro after act vs
  obtain ⟨hloads, hv, hpc, hloops⟩ := awaitLoad_keeps (after.stream r) after.fresh { n := d.toNat, wide := (s.stream r).accWidth m == 64, nw }
    act (l.lane (modeTYPE ((s.stream r).mode m)) ((s.stream r).accWidth m))
  have hresult := loadResult_late (s := after) r { n := d.toNat, wide := (s.stream r).accWidth m == 64, nw }
    act (l.lane (modeTYPE ((s.stream r).mode m)) ((s.stream r).accWidth m)) hlate hd
  generalize hu : ({ after with fresh := after.fresh + 1 } : State).updStream r _ = u at hresult
  have hstream : u.stream r = _ := (congrArg (·.stream r) hu.symm).trans (State.stream_setStream ..)
  obtain ⟨hcore, -, hpc', hloops'⟩ := complete_keeps u r .memory (s.peeked r [{ f := a.toNat, wide := true }]).regs l.lines
  rw [hstream] at hcore hpc' hloops'
  obtain ⟨hnext, hnextLoops⟩ := Stream.next_pc hpc hloops
  refine ⟨_, (ld_exec h hhaul hacc hload hr).trans (run_next h ?_), (congrArg Stream.loads hcore :).trans hloads,
    (congrArg Stream.v hcore :).trans hv, ⟨hpc'.trans hnext, hloops'.trans hnextLoops⟩⟩
  simp only [after, act] at hresult
  simp only [hresult, bind, Except.bind]
  rfl

/-- LDQ, past its access. -/
theorem ldq_exec (hwidth : (s.stream r).accWidth m ≠ 64) (hr : s.readable r [{ f := a.toNat, wide := true }] none)
    (hroom : (Tab.get [] (s.crewAt r).loadQ q.toNat).length < 8) :
    exec (.ldq hint q a imm m) s = .next (((l.st.acquireIf r x).pushLoad r q.toNat
      (Vec.zero.merge ((s.stream r).active m) fun i =>
        halfLane (l.lane (modeTYPE ((s.stream r).mode m)) ((s.stream r).accWidth m) i) 0) ((s.stream r).active m)).complete r .memory
      (s.peeked r [{ f := a.toNat, wide := true }]).regs l.lines) := by
  refine run_next h ?_
  have hpeek := peek_peeked ((s.stream r).active m) h hr
  have hload' : (s.peeked r [addrWant a]).st.loadLanes r x.reads hint.toNat ((lanesOf ((s.stream r).active m)).map fun i =>
      laneAsk ((s.stream r).accWidth m) x.k i ((s.peeked r [addrWant a]).val 0 i)) = .ok l := hload
  have hcheck : s.checkLoadRoom r q.toNat = .ok () := if_pos hroom
  simp only [addrWant] at hpeek hload' ⊢
  simp only [needHaul_ok hhaul, hacc, bne_iff_ne.mpr hwidth, need_true, hpeek, hcheck, hload', bind, Except.bind]
  rfl

end

/-- An entry pushed to a load queue, which waits where data come late. -/
theorem pushLoad_pushes (b : State) (r q : Nat) (v : Vec) (mask : Word) :
    let u := b.pushLoad r q v mask
    Tab.get [] (u.crewAt r).loadQ q =
        Tab.get [] (b.crewAt r).loadQ q ++ [⟨v, mask, if b.lateLoads then some b.fresh else none⟩] ∧
      (u.stream r).pc = (b.stream r).pc ∧ (u.stream r).loops = (b.stream r).loops ∧
      (b.lateLoads = false → OnlyStream b u r Stream.core) := by
  unfold State.pushLoad
  cases hlate : b.lateLoads
  · simp only [Bool.false_eq_true, if_false]
    refine ⟨?_, rfl, rfl, fun _ => ?_⟩
    · simp [State.crewAt]
    · refine OnlyStream.updCrew b r _ _ ?_
      rfl
  · dsimp only [State.freshNum]
    refine ⟨?_, ?_, ?_, fun h => nomatch h⟩
    · simp [State.crewAt]
      rfl
    · simp
      rfl
    · simp
      rfl

/-- Settles O33, by the instruction and by whether its data come late. -/
theorem loadsDeliver : Obligations.LoadsDeliver := by
  intro s r hint q nw d a imm m x l h hhaul hacc u ty w act ws after v
  refine ⟨fun hload => ⟨fun hr => ⟨fun hnow => ?ldNow, ld_late h hhaul hacc hload hr⟩, fun hwidth hr hroom => ?ldq⟩,
    fun hload hd heven hr => ?ldu⟩
  case ldNow =>
    obtain ⟨t, ht, hwrote, hgen, hon, honly⟩ := ld_now h hhaul hacc hload hr hnow
    exact ⟨t, ht, hwrote, hgen, hon, honly⟩
  case ldq =>
    obtain ⟨hpushed, hpc, hloops, honly⟩ := pushLoad_pushes after r q.toNat v act
    obtain ⟨-, hcrew, hpc', hloops'⟩ :=
      complete_keeps (after.pushLoad r q.toNat v act) r .memory (s.peeked r [{ f := a.toNat, wide := true }]).regs l.lines
    obtain ⟨hnext, hnextLoops⟩ := Stream.next_pc hpc hloops
    exact ⟨_, ldq_exec h hhaul hacc hload hwidth hr hroom, ⟨hpc'.trans hnext, hloops'.trans hnextLoops⟩,
      (congrArg (fun c => Tab.get [] c.loadQ q.toNat) hcrew).trans hpushed,
      fun hlate => (honly hlate).trans (OnlyStream.complete ..)⟩
  case ldu =>
    have ⟨_, _, hbank⟩ := h
    have hsame : SameStreams l.st after := ((CacheStep.refl l.st).acquireIf r x).same
    have hbank' : (after.stream r).regBad = [] := by rw [hsame.stream r, (loadLanes_same hload).stream r]; exact hbank
    have hdst : (decide (d.toNat < 32) && (w != 64 || d.toNat % 2 == 0)) = true := by
      by_cases hw : w = 64
      · simp [hd, heven hw]
      · simp [hd, hw]
    obtain ⟨cs, hcs⟩ := (after.stream r).putC_bank d.toNat (w == 64) (l.lane ty w 0).1 (l.lane ty w 0).2 hbank'
    obtain ⟨hcore, hon, -, honly⟩ := upd_complete (s := after) (r := r) (e := Stream.lessUni) .memory (s.peeked r [uniPair a]).regs l.lines
      (f := fun t => t.putC d.toNat (w == 64) (l.lane ty w 0).1 (l.lane ty w 0).2) (by rw [hcs]) (by rw [hcs]) (by rw [hcs]; rfl)
      lessUni_core
    refine ⟨_, run_next h ?_, fun n => ?_, hon, honly⟩
    · have hpeek : s.peek r 0 [uniWant a] none = .ok (s.peeked r [uniPair a]) := peek_uni h hr
      have hload' : (s.peeked r [uniPair a]).st.loadLanes r x.reads hint.toNat
          [laneAsk ((s.stream r).accWidth m) x.k 0 ((s.peeked r [uniPair a]).val 0 0)] = .ok l := hload
      simp only [needHaul_ok hhaul, hacc, show (decide (d.toNat < 32) && ((s.stream r).accWidth m != 64 || d.toNat % 2 == 0)) = true from hdst,
        need_true, hpeek, hload', onStream, bind, Except.bind]
      rfl
    · rw [creg_of_core hcore, Stream.creg_putC]
      simp

end Sys2Proof.Machine
end

section
/-! ST, STU and STQ (08 R206, R208, R210). -/

namespace Sys2Proof.Machine

/-- After an access that left a state, sources are used up there and the instruction goes on. -/
theorem commit_completes (u : State) (r : Nat) (ws : List Want) (c : Cls) (reads lines : Nat) :
    let t := (State.commit r (u.peeked r ws)).complete r c reads lines
    Popped u t r ws ∧ WentOn u t r ∧ OnlyStream u t r Stream.core := by
  obtain ⟨hstream, hpopped, honly⟩ := commit_peeked u r ws
  obtain ⟨-, hcrew, hpc, hloops⟩ := complete_keeps (State.commit r (u.peeked r ws)) r c reads lines
  rw [hstream] at hpc hloops
  exact ⟨hpopped.of_crew hcrew, ⟨hpc, hloops⟩, honly.trans (OnlyStream.complete ..)⟩

/-- What taking the oldest entry of a store queue leaves. -/
def State.popStore (s : State) (r q : Nat) : State :=
  s.updCrew (crewOf r) fun c => { c with storeQ := Tab.put q ((Tab.get [] c.storeQ q).drop 1) c.storeQ }

theorem popStore_pops (s : State) (r q k : Nat) :
    Tab.get [] ((s.popStore r q).crewAt r).storeQ k =
      if k = q then (Tab.get [] (s.crewAt r).storeQ k).drop 1 else Tab.get [] (s.crewAt r).storeQ k := by
  by_cases hk : k = q
  · subst hk; simp [State.popStore, State.crewAt]
  · simp [State.popStore, State.crewAt, hk, Tab.get_put_other _ _ _ hk]

/-- Settles O34: each store is its access, and then its sources are used up. -/
theorem storesComplete : Obligations.StoresComplete := by
  intro s s' r lines hint q d a imm m x h hhaul hacc u w act addr data udata
  refine ⟨fun hr hstore => ?st, fun hd hr hstore => ?stu, fun hwidth hr e rest hq hstore => ?stq⟩
  case st =>
    have hpeek : s.peek r act [addrWant a, { f := d.toNat, wide := w == 64, allow := .data }] none = .ok (s.peeked r [addr, data]) :=
      peek_peeked act h hr
    have hstore' : (s.peeked r [addr, data]).st.storeLanes r x.coherent hint.toNat x.release ((lanesOf act).map fun i =>
        (laneAsk w x.k i ((s.peeked r [addr, data]).val 0 i), (s.peeked r [addr, data]).val 1 i, (s.peeked r [addr, data]).lab 1 i)) =
        .ok (s', lines) := hstore
    refine ⟨_, run_next h ?_, commit_completes s' r [addr, data] .memory (s.peeked r [addr, data]).regs lines⟩
    simp only [needHaul_ok hhaul, hacc, bind, Except.bind]
    rw [hpeek]
    dsimp only
    rw [hstore']
    rfl
  case stu =>
    have hpeek : s.peek r 0 [uniWant a, udata] none = .ok (s.peeked r [uniPair a, udata]) := peek_peeked 0 h hr
    have hstore' : (s.peeked r [uniPair a, udata]).st.storeLanes r x.coherent hint.toNat x.release
        [(laneAsk w x.k 0 ((s.peeked r [uniPair a, udata]).val 0 0), (s.peeked r [uniPair a, udata]).val 1 0,
          (s.peeked r [uniPair a, udata]).lab 1 0)] = .ok (s', lines) := hstore
    obtain ⟨-, -, hpc, hloops⟩ := complete_keeps s' r .memory (s.peeked r [uniPair a, udata]).regs lines
    refine ⟨_, run_next h ?_, ⟨hpc, hloops⟩, rfl, OnlyStream.complete ..⟩
    simp only [needHaul_ok hhaul, hacc, decide_eq_true hd, need_true, bind, Except.bind]
    rw [hpeek]
    dsimp only
    rw [hstore']
    rfl
  case stq =>
    have hpeek : s.peek r act [addrWant a] none = .ok (s.peeked r [addr]) := peek_peeked act h hr
    have hnarrow : ((s.stream r).accWidth m != 64) = true := bne_iff_ne.mpr hwidth
    have holdest : s.oldestStore r q.toNat = .ok e := by simp only [State.oldestStore, hq]
    have hstore' : (s.peeked r [addr]).st.storeLanes r x.coherent hint.toNat x.release ((lanesOf (act &&& e.mask)).map fun i =>
        (laneAsk w x.k i ((s.peeked r [addr]).val 0 i), (e.vec.lane i).v.toNat, (e.vec.lane i).l)) = .ok (s', lines) := hstore
    obtain ⟨-, hcrew, hpc, hloops⟩ := complete_keeps (s'.popStore r q.toNat) r .memory (s.peeked r [addr]).regs lines
    refine ⟨_, run_next h ?_, fun k => (congrArg (fun c => Tab.get [] c.storeQ k) hcrew).trans (popStore_pops s' r q.toNat k),
      (congrArg Crew.loadQ hcrew).trans ?_, ⟨hpc, hloops⟩, (OnlyStream.updCrew s' r _ _ ?_).trans (OnlyStream.complete ..)⟩
    · simp only [needHaul_ok hhaul, hacc, hnarrow, need_true, bind, Except.bind]
      rw [hpeek]
      dsimp only
      rw [holdest]
      dsimp only
      rw [hstore']
      rfl
    · simp [State.popStore, State.crewAt]
    · rfl

end Sys2Proof.Machine
end

section
/-! Words of the worked examples, and memory (05, 15 R355). -/

namespace Sys2Proof.Machine

/-- Settles O4: each word is decoded. -/
theorem specWordsDecode : Obligations.SpecWordsDecode :=
  ⟨rfl, rfl, rfl, rfl, rfl, rfl, rfl, rfl, rfl, rfl, rfl, rfl, rfl, rfl, rfl⟩

/-- Settles O6: reset memory lists no byte, and a write obeys the laws of byte memories. -/
theorem memoryReadsWhatWasWritten : Obligations.MemoryReadsWhatWasWritten :=
  ⟨⟨Memory.wf_nil, Memory.wf_nil⟩, fun m a bs h =>
    ⟨Memory.wf_wrBytes h a bs, fun i hi => rdByte_wrBytes_same m a bs i hi, fun c hc => rdByte_wrBytes_other m a c bs hc⟩⟩

end Sys2Proof.Machine
end

section
/-! SUPPORT. Sorting by insertion, and the lanes of a mask. -/

namespace Sys2Proof.Machine

theorem insertBy_perm {α : Type} (before : α → α → Bool) (x : α) (ys : List α) : (insertBy before x ys).Perm (x :: ys) := by
  induction ys with
  | nil => rfl
  | cons y ys ih =>
    unfold insertBy
    split
    · rfl
    · exact (ih.cons y).trans (.swap x y ys)

/-- Sorting rearranges. -/
theorem sortBy_perm {α : Type} (before : α → α → Bool) (xs : List α) : (sortBy before xs).Perm xs := by
  suffices h : ∀ acc, (xs.foldl (fun acc x => insertBy before x acc) acc).Perm (acc ++ xs) from h []
  induction xs with
  | nil => intro acc; simp
  | cons x xs ih =>
    intro acc
    refine (ih _).trans ?_
    exact ((insertBy_perm before x acc).append_right xs).trans List.perm_middle.symm

theorem mem_sortBy {α : Type} {before : α → α → Bool} {xs : List α} {x : α} : x ∈ sortBy before xs ↔ x ∈ xs :=
  (sortBy_perm before xs).mem_iff

theorem sortBy_singleton {α : Type} (before : α → α → Bool) (x : α) : sortBy before [x] = [x] := rfl

theorem mem_lanesOf {m : Word} {i : Nat} : i ∈ lanesOf m ↔ i < 32 ∧ inMask m i = true := by
  simp [lanesOf]

theorem lanesOf_nodup (m : Word) : (lanesOf m).Nodup := List.nodup_range.filter _

theorem mem_laneOrder {s : State} {r : Nat} {ls : List Nat} {i : Nat} : i ∈ s.laneOrder r ls ↔ i ∈ ls := by
  unfold State.laneOrder
  split <;> exact mem_sortBy

/-- Entries of lanes in an order that names their lanes are the same entries. -/
theorem mem_inOrder {α : Type} {lane : α → Nat} {order : List Nat} {xs : List α} (h : ∀ x ∈ xs, lane x ∈ order) {x : α} :
    x ∈ inOrder lane order xs ↔ x ∈ xs := by
  simp only [inOrder, List.mem_flatMap, List.mem_filter, beq_iff_eq]
  exact ⟨fun ⟨_, _, hx, _⟩ => hx, fun hx => ⟨lane x, h x hx, hx, rfl⟩⟩

end Sys2Proof.Machine
end

section
/-! LDS and STS (08 R207). -/

namespace Sys2Proof.Machine

/-- What a result written after a change of gangs says of the state before. -/
theorem Wrote.of_base {s b t : State} {r : Nat} {ws : List Want} {d : Dst} {mask : Word} {val : Nat → Nat × Label}
    (h : Wrote b t r ws d mask val) (hstreams : b.streams = s.streams) (hcrews : b.crews = s.crews) : Wrote s t r ws d mask val := by
  have hstream : b.stream r = s.stream r := congrArg (Tab.get ({} : Stream) · r) hstreams
  have hcrew : b.crewAt r = s.crewAt r := congrArg (Tab.get ({} : Crew) · (crewOf r)) hcrews
  obtain ⟨hregs, hlatches, hpushed, hpopped⟩ := h
  simp only [State.received, hstream, hcrew] at hregs hlatches hpushed hpopped
  exact ⟨hregs, hlatches, hpushed, hpopped⟩

/-- What a load of lanes from scratchpad gives. -/
theorem loadScratch_ok {s : State} {r : Nat} {asks : List Ask} (h : s.checkScratch r true asks = .ok ()) :
    s.loadScratch r asks = .ok ⟨asks.map fun a => (a.lane, a.elem ((s.gangAt r).spBytes a.addr a.n), (s.gangAt r).rangeLabel a.addr a.n),
      spLines asks, s.updGang (gangOf r) fun g => g.spCount (asks.map fun a => (a.addr, a.n))⟩ := by
  simp only [State.loadScratch, h, bind, Except.bind]
  rfl

/-- Counting accesses leaves a gang's scratchpad. -/
theorem spCount_gang (s : State) (r : Nat) (xs : List (Nat × Nat)) (k : Nat) :
    ((s.updGang (gangOf r) fun g => g.spCount xs).gang k).scratch = (s.gang k).scratch ∧
      ((s.updGang (gangOf r) fun g => g.spCount xs).gang k).scratchLab = (s.gang k).scratchLab := by
  by_cases hk : k = gangOf r
  · subst hk
    rw [gang_updGang]
    exact ⟨rfl, rfl⟩
  · rw [State.updGang_eq, State.gang_setGang_other _ _ hk]
    exact ⟨rfl, rfl⟩

/-- What a lane takes of a load that gives each access its element and label. -/
theorem lane_of_asks (asks : List Ask) (elem : Ask → Nat) (lab : Ask → Label) (lines : Nat) (st : State) (ty w : Nat) :
    Loaded.lane ⟨asks.map fun a => (a.lane, elem a, lab a), lines, st⟩ ty w = fun i =>
      match asks.find? fun x => x.lane == i with
      | some x => (extendElem ty w (elem x), lab x)
      | none => (0, 0) := by
  funext i
  simp only [Loaded.lane, List.find?_map, Function.comp_def]
  cases List.find? (fun x : Ask => x.lane == i) asks <;> rfl

/-- LDS on lanes that lie in the scratchpad, its data there at once. -/
theorem lds_now {s : State} {r : Nat} {nw m : Bool} {d : BitVec 6} {a imm : BitVec 7} (h : s.inHand r) (hhaul : s.haulOk r)
    (hr : s.readable r [{ f := a.toNat }] (some { n := d.toNat, wide := (s.stream r).accWidth m == 64, nw }))
    (hcheck : s.checkScratch r true (s.spAsks r m imm a) = .ok ()) (hnow : s.lateLoads = false ∨ 56 ≤ d.toNat) :
    let asks := s.spAsks r m imm a
    let b := s.updGang (gangOf r) fun g => g.spCount (asks.map fun a => (a.addr, a.n))
    let vals := asks.map fun a => (a.lane, a.elem ((s.gangAt r).spBytes a.addr a.n), (s.gangAt r).rangeLabel a.addr a.n)
    ∃ t, exec (.lds nw d a imm m) s = .next t ∧ WroteOn b t r [{ f := a.toNat }]
      { n := d.toNat, wide := (s.stream r).accWidth m == 64, nw } ((s.stream r).active m)
      (Loaded.lane ⟨vals, spLines asks, b⟩ (modeTYPE ((s.stream r).mode m)) ((s.stream r).accWidth m)) := by
  intro asks b vals
  have ⟨_, _, _, _, _, h60, _, _⟩ := hr
  obtain ⟨u, hu, hwrote⟩ := writeDst_commits b r [{ f := a.toNat }] { n := d.toNat, wide := (s.stream r).accWidth m == 64, nw }
    ((s.stream r).active m) (Loaded.lane ⟨vals, spLines asks, b⟩ (modeTYPE ((s.stream r).mode m)) ((s.stream r).accWidth m))
    (h60 _ rfl) .memory (s.peeked r [{ f := a.toNat }]).regs (spLines asks)
  refine ⟨_, run_next h ?_, hwrote { s.peeked r [{ f := a.toNat }] with st := u } rfl rfl rfl⟩
  have hload : (s.peeked r [{ f := a.toNat }]).st.loadScratch r ((lanesOf ((s.stream r).active m)).map fun i =>
      spAsk ((s.stream r).accWidth m) (signed 7 imm.toNat) i ((s.peeked r [{ f := a.toNat }]).val 0 i)) =
      .ok ⟨vals, spLines asks, b⟩ := loadScratch_ok hcheck
  have hresult : b.loadResult r { n := d.toNat, wide := (s.stream r).accWidth m == 64, nw } ((s.stream r).active m)
      (Loaded.lane ⟨vals, spLines asks, b⟩ (modeTYPE ((s.stream r).mode m)) ((s.stream r).accWidth m)) = .ok u := by
    refine (if_neg ?_).trans hu
    rcases hnow with hl | hd
    · simp [b, hl]
    · simp [hd]
  simp only [needHaul_ok hhaul, peek_peeked _ h hr, bind, Except.bind]
  rw [hload]
  dsimp only
  rw [hresult]
  rfl

/-! STS: the bytes that the lanes write, one lane after another. -/

/-- What a store writes to scratchpad, as the memory and the list of bytes grow. -/
def storeBytes (acc : List Host.Cell × List (Nat × Byte × Label)) (x : Ask × Nat × Label) : List Host.Cell × List (Nat × Byte × Label) :=
  let bs := x.1.bytes (rdBytes acc.1 x.1.addr x.1.n) x.2.1
  (wrBytes acc.1 x.1.addr bs, acc.2 ++ (List.range bs.length).map fun i => (x.1.addr + i, bs.getD i 0, x.2.2))

theorem length_leBytes (n x : Nat) : (leBytes n x).length = n := by
  induction n generalizing x with
  | zero => rfl
  | succ n ih => simp [leBytes, ih]

/-- The bytes of an access are as many as it touches. -/
theorem Ask.length_bytes {a : Ask} (h : a.nib.isSome = true → a.n = 1) (old : List Byte) (v : Nat) : (a.bytes old v).length = a.n := by
  unfold Ask.bytes
  cases hn : a.nib with
  | none => exact length_leBytes _ _
  | some b => cases b <;> simp [h (by simp [hn])]

theorem spAsk_nib (w : Nat) (k : Int) (lane off : Nat) : (spAsk w k lane off).nib.isSome = true → (spAsk w k lane off).n = 1 := by
  unfold spAsk
  split <;> simp

@[simp] theorem spAsk_lane (w : Nat) (k : Int) (lane off : Nat) : (spAsk w k lane off).lane = lane := by
  unfold spAsk
  split <;> rfl

/-- Each byte that a store writes is a byte of one of its lanes. -/
theorem mem_storeBytes {xs : List (Ask × Nat × Label)} (hn : ∀ x ∈ xs, x.1.nib.isSome = true → x.1.n = 1) {w : Nat × Byte × Label}
    {acc : List Host.Cell × List (Nat × Byte × Label)} (hw : w ∈ (xs.foldl storeBytes acc).2) :
    w ∈ acc.2 ∨ ∃ x ∈ xs, ∃ i, i < x.1.n ∧ w.1 = x.1.addr + i ∧ (x.1.nib = none → w.2.1 = (leBytes x.1.n x.2.1).getD i 0) := by
  induction xs generalizing acc with
  | nil => exact .inl hw
  | cons x xs ih =>
    rcases ih (fun y hy => hn y (List.mem_cons_of_mem _ hy)) hw with hmem | ⟨y, hy, hrest⟩
    · simp only [storeBytes, List.mem_append, List.mem_map, List.mem_range, Ask.length_bytes (hn x List.mem_cons_self)] at hmem
      rcases hmem with hmem | ⟨i, hi, rfl⟩
      · exact .inl hmem
      · refine .inr ⟨x, List.mem_cons_self, i, hi, rfl, fun hnib => ?_⟩
        simp only [Ask.bytes, hnib]
    · exact .inr ⟨y, List.mem_cons_of_mem _ hy, hrest⟩

/-- Each lane's bytes are among those a store writes. -/
theorem storeBytes_covers {xs : List (Ask × Nat × Label)} (hn : ∀ x ∈ xs, x.1.nib.isSome = true → x.1.n = 1)
    {acc : List Host.Cell × List (Nat × Byte × Label)} {x : Ask × Nat × Label} (hx : x ∈ xs) {i : Nat} (hi : i < x.1.n) :
    ∃ w ∈ (xs.foldl storeBytes acc).2, w.1 = x.1.addr + i := by
  have hgrow (ys : List (Ask × Nat × Label)) (acc : List Host.Cell × List (Nat × Byte × Label)) {w : Nat × Byte × Label}
      (hw : w ∈ acc.2) : w ∈ (ys.foldl storeBytes acc).2 := by
    induction ys generalizing acc with
    | nil => exact hw
    | cons y ys ih => exact ih _ (List.mem_append_left _ hw)
  induction xs generalizing acc with
  | nil => cases hx
  | cons y xs ih =>
    rcases List.mem_cons.mp hx with rfl | hx
    · refine ⟨(x.1.addr + i, (x.1.bytes (rdBytes acc.1 x.1.addr x.1.n) x.2.1).getD i 0, x.2.2), hgrow xs _ ?_, rfl⟩
      refine List.mem_append_right _ (List.mem_map.mpr ⟨i, ?_, rfl⟩)
      rw [List.mem_range, Ask.length_bytes (hn x List.mem_cons_self)]
      exact hi
    · exact ih (fun y hy => hn y (List.mem_cons_of_mem _ hy)) hx

/-- Bytes written one after another leave the addresses that none of them names. -/
theorem rdByte_foldl_other (ws : List (Nat × Byte × Label)) (m : List Host.Cell) {p : Nat} (h : ∀ w ∈ ws, w.1 ≠ p) :
    rdByte (ws.foldl (fun m w => wrByte m w.1 w.2.1) m) p = rdByte m p := by
  induction ws generalizing m with
  | nil => rfl
  | cons w ws ih =>
    rw [List.foldl_cons, ih _ fun v hv => h v (List.mem_cons_of_mem _ hv)]
    exact rdByte_wrByte_other m _ (h w List.mem_cons_self).symm

/-- An address to which one byte is written, if often, reads that byte. -/
theorem rdByte_foldl_same (ws : List (Nat × Byte × Label)) (m : List Host.Cell) {p : Nat} {b : Byte} (hmem : ∃ w ∈ ws, w.1 = p)
    (h : ∀ w ∈ ws, w.1 = p → w.2.1 = b) : rdByte (ws.foldl (fun m w => wrByte m w.1 w.2.1) m) p = b := by
  induction ws generalizing m with
  | nil => obtain ⟨w, hw, -⟩ := hmem; cases hw
  | cons w ws ih =>
    rw [List.foldl_cons]
    by_cases hlater : ∃ v ∈ ws, v.1 = p
    · exact ih _ hlater fun v hv => h v (List.mem_cons_of_mem _ hv)
    · rw [rdByte_foldl_other _ _ fun v hv hp => hlater ⟨v, hv, hp⟩]
      obtain ⟨v, hv, hp⟩ := hmem
      rcases List.mem_cons.mp hv with rfl | hv
      · rw [← hp, rdByte_wrByte_same]
        exact h v List.mem_cons_self hp
      · exact absurd ⟨v, hv, hp⟩ hlater

/-- The lanes of a store with what each of them stores. -/
def State.spStores (s : State) (r : Nat) (m : Bool) (imm a : BitVec 7) (data : Want) : List (Ask × Nat × Label) :=
  (lanesOf ((s.stream r).active m)).map fun i =>
    (spAsk ((s.stream r).accWidth m) (signed 7 imm.toNat) i (s.operand r { f := a.toNat } i), s.operand r data i,
      s.operandLabel r data i)

theorem map_fst_spStores (s : State) (r : Nat) (m : Bool) (imm a : BitVec 7) (data : Want) :
    (s.spStores r m imm a data).map Prod.fst = s.spAsks r m imm a := by
  simp [State.spStores, State.spAsks, Function.comp_def]

/-- A lane stores its own data. -/
theorem mem_spStores {s : State} {r : Nat} {m : Bool} {imm a : BitVec 7} {data : Want} {x : Ask × Nat × Label}
    (h : x ∈ s.spStores r m imm a data) :
    x.1 ∈ s.spAsks r m imm a ∧ x.2.1 = s.operand r data x.1.lane ∧ (x.1.nib.isSome = true → x.1.n = 1) := by
  obtain ⟨i, hi, rfl⟩ := List.mem_map.mp h
  exact ⟨List.mem_map.mpr ⟨i, hi, rfl⟩, by simp, spAsk_nib _ _ _ _⟩

theorem spStores_of_ask {s : State} {r : Nat} {m : Bool} {imm a : BitVec 7} (data : Want) {x : Ask} (h : x ∈ s.spAsks r m imm a) :
    (x, s.operand r data x.lane, s.operandLabel r data x.lane) ∈ s.spStores r m imm a data := by
  obtain ⟨i, hi, rfl⟩ := List.mem_map.mp h
  exact List.mem_map.mpr ⟨i, hi, by simp⟩

/-- An access of a lane is the only one of its lane. -/
theorem spAsks_unique {s : State} {r : Nat} {m : Bool} {imm a : BitVec 7} {x y : Ask} (hx : x ∈ s.spAsks r m imm a)
    (hy : y ∈ s.spAsks r m imm a) (h : x.lane = y.lane) : x = y := by
  obtain ⟨i, -, rfl⟩ := List.mem_map.mp hx
  obtain ⟨j, -, rfl⟩ := List.mem_map.mp hy
  obtain rfl : i = j := by simpa using h
  rfl

/-- The lanes of a store in the order in which they reach the scratchpad. -/
def State.spOrder (s : State) (r : Nat) (asks : List (Ask × Nat × Label)) : List (Ask × Nat × Label) :=
  inOrder (fun a : Ask × Nat × Label => a.1.lane) (s.laneOrder r (distinct (asks.map fun a => a.1.lane))) asks

theorem mem_spOrder {s : State} {r : Nat} {asks : List (Ask × Nat × Label)} {x : Ask × Nat × Label} : x ∈ s.spOrder r asks ↔ x ∈ asks :=
  mem_inOrder fun _ hy => mem_laneOrder.mpr (mem_distinct.mpr (List.mem_map_of_mem hy))

/-- What a store of lanes that lie in the scratchpad leaves. -/
theorem storeScratch_ok {s : State} {r : Nat} {asks : List (Ask × Nat × Label)} (h : s.checkScratch r false (asks.map Prod.fst) = .ok ()) :
    ∃ cnt, s.storeScratch r asks = .ok (s.updGang (gangOf r) fun g =>
      (g.spWrite ((s.spOrder r asks).foldl storeBytes ((s.gangAt r).scratch, [])).2).spCount cnt, spLines (asks.map Prod.fst)) := by
  refine ⟨(s.spOrder r asks).map fun x => (x.1.addr, x.1.n), ?_⟩
  simp only [State.storeScratch, h, bind, Except.bind]
  rfl

/-- Scratchpad after a store of lanes. -/
def State.spAfter (s : State) (r : Nat) (asks : List (Ask × Nat × Label)) : List Host.Cell :=
  ((s.spOrder r asks).foldl storeBytes ((s.gangAt r).scratch, [])).2.foldl (fun m w => wrByte m w.1 w.2.1) (s.gangAt r).scratch

section

variable {s : State} {r : Nat} {m : Bool} {imm a : BitVec 7} {data : Want}

/-- A byte that no lane stores to stays. -/
theorem spAfter_other {p : Nat} (h : ∀ x ∈ s.spAsks r m imm a, x.avoids p) :
    rdByte (s.spAfter r (s.spStores r m imm a data)) p = rdByte (s.gangAt r).scratch p := by
  refine rdByte_foldl_other _ _ fun w hw hp => ?_
  rcases mem_storeBytes (fun x hx => (mem_spStores (mem_spOrder.mp hx)).2.2) hw with hw | ⟨x, hx, i, hi, haddr, -⟩
  · cases hw
  · obtain ⟨hask, -, -⟩ := mem_spStores (mem_spOrder.mp hx)
    have havoid := h _ hask
    unfold Ask.avoids at havoid
    omega

/-- The bytes of a lane that no other lane touches read back as stored. -/
theorem spAfter_same {x : Ask} (hx : x ∈ s.spAsks r m imm a) (hnib : x.nib = none)
    (halone : ∀ y ∈ s.spAsks r m imm a, y.lane ≠ x.lane → ∀ i, i < x.n → y.avoids (x.addr + i)) {i : Nat} (hi : i < x.n) :
    rdByte (s.spAfter r (s.spStores r m imm a data)) (x.addr + i) = (leBytes x.n (s.operand r data x.lane)).getD i 0 := by
  have hn : ∀ y ∈ s.spOrder r (s.spStores r m imm a data), y.1.nib.isSome = true → y.1.n = 1 :=
    fun y hy => (mem_spStores (mem_spOrder.mp hy)).2.2
  refine rdByte_foldl_same _ _ (storeBytes_covers hn (mem_spOrder.mpr (spStores_of_ask data hx)) hi) fun w hw hp => ?_
  rcases mem_storeBytes hn hw with hw | ⟨y, hy, j, hj, haddr, hbyte⟩
  · cases hw
  · obtain ⟨hask, hdata, -⟩ := mem_spStores (mem_spOrder.mp hy)
    by_cases hlane : y.1.lane = x.lane
    · obtain rfl := spAsks_unique hask hx hlane
      obtain rfl : j = i := by omega
      rw [hbyte hnib, hdata]
    · have havoid := halone _ hask hlane i hi
      unfold Ask.avoids at havoid
      omega

end

/-- STS on lanes that lie in the scratchpad. -/
theorem sts_writes {s : State} {r : Nat} {m : Bool} {d : BitVec 6} {a imm : BitVec 7} (h : s.inHand r) (hhaul : s.haulOk r) :
    let w := (s.stream r).accWidth m
    let addr : Want := { f := a.toNat }
    let data : Want := { f := d.toNat, wide := w == 64, allow := .data }
    s.readable r [addr, data] none → s.checkScratch r false (s.spAsks r m imm a) = .ok () →
    ∃ t cnt, exec (.sts d a imm m) s = .next t ∧ Popped s t r [addr, data] ∧ WentOn s t r ∧ t.mem = s.mem ∧ t.hostMem = s.hostMem ∧
      t.gangs = (s.updGang (gangOf r) fun g =>
        (g.spWrite ((s.spOrder r (s.spStores r m imm a data)).foldl storeBytes ((s.gangAt r).scratch, [])).2).spCount cnt).gangs := by
  intro w addr data hr hcheck
  obtain ⟨cnt, hstore⟩ := storeScratch_ok (s := s) (r := r) (asks := s.spStores r m imm a data) (by
    rw [map_fst_spStores]
    exact hcheck)
  obtain ⟨hpopped, hon, honly⟩ := commit_completes (s.updGang (gangOf r) fun g =>
      (g.spWrite ((s.spOrder r (s.spStores r m imm a data)).foldl storeBytes ((s.gangAt r).scratch, [])).2).spCount cnt)
    r [addr, data] .memory (s.peeked r [addr, data]).regs (spLines ((s.spStores r m imm a data).map Prod.fst))
  have hrest := honly.rest
  refine ⟨_, cnt, run_next h ?_, hpopped, hon, (congrArg State.mem hrest :), (congrArg State.hostMem hrest :), (congrArg State.gangs hrest :)⟩
  have hpeek : s.peek r ((s.stream r).active m) [{ f := a.toNat }, { f := d.toNat, wide := w == 64, allow := .data }] none =
      .ok (s.peeked r [addr, data]) := peek_peeked _ h hr
  have hstore' : (s.peeked r [addr, data]).st.storeScratch r ((lanesOf ((s.stream r).active m)).map fun i =>
      (spAsk w (signed 7 imm.toNat) i ((s.peeked r [addr, data]).val 0 i), (s.peeked r [addr, data]).val 1 i,
        (s.peeked r [addr, data]).lab 1 i)) = _ := hstore
  simp only [needHaul_ok hhaul, bind, Except.bind]
  rw [hpeek]
  dsimp only
  rw [hstore']
  rfl

/-- Settles O36: LDS writes what the scratchpad holds, STS the lanes' bytes in their order. -/
theorem scratchpadLoadsAndStores : Obligations.ScratchpadLoadsAndStores := by
  intro s r nw d a imm m h hhaul u w act addr data asks dst g
  refine ⟨fun hr hcheck hnow => ?lds, fun hr hcheck => ?sts⟩
  case lds =>
    obtain ⟨t, ht, hwrote, hgen, hon, honly⟩ := lds_now h hhaul hr hcheck hnow
    have hgang := spCount_gang s r (asks.map fun a => (a.addr, a.n))
    have hgangs : t.gangs = (s.updGang (gangOf r) fun g => g.spCount (asks.map fun a => (a.addr, a.n))).gangs :=
      (congrArg State.gangs honly.rest :)
    refine ⟨t, ht, ?_, hgen, hon, (congrArg State.mem honly.rest :), (congrArg State.hostMem honly.rest :), fun k => ?_⟩
    · rw [lane_of_asks] at hwrote
      exact hwrote.of_base rfl rfl
    · rw [gang_of_gangs hgangs]
      exact hgang k
  case sts =>
    obtain ⟨t, cnt, ht, hpopped, hon, hmem, hhost, hgangs⟩ := sts_writes h hhaul hr hcheck
    have hgangAt := gang_of_gangs hgangs (gangOf r)
    rw [gang_updGang] at hgangAt
    have hown : (t.gang (gangOf r)).scratch = s.spAfter r (s.spStores r m imm a data) := congrArg Gang.scratch hgangAt
    refine ⟨t, ht, hpopped, hon, hmem, hhost, fun k hk => ?_, fun p hp => ?_, fun x hx hnib halone i hi => ?_⟩
    · rw [gang_of_gangs hgangs, State.updGang_eq, State.gang_setGang_other _ _ hk]
    · rw [State.gangAt, hown]
      exact spAfter_other hp
    · rw [State.gangAt, hown]
      exact spAfter_same hx hnib halone hi

end Sys2Proof.Machine
end

section
/-! ATOM and RED (08 R212). -/

namespace Sys2Proof.Machine

section

variable {s : State} {r : Nat} {sp nw m : Bool} {d : BitVec 6} {a imm : BitVec 7} {x : Access} {l : Loaded}
  (h : s.inHand r) (hhaul : s.haulOk r)
include h hhaul

/-- ATOM whose operands can be read: k tells which source is the data. -/
theorem atom_completes {op : BitVec 4} {ws : List Want} {k : Nat}
    (hfield : s.atomField r imm.toNat [0, 1, 2, 3] = .ok (sp, x))
    (htype : atomType op.toNat (modeTYPE ((s.stream r).mode m)) = true) (hd : d.toNat < 56)
    (hstep : d.toNat % ((if typeWidth (modeTYPE ((s.stream r).mode m)) = 64 then 2 else 1) * (if op.toNat = 7 then 2 else 1)) = 0)
    (hk : k = if op.toNat = 7 then 2 else 1) :
    let ty := modeTYPE ((s.stream r).mode m)
    let wide := typeWidth ty == 64
    let dst : Dst := { n := d.toNat, wide, nw }
    ws = { f := a.toNat, wide := !sp } :: { f := d.toNat, wide } ::
      (if op.toNat = 7 then [{ f := d.toNat + (if wide then 2 else 1), wide }] else []) →
    s.readable r ws (some dst) →
    (s.peeked r ws).st.atomics r op.toNat ty sp x ((lanesOf ((s.stream r).active m)).map fun i =>
      ⟨atomAsk sp (typeWidth ty) i ((s.peeked r ws).val 0 i), (s.peeked r ws).val k i, (s.peeked r ws).val 1 i,
        Label.join ((s.peeked r ws).lab 1 i) ((s.peeked r ws).lab k i)⟩) = .ok l →
    ∃ t, exec (.atom op nw d a imm m) s = .next t ∧ WroteOn l.st t r ws dst ((s.stream r).active m) (l.lane ty (typeWidth ty)) := by
  intro ty wide dst hws hr hatomics
  have ⟨_, _, _, _, _, h60, _, _⟩ := hr
  obtain ⟨u, hu, hwrote⟩ := writeDst_commits l.st r ws dst ((s.stream r).active m) (l.lane ty (typeWidth ty)) (h60 _ rfl) .memory
    (s.peeked r ws).regs l.lines
  refine ⟨_, run_next h ?_, hwrote { s.peeked r ws with st := u } rfl rfl rfl⟩
  have hstep' : (d.toNat % ((if wide = true then 2 else 1) * (if (op.toNat == 7) = true then 2 else 1)) == 0) = true := by
    simpa [wide, ty] using hstep
  have hlist : (atomAddr sp a :: { f := d.toNat, wide } :: (if (op.toNat == 7) = true then
      [{ f := d.toNat + (if wide = true then 2 else 1) * (if (op.toNat == 7) = true then 2 else 1) / 2, wide }] else []) : List Want) = ws := by
    rw [hws]
    by_cases hcas : op.toNat = 7
    · cases wide <;> simp [hcas, atomAddr]
    · simp [hcas, atomAddr]
  have hk' : (if (op.toNat == 7) = true then 2 else 1) = k := by simpa using hk.symm
  have hpeek := peek_peeked ((s.stream r).active m) h hr
  simp only [wide, ty, hk'] at hlist hstep'
  simp only [needHaul_ok hhaul, hfield, typeIn_ok htype, needReg_ok hd, hk', hstep', need_true, hlist, bind, Except.bind]
  rw [hpeek]
  dsimp only
  rw [hatomics]
  dsimp only
  rw [hu]
  rfl

/-- RED whose operands can be read. -/
theorem red_completes {op : BitVec 3} (hfield : s.atomField r imm.toNat [0, 2] = .ok (sp, x))
    (htype : atomType (if op.toNat = 6 then 8 else op.toNat) (modeTYPE ((s.stream r).mode m)) = true) :
    let ty := modeTYPE ((s.stream r).mode m)
    let ws : List Want := [{ f := a.toNat, wide := !sp }, { f := d.toNat, wide := typeWidth ty == 64, allow := .data }]
    s.readable r ws none →
    (s.peeked r ws).st.atomics r (if op.toNat = 6 then 8 else op.toNat) ty sp x ((lanesOf ((s.stream r).active m)).map fun i =>
      ⟨atomAsk sp (typeWidth ty) i ((s.peeked r ws).val 0 i), (s.peeked r ws).val 1 i, 0, (s.peeked r ws).lab 1 i⟩) = .ok l →
    ∃ t, exec (.red op d a imm m) s = .next t ∧ Popped l.st t r ws ∧ WentOn l.st t r ∧ OnlyStream l.st t r Stream.core := by
  intro ty ws hr hatomics
  refine ⟨_, run_next h ?_, commit_completes l.st r ws .memory (s.peeked r ws).regs l.lines⟩
  have hpeek := peek_peeked ((s.stream r).active m) h hr
  simp only [needHaul_ok hhaul, hfield, typeIn_ok htype, bind, Except.bind]
  rw [show s.peek r ((s.stream r).active m) [atomAddr sp a, { f := d.toNat, wide := typeWidth ty == 64, allow := .data }] none = _ from hpeek]
  dsimp only
  rw [hatomics]
  rfl

end

/-- Settles O37: the access, and then the write of the old values. -/
theorem atomicsComplete : Obligations.AtomicsComplete := by
  intro s r sp x i f l h hhaul _ u ty w act addr lanes hform htype hr hatomics
  refine ⟨?atom, ?red⟩
  case atom =>
    rintro ⟨op, nw, d, a, imm, m, rfl, hfield, hd, hstep⟩
    obtain rfl := Option.some.inj hform
    obtain ⟨t, ht, hwrote, hgen, hon, honly⟩ := atom_completes (s := s) (r := r) (sp := sp) (nw := nw) (m := m) (d := d) (a := a) (x := x)
      (l := l) (op := op) h hhaul hfield htype hd hstep rfl rfl (by simpa using hr) (by
        refine Eq.trans ?_ hatomics
        by_cases hcas : op.toNat = 7
        · simp only [lanes, addr, act, hcas, if_true, beq_self_eq_true]
          rfl
        · simp only [lanes, addr, act, hcas, if_false, beq_eq_false_iff_ne.mpr hcas, Bool.false_eq_true]
          rfl)
    refine ⟨t, ht, hon, ?_, hgen, honly⟩
    rintro d ⟨⟩
    simpa using hwrote
  case red =>
    rintro ⟨op, d, a, imm, m, rfl, hfield⟩
    obtain rfl := Option.some.inj hform
    exact red_completes h hhaul hfield htype hr hatomics

end Sys2Proof.Machine
end

section
/-! One element of scratchpad written whole (03 R93). -/

namespace Sys2Proof.Machine

@[simp] theorem laneOrder_singleton (s : State) (r i : Nat) : s.laneOrder r [i] = [i] := by
  unfold State.laneOrder
  split <;> rfl

theorem inOrder_singleton {α : Type} (lane : α → Nat) (x : α) : inOrder lane [lane x] [x] = [x] := by
  simp [inOrder]

/-- The bytes of a write to scratchpad, each with one label. -/
def elemWrites (addr : Nat) (bs : List Byte) (l : Label) : List (Nat × Byte × Label) :=
  (List.range bs.length).map fun i => (addr + i, bs.getD i 0, l)

theorem elemWrites_same (g : Gang) (addr : Nat) (bs : List Byte) (l : Label) {i : Nat} (h : i < bs.length) :
    rdByte (g.spWrite (elemWrites addr bs l)).scratch (addr + i) = bs.getD i 0 := by
  refine rdByte_foldl_same _ _ ⟨(addr + i, bs.getD i 0, l), List.mem_map.mpr ⟨i, List.mem_range.mpr h, rfl⟩, rfl⟩ fun w hw hp => ?_
  obtain ⟨j, -, rfl⟩ := List.mem_map.mp hw
  obtain rfl : j = i := Nat.add_left_cancel hp
  rfl

theorem elemWrites_other (g : Gang) (addr : Nat) (bs : List Byte) (l : Label) {p : Nat} (h : p < addr ∨ addr + bs.length ≤ p) :
    rdByte (g.spWrite (elemWrites addr bs l)).scratch p = rdByte g.scratch p := by
  refine rdByte_foldl_other _ _ fun w hw hp => ?_
  obtain ⟨j, hj, rfl⟩ := List.mem_map.mp hw
  have hlt := List.mem_range.mp hj
  omega

theorem leNat_leBytes (n x : Nat) (h : x < 2 ^ (8 * n)) : leNat (leBytes n x) = x := by
  induction n generalizing x with
  | zero => simp at h; simp [leBytes, leNat, h]
  | succ n ih =>
    have hdiv : x / 256 < 2 ^ (8 * n) := by
      rw [Nat.div_lt_iff_lt_mul (by decide), show (256 : Nat) = 2 ^ 8 from rfl, ← Nat.pow_add]
      simpa [Nat.mul_add] using h
    simp only [leBytes, leNat, ih _ hdiv, b8, BitVec.toNat_ofNat]
    omega

/-- An element written whole reads back. -/
theorem spBytes_elemWrites (g : Gang) (addr : Nat) (bs : List Byte) (l : Label) :
    (g.spWrite (elemWrites addr bs l)).spBytes addr bs.length = bs := by
  refine List.ext_getElem (by simp [Gang.spBytes, rdBytes]) fun i h₁ h₂ => ?_
  simp only [Gang.spBytes, rdBytes, List.getElem_map, List.getElem_range]
  rw [elemWrites_same g addr bs l h₂, List.getD_eq_getElem _ _ h₂]

/-- Lanes whose one address is aligned. -/
theorem checkAligned_ok {x : Ask} (h : x.addr % x.n = 0) : checkAligned [x] = .ok () := by
  simp [checkAligned, h]

/-- An atomic of one lane on scratchpad. -/
theorem atomicScratch_one {s : State} {r op ty scope : Nat} {y : AtomLane} (halign : y.ask.addr % y.ask.n = 0)
    (hcheck : s.checkScratch r true [y.ask] = .ok ()) :
    let g := s.gangAt r
    let old := leNat (g.spBytes y.ask.addr y.ask.n)
    let l := g.rangeLabel y.ask.addr y.ask.n
    s.atomics r op ty true ⟨0, 0, scope⟩ [y] = .ok ⟨[(y.ask.lane, old, l)], spLines [y.ask],
      s.setGang (gangOf r) ((g.spWrite (elemWrites y.ask.addr (leBytes y.ask.n (atomNew op ty old y.data y.compare))
        (Label.join l y.lab))).spCount [(y.ask.addr, y.ask.n)])⟩ := by
  intro g old l
  have horder : inOrder (fun y : AtomLane => y.ask.lane) (s.laneOrder r [y.ask.lane]) [y] = [y] := by
    rw [laneOrder_singleton]
    exact inOrder_singleton (fun y : AtomLane => y.ask.lane) y
  simp only [State.atomics, if_true, State.atomicScratch, List.map_cons, List.map_nil, checkAligned_ok halign, hcheck, bind, Except.bind]
  rw [horder]
  rfl

/-- A gang put back holds what was put, and nothing else of the state changes. -/
theorem gangAt_setGang (s : State) (r : Nat) (g : Gang) : (s.setGang (gangOf r) g).gangAt r = g := State.gang_setGang ..

end Sys2Proof.Machine
end

section
/-! CLAIM (08 R213). -/

namespace Sys2Proof.Machine

/-- A source that is no port is read alike whatever lanes it names for a port. -/
theorem readable_lanes {s : State} {r : Nat} {w : Want} {dst : Option Dst} (lanes : Option Word) (h : s.readable r [w] dst) :
    s.readable r [{ w with lanes }] dst := by
  obtain ⟨hsrc, hrest⟩ := h
  refine ⟨fun v hv => ?_, hrest⟩
  obtain rfl := List.mem_singleton.mp hv
  exact (hsrc w (List.mem_singleton.mpr rfl) :)

section

variable {s : State} {r : Nat} {nw m : Bool} {d : BitVec 6} {a imm : BitVec 7} {x : Access} {sp : Bool} (h : s.inHand r) (hhaul : s.haulOk r)
  (hfield : s.atomField r imm.toNat [0, 1, 2, 3] = .ok (sp, x)) (hr : s.readable r [{ f := a.toNat, wide := !sp }] (some { n := d.toNat, nw }))
include h hhaul hfield hr

/-- CLAIM with no enabled lane. -/
theorem claim_none (hact : (s.stream r).active m = 0) :
    ∃ t, exec (.claim nw d a imm m) s = .next t ∧ Wrote s t r [{ f := a.toNat, wide := !sp }] { n := d.toNat, nw } 0 (fun _ => (0, 0)) ∧
      WentOn s t r ∧ OnlyStream s t r Stream.lessVec := by
  have ⟨_, _, _, _, _, h60, _, _⟩ := hr
  obtain ⟨t, ht, hwrote, hpc, hloops, -, honly⟩ :=
    write_peeked s r [{ f := a.toNat, wide := !sp }] { n := d.toNat, nw } 0 (fun _ => (0, 0)) (h60 _ rfl)
  obtain ⟨hcore, hcrew, hpc', hloops'⟩ := complete_keeps t r .memory (s.peeked r [{ f := a.toNat, wide := !sp }]).regs 0
  obtain ⟨hnext, hnextLoops⟩ := Stream.next_pc hpc hloops
  refine ⟨_, run_next h ?_, hwrote.of_core hcore hcrew, ⟨hpc'.trans hnext, hloops'.trans hnextLoops⟩,
    honly.trans ((OnlyStream.complete t r .memory _ 0).mono lessVec_of_core)⟩
  have hpeek : s.peek r 0 [{ atomAddr sp a with lanes := some (maskOf ((s.byVid r 0).take 1)) }] (some { n := d.toNat, nw }) =
      .ok (s.peeked r [{ f := a.toNat, wide := !sp }]) := peek_peeked 0 h (readable_lanes _ hr)
  have hnone : s.byVid r 0 = [] := rfl
  simp only [needHaul_ok hhaul, hfield, hact, bind, Except.bind]
  rw [hpeek]
  dsimp only
  rw [hnone]
  dsimp only
  rw [ht]
  rfl

end

/-- CLAIM on a record of the scratchpad. -/
theorem claimScratch_ok {s : State} {r count : Nat} {x : Access} {ask : Ask} (hx : x.order = 0) (hn : ask.n = 8) (halign : ask.addr % 8 = 0)
    (hcheck : s.checkScratch r true [ask] = .ok ()) :
    let g := s.gangAt r
    let c := claimOf (leNat (g.spBytes ask.addr 8)) count
    let l := g.rangeLabel ask.addr 8
    s.claimScratch r count x ask = .ok (c.1, c.2, l, 1, s.setGang (gangOf r)
      ((g.spWrite (elemWrites ask.addr (leBytes 8 (claimNew (leNat (g.spBytes ask.addr 8)) c.2)) l)).spCount [(ask.addr, 8)])) := by
  intro g c l
  have hrelease : x.releases = false := by simp [Access.releases, hx]
  have hacquire (u : State) : u.acquireIf r x = u := if_neg (by simp [Access.acquires, hx])
  simp only [State.claimScratch, checkAligned_ok (hn ▸ halign : ask.addr % ask.n = 0), hcheck, hrelease, hacquire, bind, Except.bind]
  rfl

theorem claimNew_lt (record granted : Nat) : claimNew record granted < 2 ^ 64 := by
  have h : bits record 63 32 < 2 ^ 32 := Nat.mod_lt _ (by decide)
  unfold claimNew
  omega

section

variable {s : State} {r : Nat} {nw m : Bool} {d : BitVec 6} {a imm : BitVec 7} {x : Access} (h : s.inHand r) (hhaul : s.haulOk r)
  (hfield : s.atomField r imm.toNat [0, 1, 2, 3] = .ok (true, x)) (hr : s.readable r [{ f := a.toNat }] (some { n := d.toNat, nw }))
include h hhaul hfield hr

/-- CLAIM of enabled lanes on a record of the scratchpad. -/
theorem claim_grants {low : Nat} {rest : List Nat} (horder : s.byVid r ((s.stream r).active m) = low :: rest) (hx : x.order = 0) :
    let ask := spAsk 64 0 low (s.operand r { f := a.toNat } low)
    let g := s.gangAt r
    let record := leNat (g.spBytes ask.addr 8)
    let c := claimOf record (rest.length + 1)
    ask.addr % 8 = 0 → s.checkScratch r true [ask] = .ok () →
    ∃ t, exec (.claim nw d a imm m) s = .next t ∧
      WroteOn (s.setGang (gangOf r) ((g.spWrite (elemWrites ask.addr (leBytes 8 (claimNew record c.2)) (g.rangeLabel ask.addr 8))).spCount
        [(ask.addr, 8)])) t r [{ f := a.toNat }] { n := d.toNat, nw } ((s.stream r).active m) (fun i =>
          (if rankOf (low :: rest) i < c.2 then (c.1 + rankOf (low :: rest) i) % 2 ^ 32 else 0xFFFFFFFF, g.rangeLabel ask.addr 8)) := by
  intro ask g record c halign hcheck
  have ⟨_, _, _, _, _, h60, _, _⟩ := hr
  obtain ⟨u, hu, hwrote⟩ := writeDst_commits (s.setGang (gangOf r)
      ((g.spWrite (elemWrites ask.addr (leBytes 8 (claimNew record c.2)) (g.rangeLabel ask.addr 8))).spCount [(ask.addr, 8)]))
    r [{ f := a.toNat }] { n := d.toNat, nw } ((s.stream r).active m) (fun i =>
      (if rankOf (low :: rest) i < c.2 then (c.1 + rankOf (low :: rest) i) % 2 ^ 32 else 0xFFFFFFFF, g.rangeLabel ask.addr 8))
    (h60 _ rfl) .memory (s.peeked r [{ f := a.toNat }]).regs 1
  refine ⟨_, run_next h ?_, hwrote { s.peeked r [{ f := a.toNat }] with st := u } rfl rfl rfl⟩
  have hpeek (lanes : Option Word) : s.peek r ((s.stream r).active m) [{ f := a.toNat, lanes }] (some { n := d.toNat, nw }) =
      .ok (s.peeked r [{ f := a.toNat }]) := peek_peeked _ h (readable_lanes lanes hr)
  have hclaim : (s.peeked r [{ f := a.toNat }]).st.claimScratch r (rest.length + 1) x
      (atomAsk true 64 low ((s.peeked r [{ f := a.toNat }]).val 0 low)) = .ok (c.1, c.2, g.rangeLabel ask.addr 8, 1,
        s.setGang (gangOf r) ((g.spWrite (elemWrites ask.addr (leBytes 8 (claimNew record c.2)) (g.rangeLabel ask.addr 8))).spCount
          [(ask.addr, 8)])) := claimScratch_ok hx rfl halign hcheck
  simp only [needHaul_ok hhaul, hfield, bind, Except.bind]
  rw [show s.peek r _ [{ atomAddr true a with lanes := some _ }] _ = _ from hpeek _]
  dsimp only
  rw [horder]
  dsimp only
  rw [if_pos trivial, hclaim]
  dsimp only
  rw [hu]
  rfl

end

/-- An atomic of one lane on scratchpad changes its element alone. -/
theorem atomicScratch_updates {s : State} {r op ty scope : Nat} {y : AtomLane} (halign : y.ask.addr % y.ask.n = 0)
    (hcheck : s.checkScratch r true [y.ask] = .ok ()) :
    let g := s.gangAt r
    let old := leNat (g.spBytes y.ask.addr y.ask.n)
    ∃ l, s.atomics r op ty true ⟨0, 0, scope⟩ [y] = .ok l ∧ l.vals = [(y.ask.lane, old, g.rangeLabel y.ask.addr y.ask.n)] ∧
      (∀ i, i < y.ask.n → rdByte (l.st.gangAt r).scratch (y.ask.addr + i) =
        (leBytes y.ask.n (atomNew op ty old y.data y.compare)).getD i 0) ∧
      (∀ p, y.ask.avoids p → rdByte (l.st.gangAt r).scratch p = rdByte g.scratch p) ∧
      l.st.mem = s.mem ∧ l.st.hostMem = s.hostMem ∧ l.st.streams = s.streams ∧ l.st.crews = s.crews := by
  intro g old
  refine ⟨_, atomicScratch_one halign hcheck, rfl, fun i hi => ?_, fun p hp => ?_, rfl, rfl, rfl, rfl⟩
  · rw [gangAt_setGang]
    refine elemWrites_same _ _ _ _ ?_
    rwa [length_leBytes]
  · rw [gangAt_setGang]
    refine elemWrites_other _ _ _ _ ?_
    rwa [length_leBytes]

/-- The record after a CLAIM, and the bytes beside it. -/
theorem record_written (g : Gang) (addr x : Nat) (l : Label) (cnt : List (Nat × Nat)) (hx : x < 2 ^ 64) :
    leNat (((g.spWrite (elemWrites addr (leBytes 8 x) l)).spCount cnt).spBytes addr 8) = x ∧
      ∀ p, p < addr ∨ addr + 8 ≤ p →
        rdByte ((g.spWrite (elemWrites addr (leBytes 8 x) l)).spCount cnt).scratch p = rdByte g.scratch p := by
  have hlen := length_leBytes 8 x
  refine ⟨?_, fun p hp => elemWrites_other g addr (leBytes 8 x) l (hlen.symm ▸ hp)⟩
  have hread := spBytes_elemWrites g addr (leBytes 8 x) l
  rw [hlen] at hread
  exact (congrArg leNat hread).trans (leNat_leBytes 8 x hx)

/-- Settles O38: an element of scratchpad written whole, and the record of a CLAIM as such an element. -/
theorem scratchpadAtomicsUpdateTheirElement : Obligations.ScratchpadAtomicsUpdateTheirElement := by
  refine ⟨fun s r op ty scope y halign hcheck => atomicScratch_updates halign hcheck, ?_⟩
  intro s r nw d a imm m x sp h hhaul hfield act addr dst hr
  refine ⟨fun hact => ?none, ?claim⟩
  case none =>
    rw [hact]
    exact claim_none h hhaul hfield hr hact
  case claim =>
    intro low rest horder hsp hx ask g record next limit granted halign hcheck
    subst hsp
    obtain ⟨t, ht, hwrote, -, hon, honly⟩ := claim_grants h hhaul hfield hr horder hx halign hcheck
    have hrest := honly.rest
    obtain ⟨hrecord, hother⟩ := record_written g ask.addr (claimNew record granted) (g.rangeLabel ask.addr 8) [(ask.addr, 8)]
      (claimNew_lt record granted)
    have hgangs : t.gangs = (s.setGang (gangOf r) ((g.spWrite (elemWrites ask.addr (leBytes 8 (claimNew record granted))
      (g.rangeLabel ask.addr 8))).spCount [(ask.addr, 8)])).gangs := (congrArg State.gangs hrest :)
    rw [← gangAt_setGang s r ((g.spWrite _).spCount _)] at hrecord hother
    rw [← show t.gangAt r = State.gangAt _ r from gang_of_gangs hgangs (gangOf r)] at hrecord hother
    exact ⟨t, ht, hwrote.of_base rfl rfl, hrecord, hother, hon, (congrArg State.mem hrest :)⟩

end Sys2Proof.Machine
end

section
/-! SPBIND and SPPOS (08 R232, R233). -/

namespace Sys2Proof.Machine

/-- A stream without its pattern registers. -/
def Stream.lessPorts (t : Stream) : Stream := { t.core with ports := [] }

/-- What a change of one pattern register of a stream, its own or a fellow's, leaves once the instruction completes. -/
theorem setPort_complete (b : State) {r : Nat} (who n : Nat) (f : Stream → Pattern) (c : Cls) (reads lines : Nat) :
    let t := (b.updStream who fun u => u.setPort n (f u)).complete r c reads lines
    (∀ j, j ≠ who → j ≠ r → t.stream j = b.stream j) ∧ WentOn b t r ∧ t.crews = b.crews ∧
      (∀ j, (t.stream j).lessPorts = (b.stream j).lessPorts) ∧ t.mem = b.mem ∧ t.gangs = b.gangs ∧
      ∀ k, (t.stream who).port k = if k = n then f (b.stream who) else (b.stream who).port k := by
  intro t
  have hset (j : Nat) : (b.updStream who fun u => u.setPort n (f u)).stream j =
      if j = who then (b.stream who).setPort n (f (b.stream who)) else b.stream j := by
    by_cases hj : j = who
    · rw [if_pos hj, hj]; exact State.stream_setStream ..
    · rw [if_neg hj]; exact State.stream_setStream_other _ _ hj
  generalize hu : (b.updStream who fun u => u.setPort n (f u)) = u at hset
  have ht : t = u.complete r c reads lines := by rw [← hu]
  obtain ⟨hcore, -, hpc, hloops⟩ := complete_keeps u r c reads lines
  have honly := OnlyStream.complete u r c reads lines
  have hcores (j : Nat) : (t.stream j).core = (u.stream j).core := by
    rw [ht]
    by_cases hj : j = r
    · rw [hj]; exact hcore
    · rw [honly.streams j hj]
  have hnext : (u.stream r).next.pc = (b.stream r).next.pc ∧ (u.stream r).next.loops = (b.stream r).next.loops := by
    refine Stream.next_pc ?_ ?_ <;> rw [hset] <;> split_ifs with hj <;> simp only [hj, Stream.setPort]
  rw [← ht] at hpc hloops
  refine ⟨fun j hj hr => ?_, ⟨hpc.trans hnext.1, hloops.trans hnext.2⟩, ?_, fun j => ?_, ?_, ?_, fun k => ?_⟩
  · rw [ht, honly.streams j hr, hset, if_neg hj]
  · rw [ht, ← hu]; rfl
  · refine (congrArg (fun v : Stream => { v with ports := [] }) (hcores j)).trans ?_
    rw [hset]
    split_ifs with hj
    · rw [hj]; rfl
    · rfl
  · rw [ht, ← hu]; rfl
  · rw [ht, ← hu]; rfl
  · have hports : (t.stream who).ports = (u.stream who).ports := (congrArg Stream.ports (hcores who) :)
    rw [Stream.port, hports, hset, if_pos rfl]
    by_cases hk : k = n
    · rw [if_pos hk, hk]; exact Tab.get_put_same ..
    · rw [if_neg hk]; exact Tab.get_put_other _ _ _ hk

theorem portStream_ok {s : State} {r : Nat} {wrk : Bool} (h : wrk = true → (s.gangAt r).single = false) :
    s.portStream r wrk = .ok (if wrk then haulOf r + 1 else r) := by
  cases wrk
  · rfl
  · simp only [State.portStream, h rfl]
    rfl

/-- Settles O40: on a stream core the writes of a pattern register and of a uniform register, elsewhere the checks. -/
theorem streamPortInstructions : Obligations.StreamPortInstructions := by
  intro s r port a hi wrk d l h hhaul u who
  have ⟨hcur, hlive, _⟩ := h
  refine ⟨?mset, fun hcore hwrk => ⟨?unbind, fun x ha hr hload hpat => ?bind, fun hd => ?pos⟩, fun hcore => ⟨?_, ?_, fun h60 h64 => ?_, fun h60 => ?_⟩⟩
  case mset =>
    refine run_illegal hcur hlive ?_
    simp only [needHaul_ok hhaul, bind, Except.bind]
    rfl
  case unbind =>
    obtain ⟨hothers, hon, hcrews, hports, hmem, hgangs, hport⟩ := setPort_complete s (r := r) who port.toNat
      (fun t => { t.port port.toNat with bound := false }) .memory 0 0
    refine ⟨_, run_next h ?_, ⟨hothers, hon, hcrews, hports, hmem, hgangs⟩, fun n => ?_⟩
    · simp only [needHaul_ok hhaul, hcore, portStream_ok hwrk, Bool.not_false, need_true, bind, Except.bind]
      rfl
    · rw [hport]
      split_ifs with hn
      · rw [hn]
      · rfl
  case bind =>
    obtain ⟨hothers, hon, hcrews, hports, hmem, hgangs, hport⟩ := setPort_complete l.st (r := r) who port.toNat
      (fun _ => x) .memory (s.peeked r [uniPair a]).regs l.lines
    refine ⟨_, run_next h ?_, ⟨hothers, hon, hcrews, hports, hmem, hgangs⟩, hport⟩
    have hz : ¬srcOf a.toNat = .z := by simpa using srcOf_notZ ha
    have hpeek : s.peek r 0 [uniWant a] none = .ok (s.peeked r [uniPair a]) := peek_uni h hr
    have hload' : (s.peeked r [uniPair a]).st.loadLanes r false 0
        ((List.range 4).map fun (i : Nat) => laneAsk 64 (i : Int) 0 ((s.peeked r [uniPair a]).val 0 0)) = .ok l := hload
    simp only [needHaul_ok hhaul, hcore, portStream_ok hwrk, Bool.not_false, need_true, if_neg hz, bind, Except.bind]
    rw [hpeek]
    dsimp only
    rw [hload']
    simp only [onStream, hpat]
    rfl
  case pos =>
    refine toUniform_completes (c := .memory) (reads := 0) h hd ?_
    simp only [needHaul_ok hhaul, hcore, portStream_ok hwrk, need_true, decide_eq_true hd, State.toUniform, bind, Except.bind]
    rfl
  · refine run_illegal hcur hlive ?_
    simp only [needHaul_ok hhaul, hcore, Bool.not_false, need_true, need_false, bind, Except.bind]
  · refine run_illegal hcur hlive ?_
    simp only [needHaul_ok hhaul, hcore, need_false, bind, Except.bind]
  · have hsrc : srcOf a.toNat = .t (a.toNat - 60) := by
      rw [srcOf, if_neg (by omega), if_neg (by omega), if_pos h64]
    simp only [State.srcFault, hsrc, hcore]
    rfl
  · simp only [State.dstFault, hcore, if_neg (show ¬d.toNat < 56 by omega), if_neg (show ¬d.toNat < 60 by omega)]
    rfl

end Sys2Proof.Machine
end

section
/-! Instructions that issue a command: they go on, and with Y their crew leaves its slot (05 R132). -/

namespace Sys2Proof.Machine

theorem OnlyCrew.mono {s t : State} {r : Nat} {e f : Stream → Stream} (h : OnlyCrew s t r e)
    (hf : ∀ u v : Stream, e u = e v → f u = f v) : OnlyCrew s t r f :=
  ⟨hf _ _ h.stream, h.fellow, h.streams, h.crew, h.crews, h.nodes, h.parts, h.rest, h.memory⟩

theorem yieldIf_keeps (s : State) (r : Nat) (y : Bool) :
    (y = true → ∃ n age, ((s.yieldIf r y).crewAt r).place = .ready n age) ∧ OnlyCrew s (s.yieldIf r y) r id := by
  cases y
  · exact ⟨(fun h => nomatch h), OnlyCrew.refl ..⟩
  · exact ⟨fun _ => switchOut_ready s r, OnlyCrew.switchOut s r id⟩

/-- An instruction goes on, and its crew leaves the slot if it yields. -/
theorem complete_yields (s : State) (r : Nat) (y : Bool) (c : Cls) (reads lines : Nat) :
    let t := (s.complete r c reads lines).yieldIf r y
    WentOn s t r ∧ (y = true → ∃ n age, (t.crewAt r).place = .ready n age) ∧ OnlyCrew s t r Stream.core := by
  intro t
  obtain ⟨-, -, hpc, hloops⟩ := complete_keeps s r c reads lines
  obtain ⟨hready, honly⟩ := yieldIf_keeps (s.complete r c reads lines) r y
  refine ⟨⟨(congrArg Stream.pc honly.stream :).trans hpc, (congrArg Stream.loops honly.stream :).trans hloops⟩, hready, ?_⟩
  exact ((OnlyStream.complete s r c reads lines).onlyCrew fun _ => rfl).trans (honly.mono fun _ _ h => congrArg Stream.core h)

/-- What was read is used up first. -/
theorem commit_yields (b : State) (r : Nat) (p : Peek) (y : Bool) (c : Cls) (reads lines : Nat) (hst : p.st = b) (hports : p.ports = []) :
    let t := ((State.commit r p).complete r c reads lines).yieldIf r y
    WentOn b t r ∧ (y = true → ∃ n age, (t.crewAt r).place = .ready n age) ∧ OnlyCrew b t r Stream.core := by
  intro t
  subst hst
  obtain ⟨hstream, -, honly⟩ := commit_pops r p hports
  obtain ⟨⟨hpc, hloops⟩, hready, hless⟩ := complete_yields (State.commit r p) r y c reads lines
  rw [hstream] at hpc hloops
  exact ⟨⟨hpc, hloops⟩, hready, (honly.onlyCrew fun _ => rfl).trans hless⟩

/-- Going on from a state that differs in what the program counter and the loops have no part in. -/
theorem WentOn.of_base {s b t : State} {r : Nat} (h : WentOn b t r) (hpc : (b.stream r).pc = (s.stream r).pc)
    (hloops : (b.stream r).loops = (s.stream r).loops) : WentOn s t r :=
  ⟨h.1.trans (Stream.next_pc hpc hloops).1, h.2.trans (Stream.next_pc hpc hloops).2⟩

end Sys2Proof.Machine
end

section
/-! CPY and TCOPY (08 R216 to R218, R223). -/

namespace Sys2Proof.Machine

/-- Batches that complete change nothing of a stream but DONE and the counts of copies outstanding. -/
theorem advanceDone_keeps (k : Nat) (t : Stream) : ∃ d out, Stream.advanceDone k t = { t with done := d, batchOut := out } := by
  induction k generalizing t with
  | zero => exact ⟨_, _, rfl⟩
  | succ k ih =>
    unfold Stream.advanceDone
    split
    · obtain ⟨d, out, h⟩ := ih { t with done := t.done + 1, batchOut := Tab.del (t.done + 1).toNat t.batchOut }
      exact ⟨d, out, h⟩
    · exact ⟨_, _, rfl⟩

theorem copyDone_keeps (t : Stream) (batch : BitVec 16) : ∃ d out, t.copyDone batch 0 = { t with done := d, batchOut := out } := by
  simp only [Stream.copyDone, ne_eq, not_true_eq_false, false_and, if_false]
  obtain ⟨d, out, h⟩ := advanceDone_keeps 33
    { t with batchOut := Tab.set 0 t.batchOut batch.toNat (Tab.get 0 t.batchOut batch.toNat - 1) }
  exact ⟨d, out, h⟩

/-- A discarded command leaves the queue and the open batch as they are. -/
theorem discardCopy_keeps (s : State) (r : Nat) (c : CopyCmd) :
    ∃ d out, (s.discardCopy r c).stream r = { s.stream r with done := d, batchOut := out } := by
  obtain ⟨d, out, h⟩ := copyDone_keeps (s.stream r) c.batch
  refine ⟨d, out, Eq.trans ?_ h⟩
  unfold State.discardCopy
  dsimp only
  split
  · exact State.stream_setStream ..
  · split
    · exact State.stream_setStream ..
    · exact State.stream_setStream ..

/-- The guard under which a command is issued. -/
def Stream.issueGuard (t : Stream) (gv : Bool) (slot : Nat) : Guard := if gv then t.guard slot else .on

/-- A stream that has entered a copy in its open batch. -/
def Stream.openCopy (t : Stream) : Stream :=
  { t with opn := t.opn + 1, batchOut := Tab.put (t.sealed + 1).toNat (Tab.get 0 t.batchOut (t.sealed + 1).toNat + 1) t.batchOut }

/-- The command that an issue enters. -/
def Stream.copyCmd (t : Stream) (gv : Bool) (slot : Nat) (what : CopyWhat) : CopyCmd :=
  { what, guard := if t.issueGuard gv slot = .unset then some slot else none, batch := t.sealed + 1 }

/-- What the issue of a copy leaves. -/
structure CopyIssued (s b : State) (r : Nat) (gv : Bool) (slot : Nat) (what : CopyWhat) : Prop where
  pc : (b.stream r).pc = (s.stream r).pc
  loops : (b.stream r).loops = (s.stream r).loops
  opn : (b.stream r).opn = (s.stream r).opn + 1
  queued : (s.stream r).issueGuard gv slot ≠ .off →
    b = s.setStream r { (s.stream r).openCopy with copyQ := (s.stream r).copyQ ++ [(s.stream r).copyCmd gv slot what] }
  dropped : (s.stream r).issueGuard gv slot = .off → (b.stream r).copyQ = (s.stream r).copyQ

theorem issueCopy_ok {s : State} {r : Nat} (gv : Bool) (slot : Nat) (what : CopyWhat) (hopn : (s.stream r).opn ≠ 65535)
    (hroom : (s.stream r).copyQ.length < 16) : ∃ b, s.issueCopy r gv slot what = .ok b ∧ CopyIssued s b r gv slot what := by
  have hopen : (if (s.stream r).opn = 65535 then (s.stream r).seal else some (s.stream r)) = some (s.stream r) := if_neg hopn
  unfold State.issueCopy
  dsimp only
  rw [hopen]
  dsimp only
  rw [if_neg (by omega : ¬16 ≤ (s.stream r).copyQ.length)]
  by_cases hoff : (s.stream r).issueGuard gv slot = .off
  · obtain ⟨d, out, hstream⟩ := discardCopy_keeps (s.setStream r (s.stream r).openCopy) r ((s.stream r).copyCmd gv slot what)
    rw [State.stream_setStream] at hstream
    refine ⟨_, if_pos hoff, ?_, ?_, ?_, fun hne => absurd hoff hne, fun _ => ?_⟩
    · exact (congrArg Stream.pc hstream :)
    · exact (congrArg Stream.loops hstream :)
    · exact (congrArg Stream.opn hstream :)
    · exact (congrArg Stream.copyQ hstream :)
  · refine ⟨_, if_neg hoff, ?_, ?_, ?_, fun _ => rfl, fun h => absurd h hoff⟩
    · exact (congrArg Stream.pc (State.stream_setStream s r { (s.stream r).openCopy with copyQ := _ }) :)
    · exact (congrArg Stream.loops (State.stream_setStream s r { (s.stream r).openCopy with copyQ := _ }) :)
    · exact (congrArg Stream.opn (State.stream_setStream s r { (s.stream r).openCopy with copyQ := _ }) :)

/-- A stream without its copies. -/
def Stream.lessCopies (v : Stream) : Stream := { v.core with copyQ := [], opn := 0, batchOut := [], done := 0 }

/-- What an instruction that issued a copy leaves. -/
theorem CopyIssued.issues {s b t : State} {r : Nat} {y gv : Bool} {slot : Nat} {what : CopyWhat} (h : CopyIssued s b r gv slot what)
    (hdone : WentOn b t r ∧ (y = true → ∃ n age, (t.crewAt r).place = .ready n age) ∧ OnlyCrew b t r Stream.core) :
    let u := s.stream r
    let g : Guard := if gv then u.guard slot else .on
    (WentOn s t r ∧ (y = true → ∃ n age, (t.crewAt r).place = .ready n age)) ∧ (t.stream r).opn = u.opn + 1 ∧
      (g ≠ .off → OnlyCrew s t r Stream.lessCopies ∧ (t.stream r).done = u.done ∧
        (t.stream r).copyQ = u.copyQ ++ [{ what, guard := if g = .unset then some slot else none, batch := u.sealed + 1 }] ∧
        Tab.get 0 (t.stream r).batchOut (u.sealed + 1).toNat = Tab.get 0 u.batchOut (u.sealed + 1).toNat + 1) ∧
      (g = .off → (t.stream r).copyQ = u.copyQ) := by
  intro u g
  obtain ⟨hon, hready, honly⟩ := hdone
  have hkeep := honly.stream
  refine ⟨⟨hon.of_base h.pc h.loops, hready⟩, (congrArg Stream.opn hkeep :).trans h.opn, fun hg => ?_,
    fun hg => (congrArg Stream.copyQ hkeep :).trans (h.dropped hg)⟩
  have hb := h.queued hg
  have hstream : b.stream r = { u.openCopy with copyQ := u.copyQ ++ [u.copyCmd gv slot what] } := by
    rw [hb]; exact State.stream_setStream ..
  rw [hstream] at hkeep
  have hentered : OnlyCrew s b r Stream.lessCopies := by
    rw [hb]
    exact OnlyCrew.updStream s r Stream.lessCopies (fun _ => { u.openCopy with copyQ := u.copyQ ++ [u.copyCmd gv slot what] }) rfl
  refine ⟨hentered.trans (honly.mono fun _ _ h => by unfold Stream.lessCopies; rw [h]), (congrArg Stream.done hkeep :),
    (congrArg Stream.copyQ hkeep :), ?_⟩
  rw [show (t.stream r).batchOut = u.openCopy.batchOut from (congrArg Stream.batchOut hkeep :)]
  exact Tab.get_put_same ..

theorem checkDesc_ok {em : Word} {addr : Nat} (hcan : canonical addr = true) (halign : addr % 64 = 0) : checkDesc em addr = .ok () := by
  simp [checkDesc, hcan, halign]

/-- Settles O41: the issue of the command, and then the instruction goes on. -/
theorem copyCommandsIssue : Obligations.CopyCommandsIssue := by
  intro s r y gv slot a b sub h hhaul u act g less leaves issues wsC wsT hopn hroom
  refine ⟨fun hsize hr => ⟨fun hact => ?_, fun hact => ?_⟩, fun hr => ⟨fun hact => ?_, fun hact hcan halign => ?_⟩⟩
  · obtain ⟨hon, hready, honly⟩ := commit_yields s r (s.peeked r wsC) y .memory (s.peeked r wsC).regs 0 rfl rfl
    refine ⟨_, run_next h ?_, ⟨hon, hready⟩, honly⟩
    have hpeek : s.peek r act [{ f := a.toNat, wide := !bitOf sub.toNat 2 }, { f := b.toNat, wide := !bitOf sub.toNat 3 }] none =
      .ok (s.peeked r wsC) := peek_peeked act h hr
    simp only [needHaul_ok hhaul, bne_iff_ne.mpr hsize, need_true, bind, Except.bind]
    rw [hpeek]
    dsimp only
    rw [if_pos hact]
    rfl
  · obtain ⟨v, hv, hissued⟩ := issueCopy_ok gv slot.toNat (.lanes (4 * 2 ^ bits sub.toNat 1 0) (bitOf sub.toNat 2) (bitOf sub.toNat 3)
      ((lanesOf act).map fun k => ⟨k, s.vid r k, w64 (s.operand r (wsC.getD 0 { f := 0 }) k), w64 (s.operand r (wsC.getD 1 { f := 0 }) k)⟩))
      hopn hroom
    refine ⟨_, run_next h ?_, hissued.issues
      (commit_yields v r { s.peeked r wsC with st := v } y .memory (s.peeked r wsC).regs 0 rfl rfl)⟩
    have hpeek : s.peek r act [{ f := a.toNat, wide := !bitOf sub.toNat 2 }, { f := b.toNat, wide := !bitOf sub.toNat 3 }] none =
      .ok (s.peeked r wsC) := peek_peeked act h hr
    have hissue : (s.peeked r wsC).st.issueCopy r gv slot.toNat (.lanes (4 * 2 ^ bits sub.toNat 1 0) (bitOf sub.toNat 2) (bitOf sub.toNat 3)
      ((lanesOf act).map fun i => ⟨i, s.vid r i, w64 ((s.peeked r wsC).val 0 i), w64 ((s.peeked r wsC).val 1 i)⟩)) = .ok v := hv
    simp only [needHaul_ok hhaul, bne_iff_ne.mpr hsize, need_true, bind, Except.bind]
    rw [hpeek]
    dsimp only
    rw [if_neg hact, hissue]
    rfl
  · obtain ⟨hon, hready, honly⟩ := complete_yields s r y .memory (s.peeked r wsT).regs 0
    refine ⟨_, run_next h ?_, ⟨hon, hready⟩, honly⟩
    have hpeek : s.peek r 0 (uniWant a :: (if bitOf sub.toNat 0 then [{ f := b.toNat, allow := .uni }] else [])) none =
      .ok (s.peeked r wsT) := peek_peeked 0 h hr
    simp only [needHaul_ok hhaul, bind, Except.bind]
    rw [hpeek]
    dsimp only
    rw [if_pos hact]
    rfl
  · obtain ⟨v, hv, hissued⟩ := issueCopy_ok gv slot.toNat (.box (w64 (s.operand r (uniPair a) 0))
          (if bitOf sub.toNat 0 then some (bits (s.operand r (uni b) 0) 31 4 * 16, bits sub.toNat 3 1) else none)) hopn hroom
    refine ⟨_, run_next h ?_, hissued.issues (complete_yields v r y .memory (s.peeked r wsT).regs 0)⟩
    have hpeek : s.peek r 0 (uniWant a :: (if bitOf sub.toNat 0 then [{ f := b.toNat, allow := .uni }] else [])) none =
      .ok (s.peeked r wsT) := peek_peeked 0 h hr
    have hdesc : checkDesc (s.stream r).em ((s.peeked r wsT).val 0 0) = .ok () := checkDesc_ok hcan halign
    have hissue : (s.peeked r wsT).st.issueCopy r gv slot.toNat (.box (w64 ((s.peeked r wsT).val 0 0))
        (if bitOf sub.toNat 0 then some (barOffset ((s.peeked r wsT).val 1 0), bits sub.toNat 3 1) else none)) = .ok v := by
      refine Eq.trans ?_ hv
      cases hbar : bitOf sub.toNat 0
      · rfl
      · simp only [wsT, hbar, if_true]
        rfl
    simp only [needHaul_ok hhaul, bind, Except.bind]
    rw [hpeek]
    dsimp only
    rw [if_neg hact, hdesc]
    dsimp only
    rw [hissue]
    rfl

end Sys2Proof.Machine
end

section
/-! Waits at switch points (01 R23). -/

namespace Sys2Proof.Machine

theorem endWait_eq (s : State) (r : Nat) (waited : Bool) : s.endWait r waited = s.yieldIf r !waited := by cases waited <;> rfl

/-- A crew that leaves its slot to wait. -/
theorem waitOut_waits (s : State) (r : Nat) (w : Wait) :
    let t := s.waitOut r w
    { t.stream r with latches := [] } = { s.stream r with latches := [], wait := some w } ∧ (t.crewAt r).place = .waiting := by
  have hvoid := (OnlyCrew.voidCrew (s.updStream r fun t => { t with wait := some w }) r id).stream
  rw [State.updStream_eq, State.stream_setStream] at hvoid
  exact ⟨hvoid, congrArg Crew.place (State.crew_setCrew ..)⟩

theorem srcOf_z {a : BitVec 7} : srcOf a.toNat = .z ↔ a.toNat = 72 := by
  refine ⟨fun h => Decidable.byContradiction fun ha => ?_, fun h => by rw [h]; rfl⟩
  have := srcOf_notZ ha
  rw [h] at this
  cases this

end Sys2Proof.Machine
end

section
/-! CSEAL, CWAIT and CWAITN (08 R224, R225). -/

namespace Sys2Proof.Machine

/-- Sealing the open copies, while there is room for one more batch. -/
theorem seal_ok {t : Stream} (h : (t.sealed - t.done).toNat < 32) :
    ∃ d out, t.seal = some { t with sealed := t.sealed + 1, opn := 0, done := d, batchOut := out } := by
  obtain ⟨d, out, hseal⟩ := advanceDone_keeps 33 { t with sealed := t.sealed + 1, opn := 0 }
  refine ⟨d, out, ?_⟩
  rw [Stream.seal, if_neg (Nat.not_le.mpr h), hseal]

/-- A stream that has taken COPYERR to a uniform register. -/
def Stream.copyErrTaken (t : Stream) (d : Nat) : Stream := { t.setC d ⟨t.copyerr, 0⟩ with copyerr := 0 }

theorem Stream.copyErrTaken_bank (t : Stream) (d : Nat) (hb : t.regBad = []) :
    t.copyErrTaken d = { t with c := Tab.put d ⟨t.copyerr, 0⟩ t.c, copyerr := 0 } := by
  rw [Stream.copyErrTaken, Stream.setC_bank _ _ _ hb]

/-- What an instruction leaves that takes COPYERR and goes on, in its slot or out of it. -/
theorem takeCopyErr_yields {s : State} {r d : Nat} (h : s.inHand r) (y : Bool) (reads : Nat) :
    let t := ((s.takeCopyErr r d).complete r .memory reads 0).yieldIf r y
    let u := s.stream r
    (∀ n, (t.stream r).creg n = if n = d then ⟨u.copyerr, 0⟩ else u.creg n) ∧ (t.stream r).copyerr = 0 ∧ WentOn s t r ∧
      t.gangs = s.gangs ∧ t.hostMem = s.hostMem ∧ (t.stream r).v = u.v := by
  intro t u
  have ⟨_, _, hbank⟩ := h
  have hjoin : CacheStep (s.updStream r (Stream.copyErrTaken · d)) (s.takeCopyErr r d) := (CacheStep.refl _).engineJoin _
  have hstream : (s.takeCopyErr r d).stream r = u.copyErrTaken d := (hjoin.same.stream r).trans (State.stream_setStream ..)
  obtain ⟨hon, -, honly⟩ := complete_yields (s.takeCopyErr r d) r y .memory reads 0
  have hkeep := honly.stream
  have hrest := honly.rest
  rw [hstream] at hkeep
  have hset := u.copyErrTaken_bank d hbank
  refine ⟨fun n => ?_, (congrArg Stream.copyerr hkeep :), hon.of_base ?_ ?_, (congrArg State.gangs hrest :).trans hjoin.gangs,
    (congrArg State.hostMem hrest :).trans (congrArg State.hostMem hjoin.rest :), (congrArg Stream.v hkeep :).trans
      (congrArg Stream.v hset :)⟩
  · exact (congrArg (Stream.creg · n) hkeep :).trans (Stream.creg_setC u d n _)
  · rw [hstream, hset]
  · rw [hstream, hset]

theorem checkHeld_none {s : State} {r : Nat} {covers : BitVec 16 → Bool} (h : (s.stream r).heldFor covers = none) :
    s.checkHeld r covers = .ok () := by
  rw [State.checkHeld, h]

/-- Settles O42: a seal, and waits that end by taking COPYERR. -/
theorem batchesSealAndWait : Obligations.BatchesSealAndWait := by
  intro s r d k src h hhaul hd u unfinished returns
  have ⟨hcur, hlive, hbank⟩ := h
  refine ⟨fun hroom => ?sealed, fun hfull => ?full, fun hr => ⟨fun hover => ?finished, fun hpend hheld => ?waits⟩,
    fun hk => ⟨fun hle => ?few, fun hlt hheld => ?many⟩⟩
  case sealed =>
    obtain ⟨dn, out, hseal⟩ := seal_ok hroom
    obtain ⟨v, hv⟩ : ∃ v : Stream, v = { u with sealed := u.sealed + 1, opn := 0, done := dn, batchOut := out } := ⟨_, rfl⟩
    have hset := v.setC_bank d.toNat ⟨w32 v.sealed.toNat, 0⟩ (by rw [hv]; exact hbank)
    obtain ⟨hcore, hon, hcrews, honly⟩ := upd_complete (s := s) (r := r) (f := fun _ => v.setC d.toNat ⟨w32 v.sealed.toNat, 0⟩)
      (e := fun v => { v.lessUni with sealed := 0, opn := 0, done := 0, batchOut := [] }) .memory 0 0
      (by rw [hset, hv]) (by rw [hset, hv]) (by rw [hset, hv]; rfl) (fun _ _ h => by rw [lessUni_core _ _ h])
    refine ⟨_, run_next h ?_, ?_, ?_, fun n => ?_, hon, hcrews, honly⟩
    · simp only [needHaul_ok hhaul, decide_eq_true hd, need_true, bind, Except.bind]
      rw [hseal, ← hv]
      rfl
    · exact (congrArg Stream.sealed (hcore.trans (congrArg Stream.core hset)) :).trans (congrArg Stream.sealed hv :)
    · exact (congrArg Stream.opn (hcore.trans (congrArg Stream.core hset)) :).trans (congrArg Stream.opn hv :)
    · rw [creg_of_core hcore, Stream.creg_setC, hv]
      rfl
  case full =>
    refine run_stall h ?_
    have hseal : (s.stream r).seal = none := if_pos hfull
    simp only [needHaul_ok hhaul, decide_eq_true hd, need_true, bind, Except.bind]
    rw [hseal]
  case finished =>
    refine ⟨_, run_next h ?_, takeCopyErr_yields h (!u.wait.isSome) (s.peeked r [uni src]).regs⟩
    have hb : (if srcOf src.toNat = .z then (s.stream r).sealed else BitVec.ofNat 16 ((s.peeked r [uni src]).val 0 0)) =
        if src.toNat = 72 then u.sealed else BitVec.ofNat 16 (s.operand r (uni src) 0) := if_congr srcOf_z rfl rfl
    have hpeek : s.peek r 0 [{ f := src.toNat, allow := .uni }] none = .ok (s.peeked r [uni src]) := peek_peeked 0 h hr
    simp only [needHaul_ok hhaul, decide_eq_true hd, need_true, bind, Except.bind]
    rw [hpeek]
    dsimp only
    rw [hb, show (s.stream r).batchPending _ = false from hover, ← endWait_eq]
    rfl
  case waits =>
    obtain ⟨hkeep, hplace⟩ := waitOut_waits s r (.cwait (if src.toNat = 72 then u.sealed else BitVec.ofNat 16 (s.operand r (uni src) 0)))
    refine ⟨_, run_next h ?_, (congrArg Stream.wait hkeep :), (congrArg Stream.pc hkeep :), hplace⟩
    have hb : (if srcOf src.toNat = .z then (s.stream r).sealed else BitVec.ofNat 16 ((s.peeked r [uni src]).val 0 0)) =
        if src.toNat = 72 then u.sealed else BitVec.ofNat 16 (s.operand r (uni src) 0) := if_congr srcOf_z rfl rfl
    have hpeek : s.peek r 0 [{ f := src.toNat, allow := .uni }] none = .ok (s.peeked r [uni src]) := peek_peeked 0 h hr
    simp only [needHaul_ok hhaul, decide_eq_true hd, need_true, bind, Except.bind]
    rw [hpeek]
    dsimp only
    rw [hb, if_pos hpend, checkHeld_none hheld]
    rfl
  case few =>
    refine ⟨_, run_next h ?_, takeCopyErr_yields h false 0⟩
    simp only [needHaul_ok hhaul, decide_eq_true hd, decide_eq_true hk, Bool.and_self, need_true, bind, Except.bind]
    rw [if_pos hle]
    rfl
  case many =>
    refine run_stall h ?_
    simp only [needHaul_ok hhaul, decide_eq_true hd, decide_eq_true hk, Bool.and_self, need_true, bind, Except.bind]
    rw [if_neg (Nat.not_le.mpr hlt), checkHeld_none hheld]

end Sys2Proof.Machine
end

section
/-! SUPPORT. Sources that are no stream ports are read alike whatever lanes they name for a port (05 R125). -/

namespace Sys2Proof.Machine

/-- A source without the lanes it names. -/
def Want.plain (w : Want) : Want := { w with lanes := none }

theorem popsOf_plain (ws : List Want) : popsOf (ws.map Want.plain) = popsOf ws := by
  simp [popsOf, List.filterMap_map, Function.comp_def, Want.plain]

theorem portsOf_plain (ws : List Want) : portsOf (ws.map Want.plain) = portsOf ws := by
  simp [portsOf, List.filterMap_map, Function.comp_def, Want.plain]

theorem peeked_plain (s : State) (r : Nat) (ws : List Want) : s.peeked r (ws.map Want.plain) = s.peeked r ws := by
  simp only [State.peeked, popsOf_plain, List.map_map]
  rfl

theorem readable_plain {s : State} {r : Nat} {ws : List Want} {dst : Option Dst} (h : s.readable r (ws.map Want.plain) dst) :
    s.readable r ws dst := by
  obtain ⟨hsrc, hdst, hvoid, hwaits, hpops, h60, hroom, hports⟩ := h
  refine ⟨fun w hw => hsrc w.plain (List.mem_map_of_mem hw), hdst, ?_, ?_, ?_, h60, hroom, ?_⟩
  · rw [← hvoid]
    simp [Stream.voidRead, List.findSome?_map, Function.comp_def, Want.plain]
  · rw [← hwaits]
    simp [Stream.waits, List.any_map, Function.comp_def, Want.plain]
  · rwa [popsOf_plain] at hpops
  · rwa [portsOf_plain] at hports

/-- The classes of sources and destination are allowed. -/
theorem checkClass_ok {s : State} {r : Nat} {ws : List Want} {dst : Option Dst} (h : s.readable r ws dst) :
    s.checkClass r ws dst = .ok () := by
  obtain ⟨hsrc, hdst, _⟩ := h
  have hnone : ws.findSome? (s.srcFault r) = none := List.findSome?_eq_none_iff.mpr hsrc
  have hbind : dst.bind (s.dstFault r) = none := by
    cases dst with
    | none => rfl
    | some d => exact hdst d rfl
  simp only [State.checkClass, hnone, hbind]

end Sys2Proof.Machine
end

section
/-! Barrier objects: what is written reads back (03 R92). -/

namespace Sys2Proof.Machine

/-- Bytes written together read back together. -/
theorem rdBytes_wrBytes (m : List Host.Cell) (a : Nat) (bs : List Byte) : rdBytes (wrBytes m a bs) a bs.length = bs := by
  refine List.ext_getElem (by simp [rdBytes]) fun i h₁ h₂ => ?_
  simp only [rdBytes, List.getElem_map, List.getElem_range]
  rw [rdByte_wrBytes_same m a bs i h₂, List.getD_eq_getElem _ _ h₂]

theorem rdNat_wrBytes_leBytes (m : List Host.Cell) (a n x : Nat) (h : x < 2 ^ (8 * n)) : rdNat (wrBytes m a (leBytes n x)) a n = x := by
  have hread := rdBytes_wrBytes m a (leBytes n x)
  rw [length_leBytes] at hread
  rw [rdNat, hread, leNat_leBytes n x h]

/-- A barrier whose fields are in range. -/
structure Barrier.Fits (b : Barrier) : Prop where
  pending : b.pending < 2 ^ 32
  phase : b.phase < 16
  remaining : b.remaining < 2 ^ 16
  expected : b.expected < 2 ^ 16
  even : b.odd = false

theorem barrier_putBarrier (g : Gang) (off : Nat) {b : Barrier} (h : b.Fits) : (g.putBarrier off b).barrier off = b := by
  obtain ⟨hpending, hphase, hremaining, hexpected, heven⟩ := h
  obtain ⟨pending, overrun, phase, remaining, expected, odd⟩ := b
  simp only at hpending hphase hremaining hexpected heven
  have hover : overrun.toNat < 2 := by cases overrun <;> decide
  have hx : pending * 2 ^ 64 + overrun.toNat * 2 ^ 36 + phase % 16 * 2 ^ 32 + remaining * 2 ^ 16 + expected < 2 ^ (8 * 16) := by omega
  have hread := rdNat_wrBytes_leBytes g.scratch off 16 _ hx
  have hbit : ((pending * 2 ^ 64 + overrun.toNat * 2 ^ 36 + phase % 16 * 2 ^ 32 + remaining * 2 ^ 16 + expected) / 2 ^ 36 % 2 == 1) = overrun := by
    cases overrun <;> simp only [Bool.toNat_true, Bool.toNat_false, beq_iff_eq, beq_eq_false_iff_ne] <;> omega
  have hhigh : (bits (pending * 2 ^ 64 + overrun.toNat * 2 ^ 36 + phase % 16 * 2 ^ 32 + remaining * 2 ^ 16 + expected) 127 96 != 0) = false := by
    simp only [bits, bne_eq_false_iff_eq]; omega
  have hmid : (bits (pending * 2 ^ 64 + overrun.toNat * 2 ^ 36 + phase % 16 * 2 ^ 32 + remaining * 2 ^ 16 + expected) 63 37 != 0) = false := by
    simp only [bits, bne_eq_false_iff_eq]; omega
  subst heven
  simp only [Gang.barrier, Gang.putBarrier, hread, hhigh, hmid, bitOf, hbit, Bool.or_self, Barrier.mk.injEq, true_and, and_true]
  simp only [bits]
  omega

/-- A barrier as it is read has its fields in range, but for its reserved bits. -/
theorem barrier_fits (g : Gang) (off : Nat) (h : (g.barrier off).good = true) : (g.barrier off).Fits := by
  simp only [Barrier.good, Bool.and_eq_true, Bool.not_eq_true'] at h
  obtain ⟨-, heven⟩ := h
  exact ⟨Nat.mod_lt _ (by decide), Nat.mod_lt _ (by decide), Nat.mod_lt _ (by decide), Nat.mod_lt _ (by decide), heven⟩

theorem Barrier.Fits.settle {b : Barrier} (h : b.Fits) : b.settle.Fits := by
  unfold Barrier.settle
  split
  · exact ⟨h.pending, Nat.mod_lt _ (by decide), h.expected, h.expected, h.even⟩
  · exact h

@[simp] theorem spCount_scratch (g : Gang) (xs : List (Nat × Nat)) : (g.spCount xs).scratch = g.scratch := rfl
@[simp] theorem spCount_barrier (g : Gang) (xs : List (Nat × Nat)) (off : Nat) : (g.spCount xs).barrier off = g.barrier off := rfl

/-- A barrier written leaves the bytes beside it. -/
theorem putBarrier_other (g : Gang) (off : Nat) (b : Barrier) {p : Nat} (h : p < off ∨ off + 16 ≤ p) :
    rdByte (g.putBarrier off b).scratch p = rdByte g.scratch p :=
  rdByte_wrBytes_other g.scratch off p _ (by rwa [length_leBytes])

end Sys2Proof.Machine
end

section
/-! BARINIT and BARARR (08 R226, R227). -/

namespace Sys2Proof.Machine

theorem countWants_plain (d : BitVec 6) (a imm : BitVec 7) (act : Word) :
    (countWants d a imm act).map Want.plain = { f := a.toNat } :: (if imm = 0 then [{ f := d.toNat }] else []) := by
  unfold countWants
  split <;> rfl

theorem checkBar_ok {s : State} {r off : Nat} {format : Bool} (hin : (s.gangAt r).holdsBar off = true) (hstill : s.moving r off 16 = false)
    (hgood : format = true → ((s.gangAt r).barrier off).good = true) : s.checkBar r off format = .ok () := by
  cases format
  · simp [State.checkBar, hin, hstill]
  · simp [State.checkBar, hin, hstill, hgood rfl]

theorem countOf_ok {s : State} {r off : Nat} {p : Peek} {act : Word} {imm : BitVec 7} {n : Nat}
    (hn : n = if imm = 0 then bits (p.low 1 act) 15 0 else imm.toNat) (hne : n ≠ 0) : s.countOf r off p act imm = .ok n := by
  by_cases himm : imm = 0
  · rw [if_pos himm] at hn
    simp [State.countOf, himm, ← hn, hne]
  · rw [if_neg himm] at hn
    rw [hn]
    exact if_pos himm

/-- What a barrier instruction leaves that writes a barrier after using up what it read, and goes on. -/
theorem writeBar_completes {s u : State} {r off : Nat} {ws : List Want} {b : Barrier} (hb : b.Fits) (reads : Nat)
    (hstream : u.stream r = s.stream r) (hpopped : Popped s u r ws) (honly : OnlyStream s u r Stream.core) :
    let t := (u.updGang (gangOf r) fun g => (g.putBarrier off b).spCount [(off, 16)]).complete r .memory reads 1
    (t.gangAt r).barrier off = b ∧ Popped s t r ws ∧ WentOn s t r ∧ t.mem = s.mem ∧ (t.stream r).core = (s.stream r).core ∧
      (∀ j, j ≠ r → t.stream j = s.stream j) ∧
      (∀ p, p < off ∨ off + 16 ≤ p → rdByte (t.gangAt r).scratch p = rdByte (s.gangAt r).scratch p) ∧
      ∀ g, g ≠ gangOf r → t.gang g = s.gang g := by
  intro t
  have hgangs : u.gangs = s.gangs := (congrArg State.gangs honly.rest :)
  have hmem : u.mem = s.mem := (congrArg State.mem honly.rest :)
  obtain ⟨v, hv⟩ : ∃ v, v = u.updGang (gangOf r) fun g => (g.putBarrier off b).spCount [(off, 16)] := ⟨_, rfl⟩
  have ht : t = v.complete r .memory reads 1 := by rw [hv]
  have hvstream (j : Nat) : v.stream j = u.stream j := by rw [hv]; rfl
  obtain ⟨hcore, hcrew, hpc, hloops⟩ := complete_keeps v r .memory reads 1
  have hrest := OnlyStream.complete v r .memory reads 1
  rw [← ht] at hcore hcrew hpc hloops hrest
  rw [hvstream, hstream] at hcore hpc hloops
  have htgangs : t.gangs = v.gangs := (congrArg State.gangs hrest.rest :)
  have htmem : t.mem = v.mem := (congrArg State.mem hrest.rest :)
  have hown : t.gangAt r = ((s.gangAt r).putBarrier off b).spCount [(off, 16)] := by
    rw [State.gangAt, gang_of_gangs htgangs, hv, gang_updGang, gang_of_gangs hgangs]
    rfl
  refine ⟨?_, hpopped.of_crew (hcrew.trans ?_), ⟨hpc, hloops⟩, htmem.trans ?_, hcore, fun j hj => ?_, fun p hp => ?_, fun g hg => ?_⟩
  · rw [hown, spCount_barrier]
    exact barrier_putBarrier (s.gangAt r) off hb
  · rw [hv]; rfl
  · rw [hv]; exact hmem
  · rw [hrest.streams j hj, hvstream]
    exact honly.streams j hj
  · rw [hown, spCount_scratch]
    exact putBarrier_other (s.gangAt r) off b hp
  · rw [gang_of_gangs htgangs, hv, State.updGang_eq, State.gang_setGang_other _ _ hg, gang_of_gangs hgangs]

theorem run_trapAfter {s t : State} {x : Trap} {r : Nat} {f : Nat → Except Stop State} (h : s.inHand r)
    (hf : f r = .error (.trapAfter x t)) : run s f = .next (t.takeTrap r x) := by
  obtain ⟨hc, hr, -⟩ := h
  obtain ⟨u, hu⟩ := Option.isSome_iff_exists.mp hr
  simp only [run, hc, hu, hf]

/-- Settles O43: with no enabled lane the classes alone are looked at; otherwise one barrier is written. -/
theorem barriersCountArrivals : Obligations.BarriersCountArrivals := by
  intro s r d a imm m h hhaul act low cnt ws off n b changes hr
  have hr' : s.readable r (countWants d a imm act) none := by
    refine readable_plain ?_
    rw [countWants_plain]
    exact hr
  have hsame : s.peeked r (countWants d a imm act) = s.peeked r ws := by
    rw [← peeked_plain, countWants_plain]
  have hpeek : s.peek r act (countWants d a imm act) none = .ok (s.peeked r ws) := (peek_peeked act h hr').trans (by rw [hsame])
  have hn : n < 2 ^ 16 := by
    dsimp only [n]
    split
    · exact Nat.mod_lt _ (by decide)
    · exact Nat.lt_of_lt_of_le imm.isLt (by decide)
  have hoff : barOffset ((s.peeked r ws).low 0 act) = off := rfl
  obtain ⟨hstream, hpopped, honly⟩ := commit_peeked s r ws
  refine ⟨fun hact => ?none, fun hact hin hstill hne => ?some⟩
  case none =>
    intro i hi
    have hon : WentOn s (s.complete r .memory 0 0) r := ⟨(complete_keeps s r .memory 0 0).2.2.1, (complete_keeps s r .memory 0 0).2.2.2⟩
    have hclass := checkClass_ok hr'
    rcases List.mem_cons.mp hi with rfl | hi
    · refine ⟨s.complete r .memory 0 0, run_next h ?_, rfl, hon, OnlyStream.complete ..⟩
      simp only [needHaul_ok hhaul, bind, Except.bind]
      rw [if_pos hact, hclass]
      rfl
    · obtain rfl := List.mem_singleton.mp hi
      refine ⟨s.complete r .memory 0 0, run_next h ?_, rfl, hon, OnlyStream.complete ..⟩
      simp only [needHaul_ok hhaul, bind, Except.bind]
      rw [if_pos hact, hclass]
      rfl
  case some =>
    have hcount : s.countOf r off (s.peeked r ws) act imm = .ok n := by
      refine countOf_ok ?_ hne
      dsimp only [n]
      split
      · rename_i himm
        simp only [ws, himm, if_true]
        rfl
      · rfl
    refine ⟨?init, fun hgood hle => ?arrive, fun hgood hlt => ?excess⟩
    case init =>
      refine ⟨_, run_next h ?_, writeBar_completes (b := ⟨0, false, 0, n, n, false⟩) ⟨Nat.two_pow_pos 32, Nat.succ_pos 15, hn, hn, rfl⟩
        (s.peeked r ws).regs hstream hpopped honly⟩
      simp only [needHaul_ok hhaul, bind, Except.bind]
      rw [if_neg hact, hpeek]
      dsimp only
      rw [hoff, checkBar_ok (format := false) hin hstill (fun h => nomatch h)]
      dsimp only
      rw [hcount]
      rfl
    case arrive =>
      have hfits := barrier_fits (s.gangAt r) off hgood
      refine ⟨_, run_next h ?_, writeBar_completes
        (b := ({ b with remaining := b.remaining - n } : Barrier).settle) (Barrier.Fits.settle
          ⟨hfits.pending, hfits.phase, Nat.lt_of_le_of_lt (Nat.sub_le ..) hfits.remaining, hfits.expected, hfits.even⟩)
        (s.peeked r ws).regs hstream hpopped honly⟩
      simp only [needHaul_ok hhaul, bind, Except.bind]
      rw [if_neg hact, hpeek]
      dsimp only
      rw [hoff, checkBar_ok (format := true) hin hstill (fun _ => hgood)]
      dsimp only
      rw [hcount]
      dsimp only
      rw [if_neg (Nat.not_lt.mpr hle)]
      rfl
    case excess =>
      refine run_trapAfter h ?_
      simp only [needHaul_ok hhaul, bind, Except.bind]
      rw [if_neg hact, hpeek]
      dsimp only
      rw [hoff, checkBar_ok (format := true) hin hstill (fun _ => hgood)]
      dsimp only
      rw [hcount]
      dsimp only
      rw [if_pos hlt]

end Sys2Proof.Machine
end

section
/-! SUPPORT. A result that was put stays where sources are used up and the instruction goes on. -/

namespace Sys2Proof.Machine

theorem Put.commits {b u : State} {r : Nat} {d : Dst} {mask : Word} {val : Nat → Nat × Label} (h : Put b u r d mask val) {p : Peek}
    {ws : List Want} (hpops : p.pops = popsOf ws) (hports : p.ports = []) (hstream : p.st.stream r = u.stream r)
    (hcrew : p.st.crewAt r = u.crewAt r) (c : Cls) (reads lines : Nat) :
    let t := (State.commit r p).complete r c reads lines
    Wrote b t r ws d mask val ∧ (t.stream r).gen = (b.stream r).gen ∧ WentOn b t r ∧ t.gangs = p.st.gangs := by
  intro t
  obtain ⟨hcstream, hccrew, honly⟩ := commit_pops r p hports
  rw [hstream] at hcstream
  rw [hcrew, hpops] at hccrew
  obtain ⟨hcore, htcrew, hpc, hloops⟩ := complete_keeps (State.commit r p) r c reads lines
  have hwrote : Wrote b (State.commit r p) r ws d mask val := by
    refine ⟨?_, ?_, fun q => ?_, fun q => ?_⟩
    · rw [hcstream]; exact h.regs
    · rw [hcstream]; exact h.latches
    · rw [hccrew, Crew.popAll_storeQ]; exact h.pushed q
    · rw [hccrew, Crew.popAll_loadQ _ (popsOf ws) (distinct_nodup _), h.loadQ]
  rw [hcstream] at hpc hloops
  have hgen : (t.stream r).gen = ((State.commit r p).stream r).gen := (congrArg Stream.gen hcore :)
  refine ⟨hwrote.of_core hcore htcrew, hgen.trans (by rw [hcstream]; exact h.gen), WentOn.of_base ⟨hpc, hloops⟩ h.pc h.loops, ?_⟩
  exact (congrArg State.gangs (OnlyStream.complete (State.commit r p) r c reads lines).rest :).trans (congrArg State.gangs honly.rest :)

/-- Using up ports moves pattern registers alone. -/
theorem foldl_advancePort (r : Nat) (ns : List Nat) (s : State) :
    let t := ns.foldl (fun s n => s.updStream r fun t => t.advancePort n) s
    { t.stream r with ports := [] } = { s.stream r with ports := [] } ∧ t.gangs = s.gangs := by
  induction ns generalizing s with
  | nil => exact ⟨rfl, rfl⟩
  | cons n ns ih =>
    obtain ⟨hstream, hgangs⟩ := ih (s.updStream r fun t => t.advancePort n)
    refine ⟨hstream.trans ?_, hgangs⟩
    rw [State.updStream_eq, State.stream_setStream]
    rfl

theorem foldl_popLoad (r : Nat) (qs : List Nat) (s : State) :
    let t := qs.foldl (fun s q => s.updCrew (crewOf r) fun c =>
      { c with loadQ := Tab.put q ((Tab.get [] c.loadQ q).drop 1) c.loadQ }) s
    t.streams = s.streams ∧ t.gangs = s.gangs := by
  induction qs generalizing s with
  | nil => exact ⟨rfl, rfl⟩
  | cons q qs ih => exact ih _

/-- Using up what was read leaves the stream, but for its pattern registers, and the gangs. -/
theorem commit_keeps (r : Nat) (p : Peek) :
    { (State.commit r p).stream r with ports := [] } = { p.st.stream r with ports := [] } ∧ (State.commit r p).gangs = p.st.gangs := by
  obtain ⟨hstreams, hgangs⟩ := foldl_popLoad r p.pops p.st
  obtain ⟨hports, hgangs'⟩ := foldl_advancePort r p.ports (p.pops.foldl (fun s q => s.updCrew (crewOf r) fun c =>
      { c with loadQ := Tab.put q ((Tab.get [] c.loadQ q).drop 1) c.loadQ }) p.st)
  refine ⟨hports.trans ?_, hgangs'.trans hgangs⟩
  rw [show State.stream _ r = p.st.stream r from congrArg (Tab.get ({} : Stream) · r) hstreams]

end Sys2Proof.Machine
end

section
/-! BARWAIT, BARTRY and GBAR (08 R229, R230). -/

namespace Sys2Proof.Machine

/-- What a wait on a barrier returns. -/
def State.barVal (s : State) (r : Nat) (m : Bool) (off ph : Nat) (_ : Nat) : Nat × Label :=
  (barValue ((s.gangAt r).barrier off).phase ph, Label.join ((s.gangAt r).lineLabel (off / 64)) ((s.stream r).guardLabel m))

/-- The return of a wait: a result is put, and where the phase is over the copies bound to the barrier are joined. -/
theorem barReturn_puts {s : State} {r : Nat} {dst : Dst} {act : Word} {m : Bool} {off ph : Nat}
    (hsound : (s.gangAt r).lineBad (off / 64) = .none) (hd : dst.n < 60) :
    ∃ u v, Put (s.updGang (gangOf r) fun g => g.spCount [(off, 16)]) u r dst act (s.barVal r m off ph) ∧
      s.barReturn r dst act m off ph = .ok v ∧ v.stream r = u.stream r ∧ v.crewAt r = u.crewAt r ∧
      (v.gangAt r).scratch = (s.gangAt r).scratch ∧ ∀ g, g ≠ gangOf r → v.gang g = s.gang g := by
  obtain ⟨u, hu, hput⟩ := writeDst_put (s.updGang (gangOf r) fun g => g.spCount [(off, 16)]) r dst act (s.barVal r m off ph) hd
  have hgangs : u.gangs = (s.updGang (gangOf r) fun g => g.spCount [(off, 16)]).gangs := (congrArg State.gangs hput.only.rest :)
  have hkeep : (u.gangAt r).scratch = (s.gangAt r).scratch ∧ ∀ g, g ≠ gangOf r → u.gang g = s.gang g := by
    refine ⟨?_, fun g hg => ?_⟩
    · rw [State.gangAt, gang_of_gangs hgangs, gang_updGang, spCount_scratch]
      rfl
    · rw [gang_of_gangs hgangs, State.updGang_eq, State.gang_setGang_other _ _ hg]
  have hret : s.barReturn r dst act m off ph = .ok (if ((s.gangAt r).barrier off).phase = ph then u else u.engineJoin (s.coreNum r)) := by
    have hu' : (s.updGang (gangOf r) fun g => g.spCount [(off, 16)]).writeDst r dst act (fun _ =>
        (barValue ((s.gangAt r).barrier off).phase ph, Label.join ((s.gangAt r).lineLabel (off / 64)) ((s.stream r).guardLabel m))) = .ok u := hu
    have hcore : u.coreNum r = s.coreNum r := by
      rw [State.coreNum, State.gangAt, gang_of_gangs hgangs, gang_updGang]
      rfl
    unfold State.barReturn
    dsimp only
    rw [hsound]
    dsimp only
    rw [hu', ← hcore]
    rfl
  refine ⟨u, _, hput, hret, ?_⟩
  split
  · exact ⟨rfl, rfl, hkeep⟩
  · have hjoin := (CacheStep.refl u).engineJoin (s.coreNum r)
    refine ⟨hjoin.same.stream r, congrArg (Tab.get ({} : Crew) · (crewOf r)) hjoin.crews, ?_, fun g hg => ?_⟩
    · rw [State.gangAt, gang_of_gangs hjoin.gangs]; exact hkeep.1
    · rw [gang_of_gangs hjoin.gangs]; exact hkeep.2 g hg

/-- What a BARWAIT that ends leaves. -/
theorem barwaitEnd_returns {s : State} {r : Nat} {nw m waited : Bool} {d : BitVec 6} {a : BitVec 7} {off ph : Nat} {p : Peek}
    (hsound : (s.gangAt r).lineBad (off / 64) = .none) (hd : d.toNat < 60) (hst : p.st = s) :
    let u := s.stream r
    let act := u.active m
    ∃ t, barwaitEnd r { n := d.toNat, nw } a act m off ph p waited = .ok t ∧ WentOn s t r ∧ (t.gangAt r).scratch = (s.gangAt r).scratch ∧
      (∀ g, g ≠ gangOf r → t.gang g = s.gang g) ∧ (t.stream r).latches = List.replicate 8 {} ∧
      ∀ n, (t.stream r).vreg n = if n = d.toNat ∧ nw = false ∧ n < 56
        then (u.vreg n).merge act (fun k => halfLane (s.barVal r m off ph k) 0) else u.vreg n := by
  intro u act
  obtain ⟨b, v, hput, hv, hstream, -, hscratch, hothers⟩ := barReturn_puts (s := s) (r := r) (dst := { n := d.toNat, nw }) (act := act)
    (m := m) (off := off) (ph := ph) hsound hd
  obtain ⟨hports, hcgangs⟩ := commit_keeps r { p with st := v }
  obtain ⟨hon, -, honly⟩ := complete_yields (State.commit r { p with st := v }) r (!waited) .memory (barWant a act).regs 1
  rw [← endWait_eq] at hon honly
  generalize hw : ((State.commit r { p with st := v }).complete r .memory (barWant a act).regs 1).endWait r waited = w at hon honly
  generalize hc : State.commit r { p with st := v } = c at hports hcgangs hon honly hw
  have hkeep := honly.stream
  have hgangs : w.gangs = v.gangs := (congrArg State.gangs honly.rest :).trans hcgangs
  have hvoid : (w.updStream r Stream.voidLatches).stream r = (w.stream r).voidLatches := State.stream_setStream ..
  refine ⟨w.updStream r Stream.voidLatches, ?_, ?_, ?_, fun g hg => ?_, ?_, fun n => ?_⟩
  · subst hst
    simp only [barwaitEnd, hv, bind, Except.bind]
    rw [hc, hw]
    rfl
  · have hpc : (c.stream r).pc = (s.stream r).pc :=
      (congrArg Stream.pc hports :).trans ((congrArg Stream.pc hstream :).trans hput.pc)
    have hloops : (c.stream r).loops = (s.stream r).loops :=
      (congrArg Stream.loops hports :).trans ((congrArg Stream.loops hstream :).trans hput.loops)
    have hthis := hon.of_base hpc hloops
    refine ⟨?_, ?_⟩
    · rw [hvoid]; exact hthis.1
    · rw [hvoid]; exact hthis.2
  · exact (congrArg Gang.scratch (gang_of_gangs hgangs (gangOf r))).trans hscratch
  · exact (gang_of_gangs hgangs g).trans (hothers g hg)
  · rw [hvoid]; rfl
  · have hregs : (w.stream r).v = (b.stream r).v :=
      (congrArg Stream.v hkeep :).trans ((congrArg Stream.v hports :).trans (congrArg Stream.v hstream :))
    rw [hvoid]
    refine (congrArg (fun x => Tab.get Vec.zero x n) hregs).trans ((hput.regs n).trans ?_)
    by_cases hn : n = d.toNat
    · subst hn
      simp only [true_and, true_or, and_true, Nat.sub_self]
      exact if_congr and_comm rfl rfl
    · simp only [hn, false_and, false_or, and_false, Bool.false_eq_true, if_false]
      rfl

/-- The sources of a barrier instruction that names no count. -/
theorem readable_barWant {s : State} {r : Nat} {a : BitVec 7} {act : Word} {dst : Option Dst} (h : s.readable r [{ f := a.toNat }] dst) :
    s.readable r [barWant a act] dst := readable_lanes (some (lowLane act)) h

theorem peek_barWant {s : State} {r : Nat} {a : BitVec 7} {act : Word} {dst : Option Dst} (h : s.inHand r)
    (hr : s.readable r [{ f := a.toNat }] dst) : s.peek r act [barWant a act] dst = .ok (s.peeked r [{ f := a.toNat }]) :=
  peek_peeked act h (readable_barWant hr)

section

variable {s : State} {r : Nat} {nw m : Bool} {d : BitVec 6} {a imm : BitVec 7} (h : s.inHand r) (hhaul : s.haulOk r)
  (hr : s.readable r [{ f := a.toNat }] (some { n := d.toNat, nw }))
include h hhaul hr

/-- With no enabled lane BARTRY and BARWAIT look at their classes alone. -/
theorem barwait_none (hact : (s.stream r).active m = 0) (hwait : (s.stream r).wait = none) :
    ∃ t, exec (.barwait nw d a imm m) s = .next t ∧ (∀ n, (t.stream r).vreg n = (s.stream r).vreg n) ∧ WentOn s t r := by
  obtain ⟨hon, -, honly⟩ := complete_yields s r true .memory 0 0
  refine ⟨_, run_next h ?_, fun n => ?_, hon⟩
  · simp only [needHaul_ok hhaul, hwait, bind, Except.bind]
    rw [if_pos hact, checkClass_ok (readable_barWant hr)]
    rfl
  · exact congrArg (fun x => Tab.get Vec.zero x n) (congrArg Stream.v honly.stream :)

theorem bartry_none (hact : (s.stream r).active m = 0) :
    ∃ t, exec (.bartry nw d a m) s = .next t ∧ t.crews = s.crews ∧ WentOn s t r ∧ OnlyStream s t r Stream.core := by
  obtain ⟨-, -, hpc, hloops⟩ := complete_keeps s r .memory 0 0
  refine ⟨s.complete r .memory 0 0, run_next h ?_, rfl, ⟨hpc, hloops⟩, OnlyStream.complete ..⟩
  simp only [needHaul_ok hhaul, bind, Except.bind]
  rw [if_pos hact, checkClass_ok (readable_barWant hr)]
  rfl

variable {off ph : Nat} (hact : (s.stream r).active m ≠ 0)
  (hoff : off = bits (s.operand r { f := a.toNat } ((lanesOf ((s.stream r).active m)).headD 0)) 31 4 * 16)
  (hph : ph = bits (s.operand r { f := a.toNat } ((lanesOf ((s.stream r).active m)).headD 0)) 3 0)
  (hin : (s.gangAt r).holdsBar off = true) (hstill : s.moving r off 16 = false) (hgood : ((s.gangAt r).barrier off).good = true)
include hact hoff hph hin hstill hgood

theorem bartry_returns (hsound : (s.gangAt r).lineBad (off / 64) = .none) :
    ∃ t, exec (.bartry nw d a m) s = .next t ∧
      Wrote s t r [{ f := a.toNat }] { n := d.toNat, nw } ((s.stream r).active m) (s.barVal r m off ph) ∧
      (t.stream r).gen = (s.stream r).gen ∧ WentOn s t r ∧ (t.gangAt r).scratch = (s.gangAt r).scratch ∧
      ∀ g, g ≠ gangOf r → t.gang g = s.gang g := by
  have ⟨_, _, _, _, _, h60, _, _⟩ := hr
  obtain ⟨b, v, hput, hv, hstream, hcrew, hscratch, hothers⟩ := barReturn_puts (s := s) (r := r) (dst := { n := d.toNat, nw })
    (act := (s.stream r).active m) (m := m) (off := off) (ph := ph) hsound (h60 _ rfl)
  obtain ⟨hwrote, hgen, hon, hgangs⟩ := hput.commits (p := { s.peeked r [{ f := a.toNat }] with st := v }) (ws := [{ f := a.toNat }])
    rfl rfl hstream hcrew .memory (s.peeked r [{ f := a.toNat }]).regs 1
  refine ⟨_, run_next h ?_, hwrote.of_base rfl rfl, hgen, hon, ?_, fun g hg => ?_⟩
  · have hbar : (s.peeked r [{ f := a.toNat }]).low 0 ((s.stream r).active m) =
        s.operand r { f := a.toNat } ((lanesOf ((s.stream r).active m)).headD 0) := rfl
    have hv' : (s.peeked r [{ f := a.toNat }]).st.barReturn r { n := d.toNat, nw } ((s.stream r).active m) m off ph = .ok v := hv
    simp only [needHaul_ok hhaul, bind, Except.bind]
    rw [if_neg hact, peek_barWant h hr]
    dsimp only
    rw [hbar, barOffset, ← hoff, ← hph, checkBar_ok hin hstill fun _ => hgood]
    dsimp only
    rw [hv']
    rfl
  · exact (congrArg Gang.scratch (gang_of_gangs hgangs (gangOf r))).trans hscratch
  · exact (gang_of_gangs hgangs g).trans (hothers g hg)

/-- BARWAIT at its issue, past its checks. -/
theorem barwait_issue (hwait : (s.stream r).wait = none) :
    exec (.barwait nw d a imm m) s = run s fun r =>
      if ((s.gangAt r).barrier off).phase = ph then
        .ok (s.waitOut r (.barwait off ph (if imm = 0 then none else some (s.now + imm.toNat * 1024)) false))
      else barwaitEnd r { n := d.toNat, nw } a ((s.stream r).active m) m off ph (s.peeked r [{ f := a.toNat }]) false := by
  refine run_congr h ?_
  have hbar : (s.peeked r [{ f := a.toNat }]).low 0 ((s.stream r).active m) =
      s.operand r { f := a.toNat } ((lanesOf ((s.stream r).active m)).headD 0) := rfl
  simp only [needHaul_ok hhaul, hwait, bind, Except.bind]
  rw [if_neg hact, peek_barWant h hr]
  dsimp only
  rw [hbar, barOffset, ← hoff, ← hph, checkBar_ok hin hstill fun _ => hgood]
  rfl

end

/-- BARWAIT executed again after its wait, past its checks. -/
theorem barwait_again {s : State} {r off ph : Nat} {nw m expired : Bool} {d : BitVec 6} {a imm : BitVec 7} {deadline : Option Nat} (h : s.inHand r)
    (hhaul : s.haulOk r) (hwait : (s.stream r).wait = some (.barwait off ph deadline expired))
    (hr : s.readable r [] (some { n := d.toNat, nw })) (hin : (s.gangAt r).holdsBar off = true) (hstill : s.moving r off 16 = false)
    (hgood : ((s.gangAt r).barrier off).good = true) (hover : ((s.gangAt r).barrier off).phase ≠ ph ∨ expired = true) :
    exec (.barwait nw d a imm m) s = run s fun r => barwaitEnd r { n := d.toNat, nw } a ((s.stream r).active m) m off ph
      { pops := popsOf [barWant a ((s.stream r).active m)], ports := portsOf [barWant a ((s.stream r).active m)], st := s } true := by
  have ⟨_, _, _, _, _, h60, hroom, _⟩ := hr
  have hdst : d.toNat < 60 := h60 _ rfl
  have hcheckRoom : s.checkRoom r (some { n := d.toNat, nw }) = .ok () := checkRoom_ok h60 hroom
  have hcheckPort : s.checkPortDst r (some { n := d.toNat, nw }) = .ok () := if_neg fun hc => by
    have : 60 ≤ d.toNat := hc.1
    omega
  have hends : ¬(((s.gangAt r).barrier off).phase = ph ∧ !expired) := by
    rcases hover with hp | he
    · exact fun hc => hp hc.1
    · simp [he]
  refine run_congr h ?_
  simp only [needHaul_ok hhaul, hwait, checkBar_ok hin hstill fun _ => hgood, hcheckRoom, hcheckPort, bind, Except.bind]
  rw [if_neg hends]

/-- Settles O44: each instruction by whether a lane is enabled, and whether the phase is over. -/
theorem barrierWaitsReturnThePhase : Obligations.BarrierWaitsReturnThePhase := by
  intro s r nw d a imm m h hhaul u act low ws dst off ph b val sound returns
  refine ⟨fun hr => ⟨fun hact => ⟨bartry_none h hhaul hr hact, barwait_none h hhaul hr hact⟩, ?issue⟩, ?again, ?released, ?arrives⟩
  case issue =>
    rintro hact ⟨hin, hstill, hgood, hbad⟩
    have ⟨_, _, _, _, _, h60, _, _⟩ := hr
    refine ⟨bartry_returns h hhaul hr hact rfl rfl hin hstill hgood hbad, fun hphase hwait => ?_, fun hphase hwait => ?_⟩
    · obtain ⟨t, ht, hrest⟩ := barwaitEnd_returns (nw := nw) (m := m) (waited := false) (d := d) (a := a) (ph := ph)
        (p := s.peeked r [{ f := a.toNat }]) hbad (h60 _ rfl) rfl
      refine ⟨t, (barwait_issue h hhaul hr hact rfl rfl hin hstill hgood hwait).trans (run_next h ?_), hrest⟩
      exact (if_neg hphase).trans ht
    · obtain ⟨hkeep, hplace⟩ := waitOut_waits s r (.barwait off ph (if imm = 0 then none else some (s.now + imm.toNat * 1024)) false)
      refine ⟨_, (barwait_issue h hhaul hr hact rfl rfl hin hstill hgood hwait).trans (run_next h (if_pos hphase)),
        (congrArg Stream.pc hkeep :), (congrArg Stream.wait hkeep :), hplace⟩
  case again =>
    rintro off' ph' deadline expired hwait hr ⟨hin, hstill, hgood, hbad⟩ hover
    have ⟨_, _, _, _, _, h60, _, _⟩ := hr
    obtain ⟨t, ht, hrest⟩ := barwaitEnd_returns (nw := nw) (m := m) (waited := true) (d := d) (a := a) (ph := ph')
      (p := { pops := popsOf [barWant a act], ports := portsOf [barWant a act], st := s }) hbad (h60 _ rfl) rfl
    exact ⟨t, (barwait_again h hhaul hwait hr hin hstill hgood hover).trans (run_next h ht), hrest⟩
  case released =>
    intro hwait
    obtain ⟨-, -, hpc, hloops⟩ := complete_keeps s r .memory 0 0
    refine ⟨s.complete r .memory 0 0, run_next h ?_, ⟨hpc, hloops⟩, rfl, OnlyStream.complete ..⟩
    have hwait' : (s.stream r).wait = some (.gbar true) := hwait
    simp only [needHaul_ok hhaul, hwait', bind, Except.bind]
    rfl
  case arrives =>
    intro hwait
    refine run_next h ?_
    simp only [needHaul_ok hhaul, bind, Except.bind]
    split
    · rename_i hc
      exact absurd hc hwait
    · rfl

end Sys2Proof.Machine
end

section
/-! SUPPORT. Instructions that write several registers, one latch shift for each (07 R189, 09 R250, 10 R258). -/

namespace Sys2Proof.Machine

/-- Registers written one after another, from one upwards. -/
def Stream.putRows (nw : Bool) (mask : Word) : Nat → List (Nat → LV) → Stream → Stream
  | _, [], t => t
  | n, f :: fs, t => Stream.putRows nw mask (n + 1) fs (t.putReg n nw mask f)

theorem foldl_putReg (d : Nat) (nw : Bool) (mask : Word) (rows : List (Nat → LV)) (k : Nat) (t : Stream) :
    ((List.range' k rows.length).zip rows).foldl (fun t x => t.putReg (d + x.1) nw mask x.2) t = t.putRows nw mask (d + k) rows := by
  induction rows generalizing k t with
  | nil => rfl
  | cons f fs ih =>
    rw [List.length_cons, List.range'_succ, List.zip_cons_cons, List.foldl_cons, ih]
    rfl

theorem writeRegs_putRows (s : State) (r d : Nat) (nw : Bool) (mask : Word) (rows : List (Nat → LV)) :
    s.writeRegs r d nw mask rows = s.updStream r fun t => t.putRows nw mask d rows := by
  refine congrArg (s.setStream r) ?_
  rw [List.range_eq_range']
  exact foldl_putReg d nw mask rows 0 _

theorem putRows_vreg (nw : Bool) (mask : Word) (n : Nat) (rows : List (Nat → LV)) (t : Stream) (k : Nat) :
    (t.putRows nw mask n rows).vreg k = if nw = false ∧ n ≤ k ∧ k < n + rows.length
      then (t.vreg k).merge mask (rows.getD (k - n) fun _ => {}) else t.vreg k := by
  induction rows generalizing n t with
  | nil => rw [if_neg (by simp)]; rfl
  | cons f fs ih =>
    rw [Stream.putRows, ih, Stream.putReg_vreg, List.length_cons]
    by_cases hk : k = n
    · subst hk
      cases nw <;> simp
    · rw [if_neg (by simp [hk] : ¬(nw = false ∧ k = n))]
      by_cases hin : nw = false ∧ n + 1 ≤ k ∧ k < n + 1 + fs.length
      · rw [if_pos hin, if_pos ⟨hin.1, by omega, by omega⟩, show k - n = k - (n + 1) + 1 by omega, List.getD_cons_succ]
      · rw [if_neg hin, if_neg fun h => hin ⟨h.1, by omega, by omega⟩]

/-- The latches take one shift for each register. -/
theorem putRows_latches (nw : Bool) (mask : Word) (n : Nat) (rows : List (Nat → LV)) (t : Stream) :
    (t.putRows nw mask n rows).latches = ((List.range rows.length).map fun k =>
      (t.vreg (n + k)).merge mask (rows.getD k fun _ => {})).foldl (fun ls x => ⟨some x, none⟩ :: ls.take 7) t.latches := by
  induction rows generalizing n t with
  | nil => rfl
  | cons f fs ih =>
    rw [Stream.putRows, ih, List.length_cons, List.range_succ_eq_map, List.map_cons, List.foldl_cons, List.map_map, Stream.putReg_latches]
    refine congrArg (List.foldl _ _) (List.map_congr_left fun k _ => ?_)
    rw [Stream.putReg_vreg, if_neg (by omega)]
    simp only [Function.comp_apply, Nat.succ_eq_add_one, List.getD_cons_succ]
    rw [show n + 1 + k = n + (k + 1) by omega]

theorem putRows_keeps (nw : Bool) (mask : Word) (n : Nat) (rows : List (Nat → LV)) (t : Stream) :
    let u := t.putRows nw mask n rows
    u.lessVec = t.lessVec ∧ u.pc = t.pc ∧ u.loops = t.loops ∧ u.gen = t.gen := by
  induction rows generalizing n t with
  | nil => exact ⟨rfl, rfl, rfl, rfl⟩
  | cons f fs ih =>
    obtain ⟨hless, hpc, hloops, hgen⟩ := ih (n + 1) (t.putReg n nw mask f)
    obtain ⟨hpc', hloops', hgen'⟩ := t.putReg_keeps n nw mask f
    exact ⟨hless.trans (t.putReg_less n nw mask f), hpc.trans hpc', hloops.trans hloops', hgen.trans hgen'⟩

/-- Rows that agree in the lanes of the mask write the same. -/
theorem WroteRows.congr {s t : State} {r d : Nat} {ws : List Want} {nw : Bool} {mask : Word} {rows rows' : List (Nat → LV)}
    (h : WroteRows s t r ws d nw mask rows) (hlen : rows.length = rows'.length)
    (hrows : ∀ k i, k < rows.length → i < 32 → inMask mask i = true → rows.getD k (fun _ => {}) i = rows'.getD k (fun _ => {}) i) :
    WroteRows s t r ws d nw mask rows' where
  regs n := by
    rw [h.regs n, hlen]
    by_cases hin : nw = false ∧ d ≤ n ∧ n < d + rows'.length
    · rw [if_pos hin, if_pos hin]
      exact Vec.merge_congr _ _ fun i hi hm => hrows (n - d) i (by omega) hi hm
    · rw [if_neg hin, if_neg hin]
  latches := by
    rw [h.latches, hlen]
    refine congrArg (List.foldl _ _) (List.map_congr_left fun k hk => ?_)
    exact Vec.merge_congr _ _ fun i hi hm => hrows k i (hlen ▸ List.mem_range.mp hk) hi hm
  popped := h.popped

/-- What an instruction leaves that uses up what it read, writes several registers and goes on. -/
theorem writeRegs_completes {s u : State} {r d : Nat} {ws : List Want} {nw : Bool} {mask : Word} {rows : List (Nat → LV)}
    (hv : (u.stream r).v = (s.stream r).v) (hlatches : (u.stream r).latches = (s.stream r).latches) (hpopped : Popped s u r ws)
    (c : Cls) (reads lines : Nat) :
    let t := (u.writeRegs r d nw mask rows).complete r c reads lines
    WroteRows s t r ws d nw mask rows ∧ (t.stream r).gen = (u.stream r).gen ∧ WentOn u t r ∧ OnlyStream u t r Stream.lessVec := by
  intro t
  rw [show t = ((u.updStream r fun t => t.putRows nw mask d rows).complete r c reads lines) by rw [← writeRegs_putRows]]
  obtain ⟨hless, hpc, hloops, hgen⟩ := putRows_keeps nw mask d rows (u.stream r)
  obtain ⟨hcore, hon, hcrews, honly⟩ := upd_complete (s := u) (r := r) (f := fun t => t.putRows nw mask d rows) (e := Stream.lessVec)
    c reads lines hpc hloops hless lessVec_of_core
  have hvreg (n : Nat) : (u.stream r).vreg n = (s.stream r).vreg n := congrArg (Tab.get Vec.zero · n) hv
  refine ⟨⟨fun n => ?_, ?_, hpopped.of_crew (congrArg (Tab.get ({} : Crew) · (crewOf r)) hcrews)⟩,
    (congrArg Stream.gen hcore :).trans hgen, hon, honly⟩
  · refine (congrArg (Tab.get Vec.zero · n) (congrArg Stream.v hcore :) :).trans ((putRows_vreg nw mask d rows (u.stream r) n).trans ?_)
    rw [hvreg]
  · refine (congrArg Stream.latches hcore :).trans ((putRows_latches nw mask d rows (u.stream r)).trans ?_)
    simp only [hvreg, hlatches]

/-- The case in which nothing but the sources' queues changed before. -/
theorem commit_writeRegs (s : State) (r d : Nat) (ws : List Want) (nw : Bool) (mask : Word) (rows : List (Nat → LV)) (c : Cls)
    (reads lines : Nat) :
    let t := ((State.commit r (s.peeked r ws)).writeRegs r d nw mask rows).complete r c reads lines
    WroteRows s t r ws d nw mask rows ∧ (t.stream r).gen = (s.stream r).gen ∧ WentOn s t r ∧ OnlyStream s t r Stream.lessVec := by
  obtain ⟨hstream, hpopped, honly⟩ := commit_peeked s r ws
  obtain ⟨hwrote, hgen, hon, hless⟩ := writeRegs_completes (s := s) (d := d) (nw := nw) (mask := mask) (rows := rows)
    (congrArg Stream.v hstream) (congrArg Stream.latches hstream) hpopped c reads lines
  exact ⟨hwrote, hgen.trans (congrArg Stream.gen hstream), hon.of_base (congrArg Stream.pc hstream) (congrArg Stream.loops hstream),
    (honly.mono lessVec_of_core).trans hless⟩

theorem needArrived_ok {s : State} {r d n : Nat} (h : (s.stream r).arrived d n) :
    needArrived s r ((List.range n).map (d + ·)) = .ok () := by
  refine if_neg ?_
  simp only [List.any_map, List.any_eq_true, List.mem_range, Function.comp_apply, not_exists, not_and]
  exact fun k hk => by rw [h k hk]; exact Bool.false_ne_true

end Sys2Proof.Machine
end

section
/-! The residue instructions (09 R250 to R252). -/

namespace Sys2Proof.Machine

theorem resWants_ok {s : State} {r : Nat} {f : BitVec 7} {uni : Bool} (h : resOperand f uni = true) :
    resWants s r f.toNat uni = .ok (fiveFrom f) := by
  simp only [resOperand, Bool.or_eq_true, Bool.and_eq_true, decide_eq_true_eq] at h
  rcases h with hv | ⟨⟨huni, hlow⟩, hhigh⟩
  · have hsrc : srcOf f.toNat = .v f.toNat := if_pos (by omega)
    simp only [resWants, hsrc, decide_eq_true hv, need_true, bind, Except.bind]
    rfl
  · have hsrc : srcOf f.toNat = .c (f.toNat - 80) := by
      rw [srcOf, if_neg (by omega), if_neg (by omega), if_neg (by omega), if_neg (by omega), if_neg (by omega), if_neg (by omega),
        if_pos (by omega)]
    have hlt : (uni && decide (f.toNat - 80 < 28)) = true := by simp [huni]; omega
    simp only [resWants, hsrc, hlt, need_true, bind, Except.bind]
    rfl

section

variable {s : State} {r d n : Nat} {m nw : Bool} {srcs : List Want} (f : List Nat → List Nat) (h : s.inHand r)
  (hd : d + n ≤ 56) (hr : s.readable r srcs none) (harr : (s.stream r).arrived d n)
include h hd hr harr

theorem residueOp_off (hoff : rnsOff (s.rnsmapOf r) = true) :
    s.residueOp r m nw d n srcs f = .error (s.streamFault r 0x21 (s.rnsmapOf r).toNat) := by
  simp only [State.residueOp, decide_eq_true hd, need_true, peek_peeked _ h hr, needArrived_ok harr, bind, Except.bind, State.needResidue,
    hoff, if_true]

theorem residueOp_on (hon : rnsOff (s.rnsmapOf r) = false) :
    let act := (s.stream r).active m
    ∃ t, s.residueOp r m nw d n srcs f = .ok t ∧
      WroteRows s t r srcs d nw act ((List.range n).map fun k => fun i =>
        ⟨w32 ((f (srcs.map fun w => s.operand r w i)).getD k 0), Label.join (s.operandsLabel r srcs i) ((s.stream r).guardLabel m)⟩) ∧
      (t.stream r).gen = (s.stream r).gen ∧ WentOn s t r ∧ OnlyStream s t r Stream.lessVec := by
  intro act
  have hunit : s.needResidue r = .ok () := if_neg (by simp [hon])
  let out := (List.range 32).map fun i => if inMask act i then f ((s.peeked r srcs).vals.map fun o => (o.getD i (0, 0)).1) else []
  obtain ⟨hwrote, hrest⟩ := commit_writeRegs s r d srcs nw act ((List.range n).map fun k => fun i : Nat =>
    (⟨w32 ((out.getD i []).getD k 0), Label.join ((s.peeked r srcs).label i) ((s.stream r).guardLabel m)⟩ : LV)) .float (s.peeked r srcs).regs 0
  refine ⟨_, ?_, hwrote.congr (by simp) fun k i hk hi hm => ?_, hrest⟩
  · simp only [State.residueOp, decide_eq_true hd, need_true, peek_peeked _ h hr, needArrived_ok harr, hunit, bind, Except.bind]
    rfl
  · simp only [List.length_map, List.length_range] at hk
    have hout : out.getD i [] = f (srcs.map fun w => s.operand r w i) := by
      simp only [out, List.getD_eq_getElem?_getD, List.getElem?_map, List.getElem?_range hi, Option.map_some, Option.getD_some, hm, if_true]
      simp only [State.peeked, List.map_map]
      rfl
    simp only [List.getD_eq_getElem?_getD, List.getElem?_map, List.getElem?_range hk, Option.map_some, Option.getD_some, label_peeked]
    rw [← hout]
    simp only [List.getD_eq_getElem?_getD]

end

section

variable {s : State} {r : Nat} {i : Instr} {f : ResForm} (h : s.inHand r) (hwork : s.workOk r)
include h hwork

/-- A residue instruction under an allowed TYPE and operands is its operation. -/
theorem exec_residue (hform : resForm (s.stream r) (s.rnsmapOf r) i = some f) (hok : f.ok = true) :
    exec i s = run s fun r => s.residueOp r f.m f.nw f.d f.n f.srcs f.words := by
  have hneed := needWork_ok hwork
  unfold resForm at hform
  split at hform
  case h_1 nw d a m =>
    obtain rfl := Option.some.inj hform
    refine run_congr h ?_
    simp only [hneed, typeIn_ok (ok := fun t => isInt t && decide (32 ≤ typeWidth t)) hok, bind, Except.bind]
  case h_2 nw d a m =>
    obtain rfl := Option.some.inj hform
    obtain ⟨htype, ha⟩ := Bool.and_eq_true_iff.mp hok
    refine run_congr h ?_
    simp only [hneed, typeIn_ok (ok := fun t => isInt t && isSigned t && decide (32 ≤ typeWidth t)) htype, resWants_ok ha, bind, Except.bind]
  case h_3 nw d a m =>
    obtain rfl := Option.some.inj hform
    refine run_congr h ?_
    simp only [hneed, resWants_ok hok, bind, Except.bind]
  case h_4 nw d a b m =>
    obtain rfl := Option.some.inj hform
    obtain ⟨ha, hb⟩ := Bool.and_eq_true_iff.mp hok
    refine run_congr h ?_
    simp only [hneed, resWants_ok ha, resWants_ok hb, bind, Except.bind]
  case h_5 nw d a b m =>
    obtain rfl := Option.some.inj hform
    obtain ⟨ha, hb⟩ := Bool.and_eq_true_iff.mp hok
    refine run_congr h ?_
    simp only [hneed, resWants_ok ha, resWants_ok hb, bind, Except.bind]
  case h_6 => cases hform

end

/-- Settles O45: each residue instruction is one operation on its words. -/
theorem residueInstructionsCompute : Obligations.ResidueInstructionsCompute := by
  intro s r i f h hwork u hform hok hd hr harr
  have hexec := exec_residue h hwork hform hok
  refine ⟨fun hon => ?_, fun hoff => ?_⟩
  · obtain ⟨t, ht, hrest⟩ := residueOp_on (m := f.m) (nw := f.nw) f.words h hd hr harr hon
    exact ⟨t, hexec.trans (run_next h ht), hrest⟩
  · exact hexec.trans (run_trap h (residueOp_off (m := f.m) (nw := f.nw) f.words h hd hr harr hoff))

end Sys2Proof.Machine
end

section
/-! FQBLK on a register that holds more than 32 lanes (07 R189). -/

namespace Sys2Proof.Machine

/-- A stream in hand with f32 in mode set 0 and a binary8 type in mode set 1, one thread, and in v0 a vector of 33 lanes, the last of
which is 1: the model's vectors are lists, and nothing in the statement bounds their length. -/
def longVector : State :=
  ({ State.reset.withFetchWord 32 0 with cur := some 0 } : State).updStream 0 fun t =>
    { t with
      em := 1, mode0 := w32 (0x380000 + 0x2000 * 12), mode1 := w32 (0x380000 + 0x2000 * 17), v := [(0, List.replicate 32 {} ++ [⟨1, 0⟩])] }

/-- FQBLK from v4 writes lane 0 of v0 to v2; what it puts there has 32 lanes. -/
theorem quantise_longVector :
    let row := quantise (longVector.stream 0) 0 4 0
    row.masks.getD 0 0 = 1 ∧ Vec.lane (row.regs.getD 0 []) 32 = {} := by decide +kernel

/-- Refutes O46: FQBLK replaces a register of 33 lanes by a vector of 32, so that lane 32, which its mask does not name and which
held 1, is not as it was. -/
theorem not_splitAndBlockConversionsComplete : ¬ Obligations.SplitAndBlockConversionsComplete := by
  intro h
  obtain ⟨-, hfqblk⟩ := h longVector 0 false 0 4 false (by decide) (by decide)
  obtain ⟨t, -, hregs, hlanes, -⟩ := hfqblk (by decide) (.inr (by decide)) (by decide) (by decide) (by decide) (by decide)
  obtain ⟨hmask, hlane⟩ := quantise_longVector
  have hreg : (t.stream 0).vreg 0 = (quantise (longVector.stream 0) 0 4 0).regs.getD 0 [] :=
    (hregs 0).trans (if_pos ⟨rfl, by decide, by decide, fun hzero => absurd (hmask.symm.trans hzero) (by decide)⟩)
  have hkept : Vec.lane ((t.stream 0).vreg 0) 32 = Vec.lane ((longVector.stream 0).vreg 0) 32 :=
    hlanes 0 32 rfl (by decide) (by decide) ((congrArg (inMask · 32) hmask).trans (by decide))
  rw [hreg, hlane] at hkept
  exact absurd hkept (by decide)

end Sys2Proof.Machine
end

section
/-! SUPPORT. Sorting by insertion under a strict order (10 R257). -/

namespace Sys2Proof.Machine

/-- No element of the list precedes an earlier one. -/
def Ordered {α : Type} (before : α → α → Bool) (xs : List α) : Prop := xs.Pairwise fun x y => before y x = false

theorem Ordered.insertBy {α : Type} {before : α → α → Bool} (hasymm : ∀ x y, before x y = true → before y x = false)
    (htrans : ∀ x y z, before x y = true → before y z = true → before x z = true) (x : α) {ys : List α} (h : Ordered before ys) :
    Ordered before (insertBy before x ys) := by
  induction ys with
  | nil => exact List.pairwise_singleton _ _
  | cons y ys ih =>
    obtain ⟨hy, hys⟩ := List.pairwise_cons.mp h
    unfold Machine.insertBy
    split
    · rename_i hxy
      refine List.pairwise_cons.mpr ⟨fun z hz => ?_, h⟩
      rcases List.mem_cons.mp hz with rfl | hz
      · exact hasymm _ _ hxy
      · cases hzx : before z x
        · rfl
        · rw [← hy z hz, htrans z x y hzx hxy]
    · rename_i hxy
      refine List.pairwise_cons.mpr ⟨fun z hz => ?_, ih hys⟩
      rcases List.mem_cons.mp ((insertBy_perm before x ys).mem_iff.mp hz) with rfl | hz
      · simpa using hxy
      · exact hy z hz

theorem ordered_sortBy {α : Type} {before : α → α → Bool} (hasymm : ∀ x y, before x y = true → before y x = false)
    (htrans : ∀ x y z, before x y = true → before y z = true → before x z = true) (xs : List α) : Ordered before (sortBy before xs) := by
  suffices h : ∀ acc, Ordered before acc → Ordered before (xs.foldl (fun acc x => insertBy before x acc) acc) from h [] .nil
  induction xs with
  | nil => exact fun _ h => h
  | cons x xs ih => exact fun acc h => ih _ (h.insertBy hasymm htrans x)

theorem precedes_iff (ty : Nat) (desc : Bool) (e f : SortEntry) : precedes ty desc e f = true ↔
    e.valid = true ∧ (f.valid = false ∨ f.valid = true ∧ (orderRank ty desc e.key < orderRank ty desc f.key ∨
      orderRank ty desc e.key = orderRank ty desc f.key ∧ (e.idx < f.idx ∨ e.idx = f.idx ∧ e.vid < f.vid))) := by
  unfold precedes
  cases e.valid with
  | false => cases f.valid <;> simp
  | true =>
    cases f.valid with
    | false => simp
    | true =>
      simp only [bne_self_eq_false, Bool.false_eq_true, if_false, Bool.not_true, true_and, Bool.true_eq_false, false_or]
      generalize orderRank ty desc e.key = a
      generalize orderRank ty desc f.key = b
      split_ifs <;> rw [decide_eq_true_eq] <;> omega

theorem precedes_asymm (ty : Nat) (desc : Bool) (e f : SortEntry) (h : precedes ty desc e f = true) : precedes ty desc f e = false := by
  rw [precedes_iff] at h
  rw [Bool.eq_false_iff, ne_eq, precedes_iff]
  rintro ⟨hf, hother⟩
  obtain ⟨he, hf' | ⟨-, hlt⟩⟩ := h
  · rw [hf] at hf'; cases hf'
  · rcases hother with he' | ⟨-, hgt⟩
    · rw [he] at he'; cases he'
    · omega

theorem precedes_trans (ty : Nat) (desc : Bool) (e f g : SortEntry) (h : precedes ty desc e f = true) (h' : precedes ty desc f g = true) :
    precedes ty desc e g = true := by
  rw [precedes_iff] at h h' ⊢
  obtain ⟨he, hef⟩ := h
  obtain ⟨hf, hfg⟩ := h'
  refine ⟨he, ?_⟩
  rcases hfg with hg | ⟨hg, hfg⟩
  · exact .inl hg
  · rcases hef with hf' | ⟨-, hef⟩
    · rw [hf] at hf'; cases hf'
    · exact .inr ⟨hg, by omega⟩

/-- An entry as it is written out. -/
def SortEntry.shown (ty : Nat) (desc : Bool) (e : SortEntry) : SortEntry := if e.valid then e else sentinel ty desc

theorem precedes_shown {ty : Nat} {desc : Bool} {e f : SortEntry} (h : precedes ty desc f e = false) :
    precedes ty desc (f.shown ty desc) (e.shown ty desc) = false := by
  have hsentinel : (sentinel ty desc).valid = false := rfl
  rw [Bool.eq_false_iff, ne_eq, precedes_iff] at h ⊢
  unfold SortEntry.shown
  cases hf : f.valid
  · simp [hsentinel]
  · cases he : e.valid
    · exact absurd ⟨hf, .inl he⟩ h
    · simpa [hf, he] using h

theorem sortEntries_orders (ty : Nat) (desc : Bool) (es : List SortEntry) :
    (sortEntries ty desc es).Perm (es.map fun e => if e.valid then e else sentinel ty desc) ∧
      (sortEntries ty desc es).Pairwise fun e f => precedes ty desc f e = false :=
  ⟨(sortBy_perm _ es).map _, List.Pairwise.map (SortEntry.shown ty desc) (fun _ _ => precedes_shown)
    (ordered_sortBy (precedes_asymm ty desc) (precedes_trans ty desc) es)⟩

end Sys2Proof.Machine
end

section
/-! VSORT, VMERGE, VTOPK and VSELTH (10 R258 to R262). -/

namespace Sys2Proof.Machine

theorem sortStart_ok {s : State} {r d nd na : Nat} {m : Bool} {a : BitVec 7} {more : List Want} (h : s.inHand r) (hwork : s.workOk r)
    (htype : keyType (modeTYPE ((s.stream r).mode m)) = true) (hna : 0 < na) (ha : a.toNat + na ≤ 56) (hd : d + nd ≤ 56)
    (hr : s.readable r (regWants a.toNat na ++ more) none) (harr : (s.stream r).arrived d nd) :
    s.sortStart r m d nd a na more = .ok (modeTYPE ((s.stream r).mode m), s.peeked r (regWants a.toNat na ++ more),
      s.byVid r ((s.stream r).active m)) := by
  have hsrc : srcOf a.toNat = .v a.toNat := if_pos (by omega)
  simp only [State.sortStart, needWork_ok hwork, typeIn_ok (ok := keyType) htype, decide_eq_true hd, hsrc, decide_eq_true ha, need_true,
    peek_peeked _ h hr, needArrived_ok harr, bind, Except.bind]
  rfl

theorem lanesOf_eq_nil {m : Word} : lanesOf m = [] ↔ m = 0 := by
  constructor
  · intro h
    refine BitVec.eq_of_getLsbD_eq fun i hi => ?_
    have hnot : i ∉ lanesOf m := h ▸ List.not_mem_nil
    rw [mem_lanesOf, not_and] at hnot
    have hzero : (0 : Word).getLsbD i = false := BitVec.getLsbD_zero
    rw [hzero, BitVec.getLsbD, Nat.testBit_eq_decide_div_mod_eq]
    simpa [inMask, bitOf] using hnot hi
  · rintro rfl
    rfl

theorem byVid_eq_nil {s : State} {r : Nat} {m : Word} : s.byVid r m = [] ↔ m = 0 := by
  rw [← lanesOf_eq_nil, ← List.length_eq_zero_iff, ← List.length_eq_zero_iff, State.byVid, (sortBy_perm _ _).length_eq]

/-- A sort instruction that leaves VCOUNT. -/
theorem sortEnd_wrote (s : State) (r d : Nat) (ws : List Want) (mask : Word) (rows : List (Nat → LV)) :
    let t := s.sortEnd r d mask (s.peeked r ws) rows
    WroteRows s t r ws d false mask rows ∧ (t.stream r).vcount = (s.stream r).vcount ∧ (t.stream r).gen = (s.stream r).gen ∧
      WentOn s t r ∧ OnlyStream s t r Stream.lessSort := by
  obtain ⟨hwrote, hgen, hon, honly⟩ := commit_writeRegs s r d ws false mask rows .sort (s.peeked r ws).regs 0
  exact ⟨hwrote, (congrArg Stream.vcount honly.stream :), hgen, hon, honly.mono fun u v huv => by
    rw [Stream.lessSort, Stream.lessSort, huv]⟩

/-- One that sets VCOUNT as well. -/
theorem sortEnd_counted (s : State) (r d : Nat) (ws : List Want) (mask : Word) (rows : List (Nat → LV)) (n : Word) :
    let t := (s.sortEnd r d mask (s.peeked r ws) rows).updStream r fun t => { t with vcount := n }
    WroteRows s t r ws d false mask rows ∧ (t.stream r).vcount = n ∧ (t.stream r).gen = (s.stream r).gen ∧
      WentOn s t r ∧ OnlyStream s t r Stream.lessSort := by
  intro t
  obtain ⟨hwrote, -, hgen, hon, honly⟩ := sortEnd_wrote s r d ws mask rows
  have hstream : t.stream r = { (s.sortEnd r d mask (s.peeked r ws) rows).stream r with vcount := n } := State.stream_setStream ..
  refine ⟨⟨fun k => ?_, (congrArg Stream.latches hstream :).trans hwrote.latches, hwrote.popped.of_crew rfl⟩,
    (congrArg Stream.vcount hstream :), (congrArg Stream.gen hstream :).trans hgen,
    ⟨(congrArg Stream.pc hstream :).trans hon.1, (congrArg Stream.loops hstream :).trans hon.2⟩,
    honly.trans (OnlyStream.updStream _ r _ _ rfl)⟩
  rw [show (t.stream r).vreg k = ((s.sortEnd r d mask (s.peeked r ws) rows).stream r).vreg k from
    congrArg (Tab.get Vec.zero · k) (congrArg Stream.v hstream :)]
  exact hwrote.regs k

theorem lab_peeked (s : State) (r : Nat) (ws : List Want) {k : Nat} (hk : k < ws.length) :
    (s.peeked r ws).lab k = s.operandLabel r ws[k] := by
  funext i
  simp [Peek.lab, State.peeked, State.operandLabel, hk]

theorem val_peeked (s : State) (r : Nat) (ws : List Want) {k : Nat} (hk : k < ws.length) :
    (s.peeked r ws).val k = s.operand r ws[k] := by
  funext i
  simp [Peek.val, State.peeked, State.operand, hk]

section

variable {s : State} {r a d k : Nat}

/-- The registers after the first two sources. -/
theorem getElem_regWants {j : Nat} (hj : 2 + j < (regWants a 2 ++ regWants d (2 * k)).length) :
    (regWants a 2 ++ regWants d (2 * k))[2 + j] = { f := d + j, allow := .vec } := by
  simp [regWants]

theorem length_regWants : (regWants a 2 ++ regWants d (2 * k)).length = 2 + 2 * k := by simp [regWants]

theorem val_old {j : Nat} (hj : j < 2 * k) :
    (s.peeked r (regWants a 2 ++ regWants d (2 * k))).val (2 + j) = s.operand r { f := d + j, allow := .vec } := by
  rw [val_peeked s r _ (by rw [length_regWants]; omega), getElem_regWants]

theorem lab_old {j : Nat} (hj : j < 2 * k) :
    (s.peeked r (regWants a 2 ++ regWants d (2 * k))).lab (2 + j) = s.operandLabel r { f := d + j, allow := .vec } := by
  rw [lab_peeked s r _ (by rw [length_regWants]; omega), getElem_regWants]

end

/-- The number of entries that VTOPK keeps, from its old list and the new one. -/
def topkCount (ty : Nat) (desc : Bool) (n : Nat) (es : List SortEntry) : Nat :=
  min n (sortEntries ty desc (es.filter (·.valid))).length

/-- The k registers of keys and the k of indices that VTOPK writes. -/
def topkRows (ty : Nat) (desc : Bool) (n k : Nat) (es : List SortEntry) (l : Label) : List (Nat → LV) :=
  let all := sortEntries ty desc (es.filter (·.valid))
  let kept := all.take (topkCount ty desc n es) ++ List.replicate (32 * k - topkCount ty desc n es) (sentinel ty desc)
  let row (f : SortEntry → Nat) (j : Nat) : Nat → LV := wordsAt (kept.map f) l fun i => 32 * j + i
  (List.range k).map (row (·.key)) ++ (List.range k).map (row (·.idx))

/-- The old list of VTOPK as it reads it. -/
def topkOld (p : Peek) (n k : Nat) : List SortEntry :=
  (List.range n).map fun e => ⟨p.val (2 + e / 32) (e % 32), p.val (2 + k + e / 32) (e % 32), 0⟩

/-- Its label, joined to another. -/
def topkLabel (p : Peek) (n k : Nat) (l : Label) : Label :=
  (List.range n).foldl (fun l e => Label.join (Label.join l (p.lab (2 + e / 32) (e % 32))) (p.lab (2 + k + e / 32) (e % 32))) l

/-- The old list of VTOPK, as its sources hold it. -/
theorem oldEntries_peeked (s : State) (r a d : Nat) {n k : Nat} (hn : n ≤ 32 * k) :
    topkOld (s.peeked r (regWants a 2 ++ regWants d (2 * k))) n k =
    (List.range n).map fun e => ⟨s.operand r { f := d + e / 32, allow := .vec } (e % 32),
      s.operand r { f := d + (k + e / 32), allow := .vec } (e % 32), 0⟩ := by
  refine List.map_congr_left fun e he => ?_
  have := List.mem_range.mp he
  rw [Nat.add_assoc 2 k, val_old (by omega), val_old (by omega)]

/-- Its label. -/
theorem oldLabel_peeked (s : State) (r a d : Nat) {n k : Nat} (hn : n ≤ 32 * k) (l₀ : Label) :
    topkLabel (s.peeked r (regWants a 2 ++ regWants d (2 * k))) n k l₀ =
    (List.range n).foldl (fun l e => Label.join (Label.join l (s.operandLabel r { f := d + e / 32, allow := .vec } (e % 32)))
      (s.operandLabel r { f := d + (k + e / 32), allow := .vec } (e % 32))) l₀ := by
  refine List.foldl_ext _ _ _ fun l e he => ?_
  have := List.mem_range.mp he
  rw [Nat.add_assoc 2 k, lab_old (by omega), lab_old (by omega)]

/-- Settles O47: the order is that of sorting by insertion, and each instruction is one write of its rows. -/
theorem sortUnitCompletes : Obligations.SortUnitCompletes := by
  refine ⟨sortEntries_orders, fun s r d a b x desc kf m h hwork => ?_⟩
  intro u ty act order reg done two four htype
  refine ⟨fun ha hd hr harr => ?_, fun ha hd hr harr => ?_, ?_, ?_⟩
  · exact ⟨_, run_next h (by rw [sortStart_ok h hwork htype (by decide) ha hd hr harr]; rfl), sortEnd_wrote ..⟩
  · exact ⟨_, run_next h (by rw [sortStart_ok h hwork htype (by decide) ha hd hr harr]; rfl), sortEnd_wrote ..⟩
  · intro n k old ws ha hd hr harr was all es l row
    have hn : n ≤ 32 * k := by omega
    have hwas := oldEntries_peeked s r a.toNat d.toNat hn
    have hlab := oldLabel_peeked s r a.toNat d.toNat hn (s.sourcesLabel r m two order)
    have hstart := sortStart_ok (nd := 2 * k) (na := 2) (more := regWants d.toNat (2 * k)) h hwork htype (by decide) ha hd hr harr
    have hrows : topkRows ty (!x) n k (topkOld (s.peeked r ws) n k ++ s.entries r order (reg 0) (reg 1))
        (topkLabel (s.peeked r ws) n k (s.sourcesLabel r m two order)) =
      topkRows ty (!x) n k (was ++ s.entries r order (reg 0) (reg 1)) l := congrArg₂ (topkRows ty (!x) n k) (congrArg (· ++ _) hwas) hlab
    have hcount : topkCount ty (!x) n (topkOld (s.peeked r ws) n k ++ s.entries r order (reg 0) (reg 1)) =
      topkCount ty (!x) n (was ++ s.entries r order (reg 0) (reg 1)) := congrArg (topkCount ty (!x) n) (congrArg (· ++ _) hwas)
    by_cases hact : act = 0
    · rw [if_pos hact, if_pos hact]
      refine ⟨_, run_next h (Eq.trans ?_ (congrArg (fun rows => Except.ok (s.sortEnd r d.toNat 0 (s.peeked r ws) rows)) hrows)),
        sortEnd_wrote ..⟩
      simp only [bind, Except.bind]
      erw [hstart]
      dsimp only
      rw [if_pos (byVid_eq_nil.mpr hact)]
      rfl
    · rw [if_neg hact, if_neg hact]
      refine ⟨_, run_next h (Eq.trans ?_ (congrArg₂ (fun rows n => Except.ok ((s.sortEnd r d.toNat 0xFFFFFFFF (s.peeked r ws) rows).updStream r
        fun t => { t with vcount := w32 n })) hrows hcount)), sortEnd_counted ..⟩
      simp only [bind, Except.bind]
      erw [hstart]
      dsimp only
      rw [if_neg (mt byVid_eq_nil.mp hact)]
      rfl
  · intro ws ha hd hr harr low chosen es l
    have hstart := sortStart_ok (nd := 2) (na := 2) (more := [{ f := b.toNat }]) h hwork htype (by decide) ha hd hr harr
    by_cases hact : act = 0
    · rw [if_pos hact, if_pos hact]
      refine ⟨_, run_next h ?_, sortEnd_wrote ..⟩
      simp only [bind, Except.bind]
      erw [hstart]
      dsimp only
      rw [if_pos (byVid_eq_nil.mpr hact)]
      rfl
    · rw [if_neg hact, if_neg hact]
      refine ⟨_, run_next h ?_, sortEnd_counted ..⟩
      simp only [bind, Except.bind]
      erw [hstart]
      dsimp only
      rw [if_neg (mt byVid_eq_nil.mp hact)]
      rfl

end Sys2Proof.Machine
end

section
/-! WSEED, WPUT, WHASH and WPROJ (10 R266 to R270). -/

namespace Sys2Proof.Machine

theorem OnlyStream.updGang {s t : State} {r : Nat} {e : Stream → Stream} (h : OnlyStream s t r e) (g : Nat) (f : Gang → Gang) :
    OnlyStream (s.updGang g f) (t.updGang g f) r e where
  stream := h.stream
  streams := h.streams
  crew := h.crew
  crews := h.crews
  nodes := h.nodes
  parts := h.parts
  rest := congrArg (fun x : State => x.updGang g f) h.rest
  memory := ⟨h.memory.1, h.memory.2.1, fun k a => congrArg (fun gs : Tab Gang =>
    rdByte (Tab.get ({} : Gang) (Tab.put g (f (Tab.get {} gs g)) gs) k).scratch a) (congrArg State.gangs h.rest :)⟩

theorem srcOf_eq_v {f n : Nat} : srcOf f = .v n ↔ f < 56 ∧ n = f := by
  unfold srcOf
  split_ifs <;> simp <;> omega

theorem srcOf_eq_c {f n : Nat} : srcOf f = .c n ↔ 80 ≤ f ∧ f < 112 ∧ n = f - 80 := by
  unfold srcOf
  split_ifs <;> simp <;> omega

theorem operandLabel_v {s : State} {r f n i : Nat} (hi : i < 32) (h : srcOf f = .v n) :
    s.operandLabel r { f } i = (((s.stream r).vreg n).lane i).l := by
  simp [State.operandLabel, State.plainSrc, h, hi]

theorem operandLabel_c {s : State} {r f n i : Nat} (hi : i < 32) (h : srcOf f = .c n) :
    s.operandLabel r { f } i = ((s.stream r).creg n).l := by
  simp only [State.operandLabel, State.plainSrc, h, Bool.false_eq_true, if_false]
  rw [List.getD_eq_getElem?_getD, List.getElem?_replicate_of_lt hi]
  rfl

/-- The lower word's label is the source's. -/
theorem wordLabels_fst {s : State} {r a i : Nat} (p : Peek) (hi : i < 32) (hlab : p.lab 0 i = s.operandLabel r { f := a } i) :
    ((s.stream r).wordLabels p a i).1 = s.operandLabel r { f := a } i := by
  unfold Stream.wordLabels
  split
  · rename_i n hn
    exact (operandLabel_v hi hn).symm
  · rename_i n hn
    exact (operandLabel_c hi hn).symm
  · exact hlab

/-- Each word of a pair has its register's label. -/
theorem wordLabels_pair {s : State} {r a i : Nat} (p : Peek) (hi : i < 32) (hfault : s.srcFault r { f := a, wide := true } = none) :
    (a < 56 ∨ 80 ≤ a ∧ a < 112) ∧
      (s.stream r).wordLabels p a i = (s.operandLabel r { f := a } i, s.operandLabel r { f := a + 1 } i) := by
  unfold State.srcFault at hfault
  unfold Stream.wordLabels
  cases hsrc : srcOf a with
  | v n =>
    simp only [hsrc] at hfault
    obtain ⟨ha, rfl⟩ := srcOf_eq_v.mp hsrc
    have heven : n % 2 = 0 := by simpa using hfault
    exact ⟨.inl ha, congrArg₂ Prod.mk (operandLabel_v hi hsrc).symm
      (operandLabel_v hi (srcOf_eq_v.mpr ⟨by omega, rfl⟩)).symm⟩
  | c n =>
    simp only [hsrc] at hfault
    obtain ⟨hlo, hhi, hn⟩ := srcOf_eq_c.mp hsrc
    have heven : n % 2 = 0 := by simpa using hfault
    exact ⟨.inr ⟨hlo, hhi⟩, congrArg₂ Prod.mk (operandLabel_c hi hsrc).symm
      (operandLabel_c hi (srcOf_eq_c.mpr ⟨by omega, by omega, by omega⟩)).symm⟩
  | q n => cases hm : s.mayQueue r <;> simp [hsrc, hm] at hfault
  | t n => simp [hsrc] at hfault
  | l n => simp [hsrc] at hfault
  | z => simp [hsrc] at hfault
  | bad => simp [hsrc] at hfault

/-- Both words of a lane's value with their labels, as the sources give them. -/
theorem wputWords_peeked {s : State} {r a i : Nat} {wide : Bool} (hi : i < 32) (hfault : s.srcFault r { f := a, wide } = none) :
    let half (k : Nat) : Want := { f := a + if a < 56 ∨ 80 ≤ a ∧ a < 112 then k else 0 }
    (s.stream r).wputWords (s.peeked r [{ f := a, wide }]) a wide i =
      (w32 (s.operand r { f := a, wide } i), s.operandLabel r (half 0) i) ::
        (if wide then [(w32 (s.operand r { f := a, wide } i / 2 ^ 32), s.operandLabel r (half 1) i)] else []) := by
  intro half
  have hzero : half 0 = { f := a } := by simp [half]
  rw [hzero, Stream.wputWords, peeked_val_zero]
  cases wide with
  | false =>
    simp only [Bool.false_eq_true, if_false]
    rw [wordLabels_fst _ hi (congrFun (peeked_lab_zero s r _ []) i)]
  | true =>
    obtain ⟨hreg, hlabels⟩ := wordLabels_pair (s.peeked r [{ f := a, wide := true }]) hi hfault
    simp only [if_true, half, if_pos hreg, hlabels]

/-- What WSEED leaves that returns a seed. -/
theorem wseed_completes {s base : State} {r : Nat} {d : BitVec 6} {x : Nat} (h : s.inHand r)
    (hstream : base.stream r = s.stream r)
    (hok : exec (.wseed d) s = .next ((base.updStream r fun t => t.putC d.toNat true x 0).complete r .memory 0 0)) :
    ∃ t, exec (.wseed d) s = .next t ∧
      (∀ n, (t.stream r).creg n = if n = d.toNat then ⟨w32 x, 0⟩ else if n = d.toNat + 1 then ⟨w32 (x / 2 ^ 32), 0⟩
        else (s.stream r).creg n) ∧ WentOn base t r ∧ OnlyStream base t r Stream.lessUni := by
  have hbank : (base.stream r).regBad = [] := hstream ▸ h.2.2
  obtain ⟨cs, hcs⟩ := (base.stream r).putC_bank d.toNat true x 0 hbank
  obtain ⟨hcore, hon, -, honly⟩ := upd_complete (s := base) (r := r) (f := fun t => t.putC d.toNat true x 0) (e := Stream.lessUni)
    .memory 0 0 (by rw [hcs]) (by rw [hcs]) (by rw [hcs]; rfl) lessUni_core
  refine ⟨_, hok, fun n => ?_, hon, honly⟩
  rw [creg_of_core hcore, Stream.creg_putC, hstream]
  simp

/-- WHASH and WPROJ write their accumulator with the crew's seed. -/
theorem witnessOp_completes {s : State} {r : Nat} {m nw wide : Bool} {d : BitVec 6} {srcs ws : List Want} {seed : DWord} (f : Nat → List Nat → Nat)
    (h : s.inHand r) (hd : d.toNat < 56) (hseed : (s.crewAt r).seed = some seed)
    (hws : srcs ++ [({ f := d.toNat, wide } : Want)] = ws) (hr : s.readable r ws (some { n := d.toNat, wide, nw })) :
    ∃ t, s.witnessOp r m nw d wide srcs f = .ok t ∧
      Wrote s t r ws { n := d.toNat, wide, nw } ((s.stream r).active m) (fun k =>
        (f seed.toNat (ws.map fun w => s.operand r w k), Label.join (s.operandsLabel r ws k) ((s.stream r).guardLabel m))) ∧
      (t.stream r).gen = (s.stream r).gen ∧ WentOn s t r ∧ OnlyStream s t r Stream.lessVec := by
  have ⟨_, _, _, _, _, h60, _, _⟩ := hr
  obtain ⟨u, hu, hwrote, hpc, hloops, hgen, honly⟩ := write_peeked s r ws { n := d.toNat, wide, nw } ((s.stream r).active m) (fun k =>
    (f seed.toNat ((s.peeked r ws).vals.map fun o => (o.getD k (0, 0)).1), Label.join ((s.peeked r ws).label k) ((s.stream r).guardLabel m)))
    (h60 _ rfl)
  obtain ⟨hcore, hcrew, hpc', hloops'⟩ := complete_keeps u r .sort (s.peeked r ws).regs 0
  obtain ⟨hnext, hnextLoops⟩ := Stream.next_pc hpc hloops
  refine ⟨u.complete r .sort (s.peeked r ws).regs 0, ?_, ?_, (congrArg Stream.gen hcore :).trans hgen,
    ⟨hpc'.trans hnext, hloops'.trans hnextLoops⟩, honly.trans ((OnlyStream.complete u r _ _ 0).mono lessVec_of_core)⟩
  · simp only [State.witnessOp, State.crewSeed, hws, hseed, needReg_ok hd, peek_peeked _ h hr, bind, Except.bind, hu]
    rfl
  · have hvals (k : Nat) : (s.peeked r ws).vals.map (fun o => (o.getD k (0, 0)).1) = ws.map fun w => s.operand r w k := by
      rw [State.peeked, List.map_map]
      rfl
    simp only [hvals, label_peeked] at hwrote
    exact hwrote.of_core hcore hcrew

/-- Settles O48: WSEED's cases, WPUT's append, and the accumulators as one write each. -/
theorem witnessInstructionsComplete : Obligations.WitnessInstructionsComplete := by
  intro s r nw d a b tag m h u ty wide act seeded
  refine ⟨fun hhaul hd heven => ?_, fun hlo hhi hr => ?_, fun hwork hd seed hseed => ?_⟩
  · have hpair : (decide (d.toNat < 32) && d.toNat % 2 == 0) = true := by simp [hd, heven]
    refine ⟨fun hw => run_trap h ?_, fun hw => ⟨fun x hx => ?_, fun hnone => ⟨fun k hk => ?_, fun hk => ?_⟩⟩⟩
    · simp only [needHaul_ok hhaul, hpair, need_true, bind, Except.bind, hw, if_true]
      rfl
    · refine wseed_completes h rfl (run_next h ?_)
      simp only [needHaul_ok hhaul, hpair, need_true, bind, Except.bind, hw, if_false, hx]
      rfl
    · refine wseed_completes h rfl (run_next h ?_)
      simp only [needHaul_ok hhaul, hpair, need_true, bind, Except.bind, hw, if_false, hnone, show (s.stream r).wait = _ from hk]
      rfl
    · refine ⟨_, run_stall (t := s.updStream r fun t =>
        { t with wait := some (.wseed (s.cyclesOf (clusterOf (s.coreNum r)) + 4096) false) }) h ?_, rfl, ?_, ?_⟩
      · simp only [needHaul_ok hhaul, hpair, need_true, bind, Except.bind, hw, if_false, hnone, show (s.stream r).wait = _ from hk]
      · exact (congrArg Stream.wait (State.stream_setStream ..) :)
      · exact (congrArg Stream.pc (State.stream_setStream ..) :)
  · intro order src header half words after
    have ⟨hsrc, _⟩ := hr
    have htag : (decide (1 ≤ tag.toNat) && decide (tag.toNat ≤ 9)) = true := by simp [hlo, hhi]
    obtain ⟨hstream, hpopped, honly⟩ := commit_peeked s r [src]
    have hwords : order.flatMap (u.wputWords (s.peeked r [src]) a.toNat wide) = words := List.flatMap_congr fun i hi => by
      have hlane : i < 32 := (mem_lanesOf.mp (mem_sortBy.mp hi)).1
      exact wputWords_peeked hlane (hsrc _ List.mem_cons_self)
    have hpeek : s.peek r ((s.stream r).active m) [{ f := a.toNat, wide := typeWidth (modeTYPE ((s.stream r).mode m)) == 64 }] none =
      .ok (s.peeked r [src]) := peek_peeked _ h hr
    have hon (v : State) (hv : (v.stream r).pc = ((State.commit r (s.peeked r [src])).stream r).pc)
        (hv' : (v.stream r).loops = ((State.commit r (s.peeked r [src])).stream r).loops) :
        WentOn s (v.complete r .memory (s.peeked r [src]).regs 0) r :=
      WentOn.of_base (complete_keeps ..).2.2 (hv.trans (congrArg Stream.pc hstream)) (hv'.trans (congrArg Stream.loops hstream))
    refine ⟨fun hnone => ⟨(State.commit r (s.peeked r [src])).complete r .memory (s.peeked r [src]).regs 0, run_next h ?_, hpopped.of_crew (complete_keeps ..).2.1,
      hon _ rfl rfl, honly.trans (OnlyStream.complete ..)⟩, fun hsome hfit => ?_, fun hsome hfull => run_trap h ?_⟩
    · simp only [htag, need_true, hpeek, bind, Except.bind]
      rw [show s.byVid r ((s.stream r).active m) = [] from hnone]
      rfl
    · obtain ⟨low, rest, hcons⟩ := List.exists_cons_of_ne_nil hsome
      refine ⟨((State.commit r (s.peeked r [src])).updGang (gangOf r) fun g => { g with witness := g.witness ++ header :: words }).complete r
        .memory (s.peeked r [src]).regs 0, run_next h ?_, hpopped.of_crew (complete_keeps ..).2.1, hon _ rfl rfl,
        (honly.updGang _ _).trans (OnlyStream.complete ..)⟩
      simp only [htag, need_true, hpeek, bind, Except.bind]
      rw [← hwords] at hfit ⊢
      rw [show order = _ from hcons] at hfit ⊢
      simp only [header]
      rw [show order = _ from hcons]
      rw [show s.byVid r ((s.stream r).active m) = _ from hcons]
      exact if_neg (Nat.not_lt.mpr hfit)
    · obtain ⟨low, rest, hcons⟩ := List.exists_cons_of_ne_nil hsome
      have hfull' : 16384 < (s.gangAt r).witness.length + 1 + (order.flatMap (u.wputWords (s.peeked r [src]) a.toNat wide)).length := hwords ▸ hfull
      simp only [htag, need_true, hpeek, bind, Except.bind]
      rw [show order = _ from hcons] at hfull'
      rw [show s.byVid r ((s.stream r).active m) = _ from hcons]
      exact if_pos hfull'
  · intro acc x old
    refine ⟨fun htype hr => ?_, fun htype hr => ?_⟩
    · obtain ⟨t, ht, hrest⟩ := witnessOp_completes (fun seed xs => whash seed (xs.getD 1 0) (xs.getD 0 0)) (srcs := [x]) h hd hseed rfl hr
      refine ⟨t, run_next h ?_, hrest⟩
      simp only [needWork_ok hwork, bind, Except.bind]
      rw [typeIn_ok (decide_eq_true htype)]
      exact ht
    · obtain ⟨t, ht, hrest⟩ := witnessOp_completes (fun seed xs => wproj ty seed (xs.getD 2 0) (xs.getD 0 0) (xs.getD 1 0)) (srcs := [x, { f := b.toNat }]) h hd
        hseed rfl hr
      refine ⟨t, run_next h ?_, hrest⟩
      simp only [needWork_ok hwork, bind, Except.bind]
      rw [typeIn_ok htype]
      exact ht

end Sys2Proof.Machine
end

section
/-! WLOAD, QMMA, QMMAR, ACCZ, ACCLD, ACCST and WFREE (09 R235 to R247). -/

namespace Sys2Proof.Machine

/-- An instruction goes on from a state, and with Y its crew leaves the slot. -/
def Goes (b t : State) (r : Nat) (y : Bool) : Prop :=
  WentOn b t r ∧ (y = true → ∃ n age, (t.crewAt r).place = .ready n age) ∧ OnlyCrew b t r Stream.core

/-- A stream without its matrix queue. -/
def Stream.lessMatrix (v : Stream) : Stream := { v.core with mxQ := [], mxOut := [], mxSeq := 0 }

/-- What an instruction leaves that enters a matrix command, or of no lane does nothing. -/
def MxIssues (s : State) (r : Nat) (gv : Bool) (slot : Nat) (i : Instr) (y : Bool) (names : List Nat) (cmd : MxCmd) (ok : Prop) : Prop :=
  ((s.stream r).active false = 0 → ∃ t, exec i s = .next t ∧ Goes s t r y) ∧
  ((s.stream r).active false ≠ 0 → ok → (s.stream r).mxQ.length < 16 →
    ∃ t, exec i s = .next t ∧ WentOn s t r ∧ (y = true → ∃ n age, (t.crewAt r).place = .ready n age) ∧
      OnlyCrew s t r Stream.lessMatrix ∧ (t.stream r).mxSeq = (s.stream r).mxSeq + 1 ∧
      ((s.stream r).issueGuard gv slot ≠ .off → (t.stream r).mxOut = (s.stream r).mxOut ++ [((s.stream r).mxSeq, names)] ∧
        (t.stream r).mxQ = (s.stream r).mxQ ++ [{ cmd with
          guard := if (s.stream r).issueGuard gv slot = .unset then some slot else none, seq := (s.stream r).mxSeq,
          acq := (s.crewAt r).syncAt }]) ∧
      ((s.stream r).issueGuard gv slot = .off → (t.stream r).mxOut = (s.stream r).mxOut ∧ (t.stream r).mxQ = (s.stream r).mxQ))

/-- The stream after the issue of a matrix command. -/
def Stream.mxIssued (t : Stream) (gv : Bool) (slot : Nat) (names : List Nat) (cmd : MxCmd) (acq : Nat) : Stream :=
  if t.issueGuard gv slot = .off then { t with mxSeq := t.mxSeq + 1 }
  else
    { t with
      mxSeq := t.mxSeq + 1, mxOut := t.mxOut ++ [(t.mxSeq, names)],
      mxQ := t.mxQ ++ [{ cmd with guard := if t.issueGuard gv slot = .unset then some slot else none, seq := t.mxSeq, acq }] }

theorem mxIssued_keeps (t : Stream) (gv : Bool) (slot : Nat) (names : List Nat) (cmd : MxCmd) (acq : Nat) :
    let u := t.mxIssued gv slot names cmd acq
    u.pc = t.pc ∧ u.loops = t.loops ∧ u.mxSeq = t.mxSeq + 1 ∧
      Stream.lessMatrix { u with latches := [] } = Stream.lessMatrix { t with latches := [] } := by
  unfold Stream.mxIssued
  dsimp only
  split <;> exact ⟨rfl, rfl, rfl, rfl⟩

theorem issueMx_ok {s : State} {r : Nat} (gv : Bool) (slot : Nat) (names : List Nat) (cmd : MxCmd) (hroom : (s.stream r).mxQ.length < 16) :
    s.issueMx r gv slot names cmd = .ok (s.updStream r fun t => t.mxIssued gv slot names cmd (s.crewAt r).syncAt) := by
  unfold State.issueMx Stream.mxIssued State.updStream
  dsimp only
  rw [if_neg (by omega : ¬16 ≤ (s.stream r).mxQ.length)]
  by_cases hoff : (s.stream r).issueGuard gv slot = .off
  · rw [if_pos hoff]
    exact if_pos hoff
  · rw [if_neg hoff]
    exact if_neg hoff

/-- An instruction issues its command when it goes on from the state that the issue leaves. -/
theorem mxIssues_of {s : State} {r : Nat} {gv : Bool} {slot : Nat} {i : Instr} {y : Bool} {names : List Nat} {cmd : MxCmd} {ok : Prop}
    (hnone : (s.stream r).active false = 0 → ∃ t, exec i s = .next t ∧ Goes s t r y)
    (hsome : (s.stream r).active false ≠ 0 → ok → ∀ v, s.issueMx r gv slot names cmd = .ok v → ∃ t, exec i s = .next t ∧ Goes v t r y) :
    MxIssues s r gv slot i y names cmd ok := by
  refine ⟨hnone, fun hact hok hroom => ?_⟩
  obtain ⟨t, ht, hon, hready, honly⟩ := hsome hact hok _ (issueMx_ok gv slot names cmd hroom)
  have hbase := State.stream_setStream s r ((s.stream r).mxIssued gv slot names cmd (s.crewAt r).syncAt)
  obtain ⟨hpc, hloops, hseq, hkeep⟩ := mxIssued_keeps (s.stream r) gv slot names cmd (s.crewAt r).syncAt
  have hcore := honly.stream.trans (congrArg (fun v : Stream => Stream.core { v with latches := [] }) hbase)
  have hentered := OnlyCrew.updStream s r Stream.lessMatrix (fun t => t.mxIssued gv slot names cmd (s.crewAt r).syncAt) hkeep
  refine ⟨t, ht, hon.of_base ((congrArg Stream.pc hbase).trans hpc) ((congrArg Stream.loops hbase).trans hloops), hready,
    hentered.trans (honly.mono fun _ _ h => by unfold Stream.lessMatrix; rw [h]), (congrArg Stream.mxSeq hcore :).trans hseq,
    fun hg => ⟨(congrArg Stream.mxOut hcore :).trans ?_, (congrArg Stream.mxQ hcore :).trans ?_⟩,
    fun hg => ⟨(congrArg Stream.mxOut hcore :).trans ?_, (congrArg Stream.mxQ hcore :).trans ?_⟩⟩
  · exact (congrArg Stream.mxOut (if_neg hg) :)
  · exact (congrArg Stream.mxQ (if_neg hg) :)
  · exact (congrArg Stream.mxOut (if_pos hg) :)
  · exact (congrArg Stream.mxQ (if_pos hg) :)

/-! The checks at issue. -/

/-- A check that is made in one case only. -/
theorem check_then {α : Type} {c : Prop} [Decidable c] {x : Except Stop Unit} {k : Except Stop α} (h : c → x = .ok ()) :
    (if c then Except.bind x fun _ => k else k) = k := by
  split
  · rename_i hc
    rw [h hc]
    rfl
  · rfl

/-- One of two checks. -/
theorem choose_then {α : Type} {c : Prop} [Decidable c] {x y : Except Stop Unit} {k : Except Stop α} (hx : c → x = .ok ())
    (hy : ¬c → y = .ok ()) : (if c then Except.bind x fun _ => k else Except.bind y fun _ => k) = k := by
  split
  · rename_i hc
    rw [hx hc]
    rfl
  · rename_i hc
    rw [hy hc]
    rfl


theorem checkTiles_ok {s : State} {r : Nat} {names : List Nat} (h : ∀ n ∈ names, s.gangTile r n < (s.gangAt r).tiles) :
    s.checkTiles r names = .ok () := by
  have hfind : names.find? (fun n => decide ((s.gangAt r).tiles ≤ s.gangTile r n)) = none := by
    simpa using h
  rw [State.checkTiles, hfind]

theorem needResidue_ok {s : State} {r : Nat} (h : rnsOff (s.rnsmapOf r) = false) : s.needResidue r = .ok () := if_neg (by simp [h])

theorem needBlocks_ok {s : State} {r : Nat} {mode : Word} {ok : Nat → Bool} (htype : ok (modeTYPE mode) = true)
    (hblocks : ¬(isB4 (modeTYPE mode) = true ∧ modeBLK mode = 1)) : s.needBlocks r mode ok = .ok () := by
  have hnot : (!(isB4 (modeTYPE mode) && modeBLK mode == 1)) = true := by
    rw [Bool.not_eq_true', Bool.eq_false_iff]
    simpa using hblocks
  simp only [State.needBlocks, htype, hnot, need_true, bind, Except.bind]

theorem checkMxScratch_ok {s : State} {r n : Nat} {lanes : List (Nat × Nat)} {stream : Bool}
    (h : ∀ x ∈ lanes, x.2 % 16 = 0 ∧ x.2 + n ≤ (s.gangAt r).spSize) : s.checkMxScratch r lanes n stream = .ok () := by
  have hodd : lanes.filter (fun x => x.2 % 16 != 0) = [] := List.filter_eq_nil_iff.mpr fun x hx => by simp [(h x hx).1]
  have hout : lanes.filter (fun x => decide ((s.gangAt r).spSize < x.2 + n)) = [] :=
    List.filter_eq_nil_iff.mpr fun x hx => by simp [(h x hx).2]
  simp only [State.checkMxScratch, hodd, hout, ne_eq, not_true_eq_false, if_false]

/-- The address of a command lies in scratchpad or in memory. -/
theorem mxAddress_ok {s : State} {r at_ n : Nat} {sp : Bool}
    (h : if sp then at_ % 16 = 0 ∧ at_ + n ≤ (s.gangAt r).spSize else canonical at_ = true ∧ at_ % 64 = 0) :
    (sp = true → s.checkMxScratch r [(0, at_)] n true = .ok ()) ∧ (¬sp = true → checkMxAddr (s.stream r).em at_ = .ok ()) := by
  refine ⟨fun hsp => checkMxScratch_ok ?_, fun hsp => ?_⟩
  · rw [if_pos hsp] at h
    simpa using h
  · rw [if_neg hsp] at h
    exact checkDesc_ok h.1 h.2

theorem readable_nothing (s : State) (r : Nat) : s.readable r [] none := by
  exact ⟨by simp, by simp, rfl, rfl, by simp [popsOf, distinct], by simp, by simp, rfl⟩

section

variable {s : State} {r : Nat} (gv : Bool) (slot : BitVec 3) (h : s.inHand r) (hhaul : s.haulOk r)
include h hhaul

theorem wload_issues (y : Bool) (a : BitVec 7) (sp : Bool) (wsl : BitVec 6) (hr : s.readable r [mxAddr sp a] none)
    (htype : weightType (modeTYPE (s.stream r).mode1) = true)
    (hblocks : ¬(isB4 (modeTYPE (s.stream r).mode1) = true ∧ modeBLK (s.stream r).mode1 = 1)) :
    MxIssues s r gv slot.toNat (.wload y gv slot a sp wsl) y []
      ((s.stream r).mxCmd .wload 0 wsl.toNat false false sp (s.operand r (mxAddr sp a) 0) [])
      (if sp then s.operand r (mxAddr sp a) 0 % 16 = 0 ∧ s.operand r (mxAddr sp a) 0 + 12800 ≤ (s.gangAt r).spSize
        else canonical (s.operand r (mxAddr sp a) 0) = true ∧ s.operand r (mxAddr sp a) 0 % 64 = 0) := by
  have hpeek : s.peek r 0 [mxAddr sp a] none = .ok (s.peeked r [mxAddr sp a]) := peek_peeked 0 h hr
  refine mxIssues_of (fun hact => ⟨_, run_next h ?_, complete_yields s r y .matrix (s.peeked r [mxAddr sp a]).regs 0⟩)
    fun hact hok v hv => ⟨_, run_next h ?_, complete_yields v r y .matrix (s.peeked r [mxAddr sp a]).regs 0⟩
  · simp only [needHaul_ok hhaul, needBlocks_ok htype hblocks, hpeek, hact, if_true, bind, Except.bind]
    rfl
  · have hissue : (s.peeked r [mxAddr sp a]).st.issueMx r gv slot.toNat []
      ((s.stream r).mxCmd .wload 0 wsl.toNat false false sp ((s.peeked r [mxAddr sp a]).val 0 0) []) = .ok v := hv
    obtain ⟨hscratch, hmemory⟩ := mxAddress_ok hok
    simp only [needHaul_ok hhaul, needBlocks_ok htype hblocks, hpeek, hact, if_false, bind, Except.bind, hissue]
    exact choose_then hscratch hmemory

theorem accz_issues (res : Bool) (tile : BitVec 4) (htile : res = true → tile.toNat ≤ 11) :
    MxIssues s r gv slot.toNat (.accz gv slot res tile) false (tileNames tile.toNat res)
      ((s.stream r).mxCmd .accz tile.toNat 0 false res false 0 [])
      ((∀ n ∈ tileNames tile.toNat res, s.gangTile r n < (s.gangAt r).tiles) ∧ (res = true → rnsOff (s.rnsmapOf r) = false)) := by
  have hpeek : s.peek r 0 [] none = .ok (s.peeked r []) := peek_peeked 0 h (readable_nothing s r)
  have hlow : (!res || decide (tile.toNat ≤ 11)) = true := by cases res <;> simp_all
  refine mxIssues_of (fun hact => ⟨_, run_next h ?_, complete_yields s r false .matrix (s.peeked r []).regs 0⟩)
    fun hact hok v hv => ⟨_, run_next h ?_, complete_yields v r false .matrix (s.peeked r []).regs 0⟩
  · simp only [State.issueTile, needHaul_ok hhaul, hlow, need_true, hpeek, hact, if_true, bind, Except.bind]
    rfl
  · have hissue : (s.peeked r []).st.issueMx r gv slot.toNat (tileNames tile.toNat res)
      ((s.stream r).mxCmd .accz tile.toNat 0 false res false ((s.peeked r []).val 0 0) []) = .ok v := hv
    obtain ⟨htiles, hres⟩ := hok
    simp only [State.issueTile, needHaul_ok hhaul, hlow, need_true, hpeek, hact, if_false, bind, Except.bind, checkTiles_ok htiles,
      Option.isSome_none, Bool.false_eq_true, hissue]
    exact check_then fun hon => needResidue_ok (hres hon)

/-- ACCLD and ACCST. -/
theorem accMove_issues {i : Instr} {op : MxOp} (a : BitVec 7) (res sp : Bool) (tile : BitVec 4)
    (hexec : exec i s = run s fun r => s.issueTile r op gv slot.toNat (some a) res sp tile.toNat)
    (hr : s.readable r [mxAddr sp a] none) (htile : res = true → tile.toNat ≤ 11) :
    MxIssues s r gv slot.toNat i false (tileNames tile.toNat res)
      ((s.stream r).mxCmd op tile.toNat 0 false res sp (s.operand r (mxAddr sp a) 0) [])
      ((∀ n ∈ tileNames tile.toNat res, s.gangTile r n < (s.gangAt r).tiles) ∧ (res = true → rnsOff (s.rnsmapOf r) = false) ∧
        if sp then s.operand r (mxAddr sp a) 0 % 16 = 0 ∧
          s.operand r (mxAddr sp a) 0 + 4096 * (tileNames tile.toNat res).length ≤ (s.gangAt r).spSize
        else canonical (s.operand r (mxAddr sp a) 0) = true ∧ s.operand r (mxAddr sp a) 0 % 64 = 0) := by
  have hpeek : s.peek r 0 [mxAddr sp a] none = .ok (s.peeked r [mxAddr sp a]) := peek_peeked 0 h hr
  have hlow : (!res || decide (tile.toNat ≤ 11)) = true := by cases res <;> simp_all
  refine mxIssues_of (fun hact => ⟨_, hexec.trans (run_next h ?_), complete_yields s r false .matrix (s.peeked r [mxAddr sp a]).regs 0⟩)
    fun hact hok v hv => ⟨_, hexec.trans (run_next h ?_), complete_yields v r false .matrix (s.peeked r [mxAddr sp a]).regs 0⟩
  · simp only [State.issueTile, needHaul_ok hhaul, hlow, need_true, hpeek, hact, if_true, bind, Except.bind]
    rfl
  · have hissue : (s.peeked r [mxAddr sp a]).st.issueMx r gv slot.toNat (tileNames tile.toNat res)
      ((s.stream r).mxCmd op tile.toNat 0 false res sp ((s.peeked r [mxAddr sp a]).val 0 0) []) = .ok v := hv
    obtain ⟨htiles, hres, haddr⟩ := hok
    obtain ⟨hscratch, hmemory⟩ := mxAddress_ok haddr
    simp only [State.issueTile, needHaul_ok hhaul, hlow, need_true, hpeek, hact, if_false, bind, Except.bind, checkTiles_ok htiles,
      Option.isSome_some, if_true, hissue]
    exact (check_then fun hon => needResidue_ok (hres hon)).trans (choose_then hscratch hmemory)

theorem wfree_issues (wsl : BitVec 6) :
    MxIssues s r gv slot.toNat (.wfree gv slot wsl) false [] ((s.stream r).mxCmd .wfree 0 wsl.toNat false false false 0 []) True := by
  refine mxIssues_of (fun hact => ⟨_, run_next h ?_, complete_yields s r false .matrix 0 0⟩)
    fun hact _ v hv => ⟨_, run_next h ?_, complete_yields v r false .matrix 0 0⟩
  · simp only [needHaul_ok hhaul, hact, if_true, bind, Except.bind]
    rfl
  · simp only [needHaul_ok hhaul, hact, if_false, bind, Except.bind, hv]
    rfl

omit h hhaul in
theorem rowWant_ok {a : BitVec 7} (hr : s.readable r [{ f := a.toNat }] none) (hpops : popsOf [{ f := a.toNat }] = []) :
    rowWant s r a = .ok { f := a.toNat } := by
  have ⟨_, _, _, _, _, _, _, hports⟩ := hr
  unfold rowWant
  split
  · rename_i n hq
    simp [popsOf, hq, distinct] at hpops
  · rename_i n ht
    simp [portsOf, ht, distinct] at hports
  · rfl

/-- The lanes and addresses of the rows that QMMA and QMMAR name. -/
def State.rowsOf (s : State) (r : Nat) (a : BitVec 7) : List (Nat × Nat) :=
  (lanesOf ((s.stream r).active false)).map fun i => (i, s.operand r { f := a.toNat } i % 2 ^ 32)

omit h hhaul in
/-- The checks of TYPE, block and tile. -/
theorem rowChecks_then {α : Type} {res : Bool} {tile : BitVec 4} {k : Except Stop α}
    (htype : if res then isInt (modeTYPE (s.stream r).mode0) = true ∧ typeWidth (modeTYPE (s.stream r).mode0) = 8 ∧ tile.toNat ≤ 11
      else rowType (modeTYPE (s.stream r).mode0) = true ∧ ¬(isB4 (modeTYPE (s.stream r).mode0) = true ∧ modeBLK (s.stream r).mode0 = 1)) :
    (if res = true then
      Except.bind (need s r 2 (isInt (modeTYPE (s.stream r).mode0) && typeWidth (modeTYPE (s.stream r).mode0) == 8)) fun _ =>
        Except.bind (need s r 3 (decide (tile.toNat ≤ 11))) fun _ => k
    else Except.bind (s.needBlocks r (s.stream r).mode0 rowType) fun _ => k) = k := by
  cases res with
  | true =>
    obtain ⟨hint, hwidth, htile⟩ := htype
    simp only [if_true, hint, hwidth, decide_eq_true htile, beq_self_eq_true, Bool.and_true, need_true, Except.bind]
  | false =>
    obtain ⟨hrow, hblocks⟩ := htype
    simp only [Bool.false_eq_true, if_false, needBlocks_ok hrow hblocks, Except.bind]

/-- QMMA and QMMAR. -/
theorem rows_issue {i : Instr} (res y : Bool) (a : BitVec 7) (z : Bool) (wsl : BitVec 6) (tile : BitVec 4)
    (hexec : exec i s = run s fun r => s.issueRows r res y gv slot.toNat a z wsl.toNat tile.toNat)
    (hr : s.readable r [{ f := a.toNat }] none) (hpops : popsOf [{ f := a.toNat }] = [])
    (htype : if res then isInt (modeTYPE (s.stream r).mode0) = true ∧ typeWidth (modeTYPE (s.stream r).mode0) = 8 ∧ tile.toNat ≤ 11
      else rowType (modeTYPE (s.stream r).mode0) = true ∧ ¬(isB4 (modeTYPE (s.stream r).mode0) = true ∧ modeBLK (s.stream r).mode0 = 1)) :
    MxIssues s r gv slot.toNat i y (tileNames tile.toNat res)
      ((s.stream r).mxCmd (if res then .qmmar else .qmma) tile.toNat wsl.toNat z res true 0 (s.rowsOf r a))
      ((∀ n ∈ tileNames tile.toNat res, s.gangTile r n < (s.gangAt r).tiles) ∧ (res = true → rnsOff (s.rnsmapOf r) = false) ∧
        ∀ x ∈ s.rowsOf r a, x.2 % 16 = 0 ∧ x.2 + 400 ≤ (s.gangAt r).spSize) := by
  have hpeek := peek_peeked ((s.stream r).active false) h hr
  let p := s.peeked r [{ f := a.toNat }]
  refine mxIssues_of
    (fun hact => ⟨_, hexec.trans (run_next h ?_), commit_yields s r { p with st := s } y .matrix p.regs 0 rfl rfl⟩)
    fun hact hok v hv => ⟨_, hexec.trans (run_next h ?_), commit_yields v r { p with st := v } y .matrix p.regs 0 rfl rfl⟩
  · simp only [State.issueRows, needHaul_ok hhaul, rowWant_ok hr hpops, hpeek, if_pos hact, bind, Except.bind]
    exact rowChecks_then htype
  · have hissue : (s.peeked r [{ f := a.toNat }]).st.issueMx r gv slot.toNat (tileNames tile.toNat res) ((s.stream r).mxCmd
        (if res then .qmmar else .qmma) tile.toNat wsl.toNat z res true 0
        ((lanesOf ((s.stream r).active false)).map fun i => (i, (s.peeked r [{ f := a.toNat }]).val 0 i % 2 ^ 32))) = .ok v := hv
    obtain ⟨htiles, hres, hinside⟩ := hok
    have hscratch : s.checkMxScratch r ((lanesOf ((s.stream r).active false)).map fun i => (i, (s.peeked r [{ f := a.toNat }]).val 0 i % 2 ^ 32))
      400 false = .ok () := checkMxScratch_ok hinside
    simp only [State.issueRows, needHaul_ok hhaul, rowWant_ok hr hpops, hpeek, if_neg hact, bind, Except.bind, checkTiles_ok htiles,
      hscratch, hissue]
    exact (rowChecks_then htype).trans (check_then fun hon => needResidue_ok (hres hon))

end

/-- Settles O49: each instruction issues its command. -/
theorem matrixCommandsIssue : Obligations.MatrixCommandsIssue := by
  intro s r y gv z sp res slot a wsl tile h hhaul u act g less addr at_ names tilesOk fits command issues blocksOk
  refine ⟨fun hr => ⟨fun htype hblocks => wload_issues gv slot h hhaul y a sp wsl hr htype hblocks,
      fun htile => ⟨accMove_issues gv slot h hhaul a res sp tile rfl hr htile, accMove_issues gv slot h hhaul a res sp tile rfl hr htile⟩⟩,
    fun htile => accz_issues gv slot h hhaul res tile htile, wfree_issues gv slot h hhaul wsl, fun hr hpops => ⟨fun htype hblocks => ?_,
      fun hint hwidth htile => ?_⟩⟩
  · have hissues := rows_issue gv slot h hhaul (i := .qmma y gv slot a z wsl tile) false y a z wsl tile rfl hr hpops ⟨htype, hblocks⟩
    exact ⟨hissues.1, fun hact hok => hissues.2 hact ⟨hok.1, (fun h => nomatch h), hok.2⟩⟩
  · have hissues := rows_issue gv slot h hhaul (i := .qmmar y gv slot a z wsl tile) true y a z wsl tile rfl hr hpops ⟨hint, hwidth, htile⟩
    exact ⟨hissues.1, fun hact hok => hissues.2 hact ⟨hok.1, fun _ => hok.2.1, hok.2.2⟩⟩

end Sys2Proof.Machine
end

section
/-! TWAIT and ACCRD (09 R248, R249). -/

namespace Sys2Proof.Machine

/-- A stream that has taken MXERR to a uniform register. -/
def Stream.mxErrTaken (t : Stream) (d : Nat) : Stream := { t.setC d ⟨t.mxerr, 0⟩ with mxerr := 0 }

theorem Stream.mxErrTaken_bank (t : Stream) (d : Nat) (hb : t.regBad = []) :
    t.mxErrTaken d = { t with c := Tab.put d ⟨t.mxerr, 0⟩ t.c, mxerr := 0 } := by
  rw [Stream.mxErrTaken, Stream.setC_bank _ _ _ hb]

/-- What TWAIT leaves that takes MXERR and goes on. -/
theorem takeMxErr_completes {s : State} {r d : Nat} (h : s.inHand r) :
    let t := ((s.updStream r (Stream.mxErrTaken · d)).engineJoin (s.coreNum r)).complete r .matrix 0 0
    let u := s.stream r
    (∀ n, (t.stream r).creg n = if n = d then ⟨u.mxerr, 0⟩ else u.creg n) ∧ (t.stream r).mxerr = 0 ∧
      (t.core (s.coreNum r)).sigIn = 0 ∧ WentOn s t r ∧ t.crews = s.crews ∧ t.gangs = s.gangs ∧ t.hostMem = s.hostMem := by
  intro t u
  obtain ⟨v, hv⟩ : ∃ v, v = (s.updStream r (Stream.mxErrTaken · d)).engineJoin (s.coreNum r) := ⟨_, rfl⟩
  have hjoin : CacheStep (s.updStream r (Stream.mxErrTaken · d)) v := hv ▸ (CacheStep.refl _).engineJoin _
  have hset := u.mxErrTaken_bank d h.2.2
  have hstream : v.stream r = u.mxErrTaken d := (hjoin.same.stream r).trans (State.stream_setStream ..)
  have ht : t = v.complete r .matrix 0 0 := by rw [hv]
  obtain ⟨hcore, hcrew, hpc, hloops⟩ := complete_keeps v r .matrix 0 0
  have honly := OnlyStream.complete v r .matrix 0 0
  rw [← ht] at hcore hcrew hpc hloops honly
  have hrest := honly.rest
  have hwent : WentOn v t r := ⟨hpc, hloops⟩
  rw [hstream] at hcore
  refine ⟨fun n => ?_, (congrArg Stream.mxerr hcore :), ?_, hwent.of_base ?_ ?_, ?_, (congrArg State.gangs hrest :).trans hjoin.gangs,
    (congrArg State.hostMem hrest :).trans (congrArg State.hostMem hjoin.rest :)⟩
  · exact (creg_of_core hcore n).trans (Stream.creg_setC u d n _)
  · refine (congrArg (fun cs => (Tab.get ({} : Core) cs (s.coreNum r)).sigIn) (congrArg State.cores hrest :) :).trans ?_
    rw [hv]
    exact congrArg Core.sigIn (Tab.get_put_same ..)
  · rw [hstream, hset]
  · rw [hstream, hset]
  · refine Eq.trans ?_ hjoin.crews
    rw [ht]
    simp [State.complete, State.chargeInstr, State.charge, State.chargeChain]

/-- TWAIT once its names are checked: it ends, traps or waits. -/
def State.twaitFor (s : State) (r d : Nat) (due : List (Nat × List Nat)) : Except Stop State :=
  if due = [] then .ok (((s.updStream r (Stream.mxErrTaken · d)).engineJoin (s.coreNum r)).complete r .matrix 0 0)
  else match (s.stream r).heldMx fun k => due.any fun x => x.1 == k with
    | some k => .error (s.streamFault r 0x23 k)
    | none => .error (.stall s)

theorem twaitFor_stalls {s : State} {r d : Nat} {due : List (Nat × List Nat)} (hdue : due ≠ [])
    (hheld : ((s.stream r).heldMx fun k => due.any fun x => x.1 == k) = none) : s.twaitFor r d due = .error (.stall s) := by
  rw [State.twaitFor, if_neg hdue, hheld]

theorem twaitFor_traps {s : State} {r d k : Nat} {due : List (Nat × List Nat)} (hdue : due ≠ [])
    (hheld : ((s.stream r).heldMx fun k => due.any fun x => x.1 == k) = some k) :
    s.twaitFor r d due = .error (s.streamFault r 0x23 k) := by
  rw [State.twaitFor, if_neg hdue, hheld]

section

variable {s : State} {r : Nat} {all res : Bool} {d : BitVec 6} {tile : BitVec 4} (h : s.inHand r) (hhaul : s.haulOk r) (hd : d.toNat < 32)
  (hall : all = true → res = false ∧ tile = 0)
include h hhaul hd hall

theorem exec_twait (htiles : all = false → s.checkTiles r (tileNames tile.toNat res) = .ok ()) :
    exec (.twait d all res tile) s = run s fun r =>
      s.twaitFor r d.toNat ((s.stream r).mxOut.filter fun x => all || x.2.any (tileNames tile.toNat res).contains) := by
  have hfields : (!all || (!res && tile == 0)) = true := by
    cases all with
    | false => rfl
    | true => simp [hall rfl]
  refine run_congr h ?_
  simp only [needHaul_ok hhaul, decide_eq_true hd, hfields, need_true, bind, Except.bind]
  exact check_then fun hnot => htiles (by simpa using hnot)

theorem exec_twait_range {n : Nat} (hnot : all = false)
    (hfind : (tileNames tile.toNat res).find? (fun n => decide ((s.gangAt r).tiles ≤ s.gangTile r n)) = some n) :
    exec (.twait d all res tile) s = .next (s.takeTrap r { cause := 0x20, info := w64 n, mask := (s.stream r).em }) := by
  have hcheck : s.checkTiles r (tileNames tile.toNat res) = .error (s.streamFault r 0x20 n) := by rw [State.checkTiles, hfind]
  refine run_trap h ?_
  simp only [needHaul_ok hhaul, decide_eq_true hd, hnot, Bool.not_false, Bool.true_or, need_true, if_true, bind, Except.bind, hcheck]
  rfl

end

/-- ACCRD reads its tiles where no word it names is bad. -/
theorem accrd_completes {s : State} {r : Nat} {nw res : Bool} {d : BitVec 6} {tile : BitVec 4} {b : BitVec 7} {m : Bool} (h : s.inHand r)
    (hwork : s.workOk r) (htype : modeTYPE ((s.stream r).mode m) ∈ [3, 8, 12]) (hd : d.toNat + (tileNames tile.toNat res).length ≤ 56)
    (hlow : res = true → tile.toNat ≤ 11) (hr : s.readable r [{ f := b.toNat }] none)
    (harr : (s.stream r).arrived d.toNat (tileNames tile.toNat res).length)
    (htiles : ∀ n ∈ tileNames tile.toNat res, s.gangTile r n < (s.gangAt r).tiles)
    (hgood : ∀ n ∈ tileNames tile.toNat res, ∀ i ∈ lanesOf ((s.stream r).active m),
      ((s.gangAt r).tile (s.gangTile r n)).poison.contains ((s.operand r { f := b.toNat } i % 1024 + i) % 1024 / 32) = false) :
    exec (.accrd nw d res tile b m) s = .next (((State.commit r (s.peeked r [{ f := b.toNat }])).writeRegs r d.toNat nw ((s.stream r).active m)
      ((tileNames tile.toNat res).map fun n => fun i : Nat =>
        (⟨w32 (((s.gangAt r).tile (s.gangTile r n)).word ((s.operand r { f := b.toNat } i % 1024 + i) % 1024)),
          Label.join (Label.join ((s.gangAt r).tile (s.gangTile r n)).label (s.operandLabel r { f := b.toNat } i))
            ((s.stream r).guardLabel m)⟩ : LV))).complete r .matrix (s.peeked r [{ f := b.toNat }]).regs 0) := by
  have htype' : (fun t => t == 3 || t == 8 || t == 12) (modeTYPE ((s.stream r).mode m)) = true := by simpa [or_assoc] using htype
  have hfit : (decide (d.toNat + (tileNames tile.toNat res).length ≤ 56) && (!res || decide (tile.toNat ≤ 11))) = true := by
    rw [decide_eq_true hd]
    cases res with
    | false => rfl
    | true => simp [hlow rfl]
  have hclean : (tileNames tile.toNat res).find? (fun n => (lanesOf ((s.stream r).active m)).any fun i =>
      ((s.gangAt r).tile (s.gangTile r n)).poison.contains (((s.peeked r [{ f := b.toNat }]).val 0 i % 1024 + i) % 1024 / 32)) = none := by
    rw [List.find?_eq_none]
    intro n hn hany
    obtain ⟨i, hi, hbad⟩ := List.any_eq_true.mp hany
    exact Bool.false_ne_true ((hgood n hn i hi).symm.trans hbad)
  refine run_next h ?_
  simp only [needWork_ok hwork, typeIn_ok (ok := fun t => t == 3 || t == 8 || t == 12) htype', hfit, need_true, peek_peeked _ h hr, needArrived_ok harr, checkTiles_ok htiles, bind,
    Except.bind, hclean]
  rfl

/-- Settles O50: TWAIT's cases, and ACCRD as one write of its rows. -/
theorem tilesAreAwaitedAndRead : Obligations.TilesAreAwaitedAndRead := by
  intro s r nw all res d tile b m h u names due
  refine ⟨fun hhaul hd hall => ⟨fun n hnot hfind => exec_twait_range h hhaul hd hall hnot hfind, fun htiles => ?_⟩,
    fun hwork htype hd hlow => ?_⟩
  · have hexec := exec_twait h hhaul hd hall fun hnot => checkTiles_ok (htiles hnot)
    refine ⟨fun hdue => ⟨_, hexec.trans (run_next h (if_pos hdue)), takeMxErr_completes h⟩,
      fun hdue hheld => hexec.trans (run_stall h (twaitFor_stalls hdue hheld)),
      fun k hdue hheld => hexec.trans (run_trap h (twaitFor_traps hdue hheld))⟩
  · intro act src word t hr harr htiles hgood
    exact ⟨_, accrd_completes h hwork htype hd hlow hr harr htiles hgood, commit_writeRegs ..⟩

end Sys2Proof.Machine
end

section
/-! COLL and COLLW (10 R277 to R279). -/

namespace Sys2Proof.Machine

/-- What an instruction leaves that changes only its stream after a step of the caches, and then goes on. -/
theorem after_caches {s b v : State} {r : Nat} {f : Stream → Stream} {c : Cls} {reads : Nat} (hstep : CacheStep s b)
    (hv : v.stream r = f (b.stream r)) (hpc : (f (s.stream r)).pc = (s.stream r).pc)
    (hloops : (f (s.stream r)).loops = (s.stream r).loops) :
    let t := v.complete r c reads 0
    WentOn s t r ∧ (t.stream r).core = (f (s.stream r)).core := by
  have hstream : v.stream r = f (s.stream r) := hv.trans (congrArg f (hstep.same.stream r))
  obtain ⟨hcore, -, hwent⟩ := complete_keeps v r c reads 0
  exact ⟨WentOn.of_base (b := v) hwent (by rw [hstream, hpc]) (by rw [hstream, hloops]), hcore.trans (by rw [hstream])⟩

section

variable {s : State} {r : Nat} {gv : Bool} {slot : BitVec 3} {a : BitVec 7} {op : BitVec 4}

/-- The command that COLL enters. -/
def Stream.collCmd (t : Stream) (id r : Nat) (gv : Bool) (slot op addr : Nat) : Coll :=
  { id, stream := r, num := (t.collNum + 1).toNat, op, descAddr := w64 addr,
    guard := if t.issueGuard gv slot = .unset then some slot else none, err := 0 }

/-- The state in which COLL has made its release and taken its number. -/
def State.collBegun (s : State) (r : Nat) : State :=
  (s.release (s.coreNum r) 7).updStream r fun t => { t with collNum := (s.stream r).collNum + 1 }

/-- COLL has entered its command. -/
def State.collEntered (s : State) (r : Nat) (gv : Bool) (slot op addr : Nat) : State :=
  ({ s.collBegun r with
    fresh := (s.collBegun r).fresh + 1,
    colls := (s.collBegun r).colls ++ [(s.stream r).collCmd (s.collBegun r).fresh r gv slot op addr] } : State).updStream r fun v =>
      { v with collsOut := v.collsOut ++ [((s.stream r).collNum + 1).toNat] }

theorem coll_enters (h : s.inHand r) (hhaul : s.haulOk r)
    (hop : op.toNat < 6) (hr : s.readable r [uniPair a] none) (hact : (s.stream r).active false ≠ 0)
    (hcan : canonical (s.operand r (uniPair a) 0) = true) (halign : s.operand r (uniPair a) 0 % 64 = 0)
    (hroom : (s.stream r).collsOut.length < 8) (hwait : s.domainWait (s.coreNum r) 7 = none) :
    exec (.coll gv slot a op) s = .next ((if (s.stream r).issueGuard gv slot.toNat = .off then s.collBegun r
      else s.collEntered r gv slot.toNat op.toNat (s.operand r (uniPair a) 0)).complete r .memory (s.peeked r [uniPair a]).regs 0) := by
  have hpeek : s.peek r 0 [uniWant a] none = .ok (s.peeked r [uniPair a]) := peek_peeked 0 h hr
  have hdesc : checkDesc (s.stream r).em ((s.peeked r [uniPair a]).val 0 0) = .ok () := checkDesc_ok hcan halign
  refine run_next h ?_
  simp only [needHaul_ok hhaul, decide_eq_true hop, need_true, hpeek, hact, if_false, hdesc, bind, Except.bind,
    if_neg (Nat.not_le.mpr hroom), hwait]
  by_cases hoff : (s.stream r).issueGuard gv slot.toNat = .off
  · rw [if_pos hoff]
    exact if_pos hoff
  · rw [if_neg hoff]
    exact if_neg hoff

end

/-- COLL leaves the stream with its number taken, and with the guard slot false nothing else. -/
theorem collBegun_completes (s : State) (r reads : Nat) :
    let t := (s.collBegun r).complete r .memory reads 0
    WentOn s t r ∧ (t.stream r).collNum = (s.stream r).collNum + 1 ∧ t.mem = (s.release (s.coreNum r) 7).mem ∧
      t.colls = s.colls ∧ (t.stream r).collsOut = (s.stream r).collsOut := by
  intro t
  have hstep : CacheStep s (s.release (s.coreNum r) 7) := (CacheStep.refl s).release ..
  obtain ⟨hon, hcore⟩ := after_caches (v := s.collBegun r) (f := fun t => { t with collNum := (s.stream r).collNum + 1 }) (c := .memory)
    (reads := reads) hstep (State.stream_setStream ..) rfl rfl
  have hrest := (OnlyStream.complete (s.collBegun r) r .memory reads 0).rest
  exact ⟨hon, (congrArg Stream.collNum hcore :), (congrArg State.mem hrest :),
    (congrArg State.colls hrest :).trans (congrArg State.colls hstep.rest :), (congrArg Stream.collsOut hcore :)⟩

theorem collEntered_completes (s : State) (r reads : Nat) (gv : Bool) (slot op addr : Nat) :
    let t := (s.collEntered r gv slot op addr).complete r .memory reads 0
    WentOn s t r ∧ (t.stream r).collNum = (s.stream r).collNum + 1 ∧ t.mem = (s.release (s.coreNum r) 7).mem ∧
      (t.stream r).collsOut = (s.stream r).collsOut ++ [((s.stream r).collNum + 1).toNat] ∧
      t.colls = s.colls ++ [(s.stream r).collCmd (s.release (s.coreNum r) 7).fresh r gv slot op addr] := by
  intro t
  have hstep : CacheStep s (s.release (s.coreNum r) 7) := (CacheStep.refl s).release ..
  have hstream : (s.collEntered r gv slot op addr).stream r = { (s.release (s.coreNum r) 7).stream r with
      collNum := (s.stream r).collNum + 1,
      collsOut := ((s.release (s.coreNum r) 7).stream r).collsOut ++ [((s.stream r).collNum + 1).toNat] } :=
    (State.stream_setStream ..).trans (congrArg (fun v : Stream => { v with collsOut := v.collsOut ++ [((s.stream r).collNum + 1).toNat] })
      (State.stream_setStream ..))
  obtain ⟨hon, hcore⟩ := after_caches (v := s.collEntered r gv slot op addr) (f := fun t => { t with
    collNum := (s.stream r).collNum + 1, collsOut := t.collsOut ++ [((s.stream r).collNum + 1).toNat] }) (c := .memory)
    (reads := reads) hstep hstream rfl rfl
  have hrest := (OnlyStream.complete (s.collEntered r gv slot op addr) r .memory reads 0).rest
  refine ⟨hon, (congrArg Stream.collNum hcore :), (congrArg State.mem hrest :), (congrArg Stream.collsOut hcore :),
    (congrArg State.colls hrest :).trans ?_⟩
  exact congrArg (· ++ [(s.stream r).collCmd (s.release (s.coreNum r) 7).fresh r gv slot op addr]) (congrArg State.colls hstep.rest :)

/-- A stream that has taken the status of its collectives to a uniform register. -/
def Stream.collTaken (t : Stream) (d : Nat) : Stream := { t.setC d ⟨t.collStat, 0⟩ with collStat := 0 }

theorem Stream.collTaken_bank (t : Stream) (d : Nat) (hb : t.regBad = []) :
    t.collTaken d = { t with c := Tab.put d ⟨t.collStat, 0⟩ t.c, collStat := 0 } := by
  rw [Stream.collTaken, Stream.setC_bank _ _ _ hb]

/-- Settles O52: COLL's cases by its guard slot, and COLLW as one change of its stream and a step of the caches. -/
theorem collectivesAreEnteredAndAwaited : Obligations.CollectivesAreEnteredAndAwaited := by
  intro s r gv slot d a op h hhaul u g addr
  refine ⟨fun hop hr => ⟨fun hact => ?none, fun hact hcan halign => ⟨fun hfull => ?full, fun hroom hwait => ?enters⟩⟩,
    fun hd hr => ?awaits⟩
  case none =>
    obtain ⟨-, hcrew, hwent⟩ := complete_keeps s r .memory (s.peeked r [uniPair a]).regs 0
    refine ⟨_, run_next h ?_, hwent, OnlyStream.complete s r .memory (s.peeked r [uniPair a]).regs 0⟩
    have hpeek : s.peek r 0 [uniWant a] none = .ok (s.peeked r [uniPair a]) := peek_peeked 0 h hr
    simp only [needHaul_ok hhaul, decide_eq_true hop, need_true, hpeek, show (s.stream r).active false = 0 from hact, if_true, bind, Except.bind]
    rfl
  case full =>
    have hpeek : s.peek r 0 [uniWant a] none = .ok (s.peeked r [uniPair a]) := peek_peeked 0 h hr
    have hdesc : checkDesc (s.stream r).em ((s.peeked r [uniPair a]).val 0 0) = .ok () := checkDesc_ok hcan halign
    refine run_stall h ?_
    simp only [needHaul_ok hhaul, decide_eq_true hop, need_true, hpeek, show (s.stream r).active false ≠ 0 from hact, if_false, hdesc, bind, Except.bind]
    exact if_pos hfull
  case enters =>
    intro after
    have hexec := coll_enters (gv := gv) (slot := slot) h hhaul hop hr hact hcan halign hroom hwait
    by_cases hoff : g = .off
    · rw [show (s.stream r).issueGuard gv slot.toNat = .off from hoff, if_pos rfl] at hexec
      obtain ⟨hon, hnum, hmem, hcolls, hout⟩ := collBegun_completes s r (s.peeked r [uniPair a]).regs
      exact ⟨_, hexec, hon, hnum, hmem, fun _ => ⟨hcolls, hout⟩, fun hne => absurd hoff hne⟩
    · rw [if_neg (show ¬(s.stream r).issueGuard gv slot.toNat = .off from hoff)] at hexec
      obtain ⟨hon, hnum, hmem, hout, hcolls⟩ := collEntered_completes s r (s.peeked r [uniPair a]).regs gv slot.toNat op.toNat addr
      exact ⟨_, hexec, hon, hnum, hmem, fun hg => absurd hg hoff, fun _ => ⟨hout, hcolls⟩⟩
  case awaits =>
    intro n pending
    have hpeek : s.peek r 0 [{ f := a.toNat, allow := .uni }] none = .ok (s.peeked r [uni a]) := peek_peeked 0 h hr
    have hpending : (if srcOf a.toNat = .z then !(s.stream r).collsOut.isEmpty
        else (s.stream r).collPending (BitVec.ofNat 16 ((s.peeked r [uni a]).val 0 0))) = pending := if_congr srcOf_z rfl rfl
    refine ⟨fun hp => run_stall h ?_, fun hp => ?_⟩
    · simp only [needHaul_ok hhaul, decide_eq_true hd, need_true, hpeek, hpending, bind, Except.bind]
      exact if_pos hp
    · have hset := u.collTaken_bank d.toNat h.2.2
      obtain ⟨v, hv⟩ : ∃ v, v = ((s.updStream r (Stream.collTaken · d.toNat)).engineJoin (s.coreNum r)).acquire (s.coreNum r) 7 := ⟨_, rfl⟩
      have hstep : CacheStep (s.updStream r (Stream.collTaken · d.toNat)) v := hv ▸ ((CacheStep.refl _).engineJoin _).acquire ..
      have hstream : v.stream r = u.collTaken d.toNat := (hstep.same.stream r).trans (State.stream_setStream ..)
      obtain ⟨hcore, -, hwent⟩ := complete_keeps v r .memory (s.peeked r [uni a]).regs 0
      have hrest := (OnlyStream.complete v r .memory (s.peeked r [uni a]).regs 0).rest
      rw [hstream] at hcore
      refine ⟨v.complete r .memory (s.peeked r [uni a]).regs 0, run_next h ?_,
        WentOn.of_base (b := v) hwent (by rw [hstream, hset]) (by rw [hstream, hset]), (congrArg Stream.collStat hcore :),
        fun k => (creg_of_core hcore k).trans (Stream.creg_setC u d.toNat k _),
        (congrArg State.gangs hrest :).trans hstep.gangs, (congrArg State.hostMem hrest :).trans (congrArg State.hostMem hstep.rest :)⟩
      simp only [needHaul_ok hhaul, decide_eq_true hd, need_true, hpeek, hpending, bind, Except.bind]
      rw [hv]
      exact if_neg (by rw [hp]; exact Bool.false_ne_true)

end Sys2Proof.Machine
end

section
/-! TRIG, WAITD and LAUNCH (10 R271 to R273). -/

namespace Sys2Proof.Machine

theorem contains_added (xs : List Nat) (x : Nat) : (if xs.contains x then xs else xs ++ [x]).contains x = true := by
  split
  · assumption
  · simp

/-- What TRIG leaves before it goes on. -/
def State.trigMarked (s : State) (r : Nat) : State :=
  ((s.release (s.gangAt r).core 6).updGang (gangOf r) fun g => { g with triggered := true }).updNode (s.gangAt r).node fun n =>
    { n with trigGangs := if n.trigGangs.contains (s.gangAt r).gangid then n.trigGangs else n.trigGangs ++ [(s.gangAt r).gangid] }

theorem trig_completes {s : State} {r : Nat} (h : s.inHand r) (hhaul : s.haulOk r) :
    ∃ t, exec .trig s = .next t ∧ (t.gangAt r).triggered = true ∧
      (t.node (s.gangAt r).node).trigGangs.contains (s.gangAt r).gangid = true ∧ WentOn s t r ∧
      OnlyStream (s.trigMarked r) t r Stream.core := by
  have hstep : CacheStep s (s.release (s.gangAt r).core 6) := (CacheStep.refl s).release ..
  have hexec : exec .trig s = .next ((s.trigMarked r).complete r .memory 0 0) := run_next h (by
    simp only [needHaul_ok hhaul, bind, Except.bind]
    rfl)
  have honly := OnlyStream.complete (s.trigMarked r) r .memory 0 0
  obtain ⟨hon, -⟩ := after_caches (v := s.trigMarked r) (f := id) (c := .memory) (reads := 0) hstep rfl rfl rfl
  refine ⟨_, hexec, ?_, ?_, hon, honly⟩
  · refine (congrArg (fun gs => (Tab.get ({} : Gang) gs (gangOf r)).triggered) (congrArg State.gangs honly.rest :) :).trans ?_
    exact congrArg Gang.triggered (Tab.get_put_same ..)
  · refine (congrArg (fun n : Node => n.trigGangs.contains (s.gangAt r).gangid) (honly.nodes (s.gangAt r).node) :).trans ?_
    have hnode : (s.trigMarked r).node (s.gangAt r).node = _ := Tab.get_put_same ..
    rw [hnode]
    exact contains_added ..

theorem waitd_ends {s : State} {r : Nat} (h : s.inHand r) (hhaul : s.haulOk r) (hholds : s.waitdHolds (gangOf r) = true) :
    ∃ t, exec .waitd s = .next t ∧ WentOn s t r ∧ t.gangs = s.gangs ∧ t.hostMem = s.hostMem ∧ (t.stream r).v = (s.stream r).v ∧
      (t.stream r).c = (s.stream r).c := by
  have hstep : CacheStep s (s.acquire (s.coreNum r) 6) := (CacheStep.refl s).acquire ..
  have hexec : exec .waitd s = .next (((s.acquire (s.coreNum r) 6).complete r .memory 0 0).yieldIf r !(s.stream r).wait.isSome) :=
    run_next h (by
      simp only [needHaul_ok hhaul, hholds, if_true, bind, Except.bind, ← endWait_eq]
      rfl)
  obtain ⟨hon, -, honly⟩ := complete_yields (s.acquire (s.coreNum r) 6) r (!(s.stream r).wait.isSome) .memory 0 0
  have hstream := hstep.same.stream r
  have hkeep := honly.stream
  rw [hstream] at hkeep
  exact ⟨_, hexec, hon.of_base (congrArg Stream.pc hstream) (congrArg Stream.loops hstream),
    (congrArg State.gangs honly.rest :).trans hstep.gangs, (congrArg State.hostMem honly.rest :).trans (congrArg State.hostMem hstep.rest :),
    (congrArg Stream.v hkeep :), (congrArg Stream.c hkeep :)⟩

theorem waitd_waits {s : State} {r : Nat} (h : s.inHand r) (hhaul : s.haulOk r) (hholds : s.waitdHolds (gangOf r) = false) :
    ∃ t, exec .waitd s = .next t ∧ (t.stream r).wait = some .waitd ∧ (t.stream r).pc = (s.stream r).pc ∧ (t.crewAt r).place = .waiting := by
  obtain ⟨hkeep, hplace⟩ := waitOut_waits s r .waitd
  refine ⟨_, run_next h ?_, (congrArg Stream.wait hkeep :), (congrArg Stream.pc hkeep :), hplace⟩
  simp only [needHaul_ok hhaul, hholds, Bool.false_eq_true, if_false, bind, Except.bind]
  rfl

section

variable {s : State} {r : Nat} {a : BitVec 7} {m : Bool} (h : s.inHand r) (hhaul : s.haulOk r) (hr : s.readable r [uniPair a] none)
include h hhaul hr

/-- LAUNCH is what the offer of its descriptor answers. -/
theorem exec_launch (hact : (s.stream r).active m ≠ 0) (hcan : canonical (s.operand r (uniPair a) 0) = true)
    (halign : s.operand r (uniPair a) 0 % 64 = 0) :
    exec (.launch a m) s = run s fun r =>
      match (s.release (s.gangAt r).core 6).offer (s.gangAt r).part { addr := w64 (s.operand r (uniPair a) 0), origin := .launch }
        (some (s.gangAt r).rcbptr) with
      | .rejected _ _ => .error (s.streamFault r 0x27 (s.operand r (uniPair a) 0))
      | .waits _ => .error (.stall s)
      | .accepted _ v => .ok (v.complete r .memory (s.peeked r [uniPair a]).regs 0) := by
  have hpeek : s.peek r 0 [{ f := a.toNat, wide := true, allow := .uni }] none = .ok (s.peeked r [uniPair a]) := peek_peeked 0 h hr
  have hdesc : checkDesc (s.stream r).em ((s.peeked r [uniPair a]).val 0 0) = .ok () := checkDesc_ok hcan halign
  refine run_congr h ?_
  simp only [needHaul_ok hhaul, hpeek, hact, if_false, hdesc, bind, Except.bind]
  rfl

/-- What an instruction leaves that of no lane does nothing. -/
theorem idle_of {i : Instr} (hexec : exec i s = .next (s.complete r .memory (s.peeked r [uniPair a]).regs 0)) :
    ∃ t, exec i s = .next t ∧ WentOn s t r ∧ t.crews = s.crews ∧ OnlyStream s t r Stream.core := by
  obtain ⟨-, -, hwent⟩ := complete_keeps s r .memory (s.peeked r [uniPair a]).regs 0
  refine ⟨_, hexec, hwent, ?_, OnlyStream.complete ..⟩
  simp [State.complete, State.chargeInstr, State.charge, State.chargeChain]

end

end Sys2Proof.Machine
end

section
/-! SOPEN and SSEAL (10 R274, R275). -/

namespace Sys2Proof.Machine

/-- Finding a staged page is a step of the caches. -/
theorem stagedPage_step {s v : State} {r addr : Nat} {x : Nat × Nat × Nat} (h : s.stagedPage r addr = .ok (x, v)) : CacheStep s v := by
  have hwalk := (CacheStep.refl s).translate (s.gangAt r).core (s.gangAt r).part (s.gangAt r).node (va56 addr)
  unfold State.stagedPage at h
  dsimp only at h
  split at h
  · cases h
  · split at h
    · cases h
    · split at h
      · rename_i e u heq
        rw [heq] at hwalk
        split at h
        · cases h
        · split at h
          · cases h
          · obtain ⟨-, rfl⟩ := Prod.mk.inj (Except.ok.inj h)
            exact hwalk
      · cases h

/-- A stream in its slot that waits for a page. -/
def State.waitFor (s : State) (r : Nat) (w : Wait) : State := s.updStream r fun t => { t with wait := some w }

/-- What SOPEN does with the page it found. -/
def State.sopenPage (s v : State) (r d addr reads i pair key : Nat) (keep : Bool) : Except Stop State :=
  let ver := (v.pair key).version
  if v.pageSt key = .opened then
    if (v.ver key ver).node ≠ some (v.node (v.nodeNum r)).uid then .error (s.streamFault r 0x24 addr)
    else if (v.pair key).filling then .ok (v.waitFor r (.sopen key ver false))
    else .ok ((v.opens r d key ver).complete r .memory reads 0)
  else if ver = 2 ^ 32 - 1 then .error (s.streamFault r 0x24 addr)
  else
    let w := v.openVersion (v.nodeNum r) i pair key keep
    .ok (w.waitFor r (.sopen key (w.pair key).version false))

/-- What SSEAL does with the page it found. -/
def State.ssealPage (s v : State) (r addr key : Nat) : Except Stop State :=
  let ver := (v.pair key).version
  match (v.gangAt r).placeOf key with
  | some (i, w) => if i = r % 32 then .ok (v.waitFor r (.sseal key w false)) else .error (s.streamFault r 0x24 addr)
  | none =>
    if !v.sealable r key then .error (s.streamFault r 0x24 addr)
    else .ok (((v.updPair key fun p => { p with places := p.places + 1 }).updGang (gangOf r) fun g =>
      { g with places := g.places ++ [(r % 32, key, ver)] }).waitFor r (.sseal key ver false))

/-- SSEAL has taken a place of the seal count. -/
def State.placed (v : State) (r key : Nat) : State :=
  (v.updPair key fun p => { p with places := p.places + 1 }).updGang (gangOf r) fun g =>
    { g with places := g.places ++ [(r % 32, key, (v.pair key).version)] }

theorem ssealPage_place {s v : State} {r addr key : Nat} (hplace : (v.gangAt r).placeOf key = none) (hok : v.sealable r key = true) :
    s.ssealPage v r addr key = .ok ((v.placed r key).waitFor r (.sseal key (v.pair key).version false)) := by
  simp only [State.ssealPage, hplace, hok, Bool.not_true, Bool.false_eq_true, if_false]
  rfl

section

variable {s : State} {r : Nat} {d : BitVec 6} {a : BitVec 7} {keep m : Bool} (h : s.inHand r) (hhaul : s.haulOk r) (hd : d.toNat < 32)
  (hr : s.readable r [uniPair a] none) (hact : (s.stream r).active m ≠ 0)
include h hhaul hd hr hact

theorem exec_sopen {i pair key : Nat} {v : State} (hpage : s.stagedPage r (s.operand r (uniPair a) 0) = .ok ((i, pair, key), v))
    (hfresh : ∀ k w, (s.stream r).wait ≠ some (.sopen k w true)) :
    exec (.sopen d a keep m) s = run s fun r =>
      s.sopenPage v r d.toNat (s.operand r (uniPair a) 0) (s.peeked r [uniPair a]).regs i pair key keep := by
  have hpeek : s.peek r 0 [{ f := a.toNat, wide := true, allow := .uni }] none = .ok (s.peeked r [uniPair a]) := peek_peeked 0 h hr
  refine run_congr h ?_
  have hpage' : (s.peeked r [uniPair a]).st.stagedPage r ((s.peeked r [uniPair a]).val 0 0) = .ok ((i, pair, key), v) := hpage
  simp only [needHaul_ok hhaul, decide_eq_true hd, need_true, hpeek, hact, if_false, hpage', bind, Except.bind]
  rfl

theorem exec_sopen_returns {key w : Nat} (hw : (s.stream r).wait = some (.sopen key w true)) :
    exec (.sopen d a keep m) s = .next ((s.opens r d.toNat key w).complete r .memory (s.peeked r [uniPair a]).regs 0) := by
  have hpeek : s.peek r 0 [{ f := a.toNat, wide := true, allow := .uni }] none = .ok (s.peeked r [uniPair a]) := peek_peeked 0 h hr
  refine run_next h ?_
  simp only [needHaul_ok hhaul, decide_eq_true hd, need_true, hpeek, hact, if_false, bind, Except.bind, hw]
  rfl

theorem exec_sseal {i pair key : Nat} {v : State} (hpage : s.stagedPage r (s.operand r (uniPair a) 0) = .ok ((i, pair, key), v))
    (hfresh : ∀ k w, (s.stream r).wait ≠ some (.sseal k w true)) :
    exec (.sseal d a m) s = run s fun r => s.ssealPage v r (s.operand r (uniPair a) 0) key := by
  have hpeek : s.peek r 0 [{ f := a.toNat, wide := true, allow := .uni }] none = .ok (s.peeked r [uniPair a]) := peek_peeked 0 h hr
  refine run_congr h ?_
  have hpage' : (s.peeked r [uniPair a]).st.stagedPage r ((s.peeked r [uniPair a]).val 0 0) = .ok ((i, pair, key), v) := hpage
  simp only [needHaul_ok hhaul, decide_eq_true hd, need_true, hpeek, hact, if_false, hpage', bind, Except.bind]
  rfl

theorem exec_sseal_returns {key w : Nat} (hw : (s.stream r).wait = some (.sseal key w true)) :
    exec (.sseal d a m) s = .next ((s.updStream r fun t => t.setC d.toNat ⟨w32 w, 0⟩).complete r .memory (s.peeked r [uniPair a]).regs 0) := by
  have hpeek : s.peek r 0 [{ f := a.toNat, wide := true, allow := .uni }] none = .ok (s.peeked r [uniPair a]) := peek_peeked 0 h hr
  refine run_next h ?_
  simp only [needHaul_ok hhaul, decide_eq_true hd, need_true, hpeek, hact, if_false, bind, Except.bind, hw]
  rfl

end

/-- What SOPEN leaves that returns a version. -/
theorem opens_completes {v : State} {r d key w reads : Nat} (hbank : (v.stream r).regBad = []) :
    let t := (v.opens r d key w).complete r .memory reads 0
    WentOn v t r ∧ t.crews = v.crews ∧ (∀ n, (t.stream r).creg n = if n = d then ⟨w32 w, 0⟩ else (v.stream r).creg n) ∧
      ((v.pair key).version = w → (t.gangAt r).opened.contains key = true) := by
  intro t
  obtain ⟨b, hb⟩ : ∃ b, b = if (v.pair key).version ≠ w then v else v.updGang (gangOf r) fun g =>
    { g with opened := if g.opened.contains key then g.opened else g.opened ++ [key] } := ⟨_, rfl⟩
  have hstream : b.stream r = v.stream r := by rw [hb]; split <;> rfl
  have hcrews : b.crews = v.crews := by rw [hb]; split <;> rfl
  have ht : t = (b.updStream r fun t => t.setC d ⟨w32 w, 0⟩).complete r .memory reads 0 := by rw [hb]; rfl
  have hset := (b.stream r).setC_bank d ⟨w32 w, 0⟩ (hstream ▸ hbank)
  obtain ⟨hcore, hon, hcrews', honly⟩ := upd_complete (s := b) (r := r) (f := fun t => t.setC d ⟨w32 w, 0⟩) (e := Stream.lessUni)
    .memory reads 0 (by rw [hset]) (by rw [hset]) (by rw [hset]; rfl) lessUni_core
  rw [← ht] at hcore hon hcrews' honly
  refine ⟨hon.of_base (congrArg Stream.pc hstream) (congrArg Stream.loops hstream), hcrews'.trans hcrews, fun n => ?_, fun hw => ?_⟩
  · rw [creg_of_core hcore, Stream.creg_setC, hstream]
  · refine (congrArg (fun gs => (Tab.get ({} : Gang) gs (gangOf r)).opened.contains key) (congrArg State.gangs honly.rest :) :).trans ?_
    rw [hb, if_neg (not_not.mpr hw)]
    exact (congrArg (fun g : Gang => g.opened.contains key) (Tab.get_put_same ..) :).trans (contains_added ..)

/-- A new version of a page is one above its last and is to be filled. -/
theorem openVersion_pair (v : State) (n i pair key : Nat) (keep : Bool) (hkey : key = pair ∨ (Tab.find key v.pairs).isSome = true) :
    ((v.openVersion n i pair key keep).pair key).version = (v.pair key).version + 1 ∧
      ((v.openVersion n i pair key keep).pair key).filling = true := by
  obtain ⟨b, hb⟩ : ∃ b, b = if (Tab.find key v.pairs).isSome then v
    else v.setPair key { version := if key = pair then 0 else (v.pair pair).version } := ⟨_, rfl⟩
  have hversion : (b.pair key).version = (v.pair key).version := by
    rw [hb]
    split
    · rfl
    · rename_i hnone
      obtain rfl := hkey.resolve_right hnone
      have hget : v.pair key = {} := by
        simp [State.pair, Tab.get, Option.not_isSome_iff_eq_none.mp hnone]
      have hput : (v.setPair key { version := if key = key then 0 else (v.pair key).version }).pair key = _ := Tab.get_put_same ..
      rw [hput, hget]
      exact if_pos rfl
  obtain ⟨c, hc⟩ : ∃ c, c = (if keep ∧ (b.carried key (b.pair key).version).2.2 = true ∧
      (b.ver (b.carried key (b.pair key).version).1 (b.carried key (b.pair key).version).2.1).st = .sealed
    then b.enterRead n ⟨none, (b.carried key (b.pair key).version).1, (b.carried key (b.pair key).version).2.1⟩ else b) := ⟨_, rfl⟩
  have hpair : (v.openVersion n i pair key keep).pair key = { c.pair key with
      version := (b.pair key).version + 1, part := partOfNode n, page := ((v.node n).desc.staged.getD i []).getD 0 0,
      sealCount := bits (wordAt ((v.node n).desc.staged.getD i []) 1) 63 40, places := 0, seals := 0, filling := true, carry := keep,
      vers := Tab.put ((b.pair key).version + 1) ⟨.opened, some (v.node n).uid, none, (v.node n).doomed⟩ (c.pair key).vers } := by
    rw [hc, hb]
    exact Tab.get_put_same ..
  rw [hpair]
  exact ⟨congrArg (· + 1) hversion, rfl⟩

/-- Settles O51: each instruction is what its page, its offer or its wait makes of it. -/
theorem nodeInstructionsComplete : Obligations.NodeInstructionsComplete := by
  intro s r d a keep m h hhaul u g trapped idle marked
  refine ⟨trig_completes h hhaul, waitd_ends h hhaul, waitd_waits h hhaul, fun hr => ?_⟩
  intro addr
  have hpeek : s.peek r 0 [{ f := a.toNat, wide := true, allow := .uni }] none = .ok (s.peeked r [uniPair a]) := peek_peeked 0 h hr
  refine ⟨fun hact => ⟨idle_of h hhaul hr (run_next h ?_), fun hd => ⟨idle_of h hhaul hr (run_next h ?_), idle_of h hhaul hr (run_next h ?_)⟩⟩,
    fun hact hcan halign => ?launch, fun hact hd i pair key v hpage => ?page, fun hact hd key w => ?returns⟩
  · simp only [needHaul_ok hhaul, hpeek, show (s.stream r).active m = 0 from hact, if_true, bind, Except.bind]
    rfl
  · simp only [needHaul_ok hhaul, decide_eq_true hd, need_true, hpeek, show (s.stream r).active m = 0 from hact, if_true, bind, Except.bind]
    rfl
  · simp only [needHaul_ok hhaul, decide_eq_true hd, need_true, hpeek, show (s.stream r).active m = 0 from hact, if_true, bind, Except.bind]
    rfl
  case launch =>
    intro offered
    have hexec := exec_launch h hhaul hr hact hcan halign
    refine ⟨fun n v hv => ⟨v.complete r .memory (s.peeked r [uniPair a]).regs 0, hexec.trans (run_next h ?_), (complete_keeps ..).2.2,
      OnlyStream.complete ..⟩, fun e v hv => hexec.trans (run_trap h ?_), fun v hv => hexec.trans (run_stall h ?_)⟩
    · rw [show State.offer .. = _ from hv]
    · rw [show State.offer .. = _ from hv]
      rfl
    · rw [show State.offer .. = _ from hv]
  case page =>
    intro ver own fresh_ unsealed waits
    have hstep := stagedPage_step hpage
    have hbank : (v.stream r).regBad = [] := (congrArg Stream.regBad (hstep.same.stream r)).trans h.2.2
    have hwaits {i : Instr} {w : Wait} (hexec : exec i s = .next (v.waitFor r w)) : waits i w :=
      ⟨_, hexec, (congrArg Stream.wait (State.stream_setStream ..) :), (congrArg Stream.pc (State.stream_setStream ..) :), rfl⟩
    refine ⟨fun hfresh hst hown hfill => ?_, fun hfresh hst hown hfill => ?_, fun hfresh hst hown => ?_, fun hfresh hst hver => ?_,
      fun hfresh hst hver hkey => ?_, fun hseal hplace hok => ?_, fun hseal hplace hnot => ?_, fun k w hseal hplace => ⟨fun hk => ?_,
        fun hk => ?_⟩⟩
    · obtain ⟨hon, -, hcreg, hopened⟩ := opens_completes (v := v) (d := d.toNat) (key := key) (w := ver)
        (reads := (s.peeked r [uniPair a]).regs) hbank
      exact ⟨_, (exec_sopen h hhaul hd hr hact hpage hfresh).trans (run_next h ((if_pos hst).trans ((if_neg (not_not.mpr hown)).trans
        (if_neg (by rw [hfill]; exact Bool.false_ne_true))))), hopened rfl, hcreg, hon⟩
    · exact hwaits ((exec_sopen h hhaul hd hr hact hpage hfresh).trans (run_next h ((if_pos hst).trans ((if_neg (not_not.mpr hown)).trans
        (if_pos hfill)))))
    · exact (exec_sopen h hhaul hd hr hact hpage hfresh).trans (run_trap h ((if_pos hst).trans (if_pos hown)))
    · exact (exec_sopen h hhaul hd hr hact hpage hfresh).trans (run_trap h ((if_neg hst).trans (if_pos hver)))
    · obtain ⟨hversion, hfill⟩ := openVersion_pair v (v.nodeNum r) i pair key keep hkey
      refine ⟨_, (exec_sopen h hhaul hd hr hact hpage hfresh).trans (run_next h ((if_neg hst).trans (if_neg (Nat.ne_of_lt hver)))),
        (congrArg Stream.wait (State.stream_setStream ..) :).trans ?_, hversion, hfill⟩
      exact congrArg (fun n => some (Wait.sopen key n false)) hversion
    · refine ⟨⟨_, (exec_sseal h hhaul hd hr hact hpage hseal).trans (run_next h (ssealPage_place hplace hok)), ?_, ?_, rfl⟩,
        ⟨_, (exec_sseal h hhaul hd hr hact hpage hseal).trans (run_next h (ssealPage_place hplace hok)), ?_⟩⟩
      · exact (congrArg Stream.wait (State.stream_setStream ..) :)
      · exact (congrArg Stream.pc (State.stream_setStream ..) :)
      · exact congrArg Pair.places (Tab.get_put_same ..)
    · refine (exec_sseal h hhaul hd hr hact hpage hseal).trans (run_trap h ?_)
      simp only [State.ssealPage, hplace, hnot, Bool.not_false, if_true]
      rfl
    · refine hwaits ((exec_sseal h hhaul hd hr hact hpage hseal).trans (run_next h ?_))
      simp only [State.ssealPage, hplace]
      exact if_pos hk
    · refine (exec_sseal h hhaul hd hr hact hpage hseal).trans (run_trap h ?_)
      simp only [State.ssealPage, hplace]
      exact if_neg hk
  case returns =>
    intro returned
    refine ⟨fun hw => ?_, fun hw => ?_⟩
    · obtain ⟨hon, hcrews, hcreg, -⟩ := opens_completes (v := s) (d := d.toNat) (key := key) (w := w) (reads := (s.peeked r [uniPair a]).regs) h.2.2
      exact ⟨_, exec_sopen_returns h hhaul hd hr hact hw, hon, hcrews, hcreg⟩
    · have hset := (s.stream r).setC_bank d.toNat ⟨w32 w, 0⟩ h.2.2
      obtain ⟨hcore, hon, hcrews, honly⟩ := upd_complete (s := s) (r := r) (f := fun t => t.setC d.toNat ⟨w32 w, 0⟩) (e := Stream.lessUni)
        .memory (s.peeked r [uniPair a]).regs 0 (by rw [hset]) (by rw [hset]) (by rw [hset]; rfl) lessUni_core
      exact ⟨_, exec_sseal_returns h hhaul hd hr hact hw, ⟨hon, hcrews, fun n => by rw [creg_of_core hcore, Stream.creg_setC]⟩, honly⟩

end Sys2Proof.Machine
end

section
/-! SUPPORT. A core's L1 while sectors are written back and dropped (03 R86, 04 R111). -/

namespace Sys2Proof.Machine

/-- A core without what its L1 holds. -/
def Core.lessL1 (c : Core) : Core := { c with l1 := [] }

theorem core_writeCoh (s : State) (die : Nat) (at_ : Attr) (ws : List (Nat × Byte)) (k : Nat) : (s.writeCoh die at_ ws).core k = s.core k := by
  have hcores : (s.writeCoh die at_ ws).cores = s.cores :=
    (congrArg State.cores (CacheStep.writeCoh (CacheStep.refl s (l1 := false)) die at_ ws).rest :)
  exact congrArg (Tab.get ({} : Core) · k) hcores

/-- The core holds no dirty byte of a sector. -/
def Core.cleanAt (c : Core) (sec : Nat) : Prop := ∀ x, Tab.find sec c.l1 = some x → x.dirty.any id = false

/-- Writing back a sector puts it back clean, or leaves everything as it was. -/
theorem cleanSector_core (s : State) (core sec : Nat) :
    (s.cleanSector core sec = s ∧ (s.core core).cleanAt sec) ∨ ∃ x, x.dirty = List.replicate 32 false ∧
      (Tab.find sec (s.core core).l1).isSome = true ∧
      (s.cleanSector core sec).core core = { s.core core with l1 := Tab.put sec x (s.core core).l1 } := by
  unfold State.cleanSector
  cases hfind : Tab.find sec (s.core core).l1 with
  | none => exact .inl ⟨rfl, fun x hx => by rw [hfind] at hx; cases hx⟩
  | some x =>
    by_cases hdirty : x.dirty.any id = true
    · refine .inr ⟨{ x with dirty := List.replicate 32 false }, rfl, rfl, ?_⟩
      simp only [hdirty, if_true]
      exact (Tab.get_put_same ..).trans (by rw [core_writeCoh])
    · refine .inl ⟨if_neg hdirty, fun y hy => ?_⟩
      obtain rfl := Option.some.inj (hfind.symm.trans hy)
      simpa using hdirty

section

variable (s : State) (core sec : Nat)

theorem cleanSector_lessL1 : ((s.cleanSector core sec).core core).lessL1 = (s.core core).lessL1 := by
  obtain ⟨h, -⟩ | ⟨x, -, -, h⟩ := cleanSector_core s core sec <;> rw [h]
  rfl

theorem cleanSector_cleans : ((s.cleanSector core sec).core core).cleanAt sec := by
  obtain ⟨h, hclean⟩ | ⟨x, hx, -, h⟩ := cleanSector_core s core sec
  · rw [h]; exact hclean
  · rw [h]
    intro y hy
    obtain rfl := Option.some.inj ((Tab.find_put_same ..).symm.trans hy)
    rw [hx]
    rfl

theorem cleanSector_other {j : Nat} (hj : j ≠ sec) :
    Tab.find j ((s.cleanSector core sec).core core).l1 = Tab.find j (s.core core).l1 := by
  obtain ⟨h, -⟩ | ⟨x, -, -, h⟩ := cleanSector_core s core sec
  · rw [h]
  · rw [h]; exact Tab.find_put_other _ _ hj

theorem cleanSector_keepsClean {j : Nat} (h : (s.core core).cleanAt j) : ((s.cleanSector core sec).core core).cleanAt j := by
  by_cases hj : j = sec
  · rw [hj]; exact cleanSector_cleans s core sec
  · intro x hx
    rw [cleanSector_other s core sec hj] at hx
    exact h x hx

theorem cleanSector_keepsOut {j : Nat} (h : Tab.find j (s.core core).l1 = none) :
    Tab.find j ((s.cleanSector core sec).core core).l1 = none := by
  obtain ⟨hkeep, -⟩ | ⟨x, -, hin, -⟩ := cleanSector_core s core sec
  · rw [hkeep]; exact h
  · by_cases hj : j = sec
    · rw [← hj, h] at hin; cases hin
    · rw [cleanSector_other s core sec hj]; exact h

theorem dropSector_core : (s.dropSector core sec).core core = { (s.cleanSector core sec).core core with
    l1 := Tab.del sec ((s.cleanSector core sec).core core).l1 } := Tab.get_put_same ..

theorem dropSector_lessL1 : ((s.dropSector core sec).core core).lessL1 = (s.core core).lessL1 := by
  rw [dropSector_core]
  exact cleanSector_lessL1 ..

theorem dropSector_drops : Tab.find sec ((s.dropSector core sec).core core).l1 = none := by
  rw [dropSector_core]
  exact Tab.find_del_same ..

theorem dropSector_keepsOut {j : Nat} (h : Tab.find j (s.core core).l1 = none) :
    Tab.find j ((s.dropSector core sec).core core).l1 = none := by
  by_cases hj : j = sec
  · rw [hj]; exact dropSector_drops ..
  · rw [dropSector_core]
    exact (Tab.find_del_other _ hj).trans (cleanSector_keepsOut s core sec h)

end

/-- A property of states that every step of a fold keeps holds at its end. -/
theorem foldl_keeps {β : Type} {P : State → Prop} {f : State → β → State} (hf : ∀ u b, P u → P (f u b)) {s : State} (h : P s) (xs : List β) :
    P (xs.foldl f s) := by
  induction xs generalizing s with
  | nil => exact h
  | cons x xs ih => exact ih (hf s x h)

/-- What a step of a fold brings about for its element, and every later step keeps, holds at the end for every element. -/
theorem foldl_brings {β : Type} {P : β → State → Prop} {f : State → β → State} (hbrings : ∀ u b, P b (f u b))
    (hkeeps : ∀ u b c, P b u → P b (f u c)) (s : State) (xs : List β) : ∀ b ∈ xs, P b (xs.foldl f s) := by
  induction xs generalizing s with
  | nil => exact fun _ h => nomatch h
  | cons x xs ih =>
    intro b hb
    rcases List.mem_cons.mp hb with rfl | hb
    · exact foldl_keeps (P := P b) (fun u c => hkeeps u b c) (hbrings s b) xs
    · exact ih _ b hb

theorem engineJoin_core (s : State) (core : Nat) :
    (((s.engineJoin core).core core).sigIn = 0) ∧ ((s.engineJoin core).core core).outcl = (s.core core).outcl := by
  let P (u : State) : Prop := (u.core core).lessL1 = (s.core core).lessL1
  let f (g : Signature) (u : State) (x : Nat) : State := if sigMatch g x then u.dropSector core x else u
  have hdrops : P (((s.core core).l1.map Prod.fst).foldl (f (s.core core).sigIn) s) := by
    refine foldl_keeps (P := P) (fun u x hu => ?_) rfl _
    dsimp only [f]
    split
    · exact (dropSector_lessL1 u core x).trans hu
    · exact hu
  have hcore : (s.engineJoin core).core core = { (((s.core core).l1.map Prod.fst).foldl (f (s.core core).sigIn) s).core core with
    sigIn := 0 } := Tab.get_put_same ..
  rw [hcore]
  exact ⟨rfl, (congrArg Core.outcl hdrops :)⟩

theorem acquire_core (s : State) (core scope : Nat) :
    (4 ≤ scope → ((s.acquire core scope).core core).sigIn = 0) ∧ ((s.acquire core scope).core core).outcl = (s.core core).outcl := by
  obtain ⟨hin, hout⟩ := engineJoin_core s core
  unfold State.acquire
  dsimp only
  split
  · exact ⟨fun h => by omega, rfl⟩
  · split
    · exact ⟨fun _ => hin, hout⟩
    · exact ⟨fun _ => hin, hout⟩

theorem release_core (s : State) (core scope : Nat) (h : 4 ≤ scope) : ((s.release core scope).core core).outcl = 0 := by
  unfold State.release
  rw [if_neg (Nat.not_lt.mpr h)]
  dsimp only
  refine (congrArg Core.outcl (Tab.get_put_same ..)).trans ?_
  split
  · rfl
  · split <;> rfl

end Sys2Proof.Machine
end

section
/-! FENCE, PREF, CINV and CFLUSH (08 R211, R231, R232). -/

namespace Sys2Proof.Machine

/-- What FENCE, PREF, CINV and CFLUSH change of streams, crews, gangs and host memory: nothing but that the stream goes on. -/
def OnlyCaches (s t : State) (r : Nat) : Prop :=
  WentOn s t r ∧ (t.stream r).core = (s.stream r).core ∧ (∀ j, j ≠ r → t.stream j = s.stream j) ∧
    t.crews = s.crews ∧ t.gangs = s.gangs ∧ t.hostMem = s.hostMem

theorem onlyCaches_complete {s v : State} (h : CacheStep s v) (r : Nat) (c : Cls) (reads lines : Nat) :
    let t := v.complete r c reads lines
    OnlyCaches s t r ∧ ∀ k, t.core k = v.core k := by
  intro t
  obtain ⟨hcore, -, hwent⟩ := complete_keeps v r c reads lines
  have honly := OnlyStream.complete v r c reads lines
  have hstream := h.same.stream r
  refine ⟨⟨WentOn.of_base (b := v) hwent (congrArg Stream.pc hstream) (congrArg Stream.loops hstream),
    hcore.trans (congrArg Stream.core hstream), fun j hj => (honly.streams j hj).trans (h.same.stream j), ?_,
    (congrArg State.gangs honly.rest :).trans h.gangs, (congrArg State.hostMem honly.rest :).trans (congrArg State.hostMem h.rest :)⟩,
    fun k => (congrArg (Tab.get ({} : Core) · k) (congrArg State.cores honly.rest :) :)⟩
  refine Eq.trans ?_ h.crews
  simp [t, State.complete, State.chargeInstr, State.charge, State.chargeChain]

/-- What FENCE does before it goes on, where nothing keeps it waiting. -/
def State.fenced (s : State) (core scope : Nat) (form : BitVec 2) : State :=
  let t := if form.toNat = 1 then s else s.release core scope
  if form.toNat = 2 then t else t.acquire core scope

theorem fenced_step (s : State) (core scope : Nat) (form : BitVec 2) : CacheStep s (s.fenced core scope form) := by
  unfold State.fenced
  dsimp only
  split <;> split <;> simp

theorem fenced_core (s : State) (core scope : Nat) (form : BitVec 2) (h : 4 ≤ scope) :
    (form ≠ 1 → ((s.fenced core scope form).core core).outcl = 0) ∧ (form ≠ 2 → ((s.fenced core scope form).core core).sigIn = 0) := by
  have hne (k : BitVec 2) : form ≠ k → form.toNat ≠ k.toNat := fun hne heq => hne (BitVec.eq_of_toNat_eq heq)
  unfold State.fenced
  refine ⟨fun hform => ?_, fun hform => ?_⟩
  · rw [if_neg (show form.toNat ≠ 1 from hne 1 hform)]
    dsimp only
    split
    · exact release_core s core scope h
    · rw [(acquire_core ..).2]
      exact release_core s core scope h
  · dsimp only
    rw [if_neg (show form.toNat ≠ 2 from hne 2 hform)]
    exact (acquire_core ..).1 h

theorem exec_fence {s : State} {r : Nat} {scope : BitVec 4} {form : BitVec 2} (h : s.inHand r) (hhaul : s.haulOk r) (hscope : scope.toNat < 9)
    (hform : form ≠ 0) (hready : form = 1 ∨ s.domainWait (s.coreNum r) scope.toNat = none) :
    exec (.fence scope form) s = .next ((s.fenced (s.coreNum r) scope.toNat form).complete r .memory 0 0) := by
  have hfields : (decide (scope.toNat < 9) && form != 0) = true := Bool.and_eq_true_iff.mpr ⟨decide_eq_true hscope, bne_iff_ne.mpr hform⟩
  refine run_next h ?_
  simp only [needHaul_ok hhaul, hfields, need_true, bind, Except.bind]
  by_cases hone : form.toNat = 1
  · rw [if_pos hone, State.fenced, if_pos hone]
    rfl
  · have hrelease : s.releaseOr r scope.toNat = .ok (s.release (s.coreNum r) scope.toNat) := by
      rw [State.releaseOr, hready.resolve_left fun heq => hone (by rw [heq]; rfl)]
    rw [if_neg hone, State.fenced, if_neg hone, hrelease]
    rfl

theorem exec_fence_waits {s v : State} {r : Nat} {scope : BitVec 4} {form : BitVec 2} (h : s.inHand r) (hhaul : s.haulOk r)
    (hscope : scope.toNat < 9) (hform : form ≠ 0) (hone : form ≠ 1) (hwait : s.domainWait (s.coreNum r) scope.toNat = some v) :
    exec (.fence scope form) s = .next { v with stalled := true } := by
  have hfields : (decide (scope.toNat < 9) && form != 0) = true := Bool.and_eq_true_iff.mpr ⟨decide_eq_true hscope, bne_iff_ne.mpr hform⟩
  have hnot : form.toNat ≠ 1 := fun heq => hone (BitVec.eq_of_toNat_eq heq)
  refine run_stall h ?_
  simp only [needHaul_ok hhaul, hfields, need_true, State.releaseOr, hwait, if_neg hnot, bind, Except.bind]

/-- One line of PREF. -/
def State.prefLine (t : State) (core : Nat) (l2 : Bool) (y : Nat × Leaf) : State :=
  let at_ := y.2.attr (64 * y.1)
  let t := if at_.cpol == 2 then t else (t.readLine (dieOf core) at_ y.1).2
  if !l2 && t.usesL1 core at_ 0 then (t.fillSector core at_ (2 * y.1)).fillSector core at_ (2 * y.1 + 1) else t

theorem prefLine_step {s t : State} (h : CacheStep s t) (core : Nat) (l2 : Bool) (y : Nat × Leaf) : CacheStep s (t.prefLine core l2 y) := by
  unfold State.prefLine
  extract_lets at_ u
  have hu : CacheStep s u := by
    dsimp only [u]
    split
    · exact h
    · exact h.readLine ..
  split
  · exact (hu.fillSector ..).fillSector ..
  · exact hu

/-- The translations that PREF makes. -/
def State.prefSpots (s : State) (g : Gang) (priv : Bool) (asks : List Ask) : List Spot × State :=
  asks.foldl (fun (acc : List Spot × State) x =>
    match acc.2.spotsOf g priv .read (va56 x.addr) 1 with
    | (.ok ys, t) => (acc.1 ++ ys, t)
    | (.error _, t) => (acc.1, t)) ([], s)

theorem prefSpots_step (s : State) (g : Gang) (priv : Bool) (asks : List Ask) : CacheStep s (s.prefSpots g priv asks).2 := by
  refine CacheStep.foldl_snd (CacheStep.refl s) (fun acc x ha => ?_) _
  have hspots := ha.spotsOf g priv .read (va56 x.addr) 1
  split <;> rename_i heq <;> rw [heq] at hspots <;> exact hspots

/-- One line of CINV. -/
def State.cinvLine (t : State) (core : Nat) (l2 : Bool) (line : Nat) : State :=
  let t := t.dropLine core line
  if l2 then
    match t.l2Find (dieOf core) line with
    | some x => if x.st = .nc then t.l2Del (dieOf core) line else t
    | none => t
  else t

theorem cinvLine_step {s t : State} (h : CacheStep s t) (core : Nat) (l2 : Bool) (line : Nat) : CacheStep s (t.cinvLine core l2 line) := by
  have hdrop : CacheStep s (t.dropLine core line) := (h.dropSector ..).dropSector ..
  unfold State.cinvLine
  dsimp only
  repeat' split
  · exact hdrop.l2Del ..
  · exact hdrop
  · exact hdrop
  · exact hdrop

theorem cinvLine_core (t : State) (core : Nat) (l2 : Bool) (line : Nat) : (t.cinvLine core l2 line).core core = (t.dropLine core line).core core := by
  unfold State.cinvLine
  dsimp only
  repeat' split
  all_goals rfl

/-- Neither sector of a line stands in the L1. -/
def Core.lineOut (c : Core) (line : Nat) : Prop := Tab.find (2 * line) c.l1 = none ∧ Tab.find (2 * line + 1) c.l1 = none

theorem cinvLine_drops (t : State) (core : Nat) (l2 : Bool) (line : Nat) : ((t.cinvLine core l2 line).core core).lineOut line := by
  rw [cinvLine_core]
  exact ⟨dropSector_keepsOut _ core _ (dropSector_drops t core (2 * line)), dropSector_drops ..⟩

theorem cinvLine_keeps (t : State) (core : Nat) (l2 : Bool) (line : Nat) {j : Nat} (h : (t.core core).lineOut j) :
    ((t.cinvLine core l2 line).core core).lineOut j := by
  rw [cinvLine_core]
  exact ⟨dropSector_keepsOut _ core _ (dropSector_keepsOut t core _ h.1), dropSector_keepsOut _ core _ (dropSector_keepsOut t core _ h.2)⟩

/-- Neither sector of a line is dirty in the L1. -/
def Core.lineClean (c : Core) (line : Nat) : Prop := c.cleanAt (2 * line) ∧ c.cleanAt (2 * line + 1)

theorem cleanLine_step {s t : State} (h : CacheStep s t) (core line : Nat) : CacheStep s (t.cleanLine core line) := by
  simp [State.cleanLine, h]

theorem cleanLine_cleans (t : State) (core line : Nat) : ((t.cleanLine core line).core core).lineClean line :=
  ⟨cleanSector_keepsClean _ core _ (cleanSector_cleans t core (2 * line)), cleanSector_cleans _ core _⟩

theorem cleanLine_keeps (t : State) (core line : Nat) {j : Nat} (h : (t.core core).lineClean j) :
    ((t.cleanLine core line).core core).lineClean j :=
  ⟨cleanSector_keepsClean _ core _ (cleanSector_keepsClean t core _ h.1), cleanSector_keepsClean _ core _ (cleanSector_keepsClean t core _ h.2)⟩

/-- Settles O39: a fence is a release and an acquire, and each line that an instruction names is dropped or cleaned. -/
theorem fencesAndCacheMaintenance : Obligations.FencesAndCacheMaintenance := by
  intro s r scope form a l2 m h hhaul core act same ws asks
  refine ⟨fun hscope hform => ⟨fun hready => ?_, fun v hone hwait => exec_fence_waits h hhaul hscope hform hone hwait⟩,
    fun hr => ⟨?_, fun xs s' hres => ⟨?_, ?_⟩⟩⟩
  · obtain ⟨hsame, hcore⟩ := onlyCaches_complete (fenced_step s core scope.toNat form) r .memory 0 0
    refine ⟨_, exec_fence h hhaul hscope hform hready, hsame, fun hone hscope => ?_, fun htwo hscope => ?_⟩
    · rw [hcore]
      exact (fenced_core s core scope.toNat form hscope).1 hone
    · rw [hcore]
      exact (fenced_core s core scope.toNat form hscope).2 htwo
  all_goals
    have hpeek : s.peek r act [addrWant a] none = .ok (s.peeked r ws) := peek_peeked act h hr
  · let found := s.prefSpots (s.gangAt r) (s.stream r).priv ((lineAsks act (s.peeked r ws)).filter (·.ok))
    let lines := s.localLines found.1
    refine ⟨_, run_next h ?_, (onlyCaches_complete ((prefSpots_step s (s.gangAt r) (s.stream r).priv
      ((lineAsks act (s.peeked r ws)).filter (·.ok))).foldl (f := fun t y => t.prefLine core l2 y)
      (fun _ y hu => prefLine_step hu core l2 y) lines) r .memory (s.peeked r ws).regs lines.length).1⟩
    simp only [needHaul_ok hhaul, bind, Except.bind]
    rw [hpeek]
    rfl
  · have hres' : (s.peeked r ws).st.resolve r .read (lineAsks act (s.peeked r ws)) = .ok (xs, s') := hres
    have hstep : CacheStep s s' := (CacheStep.refl s).resolve hres
    let lines := s.localLines (xs.flatMap Prod.snd)
    obtain ⟨hsame, hcore⟩ := onlyCaches_complete (hstep.foldl (f := fun t y => t.cinvLine core l2 y.1) (fun _ y hu => cinvLine_step hu core l2 y.1)
      lines) r .memory (s.peeked r ws).regs lines.length
    refine ⟨_, run_next h ?_, hsame, fun y hy => ?_⟩
    · simp only [needHaul_ok hhaul, bind, Except.bind]
      rw [hpeek]
      dsimp only
      rw [hres']
      rfl
    · rw [hcore]
      exact foldl_brings (P := fun y u => (u.core core).lineOut y.1) (fun u y => cinvLine_drops u core l2 y.1)
        (fun u y z hy => cinvLine_keeps u core l2 z.1 hy) s' lines y hy
  · have hres' : (s.peeked r ws).st.resolve r .read (lineAsks act (s.peeked r ws)) = .ok (xs, s') := hres
    have hstep : CacheStep s s' := (CacheStep.refl s).resolve hres
    let lines := s.localLines (xs.flatMap Prod.snd)
    obtain ⟨hsame, hcore⟩ := onlyCaches_complete (hstep.foldl (f := fun t y => t.cleanLine core y.1) (fun _ y hu => cleanLine_step hu core y.1)
      lines) r .memory (s.peeked r ws).regs lines.length
    refine ⟨_, run_next h ?_, hsame, fun y hy sec hsec z hz => ?_⟩
    · simp only [needHaul_ok hhaul, bind, Except.bind]
      rw [hpeek]
      dsimp only
      rw [hres']
      rfl
    · rw [hcore] at hz
      obtain ⟨hlow, hhigh⟩ := foldl_brings (P := fun y u => (u.core core).lineClean y.1) (fun u y => cleanLine_cleans u core y.1)
        (fun u y z hy => cleanLine_keeps u core z.1 hy) s' lines y hy
      rcases List.mem_cons.mp hsec with rfl | hsec
      · exact hlow z hz
      · obtain rfl := List.mem_singleton.mp hsec
        exact hhigh z hz

end Sys2Proof.Machine
end

section
/-! Events of streams and cores (03 R83 to R86, 08 R229, 10 R266, 13 R310, 14 R351, 18 R425, R426). -/

namespace Sys2Proof.Machine

/-- An event that happens. -/
theorem event_next {s t : State} {f : Ev → State → Option State} (h : f s.ev s = some t) : event s f = .next t := by rw [event, h]

theorem codeFetch_fetches {s v : State} {w : Word} (hissue : s.canIssue s.ev.n0 = true) (howed : (s.stream s.ev.n0).owed = none)
    (hfetch : ({ s with cur := some s.ev.n0 } : State).fetch s.ev.n0 = .word w v) :
    exec .codeFetch s = .next (v.updStream s.ev.n0 fun t => { t with fetched := Tab.put t.pc.toNat w t.fetched }) := by
  simp only [exec, execCodeFetch, event, onCodeFetch, hissue, howed]
  rw [hfetch]
  rfl

/-- A fetched word leaves streams, gangs and memory as they were. -/
theorem fetch_keeps {s v : State} {r : Nat} {w : Word} (h : s.fetch r = .word w v) :
    v.streams = s.streams ∧ v.mem = s.mem ∧ v.gangs = s.gangs := by
  unfold State.fetch at h
  dsimp only at h
  split at h
  · cases h
    exact ⟨rfl, rfl, rfl⟩
  · split at h
    · cases h
      exact ⟨rfl, rfl, rfl⟩
    · split at h
      · cases h
      · split at h
        · cases h
          exact ⟨rfl, rfl, rfl⟩
        · split at h <;> cases h

theorem pagePlace_step {s v : State} {r : Nat} {sup : Bool} {page : Nat} {x : Except Trap (Nat × Attr × Nat)}
    (h : s.pagePlace r sup page = (x, v)) : CacheStep s v := by
  unfold State.pagePlace at h
  have hspot := (CacheStep.refl s).spotOf (s.gangAt r) (s.stream r).priv .read (va56 ((s.imageBase r sup).toNat + 4096 * page))
  cases sup with
  | true =>
    dsimp only at h
    split at h <;> split at h <;> simp_all
  | false =>
    simp only [Bool.false_eq_true, if_false] at h
    split at h <;> simp_all

/-- A page of local memory without errors is read at once. -/
theorem readPage_local {s v : State} {r : Nat} {sup : Bool} {page pa size a : Nat} {at_ : Attr}
    (hplace : s.pagePlace r sup page = (.ok (pa, at_, size), v)) (hmem : v.window pa = .mem a) (hmark : v.blockMark a 4096 = none) :
    s.pageAwaits r sup page = none ∧ ∃ bs u, s.readPage r sup page = .ok (bs, u) ∧ CacheStep s u := by
  refine ⟨by simp only [State.pageAwaits, hplace, hmem], _, _, by simp only [State.readPage, hplace, hmem, hmark]; rfl, ?_⟩
  exact (pagePlace_step hplace).readSync _ _ _ _

/-- The frame that a placed page comes into, and what its stream is left with. -/
theorem placePage_places (s : State) (r : Nat) (sup : Bool) (page : Nat) (bs : List Byte) :
    let t := s.placePage r sup page bs
    t.stream r = { s.stream r with rdata := [], rpoison := [] } ∧
      ∃ f ∈ (t.core (s.coreNum r)).frames, f.page = page ∧ f.part = s.partNum r ∧ f.sup = sup := by
  refine ⟨State.stream_setStream _ r _, ?_⟩
  unfold State.placePage
  simp only [State.updCore_eq, State.core_setCore]
  exact ⟨_, List.mem_cons_self .., rfl, rfl, rfl⟩

section
variable {s : State} {page : Nat} (hlive : (s.gangAt s.ev.n0).live = true) (hpark : (s.gangAt s.ev.n0).parked = false)
  (hstop : (s.crewAt s.ev.n0).stopped = false) (hend : (s.stream s.ev.n0).ended = false)
  (hwait : (s.stream s.ev.n0).wait = some (.refill page))

include hlive hpark hstop hend hwait in
theorem exec_codePageRefill : exec .codePageRefill s = .next (s.refill s.ev.n0 (s.inSup s.ev.n0) page none id) := by
  simp only [exec, execCodePageRefill, event, onCodePageRefill, hlive, hpark, hstop, hend, hwait]
  rfl

include hlive hpark hstop hend hwait in
theorem codePageRefill_refills {pa size a : Nat} {at_ : Attr} {v : State}
    (hplace : s.pagePlace s.ev.n0 (s.inSup s.ev.n0) page = (.ok (pa, at_, size), v)) (hmem : v.window pa = .mem a)
    (hmark : v.blockMark a 4096 = none) :
    ∃ t, exec .codePageRefill s = .next t ∧ (t.stream s.ev.n0).wait = none ∧ (t.stream s.ev.n0).pc = (s.stream s.ev.n0).pc ∧
      ∃ f ∈ (t.core (s.coreNum s.ev.n0)).frames, f.page = page ∧ f.part = s.partNum s.ev.n0 ∧ f.sup = s.inSup s.ev.n0 := by
  obtain ⟨hawaits, bs, u, hread, hstep⟩ := readPage_local hplace hmem hmark
  have hgang : u.gangAt s.ev.n0 = s.gangAt s.ev.n0 := gang_of_gangs hstep.gangs _
  have hstream : u.stream s.ev.n0 = s.stream s.ev.n0 := congrArg (Tab.get ({} : Stream) · s.ev.n0) hstep.streams
  have hcore : u.coreNum s.ev.n0 = s.coreNum s.ev.n0 := congrArg Gang.core hgang
  have hpart : u.partNum s.ev.n0 = s.partNum s.ev.n0 := congrArg Gang.part hgang
  obtain ⟨hplaced, hframe⟩ := placePage_places u s.ev.n0 (s.inSup s.ev.n0) page bs
  obtain ⟨t, ht⟩ : ∃ t, t = u.placePage s.ev.n0 (s.inSup s.ev.n0) page bs := ⟨_, rfl⟩
  rw [← ht, hstream] at hplaced
  rw [← ht, hcore, hpart] at hframe
  have hfree : (t.updStream s.ev.n0 fun t => { t with wait := none }).stream s.ev.n0 = { t.stream s.ev.n0 with wait := none } :=
    State.stream_setStream ..
  refine ⟨t.updStream s.ev.n0 fun t => { t with wait := none }, ?_, by rw [hfree], by rw [hfree, hplaced], hframe⟩
  rw [exec_codePageRefill hlive hpark hstop hend hwait, ht]
  unfold State.refill
  simp only [hawaits, hread, id]

include hlive hpark hstop hend hwait in
theorem codePageRefill_traps {x : Trap} {v : State} (hplace : s.pagePlace s.ev.n0 (s.inSup s.ev.n0) page = (.error x, v)) :
    exec .codePageRefill s = .next ((s.updStream s.ev.n0 fun t => { t with wait := none }).takeTrap s.ev.n0
      { x with word := some (s.spcWord s.ev.n0) }) := by
  rw [exec_codePageRefill hlive hpark hstop hend hwait]
  unfold State.refill
  simp only [State.pageAwaits, State.readPage, hplace]
  rfl
end

/-! The arrival of a load's data (05 R128). -/

/-- The registers that a load's data fill. -/
def Stream.fill (t : Stream) (dst : List (Nat × Vec)) (mask : Word) : Stream :=
  dst.foldl (fun t d => (t.setV d.1 d.2).cleanReg d.1 mask) t

/-- Filling registers changes vectors and error marks alone. -/
theorem Stream.fill_keeps (t : Stream) (dst : List (Nat × Vec)) (mask : Word) :
    (t.fill dst mask).pc = t.pc ∧ (t.fill dst mask).loads = t.loads := by
  induction dst generalizing t with
  | nil => exact ⟨rfl, rfl⟩
  | cons d ds ih =>
    obtain ⟨b, hb⟩ := (t.setV d.1 d.2).cleanReg_bank d.1 mask
    obtain ⟨hpc, hloads⟩ := ih ((t.setV d.1 d.2).cleanReg d.1 mask)
    exact ⟨hpc.trans (by rw [hb]; rfl), hloads.trans (by rw [hb]; rfl)⟩

theorem Stream.vreg_fill_other (t : Stream) (dst : List (Nat × Vec)) (mask : Word) {n : Nat} (h : ∀ d ∈ dst, d.1 ≠ n) :
    (t.fill dst mask).vreg n = t.vreg n := by
  induction dst generalizing t with
  | nil => rfl
  | cons d ds ih =>
    obtain ⟨hd, hds⟩ := List.forall_mem_cons.mp h
    refine (ih _ hds).trans ?_
    rw [Stream.vreg_cleanReg, Stream.vreg_setV, if_neg (Ne.symm hd)]

theorem Stream.vreg_fill (t : Stream) (dst : List (Nat × Vec)) (mask : Word) (hnodup : (dst.map Prod.fst).Nodup) :
    ∀ d ∈ dst, (t.fill dst mask).vreg d.1 = d.2 := by
  induction dst generalizing t with
  | nil => exact fun d hd => nomatch hd
  | cons d ds ih =>
    obtain ⟨hnew, hds⟩ := List.nodup_cons.mp hnodup
    refine List.forall_mem_cons.mpr ⟨?_, ih _ hds⟩
    refine (Stream.vreg_fill_other _ ds mask fun e he heq =>
      hnew (heq.subst (motive := (· ∈ ds.map Prod.fst)) (List.mem_map_of_mem he))).trans ?_
    rw [Stream.vreg_cleanReg, Stream.vreg_setV, if_pos rfl]

/-- A stream that a load's data have reached. -/
def Stream.loadArrived (t : Stream) (p : PendingLoad) : Stream :=
  let u := t.fill p.dst p.mask
  { u with
    loads := u.loads.filter (·.id != p.id), latches := fillLatches p.id p.latches u.latches, dataWait := none, drowsy := false }

/-- A queue entry takes the data it waits for. -/
def Crew.loadArrived (c : Crew) (id q : Nat) : Crew :=
  { c with loadQ := Tab.put q ((Tab.get [] c.loadQ q).map fun x =>
      if x.awaits = some id then { x with awaits := none } else x) c.loadQ }

/-- A load's data have reached its stream and its queue entry. -/
def State.loadArrived (s : State) (r : Nat) (p : PendingLoad) : State :=
  let t := s.updStream r (·.loadArrived p)
  match p.queue with
  | none => t
  | some q => t.updCrew (crewOf r) (·.loadArrived p.id q)

theorem exec_loadDataArrival {s : State} {p : PendingLoad} (h : (s.stream s.ev.n0).loads.find? (fun p => p.id == s.ev.n1) = some p) :
    exec .loadDataArrival s = .next (s.loadArrived s.ev.n0 p) := by
  refine event_next (f := onLoadDataArrival) ?_
  unfold onLoadDataArrival State.loadArrived
  dsimp only
  rw [h]
  cases hq : p.queue with
  | none => simp only [hq]; rfl
  | some q => simp only [hq]; rfl

theorem loadArrived_leaves (s : State) (r : Nat) (p : PendingLoad) :
    (s.loadArrived r p).streams = (s.updStream r (·.loadArrived p)).streams ∧ (s.loadArrived r p).mem = s.mem ∧
      (s.loadArrived r p).gangs = s.gangs := by
  unfold State.loadArrived
  cases p.queue <;> exact ⟨rfl, rfl, rfl⟩

theorem loadQ_loadArrived {s : State} {r q : Nat} {p : PendingLoad} (hq : p.queue = some q) :
    Tab.get [] ((s.loadArrived r p).crewAt r).loadQ q = (Tab.get [] (s.crewAt r).loadQ q).map fun x =>
      if x.awaits = some p.id then { x with awaits := none } else x := by
  have hcrew : (s.loadArrived r p).crewAt r = (s.crewAt r).loadArrived p.id q := by
    simp only [State.loadArrived, hq]
    exact State.crew_setCrew ..
  rw [hcrew]
  exact Tab.get_put_same ..

theorem loadDataArrival_fills {s : State} {p : PendingLoad} (h : (s.stream s.ev.n0).loads.find? (fun p => p.id == s.ev.n1) = some p)
    (hnodup : (p.dst.map Prod.fst).Nodup) :
    let r := s.ev.n0
    ∃ t, exec .loadDataArrival s = .next t ∧ (∀ d ∈ p.dst, (t.stream r).vreg d.1 = d.2) ∧
      (∀ n, (∀ d ∈ p.dst, d.1 ≠ n) → (t.stream r).vreg n = (s.stream r).vreg n) ∧
      (t.stream r).loads = (s.stream r).loads.filter (·.id != p.id) ∧ (t.stream r).pc = (s.stream r).pc ∧
      (∀ j, j ≠ r → t.stream j = s.stream j) ∧ t.mem = s.mem ∧ t.gangs = s.gangs ∧
      ∀ q, p.queue = some q → Tab.get [] (t.crewAt r).loadQ q = (Tab.get [] (s.crewAt r).loadQ q).map fun x =>
        if x.awaits = some p.id then { x with awaits := none } else x := by
  intro r
  obtain ⟨hstreams, hmem, hgangs⟩ := loadArrived_leaves s r p
  have hat : (s.loadArrived r p).stream r = (s.stream r).loadArrived p :=
    (congrArg (Tab.get ({} : Stream) · r) hstreams).trans (State.stream_setStream ..)
  obtain ⟨hpc, hloads⟩ := (s.stream r).fill_keeps p.dst p.mask
  refine ⟨_, exec_loadDataArrival h, fun d hd => ?_, fun n hn => ?_, ?_, ?_, fun j hj => ?_, hmem, hgangs, fun q hq => loadQ_loadArrived hq⟩
  · rw [hat]
    exact (s.stream r).vreg_fill p.dst p.mask hnodup d hd
  · rw [hat]
    exact (s.stream r).vreg_fill_other p.dst p.mask hn
  · rw [hat]
    exact congrArg (List.filter (·.id != p.id)) hloads
  · rw [hat]
    exact hpc
  · exact (congrArg (Tab.get ({} : Stream) · j) hstreams).trans (State.stream_setStream_other _ _ hj)

/-- Settles O53: each event is enabled by its hypotheses, and its effect is a change of one stream, crew or core. -/
theorem streamEventsHappen : Obligations.StreamEventsHappen := by
  intro s e r u
  refine ⟨fun w v hissue howed hfetch => ?_, fun page hlive hpark hstop hend hwait =>
      ⟨fun pa at_ size v a hplace hmem hmark => codePageRefill_refills hlive hpark hstop hend hwait hplace hmem hmark,
        fun x v hplace => codePageRefill_traps hlive hpark hstop hend hwait hplace⟩,
    fun p hp hnodup => loadDataArrival_fills hp hnodup, fun htrap hreq hlive hat => ?_, fun k hslot hfree hnext => ?_,
    fun off p dl hwait hdl => ?_, fun n hwait hn => ?_, fun x hx hdirty hsince => ?_, fun h0 h1 h2 hgated huse => ?_,
    fun c hsome hdata hdrowsy hc => ?_⟩
  · obtain ⟨hstreams, hmem, hgangs⟩ := fetch_keeps hfetch
    have hv : v.stream r = u := congrArg (Tab.get ({} : Stream) · r) hstreams
    have hat : (v.updStream r fun t => { t with fetched := Tab.put t.pc.toNat w t.fetched }).stream r =
        { u with fetched := Tab.put u.pc.toNat w u.fetched } := (State.stream_setStream ..).trans (by rw [hv])
    refine ⟨_, codeFetch_fetches hissue howed hfetch, ?_, (congrArg Stream.pc hat :), hmem, hgangs⟩
    rw [hat]
    exact Tab.find_put_same ..
  · simp only [exec, execHandlerTimeLimit, event, onHandlerTimeLimit]
    rw [if_pos ⟨htrap, hreq, hlive, hat⟩]
  · refine ⟨s.updCrew k fun c => { c with place := .slot e.n1, since := s.cyclesOf (clusterOf e.n0) }, ?_, ?_,
      fun j hj => State.crew_setCrew_other _ _ hj, rfl, rfl, rfl⟩
    · have hopen : ¬(4 ≤ s.ev.n1 ∨ (!s.slotFree s.ev.n0 s.ev.n1) = true) := by
        rintro (hlarge | htaken)
        · exact absurd hslot (Nat.not_lt.mpr hlarge)
        · rw [show s.slotFree s.ev.n0 s.ev.n1 = true from hfree] at htaken
          cases htaken
      simp only [exec, execSlotGrant, event, onSlotGrant, if_neg hopen]
      rw [show s.nextCrew s.ev.n0 = some k from hnext]
      rfl
    · exact congrArg Crew.place (State.crew_setCrew s k _)
  · simp only [exec, execBarwaitTimeout, event, onBarwaitTimeout]
    rw [show (s.stream s.ev.n0).wait = _ from hwait]
    simp only [if_pos hdl]
    rfl
  · simp only [exec, execWseedTimeout, event, onWseedTimeout]
    rw [show (s.stream s.ev.n0).wait = _ from hwait]
    simp only [show n ≤ s.cyclesOf (clusterOf (s.coreNum s.ev.n0)) from hn, if_true]
    rfl
  · have hstep : CacheStep s (s.cleanSector e.n0 e.n1) := (CacheStep.refl s).cleanSector e.n0 e.n1
    refine ⟨s.cleanSector e.n0 e.n1, ?_, hstep.streams, hstep.crews, hstep.gangs, cleanSector_cleans s e.n0 e.n1⟩
    simp only [exec, execL1BackgroundClean, event, onL1BackgroundClean]
    rw [show Tab.find s.ev.n1 (s.core s.ev.n0).l1 = some x from hx]
    dsimp only
    rw [if_pos ⟨hdirty, hsince⟩]
  · have hopen : ¬(256 ≤ e.n0 ∨ 4 ≤ e.n1 ∨ 4 ≤ e.n2 ∨ (s.core e.n0).gated.contains (4 * e.n1 + e.n2) = true ∨
        s.cyclesOf (clusterOf e.n0) < Tab.get 0 (s.core e.n0).laneUse (4 * e.n1 + e.n2) + 512) := by
      rintro (h | h | h | h | h)
      · exact absurd h0 (Nat.not_lt.mpr h)
      · exact absurd h1 (Nat.not_lt.mpr h)
      · exact absurd h2 (Nat.not_lt.mpr h)
      · exact absurd (hgated.symm.trans h) Bool.false_ne_true
      · exact absurd huse (Nat.not_le.mpr h)
    simp only [exec, execLaneGroupGate, event, onLaneGroupGate]
    rw [if_neg hopen]
  · obtain ⟨t, ht⟩ := Option.isSome_iff_exists.mp hsome
    have hu : u = t := by
      show Tab.get ({} : Stream) s.streams r = t
      rw [Tab.get, ht]
      rfl
    have hopen : ¬(t.drowsy = true ∨ s.cyclesOf (clusterOf (s.coreNum r)) ≤ c + 64) := by
      rw [← hu, hdrowsy]
      rintro (hbad | hle)
      · cases hbad
      · exact absurd hc (Nat.not_lt.mpr hle)
    refine event_next (f := onBankDrowsy) ?_
    unfold onBankDrowsy
    rw [show Tab.find s.ev.n0 s.streams = some t from ht]
    dsimp only
    have hcycle : t.dataWait = some c := hu ▸ hdata
    split
    · rename_i hnone
      cases hnone.symm.trans hcycle
    · rename_i c' hcycle'
      obtain rfl := Option.some.inj (hcycle'.symm.trans hcycle)
      rw [if_neg hopen, hu]

end Sys2Proof.Machine
end

section
/-! A crew's wait at a BRG, which its gang's barriers and meetings see (01 R26, R29, 06 R148). -/

namespace Sys2Proof.Machine

theorem OnlyCrew.switchOut_waiting (s : State) (r : Nat) (e : Stream → Stream) : OnlyCrew s (s.switchOut r true) r e :=
  (OnlyCrew.voidCrew s r e).trans
    { stream := rfl, fellow := fun _ _ _ => rfl, streams := fun _ _ => rfl,
      crew := by
        show ({ ((s.voidCrew r).setCrew (crewOf r) _).crewAt r |>.lessQueues with place := .parked } : Crew) = _
        rw [State.crewAt, State.crew_setCrew]
        rfl
      crews := fun _ hk => State.crew_setCrew_other _ _ hk
      nodes := fun _ => rfl, parts := fun _ => rfl, rest := rfl, memory := SameMemory.refl _ }

theorem OnlyCrew.waitOut (s : State) (r : Nat) (w : Wait) : OnlyCrew s (s.waitOut r w) r Stream.core :=
  (OnlyCrew.updStream s r Stream.core (fun t => { t with wait := some w }) rfl).trans (OnlyCrew.switchOut_waiting _ r _)

/-- What a change of one crew's streams and slot leaves of its gang's meeting. -/
theorem OnlyCrew.countingCrews {s t : State} {r : Nat} (h : OnlyCrew s t r Stream.core) (g : Nat) :
    t.countingCrews g = s.countingCrews g := by
  have hgang : t.gang g = s.gang g := congrArg (Tab.get ({} : Gang) · g) (congrArg State.gangs h.rest :)
  have hlive (j : Nat) : (t.stream j).live = (s.stream j).live := by
    by_cases hj : j = r
    · rw [hj]
      exact (congrArg Stream.live h.stream :)
    · by_cases hc : crewOf j = crewOf r
      · exact (congrArg Stream.live (h.fellow j hj hc) :)
      · rw [h.streams j hc]
  have hended (k : Nat) : (t.crew k).ended = (s.crew k).ended := by
    by_cases hk : k = crewOf r
    · rw [hk]
      exact (congrArg Crew.ended h.crew :)
    · rw [h.crews k hk]
  simp only [State.countingCrews, hgang, hlive, hended]

/-- With no crew at a gang barrier, none completes. -/
theorem settleGbar_none {s : State} {g : Nat} (h : ∀ c ∈ s.countingCrews g, (s.stream (32 * g + 2 * c)).wait ≠ some (.gbar false)) :
    s.settleGbar g = s := by
  refine if_neg fun hall => ?_
  obtain ⟨hany, -⟩ := Bool.and_eq_true_iff.mp hall
  obtain ⟨c, hc, hwait⟩ := List.any_eq_true.mp hany
  exact h c hc (eq_of_beq hwait)

/-- Numbers that all equal one another count once. -/
theorem distinct_same {xs : List Nat} {a : Nat} (h : ∀ x ∈ xs, x = a) : (distinct xs).length ≤ 1 := by
  cases xs with
  | nil => exact Nat.zero_le 1
  | cons x rest =>
    have hnone : (distinct rest).filter (· != x) = [] := by
      refine List.filter_eq_nil_iff.mpr fun y hy => ?_
      rw [h x (List.mem_cons_self ..), h y (List.mem_cons_of_mem _ (mem_distinct.mp hy))]
      simp
    rw [distinct, hnone]
    rfl

/-- With no crew at a gang barrier, crews at one BRG do not mismatch. -/
theorem settleMismatch_none {s : State} {g : Nat} {pc : BitVec 24}
    (hgbar : ∀ c ∈ s.countingCrews g, (s.stream (32 * g + 2 * c)).wait ≠ some (.gbar false))
    (hpc : ∀ c ∈ s.countingCrews g, (s.stream (32 * g + 2 * c)).atBrg = true → (s.stream (32 * g + 2 * c)).pc = pc) :
    s.settleMismatch g = s := by
  refine if_neg fun hall => ?_
  simp only [Bool.and_eq_true, List.all_eq_true, Bool.or_eq_true, decide_eq_true_eq] at hall
  obtain ⟨⟨-, hat⟩, hmany⟩ := hall
  refine absurd hmany (Nat.not_lt.mpr (distinct_same (a := pc.toNat) fun x hx => ?_))
  obtain ⟨c, hc, rfl⟩ := List.mem_map.mp hx
  rcases hat c hc with hbrg | hbar
  · rw [hpc c hc hbrg]
  · exact absurd (eq_of_beq hbar) (hgbar c hc)

section
variable {s : State} {r : Nat} (h : s.inHand r) {pred : BitVec 3} {sense : Bool} {target reconv : BitVec 9}

/-- What a stream at a BRG waits for. -/
def brgWait (pc : BitVec 24) (pred : BitVec 3) (sense : Bool) (target reconv : BitVec 9) : Wait :=
  .brg pred.toNat sense (targetOf pc 9 target.toNat) (targetOf pc 9 reconv.toNat)

include h in
theorem exec_brg (hsingle : (s.gangAt r).single = true) (hlegal : ¬(pred = 7 ∧ sense = true)) (hreconv : reconv ≠ 0) :
    exec (.brg pred sense target reconv) s = .next
      (((s.chargeInstr r .control 0 0).waitOut r (brgWait (s.stream r).pc pred sense target reconv)).settleGang (gangOf r)) := by
  obtain ⟨c, hc, -⟩ := branchCond_legal s r hlegal
  refine run_next h ?_
  simp only [hsingle, need_true, hc, bne_iff_ne.mpr hreconv, bind, Except.bind]
  rfl

include h in
theorem brg_waits (hsingle : (s.gangAt r).single = true) (hlegal : ¬(pred = 7 ∧ sense = true)) (hreconv : reconv ≠ 0)
    (hmet : ∀ c ∈ s.countingCrews (gangOf r), 32 * gangOf r + 2 * c ≠ r →
      (s.stream (32 * gangOf r + 2 * c)).wait ≠ some (.gbar false) ∧
        ((s.stream (32 * gangOf r + 2 * c)).atBrg = true → (s.stream (32 * gangOf r + 2 * c)).pc = (s.stream r).pc)) :
    ∃ t, exec (.brg pred sense target reconv) s = .next t ∧ (t.stream r).pc = (s.stream r).pc ∧
      (t.stream r).wait = some (brgWait (s.stream r).pc pred sense target reconv) ∧
      (t.crewAt r).place = .waiting ∧ OnlyCrew s t r Stream.core := by
  obtain ⟨w, hw⟩ : ∃ w, w = brgWait (s.stream r).pc pred sense target reconv := ⟨_, rfl⟩
  obtain ⟨t, ht⟩ : ∃ t, t = (s.chargeInstr r .control 0 0).waitOut r w := ⟨_, rfl⟩
  obtain ⟨hkeep, hplace⟩ := waitOut_waits (s.chargeInstr r .control 0 0) r w
  have honly : OnlyCrew s t r Stream.core :=
    by
    rw [ht]
    exact ((OnlyStream.charge s r Stream.core .control 0 0).onlyCrew fun _ => rfl).trans (OnlyCrew.waitOut _ r w)
  rw [← ht] at hkeep hplace
  have hpc : (t.stream r).pc = (s.stream r).pc := (congrArg Stream.pc hkeep :)
  have hwait : (t.stream r).wait = some w := (congrArg Stream.wait hkeep :)
  have hother {j : Nat} (hj : j ≠ r) : (t.stream j).wait = (s.stream j).wait ∧ (t.stream j).pc = (s.stream j).pc := by
    by_cases hc : crewOf j = crewOf r
    · exact ⟨(congrArg Stream.wait (honly.fellow j hj hc) :), (congrArg Stream.pc (honly.fellow j hj hc) :)⟩
    · rw [honly.streams j hc]
      exact ⟨rfl, rfl⟩
  have hgbar : ∀ c ∈ t.countingCrews (gangOf r), (t.stream (32 * gangOf r + 2 * c)).wait ≠ some (.gbar false) := fun c hc => by
    rw [honly.countingCrews] at hc
    by_cases hr : 32 * gangOf r + 2 * c = r
    · rw [hr, hwait, hw]
      exact fun hbar => nomatch hbar
    · rw [(hother hr).1]
      exact (hmet c hc hr).1
  have hsame : ∀ c ∈ t.countingCrews (gangOf r), (t.stream (32 * gangOf r + 2 * c)).atBrg = true →
      (t.stream (32 * gangOf r + 2 * c)).pc = (s.stream r).pc := fun c hc hat => by
    rw [honly.countingCrews] at hc
    by_cases hr : 32 * gangOf r + 2 * c = r
    · rw [hr, hpc]
    · unfold Stream.atBrg at hat
      rw [(hother hr).1] at hat
      rw [(hother hr).2]
      exact (hmet c hc hr).2 hat
  refine ⟨t, ?_, hpc, hw ▸ hwait, hplace, honly⟩
  rw [exec_brg h hsingle hlegal hreconv, ← hw, ← ht, State.settleGang, settleGbar_none hgbar, settleMismatch_none hgbar hsame]
end

end Sys2Proof.Machine
end

section
/-! SUPPORT. What a fold leaves, and the start of a path (01 R26). -/

namespace Sys2Proof.Machine

theorem foldl_proj {σ α β : Type} {f : σ → β → σ} (p : σ → α) (hf : ∀ u b, p (f u b) = p u) (xs : List β) (s : σ) :
    p (xs.foldl f s) = p s := by
  induction xs generalizing s with
  | nil => rfl
  | cons x xs ih => exact (ih (f s x)).trans (hf s x)

theorem pack_pc (e : Reconv) (t : Stream) (vids : List Nat) (pc : BitVec 24) : (e.pack t vids pc).pc = pc := by
  unfold Reconv.pack
  refine (foldl_proj Stream.pc (fun _ _ => ?_) _ _).trans ?_ <;> rfl

/-- What the start of a path puts on the gang's stack, and where the streams that run it stand. -/
theorem startPath_starts (s : State) (g : Nat) (e : Reconv) (rest : List Reconv) (p : Path) (more : List Path) :
    let t := s.startPath g e rest p more
    ∃ e', (t.gang g).stack = e' :: rest ∧ e'.addr = e.addr ∧ e'.crews = e.crews ∧ e'.remap = e.remap ∧ e'.pending = more ∧
      ∀ k ∈ e'.running, (t.stream (32 * g + 2 * k)).pc = p.addr := by
  let used := e.crews.zip (pieces 16 p.vids)
  refine ⟨{ e with running := used.map Prod.fst, pending := more }, ?_, rfl, rfl, rfl, rfl, fun k hk => ?_⟩
  · unfold State.startPath
    dsimp only
    refine (congrArg (fun x => (Tab.get ({} : Gang) x g).stack) (foldl_proj State.gangs (fun u x => ?_) _ _)).trans ?_
    · rfl
    refine (congrArg (fun x => (Tab.get ({} : Gang) x g).stack) (foldl_proj State.gangs (fun u x => ?_) _ _)).trans ?_
    · rfl
    exact congrArg Gang.stack (gang_updGang ..)
  · obtain ⟨x, hx, rfl⟩ := List.mem_map.mp hk
    unfold State.startPath
    refine foldl_brings (P := fun (y : Nat × List Nat) u => (u.stream (32 * g + 2 * y.1)).pc = p.addr) (fun u y => ?_) (fun u y z hy => ?_)
      _ _ x hx
    · exact (congrArg Stream.pc (State.stream_setStream u (32 * g + 2 * y.1) _)).trans (pack_pc ..)
    · by_cases h : 32 * g + 2 * y.1 = 32 * g + 2 * z.1
      · rw [h]
        exact (congrArg Stream.pc (State.stream_setStream u (32 * g + 2 * z.1) _)).trans (pack_pc ..)
      · exact (congrArg Stream.pc (State.stream_setStream_other u _ h)).trans hy

/-- The entry of a path in progress keeps where it rejoins and what is pending. -/
theorem collectPath_keeps (s : State) (g : Nat) (e : Reconv) :
    (s.collectPath g e).addr = e.addr ∧ (s.collectPath g e).pending = e.pending := by
  unfold State.collectPath
  refine ⟨foldl_proj Reconv.addr (fun _ _ => ?_) _ _, foldl_proj Reconv.pending (fun _ _ => ?_) _ _⟩ <;> rfl

end Sys2Proof.Machine
end

section
/-! The meeting at a BRG and the end of a path (01 R26, 06 R148). -/

namespace Sys2Proof.Machine

section
variable {s : State} {c : Nat} {cs : List Nat} {pred : Nat} {sense : Bool} {taken rejoin : BitVec 24}
  (hcount : s.countingCrews s.ev.n0 = c :: cs) (hlive : (s.gang s.ev.n0).live = true)
  (hwait : (s.stream (32 * s.ev.n0 + 2 * c)).wait = some (.brg pred sense taken rejoin))
  (hmet : ∀ k ∈ c :: cs, (s.stream (32 * s.ev.n0 + 2 * k)).atBrg = true ∧
    (s.stream (32 * s.ev.n0 + 2 * k)).pc = (s.stream (32 * s.ev.n0 + 2 * c)).pc ∧
    (s.crew (16 * s.ev.n0 + k)).stopped = false ∧ (s.stream (32 * s.ev.n0 + 2 * k)).loads = [])

include hcount hlive hwait hmet in
theorem exec_brgMeeting : exec .brgMeeting s = .next
    (if 16 ≤ (s.gang s.ev.n0).stack.length then s.stackOverflow s.ev.n0 (c :: cs)
    else s.divide s.ev.n0 (c :: cs) pred sense ((s.stream (32 * s.ev.n0 + 2 * c)).pc + 4) taken rejoin) := by
  have hall : (c :: cs).all (fun k => (s.stream (32 * s.ev.n0 + 2 * k)).atBrg &&
      (s.stream (32 * s.ev.n0 + 2 * k)).pc == (s.stream (32 * s.ev.n0 + 2 * c)).pc && !(s.crew (16 * s.ev.n0 + k)).stopped &&
      (s.stream (32 * s.ev.n0 + 2 * k)).loads.isEmpty) = true :=
    List.all_eq_true.mpr fun k hk => by
      obtain ⟨hat, hpc, hstop, hloads⟩ := hmet k hk
      simp [hat, hpc, hstop, hloads]
  refine event_next (f := onBrgMeeting) ?_
  unfold onBrgMeeting
  dsimp only
  rw [hcount]
  dsimp only
  rw [hwait]
  dsimp only
  rw [hall, hlive, if_neg (by simp)]
  split <;> rfl

/-- The condition of a BRG in each lane of a crew. -/
def State.brgCond (s : State) (g pred : Nat) (sense : Bool) (k : Nat) : Word :=
  let p := ((s.stream (32 * g + 2 * k)).preg pred).v
  if sense then ~~~p else p

/-- The entry that a meeting begins with. -/
def State.brgEntry (s : State) (g : Nat) (cs : List Nat) (rejoin : BitVec 24) (paths : List Path) : Reconv :=
  { addr := rejoin, crews := cs, saved := cs.map fun c => (c, s.stream (32 * g + 2 * c)), remap := (s.gang g).remap, running := [],
    pending := paths }

/-- The threads of a path in ascending number. -/
def State.pathThreads (s : State) (g : Nat) (cs : List Nat) (cond : Nat → Word) (b : Bool) : List Nat :=
  sortBy (fun a b => decide (a < b)) (cs.flatMap fun k => s.joining g k (cond k) b)

theorem divide_eq (s : State) (g : Nat) (cs : List Nat) (pred : Nat) (sense : Bool) (fall taken rejoin : BitVec 24) :
    s.divide g cs pred sense fall taken rejoin = s.nextPath g (s.brgEntry g cs rejoin
      ([(⟨s.pathThreads g cs (s.brgCond g pred sense) false, fall⟩ : Path), ⟨s.pathThreads g cs (s.brgCond g pred sense) true, taken⟩].filter
        fun p => p.vids != [])) (s.gang g).stack := rfl

theorem pathThreads_eq_nil {s : State} {g : Nat} {cs : List Nat} {cond : Nat → Word} {b : Bool} :
    s.pathThreads g cs cond b = [] ↔ (cs.flatMap fun k => s.joining g k (cond k) b) = [] := by
  rw [← List.length_eq_zero_iff, State.pathThreads, (sortBy_perm _ _).length_eq, List.length_eq_zero_iff]

/-- A meeting with a path begins its first one. -/
theorem divide_starts {s : State} {g : Nat} {cs : List Nat} {pred : Nat} {sense : Bool} {fall taken rejoin : BitVec 24} {p : Path} {more : List Path}
    (hpaths : ([(⟨s.pathThreads g cs (s.brgCond g pred sense) false, fall⟩ : Path),
      ⟨s.pathThreads g cs (s.brgCond g pred sense) true, taken⟩].filter fun p => p.vids != []) = p :: more) :
    ∃ entry, ((s.divide g cs pred sense fall taken rejoin).gang g).stack = entry :: (s.gang g).stack ∧ entry.addr = rejoin ∧
      entry.crews = cs ∧ entry.remap = (s.gang g).remap ∧
      ∀ k ∈ entry.running, ((s.divide g cs pred sense fall taken rejoin).stream (32 * g + 2 * k)).pc = p.addr := by
  obtain ⟨e', hstack, haddr, hcrews, hremap, -, hpc⟩ := startPath_starts s g (s.brgEntry g cs rejoin (p :: more)) (s.gang g).stack p more
  have heq : s.divide g cs pred sense fall taken rejoin = s.startPath g (s.brgEntry g cs rejoin (p :: more)) (s.gang g).stack p more := by
    rw [divide_eq, hpaths]
    rfl
  rw [heq]
  exact ⟨e', hstack, haddr, hcrews, hremap, hpc⟩
end

section
variable {s : State} {entry : Reconv} {rest : List Reconv} (hstack : (s.gang s.ev.n0).stack = entry :: rest)
  (hlive : (s.gang s.ev.n0).live = true)
  (hthere : ∀ c ∈ entry.running, (s.crew (16 * s.ev.n0 + c)).ended = true ∨ (s.stream (32 * s.ev.n0 + 2 * c)).wait = some .reconv ∧
    (s.crew (16 * s.ev.n0 + c)).stopped = false ∧ (s.stream (32 * s.ev.n0 + 2 * c)).loads = [])

include hstack hlive hthere in
theorem exec_brgPathEnd : exec .brgPathEnd s = .next (s.nextPath s.ev.n0 (s.collectPath s.ev.n0 entry) rest) := by
  have hall : entry.running.all (fun c => (s.crew (16 * s.ev.n0 + c)).ended ||
      ((s.stream (32 * s.ev.n0 + 2 * c)).wait == some .reconv && !(s.crew (16 * s.ev.n0 + c)).stopped &&
        (s.stream (32 * s.ev.n0 + 2 * c)).loads.isEmpty)) = true :=
    List.all_eq_true.mpr fun c hc => by
      rcases hthere c hc with hended | ⟨hwait, hstop, hloads⟩
      · rw [hended]
        rfl
      · rw [hwait, hstop, hloads]
        simp
  refine event_next (f := onBrgPathEnd) ?_
  unfold onBrgPathEnd
  dsimp only
  rw [hstack]
  dsimp only
  rw [hall, hlive, if_neg (by simp)]

include hstack hlive hthere in
theorem brgPathEnd_next {p : Path} {more : List Path} (hpending : entry.pending = p :: more) :
    ∃ t next, exec .brgPathEnd s = .next t ∧ (t.gang s.ev.n0).stack = next :: rest ∧ next.addr = entry.addr ∧ next.pending = more ∧
      ∀ c ∈ next.running, (t.stream (32 * s.ev.n0 + 2 * c)).pc = p.addr := by
  obtain ⟨haddr, hkept⟩ := collectPath_keeps s s.ev.n0 entry
  obtain ⟨e', hstack', haddr', -, -, hmore, hpc⟩ := startPath_starts s s.ev.n0 (s.collectPath s.ev.n0 entry) rest p more
  refine ⟨_, e', (exec_brgPathEnd hstack hlive hthere).trans ?_, hstack', haddr'.trans haddr, hmore, hpc⟩
  rw [State.nextPath, hkept, hpending]

include hstack hlive hthere in
theorem brgPathEnd_restores (hpending : entry.pending = []) :
    exec .brgPathEnd s = .next (s.restorePacking s.ev.n0 (s.collectPath s.ev.n0 entry) rest) := by
  rw [exec_brgPathEnd hstack hlive hthere, State.nextPath, (collectPath_keeps s s.ev.n0 entry).2, hpending]
end

end Sys2Proof.Machine
end

section
/-! The completion of a gang, the boundary between scratchpad and L1, and parks (01 R37, 03 R88, R89, 13 R315). -/

namespace Sys2Proof.Machine

/-- The node table, the gangs and host memory. -/
def State.placings (s : State) : Tab Node × Tab Gang × List Host.Cell := (s.nodes, s.gangs, s.hostMem)

theorem CacheStep.placings {s t : State} (h : CacheStep s t) : t.placings = s.placings :=
  congrArg₂ Prod.mk h.nodes (congrArg₂ Prod.mk h.gangs (congrArg State.hostMem h.rest :))

theorem rcbPut_step (s : State) (part : Nat) (u : RcbUse) (k v : Nat) : CacheStep s (s.rcbPut part u k v) :=
  (CacheStep.refl s).writeCoh ..

theorem showCharges_placings (s : State) (part : Nat) (chain : List RcbLink) : (s.showCharges part chain).placings = s.placings := by
  refine foldl_proj State.placings (fun u l => ?_) chain s
  dsimp only
  split
  · rfl
  · rename_i x _
    have hput := (rcbPut_step u part x 6 (u.rcbWord6 part l.addr)).placings
    split
    · exact (rcbPut_step _ part x 5 (x.pj / 10 ^ 9)).placings.trans hput
    · exact hput

theorem removeGang_leaves (s : State) (g : Nat) :
    (s.removeGang g).placings = (s.nodes, Tab.del g s.gangs, s.hostMem) := by
  unfold State.removeGang
  dsimp only
  split <;> rfl

/-- A gang whose completion its node has. -/
def Node.takesGang (n : Node) (x : Gang) (words : List Word) : Node :=
  { n with
    doneGangs := n.doneGangs ++ [x.gangid],
    witness := if n.desc.wkind = 0 then n.witness else n.witness ++ [(x.gangid, x.core, words)],
    ranOn := n.ranOn ++ [(x.gangid, x.core)] }

/-- The state as a gang's completion reaches its node. -/
def State.gangDone (s : State) (g : Nat) (x : Gang) (words : List Word) : State :=
  let u := ((s.release x.core 6).updNode x.node (·.takesGang x words)).removeGang g
  u.showCharges (partOfNode x.node) (u.node x.node).chain

theorem gangDone_leaves (s : State) (g : Nat) (x : Gang) (words : List Word) :
    (s.gangDone g x words).node x.node = (s.node x.node).takesGang x words ∧ Tab.find g (s.gangDone g x words).gangs = none ∧
      (s.gangDone g x words).hostMem = s.hostMem := by
  obtain ⟨u, hu⟩ : ∃ u, u = (s.release x.core 6).updNode x.node (·.takesGang x words) := ⟨_, rfl⟩
  have hrelease : CacheStep s (s.release x.core 6) := (CacheStep.refl s).release x.core 6
  have hall : (s.gangDone g x words).placings = (u.nodes, Tab.del g u.gangs, u.hostMem) := by
    rw [State.gangDone, ← hu]
    exact (showCharges_placings ..).trans (removeGang_leaves u g)
  have hnodes : (s.gangDone g x words).nodes = u.nodes := congrArg Prod.fst hall
  have hgangs : (s.gangDone g x words).gangs = Tab.del g u.gangs := congrArg (·.2.1) hall
  have hhost : (s.gangDone g x words).hostMem = u.hostMem := congrArg (·.2.2) hall
  have hnode : u.node x.node = (s.node x.node).takesGang x words := by
    have hbefore : (s.release x.core 6).node x.node = s.node x.node := congrArg (Tab.get ({} : Node) · x.node) hrelease.nodes
    rw [hu, State.updNode_eq, State.node_setNode, hbefore]
  refine ⟨(congrArg (Tab.get ({} : Node) · x.node) hnodes).trans hnode, ?_, ?_⟩
  · rw [hgangs]
    exact Tab.find_del_same ..
  · rw [hhost, hu]
    exact (congrArg State.hostMem hrelease.rest :)

section
variable {s : State} {x : Gang} (hgang : Tab.find s.ev.n0 s.gangs = some x) (hended : ∀ k ∈ crewsOf s.ev.n0 x, (s.crew k).ended = true)
  (hdrained : s.gangDrained s.ev.n0 = true) (hlive : x.live = true) (hhalted : x.halted = false)

include hgang hended hdrained hlive hhalted in
theorem exec_gangComplete_waits {v : State} (hdue : s.writesDue x = some v) : exec .gangComplete s = .next v := by
  have hall : (crewsOf s.ev.n0 x).all (fun k => (s.crew k).ended) = true := List.all_eq_true.mpr hended
  refine event_next (f := onGangComplete) ?_
  unfold onGangComplete
  dsimp only
  rw [hgang]
  dsimp only
  rw [hall, hdrained, hlive, hhalted, hdue, if_neg (by simp)]
  rfl

include hgang hended hdrained hlive hhalted in
theorem exec_gangComplete (hdue : s.writesDue x = none) : exec .gangComplete s = .next
    (let t := s.gangDone s.ev.n0 x (flipWord (x.witness.map Prod.fst) s.ev.n2 s.ev.n1)
    let n := (s.node x.node).takesGang x (flipWord (x.witness.map Prod.fst) s.ev.n2 s.ev.n1)
    if n.doneGangs.length < n.desc.gangs then t
    else if n.desc.wkind ≠ 0 then t.updNode x.node fun n => { n with st := .handoff } else t.completeNode x.node) := by
  have hall : (crewsOf s.ev.n0 x).all (fun k => (s.crew k).ended) = true := List.all_eq_true.mpr hended
  have hrelease : CacheStep s (s.release x.core 6) := (CacheStep.refl s).release x.core 6
  have hnode : (((s.release x.core 6).updNode x.node (·.takesGang x (flipWord (x.witness.map Prod.fst) s.ev.n2 s.ev.n1))).removeGang s.ev.n0).node
      x.node = (s.node x.node).takesGang x (flipWord (x.witness.map Prod.fst) s.ev.n2 s.ev.n1) := by
    refine (congrArg (fun p => Tab.get ({} : Node) p.1 x.node) (removeGang_leaves _ s.ev.n0)).trans ?_
    exact (State.node_setNode ..).trans (congrArg (Node.takesGang · x _) (congrArg (Tab.get ({} : Node) · x.node) hrelease.nodes))
  refine event_next (f := onGangComplete) ?_
  unfold onGangComplete
  dsimp only
  rw [hgang]
  dsimp only
  rw [hall, hdrained, hlive, hdue, if_neg (by simp [hhalted]), hhalted]
  simp only [Option.isSome_none, Bool.false_eq_true, if_false]
  rw [← hnode]
  obtain ⟨n, hn⟩ : ∃ n, n = (((s.release x.core 6).updNode x.node
    (·.takesGang x (flipWord (x.witness.map Prod.fst) s.ev.n2 s.ev.n1))).removeGang s.ev.n0).node x.node := ⟨_, rfl⟩
  by_cases hmore : n.doneGangs.length < n.desc.gangs
  · rw [hn] at hmore
    exact (if_pos hmore).trans (congrArg some (if_pos hmore).symm)
  · by_cases hkind : n.desc.wkind ≠ 0
    · rw [hn] at hmore hkind
      exact (if_neg hmore).trans ((if_pos hkind).trans (congrArg some ((if_neg hmore).trans (if_pos hkind)).symm))
    · rw [hn] at hmore hkind
      exact (if_neg hmore).trans ((if_neg hkind).trans (congrArg some ((if_neg hmore).trans (if_neg hkind)).symm))
end

end Sys2Proof.Machine
end

section
/-! SUPPORT. Granules, parks and placement (03 R88, R89, 13 R315, 14 R342). -/

namespace Sys2Proof.Machine

theorem adapt_step (s : State) (core total gain tail : Nat) : CacheStep s (s.adapt core total gain tail) := by
  have hbegin (u : State) (h : CacheStep s u) (m : GranMove) : CacheStep s (u.updCore core fun c => { c with move := some m }) := h.updCore ..
  have hgrow : CacheStep s (if 1 ≤ (s.core core).l1gran ∧ (total < 256 ∨ tail * 64 < total) then
      match s.spTaker core with
      | some (g, x) => if 1 ≤ x.spBack then (s.l1Shrink core ((s.core core).l1gran - 1)).updCore core fun c => { c with move := some ⟨g, x.spcur + 1⟩ } else s
      | none => s
    else s) := by
    split
    · split
      · split
        · exact hbegin _ ((CacheStep.refl s).l1Shrink ..) _
        · exact .refl s
      · exact .refl s
    · exact .refl s
  unfold State.adapt
  dsimp only
  split
  · split
    · exact hbegin _ (.refl s) _
    · exact hgrow
  · exact hgrow

/-- Changes of gangs that keep each one's scratchpad. -/
theorem scratch_foldl {α : Type} {f : Gang → Gang} (hf : ∀ x, (f x).scratch = x.scratch) (xs : List (Nat × α)) (s : State) (k : Nat) :
    ((xs.foldl (fun s p => s.updGang p.1 f) s).gang k).scratch = (s.gang k).scratch :=
  foldl_proj (fun s => (s.gang k).scratch) (fun u p => by
    by_cases h : k = p.1
    · rw [h, gang_updGang, hf]
    · rw [State.updGang_eq, State.gang_setGang_other _ _ h]) xs s

/-- The counters of a core's gangs start again. -/
def State.restartCounts (s : State) (core : Nat) : State :=
  (s.onCore core).foldl (fun s p => s.updGang p.1 fun x => { x with spAcc := 0, spBack := 0 }) s

theorem restartCounts_leaves (s : State) (core : Nat) :
    (s.restartCounts core).streams = s.streams ∧ ∀ k, ((s.restartCounts core).gang k).scratch = (s.gang k).scratch := by
  unfold State.restartCounts
  exact ⟨foldl_proj State.streams (fun _ _ => by rfl) _ _, scratch_foldl (fun _ => by rfl) _ _⟩

theorem scratchpadAdapt_begins {s : State} (hdue : (s.core s.ev.n0).interval + 65536 ≤ s.cyclesOf (clusterOf s.ev.n0))
    (hmove : (s.core s.ev.n0).move = none) :
    ∃ t, exec .scratchpadAdapt s = .next t ∧ (t.core s.ev.n0).interval = s.cyclesOf (clusterOf s.ev.n0) ∧ t.streams = s.streams ∧
      ∀ k, (t.gang k).scratch = (s.gang k).scratch := by
  obtain ⟨u, hu⟩ : ∃ u, u = s.adapt s.ev.n0 (s.core s.ev.n0).l1total (s.core s.ev.n0).l1gain (s.core s.ev.n0).l1tail := ⟨_, rfl⟩
  have hstep : CacheStep s u := hu ▸ adapt_step ..
  refine ⟨(u.restartCounts s.ev.n0).updCore s.ev.n0 fun c =>
    { c with interval := s.cyclesOf (clusterOf s.ev.n0), l1total := 0, l1gain := 0, l1tail := 0 }, ?_, ?_, ?_, fun k => ?_⟩
  · refine event_next (f := onScratchpadAdapt) ?_
    unfold onScratchpadAdapt
    dsimp only
    rw [hmove, if_neg (by simp; omega), ← hu]
    rfl
  · rw [State.updCore_eq, State.core_setCore]
  · exact (restartCounts_leaves u s.ev.n0).1.trans hstep.streams
  · exact ((restartCounts_leaves u s.ev.n0).2 k).trans (congrArg Gang.scratch (gang_of_gangs hstep.gangs k))

theorem granuleMoveDone_ends {s : State} {m : GranMove} (hmove : (s.core s.ev.n0).move = some m) :
    ∃ t, exec .granuleMoveDone s = .next t ∧ (t.gang m.gang).spcur = m.spcur ∧ (t.core s.ev.n0).move = none ∧
      (t.core s.ev.n0).l1gran = (s.core s.ev.n0).l1gran + (if m.spcur < (s.gang m.gang).spcur then 1 else 0) ∧
      t.mem = s.mem ∧ ∀ k, (t.gang k).scratch = (s.gang k).scratch := by
  obtain ⟨u, hu⟩ : ∃ u, u = s.updGang m.gang fun x => { x with spcur := m.spcur } := ⟨_, rfl⟩
  have hgang : u.gang m.gang = { s.gang m.gang with spcur := m.spcur } := by rw [hu, gang_updGang]
  refine ⟨u.updCore s.ev.n0 fun c =>
    { c with move := none, l1gran := c.l1gran + if m.spcur < (s.gang m.gang).spcur then 1 else 0 }, ?_, ?_, ?_, ?_, ?_, fun k => ?_⟩
  · refine event_next (f := onGranuleMoveDone) ?_
    unfold onGranuleMoveDone
    rw [hmove, hu]
  · exact (congrArg Gang.spcur hgang :)
  · rw [State.updCore_eq, State.core_setCore]
  · rw [State.updCore_eq, State.core_setCore, hu]
    rfl
  · rw [hu]
    rfl
  · rw [hu]
    by_cases h : k = m.gang
    · rw [h]
      exact (congrArg Gang.scratch (hu ▸ hgang) :)
    · exact congrArg Gang.scratch (State.gang_setGang_other s _ h)

/-! Parks. -/

theorem resumeGang_kept {s : State} {g : Nat} (h : (s.gang g).parkHold = true) : s.resumeGang g = s := by
  unfold State.resumeGang
  dsimp only
  rw [if_pos (.inr (.inl h))]

theorem retain_keeps (s : State) (cl : Nat) : ∃ c, s.retain cl = { s with clusters := c } := by
  unfold State.retain
  dsimp only
  split
  · exact ⟨_, rfl⟩
  · exact ⟨s.clusters, rfl⟩

/-- A gang once it is parked. -/
def Gang.park (x : Gang) (order : Nat) (mine : List MxEntry) : Gang :=
  { x with parked := true, req := .none, parkOrder := order, shedAt := none, mxSaved := mine ++ x.mxSaved }

/-- The streams and the crews of a gang as it parks, with its entries that have not begun out of the reservation table. -/
def State.parkCrews (s : State) (g : Nat) (x : Gang) (table : List MxEntry) : State :=
  let s := s.updCluster (clusterOf x.core) fun c => { c with table }
  let s := (streamsOf g x).foldl (fun s r => s.updStream r fun t => { t with efaults := [] }) s
  (crewsOf g x).foldl (fun s k => s.updCrew k fun c => { c with place := .parked }) s

theorem parkCrews_leaves (s : State) (g : Nat) (x : Gang) (table : List MxEntry) :
    (∀ k ∈ crewsOf g x, ((s.parkCrews g x table).crew k).place = .parked) ∧
      (∀ r, ((s.parkCrews g x table).stream r).pc = (s.stream r).pc) ∧ (s.parkCrews g x table).gangs = s.gangs ∧
      (s.parkCrews g x table).hostMem = s.hostMem := by
  refine ⟨?_, fun r => ?_, ?_, ?_⟩
  · refine foldl_brings (P := fun k u => (u.crew k).place = .parked) (fun u k => ?_) (fun u k j hk => ?_) _ _
    · exact congrArg Crew.place (State.crew_setCrew u k _)
    · by_cases h : k = j
      · rw [h]
        exact congrArg Crew.place (State.crew_setCrew u j _)
      · exact (congrArg Crew.place (State.crew_setCrew_other u _ h)).trans hk
  · unfold State.parkCrews
    refine (foldl_proj (fun u : State => (u.stream r).pc) (fun _ _ => by rfl) _ _).trans ?_
    refine (foldl_proj (fun u : State => (u.stream r).pc) (fun u j => ?_) _ _).trans (by rfl)
    by_cases h : r = j
    · rw [h, State.updStream_eq, State.stream_setStream]
    · exact congrArg Stream.pc (State.stream_setStream_other u _ h)
  · unfold State.parkCrews
    exact (foldl_proj State.gangs (fun _ _ => by rfl) _ _).trans (foldl_proj State.gangs (fun _ _ => by rfl) _ _)
  · unfold State.parkCrews
    exact (foldl_proj State.hostMem (fun _ _ => by rfl) _ _).trans (foldl_proj State.hostMem (fun _ _ => by rfl) _ _)

theorem parkComplete_parks {s : State} (hlive : (s.gang s.ev.n0).live = true) (hparked : (s.gang s.ev.n0).parked = false)
    (hreq : (s.gang s.ev.n0).req ≠ .none) (hhold : (s.gang s.ev.n0).parkHold = true)
    (hstop : ∀ k ∈ crewsOf s.ev.n0 (s.gang s.ev.n0), (s.crew k).stopped = true ∨ (s.crew k).ended = true)
    (hbusy : s.parkBusy s.ev.n0 = false) :
    ∃ t, exec .parkComplete s = .next t ∧ (t.gang s.ev.n0).parked = true ∧ (t.gang s.ev.n0).req = .none ∧
      (∀ k ∈ crewsOf s.ev.n0 (s.gang s.ev.n0), (t.crew k).place = .parked) ∧
      (∀ r ∈ streamsOf s.ev.n0 (s.gang s.ev.n0), (t.stream r).pc = (s.stream r).pc) ∧ t.hostMem = s.hostMem := by
  let x := s.gang s.ev.n0
  obtain ⟨⟨mine, others⟩, hparts⟩ : ∃ p, (s.cluster (clusterOf x.core)).table.partition (fun e => gangOf e.stream == s.ev.n0) = p := ⟨_, rfl⟩
  obtain ⟨u, hu⟩ : ∃ u, u = s.parkCrews s.ev.n0 x others := ⟨_, rfl⟩
  obtain ⟨hplace, hpc, hgangs, hhost⟩ := parkCrews_leaves s s.ev.n0 x others
  rw [← hu] at hplace hpc hgangs hhost
  obtain ⟨v, hv⟩ : ∃ v, v = u.release x.core 6 := ⟨_, rfl⟩
  have hstep : CacheStep u v := hv ▸ (CacheStep.refl u).release ..
  obtain ⟨w, hw⟩ : ∃ w, w = ({ v with fresh := v.fresh + 1 } : State).updGang s.ev.n0 (Gang.park · v.fresh mine) := ⟨_, rfl⟩
  have hgang : w.gang s.ev.n0 = x.park v.fresh mine := by
    rw [hw, gang_updGang]
    exact congrArg (Gang.park · v.fresh mine) (gang_of_gangs (hstep.gangs.trans hgangs) s.ev.n0)
  obtain ⟨c, hc⟩ := retain_keeps w (clusterOf x.core)
  have hall : (crewsOf s.ev.n0 x).all (fun k => (s.crew k).stopped || (s.crew k).ended) = true :=
    List.all_eq_true.mpr fun k hk => Bool.or_eq_true_iff.mpr (hstop k hk)
  refine ⟨w.retain (clusterOf x.core), ?_, ?_, ?_, fun k hk => ?_, fun r _ => ?_, ?_⟩
  · have hresume : (w.retain (clusterOf x.core)).resumeGang s.ev.n0 = w.retain (clusterOf x.core) := resumeGang_kept (by
      rw [hc]
      exact (congrArg Gang.parkHold hgang :).trans hhold)
    refine event_next (f := onParkComplete) ?_
    unfold onParkComplete
    dsimp only
    rw [show (crewsOf s.ev.n0 (s.gang s.ev.n0)).all _ = true from hall, hlive, hparked, hbusy, if_neg (by simp [hreq])]
    rw [show List.partition _ (s.cluster (clusterOf (s.gang s.ev.n0).core)).table = (mine, others) from hparts]
    rw [← hresume, hw, hv, hu]
    rfl
  · rw [hc]
    exact (congrArg Gang.parked hgang :)
  · rw [hc]
    exact (congrArg Gang.req hgang :)
  · rw [hc, hw]
    exact (congrArg (fun x => (Tab.get ({} : Crew) x k).place) hstep.crews).trans (hplace k hk)
  · rw [hc, hw]
    exact (congrArg (fun x => (Tab.get ({} : Stream) x r).pc) hstep.streams).trans (hpc r)
  · rw [hc, hw]
    exact (congrArg State.hostMem hstep.rest :).trans hhost

/-! Placement. -/

theorem exec_gangPlace_next {s : State} (hmove : s.toMove s.ev.n0 = none) {n : Nat} {rest : List Nat} {u : State}
    (horder : s.placeOrder s.ev.n0 = n :: rest) (hable : (s.noteStuck (n :: rest)).tryPlace n = .able (some u)) :
    exec .gangPlace s = .next u := by
  have hstuck : (s.noteStuck (n :: rest)).stuck n = false := by rw [State.stuck, hable]
  refine event_next (f := onGangPlace) ?_
  unfold onGangPlace State.placeNext
  rw [hmove, horder]
  simp only [List.find?_cons, hstuck, Bool.not_false, hable]

/-- The first eligible core of an awake cluster takes the next gang. -/
theorem tryPlace_places {v : State} {n c : Nat} {cs : List Nat} (hspent : v.energySpent (partOfNode n) (v.node n) = false)
    (hcores : (v.node n).desc.cores = false) (hpref : v.preferred n (v.openCores n) = c :: cs) (hawake : v.asleep [c] = []) :
    v.tryPlace n = .able (some (v.placeGang n c)) := by
  simp only [State.tryPlace, hspent, hcores, hpref, State.onAwake, hawake, Bool.false_eq_true, if_false, if_true]

/-- An instance with its energy spent and no gang placed ends. -/
theorem tryPlace_ends {v : State} {n : Nat} (hspent : v.energySpent (partOfNode n) (v.node n) = true) (hheld : (v.node n).held = 0) :
    v.tryPlace n = .able (some ((v.endInstance n 0x8004).settleReady)) := by
  simp only [State.tryPlace, hspent, hheld, if_true]

end Sys2Proof.Machine
end

section
/-! The events of gangs and placement. -/

namespace Sys2Proof.Machine

/-- Settles O54: BRG waits at its meeting, and each event is enabled by its hypotheses. -/
theorem gangEventsHappen : Obligations.GangEventsHappen := by
  refine ⟨fun s r pred sense target reconv h => ⟨fun hsingle => ?_, fun hsingle hlegal hreconv _ _ _ hmet =>
    brg_waits h hsingle hlegal hreconv hmet⟩, ?_⟩
  · refine run_illegal h.1 h.2.1 ?_
    simp only [hsingle, need_false, bind, Except.bind]
  intro s e g x
  refine ⟨?meeting, ?pathEnd, ?complete, ?handoff, scratchpadAdapt_begins, fun m hmove => granuleMoveDone_ends hmove,
    fun hlive hparked hreq hhold hstop hbusy => parkComplete_parks hlive hparked hreq hhold hstop hbusy, ?moves, ?places, ?reserves, ?preempts⟩
  case meeting =>
    intro c cs pred sense taken rejoin hcount hlive hwait hmet cond path starts
    have hexec := exec_brgMeeting hcount hlive hwait hmet
    have hnil (b : Bool) : s.pathThreads g (c :: cs) (s.brgCond g pred sense) b = [] ↔ path b = [] := pathThreads_eq_nil
    refine ⟨fun hfull => hexec.trans (by rw [if_pos hfull]), fun hroom hfall => ?_, fun hroom hfall htaken => ?_⟩
    · obtain ⟨entry, hstack, haddr, hcrews, hremap, hpc⟩ := divide_starts (s := s) (g := g) (cs := c :: cs) (pred := pred) (sense := sense)
        (fall := (s.stream (32 * g + 2 * c)).pc + 4) (taken := taken) (rejoin := rejoin)
        (List.filter_cons_of_pos (bne_iff_ne.mpr fun h => hfall ((hnil false).mp h)))
      exact ⟨_, entry, hexec.trans (by rw [if_neg (Nat.not_le.mpr hroom)]), hstack, haddr, hcrews, hremap, hpc⟩
    · obtain ⟨entry, hstack, haddr, hcrews, hremap, hpc⟩ := divide_starts (s := s) (g := g) (cs := c :: cs) (pred := pred) (sense := sense)
        (fall := (s.stream (32 * g + 2 * c)).pc + 4) (taken := taken) (rejoin := rejoin)
        ((List.filter_cons_of_neg (by simp [(hnil false).mpr hfall])).trans
          (List.filter_cons_of_pos (bne_iff_ne.mpr fun h => htaken ((hnil true).mp h))))
      exact ⟨_, entry, hexec.trans (by rw [if_neg (Nat.not_le.mpr hroom)]), hstack, haddr, hcrews, hremap, hpc⟩
  case pathEnd =>
    exact fun entry rest hstack hlive hthere => ⟨fun p more hpending => brgPathEnd_next hstack hlive hthere hpending,
      brgPathEnd_restores hstack hlive hthere⟩
  case complete =>
    intro hgang hended hdrained hlive hhalted
    obtain ⟨hnode, hgone, hhost⟩ := gangDone_leaves s g x (flipWord (x.witness.map Prod.fst) s.ev.n2 s.ev.n1)
    have hcount : ((s.node x.node).takesGang x (flipWord (x.witness.map Prod.fst) s.ev.n2 s.ev.n1)).doneGangs.length =
        (s.node x.node).doneGangs.length + 1 := List.length_append
    refine ⟨fun v hdue => exec_gangComplete_waits hgang hended hdrained hlive hhalted hdue, fun hdue hmore => ?_, fun hdue hlast hkind => ?_⟩
    · refine ⟨_, (exec_gangComplete hgang hended hdrained hlive hhalted hdue).trans (congrArg Host.Outcome.next (if_pos ?_)),
        (congrArg Node.doneGangs hnode :), hgone, hhost⟩
      rw [hcount]
      exact hmore
    · refine ⟨(s.gangDone g x (flipWord (x.witness.map Prod.fst) s.ev.n2 s.ev.n1)).updNode x.node fun n => { n with st := .handoff },
        (exec_gangComplete hgang hended hdrained hlive hhalted hdue).trans (congrArg Host.Outcome.next ((if_neg ?_).trans (if_pos hkind))),
        ?_, hgone⟩
      · rw [hcount]
        exact Nat.not_lt.mpr hlast
      · rw [State.updNode_eq, State.node_setNode]
  case handoff =>
    intro n hn hst
    refine event_next (f := onWitnessHandoff) ?_
    unfold onWitnessHandoff
    rw [show Tab.find s.ev.n0 s.nodes = some n from hn]
    exact if_pos hst
  case moves =>
    intro k core hmove
    refine event_next (f := onGangPlace) ?_
    unfold onGangPlace
    rw [show s.toMove s.ev.n0 = some (k, core) from hmove]
  case places =>
    intro n rest hmove horder v
    exact ⟨fun c cs hspent hcores hpref hawake =>
      exec_gangPlace_next hmove horder (tryPlace_places hspent hcores hpref hawake),
      fun hspent hheld => exec_gangPlace_next hmove horder (tryPlace_ends hspent hheld)⟩
  case reserves =>
    intro n rest at_ horder hat hdue hnone hstuck
    refine event_next (f := onPlacementReservation) ?_
    unfold onPlacementReservation
    rw [show s.placeOrder s.ev.n0 = n :: rest from horder]
    dsimp only
    rw [hat]
    exact if_pos ⟨hdue, Option.isNone_iff_eq_none.mpr hnone, hstuck⟩
  case preempts =>
    intro at_ hat hlive hparked hreq hdue
    refine event_next (f := onShedPreempt) ?_
    unfold onShedPreempt
    dsimp only
    rw [show (s.gang s.ev.n0).shedAt = some at_ from hat]
    exact if_pos ⟨hlive, by simpa using hparked, hreq, hdue⟩

end Sys2Proof.Machine
end

section
/-! The copy engine takes up its commands and carries them out (08 R216, R219 to R221, 19 R449). -/

namespace Sys2Proof.Machine

/-- An event that does not happen. -/
theorem event_nothing {s : State} {f : Ev → State → Option State} (h : f s.ev s = none) : event s f = .next s := by rw [event, h]

/-- The guard that a command in a queue waits for. -/
def Stream.commandGuard (u : Stream) (k : Option Nat) : Guard :=
  match k with
  | none => .on
  | some k => u.guard k

section
variable {s : State} {r : Nat} {cmd : CopyCmd} {rest : List CopyCmd} (hqueue : (s.stream r).copyQ = cmd :: rest)

include hqueue in
theorem acceptCopy_held (hguard : (s.stream r).commandGuard cmd.guard = .unset) : s.acceptCopy r = none := by
  unfold State.acceptCopy Stream.commandGuard at *
  dsimp only
  rw [hqueue]
  cases hk : cmd.guard with
  | none => rw [hk] at hguard; cases hguard
  | some k => rw [hk] at hguard; simp only [hk, hguard]

include hqueue in
theorem acceptCopy_discards (hguard : (s.stream r).commandGuard cmd.guard = .off) :
    s.acceptCopy r = some ((s.setStream r { s.stream r with copyQ := rest }).discardCopy r cmd) := by
  unfold State.acceptCopy Stream.commandGuard at *
  dsimp only
  rw [hqueue]
  cases hk : cmd.guard with
  | none => rw [hk] at hguard; cases hguard
  | some k => rw [hk] at hguard; simp only [hk, hguard]

/-- A command as the engine takes it up. -/
def CopyCmd.taken (cmd : CopyCmd) (id : Nat) : CopyCmd := { cmd with guard := none, op := some id }

/-- What acceptance does with a command of each kind. -/
def State.beginCopy (s : State) (r : Nat) (cmd : CopyCmd) (rest : List CopyCmd) : State :=
  let u : State := { s with fresh := s.fresh + 1 }
  let cl := s.engineOf r
  match cmd.what with
  | .lanes _ _ _ _ =>
    (u.setStream r { s.stream r with copyQ := rest }).updCluster cl fun x => { x with copies := x.copies ++
      [{ id := s.fresh, stream := r, cmd := cmd.taken s.fresh, desc := [], bars := [], err := 0, gangs := [(gangOf r, (s.gangAt r).uid)] }] }
  | .box addr _ => (u.setStream r { s.stream r with copyQ := cmd.taken s.fresh :: rest }).openHead cl r s.fresh (cmd.taken s.fresh) addr.toNat

include hqueue in
theorem acceptCopy_begins (hguard : (s.stream r).commandGuard cmd.guard = .on) (hop : cmd.op = none) :
    s.acceptCopy r = some (s.beginCopy r cmd rest) := by
  unfold State.acceptCopy State.beginCopy Stream.commandGuard at *
  dsimp only
  rw [hqueue]
  cases hk : cmd.guard with
  | none =>
    simp only [hk, hop, Option.any_none, Bool.false_eq_true, if_false, State.freshNum]
    cases hw : cmd.what <;> simp only [CopyCmd.taken, hk, hw] <;> rfl
  | some k =>
    rw [hk] at hguard
    simp only [hk, hguard, hop, Option.any_none, Bool.false_eq_true, if_false, State.freshNum]
    cases hw : cmd.what <;> simp only [CopyCmd.taken, hk, hw] <;> rfl
end

/-- A box whose descriptor can be read is taken up with it. -/
theorem openHead_takes {s v : State} {cl r id addr : Nat} {cmd : CopyCmd} {xs : List Spot}
    (hspots : s.engineSpots (s.gangAt r) .read (va56 addr) 192 = (.ok xs, v)) (hfetch : v.engineFetch (s.gangAt r).core id xs = none)
    (hbad : v.opBad.contains id = false) :
    s.openHead cl r id cmd addr = ((v.engineRead (s.gangAt r).core id xs).2.noteReads (s.gangAt r).node xs).takeCopy cl r id cmd
      (some (dwords 24 (v.engineRead (s.gangAt r).core id xs).1)) := by
  simp only [State.openHead, hspots, hfetch, hbad, Bool.false_eq_true, if_false]

/-- A state without what charges for energy change. -/
def State.lessCharges (s : State) : State := { s with nodes := [], past := [], parts := [] }

theorem chargeEngine_rest (s : State) (r pj : Nat) : (s.chargeEngine r pj).lessCharges = s.lessCharges := by
  unfold State.chargeEngine
  split
  · unfold State.chargeGang
    split
    · split
      · rfl
      · split <;> rfl
    · rfl
    · rfl
  · rfl

/-- A copy announced nowhere leaves its cluster's list as it ends. -/
theorem endCopy_copies {s : State} {cl : Nat} {c : Copy} {err lines : Nat} (hbars : c.bars = []) :
    ((s.endCopy cl c err lines).cluster cl).copies = (s.cluster cl).copies.filter (·.id != c.id) := by
  unfold State.endCopy
  rw [hbars]
  obtain ⟨u, hu⟩ : ∃ u, u = (s.updStream c.stream fun t => t.copyDone c.cmd.batch err).chargeEngine c.stream
    (lines * (1000 + if (s.cluster cl).railNow then 50 else 20)) := ⟨_, rfl⟩
  have hcluster : u.cluster cl = s.cluster cl := by
    rw [hu]
    exact congrArg (Tab.get ({} : Cluster) · cl) (congrArg State.clusters (chargeEngine_rest _ c.stream _) :)
  have hdone : (u.updCluster cl fun x => { x with copies := x.copies.filter (·.id != c.id) }).cluster cl =
      { u.cluster cl with copies := (u.cluster cl).copies.filter (·.id != c.id) } := State.cluster_setCluster ..
  refine Eq.trans ?_ ((congrArg Cluster.copies hdone).trans (by rw [hcluster]))
  rw [hu]
  rfl

section
variable (s : State) (cl r id : Nat) {cmd : CopyCmd} {ws : List DWord} (hgood : boxBad ws = false) (hbar : cmd.bar = none)

/-- A box without a barrier as its cluster's list holds it. -/
def State.boxCopy (s : State) (r id : Nat) (cmd : CopyCmd) (ws : List DWord) : Copy :=
  { id, stream := r, cmd, desc := ws, bars := [], err := 0,
    gangs := ((s.updStream r fun t => { t with copyQ := t.copyQ.drop 1 }).receivers (gangOf r) (boxDesc ws)).map fun g => (g, (s.gang g).uid) }

/-- The state with a box in its cluster's list. -/
def State.listBox (s : State) (cl r id : Nat) (cmd : CopyCmd) (ws : List DWord) : State :=
  (s.updStream r fun t => { t with copyQ := t.copyQ.drop 1 }).updCluster cl fun x => { x with copies := x.copies ++ [s.boxCopy r id cmd ws] }

include hgood hbar in
theorem takeCopy_plain : s.takeCopy cl r id cmd (some ws) =
    if (boxDesc ws).count = 0 then (s.listBox cl r id cmd ws).endCopy cl (s.boxCopy r id cmd ws) 0 0 else s.listBox cl r id cmd ws := by
  unfold State.takeCopy
  simp only [hbar, hgood, Option.getD_some, Option.isNone_some, Bool.false_eq_true, if_false, Option.isSome_some, true_and]
  rfl

theorem listBox_copies (cmd : CopyCmd) (ws : List DWord) :
    ((s.listBox cl r id cmd ws).cluster cl).copies = (s.cluster cl).copies ++ [s.boxCopy r id cmd ws] :=
  congrArg Cluster.copies (State.cluster_setCluster ..)

include hgood hbar in
/-- A box with no element leaves its cluster's list as it was. -/
theorem takeCopy_empty (hnew : ∀ c ∈ (s.cluster cl).copies, c.id ≠ id) (hcount : (boxDesc ws).count = 0) :
    ((s.takeCopy cl r id cmd (some ws)).cluster cl).copies = (s.cluster cl).copies := by
  rw [takeCopy_plain s cl r id hgood hbar, if_pos hcount, endCopy_copies rfl, listBox_copies, List.filter_append]
  have hkeep : (s.cluster cl).copies.filter (·.id != id) = (s.cluster cl).copies :=
    List.filter_eq_self.mpr fun c hc => bne_iff_ne.mpr (hnew c hc)
  have hdrop : [s.boxCopy r id cmd ws].filter (·.id != id) = [] := by simp [State.boxCopy]
  exact (congrArg₂ (· ++ ·) hkeep hdrop).trans (List.append_nil _)
end

/-! Completion. -/

section
variable {s : State} {cl : Nat} {c : Copy}
  (hfind : (s.clusters.findSome? fun p => (p.2.copies.find? fun c => c.id == s.ev.n0).map fun c => (p.1, c)) = some (cl, c))
  (hheld : s.faultHeld c.stream c.id = false)

include hfind hheld in
theorem exec_copyComplete_answered {ids : List Nat} (hsent : c.sent = some ids) (hover : (s.remotes.any fun q => ids.contains q.id) = false) :
    exec .copyComplete s = .next (s.endCopy cl c (if s.opBad.contains c.id then 5 else 0) 0) := by
  refine event_next (f := onCopyComplete) ?_
  unfold onCopyComplete
  rw [hfind]
  simp only [State.stepCopy, hheld, hsent, hover, Bool.false_eq_true, if_false]

include hfind hheld in
theorem exec_copyComplete_failed (hsent : c.sent = none) (herr : c.err ≠ 0) : exec .copyComplete s = .next (s.endCopy cl c c.err 0) := by
  refine event_next (f := onCopyComplete) ?_
  unfold onCopyComplete
  rw [hfind]
  simp only [State.stepCopy, hheld, hsent, Bool.false_eq_true, if_false, if_pos herr]

include hfind hheld in
theorem exec_copyComplete {t : State} (hsent : c.sent = none) (herr : c.err = 0) (hperform : s.performCopy cl c = some t) :
    exec .copyComplete s = .next t := by
  refine event_next (f := onCopyComplete) ?_
  unfold onCopyComplete
  rw [hfind]
  simp only [State.stepCopy, hheld, hsent, herr, Bool.false_eq_true, if_false, ne_eq, not_true, hperform]
end

/-- Addresses in memory that a copy reads. -/
def Plan.memSrc (p : Plan) : List Int := if p.ssp then [] else p.moves.filterMap (·.src)

/-- Addresses in memory that a copy writes. -/
def Plan.memDst (p : Plan) : List Int := if p.dsp then [] else p.moves.map (·.dst)

section
variable {s : State} {cl : Nat} {c : Copy} (hstill : s.copyMoving c.stream (s.planOf c) = false)

include hstill in
theorem performCopy_range (hrange : (((s.planOf c).memSrc ++ (s.planOf c).memDst).any fun a => outOf56 a (s.planOf c).n) = true) :
    s.performCopy cl c = some (s.endCopy cl c 1 0) := by
  unfold State.performCopy
  simp only [hstill, Bool.false_eq_true, if_false]
  exact if_pos hrange

/-- What a copy whose places are all known does: the first of its errors, or its move. -/
def State.carryOut (w : State) (cl : Nat) (c : Copy) (g : Gang) (p : Plan) (sx dx : List (List Spot)) : State :=
  let es := zipElements p (gangOf c.stream) sx dx
  if w.opBad.contains c.id ∨ dx.flatten.any w.unreachable then w.endCopy cl c 5 0
  else if !w.spRangeOk c.stream p then w.endCopy cl c 3 0
  else if w.copyError g p es ≠ 0 then w.endCopy cl c (w.copyError g p es) 0
  else (w.moveBytes c p es).1.finishMove cl c (w.moveBytes c p es).2

include hstill in
theorem performCopy_resolved {v w : State} {sx dx : List (List Spot)}
    (hrange : (((s.planOf c).memSrc ++ (s.planOf c).memDst).any fun a => outOf56 a (s.planOf c).n) = false)
    (hsrc : s.resolveAll (s.gangAt c.stream) .read (s.planOf c).n (s.planOf c).memSrc = (.ok sx, v))
    (hdst : v.resolveAll (s.gangAt c.stream) .write (s.planOf c).n (s.planOf c).memDst = (.ok dx, w))
    (hfetch : w.engineFetch (s.gangAt c.stream).core c.id sx.flatten = none) (hhost : dx.flatten.any w.hostHeld = false) :
    s.performCopy cl c = some (w.carryOut cl c (s.gangAt c.stream) (s.planOf c) sx dx) := by
  unfold State.performCopy
  simp only [hstill, Bool.false_eq_true, if_false]
  refine (if_neg (by rw [Bool.not_eq_true]; exact hrange)).trans ?_
  unfold Plan.memSrc at hsrc
  unfold Plan.memDst at hdst
  rw [hsrc]
  dsimp only
  rw [hdst]
  dsimp only
  rw [hfetch]
  simp only [hhost, Bool.false_eq_true, if_false]
  unfold State.carryOut
  dsimp only
  split
  · rfl
  · split
    · rfl
    · split <;> rfl
end

end Sys2Proof.Machine
end

section
/-! The matrix engine takes up its commands (09 R235, R239, R240). -/

namespace Sys2Proof.Machine

/-- What an entry of a reservation table is for, and how far it has come. -/
def MxEntry.work (x : MxEntry) : Nat × MxCmd × Nat × MxPhase := (x.stream, x.cmd, x.quarter, x.phase)

theorem noteReady_table (s : State) (cl : Nat) {α : Type} (f : MxEntry → α) (hf : ∀ x at_, f { x with readyAt := at_ } = f x) :
    ((s.noteReady cl).cluster cl).table.map f = (s.cluster cl).table.map f := by
  have htable : ((s.noteReady cl).cluster cl).table = (s.cluster cl).table.map fun e =>
      if e.readyAt.isNone && s.mxReady (s.cluster cl).table [] e then { e with readyAt := some (s.cyclesOf cl) } else e :=
    congrArg Cluster.table (State.cluster_setCluster ..)
  rw [htable, List.map_map]
  refine List.map_congr_left fun e _ => ?_
  dsimp only [Function.comp]
  split
  · exact hf ..
  · rfl

theorem noteReady_cluster (s : State) (cl : Nat) : ∃ table, (s.noteReady cl).cluster cl = { s.cluster cl with table } :=
  ⟨_, State.cluster_setCluster ..⟩

section
variable {s : State} {r : Nat} {c : MxCmd} {rest : List MxCmd} (hqueue : (s.stream r).mxQ = c :: rest)

include hqueue in
theorem acceptMx_held (hguard : (s.stream r).commandGuard c.guard = .unset) : s.acceptMx r = none := by
  unfold State.acceptMx Stream.commandGuard at *
  dsimp only
  rw [hqueue]
  cases hk : c.guard with
  | none => rw [hk] at hguard; cases hguard
  | some k => rw [hk] at hguard; simp only [hk, hguard]

include hqueue in
theorem acceptMx_discards (hguard : (s.stream r).commandGuard c.guard = .off) :
    s.acceptMx r = some (s.setStream r ({ s.stream r with mxQ := rest }.mxDone c.seq 0 0 0)) := by
  unfold State.acceptMx Stream.commandGuard at *
  dsimp only
  rw [hqueue]
  cases hk : c.guard with
  | none => rw [hk] at hguard; cases hguard
  | some k => rw [hk] at hguard; simp only [hk, hguard]

/-- The entries of a command's quarters. -/
def State.quarterEntries (s : State) (r : Nat) (c : MxCmd) : List MxEntry :=
  (c.quarters.zip (List.range c.quarters.length)).map fun x =>
    { id := s.fresh + x.2, stream := r, cmd := c, quarter := x.1, phase := .accepted, gathered := [],
      rnsmap := (s.cluster (s.engineOf r)).rnsmap, wkeys := (s.part (s.partNum r)).wkeys }

theorem quarterEntries_work (s : State) (r : Nat) (c : MxCmd) :
    (s.quarterEntries r c).map MxEntry.work = c.quarters.map fun q => (r, c, q, .accepted) := by
  unfold State.quarterEntries
  rw [List.map_map]
  have hfst : c.quarters = (c.quarters.zip (List.range c.quarters.length)).map Prod.fst := by simp [List.map_fst_zip]
  conv_rhs => rw [hfst, List.map_map]
  rfl

/-- A stream's oldest command in the reservation table. -/
def State.enterMx (s : State) (r : Nat) (c : MxCmd) (rest : List MxCmd) : State :=
  ({ s with fresh := s.fresh + c.quarters.length }.setStream r { s.stream r with mxQ := rest }).updCluster (s.engineOf r) fun x =>
    { x with table := x.table ++ s.quarterEntries r c }

include hqueue in
theorem acceptMx_enters (hguard : (s.stream r).commandGuard c.guard = .on)
    (hroom : (s.cluster (s.engineOf r)).table.length + c.quarters.length ≤ 64) (hfirst : s.mustFollow r c = false) :
    s.acceptMx r = some ((s.enterMx r c rest).noteReady (s.engineOf r)) := by
  have hopen : ¬(64 < (s.cluster (s.engineOf r)).table.length + c.quarters.length ∨ s.mustFollow r c = true) := by
    rw [hfirst]
    rintro (hfull | hfollow)
    · exact absurd hroom (Nat.not_le.mpr hfull)
    · cases hfollow
  unfold State.acceptMx Stream.commandGuard at *
  dsimp only
  rw [hqueue]
  cases hk : c.guard with
  | none =>
    simp only [hk, if_neg hopen]
    rfl
  | some k =>
    rw [hk] at hguard
    simp only [hk, hguard, if_neg hopen]
    rfl
end

section
variable {s : State} (hquiet : ∀ q ∈ s.engineStreams (s.engineOf s.ev.n0), q ≠ s.ev.n0 → (s.stream q).mxQ = [] ∧ (s.gangAt q).mxSaved = [])

/-- A stream with no command in its queue or its gang's saved table has none to accept. -/
theorem offerMx_none {s : State} {q : Nat} (hqueue : (s.stream q).mxQ = []) (hsaved : (s.gangAt q).mxSaved = []) : s.offerMx q = none := by
  unfold State.offerMx
  split
  · rfl
  · simp only [hsaved, State.acceptMx, hqueue]

/-- Nothing that other streams have queued is to come first. -/
theorem mustFollow_none {s : State} {r : Nat} {c : MxCmd} (h : ∀ q ∈ s.engineStreams (s.engineOf r), q ≠ r → (s.stream q).mxQ = []) :
    s.mustFollow r c = false := by
  refine List.any_eq_false.mpr fun q hq hfollow => ?_
  obtain ⟨hcrew, hany⟩ := Bool.and_eq_true_iff.mp hfollow
  obtain ⟨hcrew, -⟩ := Bool.and_eq_true_iff.mp hcrew
  have hr : q ≠ r := fun h => bne_iff_ne.mp hcrew (congrArg crewOf h)
  rw [Stream.freeMx, h q hq hr] at hany
  cases hany

include hquiet in
/-- With nothing queued elsewhere, what a stream offers is taken. -/
theorem exec_matrixAccept {t : State} (hoffer : s.offerMx s.ev.n0 = some t) :
    exec .matrixAccept s = .next (t.updCluster (s.engineOf s.ev.n0) fun c => { c with mxTurn := (s.coreNum s.ev.n0 % 4 + 1) % 4 }) := by
  have hnone : ((s.engineStreams (s.engineOf s.ev.n0)).any fun q =>
      ((s.cluster (s.engineOf s.ev.n0)).coresBefore (s.coreNum s.ev.n0 % 4)).contains (s.coreNum q % 4) && (s.offerMx q).isSome) = false := by
    refine List.any_eq_false.mpr fun q hq hboth => ?_
    obtain ⟨hbefore, hsome⟩ := Bool.and_eq_true_iff.mp hboth
    by_cases hr : q = s.ev.n0
    · rw [hr] at hbefore
      have hown := List.mem_takeWhile_imp (List.contains_iff_mem.mp hbefore)
      simp at hown
    · obtain ⟨hqueue, hsaved⟩ := hquiet q hq hr
      rw [offerMx_none hqueue hsaved] at hsome
      cases hsome
  refine event_next (f := onMatrixAccept) ?_
  unfold onMatrixAccept
  dsimp only
  rw [hoffer]
  dsimp only
  rw [hnone]
  rfl

theorem offerMx_first {s : State} {r : Nat} (hstop : (s.crewAt r).stopped = false) (hsaved : (s.gangAt r).mxSaved = []) :
    s.offerMx r = s.acceptMx r := by
  simp only [State.offerMx, hstop, hsaved, Bool.false_eq_true, if_false]

include hquiet in
theorem matrixAccept_enters {c : MxCmd} {rest : List MxCmd} (hstop : (s.crewAt s.ev.n0).stopped = false)
    (hsaved : (s.gangAt s.ev.n0).mxSaved = []) (hqueue : (s.stream s.ev.n0).mxQ = c :: rest)
    (hguard : (s.stream s.ev.n0).commandGuard c.guard = .on)
    (hroom : (s.cluster (s.engineOf s.ev.n0)).table.length + c.quarters.length ≤ 64) :
    let cl := s.engineOf s.ev.n0
    ∃ t, exec .matrixAccept s = .next t ∧ (t.stream s.ev.n0).mxQ = rest ∧ t.gangs = s.gangs ∧ t.mem = s.mem ∧
      (t.cluster cl).mxTurn = (s.coreNum s.ev.n0 % 4 + 1) % 4 ∧
      (t.cluster cl).table.map MxEntry.work = (s.cluster cl).table.map MxEntry.work ++ c.quarters.map fun q => (s.ev.n0, c, q, .accepted) := by
  intro cl
  have hoffer := (offerMx_first hstop hsaved).trans (acceptMx_enters hqueue hguard hroom (mustFollow_none fun q hq hr => (hquiet q hq hr).1))
  obtain ⟨v, hv⟩ : ∃ v, v = (s.enterMx s.ev.n0 c rest).noteReady cl := ⟨_, rfl⟩
  have htable : (v.cluster cl).table.map MxEntry.work =
      (s.cluster cl).table.map MxEntry.work ++ c.quarters.map fun q => (s.ev.n0, c, q, .accepted) := by
    rw [hv, noteReady_table _ cl MxEntry.work fun _ _ => rfl]
    have henter : ((s.enterMx s.ev.n0 c rest).cluster cl).table = (s.cluster cl).table ++ s.quarterEntries s.ev.n0 c :=
      congrArg Cluster.table (State.cluster_setCluster ..)
    rw [henter, List.map_append, quarterEntries_work]
  have hcluster : (v.updCluster cl fun c => { c with mxTurn := (s.coreNum s.ev.n0 % 4 + 1) % 4 }).cluster cl =
      { v.cluster cl with mxTurn := (s.coreNum s.ev.n0 % 4 + 1) % 4 } := State.cluster_setCluster ..
  refine ⟨_, exec_matrixAccept hquiet hoffer, ?_, rfl, rfl, ?_, ?_⟩
  · exact congrArg Stream.mxQ (State.stream_setStream ..)
  · rw [← hv]
    exact (congrArg Cluster.mxTurn hcluster :)
  · rw [← hv]
    exact (congrArg (fun c => c.table.map MxEntry.work) hcluster :).trans htable
end

end Sys2Proof.Machine
end

section
/-! Entries of a reservation table take effect (09 R240, R242 to R244, R247). -/

namespace Sys2Proof.Machine

theorem entryOf_id {s : State} {cl id : Nat} {x : MxEntry} (h : s.entryOf cl id = some x) : x.id = id :=
  eq_of_beq (List.find?_some (p := fun e : MxEntry => e.id == id) h)

theorem entryOf_clusters {s t : State} (h : t.clusters = s.clusters) (cl id : Nat) : t.entryOf cl id = s.entryOf cl id :=
  congrArg (fun c : Tab Cluster => (Tab.get ({} : Cluster) c cl).table.find? fun e : MxEntry => e.id == id) h

theorem entryOf_updEntry {s : State} {cl id : Nat} {x : MxEntry} {f : MxEntry → MxEntry} (hf : ∀ y, (f y).id = y.id)
    (h : s.entryOf cl id = some x) : (s.updEntry cl id f).entryOf cl id = some (f x) := by
  have htable : ((s.updEntry cl id f).cluster cl).table = (s.cluster cl).table.map fun x => if x.id = id then f x else x :=
    congrArg Cluster.table (State.cluster_setCluster ..)
  have hid : ((fun y : MxEntry => y.id == id) ∘ fun y => if y.id = id then f y else y) = fun y => y.id == id := by
    funext y
    dsimp only [Function.comp]
    split
    · rw [hf]
    · rfl
  have hxid : x.id = id := entryOf_id h
  unfold State.entryOf at *
  rw [htable, List.find?_map, hid, h, Option.map_some, if_pos hxid]

/-- What an entry leaves as it takes effect. -/
theorem endEntry_leaves (s : State) (cl : Nat) (e : MxEntry) (err : Nat) :
    (s.endEntry cl e err).gangs = s.gangs ∧ (s.endEntry cl e err).mem = s.mem ∧ (s.endEntry cl e err).entryOf cl e.id = none ∧
      ((s.endEntry cl e err).cluster cl).slots = (s.cluster cl).slots := by
  obtain ⟨u, hu⟩ : ∃ u, u = (s.updCluster cl fun c => { c with table := c.table.filter fun x => x.id != e.id }).dropOp e.id := ⟨_, rfl⟩
  have hcluster : u.cluster cl = { s.cluster cl with table := (s.cluster cl).table.filter fun x => x.id != e.id } := by
    rw [hu]
    exact (State.cluster_setCluster .. :)
  have hready : (u.noteReady cl).cluster cl = (s.endEntry cl e err).cluster cl := by rw [hu]; rfl
  refine ⟨rfl, rfl, List.find?_eq_none.mpr fun y hy hid => ?_, ?_⟩
  · have hy' := List.mem_map_of_mem (f := MxEntry.id) hy
    rw [← hready, noteReady_table u cl MxEntry.id fun _ _ => rfl, hcluster] at hy'
    obtain ⟨z, hz, hzid⟩ := List.mem_map.mp hy'
    obtain ⟨-, hne⟩ := List.mem_filter.mp hz
    exact bne_iff_ne.mp hne (hzid.trans (eq_of_beq hid))
  · rw [← hready]
    obtain ⟨table, hnote⟩ := noteReady_cluster u cl
    rw [hnote, hcluster]

/-- What a command of a gang's stream leaves of gangs and memory: scratchpads and tiles, other gangs, and memory. -/
def Counted (s t : State) (r : Nat) : Prop :=
  (t.gangAt r).scratch = (s.gangAt r).scratch ∧ (t.gangAt r).tileStore = (s.gangAt r).tileStore ∧
    (∀ k, k ≠ gangOf r → t.gang k = s.gang k) ∧ t.mem = s.mem

/-- The count of scratchpad accesses is all that changes. -/
theorem counted_spCount {s t : State} {r : Nat} {xs : List (Nat × Nat)}
    (hgangs : t.gangs = (s.updGang (gangOf r) fun g => g.spCount xs).gangs) (hmem : t.mem = s.mem) : Counted s t r := by
  have hgang : t.gangAt r = (s.gangAt r).spCount xs := (gang_of_gangs hgangs (gangOf r)).trans (gang_updGang ..)
  exact ⟨by rw [hgang]; rfl, by rw [hgang]; rfl, fun k hk => (gang_of_gangs hgangs k).trans (State.gang_setGang_other _ _ hk), hmem⟩

section
variable {s : State} {x : MxEntry} (hx : s.entryOf s.ev.n0 s.ev.n1 = some x)

include hx in
theorem gatherComplete_gathers (hphase : x.phase = .accepted) (hpass : x.cmd.op.isPass = true)
    (hstill : (x.rows.any fun y => s.moving x.stream y.2 400) = false) :
    ∃ t, exec .gatherComplete s = .next t ∧ Counted s t x.stream ∧
      t.entryOf s.ev.n0 s.ev.n1 = some { x with phase := .gathered, gathered := (s.gangAt x.stream).gather x.rows } := by
  obtain ⟨u, hu⟩ : ∃ u, u = (s.updGang (gangOf x.stream) fun g => g.spCount (x.rows.map fun y => (y.2, 400))).updEntry s.ev.n0 s.ev.n1
    fun y => { y with phase := .gathered, gathered := (s.gangAt x.stream).gather x.rows } := ⟨_, rfl⟩
  have hrest := chargeEngine_rest u x.stream (x.rows.length * if (s.cluster s.ev.n0).railNow then 350 else 180)
  refine ⟨u.chargeEngine x.stream (x.rows.length * if (s.cluster s.ev.n0).railNow then 350 else 180), ?_,
    counted_spCount (xs := x.rows.map fun y => (y.2, 400)) ((congrArg State.gangs hrest :).trans (by rw [hu]; rfl))
      ((congrArg State.mem hrest :).trans (by rw [hu]; rfl)), ?_⟩
  · refine event_next (f := onGatherComplete) ?_
    unfold onGatherComplete
    rw [hx]
    dsimp only
    rw [if_neg (by simp [hphase, hpass, hstill]), hu]
  · have hentry := entryOf_updEntry (f := fun y => { y with phase := .gathered, gathered := (s.gangAt x.stream).gather x.rows })
      (fun _ => rfl) (show (s.updGang (gangOf x.stream) fun g => g.spCount (x.rows.map fun y => (y.2, 400))).entryOf s.ev.n0 s.ev.n1 = some x from hx)
    rw [← hu] at hentry
    exact (entryOf_clusters (congrArg State.clusters hrest :) _ _).trans hentry

section
variable (hready : s.portReady s.ev.n0 x = true)

/-- A gang's weight slot, claimed by it. -/
def State.ownSlot (s : State) (cl : Nat) (e : MxEntry) : State :=
  s.setSlot cl e.cmd.slot { Tab.get {} (s.cluster cl).slots e.cmd.slot with owner := some (gangOf e.stream) }

/-- The state with an image of scratchpad in a weight slot. -/
def State.fillSlot (s : State) (cl : Nat) (e : MxEntry) : State :=
  let off := e.cmd.addr.toNat
  let g := s.gangAt e.stream
  ((s.ownSlot cl e).updGang (gangOf e.stream) fun g => g.spCount [(off, 12800)]).setSlot cl e.cmd.slot
    (WSlot.fill (gangOf e.stream) e.cmd.mode1 (g.spBytes off 12800) (g.rangeLabel off 12800) .none)

theorem performWload_fills {cl : Nat} (howner : (Tab.get {} (s.cluster cl).slots x.cmd.slot).owner = none ∨
      (Tab.get {} (s.cluster cl).slots x.cmd.slot).owner = some (gangOf x.stream)) (hsp : x.cmd.sp = true)
    (hlabel : (s.gangAt x.stream).rangeLabel x.cmd.addr.toNat 12800 ≠ 3)
    (hbad : (s.gangAt x.stream).rangeBad x.cmd.addr.toNat 12800 = .none) :
    s.performWload cl x = (s.fillSlot cl x).endEntry cl x 0 := by
  have hown : ¬((Tab.get {} (s.cluster cl).slots x.cmd.slot).owner.isSome = true ∧
      (Tab.get {} (s.cluster cl).slots x.cmd.slot).owner ≠ some (gangOf x.stream)) := by
    rintro ⟨hsome, hother⟩
    rcases howner with hnone | hmine
    · rw [hnone] at hsome
      cases hsome
    · exact hother hmine
  unfold State.performWload
  dsimp only
  rw [if_neg hown, if_pos hsp, if_neg hlabel, hbad]
  rfl

include hx hready in
theorem wloadPerform_fills (hop : x.cmd.op = .wload) (hsp : x.cmd.sp = true) (hstill : s.moving x.stream x.cmd.addr.toNat 12800 = false)
    (howner : (Tab.get {} (s.cluster s.ev.n0).slots x.cmd.slot).owner = none ∨
      (Tab.get {} (s.cluster s.ev.n0).slots x.cmd.slot).owner = some (gangOf x.stream))
    (hlabel : (s.gangAt x.stream).rangeLabel x.cmd.addr.toNat 12800 ≠ 3)
    (hbad : (s.gangAt x.stream).rangeBad x.cmd.addr.toNat 12800 = .none) :
    ∃ t, exec .wloadPerform s = .next t ∧ Counted s t x.stream ∧ t.entryOf s.ev.n0 s.ev.n1 = none ∧
      Tab.get {} (t.cluster s.ev.n0).slots x.cmd.slot = WSlot.fill (gangOf x.stream) x.cmd.mode1
        ((s.gangAt x.stream).spBytes x.cmd.addr.toNat 12800) ((s.gangAt x.stream).rangeLabel x.cmd.addr.toNat 12800) .none := by
  obtain ⟨hgangs, hmem, hentry, hslots⟩ := endEntry_leaves (s.fillSlot s.ev.n0 x) s.ev.n0 x 0
  refine ⟨(s.fillSlot s.ev.n0 x).endEntry s.ev.n0 x 0, ?_, counted_spCount (xs := [(x.cmd.addr.toNat, 12800)]) (hgangs.trans rfl) (hmem.trans rfl),
    entryOf_id hx ▸ hentry, ?_⟩
  · refine event_next (f := onWloadPerform) ?_
    unfold onWloadPerform
    rw [hx]
    dsimp only
    rw [if_pos ⟨hop, hready, by simp [hsp, hstill]⟩, performWload_fills howner hsp hlabel hbad]
  · rw [hslots]
    have hset : ((s.fillSlot s.ev.n0 x).cluster s.ev.n0).slots = Tab.put x.cmd.slot (WSlot.fill (gangOf x.stream) x.cmd.mode1
        ((s.gangAt x.stream).spBytes x.cmd.addr.toNat 12800) ((s.gangAt x.stream).rangeLabel x.cmd.addr.toNat 12800) .none) _ :=
      congrArg Cluster.slots (State.cluster_setCluster ..)
    rw [hset]
    exact Tab.get_put_same ..

include hx hready in
theorem wfreePerform_frees (hop : x.cmd.op = .wfree)
    (howner : (Tab.get {} (s.cluster s.ev.n0).slots x.cmd.slot).owner = some (gangOf x.stream)) :
    ∃ t, exec .wfreePerform s = .next t ∧ t.gangs = s.gangs ∧ t.mem = s.mem ∧ t.entryOf s.ev.n0 s.ev.n1 = none ∧
      Tab.get {} (t.cluster s.ev.n0).slots x.cmd.slot = {} := by
  obtain ⟨hgangs, hmem, hentry, hslots⟩ := endEntry_leaves (s.setSlot s.ev.n0 x.cmd.slot {}) s.ev.n0 x 0
  refine ⟨(s.setSlot s.ev.n0 x.cmd.slot {}).endEntry s.ev.n0 x 0, ?_, hgangs.trans rfl, hmem.trans rfl, entryOf_id hx ▸ hentry, ?_⟩
  · refine event_next (f := onWfreePerform) ?_
    unfold onWfreePerform
    rw [hx]
    dsimp only
    rw [if_pos ⟨hop, hready⟩, if_pos howner]
  · rw [hslots]
    have hset : ((s.setSlot s.ev.n0 x.cmd.slot {}).cluster s.ev.n0).slots = Tab.put x.cmd.slot {} (s.cluster s.ev.n0).slots :=
      congrArg Cluster.slots (State.cluster_setCluster ..)
    rw [hset]
    exact Tab.get_put_same ..

/-- Tiles put into a gang's store, each of them clear. -/
theorem foldl_clearTiles (ks : List Nat) (store : Tab Tile) :
    (∀ k ∈ ks, Tab.get {} (ks.foldl (fun t k => Tab.put k {} t) store) k = ({} : Tile)) ∧
      ∀ k, k ∉ ks → Tab.get ({} : Tile) (ks.foldl (fun t k => Tab.put k {} t) store) k = Tab.get {} store k := by
  induction ks generalizing store with
  | nil => exact ⟨fun _ h => (nomatch h), fun _ _ => rfl⟩
  | cons j ks ih =>
    obtain ⟨hin, hout⟩ := ih (Tab.put j {} store)
    refine ⟨fun k hk => ?_, fun k hk => ?_⟩
    · by_cases hks : k ∈ ks
      · exact hin k hks
      · obtain rfl : k = j := (List.mem_cons.mp hk).resolve_right hks
        exact (hout k hks).trans (Tab.get_put_same ..)
    · obtain ⟨hj, hks⟩ := not_or.mp (List.mem_cons.not.mp hk)
      exact (hout k hks).trans (Tab.get_put_other _ _ _ hj)

theorem entryTiles_gang (s : State) (x : MxEntry) : ∀ k ∈ s.entryTiles x, k.1 = gangOf x.stream := by
  intro k hk
  unfold State.entryTiles at hk
  split at hk
  · cases hk
  · cases hk
  · obtain ⟨n, -, rfl⟩ := List.mem_map.mp hk
    rfl

include hx hready in
theorem tileCommandPerform_clears (hop : x.cmd.op = .accz) (hsp : x.cmd.sp = false) :
    ∃ t, exec .tileCommandPerform s = .next t ∧ t.mem = s.mem ∧ t.entryOf s.ev.n0 s.ev.n1 = none ∧
      (∀ k ∈ s.entryTiles x, (t.gang k.1).tile k.2 = {}) ∧
      ∀ k, k ∉ (s.entryTiles x).map Prod.snd → (t.gangAt x.stream).tile k = (s.gangAt x.stream).tile k := by
  obtain ⟨u, hu⟩ : ∃ u, u = s.updGang (gangOf x.stream) fun g =>
    { g with tileStore := ((s.entryTiles x).map Prod.snd).foldl (fun t k => Tab.put k {} t) g.tileStore } := ⟨_, rfl⟩
  obtain ⟨hgangs, hmem, hentry, -⟩ := endEntry_leaves u s.ev.n0 x 0
  obtain ⟨hin, hout⟩ := foldl_clearTiles ((s.entryTiles x).map Prod.snd) (s.gangAt x.stream).tileStore
  have hstore : ((u.endEntry s.ev.n0 x 0).gang (gangOf x.stream)).tileStore =
      ((s.entryTiles x).map Prod.snd).foldl (fun t k => Tab.put k {} t) (s.gangAt x.stream).tileStore := by
    rw [gang_of_gangs hgangs, hu, gang_updGang]
    rfl
  refine ⟨u.endEntry s.ev.n0 x 0, ?_, hmem.trans (by rw [hu]; rfl), entryOf_id hx ▸ hentry, fun k hk => ?_, fun k hk => ?_⟩
  · refine event_next (f := onTileCommandPerform) ?_
    unfold onTileCommandPerform
    rw [hx]
    dsimp only
    rw [if_neg (by simp [hready, hsp]), hop, hu]
  · rw [entryTiles_gang s x k hk, Gang.tile, hstore]
    exact hin _ (List.mem_map_of_mem hk)
  · rw [State.gangAt, Gang.tile, hstore]
    exact hout k hk
end
end

end Sys2Proof.Machine
end

section
/-! Passes of the matrix engine, and the delivery of engine faults (09 R240, R241, R245, 15 R366). -/

namespace Sys2Proof.Machine

/-- The first element that no other precedes, in a strict order. -/
theorem foldl_firstBy {α : Type} {before : α → α → Bool} (hirrefl : ∀ x, before x x = false)
    (htrans : ∀ x y z, before x y = true → before y z = true → before x z = true) (xs seen : List α) {best : α} (hbest : best ∈ seen)
    (hfirst : ∀ y ∈ seen, before y best = false) :
    let m := xs.foldl (fun best y => if before y best then y else best) best
    m ∈ seen ++ xs ∧ ∀ y ∈ seen ++ xs, before y m = false := by
  induction xs generalizing seen best with
  | nil => simpa using ⟨hbest, hfirst⟩
  | cons x xs ih =>
    have hstep : (if before x best then x else best) ∈ seen ++ [x] ∧
        ∀ y ∈ seen ++ [x], before y (if before x best then x else best) = false := by
      by_cases hx : before x best = true
      · rw [if_pos hx]
        refine ⟨by simp, fun y hy => ?_⟩
        rcases List.mem_append.mp hy with hy | hy
        · by_contra hyx
          rw [Bool.not_eq_false] at hyx
          exact absurd (htrans y x best hyx hx) (by rw [hfirst y hy]; exact Bool.false_ne_true)
        · rw [List.mem_singleton.mp hy]
          exact hirrefl x
      · rw [if_neg hx]
        refine ⟨List.mem_append_left _ hbest, fun y hy => ?_⟩
        rcases List.mem_append.mp hy with hy | hy
        · exact hfirst y hy
        · rw [List.mem_singleton.mp hy]
          exact Bool.eq_false_iff.mpr hx
    have hrest := ih (seen ++ [x]) hstep.1 hstep.2
    rwa [List.append_assoc, List.singleton_append] at hrest

theorem firstBy_first {α : Type} {before : α → α → Bool} (hirrefl : ∀ x, before x x = false)
    (htrans : ∀ x y z, before x y = true → before y z = true → before x z = true) {xs : List α} (h : xs ≠ []) :
    ∃ m ∈ xs, firstBy before xs = some m ∧ ∀ y ∈ xs, before y m = false := by
  cases xs with
  | nil => exact absurd rfl h
  | cons x xs =>
    obtain ⟨hmem, hfirst⟩ := foldl_firstBy hirrefl htrans xs [x] (List.mem_singleton_self x) fun y hy => by
      rw [List.mem_singleton.mp hy]
      exact hirrefl x
    exact ⟨_, hmem, rfl, hfirst⟩

theorem entryBefore_iff {s : State} {cl : Nat} {a b : MxEntry} : s.entryBefore cl a b = true ↔
    s.entryClass cl b < s.entryClass cl a ∨ s.entryClass cl a = s.entryClass cl b ∧ a.readyAt.getD 0 < b.readyAt.getD 0 := by
  simp [State.entryBefore]

theorem entryBefore_irrefl (s : State) (cl : Nat) (x : MxEntry) : s.entryBefore cl x x = false :=
  Bool.eq_false_iff.mpr fun h => by
    rw [entryBefore_iff] at h
    omega

theorem entryBefore_trans (s : State) (cl : Nat) (x y z : MxEntry) (hxy : s.entryBefore cl x y = true) (hyz : s.entryBefore cl y z = true) :
    s.entryBefore cl x z = true := by
  rw [entryBefore_iff] at *
  omega

theorem matrixPass_forms {s : State} (hidle : ∀ y ∈ ((s.noteReady s.ev.n0).cluster s.ev.n0).table, y.phase ≠ .inPass)
    (hsome : ∃ y ∈ ((s.noteReady s.ev.n0).cluster s.ev.n0).table,
      (s.noteReady s.ev.n0).passReady ((s.noteReady s.ev.n0).cluster s.ev.n0).table [] y = true) :
    let v := s.noteReady s.ev.n0
    let table := (v.cluster s.ev.n0).table
    ∃ first ∈ table, v.passReady table [] first = true ∧ (∀ y ∈ table, v.passReady table [] y = true → v.entryBefore s.ev.n0 y first = false) ∧
      ∃ t, exec .matrixPass s = .next t ∧ t.gangs = s.gangs ∧ t.mem = s.mem ∧
        (t.cluster s.ev.n0).table = table.map fun y =>
          if ((v.formPass table first).map (·.id)).contains y.id then { y with phase := .inPass } else y := by
  intro v table
  obtain ⟨y, hy, hready⟩ := hsome
  have hcands : table.filter (v.passReady table []) ≠ [] := List.ne_nil_of_mem (List.mem_filter.mpr ⟨hy, hready⟩)
  obtain ⟨first, hmem, hfirst, hbefore⟩ := firstBy_first (entryBefore_irrefl v s.ev.n0) (entryBefore_trans v s.ev.n0) hcands
  obtain ⟨hin, hready'⟩ := List.mem_filter.mp hmem
  have hnone : (table.any fun x => x.phase == .inPass) = false :=
    List.any_eq_false.mpr fun y hy => by simpa using hidle y hy
  let mark (x : MxEntry) : MxEntry := if ((v.formPass table first).map (·.id)).contains x.id then { x with phase := .inPass } else x
  refine ⟨first, hin, hready', fun y hy hyready => hbefore y (List.mem_filter.mpr ⟨hy, hyready⟩),
    v.updCluster s.ev.n0 fun c => { c with table := c.table.map mark }, ?_, rfl, rfl, congrArg Cluster.table (State.cluster_setCluster ..)⟩
  refine event_next (f := onMatrixPass) ?_
  unfold onMatrixPass
  dsimp only
  rw [show (((s.noteReady s.ev.n0).cluster s.ev.n0).table.any fun x => x.phase == .inPass) = false from hnone, if_neg Bool.false_ne_true]
  rw [show firstBy ((s.noteReady s.ev.n0).entryBefore s.ev.n0) _ = some first from hfirst]

/-- A quarter that ends in an error writes no tile. -/
theorem performQuarter_error {s : State} {cl : Nat} {x : MxEntry} (h : s.quarterError cl x ≠ 0) : (s.performQuarter cl x).gangs = s.gangs := by
  unfold State.performQuarter
  dsimp only
  rw [if_pos h]
  exact (endEntry_leaves ..).1.trans (by rw [if_pos h])

theorem exec_engineFaultDelivery {s : State} {f : EngineFault} {rest : List EngineFault} (hfault : (s.stream s.ev.n0).efaults = f :: rest)
    (htakes : s.takesFaults s.ev.n0 = true) (hserving : (s.stream s.ev.n0).serving = none) (hbegun : (s.stream s.ev.n0).begun = false) :
    exec .engineFaultDelivery s = .next ((s.updStream s.ev.n0 fun t => { t with efaults := rest, serving := some f }).systemTrap s.ev.n0
      { cause := 0x19, sub := f.sub, info := f.addr, mask := 0, word := some (s.spcWord s.ev.n0) }) := by
  refine event_next (f := onEngineFaultDelivery) ?_
  unfold onEngineFaultDelivery
  dsimp only
  rw [hfault]
  dsimp only
  rw [if_pos ⟨htakes, by rw [hserving]; rfl, by rw [hbegun]; rfl⟩]

end Sys2Proof.Machine
end

section
/-! Collectives complete, or end past their bound (10 R273, R275 to R279). -/

namespace Sys2Proof.Machine

section
variable {s : State} {c : Coll} (hfind : s.colls.find? (·.id == s.ev.n0) = some c) (hheld : s.faultHeld c.stream c.id = false)
  (hpark : (s.gangAt c.stream).parked = false) (hlive : (Tab.find c.stream s.streams).isSome = true)

include hheld hpark hlive in
theorem stepColl_open : ¬(s.faultHeld c.stream c.id = true ∨ (s.gangAt c.stream).parked = true ∨
    (Tab.find c.stream s.streams).isNone = true) := by
  rw [hheld, hpark]
  obtain ⟨t, ht⟩ := Option.isSome_iff_exists.mp hlive
  simp [ht]

include hfind in
theorem exec_collComplete {t : State} (hstep : s.stepColl c s.ev = some t) : exec .collComplete s = .next t := by
  refine event_next (f := onCollComplete) ?_
  unfold onCollComplete
  rw [hfind]
  exact hstep

include hfind hheld hpark hlive in
theorem exec_collComplete_discarded {k : Nat} (hguard : c.guard = some k) (hoff : (s.stream c.stream).guard k = .off) :
    exec .collComplete s = .next (s.endColl c 0 false) :=
  exec_collComplete hfind (by simp only [State.stepColl, if_neg (stepColl_open hheld hpark hlive), hguard, hoff])

include hfind hheld hpark hlive in
theorem exec_collComplete_released {k : Nat} (hguard : c.guard = some k) (hon : (s.stream c.stream).guard k = .on) :
    exec .collComplete s = .next (s.updColl c.id fun x => { x with guard := none }) :=
  exec_collComplete hfind (by simp only [State.stepColl, if_neg (stepColl_open hheld hpark hlive), hguard, hon])

include hfind hheld hpark hlive in
theorem exec_collComplete_fails (hguard : c.guard = none) (hdesc : c.desc ≠ []) (herr : c.err ≠ 0) :
    exec .collComplete s = .next (s.failColl c) :=
  exec_collComplete hfind (by
    simp only [State.stepColl, if_neg (stepColl_open hheld hpark hlive), hguard, if_neg hdesc, if_pos herr])

include hfind hheld hpark hlive in
theorem exec_collComplete_delivers {all : List CollIn} {t : State} (hguard : c.guard = none) (hdesc : c.desc ≠ []) (herr : c.err = 0)
    (hall : c.all = some all) (hdeliver : s.deliverColl c all = some t) : exec .collComplete s = .next t :=
  exec_collComplete hfind (by
    simp only [State.stepColl, if_neg (stepColl_open hheld hpark hlive), hguard, if_neg hdesc, herr, ne_eq, not_true, if_false, hall, hdeliver])
end

theorem endColl_colls (s : State) (c : Coll) (err : Nat) (prov : Bool) : ∀ y ∈ (s.endColl c err prov).colls, y.id ≠ c.id :=
  fun _ hy => bne_iff_ne.mp (List.mem_filter.mp hy).2

/-- A collective that ends in error is no longer outstanding. -/
theorem failColl_colls (s : State) (c : Coll) : ∀ y ∈ (s.failColl c).colls, y.id ≠ c.id := by
  have hcolls : (s.failColl c).colls = (s.endColl c c.err false).colls := by
    unfold State.failColl
    dsimp only
    split
    · rfl
    · split <;> rfl
  rw [hcolls]
  exact endColl_colls s c c.err false

end Sys2Proof.Machine
end

section
/-! SUPPORT. Engine operations leave the streams as they were (04 R105, 15 R364, 16 R401). -/

namespace Sys2Proof.Machine

/-- A state without the fault record. -/
def State.lessRecord (s : State) : State := { s with record := [], recSeq := 0, held := [], lost := 0 }

theorem recordFault_rest (s : State) (fdom part kind verdict test : Nat) (node : DWord) (w2 page w4 link detail : Nat) (final : Bool) :
    (s.recordFault fdom part kind verdict test node w2 page w4 link detail final).lessRecord = s.lessRecord := by
  unfold State.recordFault State.recordSeq
  dsimp only
  split
  · rename_i t h
    unfold State.enterRecord at h
    split at h
    · cases h
      rfl
    · split at h <;> cases h
      rfl
  · split <;> rfl

theorem recordFault_streams (s : State) (fdom part kind verdict test : Nat) (node : DWord) (w2 page w4 link detail : Nat) (final : Bool) :
    (s.recordFault fdom part kind verdict test node w2 page w4 link detail final).streams = s.streams :=
  (congrArg State.streams (recordFault_rest ..) :)

theorem engineSpot_streams (s : State) (g : Gang) (k : Acc) (va : Nat) : (s.engineSpot g k va).2.streams = s.streams := by
  have hwalk := ((CacheStep.refl s).walk g.part (clusterOf g.core / 16) va).streams
  unfold State.engineSpot State.translatePort
  dsimp only
  split
  · rfl
  · split
    · rfl
    · split <;> exact hwalk

theorem engineSpots_streams (s : State) (g : Gang) (k : Acc) (va n : Nat) : (s.engineSpots g k va n).2.streams = s.streams := by
  induction n generalizing s va with
  | zero => rfl
  | succ n ih =>
    have hspot := engineSpot_streams s g k va
    unfold State.engineSpots
    split
    · rename_i heq
      rwa [heq] at hspot
    · rename_i p v heq
      rw [heq] at hspot
      have hrest := (ih v ((va + 1) % 2 ^ 56)).trans hspot
      split
      · rename_i heq'
        rwa [heq'] at hrest
      · rename_i heq'
        rwa [heq'] at hrest

theorem engineByte_streams (s : State) (core op : Nat) (p : Spot) : (s.engineByte core op p).2.streams = s.streams := by
  have hread (a : Nat) := ((CacheStep.refl s).readCoh (dieOf core) (p.leaf.attr a) a 1).streams
  unfold State.engineByte
  split
  · rfl
  · split
    · split
      · rfl
      · exact hread _
    · exact hread _
  · rfl
  · rfl

theorem engineRead_streams (s : State) (core op : Nat) (xs : List Spot) : (s.engineRead core op xs).2.streams = s.streams :=
  foldl_proj (fun a : List Byte × State => a.2.streams) (fun a p => engineByte_streams a.2 core op p) xs ([], s)

theorem writeHost_streams (s : State) (part a : Nat) (bs : List Byte) : (s.writeHost part a bs).streams = s.streams := by
  unfold State.writeHost
  split
  · exact recordFault_streams ..
  · rfl

theorem engineWrite_streams (s : State) (core : Nat) (ws : List (Spot × Byte)) (op : Option Nat) :
    (s.engineWrite core ws op).streams = s.streams := by
  refine foldl_proj State.streams (fun t g => ?_) _ s
  dsimp only
  split
  · exact ((((CacheStep.refl t).foldl (fun _ x hu => hu.cleanSector core x) _).writeCoh _ _ _).streams)
  · rfl
  · split
    · exact writeHost_streams ..
    · exact foldl_proj State.streams (fun u (w : Nat × Byte) => writeHost_streams u 0 w.1 [w.2]) _ t
  · rfl

theorem engineMarks_streams (s : State) (g : Gang) (b : Bad) (ws : List Spot) : (s.engineMarks g b ws).streams = s.streams := by
  unfold State.engineMarks
  dsimp only
  split
  · rfl
  · rfl
  · exact foldl_proj State.streams (fun u k => recordFault_streams ..) _ _

end Sys2Proof.Machine
end

section
/-! A collective's data reach their destination, and its bound expires (10 R275 to R279). -/

namespace Sys2Proof.Machine

/-- The bytes that a collective delivers at a member. -/
def Coll.bytesOut (c : Coll) (all : List CollIn) : Nat :=
  packedBytes ((collDesc c.desc).width c.op) (collResult c.op (collDesc c.desc) (all.map (·.bytes))).1.length

/-- The label of what a collective delivers. -/
def labelOut (all : List CollIn) : Label := all.foldl (fun l i => Label.join l i.label) 0

/-- The state with a collective's data written for a gang. -/
def State.putColl (w : State) (g : Gang) (c : Coll) (all : List CollIn) (ps vs : List Spot) : State :=
  let d := collDesc c.desc
  let old := if d.width c.op = 4 then w.engineRead g.core c.id ps else ([], w)
  let res := collResult c.op d (all.map (·.bytes))
  let ws := ps.zip (packElems (d.width c.op) old.1 res.1)
  (old.2.engineWrite g.core (ws ++ vs.zip (leBytes 4 res.2))).engineMarks g (all.foldl (fun b i => b.join i.bad) .none) (ws.map Prod.fst)

theorem putColl_streams (w : State) (g : Gang) (c : Coll) (all : List CollIn) (ps vs : List Spot) :
    (w.putColl g c all ps vs).streams = w.streams := by
  unfold State.putColl
  dsimp only
  refine (engineMarks_streams ..).trans ((engineWrite_streams ..).trans ?_)
  split
  · exact engineRead_streams ..
  · rfl

section
variable {s v w : State} {c : Coll} {all : List CollIn} {ps vs : List Spot} (hprov : ∀ i ∈ all, i.prov = [])
  (hrange : collRange ((collDesc c.desc).width c.op) (collDesc c.desc).dst (c.bytesOut all) = true)
  (hps : s.engineSpots (s.gangAt c.stream) .write (va56 (collDesc c.desc).dst) (c.bytesOut all) = (.ok ps, v))
  (hvs : v.engineSpots (s.gangAt c.stream) .write (va56 (c.descAddr.toNat + 32)) (if collRecords c.op then 4 else 0) = (.ok vs, w))

include hprov hrange hps hvs in
theorem deliverColl_labels (hlabel : ps.any (fun p => p.leaf.label == 3 || decide (p.leaf.label < labelOut all)) = true) :
    s.deliverColl c all = some (w.endColl c 2 false) := by
  have hflat : all.flatMap (·.prov) = [] := List.flatMap_eq_nil_iff.mpr hprov
  unfold Coll.bytesOut labelOut at *
  unfold State.deliverColl
  simp only [hflat, List.filter_nil, ite_self, ne_eq, not_true, and_false, if_false, hrange, Bool.not_true, Bool.false_eq_true, hps, hvs, hlabel,
    if_true]

include hprov hrange hps hvs in
theorem deliverColl_writes (hlabel : ps.any (fun p => p.leaf.label == 3 || decide (p.leaf.label < labelOut all)) = false)
    (hdet : (s.gangAt c.stream).det = false) (hhost : (ps ++ vs).any w.hostHeld = false) :
    s.deliverColl c all = some ((w.putColl (s.gangAt c.stream) c all ps vs).endColl c 0 false) := by
  have hflat : all.flatMap (·.prov) = [] := List.flatMap_eq_nil_iff.mpr hprov
  unfold Coll.bytesOut labelOut at *
  unfold State.deliverColl State.putColl
  simp only [hflat, List.filter_nil, ite_self, ne_eq, not_true, and_false, if_false, hrange, Bool.not_true, Bool.false_eq_true, hps, hvs, hlabel,
    hdet, false_and, hhost, List.foldl_nil]
  rfl

/-- Where a delivered collective's stream stands: it has one fewer outstanding, and its status stays. -/
theorem delivered_stream (u : State) (hstreams : u.streams = s.streams) :
    ((u.endColl c 0 false).stream c.stream).collsOut = (s.stream c.stream).collsOut.filter (· != c.num) ∧
      ((u.endColl c 0 false).stream c.stream).collStat = (s.stream c.stream).collStat := by
  have hu : u.stream c.stream = s.stream c.stream := congrArg (Tab.get ({} : Stream) · c.stream) hstreams
  have hat : (u.endColl c 0 false).stream c.stream = { s.stream c.stream with
      collsOut := (s.stream c.stream).collsOut.filter (· != c.num), collStat := collStatus (s.stream c.stream).collStat 0 c.num false } := by
    rw [← hu]
    exact State.stream_setStream ..
  rw [hat]
  exact ⟨rfl, by simp [collStatus]⟩
end

/-! The bound. -/

section
variable {s : State} {c : Coll} (hfind : s.colls.find? (·.id == s.ev.n0) = some c) {at_ : Nat} (hdeadline : c.deadline = some at_)
  (hdue : at_ ≤ s.now) (hown : s.ev.n1 = 0) (harrived : c.arrived = true)

/-- What the expiry of a collective's bound does to a member of its group. -/
def State.expireAt (t : State) (c : Coll) (n1 : Nat) (x : Nat × Nat × Nat × DWord × Nat) : State :=
  match (t.arrivedAt (collDesc c.desc).group x.1 x.2).or (t.comingAt (collDesc c.desc).group x.1 x.2) with
  | some k => t.endColl k (if k.id = c.id ∧ n1 ≠ 1 then 5 else 6) false
  | none =>
    let who := (x.2.2.1, (collDesc c.desc).group, x.1)
    if t.failed.contains who then { t with failed := t.failed.erase who } else { t with abandoned := t.abandoned ++ [who] }

include hfind hdeadline hdue harrived in
theorem exec_collBoundExpiry (habsent : ((s.localMembers (s.collMembers c)).any (fun x => (s.arrivedAt (collDesc c.desc).group x.1 x.2).isNone) ||
      (decide ((s.localMembers (s.collMembers c)).length < (s.collMembers c).length) && s.ev.n2 != 1)) = true) :
    exec .collBoundExpiry s = .next ((s.localMembers (s.collMembers c)).foldl (fun t x => t.expireAt c s.ev.n1 x) s) := by
  have hlate : (s.ev.n1 == 1 || (match c.deadline with
      | some t => decide (t ≤ s.now)
      | none => false)) = true := by
    rw [hdeadline]
    simp [hdue]
  refine event_next (f := onCollBoundExpiry) ?_
  unfold onCollBoundExpiry
  rw [hfind]
  dsimp only
  rw [if_neg]
  · rfl
  · rw [habsent, harrived]
    simp only [hdeadline, decide_eq_true hdue, Bool.or_true]
    decide

include hown in
theorem expireAt_own {x : Nat × Nat × Nat × DWord × Nat} (hx : s.arrivedAt (collDesc c.desc).group x.1 x.2 = some c) :
    s.expireAt c s.ev.n1 x = s.endColl c 5 false := by
  unfold State.expireAt
  rw [hx, hown]
  simp

/-- A member with nothing outstanding on the group has nothing on it once a collective has ended. -/
theorem endColl_absent {k : Coll} {err : Nat} {group rank : Nat} {m : Nat × Nat × DWord × Nat}
    (harrived : s.arrivedAt group rank m = none) (hcoming : s.comingAt group rank m = none) :
    (s.endColl k err false).arrivedAt group rank m = none ∧ (s.endColl k err false).comingAt group rank m = none := by
  have hfilter (p : Coll → Bool) (h : s.colls.find? p = none) : (s.endColl k err false).colls.find? p = none :=
    List.find?_eq_none.mpr fun y hy => List.find?_eq_none.mp h y (List.mem_of_mem_filter hy)
  unfold State.arrivedAt State.comingAt at *
  by_cases hmissing : s.missing group rank m = true
  · have hmissing' : (s.endColl k err false).missing group rank m = true := hmissing
    rw [if_pos hmissing', if_pos hmissing']
    exact ⟨rfl, rfl⟩
  · have hmissing' : ¬(s.endColl k err false).missing group rank m = true := hmissing
    rw [if_neg hmissing] at harrived hcoming
    rw [if_neg hmissing', if_neg hmissing']
    exact ⟨hfilter _ harrived, hfilter _ hcoming⟩
end

end Sys2Proof.Machine
end

section
/-! Context images are written and read, and a gang is placed from one (13 R318 to R320, R326, R327). -/

namespace Sys2Proof.Machine

theorem foldl_proj_mem {σ α β : Type} {f : σ → β → σ} (p : σ → α) {xs : List β} (hf : ∀ u, ∀ b ∈ xs, p (f u b) = p u) (s : σ) :
    p (xs.foldl f s) = p s := by
  induction xs generalizing s with
  | nil => rfl
  | cons x xs ih =>
    exact (ih (fun u b hb => hf u b (List.mem_cons_of_mem _ hb)) (f s x)).trans (hf s x (List.mem_cons_self ..))

/-- A stream's wait changed. -/
def State.waits (u : State) (r : Nat) (w : Wait) : State := u.updStream r fun t => { t with wait := some w }

theorem wait_waits (u : State) (r : Nat) (w : Wait) : ((u.waits r w).stream r).wait = some w :=
  congrArg Stream.wait (State.stream_setStream ..)

theorem hostHeld_up {s : State} (h : s.retraining = false) (p : Spot) : s.hostHeld p = false := by
  simp only [State.hostHeld, h, Bool.false_and]

section
variable {s : State} {g : Nat} {addr : DWord} {sl fr : Bool} (hwait : (s.stream s.ev.n0).wait = some (.ctxsave g addr sl fr none))

include hwait in
theorem exec_ctxsaveDone_gone (hgone : Tab.find g s.gangs = none) :
    exec .ctxsaveDone s = .next (s.waits s.ev.n0 (.ctxsave g addr sl fr (some 1))) := by
  refine event_next (f := onCtxsaveDone) ?_
  unfold onCtxsaveDone
  dsimp only
  rw [hwait]
  dsimp only
  rw [hgone]
  rfl

/-- How a save of a resident gang ends: with a status and a state, or not yet. -/
def State.saveEnd (s : State) (r g : Nat) (x : Gang) (addr : DWord) (sl fr : Bool) : Option (State × Nat) :=
  if !sl ∧ (s.ownedSlots g).any fun w => w.2.label == 3 then some (s, 4)
  else match s.saveSpots r sl addr.toNat (imageKib x (s.ownedSlots g).length) with
    | (none, v) => some (v, 3)
    | (some xs, v) =>
      if !sl ∧ xs.any fun p => p.leaf.label == 3 || decide (p.leaf.label < v.contentsLabel g) then some (v, 2)
      else if xs.any s.hostHeld then none
      else
        let t := v.writeImage r g (imageKib x (s.ownedSlots g).length) sl xs
        some (if fr then ((t.removeGang g).showCharges x.part (t.node x.node).chain).settleEnds else t, 0)

include hwait in
theorem onCtxsaveDone_ends {x : Gang} (hgang : Tab.find g s.gangs = some x) :
    onCtxsaveDone s.ev s = (s.saveEnd s.ev.n0 g x addr sl fr).map fun p => p.1.waits s.ev.n0 (.ctxsave g addr sl fr (some (w32 p.2))) := by
  unfold onCtxsaveDone State.saveEnd
  dsimp only
  rw [hwait]
  dsimp only
  rw [hgang]
  dsimp only
  obtain ⟨⟨spots, v⟩, hspots⟩ : ∃ p, s.saveSpots s.ev.n0 sl addr.toNat (imageKib x (s.ownedSlots g).length) = p := ⟨_, rfl⟩
  rw [hspots]
  split
  · rfl
  · cases spots with
    | none => rfl
    | some xs =>
      dsimp only
      split
      · rfl
      · split
        · rfl
        · rfl

include hwait in
theorem exec_ctxsaveDone {x : Gang} {u : State} {st : Nat} (hgang : Tab.find g s.gangs = some x)
    (hend : s.saveEnd s.ev.n0 g x addr sl fr = some (u, st)) :
    exec .ctxsaveDone s = .next (u.waits s.ev.n0 (.ctxsave g addr sl fr (some (w32 st)))) :=
  event_next (f := onCtxsaveDone) ((onCtxsaveDone_ends hwait hgang).trans (by rw [hend]; rfl))

include hwait in
theorem ctxsaveDone_ends (hup : s.retraining = false) :
    ∃ t st, exec .ctxsaveDone s = .next t ∧ (t.stream s.ev.n0).wait = some (.ctxsave g addr sl fr (some st)) := by
  cases hgang : Tab.find g s.gangs with
  | none => exact ⟨_, _, exec_ctxsaveDone_gone hwait hgang, wait_waits ..⟩
  | some x =>
    obtain ⟨⟨u, st⟩, hend⟩ : ∃ p, s.saveEnd s.ev.n0 g x addr sl fr = some p := by
      unfold State.saveEnd
      split
      · exact ⟨_, rfl⟩
      · split
        · exact ⟨_, rfl⟩
        · rename_i xs _ _
          have hfree : ¬xs.any s.hostHeld = true := by simp [hostHeld_up hup]
          split
          · exact ⟨_, rfl⟩
          · exact ⟨_, rfl⟩
    exact ⟨_, _, exec_ctxsaveDone hwait hgang hend, wait_waits ..⟩
end

section
variable {s : State} {core : Nat} {addr : DWord} (hwait : (s.stream s.ev.n0).wait = some (.ctxload core addr none))

/-- How a load of an image that has come ends: its result and the state. -/
def State.loadEnd (s : State) (r core : Nat) (addr : DWord) : Nat × State :=
  match s.imageRead r addr.toNat 4 with
  | (none, v) => (2 ^ 31 + 4, v)
  | (some head, v) =>
    match v.imageRead r addr.toNat (max 4 (bits (wordAt (dwords 1 head) 0) 31 0)) with
    | (none, w) => (2 ^ 31 + 4, w.dropOp (imageOp r))
    | (some bs, w) => (w.dropOp (imageOp r)).loadImage r core bs

include hwait in
theorem exec_ctxloadDone (hcome : s.imageAwaits s.ev.n0 addr.toNat = none) : exec .ctxloadDone s =
    .next ((s.loadEnd s.ev.n0 core addr).2.waits s.ev.n0 (.ctxload core addr (some (w32 (s.loadEnd s.ev.n0 core addr).1)))) := by
  refine event_next (f := onCtxloadDone) ?_
  unfold onCtxloadDone State.loadEnd
  dsimp only
  rw [hwait]
  dsimp only
  rw [hcome]
  dsimp only
  obtain ⟨⟨head, v⟩, hhead⟩ : ∃ p, s.imageRead s.ev.n0 addr.toNat 4 = p := ⟨_, rfl⟩
  rw [hhead]
  cases head with
  | none => rfl
  | some head =>
    dsimp only
    obtain ⟨⟨body, w⟩, hbody⟩ : ∃ p, v.imageRead s.ev.n0 addr.toNat (max 4 (bits (wordAt (dwords 1 head) 0) 31 0)) = p := ⟨_, rfl⟩
    rw [hbody]
    cases body <;> rfl

/-- An image outside the address space is neither waited for nor read. -/
theorem imageAwaits_out {r addr : Nat} (hrange : imageRange addr 4 = false) : s.imageAwaits r addr = none := by
  simp [State.imageAwaits, hrange]

theorem loadEnd_out {r : Nat} (hrange : imageRange addr.toNat 4 = false) : s.loadEnd r core addr = (2 ^ 31 + 4, s) := by
  simp [State.loadEnd, State.imageRead, hrange]

theorem loadEnd_reads {r : Nat} {head bs : List Byte} {v w : State} (hhead : s.imageRead r addr.toNat 4 = (some head, v))
    (hbody : v.imageRead r addr.toNat (max 4 (bits (wordAt (dwords 1 head) 0) 31 0)) = (some bs, w)) :
    s.loadEnd r core addr = (w.dropOp (imageOp r)).loadImage r core bs := by
  simp only [State.loadEnd, hhead, hbody]
end

/-! A gang placed from its context. -/

/-- A gang's scratchpad and tiles. -/
def State.stores (s : State) (k : Nat) : List Host.Cell × Tab Tile := ((s.gang k).scratch, (s.gang k).tileStore)

theorem stores_updGang (s : State) (j k : Nat) {f : Gang → Gang} (hf : ∀ x, (f x).scratch = x.scratch ∧ (f x).tileStore = x.tileStore) :
    (s.updGang j f).stores k = s.stores k := by
  obtain ⟨hscratch, htiles⟩ := hf (s.gang j)
  by_cases h : k = j
  · rw [h, State.stores, gang_updGang, hscratch, htiles, State.stores]
  · rw [State.stores, State.updGang_eq, State.gang_setGang_other _ _ h, State.stores]

theorem takeGranules_stores (s : State) (core n k : Nat) : (s.takeGranules core n).stores k = s.stores k := by
  unfold State.takeGranules
  split
  · rfl
  · refine Eq.trans (congrArg (fun t : Tab Gang => ((Tab.get ({} : Gang) t k).scratch, (Tab.get ({} : Gang) t k).tileStore))
      ((CacheStep.refl _).l1Shrink ..).gangs) ?_
    refine foldl_proj (State.stores · k) (fun u p => ?_) _ s
    exact (stores_updGang u p.1 k (f := fun x =>
      { x with spcur := x.spcur - min (n - (u.core core).l1gran) ((u.gang p.1).spcur - (u.gang p.1).smin) }) fun _ => ⟨rfl, rfl⟩ :)

theorem gangKey_gangs (s : State) (old : Nat) : (s.gangKey old).2.gangs = s.gangs := by
  unfold State.gangKey
  split <;> rfl

theorem askWake_gangs (s : State) (cl : Nat) : (s.askWake cl).gangs = s.gangs := by
  unfold State.askWake
  split <;> rfl

/-- The stream of a gang's key that a saved stream becomes. -/
def streamAs (g r : Nat) : Nat := 32 * g + r % 32

/-- The gang that a context becomes. -/
def Context.gangAs (c : Context) (s : State) (g n core : Nat) (handle : Word) (spcur order : Nat) : Gang :=
  { c.gang with
    node := n, uid := (s.node n).uid, core, handle, live := true, parked := true, parkHold := true, req := .none, shedAt := none,
    assayHold := (s.cluster (clusterOf core)).selfTest.isSome, shedHold := decide (effCLASS c.gang.effcfg < (s.part c.gang.part).applied),
    spcur, placed := order, parkOrder := order, acquireDue := [],
    mxSaved := c.gang.mxSaved.map fun e => { e with stream := streamAs g e.stream } }

/-- What belongs to a gang that a context is placed as: streams, crews, slots, collectives, its node and its charges. -/
def State.settleContext (s : State) (c : Context) (g n core : Nat) : State :=
  let s := c.streams.foldl (fun s p =>
    let s := s.setStream (streamAs g p.1) p.2
    match p.2.wait with
    | some (.args _ _) => s.loadArgs (streamAs g p.1)
    | _ => s) s
  let s := c.crews.foldl (fun s p => s.setCrew (16 * g + p.1 % 16) { p.2 with place := .parked, stopped := true }) s
  let s := s.updCluster (clusterOf core) fun k => { k with
    slots := c.slots.foldl (fun t w => Tab.put w.1 { w.2 with owner := some g } t) k.slots }
  let s := s.updNode n fun y => { y with wasOn := y.wasOn ++ [core] }
  let s := c.colls.foldl (fun (s : State) x =>
    let (id, s) := s.freshNum
    { s with colls := s.colls ++ [{ x with id, stream := streamAs g x.stream }] }) s
  (s.askWake (clusterOf core)).showCharges c.gang.part (s.node n).chain

theorem restore_eq (s : State) (c : Context) (n core : Nat) : s.restore c n core =
    let (g, s) := s.gangKey ((c.crews.map fun p => p.1 / 16).headD 0)
    let (handle, s) := s.newHandle c.gang.part core
    let spcur := max c.gang.smin (min c.gang.spcur (s.obtainable core))
    let s := s.takeGranules core spcur
    let (order, s) := s.freshNum
    (handle, (s.setGang g (c.gangAs s g n core handle spcur order)).settleContext c g n core) := rfl

/-- No gang but the one placed sees what belongs to it come. -/
theorem settleContext_gangs (s : State) {c : Context} (g n core : Nat) (hargs : ∀ p ∈ c.streams, ∀ k pa, p.2.wait ≠ some (.args k pa)) :
    (s.settleContext c g n core).gangs = s.gangs := by
  unfold State.settleContext
  refine (congrArg (·.2.1) (showCharges_placings ..)).trans ((askWake_gangs ..).trans ?_)
  refine (foldl_proj State.gangs (fun u x => ?_) _ _).trans ?_
  · rfl
  refine (foldl_proj State.gangs (fun u x => ?_) c.crews _).trans ?_
  · rfl
  refine foldl_proj_mem State.gangs (fun u p hp => ?_) s
  dsimp only
  split
  · rename_i k pa hwait
    exact absurd hwait (hargs p hp k pa)
  · rfl

/-- The gang that a context is placed as. -/
theorem restore_places (s : State) (c : Context) (n core : Nat) (hargs : ∀ p ∈ c.streams, ∀ k pa, p.2.wait ≠ some (.args k pa)) :
    ∃ g y, Tab.find g (s.restore c n core).2.gangs = some y ∧ (s.restore c n core).1 = y.handle ∧ y.part = c.gang.part ∧ y.node = n ∧
      y.core = core ∧ y.parked = true ∧ y.parkHold = true ∧ y.gangid = c.gang.gangid ∧ y.scratch = c.gang.scratch ∧
      y.tileStore = c.gang.tileStore ∧ y.witness = c.gang.witness ∧ y.stack = c.gang.stack ∧
      ∀ k, k ≠ g → (s.restore c n core).2.stores k = s.stores k := by
  obtain ⟨⟨g, s1⟩, hkey⟩ : ∃ p, s.gangKey ((c.crews.map fun p => p.1 / 16).headD 0) = p := ⟨_, rfl⟩
  have hs1 : s1.gangs = s.gangs := (congrArg (fun p : Nat × State => p.2.gangs) hkey).symm.trans (gangKey_gangs ..)
  obtain ⟨⟨handle, s2⟩, hhandle⟩ : ∃ p, s1.newHandle c.gang.part core = p := ⟨_, rfl⟩
  have hs2 : s2.gangs = s1.gangs := (congrArg (fun p : Word × State => p.2.gangs) hhandle).symm
  obtain ⟨spcur, hspcur⟩ : ∃ n, n = max c.gang.smin (min c.gang.spcur (s2.obtainable core)) := ⟨_, rfl⟩
  obtain ⟨u, hu⟩ : ∃ u : State, u = { s2.takeGranules core spcur with fresh := (s2.takeGranules core spcur).fresh + 1 } := ⟨_, rfl⟩
  obtain ⟨y, hy⟩ : ∃ y, y = c.gangAs u g n core handle spcur (s2.takeGranules core spcur).fresh := ⟨_, rfl⟩
  have heq : s.restore c n core = (handle, (u.setGang g y).settleContext c g n core) := by
    rw [restore_eq, hkey]
    dsimp only
    rw [hhandle]
    dsimp only
    rw [← hspcur, hy, hu]
    rfl
  have hgangs : (s.restore c n core).2.gangs = Tab.put g y u.gangs := by
    rw [heq]
    exact settleContext_gangs _ g n core hargs
  refine ⟨g, y, ?_, by rw [heq, hy]; rfl, by rw [hy]; rfl, by rw [hy]; rfl, by rw [hy]; rfl, by rw [hy]; rfl, by rw [hy]; rfl, by rw [hy]; rfl,
    by rw [hy]; rfl, by rw [hy]; rfl, by rw [hy]; rfl, by rw [hy]; rfl, fun k hk => ?_⟩
  · rw [hgangs]
    exact Tab.find_put_same ..
  · have hput : (s.restore c n core).2.stores k = u.stores k :=
      congrArg (fun x : Gang => (x.scratch, x.tileStore)) ((congrArg (Tab.get ({} : Gang) · k) hgangs).trans (Tab.get_put_other _ _ _ hk))
    have htake : u.stores k = s2.stores k := by
      rw [hu]
      exact takeGranules_stores ..
    exact (hput.trans htake).trans (congrArg (fun t : Tab Gang => ((Tab.get ({} : Gang) t k).scratch, (Tab.get ({} : Gang) t k).tileStore))
      (hs2.trans hs1))

theorem loadImage_places {s : State} {r core n : Nat} {bs plain : List Byte} {ws : List DWord} {c : Context}
    (hopen : s.openImage (s.partNum r) bs = .ok (ws, plain))
    (hfind : (s.contexts.find? fun c => fitBytes plain.length (Config.imageBody c.serial plain.length) == plain) = some c)
    (hnode : s.keyOfUid c.nodeUid = some n) (hcore : core < 256) (hcluster : bitOf (s.part (s.partNum r)).partclu.toNat (clusterOf core) = true)
    (hpart : c.gang.part = s.partNum r) (hkind : (isStreamCore core).toNat = c.ckind) (htakes : s.takesContext c core = true) :
    s.loadImage r core bs = ((s.restore c n core).1.toNat, (s.restore c n core).2) := by
  unfold State.loadImage
  simp only [hopen, hfind, hnode, hcore, hcluster, hpart, hkind, htakes, decide_true, beq_self_eq_true, Bool.and_self, Bool.not_true, bne_self_eq_false,
    Bool.or_self, Bool.false_eq_true, if_false]

end Sys2Proof.Machine
end

section
/-! The events of the copy, matrix and collective engines. -/

namespace Sys2Proof.Machine

/-- Settles O55: each event is enabled by its hypotheses, and carries out the command, the pass or the end that they say. -/
theorem engineEventsHappen : Obligations.EngineEventsHappen := by
  intro s e r u guard
  refine ⟨?copyAccept, ?takeCopy, ?copyComplete, ?matrixAccept, ?entries, matrixPass_forms, ?passComplete,
    fun f rest hfault htakes hserving hbegun => exec_engineFaultDelivery hfault htakes hserving hbegun, ?colls, ?save, ?load, ?loads⟩
  case copyAccept =>
    intro hstop cmd rest hqueue
    have hrun {o : Option State} (h : s.acceptCopy r = o) : onCopyAccept s.ev s = o := by
      unfold onCopyAccept
      rw [if_neg (by rw [show (s.crewAt s.ev.n0).stopped = false from hstop]; exact Bool.false_ne_true)]
      exact h
    refine ⟨fun hguard => event_nothing (hrun (acceptCopy_held hqueue hguard)),
      fun hguard => event_next (hrun (acceptCopy_discards hqueue hguard)), fun hguard hop => ?_⟩
    intro cl g taken
    have hbegin := event_next (hrun (acceptCopy_begins hqueue hguard hop))
    refine ⟨fun n a b ls hwhat => ?_, fun addr bar xs v hwhat hspots hfetch hbad => hbegin.trans (congrArg Host.Outcome.next ?_)⟩
    · obtain ⟨v, hv⟩ : ∃ v : State, v = State.setStream { s with fresh := s.fresh + 1 } r { u with copyQ := rest } := ⟨_, rfl⟩
      let c : Copy := { id := s.fresh, stream := r, cmd := taken, desc := [], bars := [], err := 0, gangs := [(gangOf r, g.uid)] }
      have heq : s.beginCopy r cmd rest = v.updCluster cl fun x => { x with copies := x.copies ++ [c] } := by
        unfold State.beginCopy
        rw [hwhat, hv]
        rfl
      refine ⟨v.updCluster cl fun x => { x with copies := x.copies ++ [c] }, hbegin.trans (by rw [heq]), ?_, by rw [hv]; rfl, ?_⟩
      · rw [hv]
        exact congrArg Stream.copyQ (State.stream_setStream { s with fresh := s.fresh + 1 } r { u with copyQ := rest })
      · refine (congrArg Cluster.copies (State.cluster_setCluster v cl _)).trans ?_
        rw [hv]
        rfl
    · have heq : s.beginCopy r cmd rest = (State.setStream { s with fresh := s.fresh + 1 } r { u with copyQ := taken :: rest }).openHead cl r s.fresh taken
          addr.toNat := by
        unfold State.beginCopy
        rw [hwhat]
        rfl
      exact heq.trans (openHead_takes hspots hfetch hbad)
  case takeCopy =>
    intro cl r id cmd ws d hgood hbar
    refine ⟨fun hcount => ⟨s.boxCopy r id cmd ws, ?_, rfl, rfl, rfl, rfl⟩, fun hnew hcount => takeCopy_empty s cl r id hgood hbar hnew hcount⟩
    rw [takeCopy_plain s cl r id hgood hbar, if_neg hcount]
    exact listBox_copies s cl r id cmd ws
  case copyComplete =>
    intro cl c hfind hheld
    refine ⟨fun ids hsent hover => exec_copyComplete_answered hfind hheld hsent hover,
      fun hsent herr => exec_copyComplete_failed hfind hheld hsent herr, fun hsent herr => ?_⟩
    intro g p from_ onto hstill
    refine ⟨fun hrange => exec_copyComplete hfind hheld hsent herr (performCopy_range hstill hrange),
      fun hrange sx v dx w hsrc hdst hfetch hhost => ?_⟩
    have hcarry := exec_copyComplete hfind hheld hsent herr (performCopy_resolved hstill hrange hsrc hdst hfetch hhost)
    refine ⟨fun hlost => hcarry.trans (congrArg Host.Outcome.next (if_pos hlost)), fun hkept hreached => ?_⟩
    have hopen : ¬(w.opBad.contains c.id = true ∨ dx.flatten.any w.unreachable = true) := by
      rw [hkept, hreached]
      simp
    intro es
    refine ⟨fun hspace => ?_, fun hspace herror => ?_, fun hspace herror => ?_⟩
    · refine hcarry.trans (congrArg Host.Outcome.next ((if_neg hopen).trans (if_pos ?_)))
      rw [show w.spRangeOk c.stream (s.planOf c) = false from hspace]
      rfl
    all_goals
      have hin : ¬(!w.spRangeOk c.stream (s.planOf c)) = true := by
        rw [show w.spRangeOk c.stream (s.planOf c) = true from hspace]
        simp
    · exact hcarry.trans (congrArg Host.Outcome.next ((if_neg hopen).trans ((if_neg hin).trans (if_pos herror))))
    · exact hcarry.trans (congrArg Host.Outcome.next ((if_neg hopen).trans ((if_neg hin).trans (if_neg (not_not.mpr herror)))))
  case matrixAccept =>
    intro hstop hsaved hquiet c rest hqueue cl turned entry
    refine ⟨fun hguard => event_nothing (f := onMatrixAccept) ?_, fun hguard => ?_, fun hguard hroom =>
      matrixAccept_enters hquiet hstop hsaved hqueue hguard hroom⟩
    · unfold onMatrixAccept
      dsimp only
      rw [offerMx_first hstop hsaved, acceptMx_held hqueue hguard]
    · exact exec_matrixAccept hquiet ((offerMx_first hstop hsaved).trans (acceptMx_discards hqueue hguard))
  case entries =>
    intro x hx counted
    refine ⟨fun hphase hpass hstill => gatherComplete_gathers hx hphase hpass hstill, fun hready => ?_⟩
    intro slot g off
    exact ⟨fun hop hsp hstill howner hlabel hbad => wloadPerform_fills hx hready hop hsp hstill howner hlabel hbad,
      fun hop howner => wfreePerform_frees hx hready hop howner, fun hop hsp => tileCommandPerform_clears hx hready hop hsp⟩
  case passComplete =>
    intro y ys hpass
    refine ⟨event_next (f := onPassComplete) ?_, performQuarter_error⟩
    unfold onPassComplete
    rw [show (s.cluster s.ev.n0).table.filter _ = y :: ys from hpass]
  case colls =>
    intro c hfind g d
    refine ⟨fun hheld hpark hlive => ⟨fun k hguard hoff => exec_collComplete_discarded hfind hheld hpark hlive hguard hoff,
      fun k hguard hon => exec_collComplete_released hfind hheld hpark hlive hguard hon,
      fun hguard hdesc herr => ⟨exec_collComplete_fails hfind hheld hpark hlive hguard hdesc herr, failColl_colls s c⟩,
      fun all hguard hdesc herr hall => ?_⟩, fun at_ m hdeadline hdue hown harrived hm => ⟨fun halone hmore hthere => ?_, fun m' htwo habsent hcoming => ?_⟩⟩
    · intro bytes label hprov hrange ps v vs w hps hvs
      have hw : w.streams = s.streams :=
        ((congrArg (fun p : Except (Nat × Miss) (List Spot) × State => p.2.streams) hvs).symm.trans (engineSpots_streams ..)).trans
          ((congrArg (fun p : Except (Nat × Miss) (List Spot) × State => p.2.streams) hps).symm.trans (engineSpots_streams ..))
      refine ⟨fun hlabel => exec_collComplete_delivers hfind hheld hpark hlive hguard hdesc herr hall
        (deliverColl_labels hprov hrange hps hvs hlabel), fun hlabel hdet hhost => ?_⟩
      exact ⟨_, exec_collComplete_delivers hfind hheld hpark hlive hguard hdesc herr hall
        (deliverColl_writes hprov hrange hps hvs hlabel hdet hhost), endColl_colls _ c 0 false,
        delivered_stream _ ((putColl_streams ..).trans hw)⟩
    · refine (exec_collBoundExpiry hfind hdeadline hdue harrived ?_).trans (congrArg Host.Outcome.next ?_)
      · rw [halone, hthere]
        simpa using .inr hmore
      · rw [halone]
        exact expireAt_own hown hm
    · have hexec := exec_collBoundExpiry hfind hdeadline hdue harrived (by rw [htwo]; simpa using .inl (.inr habsent))
      obtain ⟨harrived', hcoming'⟩ := endColl_absent (k := c) (err := 5) habsent hcoming
      have hfold : (s.localMembers (s.collMembers c)).foldl (fun t x => t.expireAt c s.ev.n1 x) s =
          (s.endColl c 5 false).expireAt c s.ev.n1 m' := by
        rw [htwo]
        exact congrArg (fun t : State => t.expireAt c s.ev.n1 m') (expireAt_own hown hm)
      have hgone : (s.endColl c 5 false).expireAt c s.ev.n1 m' =
          if s.failed.contains (m'.2.2.1, d.group, m'.1) then
            { s.endColl c 5 false with failed := s.failed.erase (m'.2.2.1, d.group, m'.1) }
          else { s.endColl c 5 false with abandoned := s.abandoned ++ [(m'.2.2.1, d.group, m'.1)] } := by
        unfold State.expireAt
        rw [harrived', hcoming']
        rfl
      rw [hfold, hgone] at hexec
      refine ⟨fun hfailed => hexec.trans (congrArg Host.Outcome.next (if_neg ?_)), fun hfailed => hexec.trans (congrArg Host.Outcome.next (if_pos hfailed))⟩
      rw [hfailed]
      exact Bool.false_ne_true
  case save =>
    intro g addr sl fr hwait
    refine ⟨ctxsaveDone_ends hwait, exec_ctxsaveDone_gone hwait, fun x v hgang hsl hspots => ?_, fun x xs v hgang hsl hspots hheld => ?_⟩
    · refine exec_ctxsaveDone hwait hgang (st := 3) ?_
      unfold State.saveEnd
      rw [show s.saveSpots s.ev.n0 sl addr.toNat (imageKib x (s.ownedSlots g).length) = (none, v) from hspots]
      simp [hsl]
    · obtain ⟨t, ht⟩ : ∃ t, s.saveEnd s.ev.n0 g x addr sl fr = some (t, 0) := by
        unfold State.saveEnd
        rw [show s.saveSpots s.ev.n0 sl addr.toNat (imageKib x (s.ownedSlots g).length) = (some xs, v) from hspots]
        simp only [hsl, Bool.not_true, Bool.false_eq_true, false_and, if_false, hheld]
        exact ⟨_, rfl⟩
      exact ⟨_, exec_ctxsaveDone hwait hgang ht, wait_waits ..⟩
  case load =>
    intro core addr hwait
    refine ⟨fun hcome => ⟨_, _, exec_ctxloadDone hwait hcome, wait_waits ..⟩, fun hrange => ?_, fun head v bs w hcome hhead hbody => ?_⟩
    · rw [exec_ctxloadDone hwait (imageAwaits_out hrange), loadEnd_out hrange]
      rfl
    · intro x
      rw [exec_ctxloadDone hwait hcome, loadEnd_reads hhead hbody]
      rfl
  case loads =>
    intro core bs ws plain c n hopen hfind hnode hcore hcluster hpart hkind htakes hargs x
    have hx : x = ((s.restore c n core).1.toNat, (s.restore c n core).2) :=
      loadImage_places hopen hfind hnode hcore hcluster hpart hkind htakes
    obtain ⟨g, y, hgang, hhandle, hpart', hnode', hcore', hparked, hhold, hid, hscratch, htiles, hwitness, hstack, hother⟩ :=
      restore_places s c n core hargs
    rw [hx]
    exact ⟨g, y, hgang, by rw [hhandle], hpart'.trans hpart, hnode', hcore', hparked, hhold, hid, hscratch, htiles, hwitness, hstack,
      fun k hk => Prod.mk.inj (hother k hk)⟩

end Sys2Proof.Machine
end

section
/-! What the events of staged pages do: the fill of a frame, the seal of a version and its digest (10 R264, R265, 16 R381, R382). -/

namespace Sys2Proof.Machine

section
variable {s : State}

/-- What a fill of a frame has no part in. -/
def State.staging (s : State) : Tab Stream × Tab Crew × Tab Gang × Tab Pair := (s.streams, s.crews, s.gangs, s.pairs)

theorem CacheStep.staging {s t : State} (h : CacheStep s t) : t.staging = s.staging :=
  (congrArg (fun u : State => (u.streams, u.crews, u.gangs, u.pairs)) h.rest :)

/-- Lines of a range of local memory drain at their homes, and their directory entries are recalled. -/
def State.drainRange (inside : Nat → Bool) (s : State) (h : Nat) : State :=
  let u := (distinct ((s.msgs.filter fun m => m.home == h && inside m.line).map (·.line))).foldl
    (fun u l => State.drain (16 * u.msgs.length + 64) h l u) s
  (((u.die h).dir.map Prod.fst).filter inside).foldl (fun u l => u.dirRecall h l) u

theorem drainRange_step {s t : State} (h : CacheStep s t) (inside : Nat → Bool) (home : Nat) : CacheStep s (t.drainRange inside home) :=
  (h.foldl (fun _ _ hv => hv.drain ..) _).foldl (fun _ _ hv => hv.dirRecall ..) _

theorem pair_of_pairs {s t : State} (h : t.pairs = s.pairs) (k : Nat) : t.pair k = s.pair k := congrArg (Tab.get ({} : Pair) · k) h

theorem stream_of_streams {s t : State} (h : t.streams = s.streams) (r : Nat) : t.stream r = s.stream r :=
  congrArg (Tab.get ({} : Stream) · r) h

theorem flushRange_step (s : State) (base n : Nat) : CacheStep s (s.flushRange base n) := by
  obtain ⟨inside, hinside⟩ : ∃ inside : Nat → Bool, inside = fun l => decide (base ≤ 64 * l) && decide (64 * l < base + n) := ⟨_, rfl⟩
  have hu : CacheStep s ((List.range 4).foldl (fun u h => u.drainRange inside h) s) :=
    CacheStep.foldl (.refl s) (fun u h hu => drainRange_step hu inside h) _
  have h : s.flushRange base n = (fun u : State => { u with dies := Tab.mapVals (fun _ d => { d with l2 := d.l2.filter fun p => !inside p.1 }) u.dies })
      ((List.range 4).foldl (fun u h => u.drainRange inside h) s) := by
    rw [hinside]
    rfl
  rw [h]
  generalize (List.range 4).foldl (fun u h => u.drainRange inside h) s = u at hu ⊢
  exact hu.keeps rfl rfl

theorem countWrite_staging (s : State) (line : Nat) : (s.countWrite line).staging = s.staging := by
  unfold State.countWrite
  split <;> rfl

theorem fillFrame_staging (s : State) (dst : Nat) (src : Option Nat) : (s.fillFrame dst src).staging = s.staging := by
  cases src with
  | none =>
    have hflush := (flushRange_step s dst (2 ^ 21)).staging
    unfold State.fillFrame
    dsimp only
    generalize s.flushRange dst (2 ^ 21) = u at hflush ⊢
    split
    · exact (foldl_proj State.staging countWrite_staging _ _).trans hflush
    · exact hflush
  | some b =>
    have hflush := ((flushRange_step s dst (2 ^ 21)).trans (flushRange_step _ b (2 ^ 21))).staging
    unfold State.fillFrame
    dsimp only
    generalize (s.flushRange dst (2 ^ 21)).flushRange b (2 ^ 21) = u at hflush ⊢
    split
    · exact (foldl_proj State.staging countWrite_staging _ _).trans hflush
    · exact hflush

theorem logFill_staging (s : State) (key dst : Nat) : (s.logFill key dst).staging = s.staging := by
  unfold State.logFill
  refine foldl_proj State.staging (fun u m => ?_) _ _
  exact (congrArg (fun v : State => (v.streams, v.crews, v.gangs, v.pairs)) (recordFault_rest u ..) :)

theorem Tab.mem_of_find {α : Type} {k : Nat} {t : Tab α} (h : (Tab.find k t).isSome = true) : ∃ x, (k, x) ∈ t := by
  induction t with
  | nil => cases h
  | cons p t ih =>
    obtain ⟨j, a⟩ := p
    by_cases hj : j = k
    · exact ⟨a, hj ▸ List.mem_cons_self⟩
    · rw [Tab.find, if_neg hj] at h
      obtain ⟨x, hx⟩ := ih h
      exact ⟨x, List.mem_cons_of_mem _ hx⟩

/-- Streams wait for something. -/
theorem stream_waits (w : Wait) (rs : List Nat) (u : State) (r : Nat) :
    ((rs.foldl (fun u r => u.updStream r fun t => { t with wait := some w }) u).stream r).wait = if r ∈ rs then some w else (u.stream r).wait := by
  induction rs generalizing u with
  | nil => rfl
  | cons x xs ih =>
    rw [List.foldl_cons, ih]
    by_cases hxs : r ∈ xs
    · rw [if_pos hxs, if_pos (List.mem_cons_of_mem _ hxs)]
    · rw [if_neg hxs]
      by_cases hx : r = x
      · subst hx
        rw [if_pos List.mem_cons_self, State.updStream_eq, State.stream_setStream]
      · rw [if_neg (by simp [hx, hxs]), State.updStream_eq, State.stream_setStream_other _ _ hx]

/-- The end of a fill: the SOPENs that wait for it return. -/
def State.fillReturns (u : State) (key v : Nat) : State :=
  let rs := (u.streams.map Prod.fst).filter fun r => (u.stream r).wait == some (.sopen key v false)
  let x := (distinct (rs.map u.coreNum)).foldl (fun x c => x.noteEngine c ((List.range (2 ^ 16)).map (frameBase key v / 32 + ·))) u
  rs.foldl (fun x r => x.updStream r fun t => { t with wait := some (.sopen key v true) })
    (x.updPair key fun p => { p with filling := false })

theorem fillReturns_leaves (u : State) (key v : Nat) :
    ((u.fillReturns key v).pair key).filling = false ∧ (u.fillReturns key v).gangs = u.gangs ∧ (u.fillReturns key v).crews = u.crews ∧
      ∀ r, (Tab.find r u.streams).isSome = true → ((u.fillReturns key v).stream r).wait =
        if (u.stream r).wait = some (.sopen key v false) then some (.sopen key v true) else (u.stream r).wait := by
  unfold State.fillReturns
  dsimp only
  have hrs (r : Nat) (hr : (Tab.find r u.streams).isSome = true) :
      (r ∈ (u.streams.map Prod.fst).filter fun r => (u.stream r).wait == some (.sopen key v false)) ↔
        (u.stream r).wait = some (.sopen key v false) := by
    obtain ⟨x, hx⟩ := Tab.mem_of_find hr
    simp only [List.mem_filter, List.mem_map, beq_iff_eq, and_iff_right_iff_imp]
    exact fun _ => ⟨(r, x), hx, rfl⟩
  generalize (u.streams.map Prod.fst).filter (fun r => (u.stream r).wait == some (.sopen key v false)) = rs at hrs ⊢
  have hstep : CacheStep u ((distinct (rs.map u.coreNum)).foldl
      (fun x c => x.noteEngine c ((List.range (2 ^ 16)).map (frameBase key v / 32 + ·))) u) :=
    CacheStep.foldl (.refl u) (fun x c hx => hx.noteEngine ..) _
  generalize (distinct (rs.map u.coreNum)).foldl
    (fun x c => x.noteEngine c ((List.range (2 ^ 16)).map (frameBase key v / 32 + ·))) u = x at hstep ⊢
  refine ⟨?_, ?_, ?_, fun r hr => ?_⟩
  · rw [pair_of_pairs (foldl_proj State.pairs (fun _ _ => by rfl) rs _) key, State.updPair_eq, State.pair_setPair]
  · exact (foldl_proj State.gangs (fun _ _ => by rfl) rs _).trans hstep.gangs
  · exact (foldl_proj State.crews (fun _ _ => by rfl) rs _).trans hstep.crews
  · rw [stream_waits]
    have hsame : (x.updPair key fun p => { p with filling := false }).stream r = u.stream r := stream_of_streams hstep.streams r
    simp only [hrs r hr, hsame]

theorem exec_stagingFillDone (hfill : (s.pair s.ev.n0).filling = true) :
    ∃ u : State, exec .stagingFillDone s = .next (u.fillReturns s.ev.n0 (s.pair s.ev.n0).version) ∧ u.staging = s.staging := by
  obtain ⟨⟨k, live, intact⟩, hc⟩ : ∃ p, s.carried s.ev.n0 ((s.pair s.ev.n0).version - 1) = p := ⟨_, rfl⟩
  refine ⟨if (!(s.pair s.ev.n0).carry) = true ∨ (!intact) = true then s.fillFrame (frameBase s.ev.n0 (s.pair s.ev.n0).version) none
    else if frameBase k live = frameBase s.ev.n0 (s.pair s.ev.n0).version then s
    else (s.fillFrame (frameBase s.ev.n0 (s.pair s.ev.n0).version) (some (frameBase k live))).logFill s.ev.n0
      (frameBase s.ev.n0 (s.pair s.ev.n0).version), event_next (f := onStagingFillDone) ?_, ?_⟩
  · unfold onStagingFillDone
    dsimp only
    rw [hfill, hc, if_neg (by simp)]
    rfl
  · split
    · exact fillFrame_staging ..
    · split
      · rfl
      · exact (logFill_staging ..).trans (fillFrame_staging ..)

/-- A gang's SSEAL of a page proceeds: its place goes, and so does its write permission. -/
def Gang.sealsPage (r key : Nat) (g : Gang) : Gang :=
  { g with sealedBy := g.sealedBy ++ [key], places := g.places.filter fun x => !(x.1 == r % 32 && x.2.1 == key) }

/-- An SSEAL that proceeds. -/
def State.sealGoes (s : State) (r key v : Nat) : State :=
  (((s.release (s.coreNum r) 6).updGang (gangOf r) (Gang.sealsPage r key)).updStream r fun t =>
      { t with wait := some (.sseal key v true) }).updPair key fun p => { p with seals := p.seals + 1 }

theorem sealGoes_leaves (s : State) (r key v : Nat) :
    ((s.sealGoes r key v).stream r).wait = some (.sseal key v true) ∧
      ((s.sealGoes r key v).gangAt r).sealedBy = (s.gangAt r).sealedBy ++ [key] ∧
      (s.sealGoes r key v).pair key = { s.pair key with seals := (s.pair key).seals + 1 } := by
  have hstep : CacheStep s (s.release (s.coreNum r) 6) := (CacheStep.refl s).release ..
  unfold State.sealGoes
  generalize s.release (s.coreNum r) 6 = u at hstep ⊢
  have hpair : u.pair key = s.pair key := (congrArg (fun t : Tab Stream × Tab Crew × Tab Gang × Tab Pair => Tab.get {} t.2.2.2 key) hstep.staging :)
  refine ⟨?_, ?_, ?_⟩
  · exact (congrArg Stream.wait (State.stream_setStream ..) :)
  · exact (congrArg Gang.sealedBy (gang_updGang u (gangOf r) (Gang.sealsPage r key))).trans
      (congrArg (fun g : Gang => g.sealedBy ++ [key]) (gang_of_gangs hstep.gangs (gangOf r)))
  · exact (State.pair_setPair ..).trans (congrArg (fun p : Pair => { p with seals := p.seals + 1 }) hpair)

theorem exec_ssealProceed {key v : Nat} (hwait : (s.stream s.ev.n0).wait = some (.sseal key v false)) (hidle : s.enginesIdle s.ev.n0 = true)
    (hrun : (s.crewAt s.ev.n0).stopped = false) : exec .ssealProceed s = .next
      (if ((s.sealGoes s.ev.n0 key v).pair key).seals = ((s.sealGoes s.ev.n0 key v).pair key).sealCount then
        (s.sealGoes s.ev.n0 key v).sealVersion key else s.sealGoes s.ev.n0 key v) := by
  refine event_next (f := onSsealProceed) ?_
  unfold onSsealProceed
  dsimp only
  rw [hwait]
  dsimp only
  rw [hidle, hrun, if_neg (by simp)]
  rfl

theorem ver_updVer (s : State) (k v : Nat) (f : Ver → Ver) : (s.updVer k v f).ver k v = f (s.ver k v) := by
  unfold State.ver State.updVer
  rw [State.updPair_eq, State.pair_setPair]
  exact Tab.get_put_same ..

theorem sealVersion_seals {key : Nat} (hdoomed : (s.ver key (s.pair key).version).doomed = false) :
    (s.sealVersion key).streams = s.streams ∧ ((s.sealVersion key).ver key (s.pair key).version).st = .sealed := by
  have hseal : ((s.updVer key (s.pair key).version fun x => { x with st := .sealed }).ver key (s.pair key).version).st = .sealed :=
    congrArg Ver.st (ver_updVer ..)
  unfold State.sealVersion
  dsimp only
  rw [hdoomed, if_neg (by simp)]
  split
  · exact ⟨rfl, hseal⟩
  · exact ⟨rfl, hseal⟩

theorem ssealProceed_proceeds {key v : Nat} (hwait : (s.stream s.ev.n0).wait = some (.sseal key v false)) (hidle : s.enginesIdle s.ev.n0 = true)
    (hrun : (s.crewAt s.ev.n0).stopped = false) (hmore : (s.pair key).seals + 1 ≠ (s.pair key).sealCount) :
    ∃ t, exec .ssealProceed s = .next t ∧ (t.stream s.ev.n0).wait = some (.sseal key v true) ∧
      (t.gangAt s.ev.n0).sealedBy = (s.gangAt s.ev.n0).sealedBy ++ [key] ∧ (t.pair key).seals = (s.pair key).seals + 1 := by
  obtain ⟨hstream, hgang, hpair⟩ := sealGoes_leaves s s.ev.n0 key v
  have hexec := exec_ssealProceed hwait hidle hrun
  rw [if_neg (by rw [hpair]; exact hmore)] at hexec
  exact ⟨_, hexec, hstream, hgang, congrArg Pair.seals hpair⟩

theorem ssealProceed_seals {key v : Nat} (hwait : (s.stream s.ev.n0).wait = some (.sseal key v false)) (hidle : s.enginesIdle s.ev.n0 = true)
    (hrun : (s.crewAt s.ev.n0).stopped = false) (hlast : (s.pair key).seals + 1 = (s.pair key).sealCount)
    (hdoomed : (s.ver key (s.pair key).version).doomed = false) :
    ∃ t, exec .ssealProceed s = .next t ∧ (t.stream s.ev.n0).wait = some (.sseal key v true) ∧
      (t.ver key (s.pair key).version).st = .sealed := by
  obtain ⟨hstream, -, hpair⟩ := sealGoes_leaves s s.ev.n0 key v
  have hexec := exec_ssealProceed hwait hidle hrun
  rw [if_pos (by rw [hpair]; exact hlast)] at hexec
  have hver : ((s.sealGoes s.ev.n0 key v).pair key).version = (s.pair key).version := by rw [hpair]
  have hopen : ((s.sealGoes s.ev.n0 key v).ver key ((s.sealGoes s.ev.n0 key v).pair key).version).doomed = false := by
    unfold State.ver at hdoomed ⊢
    rw [hpair]
    exact hdoomed
  obtain ⟨hkeep, hseal⟩ := sealVersion_seals hopen
  exact ⟨_, hexec, (congrArg Stream.wait (stream_of_streams hkeep s.ev.n0)).trans hstream, hver ▸ hseal⟩

/-- Where no sequencer of the assay die disagrees, its write is what it writes. -/
theorem assay_next {f : Ev → State → Option State} {t : State} (h : f s.ev s = some t) (hagree : s.ev.n4 = 0) :
    event s (assay f) = .next t := by
  refine event_next (f := assay f) ?_
  unfold assay
  rw [h]
  exact congrArg some (if_pos hagree)

/-- What a write of the assay die leaves, whether or not a sequencer disagrees. -/
theorem assay_writes {f : Ev → State → Option State} {t : State} (h : f s.ev s = some t) :
    event s (assay f) = .next { t with health := if s.ev.n4 = 0 then t.health else t.health + 1 } := by
  refine event_next (f := assay f) ?_
  unfold assay
  rw [h]
  refine congrArg some ?_
  dsimp only
  split <;> rfl

/-- The digest of a version's frame is taken. -/
def State.takeDigest (u : State) (key v : Nat) : State :=
  u.updVer key v fun x => { x with digest := some (digestWords u.mem (frameBase key v) (2 ^ 18) 0) }

theorem takeDigest_takes (u : State) (key v : Nat) :
    ((u.takeDigest key v).ver key v).digest = some (digestWords u.mem (frameBase key v) (2 ^ 18) 0) := by
  unfold State.takeDigest
  rw [ver_updVer]

theorem digestTaken_digests {v : Nat} {q : Ver}
    (hdue : (s.pair s.ev.n0).vers.find? (fun v => v.2.st == .sealed && v.2.digest.isNone) = some (v, q)) :
    ∃ t, exec .digestTaken s = .next t ∧
      (t.ver s.ev.n0 v).digest = some (digestWords t.mem (frameBase s.ev.n0 v) (2 ^ 18) 0) ∧ t.streams = s.streams ∧ t.gangs = s.gangs := by
  have hstep := flushRange_step s (frameBase s.ev.n0 v) (2 ^ 21)
  refine ⟨_, assay_writes (f := onDigestTaken) (t := (s.flushRange (frameBase s.ev.n0 v) (2 ^ 21)).takeDigest s.ev.n0 v) ?_, ?_⟩
  · unfold onDigestTaken
    dsimp only
    rw [hdue]
    rfl
  · generalize s.flushRange (frameBase s.ev.n0 v) (2 ^ 21) = u at hstep ⊢
    exact ⟨takeDigest_takes .., hstep.streams, hstep.gangs⟩

end

end Sys2Proof.Machine
end

section
/-! What the events of the assay die do to versions, seeds and tests, and what self-tests, strikes and the patrol scrubber leave
(16 R381 to R401). -/

namespace Sys2Proof.Machine

section
variable {s : State}

theorem gang_setAll {f : Gang → Gang} {p : Gang → Prop} (hf : ∀ x, p (f x)) (gs : List Nat) (s : State) {g : Nat} (hg : g ∈ gs) :
    p ((gs.foldl (fun s g => s.updGang g f) s).gang g) := by
  induction gs generalizing s with
  | nil => cases hg
  | cons x xs ih =>
    by_cases hxs : g ∈ xs
    · exact ih _ hxs
    · obtain rfl : g = x := (List.mem_cons.mp hg).resolve_right hxs
      have hkeep (ys : List Nat) (hys : g ∉ ys) (u : State) : (ys.foldl (fun s g => s.updGang g f) u).gang g = u.gang g := by
        induction ys generalizing u with
        | nil => rfl
        | cons y ys ih' =>
          rw [List.foldl_cons, ih' (fun h => hys (List.mem_cons_of_mem _ h)), State.updGang_eq,
            State.gang_setGang_other _ _ (fun h : g = y => hys (h ▸ List.mem_cons_self))]
      rw [List.foldl_cons, hkeep xs hxs, State.updGang_eq, State.gang_setGang]
      exact hf _

/-- The state with the entry that a residue report opens. -/
theorem recordSeq_rest (s : State) (fdom part kind verdict test : Nat) (node : DWord) (w2 page w4 link detail : Nat) (final : Bool) :
    (s.recordSeq fdom part kind verdict test node w2 page w4 link detail final).2.lessRecord = s.lessRecord := recordFault_rest ..

theorem cluster_of_clusters {s t : State} (h : t.clusters = s.clusters) (c : Nat) : t.cluster c = s.cluster c :=
  congrArg (Tab.get ({} : Cluster) · c) h

theorem cluster_updCluster (s : State) (c : Nat) (f : Cluster → Cluster) : (s.updCluster c f).cluster c = f (s.cluster c) :=
  State.cluster_setCluster ..

/-- A gang is asked to park for the self-test of its cluster. -/
def Gang.assayPark (x : Gang) : Gang := { x.askPark .preempt with assayHold := true }

/-- The live gangs that are on a cluster. -/
def State.onCluster (s : State) (cl : Nat) : List (Nat × Gang) := s.gangs.filter fun p => clusterOf p.2.core == cl && p.2.live

/-- The state with the entry that a residue report opens, and the entry's number. -/
theorem residueReport_opens (hcl : s.ev.n0 < 64) (hon : s.isRetired s.ev.n0 = false) : ∃ seq, ∃ u : State, u.lessRecord = s.lessRecord ∧
    onResidueReport s.ev s = some (if (s.cluster s.ev.n0).selfTest.isSome then
        u.updCluster s.ev.n0 fun c => { c with moreTests := c.moreTests ++ [(seq, s.ev.n1)] }
      else (((u.onCluster s.ev.n0).map Prod.fst).foldl (fun s g => s.updGang g Gang.assayPark) u).updCluster s.ev.n0 fun c =>
        { c with selfTest := some (seq, s.ev.n1) }) := by
  obtain ⟨⟨fdom, core⟩, hreported⟩ : ∃ p, s.reported s.ev.n0 (w64 s.ev.n2) = p := ⟨_, rfl⟩
  obtain ⟨⟨seq, u⟩, hseq⟩ : ∃ p, s.recordSeq fdom (s.ownerOf s.ev.n0) 2 0 0 (w64 s.ev.n2) (core * 2 ^ 56) 0 0 0
    (s.ev.n1 % 16 * 256 + (s.cluster s.ev.n0).rnsmap.toNat % 256) false = p := ⟨_, rfl⟩
  have hrest : u.lessRecord = s.lessRecord :=
    (congrArg (fun p : Nat × State => p.2.lessRecord) hseq).symm.trans (recordSeq_rest ..)
  have hcluster : u.cluster s.ev.n0 = s.cluster s.ev.n0 := cluster_of_clusters (congrArg State.clusters hrest) _
  refine ⟨seq, u, hrest, ?_⟩
  unfold onResidueReport
  dsimp only
  rw [if_neg (by simp [hon]; omega), hreported]
  dsimp only
  rw [hseq]
  dsimp only
  rw [hcluster]
  split <;> rfl

theorem residueReport_parks (hcl : s.ev.n0 < 64) (hidle : (s.cluster s.ev.n0).selfTest = none) (hon : s.isRetired s.ev.n0 = false) :
    ∃ t seq, exec .residueReport s = .next t ∧ (t.cluster s.ev.n0).selfTest = some (seq, s.ev.n1) ∧ t.streams = s.streams ∧
      ∀ p ∈ s.gangs, clusterOf p.2.core = s.ev.n0 → p.2.live = true → (t.gang p.1).assayHold = true := by
  obtain ⟨seq, u, hrest, hreport⟩ := residueReport_opens hcl hon
  rw [hidle] at hreport
  have hgangs : u.gangs = s.gangs := (congrArg State.gangs hrest :)
  refine ⟨_, seq, assay_writes (f := onResidueReport) hreport, ?_, ?_, fun p hp hcore hlive => ?_⟩
  · exact (congrArg Cluster.selfTest (cluster_updCluster _ s.ev.n0 fun c => { c with selfTest := some (seq, s.ev.n1) }) :)
  · exact (foldl_proj State.streams (fun _ _ => by rfl) _ u).trans (congrArg State.streams hrest :)
  · refine gang_setAll (f := Gang.assayPark) (p := fun x => x.assayHold = true) (fun _ => rfl) _ u (List.mem_map.mpr ⟨p, ?_, rfl⟩)
    exact List.mem_filter.mpr ⟨hgangs ▸ hp, by simp [hcore, hlive]⟩

theorem residueReport_waits {x : Nat × Nat} (hcl : s.ev.n0 < 64) (htest : (s.cluster s.ev.n0).selfTest = some x)
    (hon : s.isRetired s.ev.n0 = false) :
    ∃ t seq, exec .residueReport s = .next t ∧ (t.cluster s.ev.n0).selfTest = some x ∧
      (t.cluster s.ev.n0).moreTests = (s.cluster s.ev.n0).moreTests ++ [(seq, s.ev.n1)] := by
  obtain ⟨seq, u, hrest, hreport⟩ := residueReport_opens hcl hon
  rw [htest] at hreport
  have hcluster : u.cluster s.ev.n0 = s.cluster s.ev.n0 := cluster_of_clusters (congrArg State.clusters hrest) _
  have hwait := (cluster_updCluster u s.ev.n0 fun c => { c with moreTests := c.moreTests ++ [(seq, s.ev.n1)] }).trans
    (congrArg (fun c : Cluster => { c with moreTests := c.moreTests ++ [(seq, s.ev.n1)] }) hcluster)
  exact ⟨_, seq, assay_writes (f := onResidueReport) hreport, (congrArg Cluster.selfTest hwait).trans htest, (congrArg Cluster.moreTests hwait :)⟩

theorem enterRecord_rest {t : State} {x : FaultEntry} (h : s.enterRecord x = some t) : t.lessRecord = s.lessRecord := by
  unfold State.enterRecord at h
  split at h
  · exact Option.some.inj h ▸ rfl
  · split at h
    · cases h
    · exact Option.some.inj h ▸ rfl

theorem flushHeld_rest (s : State) : s.flushHeld.lessRecord = s.lessRecord := by
  unfold State.flushHeld
  dsimp only
  generalize hu : s.held.foldl _ s = u
  have hrest : u.lessRecord = s.lessRecord := by
    rw [← hu]
    refine foldl_proj State.lessRecord (fun v x => ?_) _ _
    split
    · rename_i t ht
      exact (enterRecord_rest ht :)
    · rfl
  split
  · exact (recordFault_rest ..).trans hrest
  · exact hrest

theorem amendRecord_rest (s : State) (seq : Nat) (f : List DWord → List DWord) (final : Bool) :
    (s.amendRecord seq f final).lessRecord = s.lessRecord := (flushHeld_rest _ :)

theorem giveVerdict_clusters (s : State) (entry verdict : Nat) : (s.giveVerdict entry verdict).clusters = s.clusters :=
  (congrArg State.clusters (amendRecord_rest ..) :)

/-- The test that a cluster waits for, and the map of its residue channels. -/
def State.testing (s : State) (cl : Nat) : Option (Nat × Nat) × Word := ((s.cluster cl).selfTest, (s.cluster cl).rnsmap)

theorem testing_updCluster (s : State) (c cl : Nat) {f : Cluster → Cluster} (hf : ∀ x, (f x).selfTest = x.selfTest ∧ (f x).rnsmap = x.rnsmap) :
    (s.updCluster c f).testing cl = s.testing cl := by
  unfold State.testing
  by_cases h : cl = c
  · subst h
    rw [cluster_updCluster, (hf _).1, (hf _).2]
  · rw [State.updCluster_eq, State.cluster_setCluster_other _ _ h]

theorem resumeGang_testing (s : State) (g cl : Nat) : (s.resumeGang g).testing cl = s.testing cl := by
  unfold State.resumeGang
  dsimp only
  split
  · rfl
  · refine (foldl_proj (State.testing · cl) (fun u k => ?_) _ _).trans ((testing_updCluster _ _ _ ?_).trans rfl)
    · split
      · rfl
      · split <;> rfl
    · exact fun _ => ⟨rfl, rfl⟩

/-- A cluster's self-test ends, no other report waiting: the channels that fail are retired and the entry has its verdict. -/
def State.endTest (s : State) (cl seq : Nat) : State :=
  let map := (s.cluster cl).failing.foldl retireChannel (s.cluster cl).rnsmap
  let u := s.updCluster cl fun c => { c with selfTest := none, moreTests := [], rnsmap := map }
  (({ u with channels := Tab.put cl (bits map.toNat 5 0) u.channels }.amendRecord seq
    (fun ws => ws.set 7 (w64 (putBits (wordAt ws 7) 7 0 map.toNat))) false).giveVerdict seq (if map = (s.cluster cl).rnsmap then 3 else 7))

theorem endTest_testing (s : State) (cl seq : Nat) :
    (s.endTest cl seq).testing cl = (none, (s.cluster cl).failing.foldl retireChannel (s.cluster cl).rnsmap) := by
  have hclusters : (s.endTest cl seq).clusters = (s.updCluster cl fun c => { c with
      selfTest := none, moreTests := [], rnsmap := (s.cluster cl).failing.foldl retireChannel (s.cluster cl).rnsmap }).clusters :=
    (giveVerdict_clusters ..).trans (congrArg State.clusters (amendRecord_rest ..) :)
  unfold State.testing
  rw [cluster_of_clusters hclusters, cluster_updCluster]

theorem selfTestDone_ends {x : Nat × Nat} (htest : (s.cluster s.ev.n0).selfTest = some x) (hmore : (s.cluster s.ev.n0).moreTests = [])
    (hparked : ∀ p ∈ s.gangs, clusterOf p.2.core = s.ev.n0 → p.2.live = true → p.2.parked = true) :
    ∃ t, exec .selfTestDone s = .next t ∧ (t.cluster s.ev.n0).selfTest = none ∧
      (t.cluster s.ev.n0).rnsmap = (s.cluster s.ev.n0).failing.foldl retireChannel (s.cluster s.ev.n0).rnsmap := by
  have hall : ((s.gangs.filter fun p => clusterOf p.2.core == s.ev.n0 && p.2.live).all fun p => p.2.parked) = true := by
    rw [List.all_eq_true]
    intro p hp
    obtain ⟨hmem, hon⟩ := List.mem_filter.mp hp
    rw [Bool.and_eq_true, beq_iff_eq] at hon
    exact hparked p hmem hon.1 hon.2
  have hdone : onSelfTestDone s.ev s = some ((s.onCluster s.ev.n0).foldl (fun t p =>
      (t.updGang p.1 fun y => { y with assayHold := t.isRetired s.ev.n0 }).resumeGang p.1) (s.endTest s.ev.n0 x.1)) := by
    unfold onSelfTestDone
    dsimp only
    rw [htest]
    dsimp only
    rw [hall, if_neg (by simp), hmore, if_neg (by simp)]
    rfl
  have htesting := (foldl_proj (f := fun t (p : Nat × Gang) => (t.updGang p.1 fun y => { y with assayHold := t.isRetired s.ev.n0 }).resumeGang p.1)
    (State.testing · s.ev.n0) (fun u p => (resumeGang_testing ..).trans (by rfl)) (s.onCluster s.ev.n0) (s.endTest s.ev.n0 x.1)).trans
    (endTest_testing s s.ev.n0 x.1)
  exact ⟨_, assay_writes (f := onSelfTestDone) hdone, congrArg Prod.fst htesting, congrArg Prod.snd htesting⟩

/-! Strikes (16 R399). -/

/-- Clusters count a strike. -/
def State.strike (s : State) (cls : List Nat) : State :=
  cls.foldl (fun s c => s.updCluster c fun x => { x with strikes := x.strikes + 1 }) s

theorem strike_rest (s : State) (cls : List Nat) : (s.strike cls).streams = s.streams ∧ (s.strike cls).mem = s.mem :=
  ⟨foldl_proj State.streams (fun _ _ => by rfl) _ _, foldl_proj State.mem (fun _ _ => by rfl) _ _⟩

theorem strike_strikes {cls : List Nat} (hnodup : cls.Nodup) (s : State) (c : Nat) :
    ((s.strike cls).cluster c).strikes = (s.cluster c).strikes + if c ∈ cls then 1 else 0 := by
  induction cls generalizing s with
  | nil => rfl
  | cons x xs ih =>
    obtain ⟨hx, hxs⟩ := List.nodup_cons.mp hnodup
    refine (ih hxs _).trans ?_
    by_cases hc : c = x
    · subst hc
      rw [if_neg hx, if_pos List.mem_cons_self, cluster_updCluster]
    · have hkeep : (s.updCluster x fun y => { y with strikes := y.strikes + 1 }).cluster c = s.cluster c := by
        rw [State.updCluster_eq, State.cluster_setCluster_other _ _ hc]
      simp only [hkeep, List.mem_cons, hc, false_or]

/-- The clusters that a strike report names. -/
def Ev.struck (e : Ev) : List Nat := (distinct e.nums).filter fun c => decide (c < 64)

theorem exec_strikeReport (hsome : ¬(s.ev.struck = [] ∧ s.ev.n1 = 0)) (hdamages : s.damages s.ev = true) :
    exec .strikeReport s = .next ((s.strike s.ev.struck).damage s.ev) := by
  refine event_next (f := onStrikeReport) ?_
  unfold onStrikeReport
  refine if_neg fun h => h.elim hsome fun hno => ?_
  rw [hdamages] at hno
  cases hno

theorem strikeReport_counts (hkind : s.ev.n1 = 0) : ∃ t, exec .strikeReport s = .next t ∧ t.streams = s.streams ∧ t.mem = s.mem ∧
    ∀ c, (t.cluster c).strikes = (s.cluster c).strikes + if c ∈ s.ev.nums ∧ c < 64 then 1 else 0 := by
  have hmem (c : Nat) : c ∈ s.ev.struck ↔ c ∈ s.ev.nums ∧ c < 64 := by
    unfold Ev.struck
    rw [List.mem_filter, mem_distinct, decide_eq_true_iff]
  by_cases hnone : s.ev.struck = []
  · refine ⟨s, event_nothing (f := onStrikeReport) ?_, rfl, rfl, fun c => ?_⟩
    · unfold onStrikeReport
      exact if_pos (.inl ⟨hnone, hkind⟩)
    · rw [if_neg (fun h => by have := (hmem c).mpr h; rw [hnone] at this; cases this)]
      rfl
  · have hdamages : s.damages s.ev = true := by simp [State.damages, hkind]
    have hdamage : (s.strike s.ev.struck).damage s.ev = s.strike s.ev.struck := by simp [State.damage, hkind]
    refine ⟨_, exec_strikeReport (fun h => hnone h.1) hdamages, ?_⟩
    rw [hdamage]
    refine ⟨(strike_rest ..).1, (strike_rest ..).2, fun c => ?_⟩
    rw [strike_strikes (cls := s.ev.struck) ((distinct_nodup _).filter _)]
    simp only [hmem]

theorem strikeReport_register (hkind : s.ev.n1 = 1) (hstream : (Tab.find s.ev.n2 s.streams).isSome = true) (hbank : s.ev.n3 < 56) :
    ∃ t, exec .strikeReport s = .next t ∧ s.ev.n3 ∈ (t.stream s.ev.n2).regBad ∧ t.mem = s.mem := by
  have hdamages : s.damages s.ev = true := by simp [State.damages, hkind, hstream, bankHolds, hbank]
  refine ⟨_, exec_strikeReport (fun h => by omega) hdamages, ?_⟩
  unfold State.damage
  rw [if_pos hkind]
  refine ⟨?_, (strike_rest s s.ev.struck).2⟩
  rw [State.updStream_eq, State.stream_setStream]
  dsimp only
  split
  · rename_i h
    exact List.contains_iff_mem.mp h
  · simp

theorem strikeReport_adder (hkind : s.ev.n1 = 4) (hcl : s.ev.n2 < 64) (hrow : s.ev.n3 < 10) :
    ∃ t, exec .strikeReport s = .next t ∧ Tab.get 0 (t.cluster s.ev.n2).adder s.ev.n3 = s.ev.n4 ∧ t.streams = s.streams := by
  have hdamages : s.damages s.ev = true := by simp [State.damages, hkind, hcl, hrow]
  refine ⟨_, exec_strikeReport (fun h => by omega) hdamages, ?_⟩
  unfold State.damage
  rw [if_neg (by omega), if_neg (by omega), if_neg (by omega), if_pos hkind]
  refine ⟨?_, (strike_rest s s.ev.struck).1⟩
  rw [cluster_updCluster]
  exact Tab.get_put_same ..

end

end Sys2Proof.Machine
end

section
/-! What the patrol scrubber and the posts of the hub do, and the statement on the events of the assay die and the hub (14 R333 to
R336, R354, 16 R384 to R401). -/

namespace Sys2Proof.Machine

section
variable {s : State}

/-! The patrol scrubber (16 R400). -/

section
variable (hmem : 64 * s.ev.n0 < s.populated) (hback : s.writingBack s.ev.n0 = false)
include hmem hback

theorem patrolScrub_reads : ¬(s.populated ≤ 64 * s.ev.n0 ∨ s.writingBack s.ev.n0 = true) := by
  rw [hback]
  simpa using hmem

theorem patrolScrub_corrected (hkind : s.ev.n1 = 1) : exec .patrolScrub s =
    .next ((s.countEcc ((s.frameOwner (64 * s.ev.n0)).getD 0) (64 * s.ev.n0)).countWrite s.ev.n0) := by
  refine event_next (f := onPatrolScrub) ?_
  unfold onPatrolScrub
  dsimp only
  exact (if_neg (patrolScrub_reads hmem hback)).trans (if_pos hkind)

theorem patrolScrub_poisons (hkind : s.ev.n1 = 2) : ∃ t, exec .patrolScrub s = .next t ∧ t.mem = s.mem ∧
    t.marks = if s.stale s.ev.n0 then s.marks else Tab.put s.ev.n0 Mark.poison s.marks := by
  refine ⟨({ s with marks := if s.stale s.ev.n0 then s.marks else Tab.put s.ev.n0 Mark.poison s.marks } : State).recordFault 0
    ((s.frameOwner (64 * s.ev.n0)).getD 0) 5 0 0 (w64 (64 * s.ev.n0)) 0 0 0 0 0 true, event_next (f := onPatrolScrub) ?_, ?_⟩
  · unfold onPatrolScrub
    dsimp only
    exact (if_neg (patrolScrub_reads hmem hback)).trans ((if_neg (by omega)).trans (if_pos hkind))
  · exact ⟨(congrArg State.mem (recordFault_rest ..) :), (congrArg State.marks (recordFault_rest ..) :)⟩

theorem patrolScrub_meets (hkind : s.ev.n1 = 0) (hbytes : s.ev.bytes ≠ []) : exec .patrolScrub s =
    .next (s.meetSector s.ev.n0 ((s.frameOwner (64 * s.ev.n0)).getD 0) s.ev.bytes) := by
  refine event_next (f := onPatrolScrub) ?_
  unfold onPatrolScrub
  dsimp only
  rw [if_neg (patrolScrub_reads hmem hback), if_neg (by omega), if_neg (by omega), if_pos ⟨hkind, hbytes⟩]

end

theorem meetSector_marks {sector part : Nat} {found : List Byte} (htree : s.treeBlock sector = none) (hstale : s.stale sector = false)
    (hclean : Tab.find sector s.marks ≠ some .poison)
    (htag : fitBytes 7 (found.drop 64) ≠ s.sectorTag sector (fitBytes 64 found)) :
    Tab.find sector (s.meetSector sector part found).marks = some .integrity := by
  have hbad : (fitBytes 7 (found.drop 64) == s.sectorTag sector (fitBytes 64 found)) = false := by simpa using htag
  unfold State.meetSector
  dsimp only
  rw [if_neg hclean, htree, hbad, hstale, if_neg (by simp)]
  refine (congrArg (fun t : State => Tab.find sector t.marks) (recordFault_rest ..) :).trans ?_
  unfold State.failTags
  dsimp only [List.foldl]
  rw [if_neg (by simp), if_neg hclean]
  exact Tab.find_put_same ..

/-! Posts (14 R333 to R336). -/

theorem postForward_waits (hroom : s.recordRoom s.ev.n0 = false) : exec .postForward s = .next s := by
  refine event_nothing (f := onPostForward) ?_
  unfold onPostForward
  dsimp only
  split
  · rw [hroom]
    rfl
  · rfl

theorem nodeAccept_full (hroom : s.recordRoom s.ev.n0 = false) : exec .nodeAccept s = .next s := by
  refine event_nothing (f := onNodeAccept) ?_
  unfold onNodeAccept
  dsimp only
  split
  · rfl
  · rw [hroom]
    rfl

section
variable {rcb : DWord} {rest : List DWord} (hposts : (s.part s.ev.n0).posts = rcb :: rest) (hhub : (s.part s.ev.n0).hubPost = none)
  (hroom : s.recordRoom s.ev.n0 = true)
include hposts hhub hroom

theorem postForward_unreadable {v : State}
    (hwords : ((s.setPart s.ev.n0 { s.part s.ev.n0 with posts := rest }).admitPosts s.ev.n0).hubWords s.ev.n0 rcb 2 = (none, v)) :
    exec .postForward s = .next (v.postCompletion s.ev.n0 rcb 0x8001 0 false) := by
  refine event_next (f := onPostForward) ?_
  unfold onPostForward
  dsimp only
  rw [hposts, hhub]
  dsimp only
  rw [hroom, if_neg (by simp), ← hhub, hwords]

theorem postForward_forwards {v w : State} {ws : List DWord} {c : Chain}
    (hwords : ((s.setPart s.ev.n0 { s.part s.ev.n0 with posts := rest }).admitPosts s.ev.n0).hubWords s.ev.n0 rcb 2 = (some ws, v))
    (hchain : v.readChain s.ev.n0 rcb = (some c, w)) (hroot : ws.getD 1 0 ≠ 0) :
    exec .postForward s = .next (w.updPart s.ev.n0 fun p => { p with hubPost := some (ws.getD 1 0, rcb) }) := by
  refine event_next (f := onPostForward) ?_
  unfold onPostForward
  dsimp only
  rw [hposts, hhub]
  dsimp only
  rw [hroom, if_neg (by simp), ← hhub, hwords]
  dsimp only
  rw [hchain]
  exact if_neg hroot

end

section
variable {addr rcb : DWord} (hhub : (s.part s.ev.n0).hubPost = some (addr, rcb)) (hroom : s.recordRoom s.ev.n0 = true)
include hhub hroom

theorem exec_nodeAccept : exec .nodeAccept s = match s.offer s.ev.n0 { addr, origin := .post } none with
    | .rejected st v => .next (((v.updPart s.ev.n0 fun p => { p with hubPost := none }).admitPosts s.ev.n0).postCompletion s.ev.n0 addr st 0 false)
    | .waits _ => .next s
    | .accepted _ v => .next ((v.updPart s.ev.n0 fun p => { p with hubPost := none }).admitPosts s.ev.n0) := by
  have hon : onNodeAccept s.ev s = match s.offer s.ev.n0 { addr, origin := .post } none with
      | .rejected st v => some (((v.updPart s.ev.n0 fun p => { p with hubPost := none }).admitPosts s.ev.n0).postCompletion s.ev.n0 addr st 0 false)
      | .waits _ => none
      | .accepted _ v => some ((v.updPart s.ev.n0 fun p => { p with hubPost := none }).admitPosts s.ev.n0) := by
    unfold onNodeAccept
    dsimp only
    rw [hhub]
    refine (if_neg (by rw [hroom]; simp)).trans ?_
    cases s.offer s.ev.n0 { addr, origin := .post } none <;> rfl
  show event s onNodeAccept = _
  unfold event
  rw [hon]
  cases s.offer s.ev.n0 { addr, origin := .post } none <;> rfl

end

/-! Re-executions (14 R354). -/

/-- The node that a re-execution post offers. -/
def RePost.node (q : RePost) : Node :=
  { addr := q.addr, origin := .rerun, xdie := q.xdie, xclu := q.xclu, probe := q.probe, attempt := q.attempt,
    entry := q.entry, orig := some q.origUid }

section
variable {q : RePost} {rest : List RePost} (hrepost : (s.part s.ev.n0).repost = q :: rest)
include hrepost

theorem reexecutionPost_waits {v : State} (hoffer : s.offer s.ev.n0 q.node none = .waits v) : exec .reexecutionPost s = .next s := by
  refine event_nothing (f := onReexecutionPost) ?_
  unfold onReexecutionPost
  dsimp only
  rw [hrepost]
  dsimp only
  unfold RePost.node at hoffer
  rw [hoffer]

/-- The hub has taken a re-execution post, whose repetition follows the log of the instance. -/
def State.takeRepost (v : State) (k n : Nat) (q : RePost) (rest : List RePost) : State :=
  let y := (v.updPart k fun p => { p with repost := rest }).updPart k fun p => { p with replay := p.replay ++ v.logFor k q.origUid n }
  y.updNode n fun x => { x with follows := y.hasLog q.origUid }

theorem reexecutionPost_accepts {v : State} {n : Nat} (hoffer : s.offer s.ev.n0 q.node none = .accepted n v)
    (hallowed : (v.takeRepost s.ev.n0 n q rest).allowed s.ev.n0 ((v.takeRepost s.ev.n0 n q rest).node n) ≠ []) :
    exec .reexecutionPost s = .next (v.takeRepost s.ev.n0 n q rest) := by
  refine event_next (f := onReexecutionPost) ?_
  unfold onReexecutionPost
  dsimp only
  rw [hrepost]
  dsimp only
  unfold RePost.node at hoffer
  rw [hoffer]
  exact congrArg some (if_neg hallowed)

end

/-! Seeds, tests and versions (16 R384 to R395). -/

theorem seedReveal_reveals {x : Node} (hx : (if s.ev.n1 = 0 then Tab.find s.ev.n0 s.nodes else Tab.find s.ev.n0 s.past) = some x)
    (hkind : x.desc.wkind ≠ 0) (hseed : x.seed = none) (hst : x.st ≠ .ended) (hwhole : s.wholeOutput x = true) (hagree : s.ev.n4 = 0) :
    exec .seedReveal s = .next ({ s with seeds := s.seeds + 1 }.updUid x.uid fun x => { x with seed := some (seedOf s.seeds) }) := by
  refine assay_next (f := onSeedReveal) ?_ hagree
  unfold onSeedReveal
  rw [hx]
  exact if_neg (by simp [hkind, hseed, hst, hwhole])

section
variable {x : Node} {ds : List Nat} (hx : Tab.find s.ev.n0 s.past = some x) (htested : x.tested = false) (hprobe : x.probe = none)
  (hentry : x.entry = none) (hkind : x.desc.wkind ≠ 0) (hst : x.st = .complete) (hdoomed : x.doomed = false)
  (hwhole : s.wholeOutput x = true) (hseed : x.seed.isSome = true) (hds : s.digestsOf x = some ds) (hagree : s.ev.n4 = 0)
include hx htested hprobe hentry hkind hst hdoomed hwhole hseed hds hagree

theorem exec_witnessTest : exec .witnessTest s = .next
    (match s.testWitness (s.pair (x.versions.headD (0, 0, 0)).2.1).part x with
      | none => s.updUid x.uid fun x => { x with tested := true, passed := true }
      | some f => (s.updUid x.uid fun x => { x with tested := true, passed := false }).failFirst
          (s.pair (x.versions.headD (0, 0, 0)).2.1).part x f) := by
  have hgo : ¬(x.desc.wkind = 0 ∨ x.st ≠ .complete ∨ x.doomed = true ∨ (!s.wholeOutput x) = true ∨ x.seed.isNone = true) := by
    obtain ⟨seed, hsome⟩ := Option.isSome_iff_exists.mp hseed
    simp [hkind, hst, hdoomed, hwhole, hsome]
  refine assay_next (f := onWitnessTest) ?_ hagree
  unfold onWitnessTest
  rw [hx]
  dsimp only
  rw [htested, hprobe, hentry, if_neg Bool.false_ne_true]
  dsimp only [Option.isSome]
  rw [if_neg (by simp), if_neg hgo, hds]
  dsimp only
  cases s.testWitness (s.pair (x.versions.headD (0, 0, 0)).2.1).part x <;> rfl

end

theorem versionRelease_releases {v : Nat} {q : Ver} (hkey : s.ev.n0 < 2 ^ 30)
    (hdue : (s.pair s.ev.n0).vers.find? (fun v => s.releasable v.2) = some (v, q)) (hagree : s.ev.n4 = 0) :
    exec .versionRelease s = .next ((((s.updVer s.ev.n0 v fun q => { q with st := .released }).dropPairTlb s.ev.n0).postNotice s.ev.n0 v
      (s.pair s.ev.n0).part false (((s.findUid (q.node.getD 0)).map fun x => x.desc.wkind == 0).getD false)).afterRelease (q.node.getD 0)) := by
  refine assay_next (f := onVersionRelease) ?_ hagree
  unfold onVersionRelease
  dsimp only
  rw [if_neg (Nat.not_le.mpr hkey), hdue]

theorem versionVoid_voids {v : Nat} {q : Ver} (hdue : (s.pair s.ev.n0).vers.find? (fun v => s.voidDue v.2) = some (v, q))
    (hdoomed : q.doomed = false) (hagree : s.ev.n4 = 0) :
    exec .versionVoid s = .next (s.voidVersion false (((q.node.bind s.findUid).map (·.cause)).getD 0) s.ev.n0 v) := by
  refine assay_next (f := onVersionVoid) ?_ hagree
  unfold onVersionVoid
  dsimp only
  rw [hdue]
  dsimp only
  rw [hdoomed]
  cases q.node.bind s.findUid <;> simp

end

/-- Settles O56, event by event: the fill and the seal of staged pages leave streams and gangs by what `fillReturns` and `sealGoes`
say, the writes of the assay die are those of its events, and the hub's posts follow the answer of `offer`. -/
theorem assayAndHubEventsHappen : Obligations.AssayAndHubEventsHappen := by
  unfold Obligations.AssayAndHubEventsHappen
  intro s e key pr
  refine ⟨fun hfill => ?_, fun page v hwait hidle hrun => ⟨ssealProceed_proceeds hwait hidle hrun, ssealProceed_seals hwait hidle hrun⟩,
    fun v q => digestTaken_digests, fun x => seedReveal_reveals,
    fun x ds hx htested hprobe hentry hkind hst hdoomed hwhole hseed hds hagree => ?_, fun v q => versionRelease_releases,
    fun v q => versionVoid_voids, fun q rest hrepost => ⟨fun v => reexecutionPost_waits hrepost, fun n v => reexecutionPost_accepts hrepost⟩,
    residueReport_parks, fun x => residueReport_waits, fun x => selfTestDone_ends, strikeReport_counts, strikeReport_register,
    strikeReport_adder, fun hmem hback => ⟨patrolScrub_corrected hmem hback, fun hkind hstale => ?_, fun hkind hstale => ?_, fun hkind hbytes =>
      ⟨patrolScrub_meets hmem hback hkind hbytes, meetSector_marks⟩⟩, fun _ hback => ?_,
    fun hroom => ⟨postForward_waits hroom, nodeAccept_full hroom⟩, fun rcb rest hposts hhub hroom =>
      ⟨fun v => postForward_unreadable hposts hhub hroom, fun ws v c w => postForward_forwards hposts hhub hroom⟩,
    fun addr rcb hhub hroom => ⟨fun n v hoffer => ?_, fun st v hoffer => ?_, fun v hoffer => ?_⟩⟩
  · obtain ⟨u, hexec, hu⟩ := exec_stagingFillDone hfill
    have hstreams : u.streams = s.streams := congrArg Prod.fst hu
    obtain ⟨hfilled, hgangs, hcrews, hwaits⟩ := fillReturns_leaves u s.ev.n0 (s.pair s.ev.n0).version
    refine ⟨_, hexec, hfilled, hgangs.trans (congrArg (·.2.2.1) hu), hcrews.trans (congrArg (·.2.1) hu), fun r hr => ?_⟩
    rw [hwaits r (hstreams ▸ hr), stream_of_streams hstreams]
  · have hexec := exec_witnessTest hx htested hprobe hentry hkind hst hdoomed hwhole hseed hds hagree
    intro part
    refine ⟨fun hpass => hexec.trans ?_, fun f hfail => hexec.trans ?_⟩
    · rw [show s.testWitness (s.pair (x.versions.headD (0, 0, 0)).2.1).part x = none from hpass]
    · rw [show s.testWitness (s.pair (x.versions.headD (0, 0, 0)).2.1).part x = some f from hfail]
  · have h := patrolScrub_poisons hmem hback hkind
    rwa [hstale] at h
  · have h := patrolScrub_poisons hmem hback hkind
    rwa [hstale] at h
  · refine event_nothing (f := onPatrolScrub) ?_
    unfold onPatrolScrub
    exact if_pos (.inr hback)
  · rw [exec_nodeAccept hhub hroom, hoffer]
  · rw [exec_nodeAccept hhub hroom, hoffer]
  · rw [exec_nodeAccept hhub hroom, hoffer]

end Sys2Proof.Machine
end

section
/-! What the messages of the coherence protocol do, one at a time (15 R365, R369 to R374). -/

namespace Sys2Proof.Machine

section
variable {s : State}

/-! The oldest message of a direction. -/

theorem takeMsg_append {f : Msg → Bool} {ms : List Msg} {m : Msg} (hnone : takeMsg f ms = none) (hm : f m = true) :
    takeMsg f (ms ++ [m]) = some (m, ms) := by
  induction ms with
  | nil => exact if_pos hm
  | cons x xs ih =>
    rw [takeMsg] at hnone
    by_cases hx : f x = true
    · rw [if_pos hx] at hnone
      cases hnone
    · rw [if_neg hx] at hnone
      have hxs : takeMsg f xs = none := by
        cases h : takeMsg f xs with
        | none => rfl
        | some p =>
          rw [h] at hnone
          cases hnone
      rw [List.cons_append, takeMsg, if_neg hx, ih hxs]

/-- The oldest message in flight between the home and the die that the event names, in the direction of a kind. -/
def State.nextMsg (s : State) (k : MsgKind) : Option (Msg × List Msg) :=
  takeMsg (fun m => m.home == s.ev.n0 && m.die == s.ev.n1 && m.kind.toDie == k.toDie) s.msgs

theorem message_delivers {k : MsgKind} {m : Msg} {rest : List Msg} (hnext : s.nextMsg k = some (m, rest)) (hkind : m.kind = k)
    (hline : m.line = s.ev.n2) : s.message k s.ev = some ({ s with msgs := rest }.deliver m) := by
  unfold State.nextMsg at hnext
  unfold State.message
  rw [hnext]
  exact if_pos ⟨hkind, hline⟩

theorem message_none {k : MsgKind} (hnext : s.nextMsg k = none) : s.message k s.ev = none := by
  unfold State.nextMsg at hnext
  unfold State.message
  rw [hnext]

/-- A message sent where none is in flight in its direction is delivered at once. -/
theorem message_sent {m : Msg} {u : State} (hnext : s.nextMsg m.kind = none) (hmsgs : u.msgs = s.msgs) (hhome : m.home = s.ev.n0)
    (hdie : m.die = s.ev.n1) (hline : m.line = s.ev.n2) : (u.send m).message m.kind s.ev = some (u.deliver m) := by
  unfold State.nextMsg at hnext
  unfold State.message
  have htake := takeMsg_append hnext (m := m) (by simp [hhome, hdie])
  rw [show (u.send m).msgs = s.msgs ++ [m] by rw [← hmsgs]; rfl, htake]
  refine (if_pos ⟨rfl, hline⟩).trans ?_
  rw [← hmsgs]
  rfl

/-- How a die that asks for a line is to hold it. -/
def State.howAsked (s : State) : Attr := { home := s.ev.n0, nc := false, cpol := 0, ways := s.wayMask s.ev.n3 s.ev.n1 }

/-- The die has asked for the line. -/
def State.asking (s : State) (k : MsgKind) : State :=
  s.updDie s.ev.n1 fun d => { d with asked := Tab.put s.ev.n2 (k, s.howAsked) d.asked }

theorem request_sends {k : MsgKind} {may : Option L2Line → Bool} (hrequest : k = .readShared ∨ k = .readOwn ∨ k = .upgrade)
    (hnext : s.nextMsg k = none) (hrange : msgRange s.ev = true) (hhome : s.trackHome s.ev.n2 = s.ev.n0)
    (hasked : Tab.find s.ev.n2 (s.die s.ev.n1).asked = none) (hmay : may (s.l2Find s.ev.n1 s.ev.n2) = true) :
    s.request k may s.ev = some ((s.asking k).homeRequest s.ev.n0 s.ev.n1 s.ev.n2 k) := by
  have hsent : (s.ask s.howAsked s.ev.n1 s.ev.n2 k).message k s.ev =
      some ((s.asking k).deliver { kind := k, home := s.ev.n0, die := s.ev.n1, line := s.ev.n2 }) :=
    message_sent (m := { kind := k, home := s.ev.n0, die := s.ev.n1, line := s.ev.n2 }) (u := s.asking k) hnext rfl rfl rfl rfl
  have hdeliver : (s.asking k).deliver { kind := k, home := s.ev.n0, die := s.ev.n1, line := s.ev.n2 } =
      (s.asking k).homeRequest s.ev.n0 s.ev.n1 s.ev.n2 k := by
    obtain rfl | rfl | rfl := hrequest <;> rfl
  unfold State.request
  rw [message_none hnext]
  dsimp only
  rw [hrange, hhome, hasked, hmay, if_pos (by simp)]
  unfold State.howAsked at hsent
  rw [hsent, hdeliver]
  rfl

theorem mayFill_of {x : Option L2Line} (h : ∀ l, x = some l → l.st = .nc) : mayFill x = true := by
  cases x with
  | none => rfl
  | some l => simp [mayFill, h l rfl]

/-- The WriteBack that a die sends when it evicts a line. -/
def State.evicted (s : State) (l : L2Line) : Msg :=
  { kind := .writeBack, home := s.ev.n0, die := s.ev.n1, line := s.ev.n2, data := if l.st = .m then some l.bytes else none }

theorem writeBack_sends {l : L2Line} (hnext : s.nextMsg .writeBack = none) (hrange : msgRange s.ev = true)
    (hline : s.l2Find s.ev.n1 s.ev.n2 = some l) (hhome : l.home = s.ev.n0) (hst : l.st ≠ .nc)
    (hasked : Tab.find s.ev.n2 (s.die s.ev.n1).asked = none) :
    exec .writeBack s = .next ((s.l2Del s.ev.n1 s.ev.n2).homeWriteBack s.ev.n0 s.ev.n1 s.ev.n2 (if l.st = .m then some l.bytes else none)) := by
  have hsent := message_sent (u := s.l2Del s.ev.n1 s.ev.n2) (m := s.evicted l) hnext rfl rfl rfl rfl
  refine event_next (f := onWriteBack) ?_
  unfold onWriteBack
  rw [message_none hnext]
  dsimp only
  rw [hline]
  dsimp only
  rw [hrange, hhome, hasked, if_neg (by simp [hst])]
  exact congrArg (fun o : Option State => some (o.getD _)) hsent

/-! What a message does where it arrives. -/

theorem deliver_request {m : Msg} (hkind : m.kind = .readShared ∨ m.kind = .readOwn ∨ m.kind = .upgrade)
    (hdir : s.dirFind m.home m.line = none) (hroom : (s.dirLines m.home m.line).length < 16) :
    { kind := .grant, home := m.home, die := m.die, line := m.line, data := some (s.memLine m.line), st := .e } ∈ (s.deliver m).msgs := by
  have hdeliver : s.deliver m = s.homeRequest m.home m.die m.line m.kind := by
    obtain h | h | h := hkind <;> simp [State.deliver, h]
  have hdirRoom : s.dirRoom m.home m.line = some s := if_pos hroom
  rw [hdeliver]
  unfold State.homeRequest
  rw [hdir]
  dsimp only
  rw [hdirRoom]
  exact List.mem_append_right _ (List.mem_singleton.mpr rfl)

theorem l2Find_l2Put (s : State) (die line : Nat) (x : L2Line) : (s.l2Put die line x).l2Find die line = some x := by
  unfold State.l2Put State.l2Find
  rw [State.updDie_eq, State.die_setDie]
  exact Tab.find_put_same ..

theorem l2Find_l2Del (s : State) (die line : Nat) : (s.l2Del die line).l2Find die line = none := by
  unfold State.l2Del State.l2Find
  rw [State.updDie_eq, State.die_setDie]
  exact Tab.find_del_same ..

theorem l2Find_l2Fill (s : State) (die line : Nat) (at_ : Attr) (st : Coh) (b : List Byte) :
    ∃ l, (s.l2Fill die line at_ st b).l2Find die line = some l ∧ l.st = st ∧ l.bytes = b := by
  unfold State.l2Fill
  dsimp only
  split
  · exact ⟨_, l2Find_l2Put .., rfl, rfl⟩
  · exact ⟨_, l2Find_l2Put .., rfl, rfl⟩

theorem deliver_grant {m : Msg} {b : List Byte} (hkind : m.kind = .grant) (hdata : m.data = some b) :
    ∃ l, (s.deliver m).l2Find m.die m.line = some l ∧ l.st = m.st ∧ l.bytes = b := by
  have hdeliver : s.deliver m = s.dieGrant m := by simp only [State.deliver, hkind]
  rw [hdeliver]
  unfold State.dieGrant
  dsimp only
  rw [hdata]
  exact l2Find_l2Fill ..

theorem deliver_takes {m : Msg} {l : L2Line} (hline : s.l2Find m.die m.line = some l)
    (htakes : m.kind = .recallI ∧ (l.st = .m ∨ l.st = .e) ∨ m.kind = .invalidate ∧ l.st = .s) :
    (s.deliver m).l2Find m.die m.line = none := by
  obtain ⟨hkind, hst | hst⟩ | ⟨hkind, hst⟩ := htakes
  all_goals
    simp only [State.deliver, State.dieAnswer, hkind, hline, hst]
    exact l2Find_l2Del ..

theorem deliver_shares {m : Msg} {l : L2Line} (hline : s.l2Find m.die m.line = some l) (hkind : m.kind = .recallS)
    (hst : l.st = .m ∨ l.st = .e) : (s.deliver m).l2Find m.die m.line = some { l with st := .s } := by
  obtain hst | hst := hst
  all_goals
    simp only [State.deliver, State.dieAnswer, hkind, hline, hst]
    exact l2Find_l2Put ..

/-! Memory and messages after the home has done its part. -/

theorem setMemLine_mem (s : State) (line : Nat) (b : List Byte) : (s.setMemLine line b).mem = wrBytes s.mem (64 * line) b := by
  unfold State.setMemLine State.countWrite
  split <;> rfl

theorem setMemLine_dies (s : State) (line : Nat) (b : List Byte) : (s.setMemLine line b).dies = s.dies := by
  unfold State.setMemLine State.countWrite
  split <;> rfl

/-- A state reached with memory as it was and what is in flight still in flight. -/
structure Sends (s t : State) : Prop where
  mem : t.mem = s.mem
  msgs : ∀ g ∈ s.msgs, g ∈ t.msgs

theorem Sends.refl (s : State) : Sends s s := ⟨rfl, fun _ h => h⟩

theorem Sends.trans {t u : State} (h : Sends s t) (h' : Sends t u) : Sends s u := ⟨h'.mem.trans h.mem, fun g hg => h'.msgs g (h.msgs g hg)⟩

theorem Sends.send (s : State) (m : Msg) : Sends s (s.send m) := ⟨rfl, fun _ h => List.mem_append_left _ h⟩

theorem Sends.foldl {α : Type} {f : State → α → State} (hf : ∀ u x, Sends u (f u x)) (xs : List α) (s : State) : Sends s (xs.foldl f s) := by
  induction xs generalizing s with
  | nil => exact .refl s
  | cons x xs ih => exact (hf s x).trans (ih _)

theorem Sends.ite {c : Prop} [Decidable c] {t u : State} (ht : Sends s t) (hu : Sends s u) : Sends s (if c then t else u) := by
  split
  · exact ht
  · exact hu

/-- The Grant that ends a transaction. -/
theorem finishTxn_grants (s : State) (home line : Nat) (x : DirEntry) (t : Txn) : Sends s (s.finishTxn home line x t) ∧
    ∃ g ∈ (s.finishTxn home line x t).msgs, g.kind = .grant ∧ g.home = home ∧ g.die = t.die ∧ g.line = line := by
  unfold State.finishTxn
  dsimp only
  split
  all_goals exact ⟨⟨rfl, fun _ h => List.mem_append_left _ h⟩, ⟨_, List.mem_append_right _ (List.mem_singleton.mpr rfl), rfl, rfl, rfl, rfl⟩⟩

theorem dirPut_sends (s : State) (home line : Nat) (x : DirEntry) : Sends s (s.dirPut home line x) := ⟨rfl, fun _ h => h⟩

theorem dirDel_sends (s : State) (home line : Nat) : Sends s (s.dirDel home line) := ⟨rfl, fun _ h => h⟩

theorem beginTxn_sends (s : State) (home line : Nat) (x : DirEntry) (die : Nat) (k : MsgKind) : Sends s (s.beginTxn home line x die k) := by
  have hfresh : Sends s { s with fresh := s.fresh + 1 } := ⟨rfl, fun _ h => h⟩
  refine hfresh.trans ?_
  unfold State.beginTxn
  dsimp only
  refine Sends.ite (finishTxn_grants ..).1 ((dirPut_sends ..).trans (Sends.foldl (fun v d => ?_) _ _))
  exact Sends.send ..

theorem nextRequests_sends (home line n : Nat) (s : State) : Sends s (State.nextRequests home line n s) := by
  induction n generalizing s with
  | zero => exact .refl s
  | succ n ih =>
    rw [State.nextRequests]
    split
    · split
      · exact (beginTxn_sends ..).trans (ih _)
      · exact .refl s
    · exact .refl s

theorem homeAnswer_mem (s : State) (home die line : Nat) (b : List Byte) :
    (s.homeAnswer home die line (some b)).mem = wrBytes s.mem (64 * line) b := by
  unfold State.homeAnswer
  dsimp only
  split
  · exact setMemLine_mem ..
  · split
    · exact setMemLine_mem ..
    · split
      · exact ((nextRequests_sends ..).mem.trans (finishTxn_grants ..).1.mem).trans (setMemLine_mem ..)
      · exact setMemLine_mem ..

theorem homeWriteBack_mem (s : State) (home die line : Nat) (b : List Byte) :
    (s.homeWriteBack home die line (some b)).mem = wrBytes s.mem (64 * line) b := by
  unfold State.homeWriteBack
  dsimp only
  split
  · exact setMemLine_mem ..
  · exact (Sends.ite (dirDel_sends ..) (dirPut_sends ..)).mem.trans (setMemLine_mem ..)

theorem deliver_data {m : Msg} {b : List Byte} (hkind : m.kind = .writeBack ∨ m.kind = .recallReply ∨ m.kind = .invAck) (hdata : m.data = some b) :
    (s.deliver m).mem = wrBytes s.mem (64 * m.line) b ∧ (s.deliver m).streams = s.streams := by
  refine ⟨?_, ((CacheStep.refl s).deliver m).streams⟩
  unfold State.deliver
  obtain hkind | hkind | hkind := hkind
  · rw [hkind, hdata]
    exact homeWriteBack_mem ..
  · rw [hkind, hdata]
    exact homeAnswer_mem ..
  · rw [hkind, hdata]
    exact homeAnswer_mem ..

theorem dirFind_of_dies {s t : State} (h : t.dies = s.dies) (home line : Nat) : t.dirFind home line = s.dirFind home line :=
  congrArg (fun d : Tab Die => Tab.find line (Tab.get ({} : Die) d home).dir) h

/-- The last answer of a transaction ends it. -/
theorem homeAnswer_last {home die line : Nat} (data : Option (List Byte)) {entry : DirEntry} {txn : Txn}
    (hdir : s.dirFind home line = some entry) (htxn : entry.txn = some txn) (hdue : txn.due = [die]) :
    ∃ u : State, s.homeAnswer home die line data = (u.finishTxn home line entry { txn with due := [] }).nextRequest home line := by
  have hnone : txn.due.filter (· != die) = [] := by simp [hdue]
  cases data with
  | none =>
    refine ⟨s, ?_⟩
    unfold State.homeAnswer
    dsimp only
    rw [hdir]
    dsimp only
    rw [htxn]
    dsimp only
    rw [hnone, if_pos rfl]
  | some b =>
    refine ⟨s.setMemLine line b, ?_⟩
    unfold State.homeAnswer
    dsimp only
    rw [dirFind_of_dies (setMemLine_dies s line b), hdir]
    dsimp only
    rw [htxn]
    dsimp only
    rw [hnone, if_pos rfl]

theorem deliver_last {m : Msg} {entry : DirEntry} {txn : Txn} (hkind : m.kind = .recallReply ∨ m.kind = .invAck)
    (hdir : s.dirFind m.home m.line = some entry) (htxn : entry.txn = some txn) (hdue : txn.due = [m.die]) :
    ∃ g ∈ (s.deliver m).msgs, g.kind = .grant ∧ g.home = m.home ∧ g.die = txn.die ∧ g.line = m.line := by
  have hdeliver : s.deliver m = s.homeAnswer m.home m.die m.line m.data := by
    obtain h | h := hkind <;> simp [State.deliver, h]
  obtain ⟨u, hlast⟩ := homeAnswer_last m.data hdir htxn hdue
  obtain ⟨-, g, hg, hgrant⟩ := finishTxn_grants u m.home m.line entry { txn with due := [] }
  rw [hdeliver, hlast]
  exact ⟨g, (nextRequests_sends ..).msgs g hg, hgrant⟩

theorem pageWalk_walks (hcore : s.ev.n0 < 256)
    (hmiss : tlbHit ((s.core s.ev.n0).tlb.filter (s.serves s.ev.n2)) (s.ownerOf (clusterOf s.ev.n0)) (s.ev.n1 % 2 ^ 56) = none) :
    exec .pageWalk s = .next (s.translate s.ev.n0 (s.ownerOf (clusterOf s.ev.n0)) s.ev.n2 (s.ev.n1 % 2 ^ 56)).2 := by
  refine event_next (f := onPageWalk) ?_
  unfold onPageWalk
  dsimp only
  rw [hmiss]
  exact if_neg (by simp; omega)

end

/-- Settles O57: a message in flight is delivered as `message_delivers` says, a new one as `message_sent` does, and each kind does at
its die, in the directory and in memory what the lemmas on `deliver` say. -/
theorem coherenceEventsHappen : Obligations.CoherenceEventsHappen := by
  unfold Obligations.CoherenceEventsHappen
  intro s e next delivers requests
  have hask {k : MsgKind} (h : next k = none) : s.nextMsg k = none := h
  have hrequests {i : Instr} {k : MsgKind} {may : Prop} {f : Option L2Line → Bool} (hexec : exec i s = event s fun e s => s.request k f e)
      (hrequest : k = .readShared ∨ k = .readOwn ∨ k = .upgrade) (hmay : may → f (s.l2Find s.ev.n1 s.ev.n2) = true) : requests i k may :=
    fun hnext hrange hhome hasked hm => hexec.trans (event_next (request_sends hrequest hnext hrange hhome hasked (hmay hm)))
  have hdelivers {i : Instr} {k : MsgKind} {f : Ev → State → Option State} (hexec : exec i s = event s f)
      (hf : ∀ t, s.message k s.ev = some t → f s.ev s = some t) : delivers i k :=
    fun m rest hnext hkind hline => hexec.trans (event_next (hf _ (message_delivers hnext hkind hline)))
  have hmessage {k : MsgKind} {f : Option L2Line → Bool} (t : State) (h : s.message k s.ev = some t) : s.request k f s.ev = some t := by
    unfold State.request
    rw [h]
  refine ⟨hdelivers rfl hmessage, hdelivers rfl hmessage, hdelivers rfl hmessage, hdelivers (f := onWriteBack) rfl fun t h => ?_,
    hdelivers rfl fun _ h => h, hdelivers rfl fun _ h => h, hdelivers rfl fun _ h => h, hdelivers rfl fun _ h => h,
    hdelivers rfl fun _ h => h, hdelivers rfl fun _ h => h, hrequests rfl (.inl rfl) mayFill_of, hrequests rfl (.inr (.inl rfl)) mayFill_of,
    hrequests rfl (.inr (.inr rfl)) ?_, fun l hnext hrange hline hhome hst hasked => writeBack_sends (hask hnext) hrange hline hhome hst hasked,
    fun m => ⟨deliver_request, fun b => deliver_grant, fun l hline => ⟨deliver_takes hline, deliver_shares hline⟩, fun b => deliver_data,
      fun entry txn => deliver_last⟩, pageWalk_walks⟩
  · unfold onWriteBack
    rw [h]
  · rintro ⟨l, hline, hst⟩
    rw [hline]
    simp [hst]

end Sys2Proof.Machine
end

section
/-! What the events of the fabric and of the host's link do (04 R115, 16 R398, 19 R442 to R451). -/

namespace Sys2Proof.Machine

section
variable {s : State}

/-! Release messages and their acknowledgements (04 R115, 19 R450). -/

theorem releaseMessage_arrives (hkind : bits s.ev.n0 57 56 = 1) (hzero : s.ev.n1 = 0) : exec .releaseMessage s =
    .next { ({ s with ing := 0 }.noteHost s.ing) with
      fabricAck := some (bits s.ev.n0 63 58, releaseWord (bits s.fabid.toNat 5 0) 2 (bits s.ev.n0 31 0), 0) } := by
  refine event_next (f := onReleaseMessage) ?_
  unfold onReleaseMessage
  exact if_neg (by simp [hkind, hzero])

theorem releaseAck_acknowledges {x : Nat × Nat × Nat} (hx : x ∈ s.releases) (hkind : bits s.ev.n0 57 56 = 2) (hzero : s.ev.n1 = 0)
    (hpkg : x.1 = bits s.ev.n0 63 58) (hseq : x.2.1 % 2 ^ 32 = bits s.ev.n0 31 0) :
    exec .releaseAck s = .next { s with releases := s.releases.filter fun y => !acknowledges s.ev.n0 y } := by
  have hany : s.releases.any (acknowledges s.ev.n0) = true :=
    List.any_eq_true.mpr ⟨x, hx, by unfold acknowledges; rw [hkind, hpkg, hseq]; simp⟩
  refine event_next (f := onReleaseAck) ?_
  unfold onReleaseAck
  exact if_pos ⟨hzero, hany⟩

/-! Accesses of other packages (19 R449). -/

theorem remoteWrite_arrives (hpkg : s.ev.n0 < 64) (hkind : s.ev.n1 = 1) (hbytes : s.ev.bytes ≠ [])
    (hmem : s.ev.n2 + s.ev.bytes.length ≤ s.populated) (hfinal : s.ev.nums = []) :
    let bytes := (List.range s.ev.bytes.length).map (s.ev.n2 + ·)
    let v := s.physWrite (bytes.zip s.ev.bytes)
    exec .remoteAccessArrival s = .next { v with ing := v.ing ||| sigOf bytes } := by
  have hlen : s.ev.bytes.length ≠ 0 := fun h => hbytes (List.length_eq_zero_iff.mp h)
  refine event_next (f := onRemoteAccessArrival) ?_
  unfold onRemoteAccessArrival
  dsimp only
  rw [hkind, if_neg (show ¬(1 = 0) by omega), if_pos rfl, if_neg (by omega), hfinal]
  rfl

/-- What another package's read takes from here may leave. -/
def State.mayLeave (v : State) (as : List Nat) : Bool := !((v.egressAll as).contains .blocked) && !(as.any fun a => (v.blockMark a 1).isSome)

theorem answerFabric_answers (v : State) (pkg : Nat) (as : List Nat) (bs : List Byte) : (v.answerFabric pkg as bs).mem = v.mem ∧
    (v.answerFabric pkg as bs).fabricRead = (if v.mayLeave as = true then bs else []) ∧
    (v.answerFabric pkg as bs).fabricTag = if v.mayLeave as = true then v.egressTags as else [] := by
  unfold State.answerFabric
  by_cases h : (v.egressAll as).contains .blocked = true ∨ (as.any fun a => (v.blockMark a 1).isSome) = true
  · have hstays : ¬v.mayLeave as = true := by
      unfold State.mayLeave
      obtain h | h := h <;> rw [h] <;> simp
    rw [if_pos h, if_neg hstays, if_neg hstays]
    exact ⟨rfl, rfl, rfl⟩
  · have hleaves : v.mayLeave as = true := by
      unfold State.mayLeave
      simpa using h
    rw [if_neg h, if_pos hleaves, if_pos hleaves]
    exact ⟨rfl, rfl, rfl⟩

theorem remoteRead_arrives (hpkg : s.ev.n0 < 64) (hkind : s.ev.n1 = 0) (hlen : s.ev.n3 ≠ 0) (hmem : s.ev.n2 + s.ev.n3 ≤ s.populated)
    (hwaits : s.finalWaits s.noticeHeld ((List.range s.ev.n3).map (s.ev.n2 + ·)) = false) : exec .remoteAccessArrival s =
      .next ((s.physRead s.ev.n2 s.ev.n3).2.answerFabric s.ev.n0 ((List.range s.ev.n3).map (s.ev.n2 + ·)) (s.physRead s.ev.n2 s.ev.n3).1) := by
  refine event_next (f := onRemoteAccessArrival) ?_
  unfold onRemoteAccessArrival
  dsimp only
  rw [hkind, if_pos rfl, if_neg (by omega), if_neg (by omega), hwaits, if_neg (by simp), if_pos (.inl rfl)]

section
variable {q : Remote} (hq : s.remotes.find? (fun q => q.id == s.ev.n0) = some q)
include hq

theorem remoteResponse_arrives (htime : s.now < q.deadline) (hfinal : s.ev.nums = []) :
    exec .remoteResponse s = .next ((s.closeRemote q).takeRemote q s.ev.bytes (s.ev.n1 == 1)) := by
  refine event_next (f := onRemoteResponse) ?_
  unfold onRemoteResponse
  rw [hq]
  dsimp only
  rw [if_neg (by omega), hfinal]
  cases s.remoteNode q <;> rfl

theorem remoteResponse_late (htime : q.deadline ≤ s.now) : exec .remoteResponse s = .next (s.giveUp q) := by
  refine event_next (f := onRemoteResponse) ?_
  unfold onRemoteResponse
  rw [hq]
  exact if_pos htime

theorem remoteAccessTimeout_ends (hover : q.deadline ≤ s.now ∨ Tab.get 0 s.routes q.pkg = 0) :
    exec .remoteAccessTimeout s = .next (s.giveUp q) := by
  refine event_next (f := onRemoteAccessTimeout) ?_
  unfold onRemoteAccessTimeout
  rw [hq]
  exact if_neg fun h => hover.elim (Nat.not_le.mpr h.1) h.2

end

/-! Notices (19 R451). -/

theorem noticeArrival_released (h : bits s.ev.n1 31 28 = 2) : exec .noticeArrival s =
    .next (s.endForeign (bits s.ev.n0 63 58) (bits s.ev.n0 51 22) (bits s.ev.n1 63 32) false) := by
  refine event_next (f := onNoticeArrival) ?_
  unfold onNoticeArrival
  exact if_pos h

theorem noticeArrival_void (h : bits s.ev.n1 31 28 = 3) : exec .noticeArrival s =
    .next (s.voidForeign (bits s.ev.n0 63 58) (bits s.ev.n0 51 22) (bits s.ev.n1 63 32)) := by
  refine event_next (f := onNoticeArrival) ?_
  unfold onNoticeArrival
  exact (if_neg (by omega)).trans (if_pos h)

theorem provisionalTimeout_voids
    (h : (s.foreign.any fun f => f.1 == s.ev.n0 && f.2.1 == s.ev.n1 && f.2.2.1 == s.ev.n2 && decide (f.2.2.2 ≤ s.now)) = true) :
    exec .provisionalTimeout s = .next (s.voidForeign s.ev.n0 s.ev.n1 s.ev.n2) := by
  refine event_next (f := onProvisionalTimeout) ?_
  unfold onProvisionalTimeout
  exact if_pos h

/-! The host (19 R444 to R446). -/

/-- A fold that reads one byte. -/
theorem foldl_one {F : List Byte × State → Nat → List Byte × State} {s t : State} {b : Byte}
    (h : ∀ acc, acc.2 = s → F acc 0 = (acc.1 ++ [b], t)) : (List.range 1).foldl F ([], s) = ([b], t) := h ([], s) rfl

section
variable (hready : s.ready = true) (hlink : s.linkUp = true)
include hready hlink

theorem hostWrite_writes :
    let ws := ((List.range s.ev.bytes.length).map fun i => (s.aperture (s.ev.n0 + i), s.ev.bytes.getD i 0)).filter fun w =>
      decide (w.1 < s.populated) && !s.protectedFrame w.1
    ws ≠ [] → exec .hostWrite s = .next { (s.noteHost (sigOf (ws.map Prod.fst))).physWrite ws with linkReplays := 0 } := by
  intro ws hws
  refine event_next (f := onHostWrite) ?_
  unfold onHostWrite
  rw [hready, hlink]
  exact (if_neg (by simp)).trans (if_neg hws)

theorem hostRead_reads {a : Nat} (ha : s.aperture s.ev.n0 = a) {as : List Nat}
    (has : [a].filter (fun a => decide (a < s.populated) && !s.protectedFrame a) = as) (hone : s.ev.n1 = 1)
    (hwaits : s.finalWaits s.noticeQueued as = false) : exec .hostRead s =
      .next { (s.hostByte a).2 with hostRead := [(s.hostByte a).1], hostTag := s.egressTags as, linkReplays := 0 } := by
  obtain ⟨⟨b, t⟩, hbyte⟩ : ∃ p, s.hostByte a = p := ⟨_, rfl⟩
  have hwaits' : s.finalWaits s.noticeQueued (((List.range s.ev.n1).map fun i => s.aperture (s.ev.n0 + i)).filter fun a =>
      decide (a < s.populated) && !s.protectedFrame a) = false := by
    rw [hone, List.range_one, List.map_singleton, Nat.add_zero, ha, has, hwaits]
  refine event_next (f := onHostRead) ?_
  unfold onHostRead
  refine (if_neg (by rw [hready, hlink, hwaits', hone]; simp)).trans ?_
  rw [hbyte, hone, foldl_one (b := b) (t := t) ?read, List.range_one, List.map_singleton, Nat.add_zero, ha, has]
  case read =>
    intro acc hacc
    rw [hacc, Nat.add_zero, ha, hbyte]

end

theorem hostByte_protected {a : Nat} (h : s.protectedFrame a = true) : (s.hostByte a).1 = 255 := by
  unfold State.hostByte
  rw [if_pos (.inr (.inl h))]
  rfl

/-- The ring after its oldest waiting entry has gone to host memory. -/
def Ring.advance (r : Ring) (rest : List (DWord × DWord)) : Ring :=
  { r with tail := r.tail + 1, wait := rest, irqs := r.irqs + (bitOf r.cfg.toNat 30).toNat }

/-- A partition with another ring at an index. -/
def Part.putRing (p : Part) (k : Nat) (r : Ring) : Part :=
  let put (i : Nat) : Ring := if i = k then r else p.rings.getD i {}
  { p with rings := [put 0, put 1, put 2] }

theorem putRing_same (p : Part) {k : Nat} (hk : k < 3) (r : Ring) : (p.putRing k r).rings.getD k {} = r := by
  have hcases : k = 0 ∨ k = 1 ∨ k = 2 := by omega
  obtain rfl | rfl | rfl := hcases <;> rfl

theorem ringEntryWrite_writes {w0 w1 : DWord} {rest : List (DWord × DWord)} {ring : Ring} (hring : (s.part s.ev.n0).rings.getD s.ev.n1 {} = ring)
    (hwait : ring.wait = (w0, w1) :: rest) (hthree : s.ev.n1 < 3) (hlink : s.linkUp = true) (hon : bitOf ring.cfg.toNat 31 = true)
    (hlow : 6 ≤ bits ring.cfg.toNat 4 0) (hhigh : bits ring.cfg.toNat 4 0 ≤ 16)
    (hroom : (ring.tail - ring.head).toNat < 2 ^ bits ring.cfg.toNat 4 0) (hheld : (s.part s.ev.n0).heldPosts = []) :
    ∃ t, exec .ringEntryWrite s = .next t ∧ ((t.part s.ev.n0).rings.getD s.ev.n1 {}).tail = ring.tail + 1 ∧
      ((t.part s.ev.n0).rings.getD s.ev.n1 {}).wait = rest ∧ t.mem = s.mem ∧
      t.hostMem = wrBytes s.hostMem
        (ring.lo.toNat + bits ring.hi.toNat 13 0 * 2 ^ 32 + 16 * (ring.tail.toNat % 2 ^ bits ring.cfg.toNat 4 0))
        (leBytes 8 w0.toNat ++ leBytes 8 w1.toNat) := by
  obtain ⟨u, hu⟩ : ∃ u : State, u = { s.setPart s.ev.n0 ((s.part s.ev.n0).putRing s.ev.n1 (ring.advance rest)) with
    hostMem := wrBytes s.hostMem
      (ring.lo.toNat + bits ring.hi.toNat 13 0 * 2 ^ 32 + 16 * (ring.tail.toNat % 2 ^ bits ring.cfg.toNat 4 0))
      (leBytes 8 w0.toNat ++ leBytes 8 w1.toNat), linkReplays := 0 } := ⟨_, rfl⟩
  have hpart : u.part s.ev.n0 = (s.part s.ev.n0).putRing s.ev.n1 (ring.advance rest) := by
    rw [hu]
    exact State.part_setPart ..
  have hadmit : u.admitPosts s.ev.n0 = u.updPart s.ev.n0 fun p => { p with heldPosts := [] } := by
    unfold State.admitPosts
    rw [hpart, show ((s.part s.ev.n0).putRing s.ev.n1 (ring.advance rest)).heldPosts = [] from hheld]
    rfl
  have hnew : ((u.admitPosts s.ev.n0).part s.ev.n0).rings.getD s.ev.n1 {} = ring.advance rest := by
    rw [hadmit, State.updPart_eq, State.part_setPart, hpart]
    exact putRing_same _ hthree _
  refine ⟨u.admitPosts s.ev.n0, event_next (f := onRingEntryWrite) ?_, congrArg Ring.tail hnew, congrArg Ring.wait hnew, ?_, ?_⟩
  · unfold onRingEntryWrite
    dsimp only
    rw [hring, hwait]
    dsimp only
    rw [if_neg (by rw [hlink, hon]; simpa using ⟨hthree, hlow, hhigh, hroom⟩), hu]
    rfl
  · rw [hadmit, hu]
    rfl
  · rw [hadmit, hu]
    rfl

/-! The link and the ports (19 R442, R446). -/

theorem flitReplay_eighth (hlink : s.linkUp = true) (h : s.linkReplays + 1 = 8) :
    exec .flitReplay s = .next { s with linkReplays := 0, retraining := true } := by
  refine event_next (f := onFlitReplay) ?_
  unfold onFlitReplay
  rw [hlink]
  exact (if_neg (by simp)).trans (if_pos h)

theorem flitReplay_counts (hlink : s.linkUp = true) (h : s.linkReplays + 1 ≠ 8) :
    exec .flitReplay s = .next { s with linkReplays := s.linkReplays + 1 } := by
  refine event_next (f := onFlitReplay) ?_
  unfold onFlitReplay
  rw [hlink]
  exact (if_neg (by simp)).trans (if_neg h)

theorem exec_linkRetrainDone (hretrain : s.retraining = true) : exec .linkRetrainDone s = .next
    (if s.ev.n0 = 1 then { s with retraining := false }
    else
      let fails := (s.linkFails.filter fun t => decide (s.now < t + 1000000000)) ++ [s.now]
      if 3 ≤ fails.length then { s with linkFails := fails, retraining := false, linkDown := true } else { s with linkFails := fails }) := by
  refine event_next (f := onLinkRetrainDone) ?_
  unfold onLinkRetrainDone
  rw [hretrain]
  refine (if_neg (by simp)).trans ?_
  dsimp only
  split
  · rfl
  · split <;> rfl

theorem fabricPortDown_posts (hpart : s.ev.n0 < 16) (hport : s.ev.n1 < 64) :
    ∃ t, exec .fabricPortDown s = .next t ∧ t.portsDown.contains s.ev.n1 = true ∧ t.mem = s.mem ∧
      ((t.part s.ev.n0).rings.getD 2 {}).wait =
        ((s.part s.ev.n0).rings.getD 2 {}).wait ++ [(s.timestamp, w64 (3 * 2 ^ 56 + s.ev.n1))] := by
  obtain ⟨u, hu⟩ : ∃ u : State, u = { s with
    portsDown := if s.portsDown.contains s.ev.n1 then s.portsDown else s.portsDown ++ [s.ev.n1] } := ⟨_, rfl⟩
  refine ⟨u.postEvent s.ev.n0 3 s.ev.n1, event_next (f := onFabricPortDown) ?_, ?_, ?_, ?_⟩
  · unfold onFabricPortDown
    rw [hu]
    exact if_neg (by omega)
  · rw [hu]
    show (if s.portsDown.contains s.ev.n1 then s.portsDown else s.portsDown ++ [s.ev.n1]).contains s.ev.n1 = true
    split
    · assumption
    · simp
  · rw [hu]
    rfl
  · have hlow : s.ev.n1 % 2 ^ 56 = s.ev.n1 := Nat.mod_eq_of_lt (by omega)
    unfold State.postEvent State.postRing
    rw [State.updPart_eq, State.part_setPart, hlow, hu]
    rfl

end

end Sys2Proof.Machine
end

section
/-! What the host's writes to registers and a reset of the package do, and the statement on the events of the fabric and the host
(18 R421 to R438, 19 R443 to R454). -/

namespace Sys2Proof.Machine

section
variable {s : State}

/-! Writes to the register window (18 R421). -/

theorem writeReg_closed (h : s.noFirmware = true) (who : Agent) (off : Nat) (v : Word) : s.writeReg who off v = s := by
  unfold State.writeReg
  dsimp only
  rw [if_pos h]

section
variable (hfirm : s.noFirmware = false)
include hfirm

theorem writeReg_post {k : Nat} (hk : k < 16) (v : Word) : s.writeReg .host (0x1000 * k + 12) v = s.submitPost k v := by
  have hdiv : (0x1000 * k + 12) / 0x1000 = k := by omega
  have hmod : (0x1000 * k + 12) % 0x1000 = 12 := by omega
  unfold State.writeReg
  dsimp only
  rw [hfirm, if_neg Bool.false_ne_true, if_pos (by omega), hdiv, hmod]
  rfl

theorem writeReg_fabid (v : Word) : s.writeReg .host 0x20018 v = s.writeFabid v := by
  unfold State.writeReg
  dsimp only
  rw [hfirm, if_neg Bool.false_ne_true]
  rfl

theorem writeReg_pshed {k : Nat} (hk : k < 16) (v : Word) : s.writeReg .host (0x11080 + 4 * k) v = s.writePshed k v := by
  have hoff : 0x11080 + 4 * k - 0x10000 = 0x1080 + 4 * k := by omega
  have hdiv : (0x1080 + 4 * k - 0x1080) / 4 = k := by omega
  unfold State.writeReg
  dsimp only
  rw [hfirm, if_neg Bool.false_ne_true, if_neg (by omega), if_pos (by omega), hoff, if_neg (by omega), if_neg (by decide), if_neg (by omega),
    if_neg (by omega), if_neg (by omega), if_pos (by omega), hdiv]

section
variable {c : Nat} (hc : c < 64) (hon : s.isRetired c = false)
include hc hon

theorem writeReg_islctl (v : Word) : s.writeReg .host (0x10000 + 0x40 * c) v = s.writeIslctl true c v := by
  have hoff : 0x10000 + 0x40 * c - 0x10000 = 0x40 * c := by omega
  have hdiv : 0x40 * c / 0x40 = c := by omega
  have hmod : 0x40 * c % 0x40 = 0 := by omega
  unfold State.writeReg
  dsimp only
  rw [hfirm, if_neg Bool.false_ne_true, if_neg (by omega), if_pos (by omega), hoff, if_pos (by omega), hdiv, hmod, hon, if_neg (by simp)]
  rfl

theorem writeReg_droopctl (v : Word) : s.writeReg .host (0x10000 + 0x40 * c + 4) v = s.updCluster c fun x => { x with
    droopctl := w32 (bits v.toNat 31 31 * 2 ^ 31 + bits v.toNat 23 12 * 2 ^ 12 + bits v.toNat 7 0) } := by
  have hoff : 0x10000 + 0x40 * c + 4 - 0x10000 = 0x40 * c + 4 := by omega
  have hdiv : (0x40 * c + 4) / 0x40 = c := by omega
  have hmod : (0x40 * c + 4) % 0x40 = 4 := by omega
  unfold State.writeReg
  dsimp only
  rw [hfirm, if_neg Bool.false_ne_true, if_neg (by omega), if_pos (by omega), hoff, if_pos (by omega), hdiv, hmod, hon, if_neg (by simp)]
  rfl

end

end

/-! Posts (14 R333, 19 R446). -/

theorem admitFrom_mem (k : Nat) (xs : List (DWord × Bool)) (s : State) : (State.admitFrom k xs s).mem = s.mem := by
  induction xs generalizing s with
  | nil => rfl
  | cons x xs ih =>
    have hite {c : Prop} [Decidable c] {t u : State} (ht : t.mem = s.mem) (hu : u.mem = s.mem) : (if c then t else u).mem = s.mem := by
      split
      · exact ht
      · exact hu
    rw [State.admitFrom]
    exact hite rfl (hite (ih _) (hite (ih _) (ih _)))

/-- A partition's post waits behind those that the adapter holds. -/
def State.holdPost (s : State) (k : Nat) (x : DWord × Bool) : State :=
  (s.setPart k { s.part k with post3 := 0 }).updPart k fun p => { p with heldPosts := p.heldPosts ++ [x] }

theorem holdPost_part (s : State) (k : Nat) (x : DWord × Bool) : (s.holdPost k x).part k =
    { s.part k with post3 := 0, heldPosts := (s.part k).heldPosts ++ [x] } := by
  unfold State.holdPost
  rw [State.updPart_eq, State.part_setPart, State.part_setPart]

theorem submitPost_holds (hready : s.ready = true) {k : Nat} {v : Word} (hpost2 : (s.part k).post2 = 0) (hv : v = 0) :
    s.submitPost k v = (s.holdPost k (w64 ((s.part k).post0.toNat + (s.part k).post1.toNat * 2 ^ 32), true)).admitPosts k := by
  have hgood : ((s.part k).post2 == 0 && v == 0) = true := by simp [hpost2, hv]
  unfold State.submitPost
  dsimp only
  rw [if_neg (by rw [show (s.setPart k { s.part k with post3 := 0 }).ready = s.ready from rfl, hready]; simp)]
  unfold State.holdPost
  rw [State.updPart_eq, State.updPart_eq, State.part_setPart]
  dsimp only
  rw [hgood]

/-- With no post held and a place free, the post goes to the queue. -/
theorem admitPosts_queues {u : State} {k : Nat} {rcb : DWord} (hheld : (u.part k).heldPosts = [(rcb, true)])
    (hreleased : (u.part k).released = true) (hfree : 0 < (u.part k).postFree) :
    ((u.admitPosts k).part k).posts = (u.part k).posts ++ [rcb] ∧ ((u.admitPosts k).part k).heldPosts = [] := by
  have hroom : ((u.part k).postFree == 0) = false := by
    rw [beq_eq_false_iff_ne]
    omega
  unfold State.admitPosts
  rw [hheld, State.admitFrom]
  dsimp only
  rw [hreleased, hroom]
  simp [State.admitFrom]

/-- With no place free, the posts that the adapter holds stay where the first of them is in order. -/
theorem admitPosts_stays {u : State} {k : Nat} {x : DWord} {rest : List (DWord × Bool)} (hheld : (u.part k).heldPosts = (x, true) :: rest)
    (hreleased : (u.part k).released = true) (hfull : (u.part k).postFree = 0) :
    ((u.admitPosts k).part k).posts = (u.part k).posts ∧ ((u.admitPosts k).part k).heldPosts = (x, true) :: rest := by
  unfold State.admitPosts
  rw [hheld, State.admitFrom]
  dsimp only
  rw [hreleased, hfull]
  simp

theorem postSubmit_posts (hpart : s.ev.n0 < 16) (hlink : s.linkUp = true) (hready : s.ready = true) (hfirm : s.noFirmware = false)
    (hreleased : (s.part s.ev.n0).released = true) (hpost2 : (s.part s.ev.n0).post2 = 0) (hzero : w32 s.ev.n1 = 0) :
    let rcb := w64 ((s.part s.ev.n0).post0.toNat + (s.part s.ev.n0).post1.toNat * 2 ^ 32)
    ∃ t, exec .postSubmit s = .next t ∧ t.mem = s.mem ∧
      ((s.part s.ev.n0).heldPosts = [] → 0 < (s.part s.ev.n0).postFree →
        (t.part s.ev.n0).posts = (s.part s.ev.n0).posts ++ [rcb] ∧ (t.part s.ev.n0).heldPosts = []) ∧
      ((s.part s.ev.n0).postFree = 0 → (∀ y ∈ (s.part s.ev.n0).heldPosts, y.2 = true) →
        (t.part s.ev.n0).posts = (s.part s.ev.n0).posts ∧ (t.part s.ev.n0).heldPosts = (s.part s.ev.n0).heldPosts ++ [(rcb, true)]) := by
  intro rcb
  have hheld := holdPost_part s s.ev.n0 (rcb, true)
  refine ⟨(s.holdPost s.ev.n0 (rcb, true)).admitPosts s.ev.n0, event_next (f := onPostSubmit) ?_, admitFrom_mem ..,
    fun hnone hfree => ?_, fun hfull hgood => ?_⟩
  · unfold onPostSubmit
    rw [hlink, if_neg (by simp; omega), writeReg_post hfirm hpart, submitPost_holds hready hpost2 hzero]
  · have h := admitPosts_queues (u := s.holdPost s.ev.n0 (rcb, true)) (k := s.ev.n0) (rcb := rcb) (by rw [hheld, hnone]; rfl)
      (by rw [hheld]; exact hreleased) (by rw [hheld]; exact hfree)
    rwa [hheld] at h
  · cases hxs : (s.part s.ev.n0).heldPosts with
    | nil =>
      have h := admitPosts_stays (u := s.holdPost s.ev.n0 (rcb, true)) (k := s.ev.n0) (x := rcb) (rest := []) (by rw [hheld, hxs]; rfl)
        (by rw [hheld]; exact hreleased) (by rw [hheld]; exact hfull)
      rwa [hheld] at h
    | cons x xs =>
      have hx : x = (x.1, true) := Prod.ext rfl (hgood x (hxs ▸ List.mem_cons_self))
      have h := admitPosts_stays (u := s.holdPost s.ev.n0 (rcb, true)) (k := s.ev.n0) (x := x.1) (rest := xs ++ [(rcb, true)])
        (by rw [hheld, hxs, ← hx]; rfl) (by rw [hheld]; exact hreleased) (by rw [hheld]; exact hfull)
      rw [hheld, ← hx] at h
      exact h

/-! Reset and bring-up (19 R453, R454). -/

theorem bits_bringUp_step (units rate err : Nat) {step : Nat} (h : step < 16) : bits (bringUp units rate err step).toNat 3 0 = step := by
  unfold bringUp bits w32
  rw [BitVec.toNat_ofNat]
  split <;> omega

theorem bits_bringUp_error (units rate : Nat) {step : Nat} (h : step < 16) : bits (bringUp units rate 0 step).toNat 15 8 = 0 := by
  unfold bringUp bits w32
  rw [BitVec.toNat_ofNat]
  split <;> omega

theorem failedStep_le (err : Nat) : failedStep err ≤ 8 := by
  unfold failedStep
  split
  · omega
  · split
    · omega
    · split <;> omega

theorem failedStep_eq_ready {err : Nat} : failedStep err = 8 ↔ err = 0 := by
  unfold failedStep
  split
  · omega
  · split
    · omega
    · split <;> omega

/-- What the steps of bring-up leave as a reset gives it. -/
def State.resetPart (s : State) : List Host.Cell × Tab Nat × List Host.Cell × Tab Stream × Tab Gang × Tab Node × Tab Part :=
  (s.hostMem, s.lasting, s.mem, s.streams, s.gangs, s.nodes, s.parts)

theorem retireFailing_resetPart (s : State) (mask : Nat) : (s.retireFailing mask).resetPart = s.resetPart := by
  unfold State.retireFailing
  refine (foldl_proj State.resetPart (fun u i => ?_) _ _).trans rfl
  exact (congrArg State.resetPart (recordFault_rest u ..) :)

theorem endStep_resetPart (s : State) (e : Ev) (step : Nat) : (s.endStep e step).resetPart = s.resetPart := by
  have hite {c : Prop} [Decidable c] {t u : State} (ht : t.resetPart = s.resetPart) (hu : u.resetPart = s.resetPart) :
      (if c then t else u).resetPart = s.resetPart := by
    split
    · exact ht
    · exact hu
  exact hite rfl (hite rfl (hite (retireFailing_resetPart ..) rfl))

theorem broughtUp_resetPart (s : State) (e : Ev) (err step : Nat) : (s.broughtUp e err step).resetPart = s.resetKept.resetPart :=
  foldl_proj State.resetPart (fun u k => endStep_resetPart u e k) (List.range step) s.resetKept

theorem exec_packageReset (h : s.ev.n4 = 0) :
    exec .packageReset s = .next (s.broughtUp s.ev (bringUpError s.ev) (failedStep (bringUpError s.ev))) := by
  refine event_next (f := onPackageReset) ?_
  unfold onPackageReset
  dsimp only
  rw [if_neg (by omega), if_neg (by omega)]

theorem packageReset_resets (h : s.ev.n4 = 0) :
    ∃ t, exec .packageReset s = .next t ∧ t.hostMem = s.hostMem ∧ t.lasting = s.lasting ∧ t.mem = State.reset.mem ∧
      t.streams = State.reset.streams ∧ t.gangs = State.reset.gangs ∧ t.nodes = State.reset.nodes ∧ t.parts = State.reset.parts ∧
      t.ready = decide (bringUpError s.ev = 0) ∧ bits t.bustat.toNat 3 0 = failedStep (bringUpError s.ev) := by
  obtain ⟨t, ht⟩ : ∃ t, t = s.broughtUp s.ev (bringUpError s.ev) (failedStep (bringUpError s.ev)) := ⟨_, rfl⟩
  have hreset : t.resetPart = s.resetKept.resetPart := ht ▸ broughtUp_resetPart ..
  refine ⟨t, ht ▸ exec_packageReset h, congrArg (·.1) hreset, congrArg (·.2.1) hreset, congrArg (·.2.2.1) hreset, congrArg (·.2.2.2.1) hreset,
    congrArg (·.2.2.2.2.1) hreset, congrArg (·.2.2.2.2.2.1) hreset, congrArg (·.2.2.2.2.2.2) hreset, ?_, ?_⟩
  · have hready : t.ready = (failedStep (bringUpError s.ev) == 8) := ht ▸ rfl
    rw [hready, Bool.eq_iff_iff, beq_iff_eq, decide_eq_true_iff]
    exact failedStep_eq_ready
  · have hbustat : t.bustat = bringUp s.ev.n0 s.ev.n1 (bringUpError s.ev) (failedStep (bringUpError s.ev)) := ht ▸ rfl
    rw [hbustat]
    exact bits_bringUp_step _ _ _ (Nat.lt_of_le_of_lt (failedStep_le _) (by omega))

theorem packageReset_begins (hone : 1 ≤ s.ev.n4) (hseven : s.ev.n4 ≤ 7) (hstep : s.ev.n4 ≤ failedStep (bringUpError s.ev)) :
    ∃ t, exec .packageReset s = .next t ∧ t.ready = false ∧ t.bring = some s.ev ∧ bits t.bustat.toNat 3 0 = s.ev.n4 ∧
      bits t.bustat.toNat 15 8 = 0 := by
  obtain ⟨t, ht⟩ : ∃ t, t = s.broughtUp s.ev 0 s.ev.n4 := ⟨_, rfl⟩
  have hbustat : t.bustat = bringUp s.ev.n0 s.ev.n1 0 s.ev.n4 := ht ▸ rfl
  have hready : t.ready = (s.ev.n4 == 8) := ht ▸ rfl
  have hbring : t.bring = if 0 = 0 ∧ s.ev.n4 ≠ 8 then some s.ev else none := ht ▸ rfl
  refine ⟨t, event_next (f := onPackageReset) ?_, ?_, ?_, ?_, ?_⟩
  · unfold onPackageReset
    dsimp only
    rw [if_neg (by omega), if_pos ⟨hone, hseven, hstep⟩, ht]
  · rw [hready, beq_eq_false_iff_ne]
    omega
  · rw [hbring, if_pos ⟨rfl, by omega⟩]
  · rw [hbustat]
    exact bits_bringUp_step _ _ _ (by omega)
  · rw [hbustat]
    exact bits_bringUp_error _ _ (by omega)

theorem packageReset_none (h : s.ev.n4 = 8) (hbring : s.bring = none) : exec .packageReset s = .next s := by
  refine event_nothing (f := onPackageReset) ?_
  unfold onPackageReset
  dsimp only
  rw [if_pos h, hbring]
  rfl

theorem packageReset_next {b : Ev} (h : s.ev.n4 = 8) (hbring : s.bring = some b) : exec .packageReset s = .next (s.nextStep b) := by
  refine event_next (f := onPackageReset) ?_
  unfold onPackageReset
  dsimp only
  rw [if_pos h, hbring]
  rfl

theorem nextStep_fails {b : Ev} (hfail : bringUpError b ≠ 0 ∧ failedStep (bringUpError b) = bits s.bustat.toNat 3 0) : s.nextStep b =
    { s with bustat := bringUp b.n0 b.n1 (bringUpError b) (bits s.bustat.toNat 3 0), ready := bits s.bustat.toNat 3 0 == 8, bring := none } := by
  unfold State.nextStep State.showStep
  dsimp only
  rw [if_pos hfail, if_neg fun hnone => hfail.1 hnone.1]

theorem nextStep_goes {b : Ev} (hgoes : ¬(bringUpError b ≠ 0 ∧ failedStep (bringUpError b) = bits s.bustat.toNat 3 0)) : s.nextStep b =
    { s.endStep b (bits s.bustat.toNat 3 0) with
      bustat := bringUp b.n0 b.n1 0 (bits s.bustat.toNat 3 0 + 1), ready := bits s.bustat.toNat 3 0 + 1 == 8,
      bring := if bits s.bustat.toNat 3 0 + 1 ≠ 8 then some b else none } := by
  unfold State.nextStep State.showStep
  dsimp only
  rw [if_neg hgoes]
  simp only [true_and]

end

/-- Settles O58, event by event: what each does is its own definition in the case stated; posts and rings go by `admitPosts`, register
writes by the window's decoding, bring-up by its steps. -/
theorem fabricAndHostEventsHappen : Obligations.FabricAndHostEventsHappen := by
  unfold Obligations.FabricAndHostEventsHappen
  intro s e
  refine ⟨releaseMessage_arrives, fun x => releaseAck_acknowledges, remoteWrite_arrives, ?_,
    fun q hq => ⟨remoteResponse_arrives hq, remoteResponse_late hq, remoteAccessTimeout_ends hq, fun hkind => if_neg ?_, fun hkind hop => if_pos ?_⟩,
    ⟨noticeArrival_released, noticeArrival_void⟩, provisionalTimeout_voids, ?_, ?_, ?_, fun hlink => ⟨flitReplay_eighth hlink, flitReplay_counts hlink⟩,
    fun hretrain => ?_, fabricPortDown_posts, packageReset_resets, packageReset_begins,
    fun hstep => ⟨packageReset_none hstep, fun b hbring => ⟨fun herr hfail => ?_, fun hgoes => ?_⟩⟩, postSubmit_posts, fun hlink hfirm => ?_,
    fun c hhost hlink hfirm hoff hc hon => ?_, fun hcl hhost hlink hfirm hon => ?_, fun hpart hlink hfirm => ?_, fun hfirm hlink hpart => ⟨?_, ?_⟩⟩
  · intro as v hpkg hkind hlen hmem hwaits passes
    exact ⟨_, remoteRead_arrives hpkg hkind hlen hmem hwaits, answerFabric_answers ..⟩
  · rintro ⟨hone, hnone⟩
    exact hkind.elim (· hone) fun hsome => hsome (Option.isNone_iff_eq_none.mp hnone)
  · exact ⟨hkind, Option.isNone_iff_eq_none.mpr hop⟩
  · intro ws hready hlink hws
    exact hostWrite_writes hready hlink hws
  · intro a as hready hlink hone hwaits
    exact ⟨hostRead_reads hready hlink rfl rfl hone hwaits, hostByte_protected⟩
  · intro p ring size w0 w1 rest hwait hthree hlink hon hlow hhigh hroom hheld
    exact ringEntryWrite_writes rfl hwait hthree hlink hon hlow hhigh hroom hheld
  · have hexec := exec_linkRetrainDone hretrain
    intro fails
    refine ⟨fun hone => hexec.trans ?_, fun hone hthree => hexec.trans ?_, fun hone hfew => hexec.trans ?_⟩
    · rw [if_pos hone]
    · rw [if_neg hone]
      exact congrArg Host.Outcome.next (if_pos hthree)
    · rw [if_neg hone]
      exact congrArg Host.Outcome.next (if_neg (Nat.not_le.mpr hfew))
  · rw [packageReset_next hstep hbring, nextStep_fails ⟨herr, hfail⟩]
  · rw [packageReset_next hstep hbring, nextStep_goes hgoes]
  · refine event_next (f := onFabidWrite) ?_
    unfold onFabidWrite
    rw [if_pos hlink, writeReg_fabid hfirm]
    rfl
  · refine event_next (f := onRegisterWrite) ?_
    unfold onRegisterWrite State.agentWrite
    have hfour : ¬s.ev.n1 % 4 ≠ 0 := by
      rw [show s.ev.n1 = 0x10000 + 0x40 * c + 4 from hoff]
      omega
    rw [if_neg hfour, show s.ev.n1 = 0x10000 + 0x40 * c + 4 from hoff, show s.ev.n0 = 0 from hhost, hlink, if_neg (by simp)]
    exact congrArg some (writeReg_droopctl hfirm hc hon _)
  · refine event_next (f := onIslctlWrite) ?_
    unfold onIslctlWrite State.agentWrite
    rw [if_neg (Nat.not_le.mpr hcl), show s.ev.n0 = 0 from hhost, hlink, if_neg (by simp)]
    exact congrArg some (writeReg_islctl hfirm hcl hon _)
  · refine event_next (f := onPshedWrite) ?_
    unfold onPshedWrite State.agentWrite
    rw [if_neg (Nat.not_le.mpr hpart), hlink, if_neg (by simp)]
    exact congrArg some (writeReg_pshed hfirm hpart _)
  · refine event_next (f := onFabidWrite) ?_
    unfold onFabidWrite
    rw [if_pos hlink, writeReg_closed hfirm]
  · refine event_next (f := onPshedWrite) ?_
    unfold onPshedWrite State.agentWrite
    rw [if_neg (Nat.not_le.mpr hpart), hlink, if_neg (by simp), writeReg_closed hfirm]

end Sys2Proof.Machine
end

section
/-! What the hub's reads and the management commands leave alone, and how a command ends (13 R305, 17 R416, 19 R448). -/

namespace Sys2Proof.Machine

/-! Reads of the hub are traffic of the caches. -/

theorem hubSpot_step (s : State) (part va : Nat) : CacheStep s (s.hubSpot part va).2 := by
  have hwalk := (CacheStep.refl s).walk part (s.part part).lead va
  unfold State.hubSpot
  generalize s.walk part (s.part part).lead va = p at hwalk ⊢
  obtain ⟨res, u⟩ := p
  cases res with
  | leaf l =>
    dsimp only
    split
    · split
      · exact hwalk
      · exact hwalk
    · exact hwalk
  | _ => exact hwalk

theorem hubPart_step (s : State) (part va n : Nat) : CacheStep s (s.hubPart part va n).2 := by
  have hspot := hubSpot_step s part va
  unfold State.hubPart
  generalize s.hubSpot part va = p at hspot ⊢
  obtain ⟨spot, u⟩ := p
  cases spot with
  | none => exact hspot
  | some p =>
    dsimp only
    split
    · split
      · exact hspot
      · exact hspot.readCoh ..
    · exact hspot

theorem hubBytes_step (s : State) (part va n : Nat) : CacheStep s (s.hubBytes part va n).2 := by
  unfold State.hubBytes
  dsimp only
  split
  · exact .refl s
  · have hlow := hubPart_step s part va (min n (2 ^ 16 - va % 2 ^ 16))
    generalize s.hubPart part va (min n (2 ^ 16 - va % 2 ^ 16)) = p at hlow ⊢
    obtain ⟨low, u⟩ := p
    cases low with
    | none => exact hlow
    | some a =>
      dsimp only
      split
      · exact hlow
      · have hhigh := hlow.trans (hubPart_step u part ((va + (2 ^ 16 - va % 2 ^ 16)) % 2 ^ 56) (n - (2 ^ 16 - va % 2 ^ 16)))
        generalize u.hubPart part ((va + (2 ^ 16 - va % 2 ^ 16)) % 2 ^ 56) (n - (2 ^ 16 - va % 2 ^ 16)) = q at hhigh ⊢
        obtain ⟨high, v⟩ := q
        cases high with
        | none => exact hhigh
        | some b => exact hhigh

theorem readRcb_step (s : State) (part va : Nat) : CacheStep s (s.readRcb part va).2 := by
  have hlow := hubPart_step s part va 64
  unfold State.readRcb
  generalize s.hubPart part va 64 = p at hlow ⊢
  obtain ⟨low, u⟩ := p
  cases low with
  | none => exact hlow
  | some a =>
    have hhigh := hlow.trans (hubPart_step u part ((va + 64) % 2 ^ 56) 64)
    dsimp only
    generalize u.hubPart part ((va + 64) % 2 ^ 56) 64 = q at hhigh ⊢
    obtain ⟨high, v⟩ := q
    cases high with
    | none => exact hhigh
    | some b => exact hhigh

theorem chainWords_step (part k : Nat) (seen : List DWord) (a : DWord) (s : State) : CacheStep s (State.chainWords part k seen a s).2 := by
  induction k generalizing seen a s with
  | zero => exact .refl s
  | succ k ih =>
    rw [State.chainWords]
    split
    · exact .refl s
    · have hread := readRcb_step s part (va56 a.toNat)
      generalize s.readRcb part (va56 a.toNat) = p at hread ⊢
      obtain ⟨rcb, u⟩ := p
      cases rcb with
      | none => exact hread
      | some x =>
        dsimp only
        split
        · exact hread
        · have hrest := hread.trans (ih (a :: seen) ((dwords 16 x.1).getD 0 0) u)
          generalize State.chainWords part k (a :: seen) ((dwords 16 x.1).getD 0 0) u = q at hrest ⊢
          obtain ⟨rest, v⟩ := q
          cases rest with
          | none => exact hrest
          | some xs => exact hrest

theorem readChain_step (s : State) (part : Nat) (rcb : DWord) : CacheStep s (s.readChain part rcb).2 := by
  have hwords := chainWords_step part 8 [] rcb s
  unfold State.readChain
  generalize State.chainWords part 8 [] rcb s = p at hwords ⊢
  obtain ⟨words, u⟩ := p
  cases words with
  | none => exact hwords
  | some xs =>
    dsimp only
    split <;> exact hwords

theorem frameFrom_step (part die va last n level table : Nat) (s : State) :
    CacheStep s (State.frameFrom part die va last n level table s).2 := by
  induction n generalizing level table s with
  | zero => exact .refl s
  | succ n ih =>
    rw [State.frameFrom]
    have hentry := (CacheStep.refl s).tableEntry part die (table + 8 * walkIndex va level)
    generalize s.tableEntry part die (table + 8 * walkIndex va level) = p at hentry ⊢
    obtain ⟨x, u⟩ := p
    dsimp only
    split
    · exact hentry
    · split
      · exact hentry.trans (ih ..)
      · exact hentry

theorem frameOf_step (s : State) (part va : Nat) (big : Bool) : CacheStep s (s.frameOf part va big).2 := by
  unfold State.frameOf
  dsimp only
  split
  · exact .refl s
  · exact frameFrom_step ..

theorem physRead_step (s : State) (pa n : Nat) : CacheStep s (s.physRead pa n).2 := by
  unfold State.physRead
  refine CacheStep.foldl_snd (acc := (([] : Tab (List Byte)), s)) (.refl s) (fun a l ha => ?_) _
  exact ha.readLine ..

/-! What runs on the cores. -/

/-- Streams, crews and gangs. -/
def State.actors (s : State) : Tab Stream × Tab Crew × Tab Gang := (s.streams, s.crews, s.gangs)

theorem CacheStep.actors {s t : State} (h : CacheStep s t) : t.actors = s.actors :=
  (congrArg (fun u : State => (u.streams, u.crews, u.gangs)) h.rest :)

theorem physWrite_actors (s : State) (ws : List (Nat × Byte)) : (s.physWrite ws).actors = s.actors := by
  have h : CacheStep s ((distinct (ws.map fun w => w.1 / 64)).foldl (fun u l => u.writeLine 0 (u.physAttr l) l (lineMask l ws)) s) :=
    CacheStep.foldl (.refl s) (fun u l hu => hu.writeLine ..) _
  exact h.actors

theorem noteHost_actors (s : State) (g : Signature) : (s.noteHost g).actors = s.actors := ((CacheStep.refl s).noteHost g).actors

theorem recordFault_actors (s : State) (fdom part kind verdict test : Nat) (node : DWord) (w2 page w4 link detail : Nat) (final : Bool) :
    (s.recordFault fdom part kind verdict test node w2 page w4 link detail final).actors = s.actors :=
  (congrArg State.actors (recordFault_rest s fdom part kind verdict test node w2 page w4 link detail final) :)

theorem updateLevel_actors (s : State) (k : Nat) : (s.updateLevel k).actors = s.actors := by
  unfold State.updateLevel
  dsimp only
  split
  · rfl
  · split <;> rfl

theorem assignFrames_actors (s : State) (ranges : List (Nat × Nat)) (id : Nat) : (s.assignFrames ranges id).actors = s.actors := by
  have h : CacheStep s (ranges.foldl (fun s r => s.flushRange r.1 r.2) s) :=
    CacheStep.foldl (.refl s) (fun u r hu => hu.trans (flushRange_step ..)) _
  exact h.actors

theorem releasePart_actors (s : State) (p : Nat) (ws : List DWord) (ranges : List (Nat × Nat)) : (s.releasePart p ws ranges).actors = s.actors := by
  unfold State.releasePart
  dsimp only
  exact (updateLevel_actors ..).trans (assignFrames_actors s ranges (p + 1))

/-! How a command ends (19 R448). -/

section
variable {s : State} {i : Instr} {on : Ev → State → Option State} {n : Nat} {fs : List (Nat × Nat × Nat)} {f : List DWord → State × Nat}

/-- A command with its operands as they may be has its effect. -/
theorem exec_command (hexec : exec i s = event s on) (hon : on s.ev s = s.command n fs f) (hbusy : s.mboxBusy = true) (hlink : s.linkUp = true)
    (hready : s.ready = true) (hcode : cmdCode s.mboxBlock = n) (hops : operandsOnly s.mboxBlock (!(n == 9 || n == 10)) fs = true) :
    exec i s = .next ((f s.mboxBlock).1.endCommand (f s.mboxBlock).2) := by
  refine hexec.trans (event_next (hon.trans ?_))
  unfold State.command
  dsimp only
  rw [hbusy, hlink, hcode, hready, hops, if_neg (by simp), if_neg (by simp), if_neg (by simp)]

theorem command_early (hexec : exec i s = event s on) (hon : on s.ev s = s.command n fs f) (hbusy : s.mboxBusy = true) (hlink : s.linkUp = true)
    (hcode : cmdCode s.mboxBlock = n) (hready : s.ready = false) (hearly : n ∉ [8, 9, 10] ∨ s.noFirmware = true) :
    exec i s = .next { s with mboxBusy := false } := by
  refine hexec.trans (event_next (hon.trans ?_))
  unfold State.command
  dsimp only
  have hstop : s.noFirmware = true ∨ (!(n == 8 || n == 9 || n == 10)) = true := hearly.symm.imp_right fun h => by simpa [and_assoc] using h
  rw [hbusy, hlink, hcode, hready, if_neg (by simp), if_pos ⟨by simp, hstop⟩]

theorem command_reserved (hexec : exec i s = event s on) (hon : on s.ev s = s.command n fs f) (hbusy : s.mboxBusy = true)
    (hlink : s.linkUp = true) (hcode : cmdCode s.mboxBlock = n) (hready : s.ready = true) (hbits : bits (wordAt s.mboxBlock 0) 51 0 ≠ 0) :
    exec i s = .next (s.endCommand 0xFFFF) := by
  have hops : operandsOnly s.mboxBlock (!(n == 9 || n == 10)) fs = false := by
    unfold operandsOnly
    rw [beq_eq_false_iff_ne.mpr hbits]
    rfl
  refine hexec.trans (event_next (hon.trans ?_))
  unfold State.command
  dsimp only
  rw [hbusy, hlink, hcode, hready, hops, if_neg (by simp), if_neg (by simp), if_pos (by simp)]

theorem command_frees (hexec : exec i s = event s on) (hon : on s.ev s = s.command n fs f) (hbusy : s.mboxBusy = true)
    (hlink : s.linkUp = true) (hcode : cmdCode s.mboxBlock = n) :
    ∃ t, exec i s = .next t ∧ t.mboxBusy = false ∧ ((f s.mboxBlock).1.actors = s.actors → t.actors = s.actors) := by
  have hends : ∃ t, s.command n fs f = some t ∧ t.mboxBusy = false ∧ ((f s.mboxBlock).1.actors = s.actors → t.actors = s.actors) := by
    unfold State.command
    dsimp only
    rw [hbusy, hlink, hcode, if_neg (by simp)]
    split
    · exact ⟨_, rfl, rfl, fun _ => rfl⟩
    · split
      · exact ⟨_, rfl, rfl, fun _ => rfl⟩
      · exact ⟨_, rfl, rfl, fun h => h⟩
  obtain ⟨t, hcommand, hfree, hkeep⟩ := hends
  exact ⟨t, hexec.trans (event_next (hon.trans hcommand)), hfree, hkeep⟩

/-- What the statement says of each command. -/
theorem command_clauses (hexec : exec i s = event s on) (hon : on s.ev s = s.command n fs f)
    (hkeep : n ≠ 5 → (f s.mboxBlock).1.actors = s.actors) (hbusy : s.mboxBusy = true) (hlink : s.linkUp = true)
    (hcode : cmdCode s.mboxBlock = n) :
    (∃ t, exec i s = .next t ∧ t.mboxBusy = false ∧ (n ≠ 5 → t.streams = s.streams ∧ t.crews = s.crews ∧ t.gangs = s.gangs)) ∧
    (s.ready = false → (n ∉ [8, 9, 10] ∨ s.noFirmware = true) → exec i s = .next { s with mboxBusy := false }) ∧
    (s.ready = true → bits (wordAt s.mboxBlock 0) 51 0 ≠ 0 → ∃ t, exec i s = .next t ∧
      (t.mboxBusy = false ∧ t.mboxStatus = BitVec.ofNat 16 0xFFFF) ∧ t.mem = s.mem ∧ t.hostMem = s.hostMem) := by
  refine ⟨?_, command_early hexec hon hbusy hlink hcode, fun hready hbits =>
    ⟨_, command_reserved hexec hon hbusy hlink hcode hready hbits, ⟨rfl, rfl⟩, rfl, rfl⟩⟩
  obtain ⟨t, hnext, hfree, hactors⟩ := command_frees hexec hon hbusy hlink hcode
  refine ⟨t, hnext, hfree, fun h => ?_⟩
  have hsame := hactors (hkeep h)
  exact ⟨congrArg (·.1) hsame, congrArg (·.2.1) hsame, congrArg (·.2.2) hsame⟩

end

end Sys2Proof.Machine
end

section
/-! What each management command does (17 R407 to R419, 19 R448 to R456). -/

namespace Sys2Proof.Machine

section
variable {s : State}

theorem w64_wordAt (ws : List DWord) (k : Nat) : (w64 (wordAt ws k)).toNat = wordAt ws k := by
  unfold w64 wordAt
  rw [BitVec.toNat_ofNat, Nat.mod_eq_of_lt (BitVec.isLt _)]

theorem actors_ite {c : Prop} [Decidable c] {x y : State × Nat} (hx : x.1.actors = s.actors) (hy : y.1.actors = s.actors) :
    (if c then x else y).1.actors = s.actors := by
  split
  · exact hx
  · exact hy

theorem toHost_actors (s : State) (a : Nat) (bs : List Byte) : (s.toHost a bs).actors = s.actors := rfl

/-! No command but a page import changes a stream, a crew or a gang. -/

section
variable (hbusy : s.mboxBusy = true) (hlink : s.linkUp = true)
include hbusy hlink

/-- What the statement says of every command. -/
def State.commandClauses (s : State) (i : Instr) (n : Nat) : Prop :=
  (∃ t, exec i s = .next t ∧ t.mboxBusy = false ∧ (n ≠ 5 → t.streams = s.streams ∧ t.crews = s.crews ∧ t.gangs = s.gangs)) ∧
  (s.ready = false → (n ∉ [8, 9, 10] ∨ s.noFirmware = true) → exec i s = .next { s with mboxBusy := false }) ∧
  (s.ready = true → bits (wordAt s.mboxBlock 0) 51 0 ≠ 0 → ∃ t, exec i s = .next t ∧
    (t.mboxBusy = false ∧ t.mboxStatus = BitVec.ofNat 16 0xFFFF) ∧ t.mem = s.mem ∧ t.hostMem = s.hostMem)

theorem partitionRelease_clauses (hcode : cmdCode s.mboxBlock = 1) : s.commandClauses .partitionRelease 1 :=
  command_clauses (on := onPartitionRelease) rfl rfl
    (fun _ => actors_ite rfl (actors_ite rfl (releasePart_actors s _ _ _))) hbusy hlink hcode

theorem keyExchange_clauses (hcode : cmdCode s.mboxBlock = 2) : s.commandClauses .keyExchange 2 :=
  command_clauses (on := onKeyExchange) rfl rfl (fun _ => actors_ite rfl (updateLevel_actors ..)) hbusy hlink hcode

theorem weightKey_clauses (hcode : cmdCode s.mboxBlock = 3) : s.commandClauses .weightKey 3 := by
  refine command_clauses (on := onWeightKey) rfl rfl (fun _ => ?_) hbusy hlink hcode
  dsimp only
  split
  · rfl
  · exact recordFault_actors ..

theorem pageExport_clauses (hcode : cmdCode s.mboxBlock = 4) : s.commandClauses .pageExport 4 := by
  refine command_clauses (on := onPageExport) rfl rfl (fun _ => ?_) hbusy hlink hcode
  refine actors_ite rfl (actors_ite rfl (actors_ite rfl ?_))
  have hchain := readChain_step s (cmdPart s.mboxBlock) (w64 (wordAt s.mboxBlock 1))
  generalize s.readChain (cmdPart s.mboxBlock) (w64 (wordAt s.mboxBlock 1)) = p at hchain ⊢
  obtain ⟨chain, u⟩ := p
  cases chain with
  | none => exact hchain.actors
  | some c =>
    dsimp only
    have hframe := hchain.trans (frameOf_step u (cmdPart s.mboxBlock) (va56 (w64 (wordAt s.mboxBlock 2)).toNat) (wordAt s.mboxBlock 3 == 1))
    generalize u.frameOf (cmdPart s.mboxBlock) (va56 (w64 (wordAt s.mboxBlock 2)).toNat) (wordAt s.mboxBlock 3 == 1) = q at hframe ⊢
    obtain ⟨frame, v⟩ := q
    cases frame with
    | none => exact hframe.actors
    | some pa =>
      dsimp only
      generalize hcores : ((List.range 256).filter fun i => bitOf (s.part (cmdPart s.mboxBlock)).partclu.toNat (clusterOf i) &&
        (Tab.find i v.cores).isSome) = cores
      have hrelease : CacheStep s (cores.foldl (fun s i => s.release i 6) v) := CacheStep.foldl hframe (fun x k hx => hx.release ..) _
      generalize cores.foldl (fun s i => s.release i 6) v = w at hrelease ⊢
      have hread := hrelease.trans (physRead_step w (pa % 2 ^ 40) (if (wordAt s.mboxBlock 3 == 1) = true then 2 ^ 21 else 2 ^ 16))
      generalize w.physRead (pa % 2 ^ 40) (if (wordAt s.mboxBlock 3 == 1) = true then 2 ^ 21 else 2 ^ 16) = r at hread ⊢
      exact hread.actors

theorem pageImport_clauses (hcode : cmdCode s.mboxBlock = 5) : s.commandClauses .pageImport 5 :=
  command_clauses (on := onPageImport) rfl rfl (fun h => absurd rfl h) hbusy hlink hcode

theorem sealedTransferIn_clauses (hcode : cmdCode s.mboxBlock = 6) : s.commandClauses .sealedTransferIn 6 := by
  refine command_clauses (on := onSealedTransferIn) rfl rfl (fun _ => ?_) hbusy hlink hcode
  dsimp only
  split
  · rfl
  · exact (physWrite_actors ..).trans (noteHost_actors ..)

theorem sealedTransferOut_clauses (hcode : cmdCode s.mboxBlock = 7) : s.commandClauses .sealedTransferOut 7 := by
  refine command_clauses (on := onSealedTransferOut) rfl rfl (fun _ => actors_ite rfl ?_) hbusy hlink hcode
  have hread := physRead_step s (wordAt s.mboxBlock 1) 4096
  generalize s.physRead (wordAt s.mboxBlock 1) 4096 = p at hread ⊢
  exact (toHost_actors ..).trans hread.actors

theorem attestation_clauses (hcode : cmdCode s.mboxBlock = 8) : s.commandClauses .attestation 8 :=
  command_clauses (on := onAttestation) rfl rfl (fun _ => toHost_actors ..) hbusy hlink hcode

theorem certificateRead_clauses (hcode : cmdCode s.mboxBlock = 9) : s.commandClauses .certificateRead 9 :=
  command_clauses (on := onCertificateRead) rfl rfl (fun _ => toHost_actors ..) hbusy hlink hcode

theorem faultRecordRead_clauses (hcode : cmdCode s.mboxBlock = 10) : s.commandClauses .faultRecordRead 10 :=
  command_clauses (on := onFaultRecordRead) rfl rfl (fun _ => toHost_actors ..) hbusy hlink hcode

theorem collectiveGroup_clauses (hcode : cmdCode s.mboxBlock = 11) : s.commandClauses .collectiveGroup 11 :=
  command_clauses (on := onCollectiveGroup) rfl rfl (fun _ => actors_ite rfl rfl) hbusy hlink hcode

theorem unknownCommand_ends (hcode : cmdCode s.mboxBlock = 0 ∨ 11 < cmdCode s.mboxBlock) : exec .unknownCommand s =
    .next (if s.ready = true then s.endCommand 0xFFFF else { s with mboxBusy := false }) := by
  refine event_next (f := onUnknownCommand) ?_
  unfold onUnknownCommand
  dsimp only
  rw [if_neg (by rw [hbusy, hlink]; simp; omega)]
  cases s.ready <;> rfl

end

end

end Sys2Proof.Machine
end

section
/-! How each management command ends, and the statement on them (17 R407 to R419, 19 R448 to R456). -/

namespace Sys2Proof.Machine

section
variable {s : State}

/-- A command with its operands as they may be ends with the state and the status that its effect gives. -/
theorem command_ends {i : Instr} {on : Ev → State → Option State} {n : Nat} {fs : List (Nat × Nat × Nat)} {f : List DWord → State × Nat}
    (hexec : exec i s = event s on) (hon : on s.ev s = s.command n fs f) (hbusy : s.mboxBusy = true) (hlink : s.linkUp = true)
    (hready : s.ready = true) (hcode : cmdCode s.mboxBlock = n) (hops : operandsOnly s.mboxBlock (!(n == 9 || n == 10)) fs = true)
    {t : State} {st : Nat} (h : f s.mboxBlock = (t, st)) : exec i s = .next (t.endCommand st) := by
  rw [exec_command hexec hon hbusy hlink hready hcode hops, h]

section
variable (hbusy : s.mboxBusy = true) (hlink : s.linkUp = true) (hready : s.ready = true)
include hbusy hlink hready

/-! Partition release (17 R408 to R410). -/

section
variable (hcode : cmdCode s.mboxBlock = 1)
  (hops : operandsOnly s.mboxBlock true [(1, 63, 0), (2, 63, 0), (3, 10, 0), (3, 14, 12), (4, 45, 0), (5, 39, 0), (6, 31, 0)] = true)
include hcode hops

theorem partitionRelease_overlap (hover : s.releaseOverlap (cmdPart s.mboxBlock) (wordAt s.mboxBlock 1) (wordAt s.mboxBlock 2) = true) :
    exec .partitionRelease s = .next (s.endCommand 1) :=
  command_ends (on := onPartitionRelease) rfl rfl hbusy hlink hready hcode hops (if_pos hover)

theorem partitionRelease_bad (hover : s.releaseOverlap (cmdPart s.mboxBlock) (wordAt s.mboxBlock 1) (wordAt s.mboxBlock 2) = false)
    (hbad : s.releaseBad (cmdPart s.mboxBlock) s.mboxBlock
      (s.rangeList (wordAt s.mboxBlock 4) (min 4 (bits (wordAt s.mboxBlock 3) 14 12))) = true) :
    exec .partitionRelease s = .next (s.endCommand 2) :=
  command_ends (on := onPartitionRelease) rfl rfl hbusy hlink hready hcode hops
    ((if_neg (by rw [hover]; simp)).trans (if_pos hbad))

theorem partitionRelease_releases (hover : s.releaseOverlap (cmdPart s.mboxBlock) (wordAt s.mboxBlock 1) (wordAt s.mboxBlock 2) = false)
    (hbad : s.releaseBad (cmdPart s.mboxBlock) s.mboxBlock
      (s.rangeList (wordAt s.mboxBlock 4) (min 4 (bits (wordAt s.mboxBlock 3) 14 12))) = false) :
    exec .partitionRelease s = .next ((s.releasePart (cmdPart s.mboxBlock) s.mboxBlock
      (s.rangeList (wordAt s.mboxBlock 4) (min 4 (bits (wordAt s.mboxBlock 3) 14 12)))).endCommand 0) :=
  command_ends (on := onPartitionRelease) rfl rfl hbusy hlink hready hcode hops
    ((if_neg (by rw [hover]; simp)).trans (if_neg (by rw [hbad]; simp)))

end

/-! Keys (17 R412, R413). -/

section
variable (hcode : cmdCode s.mboxBlock = 2) (hops : operandsOnly s.mboxBlock true [(1, 45, 0)] = true)
include hcode hops

theorem keyExchange_refused (h : (s.part (cmdPart s.mboxBlock)).isSet = false ∨ (s.part (cmdPart s.mboxBlock)).exchanged = true ∨
    (s.part (cmdPart s.mboxBlock)).repNonce = []) : exec .keyExchange s = .next (s.endCommand 1) :=
  command_ends (on := onKeyExchange) rfl rfl hbusy hlink hready hcode hops (if_pos (h.imp_left fun hset => by rw [hset]; rfl))

/-- The partition after an exchange with a secret. -/
def Part.exchange (p : Part) (ss : List Byte) : Part :=
  if bitOf p.partcfg.toNat 7 then
    { p with
      exchanged := true, released := true,
      memKey := derivedKey ss "MEMX" p.repNonce p.partcfg 64 ++ derivedKey ss "MEMT" p.repNonce p.partcfg 32,
      ctxKey := derivedKey ss "CTXK" p.repNonce p.partcfg 32, xferKey := derivedKey ss "XFER" p.repNonce p.partcfg 32 }
  else { p with exchanged := true, xferKey := derivedKey ss "XFER" p.repNonce p.partcfg 32 }

theorem exec_keyExchange (hset : (s.part (cmdPart s.mboxBlock)).isSet = true) (hfirst : (s.part (cmdPart s.mboxBlock)).exchanged = false)
    (hreport : (s.part (cmdPart s.mboxBlock)).repNonce ≠ []) : exec .keyExchange s = .next (((s.setPart (cmdPart s.mboxBlock)
      ((s.part (cmdPart s.mboxBlock)).exchange (fitBytes 32 (Config.mlkemDecap (s.part (cmdPart s.mboxBlock)).encapKey
        (rdBytes s.hostMem (wordAt s.mboxBlock 1) 1088))))).updateLevel (cmdPart s.mboxBlock)).endCommand 0) :=
  command_ends (on := onKeyExchange) rfl rfl hbusy hlink hready hcode hops
    (if_neg (by rw [hset, hfirst]; simpa using hreport))

end

end

theorem postEvent_part (s : State) (k kind low : Nat) : (∃ rings, (s.postEvent k kind low).part k = { s.part k with rings := rings }) ∧
    ∀ j, j ≠ k → (s.postEvent k kind low).part j = s.part j :=
  ⟨⟨_, State.part_setPart ..⟩, fun _ hj => State.part_setPart_other _ _ hj⟩

/-- What a change of level leaves of partitions and memory. -/
theorem updateLevel_leaves (s : State) (k : Nat) : (∃ st rings, (s.updateLevel k).part k = { s.part k with shedstat := st, rings := rings }) ∧
    (∀ j, j ≠ k → (s.updateLevel k).part j = s.part j) ∧ (s.updateLevel k).mem = s.mem ∧ (s.updateLevel k).hostMem = s.hostMem := by
  have hsame : (∃ st rings, s.part k = { s.part k with shedstat := st, rings := rings }) ∧
      (∀ j, j ≠ k → s.part j = s.part j) ∧ s.mem = s.mem ∧ s.hostMem = s.hostMem := ⟨⟨_, _, rfl⟩, fun _ _ => rfl, rfl, rfl⟩
  unfold State.updateLevel
  dsimp only
  split
  · exact hsame
  · split
    · exact hsame
    · generalize w32 _ = st
      obtain ⟨⟨rings, hpart⟩, hothers⟩ := postEvent_part (s.setPart k { s.part k with shedstat := st }) k 1 st.toNat
      rw [State.part_setPart] at hpart
      exact ⟨⟨st, rings, hpart⟩, fun j hj => (hothers j hj).trans (State.part_setPart_other _ _ hj), rfl, rfl⟩

theorem updateLevel_exchange (s : State) (k : Nat) (ss : List Byte) :
    let p := s.part k
    let t := (s.setPart k (p.exchange ss)).updateLevel k
    (t.part k).exchanged = true ∧ (t.part k).xferKey = derivedKey ss "XFER" p.repNonce p.partcfg 32 ∧
      (bitOf p.partcfg.toNat 7 = true → (t.part k).released = true ∧
        (t.part k).memKey = derivedKey ss "MEMX" p.repNonce p.partcfg 64 ++ derivedKey ss "MEMT" p.repNonce p.partcfg 32 ∧
        (t.part k).ctxKey = derivedKey ss "CTXK" p.repNonce p.partcfg 32) ∧
      (bitOf p.partcfg.toNat 7 = false → (t.part k).released = p.released ∧ (t.part k).memKey = p.memKey ∧ (t.part k).ctxKey = p.ctxKey) ∧
      (∀ j, j ≠ k → t.part j = s.part j) ∧ t.mem = s.mem ∧ t.hostMem = s.hostMem := by
  intro p t
  obtain ⟨⟨st, rings, hpart⟩, hothers, hmem, hhost⟩ := updateLevel_leaves (s.setPart k (p.exchange ss)) k
  have hk : t.part k = { p.exchange ss with shedstat := st, rings := rings } := by rw [hpart, State.part_setPart]
  refine ⟨?_, ?_, fun hprot => ?_, fun hprot => ?_, fun j hj => (hothers j hj).trans (State.part_setPart_other _ _ hj), hmem, hhost⟩
  · rw [hk]
    unfold Part.exchange
    split <;> rfl
  · rw [hk]
    unfold Part.exchange
    split <;> rfl
  · rw [hk]
    unfold Part.exchange
    rw [if_pos hprot]
    exact ⟨rfl, rfl, rfl⟩
  · rw [hk]
    unfold Part.exchange
    rw [if_neg (by rw [hprot]; simp)]
    exact ⟨rfl, rfl, rfl⟩

/-- What a sealed transfer in does with the block that its tag admits. -/
def State.transferIn (s : State) (pa : Nat) (o : Option (List Byte)) : State × Nat :=
  match o with
  | none => (s, 1)
  | some plain =>
    let ws := ((List.range 4096).map (pa + ·)).zip (fitBytes 4096 plain)
    ((s.noteHost (sigOf (ws.map Prod.fst))).physWrite ws, 0)

section
variable (hbusy : s.mboxBusy = true) (hlink : s.linkUp = true) (hready : s.ready = true)
include hbusy hlink hready

section
variable (hcode : cmdCode s.mboxBlock = 3) (hops : operandsOnly s.mboxBlock true [(1, 45, 0)] = true)
include hcode hops

theorem weightKey_unkeyed (hkey : (s.part (cmdPart s.mboxBlock)).xferKey = []) :
    exec .weightKey s = .next ((s.recordFault 0 (cmdPart s.mboxBlock) 9 0 0 0 0 0 0 0 0 true).endCommand 1) := by
  refine command_ends (on := onWeightKey) rfl rfl hbusy hlink hready hcode hops ?_
  dsimp only
  rw [hkey, if_neg (by simp)]

theorem weightKey_keyed (hkey : (s.part (cmdPart s.mboxBlock)).xferKey ≠ []) :
    let k := cmdPart s.mboxBlock
    let m := rdBytes s.hostMem (wordAt s.mboxBlock 1) 64
    let cut (a n : Nat) : List Byte := (m.drop a).take n
    let idx := leNat (cut 0 1)
    idx < 16 → leNat (cut 1 3) = 0 →
    exec .weightKey s = .next (match Config.gcmOpen (s.part k).xferKey (cut 4 12) [] (cut 16 32) (cut 48 16) with
      | some key => (s.updPart k fun p => { p with wkeys := Tab.put idx (fitBytes 32 key) p.wkeys }).endCommand 0
      | none => (s.recordFault 0 k 9 0 0 0 0 0 0 0 0 true).endCommand 1) := by
  intro k m cut idx hidx hpad
  have hgood : ((s.part k).xferKey != [] && decide (idx < 16) && leNat (cut 1 3) == 0) = true := by
    rw [hpad, decide_eq_true hidx]
    simpa using hkey
  cases hopen : Config.gcmOpen (s.part k).xferKey (cut 4 12) [] (cut 16 32) (cut 48 16) with
  | none =>
    refine command_ends (on := onWeightKey) rfl rfl hbusy hlink hready hcode hops ?_
    refine (congrArg (fun o : Option (List Byte) => match o with
      | some key => ((s.updPart k fun p => { p with wkeys := Tab.put idx (fitBytes 32 key) p.wkeys }), 0)
      | none => (s.recordFault 0 k 9 0 0 0 0 0 0 0 0 true, 1)) ((if_pos hgood).trans hopen) :)
  | some key =>
    refine command_ends (on := onWeightKey) rfl rfl hbusy hlink hready hcode hops ?_
    refine (congrArg (fun o : Option (List Byte) => match o with
      | some key => ((s.updPart k fun p => { p with wkeys := Tab.put idx (fitBytes 32 key) p.wkeys }), 0)
      | none => (s.recordFault 0 k 9 0 0 0 0 0 0 0 0 true, 1)) ((if_pos hgood).trans hopen) :)

end

/-! Sealed transfers (17 R414). -/

section
variable (hcode : cmdCode s.mboxBlock = 6) (hops : operandsOnly s.mboxBlock true [(1, 39, 0), (2, 45, 0)] = true)
include hcode hops

theorem sealedTransferIn_unkeyed (hkey : (s.part (cmdPart s.mboxBlock)).xferKey = []) : exec .sealedTransferIn s = .next (s.endCommand 1) := by
  refine command_ends (on := onSealedTransferIn) rfl rfl hbusy hlink hready hcode hops ?_
  dsimp only
  rw [hkey, if_neg (by simp)]

theorem sealedTransferIn_writes (hkey : (s.part (cmdPart s.mboxBlock)).xferKey ≠ [])
    (hplace : s.transferOk (cmdPart s.mboxBlock) (wordAt s.mboxBlock 1) = true) :
    let k := cmdPart s.mboxBlock
    let pa := wordAt s.mboxBlock 1
    let b := rdBytes s.hostMem (wordAt s.mboxBlock 2) (4096 + 28)
    exec .sealedTransferIn s = .next (match Config.gcmOpen (s.part k).xferKey ((b.drop 4096).take 12) (transferAad k pa 0) (b.take 4096)
        ((b.drop 4108).take 16) with
      | none => s.endCommand 1
      | some plain =>
        let ws := ((List.range 4096).map (pa + ·)).zip (fitBytes 4096 plain)
        ((s.noteHost (sigOf (ws.map Prod.fst))).physWrite ws).endCommand 0) := by
  intro k pa b
  have hgood : ((s.part k).xferKey != [] && s.transferOk k pa) = true := by
    rw [show s.transferOk k pa = true from hplace]
    simpa using hkey
  have hexec : ∀ o, Config.gcmOpen (s.part k).xferKey ((b.drop 4096).take 12) (transferAad k pa 0) (b.take 4096) ((b.drop 4108).take 16) = o →
      exec .sealedTransferIn s = .next ((s.transferIn pa o).1.endCommand (s.transferIn pa o).2) := fun o hopen =>
    command_ends (on := onSealedTransferIn) rfl rfl hbusy hlink hready hcode hops
      ((congrArg (s.transferIn pa) ((if_pos hgood).trans hopen)).trans Prod.mk.eta.symm)
  cases hopen : Config.gcmOpen (s.part k).xferKey ((b.drop 4096).take 12) (transferAad k pa 0) (b.take 4096) ((b.drop 4108).take 16) with
  | none => exact hexec none hopen
  | some plain => exact hexec (some plain) hopen

end

section
variable (hcode : cmdCode s.mboxBlock = 7) (hops : operandsOnly s.mboxBlock true [(1, 39, 0), (2, 45, 0)] = true)
include hcode hops

theorem sealedTransferOut_unkeyed (hkey : (s.part (cmdPart s.mboxBlock)).xferKey = []) : exec .sealedTransferOut s = .next (s.endCommand 1) :=
  command_ends (on := onSealedTransferOut) rfl rfl hbusy hlink hready hcode hops (if_pos (.inl hkey))

theorem sealedTransferOut_sends (hkey : (s.part (cmdPart s.mboxBlock)).xferKey ≠ [])
    (hplace : s.transferOk (cmdPart s.mboxBlock) (wordAt s.mboxBlock 1) = true) :
    ∃ t, exec .sealedTransferOut s = .next t ∧ (t.mboxBusy = false ∧ t.mboxStatus = BitVec.ofNat 16 0) ∧
      (t.part (cmdPart s.mboxBlock)).nonce = (s.part (cmdPart s.mboxBlock)).nonce + 1 := by
  have hread := physRead_step s (wordAt s.mboxBlock 1) 4096
  obtain ⟨⟨plain, u⟩, hphys⟩ : ∃ p, s.physRead (wordAt s.mboxBlock 1) 4096 = p := ⟨_, rfl⟩
  rw [hphys] at hread
  obtain ⟨⟨cipher, tag⟩, hseal⟩ : ∃ p, Config.gcmSeal (u.part (cmdPart s.mboxBlock)).xferKey (leBytes 12 (u.part (cmdPart s.mboxBlock)).nonce)
    (transferAad (cmdPart s.mboxBlock) (wordAt s.mboxBlock 1) 1) plain = p := ⟨_, rfl⟩
  have hpart : u.part (cmdPart s.mboxBlock) = s.part (cmdPart s.mboxBlock) := congrArg (Tab.get ({} : Part) · _) hread.parts
  refine ⟨_, command_ends (on := onSealedTransferOut) (st := 0) (t := (u.updPart (cmdPart s.mboxBlock) fun p =>
    { p with nonce := (u.part (cmdPart s.mboxBlock)).nonce + 1 }).toHost (wordAt s.mboxBlock 2)
      (fitBytes 4096 cipher ++ leBytes 12 (u.part (cmdPart s.mboxBlock)).nonce ++ fitBytes 16 tag))
    rfl rfl hbusy hlink hready hcode hops ?_, ⟨rfl, rfl⟩, ?_⟩
  · refine (if_neg (by rw [hplace]; simpa using hkey)).trans ?_
    rw [hphys]
    dsimp only
    rw [hseal]
  · refine (congrArg Part.nonce (State.part_setPart u _ _)).trans ?_
    rw [hpart]

end

/-! Attestation, certificate, fault record, collective groups (17 R419, 16 R404, 19 R452). -/

theorem attestation_reports (hcode : cmdCode s.mboxBlock = 8) (hops : operandsOnly s.mboxBlock true [(1, 45, 0), (2, 45, 0)] = true) :
    ∃ t, exec .attestation s = .next t ∧ (t.mboxBusy = false ∧ t.mboxStatus = BitVec.ofNat 16 0) ∧
      (t.part (cmdPart s.mboxBlock)).repNonce = rdBytes s.hostMem (wordAt s.mboxBlock 1) 32 ∧ t.mem = s.mem := by
  obtain ⟨body, hbody⟩ : ∃ b, s.reportBody (cmdPart s.mboxBlock) (rdBytes s.hostMem (wordAt s.mboxBlock 1) 32) = b := ⟨_, rfl⟩
  refine ⟨_, command_ends (on := onAttestation) (st := 0) (t := (s.updPart (cmdPart s.mboxBlock) fun p =>
    { p with repNonce := rdBytes s.hostMem (wordAt s.mboxBlock 1) 32 }).toHost (wordAt s.mboxBlock 2)
      (body ++ fitBytes 3309 (Config.mldsaSign body))) rfl rfl hbusy hlink hready hcode hops ?_, ⟨rfl, rfl⟩, ?_, rfl⟩
  · dsimp only
    rw [hbody]
  · exact (congrArg Part.repNonce (State.part_setPart s _ _) :)

theorem certificateRead_writes (hcode : cmdCode s.mboxBlock = 9) (hops : operandsOnly s.mboxBlock false [(1, 45, 0)] = true) :
    exec .certificateRead s =
      .next ((s.toHost (wordAt s.mboxBlock 1) (leBytes 4 Config.certificate.length ++ Config.certificate)).endCommand 0) :=
  exec_command (on := onCertificateRead) rfl rfl hbusy hlink hready hcode hops

theorem faultRecordRead_writes (hcode : cmdCode s.mboxBlock = 10)
    (hops : operandsOnly s.mboxBlock false [(1, 63, 0), (2, 15, 0), (3, 45, 0)] = true) :
    let xs := s.recordFrom (bits (wordAt s.mboxBlock 1) 63 32) (min 8192 (bits (wordAt s.mboxBlock 1) 31 0)) (wordAt s.mboxBlock 2)
    exec .faultRecordRead s =
      .next ((s.toHost (wordAt s.mboxBlock 3) (xs.flatMap fun e => Machine.wordBytes e.words)).endCommand xs.length) :=
  exec_command (on := onFaultRecordRead) rfl rfl hbusy hlink hready hcode hops

section
variable (hcode : cmdCode s.mboxBlock = 11) (hops : operandsOnly s.mboxBlock true [(1, 15, 0), (2, 45, 0), (3, 10, 0)] = true)
include hcode hops

theorem collectiveGroup_refused (h : 256 ≤ wordAt s.mboxBlock 1 ∨ wordAt s.mboxBlock 3 < 2 ∨ 1024 < wordAt s.mboxBlock 3) :
    exec .collectiveGroup s = .next (s.endCommand 1) :=
  command_ends (on := onCollectiveGroup) rfl rfl hbusy hlink hready hcode hops (if_pos h)

theorem collectiveGroup_sets (hgroup : wordAt s.mboxBlock 1 < 256) (htwo : 2 ≤ wordAt s.mboxBlock 3) (hmany : wordAt s.mboxBlock 3 ≤ 1024) :
    ∃ t, exec .collectiveGroup s = .next t ∧ (t.mboxBusy = false ∧ t.mboxStatus = BitVec.ofNat 16 0) ∧ t.mem = s.mem ∧
      (Tab.get [] (t.part (cmdPart s.mboxBlock)).groups (wordAt s.mboxBlock 1)).length = wordAt s.mboxBlock 3 := by
  refine ⟨_, command_ends (on := onCollectiveGroup) rfl rfl hbusy hlink hready hcode hops (if_neg (by omega)), ⟨rfl, rfl⟩, rfl, ?_⟩
  refine (congrArg (fun p : Part => (Tab.get [] p.groups (wordAt s.mboxBlock 1)).length) (State.part_setPart s _ _)).trans ?_
  rw [Tab.get_put_same, List.length_map, List.length_range]

end

end

end

end Sys2Proof.Machine
end

section
/-! Pages that leave and return, and the statement on the management commands (17 R416, R417, 19 R448). -/

namespace Sys2Proof.Machine

section
variable {s : State}

theorem evicted_putEvict (p : Part) (page : DWord) (x : Nat × Bool × Nat × Bool) : (p.putEvict page x).evicted page = some x := by
  have hnone : (p.evict.filter fun e => e.1 != page).find? (fun e => e.1 == page) = none :=
    List.find?_eq_none.mpr fun e he => by simpa using (List.mem_filter.mp he).2
  unfold Part.evicted Part.putEvict
  rw [List.find?_append, hnone]
  simp

/-- The sizes of a page. -/
def pageSize (big : Bool) : Nat := if big then 2 ^ 21 else 2 ^ 16

/-- The cores of a partition that have been used publish what they have written. -/
def State.releaseAll (w : State) (p : Part) : State :=
  ((List.range 256).filter fun i => bitOf p.partclu.toNat (clusterOf i) && (Tab.find i w.cores).isSome).foldl (fun s i => s.release i 6) w

/-- The next version of a page that leaves. -/
def Part.nextVersion (p : Part) (page : DWord) : Nat := (((p.evicted page).map Prod.fst).getD 0 + 1) % 2 ^ 32

/-- A sealed page goes to host memory, its entry stands out. -/
def State.pageOut (y : State) (k : Nat) (page : DWord) (version fdom at_ : Nat) (bytes : List Byte) : State :=
  (y.updPart k fun p => { (p.putEvict page (version, false, fdom, true)) with nonce := (y.part k).nonce + 1 }).toHost at_ bytes

theorem pageOut_part (y : State) (k : Nat) (page : DWord) (version fdom at_ : Nat) (bytes : List Byte) :
    ((y.pageOut k page version fdom at_ bytes).part k).evicted page = some (version, false, fdom, true) ∧
      ((y.pageOut k page version fdom at_ bytes).part k).nonce = (y.part k).nonce + 1 := by
  have hpart : (y.pageOut k page version fdom at_ bytes).part k =
      { ((y.part k).putEvict page (version, false, fdom, true)) with nonce := (y.part k).nonce + 1 } := State.part_setPart ..
  rw [hpart]
  exact ⟨evicted_putEvict .., rfl⟩

/-- What an import does with the page that its tag admits and the entry of the eviction table. -/
def State.pageIn (s : State) (k target size : Nat) (page : DWord) (version blobDom : Nat) (opened : Option (List Byte))
    (old : Option (Nat × Bool × Nat × Bool)) : State × Nat :=
  match opened with
  | none => (s.failImport k target size page blobDom 1, 1)
  | some plain =>
    match old with
    | none => (s.failImport k target size page blobDom 3, 3)
    | some (v, q, f, out) =>
      if q then (s.failImport k target size page blobDom 4, 4)
      else if !out then (s.failImport k target size page blobDom 3, 3)
      else if v ≠ version then (s.failImport k target size page blobDom 2, 2)
      else
        let bytes := ((List.range size).map (target + ·)).zip (fitBytes size plain)
        (((s.noteHost (sigOf (bytes.map Prod.fst))).physWrite bytes).updPart k fun p => p.putEvict page (v, false, f, false), 0)

/-- How an import ends, by what its tag admits and the entry of the eviction table. -/
theorem pageIn_ends {k target size : Nat} {page : DWord} {version blobDom : Nat} {opened : Option (List Byte)}
    {old : Option (Nat × Bool × Nat × Bool)} :
    (s.pageIn k target size page version blobDom opened old).1.endCommand (s.pageIn k target size page version blobDom opened old).2 =
      match opened, old with
      | none, _ => (s.failImport k target size page blobDom 1).endCommand 1
      | some _, none => (s.failImport k target size page blobDom 3).endCommand 3
      | some plain, some (v, q, f, out) =>
        if q then (s.failImport k target size page blobDom 4).endCommand 4
        else if out = false then (s.failImport k target size page blobDom 3).endCommand 3
        else if v ≠ version then (s.failImport k target size page blobDom 2).endCommand 2
        else
          let bytes := ((List.range size).map (target + ·)).zip (fitBytes size plain)
          (((s.noteHost (sigOf (bytes.map Prod.fst))).physWrite bytes).updPart k fun p => p.putEvict page (v, false, f, false)).endCommand 0 := by
  unfold State.pageIn
  cases opened with
  | none => rfl
  | some plain =>
    cases old with
    | none => rfl
    | some x =>
      obtain ⟨v, q, f, out⟩ := x
      cases q with
      | true => rfl
      | false =>
        cases out with
        | false => rfl
        | true =>
          by_cases hv : v = version
          · subst hv
            simp
          · simp [hv]

/-- The words of the header of a blob in host memory. -/
def State.blobWord (s : State) (at_ i : Nat) : Nat := wordAt (dwords 8 (rdBytes s.hostMem at_ 64)) i

section
variable (hbusy : s.mboxBusy = true) (hlink : s.linkUp = true) (hready : s.ready = true)
include hbusy hlink hready

section
variable (hcode : cmdCode s.mboxBlock = 4) (hops : operandsOnly s.mboxBlock true [(1, 63, 0), (2, 63, 0), (3, 1, 0), (4, 45, 0)] = true)
include hcode hops

theorem pageExport_address (hcan : canonical (wordAt s.mboxBlock 2) = false) : exec .pageExport s = .next (s.endCommand 0xFFFF) :=
  command_ends (on := onPageExport) rfl rfl hbusy hlink hready hcode hops (if_pos (.inr (.inl (by rw [w64_wordAt, hcan]; rfl))))

theorem pageExport_exports {big : Bool} (hbig : (wordAt s.mboxBlock 3 == 1) = big) (hsmall : wordAt s.mboxBlock 3 < 2)
    (hcan : canonical (wordAt s.mboxBlock 2) = true) (halign : wordAt s.mboxBlock 2 % pageSize big = 0)
    (hquar : (((s.part (cmdPart s.mboxBlock)).evicted (w64 (wordAt s.mboxBlock 2))).map fun x => x.2.1).getD false = false)
    (hroom : (((s.part (cmdPart s.mboxBlock)).evicted (w64 (wordAt s.mboxBlock 2))).map fun x => x.2.2.2).getD false = true ∨
      ((s.part (cmdPart s.mboxBlock)).evict.filter fun e => e.2.2.1 || e.2.2.2.2).length < 2 ^ 20)
    {c : Chain} {v w y : State} {pa : Nat} {plain : List Byte} {box : List Byte × List Byte}
    (hchain : s.readChain (cmdPart s.mboxBlock) (w64 (wordAt s.mboxBlock 1)) = (some c, v))
    (hframe : v.frameOf (cmdPart s.mboxBlock) (va56 (w64 (wordAt s.mboxBlock 2)).toNat) big = (some pa, w))
    (hread : (w.releaseAll (s.part (cmdPart s.mboxBlock))).physRead (pa % 2 ^ 40) (pageSize big) = (plain, y))
    {head : List DWord} (hhead : blobHead (cmdPart s.mboxBlock) (effFDOM ((c.links.head?.map (·.cfg)).getD 0)) big (w64 (wordAt s.mboxBlock 2))
      ((s.part (cmdPart s.mboxBlock)).nextVersion (w64 (wordAt s.mboxBlock 2))) (y.part (cmdPart s.mboxBlock)).nonce = head)
    (hseal : Config.gcmSeal (y.part (cmdPart s.mboxBlock)).ctxKey (leBytes 12 (y.part (cmdPart s.mboxBlock)).nonce) (Machine.wordBytes head)
      plain = box) :
    exec .pageExport s = .next ((y.pageOut (cmdPart s.mboxBlock) (w64 (wordAt s.mboxBlock 2))
      ((s.part (cmdPart s.mboxBlock)).nextVersion (w64 (wordAt s.mboxBlock 2))) (effFDOM ((c.links.head?.map (·.cfg)).getD 0))
      (wordAt s.mboxBlock 4) (Machine.wordBytes head ++ fitBytes 16 box.2 ++ List.replicate 8 0 ++ fitBytes (pageSize big) box.1)).endCommand 0) := by
  obtain ⟨cipher, tag⟩ := box
  refine command_ends (on := onPageExport) rfl rfl hbusy hlink hready hcode hops ?_
  rw [hbig]
  refine (if_neg ?_).trans ((if_neg ?_).trans ((if_neg ?_).trans ?_))
  · rw [w64_wordAt, hcan, show wordAt s.mboxBlock 2 % (if big = true then 2 ^ 21 else 2 ^ 16) = 0 from halign]
    simp
    omega
  · rw [hquar]
    simp
  · rintro ⟨hfull, hout⟩
    obtain hin | hfew := hroom
    · rw [hin] at hout
      cases hout
    · exact absurd (of_decide_eq_true hfull) (Nat.not_le.mpr hfew)
  · rw [hchain]
    dsimp only
    rw [hframe]
    unfold State.releaseAll pageSize at hread
    dsimp only
    rw [hread]
    dsimp only
    unfold Part.nextVersion at hhead
    rw [hhead, hseal]
    rfl

end

section
variable (hcode : cmdCode s.mboxBlock = 5) (hops : operandsOnly s.mboxBlock true [(1, 39, 0), (2, 45, 0)] = true)
include hcode hops

theorem pageImport_outside (hfar : s.populated < wordAt s.mboxBlock 1) : exec .pageImport s = .next (s.endCommand 0xFFFF) := by
  refine command_ends (on := onPageImport) rfl rfl hbusy hlink hready hcode hops (if_pos ?_)
  generalize (if (bits (wordAt (dwords 8 (rdBytes s.hostMem (wordAt s.mboxBlock 2) 64)) 0) 35 34 == 1) = true then 2 ^ 21 else 2 ^ 16) = size
  by_cases halign : wordAt s.mboxBlock 1 % size = 0
  · refine .inr ?_
    rw [Nat.div_mul_cancel (Nat.dvd_of_mod_eq_zero halign)]
    omega
  · exact .inl halign

theorem pageImport_ends {h : Nat → Nat} (hh : s.blobWord (wordAt s.mboxBlock 2) = h) {size : Nat} (hsize : pageSize (bits (h 0) 35 34 == 1) = size)
    (halign : wordAt s.mboxBlock 1 % size = 0) (hmem : wordAt s.mboxBlock 1 + size ≤ s.populated)
    (hform : bits (h 0) 63 48 = 1) (hpart : bits (h 0) 47 44 = cmdPart s.mboxBlock) (hkind : bits (h 0) 35 34 < 2)
    (hzero : bits (h 0) 33 0 = 0) (hver : bits (h 2) 31 0 = 0) (hnonce : bits (h 4) 63 32 = 0) (hlast : h 7 = 0)
    {opened : Option (List Byte)} {old : Option (Nat × Bool × Nat × Bool)} (hold : (s.part (cmdPart s.mboxBlock)).evicted (w64 (h 1)) = old)
    (hopen : Config.gcmOpen (s.part (cmdPart s.mboxBlock)).ctxKey (leBytes 12 (h 3 + bits (h 4) 31 0 * 2 ^ 64))
      ((rdBytes s.hostMem (wordAt s.mboxBlock 2) 64).take 40) (rdBytes s.hostMem (wordAt s.mboxBlock 2 + 64) (size))
      (((rdBytes s.hostMem (wordAt s.mboxBlock 2) 64).drop 40).take 16) = opened) :
    exec .pageImport s = .next
      ((s.pageIn (cmdPart s.mboxBlock) (wordAt s.mboxBlock 1) (size) (w64 (h 1)) (bits (h 2) 63 32) (bits (h 0) 43 36) opened old).1.endCommand
        (s.pageIn (cmdPart s.mboxBlock) (wordAt s.mboxBlock 1) (size) (w64 (h 1)) (bits (h 2) 63 32) (bits (h 0) 43 36) opened old).2) := by
  have hgood : (bits (h 0) 63 48 == 1 && bits (h 0) 47 44 == cmdPart s.mboxBlock && decide (bits (h 0) 35 34 < 2) && bits (h 0) 33 0 == 0 &&
      bits (h 2) 31 0 == 0 && bits (h 4) 63 32 == 0 && h 7 == 0) = true := by
    rw [hform, hpart, decide_eq_true hkind, hzero, hver, hnonce, hlast]
    simp
  have htarget : wordAt s.mboxBlock 1 / size * size = wordAt s.mboxBlock 1 :=
    Nat.div_mul_cancel (Nat.dvd_of_mod_eq_zero halign)
  have hword (i : Nat) : wordAt (dwords 8 (rdBytes s.hostMem (wordAt s.mboxBlock 2) 64)) i = h i := congrFun hh i
  unfold pageSize at hsize
  refine command_ends (on := onPageImport) rfl rfl hbusy hlink hready hcode hops (Eq.trans ?_ Prod.mk.eta.symm)
  simp only [hword, hsize, htarget]
  refine (if_neg (by omega)).trans ?_
  rw [← hold]
  exact congrArg (fun o => s.pageIn (cmdPart s.mboxBlock) (wordAt s.mboxBlock 1) _ _ _ _ o _) ((if_pos hgood).trans hopen)

end

end

end

/-- Settles O59: `command_clauses` says what every command has in common, and a command with its operands as they may be ends with what
its own effect gives (`command_ends`). -/
theorem managementCommandsEnd : Obligations.ManagementCommandsEnd := by
  unfold Obligations.ManagementCommandsEnd
  intro s ws k ends codes hbusy hlink
  refine ⟨fun x hx hcode => ?_, fun hcode hready => ?_, fun hcode hready => ?_, fun hready => ⟨fun hcode hops => ?_, fun hcode hops => ⟨?_, ?_⟩,
    fun hcode hops => ⟨fun hkey => ?_, fun hkey => weightKey_keyed hbusy hlink hready hcode hops hkey⟩, fun hcode hops => ⟨?_, ?_⟩,
    fun hcode hops => ⟨?_, ?_⟩, fun hcode hops => ⟨?_, ?_⟩, fun hcode hops => ⟨?_, ?_⟩, attestation_reports hbusy hlink hready,
    certificateRead_writes hbusy hlink hready, faultRecordRead_writes hbusy hlink hready, fun hcode hops =>
      ⟨collectiveGroup_refused hbusy hlink hready hcode hops, collectiveGroup_sets hbusy hlink hready hcode hops⟩⟩⟩
  · have hall : ∀ x ∈ codes, cmdCode s.mboxBlock = x.2 → s.commandClauses x.1 x.2 := by
      simp only [codes, List.forall_mem_cons, List.not_mem_nil, false_imp_iff, implies_true, and_true]
      exact ⟨partitionRelease_clauses hbusy hlink, keyExchange_clauses hbusy hlink, weightKey_clauses hbusy hlink, pageExport_clauses hbusy hlink,
        pageImport_clauses hbusy hlink, sealedTransferIn_clauses hbusy hlink, sealedTransferOut_clauses hbusy hlink,
        attestation_clauses hbusy hlink, certificateRead_clauses hbusy hlink, faultRecordRead_clauses hbusy hlink,
        collectiveGroup_clauses hbusy hlink⟩
    exact hall x hx hcode
  · exact (unknownCommand_ends hbusy hlink hcode).trans (congrArg Host.Outcome.next (if_pos hready))
  · exact (unknownCommand_ends hbusy hlink hcode).trans (congrArg Host.Outcome.next (if_neg (by rw [hready]; simp)))
  · intro ranges
    exact ⟨partitionRelease_overlap hbusy hlink hready hcode hops, partitionRelease_bad hbusy hlink hready hcode hops,
      partitionRelease_releases hbusy hlink hready hcode hops⟩
  · exact keyExchange_refused hbusy hlink hready hcode hops
  · intro hset hfirst hreport p ss key
    obtain ⟨hexchanged, hkeys⟩ := updateLevel_exchange s k ss
    exact ⟨_, exec_keyExchange hbusy hlink hready hcode hops hset hfirst hreport, ⟨rfl, rfl⟩, hexchanged, hkeys⟩
  · exact ⟨_, weightKey_unkeyed hbusy hlink hready hcode hops hkey, ⟨rfl, rfl⟩, (congrArg State.mem (recordFault_rest ..) :),
      (congrArg State.parts (recordFault_rest ..) :)⟩
  · exact pageExport_address hbusy hlink hready hcode hops
  · intro page big size p old hsmall hcan halign hquar hroom c v pa w hchain hframe fdom cores x version head sealed_
    have hread : (w.releaseAll p).physRead (pa % 2 ^ 40) (pageSize big) = x := rfl
    have hhead : blobHead k fdom big page (p.nextVersion page) (x.2.part k).nonce = head := rfl
    have hseal : Config.gcmSeal (x.2.part k).ctxKey (leBytes 12 (x.2.part k).nonce) (Machine.wordBytes head) x.1 = sealed_ := rfl
    clear_value sealed_ head x
    obtain ⟨hout, hnonce⟩ := pageOut_part x.2 k page version fdom (wordAt ws 4)
      (Machine.wordBytes head ++ fitBytes 16 sealed_.2 ++ List.replicate 8 0 ++ fitBytes size sealed_.1)
    exact ⟨_, pageExport_exports hbusy hlink hready hcode hops rfl hsmall hcan halign hquar hroom hchain hframe hread hhead hseal, ⟨rfl, rfl⟩, hout,
      hnonce, rfl, rfl⟩
  · exact pageImport_outside hbusy hlink hready hcode hops
  · intro hb h big size page fails halign hmem hform hpart hkind hzero hver hnonce hlast
    obtain ⟨opened, hopen⟩ : ∃ o, Config.gcmOpen (s.part k).ctxKey (leBytes 12 (h 3 + bits (h 4) 31 0 * 2 ^ 64)) (hb.take 40)
      (rdBytes s.hostMem (wordAt ws 2 + 64) size) ((hb.drop 40).take 16) = o := ⟨_, rfl⟩
    obtain ⟨old, hold⟩ : ∃ o, (s.part k).evicted page = o := ⟨_, rfl⟩
    have hexec := pageImport_ends hbusy hlink hready hcode hops (h := h) rfl (size := size) rfl halign hmem hform hpart hkind hzero hver
      hnonce hlast hold hopen
    rw [hopen, hold]
    clear_value size
    rw [pageIn_ends] at hexec
    cases opened with
    | none => exact hexec
    | some plain =>
      cases old with
      | none => exact hexec
      | some x => exact hexec
  · exact sealedTransferIn_unkeyed hbusy hlink hready hcode hops
  · intro pa b hkey hplace
    exact sealedTransferIn_writes hbusy hlink hready hcode hops hkey hplace
  · exact sealedTransferOut_unkeyed hbusy hlink hready hcode hops
  · exact sealedTransferOut_sends hbusy hlink hready hcode hops

end Sys2Proof.Machine
end

section
/-! Islands, energy, droop, telemetry and shedding (18 R423 to R440). -/

namespace Sys2Proof.Machine

section
variable {s : State}

/-! Islands (18 R423, R427). -/

theorem railSwitchDone_switches (h : (s.cluster s.ev.n0).island = .switching) :
    exec .railSwitchDone s = .next (s.setCluster s.ev.n0
      { s.cluster s.ev.n0 with island := .running, railNow := bitOf (s.cluster s.ev.n0).islctl.toNat 0, maskTill := s.now + 20 }) := by
  refine event_next (f := onRailSwitchDone) ?_
  unfold onRailSwitchDone
  exact if_neg (fun hne => hne h)

theorem islandWakeDone_wakes (h : (s.cluster s.ev.n0).island = .waking) :
    exec .islandWakeDone s = .next (s.setCluster s.ev.n0
      { s.cluster s.ev.n0 with island := .running, railNow := bitOf (s.cluster s.ev.n0).islctl.toNat 0, emptyAt := s.now }) := by
  refine event_next (f := onIslandWakeDone) ?_
  unfold onIslandWakeDone
  exact if_neg (fun hne => hne h)

theorem islandWakeStart_starts {cl : Nat} (hfind : s.wakeQ.find? (fun c => c / 16 == s.ev.n0) = some cl)
    (hoff : (s.cluster cl).island = .off)
    (hbusy : (s.clusters.filter fun c => c.1 / 16 == s.ev.n0 && c.2.island == .waking).length < 4) :
    ∃ t, exec .islandWakeStart s = .next t ∧ (t.cluster cl).island = .waking ∧ t.wakeQ = s.wakeQ.filter (· != cl) ∧
      t.streams = s.streams := by
  refine ⟨({ s with wakeQ := s.wakeQ.filter (· != cl) } : State).updCluster cl fun c =>
    { c with island := if c.island = .off then .waking else c.island }, event_next (f := onIslandWakeStart) ?_, ?_, rfl, rfl⟩
  · unfold onIslandWakeStart
    rw [hfind]
    exact if_neg (by omega)
  · rw [cluster_updCluster]
    exact if_pos hoff

/-- What stands in the caches of the cores of a state is all that may differ. -/
def State.sameCores (s t : State) : Prop := ∀ k, (t.core k).lessL1 = (s.core k).lessL1

theorem cleanSector_core_other (s : State) {k : Nat} (core sec : Nat) (hk : k ≠ core) :
    (s.cleanSector core sec).core k = s.core k := by
  unfold State.cleanSector
  split
  · rfl
  · split
    · exact (State.core_setCore_other _ _ hk).trans (core_writeCoh ..)
    · rfl

theorem State.sameCores.dropSector {t : State} (h : s.sameCores t) (core sec : Nat) : s.sameCores (t.dropSector core sec) := by
  intro k
  by_cases hk : k = core
  · rw [hk]; exact (dropSector_lessL1 ..).trans (h core)
  · have hkeep : (t.dropSector core sec).core k = t.core k :=
      (State.core_setCore_other _ _ hk).trans (cleanSector_core_other t core sec hk)
    rw [hkeep]; exact h k

/-- The sectors that cores hold are written back and dropped. -/
def State.emptyL1s (s : State) (cores : List Nat) : State :=
  cores.foldl (fun s k => ((s.core k).l1.map Prod.fst).foldl (fun s x => s.dropSector k x) s) s

theorem emptyL1s_step (s : State) (cores : List Nat) : CacheStep s (s.emptyL1s cores) :=
  CacheStep.foldl (.refl s) (fun _ k hu => hu.foldl (fun _ x hv => hv.dropSector k x) _) cores

theorem emptyL1s_sameCores (s : State) (cores : List Nat) : s.sameCores (s.emptyL1s cores) :=
  foldl_keeps (P := s.sameCores) (fun _ k hu => foldl_keeps (P := s.sameCores) (fun _ x hv => hv.dropSector k x) hu _)
    (fun _ => rfl) cores

/-- The cores lose their frames. -/
def State.dropFrames (s : State) (cores : List Nat) : State :=
  cores.foldl (fun s k => s.updCore k fun x => { x with frames := [] }) s

theorem dropFrames_tlb (s : State) (cores : List Nat) (k : Nat) : ((s.dropFrames cores).core k).tlb = (s.core k).tlb := by
  refine foldl_proj (fun u : State => (u.core k).tlb) (fun u b => ?_) cores s
  by_cases hk : k = b
  · rw [hk]; exact (congrArg Core.tlb (State.core_setCore u b { u.core b with frames := [] }) :)
  · exact (congrArg Core.tlb (State.core_setCore_other u { u.core b with frames := [] } hk) :)

theorem dropFrames_drops (s : State) {cores : List Nat} {k : Nat} (hk : k ∈ cores) : ((s.dropFrames cores).core k).frames = [] := by
  refine foldl_brings (P := fun k u => (State.core u k).frames = []) (fun u b => ?_) (fun u b c hb => ?_) s cores k hk
  · exact congrArg Core.frames (State.core_setCore ..)
  · by_cases hc : b = c
    · rw [hc]; exact congrArg Core.frames (State.core_setCore ..)
    · exact (congrArg Core.frames (State.core_setCore_other _ _ hc)).trans hb

theorem dropFrames_rest (s : State) (cores : List Nat) :
    ((s.dropFrames cores).streams, (s.dropFrames cores).gangs, (s.dropFrames cores).retired) = (s.streams, s.gangs, s.retired) :=
  foldl_proj (f := fun (s : State) k => s.updCore k fun x => { x with frames := [] })
    (fun u : State => (u.streams, u.gangs, u.retired)) (fun _ _ => rfl) cores s

theorem islandPowerDown_powersDown (hcl : s.ev.n0 < 64) (hgone : ∀ p ∈ s.gangs, clusterOf p.2.core ≠ s.ev.n0)
    (hpden : bitOf (s.cluster s.ev.n0).islctl.toNat 1 = true) (hlong : (s.cluster s.ev.n0).emptyAt + 100000 ≤ s.now)
    (hstate : (s.cluster s.ev.n0).island = .running ∨ (s.cluster s.ev.n0).island = .retention) (hret : s.isRetired s.ev.n0 = false) :
    ∃ t, exec .islandPowerDown s = .next t ∧ (t.cluster s.ev.n0).island = .off ∧
      (∀ j, j < 4 → (t.core (4 * s.ev.n0 + j)).frames = [] ∧ (t.core (4 * s.ev.n0 + j)).tlb = (s.core (4 * s.ev.n0 + j)).tlb) ∧
      t.streams = s.streams ∧ t.gangs = s.gangs := by
  obtain ⟨cores, hcores⟩ : ∃ l, (List.range 4).map (4 * s.ev.n0 + ·) = l := ⟨_, rfl⟩
  have hany : (s.gangs.any fun p => clusterOf p.2.core == s.ev.n0) = false := by
    simpa using fun a b h => hgone (a, b) h
  have hstep := emptyL1s_step s cores
  obtain ⟨hstreams, hgangs, hretired⟩ : ((s.emptyL1s cores).dropFrames cores).streams = s.streams ∧
      ((s.emptyL1s cores).dropFrames cores).gangs = s.gangs ∧ ((s.emptyL1s cores).dropFrames cores).retired = s.retired := by
    have h := dropFrames_rest (s.emptyL1s cores) cores
    simp only [Prod.mk.injEq] at h
    obtain ⟨h1, h2, h3⟩ := h
    exact ⟨h1.trans hstep.streams, h2.trans hstep.gangs, h3.trans (congrArg State.retired hstep.rest :)⟩
  refine ⟨((s.emptyL1s cores).dropFrames cores).updCluster s.ev.n0 fun c =>
      { c with
        island := if ((s.emptyL1s cores).dropFrames cores).isRetired s.ev.n0 then .retired else .off
        droop := .none, phase := 0, length := 0 },
    event_next (f := onIslandPowerDown) ?_, ?_, fun j hj => ⟨?_, ?_⟩, hstreams, hgangs⟩
  · unfold onIslandPowerDown
    dsimp only
    rw [hcores]
    refine if_neg ?_
    simp [hstate, hlong, hcl, hany, hret, hpden]
  · rw [cluster_updCluster]
    refine if_neg ?_
    unfold State.isRetired at hret ⊢
    rw [hretired, hret]
    exact Bool.false_ne_true
  · exact dropFrames_drops _ (hcores ▸ List.mem_map.mpr ⟨j, List.mem_range.mpr hj, rfl⟩)
  · exact (dropFrames_tlb _ cores _).trans (congrArg Core.tlb (emptyL1s_sameCores s cores _) :)

/-! Energy, and the strikes of a millisecond (18 R432, 16 R399). -/

theorem Tab.mem_of_found {α : Type} {k : Nat} {a : α} {t : Tab α} (h : Tab.find k t = some a) : (k, a) ∈ t := by
  induction t with
  | nil => cases h
  | cons p t ih =>
    obtain ⟨j, b⟩ := p
    by_cases hj : j = k
    · rw [Tab.find, if_pos hj] at h
      obtain rfl := Option.some.inj h
      exact hj ▸ List.mem_cons_self
    · rw [Tab.find, if_neg hj] at h
      exact List.mem_cons_of_mem _ (ih h)

/-- The charges so far as the instances show them. -/
def Node.showEnergy (x : Node) : Node := { x with energyMj := wholeMj x.energyPj }

theorem takeCharges_takes (s : State) (ms : Nat) : (s.takeCharges ms).energyMs = ms ∧ (s.takeCharges ms).streams = s.streams ∧
    (s.takeCharges ms).gangs = s.gangs ∧ (s.takeCharges ms).nodes = Tab.mapVals (fun _ x => x.showEnergy) s.nodes ∧
    (s.takeCharges ms).clusters = s.clusters := by
  unfold State.takeCharges
  dsimp only
  generalize hu : ({ s with energyMs := ms, nodes := _, parts := _ } : State) = u
  have hstep := CacheStep.foldl (.refl u) (fun _ (p : Nat × Part) hv =>
    hv.foldl (fun _ (x : RcbUse) hw => hw.trans (rcbPut_step _ p.1 x 5 x.shown)) p.2.rcbs) u.parts
  subst hu
  exact ⟨(congrArg State.energyMs hstep.rest :), hstep.streams, hstep.gangs, hstep.nodes, hstep.clusters⟩

theorem logStrikes_rest (s : State) (cl : Nat) :
    ((s.logStrikes cl).energyMs, (s.logStrikes cl).streams, (s.logStrikes cl).gangs, (s.logStrikes cl).nodes) =
      (s.energyMs, s.streams, s.gangs, s.nodes) :=
  (congrArg (fun u : State => (u.energyMs, u.streams, u.gangs, u.nodes))
    (recordFault_rest s 0 (s.ownerOf cl) 7 0 0 0 (4 * cl * 2 ^ 56) 0 0 0 (s.cluster cl).strikes true) :)

theorem logStrikes_strikes (s : State) (cl k : Nat) :
    ((s.logStrikes cl).cluster k).strikes = if k = cl then 0 else (s.cluster k).strikes := by
  unfold State.logStrikes
  have hkeep : (s.recordFault 0 (s.ownerOf cl) 7 0 0 0 (4 * cl * 2 ^ 56) 0 0 0 (s.cluster cl).strikes true).cluster k = s.cluster k :=
    cluster_of_clusters (congrArg State.clusters (recordFault_rest ..) :) k
  by_cases hk : k = cl
  · rw [if_pos hk, hk, cluster_updCluster]
  · rw [if_neg hk, ← hkeep]
    exact congrArg Cluster.strikes (State.cluster_setCluster_other _ _ hk)

theorem foldl_logStrikes_strikes (hit : List Nat) (s : State) (k : Nat) :
    ((hit.foldl State.logStrikes s).cluster k).strikes = if k ∈ hit then 0 else (s.cluster k).strikes := by
  induction hit generalizing s with
  | nil => rfl
  | cons cl hit ih =>
    rw [List.foldl_cons, ih, logStrikes_strikes]
    by_cases hk : k ∈ hit <;> by_cases hc : k = cl <;> simp [hk, hc]

theorem strikes_of_unhit {k : Nat} (h : k ∉ (s.clusters.filter fun c => c.2.strikes != 0).map Prod.fst) : (s.cluster k).strikes = 0 := by
  unfold State.cluster Tab.get
  cases hfind : Tab.find k s.clusters with
  | none => rfl
  | some c =>
    by_contra hne
    exact h (List.mem_map.mpr ⟨(k, c), List.mem_filter.mpr ⟨Tab.mem_of_found hfind, by simpa using hne⟩, rfl⟩)

theorem energyUpdate_updates (hms : s.energyMs < s.now / 1000000) :
    ∃ t, exec .energyUpdate s = .next t ∧ t.energyMs = s.now / 1000000 ∧ t.streams = s.streams ∧ t.gangs = s.gangs ∧
      (∀ n x, Tab.find n s.nodes = some x → (t.node n).energyMj = wholeMj x.energyPj) ∧ ∀ k, (t.cluster k).strikes = 0 := by
  let hit := (s.clusters.filter fun c => c.2.strikes != 0).map Prod.fst
  obtain ⟨hshown, hstreams, hgangs, hnodes, hclusters⟩ := takeCharges_takes s (s.now / 1000000)
  have hrest := foldl_proj (fun u : State => (u.energyMs, u.streams, u.gangs, u.nodes)) (fun u cl => logStrikes_rest u cl) hit
    (s.takeCharges (s.now / 1000000))
  simp only [Prod.mk.injEq] at hrest
  obtain ⟨hshown', hstreams', hgangs', hnodes'⟩ := hrest
  refine ⟨hit.foldl State.logStrikes (s.takeCharges (s.now / 1000000)), event_next (f := onEnergyUpdate) ?_, hshown'.trans hshown,
    hstreams'.trans hstreams, hgangs'.trans hgangs, fun n x hx => ?_, fun k => ?_⟩
  · exact if_neg (by omega)
  · unfold State.node Tab.get
    rw [hnodes', hnodes, Tab.find_mapVals, hx]
    rfl
  · rw [foldl_logStrikes_strikes, cluster_of_clusters hclusters k]
    split
    · rfl
    · next hk => exact strikes_of_unhit hk

/-! Droop (18 R429, R430). -/

theorem droopTrip_trips (hcl : s.ev.n0 < 64) (harmed : bitOf (s.cluster s.ev.n0).droopctl.toNat 31 = true)
    (hstate : (s.cluster s.ev.n0).island = .running ∨ (s.cluster s.ev.n0).island = .retention)
    (hmask : (s.cluster s.ev.n0).maskTill ≤ s.now) (hfall : 2 * bits (s.cluster s.ev.n0).droopctl.toNat 7 0 < s.ev.n1) :
    exec .droopTrip s = .next (s.setCluster s.ev.n0
      { s.cluster s.ev.n0 with droopcnt := (s.cluster s.ev.n0).droopcnt + 1, droop := .tripped }) := by
  refine event_next (f := onDroopTrip) ?_
  unfold onDroopTrip
  refine if_neg ?_
  simp only [harmed, hstate]
  simp
  omega

theorem droopStretchEnd_ends (h : (s.cluster s.ev.n0).droop = .stretch 0) :
    exec .droopStretchEnd s = .next (s.setCluster s.ev.n0 { s.cluster s.ev.n0 with droop := (s.cluster s.ev.n0).halving }) := by
  refine event_next (f := onDroopStretchEnd) ?_
  unfold onDroopStretchEnd
  dsimp only
  split
  · rfl
  · next hne => exact absurd h hne

theorem droopHalveEnd_ends {n : Nat} (h : (s.cluster s.ev.n0).droop = .halve n) (hn : bits (s.cluster s.ev.n0).droopctl.toNat 23 16 ≤ n) :
    exec .droopHalveEnd s = .next (s.setCluster s.ev.n0 { s.cluster s.ev.n0 with droop := .none }) := by
  refine event_next (f := onDroopHalveEnd) ?_
  unfold onDroopHalveEnd
  dsimp only
  split
  · next m hm =>
    obtain rfl : n = m := Droop.halve.inj (h.symm.trans hm)
    exact if_neg (Nat.not_lt.mpr hn)
  · next hne => exact absurd h (hne n)

end

section
variable {c : Cluster}

/-- What the start of a cycle makes of a response in progress. -/
theorem startCycle_droop : c.startCycle.droop = match c.droop with
    | .tripped => c.stretching
    | .stretch 0 => c.halving
    | .halve n => if c.halve ≤ n then .none else .halve n
    | d => d := rfl

theorem startCycle_length_stretch {m : Nat} (h : c.startCycle.droop = .stretch m) : c.startCycle.length = c.period * 3 / 2 := by
  unfold Cluster.startCycle at h ⊢
  dsimp only at h ⊢
  rw [h]
  rfl

theorem startCycle_length_halve {m : Nat} (h : c.startCycle.droop = .halve m) : c.startCycle.length = c.period := by
  unfold Cluster.startCycle at h ⊢
  dsimp only at h ⊢
  rw [h]
  rfl

theorem startCycle_tripped (h : c.droop = .tripped) (hn : bits c.droopctl.toNat 15 12 ≠ 0) :
    c.startCycle.droop = .stretch (bits c.droopctl.toNat 15 12) := by
  rw [startCycle_droop, h]
  exact if_neg hn

theorem startCycle_stretch {m : Nat} (h : c.droop = .stretch m) (hm : 0 < m) : c.startCycle.droop = .stretch m := by
  obtain ⟨k, rfl⟩ := Nat.exists_eq_succ_of_ne_zero hm.ne'
  rw [startCycle_droop, h]
  rfl

theorem startCycle_halving (h : c.droop = .stretch 0 ∨ c.droop = .tripped ∧ bits c.droopctl.toNat 15 12 = 0)
    (hh : bits c.droopctl.toNat 23 16 ≠ 0) : c.startCycle.droop = .halve 0 := by
  have hhalving : c.halving = .halve 0 := if_neg hh
  rw [startCycle_droop]
  obtain h | ⟨h, hn⟩ := h
  · rw [h]; exact hhalving
  · rw [h]; exact (if_pos hn).trans hhalving

theorem startCycle_halve {m : Nat} (h : c.droop = .halve m) :
    c.startCycle.droop = if bits c.droopctl.toNat 23 16 ≤ m then .none else .halve m := by
  rw [startCycle_droop, h]
  rfl

theorem endCycle_stretch {m : Nat} (h : c.droop = .stretch m) (hm : 0 < m) : c.endCycle.droop = .stretch (m - 1) := by
  obtain ⟨k, rfl⟩ := Nat.exists_eq_succ_of_ne_zero hm.ne'
  unfold Cluster.endCycle
  rw [h]
  rfl

theorem endCycle_halve {m : Nat} (h : c.droop = .halve m) : c.endCycle.droop = .halve (m + 1) := by
  unfold Cluster.endCycle
  rw [h]

theorem issues_halve {m : Nat} (h : c.droop = .halve m) (hm : m < bits c.droopctl.toNat 23 16) : c.issues = true ↔ m % 2 = 0 := by
  have hlt : ¬ c.halve ≤ m := Nat.not_le.mpr hm
  unfold Cluster.issues
  rw [h]
  simp [hlt]

theorem droop_cycles :
    let n := bits c.droopctl.toNat 15 12
    let h := bits c.droopctl.toNat 23 16
    (c.droop = .tripped → n ≠ 0 → c.startCycle.droop = .stretch n ∧ c.startCycle.length = c.period * 3 / 2) ∧
    (∀ m, c.droop = .stretch m → 0 < m → c.startCycle.droop = .stretch m ∧ c.startCycle.length = c.period * 3 / 2 ∧
      c.endCycle.droop = .stretch (m - 1) ∧ c.endCycle.cycles = c.cycles + 1) ∧
    ((c.droop = .stretch 0 ∨ c.droop = .tripped ∧ n = 0) → h ≠ 0 → c.startCycle.droop = .halve 0 ∧ c.startCycle.length = c.period) ∧
    (∀ m, c.droop = .halve m → (m < h → c.startCycle.droop = .halve m ∧ c.startCycle.length = c.period ∧
      c.endCycle.droop = .halve (m + 1) ∧ (c.issues = true ↔ m % 2 = 0)) ∧ (h ≤ m → c.startCycle.droop = .none)) := by
  intro n h
  refine ⟨fun htrip hn => ?_, fun m hdroop hm => ?_, fun hdroop hh => ?_, fun m hdroop => ⟨fun hm => ?_, fun hm => ?_⟩⟩
  · have hstart := startCycle_tripped htrip hn
    exact ⟨hstart, startCycle_length_stretch hstart⟩
  · have hstart := startCycle_stretch hdroop hm
    exact ⟨hstart, startCycle_length_stretch hstart, endCycle_stretch hdroop hm, rfl⟩
  · have hstart := startCycle_halving hdroop hh
    exact ⟨hstart, startCycle_length_halve hstart⟩
  · have hstart := (startCycle_halve hdroop).trans (if_neg (Nat.not_le.mpr hm))
    exact ⟨hstart, startCycle_length_halve hstart, endCycle_halve hdroop, issues_halve hdroop hm⟩
  · exact (startCycle_halve hdroop).trans (if_pos hm)

end

section
variable {s : State}

/-! Telemetry (18 R433 to R437). -/

/-- What a change of a partition's level leaves: the telemetry, streams and gangs. -/
theorem updateLevel_rest (s : State) (k : Nat) :
    ((s.updateLevel k).telstat0, (s.updateLevel k).telstat1, (s.updateLevel k).shedEff, (s.updateLevel k).frameAt,
      (s.updateLevel k).streams, (s.updateLevel k).gangs) = (s.telstat0, s.telstat1, s.shedEff, s.frameAt, s.streams, s.gangs) := by
  unfold State.updateLevel
  dsimp only
  split
  · rfl
  · split <;> rfl

/-- The telemetry of a state, with its streams and gangs. -/
def State.shelf (s : State) : Word × Word × Nat × Tab Stream × Tab Gang := (s.telstat0, s.shedEff, s.frameAt, s.streams, s.gangs)

theorem updateLevels_rest (s : State) : s.updateLevels.shelf = s.shelf ∧ s.updateLevels.telstat1 = s.telstat1 := by
  unfold State.updateLevels
  refine ⟨foldl_proj State.shelf (fun u k => ?_) _ s, foldl_proj State.telstat1 (fun u k => ?_) _ s⟩
  all_goals
    have h := updateLevel_rest u k
    simp only [Prod.mk.injEq] at h
    obtain ⟨h0, h1, heff, hat, hstreams, hgangs⟩ := h
    simp only [State.shelf, h0, h1, heff, hat, hstreams, hgangs]

theorem setPkgLevel_shelf (s : State) (l : Nat) : (s.setPkgLevel l).shelf = s.shelf := (updateLevels_rest _).1

theorem setPkgLevel_telstat1 (s : State) (l : Nat) : (s.setPkgLevel l).telstat1 = w32 (putBits s.telstat1.toNat 2 0 l) :=
  (updateLevels_rest _).2

theorem setPkgLevel_level (s : State) {l : Nat} (hl : l < 8) : (s.setPkgLevel l).pkgLevel = l := by
  unfold State.pkgLevel
  rw [setPkgLevel_telstat1]
  unfold w32 putBits bits
  rw [BitVec.toNat_ofNat]
  omega

theorem setPkgLevel_failsafe (s : State) (l : Nat) : bitOf (s.setPkgLevel l).telstat1.toNat 7 = bitOf s.telstat1.toNat 7 := by
  rw [setPkgLevel_telstat1]
  unfold w32 putBits bits bitOf
  rw [BitVec.toNat_ofNat]
  congr 1
  omega

theorem follow_shelf (s : State) (target : Nat) : (s.follow target).shelf = s.shelf := by
  unfold State.follow
  dsimp only
  split
  · exact setPkgLevel_shelf ..
  · split
    · split
      · exact setPkgLevel_shelf ..
      · rfl
    · rfl

theorem follow_rises {target : Nat} (h : s.pkgLevel < target) (hlt : target < 8) : (s.follow target).pkgLevel = target := by
  unfold State.follow
  dsimp only
  rw [if_pos h]
  exact setPkgLevel_level _ hlt

theorem telemetryFrame_counts (hfirm : s.noFirmware = false) (hframe : frameValid s.ev.bytes = false) :
    exec .telemetryFrame s = .next { s with
      telstat1 := w32 (putBits s.telstat1.toNat 23 8 ((bits s.telstat1.toNat 23 8 + 1) % 65536)) } := by
  refine event_next (f := onTelemetryFrame) ?_
  unfold onTelemetryFrame
  dsimp only
  rw [hfirm, hframe]
  rfl

/-- TELSTAT1 after a valid frame. -/
def frameStat (st : Word) (seq target : Nat) : Word := w32 (putBits (putBits (putBits st.toNat 31 24 seq) 7 7 0) 5 3 target)

theorem frameStat_level (st : Word) (seq target : Nat) : bits (frameStat st seq target).toNat 2 0 = bits st.toNat 2 0 := by
  unfold frameStat w32 putBits bits
  rw [BitVec.toNat_ofNat]
  omega

theorem telemetryFrame_follows (hfirm : s.noFirmware = false) (hframe : frameValid s.ev.bytes = true) :
    let at_ (i n : Nat) : Nat := leNat ((s.ev.bytes.drop i).take n)
    let target := s.frameTarget (at_ 2 2) (at_ 4 2) (at_ 6 1)
    ∃ t, exec .telemetryFrame s = .next t ∧ t.telstat0 = w32 (at_ 2 2 * 65536 + at_ 4 2) ∧ t.shedEff = s.shedcfg ∧
      t.frameAt = s.now ∧ (s.pkgLevel < target → target < 8 → t.pkgLevel = target) ∧ t.streams = s.streams ∧ t.gangs = s.gangs := by
  intro at_ target
  let u : State := { s with
    telstat0 := w32 (at_ 2 2 * 65536 + at_ 4 2), telstat1 := frameStat s.telstat1 (at_ 1 1) target, shedEff := s.shedcfg,
    frameAt := s.now }
  have hshelf := follow_shelf u target
  simp only [State.shelf, Prod.mk.injEq] at hshelf
  obtain ⟨h0, heff, hat, hstreams, hgangs⟩ := hshelf
  refine ⟨u.follow target, event_next (f := onTelemetryFrame) ?_, h0, heff, hat, fun hrise hlt => ?_, hstreams, hgangs⟩
  · unfold onTelemetryFrame
    dsimp only
    rw [hfirm, hframe]
    rfl
  · refine follow_rises ?_ hlt
    show bits u.telstat1.toNat 2 0 < target
    exact (frameStat_level ..).symm ▸ hrise

/-- TELSTAT1 once the fail-safe is entered. -/
def failsafeStat (st : Word) (level : Nat) : Word := w32 (putBits (putBits st.toNat 7 7 1) 5 3 level)

theorem failsafeStat_level (st : Word) (level : Nat) : bits (failsafeStat st level).toNat 2 0 = bits st.toNat 2 0 := by
  unfold failsafeStat w32 putBits bits
  rw [BitVec.toNat_ofNat]
  omega

theorem failsafeStat_failsafe (st : Word) (level : Nat) : bitOf (failsafeStat st level).toNat 7 = true := by
  unfold failsafeStat w32 putBits bits bitOf
  rw [BitVec.toNat_ofNat, beq_iff_eq]
  omega

theorem telemetryFailsafe_enters (hfirm : s.noFirmware = false) (hout : bitOf s.telstat1.toNat 7 = false)
    (hlate : s.frameAt + 50000 * bits s.shedEff.toNat 15 8 ≤ s.now) :
    ∃ t, exec .telemetryFailsafe s = .next t ∧ bitOf t.telstat1.toNat 7 = true ∧
      t.frameAt = s.frameAt + 50000 * bits s.shedEff.toNat 15 8 ∧
      (s.pkgLevel < bits s.shedEff.toNat 2 0 → t.pkgLevel = bits s.shedEff.toNat 2 0) ∧ t.streams = s.streams := by
  let level := bits s.shedEff.toNat 2 0
  let u : State := { s with
    telstat1 := failsafeStat s.telstat1 level, frameAt := s.frameAt + 50000 * bits s.shedEff.toNat 15 8 }
  have hexec : exec .telemetryFailsafe s = .next (if u.pkgLevel < level then ({ u with hyst := 0 } : State).setPkgLevel level
      else if level < u.pkgLevel then u else { u with hyst := 0 }) := by
    refine event_next (f := onTelemetryFailsafe) ?_
    unfold onTelemetryFailsafe
    refine if_neg ?_
    simp [hfirm, hout, hlate]
  have hlevel : u.pkgLevel = s.pkgLevel := failsafeStat_level ..
  refine ⟨_, hexec, ?_⟩
  by_cases hrise : u.pkgLevel < level
  · rw [if_pos hrise]
    have hshelf := setPkgLevel_shelf { u with hyst := 0 } level
    simp only [State.shelf, Prod.mk.injEq] at hshelf
    obtain ⟨-, -, hat, hstreams, -⟩ := hshelf
    have hlt : level < 8 := Nat.mod_lt _ (by decide)
    exact ⟨(setPkgLevel_failsafe ..).trans (failsafeStat_failsafe ..), hat, fun _ => setPkgLevel_level _ hlt, hstreams⟩
  · rw [if_neg hrise]
    have hno : ¬ s.pkgLevel < level := hlevel ▸ hrise
    split <;> exact ⟨failsafeStat_failsafe .., rfl, fun h => absurd h hno, rfl⟩

theorem failSafeFrameTime_follows (hfirm : s.noFirmware = false) (hin : bitOf s.telstat1.toNat 7 = true) (hlate : s.frameAt + 50000 ≤ s.now) :
    exec .failSafeFrameTime s = .next ({ s with frameAt := s.frameAt + 50000 }.follow (bits s.shedEff.toNat 2 0)) := by
  refine event_next (f := onFailSafeFrameTime) ?_
  unfold onFailSafeFrameTime
  refine if_neg ?_
  simp [hfirm, hin, hlate]

/-! Shedding (18 R439). -/

theorem shedBelow_holds (s : State) (part level : Nat) {g : Nat} {x : Gang} (hfind : Tab.find g s.gangs = some x)
    (hpart : x.part = part) (hlive : x.live = true) (hclass : effCLASS x.effcfg < level) :
    ((s.shedBelow part level).gang g).shedHold = true := by
  unfold State.shedBelow State.gang Tab.get
  dsimp only
  rw [Tab.find_mapVals, hfind]
  dsimp only [Option.map_some, Option.getD_some]
  split
  · rfl
  · next h => simpa [hpart, hlive, hclass] using h

theorem shedLevelApply_applies (hrel : (s.part s.ev.n0).released = true) (hrise : (s.part s.ev.n0).applied < (s.part s.ev.n0).level) :
    ∃ t, exec .shedLevelApply s = .next t ∧ (t.part s.ev.n0).applied = (s.part s.ev.n0).level ∧ t.streams = s.streams ∧
      ∀ g x, Tab.find g s.gangs = some x → x.part = s.ev.n0 → x.live = true → effCLASS x.effcfg < (s.part s.ev.n0).level →
        (t.gang g).shedHold = true := by
  refine ⟨(s.setPart s.ev.n0 { s.part s.ev.n0 with applied := (s.part s.ev.n0).level }).shedBelow s.ev.n0 (s.part s.ev.n0).level,
    event_next (f := onShedLevelApply) ?_, ?_, rfl, fun g x hfind hpart hlive hclass => ?_⟩
  · unfold onShedLevelApply
    dsimp only
    rw [if_neg (by simp [hrel]; omega), if_pos hrise]
  · exact congrArg Part.applied (State.part_setPart ..)
  · exact shedBelow_holds _ _ _ hfind hpart hlive hclass

end

/-- Settles O60, event by event: islands, the energy counters, the droop response, telemetry and shedding. -/
theorem powerEventsHappen : Obligations.PowerEventsHappen := by
  intro s e c
  exact ⟨railSwitchDone_switches, islandPowerDown_powersDown, fun _ => islandWakeStart_starts, islandWakeDone_wakes,
    energyUpdate_updates, droopTrip_trips, droop_cycles, droopStretchEnd_ends, fun _ => droopHalveEnd_ends,
    fun hfirm => ⟨telemetryFrame_counts hfirm, telemetryFrame_follows hfirm⟩, telemetryFailsafe_enters, shedLevelApply_applies,
    failSafeFrameTime_follows⟩

end Sys2Proof.Machine
end

section
/-! What a step runs (05 R121, 13 R315, 18 R424; log entry 1). -/

namespace Sys2Proof.Machine

section
variable {s v : State} {r : Nat} {w : Word} {i : Instr}

/-- A stream that owes no trap and waits for no argument block goes by the word that it fetches. -/
theorem prepare_word (howed : (s.stream r).owed = none) (hargs : ∀ k pa, (s.stream r).wait ≠ some (.args k pa))
    (hfetch : ({ s with cur := some r, stalled := false, consumed := none } : State).fetch r = .word w v) (hdecode : decode w = .ok i)
    (hpark : ¬((v.gangAt r).req = .boundary ∧ Instr.parkPoint i = true ∧ (v.stream r).intrap = false)) :
    s.prepare r = if (({ v with word := w } : State).updStream r fun t => { t with fetched := [] }).rationed r i
      then .stop { s with cur := some r, stalled := true, consumed := none }
      else .run i ((({ v with word := w } : State).updStream r fun t => { t with fetched := [] }).issues r i) := by
  have hpark' : ¬(((({ v with word := w } : State).updStream r fun t => { t with fetched := [] }).gangAt r).req = .boundary ∧
      Instr.parkPoint i = true ∧
      (!((({ v with word := w } : State).updStream r fun t => { t with fetched := [] }).stream r).intrap) = true) := by
    intro ⟨hreq, hpoint, hin⟩
    have hstream : ((({ v with word := w } : State).updStream r fun t => { t with fetched := [] }).stream r).intrap =
        (v.stream r).intrap :=
      (congrArg Stream.intrap (State.stream_setStream { v with word := w } r { v.stream r with fetched := [] }) :)
    rw [hstream] at hin
    exact hpark ⟨hreq, hpoint, by simpa using hin⟩
  unfold State.prepare
  dsimp only
  split
  · next x _ hx => exact absurd (hx.symm.trans howed) (by simp)
  · next k pa _ hx => exact absurd hx (hargs k pa)
  · rw [hfetch]
    dsimp only
    rw [hdecode]
    exact if_neg hpark'

theorem step_run {t : State} (hturn : s.tick.turn = .stream r) (h : s.tick.prepare r = .run i t) : step s = settled (exec i t) := by
  unfold step
  simp only [hturn, h]

theorem step_stop {t : State} (hturn : s.tick.turn = .stream r) (h : s.tick.prepare r = .stop t) : step s = .next t.settle := by
  unfold step
  simp only [hturn, h]

theorem tick_agenda (s : State) : s.tick.agenda = s.agenda := by
  unfold State.tick
  dsimp only
  generalize hu : ({ s with
    free := s.free + 1, turns := s.turns + 1, stalled := false, timestamp := _, notices := _, clusters := _ } : State) = u
  have hstep : CacheStep u ((u.cores.map Prod.fst).foldl (fun u c => u.evictL1 s.free c) u) :=
    CacheStep.foldl (.refl u) (fun _ c hv => hv.evictL1 s.free c) _
  subst hu
  exact (congrArg State.agenda hstep.rest :)

theorem step_event {e : Ev} {rest : List (Instr × Ev)} (hagenda : s.agenda = (i, e) :: rest) (hevent : Instr.isEvent i = true) :
    step s = settled (exec i { s.tick with agenda := rest, ev := e }) := by
  have hkeep : s.tick.agenda = (i, e) :: rest := (tick_agenda s).trans hagenda
  have hturn : s.tick.turn = .event i e := by
    unfold State.turn
    rw [hkeep]
    exact if_pos hevent
  unfold step
  simp only [hturn, hkeep, List.drop_succ_cons, List.drop_zero]

/-- What the issue of an instruction leaves of a state, apart from cores, banks and notes. -/
def State.issued (s : State) : Tab Stream × Tab Crew × Tab Gang × List Host.Cell × List Host.Cell × Option Nat :=
  (s.streams, s.crews, s.gangs, s.mem, s.hostMem, s.cur)

theorem useLanes_issued (s : State) (r : Nat) (i : Instr) : (s.useLanes r i).issued = s.issued := by
  unfold State.useLanes
  dsimp only
  split
  · split <;> rfl
  · rfl

theorem noteBanks_issued (s : State) (r : Nat) (ns : List Nat) : (s.noteBanks r ns).issued = s.issued := by
  unfold State.noteBanks
  split <;> rfl

theorem issues_issued (hdue : (s.gangAt r).acquireDue.contains (crewNum r) = false) (hsync : Instr.syncs i = false) :
    (s.issues r i).issued = s.issued := by
  have hacquire : s.dueAcquire r = s := if_neg (by rw [hdue]; exact Bool.false_ne_true)
  unfold State.issues
  rw [hacquire, hdue, hsync]
  exact (noteBanks_issued (s.useLanes r i) r ((s.stream r).banksRead i)).trans (useLanes_issued s r i)

theorem fetch_frame {f : Frame} (hloop : (s.stream r).captured (s.imageOf r).1 = false)
    (hahead : Tab.find (s.stream r).pc.toNat (s.stream r).fetched = none) (hin : (s.stream r).pc.toNat / 4096 < s.imagePages r)
    (hframe : s.findFrame (s.coreNum r) (s.imageOf r).1 (s.partNum r) (s.imageOf r).2 ((s.stream r).pc.toNat / 4096) = some f) :
    ∃ v, s.fetch r = .word (Tab.get 0 f.words ((s.stream r).pc.toNat % 4096 / 4)) v := by
  unfold State.fetch
  dsimp only
  rw [hloop, if_neg Bool.false_ne_true]
  dsimp only
  rw [hahead]
  dsimp only
  rw [if_neg (Nat.not_le.mpr hin), hframe]
  exact ⟨_, rfl⟩

end

/-- Settles O1, by the cases of a turn: a stream's word, its issue, the word's frame, and an event of the agenda. -/
theorem stepRunsWhatIsNext : Obligations.StepRunsWhatIsNext := by
  refine ⟨fun s v r w i hturn howed hargs hfetch hdecode hpark => ?_, fun s r i hdue hsync => ?_,
    fun s r f hloop hahead hin hframe => ?_, fun s i e rest => step_event⟩
  · intro u
    have hprepare := prepare_word howed hargs hfetch hdecode hpark
    exact ⟨fun hrun => step_run hturn (hprepare.trans (if_neg (by rw [hrun]; exact Bool.false_ne_true))),
      fun hwait => step_stop hturn (hprepare.trans (if_pos hwait))⟩
  · have h := issues_issued hdue hsync
    simpa only [State.issued, Prod.mk.injEq] using h
  · obtain ⟨v, hv⟩ := fetch_frame hloop hahead hin hframe
    exact ⟨v, hv, fetch_keeps hv⟩

end Sys2Proof.Machine
end

section
/-! SUPPORT. The caches while no write is on its way to local memory: no operation but a write of memory itself changes a
byte of it (15 R369 to R375, 04 R111). -/

namespace Sys2Proof.Machine

/-- A message that carries nothing to memory. -/
def Msg.idle (m : Msg) : Prop := m.st ≠ .m ∧ (m.kind ≠ .grant → m.data = none)

/-- Memory is as a predicate says, and no write is on its way to it. -/
structure Calm (P : List Host.Cell → Prop) (t : State) : Prop where
  mem : P t.mem
  msgs : ∀ m ∈ t.msgs, m.idle
  lines : ∀ die line x, t.l2Find die line = some x → x.st ≠ .m
  sectors : ∀ k sec x, Tab.find sec (t.core k).l1 = some x → x.dirty.any id = false

theorem Tab.find_put_cases {α : Type} {k j : Nat} {a b : α} {t : Tab α} (h : Tab.find j (Tab.put k a t) = some b) :
    b = a ∨ Tab.find j t = some b := by
  by_cases hj : j = k
  · rw [hj, Tab.find_put_same] at h
    exact .inl (Option.some.inj h).symm
  · rw [Tab.find_put_other _ _ hj] at h
    exact .inr h

theorem Tab.find_of_del {α : Type} {k j : Nat} {b : α} {t : Tab α} (h : Tab.find j (Tab.del k t) = some b) : Tab.find j t = some b := by
  by_cases hj : j = k
  · rw [hj, Tab.find_del_same] at h
    cases h
  · rwa [Tab.find_del_other _ hj] at h

theorem takeMsg_takes {f : Msg → Bool} {ms rest : List Msg} {m : Msg} (h : takeMsg f ms = some (m, rest)) :
    f m = true ∧ m ∈ ms ∧ ∀ x ∈ rest, x ∈ ms := by
  induction ms generalizing rest with
  | nil => cases h
  | cons x xs ih =>
    rw [takeMsg] at h
    by_cases hx : f x = true
    · rw [if_pos hx] at h
      cases h
      exact ⟨hx, List.mem_cons_self, fun y hy => List.mem_cons_of_mem _ hy⟩
    · rw [if_neg hx] at h
      cases hxs : takeMsg f xs with
      | none => rw [hxs] at h; cases h
      | some p =>
        obtain ⟨y, ys⟩ := p
        rw [hxs] at h
        cases h
        obtain ⟨hm, hmem, hrest⟩ := ih hxs
        refine ⟨hm, List.mem_cons_of_mem _ hmem, fun z hz => ?_⟩
        obtain rfl | hz := List.mem_cons.mp hz
        · exact List.mem_cons_self
        · exact List.mem_cons_of_mem _ (hrest z hz)

theorem Msg.idle_takeMsg {f : Msg → Bool} {ms rest : List Msg} {m : Msg} (hms : ∀ x ∈ ms, x.idle)
    (h : takeMsg f ms = some (m, rest)) : m.idle ∧ ∀ x ∈ rest, x.idle :=
  have ⟨_, hm, hrest⟩ := takeMsg_takes h
  ⟨hms m hm, fun x hx => hms x (hrest x hx)⟩

namespace Calm

variable {P : List Host.Cell → Prop} {t : State}

theorem foldl {β : Type} {f : State → β → State} (h : Calm P t) {xs : List β} (hf : ∀ u, ∀ b ∈ xs, Calm P u → Calm P (f u b)) :
    Calm P (xs.foldl f t) := by
  induction xs generalizing t with
  | nil => exact h
  | cons x xs ih => exact ih (hf t x List.mem_cons_self h) fun u b hb => hf u b (List.mem_cons_of_mem _ hb)

theorem foldl_snd {α β : Type} {f : α × State → β → α × State} {acc : α × State} (h : Calm P acc.2)
    (hf : ∀ a b, Calm P a.2 → Calm P (f a b).2) (xs : List β) : Calm P (xs.foldl f acc).2 := by
  induction xs generalizing acc with
  | nil => exact h
  | cons x xs ih => exact ih (hf acc x h)

/-! Changes of one field. -/

/-- A change of fields that hold no data of memory. -/
theorem keeps {u : State} (h : Calm P t) (hmem : u.mem = t.mem) (hmsgs : u.msgs = t.msgs) (hdies : u.dies = t.dies)
    (hcores : u.cores = t.cores) : Calm P u where
  mem := by rw [hmem]; exact h.mem
  msgs := by rw [hmsgs]; exact h.msgs
  lines die line := by
    rw [show u.l2Find die line = t.l2Find die line by unfold State.l2Find State.die; rw [hdies]]
    exact h.lines die line
  sectors k sec := by
    rw [show u.core k = t.core k by unfold State.core; rw [hcores]]
    exact h.sectors k sec

@[simp] theorem fresh (h : Calm P t) (n : Nat) : Calm P { t with fresh := n } := h.keeps rfl rfl rfl rfl

theorem withMsgs (h : Calm P t) {ms : List Msg} (hms : ∀ m ∈ ms, m.idle) : Calm P { t with msgs := ms } :=
  ⟨h.mem, hms, h.lines, h.sectors⟩

theorem send (h : Calm P t) {m : Msg} (hm : m.idle) : Calm P (t.send m) := by
  refine h.withMsgs fun x hx => ?_
  obtain hx | hx := List.mem_append.mp hx
  · exact h.msgs x hx
  · rw [List.mem_singleton.mp hx]; exact hm

/-- A message without data. -/
@[simp] theorem sendBare (h : Calm P t) (kind : MsgKind) (home die line : Nat) :
    Calm P (t.send { kind, home, die, line }) := h.send ⟨(fun h => nomatch h), fun _ => rfl⟩

theorem setDie (h : Calm P t) (k : Nat) {x : Die} (hx : ∀ line y, Tab.find line x.l2 = some y → y.st ≠ .m) : Calm P (t.setDie k x) where
  mem := h.mem
  msgs := h.msgs
  lines die line y hy := by
    unfold State.l2Find at hy
    by_cases hd : die = k
    · rw [hd, State.die_setDie] at hy; exact hx line y hy
    · rw [State.die_setDie_other _ _ hd] at hy; exact h.lines die line y hy
  sectors := h.sectors

/-- A change of a die beside its lines. -/
theorem updDie (h : Calm P t) (k : Nat) {f : Die → Die} (hf : ∀ d, (f d).l2 = d.l2) : Calm P (t.updDie k f) :=
  h.setDie k fun line y hy => h.lines k line y (by rw [hf] at hy; exact hy)

theorem setCore (h : Calm P t) (k : Nat) {x : Core} (hx : ∀ sec y, Tab.find sec x.l1 = some y → y.dirty.any id = false) :
    Calm P (t.setCore k x) where
  mem := h.mem
  msgs := h.msgs
  lines := h.lines
  sectors j sec y hy := by
    by_cases hj : j = k
    · rw [hj, State.core_setCore] at hy; exact hx sec y hy
    · rw [State.core_setCore_other _ _ hj] at hy; exact h.sectors j sec y hy

/-- A change of a core beside its sectors. -/
theorem updCore (h : Calm P t) (k : Nat) {f : Core → Core} (hf : ∀ c, (f c).l1 = c.l1) : Calm P (t.updCore k f) :=
  h.setCore k fun sec y hy => h.sectors k sec y (by rw [hf] at hy; exact hy)

theorem l2Put (h : Calm P t) (die line : Nat) {x : L2Line} (hx : x.st ≠ .m) : Calm P (t.l2Put die line x) :=
  h.setDie die fun l y hy => (Tab.find_put_cases hy).elim (fun e => e ▸ hx) (h.lines die l y)

@[simp] theorem l2Del (h : Calm P t) (die line : Nat) : Calm P (t.l2Del die line) :=
  h.setDie die fun l y hy => h.lines die l y (Tab.find_of_del hy)

@[simp] theorem dirPut (h : Calm P t) (home line : Nat) (e : DirEntry) : Calm P (t.dirPut home line e) := h.updDie home fun _ => rfl
@[simp] theorem dirDel (h : Calm P t) (home line : Nat) : Calm P (t.dirDel home line) := h.updDie home fun _ => rfl
@[simp] theorem ask (h : Calm P t) (at_ : Attr) (die line : Nat) (kind : MsgKind) : Calm P (t.ask at_ die line kind) :=
  (h.updDie die (f := fun d => { d with asked := Tab.put line (kind, at_) d.asked }) fun _ => rfl).sendBare ..

theorem setMemLine (h : Calm P t) (line : Nat) {bs : List Byte} (hP : P (wrBytes t.mem (64 * line) bs)) : Calm P (t.setMemLine line bs) := by
  have hwrite : Calm P { t with mem := wrBytes t.mem (64 * line) bs } := ⟨hP, h.msgs, h.lines, h.sectors⟩
  unfold State.setMemLine State.countWrite
  split
  · exact hwrite.keeps rfl rfl rfl rfl
  · exact hwrite

/-! The dies' L2s. -/

@[simp] theorem l2Evict (h : Calm P t) (die line : Nat) : Calm P (t.l2Evict die line) := by
  unfold State.l2Evict
  split
  · exact h
  · next x hx =>
    dsimp only
    split
    · exact h.l2Del ..
    · next hm => exact absurd hm (h.lines _ _ _ hx)
    · exact (h.l2Del ..).sendBare ..

@[simp] theorem l2Room (h : Calm P t) (die line : Nat) (ways : List Nat) : Calm P (t.l2Room die line ways) := by
  unfold State.l2Room
  dsimp only
  repeat' split
  all_goals simp [h]

theorem l2Fill (h : Calm P t) (die line : Nat) (at_ : Attr) {st : Coh} (b : List Byte) (hst : st ≠ .m) :
    Calm P (t.l2Fill die line at_ st b) := by
  unfold State.l2Fill
  extract_lets u ways keep v taken way
  have hu : Calm P u := by
    dsimp only [u]
    repeat' split
    all_goals simp [h]
  split
  · exact hu.l2Put _ _ hst
  · exact ((hu.l2Room die line ways).fresh _).l2Put _ _ hst

@[simp] theorem l2Touch (h : Calm P t) (die line hint : Nat) : Calm P (t.l2Touch die line hint) := by
  unfold State.l2Touch
  split
  · next x hx =>
    split
    · exact h
    · have hst : x.st ≠ .m := h.lines _ _ _ hx
      exact (h.fresh _).l2Put _ _ hst
  · exact h

theorem dieGrant (h : Calm P t) {m : Msg} (hm : m.idle) : Calm P (t.dieGrant m) := by
  unfold State.dieGrant
  extract_lets at_ u
  have hu : Calm P u := h.updDie _ fun _ => rfl
  split
  · exact hu.l2Fill _ _ _ _ hm.1
  · exact hu.l2Put _ _ hm.1
  · exact hu

@[simp] theorem dieAnswer (h : Calm P t) (m : Msg) : Calm P (t.dieAnswer m) := by
  unfold State.dieAnswer
  extract_lets reply
  have hbare (k : MsgKind) {u : State} (hu : Calm P u) : Calm P (reply k none u) := hu.sendBare ..
  split
  · exact hbare _ h
  · next x hx =>
    have hne := h.lines _ _ _ hx
    have hshared : Calm P (t.l2Put m.die m.line { x with st := .s }) := h.l2Put _ _ fun h => nomatch h
    have hgone : Calm P (t.l2Del m.die m.line) := h.l2Del ..
    dsimp only
    split
    · next hst _ => exact absurd hst hne
    · exact hbare _ hshared
    · next hst _ => exact absurd hst hne
    · exact hbare _ hgone
    · exact hbare _ hgone
    · exact hbare _ h
    · exact hbare _ h

/-! The directories. -/

@[simp] theorem homeWriteBack (h : Calm P t) (home die line : Nat) : Calm P (t.homeWriteBack home die line none) := by
  unfold State.homeWriteBack
  dsimp only
  split
  · exact h
  · repeat' split
    all_goals simp [h]

@[simp] theorem landLine (h : Calm P t) (home line : Nat) : Calm P (t.landLine home line) := by
  refine (h.withMsgs fun m hm => h.msgs m (List.mem_filter.mp hm).1).foldl fun u m hm hu => ?_
  have hidle := h.msgs m (List.mem_filter.mp hm).1
  split
  · exact hu.dieGrant hidle
  · next hkind =>
    rw [hidle.2 hkind]
    exact hu.homeWriteBack ..

@[simp] theorem recallFrom (h : Calm P t) (home line : Nat) (kind : MsgKind) (die : Nat) :
    Calm P (t.recallFrom home line kind die) := by
  unfold State.recallFrom
  extract_lets u answer
  have hu : Calm P u := h.dieAnswer _
  split
  · exact hu
  · next m rest hm =>
    obtain ⟨hidle, hrest⟩ := Msg.idle_takeMsg hu.msgs hm
    have hkind : m.kind ≠ .grant := by
      intro hk
      have hans := (takeMsg_takes hm).1
      simp [answer, hk] at hans
    dsimp only
    rw [hidle.2 hkind]
    exact hu.withMsgs hrest

@[simp] theorem dirRecall (h : Calm P t) (home line : Nat) : Calm P (t.dirRecall home line) := by
  unfold State.dirRecall
  dsimp only
  split
  · simp [h]
  · refine dirDel ?_ _ _
    split
    · simp [h]
    · exact foldl (by simp [h]) (fun u d _ hu => by simp [hu])
    · simp [h]

theorem dirRoom {u : State} (h : Calm P t) {home line : Nat} (hu : t.dirRoom home line = some u) : Calm P u := by
  unfold State.dirRoom at hu
  dsimp only at hu
  split at hu
  · cases hu; exact h
  · split at hu
    · cases hu
    · cases hu; simp [h]

@[simp] theorem finishTxn (h : Calm P t) (home line : Nat) (e : DirEntry) (x : Txn) : Calm P (t.finishTxn home line e x) := by
  unfold State.finishTxn
  dsimp only
  refine (h.dirPut ..).send ?_
  split <;> exact ⟨(fun h => nomatch h), fun h => absurd rfl h⟩

@[simp] theorem beginTxn (h : Calm P t) (home line : Nat) (e : DirEntry) (die : Nat) (kind : MsgKind) :
    Calm P (t.beginTxn home line e die kind) := by
  unfold State.beginTxn
  extract_lets used u due ask txn
  have hu : Calm P u := h.fresh _
  split
  · exact hu.finishTxn home line used txn
  · exact foldl (hu.dirPut ..) (fun v _ _ hv => hv.sendBare ..)

@[simp] theorem homeRequest (h : Calm P t) (home die line : Nat) (kind : MsgKind) : Calm P (t.homeRequest home die line kind) := by
  unfold State.homeRequest
  split
  · split <;> simp [h]
  · split
    · simp [h]
    · rename_i u hu
      simp [h.dirRoom hu]

@[simp] theorem nextRequests (h : Calm P t) (home line n : Nat) : Calm P (State.nextRequests home line n t) := by
  induction n generalizing t with
  | zero => exact h
  | succ n ih =>
    unfold State.nextRequests
    repeat' split
    all_goals simp [ih, h]

@[simp] theorem homeAnswer (h : Calm P t) (home die line : Nat) : Calm P (t.homeAnswer home die line none) := by
  unfold State.homeAnswer State.nextRequest
  dsimp only
  split
  · exact h
  · split
    · exact h
    · split
      · exact (h.finishTxn ..).nextRequests ..
      · exact h.dirPut ..

theorem deliver (h : Calm P t) {m : Msg} (hm : m.idle) : Calm P (t.deliver m) := by
  have hdata := hm.2
  unfold State.deliver
  split
  · simp [h]
  · simp [h]
  · simp [h]
  · next hk => rw [hdata (by simp [hk])]; exact h.homeWriteBack ..
  · exact h.dieGrant hm
  · simp [h]
  · simp [h]
  · simp [h]
  · next hk => rw [hdata (by simp [hk])]; exact h.homeAnswer ..
  · next hk => rw [hdata (by simp [hk])]; exact h.homeAnswer ..

@[simp] theorem drain (h : Calm P t) (n home line : Nat) : Calm P (State.drain n home line t) := by
  induction n generalizing t with
  | zero => exact h
  | succ n ih =>
    unfold State.drain
    split
    · exact h
    · next m rest hm =>
      obtain ⟨hidle, hrest⟩ := Msg.idle_takeMsg h.msgs hm
      exact ih ((h.withMsgs hrest).deliver hidle)

@[simp] theorem quiet (h : Calm P t) (home line : Nat) : Calm P (t.quiet home line) := by
  unfold State.quiet
  dsimp only
  split
  · simp [h]
  · exact foldl (by simp [h]) (fun u p _ hu => by simp [hu])

/-- A die obtains a line to read it. -/
@[simp] theorem obtain_read (h : Calm P t) (at_ : Attr) (die line : Nat) : Calm P (t.obtain at_ die line false) := by
  unfold State.obtain
  extract_lets u owned fetch
  have hu : Calm P u := h.quiet ..
  have howned {v : State} (hv : Calm P v) : Calm P (owned v) := by
    dsimp only [owned]
    split
    · rw [if_neg (by simp)]; exact hv
    · exact hv
  have hfetch (k : MsgKind) : Calm P (fetch k) := howned ((hu.ask ..).drain ..)
  split
  · exact hu
  · exact howned hu
  · rw [if_neg Bool.false_ne_true]; exact hu
  · exact hfetch _

@[simp] theorem purge (h : Calm P t) (home line : Nat) : Calm P (t.purge home line) := by simp [State.purge, h]

/-! Reading and writing lines. -/

@[simp] theorem readLine (h : Calm P t) (die : Nat) (at_ : Attr) (line : Nat) : Calm P (t.readLine die at_ line).2 := by
  unfold State.readLine
  extract_lets u v w z
  have hu : Calm P u := h.purge ..
  have hfill (b : List Byte) : Calm P (u.l2Fill die line at_ .nc b) := hu.l2Fill _ _ _ _ fun h => nomatch h
  have hz : Calm P z := (h.obtain_read ..).l2Touch ..
  split
  · split
    · split
      · exact h.l2Touch ..
      · dsimp only; split
        · exact hu
        · exact hfill _
    · dsimp only; split
      · exact hu
      · exact hfill _
  · split
    · split
      · exact h.quiet ..
      · exact (h.quiet ..).dirRecall ..
    · split <;> exact hz

/-- A line of memory takes bytes at its coherence point, from an access that caches hold no copy of. -/
theorem writeLine (h : Calm P t) (die : Nat) {at_ : Attr} (line : Nat) {new : List (Option Byte)} (huncached : at_.cpol = 2)
    (hP : ∀ m, P m → P (wrBytes m (64 * line) (mergeBytes (rdBytes m (64 * line) 64) new))) : Calm P (t.writeLine die at_ line new) := by
  have hput {u : State} (hu : Calm P u) {d : Nat} {x : L2Line} (hx : u.l2Find d line = some x) :
      Calm P (u.l2Put d line { x with bytes := mergeBytes x.bytes new }) :=
    have hst : x.st ≠ .m := hu.lines _ _ _ hx
    hu.l2Put _ _ hst
  have hset {u : State} (hu : Calm P u) : Calm P (u.setMemLine line (mergeBytes (u.memLine line) new)) :=
    hu.setMemLine line (hP _ hu.mem)
  unfold State.writeLine
  split
  · refine hset ?_
    split
    · next x hx =>
      split
      · exact hput (h.purge ..) hx
      · exact h.purge ..
    · exact h.purge ..
  · rw [if_pos (by rw [huncached]; rfl)]
    refine hset (foldl (h.quiet ..) fun u d _ hu => ?_)
    split
    · next x hx => exact hput hu hx
    · exact hu

@[simp] theorem readCoh (h : Calm P t) (die : Nat) (at_ : Attr) (pa n : Nat) : Calm P (t.readCoh die at_ pa n).2 :=
  foldl_snd (f := fun (acc : Tab (List Byte) × State) l => (Tab.put l (acc.2.readLine die at_ l).1 acc.1, (acc.2.readLine die at_ l).2))
    (acc := ([], t)) h (fun _ l ha => ha.readLine die at_ l) _

@[simp] theorem readSync (h : Calm P t) (die : Nat) (at_ : Attr) (pa n : Nat) : Calm P (t.readSync die at_ pa n).2 := by
  unfold State.readSync
  dsimp only
  split
  · simp [h]
  · exact readCoh (foldl h (fun u l _ hu => by split <;> simp [hu])) _ _ _ _

/-! The cores' L1s. -/

theorem cleanSector_eq (h : Calm P t) (core sec : Nat) : t.cleanSector core sec = t := by
  unfold State.cleanSector
  split
  · rfl
  · next x hx => rw [if_neg (by rw [h.sectors _ _ _ hx]; exact Bool.false_ne_true)]

@[simp] theorem dropSector (h : Calm P t) (core sec : Nat) : Calm P (t.dropSector core sec) := by
  unfold State.dropSector
  rw [h.cleanSector_eq]
  exact h.setCore core fun j y hy => h.sectors core j y (Tab.find_of_del hy)

@[simp] theorem l1Evict (h : Calm P t) (core line : Nat) : Calm P (t.l1Evict core line) :=
  ((h.dropSector ..).dropSector ..).updCore _ fun _ => rfl

@[simp] theorem l1Room (h : Calm P t) (core line : Nat) : Calm P (t.l1Room core line) := by
  unfold State.l1Room
  dsimp only
  repeat' split
  all_goals simp [h]

theorem l1Touch (h : Calm P t) (core hint line : Nat) : Calm P (t.l1Touch core hint line) := by
  unfold State.l1Touch
  refine (h.fresh _).setCore core fun sec y hy => ?_
  dsimp only at hy
  split at hy
  · exact h.sectors core sec y hy
  · rw [Tab.find_mapVals] at hy
    obtain ⟨x, hx, hxy⟩ := Option.map_eq_some_iff.mp hy
    have hclean := h.sectors core sec x hx
    rw [← hxy]
    split
    · exact hclean
    · exact hclean

@[simp] theorem fillSector (h : Calm P t) (core : Nat) (at_ : Attr) (sec : Nat) : Calm P (t.fillSector core at_ sec) := by
  unfold State.fillSector
  split
  · exact h
  · have hread := (h.l1Room core (sec / 2)).readCoh (dieOf core) at_ (32 * sec) 32
    refine (hread.fresh _).setCore core fun j y hy => ?_
    obtain rfl | hy := Tab.find_put_cases hy
    · exact (by decide : (List.replicate 32 false).any id = false)
    · exact hread.sectors core j y hy

@[simp] theorem readPlain (h : Calm P t) (core : Nat) (at_ : Attr) (hint pa : Nat) : Calm P (t.readPlain core at_ hint pa).2 := by
  unfold State.readPlain
  dsimp only
  repeat' split
  all_goals simp [h]

/-- Bytes written through a sector leave it clean. -/
theorem pokeSector (h : Calm P t) (core sec : Nat) (ws : List (Nat × Byte)) : Calm P (t.pokeSector core sec ws true) := by
  unfold State.pokeSector
  split
  · exact h
  · next x hx =>
    refine h.setCore core fun j y hy => ?_
    obtain rfl | hy := Tab.find_put_cases hy
    · refine List.any_eq_false.mpr fun b hb => ?_
      obtain ⟨i, -, rfl⟩ := List.mem_map.mp hb
      have hclean := List.any_eq_false.mp (h.sectors _ _ _ hx)
      split
      · exact Bool.false_ne_true
      · intro htrue
        have hlt : i < x.dirty.length := by
          by_contra hle
          rw [List.getD_eq_default _ _ (Nat.not_lt.mp hle)] at htrue
          exact Bool.false_ne_true htrue
        rw [List.getD_eq_getElem _ _ hlt] at htrue
        exact hclean _ (List.getElem_mem hlt) htrue
    · exact h.sectors core j y hy

@[simp] theorem noteWrites (h : Calm P t) (core : Nat) (secs : List Nat) : Calm P (t.noteWrites core secs) :=
  h.setCore core (h.sectors core)

@[simp] theorem syncSectors (h : Calm P t) (core : Nat) (as : List Nat) : Calm P (t.syncSectors core as) :=
  foldl h (fun u x _ hu => by simp [hu])

/-! Translation. -/

@[simp] theorem tableEntry (h : Calm P t) (part die pa : Nat) : Calm P (t.tableEntry part die pa).2 := by
  unfold State.tableEntry
  split <;> simp [h]

@[simp] theorem cacheWalk (h : Calm P t) (part die pa e : Nat) : Calm P (t.cacheWalk part die pa e) := h.updDie _ fun _ => rfl

@[simp] theorem walkFrom (h : Calm P t) (part die va n level table : Nat) : Calm P (State.walkFrom part die va n level table t).2 := by
  induction n generalizing level table t with
  | zero => exact h
  | succ n ih =>
    unfold State.walkFrom
    extract_lets pa
    split
    · exact h
    · exact h
    · have hu : Calm P (t.tableEntry part die pa).2 := h.tableEntry ..
      generalize t.tableEntry part die pa = x at hu ⊢
      obtain ⟨e, u⟩ := x
      dsimp only at hu ⊢
      split
      · split <;> exact hu
      · split
        · have hv (e : Nat) : Calm P (u.cacheWalk part die pa e) := hu.cacheWalk ..
          split
          · exact hu
          · split
            · exact ih (hv e) _ _
            · exact hv e
        · exact hu

@[simp] theorem walk (h : Calm P t) (part die va : Nat) : Calm P (t.walk part die va).2 := by
  unfold State.walk
  dsimp only
  repeat' split
  all_goals simp [h]

@[simp] theorem translate (h : Calm P t) (core part n va : Nat) : Calm P (t.translate core part n va).2 := by
  have hfill {u : State} (hu : Calm P u) (e : TlbEntry) : Calm P (u.updCore core fun c => { c with tlb := tlbFill c.tlb e }) :=
    hu.updCore _ fun _ => rfl
  unfold State.translate
  split
  · exact h
  · split
    · exact hfill h _
    · have hw := h.walk part (dieOf core) va
      dsimp only
      split
      · exact hfill hw _
      · exact hw

@[simp] theorem spotOf (h : Calm P t) (g : Gang) (priv : Bool) (k : Acc) (va : Nat) : Calm P (t.spotOf g priv k va).2 :=
  h.translate _ _ _ _

@[simp] theorem spotsOf (h : Calm P t) (g : Gang) (priv : Bool) (k : Acc) (va n : Nat) : Calm P (t.spotsOf g priv k va n).2 := by
  have hfirst := h.spotOf g priv k va
  unfold State.spotsOf
  extract_lets fill room
  generalize t.spotOf g priv k va = x at hfirst ⊢
  obtain ⟨x | p, u⟩ := x
  · exact hfirst
  · have hsecond := Calm.spotOf (t := u) hfirst g priv k ((va + room) % 2 ^ 56)
    dsimp only
    generalize u.spotOf g priv k ((va + room) % 2 ^ 56) = y at hsecond ⊢
    split
    · exact hfirst
    · obtain ⟨y | q, v⟩ := y <;> exact hsecond

theorem resolve (h : Calm P t) {r : Nat} {k : Acc} {asks : List Ask} {xs : List (Ask × List Spot)} {u : State}
    (hx : t.resolve r k asks = .ok (xs, u)) : Calm P u := by
  unfold State.resolve at hx
  extract_lets bad g priv at hx
  split at hx
  · cases hx
  · have hfold : Calm P (asks.foldl (fun (acc : List (Ask × Except Miss (List Spot)) × State) a =>
        (acc.1 ++ [(a, (acc.2.spotsOf g priv k (va56 a.addr) a.n).1)], (acc.2.spotsOf g priv k (va56 a.addr) a.n).2)) ([], t)).2 := by
      refine foldl_snd h (fun a b ha => ?_) asks
      exact ha.spotsOf ..
    dsimp only at hx
    split at hx
    · cases hx
    · cases hx
      exact hfold

/-! The bytes of a lane. -/

theorem readSpot (h : Calm P t) (r : Nat) (coh : Bool) (hint lane : Nat) (p : Spot) : Calm P (t.readSpot r coh hint lane p).2 := by
  unfold State.readSpot
  split
  · split
    · exact (h.syncSectors ..).readSync ..
    · exact h.readPlain ..
  all_goals exact h

theorem readSpots (h : Calm P t) (r : Nat) (coh : Bool) (hint lane : Nat) (xs : List Spot) : Calm P (t.readSpots r coh hint lane xs).2 := by
  unfold State.readSpots
  split
  · exact h
  · split
    · exact h
    · refine foldl_snd h (fun a b ha => ?_) _
      exact ha.readSpot ..

theorem touchL1 (h : Calm P t) (r : Nat) (coh : Bool) (hint : Nat) (xs : List Spot) : Calm P (t.touchL1 r coh hint xs) :=
  foldl h (fun _ _ _ hu => hu.l1Touch ..)

theorem noteReads (h : Calm P t) (n : Nat) (xs : List Spot) : Calm P (t.noteReads n xs) :=
  have hrest := lessNodes_noteReads t n xs
  h.keeps (congrArg State.mem hrest :) (congrArg State.msgs hrest :) (congrArg State.dies hrest :) (congrArg State.cores hrest :)

theorem of_quiet {s : State} (h : Quiet s) (hP : P s.mem) : Calm P s :=
  have ⟨hmsgs, hlines, hsectors⟩ := h
  ⟨hP, fun m hm => absurd (hmsgs ▸ hm) List.not_mem_nil, hlines, hsectors⟩

end Calm

end Sys2Proof.Machine
end

section
/-! What loads and plain uncached stores leave of local memory (08 R201 to R206, R208; 15 R375). -/

namespace Sys2Proof.Machine

/-! Loads. -/

theorem loadLanes_mem {s : State} {r : Nat} {coh : Bool} {hint : Nat} {asks : List Ask} {l : Loaded}
    (h : s.loadLanes r coh hint asks = .ok l) (hquiet : Quiet s) : l.st.mem = s.mem := by
  have hcalm : Calm (· = s.mem) s := .of_quiet hquiet rfl
  obtain ⟨⟨xs, u⟩, hres, h⟩ := bind_ok h
  obtain ⟨-, -, h⟩ := bind_ok h
  obtain ⟨-, -, h⟩ := bind_ok h
  cases h
  refine Calm.mem (P := (· = s.mem)) (Calm.foldl_snd (((hcalm.resolve hres).noteReads _ _).touchL1 ..) (fun a b ha => ?_) xs)
  exact ha.readSpots ..

/-! Bytes that a write does not reach. -/

/-- The bytes of a memory that a test does not hold for are those of another. -/
def Untouched (m0 : List Host.Cell) (A : Nat → Prop) (m : List Host.Cell) : Prop := ∀ a, ¬A a → rdByte m a = rdByte m0 a

theorem mergeBytes_getD {old : List Byte} {new : List (Option Byte)} {i : Nat} (hi : i < old.length) :
    (mergeBytes old new).getD i 0 = (new.getD i none).getD (old.getD i 0) := by
  unfold mergeBytes
  simp [List.getD_eq_getElem?_getD, hi]

theorem lineMask_getD_none {line i : Nat} {ws : List (Nat × Byte)} (hi : i < 64) (h : ∀ w ∈ ws, w.1 ≠ 64 * line + i) :
    (lineMask line ws).getD i none = none := by
  unfold lineMask
  simp only [List.getD_eq_getElem?_getD, List.getElem?_map, List.getElem?_range hi, Option.map_some, Option.getD_some]
  rw [List.filter_eq_nil_iff.mpr fun w hw => by simpa using h w hw]
  rfl

theorem Untouched.mergeLine {m0 m : List Host.Cell} {A : Nat → Prop} {ws : List (Nat × Byte)} (h : Untouched m0 A m)
    (hws : ∀ w ∈ ws, A w.1) (line : Nat) :
    Untouched m0 A (wrBytes m (64 * line) (mergeBytes (rdBytes m (64 * line) 64) (lineMask line ws))) := by
  intro a ha
  have hlen : (mergeBytes (rdBytes m (64 * line) 64) (lineMask line ws)).length = 64 := by simp [mergeBytes, rdBytes]
  by_cases hin : 64 * line ≤ a ∧ a < 64 * line + 64
  · obtain ⟨i, rfl⟩ : ∃ i, a = 64 * line + i := ⟨a - 64 * line, by omega⟩
    have hi : i < 64 := by omega
    have hmask : (lineMask line ws).getD i none = none := lineMask_getD_none hi fun w hw hwa => ha (hwa ▸ hws w hw)
    rw [rdByte_wrBytes_same _ _ _ _ (by omega), mergeBytes_getD (by simpa [rdBytes] using hi), hmask, ← h _ ha]
    simp [rdBytes, List.getD_eq_getElem?_getD, hi]
  · rw [rdByte_wrBytes_other _ _ _ _ (by omega)]
    exact h a ha

/-! Plain stores through pages that no cache holds. -/

theorem runsBy_mem {α β : Type} [DecidableEq β] (f : α → β) {xs : List α} {g : β × List α} (hg : g ∈ runsBy f xs) :
    g.2 ≠ [] ∧ ∀ x ∈ g.2, x ∈ xs ∧ f x = g.1 := by
  induction xs generalizing g with
  | nil => cases hg
  | cons y ys ih =>
    have hlift {g' : β × List α} (hg' : g' ∈ runsBy f ys) : g'.2 ≠ [] ∧ ∀ x ∈ g'.2, x ∈ y :: ys ∧ f x = g'.1 :=
      have ⟨hne, hall⟩ := ih hg'
      ⟨hne, fun x hx => ⟨List.mem_cons_of_mem _ (hall x hx).1, (hall x hx).2⟩⟩
    have hone : ((f y, [y]) : β × List α).2 ≠ [] ∧ ∀ x ∈ ((f y, [y]) : β × List α).2, x ∈ y :: ys ∧ f x = f y := by
      simp
    rw [runsBy] at hg
    split at hg
    · rw [List.mem_singleton.mp hg]; exact hone
    · next b xs gs hruns =>
      have hfirst := hlift (g' := (b, xs)) (by rw [hruns]; exact List.mem_cons_self)
      split at hg
      · next hb =>
        obtain rfl | hg := List.mem_cons.mp hg
        · refine ⟨List.cons_ne_nil _ _, fun x hx => ?_⟩
          obtain rfl | hx := List.mem_cons.mp hx
          · exact ⟨List.mem_cons_self, hb.symm⟩
          · exact hfirst.2 x hx
        · exact hlift (by rw [hruns]; exact List.mem_cons_of_mem _ hg)
      · obtain rfl | hg := List.mem_cons.mp hg
        · exact hone
        · exact hlift (by rw [hruns]; exact hg)

/-- The state after an access that leaves all but some bytes of local memory as they were. -/
structure Stored (s t : State) (A : Nat → Prop) : Prop where
  calm : Calm (Untouched s.mem A) t
  step : CacheStep s t

namespace Stored

variable {s t : State} {A : Nat → Prop}

theorem window (h : Stored s t A) (pa : Nat) : t.window pa = s.window pa := by
  have hid : t.fabid = s.fabid := (congrArg State.fabid h.step.rest :)
  unfold State.window
  rw [hid]

theorem foldl {β : Type} {f : State → β → State} {xs : List β} (h : Stored s t A)
    (hf : ∀ u, ∀ b ∈ xs, Stored s u A → Stored s (f u b) A) : Stored s (xs.foldl f t) A := by
  induction xs generalizing t with
  | nil => exact h
  | cons x xs ih => exact ih (hf t x List.mem_cons_self h) fun u b hb => hf u b (List.mem_cons_of_mem _ hb)

theorem writeCoh (h : Stored s t A) (die : Nat) {at_ : Attr} {ws : List (Nat × Byte)} (huncached : at_.cpol = 2)
    (hws : ∀ w ∈ ws, A w.1) : Stored s (t.writeCoh die at_ ws) A :=
  ⟨h.calm.foldl fun _ l _ hu => hu.writeLine die l huncached fun _ hm => hm.mergeLine hws l, h.step.writeCoh ..⟩

theorem writePlain (h : Stored s t A) (core : Nat) {at_ : Attr} (hint : Nat) {ws : List (Nat × Byte)} (huncached : at_.cpol = 2)
    (hws : ∀ w ∈ ws, A w.1) : Stored s (t.writePlain core at_ hint ws) A := by
  have hpoke (u : State) (secs : List Nat) (hu : Stored s u A) : Stored s (secs.foldl (fun s x => s.pokeSector core x ws true) u) A :=
    hu.foldl fun _ x _ hv => ⟨hv.calm.pokeSector core x ws, hv.step.pokeSector core x ws true⟩
  have hl1 : t.usesL1 core { at_ with hint := hint } hint = false := by simp [State.usesL1, huncached]
  unfold State.writePlain
  dsimp only
  rw [hl1, if_neg Bool.false_ne_true]
  have hw : Stored s (((sectorsOf (ws.map Prod.fst)).foldl (fun s x => s.pokeSector core x ws true) t).writeCoh (dieOf core)
      { at_ with hint := hint } ws) A := (hpoke t _ h).writeCoh _ huncached hws
  exact ⟨hw.calm.noteWrites .., hw.step.noteWrites ..⟩

/-- A plain store of a lane whose places lie in local memory, on pages that no cache holds. -/
theorem writeSpots (h : Stored s t A) (r hint lane : Nat) {ws : List (Spot × Byte)}
    (hws : ∀ w ∈ ws, w.1.leaf.cpol = 2 ∧ ∃ a, s.window w.1.pa = .mem a ∧ A a) : Stored s (t.writeSpots r false hint lane ws) A := by
  have hdest (w : Spot × Byte) (hw : w ∈ ws) : ∃ a, t.destOf w.1 = (.mem (w.1.leaf.attr a), a) ∧ A a := by
    obtain ⟨-, a, ha, hA⟩ := hws w hw
    refine ⟨a, ?_, hA⟩
    unfold State.destOf
    rw [h.window, ha]
  unfold State.writeSpots
  refine h.foldl fun u g hg hu => ?_
  obtain ⟨hne, hall⟩ := runsBy_mem _ hg
  obtain ⟨w, hw⟩ := List.exists_mem_of_ne_nil _ hne
  obtain ⟨hin, hfirst⟩ := hall w hw
  obtain ⟨a, hat, -⟩ := hdest w hin
  rw [hat] at hfirst
  dsimp only
  rw [← hfirst]
  dsimp only
  rw [if_neg Bool.false_ne_true]
  refine hu.writePlain _ _ (hws w hin).1 fun v hv => ?_
  obtain ⟨y, hy, rfl⟩ := List.mem_map.mp hv
  obtain ⟨b, hb, hA⟩ := hdest y (hall y hy).1
  rw [hb]
  exact hA

end Stored

theorem inOrder_mem {α : Type} {lane : α → Nat} {order : List Nat} {xs : List α} {x : α} (h : x ∈ inOrder lane order xs) : x ∈ xs := by
  obtain ⟨l, -, hx⟩ := List.mem_flatMap.mp h
  exact (List.mem_filter.mp hx).1

theorem storeLanes_stored {s s1 s' : State} {r hint lines : Nat} {asks : List (Ask × Nat × Label)} {xs : List (Ask × List Spot)}
    (hquiet : Quiet s) (hres : s.resolve r .write (asks.map Prod.fst) = .ok (xs, s1))
    (hplain : ∀ x ∈ xs, ∀ p ∈ x.2, p.leaf.cpol = 2 ∧ ∃ a, s.window p.pa = .mem a)
    (h : s.storeLanes r false hint none asks = .ok (s', lines)) :
    ∃ t, Stored s t (fun a => ∃ x ∈ xs, ∃ p ∈ x.2, s.window p.pa = .mem a) ∧ s'.mem = t.mem ∧ SameStreams t s' := by
  let A (a : Nat) : Prop := ∃ x ∈ xs, ∃ p ∈ x.2, s.window p.pa = .mem a
  have hcalm : Calm (Untouched s.mem A) s := .of_quiet hquiet fun _ _ => rfl
  have hresolved : Stored s s1 A := ⟨hcalm.resolve hres, (CacheStep.refl s).resolve hres⟩
  have htouched : Stored s (s1.touchL1 r false hint (xs.flatMap Prod.snd)) A :=
    ⟨hresolved.calm.touchL1 .., hresolved.step.touchL1 ..⟩
  unfold State.storeLanes at h
  rw [hres] at h
  obtain ⟨⟨ys, s2⟩, hin, h⟩ := bind_ok h
  cases hin
  obtain ⟨-, -, h⟩ := bind_ok h
  extract_lets core order spots lanes write at h
  replace h : write () = .ok (s', lines) := by
    split at h
    · obtain ⟨_, -, hwrite⟩ := bind_ok h
      exact hwrite
    · exact h
  cases h
  refine ⟨_, Stored.foldl htouched fun u x hx hu => ?_, rfl, rfl, rfl, rfl, rfl⟩
  have hspots : ∀ w ∈ x.1.2, w.leaf.cpol = 2 ∧ ∃ a, s.window w.pa = .mem a ∧ A a := by
    intro w hw
    have hxs : x.1 ∈ xs := (List.of_mem_zip (inOrder_mem hx)).1
    obtain ⟨hpol, a, ha⟩ := hplain x.1 hxs w hw
    exact ⟨hpol, a, ha, x.1, hxs, w, hw, ha⟩
  have hwrite {v : State} (hv : Stored s v A) (bs : List Byte) : Stored s (v.writeSpots r false hint x.1.1.lane (x.1.2.zip bs)) A :=
    hv.writeSpots _ _ _ fun w hw => hspots w.1 (List.of_mem_zip hw).1
  dsimp only
  split
  · exact hwrite ⟨hu.calm.readSpots .., hu.step.readSpots ..⟩ _
  · exact hwrite hu _

/-- Settles O35: a load moves only clean data, and an uncached store writes its own bytes of each line. -/
theorem memoryChangesOnlyWhereStored : Obligations.MemoryChangesOnlyWhereStored := by
  refine ⟨fun s r coh hint asks l h => ⟨loadLanes_same h, loadLanes_mem h⟩,
    fun s s1 s' r hint lines asks xs hquiet hres hplain h => ?_⟩
  obtain ⟨t, hstored, hmem, hsame⟩ := storeLanes_stored hquiet hres hplain h
  refine ⟨sameStreams_iff.mpr ((sameStreams_iff.mp hsame).trans (sameStreams_iff.mp hstored.step.same)), fun a ha => ?_⟩
  rw [hmem]
  exact hstored.calm.mem a fun ⟨x, hx, p, hp, hat⟩ => ha x hx p hp hat

end Sys2Proof.Machine
end

section
/-! SUPPORT. The canonical form of local and host memory (log entry 4): what keeps it, and the operations of the caches. -/

namespace Sys2Proof.Machine

/-- The canonical form of a local and a host memory. -/
def Forms (m h : List Host.Cell) : Prop := Memory.wf m = true ∧ Memory.wf h = true

/-- The memories of a state are in canonical form. -/
abbrev State.Formed (s : State) : Prop := Forms s.mem s.hostMem

/-- The state that a change gives, where it gives one, is in canonical form. -/
def Kept (x : Option State) : Prop := ∀ t, x = some t → t.Formed

variable {s t : State}

theorem memoryInv_iff : MemoryInv s ↔ s.Formed := Iff.rfl

@[simp] theorem Kept.none : Kept none := fun _ h => nomatch h

@[simp] theorem kept_some : Kept (some s) ↔ s.Formed := ⟨fun h => h s rfl, fun h _ ht => Option.some.inj ht ▸ h⟩

@[simp] theorem kept_ite {c : Prop} [Decidable c] {x y : Option State} : Kept (if c then x else y) ↔ (c → Kept x) ∧ (¬c → Kept y) := by
  split <;> simp_all

@[simp] theorem formed_ite {c : Prop} [Decidable c] : (if c then s else t).Formed ↔ (c → s.Formed) ∧ (¬c → t.Formed) := by
  split <;> simp_all

theorem CacheStep.formed (hstep : CacheStep s t) (h : s.Formed) : t.Formed :=
  have hhost : t.hostMem = s.hostMem := (congrArg State.hostMem hstep.rest :)
  ⟨hstep.canonical h.1, hhost ▸ h.2⟩

namespace State.Formed

@[simp] theorem foldl {β : Type} {f : State → β → State} (h : s.Formed) (hf : ∀ u b, u.Formed → (f u b).Formed) (xs : List β) :
    (xs.foldl f s).Formed := foldl_keeps (P := State.Formed) hf h xs

@[simp] theorem foldl_snd {α β : Type} {f : α × State → β → α × State} {acc : α × State} (h : acc.2.Formed)
    (hf : ∀ a b, a.2.Formed → (f a b).2.Formed) (xs : List β) : (xs.foldl f acc).2.Formed := by
  induction xs generalizing acc with
  | nil => exact h
  | cons x xs ih => exact ih (hf acc x h)

/-- A change of local memory. -/
theorem withMem {m : List Host.Cell} (h : s.Formed) (hm : Memory.wf m = true) : ({ s with mem := m } : State).Formed := ⟨hm, h.2⟩

/-- A change of host memory. -/
theorem withHostMem {m : List Host.Cell} (h : s.Formed) (hm : Memory.wf m = true) : ({ s with hostMem := m } : State).Formed := ⟨h.1, hm⟩

end State.Formed

end Sys2Proof.Machine
end

section
/-! SUPPORT. What keeps the canonical form of memory: caches, records, versions, ends of instances, registers. -/

namespace Sys2Proof.Machine.State.Formed

variable {s : State}

@[simp] theorem freshNum (h : s.Formed) : s.freshNum.2.Formed := h

@[simp] theorem freeNum (h : s.Formed) : s.freeNum.2.Formed := h

@[simp] theorem chargeChain (h : s.Formed) (part : Nat) (chain : List RcbLink) (pj : Nat) : (s.chargeChain part chain pj).Formed := h

@[simp] theorem charge (h : s.Formed) (n pj : Nat) : (s.charge n pj).Formed := h

@[simp] theorem chargeGang (h : s.Formed) (g : Gang) (pj : Nat) : (s.chargeGang g pj).Formed := by
  unfold State.chargeGang
  repeat' split
  all_goals simp [State.Formed, h]

@[simp] theorem chargeInstr (h : s.Formed) (r : Nat) (c : Cls) (reads lines : Nat) : (s.chargeInstr r c reads lines).Formed := h

@[simp] theorem countWrite (h : s.Formed) (line : Nat) : (s.countWrite line).Formed := by
  simp [State.countWrite, State.Formed, h]

@[simp] theorem setMemLine (h : s.Formed) (line : Nat) (bs : List Byte) :
    (s.setMemLine line bs).Formed :=
  (CacheStep.setMemLine (.refl s) ..).formed h

@[simp] theorem l2Evict (h : s.Formed) (die line : Nat) : (s.l2Evict die line).Formed :=
  (CacheStep.l2Evict (.refl s) ..).formed h

@[simp] theorem l2Room (h : s.Formed) (die line : Nat) (ways : List Nat) :
    (s.l2Room die line ways).Formed :=
  (CacheStep.l2Room (.refl s) ..).formed h

@[simp] theorem l2Fill (h : s.Formed) (die line : Nat) (at_ : Attr) (st : Coh) (b : List Byte) :
    (s.l2Fill die line at_ st b).Formed :=
  (CacheStep.l2Fill (.refl s) ..).formed h

@[simp] theorem l2Touch (h : s.Formed) (die line hint : Nat) :
    (s.l2Touch die line hint).Formed :=
  (CacheStep.l2Touch (.refl s) ..).formed h

@[simp] theorem ask (h : s.Formed) (at_ : Attr) (die line : Nat) (kind : MsgKind) :
    (s.ask at_ die line kind).Formed :=
  (CacheStep.ask (.refl s) ..).formed h

@[simp] theorem dieGrant (h : s.Formed) (m : Msg) : (s.dieGrant m).Formed :=
  (CacheStep.dieGrant (.refl s) ..).formed h

@[simp] theorem dieAnswer (h : s.Formed) (m : Msg) : (s.dieAnswer m).Formed :=
  (CacheStep.dieAnswer (.refl s) ..).formed h

@[simp] theorem dirPut (h : s.Formed) (home line : Nat) (e : DirEntry) :
    (s.dirPut home line e).Formed :=
  (CacheStep.dirPut (.refl s) ..).formed h

@[simp] theorem dirDel (h : s.Formed) (home line : Nat) : (s.dirDel home line).Formed :=
  (CacheStep.dirDel (.refl s) ..).formed h

@[simp] theorem homeWriteBack (h : s.Formed) (home die line : Nat) (data : Option (List Byte)) :
    (s.homeWriteBack home die line data).Formed :=
  (CacheStep.homeWriteBack (.refl s) ..).formed h

@[simp] theorem landLine (h : s.Formed) (home line : Nat) : (s.landLine home line).Formed :=
  (CacheStep.landLine (.refl s) ..).formed h

@[simp] theorem recallFrom (h : s.Formed) (home line : Nat) (kind : MsgKind) (die : Nat) :
    (s.recallFrom home line kind die).Formed :=
  (CacheStep.recallFrom (.refl s) ..).formed h

@[simp] theorem dirRecall (h : s.Formed) (home line : Nat) : (s.dirRecall home line).Formed :=
  (CacheStep.dirRecall (.refl s) ..).formed h

@[simp] theorem finishTxn (h : s.Formed) (home line : Nat) (e : DirEntry) (t : Txn) :
    (s.finishTxn home line e t).Formed :=
  (CacheStep.finishTxn (.refl s) ..).formed h

@[simp] theorem beginTxn (h : s.Formed) (home line : Nat) (e : DirEntry) (die : Nat) (kind : MsgKind) :
    (s.beginTxn home line e die kind).Formed :=
  (CacheStep.beginTxn (.refl s) ..).formed h

@[simp] theorem homeRequest (h : s.Formed) (home die line : Nat) (kind : MsgKind) :
    (s.homeRequest home die line kind).Formed :=
  (CacheStep.homeRequest (.refl s) ..).formed h

@[simp] theorem homeAnswer (h : s.Formed) (home die line : Nat) (data : Option (List Byte)) :
    (s.homeAnswer home die line data).Formed :=
  (CacheStep.homeAnswer (.refl s) ..).formed h

@[simp] theorem deliver (h : s.Formed) (m : Msg) : (s.deliver m).Formed :=
  (CacheStep.deliver (.refl s) ..).formed h

@[simp] theorem drain (h : s.Formed) (x0 x1 x2 : Nat) : (State.drain x0 x1 x2 s).Formed :=
  (CacheStep.drain (.refl s) ..).formed h

@[simp] theorem quiet (h : s.Formed) (home line : Nat) : (s.quiet home line).Formed :=
  (CacheStep.quiet (.refl s) ..).formed h

@[simp] theorem obtain (h : s.Formed) (at_ : Attr) (die line : Nat) (own : Bool) :
    (s.obtain at_ die line own).Formed :=
  (CacheStep.obtain (.refl s) ..).formed h

@[simp] theorem purge (h : s.Formed) (home line : Nat) : (s.purge home line).Formed :=
  (CacheStep.purge (.refl s) ..).formed h

@[simp] theorem readLine (h : s.Formed) (die : Nat) (at_ : Attr) (line : Nat) :
    (s.readLine die at_ line).2.Formed :=
  (CacheStep.readLine (.refl s) ..).formed h

@[simp] theorem writeLine (h : s.Formed) (die : Nat) (at_ : Attr) (line : Nat) (new : List (Option Byte)) :
    (s.writeLine die at_ line new).Formed :=
  (CacheStep.writeLine (.refl s) ..).formed h

@[simp] theorem writeCoh (h : s.Formed) (die : Nat) (at_ : Attr) (ws : List (Nat × Byte)) :
    (s.writeCoh die at_ ws).Formed :=
  (CacheStep.writeCoh (.refl s) ..).formed h

@[simp] theorem readCoh (h : s.Formed) (die : Nat) (at_ : Attr) (pa n : Nat) :
    (s.readCoh die at_ pa n).2.Formed :=
  (CacheStep.readCoh (.refl s) ..).formed h

@[simp] theorem readSync (h : s.Formed) (die : Nat) (at_ : Attr) (pa n : Nat) :
    (s.readSync die at_ pa n).2.Formed :=
  (CacheStep.readSync (.refl s) ..).formed h

@[simp] theorem noteWrites (h : s.Formed) (core : Nat) (secs : List Nat) :
    (s.noteWrites core secs).Formed :=
  (CacheStep.noteWrites (.refl s) ..).formed h

@[simp] theorem noteEngine (h : s.Formed) (core : Nat) (secs : List Nat) :
    (s.noteEngine core secs).Formed :=
  (CacheStep.noteEngine (.refl s) ..).formed h

@[simp] theorem noteHost (h : s.Formed) (g : Signature) : (s.noteHost g).Formed :=
  (CacheStep.noteHost (.refl s) ..).formed h

@[simp] theorem cleanSector (h : s.Formed) (core sec : Nat) :
    (s.cleanSector core sec).Formed :=
  (CacheStep.cleanSector (.refl s) ..).formed h

@[simp] theorem dropSector (h : s.Formed) (core sec : Nat) :
    (s.dropSector core sec).Formed :=
  (CacheStep.dropSector (.refl s) ..).formed h

@[simp] theorem l1Evict (h : s.Formed) (core line : Nat) : (s.l1Evict core line).Formed :=
  (CacheStep.l1Evict (.refl s) ..).formed h

@[simp] theorem l1Room (h : s.Formed) (core line : Nat) : (s.l1Room core line).Formed :=
  (CacheStep.l1Room (.refl s) ..).formed h

@[simp] theorem l1Shrink (h : s.Formed) (core gran : Nat) : (s.l1Shrink core gran).Formed :=
  (CacheStep.l1Shrink (.refl s) ..).formed h

@[simp] theorem l1Touch (h : s.Formed) (core hint line : Nat) :
    (s.l1Touch core hint line).Formed :=
  (CacheStep.l1Touch (.refl s) ..).formed h

@[simp] theorem fillSector (h : s.Formed) (core : Nat) (at_ : Attr) (sec : Nat) :
    (s.fillSector core at_ sec).Formed :=
  (CacheStep.fillSector (.refl s) ..).formed h

@[simp] theorem readPlain (h : s.Formed) (core : Nat) (at_ : Attr) (hint pa : Nat) :
    (s.readPlain core at_ hint pa).2.Formed :=
  (CacheStep.readPlain (.refl s) ..).formed h

@[simp] theorem pokeSector (h : s.Formed) (core sec : Nat) (ws : List (Nat × Byte)) (through : Bool) :
    (s.pokeSector core sec ws through).Formed :=
  (CacheStep.pokeSector (.refl s) ..).formed h

@[simp] theorem writePlain (h : s.Formed) (core : Nat) (at_ : Attr) (hint : Nat) (ws : List (Nat × Byte)) :
    (s.writePlain core at_ hint ws).Formed :=
  (CacheStep.writePlain (.refl s) ..).formed h

@[simp] theorem syncSectors (h : s.Formed) (core : Nat) (as : List Nat) :
    (s.syncSectors core as).Formed :=
  (CacheStep.syncSectors (.refl s) ..).formed h

@[simp] theorem publish (h : s.Formed) (core scope : Nat) (g : Signature) :
    (s.publish core scope g).Formed :=
  (CacheStep.publish (.refl s) ..).formed h

@[simp] theorem release (h : s.Formed) (core scope : Nat) : (s.release core scope).Formed :=
  (CacheStep.release (.refl s) ..).formed h

@[simp] theorem noteRemote (h : s.Formed) (core pkg : Nat) : (s.noteRemote core pkg).Formed := h

@[simp] theorem sendRelease (h : s.Formed) (core pkg : Nat) : (s.sendRelease core pkg).Formed := h

@[simp] theorem followRelease (h : s.Formed) (core scope : Nat) : (s.followRelease core scope).Formed := by
  simp -implicitDefEqProofs +contextual [State.followRelease, State.Formed, h]

@[simp] theorem acknowledged (h : s.Formed) (core id : Nat) : (s.acknowledged core id).Formed := by
  simp -implicitDefEqProofs +contextual [State.acknowledged, State.Formed, h]

@[simp] theorem domainWait (h : s.Formed) (core scope : Nat) : Kept (s.domainWait core scope) := by
  simp [State.domainWait, State.Formed, h]

@[simp] theorem engineJoin (h : s.Formed) (core : Nat) : (s.engineJoin core).Formed :=
  (CacheStep.engineJoin (.refl s) ..).formed h

@[simp] theorem acquire (h : s.Formed) (core scope : Nat) : (s.acquire core scope).Formed :=
  (CacheStep.acquire (.refl s) ..).formed h

@[simp] theorem evictL1 (h : s.Formed) (k core : Nat) : (s.evictL1 k core).Formed :=
  (CacheStep.evictL1 (.refl s) ..).formed h

@[simp] theorem clearMarks (h : s.Formed) (as : List Nat) : (s.clearMarks as).Formed := h

@[simp] theorem postRing (h : s.Formed) (p k : Nat) (w0 w1 : DWord) : (s.postRing p k w0 w1).Formed := h

@[simp] theorem postEvent (h : s.Formed) (p kind low : Nat) : (s.postEvent p kind low).Formed := h

@[simp] theorem postCompletion (h : s.Formed) (p : Nat) (addr : DWord) (status entry : Nat) (rerun : Bool) :
    (s.postCompletion p addr status entry rerun).Formed := h

@[simp] theorem settleEnds (h : s.Formed) : s.settleEnds.Formed := by
  simp -implicitDefEqProofs +contextual [State.settleEnds, State.Formed, h]

@[simp] theorem enterRecord (h : s.Formed) (e : FaultEntry) : Kept (s.enterRecord e) := by
  unfold State.enterRecord
  repeat' split
  all_goals simp [State.Formed, h]

@[simp] theorem recordSeq (h : s.Formed) (fdom part kind verdict test : Nat) (node : DWord) (w2 page w4 link detail : Nat) (final : Bool) :
    (s.recordSeq fdom part kind verdict test node w2 page w4 link detail final).2.Formed := by
  have hkept := enterRecord (s := { s with recSeq := s.recSeq + 1 }) h
  unfold State.recordSeq
  dsimp only
  split
  · next t ht => exact hkept _ t ht
  · split <;> exact h

@[simp] theorem recordFault (h : s.Formed) (fdom part kind verdict test : Nat) (node : DWord) (w2 page w4 link detail : Nat)
    (final : Bool) : (s.recordFault fdom part kind verdict test node w2 page w4 link detail final).Formed := by
  simp [State.recordFault, State.Formed, h]

@[simp] theorem flushHeld (h : s.Formed) : s.flushHeld.Formed := by
  unfold State.flushHeld
  extract_lets u n
  have hu : u.Formed := foldl h (fun v e hv => by
    split
    · next t ht => exact hv.enterRecord e t ht
    · exact hv) _
  split
  · exact recordFault (s := { u with lost := 0 }) hu ..
  · exact hu

@[simp] theorem amendRecord (h : s.Formed) (seq : Nat) (f : List DWord → List DWord) (final : Bool) :
    (s.amendRecord seq f final).Formed := by
  simp [State.amendRecord, State.Formed, h]

@[simp] theorem updUid (h : s.Formed) (uid : Nat) (f : Node → Node) : (s.updUid uid f).Formed := by
  unfold State.updUid
  repeat' split
  all_goals simp [State.Formed, h]

@[simp] theorem dropPairTlb (h : s.Formed) (pair : Nat) : (s.dropPairTlb pair).Formed := h

@[simp] theorem postNotice (h : s.Formed) (pair version part : Nat) (void unw : Bool) :
    (s.postNotice pair version part void unw).Formed := h

@[simp] theorem updVer (h : s.Formed) (k v : Nat) (f : Ver → Ver) : (s.updVer k v f).Formed := h

@[simp] theorem enterRead (h : s.Formed) (n : Nat) (v : VerRef) : (s.enterRead n v).Formed := by
  simp [State.enterRead, State.Formed, h]

@[simp] theorem recordRead (h : s.Formed) (n pair : Nat) : (s.recordRead n pair).Formed := by
  simp [State.recordRead, State.Formed, h]

@[simp] theorem markVoid (h : s.Formed) (pair v : Nat) : (s.markVoid pair v).Formed := by
  simp [State.markVoid, State.Formed, h]

@[simp] theorem countDependant (h : s.Formed) (cause n : Nat) : (s.countDependant cause n).Formed := h

@[simp] theorem recordDependant (h : s.Formed) (x : Node) (page v n cause : Nat) : (s.recordDependant x page v n cause).Formed := by
  have hseq := h.recordSeq (effFDOM x.eff) ((x.versions.map fun u => (s.pair u.2.1).part).headD 0) 12 0 0 x.addr
    (s.firstCore x * 2 ^ 56) page (v * 2 ^ 32 + n * 2 ^ 16) cause 0 true
  exact (hseq.countDependant cause n).updUid ..

@[simp] theorem postDependant (h : s.Formed) (x : Node) (part : Nat) : (s.postDependant x part).Formed := by
  simp -implicitDefEqProofs +contextual [State.postDependant, State.Formed, h]

@[simp] theorem doom (h : s.Formed) (cause : Nat) (x : Node) : (s.doom cause x).2.Formed := by
  unfold State.doom
  dsimp only
  have hopen (v : State) (hv : v.Formed) (us : List (Nat × Nat × Nat)) :
      (us.foldl (fun s u => s.updVer u.2.1 u.2.2 fun q => { q with doomed := true }) v).Formed :=
    foldl hv (fun _ _ hu => hu.updVer ..) _
  split
  · exact hopen _ (h.updUid ..) _
  · exact (hopen _ (h.updUid ..) _).recordDependant ..

@[simp] theorem voidSpread (h : s.Formed) (n cause : Nat) (vs : List (Nat × Nat)) (ds : List Nat) :
    (State.voidSpread n cause vs ds s).2.Formed := by
  induction n generalizing vs ds s with
  | zero => exact h
  | succ n ih =>
    cases vs with
    | nil => exact h
    | cons v vs =>
      unfold State.voidSpread
      dsimp only
      split
      · exact ih h _ _
      · refine ih (foldl_snd (acc := ([], s.markVoid v.1 v.2)) (h.markVoid ..) (fun a x ha => ?_) _) _ _
        exact ha.doom ..

@[simp] theorem voidFor (h : s.Formed) (rerun : Bool) (cause part : Nat) (ds : List Nat) (vs : List (Nat × Nat)) :
    (s.voidFor rerun cause part ds vs).Formed := by
  unfold State.voidFor
  dsimp only
  split
  · exact foldl (h.voidSpread ..) (fun _ x hu => hu.postDependant ..) _
  · exact h.voidSpread ..

@[simp] theorem voidAll (h : s.Formed) (rerun : Bool) (cause part : Nat) (vs : List (Nat × Nat)) :
    (s.voidAll rerun cause part vs).Formed := by
  simp [State.voidAll, State.Formed, h]

@[simp] theorem doomAll (h : s.Formed) (rerun : Bool) (cause part : Nat) (xs : List Node) : (s.doomAll rerun cause part xs).Formed := by
  unfold State.doomAll
  refine voidFor (foldl_snd (acc := ([], s)) h (fun a x ha => ?_) _) ..
  exact ha.doom ..

@[simp] theorem voidVersion (h : s.Formed) (rerun : Bool) (cause pair v : Nat) : (s.voidVersion rerun cause pair v).Formed := by
  simp [State.voidVersion, State.Formed, h]

@[simp] theorem voidNode (h : s.Formed) (x : Node) (rerun : Bool) (cause : Nat) : (s.voidNode x rerun cause).Formed := by
  simp [State.voidNode, State.Formed, h]

@[simp] theorem dropColls (h : s.Formed) (rs : List Nat) (every : Bool) : (s.dropColls rs every).Formed := by
  simp -implicitDefEqProofs +contextual [State.dropColls, State.Formed, h]

@[simp] theorem stopGangs (h : s.Formed) (n : Nat) (kept : List Nat) : (s.stopGangs n kept).Formed := by
  unfold State.stopGangs
  refine foldl h (fun u p hu => ?_) _
  have hdrop := hu.dropColls ((streamsOf p.1 p.2).filter fun r => !kept.contains r) p.2.parked
  refine foldl (foldl hdrop (fun v r hv => ?_) _) (fun v r hv => ?_) _
  · exact hv
  · exact hv

@[simp] theorem rcbPut (h : s.Formed) (part : Nat) (u : RcbUse) (k v : Nat) : (s.rcbPut part u k v).Formed := by
  simp [State.rcbPut, State.Formed, h]

@[simp] theorem showCharges (h : s.Formed) (part : Nat) (chain : List RcbLink) : (s.showCharges part chain).Formed := by
  unfold State.showCharges
  refine foldl h (fun u l hu => ?_) _
  dsimp only
  split
  · exact hu
  · split
    · exact (hu.rcbPut ..).rcbPut ..
    · exact hu.rcbPut ..

@[simp] theorem leaveTable (h : s.Formed) (n : Nat) (st : NodeState) (status : Nat) : (s.leaveTable n st status).Formed := by
  simp -implicitDefEqProofs +contextual [State.leaveTable, State.Formed, h]

@[simp] theorem endOne (h : s.Formed) (n status : Nat) : (s.endOne n status).Formed := by
  unfold State.endOne
  extract_lets x status' u v w word
  have hw : w.Formed := ((h.stopGangs n []).voidNode x false 0).leaveTable ..
  split
  · exact settleEnds (s := { w with endRecs := w.endRecs ++ [(x.uid, partOfNode n, x.addr, word)] }) hw
  · exact hw

@[simp] theorem endNode (h : s.Formed) (k n status : Nat) : (State.endNode k n status s).Formed := by
  induction k generalizing n status s with
  | zero => exact h
  | succ k ih =>
    unfold State.endNode
    split
    · exact h
    · exact foldl (h.endOne ..) (fun _ d hu => ih hu d _) _

@[simp] theorem endInstance (h : s.Formed) (n status : Nat) : (s.endInstance n status).Formed := h.endNode ..

@[simp] theorem endHandled (h : s.Formed) (keep : Nat → Bool) (n status : Nat) : (s.endHandled keep n status).Formed := by
  unfold State.endHandled
  repeat' split
  all_goals simp [State.Formed, h]

@[simp] theorem endSet (h : s.Formed) (keep : Nat → Bool) (ns : List Nat) (status : Nat) :
    (s.endSet keep ns status).Formed :=
  foldl (foldl h (fun _ n hu => hu.endHandled keep n status) ns) (fun _ d hu => hu.endInstance d 0x8003) _

@[simp] theorem endDomain (h : s.Formed) (keep : Nat → Bool) (part fdom status : Nat) : (s.endDomain keep part fdom status).Formed := by
  simp [State.endDomain, State.Formed, h]

@[simp] theorem askWake (h : s.Formed) (cl : Nat) : (s.askWake cl).Formed := by
  simp [State.askWake, State.Formed, h]

@[simp] theorem writeIslctl (h : s.Formed) (host : Bool) (cl : Nat) (v : Word) : (s.writeIslctl host cl v).Formed := by
  simp -implicitDefEqProofs +contextual [State.writeIslctl, State.Formed, h]

@[simp] theorem updateLevel (h : s.Formed) (k : Nat) : (s.updateLevel k).Formed := by
  simp -implicitDefEqProofs +contextual [State.updateLevel, State.Formed, h]

@[simp] theorem updateLevels (h : s.Formed) : s.updateLevels.Formed := by
  simp -implicitDefEqProofs +contextual [State.updateLevels, State.Formed, h]

@[simp] theorem setPkgLevel (h : s.Formed) (l : Nat) : (s.setPkgLevel l).Formed := by
  simp [State.setPkgLevel, State.Formed, h]

@[simp] theorem writePshed (h : s.Formed) (k : Nat) (v : Word) : (s.writePshed k v).Formed := by
  simp -implicitDefEqProofs +contextual [State.writePshed, State.Formed, h]

@[simp] theorem admitFrom (h : s.Formed) (k : Nat) (xs : List (DWord × Bool)) : (State.admitFrom k xs s).Formed := by
  induction xs generalizing s with
  | nil => exact h
  | cons x xs ih =>
    simp -implicitDefEqProofs +contextual [State.admitFrom, State.Formed, h, ih]

@[simp] theorem admitPosts (h : s.Formed) (k : Nat) : (s.admitPosts k).Formed := h.admitFrom ..

@[simp] theorem submitPost (h : s.Formed) (k : Nat) (v : Word) : (s.submitPost k v).Formed := by
  simp -implicitDefEqProofs +contextual [State.submitPost, State.Formed, h]

@[simp] theorem writeFabid (h : s.Formed) (v : Word) : (s.writeFabid v).Formed := by
  simp [State.writeFabid, State.Formed, h]

@[simp] theorem writeReg (h : s.Formed) (who : Agent) (off : Nat) (v : Word) : (s.writeReg who off v).Formed := by
  simp [State.writeReg, State.Formed, h]

@[simp] theorem writeRegBytes (h : s.Formed) (who : Agent) (off : Nat) (bs : List Byte) : (s.writeRegBytes who off bs).Formed := by
  simp [State.writeRegBytes, State.Formed, h]

@[simp] theorem tableEntry (h : s.Formed) (part die pa : Nat) :
    (s.tableEntry part die pa).2.Formed :=
  (CacheStep.tableEntry (.refl s) ..).formed h

@[simp] theorem cacheWalk (h : s.Formed) (part die pa e : Nat) :
    (s.cacheWalk part die pa e).Formed :=
  (CacheStep.cacheWalk (.refl s) ..).formed h

@[simp] theorem walkFrom (h : s.Formed) (part die va x0 x1 x2 : Nat) :
    (State.walkFrom part die va x0 x1 x2 s).2.Formed :=
  (CacheStep.walkFrom (.refl s) ..).formed h

@[simp] theorem walk (h : s.Formed) (part die va : Nat) : (s.walk part die va).2.Formed :=
  (CacheStep.walk (.refl s) ..).formed h

@[simp] theorem translate (h : s.Formed) (core part n va : Nat) :
    (s.translate core part n va).2.Formed :=
  (CacheStep.translate (.refl s) ..).formed h

@[simp] theorem translatePort (h : s.Formed) (cl part n va : Nat) : (s.translatePort cl part n va).2.Formed := by
  unfold State.translatePort
  dsimp only
  repeat' split
  all_goals simp [State.Formed, h]

@[simp] theorem spotOf (h : s.Formed) (g : Gang) (priv : Bool) (k : Acc) (va : Nat) :
    (s.spotOf g priv k va).2.Formed :=
  (CacheStep.spotOf (.refl s) ..).formed h

@[simp] theorem spotsOf (h : s.Formed) (g : Gang) (priv : Bool) (k : Acc) (va n : Nat) :
    (s.spotsOf g priv k va n).2.Formed :=
  (CacheStep.spotsOf (.refl s) ..).formed h

@[simp] theorem tlbRemove (h : s.Formed) (core scope part : Nat) (va : Option Nat) : (s.tlbRemove core scope part va).Formed := h

theorem assay {f : Ev → State → Option State} {e : Ev} (hf : Kept (f e s)) : Kept (assay f e s) := by
  unfold Machine.assay
  intro t ht
  obtain ⟨u, hu, rfl⟩ := Option.map_eq_some_iff.mp ht
  split
  · exact hf u hu
  · exact hf u hu

end Sys2Proof.Machine.State.Formed
end

section
/-! SUPPORT. What keeps the canonical form of memory: traps, the accesses of streams and engines, operands and results. -/

namespace Sys2Proof.Machine

/-- The states that a stop carries are in canonical form. -/
def Stop.Formed : Stop → Prop
  | .trap _ => True
  | .trapAfter _ s => s.Formed
  | .stall s => s.Formed

/-- A computation gives a value that a predicate holds for, or a stop whose states are in canonical form. -/
def Sound {α : Type} (p : α → Prop) : Except Stop α → Prop
  | .ok a => p a
  | .error e => e.Formed

section
variable {α β : Type} {p : α → Prop} {q : β → Prop} {s : State}

@[simp] theorem sound_ok {a : α} : Sound p (.ok a) ↔ p a := Iff.rfl
@[simp] theorem sound_pure {a : α} : Sound p (pure a) ↔ p a := Iff.rfl
@[simp] theorem sound_trap {t : Trap} : Sound p (.error (.trap t)) := trivial
@[simp] theorem sound_trapAfter {t : Trap} : Sound p (.error (.trapAfter t s)) ↔ s.Formed := Iff.rfl
@[simp] theorem sound_stall : Sound p (.error (.stall s)) ↔ s.Formed := Iff.rfl
@[simp] theorem sound_illegal {r sub : Nat} : Sound p (.error (s.illegal r sub)) := trivial
@[simp] theorem sound_privilege {r sub : Nat} : Sound p (.error (s.privilege r sub)) := trivial
@[simp] theorem sound_streamFault {r cause info : Nat} : Sound p (.error (s.streamFault r cause info)) := trivial

@[simp] theorem sound_ite {c : Prop} [Decidable c] {x y : Except Stop α} :
    Sound p (if c then x else y) ↔ (c → Sound p x) ∧ (¬c → Sound p y) := by
  split <;> simp_all

theorem Sound.bind {x : Except Stop α} {f : α → Except Stop β} (hx : Sound p x) (hf : ∀ a, p a → Sound q (f a)) :
    Sound q (x >>= f) := by
  cases x with
  | ok a => exact hf a hx
  | error e => exact hx

theorem Sound.mono {p' : α → Prop} {x : Except Stop α} (hx : Sound p x) (h : ∀ a, p a → p' a) : Sound p' x := by
  cases x with
  | ok a => exact h a hx
  | error e => exact hx

/-- A check that gives nothing. -/
abbrev Safe (x : Except Stop α) : Prop := Sound (fun _ => True) x

theorem Safe.bind {x : Except Stop α} {f : α → Except Stop β} (hx : Safe x) (hf : ∀ a, Sound q (f a)) : Sound q (x >>= f) :=
  Sound.bind hx fun a _ => hf a

end

namespace State.Formed

variable {s : State}

@[simp] theorem sendRemote (h : s.Formed) (core : Nat) (stream : Option Nat) (pkg pa len lane kind : Nat) (data : List Byte)
    (op : Option Nat) : (s.sendRemote core stream pkg pa len lane kind data op).Formed := h

@[simp] theorem awaitRemote (h : s.Formed) (r pkg pa len : Nat) : Kept (s.awaitRemote r pkg pa len) := by
  simp [State.awaitRemote, State.Formed, h]

@[simp] theorem pagePlace (h : s.Formed) (r : Nat) (sup : Bool) (page : Nat) : (s.pagePlace r sup page).2.Formed := by
  have hspot := h.spotOf (s.gangAt r) (s.stream r).priv .read (va56 ((s.imageBase r sup).toNat + 4096 * page))
  unfold State.pagePlace
  dsimp only
  split
  · split <;> exact h
  · generalize s.spotOf (s.gangAt r) (s.stream r).priv .read (va56 ((s.imageBase r sup).toNat + 4096 * page)) = x at hspot ⊢
    obtain ⟨m | p, u⟩ := x <;> exact hspot

@[simp] theorem pageAwaits (h : s.Formed) (r : Nat) (sup : Bool) (page : Nat) : Kept (s.pageAwaits r sup page) := by
  have hplace := h.pagePlace r sup page
  unfold State.pageAwaits
  generalize s.pagePlace r sup page = x at hplace ⊢
  obtain ⟨t | ⟨pa, at_, size⟩, u⟩ := x
  · exact .none
  · dsimp only
    split
    · exact hplace.awaitRemote _ _ _ _
    · simp [hplace]
    · exact .none

@[simp] theorem readPage (h : s.Formed) (r : Nat) (sup : Bool) (page : Nat) : ∀ x, s.readPage r sup page = .ok x → x.2.Formed := by
  have hplace := h.pagePlace r sup page
  unfold State.readPage
  generalize s.pagePlace r sup page = x at hplace ⊢
  obtain ⟨t | ⟨pa, at_, size⟩, u⟩ := x
  · exact fun _ hx => nomatch hx
  · intro x hx
    dsimp only at hx hplace
    split at hx
    · split at hx
      · cases hx
      · cases hx
      · rw [← Except.ok.inj hx]; exact hplace.readSync ..
    · split at hx
      · cases hx
      · rw [← Except.ok.inj hx]; exact hplace
    · split at hx
      · cases hx
      · rw [← Except.ok.inj hx]; exact hplace
    · rw [← Except.ok.inj hx]; exact hplace
    · rw [← Except.ok.inj hx]; exact hplace

@[simp] theorem placePage (h : s.Formed) (r : Nat) (sup : Bool) (page : Nat) (bs : List Byte) : (s.placePage r sup page bs).Formed := h

@[simp] theorem awaitData (h : s.Formed) (r : Nat) : (s.awaitData r).Formed := h

@[simp] theorem loadPage (h : s.Formed) (r : Nat) (sup : Bool) (page : Nat) : Sound State.Formed (s.loadPage r sup page) := by
  unfold State.loadPage
  split
  · trivial
  · split
    · next u hu => exact awaitData (h.pageAwaits _ _ _ u hu) r
    · split
      · trivial
      · next bs u hu => exact placePage (h.readPage _ _ _ _ hu) ..

@[simp] theorem voidCrew (h : s.Formed) (r : Nat) : (s.voidCrew r).Formed := by
  simp -implicitDefEqProofs +contextual [State.voidCrew, State.Formed, h]

@[simp] theorem makeReady (h : s.Formed) (k : Nat) : (s.makeReady k).Formed := h

@[simp] theorem switchOut (h : s.Formed) (r : Nat) (waiting : Bool) : (s.switchOut r waiting).Formed := by
  simp [State.switchOut, State.Formed, h]

@[simp] theorem complete (h : s.Formed) (r : Nat) (c : Cls) (reads lines : Nat) : (s.complete r c reads lines).Formed := h

@[simp] theorem jump (h : s.Formed) (r : Nat) (c : Cls) (reads : Nat) (pc : BitVec 24) : (s.jump r c reads pc).Formed := h

@[simp] theorem supervisorFault (h : s.Formed) (r status : Nat) : (s.supervisorFault r status).Formed := by
  simp [State.supervisorFault, State.Formed, h]

@[simp] theorem systemTrap (h : s.Formed) (r : Nat) (x : Trap) : (s.systemTrap r x).Formed := by
  simp -implicitDefEqProofs +contextual [State.systemTrap, State.Formed, h]

@[simp] theorem userTrap (h : s.Formed) (r : Nat) (x : Trap) : (s.userTrap r x).Formed := by
  unfold State.userTrap
  dsimp only
  repeat' split
  all_goals simp -implicitDefEqProofs +contextual [State.Formed, h]

@[simp] theorem stopCrew (h : s.Formed) (k : Nat) : (s.stopCrew k).Formed := by
  simp -implicitDefEqProofs +contextual [State.stopCrew, State.Formed, h]

@[simp] theorem deliverTrap (h : s.Formed) (r : Nat) (x : Trap) : (s.deliverTrap r x).Formed := by
  simp [State.deliverTrap, State.Formed, h]

@[simp] theorem takeTrap (h : s.Formed) (r : Nat) (x : Trap) : (s.takeTrap r x).Formed := by
  simp -implicitDefEqProofs +contextual [State.takeTrap, State.Formed, h]

theorem consumption {u : State} (h : s.Formed) (hu : u.Formed) (r : Nat) : (s.consumption r u).Formed := by
  unfold State.consumption
  split
  · exact hu
  · split
    · exact hu
    · exact takeTrap (s := { s with consumed := none }) h ..

@[simp] theorem settleEnd (h : s.Formed) (r : Nat) : (s.settleEnd r).Formed := by
  simp -implicitDefEqProofs +contextual [State.settleEnd, State.Formed, h]

@[simp] theorem settleGbar (h : s.Formed) (g : Nat) : (s.settleGbar g).Formed := by
  simp -implicitDefEqProofs +contextual [State.settleGbar, State.Formed, h]

@[simp] theorem settleMismatch (h : s.Formed) (g : Nat) : (s.settleMismatch g).Formed := by
  simp -implicitDefEqProofs +contextual [State.settleMismatch, State.Formed, h]

@[simp] theorem settleGang (h : s.Formed) (g : Nat) : (s.settleGang g).Formed := by
  simp [State.settleGang, State.Formed, h]

@[simp] theorem checkWrites (h : s.Formed) (r : Nat) (atomic : Bool) (xs : List (Ask × List Spot × Label)) :
    Safe (s.checkWrites r atomic xs) := by
  simp [State.checkWrites, laneTrap, h]

@[simp] theorem needRemote (h : s.Formed) (r kind : Nat) (xs : List (Ask × List Spot)) : Safe (s.needRemote r kind xs) := by
  unfold State.needRemote
  dsimp only
  split
  · exact h.awaitData r
  · split
    · exact awaitData (foldl h (fun u x hu => hu.sendRemote ..) _) r
    · split
      · trivial
      · trivial

@[simp] theorem checkMarks (s : State) (r : Nat) (xs : List (Ask × List Spot)) : Safe (s.checkMarks r xs) := by
  unfold State.checkMarks
  dsimp only
  repeat' split
  all_goals trivial

@[simp] theorem resolve (h : s.Formed) (r : Nat) (k : Acc) (asks : List Ask) : Sound (fun x => x.2.Formed) (s.resolve r k asks) := by
  unfold State.resolve
  extract_lets bad g priv
  split
  · trivial
  · have hfold : (asks.foldl (fun (acc : List (Ask × Except Miss (List Spot)) × State) a =>
        (acc.1 ++ [(a, (acc.2.spotsOf g priv k (va56 a.addr) a.n).1)], (acc.2.spotsOf g priv k (va56 a.addr) a.n).2)) ([], s)).2.Formed := by
      refine foldl_snd h (fun a b ha => ?_) asks
      exact ha.spotsOf ..
    dsimp only
    split
    · next m _ _ => cases m <;> trivial
    · exact hfold

@[simp] theorem writeHost (h : s.Formed) (part a : Nat) (bs : List Byte) : (s.writeHost part a bs).Formed := by
  unfold State.writeHost
  split
  · exact h.recordFault ..
  · exact h.withHostMem (Memory.wf_wrBytes h.2 _ _)

@[simp] theorem lend (h : s.Formed) (pkgs : List Nat) (vs : List (Nat × Nat)) : (s.lend pkgs vs).Formed := h

@[simp] theorem noteReads (h : s.Formed) (n : Nat) (xs : List Spot) : (s.noteReads n xs).Formed := by
  have hrest := lessNodes_noteReads s n xs
  have hmem : (s.noteReads n xs).mem = s.mem := (congrArg State.mem hrest :)
  have hhost : (s.noteReads n xs).hostMem = s.hostMem := (congrArg State.hostMem hrest :)
  unfold State.Formed
  rw [hmem, hhost]
  exact h

@[simp] theorem touchL1 (h : s.Formed) (r : Nat) (coh : Bool) (hint : Nat) (xs : List Spot) :
    (s.touchL1 r coh hint xs).Formed :=
  (CacheStep.touchL1 (.refl s) ..).formed h

@[simp] theorem readSpot (h : s.Formed) (r : Nat) (coh : Bool) (hint lane : Nat) (p : Spot) :
    (s.readSpot r coh hint lane p).2.Formed :=
  (CacheStep.readSpot (.refl s) ..).formed h

@[simp] theorem readSpots (h : s.Formed) (r : Nat) (coh : Bool) (hint lane : Nat) (xs : List Spot) :
    (s.readSpots r coh hint lane xs).2.Formed :=
  (CacheStep.readSpots (.refl s) ..).formed h

@[simp] theorem writeSpots (h : s.Formed) (r : Nat) (coh : Bool) (hint lane : Nat) (ws : List (Spot × Byte)) :
    (s.writeSpots r coh hint lane ws).Formed := by
  unfold State.writeSpots
  refine foldl h (fun u g hu => ?_) _
  dsimp only
  split
  · split
    · exact ((hu.syncSectors ..).writeCoh ..).noteWrites ..
    · exact hu.writePlain ..
  · exact ((hu.sendRemote ..).noteRemote ..).noteWrites ..
  · exact (hu.writeHost ..).noteWrites ..
  · exact (hu.writeRegBytes ..).noteWrites ..
  · exact hu

theorem loadLanes (h : s.Formed) (r : Nat) (coh : Bool) (hint : Nat) (asks : List Ask) :
    Sound (fun l => l.st.Formed) (s.loadLanes r coh hint asks) := by
  refine (h.resolve r .read asks).bind fun x hx => (h.needRemote ..).bind fun _ => (checkMarks ..).bind fun _ => ?_
  refine foldl_snd (((hx.noteReads _ _).touchL1 ..)) (fun a b ha => ?_) x.1
  exact ha.readSpots ..

@[simp] theorem storeLanes (h : s.Formed) (r : Nat) (coh : Bool) (hint : Nat) (relScope : Option Nat) (asks : List (Ask × Nat × Label)) :
    Sound (fun x => x.1.Formed) (s.storeLanes r coh hint relScope asks) := by
  refine (h.resolve r .write (asks.map Prod.fst)).bind fun x hx => ?_
  obtain ⟨xs, u⟩ := x
  refine (h.checkWrites ..).bind fun _ => ?_
  extract_lets core order spots put write
  have hput (v : State) (hv : v.Formed) : Sound (fun x => x.1.Formed) (put v) := by
    have hfold : ((inOrder (fun x : (Ask × List Spot) × (Nat × Label) => x.1.1.lane) order (xs.zip (asks.map Prod.snd))).foldl
        (fun (t : State) x =>
          let (old, t) := if x.1.1.nib.isSome then t.readSpots r coh hint x.1.1.lane x.1.2 else ([], t)
          t.writeSpots r coh hint x.1.1.lane (x.1.2.zip (x.1.1.bytes old x.2.1))) (v.touchL1 r coh hint spots)).Formed := by
      refine foldl (hv.touchL1 ..) (fun t y ht => ?_) _
      dsimp only
      split
      · exact (ht.readSpots ..).writeSpots ..
      · exact ht.writeSpots ..
    show State.Formed _
    dsimp only
    split
    · split
      · exact hfold.clearMarks ..
      · exact ((hfold.clearMarks _).release ..).followRelease ..
    · exact hfold.clearMarks ..
  have hwrite : Sound (fun x => x.1.Formed) (write ()) := by
    dsimp only [write]
    split
    · exact hput u hx
    · split
      · next v hv => exact h.domainWait _ _ v hv
      · exact hput _ (hx.release ..)
  split
  · exact (h.needRemote ..).bind fun _ => hwrite
  · exact hwrite

theorem checkScratch (h : s.Formed) (r : Nat) (reads : Bool) (asks : List Ask) : Safe (s.checkScratch r reads asks) := by
  simp [State.checkScratch, laneTrap, h]

theorem loadScratch (h : s.Formed) (r : Nat) (asks : List Ask) : Sound (fun l => l.st.Formed) (s.loadScratch r asks) :=
  (h.checkScratch ..).bind fun _ => h

@[simp] theorem storeScratch (h : s.Formed) (r : Nat) (asks : List (Ask × Nat × Label)) :
    Sound (fun x => x.1.Formed) (s.storeScratch r asks) := (h.checkScratch ..).bind fun _ => h

@[simp] theorem engineFetch (h : s.Formed) (core op : Nat) (xs : List Spot) : Kept (s.engineFetch core op xs) := by
  simp -implicitDefEqProofs +contextual [State.engineFetch, State.Formed, h]

@[simp] theorem chargeEngine (h : s.Formed) (r pj : Nat) : (s.chargeEngine r pj).Formed := by
  unfold State.chargeEngine
  split <;> simp [State.Formed, h]

@[simp] theorem dropOp (h : s.Formed) (op : Nat) : (s.dropOp op).Formed := h

@[simp] theorem engineByte (h : s.Formed) (core op : Nat) (p : Spot) : (s.engineByte core op p).2.Formed := by
  unfold State.engineByte
  dsimp only
  repeat' split
  all_goals simp [State.Formed, h]

@[simp] theorem engineRead (h : s.Formed) (core op : Nat) (xs : List Spot) : (s.engineRead core op xs).2.Formed := by
  simp -implicitDefEqProofs +contextual [State.engineRead, State.Formed, h]

@[simp] theorem engineWrite (h : s.Formed) (core : Nat) (ws : List (Spot × Byte)) (op : Option Nat) :
    (s.engineWrite core ws op).Formed := by
  unfold State.engineWrite
  refine foldl h (fun u g hu => ?_) _
  dsimp only
  split
  · exact ((foldl hu (fun _ x hv => hv.cleanSector ..) _).writeCoh ..).noteEngine ..
  · exact ((hu.sendRemote ..).noteRemote ..).noteEngine ..
  · refine noteEngine ?_ ..
    split
    · exact hu.writeHost ..
    · exact foldl hu (fun _ w hv => hv.writeHost ..) _
  · exact hu

@[simp] theorem engineMarks (h : s.Formed) (g : Gang) (b : Bad) (ws : List Spot) : (s.engineMarks g b ws).Formed := by
  unfold State.engineMarks
  repeat' split
  all_goals simp -implicitDefEqProofs +contextual [State.Formed, h]

@[simp] theorem logBad (h : s.Formed) (g : Gang) (sub : Nat) (locs : List (Nat × Bad)) : (s.logBad g sub locs).Formed := by
  simp -implicitDefEqProofs +contextual [State.logBad, State.Formed, h]

@[simp] theorem engineSpot (h : s.Formed) (g : Gang) (k : Acc) (va : Nat) : (s.engineSpot g k va).2.Formed := by
  simp [State.engineSpot, State.Formed, h]

@[simp] theorem engineSpots (h : s.Formed) (g : Gang) (k : Acc) (x0 x1 : Nat) : (s.engineSpots g k x0 x1).2.Formed := by
  induction x1 generalizing x0 s with
  | zero => exact h
  | succ n ih =>
    have hspot := h.engineSpot g k x0
    unfold State.engineSpots
    generalize s.engineSpot g k x0 = y at hspot ⊢
    obtain ⟨e | p, u⟩ := y
    · exact hspot
    · have hrest := ih hspot ((x0 + 1) % 2 ^ 56)
      dsimp only
      generalize u.engineSpots g k ((x0 + 1) % 2 ^ 56) n = z at hrest ⊢
      obtain ⟨e | ps, v⟩ := z <;> exact hrest

@[simp] theorem readPort (h : s.Formed) (r : Nat) (mask : Word) (n : Nat) :
    Sound (fun x => x.2.Formed) (s.readPort r mask n) := (h.loadLanes ..).bind fun _ hx => hx

theorem checkPop (h : s.Formed) (r q : Nat) : Safe (s.checkPop r q) := by
  unfold State.checkPop
  split
  · simp [State.orphan, h]
  · simp [h, awaitData]

theorem checkPush (h : s.Formed) (r q : Nat) : Safe (s.checkPush r q) := by
  simp [State.checkPush, State.orphan, h]

theorem checkAll {α : Type} {f : α → Except Stop Unit} (hf : ∀ a, Safe (f a)) (xs : List α) : Safe (checkAll f xs) := by
  induction xs with
  | nil => trivial
  | cons x xs ih =>
    have hx := hf x
    unfold Machine.checkAll
    split
    · next e he => rw [he] at hx; exact hx
    · exact ih

@[simp] theorem noteBanks (h : s.Formed) (r : Nat) (ns : List Nat) : (s.noteBanks r ns).Formed := by
  unfold State.noteBanks
  split <;> simp [State.Formed, h]

theorem checkClass (s : State) (r : Nat) (ws : List Want) (dst : Option Dst) : Safe (s.checkClass r ws dst) := by
  unfold State.checkClass
  repeat' split
  all_goals trivial

theorem checkRoom (h : s.Formed) (r : Nat) (dst : Option Dst) : Safe (s.checkRoom r dst) := by
  unfold State.checkRoom
  split
  · simp [h, checkPush]
  · trivial

theorem checkPortDst (s : State) (r : Nat) (dst : Option Dst) : Safe (s.checkPortDst r dst) := by
  unfold State.checkPortDst
  split
  · simp
  · trivial

theorem foldlM_snd {α β : Type} {f : α × State → β → Except Stop (α × State)} {acc : α × State} (h : acc.2.Formed)
    (hf : ∀ a b, a.2.Formed → Sound (fun x => x.2.Formed) (f a b)) (xs : List β) : Sound (fun x => x.2.Formed) (xs.foldlM f acc) := by
  induction xs generalizing acc with
  | nil => exact h
  | cons x xs ih => exact (hf acc x h).bind fun a ha => ih ha

theorem peek (h : s.Formed) (r : Nat) (mask : Word) (ws : List Want) (dst : Option Dst) :
    Sound (fun p => p.st.Formed) (s.peek r mask ws dst) := by
  unfold State.peek
  extract_lets t dregs read ports queues latches dest
  have hread : Sound (fun p => p.st.Formed) (read ()) := by
    refine (checkPortDst ..).bind fun _ => Sound.bind (foldlM_snd (acc := ([], s)) h (fun a n ha => ?_) _) fun x hx => ?_
    · exact (ha.readPort ..).bind fun _ hu => hu
    · exact hx.noteBanks ..
  have hports : Sound (fun p => p.st.Formed) (ports ()) := by
    refine (checkAll (h.checkPop r) _).bind fun _ => (h.checkRoom ..).bind fun _ => ?_
    split
    · trivial
    · exact hread
  have hqueues : Sound (fun p => p.st.Formed) (queues ()) := by
    dsimp only [queues]
    split
    · exact h.awaitData r
    · exact hports
  have hlatches : Sound (fun p => p.st.Formed) (latches ()) := by
    dsimp only [latches]
    split
    · trivial
    · exact hqueues
  have hdest : Sound (fun p => p.st.Formed) (dest ()) := by
    dsimp only [dest]
    split
    · trivial
    · exact hlatches
  split
  · trivial
  · exact hdest

theorem commit {p : Peek} {r : Nat} (h : p.st.Formed) : (State.commit r p).Formed := by
  unfold State.commit
  refine foldl (foldl h (fun _ q hu => ?_) _) (fun _ n hu => ?_) _
  · exact hu
  · exact hu

@[simp] theorem writePort (h : s.Formed) (r : Nat) (mask : Word) (n : Nat) (f : Nat → Nat × Label) :
    Sound State.Formed (s.writePort r mask n f) := (h.storeLanes ..).bind fun _ hx => hx

@[simp] theorem writeDst (h : s.Formed) (r : Nat) (d : Dst) (mask : Word) (f : Nat → Nat × Label) :
    Sound State.Formed (s.writeDst r d mask f) := by
  unfold State.writeDst
  split
  · exact h
  · dsimp only
    split
    · exact h
    · have hw := h.writePort r mask (d.n - 60) f
      split
      · next e he => rw [he] at hw; exact hw
      · next u hu => rw [hu] at hw; exact hw

theorem write {p : Peek} (h : p.st.Formed) (r : Nat) (d : Dst) (mask : Word) (f : Nat → Nat × Label) :
    Sound State.Formed (p.write r d mask f) := (h.writeDst ..).bind fun u hu => commit (p := { p with st := u }) hu

theorem need (s : State) (r sub : Nat) (ok : Bool) : Safe (need s r sub ok) := by
  unfold Machine.need
  split <;> trivial

theorem needReg (s : State) (r n : Nat) : Safe (needReg s r n) := need ..

@[simp] theorem aluMask (h : s.Formed) (r : Nat) (c : Cls) (mask : Word) (lab : Label) (dst : Dst) (srcs : List Want) (draws : Bool)
    (f : Nat → List Nat → Word → Nat × Word) : Sound State.Formed (s.aluMask r c mask lab dst srcs draws f) := by
  refine (h.peek ..).bind fun p hp => (hp.write ..).bind fun u hu => ?_
  dsimp only
  split
  · exact complete (s := u.updStream r _) hu ..
  · exact hu.complete ..

@[simp] theorem alu (h : s.Formed) (r : Nat) (c : Cls) (m : Bool) (dst : Dst) (old : Bool) (srcs : List Want) (f : List Nat → Nat) :
    Sound State.Formed (s.alu r c m dst old srcs f) := by
  unfold State.alu
  dsimp only
  split
  · exact (needReg ..).bind fun _ => h.aluMask ..
  · exact h.aluMask ..

@[simp] theorem aluU (h : s.Formed) (r : Nat) (c : Cls) (d : Nat) (wide old : Bool) (lab : Label) (srcs : List Want) (f : List Nat → Nat) :
    Sound State.Formed (s.aluU r c d wide old lab srcs f) :=
      (need ..).bind fun _ => (h.peek ..).bind fun p hp => complete (s := (State.commit r p).updStream r _) hp.commit ..

end State.Formed

end Sys2Proof.Machine
end

section
/-! SUPPORT. What keeps the canonical form of memory: the plan of an instruction, instruction boundaries, loads and stores, and
atomics. -/

namespace Sys2Proof.Machine

/-- What an instruction or event leaves, where it leaves a state, is in canonical form. -/
def Stays (o : Host.Outcome State Fault Refusal) : Prop := ∀ t, o = .next t → t.Formed

section
variable {α β : Type} {q : α → Prop} {s : State}

@[simp] theorem stays_next : Stays (.next s) ↔ s.Formed := ⟨fun h => h s rfl, fun h _ ht => Host.Outcome.next.inj ht ▸ h⟩
@[simp] theorem stays_fault {f : Fault} : Stays (.fault f) := fun _ h => nomatch h
@[simp] theorem stays_refused {x : Refusal} : Stays (.refused x) := fun _ h => nomatch h

theorem run_stays {f : Nat → Except Stop State} (h : s.Formed) (hf : ∀ r, Sound State.Formed (f r)) : Stays (run s f) := by
  unfold run
  split
  · simp
  · next r _ =>
    have hr := hf r
    split
    · simp
    · split
      · next u hu => rw [hu] at hr; exact stays_next.2 (h.consumption hr r)
      · exact stays_next.2 (h.takeTrap ..)
      · next t u hu => rw [hu] at hr; exact stays_next.2 (State.Formed.takeTrap (s := u) hr ..)
      · next u hu => rw [hu] at hr; exact stays_next.2 hr

theorem event_stays {f : Ev → State → Option State} (h : s.Formed) (hf : Kept (f s.ev s)) : Stays (event s f) := by
  unfold event
  split
  · next u hu => exact stays_next.2 (hf u hu)
  · exact stays_next.2 h

@[simp] theorem sound_bind {q : β → Prop} {x : Except Stop α} {f : α → Except Stop β} :
    Sound q (x >>= f) ↔ Sound (fun a => Sound q (f a)) x := by
  cases x <;> rfl

@[simp] theorem sound_map {q : β → Prop} {x : Except Stop α} {f : α → β} : Sound q (f <$> x) ↔ Sound (fun a => q (f a)) x := by
  cases x <;> rfl

/-- A check that succeeds leaves what follows it to show. -/
theorem Safe.to {x : Except Stop α} (hx : Safe x) (hq : ∀ a, q a) : Sound q x := hx.mono fun a _ => hq a

@[simp] theorem sound_need {q : Unit → Prop} {r sub : Nat} {ok : Bool} (hq : ∀ a, q a) : Sound q (need s r sub ok) :=
  (State.Formed.need ..).to hq

@[simp] theorem sound_needHaul {q : Unit → Prop} {r : Nat} (hq : ∀ a, q a) : Sound q (needHaul s r) := sound_need hq
@[simp] theorem sound_needWork {q : Unit → Prop} {r : Nat} (hq : ∀ a, q a) : Sound q (needWork s r) := sound_need hq
@[simp] theorem sound_needReg {q : Unit → Prop} {r n : Nat} (hq : ∀ a, q a) : Sound q (needReg s r n) := sound_need hq

@[simp] theorem sound_typeIn {q : Nat → Prop} {r : Nat} {m : Bool} {ok : Nat → Bool} (hq : ∀ a, q a) : Sound q (s.typeIn r m ok) := by
  simp [State.typeIn, hq]

@[simp] theorem sound_needArrived {q : Unit → Prop} {r : Nat} {regs : List Nat} (h : s.Formed) (hq : ∀ a, q a) :
    Sound q (needArrived s r regs) := by
  simp [needArrived, h, hq]

@[simp] theorem sound_accessOf {q : Access → Prop} {r imm : Nat} {orders : List Nat} (hq : ∀ a, q a) :
    Sound q (s.accessOf r imm orders) := by
  simp [State.accessOf, hq]

@[simp] theorem sound_onStream {em : Word} {x : Except Stop α} : Sound q (onStream em x) ↔ Sound q x := by
  unfold onStream
  split
  · exact Iff.rfl
  · exact Iff.rfl

@[simp] theorem sound_checkAligned {q : Unit → Prop} {asks : List Ask} (hq : ∀ a, q a) : Sound q (checkAligned asks) := by
  simp [checkAligned, laneTrap, hq]

@[simp] theorem sound_checkScratch {q : Unit → Prop} {r : Nat} {reads : Bool} {asks : List Ask} (h : s.Formed) (hq : ∀ a, q a) :
    Sound q (s.checkScratch r reads asks) := (h.checkScratch ..).to hq

@[simp] theorem sound_checkWrites {q : Unit → Prop} {r : Nat} {atomic : Bool} {xs : List (Ask × List Spot × Label)} (h : s.Formed)
    (hq : ∀ a, q a) : Sound q (s.checkWrites r atomic xs) := (h.checkWrites ..).to hq

@[simp] theorem sound_needRemote {q : Unit → Prop} {r kind : Nat} {xs : List (Ask × List Spot)} (h : s.Formed) (hq : ∀ a, q a) :
    Sound q (s.needRemote r kind xs) := (h.needRemote ..).to hq

@[simp] theorem sound_checkMarks {q : Unit → Prop} {r : Nat} {xs : List (Ask × List Spot)} (hq : ∀ a, q a) :
    Sound q (s.checkMarks r xs) := (State.Formed.checkMarks ..).to hq

@[simp] theorem sound_checkLoadRoom {q : Unit → Prop} {r n : Nat} (h : s.Formed) (hq : ∀ a, q a) : Sound q (s.checkLoadRoom r n) := by
  simp [State.checkLoadRoom, State.orphan, h, hq]

@[simp] theorem sound_oldestStore {q : QEntry → Prop} {r n : Nat} (h : s.Formed) (hq : ∀ a, q a) : Sound q (s.oldestStore r n) := by
  unfold State.oldestStore
  split
  · exact hq _
  · simp [State.orphan, h]

@[simp] theorem sound_portStream {q : Nat → Prop} {r : Nat} {wrk : Bool} (hq : ∀ a, q a) : Sound q (s.portStream r wrk) := by
  simp [State.portStream, hq]

@[simp] theorem sound_atomField {q : Bool × Access → Prop} {r imm : Nat} {orders : List Nat} (hq : ∀ a, q a) :
    Sound q (s.atomField r imm orders) := by
  simp [State.atomField, hq]

@[simp] theorem sound_peek {q : Peek → Prop} {r : Nat} {mask : Word} {ws : List Want} {dst : Option Dst} (h : s.Formed)
    (hq : ∀ p : Peek, p.st.Formed → q p) : Sound q (s.peek r mask ws dst) := (h.peek ..).mono hq

@[simp] theorem sound_loadLanes {q : Loaded → Prop} {r hint : Nat} {coh : Bool} {asks : List Ask} (h : s.Formed)
    (hq : ∀ l : Loaded, l.st.Formed → q l) : Sound q (s.loadLanes r coh hint asks) := (h.loadLanes ..).mono hq

@[simp] theorem sound_loadScratch {q : Loaded → Prop} {r : Nat} {asks : List Ask} (h : s.Formed)
    (hq : ∀ l : Loaded, l.st.Formed → q l) : Sound q (s.loadScratch r asks) := (h.loadScratch ..).mono hq

@[simp] theorem sound_storeLanes {q : State × Nat → Prop} {r hint : Nat} {coh : Bool} {rel : Option Nat}
    {asks : List (Ask × Nat × Label)} (h : s.Formed) (hq : ∀ x : State × Nat, x.1.Formed → q x) :
    Sound q (s.storeLanes r coh hint rel asks) := (h.storeLanes ..).mono hq

@[simp] theorem sound_storeScratch {q : State × Nat → Prop} {r : Nat} {asks : List (Ask × Nat × Label)} (h : s.Formed)
    (hq : ∀ x : State × Nat, x.1.Formed → q x) : Sound q (s.storeScratch r asks) := (h.storeScratch ..).mono hq

@[simp] theorem sound_resolve {q : List (Ask × List Spot) × State → Prop} {r : Nat} {k : Acc} {asks : List Ask} (h : s.Formed)
    (hq : ∀ x : List (Ask × List Spot) × State, x.2.Formed → q x) : Sound q (s.resolve r k asks) := (h.resolve ..).mono hq

@[simp] theorem sound_writeDst {q : State → Prop} {r : Nat} {d : Dst} {mask : Word} {f : Nat → Nat × Label} (h : s.Formed)
    (hq : ∀ u : State, u.Formed → q u) : Sound q (s.writeDst r d mask f) := (h.writeDst ..).mono hq

@[simp] theorem sound_write {q : State → Prop} {p : Peek} {r : Nat} {d : Dst} {mask : Word} {f : Nat → Nat × Label} (h : p.st.Formed)
    (hq : ∀ u : State, u.Formed → q u) : Sound q (p.write r d mask f) := (State.Formed.write h ..).mono hq

@[simp] theorem sound_loadPage {q : State → Prop} {r page : Nat} {sup : Bool} (h : s.Formed) (hq : ∀ u : State, u.Formed → q u) :
    Sound q (s.loadPage r sup page) := (h.loadPage ..).mono hq

@[simp] theorem formed_commit {p : Peek} {r : Nat} (h : p.st.Formed) : (State.commit r p).Formed := h.commit

end

namespace State.Formed

variable {s : State}

@[simp] theorem wakeGang (h : s.Formed) (g : Nat) : (s.wakeGang g).Formed := by
  simp -implicitDefEqProofs +contextual [State.wakeGang, State.Formed, h]

@[simp] theorem watchReconv (h : s.Formed) (g : Nat) : (s.watchReconv g).Formed := by
  unfold State.watchReconv
  split
  · exact h
  · exact foldl h (fun u c hu => by simp -implicitDefEqProofs +contextual [State.Formed, hu]) _

@[simp] theorem stopForPark (h : s.Formed) (g : Nat) : (s.stopForPark g).Formed := by
  simp -implicitDefEqProofs +contextual [State.stopForPark, State.Formed, h]

@[simp] theorem settleIslands (h : s.Formed) : s.settleIslands.Formed := h

@[simp] theorem settle (h : s.Formed) : s.settle.Formed := by
  unfold State.settle
  refine settleIslands (foldl h (fun u p hu => ?_) _)
  exact stopForPark (wakeGang (watchReconv hu _) _) _

@[simp] theorem dueAcquire (h : s.Formed) (r : Nat) : (s.dueAcquire r).Formed := by
  simp [State.dueAcquire, State.Formed, h]

@[simp] theorem takeOwed (h : s.Formed) (r : Nat) (x : Trap) : (s.takeOwed r x).Formed := by
  unfold State.takeOwed
  repeat' split
  all_goals simp -implicitDefEqProofs +contextual [State.Formed, h]

@[simp] theorem badWord (h : s.Formed) (r : Nat) : (s.badWord r).Formed := by
  simp [State.badWord, State.Formed, h]

theorem fetch (h : s.Formed) {r : Nat} {w : Word} {u : State} (hw : s.fetch r = .word w u) : u.Formed := by
  revert hw
  unfold State.fetch
  dsimp only
  repeat' split
  all_goals intro hw
  all_goals cases hw
  all_goals exact h

theorem missWord (h : s.Formed) (r : Nat) : (s.missWord r (s.fetch r)).Formed := by
  unfold State.missWord
  split
  · next hu => exact h.fetch hu
  · exact h.takeTrap ..
  · exact h

@[simp] theorem noteSync (h : s.Formed) (r : Nat) : (s.noteSync r).Formed := h

@[simp] theorem tick (h : s.Formed) : s.tick.Formed := by
  simp -implicitDefEqProofs +contextual [State.tick, State.Formed, h]

@[simp] theorem acquireIf (h : s.Formed) (r : Nat) (x : Access) : (s.acquireIf r x).Formed :=
  (CacheStep.acquireIf (.refl s) ..).formed h

@[simp] theorem loadResult (h : s.Formed) (r : Nat) (d : Dst) (mask : Word) (f : Nat → Nat × Label) :
    Sound State.Formed (s.loadResult r d mask f) := by
  simp [State.loadResult, State.Formed, h]

theorem onLoadDataArrival (h : s.Formed) (e : Ev) : Kept (onLoadDataArrival e s) := by
  unfold Machine.onLoadDataArrival
  dsimp only
  split
  · exact Kept.none
  · split
    · exact kept_some.2 h
    · exact kept_some.2 h

@[simp] theorem pushLoad (h : s.Formed) (r q : Nat) (v : Vec) (mask : Word) : (s.pushLoad r q v mask).Formed := by
  simp [State.pushLoad, State.Formed, h]

@[simp] theorem releaseOr (h : s.Formed) (r scope : Nat) : Sound State.Formed (s.releaseOr r scope) := by
  have hwait := h.domainWait (s.coreNum r) scope
  unfold State.releaseOr
  split
  · next t ht => exact hwait t ht
  · exact h.release ..

@[simp] theorem cleanLine (h : s.Formed) (core line : Nat) : (s.cleanLine core line).Formed := by
  simp [State.cleanLine, State.Formed, h]

@[simp] theorem dropLine (h : s.Formed) (core line : Nat) : (s.dropLine core line).Formed := by
  simp [State.dropLine, State.Formed, h]

@[simp] theorem logEntry (h : s.Formed) (n : Nat) (w0 w1 : DWord) : (s.logEntry n w0 w1).Formed := by
  simp -implicitDefEqProofs +contextual [State.logEntry, State.Formed, h]

@[simp] theorem followLog (h : s.Formed) (r type : Nat) (ops : List (Nat × Nat)) :
    Sound (fun x => x.2.Formed) (s.followLog r type ops) := by
  unfold State.followLog
  dsimp only
  repeat' split
  all_goals simp -implicitDefEqProofs +contextual [State.Formed, h]

@[simp] theorem logOps (h : s.Formed) (r type : Nat) (ops : List (Nat × DWord)) : (s.logOps r type ops).Formed := by
  simp -implicitDefEqProofs +contextual [State.logOps, State.Formed, h]

@[simp] theorem readPoint (h : s.Formed) (r lane : Nat) (xs : List Spot) : (s.readPoint r lane xs).2.Formed := by
  unfold State.readPoint
  refine foldl_snd h (fun acc p hacc => ?_) _
  split
  · exact (hacc.syncSectors ..).readSync ..
  · exact hacc
  · exact hacc

@[simp] theorem writePoint (h : s.Formed) (r : Nat) (xs : List Spot) (bs : List Byte) : (s.writePoint r xs bs).Formed := by
  unfold State.writePoint
  split
  · exact h
  · dsimp only
    split
    · exact ((h.syncSectors ..).writeCoh ..).noteWrites ..
    · exact h
    · exact h

@[simp] theorem sound_loadResult {q : State → Prop} {r : Nat} {d : Dst} {mask : Word} {f : Nat → Nat × Label} (h : s.Formed)
    (hq : ∀ u : State, u.Formed → q u) : Sound q (s.loadResult r d mask f) := (h.loadResult ..).mono hq

@[simp] theorem sound_releaseOr {q : State → Prop} {r scope : Nat} (h : s.Formed) (hq : ∀ u : State, u.Formed → q u) :
    Sound q (s.releaseOr r scope) := (h.releaseOr ..).mono hq

@[simp] theorem sound_followLog {q : List (DWord × DWord) × State → Prop} {r type : Nat} {ops : List (Nat × Nat)} (h : s.Formed)
    (hq : ∀ x : List (DWord × DWord) × State, x.2.Formed → q x) : Sound q (s.followLog r type ops) := (h.followLog ..).mono hq

theorem releasedAtEnd (h : s.Formed) (c : Prop) [Decidable c] (core scope : Nat) :
    (if c then (s.release core scope).followRelease core scope else s).Formed := by
  simp [h]

theorem atomicMem (h : s.Formed) (r op ty : Nat) (x : Access) (lanes : List AtomLane) :
    Sound (fun l => l.st.Formed) (s.atomicMem r op ty x lanes) := by
  unfold State.atomicMem
  refine sound_bind.2 (sound_resolve h fun ⟨xs, u⟩ hu => ?_)
  refine sound_bind.2 (sound_checkAligned fun _ => ?_)
  extract_lets _ _ rest
  refine sound_bind.2 (sound_checkWrites h fun _ => ?_)
  have hrest : ∀ v : State, v.Formed → Sound (fun l : Loaded => l.st.Formed) (rest v) := by
    intro v hv
    refine sound_bind.2 (sound_needRemote hv fun _ => sound_bind.2 (sound_checkMarks fun _ => ?_))
    refine sound_bind.2 (sound_followLog hv fun ⟨_, w⟩ hw => ?_)
    refine State.Formed.acquireIf (releasedAtEnd ?_ ..) ..
    refine foldl_snd ((State.Formed.logOps hw ..).noteReads ..) (fun acc b hacc => ?_) _
    exact (hacc.readPoint ..).writePoint ..
  simp +contextual [hu, hrest]

theorem atomicScratch (h : s.Formed) (r op ty : Nat) (x : Access) (lanes : List AtomLane) :
    Sound (fun l => l.st.Formed) (s.atomicScratch r op ty x lanes) := by
  unfold State.atomicScratch
  simp -implicitDefEqProofs +contextual [State.Formed, h]
  done

@[simp] theorem claimMem (h : s.Formed) (r count : Nat) (x : Access) (ask : Ask) :
    Sound (fun x => x.2.2.2.2.Formed) (s.claimMem r count x ask) := by
  unfold State.claimMem
  refine sound_bind.2 (sound_resolve h fun ⟨xs, u⟩ hu => ?_)
  refine sound_bind.2 (sound_checkAligned fun _ => ?_)
  extract_lets spots _ _ last rest
  refine sound_bind.2 (sound_checkWrites h fun _ => ?_)
  have hlast : ∀ y : List (DWord × DWord) × State, y.2.Formed → Sound (fun x => x.2.2.2.2.Formed) (last y) := by
    intro ⟨taken, v⟩ hv
    have hread := (State.Formed.noteReads (s := v) hv (s.nodeNum r) spots).readPoint r ask.lane spots
    refine State.Formed.acquireIf (releasedAtEnd (State.Formed.writePoint ?_ ..) ..) ..
    exact formed_ite.2 ⟨fun _ => hread.logOps .., fun _ => hread⟩
  have hrest : ∀ v : State, v.Formed → Sound (fun x => x.2.2.2.2.Formed) (rest v) := by
    intro v hv
    simp +contextual [hv, hlast, rest]
  simp +contextual [hu, hrest]

@[simp] theorem claimScratch (h : s.Formed) (r count : Nat) (x : Access) (ask : Ask) :
    Sound (fun x => x.2.2.2.2.Formed) (s.claimScratch r count x ask) := by
  unfold State.claimScratch
  simp -implicitDefEqProofs +contextual [State.Formed, h]
  done

end State.Formed

end Sys2Proof.Machine
end

section
/-! SUPPORT. What keeps the canonical form of memory: the instructions of loads and stores, atomics, lanes, control and floating
point. -/

namespace Sys2Proof.Machine

section
variable {s : State}

@[simp] theorem sound_atomics {q : Loaded → Prop} {r op ty : Nat} {sp : Bool} {x : Access} {lanes : List AtomLane} (h : s.Formed)
    (hq : ∀ l : Loaded, l.st.Formed → q l) : Sound q (s.atomics r op ty sp x lanes) := by
  unfold State.atomics
  split
  · exact (h.atomicScratch ..).mono hq
  · exact (h.atomicMem ..).mono hq

@[simp] theorem sound_claimMem {q : Nat × Nat × Label × Nat × State → Prop} {r n : Nat} {x : Access} {ask : Ask} (h : s.Formed)
    (hq : ∀ y : Nat × Nat × Label × Nat × State, y.2.2.2.2.Formed → q y) : Sound q (s.claimMem r n x ask) := (h.claimMem ..).mono hq

@[simp] theorem sound_claimScratch {q : Nat × Nat × Label × Nat × State → Prop} {r n : Nat} {x : Access} {ask : Ask} (h : s.Formed)
    (hq : ∀ y : Nat × Nat × Label × Nat × State, y.2.2.2.2.Formed → q y) : Sound q (s.claimScratch r n x ask) :=
  (h.claimScratch ..).mono hq

@[simp] theorem sound_uniform {q : Peek → Prop} {r f : Nat} {wide : Bool} (h : s.Formed) (hq : ∀ p : Peek, p.st.Formed → q p) :
    Sound q (s.uniform r f wide) := sound_peek h hq

@[simp] theorem sound_predOf {q : Nat → Prop} {r : Nat} {f : BitVec 7} (hq : ∀ a, q a) : Sound q (predOf s r f) := by
  simp [predOf, hq]

@[simp] theorem sound_branchCond {q : Option Word → Prop} {r : Nat} {p : BitVec 3} {sense : Bool} (hq : ∀ a, q a) :
    Sound q (branchCond s r p sense) := by
  simp [branchCond, hq]

@[simp] theorem sound_credMode {q : Nat × Rounding → Prop} {r : Nat} {op : BitVec 4} {m : Bool} (hq : ∀ a, q a) :
    Sound q (s.credMode r op m) := by
  simp [State.credMode, hq]

end

namespace State.Formed

variable {s : State}

@[simp] theorem floatOp (h : s.Formed) (r : Nat) (ok : Nat → Bool) (m nw : Bool) (d : BitVec 6) (a : BitVec 7) (b : Option (BitVec 7))
    (scale old draws : Bool) (f : FloatOp) : Sound State.Formed (s.floatOp r ok m nw d a b scale old draws f) := by
  simp [State.floatOp, State.Formed, h]

@[simp] theorem floatOpU (h : s.Formed) (r : Nat) (ok : Nat → Bool) (m : Bool) (d : BitVec 6) (a : BitVec 7) (b : Option (BitVec 7))
    (scale old : Bool) (f : FloatOp) : Sound State.Formed (s.floatOpU r ok m d a b scale old f) := by
  simp [State.floatOpU, State.Formed, h]

@[simp] theorem cvtOp (h : s.Formed) (r : Nat) (nw : Bool) (d : BitVec 6) (a : BitVec 7) (part : BitVec 3) :
    Sound State.Formed (s.cvtOp r nw d a part) := by
  simp [State.cvtOp, State.Formed, h]

@[simp] theorem cvtOpU (h : s.Formed) (r : Nat) (d : BitVec 6) (a : BitVec 7) (part : BitVec 3) :
    Sound State.Formed (s.cvtOpU r d a part) := by
  simp [State.cvtOpU, State.Formed, h]

@[simp] theorem cross (h : s.Formed) (r : Nat) (m : Bool) (dst : Dst) (srcs : List Want) (f : Peek → Nat → Nat × Label) :
    Sound State.Formed (s.cross r m dst srcs f) := by
  refine sound_bind.2 <| sound_peek h fun p hp => sound_bind.2 <| sound_write hp fun u hu => ?_
  exact hu.complete ..

@[simp] theorem laneFetch (h : s.Formed) (r : Nat) (m nw : Bool) (d : BitVec 6) (a : BitVec 7) (b : Option (BitVec 7)) (imm : Option Nat)
    (who : Nat → Nat → Option Nat) : Sound State.Formed (s.laneFetch r m nw d a b imm who) := by
  simp [State.laneFetch, State.Formed, h]

@[simp] theorem broadcast (h : s.Formed) (r : Nat) (m nw : Bool) (d : BitVec 6) (a : BitVec 7) (b : Option (BitVec 7)) (imm : Option Nat) :
    Sound State.Formed (s.broadcast r m nw d a b imm) := by
  simp [State.broadcast, State.Formed, h]

@[simp] theorem writeMode (h : s.Formed) (r image : Nat) (sets : List Bool) (reads : Nat) :
    Sound State.Formed (s.writeMode r image sets reads) := by
  simp -implicitDefEqProofs +contextual [State.writeMode, State.Formed, h]

@[simp] theorem toUniform (h : s.Formed) (r : Nat) (c : Cls) (d reads : Nat) (x : Word) (l : Label) :
    Sound State.Formed (s.toUniform r c d reads x l) := by
  simp -implicitDefEqProofs +contextual [State.toUniform, State.Formed, h]

@[simp] theorem anyAll (h : s.Formed) (r : Nat) (all : Bool) (pa pb : BitVec 3) (a : BitVec 7) (m : Bool) :
    Sound State.Formed (s.anyAll r all pa pb a m) := by
  simp -implicitDefEqProofs +contextual [State.anyAll, State.Formed, h]

@[simp] theorem predLogic (h : s.Formed) (r : Nat) (m : Bool) (d : BitVec 3) (srcs : List (BitVec 3)) (f : List Word → Word) :
    Sound State.Formed (s.predLogic r m d srcs f) := h

@[simp] theorem rotate (h : s.Formed) (r : Nat) : (s.rotate r).Formed := by
  simp [State.rotate, State.Formed, h]

@[simp] theorem afterBranch (h : s.Formed) (r : Nat) (y backward : Bool) : (s.afterBranch r y backward).Formed := by
  simp [State.afterBranch, State.Formed, h]

theorem execFqblk (h : s.Formed) {nw : Bool} {d : BitVec 6} {a : BitVec 7} {half : Bool} : Stays (execFqblk nw d a half s) :=
  run_stays h fun r => by
    simp -implicitDefEqProofs +contextual [State.Formed, h]

theorem execFsplit3 (h : s.Formed) {nw : Bool} {d : BitVec 6} {a : BitVec 7} {part : Bool} : Stays (execFsplit3 nw d a part s) :=
  run_stays h fun r => by
    refine sound_bind.2 <| sound_needWork fun _ => sound_bind.2 <| sound_need fun _ => sound_bind.2 <| sound_need fun _ =>
      sound_bind.2 <| sound_peek h fun p hp => sound_bind.2 <| sound_needArrived h fun _ => ?_
    simp -implicitDefEqProofs +contextual [State.Formed, h, hp]

theorem execLd (h : s.Formed) {hint : BitVec 2} {nw : Bool} {d : BitVec 6} {a imm : BitVec 7} {m : Bool} :
    Stays (execLd hint nw d a imm m s) :=
  run_stays h fun r => by
    refine sound_bind.2 <| sound_needHaul fun _ => sound_bind.2 <| sound_accessOf fun x => sound_bind.2 <| sound_peek h fun p hp =>
      sound_bind.2 <| sound_loadLanes hp fun l hl => ?_
    simp +contextual [h, hp, hl]

theorem execSt (h : s.Formed) {hint : BitVec 2} {d : BitVec 6} {a imm : BitVec 7} {m : Bool} : Stays (execSt hint d a imm m s) :=
  run_stays h fun r => by
    refine sound_bind.2 <| sound_needHaul fun _ => sound_bind.2 <| sound_accessOf fun x => sound_bind.2 <| sound_peek h fun p hp =>
      sound_bind.2 <| sound_storeLanes hp fun ⟨s', lines⟩ hs' => ?_
    simp [h, hp, hs']

theorem execLdu (h : s.Formed) {hint : BitVec 2} {d : BitVec 6} {a imm : BitVec 7} {m : Bool} : Stays (execLdu hint d a imm m s) :=
  run_stays h fun r => by
    refine sound_bind.2 <| sound_needHaul fun _ => sound_bind.2 <| sound_accessOf fun x => sound_bind.2 <| sound_need fun _ =>
      sound_bind.2 <| sound_peek h fun p hp => sound_bind.2 <| sound_onStream.2 <| sound_loadLanes hp fun l hl => ?_
    simp -implicitDefEqProofs +contextual [State.Formed, h, hp, hl]

theorem execStu (h : s.Formed) {hint : BitVec 2} {d : BitVec 6} {a imm : BitVec 7} {m : Bool} : Stays (execStu hint d a imm m s) :=
  run_stays h fun r => by
    refine sound_bind.2 <| sound_needHaul fun _ => sound_bind.2 <| sound_accessOf fun x => sound_bind.2 <| sound_need fun _ =>
      sound_bind.2 <| sound_peek h fun p hp => sound_bind.2 <| sound_onStream.2 <| sound_storeLanes hp fun ⟨s', lines⟩ hs' => ?_
    simp [h, hp, hs']

theorem execLds (h : s.Formed) {nw : Bool} {d : BitVec 6} {a imm : BitVec 7} {m : Bool} : Stays (execLds nw d a imm m s) :=
  run_stays h fun r => by
    refine sound_bind.2 <| sound_needHaul fun _ => sound_bind.2 <| sound_peek h fun p hp =>
      sound_bind.2 <| sound_loadScratch hp fun l hl => sound_bind.2 <| sound_loadResult hl fun s' hs' => ?_
    simp [h, hp, hl, hs']

theorem execSts (h : s.Formed) {d : BitVec 6} {a imm : BitVec 7} {m : Bool} : Stays (execSts d a imm m s) :=
  run_stays h fun r => by
    refine sound_bind.2 <| sound_needHaul fun _ => sound_bind.2 <| sound_peek h fun p hp =>
      sound_bind.2 <| sound_storeScratch hp fun ⟨s', lines⟩ hs' => ?_
    simp [h, hp, hs']

theorem execLdq (h : s.Formed) {hint q : BitVec 2} {a imm : BitVec 7} {m : Bool} : Stays (execLdq hint q a imm m s) :=
  run_stays h fun r => by
    refine sound_bind.2 <| sound_needHaul fun _ => sound_bind.2 <| sound_accessOf fun x => sound_bind.2 <| sound_need fun _ =>
      sound_bind.2 <| sound_peek h fun p hp => sound_bind.2 <| sound_checkLoadRoom h fun _ =>
      sound_bind.2 <| sound_loadLanes hp fun l hl => ?_
    exact ((hl.acquireIf r x).pushLoad ..).complete ..

theorem execStq (h : s.Formed) {hint q : BitVec 2} {a imm : BitVec 7} {m : Bool} : Stays (execStq hint q a imm m s) :=
  run_stays h fun r => by
    refine sound_bind.2 <| sound_needHaul fun _ => sound_bind.2 <| sound_accessOf fun x => sound_bind.2 <| sound_need fun _ =>
      sound_bind.2 <| sound_peek h fun p hp => sound_bind.2 <| sound_oldestStore h fun e =>
      sound_bind.2 <| sound_storeLanes hp fun ⟨s', lines⟩ hs' => ?_
    simp -implicitDefEqProofs +contextual [State.Formed, h, hp, hs']

theorem execFence (h : s.Formed) {scope : BitVec 4} {form : BitVec 2} : Stays (execFence scope form s) :=
  run_stays h fun r => by
    refine sound_bind.2 <| sound_needHaul fun _ => sound_bind.2 <| sound_need fun _ => ?_
    extract_lets rest
    have hrest : ∀ u : State, u.Formed → Sound State.Formed (rest u) := fun u hu => by simp [rest, hu]
    simp +contextual [h, hrest]

theorem execPref (h : s.Formed) {a : BitVec 7} {l2 m : Bool} : Stays (execPref a l2 m s) :=
  run_stays h fun r => by
    refine sound_bind.2 <| sound_needHaul fun _ => sound_bind.2 <| sound_peek h fun p hp => ?_
    refine State.Formed.complete (foldl (foldl_snd hp (fun acc x hacc => ?_) _) (fun u y hu => ?_) _) ..
    · have hspots := hacc.spotsOf (s.gangAt r) (s.stream r).priv .read (va56 x.addr) 1
      generalize acc.2.spotsOf (s.gangAt r) (s.stream r).priv .read (va56 x.addr) 1 = z at hspots ⊢
      obtain ⟨e | ys, v⟩ := z
      · exact hspots
      · exact hspots
    · have hread : ∀ at_ : Attr, (if at_.cpol == 2 then u else (u.readLine (dieOf (s.coreNum r)) at_ y.1).2).Formed :=
        fun at_ => by simp [hu]
      exact formed_ite.2 ⟨fun _ => ((hread _).fillSector ..).fillSector .., fun _ => hread _⟩

theorem execCinv (h : s.Formed) {a : BitVec 7} {l2 m : Bool} : Stays (execCinv a l2 m s) :=
  run_stays h fun r => by
    refine sound_bind.2 <| sound_needHaul fun _ => sound_bind.2 <| sound_peek h fun p hp =>
      sound_bind.2 <| sound_resolve hp fun ⟨xs, u⟩ hu => ?_
    refine State.Formed.complete (foldl hu (fun v y hv => ?_) _) ..
    dsimp only
    split
    · split
      · exact formed_ite.2 ⟨fun _ => hv.dropLine .., fun _ => hv.dropLine ..⟩
      · exact hv.dropLine ..
    · exact hv.dropLine ..

theorem execCflush (h : s.Formed) {a : BitVec 7} {_l2 m : Bool} : Stays (execCflush a _l2 m s) :=
  run_stays h fun r => by
    refine sound_bind.2 <| sound_needHaul fun _ => sound_bind.2 <| sound_peek h fun p hp =>
      sound_bind.2 <| sound_resolve hp fun ⟨xs, u⟩ hu => ?_
    exact State.Formed.complete (foldl hu (fun v y hv => hv.cleanLine ..) _) ..

theorem execSpbind (h : s.Formed) {wrk : Bool} {port : BitVec 2} {a : BitVec 7} {m : Bool} : Stays (execSpbind wrk port a m s) :=
  run_stays h fun r => by
    refine sound_bind.2 <| sound_needHaul fun _ => sound_bind.2 <| sound_need fun _ => sound_bind.2 <| sound_need fun _ =>
      sound_bind.2 <| sound_portStream fun who => ?_
    dsimp only
    split
    · exact h
    · refine sound_bind.2 <| sound_peek h fun p hp => sound_bind.2 <| sound_onStream.2 <| sound_loadLanes hp fun l hl => ?_
      split
      · simp
      · exact hl

theorem execSppos (h : s.Formed) {d : BitVec 6} {hi wrk : Bool} {port : BitVec 2} : Stays (execSppos d hi wrk port s) :=
  run_stays h fun r => by
    simp -implicitDefEqProofs +contextual [State.Formed, h]

theorem execAtom (h : s.Formed) {op : BitVec 4} {nw : Bool} {d : BitVec 6} {a imm : BitVec 7} {m : Bool} :
    Stays (execAtom op nw d a imm m s) :=
  run_stays h fun r => by
    refine sound_bind.2 <| sound_needHaul fun _ => sound_bind.2 <| sound_atomField fun _ => sound_bind.2 <| sound_typeIn fun ty =>
      sound_bind.2 <| sound_needReg fun _ => sound_bind.2 <| sound_need fun _ => sound_bind.2 <| sound_peek h fun p hp =>
      sound_bind.2 <| sound_atomics hp fun l hl => sound_bind.2 <| sound_writeDst hl fun s' hs' => ?_
    simp [h, hp, hl, hs']

theorem execRed (h : s.Formed) {op : BitVec 3} {d : BitVec 6} {a imm : BitVec 7} {m : Bool} : Stays (execRed op d a imm m s) :=
  run_stays h fun r => by
    refine sound_bind.2 <| sound_needHaul fun _ => sound_bind.2 <| sound_atomField fun _ => sound_bind.2 <| sound_typeIn fun ty =>
      sound_bind.2 <| sound_peek h fun p hp => sound_bind.2 <| sound_atomics hp fun l hl => ?_
    simp [h, hp, hl]

theorem execClaim (h : s.Formed) {nw : Bool} {d : BitVec 6} {a imm : BitVec 7} {m : Bool} : Stays (execClaim nw d a imm m s) :=
  run_stays h fun r => by
    refine sound_bind.2 <| sound_needHaul fun _ => sound_bind.2 <| sound_atomField fun x => sound_bind.2 <| sound_peek h fun p hp => ?_
    dsimp only
    split
    · exact sound_bind.2 <| sound_write hp fun u hu => hu.complete ..
    · split
      · exact sound_bind.2 <| sound_claimScratch hp fun y hy => sound_bind.2 <| sound_writeDst hy fun u hu =>
          complete (s := State.commit r { p with st := u }) (commit hu) ..
      · exact sound_bind.2 <| sound_claimMem hp fun y hy => sound_bind.2 <| sound_writeDst hy fun u hu =>
          complete (s := State.commit r { p with st := u }) (commit hu) ..

theorem execCred (h : s.Formed) {nw : Bool} {d : BitVec 6} {a : BitVec 7} {op : BitVec 4} {m : Bool} : Stays (execCred nw d a op m s) :=
  run_stays h fun r => by
    simp [h]

theorem execCscan (h : s.Formed) {nw : Bool} {d : BitVec 6} {a : BitVec 7} {excl : Bool} {op : BitVec 4} {m : Bool} :
    Stays (execCscan nw d a excl op m s) :=
  run_stays h fun r => by
    simp [h]

theorem execLpeer (h : s.Formed) {nw : Bool} {d : BitVec 6} {a : BitVec 7} {m : Bool} : Stays (execLpeer nw d a m s) :=
  run_stays h fun r => by
    simp [h]

theorem execModeUniform (h : s.Formed) {a : BitVec 7} {m : Bool} : Stays (execModeUniform a m s) :=
  run_stays h fun r => by
    simp +contextual [h]

theorem execSetem (h : s.Formed) {a : BitVec 7} : Stays (execSetem a s) :=
  run_stays h fun r => by
    simp -implicitDefEqProofs +contextual [State.Formed, h]

theorem execVote (h : s.Formed) {d : BitVec 6} {a : BitVec 7} {m : Bool} : Stays (execVote d a m s) :=
  run_stays h fun r => by
    simp [h]

theorem execGets (h : s.Formed) {nw : Bool} {d idx : BitVec 6} : Stays (execGets nw d idx s) :=
  run_stays h fun r => by
    simp [h]

theorem execPand (h : s.Formed) {d a b : BitVec 3} {m : Bool} : Stays (execPand d a b m s) :=
  run_stays h fun r => by
    simp [h]

theorem execPor (h : s.Formed) {d a b : BitVec 3} {m : Bool} : Stays (execPor d a b m s) :=
  run_stays h fun r => by
    simp [h]

theorem execPxor (h : s.Formed) {d a b : BitVec 3} {m : Bool} : Stays (execPxor d a b m s) :=
  run_stays h fun r => by
    simp [h]

theorem execPnot (h : s.Formed) {d a : BitVec 3} {m : Bool} : Stays (execPnot d a m s) :=
  run_stays h fun r => by
    simp [h]

theorem execPmov (h : s.Formed) {d a : BitVec 3} {m : Bool} : Stays (execPmov d a m s) :=
  run_stays h fun r => by
    simp [h]

theorem execCmp (h : s.Formed) {cond comb pa pb : BitVec 3} {a b : BitVec 7} {m : Bool} : Stays (execCmp cond comb pa pb a b m s) :=
  run_stays h fun r => by
    refine sound_bind.2 <| sound_typeIn fun ty => sound_bind.2 <| sound_peek h fun p hp => ?_
    simp -implicitDefEqProofs +contextual [State.Formed, h, hp]

theorem execBra (h : s.Formed) {y : Bool} {pred : BitVec 3} {sense : Bool} {off : BitVec 18} : Stays (execBra y pred sense off s) :=
  run_stays h fun r => by
    simp [h]

theorem execBrc (h : s.Formed) {y : Bool} {pred : BitVec 3} {sense : Bool} {off : BitVec 18} : Stays (execBrc y pred sense off s) :=
  run_stays h fun r => by
    simp -implicitDefEqProofs +contextual [State.Formed, h]

theorem execBrg (h : s.Formed) {pred : BitVec 3} {sense : Bool} {target reconv : BitVec 9} : Stays (execBrg pred sense target reconv s) :=
  run_stays h fun r => by
    refine sound_bind.2 <| sound_need fun _ => sound_bind.2 <| sound_branchCond fun _ => sound_bind.2 <| sound_need fun _ => ?_
    exact (switchOut (s := (s.chargeInstr r .control 0 0).updStream r _) h ..).settleGang _

theorem execJmpi (h : s.Formed) {a : BitVec 7} : Stays (execJmpi a s) :=
  run_stays h fun r => by
    refine sound_bind.2 <| sound_peek h fun p hp => ?_
    dsimp only
    split
    · exact hp.commit.complete ..
    · exact jump (s := (State.commit r p).updStream r _) hp.commit ..

theorem execCall (h : s.Formed) {pred : BitVec 3} {sense : Bool} {off : BitVec 18} : Stays (execCall pred sense off s) :=
  run_stays h fun r => by
    simp -implicitDefEqProofs +contextual [State.Formed, h]

theorem execRet (h : s.Formed) : Stays (execRet s) :=
  run_stays h fun r => by
    dsimp only
    split
    · trivial
    · exact h

theorem execCallv (h : s.Formed) {nw : Bool} {d : BitVec 6} {a : BitVec 7} : Stays (execCallv nw d a s) :=
  run_stays h fun r => by
    refine sound_bind.2 <| sound_needReg fun _ => sound_bind.2 <| sound_peek h fun p hp => ?_
    dsimp only
    split
    · exact hp.commit.complete ..
    · exact sound_bind.2 <| sound_writeDst hp.commit fun u hu => jump (s := u.updStream r _) hu ..

theorem execRetv (h : s.Formed) {d : BitVec 6} : Stays (execRetv d s) :=
  run_stays h fun r => by
    refine sound_bind.2 <| sound_peek h fun p hp => ?_
    split
    · exact h
    · simp [h]

theorem execLoop (h : s.Formed) {count : BitVec 7} {end15 : BitVec 15} : Stays (execLoop count end15 s) :=
  run_stays h fun r => by
    simp -implicitDefEqProofs +contextual [State.Formed, h]

theorem execLbrk (h : s.Formed) {pred : BitVec 3} {sense : Bool} {off : BitVec 18} : Stays (execLbrk pred sense off s) :=
  run_stays h fun r => by
    refine sound_bind.2 <| sound_branchCond fun c => ?_
    dsimp only
    split
    · simp
    · simp -implicitDefEqProofs [State.Formed, h]

theorem execNop (h : s.Formed) : Stays (execNop s) :=
  run_stays h fun r => by
    simp [h]

theorem execYield (h : s.Formed) : Stays (execYield s) :=
  run_stays h fun r => by
    simp [h]

theorem execExit (h : s.Formed) :
    Stays (execExit s) :=
  run_stays h fun r => by
    dsimp only
    split
    · exact h
    · split
      · simp [State.orphan]
      · exact (settleEnd (s := (s.complete r .control 0 0).updStream r _) h r).settleGang _

theorem execBrk (h : s.Formed) : Stays (execBrk s) :=
  run_stays h fun r => by
    simp [h]

theorem execTrap (h : s.Formed) : Stays (execTrap s) :=
  run_stays h fun r => by
    simp [h]

theorem execTret (h : s.Formed) {d : BitVec 6} {redir : Bool} : Stays (execTret d redir s) :=
  run_stays h fun r => by
    simp -implicitDefEqProofs +contextual [State.Formed, h]

theorem execIsync (h : s.Formed) :
    Stays (execIsync s) :=
  run_stays h fun r => by
    simp -implicitDefEqProofs +contextual [State.Formed, h]

theorem execOvload (h : s.Formed) {a imm : BitVec 7} : Stays (execOvload a imm s) :=
  run_stays h fun r => by
    refine sound_bind.2 <| sound_uniform h fun p hp => sound_bind.2 <| sound_loadPage hp fun s' hs' => ?_
    simp [h, hp, hs']

theorem execOvcall (h : s.Formed) {a imm : BitVec 7} : Stays (execOvcall a imm s) :=
  run_stays h fun r => by
    refine sound_bind.2 <| sound_uniform h fun p hp => ?_
    simp -implicitDefEqProofs +contextual [State.Formed, h, hp]

theorem execUnassignedOpcode (h : s.Formed) : Stays (execUnassignedOpcode s) :=
  run_stays h fun r => by
    simp [h]

end State.Formed

end Sys2Proof.Machine
end

section
/-! SUPPORT. What keeps the canonical form of memory: copies and their batches, barriers, and the residue unit. -/

namespace Sys2Proof.Machine

section
variable {s : State}

@[simp] theorem sound_checkDesc {q : Unit → Prop} {em : Word} {a : Nat} (hq : ∀ x, q x) : Sound q (checkDesc em a) := by
  simp [checkDesc, hq]

@[simp] theorem sound_checkHeld {q : Unit → Prop} {r : Nat} {f : BitVec 16 → Bool} (hq : ∀ x, q x) : Sound q (s.checkHeld r f) := by
  unfold State.checkHeld
  split
  · simp
  · exact hq _

@[simp] theorem sound_checkBar {q : Unit → Prop} {r off : Nat} {b : Bool} (h : s.Formed) (hq : ∀ x, q x) : Sound q (s.checkBar r off b) :=
    by
  simp [State.checkBar, h, hq]

@[simp] theorem sound_countOf {q : Nat → Prop} {r off : Nat} {p : Peek} {act : Word} {imm : BitVec 7} (hq : ∀ x, q x) :
    Sound q (s.countOf r off p act imm) := by
  simp [State.countOf, hq]

@[simp] theorem sound_checkClass {q : Unit → Prop} {r : Nat} {ws : List Want} {dst : Option Dst} (hq : ∀ x, q x) :
    Sound q (s.checkClass r ws dst) := (State.Formed.checkClass ..).to hq

@[simp] theorem sound_checkRoom {q : Unit → Prop} {r : Nat} {dst : Option Dst} (h : s.Formed) (hq : ∀ x, q x) :
    Sound q (s.checkRoom r dst) := (h.checkRoom ..).to hq

@[simp] theorem sound_checkPortDst {q : Unit → Prop} {r : Nat} {dst : Option Dst} (hq : ∀ x, q x) :
    Sound q (s.checkPortDst r dst) := (State.Formed.checkPortDst ..).to hq

end

namespace State.Formed

variable {s : State}

@[simp] theorem copyArrive (h : s.Formed) (g off bytes n : Nat) : (s.copyArrive g off bytes n).Formed := h

@[simp] theorem discardCopy (h : s.Formed) (r : Nat) (c : CopyCmd) : (s.discardCopy r c).Formed := by
  unfold State.discardCopy
  repeat' split
  all_goals simp -implicitDefEqProofs +contextual [State.Formed, h]

@[simp] theorem issueCopy (h : s.Formed) (r : Nat) (gv : Bool) (slot : Nat) (what : CopyWhat) :
    Sound State.Formed (s.issueCopy r gv slot what) := by
  unfold State.issueCopy
  dsimp only
  repeat' split
  all_goals simp -implicitDefEqProofs +contextual [State.Formed, h]

@[simp] theorem sound_issueCopy {q : State → Prop} {r slot : Nat} {gv : Bool} {what : CopyWhat} (h : s.Formed)
    (hq : ∀ u : State, u.Formed → q u) : Sound q (s.issueCopy r gv slot what) := (h.issueCopy ..).mono hq

@[simp] theorem yieldIf (h : s.Formed) (r : Nat) (y : Bool) : (s.yieldIf r y).Formed := by
  simp [State.yieldIf, State.Formed, h]

@[simp] theorem engineMiss (h : s.Formed) (r op : Nat) (copy : Bool) (walked : List Nat) (va : Nat) (x0 : Miss) :
    Kept (s.engineMiss r op copy walked va x0) := by
  unfold State.engineMiss
  split <;> simp [State.Formed, h]

@[simp] theorem engineIntegrity (h : s.Formed) (g : Gang) (x0 : Miss) : (s.engineIntegrity g x0).Formed := by
  unfold State.engineIntegrity
  split <;> simp [State.Formed, h]

@[simp] theorem onEngineFaultDelivery (h : s.Formed) (e : Ev) : Kept (onEngineFaultDelivery e s) := by
  unfold Machine.onEngineFaultDelivery
  dsimp only
  split
  · exact Kept.none
  · split
    · exact kept_some.2 (systemTrap (s := s.updStream _ _) h ..)
    · exact Kept.none

@[simp] theorem announce (h : s.Formed) (g off bytes : Nat) : (s.announce g off bytes).1.Formed := by
  unfold State.announce
  dsimp only
  repeat' split
  all_goals simp [State.Formed, h]

@[simp] theorem announceAll (h : s.Formed) (gs : List Nat) (off bytes : Nat) :
    (s.announceAll gs off bytes).1.Formed :=
  List.foldlRecOn (motive := fun acc : State × List CopyBar × Nat => acc.1.Formed) gs _ h fun _ hacc _ _ => hacc.announce ..

@[simp] theorem updCopy (h : s.Formed) (cl id : Nat) (f : Copy → Copy) : (s.updCopy cl id f).Formed := h

@[simp] theorem endCopy (h : s.Formed) (cl : Nat) (c : Copy) (err lines : Nat) : (s.endCopy cl c err lines).Formed := by
  unfold State.endCopy
  extract_lets high n u v w
  have hu : u.Formed := foldl h (fun _ b hx => formed_ite.2 ⟨fun _ => hx.copyArrive .., fun _ => hx⟩) _
  have hw : w.Formed := chargeEngine (s := v) hu ..
  exact hw

@[simp] theorem takeCopy (h : s.Formed) (cl r id : Nat) (cmd : CopyCmd) (ws : Option (List DWord)) :
    (s.takeCopy cl r id cmd ws).Formed := by
  unfold State.takeCopy
  repeat' split
  all_goals simp -implicitDefEqProofs +contextual [State.Formed, h]

@[simp] theorem openHead (h : s.Formed) (cl r id : Nat) (cmd : CopyCmd) (addr : Nat) : (s.openHead cl r id cmd addr).Formed := by
  have hspots := h.engineSpots (s.gangAt r) .read (va56 addr) 192
  unfold State.openHead
  dsimp only
  generalize s.engineSpots (s.gangAt r) .read (va56 addr) 192 = x at hspots ⊢
  obtain ⟨⟨va, m⟩ | xs, u⟩ := x
  · dsimp only
    split
    · next t ht => exact hspots.engineMiss _ _ _ _ _ _ t ht
    · exact (State.Formed.engineIntegrity (s := u) hspots ..).takeCopy ..
  · dsimp only
    split
    · next t ht => exact hspots.engineFetch _ _ _ t ht
    · have hread := State.Formed.engineRead (s := u) hspots (s.gangAt r).core id xs
      split
      · exact hspots.takeCopy ..
      · exact (hread.noteReads ..).takeCopy ..

@[simp] theorem acceptCopy (h : s.Formed) (r : Nat) : Kept (s.acceptCopy r) := by
  unfold State.acceptCopy
  dsimp only
  repeat' split
  all_goals simp -implicitDefEqProofs +contextual [State.Formed, h]

@[simp] theorem acceptCopies (h : s.Formed) (r x0 : Nat) : (s.acceptCopies r x0).Formed := by
  induction x0 generalizing s with
  | zero => exact h
  | succ k ih =>
    have haccept := h.acceptCopy r
    unfold State.acceptCopies
    split
    · next t ht =>
      split
      · exact ih (haccept t ht)
      · exact haccept t ht
    · exact h

@[simp] theorem unholdCopies (h : s.Formed) (r : Nat) : (s.unholdCopies r).Formed := by
  simp -implicitDefEqProofs +contextual [State.unholdCopies, State.Formed, h]

@[simp] theorem wakeCopies (h : s.Formed) (r : Nat) : (s.wakeCopies r).Formed := by
  simp [State.wakeCopies, State.Formed, h]

@[simp] theorem resolveAll (h : s.Formed) (g : Gang) (k : Acc) (n : Nat) (x0 : List Int) : (s.resolveAll g k n x0).2.Formed := by
  induction x0 generalizing s with
  | nil => exact h
  | cons a rest ih =>
    have hspots := h.engineSpots g k (wrap 56 a) n
    unfold State.resolveAll
    generalize s.engineSpots g k (wrap 56 a) n = x at hspots ⊢
    obtain ⟨m | xs, u⟩ := x
    · exact hspots
    · have hrest := ih hspots
      dsimp only
      generalize u.resolveAll g k n rest = y at hrest ⊢
      obtain ⟨m | ys, v⟩ := y
      · exact hrest
      · exact hrest

@[simp] theorem placeRead (h : s.Formed) (core op : Nat) (x0 : Byte1) : (s.placeRead core op x0).2.Formed := by
  unfold State.placeRead
  split <;> simp [State.Formed, h]

@[simp] theorem elementRead (h : s.Formed) (core op : Nat) (fill : List Byte) (e : Element) (moved : List ((Nat × Nat) × Byte)) :
    (s.elementRead core op fill e moved).2.Formed := by
  unfold State.elementRead
  split
  · exact h
  · refine foldl_snd h (fun acc b hacc => ?_) _
    split
    · exact hacc
    · exact hacc.placeRead ..

@[simp] theorem moveBytes (h : s.Formed) (c : Copy) (p : Plan) (es : List Element) : (s.moveBytes c p es).1.Formed := by
  unfold State.moveBytes
  extract_lets g all order sources
  generalize hfold : List.foldl _ _ _ = x
  have hx : x.2.2.Formed := by
    rw [← hfold]
    exact List.foldlRecOn (motive := fun acc : List ((Nat × Nat) × Byte) × List (Byte1 × Byte × Bad × Label) × State =>
      acc.2.2.Formed) order _ h fun _ hacc _ _ => hacc.elementRead ..
  obtain ⟨_, ws, u⟩ := x
  dsimp -zeta only
  extract_lets s1 mem pkgs lent wrote poisoned marked pads counted
  have h1 : s1.Formed := State.Formed.noteReads hx ..
  have hlent : lent.Formed := formed_ite.2 ⟨fun _ => h1, fun _ => h1.lend ..⟩
  have hwrote : wrote.Formed := (hlent.engineWrite ..).engineMarks ..
  have hpoisoned : poisoned.Formed := hwrote.engineMarks ..
  have hmarked : marked.Formed := hpoisoned.engineMarks ..
  have hpads : pads.Formed := by
    refine foldl hmarked (fun v t hv => ?_) _
    exact formed_ite.2 ⟨fun _ => hv, fun _ => logBad (s := v.updGang t _) hv ..⟩
  have hcounted : counted.Formed := by
    refine foldl hpads (fun v y hv => ?_) _
    exact hv
  exact hcounted

@[simp] theorem finishMove (h : s.Formed) (cl : Nat) (c : Copy) (lines : Nat) : (s.finishMove cl c lines).Formed := by
  unfold State.finishMove
  split <;> simp [State.Formed, h]

@[simp] theorem performCopy (h : s.Formed) (cl : Nat) (c : Copy) : Kept (s.performCopy cl c) := by
  unfold State.performCopy
  extract_lets g p srcs memSrc memDst fail
  have hfail : ∀ (u : State) (va : Nat) (m : Miss), u.Formed → (fail u va m).Formed := by
    intro u va m hu
    have hmiss := hu.engineMiss c.stream c.id true c.walked va m
    dsimp only [fail]
    split
    · next t ht => exact hmiss t ht
    · exact (State.Formed.engineIntegrity hu ..).endCopy ..
  have hread := h.resolveAll g .read p.n memSrc
  generalize s.resolveAll g .read p.n memSrc = x at hread ⊢
  obtain ⟨⟨va, m⟩ | sx, u⟩ := x
  · simp [h, hfail u va m hread]
  · have hwrite := State.Formed.resolveAll (s := u) hread g .write p.n memDst
    dsimp only
    generalize u.resolveAll g .write p.n memDst = y at hwrite ⊢
    obtain ⟨⟨va, m⟩ | dx, v⟩ := y
    · simp [h, hfail v va m hwrite]
    · dsimp only
      have hfetch := State.Formed.engineFetch (s := v) hwrite g.core c.id sx.flatten
      split
      · exact Kept.none
      · split
        · exact kept_some.2 (h.endCopy ..)
        · split
          · next t ht => exact kept_some.2 (hfetch t ht)
          · split
            · exact Kept.none
            · split
              · exact kept_some.2 (State.Formed.endCopy hwrite ..)
              · split
                · exact kept_some.2 (State.Formed.endCopy hwrite ..)
                · have hmove := State.Formed.moveBytes (s := v) hwrite c p (zipElements p (gangOf c.stream) sx dx)
                  simp [hmove, State.Formed.endCopy (s := v) hwrite]

@[simp] theorem stepCopy (h : s.Formed) (cl : Nat) (c : Copy) : Kept (s.stepCopy cl c) := by
  unfold State.stepCopy
  repeat' split
  all_goals simp [State.Formed, h]

@[simp] theorem onCopyComplete (h : s.Formed) (e : Ev) : Kept (onCopyComplete e s) := by
  unfold Machine.onCopyComplete
  split
  · exact Kept.none
  · exact h.stepCopy _ _

@[simp] theorem onCopyAccept (h : s.Formed) (e : Ev) : Kept (onCopyAccept e s) := by
  unfold Machine.onCopyAccept
  split
  · exact Kept.none
  · exact h.acceptCopy _

@[simp] theorem takeCopyErr (h : s.Formed) (r d : Nat) : (s.takeCopyErr r d).Formed := by
  simp -implicitDefEqProofs +contextual [State.takeCopyErr, State.Formed, h]

@[simp] theorem waitOut (h : s.Formed) (r : Nat) (w : Wait) : (s.waitOut r w).Formed := by
  simp -implicitDefEqProofs +contextual [State.waitOut, State.Formed, h]

@[simp] theorem endWait (h : s.Formed) (r : Nat) (waited : Bool) : (s.endWait r waited).Formed := by
  simp [State.endWait, State.Formed, h]

@[simp] theorem barReturn (h : s.Formed) (r : Nat) (dst : Dst) (act : Word) (m : Bool) (off p : Nat) :
    Sound State.Formed (s.barReturn r dst act m off p) := by
  unfold State.barReturn
  dsimp only
  repeat' split
  all_goals simp -implicitDefEqProofs +contextual [State.Formed, h]

@[simp] theorem sound_barReturn {q : State → Prop} {r off n : Nat} {dst : Dst} {act : Word} {m : Bool} (h : s.Formed)
    (hq : ∀ u : State, u.Formed → q u) : Sound q (s.barReturn r dst act m off n) := (h.barReturn ..).mono hq

theorem barwaitEnd {p : Peek} (h : p.st.Formed) (r : Nat) (dst : Dst) (a : BitVec 7) (act : Word) (m : Bool) (off ph : Nat)
    (waited : Bool) : Sound State.Formed (barwaitEnd r dst a act m off ph p waited) := by
  refine sound_bind.2 <| sound_barReturn h fun u hu => ?_
  exact endWait (complete (s := State.commit r { p with st := u }) (commit hu) ..) ..

@[simp] theorem onBarwaitTimeout (h : s.Formed) (e : Ev) : Kept (onBarwaitTimeout e s) := by
  unfold Machine.onBarwaitTimeout
  split
  · split
    · exact kept_some.2 h
    · exact Kept.none
  · exact Kept.none

theorem execCpy (h : s.Formed) {y gv : Bool} {slot : BitVec 3} {a b : BitVec 7} {sub : BitVec 4} : Stays (execCpy y gv slot a b sub s) :=
  run_stays h fun r => by
    refine sound_bind.2 <| sound_needHaul fun _ => sound_bind.2 <| sound_need fun _ => sound_bind.2 <| sound_peek h fun p hp => ?_
    extract_lets _ rest
    have hrest : ∀ u : State, u.Formed → Sound State.Formed (rest u) := fun u hu =>
      (complete (s := State.commit r { p with st := u }) (commit hu) ..).yieldIf ..
    simp +contextual [hp, hrest]

theorem execTcopy (h : s.Formed) {y gv : Bool} {slot : BitVec 3} {a b : BitVec 7} {sub : BitVec 4} :
    Stays (execTcopy y gv slot a b sub s) :=
  run_stays h fun r => by
    refine sound_bind.2 <| sound_needHaul fun _ => sound_bind.2 <| sound_peek h fun p hp => ?_
    extract_lets rest
    have hrest : ∀ u : State, u.Formed → Sound State.Formed (rest u) := fun u hu => (hu.complete ..).yieldIf ..
    split
    · exact hrest _ hp
    · exact sound_bind.2 <| sound_checkDesc fun _ => sound_bind.2 <| sound_issueCopy hp hrest

theorem execCseal (h : s.Formed) {d : BitVec 6} : Stays (execCseal d s) :=
  run_stays h fun r => by
    refine sound_bind.2 <| sound_needHaul fun _ => sound_bind.2 <| sound_need fun _ => ?_
    split
    · exact h
    · exact h

theorem execCwait (h : s.Formed) {d : BitVec 6} {src : BitVec 7} : Stays (execCwait d src s) :=
  run_stays h fun r => by
    refine sound_bind.2 <| sound_needHaul fun _ => sound_bind.2 <| sound_need fun _ => sound_bind.2 <| sound_peek h fun p hp => ?_
    extract_lets t b
    split
    · exact sound_bind.2 <| sound_checkHeld fun _ => h.waitOut ..
    · exact ((h.takeCopyErr ..).complete ..).endWait ..

theorem execCwaitn (h : s.Formed) {d k : BitVec 6} : Stays (execCwaitn d k s) :=
  run_stays h fun r => by
    simp [h]

theorem execBarinit (h : s.Formed) {d : BitVec 6} {a imm : BitVec 7} {m : Bool} : Stays (execBarinit d a imm m s) :=
  run_stays h fun r => by
    refine sound_bind.2 <| sound_needHaul fun _ => ?_
    dsimp only
    split
    · exact sound_bind.2 <| sound_checkClass fun _ => h.complete ..
    · refine sound_bind.2 <| sound_peek h fun p hp => sound_bind.2 <| sound_checkBar h fun _ => sound_bind.2 <| sound_countOf fun n => ?_
      exact complete (s := (State.commit r p).updGang _ _) hp.commit ..

theorem execBararr (h : s.Formed) {d : BitVec 6} {a imm : BitVec 7} {m : Bool} : Stays (execBararr d a imm m s) :=
  run_stays h fun r => by
    refine sound_bind.2 <| sound_needHaul fun _ => ?_
    dsimp only
    split
    · exact sound_bind.2 <| sound_checkClass fun _ => h.complete ..
    · refine sound_bind.2 <| sound_peek h fun p hp => sound_bind.2 <| sound_checkBar h fun _ => sound_bind.2 <| sound_countOf fun n => ?_
      split
      · exact h
      · exact complete (s := (State.commit r p).updGang _ _) hp.commit ..

theorem execBarwait (h : s.Formed) {nw : Bool} {d : BitVec 6} {a imm : BitVec 7} {m : Bool} : Stays (execBarwait nw d a imm m s) :=
  run_stays h fun r => by
    refine sound_bind.2 <| sound_needHaul fun _ => ?_
    dsimp only
    split
    · refine sound_bind.2 <| sound_checkBar h fun _ => ?_
      split
      · exact h.waitOut ..
      · exact sound_bind.2 <| sound_checkRoom h fun _ => sound_bind.2 <| sound_checkPortDst fun _ => h.barwaitEnd ..
    · split
      · exact sound_bind.2 <| sound_checkClass fun _ => (h.complete ..).endWait ..
      · refine sound_bind.2 <| sound_peek h fun p hp => sound_bind.2 <| sound_checkBar h fun _ => ?_
        split
        · exact waitOut (s := { s with consumed := p.st.consumed }) h ..
        · exact barwaitEnd hp ..

theorem execBartry (h : s.Formed) {nw : Bool} {d : BitVec 6} {a : BitVec 7} {m : Bool} : Stays (execBartry nw d a m s) :=
  run_stays h fun r => by
    refine sound_bind.2 <| sound_needHaul fun _ => ?_
    dsimp only
    split
    · exact sound_bind.2 <| sound_checkClass fun _ => h.complete ..
    · refine sound_bind.2 <| sound_peek h fun p hp => sound_bind.2 <| sound_checkBar h fun _ => sound_bind.2 <|
        sound_barReturn hp fun u hu => ?_
      exact complete (s := State.commit r { p with st := u }) (commit hu) ..

theorem execGbar (h : s.Formed) :
    Stays (execGbar s) :=
  run_stays h fun r => by
    simp +contextual [h]
    intros
    split
    all_goals simp [*]

@[simp] theorem writeRegs (h : s.Formed) (r d : Nat) (nw : Bool) (mask : Word) (rows : List (Nat → LV)) :
    (s.writeRegs r d nw mask rows).Formed := h

@[simp] theorem sound_needResidue {q : Unit → Prop} {r : Nat} (hq : ∀ a, q a) : Sound q (s.needResidue r) := by
  simp [State.needResidue, hq]

@[simp] theorem sound_resWants {q : List Want → Prop} {r f : Nat} {uni : Bool} (hq : ∀ a, q a) : Sound q (resWants s r f uni) := by
  unfold resWants
  dsimp only
  split
  all_goals simp [hq]

@[simp] theorem residueOp (h : s.Formed) (r : Nat) (m nw : Bool) (d n : Nat) (srcs : List Want) (f : List Nat → List Nat) :
    Sound State.Formed (s.residueOp r m nw d n srcs f) := by
  refine sound_bind.2 <| sound_need fun _ => sound_bind.2 <| sound_peek h fun p hp => sound_bind.2 <| sound_needArrived h fun _ =>
    sound_bind.2 <| sound_needResidue fun _ => ?_
  exact (hp.commit.writeRegs ..).complete ..

theorem execRnsf (h : s.Formed) {nw : Bool} {d : BitVec 6} {a : BitVec 7} {m : Bool} : Stays (execRnsf nw d a m s) :=
  run_stays h fun r => by
    simp [h]

theorem execRnsr (h : s.Formed) {nw : Bool} {d : BitVec 6} {a : BitVec 7} {m : Bool} : Stays (execRnsr nw d a m s) :=
  run_stays h fun r => sound_bind.2 <| sound_needWork fun _ => sound_bind.2 <| sound_typeIn fun _ =>
    sound_bind.2 <| sound_resWants fun _ => h.residueOp ..

theorem execRnsc (h : s.Formed) {nw : Bool} {d : BitVec 6} {a : BitVec 7} {m : Bool} : Stays (execRnsc nw d a m s) :=
  run_stays h fun r => sound_bind.2 <| sound_needWork fun _ => sound_bind.2 <| sound_resWants fun _ => h.residueOp ..

theorem execRnsmul (h : s.Formed) {nw : Bool} {d : BitVec 6} {a b : BitVec 7} {m : Bool} : Stays (execRnsmul nw d a b m s) :=
  run_stays h fun r => sound_bind.2 <| sound_needWork fun _ => sound_bind.2 <| sound_resWants fun _ =>
    sound_bind.2 <| sound_resWants fun _ => h.residueOp ..

theorem execRnsadd (h : s.Formed) {nw : Bool} {d : BitVec 6} {a b : BitVec 7} {m : Bool} : Stays (execRnsadd nw d a b m s) :=
  run_stays h fun r => sound_bind.2 <| sound_needWork fun _ => sound_bind.2 <| sound_resWants fun _ =>
    sound_bind.2 <| sound_resWants fun _ => h.residueOp ..

end State.Formed

end Sys2Proof.Machine
end

section
/-! SUPPORT. What keeps the canonical form of memory: the matrix engine. -/

namespace Sys2Proof.Machine

section
variable {s : State}

@[simp] theorem sound_checkTiles {q : Unit → Prop} {r : Nat} {ns : List Nat} (hq : ∀ x, q x) : Sound q (s.checkTiles r ns) := by
  unfold State.checkTiles
  split
  · simp
  · exact hq _

@[simp] theorem sound_checkMxAddr {q : Unit → Prop} {em : Word} {a : Nat} (hq : ∀ x, q x) : Sound q (checkMxAddr em a) :=
  sound_checkDesc hq

@[simp] theorem sound_checkMxScratch {q : Unit → Prop} {r n : Nat} {lanes : List (Nat × Nat)} {b : Bool} (hq : ∀ x, q x) :
    Sound q (s.checkMxScratch r lanes n b) := by
  unfold State.checkMxScratch
  dsimp only
  repeat' split
  all_goals simp [hq, laneTrap]

@[simp] theorem sound_needBlocks {q : Unit → Prop} {r : Nat} {mode : Word} {ok : Nat → Bool} (hq : ∀ x, q x) :
    Sound q (s.needBlocks r mode ok) := by
  simp [State.needBlocks, hq]

@[simp] theorem sound_rowWant {q : Want → Prop} {r : Nat} {a : BitVec 7} (hq : ∀ x, q x) : Sound q (rowWant s r a) := by
  unfold rowWant
  split
  · simp
  · simp
  · exact hq _

end

/-- The state in which an engine's resolution of addresses ends. -/
def Placed : Except (State × Bool) (List Spot × State) → Prop
  | .error x => x.1.Formed
  | .ok x => x.2.Formed

namespace State.Formed

variable {s : State}

@[simp] theorem issueMx (h : s.Formed) (r : Nat) (gv : Bool) (slot : Nat) (names : List Nat) (cmd : MxCmd) :
    Sound State.Formed (s.issueMx r gv slot names cmd) := by
  simp [State.issueMx, State.Formed, h]

@[simp] theorem sound_issueMx {q : State → Prop} {r slot : Nat} {gv : Bool} {names : List Nat} {cmd : MxCmd} (h : s.Formed)
    (hq : ∀ u : State, u.Formed → q u) : Sound q (s.issueMx r gv slot names cmd) := (h.issueMx ..).mono hq

@[simp] theorem issueRows (h : s.Formed) (r : Nat) (res y gv : Bool) (slot : Nat) (a : BitVec 7) (z : Bool) (wsl tile : Nat) :
    Sound State.Formed (s.issueRows r res y gv slot a z wsl tile) := by
  refine sound_bind.2 <| sound_needHaul fun _ => ?_
  extract_lets t act rest
  have hrest : ∀ x, Sound State.Formed (rest x) := fun _ => by
    refine sound_bind.2 <| sound_rowWant fun w => sound_bind.2 <| sound_peek h fun p hp => ?_
    extract_lets finish rows issue
    have hfinish : ∀ u : State, u.Formed → Sound State.Formed (finish u) := fun u hu =>
      (complete (s := State.commit r { p with st := u }) (commit hu) ..).yieldIf ..
    split
    · exact hfinish _ hp
    · refine sound_bind.2 <| sound_checkTiles fun _ => ?_
      have hissue : ∀ x, Sound State.Formed (issue x) := fun _ =>
        sound_bind.2 <| sound_checkMxScratch fun _ => sound_bind.2 <| sound_issueMx hp hfinish
      simp [hissue]
  simp [hrest]

@[simp] theorem issueTile (h : s.Formed) (r : Nat) (op : MxOp) (gv : Bool) (slot : Nat) (a : Option (BitVec 7)) (res sp : Bool)
    (tile : Nat) : Sound State.Formed (s.issueTile r op gv slot a res sp tile) := by
  refine sound_bind.2 <| sound_needHaul fun _ => sound_bind.2 <| sound_need fun _ => sound_bind.2 <| sound_peek h fun p hp => ?_
  extract_lets names finish issue rest
  have hfinish : ∀ u : State, u.Formed → Sound State.Formed (finish u) := fun u hu => hu.complete ..
  have hissue : ∀ x, Sound State.Formed (issue x) := fun _ => sound_bind.2 <| sound_issueMx hp hfinish
  have hrest : ∀ x, Sound State.Formed (rest x) := fun _ => by simp [rest, hissue]
  split
  · exact hfinish _ hp
  · exact sound_bind.2 <| sound_checkTiles fun _ => by simp [hrest]

@[simp] theorem noteReady (h : s.Formed) (cl : Nat) : (s.noteReady cl).Formed := h

@[simp] theorem updEntry (h : s.Formed) (cl id : Nat) (f : MxEntry → MxEntry) : (s.updEntry cl id f).Formed := h

@[simp] theorem endEntry (h : s.Formed) (cl : Nat) (e : MxEntry) (err : Nat) : (s.endEntry cl e err).Formed := h

@[simp] theorem acceptMx (h : s.Formed) (r : Nat) : Kept (s.acceptMx r) := by
  unfold State.acceptMx
  dsimp only
  repeat' split
  all_goals simp -implicitDefEqProofs +contextual [State.Formed, h]

@[simp] theorem reacceptMx (h : s.Formed) (r : Nat) (x : MxEntry) : Kept (s.reacceptMx r x) := by
  simp -implicitDefEqProofs +contextual [State.reacceptMx, State.Formed, h]

@[simp] theorem offerMx (h : s.Formed) (r : Nat) : Kept (s.offerMx r) := by
  unfold State.offerMx
  repeat' split
  all_goals simp [State.Formed, h]

@[simp] theorem onMatrixAccept (h : s.Formed) (e : Ev) : Kept (onMatrixAccept e s) := by
  have hoffer := h.offerMx e.n0
  unfold Machine.onMatrixAccept
  dsimp only
  split
  · exact Kept.none
  · next t ht =>
    split
    · exact Kept.none
    · exact kept_some.2 (hoffer t ht)

@[simp] theorem wakeMx (h : s.Formed) (r x0 : Nat) : (s.wakeMx r x0).Formed := by
  induction x0 generalizing s with
  | zero => exact h
  | succ n ih =>
    unfold State.wakeMx
    dsimp only
    split
    · exact h
    · split
      · exact h
      · split
        · exact h
        · split
          · next u hu =>
            have hu : Kept (some u) := hu ▸ kept_ite.2 ⟨fun _ => h.acceptMx r, fun _ => Kept.none⟩
            exact ih (kept_some.1 hu)
          · exact h

@[simp] theorem onGatherComplete (h : s.Formed) (e : Ev) : Kept (onGatherComplete e s) := by
  unfold Machine.onGatherComplete
  dsimp only
  split
  · exact Kept.none
  · split
    · exact Kept.none
    · exact kept_some.2 (chargeEngine (s := (s.updGang _ _).updEntry ..) h ..)

@[simp] theorem onMatrixPass (h : s.Formed) (e : Ev) : Kept (onMatrixPass e s) := by
  have hnote := h.noteReady e.n0
  unfold Machine.onMatrixPass
  dsimp only
  split
  · exact Kept.none
  · split
    · exact Kept.none
    · exact kept_some.2 hnote

@[simp] theorem performQuarter (h : s.Formed) (cl : Nat) (e : MxEntry) : (s.performQuarter cl e).Formed := by
  unfold State.performQuarter
  extract_lets err w k hit u high v
  have hu : u.Formed := formed_ite.2 ⟨fun _ => h, fun _ => h⟩
  have hv : v.Formed := formed_ite.2 ⟨fun _ => hu, fun _ => (hu.chargeEngine ..).logBad ..⟩
  exact hv.endEntry ..

@[simp] theorem onPassComplete (h : s.Formed) (e : Ev) : Kept (onPassComplete e s) := by
  unfold Machine.onPassComplete
  split
  · exact Kept.none
  · exact kept_some.2 (foldl h (fun u x hu => hu.performQuarter ..) _)

@[simp] theorem setSlot (h : s.Formed) (cl k : Nat) (w : WSlot) : (s.setSlot cl k w).Formed := h

@[simp] theorem freshen (h : s.Formed) (core : Nat) (xs : List Spot) : (s.freshen core xs).Formed := by
  refine foldl h (fun u p hu => ?_) _
  split
  · exact formed_ite.2 ⟨fun _ => hu, fun _ => hu⟩
  · exact hu

@[simp] theorem badLoad (h : s.Formed) (cl : Nat) (e : MxEntry) (err : Nat) : (s.badLoad cl e err).Formed := h

@[simp] theorem started (h : s.Formed) (cl : Nat) (e : MxEntry) : (s.started cl e).Formed := h

@[simp] theorem entrySpots (h : s.Formed) (cl : Nat) (e : MxEntry) (k : Acc) (addr n : Nat) (fetch : Bool) :
    Placed (s.entrySpots cl e k addr n fetch) := by
  have hspots := h.engineSpots (s.gangAt e.stream) k (va56 addr) n
  unfold State.entrySpots
  dsimp only
  generalize s.engineSpots (s.gangAt e.stream) k (va56 addr) n = x at hspots ⊢
  obtain ⟨⟨va, m⟩ | xs, u⟩ := x
  · have hmiss := State.Formed.engineMiss (s := u) hspots e.stream e.id false e.walked va m
    dsimp only
    split
    · next t ht => exact hmiss t ht
    · exact hspots.engineIntegrity ..
  · have hfetch := State.Formed.engineFetch (s := u) hspots (s.gangAt e.stream).core e.id xs
    have hmay : Kept (if fetch then u.engineFetch (s.gangAt e.stream).core e.id xs else none) := by simp [hfetch]
    dsimp only
    split
    · next t ht => exact hmay t ht
    · exact hspots

@[simp] theorem sealedLoad (h : s.Formed) (cl : Nat) (e : MxEntry) (xs : List Spot) : (s.sealedLoad cl e xs).Formed := by
  have hspots := h.entrySpots cl e .read (e.cmd.addr.toNat + 12800) 64 true
  unfold State.sealedLoad
  dsimp only
  split
  · next u he => rw [he] at hspots; exact hspots
  · next u he => rw [he] at hspots; exact State.Formed.badLoad (s := u) hspots ..
  · next ys u he =>
    rw [he] at hspots
    have hread := (State.Formed.engineRead (s := u) hspots (s.gangAt e.stream).core e.id xs).engineRead (s.gangAt e.stream).core e.id ys
    split
    · exact (hread.recordFault ..).badLoad ..
    · exact ((hread.logBad ..).setSlot ..).endEntry ..

@[simp] theorem performWload (h : s.Formed) (cl : Nat) (e : MxEntry) : (s.performWload cl e).Formed := by
  unfold State.performWload
  extract_lets g gn w u
  split
  · exact h.endEntry ..
  · have hu : u.Formed := h
    have hspots := hu.entrySpots cl e .read e.cmd.addr.toNat 12800 true
    split
    · split
      · exact hu.badLoad ..
      · exact (setSlot (logBad (s := u.updGang gn _) hu ..) ..).endEntry ..
    · split
      · next v he => rw [he] at hspots; exact hspots
      · next v he => rw [he] at hspots; exact State.Formed.badLoad (s := v) hspots ..
      · next xs v he =>
        rw [he] at hspots
        have hv := (State.Formed.noteReads (s := v) hspots g.node xs).freshen g.core xs
        dsimp only
        split
        · exact hv.sealedLoad ..
        · exact (((hv.engineRead ..).logBad ..).setSlot ..).endEntry ..

@[simp] theorem onWloadPerform (h : s.Formed) (e : Ev) : Kept (onWloadPerform e s) := by
  unfold Machine.onWloadPerform
  split
  · exact Kept.none
  · simp [h]

@[simp] theorem onWfreePerform (h : s.Formed) (e : Ev) : Kept (onWfreePerform e s) := by
  unfold Machine.onWfreePerform
  split
  · exact Kept.none
  · simp [h]

@[simp] theorem performAccld (h : s.Formed) (cl : Nat) (e : MxEntry) (ks : List Nat) : (s.performAccld cl e ks).Formed := by
  have hspots := h.entrySpots cl e .read e.cmd.addr.toNat (4096 * ks.length) true
  unfold State.performAccld
  dsimp only
  split
  · exact (logBad (s := s.updGang _ _) h ..).endEntry ..
  · split
    · next v he => rw [he] at hspots; exact hspots
    · next v he => rw [he] at hspots; exact State.Formed.endEntry (s := v) hspots ..
    · next xs v he =>
      rw [he] at hspots
      have hread := (State.Formed.noteReads (s := v) hspots (s.gang (gangOf e.stream)).node xs).engineRead
        (s.gang (gangOf e.stream)).core e.id xs
      exact (logBad (s := ((_ : List Byte × State).2).updGang _ _) hread ..).endEntry ..

@[simp] theorem performAccst (h : s.Formed) (cl : Nat) (e : MxEntry) (ks : List Nat) : (s.performAccst cl e ks).Formed := by
  unfold State.performAccst
  dsimp only
  split
  · exact (logBad (s := s.updGang _ _) h ..).endEntry ..
  · have hspots := h.entrySpots cl e .write e.cmd.addr.toNat ((s.gang (gangOf e.stream)).tileImage ks).length false
    split
    · next v he => rw [he] at hspots; exact hspots
    · next v he => rw [he] at hspots; exact State.Formed.endEntry (s := v) hspots ..
    · next xs v he =>
      rw [he] at hspots
      have hv : v.Formed := hspots
      have hwrite := (((hv.engineWrite (s.gang (gangOf e.stream)).core
        (xs.zip ((s.gang (gangOf e.stream)).tileImage ks)) none).engineMarks (s.gang (gangOf e.stream)) .none xs))
      repeat' split
      · exact hv.endEntry ..
      · exact hv.endEntry ..
      · exact hv.endEntry ..
      · exact hv.started ..
      · exact ((hwrite.engineMarks ..).engineMarks ..).endEntry ..

@[simp] theorem onTileCommandPerform (h : s.Formed) (e : Ev) : Kept (onTileCommandPerform e s) := by
  unfold Machine.onTileCommandPerform
  dsimp only
  split
  · exact Kept.none
  · split
    · exact Kept.none
    · split
      · exact kept_some.2 (endEntry (s := s.updGang _ _) h ..)
      · exact kept_some.2 (h.performAccld ..)
      · exact kept_some.2 (h.performAccst ..)
      · exact Kept.none

theorem execWload (h : s.Formed) {y gv : Bool} {slot : BitVec 3} {a : BitVec 7} {sp : Bool} {wsl : BitVec 6} :
    Stays (execWload y gv slot a sp wsl s) :=
  run_stays h fun r => by
    refine sound_bind.2 <| sound_needHaul fun _ => sound_bind.2 <| sound_needBlocks fun _ => sound_bind.2 <| sound_peek h fun p hp => ?_
    extract_lets finish issue
    have hfinish : ∀ u : State, u.Formed → Sound State.Formed (finish u) := fun u hu => (hu.complete ..).yieldIf ..
    have hissue : ∀ x, Sound State.Formed (issue x) := fun _ => sound_bind.2 <| sound_issueMx hp hfinish
    split
    · exact hfinish _ hp
    · simp [hissue]

theorem execWfree (h : s.Formed) {gv : Bool} {slot : BitVec 3} {wsl : BitVec 6} : Stays (execWfree gv slot wsl s) :=
  run_stays h fun r => by
    simp +contextual [h]

theorem execTwait (h : s.Formed) {d : BitVec 6} {allc res : Bool} {tile : BitVec 4} : Stays (execTwait d allc res tile s) :=
  run_stays h fun r => by
    refine sound_bind.2 <| sound_needHaul fun _ => sound_bind.2 <| sound_need fun _ => sound_bind.2 <| sound_need fun _ => ?_
    extract_lets t names due taken rest
    have hrest : ∀ x, Sound State.Formed (rest x) := fun _ => by
      dsimp only [rest]
      split
      · exact complete (engineJoin (s := s.updStream r _) h ..) ..
      · split
        · simp
        · exact h
    simp [hrest]

theorem execAccrd (h : s.Formed) {nw : Bool} {d : BitVec 6} {res : Bool} {tile : BitVec 4} {b : BitVec 7} {m : Bool} :
    Stays (execAccrd nw d res tile b m s) :=
  run_stays h fun r => by
    refine sound_bind.2 <| sound_needWork fun _ => sound_bind.2 <| sound_typeIn fun _ => sound_bind.2 <| sound_need fun _ =>
      sound_bind.2 <| sound_peek h fun p hp => sound_bind.2 <| sound_needArrived h fun _ => sound_bind.2 <| sound_checkTiles fun _ => ?_
    dsimp only
    split
    · simp
    · exact (hp.commit.writeRegs ..).complete ..

end State.Formed

end Sys2Proof.Machine
end

section
/-! SUPPORT. What keeps the canonical form of memory: the hub and the placement of gangs. -/

namespace Sys2Proof.Machine

/-- The state in which the hub's answer to an offer leaves the device is in canonical form. -/
def Offer.Formed : Offer → Prop
  | .rejected _ s | .waits s | .accepted _ s => s.Formed

/-- The state that the hub's choice leads to, where it leads to one, is in canonical form. -/
def Choice.Formed : Choice → Prop
  | .cannot => True
  | .able now => Kept now

namespace State.Formed

variable {s : State}

@[simp] theorem hubSpot (h : s.Formed) (part va : Nat) : (s.hubSpot part va).2.Formed := by
  have hwalk := h.walk part (s.part part).lead va
  unfold State.hubSpot
  generalize s.walk part (s.part part).lead va = x at hwalk ⊢
  obtain ⟨l, u⟩ := x
  cases l with
  | leaf l =>
    dsimp only
    repeat' split
    all_goals exact hwalk
  | unmapped => exact hwalk
  | integrity pa => exact hwalk
  | poison pa => exact hwalk

@[simp] theorem hubPart (h : s.Formed) (part va n : Nat) : (s.hubPart part va n).2.Formed := by
  have hspot := h.hubSpot part va
  unfold State.hubPart
  generalize s.hubSpot part va = x at hspot ⊢
  obtain ⟨_ | p, u⟩ := x
  · exact hspot
  · dsimp only
    split
    · split
      · exact hspot
      · exact State.Formed.readCoh (s := u) hspot ..
    · exact hspot

@[simp] theorem hubBytes (h : s.Formed) (part va n : Nat) : (s.hubBytes part va n).2.Formed := by
  unfold State.hubBytes
  dsimp only
  split
  · exact h
  · have hread := h.hubPart part va (min n (2 ^ 16 - va % 2 ^ 16))
    generalize s.hubPart part va (min n (2 ^ 16 - va % 2 ^ 16)) = x at hread ⊢
    obtain ⟨_ | ⟨a, p⟩, u⟩ := x
    · exact hread
    · dsimp only
      split
      · exact hread
      · have hmore := State.Formed.hubPart (s := u) hread part ((va + (2 ^ 16 - va % 2 ^ 16)) % 2 ^ 56) (n - (2 ^ 16 - va % 2 ^ 16))
        generalize u.hubPart part ((va + (2 ^ 16 - va % 2 ^ 16)) % 2 ^ 56) (n - (2 ^ 16 - va % 2 ^ 16)) = y at hmore ⊢
        obtain ⟨_ | ⟨b, p⟩, v⟩ := y
        · exact hmore
        · exact hmore

@[simp] theorem hubWords (h : s.Formed) (part : Nat) (addr : DWord) (n : Nat) : (s.hubWords part addr n).2.Formed := by
  unfold State.hubWords
  split
  · exact h
  · have hread := h.hubBytes part (va56 addr.toNat) (8 * n)
    generalize s.hubBytes part (va56 addr.toNat) (8 * n) = x at hread ⊢
    obtain ⟨_ | bs, u⟩ := x
    · exact hread
    · exact hread

@[simp] theorem readNode (h : s.Formed) (part : Nat) (addr : DWord) : (s.readNode part addr).2.Formed := by
  unfold State.readNode
  split
  · exact h
  · have h16 := h.hubWords part addr 16
    generalize s.hubWords part addr 16 = x at h16 ⊢
    obtain ⟨_ | ws, u⟩ := x
    · exact h16
    · dsimp only
      split
      · exact h16
      · have hin := State.Formed.hubWords (s := u) h16 part (w64 (wordAt ws 4)) (4 * bits (wordAt ws 8) 63 58)
        generalize u.hubWords part (w64 (wordAt ws 4)) (4 * bits (wordAt ws 8) 63 58) = x at hin ⊢
        obtain ⟨_ | iw, u⟩ := x
        · exact hin
        · dsimp only
          have hout := State.Formed.hubWords (s := u) hin part (w64 (wordAt ws 5)) (4 * bits (wordAt ws 8) 57 52)
          generalize u.hubWords part (w64 (wordAt ws 5)) (4 * bits (wordAt ws 8) 57 52) = x at hout ⊢
          obtain ⟨_ | ow, u⟩ := x
          · exact hout
          · dsimp only
            have hst := State.Formed.hubWords (s := u) hout part (w64 (wordAt ws 6)) (8 * bits (wordAt ws 8) 51 47)
            generalize u.hubWords part (w64 (wordAt ws 6)) (8 * bits (wordAt ws 8) 51 47) = x at hst ⊢
            obtain ⟨_ | sw, u⟩ := x
            · exact hst
            · dsimp only
              have hpr := State.Formed.hubWords (s := u) hst part (w64 (wordAt ws 7)) (bits (wordAt ws 8) 46 40)
              generalize u.hubWords part (w64 (wordAt ws 7)) (bits (wordAt ws 8) 46 40) = x at hpr ⊢
              obtain ⟨_ | pw, u⟩ := x
              · exact hpr
              · dsimp only
                split <;> exact hpr

@[simp] theorem readRcb (h : s.Formed) (part va : Nat) : (s.readRcb part va).2.Formed := by
  have hlow := h.hubPart part va 64
  unfold State.readRcb
  generalize s.hubPart part va 64 = x at hlow ⊢
  obtain ⟨_ | ⟨low, p⟩, u⟩ := x
  · exact hlow
  · have hhigh := State.Formed.hubPart (s := u) hlow part ((va + 64) % 2 ^ 56) 64
    dsimp only
    generalize u.hubPart part ((va + 64) % 2 ^ 56) 64 = y at hhigh ⊢
    obtain ⟨_ | ⟨high, p⟩, v⟩ := y
    · exact hhigh
    · exact hhigh

@[simp] theorem chainWords (h : s.Formed) (part x0 : Nat) (x1 : List DWord) (x2 : DWord) : (State.chainWords part x0 x1 x2 s).2.Formed := by
  induction x0 generalizing x1 x2 s with
  | zero => exact h
  | succ k ih =>
    unfold State.chainWords
    split
    · exact h
    · have hread := h.readRcb part (va56 x2.toNat)
      generalize s.readRcb part (va56 x2.toNat) = x at hread ⊢
      obtain ⟨_ | ⟨bs, p⟩, u⟩ := x
      · exact hread
      · dsimp only
        split
        · exact hread
        · have hrest := ih (s := u) hread (x2 :: x1) ((dwords 16 bs).getD 0 0)
          generalize State.chainWords part k (x2 :: x1) ((dwords 16 bs).getD 0 0) u = y at hrest ⊢
          obtain ⟨_ | rest, v⟩ := y
          · exact hrest
          · exact hrest

@[simp] theorem readChain (h : s.Formed) (part : Nat) (rcb : DWord) : (s.readChain part rcb).2.Formed := by
  have hwords := h.chainWords part 8 [] rcb
  unfold State.readChain
  generalize State.chainWords part 8 [] rcb s = x at hwords ⊢
  obtain ⟨_ | xs, u⟩ := x
  · exact hwords
  · dsimp only
    split <;> exact hwords

@[simp] theorem checkNode (h : s.Formed) (part : Nat) (x : Node) (launcher : Option DWord) : (s.checkNode part x launcher).2.Formed := by
  have hnode := h.readNode part x.addr
  unfold State.checkNode
  generalize s.readNode part x.addr = y at hnode ⊢
  obtain ⟨_ | d, u⟩ := y
  · exact hnode
  · have hwords := State.Formed.hubWords (s := u) hnode part d.kdesc 8
    dsimp only
    generalize u.hubWords part d.kdesc 8 = z at hwords ⊢
    obtain ⟨_ | kw, v⟩ := z
    · exact hwords
    · dsimp only
      split
      · exact hwords
      · split
        · exact hwords
        · have hchain := State.Formed.readChain (s := v) hwords part d.rcb
          generalize v.readChain part d.rcb = c at hchain ⊢
          obtain ⟨_ | c, w⟩ := c
          · exact hchain
          · dsimp only
            repeat' split
            all_goals exact hchain

@[simp] theorem useChain (h : s.Formed) (part : Nat) (c : Chain) : (s.useChain part c).Formed := by
  refine foldl h (fun u x hu => ?_) _
  dsimp only
  split
  · exact hu
  · split
    · exact rcbPut (rcbPut (readCoh (s := State.updPart _ _ _) hu ..) ..) ..
    · exact hu

@[simp] theorem settleReady (h : s.Formed) : s.settleReady.Formed := by
  simp -implicitDefEqProofs +contextual [State.settleReady, State.Formed, h]

theorem offer (h : s.Formed) (part : Nat) (x : Node) (launcher : Option DWord) : (s.offer part x launcher).Formed := by
  have hcheck := h.checkNode part x launcher
  unfold State.offer
  generalize s.checkNode part x launcher = z at hcheck ⊢
  obtain ⟨e | c, u⟩ := z
  · exact hcheck
  · dsimp only
    split
    · exact hcheck
    · next n _ =>
      split
      · exact hcheck
      · have huse : (u.freshNum.2.useChain part c.chain).Formed := State.Formed.useChain (s := u.freshNum.2) hcheck ..
        refine settleReady (showCharges ?_ ..)
        exact huse

@[simp] theorem onPostForward (h : s.Formed) (e : Ev) : Kept (onPostForward e s) := by
  unfold Machine.onPostForward
  dsimp only
  split
  · next rcb rest _ _ =>
    split
    · exact Kept.none
    · have hpost : ((s.setPart e.n0 { s.part e.n0 with posts := rest }).admitPosts e.n0).Formed :=
        admitPosts (s := s.setPart e.n0 { s.part e.n0 with posts := rest }) h e.n0
      generalize (s.setPart e.n0 { s.part e.n0 with posts := rest }).admitPosts e.n0 = t at hpost ⊢
      have hwords := hpost.hubWords e.n0 rcb 2
      generalize t.hubWords e.n0 rcb 2 = x at hwords ⊢
      obtain ⟨_ | ws, u⟩ := x
      · exact kept_some.2 (State.Formed.postCompletion (s := u) hwords ..)
      · dsimp only
        have hchain := State.Formed.readChain (s := u) hwords e.n0 rcb
        generalize u.readChain e.n0 rcb = y at hchain ⊢
        obtain ⟨_ | c, v⟩ := y
        · exact kept_some.2 (State.Formed.postCompletion (s := v) hchain ..)
        · exact kept_ite.2 ⟨fun _ => kept_some.2 hchain, fun _ => kept_some.2 hchain⟩
  · exact Kept.none

@[simp] theorem onNodeAccept (h : s.Formed) (e : Ev) : Kept (onNodeAccept e s) := by
  unfold Machine.onNodeAccept
  dsimp only
  split
  · exact Kept.none
  · next addr _ _ =>
    split
    · exact Kept.none
    · have hoffer := h.offer e.n0 { addr, origin := .post } none
      split
      · next st u hu =>
        rw [hu] at hoffer
        exact kept_some.2 (postCompletion (admitPosts (s := u.updPart _ _) hoffer _) ..)
      · exact Kept.none
      · next n u hu =>
        rw [hu] at hoffer
        exact kept_some.2 (admitPosts (s := u.updPart _ _) hoffer _)

@[simp] theorem failSeal (h : s.Formed) (n : Nat) : (s.failSeal n).Formed := by
  unfold State.failSeal
  extract_lets x u oldest live page v
  have hv : v.Formed := by
    dsimp only [v]
    split
    · exact amendRecord (s := u) h ..
    · exact h
  have hseq := hv.recordSeq (effFDOM x.eff) (partOfNode n) 13 6 0 x.addr 0 page (oldest.2.2 * 2 ^ 32 + live.length * 2 ^ 16)
    (x.entry.getD 0) 0 true
  refine formed_ite.2 ⟨fun _ => voidNode (s := u) h .., fun _ => ?_⟩
  exact hseq.voidNode ..

@[simp] theorem noteRerun (h : s.Formed) (n : Nat) : (s.noteRerun n).Formed := by
  simp -implicitDefEqProofs +contextual [State.noteRerun, State.Formed, h]

@[simp] theorem completeNode (h : s.Formed) (n : Nat) : (s.completeNode n).Formed := by
  unfold State.completeNode
  extract_lets x whole u v w
  have hu : u.Formed := noteRerun (formed_ite.2 ⟨fun _ => h, fun _ => h.failSeal n⟩) n
  have hv : v.Formed := hu.leaveTable ..
  have hw : w.Formed := formed_ite.2 ⟨fun _ => hv.postCompletion .., fun _ => hv⟩
  exact formed_ite.2 ⟨fun _ => (hu.endInstance ..).settleReady, fun _ => hw.settleReady⟩

@[simp] theorem removeGang (h : s.Formed) (g : Nat) : (s.removeGang g).Formed := by
  unfold State.removeGang
  dsimp only
  repeat' split
  all_goals simp [State.Formed, h]

@[simp] theorem writesDue (h : s.Formed) (x : Gang) : Kept (s.writesDue x) := by
  intro t ht
  obtain ⟨c, _, hc⟩ := List.exists_of_findSome?_eq_some ht
  exact h.domainWait c 7 t hc

@[simp] theorem onGangComplete (h : s.Formed) (e : Ev) : Kept (onGangComplete e s) := by
  unfold Machine.onGangComplete
  extract_lets g
  split
  · exact Kept.none
  · next x _ =>
    split
    · exact Kept.none
    · split
      · exact h.writesDue x
      · have hrelease := h.release x.core 6
        split
        · exact kept_some.2 (hrelease.removeGang e.n0).settleEnds
        · extract_lets u words v w n y
          have hw : w.Formed := removeGang (s := v) hrelease e.n0
          have hy : y.Formed := hw.showCharges ..
          exact kept_ite.2 ⟨fun _ => kept_some.2 hy, fun _ => kept_ite.2 ⟨fun _ => kept_some.2 hy,
            fun _ => kept_some.2 (hy.completeNode ..)⟩⟩

@[simp] theorem onWitnessHandoff (h : s.Formed) (e : Ev) : Kept (onWitnessHandoff e s) := by
  unfold Machine.onWitnessHandoff
  split
  · exact Kept.none
  · simp [h]

@[simp] theorem takeGranules (h : s.Formed) (core n : Nat) : (s.takeGranules core n).Formed := by
  unfold State.takeGranules
  split
  · exact h
  · refine l1Shrink (foldl h (fun u p hu => ?_) _) ..
    exact hu

@[simp] theorem newHandle (h : s.Formed) (part core : Nat) : (s.newHandle part core).2.Formed := h

@[simp] theorem readArgs (h : s.Formed) (r : Nat) (args : DWord) : (s.readArgs r args).2.Formed := by
  have hspot := h.spotOf (s.gangAt r) (s.stream r).priv .read (va56 args.toNat)
  unfold State.readArgs
  dsimp only
  generalize s.spotOf (s.gangAt r) (s.stream r).priv .read (va56 args.toNat) = x at hspot ⊢
  obtain ⟨m | p, u⟩ := x
  · exact hspot
  · dsimp only
    split
    · split
      · exact hspot
      · exact hspot
      · exact State.Formed.readSync (s := u) hspot ..
    · split
      · exact hspot
      · next k _ _ _ =>
        have hawait := State.Formed.awaitRemote (s := u) hspot r k p.pa 32
        split
        · next v hv => exact hawait v hv
        · exact hspot
    · split
      · exact hspot
      · split <;> exact hspot
    · exact hspot
    · exact hspot

@[simp] theorem loadArgs (h : s.Formed) (r : Nat) : (s.loadArgs r).Formed := by
  have hread := h.readArgs r (s.node (s.nodeNum r)).desc.args
  unfold State.loadArgs
  dsimp only
  generalize s.readArgs r (s.node (s.nodeNum r)).desc.args = x at hread ⊢
  obtain ⟨⟨⟩ | ⟨⟩ | ⟨⟩, u⟩ := x
  all_goals exact hread

@[simp] theorem kernelAt (h : s.Formed) (part : Nat) (x : Node) : (s.kernelAt part x).2.Formed := by
  have hwords := h.hubWords part x.desc.kdesc 8
  unfold State.kernelAt
  generalize s.hubWords part x.desc.kdesc 8 = y at hwords ⊢
  obtain ⟨_ | ws, u⟩ := y
  · exact hwords
  · dsimp only
    split <;> exact hwords

@[simp] theorem placeGang (h : s.Formed) (n core : Nat) : (s.placeGang n core).Formed := by
  unfold State.placeGang
  extract_lets x d part gangid last
  have hkernel := h.kernelAt part x
  generalize s.kernelAt part x = y at hkernel ⊢
  obtain ⟨k, u⟩ := y
  dsimp -zeta only
  extract_lets taken placed start started logged noted parted awake
  have htaken : taken.Formed := by
    refine takeGranules ?_ ..
    exact hkernel
  have hplaced : placed.Formed := htaken
  have hstart : ∀ (v : State) (c : Nat) (work : Bool), v.Formed → (start v c work).Formed := by
    intro v c work hv
    refine loadArgs ?_ _
    exact hv
  have hstarted : started.Formed := by
    refine foldl hplaced (fun v c hv => ?_) _
    have hfirst := hstart (v.setCrew (16 * u.freshNum.1 + c) {}) c false hv
    refine makeReady (formed_ite.2 ⟨fun _ => ?_, fun _ => ?_⟩) _
    · exact hfirst
    · exact hstart _ c true hfirst
  have hlogged : logged.Formed := hstarted.logEntry ..
  have hnoted : noted.Formed := hlogged
  have hparted : parted.Formed := hnoted
  have hawake : awake.Formed := hparted
  exact settleReady (hawake.showCharges ..)

@[simp] theorem placeAll (h : s.Formed) (n x0 : Nat) : ∀ y, State.placeAll n x0 s = some y → y.2.Formed := by
  induction x0 generalizing s with
  | zero =>
    intro y hy
    rw [← Option.some.inj hy]
    exact h
  | succ k ih =>
    intro y hy
    unfold State.placeAll at hy
    split at hy
    · obtain ⟨c, _, hc⟩ := List.exists_of_findSome?_eq_some hy
      obtain ⟨z, hz, rfl⟩ := Option.map_eq_some_iff.1 hc
      exact ih (h.placeGang n c) z hz
    · cases hy

@[simp] theorem wakeFor (h : s.Formed) (cs : List Nat) : Kept (s.wakeFor cs) := by
  simp -implicitDefEqProofs +contextual [State.wakeFor, State.Formed, h]

@[simp] theorem noteStuck (h : s.Formed) (order : List Nat) : (s.noteStuck order).Formed := by
  unfold State.noteStuck
  repeat' split
  all_goals simp -implicitDefEqProofs +contextual [State.Formed, h]

/-- The state that the hub's choice leads to is in canonical form. -/
theorem tryPlace (h : s.Formed) (n : Nat) : (s.tryPlace n).Formed := by
  have hawake : ∀ cs : List Nat, ∀ t : State, t.Formed → (s.onAwake cs t).Formed := by
    intro cs t ht
    unfold State.onAwake
    split
    · exact kept_some.2 ht
    · exact h.wakeFor cs
  have hall := h.placeAll n ((s.node n).desc.gangs - (s.node n).placed)
  unfold State.tryPlace
  dsimp only
  split
  · split
    · exact kept_some.2 (h.endInstance ..).settleReady
    · trivial
  · split
    · split
      · trivial
      · next cs t ht => exact hawake _ _ (hall _ ht)
    · split
      · trivial
      · exact hawake _ _ (h.placeGang ..)

@[simp] theorem placeNext (h : s.Formed) (part : Nat) : Kept (s.placeNext part) := by
  have hstuck := h.noteStuck (s.placeOrder part)
  unfold State.placeNext
  dsimp only
  split
  · exact kept_some.2 hstuck
  · next n _ =>
    have htry := hstuck.tryPlace n
    split
    · next u hu => rw [hu] at htry; exact kept_some.2 (kept_some.1 htry)
    · exact kept_some.2 hstuck

@[simp] theorem onPlacementReservation (h : s.Formed) (e : Ev) : Kept (onPlacementReservation e s) := by
  unfold Machine.onPlacementReservation
  split
  · exact Kept.none
  · split
    · exact Kept.none
    · exact kept_ite.2 ⟨fun _ => kept_some.2 h, fun _ => Kept.none⟩

end State.Formed

end Sys2Proof.Machine
end

section
/-! SUPPORT. What keeps the canonical form of memory: the sort unit, the witness instructions and staged pages. -/

namespace Sys2Proof.Machine

namespace State.Formed

variable {s : State}

/-- A change of a stream. -/
theorem updStream_formed {r : Nat} {f : Stream → Stream} (h : s.Formed) : (s.updStream r f).Formed := h

@[simp] theorem sound_sortStart {q : Nat × Peek × List Nat → Prop} {r d nd na : Nat} {m : Bool} {a : BitVec 7} {more : List Want}
    (h : s.Formed) (hq : ∀ x : Nat × Peek × List Nat, x.2.1.st.Formed → q x) : Sound q (s.sortStart r m d nd a na more) := by
  refine sound_bind.2 <| sound_needWork fun _ => sound_bind.2 <| sound_typeIn fun ty => sound_bind.2 <| sound_need fun _ => ?_
  extract_lets act rest
  have hrest : ∀ x, Sound q (rest x) := fun _ =>
    sound_bind.2 <| sound_peek h fun p hp => sound_bind.2 <| sound_needArrived h fun _ => hq _ hp
  split
  · simp
  · exact sound_bind.2 <| sound_need hrest
  · simp

@[simp] theorem sortEnd (h : s.Formed) (r d : Nat) (mask : Word) (p : Peek) (rows : List (Nat → LV)) :
    (s.sortEnd r d mask p rows).Formed :=
  complete (writeRegs (commit (p := { p with st := s }) h) ..) ..

@[simp] theorem onWseedTimeout (h : s.Formed) (e : Ev) : Kept (onWseedTimeout e s) := by
  unfold Machine.onWseedTimeout
  split
  · exact kept_ite.2 ⟨fun _ => kept_some.2 h, fun _ => Kept.none⟩
  · exact Kept.none

@[simp] theorem sound_crewSeed {q : Nat → Prop} {r : Nat} (h : s.Formed) (hq : ∀ a, q a) : Sound q (s.crewSeed r) := by
  unfold State.crewSeed
  split
  · exact hq _
  · simp [State.witnessOrder, h]

@[simp] theorem witnessOp (h : s.Formed) (r : Nat) (m nw : Bool) (d : BitVec 6) (wide : Bool) (srcs : List Want)
    (f : Nat → List Nat → Nat) : Sound State.Formed (s.witnessOp r m nw d wide srcs f) := by
  refine sound_bind.2 <| sound_needReg fun _ => sound_bind.2 <| sound_peek h fun p hp => sound_bind.2 <|
    sound_crewSeed h fun seed => sound_bind.2 <| sound_write hp fun u hu => hu.complete ..

@[simp] theorem flushRange (h : s.Formed) (base n : Nat) : (s.flushRange base n).Formed := (flushRange_step ..).formed h

@[simp] theorem fillFrame (h : s.Formed) (dst : Nat) (src : Option Nat) : (s.fillFrame dst src).Formed := by
  unfold State.fillFrame
  extract_lets size u v inside kept mem keptMarks marks w
  clear_value size
  have hu : u.Formed := h.flushRange ..
  have hv : v.Formed := by
    cases src with
    | none => exact hu
    | some b => exact hu.flushRange ..
  have hkept : Memory.wf kept = true := Memory.wf_filter hv.1 _
  have hmem : Memory.wf mem = true := by
    cases src with
    | none => exact hkept
    | some b => exact Memory.wf_foldl_wrByte (fun c : Host.Cell => (c.1 - b + dst, c.2)) _ hkept
  have hw : w.Formed := hv.withMem hmem
  clear_value w
  split
  · refine foldl hw (fun x line hx => ?_) _
    exact hx.countWrite line
  · exact hw

@[simp] theorem stagedPage (h : s.Formed) (r addr : Nat) : Sound (fun x => x.2.Formed) (s.stagedPage r addr) := by
  unfold State.stagedPage
  dsimp only
  split
  · simp
  · split
    · simp
    · have htranslate := h.translate (s.gangAt r).core (s.gangAt r).part (s.gangAt r).node (va56 addr)
      split
      · next e u he =>
        rw [he] at htranslate
        repeat' split
        · trivial
        · simp
        · exact htranslate
        · exact htranslate
      · trivial

@[simp] theorem sound_stagedPage {q : (Nat × Nat × Nat) × State → Prop} {r a : Nat} (h : s.Formed)
    (hq : ∀ x : (Nat × Nat × Nat) × State, x.2.Formed → q x) : Sound q (s.stagedPage r a) := (h.stagedPage ..).mono hq

@[simp] theorem openVersion (h : s.Formed) (n i pair key : Nat) (keep : Bool) : (s.openVersion n i pair key keep).Formed := by
  unfold State.openVersion
  extract_lets x u v e
  have hu : u.Formed := formed_ite.2 ⟨fun _ => h, fun _ => h⟩
  have hread : ∀ k live : Nat, (u.enterRead n ⟨none, k, live⟩).Formed := fun k live => hu.enterRead ..
  dsimp only
  refine dropPairTlb ?_ _
  exact formed_ite.2 ⟨fun _ => hread .., fun _ => hu⟩

@[simp] theorem opens (h : s.Formed) (r d key v : Nat) : (s.opens r d key v).Formed := by
  simp [State.opens, State.Formed, h]

@[simp] theorem logFill (h : s.Formed) (key dst : Nat) : (s.logFill key dst).Formed :=
  foldl h (fun _ _ hu => hu.recordFault ..) _

@[simp] theorem onStagingFillDone (h : s.Formed) (e : Ev) : Kept (onStagingFillDone e s) := by
  unfold Machine.onStagingFillDone
  extract_lets key p v dst secs
  split
  · exact Kept.none
  · dsimp -zeta only
    extract_lets filled waits rs cores noted opened
    have hfilled : filled.Formed :=
      formed_ite.2 ⟨fun _ => h.fillFrame .., fun _ => formed_ite.2 ⟨fun _ => h, fun _ => (h.fillFrame ..).logFill ..⟩⟩
    have hnoted : noted.Formed := by
      refine foldl hfilled (fun u c hu => ?_) _
      exact hu.noteEngine ..
    refine kept_some.2 ?_
    refine foldl (s := opened) hnoted (fun u c hu => ?_) _
    exact hu

@[simp] theorem sealVersion (h : s.Formed) (key : Nat) : (s.sealVersion key).Formed := by
  unfold State.sealVersion
  extract_lets p v x u
  have hu : u.Formed := dropPairTlb (s := s.updVer key v _) h ..
  split
  · split
    · exact (hu.recordDependant ..).voidVersion ..
    · exact hu.voidVersion ..
  · exact formed_ite.2 ⟨fun _ => hu, fun _ => hu⟩

@[simp] theorem onSsealProceed (h : s.Formed) (e : Ev) : Kept (onSsealProceed e s) := by
  unfold Machine.onSsealProceed
  dsimp only
  split
  · split
    · exact Kept.none
    · have hrelease := h.release (s.coreNum e.n0) 6
      refine kept_some.2 (formed_ite.2 ⟨fun _ => ?_, fun _ => ?_⟩)
      · refine sealVersion ?_ _
        exact hrelease
      · exact hrelease
  · exact Kept.none

@[simp] theorem onDigestTaken (h : s.Formed) (e : Ev) : Kept (onDigestTaken e s) := by
  unfold Machine.onDigestTaken
  dsimp only
  split
  · exact Kept.none
  · next v _ _ =>
    have hflush := h.flushRange (frameBase e.n0 v) (2 ^ 21)
    generalize s.flushRange (frameBase e.n0 v) (2 ^ 21) = u at hflush ⊢
    exact kept_some.2 hflush

theorem execVsort (h : s.Formed) {d : BitVec 6} {a : BitVec 7} {desc m : Bool} : Stays (execVsort d a desc m s) :=
  run_stays h fun r => by
    refine sound_bind.2 <| sound_sortStart h fun ⟨ty, p, order⟩ hp => ?_
    exact State.Formed.sortEnd hp ..

theorem execVmerge (h : s.Formed) {d : BitVec 6} {a : BitVec 7} {dd desc m : Bool} : Stays (execVmerge d a dd desc m s) :=
  run_stays h fun r => by
    refine sound_bind.2 <| sound_sortStart h fun ⟨ty, p, order⟩ hp => ?_
    exact State.Formed.sortEnd hp ..

theorem execVtopk (h : s.Formed) {d : BitVec 6} {a : BitVec 7} {least : Bool} {k : BitVec 6} {m : Bool} :
    Stays (execVtopk d a least k m s) :=
  run_stays h fun r => by
    refine sound_bind.2 <| sound_sortStart h fun ⟨ty, p, order⟩ hp => ?_
    dsimp only
    split
    · exact State.Formed.sortEnd hp ..
    · refine updStream_formed ?_
      exact State.Formed.sortEnd hp ..

theorem execVselth (h : s.Formed) {d : BitVec 6} {a b : BitVec 7} {m : Bool} : Stays (execVselth d a b m s) :=
  run_stays h fun r => by
    refine sound_bind.2 <| sound_sortStart h fun ⟨ty, p, order⟩ hp => ?_
    dsimp only
    split
    · exact State.Formed.sortEnd hp ..
    · refine updStream_formed ?_
      exact State.Formed.sortEnd hp ..

theorem execWseed (h : s.Formed) {d : BitVec 6} : Stays (execWseed d s) :=
  run_stays h fun r => by
    refine sound_bind.2 <| sound_needHaul fun _ => sound_bind.2 <| sound_need fun _ => ?_
    dsimp only
    split
    · simp [State.witnessOrder]
    · repeat' split
      all_goals exact h

theorem execWput (h : s.Formed) {a : BitVec 7} {tag : BitVec 4} {m : Bool} : Stays (execWput a tag m s) :=
  run_stays h fun r => by
    refine sound_bind.2 <| sound_need fun _ => sound_bind.2 <| sound_peek h fun p hp => ?_
    dsimp only
    split
    · exact hp.commit.complete ..
    · split
      · simp
      · exact complete (s := (State.commit r p).updGang _ _) hp.commit ..

theorem execWhash (h : s.Formed) {nw : Bool} {d : BitVec 6} {a : BitVec 7} {m : Bool} : Stays (execWhash nw d a m s) :=
  run_stays h fun r => sound_bind.2 <| sound_needWork fun _ => sound_bind.2 <| sound_typeIn fun _ => h.witnessOp ..

theorem execWproj (h : s.Formed) {nw : Bool} {d : BitVec 6} {a b : BitVec 7} {m : Bool} : Stays (execWproj nw d a b m s) :=
  run_stays h fun r => sound_bind.2 <| sound_needWork fun _ => sound_bind.2 <| sound_typeIn fun _ => h.witnessOp ..

theorem execSopen (h : s.Formed) {d : BitVec 6} {a : BitVec 7} {keep m : Bool} : Stays (execSopen d a keep m s) :=
  run_stays h fun r => by
    refine sound_bind.2 <| sound_needHaul fun _ => sound_bind.2 <| sound_need fun _ => sound_bind.2 <| sound_peek h fun p hp => ?_
    extract_lets addr
    split
    · exact hp.complete ..
    · split
      · exact (hp.opens ..).complete ..
      · refine sound_bind.2 <| sound_stagedPage hp fun ⟨⟨i, pair, key⟩, u⟩ hu => ?_
        have hopen := State.Formed.openVersion (s := u) hu (u.nodeNum r) i pair key keep
        dsimp only
        split
        · split
          · simp
          · split
            · exact hu
            · exact (State.Formed.opens hu ..).complete ..
        · split
          · simp
          · exact hopen

theorem execSseal (h : s.Formed) {d : BitVec 6} {a : BitVec 7} {m : Bool} : Stays (execSseal d a m s) :=
  run_stays h fun r => by
    refine sound_bind.2 <| sound_needHaul fun _ => sound_bind.2 <| sound_need fun _ => sound_bind.2 <| sound_peek h fun p hp => ?_
    extract_lets addr
    split
    · exact hp.complete ..
    · split
      · exact complete (updStream_formed hp) ..
      · refine sound_bind.2 <| sound_stagedPage hp fun ⟨⟨_, _, key⟩, u⟩ hu => ?_
        dsimp only
        split
        · split
          · exact hu
          · simp
        · split
          · simp
          · exact hu

theorem execLaunch (h : s.Formed) {a : BitVec 7} {m : Bool} : Stays (execLaunch a m s) :=
  run_stays h fun r => by
    refine sound_bind.2 <| sound_needHaul fun _ => sound_bind.2 <| sound_peek h fun p hp => ?_
    extract_lets addr g
    split
    · exact hp.complete ..
    · refine sound_bind.2 <| sound_checkDesc fun _ => ?_
      have hoffer := (hp.release g.core 6).offer g.part { addr := w64 addr, origin := .launch } (some g.rcbptr)
      split
      · simp
      · exact h
      · next n u hu => rw [hu] at hoffer; exact State.Formed.complete (s := u) hoffer ..

theorem execTrig (h : s.Formed) :
    Stays (execTrig s) :=
  run_stays h fun r => by
    refine sound_bind.2 <| sound_needHaul fun _ => ?_
    refine State.Formed.complete ?_ ..
    exact h.release ..

theorem execWaitd (h : s.Formed) :
    Stays (execWaitd s) :=
  run_stays h fun r => by
    refine sound_bind.2 <| sound_needHaul fun _ => ?_
    split
    · exact ((h.acquire ..).complete ..).endWait ..
    · exact h.waitOut ..

end State.Formed

end Sys2Proof.Machine
end

section
/-! SUPPORT. What keeps the canonical form of memory: collectives, the privileged instructions, context images, issue slots and divergence. -/

namespace Sys2Proof.Machine

namespace State.Formed

variable {s : State}

@[simp] theorem updColl (h : s.Formed) (id : Nat) (f : Coll → Coll) : (s.updColl id f).Formed := h

@[simp] theorem endColl (h : s.Formed) (c : Coll) (err : Nat) (prov : Bool) : (s.endColl c err prov).Formed := h

@[simp] theorem collMiss (h : s.Formed) (c : Coll) (va : Nat) (m : Miss) : (s.collMiss c va m).Formed := by
  unfold State.collMiss
  split
  · next t ht => exact State.Formed.updColl (h.engineMiss _ _ _ _ _ _ _ ht) ..
  · exact (h.engineIntegrity ..).updColl ..

@[simp] theorem readCollDesc (h : s.Formed) (c : Coll) : (s.readCollDesc c).Formed := by
  have hspots := h.engineSpots (s.gangAt c.stream) .read (va56 c.descAddr.toNat) 64
  unfold State.readCollDesc
  dsimp only
  generalize s.engineSpots (s.gangAt c.stream) .read (va56 c.descAddr.toNat) 64 = x at hspots ⊢
  obtain ⟨⟨va, m⟩ | xs, u⟩ := x
  · exact (State.Formed.collMiss (s := u) hspots ..).updColl ..
  · have hfetch := State.Formed.engineFetch (s := u) hspots (s.gangAt c.stream).core c.id xs
    have hread := State.Formed.engineRead (s := u) hspots (s.gangAt c.stream).core c.id xs
    dsimp only
    split
    · next t ht => exact hfetch t ht
    · refine State.Formed.updColl (noteReads ?_ ..) ..
      exact formed_ite.2 ⟨fun _ => hread, fun _ => hread⟩

@[simp] theorem readCollInput (h : s.Formed) (c : Coll) : (s.readCollInput c).Formed := by
  unfold State.readCollInput
  extract_lets g d ms w n va
  split
  · exact h.updColl ..
  · have hspots := h.engineSpots g .read va n
    generalize s.engineSpots g .read va n = x at hspots ⊢
    obtain ⟨⟨_, m⟩ | xs, u⟩ := x
    · exact State.Formed.collMiss (s := u) hspots ..
    · have hnote := State.Formed.noteReads (s := u) hspots g.node xs
      have hfetch := hnote.engineFetch g.core c.id xs
      have hread := hnote.engineRead g.core c.id xs
      dsimp only
      split
      · next t ht => exact hfetch t ht
      · split
        · exact hnote.updColl ..
        · exact hread.updColl ..

@[simp] theorem failColl (h : s.Formed) (c : Coll) : (s.failColl c).Formed := by
  unfold State.failColl
  extract_lets d u ms v here
  have hu : u.Formed := h.endColl ..
  split
  · exact hu
  · exact formed_ite.2 ⟨fun _ => hu, fun _ => hu⟩

@[simp] theorem awaitForeign (h : s.Formed) (vs : List VerRef) : (s.awaitForeign vs).Formed := by
  refine foldl h (fun u v hu => ?_) _
  split
  · exact hu
  · exact formed_ite.2 ⟨fun _ => hu, fun _ => hu⟩

@[simp] theorem gatherColl (h : s.Formed) (c : Coll) (e : Ev) : Kept (s.gatherColl c e) := by
  unfold State.gatherColl
  dsimp only
  split
  · exact Kept.none
  · split
    · exact Kept.none
    · split
      · refine kept_some.2 (foldl h (fun u _ hu => ?_) _)
        exact hu.updColl ..
      · refine kept_some.2 (awaitForeign (lend (foldl h (fun u _ hu => ?_) _) ..) ..)
        exact hu.updColl ..

@[simp] theorem tagSectors (h : s.Formed) (tags : List (Nat × Nat × Nat)) (as : List Nat) : (s.tagSectors tags as).Formed := by
  simp [State.tagSectors, State.Formed, h]

@[simp] theorem markProvisional (h : s.Formed) (xs : List Spot) (vs : List VerRef) : (s.markProvisional xs vs).Formed := by
  simp [State.markProvisional, State.Formed, h]

@[simp] theorem enterGiven (h : s.Formed) (n : Nat) (v : VerRef) : (s.enterGiven n v).Formed := by
  have hread := h.enterRead n v
  unfold State.enterGiven
  dsimp only
  split
  · split
    · exact hread.doomAll ..
    · exact hread.doomAll ..
  · exact hread

@[simp] theorem deliverColl (h : s.Formed) (c : Coll) (all : List CollIn) : Kept (s.deliverColl c all) := by
  unfold State.deliverColl
  extract_lets g d w prov label due fail va vv
  generalize collResult c.op d (all.map (·.bytes)) = x
  obtain ⟨xs, valid⟩ := x
  dsimp -zeta only
  extract_lets n
  have hfail : ∀ u : State, u.Formed → ∀ a m, (fail u a m).Formed := by
    intro u hu a m
    dsimp only [fail]
    split
    · next t ht => exact State.Formed.updColl (hu.engineMiss _ _ _ _ _ _ _ ht) ..
    · exact (hu.engineIntegrity ..).endColl ..
  split
  · exact Kept.none
  · split
    · exact kept_some.2 (h.endColl ..)
    · have hspots := h.engineSpots g .write va n
      generalize s.engineSpots g .write va n = x at hspots ⊢
      obtain ⟨⟨a, m⟩ | ps, u⟩ := x
      · exact kept_some.2 (hfail u hspots ..)
      · have hvalid := State.Formed.engineSpots (s := u) hspots g .write vv (if collRecords c.op then 4 else 0)
        dsimp -zeta only
        generalize u.engineSpots g .write vv (if collRecords c.op then 4 else 0) = x at hvalid ⊢
        obtain ⟨⟨a, m⟩ | vs, v⟩ := x
        · exact kept_some.2 (hfail v hvalid ..)
        · have hv : v.Formed := hvalid
          dsimp -zeta only
          have hold : (if w = 4 then v.engineRead g.core c.id ps else ([], v)).2.Formed := by
            split
            · exact hv.engineRead ..
            · exact hv
          split
          · exact kept_some.2 (hv.endColl ..)
          · split
            · exact kept_some.2 (hv.endColl ..)
            · split
              · exact Kept.none
              · generalize (if w = 4 then v.engineRead g.core c.id ps else ([], v)) = y at hold ⊢
                obtain ⟨old, y⟩ := y
                refine kept_some.2 (endColl (foldl (markProvisional (engineMarks (engineWrite (s := y) hold ..) ..) ..) (fun t b ht => ?_) _) ..)
                exact ht.enterGiven ..

@[simp] theorem stepColl (h : s.Formed) (c : Coll) (e : Ev) : Kept (s.stepColl c e) := by
  unfold State.stepColl
  dsimp only
  split
  · exact Kept.none
  · split
    · split
      · exact Kept.none
      · exact kept_some.2 (h.endColl ..)
      · exact kept_some.2 (h.updColl ..)
    · split
      · exact kept_some.2 (h.readCollDesc ..)
      · split
        · exact kept_some.2 (h.failColl ..)
        · split
          · exact h.deliverColl _ _
          · exact kept_ite.2 ⟨fun _ => kept_some.2 (h.readCollInput ..), fun _ => h.gatherColl _ _⟩

@[simp] theorem onCollComplete (h : s.Formed) (e : Ev) : Kept (onCollComplete e s) := by
  unfold Machine.onCollComplete
  split
  · exact Kept.none
  · exact h.stepColl _ _

@[simp] theorem onCollBoundExpiry (h : s.Formed) (e : Ev) : Kept (onCollBoundExpiry e s) := by
  unfold Machine.onCollBoundExpiry
  split
  · exact Kept.none
  · extract_lets
    split
    · exact Kept.none
    · refine kept_some.2 (foldl h (fun u x hu => ?_) _)
      split
      · exact hu.endColl ..
      · exact formed_ite.2 ⟨fun _ => hu, fun _ => hu⟩

@[simp] theorem wakeColls (h : s.Formed) (r : Nat) : (s.wakeColls r).Formed := by
  refine foldl h (fun u c hu => ?_) _
  split
  · exact hu
  · split
    · exact hu
    · exact hu.endColl ..
    · exact hu.updColl ..

@[simp] theorem wakeHeld (h : s.Formed) (r : Nat) : (s.wakeHeld r).Formed := ((h.wakeCopies ..).wakeMx ..).wakeColls ..

@[simp] theorem sound_needSuper {q : Unit → Prop} {r : Nat} (hq : ∀ x, q x) : Sound q (needSuper s r) := by
  simp [needSuper, hq]

@[simp] theorem privWrite (h : s.Formed) (r idx v : Nat) : Kept (s.privWrite r idx v) := by
  unfold State.privWrite
  split <;> simp [State.Formed, h]

@[simp] theorem haltNode (h : s.Formed) (r status : Nat) : (s.haltNode r status).Formed := by
  simp [State.haltNode, State.Formed, h]

@[simp] theorem retryArgs (h : s.Formed) (r mode : Nat) : (s.retryArgs r mode).Formed := by
  unfold State.retryArgs
  split <;> simp [State.Formed, h]

@[simp] theorem eretHalt (h : s.Formed) (r : Nat) : (s.eretHalt r).Formed := by
  simp -implicitDefEqProofs +contextual [State.eretHalt, State.Formed, h]

@[simp] theorem resumeGang (h : s.Formed) (g : Nat) : (s.resumeGang g).Formed := by
  unfold State.resumeGang
  extract_lets x u v
  split
  · exact h
  · refine foldl (s := v) h (fun u k hu => ?_) _
    split
    · exact hu
    · exact formed_ite.2 ⟨fun _ => hu, fun _ => hu⟩

@[simp] theorem retain (h : s.Formed) (cl : Nat) : (s.retain cl).Formed := by
  simp [State.retain, State.Formed, h]

@[simp] theorem onParkComplete (h : s.Formed) (e : Ev) : Kept (onParkComplete e s) := by
  unfold Machine.onParkComplete
  extract_lets g x cl
  split
  · exact Kept.none
  · generalize (s.cluster cl).table.partition (fun e => gangOf e.stream == g) = y
    obtain ⟨mine, rest⟩ := y
    dsimp -zeta only
    extract_lets a b c d
    have hb : b.Formed := foldl (s := a) h (fun u _ hu => by exact hu) _
    have hc : c.Formed := foldl hb (fun u _ hu => by exact hu) _
    have hd : d.Formed := hc.release ..
    refine kept_some.2 (resumeGang (retain ?_ ..) ..)
    exact hd

@[simp] theorem privStatus (h : s.Formed) (r d : Nat) (st : Word) (reads : Nat) : (s.privStatus r d st reads).Formed := h

@[simp] theorem imageSpots (h : s.Formed) (r : Nat) (k : Acc) (x0 x1 : Nat) : (s.imageSpots r k x0 x1).2.Formed := by
  induction x1 generalizing s x0 with
  | zero => exact h
  | succ n ih =>
    have hspots := h.spotsOf (s.gangAt r) (s.stream r).priv k x0 1024
    unfold State.imageSpots
    generalize s.spotsOf (s.gangAt r) (s.stream r).priv k x0 1024 = x at hspots ⊢
    obtain ⟨e | xs, u⟩ := x
    · exact hspots
    · have hrest := ih (s := u) hspots ((x0 + 1024) % 2 ^ 56)
      dsimp only
      generalize u.imageSpots r k ((x0 + 1024) % 2 ^ 56) n = y at hrest ⊢
      obtain ⟨_ | ys, v⟩ := y
      · exact hrest
      · exact hrest

@[simp] theorem saveSpots (h : s.Formed) (r : Nat) (sl : Bool) (addr kib : Nat) : (s.saveSpots r sl addr kib).2.Formed := by
  unfold State.saveSpots
  split
  · exact h
  · extract_lets part strict u xs
    have hu : u.Formed := h
    exact hu.imageSpots ..

@[simp] theorem sound_checkImage {q : Unit → Prop} {em : Word} {a : Nat} (hq : ∀ x, q x) : Sound q (checkImage em a) := by
  simp [checkImage, hq]

@[simp] theorem writeImage (h : s.Formed) (r g kib : Nat) (sl : Bool) (xs : List Spot) : (s.writeImage r g kib sl xs).Formed := by
  unfold State.writeImage
  extract_lets part z serial a p nonce head body y cipher tag c b d
  refine engineMarks (engineWrite ?_ ..) ..
  exact formed_ite.2 ⟨fun _ => h, fun _ => h⟩

@[simp] theorem onCtxsaveDone (h : s.Formed) (e : Ev) : Kept (onCtxsaveDone e s) := by
  unfold Machine.onCtxsaveDone
  extract_lets r held
  split
  · next g addr sl fr _ =>
    extract_lets finish owned
    have hfinish : ∀ u : State, u.Formed → ∀ st, (finish u st).Formed := fun u hu _ => hu
    split
    · exact kept_some.2 (hfinish _ h _)
    · next x _ =>
      extract_lets kib
      split
      · exact kept_some.2 (hfinish _ h _)
      · have hspots := h.saveSpots r sl addr.toNat kib
        generalize s.saveSpots r sl addr.toNat kib = y at hspots ⊢
        obtain ⟨_ | xs, u⟩ := y
        · exact kept_some.2 (hfinish u hspots _)
        · have hu : u.Formed := hspots
          dsimp -zeta only
          extract_lets l v w
          have hv : v.Formed := hu.writeImage ..
          have hw : w.Formed :=
            formed_ite.2 ⟨fun _ => ((hv.removeGang ..).showCharges ..).settleEnds, fun _ => hv⟩
          split
          · exact kept_some.2 (hfinish _ hu _)
          · split
            · exact Kept.none
            · exact kept_some.2 (hfinish _ hw _)
  · exact Kept.none

@[simp] theorem gangKey (h : s.Formed) (old : Nat) : (s.gangKey old).2.Formed := by
  unfold State.gangKey
  split <;> simp [State.Formed, h]

@[simp] theorem restore (h : s.Formed) (c : Context) (n core : Nat) : (s.restore c n core).2.Formed := by
  unfold State.restore
  extract_lets x
  have hkey := h.gangKey ((c.crews.map fun p => p.1 / 16).headD 0)
  generalize s.gangKey ((c.crews.map fun p => p.1 / 16).headD 0) = y at hkey ⊢
  obtain ⟨g, a⟩ := y
  have hhandle := State.Formed.newHandle (s := a) hkey x.part core
  dsimp -zeta only
  generalize a.newHandle x.part core = y at hhandle ⊢
  obtain ⟨handle, b⟩ := y
  dsimp -zeta only
  extract_lets spcur d stream gang f k l m o p
  have hd : d.Formed := State.Formed.takeGranules (s := b) hhandle ..
  have hk : k.Formed := by
    refine foldl (s := f) hd (fun u q hu => ?_) _
    dsimp only
    split
    · exact State.Formed.loadArgs (s := u.setStream _ _) hu _
    · exact hu
  have hl : l.Formed := foldl hk (fun u _ hu => by exact hu) _
  have hp : p.Formed := foldl (s := o) hl (fun u _ hu => by exact hu) _
  exact (hp.askWake ..).showCharges ..

@[simp] theorem loadImage (h : s.Formed) (r core : Nat) (bs : List Byte) : (s.loadImage r core bs).2.Formed := by
  unfold State.loadImage
  extract_lets part bad
  split
  · exact formed_ite.2 ⟨fun _ => h.recordFault .., fun _ => h⟩
  · split
    · exact h
    · split
      · exact h
      · next c _ n _ =>
        extract_lets inPart
        split
        · exact h
        · split
          · exact h
          · exact h.restore ..

@[simp] theorem imageAwaits (h : s.Formed) (r addr : Nat) : Kept (s.imageAwaits r addr) := by
  unfold State.imageAwaits
  extract_lets core places
  have hplaces : ∀ u : State, u.Formed → ∀ kib y, places u kib = some y → y.2.Formed := by
    intro u hu kib y hy
    have hspots := hu.imageSpots r .read (va56 addr) kib
    dsimp only [places] at hy
    split at hy
    · cases hy
    · split at hy
      · next xs v he => rw [he] at hspots; cases hy; exact hspots
      · cases hy
  split
  · exact Kept.none
  · next xs v hv =>
    have hv : v.Formed := hplaces s h _ _ hv
    split
    · next t ht => exact kept_some.2 (hv.engineFetch _ _ _ t ht)
    · intro t ht
      obtain ⟨y, hy, hfetch⟩ := Option.bind_eq_some_iff.1 ht
      exact State.Formed.engineFetch (hplaces v hv _ _ hy) _ _ _ t hfetch

@[simp] theorem imageRead (h : s.Formed) (r addr kib : Nat) : (s.imageRead r addr kib).2.Formed := by
  unfold State.imageRead
  split
  · exact h
  · split
    · exact h.dropOp ..
    · have hspots := h.imageSpots r .read (va56 addr) kib
      split
      · next u he => rw [he] at hspots; exact hspots
      · next xs u he =>
        rw [he] at hspots
        exact (State.Formed.engineRead (s := u) hspots ..).noteReads ..

@[simp] theorem onCtxloadDone (h : s.Formed) (e : Ev) : Kept (onCtxloadDone e s) := by
  unfold Machine.onCtxloadDone
  extract_lets r
  split
  · next core addr _ =>
    extract_lets finish
    have hfinish : ∀ u : State, u.Formed → ∀ st, (finish u st).Formed := fun u hu _ => hu
    split
    · next t ht => exact kept_some.2 (h.imageAwaits _ _ t ht)
    · have hhead := h.imageRead r addr.toNat 4
      split
      · next u he => rw [he] at hhead; exact kept_some.2 (hfinish u hhead _)
      · next head u he =>
        rw [he] at hhead
        extract_lets kib
        have hbody := State.Formed.imageRead (s := u) hhead r addr.toNat (max 4 kib)
        split
        · next v hv => rw [hv] at hbody; exact kept_some.2 (hfinish _ (State.Formed.dropOp (s := v) hbody _) _)
        · next bs v hv =>
          rw [hv] at hbody
          exact kept_some.2 (hfinish _ ((State.Formed.dropOp (s := v) hbody _).loadImage ..) _)
  · exact Kept.none

@[simp] theorem onSlotGrant (h : s.Formed) (e : Ev) : Kept (onSlotGrant e s) := by
  unfold Machine.onSlotGrant
  split
  · exact Kept.none
  · intro t ht
    obtain ⟨k, _, rfl⟩ := Option.map_eq_some_iff.1 ht
    exact h

@[simp] theorem onCodeFetch (h : s.Formed) (e : Ev) : Kept (onCodeFetch e s) := by
  unfold Machine.onCodeFetch
  extract_lets r u
  split
  · exact Kept.none
  · have hu : u.Formed := h
    have hmiss := hu.missWord r
    split
    · next w v he => exact kept_some.2 (updStream_formed (hu.fetch he))
    · exact kept_some.2 hmiss

theorem refill {f : State → State} (h : s.Formed) (hf : ∀ u, u.Formed → (f u).Formed) (r : Nat) (sup : Bool) (page : Nat)
    (word : Option Word) : (s.refill r sup page word f).Formed := by
  unfold State.refill
  extract_lets free
  have hfree : ∀ u, u.Formed → (free u).Formed := fun u hu => hu
  split
  · next u hu => exact h.pageAwaits _ _ _ _ hu
  · split
    · exact (hfree _ h).takeTrap ..
    · next bs u hu =>
      have hread := h.readPage r sup page _ hu
      exact hf _ (hfree _ (State.Formed.placePage (s := u) hread ..))

@[simp] theorem onCodePageRefill (h : s.Formed) (e : Ev) : Kept (onCodePageRefill e s) := by
  unfold Machine.onCodePageRefill
  dsimp only
  split
  · exact Kept.none
  · split
    · exact kept_some.2 (h.refill (fun _ hu => hu) ..)
    · intro t ht
      obtain ⟨pc, _, rfl⟩ := Option.map_eq_some_iff.1 ht
      exact h.refill (fun _ hu => hu.takeTrap ..) ..
    · exact Kept.none

@[simp] theorem onHandlerTimeLimit (h : s.Formed) (e : Ev) : Kept (onHandlerTimeLimit e s) := by
  unfold Machine.onHandlerTimeLimit
  dsimp only
  split
  · exact kept_some.2 (h.supervisorFault ..)
  · exact Kept.none

@[simp] theorem adapt (h : s.Formed) (core total gain tail : Nat) : (s.adapt core total gain tail).Formed := by
  unfold State.adapt
  extract_lets begin_ grow
  have hbegin : ∀ u : State, u.Formed → ∀ g n, (begin_ u g n).Formed := fun u hu _ _ => hu
  have hgrow : ∀ u : State, u.Formed → (grow u).Formed := by
    intro u hu
    dsimp only [grow]
    repeat' split
    · exact hbegin _ (hu.l1Shrink ..) _ _
    all_goals exact hu
  split
  · split
    · exact hbegin _ h _ _
    · exact hgrow _ h
  · exact hgrow _ h

@[simp] theorem onScratchpadAdapt (h : s.Formed) (e : Ev) : Kept (onScratchpadAdapt e s) := by
  unfold Machine.onScratchpadAdapt
  extract_lets core now c u v
  split
  · exact Kept.none
  · have hv : v.Formed := foldl (h.adapt ..) (fun t _ ht => by exact ht) _
    exact kept_some.2 hv

@[simp] theorem onGranuleMoveDone (h : s.Formed) (e : Ev) : Kept (onGranuleMoveDone e s) := by
  unfold Machine.onGranuleMoveDone
  split
  · exact Kept.none
  · exact kept_some.2 h

@[simp] theorem onL1BackgroundClean (h : s.Formed) (e : Ev) : Kept (onL1BackgroundClean e s) := by
  unfold Machine.onL1BackgroundClean
  split
  · exact Kept.none
  · exact kept_ite.2 ⟨fun _ => kept_some.2 (h.cleanSector ..), fun _ => Kept.none⟩

@[simp] theorem meetingSync (h : s.Formed) (g : Nat) (cs : List Nat) : (s.meetingSync g cs).Formed := by
  simp -implicitDefEqProofs +contextual [State.meetingSync, State.Formed, h]

@[simp] theorem startPath (h : s.Formed) (g : Nat) (e : Reconv) (rest : List Reconv) (p : Path) (more : List Path) :
    (s.startPath g e rest p more).Formed := by
  unfold State.startPath
  extract_lets a used e' remap b d
  have ha : a.Formed := h.meetingSync ..
  have hd : d.Formed := foldl (s := b) ha (fun u _ hu => by exact hu) _
  exact foldl hd (fun u _ hu => by exact hu) _

@[simp] theorem restorePacking (h : s.Formed) (g : Nat) (e : Reconv) (rest : List Reconv) : (s.restorePacking g e rest).Formed := by
  unfold State.restorePacking
  extract_lets a b
  have ha : a.Formed := h.meetingSync g e.crews
  have hb : b.Formed := foldl ha (fun u _ hu => by exact hu) _
  refine settleGang (foldl hb (fun u c hu => ?_) _) ..
  exact hu.settleEnd ..

@[simp] theorem nextPath (h : s.Formed) (g : Nat) (e : Reconv) (rest : List Reconv) : (s.nextPath g e rest).Formed := by
  unfold State.nextPath
  split
  · exact h.startPath ..
  · exact h.restorePacking ..

@[simp] theorem divide (h : s.Formed) (g : Nat) (cs : List Nat) (pred : Nat) (sense : Bool) (fall taken rejoin : BitVec 24) :
    (s.divide g cs pred sense fall taken rejoin).Formed := h.nextPath ..

@[simp] theorem stackOverflow (h : s.Formed) (g : Nat) (cs : List Nat) : (s.stackOverflow g cs).Formed := by
  refine foldl h (fun u c hu => ?_) _
  refine State.Formed.takeTrap ?_ ..
  exact hu

@[simp] theorem onBrgMeeting (h : s.Formed) (e : Ev) : Kept (onBrgMeeting e s) := by
  unfold Machine.onBrgMeeting
  dsimp only
  split
  · exact Kept.none
  · split
    · split
      · exact Kept.none
      · exact kept_ite.2 ⟨fun _ => kept_some.2 (h.stackOverflow ..), fun _ => kept_some.2 (h.divide ..)⟩
    · exact Kept.none

@[simp] theorem onBrgPathEnd (h : s.Formed) (e : Ev) : Kept (onBrgPathEnd e s) := by
  unfold Machine.onBrgPathEnd
  dsimp only
  split
  · exact Kept.none
  · exact kept_ite.2 ⟨fun _ => Kept.none, fun _ => kept_some.2 (h.nextPath ..)⟩

theorem execColl (h : s.Formed) {gv : Bool} {slot : BitVec 3} {a : BitVec 7} {op : BitVec 4} : Stays (execColl gv slot a op s) :=
  run_stays h fun r => by
    refine sound_bind.2 <| sound_needHaul fun _ => sound_bind.2 <| sound_need fun _ => ?_
    extract_lets t core num g
    refine sound_bind.2 <| sound_peek h fun p hp => ?_
    split
    · exact hp.complete ..
    · refine sound_bind.2 <| sound_checkDesc fun _ => ?_
      have hrelease : (p.st.release core 7).Formed := hp.release ..
      generalize p.st.release core 7 = u at hrelease ⊢
      refine sound_ite.2 ⟨fun _ => h, fun _ => ?_⟩
      split
      · next v hv => exact h.domainWait _ _ v hv
      · exact sound_ite.2 ⟨fun _ => hrelease, fun _ => hrelease⟩

theorem execCollw (h : s.Formed) {d : BitVec 6} {src : BitVec 7} : Stays (execCollw d src s) :=
  run_stays h fun r => by
    refine sound_bind.2 <| sound_needHaul fun _ => sound_bind.2 <| sound_need fun _ => sound_bind.2 <| sound_peek h fun p hp => ?_
    refine sound_ite.2 ⟨fun _ => h, fun _ => ?_⟩
    exact complete (acquire (engineJoin (s := p.st.updStream r _) hp ..) ..) ..

theorem execGset (h : s.Formed) {unset : Bool} {a b : BitVec 7} : Stays (execGset unset a b s) :=
  run_stays h fun r => by
    simp -implicitDefEqProofs +contextual [State.Formed, h]

theorem execMfp (h : s.Formed) {d : BitVec 6} {idx : BitVec 7} : Stays (execMfp d idx s) :=
  run_stays h fun r => by
    split
    · simp
    · exact sound_bind.2 <| sound_need fun _ => sound_bind.2 <| sound_needSuper fun _ => complete (s := s.updStream r _) h ..

theorem execMtp (h : s.Formed) {a idx : BitVec 7} : Stays (execMtp a idx s) :=
  run_stays h fun r => by
    split
    · simp
    · refine sound_bind.2 <| sound_peek h fun p hp => ?_
      split
      · simp
      · next u hu => exact sound_bind.2 <| sound_needSuper fun _ => State.Formed.complete (hp.privWrite _ _ _ u hu) ..

theorem execEret (h : s.Formed) {d : BitVec 6} {form : BitVec 2} : Stays (execEret d form s) :=
  run_stays h fun r => by
    simp -implicitDefEqProofs +contextual [State.Formed, h]

theorem execHalt (h : s.Formed) {status : BitVec 15} : Stays (execHalt status s) :=
  run_stays h fun r => by
    simp [h]

theorem execTlbinv (h : s.Formed) {a : BitVec 7} {kind : BitVec 2} {scope : BitVec 4} : Stays (execTlbinv a kind scope s) :=
  run_stays h fun r => by
    refine sound_bind.2 <| sound_needHaul fun _ => sound_bind.2 <| sound_need fun _ => sound_bind.2 <| sound_peek h fun p hp =>
      sound_bind.2 <| sound_need fun _ => sound_bind.2 <| sound_needSuper fun _ => ?_
    refine State.Formed.complete ?_ ..
    have hrelease := hp.release (s.coreNum r) scope.toNat
    exact formed_ite.2 ⟨fun _ => hrelease.tlbRemove .., fun _ => formed_ite.2 ⟨fun _ => hrelease.tlbRemove .., fun _ => hrelease⟩⟩

theorem execPark (h : s.Formed) {d : BitVec 6} {a : BitVec 7} {form : BitVec 2} : Stays (execPark d a form s) :=
  run_stays h fun r => by
    refine sound_bind.2 <| sound_needHaul fun _ => sound_bind.2 <| sound_need fun _ => sound_bind.2 <| sound_peek h fun p hp =>
      sound_bind.2 <| sound_needSuper fun _ => ?_
    dsimp only
    split
    · exact hp
    · repeat' split
      · exact hp
      · exact hp
      · exact hp
      · exact hp
      · exact h

theorem execUnpark (h : s.Formed) {d : BitVec 6} {a : BitVec 7} : Stays (execUnpark d a s) :=
  run_stays h fun r => by
    refine sound_bind.2 <| sound_needHaul fun _ => sound_bind.2 <| sound_need fun _ => sound_bind.2 <| sound_peek h fun p hp =>
      sound_bind.2 <| sound_needSuper fun _ => ?_
    dsimp only
    split
    · exact hp
    · next g x _ =>
      have hresume : ((p.st.updGang g fun y => { y with parkHold := false }).resumeGang g).Formed :=
        resumeGang (s := p.st.updGang g _) hp ..
      refine sound_ite.2 ⟨fun _ => hp, fun _ => sound_ite.2 ⟨fun _ => hp, fun _ => sound_ite.2 ⟨fun _ => h, fun _ => ?_⟩⟩⟩
      exact hresume

theorem execShedack (h : s.Formed) {d : BitVec 6} : Stays (execShedack d s) :=
  run_stays h fun r => by
    simp -implicitDefEqProofs +contextual [State.Formed, h]

theorem execDeclass (h : s.Formed) {nw : Bool} {d : BitVec 6} {a : BitVec 7} {lab : BitVec 2} {m : Bool} :
    Stays (execDeclass nw d a lab m s) :=
  run_stays h fun r => by
    extract_lets dst want act rest
    split
    · simp
    · refine sound_bind.2 <| sound_needReg fun _ => sound_bind.2 <| sound_needSuper fun _ => ?_
      have hrest : ∀ x, Sound State.Formed (rest x) := fun _ =>
        sound_bind.2 <| sound_peek h fun p hp => sound_bind.2 <| sound_write hp fun u hu => hu.complete ..
      simp [hrest]

theorem execOvloadp (h : s.Formed) {a k : BitVec 7} : Stays (execOvloadp a k s) :=
  run_stays h fun r => by
    refine sound_bind.2 <| sound_uniform h fun p hp => ?_
    simp +contextual [h, hp]

theorem execCtxsave (h : s.Formed) {d : BitVec 6} {a : BitVec 7} {fr sl : Bool} : Stays (execCtxsave d a fr sl s) :=
  run_stays h fun r => by
    refine sound_bind.2 <| sound_needHaul fun _ => sound_bind.2 <| sound_need fun _ => sound_bind.2 <| sound_peek h fun p hp =>
      sound_bind.2 <| sound_needSuper fun _ => ?_
    extract_lets t now
    split
    · exact hp.privStatus ..
    · refine sound_bind.2 <| sound_checkImage fun _ => ?_
      split
      · exact hp.privStatus ..
      · repeat' split
        · exact hp.privStatus ..
        · exact hp.privStatus ..
        · exact hp

theorem execCtxload (h : s.Formed) {d : BitVec 6} {a : BitVec 7} : Stays (execCtxload d a s) :=
  run_stays h fun r => by
    refine sound_bind.2 <| sound_needHaul fun _ => sound_bind.2 <| sound_need fun _ => sound_bind.2 <| sound_peek h fun p hp =>
      sound_bind.2 <| sound_needSuper fun _ => ?_
    extract_lets t
    split
    · exact hp.privStatus ..
    · exact sound_bind.2 <| sound_checkImage fun _ => hp

end State.Formed

end Sys2Proof.Machine
end

section
/-! SUPPORT. What keeps the canonical form of memory: verdicts, scrubbing, coherence messages and the fabric. -/

namespace Sys2Proof.Machine

namespace State.Formed

variable {s : State}

@[simp] theorem onSeedReveal (h : s.Formed) (e : Ev) : Kept (onSeedReveal e s) := by
  unfold Machine.onSeedReveal
  split
  · exact Kept.none
  · refine kept_ite.2 ⟨fun _ => Kept.none, fun _ => kept_some.2 (updUid (s := { s with seeds := s.seeds + 1 }) h ..)⟩

@[simp] theorem postRun (h : s.Formed) (part : Nat) (x : Node) (attempt xdie : Nat) (xclu : DWord) (probe : Option (Nat × Nat))
    (entry : Nat) : (s.postRun part x attempt xdie xclu probe entry).Formed := h

@[simp] theorem giveVerdict (h : s.Formed) (entry verdict : Nat) : (s.giveVerdict entry verdict).Formed := by
  simp [State.giveVerdict, State.Formed, h]

@[simp] theorem failFirst (h : s.Formed) (part : Nat) (x : Node) (f : TestFail) : (s.failFirst part x f).Formed := by
  unfold State.failFirst
  extract_lets named core1 cores xdie xclu v w2
  clear_value w2
  generalize v.2.2 * 2 ^ 32 + x.versions.length * 2 ^ 16 = w4
  have hrecord := h.recordSeq (effFDOM x.eff) part 1 0 f.check x.addr w2 (s.pair v.2.1).page.toNat w4 0 (f.gang.getD 0) false
  generalize s.recordSeq (effFDOM x.eff) part 1 0 f.check x.addr w2 (s.pair v.2.1).page.toNat w4 0 (f.gang.getD 0) false = y
    at hrecord ⊢
  obtain ⟨seq, u⟩ := y
  dsimp -zeta only
  extract_lets fl v
  have hv : v.Formed := updUid (s := { u with failures := u.failures ++ [fl] }) hrecord ..
  exact (hv.postRun ..).voidNode ..

@[simp] theorem failPast (h : s.Formed) (part uid : Nat) : (s.failPast part uid).Formed := by
  unfold State.failPast
  repeat' split
  all_goals simp -implicitDefEqProofs +contextual [State.Formed, h]

@[simp] theorem leaveVoid (h : s.Formed) (part entry : Nat) : (s.leaveVoid part entry).Formed := by
  simp -implicitDefEqProofs +contextual [State.leaveVoid, State.Formed, h]

@[simp] theorem failAgain (h : s.Formed) (x : Node) (f : TestFail) (fl : Failure) : (s.failAgain x f fl).Formed := by
  unfold State.failAgain
  extract_lets named u same
  have hu : u.Formed := h.amendRecord ..
  refine formed_ite.2 ⟨fun _ => ?_, fun _ => ?_⟩
  · exact leaveVoid (failPast (voidNode (hu.giveVerdict ..) ..) ..) ..
  · exact (hu.postRun ..).voidNode ..

@[simp] theorem unplaceable (h : s.Formed) (n : Nat) : (s.unplaceable n).Formed := by
  unfold State.unplaceable
  extract_lets x u v
  have hu : u.Formed := h.recordFault ..
  have hv : v.Formed := by
    dsimp only [v]
    split
    · exact hu.giveVerdict ..
    · exact hu
  exact settleReady (hv.endInstance ..)

@[simp] theorem retireCluster (h : s.Formed) (cl link : Nat) : (s.retireCluster cl link).Formed := by
  unfold State.retireCluster
  extract_lets u v gs w
  have hv : v.Formed := recordFault (s := u) h ..
  have hw : w.Formed := foldl hv (fun _ _ hx => by exact hx) _
  exact formed_ite.2 ⟨fun _ => h, fun _ => foldl hw (fun _ n hx => hx.unplaceable n) _⟩

@[simp] theorem moveGang (h : s.Formed) (g core : Nat) : (s.moveGang g core).Formed := by
  unfold State.moveGang
  extract_lets x
  have hrestore := ((freshNum h).removeGang g).restore (s.freshNum.2.contextOf g s.freshNum.1 false) x.node core
  exact resumeGang (s := State.updGang (Prod.snd _) g _) hrestore g

@[simp] theorem onGangPlace (h : s.Formed) (e : Ev) : Kept (onGangPlace e s) := by
  unfold Machine.onGangPlace
  split
  · exact kept_some.2 (h.moveGang ..)
  · exact h.placeNext _

@[simp] theorem dropShadow (h : s.Formed) (x : Node) : (s.dropShadow x).Formed := ⟨Memory.wf_filter h.1 _, h.2⟩

@[simp] theorem settleProbe (h : s.Formed) (x : Node) (passed : Bool) (fl : Failure) : (s.settleProbe x passed fl).Formed := by
  unfold State.settleProbe
  extract_lets cl n u core3 v w z
  have hv : v.Formed := amendRecord (s := u) h ..
  have hz : z.Formed := (hv.giveVerdict ..).dropShadow x
  exact formed_ite.2 ⟨fun _ => hz.retireCluster .., fun _ => hz⟩

@[simp] theorem onWitnessTest (h : s.Formed) (e : Ev) : Kept (onWitnessTest e s) := by
  unfold Machine.onWitnessTest
  split
  · exact Kept.none
  · next x _ =>
    extract_lets fl part tested
    have htested : ∀ b, (tested b).Formed := fun _ => h.updUid ..
    split
    · exact Kept.none
    · split
      · intro t ht
        obtain ⟨f, _, rfl⟩ := Option.map_eq_some_iff.1 ht
        exact (htested _).settleProbe ..
      · split
        · exact Kept.none
        · split
          · exact Kept.none
          · split
            · exact kept_some.2 ((htested _).settleProbe ..)
            · exact kept_some.2 ((htested _).settleProbe ..)
            · exact kept_some.2 (htested _)
            · exact kept_some.2 (htested _)
            · exact kept_some.2 ((htested _).failFirst ..)
            · exact kept_some.2 ((htested _).failAgain ..)

@[simp] theorem afterRelease (h : s.Formed) (uid : Nat) : (s.afterRelease uid).Formed := by
  unfold State.afterRelease
  split
  · exact h
  · next x _ =>
    split
    · exact h
    · extract_lets u ds
      have hu : u.Formed := by
        dsimp only [u]
        split
        · exact h.amendRecord ..
        · exact h
      split
      · exact hu
      · split
        · exact hu
        · extract_lets put v eq w
          have hw : w.Formed := amendRecord (s := v) hu ..
          exact hw.postRun ..

@[simp] theorem onVersionRelease (h : s.Formed) (e : Ev) : Kept (onVersionRelease e s) := by
  unfold Machine.onVersionRelease
  extract_lets key p
  split
  · exact Kept.none
  · split
    · exact Kept.none
    · exact kept_some.2 (((updVer h ..).dropPairTlb key).postNotice .. |>.afterRelease ..)

@[simp] theorem onVersionVoid (h : s.Formed) (e : Ev) : Kept (onVersionVoid e s) := by
  unfold Machine.onVersionVoid
  extract_lets key
  split
  · exact Kept.none
  · extract_lets y cause u
    have hu : u.Formed := by
      dsimp only [u]
      clear_value y
      split
      · exact formed_ite.2 ⟨fun _ => h.recordDependant .., fun _ => h⟩
      · exact h
    exact kept_some.2 (hu.voidVersion ..)

@[simp] theorem onReexecutionPost (h : s.Formed) (e : Ev) : Kept (onReexecutionPost e s) := by
  unfold Machine.onReexecutionPost
  extract_lets k
  split
  · exact Kept.none
  · next q rest _ =>
    extract_lets x taken
    have htaken : ∀ u : State, u.Formed → (taken u).Formed := fun _ hu => hu
    have hoffer := h.offer k x none
    split
    · exact Kept.none
    · next n u he =>
      rw [he] at hoffer
      extract_lets v
      have hv : v.Formed := (htaken u hoffer).recordFault ..
      refine kept_some.2 ?_
      split
      · exact hv.giveVerdict ..
      · exact hv
    · next n u he =>
      rw [he] at hoffer
      extract_lets v w
      have hw : w.Formed := htaken u hoffer
      exact kept_some.2 (formed_ite.2 ⟨fun _ => hw.unplaceable .., fun _ => hw⟩)

@[simp] theorem physWrite (h : s.Formed) (ws : List (Nat × Byte)) : (s.physWrite ws).Formed := by
  refine clearMarks (foldl h (fun u l hu => ?_) _) ..
  exact hu.writeLine ..

@[simp] theorem physRead (h : s.Formed) (pa n : Nat) : (s.physRead pa n).2.Formed := by
  simp -implicitDefEqProofs +contextual [State.physRead, State.Formed, h]

@[simp] theorem failTags (h : s.Formed) (secs : List Nat) : (s.failTags secs).Formed := h

@[simp] theorem meetSector (h : s.Formed) (sector part : Nat) (found : List Byte) : (s.meetSector sector part found).Formed := by
  unfold State.meetSector
  extract_lets pa cipher plain good w t
  have ht : t.Formed := by
    dsimp only [t]
    split
    · exact formed_ite.2 ⟨fun _ => h, fun _ => h.failTags ..⟩
    · have hw : w.Formed := h.withMem (Memory.wf_wrBytes h.1 ..)
      exact formed_ite.2 ⟨fun _ => hw, fun _ => hw.failTags ..⟩
  exact formed_ite.2 ⟨fun _ => h, fun _ => formed_ite.2 ⟨fun _ => ht, fun _ => ht.recordFault ..⟩⟩

@[simp] theorem onResidueReport (h : s.Formed) (e : Ev) : Kept (onResidueReport e s) := by
  unfold Machine.onResidueReport
  extract_lets cl map
  split
  · exact Kept.none
  · generalize s.reported cl (w64 e.n2) = y
    obtain ⟨fdom, core⟩ := y
    have hrecord := h.recordSeq fdom (s.ownerOf cl) 2 0 0 (w64 e.n2) (core * 2 ^ 56) 0 0 0 (e.n1 % 16 * 256 + map % 256) false
    dsimp -zeta only
    generalize s.recordSeq fdom (s.ownerOf cl) 2 0 0 (w64 e.n2) (core * 2 ^ 56) 0 0 0 (e.n1 % 16 * 256 + map % 256) false = y
      at hrecord ⊢
    obtain ⟨seq, u⟩ := y
    have hu : u.Formed := hrecord
    dsimp -zeta only
    extract_lets gs v
    have hv : v.Formed := foldl hu (fun _ _ hx => by exact hx) _
    exact kept_ite.2 ⟨fun _ => kept_some.2 hu, fun _ => kept_some.2 hv⟩

@[simp] theorem onSelfTestDone (h : s.Formed) (e : Ev) : Kept (onSelfTestDone e s) := by
  unfold Machine.onSelfTestDone
  extract_lets cl gs old map more u v
  split
  · exact Kept.none
  · extract_lets w z
    have hz : z.Formed := (amendRecord (s := v) h ..).giveVerdict ..
    refine kept_ite.2 ⟨fun _ => Kept.none, fun _ => kept_some.2 (formed_ite.2 ⟨fun _ => hz, fun _ => foldl hz (fun t p ht => ?_) _⟩)⟩
    exact resumeGang (s := t.updGang p.1 _) ht ..

@[simp] theorem damage (h : s.Formed) (e : Ev) : (State.damage e s).Formed := by
  simp [State.damage, State.Formed, h]

@[simp] theorem onStrikeReport (h : s.Formed) (e : Ev) : Kept (onStrikeReport e s) := by
  unfold Machine.onStrikeReport
  extract_lets cls
  refine kept_ite.2 ⟨fun _ => Kept.none, fun _ => kept_some.2 (damage ?_ e)⟩
  exact foldl h (fun _ _ hx => by exact hx) _

@[simp] theorem countEcc (h : s.Formed) (part pa : Nat) : (s.countEcc part pa).Formed := by
  unfold State.countEcc
  dsimp only
  repeat' split
  all_goals simp [State.Formed, h]

@[simp] theorem onPatrolScrub (h : s.Formed) (e : Ev) : Kept (onPatrolScrub e s) := by
  unfold Machine.onPatrolScrub
  extract_lets pa part marks
  split
  · exact Kept.none
  · split
    · exact kept_some.2 ((h.countEcc ..).countWrite ..)
    · split
      · exact kept_some.2 (recordFault (s := { s with marks }) h ..)
      · exact kept_ite.2 ⟨fun _ => kept_some.2 (h.meetSector ..), fun _ => Kept.none⟩

@[simp] theorem onPageWalk (h : s.Formed) (e : Ev) : Kept (onPageWalk e s) := by
  unfold Machine.onPageWalk
  exact kept_ite.2 ⟨fun _ => Kept.none, fun _ => kept_some.2 (h.translate ..)⟩

@[simp] theorem message (h : s.Formed) (k : MsgKind) (e : Ev) : Kept (s.message k e) := by
  unfold State.message
  split
  · next m rest _ => exact kept_ite.2 ⟨fun _ => kept_some.2 (deliver (s := { s with msgs := rest }) h m), fun _ => Kept.none⟩
  · exact Kept.none

@[simp] theorem request (h : s.Formed) (k : MsgKind) (may : Option L2Line → Bool) (e : Ev) : Kept (s.request k may e) := by
  unfold State.request
  split
  · next t ht => exact kept_some.2 (h.message _ _ t ht)
  · extract_lets home t
    have ht : t.Formed := h.ask ..
    refine kept_ite.2 ⟨fun _ => kept_some.2 ?_, fun _ => Kept.none⟩
    cases hm : t.message k e with
    | none => exact ht
    | some u => exact ht.message _ _ u hm

@[simp] theorem onReadShared (h : s.Formed) (e : Ev) : Kept (onReadShared e s) := h.request _ _ _

@[simp] theorem onReadOwn (h : s.Formed) (e : Ev) : Kept (onReadOwn e s) := h.request _ _ _

@[simp] theorem onUpgrade (h : s.Formed) (e : Ev) : Kept (onUpgrade e s) := h.request _ _ _

@[simp] theorem onWriteBack (h : s.Formed) (e : Ev) : Kept (onWriteBack e s) := by
  unfold Machine.onWriteBack
  split
  · next t ht => exact kept_some.2 (h.message _ _ t ht)
  · split
    · exact Kept.none
    · extract_lets t
      have ht : t.Formed := h
      refine kept_ite.2 ⟨fun _ => Kept.none, fun _ => kept_some.2 ?_⟩
      cases hm : t.message .writeBack e with
      | none => exact ht
      | some u => exact ht.message _ _ u hm

@[simp] theorem onGrant (h : s.Formed) (e : Ev) : Kept (onGrant e s) := h.message _ _

@[simp] theorem onRecallS (h : s.Formed) (e : Ev) : Kept (onRecallS e s) := h.message _ _

@[simp] theorem onRecallI (h : s.Formed) (e : Ev) : Kept (onRecallI e s) := h.message _ _

@[simp] theorem onInvalidate (h : s.Formed) (e : Ev) : Kept (onInvalidate e s) := h.message _ _

@[simp] theorem onRecallReply (h : s.Formed) (e : Ev) : Kept (onRecallReply e s) := h.message _ _

@[simp] theorem onInvAck (h : s.Formed) (e : Ev) : Kept (onInvAck e s) := h.message _ _

@[simp] theorem onReleaseMessage (h : s.Formed) (e : Ev) : Kept (onReleaseMessage e s) := by
  unfold Machine.onReleaseMessage
  generalize (0 : Signature) = g
  refine kept_ite.2 ⟨fun _ => Kept.none, fun _ => kept_some.2 ?_⟩
  have hnote := noteHost (s := { s with ing := g }) h s.ing
  generalize State.noteHost { s with ing := g } s.ing = u at hnote ⊢
  exact hnote

@[simp] theorem onReleaseAck (h : s.Formed) (e : Ev) : Kept (onReleaseAck e s) := by
  unfold Machine.onReleaseAck
  exact kept_ite.2 ⟨fun _ => kept_some.2 h, fun _ => Kept.none⟩

@[simp] theorem answerFabric (h : s.Formed) (pkg : Nat) (as : List Nat) (bs : List Byte) : (s.answerFabric pkg as bs).Formed := by
  simp [State.answerFabric, State.Formed, h]

@[simp] theorem onRemoteAccessArrival (h : s.Formed) (e : Ev) : Kept (onRemoteAccessArrival e s) := by
  unfold Machine.onRemoteAccessArrival
  extract_lets pa n as tags u
  have hu : u.Formed := ((h.physWrite ..).tagSectors ..).awaitForeign ..
  have hread := h.physRead pa n
  generalize s.physRead pa n = y at hread ⊢
  obtain ⟨old, t⟩ := y
  dsimp -zeta only
  extract_lets v w
  have hv : v.Formed := State.Formed.answerFabric (s := t) hread ..
  have hw : w.Formed := hv.physWrite ..
  repeat' split
  · exact Kept.none
  · exact kept_some.2 hu
  · exact Kept.none
  · exact kept_some.2 hv
  · exact kept_some.2 hw

@[simp] theorem dropRemote (h : s.Formed) (id : Nat) : (s.dropRemote id).Formed := h

@[simp] theorem spoilOp (h : s.Formed) (op : Nat) : (s.spoilOp op).Formed := by
  simp [State.spoilOp, State.Formed, h]

@[simp] theorem takeRemote (h : s.Formed) (q : Remote) (bs : List Byte) (bad : Bool) : (s.takeRemote q bs bad).Formed := by
  unfold State.takeRemote
  repeat' split
  all_goals simp [State.Formed, h]

@[simp] theorem closeRemote (h : s.Formed) (q : Remote) : (s.closeRemote q).Formed := by
  simp [State.closeRemote, State.Formed, h]

@[simp] theorem giveUp (h : s.Formed) (q : Remote) : (s.giveUp q).Formed := by
  simp [State.giveUp, State.Formed, h]

@[simp] theorem onRemoteResponse (h : s.Formed) (e : Ev) : Kept (onRemoteResponse e s) := by
  unfold Machine.onRemoteResponse
  split
  · exact Kept.none
  · next q _ =>
    extract_lets t
    have ht : t.Formed := (h.closeRemote q).takeRemote ..
    split
    · exact kept_some.2 (h.giveUp q)
    · split
      · refine kept_some.2 (foldl (ht.awaitForeign _) (fun u v hu => ?_) _)
        exact hu.enterRead ..
      · exact kept_some.2 ht

@[simp] theorem onRemoteAccessTimeout (h : s.Formed) (e : Ev) : Kept (onRemoteAccessTimeout e s) := by
  unfold Machine.onRemoteAccessTimeout
  split
  · exact Kept.none
  · exact kept_ite.2 ⟨fun _ => Kept.none, fun _ => kept_some.2 (h.giveUp ..)⟩

@[simp] theorem endForeign (h : s.Formed) (pkg pair version : Nat) (poison : Bool) : (s.endForeign pkg pair version poison).Formed := by
  simp -implicitDefEqProofs +contextual [State.endForeign, State.Formed, h]

@[simp] theorem doomForeign (h : s.Formed) (v : VerRef) : (s.doomForeign v).Formed := by
  refine foldl h (fun u p hu => ?_) _
  split
  · exact hu
  · exact hu.doomAll ..

@[simp] theorem voidForeign (h : s.Formed) (pkg pair version : Nat) : (s.voidForeign pkg pair version).Formed := by
  unfold State.voidForeign
  extract_lets tag u
  exact doomForeign (endForeign (s := u) h ..) _

@[simp] theorem onNoticeArrival (h : s.Formed) (e : Ev) : Kept (onNoticeArrival e s) := by
  unfold Machine.onNoticeArrival
  extract_lets pkg pair version
  exact kept_ite.2 ⟨fun _ => kept_some.2 (h.endForeign ..), fun _ =>
    kept_ite.2 ⟨fun _ => kept_some.2 (h.voidForeign ..), fun _ => Kept.none⟩⟩

@[simp] theorem onProvisionalTimeout (h : s.Formed) (e : Ev) : Kept (onProvisionalTimeout e s) := by
  unfold Machine.onProvisionalTimeout
  exact kept_ite.2 ⟨fun _ => kept_some.2 (h.voidForeign ..), fun _ => Kept.none⟩

@[simp] theorem onHostWrite (h : s.Formed) (e : Ev) : Kept (onHostWrite e s) := by
  unfold Machine.onHostWrite
  extract_lets all ws u
  have hu : u.Formed := (h.noteHost _).physWrite ws
  exact kept_ite.2 ⟨fun _ => Kept.none, fun _ => kept_ite.2 ⟨fun _ => Kept.none, fun _ => kept_some.2 hu⟩⟩

@[simp] theorem hostByte (h : s.Formed) (a : Nat) : (s.hostByte a).2.Formed := by
  unfold State.hostByte
  split <;> simp [State.Formed, h]

/-- Bytes read one after the other from the aperture. -/
theorem foldl_aperture (h : s.Formed) (g : State → Nat → Byte × State) (hg : ∀ u a, u.Formed → (g u a).2.Formed) (off : Nat)
    (xs : List Nat) : (xs.foldl (fun (acc : List Byte × State) i =>
      let (b, s) := g acc.2 (acc.2.aperture (off + i))
      (acc.1 ++ [b], s)) ([], s)).2.Formed := foldl_snd (acc := ([], s)) h (fun _ _ hu => hg _ _ hu) _

@[simp] theorem onHostRead (h : s.Formed) (e : Ev) : Kept (onHostRead e s) := by
  unfold Machine.onHostRead
  extract_lets as
  split
  · exact Kept.none
  · generalize hy : List.foldl _ (([] : List Byte), s) (List.range e.n1) = y
    have hread : y.2.Formed := hy ▸ foldl_aperture h State.hostByte (fun _ a hu => hu.hostByte a) ..
    obtain ⟨bs, t⟩ := y
    exact kept_some.2 hread

@[simp] theorem onRingEntryWrite (h : s.Formed) (e : Ev) : Kept (onRingEntryWrite e s) := by
  unfold Machine.onRingEntryWrite
  extract_lets p r size base at_
  split
  · exact Kept.none
  · extract_lets q put u
    have hu : u.Formed := h
    refine kept_ite.2 ⟨fun _ => Kept.none, fun _ => kept_some.2 (admitPosts (s := { u with hostMem := _, linkReplays := _ }) ?_ _)⟩
    exact hu.withHostMem (Memory.wf_wrBytes hu.2 ..)

@[simp] theorem onFlitReplay (h : s.Formed) (_e : Ev) : Kept (onFlitReplay _e s) := by
  unfold Machine.onFlitReplay
  exact kept_ite.2 ⟨fun _ => Kept.none, fun _ => kept_ite.2 ⟨fun _ => kept_some.2 h, fun _ => kept_some.2 h⟩⟩

@[simp] theorem onLinkRetrainDone (h : s.Formed) (e : Ev) : Kept (onLinkRetrainDone e s) := by
  unfold Machine.onLinkRetrainDone
  refine kept_ite.2 ⟨fun _ => Kept.none, fun _ => kept_ite.2 ⟨fun _ => kept_some.2 h, fun _ => ?_⟩⟩
  exact kept_ite.2 ⟨fun _ => kept_some.2 h, fun _ => kept_some.2 h⟩

@[simp] theorem onFabricPortDown (h : s.Formed) (e : Ev) : Kept (onFabricPortDown e s) := by
  unfold Machine.onFabricPortDown
  refine kept_ite.2 ⟨fun _ => Kept.none, fun _ => kept_some.2 ?_⟩
  refine postEvent ?_ ..
  exact h

end State.Formed

end Sys2Proof.Machine
end

section
/-! SUPPORT. What keeps the canonical form of memory: the integer instructions. -/

namespace Sys2Proof.Machine

namespace State.Formed

variable {s : State}

@[simp] theorem intOp (h : s.Formed) (r : Nat) (ok : Nat → Bool) (m nw : Bool) (d : BitVec 6) (a : BitVec 7) (b : Option (BitVec 7))
    (old : Bool) (f : ElemOp) : Sound State.Formed (s.intOp r ok m nw d a b old f) := by
  simp [State.intOp, State.Formed, h]

@[simp] theorem intOpU (h : s.Formed) (r : Nat) (ok : Nat → Bool) (m : Bool) (d : BitVec 6) (a : BitVec 7) (b : Option (BitVec 7))
    (old : Bool) (f : ElemOp) : Sound State.Formed (s.intOpU r ok m d a b old f) := by
  simp [State.intOpU, State.Formed, h]

@[simp] theorem carryOp (h : s.Formed) (r : Nat) (f : Nat → Nat → Nat → Nat × Bool) (m nw : Bool) (d : BitVec 6) (a b : BitVec 7) :
    Sound State.Formed (s.carryOp r f m nw d a b) := by
  refine sound_bind.2 <| sound_typeIn fun _ => ?_
  extract_lets t mask dst
  refine sound_bind.2 <| sound_peek h fun p hp => ?_
  extract_lets c out l
  refine sound_bind.2 <| sound_write hp fun u hu => ?_
  exact updStream_formed hu

@[simp] theorem carryOpU (h : s.Formed) (r : Nat) (f : Nat → Nat → Nat → Nat × Bool) (m : Bool) (d : BitVec 6) (a b : BitVec 7) :
    Sound State.Formed (s.carryOpU r f m d a b) := by
  simp -implicitDefEqProofs +contextual [State.carryOpU, State.Formed, h]

@[simp] theorem permOp (h : s.Formed) (r : Nat) (m nw : Bool) (d : BitVec 6) (a b : BitVec 7) :
    Sound State.Formed (s.permOp r m nw d a b) := by
  simp [State.permOp, State.Formed, h]

@[simp] theorem leaOp (h : s.Formed) (r : Nat) (m nw : Bool) (d : BitVec 6) (a : BitVec 7) (b : Option (BitVec 7)) (imm : Int) :
    Sound State.Formed (s.leaOp r m nw d a b imm) := by
  simp [State.leaOp, State.Formed, h]

@[simp] theorem leaOpU (h : s.Formed) (r : Nat) (m : Bool) (d : BitVec 6) (a : BitVec 7) (b : Option (BitVec 7)) (imm : Int) :
    Sound State.Formed (s.leaOpU r m d a b imm) := by
  simp [State.leaOpU, State.Formed, h]

@[simp] theorem selOp (h : s.Formed) (r : Nat) (m nw : Bool) (d : BitVec 6) (a b : BitVec 7) :
    Sound State.Formed (s.selOp r m nw d a b) := by
  simp [State.selOp, State.Formed, h]

@[simp] theorem selOpU (h : s.Formed) (r : Nat) (m : Bool) (d : BitVec 6) (a b : BitVec 7) : Sound State.Formed (s.selOpU r m d a b) := by
  simp [State.selOpU, State.Formed, h]

@[simp] theorem dotOp (h : s.Formed) (r : Nat) (m nw : Bool) (d : BitVec 6) (a b : BitVec 7) :
    Sound State.Formed (s.dotOp r m nw d a b) := by
  simp [State.dotOp, State.Formed, h]

@[simp] theorem dotOpU (h : s.Formed) (r : Nat) (m : Bool) (d : BitVec 6) (a b : BitVec 7) : Sound State.Formed (s.dotOpU r m d a b) := by
  simp [State.dotOpU, State.Formed, h]

theorem execBfeImm (h : s.Formed) {nw : Bool} {d : BitVec 6} {a imm : BitVec 7} {m : Bool} : Stays (execBfeImm nw d a imm m s) :=
  run_stays h fun r => by
    simp [h]

theorem execBpermU (h : s.Formed) {d : BitVec 6} {a b : BitVec 7} {m : Bool} : Stays (execBpermU d a b m s) :=
  run_stays h fun r => by
    simp [h]

theorem execBfeImmU (h : s.Formed) {d : BitVec 6} {a imm : BitVec 7} {m : Bool} : Stays (execBfeImmU d a imm m s) :=
  run_stays h fun r => by
    simp [h]

end State.Formed

end Sys2Proof.Machine
end

section
/-! SUPPORT. What keeps the canonical form of memory: management commands, islands, telemetry and what precedes an instruction. -/

namespace Sys2Proof.Machine

namespace State.Formed

variable {s : State}

@[simp] theorem endCommand (h : s.Formed) (status : Nat) : (s.endCommand status).Formed := h

@[simp] theorem toHost (h : s.Formed) (a : Nat) (bs : List Byte) : (s.toHost a bs).Formed := h.withHostMem (Memory.wf_wrBytes h.2 ..)

theorem command {f : List DWord → State × Nat} (h : s.Formed) (code : Nat) (fs : List (Nat × Nat × Nat))
    (hf : ∀ ws, (f ws).1.Formed) : Kept (s.command code fs f) := by
  unfold State.command
  dsimp only
  exact kept_ite.2 ⟨fun _ => Kept.none, fun _ => kept_ite.2 ⟨fun _ => kept_some.2 h, fun _ =>
    kept_ite.2 ⟨fun _ => kept_some.2 h, fun _ => kept_some.2 (endCommand (s := (f _).1) (hf _) _)⟩⟩⟩

@[simp] theorem assignFrames (h : s.Formed) (ranges : List (Nat × Nat)) (id : Nat) : (s.assignFrames ranges id).Formed := by
  unfold State.assignFrames
  extract_lets inside u frames
  have hu : u.Formed := foldl h (fun t r ht => ht.flushRange ..) _
  exact ⟨Memory.wf_filter hu.1 _, hu.2⟩

@[simp] theorem releasePart (h : s.Formed) (p : Nat) (ws : List DWord) (ranges : List (Nat × Nat)) :
    (s.releasePart p ws ranges).Formed := by
  unfold State.releasePart
  extract_lets mask w3 prot det u
  have hu : u.Formed := h.assignFrames ..
  have hfree := hu.freeNum
  generalize u.freeNum = y at hfree ⊢
  obtain ⟨k, w⟩ := y
  dsimp -zeta only
  extract_lets reg old n x v
  have hv : v.Formed := hfree
  refine updateLevel ?_ _
  exact hv

@[simp] theorem onPartitionRelease (h : s.Formed) (_e : Ev) : Kept (onPartitionRelease _e s) := by
  refine h.command _ _ fun ws => ?_
  extract_lets p ranges
  split
  · exact h
  · split
    · exact h
    · exact h.releasePart ..

@[simp] theorem onKeyExchange (h : s.Formed) (_e : Ev) : Kept (onKeyExchange _e s) := by
  refine h.command _ _ fun ws => ?_
  extract_lets k p ss key x
  split
  · exact h
  · exact updateLevel (s := s.setPart k x) h _

@[simp] theorem onWeightKey (h : s.Formed) (_e : Ev) : Kept (onWeightKey _e s) := by
  refine h.command _ _ fun ws => ?_
  extract_lets k m cut idx good
  split
  · exact h
  · exact h.recordFault ..

@[simp] theorem frameFrom (h : s.Formed) (part die va last x0 x1 x2 : Nat) : (State.frameFrom part die va last x0 x1 x2 s).2.Formed := by
  induction x0 generalizing s x1 x2 with
  | zero => exact h
  | succ k ih =>
    have hentry := h.tableEntry part die (x2 + 8 * walkIndex va x1)
    unfold State.frameFrom
    generalize s.tableEntry part die (x2 + 8 * walkIndex va x1) = y at hentry ⊢
    obtain ⟨e, u⟩ := y
    dsimp only
    split
    · exact hentry
    · split
      · exact ih (s := u) hentry ..
      · exact hentry

@[simp] theorem frameOf (h : s.Formed) (part va : Nat) (big : Bool) : (s.frameOf part va big).2.Formed := by
  unfold State.frameOf
  dsimp only
  split
  · exact h
  · exact h.frameFrom ..

@[simp] theorem onPageExport (h : s.Formed) (_e : Ev) : Kept (onPageExport _e s) := by
  refine h.command _ _ fun ws => ?_
  extract_lets k page big size p old full quarantined inUse
  split
  · exact h
  · split
    · exact h
    · split
      · exact h
      · have hchain := h.readChain k (w64 (wordAt ws 1))
        split
        · next u he => rw [he] at hchain; exact hchain
        · next c u he =>
          rw [he] at hchain
          have hframe := State.Formed.frameOf (s := u) hchain k (va56 page.toNat) big
          split
          · next v hv => rw [hv] at hframe; exact hframe
          · next pa v hv =>
            rw [hv] at hframe
            extract_lets fdom cores w
            have hw : w.Formed := foldl (s := v) hframe (fun t i ht => ht.release ..) _
            have hread := hw.physRead (pa % 2 ^ 40) size
            clear_value size
            generalize w.physRead (pa % 2 ^ 40) size = y at hread ⊢
            obtain ⟨plain, z⟩ := y
            exact toHost (s := z.updPart k _) hread ..

@[simp] theorem failImport (h : s.Formed) (part target size : Nat) (page : DWord) (blobDom status : Nat) :
    (s.failImport part target size page blobDom status).Formed := by
  unfold State.failImport
  extract_lets old fdom secs u v
  have hv : v.Formed := by
    dsimp only [v]
    clear_value fdom old
    split
    · exact formed_ite.2 ⟨fun _ => h, fun _ => h⟩
    · exact h
  exact settleReady ((hv.endDomain ..).recordFault ..)

@[simp] theorem onPageImport (h : s.Formed) (_e : Ev) : Kept (onPageImport _e s) := by
  refine h.command _ _ fun ws => ?_
  extract_lets k at_ hb hd big size target page form nonce cipher fail
  have hfail : ∀ n, (fail n).1.Formed := fun n => h.failImport ..
  split
  · exact h
  · split
    · exact hfail _
    · split
      · exact hfail _
      · split
        · exact hfail _
        · split
          · exact hfail _
          · split
            · exact hfail _
            · exact (h.noteHost _).physWrite _

@[simp] theorem onSealedTransferIn (h : s.Formed) (_e : Ev) : Kept (onSealedTransferIn _e s) := by
  refine h.command _ _ fun ws => ?_
  extract_lets k pa b good
  split
  · exact h
  · exact (h.noteHost _).physWrite _

@[simp] theorem onSealedTransferOut (h : s.Formed) (_e : Ev) : Kept (onSealedTransferOut _e s) := by
  refine h.command _ _ fun ws => ?_
  extract_lets k pa
  split
  · exact h
  · have hread := h.physRead pa 4096
    generalize s.physRead pa 4096 = y at hread ⊢
    obtain ⟨plain, u⟩ := y
    exact toHost (s := u.updPart k _) hread ..

@[simp] theorem onAttestation (h : s.Formed) (_e : Ev) : Kept (onAttestation _e s) := by
  refine h.command _ _ fun ws => ?_
  exact toHost (s := s.updPart _ _) h ..

@[simp] theorem onCertificateRead (h : s.Formed) (_e : Ev) : Kept (onCertificateRead _e s) := h.command _ _ fun ws => h.toHost ..

@[simp] theorem onFaultRecordRead (h : s.Formed) (_e : Ev) : Kept (onFaultRecordRead _e s) := h.command _ _ fun ws => h.toHost ..

@[simp] theorem onCollectiveGroup (h : s.Formed) (_e : Ev) : Kept (onCollectiveGroup _e s) := by
  refine h.command _ _ fun ws => ?_
  extract_lets k g n at_ member
  split
  · exact h
  · exact h

@[simp] theorem onUnknownCommand (h : s.Formed) (_e : Ev) : Kept (onUnknownCommand _e s) := by
  unfold Machine.onUnknownCommand
  extract_lets c
  exact kept_ite.2 ⟨fun _ => Kept.none, fun _ => kept_ite.2 ⟨fun _ => kept_some.2 h, fun _ => kept_some.2 h⟩⟩

@[simp] theorem onPostSubmit (h : s.Formed) (e : Ev) : Kept (onPostSubmit e s) := by
  unfold Machine.onPostSubmit
  exact kept_ite.2 ⟨fun _ => Kept.none, fun _ => kept_some.2 (h.writeReg ..)⟩

@[simp] theorem onFabidWrite (h : s.Formed) (e : Ev) : Kept (onFabidWrite e s) := by
  unfold Machine.onFabidWrite
  exact kept_ite.2 ⟨fun _ => kept_some.2 (h.writeReg ..), fun _ => Kept.none⟩

@[simp] theorem agentWrite (h : s.Formed) (agent off v : Nat) : Kept (s.agentWrite agent off v) := by
  unfold State.agentWrite
  exact kept_ite.2 ⟨fun _ => Kept.none, fun _ => kept_some.2 (h.writeReg ..)⟩

@[simp] theorem onIslctlWrite (h : s.Formed) (e : Ev) : Kept (onIslctlWrite e s) := by
  unfold Machine.onIslctlWrite
  exact kept_ite.2 ⟨fun _ => Kept.none, fun _ => h.agentWrite _ _ _⟩

@[simp] theorem onRegisterWrite (h : s.Formed) (e : Ev) : Kept (onRegisterWrite e s) := by
  unfold Machine.onRegisterWrite
  exact kept_ite.2 ⟨fun _ => Kept.none, fun _ => h.agentWrite _ _ _⟩

@[simp] theorem onPshedWrite (h : s.Formed) (e : Ev) : Kept (onPshedWrite e s) := by
  unfold Machine.onPshedWrite
  exact kept_ite.2 ⟨fun _ => Kept.none, fun _ => h.agentWrite _ _ _⟩

@[simp] theorem onRailSwitchDone (h : s.Formed) (e : Ev) : Kept (onRailSwitchDone e s) := by
  unfold Machine.onRailSwitchDone
  exact kept_ite.2 ⟨fun _ => Kept.none, fun _ => kept_some.2 h⟩

@[simp] theorem onIslandPowerDown (h : s.Formed) (e : Ev) : Kept (onIslandPowerDown e s) := by
  unfold Machine.onIslandPowerDown
  extract_lets cl c gone due cores u v
  clear_value cores
  have hu : u.Formed := foldl h (fun t k ht => foldl ht (fun z x hz => hz.dropSector ..) _) _
  have hv : v.Formed := foldl hu (fun t k ht => by exact ht) _
  exact kept_ite.2 ⟨fun _ => Kept.none, fun _ => kept_some.2 hv⟩

@[simp] theorem onIslandWakeStart (h : s.Formed) (e : Ev) : Kept (onIslandWakeStart e s) := by
  unfold Machine.onIslandWakeStart
  extract_lets busy
  split
  · exact Kept.none
  · exact kept_ite.2 ⟨fun _ => Kept.none, fun _ => kept_some.2 h⟩

@[simp] theorem onIslandWakeDone (h : s.Formed) (e : Ev) : Kept (onIslandWakeDone e s) := by
  unfold Machine.onIslandWakeDone
  exact kept_ite.2 ⟨fun _ => Kept.none, fun _ => kept_some.2 h⟩

@[simp] theorem onLaneGroupGate (h : s.Formed) (e : Ev) : Kept (onLaneGroupGate e s) := by
  unfold Machine.onLaneGroupGate
  exact kept_ite.2 ⟨fun _ => Kept.none, fun _ => kept_some.2 h⟩

@[simp] theorem onBankDrowsy (h : s.Formed) (e : Ev) : Kept (onBankDrowsy e s) := by
  unfold Machine.onBankDrowsy
  split
  · exact Kept.none
  · split
    · exact Kept.none
    · exact kept_ite.2 ⟨fun _ => Kept.none, fun _ => kept_some.2 h⟩

@[simp] theorem takeCharges (h : s.Formed) (ms : Nat) : (s.takeCharges ms).Formed := by
  unfold State.takeCharges
  extract_lets nodes parts u
  refine foldl (s := u) h (fun t p ht => foldl ht (fun z x hz => ?_) _) _
  exact hz.rcbPut ..

@[simp] theorem logStrikes (h : s.Formed) (cl : Nat) : (s.logStrikes cl).Formed := by
  simp [State.logStrikes, State.Formed, h]

@[simp] theorem onEnergyUpdate (h : s.Formed) (_e : Ev) : Kept (onEnergyUpdate _e s) := by
  unfold Machine.onEnergyUpdate
  extract_lets ms hit
  refine kept_ite.2 ⟨fun _ => Kept.none, fun _ => kept_some.2 ?_⟩
  exact foldl (h.takeCharges _) (fun t cl ht => ht.logStrikes cl) _

@[simp] theorem onDroopTrip (h : s.Formed) (e : Ev) : Kept (onDroopTrip e s) := by
  unfold Machine.onDroopTrip
  exact kept_ite.2 ⟨fun _ => Kept.none, fun _ => kept_some.2 h⟩

@[simp] theorem onDroopStretchEnd (h : s.Formed) (e : Ev) : Kept (onDroopStretchEnd e s) := by
  unfold Machine.onDroopStretchEnd
  dsimp only
  split
  · exact kept_some.2 h
  · exact Kept.none

@[simp] theorem onDroopHalveEnd (h : s.Formed) (e : Ev) : Kept (onDroopHalveEnd e s) := by
  unfold Machine.onDroopHalveEnd
  dsimp only
  split
  · exact kept_ite.2 ⟨fun _ => Kept.none, fun _ => kept_some.2 h⟩
  · exact Kept.none

@[simp] theorem follow (h : s.Formed) (target : Nat) : (s.follow target).Formed := by
  unfold State.follow
  extract_lets l
  have hhyst : ∀ n, ({ s with hyst := n } : State).Formed := fun _ => h
  exact formed_ite.2 ⟨fun _ => (hhyst 0).setPkgLevel _, fun _ => formed_ite.2 ⟨fun _ =>
    formed_ite.2 ⟨fun _ => (hhyst 0).setPkgLevel _, fun _ => hhyst _⟩, fun _ => hhyst 0⟩⟩

@[simp] theorem onTelemetryFrame (h : s.Formed) (e : Ev) : Kept (onTelemetryFrame e s) := by
  unfold Machine.onTelemetryFrame
  extract_lets at_ st target st' u
  have hu : u.Formed := h
  exact kept_ite.2 ⟨fun _ => Kept.none, fun _ => kept_ite.2 ⟨fun _ => kept_some.2 h, fun _ => kept_some.2 (hu.follow target)⟩⟩

@[simp] theorem onTelemetryFailsafe (h : s.Formed) (_e : Ev) : Kept (onTelemetryFailsafe _e s) := by
  unfold Machine.onTelemetryFailsafe
  extract_lets st level u
  have hhyst : ({ u with hyst := 0 } : State).Formed := h
  refine kept_ite.2 ⟨fun _ => Kept.none, fun _ => kept_some.2 ?_⟩
  exact formed_ite.2 ⟨fun _ => hhyst.setPkgLevel _, fun _ => formed_ite.2 ⟨fun _ => h, fun _ => h⟩⟩

@[simp] theorem onFailSafeFrameTime (h : s.Formed) (_e : Ev) : Kept (onFailSafeFrameTime _e s) := by
  unfold Machine.onFailSafeFrameTime
  have hframe : ({ s with frameAt := s.frameAt + 50000 } : State).Formed := h
  exact kept_ite.2 ⟨fun _ => Kept.none, fun _ => kept_some.2 (hframe.follow _)⟩

@[simp] theorem shedBelow (h : s.Formed) (part level : Nat) : (s.shedBelow part level).Formed := h

@[simp] theorem shedAbove (h : s.Formed) (part level : Nat) : (s.shedAbove part level).Formed := by
  unfold State.shedAbove
  refine foldl h (fun t p ht => ?_) _
  exact resumeGang (s := t.updGang p.1 _) ht ..

@[simp] theorem onShedLevelApply (h : s.Formed) (e : Ev) : Kept (onShedLevelApply e s) := by
  unfold Machine.onShedLevelApply
  extract_lets p u
  have hu : u.Formed := h
  exact kept_ite.2 ⟨fun _ => Kept.none, fun _ => kept_some.2 (formed_ite.2 ⟨fun _ => hu.shedBelow .., fun _ => hu.shedAbove ..⟩)⟩

@[simp] theorem onShedPreempt (h : s.Formed) (e : Ev) : Kept (onShedPreempt e s) := by
  unfold Machine.onShedPreempt
  extract_lets x
  split
  · exact Kept.none
  · exact kept_ite.2 ⟨fun _ => kept_some.2 h, fun _ => Kept.none⟩

theorem resetKept (h : s.Formed) : s.resetKept.Formed := ⟨rfl, h.2⟩

@[simp] theorem retireFailing (h : s.Formed) (mask : Nat) : (s.retireFailing mask).Formed := by
  unfold State.retireFailing
  extract_lets fresh u
  exact foldl (s := u) h (fun t i ht => ht.recordFault ..) _

@[simp] theorem endStep (h : s.Formed) (e : Ev) (step : Nat) : (s.endStep e step).Formed := by
  unfold State.endStep
  exact formed_ite.2 ⟨fun _ => h, fun _ => formed_ite.2 ⟨fun _ => h, fun _ => formed_ite.2 ⟨fun _ => h.retireFailing _, fun _ => h⟩⟩⟩

@[simp] theorem showStep (h : s.Formed) (e : Ev) (err step : Nat) : (s.showStep e err step).Formed := h

@[simp] theorem broughtUp (h : s.Formed) (e : Ev) (err step : Nat) :
    (s.broughtUp e err step).Formed := showStep (foldl h.resetKept (fun t k ht => ht.endStep e k) _) ..

@[simp] theorem nextStep (h : s.Formed) (e : Ev) : (s.nextStep e).Formed := by
  unfold State.nextStep
  extract_lets step err
  exact formed_ite.2 ⟨fun _ => h.showStep .., fun _ => (h.endStep ..).showStep ..⟩

@[simp] theorem onPackageReset (h : s.Formed) (e : Ev) : Kept (onPackageReset e s) := by
  unfold Machine.onPackageReset
  extract_lets err last
  refine kept_ite.2 ⟨fun _ => ?_, fun _ => kept_ite.2 ⟨fun _ => kept_some.2 (h.broughtUp ..), fun _ => kept_some.2 (h.broughtUp ..)⟩⟩
  intro t ht
  obtain ⟨e', _, rfl⟩ := Option.map_eq_some_iff.1 ht
  exact h.nextStep e' 

@[simp] theorem useLanes (h : s.Formed) (r : Nat) (i : Instr) : (s.useLanes r i).Formed := by
  unfold State.useLanes
  split <;> simp [State.Formed, h]

@[simp] theorem issues (h : s.Formed) (r : Nat) (i : Instr) : (s.issues r i).Formed := by
  unfold State.issues
  extract_lets due t u v
  have hu : u.Formed := ((h.dueAcquire _).useLanes ..).noteBanks ..
  have hv : v.Formed := hu
  exact formed_ite.2 ⟨fun _ => hv.noteSync _, fun _ => hv⟩

end State.Formed

end Sys2Proof.Machine
end

section
/-! SUPPORT. Every instruction and event, and every step, keeps the canonical form of memory. -/

namespace Sys2Proof.Machine

/-- The state in which a stream's turn goes on, or ends before any instruction, is in canonical form. -/
def Ready.Formed : Ready → Prop
  | .run _ s | .stop s => s.Formed

/-- The boundary after an instruction or event keeps the form. -/
theorem Stays.settled {o : Host.Outcome State Fault Refusal} (h : Stays o) : Stays (settled o) := by
  cases o with
  | next t => exact stays_next.2 (stays_next.1 h).settle
  | fault f => exact stays_fault
  | refused x => exact stays_refused

namespace State.Formed

variable {s : State}

/-- Every instruction and event keeps the canonical form of local memory and host memory. -/
theorem exec (h : s.Formed) : ∀ i, Stays (exec i s)
  | .nop => h.execNop
  | .yield => h.execYield
  | .exit => h.execExit
  | .brk => h.execBrk
  | .trap => h.execTrap
  | .tret .. => h.execTret
  | .isync => h.execIsync
  | .ovload .. => h.execOvload
  | .ovcall .. => h.execOvcall
  | .mode .. => run_stays h fun _ => h.writeMode ..
  | .modeM1 .. => run_stays h fun _ => h.writeMode ..
  | .modeBoth .. => run_stays h fun _ => h.writeMode ..
  | .modeUniform .. => h.execModeUniform
  | .getmode .. => run_stays h fun _ => h.toUniform ..
  | .setem .. => h.execSetem
  | .getem .. => run_stays h fun _ => h.toUniform ..
  | .vote .. => h.execVote
  | .any .. => run_stays h fun _ => h.anyAll ..
  | .all .. => run_stays h fun _ => h.anyAll ..
  | .gset .. => h.execGset
  | .gets .. => h.execGets
  | .pand .. => h.execPand
  | .por .. => h.execPor
  | .pxor .. => h.execPxor
  | .pnot .. => h.execPnot
  | .pmov .. => h.execPmov
  | .bra .. => h.execBra
  | .brc .. => h.execBrc
  | .brg .. => h.execBrg
  | .jmpi .. => h.execJmpi
  | .call .. => h.execCall
  | .callv .. => h.execCallv
  | .ret => h.execRet
  | .retv .. => h.execRetv
  | .loop .. => h.execLoop
  | .lbrk .. => h.execLbrk
  | .cmp .. => h.execCmp
  | .iadd .. => run_stays h fun _ => h.intOp ..
  | .isub .. => run_stays h fun _ => h.intOp ..
  | .iaddc .. => run_stays h fun _ => h.carryOp ..
  | .isubb .. => run_stays h fun _ => h.carryOp ..
  | .imul .. => run_stays h fun _ => h.intOp ..
  | .imulh .. => run_stays h fun _ => h.intOp ..
  | .imad .. => run_stays h fun _ => h.intOp ..
  | .iabs .. => run_stays h fun _ => h.intOp ..
  | .ineg .. => run_stays h fun _ => h.intOp ..
  | .imin .. => run_stays h fun _ => h.intOp ..
  | .imax .. => run_stays h fun _ => h.intOp ..
  | .isad .. => run_stays h fun _ => h.intOp ..
  | .and .. => run_stays h fun _ => h.intOp ..
  | .or .. => run_stays h fun _ => h.intOp ..
  | .xor .. => run_stays h fun _ => h.intOp ..
  | .andn .. => run_stays h fun _ => h.intOp ..
  | .shl .. => run_stays h fun _ => h.intOp ..
  | .shr .. => run_stays h fun _ => h.intOp ..
  | .sar .. => run_stays h fun _ => h.intOp ..
  | .rot .. => run_stays h fun _ => h.intOp ..
  | .fshl .. => run_stays h fun _ => h.intOp ..
  | .bfe .. => run_stays h fun _ => h.intOp ..
  | .bfi .. => run_stays h fun _ => h.intOp ..
  | .popc .. => run_stays h fun _ => h.intOp ..
  | .clz .. => run_stays h fun _ => h.intOp ..
  | .ctz .. => run_stays h fun _ => h.intOp ..
  | .brev .. => run_stays h fun _ => h.intOp ..
  | .bperm .. => run_stays h fun _ => h.permOp ..
  | .lea .. => run_stays h fun _ => h.leaOp ..
  | .mov .. => run_stays h fun _ => h.intOp ..
  | .sel .. => run_stays h fun _ => h.selOp ..
  | .idot4 .. => run_stays h fun _ => h.dotOp ..
  | .iaddImm .. => run_stays h fun _ => h.intOp ..
  | .imulImm .. => run_stays h fun _ => h.intOp ..
  | .iminImm .. => run_stays h fun _ => h.intOp ..
  | .imaxImm .. => run_stays h fun _ => h.intOp ..
  | .andImm .. => run_stays h fun _ => h.intOp ..
  | .orImm .. => run_stays h fun _ => h.intOp ..
  | .xorImm .. => run_stays h fun _ => h.intOp ..
  | .andnImm .. => run_stays h fun _ => h.intOp ..
  | .shlImm .. => run_stays h fun _ => h.intOp ..
  | .shrImm .. => run_stays h fun _ => h.intOp ..
  | .sarImm .. => run_stays h fun _ => h.intOp ..
  | .rotImm .. => run_stays h fun _ => h.intOp ..
  | .leaImm .. => run_stays h fun _ => h.leaOp ..
  | .bfeImm .. => h.execBfeImm
  | .lim .. => run_stays h fun _ => h.alu ..
  | .limh .. => run_stays h fun _ => h.alu ..
  | .fadd .. => run_stays h fun _ => h.floatOp ..
  | .fsub .. => run_stays h fun _ => h.floatOp ..
  | .fmul .. => run_stays h fun _ => h.floatOp ..
  | .ffma .. => run_stays h fun _ => h.floatOp ..
  | .fmin .. => run_stays h fun _ => h.floatOp ..
  | .fmax .. => run_stays h fun _ => h.floatOp ..
  | .fabs .. => run_stays h fun _ => h.floatOp ..
  | .fneg .. => run_stays h fun _ => h.floatOp ..
  | .fclass .. => run_stays h fun _ => h.floatOp ..
  | .frnd .. => run_stays h fun _ => h.floatOp ..
  | .fscale .. => run_stays h fun _ => h.floatOp ..
  | .cvt .. => run_stays h fun _ => h.cvtOp ..
  | .fqblk .. => h.execFqblk
  | .fsplit3 .. => h.execFsplit3
  | .frcp .. => run_stays h fun _ => h.floatOp ..
  | .frsq .. => run_stays h fun _ => h.floatOp ..
  | .fexp2 .. => run_stays h fun _ => h.floatOp ..
  | .flog2 .. => run_stays h fun _ => h.floatOp ..
  | .fsinp .. => run_stays h fun _ => h.floatOp ..
  | .fcosp .. => run_stays h fun _ => h.floatOp ..
  | .ftanh .. => run_stays h fun _ => h.floatOp ..
  | .lget .. => run_stays h fun _ => h.laneFetch ..
  | .lflip .. => run_stays h fun _ => h.laneFetch ..
  | .lprev .. => run_stays h fun _ => h.laneFetch ..
  | .lnext .. => run_stays h fun _ => h.laneFetch ..
  | .bcast .. => run_stays h fun _ => h.broadcast ..
  | .cred .. => h.execCred
  | .cscan .. => h.execCscan
  | .lpeer .. => h.execLpeer
  | .lgetImm .. => run_stays h fun _ => h.laneFetch ..
  | .lflipImm .. => run_stays h fun _ => h.laneFetch ..
  | .lprevImm .. => run_stays h fun _ => h.laneFetch ..
  | .lnextImm .. => run_stays h fun _ => h.laneFetch ..
  | .bcastImm .. => run_stays h fun _ => h.broadcast ..
  | .iaddU .. => run_stays h fun _ => h.intOpU ..
  | .isubU .. => run_stays h fun _ => h.intOpU ..
  | .iaddcU .. => run_stays h fun _ => h.carryOpU ..
  | .isubbU .. => run_stays h fun _ => h.carryOpU ..
  | .imulU .. => run_stays h fun _ => h.intOpU ..
  | .imulhU .. => run_stays h fun _ => h.intOpU ..
  | .imadU .. => run_stays h fun _ => h.intOpU ..
  | .iabsU .. => run_stays h fun _ => h.intOpU ..
  | .inegU .. => run_stays h fun _ => h.intOpU ..
  | .iminU .. => run_stays h fun _ => h.intOpU ..
  | .imaxU .. => run_stays h fun _ => h.intOpU ..
  | .isadU .. => run_stays h fun _ => h.intOpU ..
  | .andU .. => run_stays h fun _ => h.intOpU ..
  | .orU .. => run_stays h fun _ => h.intOpU ..
  | .xorU .. => run_stays h fun _ => h.intOpU ..
  | .andnU .. => run_stays h fun _ => h.intOpU ..
  | .shlU .. => run_stays h fun _ => h.intOpU ..
  | .shrU .. => run_stays h fun _ => h.intOpU ..
  | .sarU .. => run_stays h fun _ => h.intOpU ..
  | .rotU .. => run_stays h fun _ => h.intOpU ..
  | .fshlU .. => run_stays h fun _ => h.intOpU ..
  | .bfeU .. => run_stays h fun _ => h.intOpU ..
  | .bfiU .. => run_stays h fun _ => h.intOpU ..
  | .popcU .. => run_stays h fun _ => h.intOpU ..
  | .clzU .. => run_stays h fun _ => h.intOpU ..
  | .ctzU .. => run_stays h fun _ => h.intOpU ..
  | .brevU .. => run_stays h fun _ => h.intOpU ..
  | .bpermU .. => h.execBpermU
  | .leaU .. => run_stays h fun _ => h.leaOpU ..
  | .movU .. => run_stays h fun _ => h.intOpU ..
  | .selU .. => run_stays h fun _ => h.selOpU ..
  | .idot4U .. => run_stays h fun _ => h.dotOpU ..
  | .iaddImmU .. => run_stays h fun _ => h.intOpU ..
  | .imulImmU .. => run_stays h fun _ => h.intOpU ..
  | .iminImmU .. => run_stays h fun _ => h.intOpU ..
  | .imaxImmU .. => run_stays h fun _ => h.intOpU ..
  | .andImmU .. => run_stays h fun _ => h.intOpU ..
  | .orImmU .. => run_stays h fun _ => h.intOpU ..
  | .xorImmU .. => run_stays h fun _ => h.intOpU ..
  | .andnImmU .. => run_stays h fun _ => h.intOpU ..
  | .shlImmU .. => run_stays h fun _ => h.intOpU ..
  | .shrImmU .. => run_stays h fun _ => h.intOpU ..
  | .sarImmU .. => run_stays h fun _ => h.intOpU ..
  | .rotImmU .. => run_stays h fun _ => h.intOpU ..
  | .leaImmU .. => run_stays h fun _ => h.leaOpU ..
  | .bfeImmU .. => h.execBfeImmU
  | .limU .. => run_stays h fun _ => h.aluU ..
  | .limhU .. => run_stays h fun _ => h.aluU ..
  | .faddU .. => run_stays h fun _ => h.floatOpU ..
  | .fsubU .. => run_stays h fun _ => h.floatOpU ..
  | .fmulU .. => run_stays h fun _ => h.floatOpU ..
  | .ffmaU .. => run_stays h fun _ => h.floatOpU ..
  | .fminU .. => run_stays h fun _ => h.floatOpU ..
  | .fmaxU .. => run_stays h fun _ => h.floatOpU ..
  | .fabsU .. => run_stays h fun _ => h.floatOpU ..
  | .fnegU .. => run_stays h fun _ => h.floatOpU ..
  | .fclassU .. => run_stays h fun _ => h.floatOpU ..
  | .frndU .. => run_stays h fun _ => h.floatOpU ..
  | .fscaleU .. => run_stays h fun _ => h.floatOpU ..
  | .cvtU .. => run_stays h fun _ => h.cvtOpU ..
  | .frcpU .. => run_stays h fun _ => h.floatOpU ..
  | .frsqU .. => run_stays h fun _ => h.floatOpU ..
  | .fexp2U .. => run_stays h fun _ => h.floatOpU ..
  | .flog2U .. => run_stays h fun _ => h.floatOpU ..
  | .fsinpU .. => run_stays h fun _ => h.floatOpU ..
  | .fcospU .. => run_stays h fun _ => h.floatOpU ..
  | .ftanhU .. => run_stays h fun _ => h.floatOpU ..
  | .ld .. => h.execLd
  | .st .. => h.execSt
  | .ldu .. => h.execLdu
  | .stu .. => h.execStu
  | .lds .. => h.execLds
  | .sts .. => h.execSts
  | .ldq .. => h.execLdq
  | .stq .. => h.execStq
  | .atom .. => h.execAtom
  | .red .. => h.execRed
  | .claim .. => h.execClaim
  | .fence .. => h.execFence
  | .cpy .. => h.execCpy
  | .tcopy .. => h.execTcopy
  | .cseal .. => h.execCseal
  | .cwait .. => h.execCwait
  | .cwaitn .. => h.execCwaitn
  | .barinit .. => h.execBarinit
  | .bararr .. => h.execBararr
  | .barwait .. => h.execBarwait
  | .bartry .. => h.execBartry
  | .gbar => h.execGbar
  | .pref .. => h.execPref
  | .cinv .. => h.execCinv
  | .cflush _ l2 _ => h.execCflush (_l2 := l2)
  | .spbind .. => h.execSpbind
  | .sppos .. => h.execSppos
  | .wload .. => h.execWload
  | .qmma .. => run_stays h fun _ => h.issueRows ..
  | .qmmar .. => run_stays h fun _ => h.issueRows ..
  | .accz .. => run_stays h fun _ => h.issueTile ..
  | .accld .. => run_stays h fun _ => h.issueTile ..
  | .accst .. => run_stays h fun _ => h.issueTile ..
  | .twait .. => h.execTwait
  | .wfree .. => h.execWfree
  | .accrd .. => h.execAccrd
  | .rnsf .. => h.execRnsf
  | .rnsr .. => h.execRnsr
  | .rnsc .. => h.execRnsc
  | .rnsmul .. => h.execRnsmul
  | .rnsadd .. => h.execRnsadd
  | .vsort .. => h.execVsort
  | .vmerge .. => h.execVmerge
  | .vtopk .. => h.execVtopk
  | .vselth .. => h.execVselth
  | .sopen .. => h.execSopen
  | .sseal .. => h.execSseal
  | .wseed .. => h.execWseed
  | .wput .. => h.execWput
  | .whash .. => h.execWhash
  | .wproj .. => h.execWproj
  | .launch .. => h.execLaunch
  | .trig => h.execTrig
  | .waitd => h.execWaitd
  | .coll .. => h.execColl
  | .collw .. => h.execCollw
  | .mfp .. => h.execMfp
  | .mtp .. => h.execMtp
  | .eret .. => h.execEret
  | .tlbinv .. => h.execTlbinv
  | .ctxsave .. => h.execCtxsave
  | .ctxload .. => h.execCtxload
  | .park .. => h.execPark
  | .unpark .. => h.execUnpark
  | .shedack .. => h.execShedack
  | .declass .. => h.execDeclass
  | .ovloadp .. => h.execOvloadp
  | .halt .. => h.execHalt
  | .codeFetch => event_stays h (h.onCodeFetch _)
  | .codePageRefill => event_stays h (h.onCodePageRefill _)
  | .loadDataArrival => event_stays h (h.onLoadDataArrival _)
  | .handlerTimeLimit => event_stays h (h.onHandlerTimeLimit _)
  | .slotGrant => event_stays h (h.onSlotGrant _)
  | .brgMeeting => event_stays h (h.onBrgMeeting _)
  | .brgPathEnd => event_stays h (h.onBrgPathEnd _)
  | .gangComplete => event_stays h (h.onGangComplete _)
  | .witnessHandoff => event_stays h (h.onWitnessHandoff _)
  | .scratchpadAdapt => event_stays h (h.onScratchpadAdapt _)
  | .granuleMoveDone => event_stays h (h.onGranuleMoveDone _)
  | .l1BackgroundClean => event_stays h (h.onL1BackgroundClean _)
  | .copyAccept => event_stays h (h.onCopyAccept _)
  | .copyComplete => event_stays h (h.onCopyComplete _)
  | .barwaitTimeout => event_stays h (h.onBarwaitTimeout _)
  | .matrixAccept => event_stays h (h.onMatrixAccept _)
  | .gatherComplete => event_stays h (h.onGatherComplete _)
  | .matrixPass => event_stays h (h.onMatrixPass _)
  | .passComplete => event_stays h (h.onPassComplete _)
  | .wloadPerform => event_stays h (h.onWloadPerform _)
  | .wfreePerform => event_stays h (h.onWfreePerform _)
  | .tileCommandPerform => event_stays h (h.onTileCommandPerform _)
  | .stagingFillDone => event_stays h (h.onStagingFillDone _)
  | .ssealProceed => event_stays h (h.onSsealProceed _)
  | .digestTaken => event_stays h (State.Formed.assay (h.onDigestTaken _))
  | .seedReveal => event_stays h (State.Formed.assay (h.onSeedReveal _))
  | .wseedTimeout => event_stays h (h.onWseedTimeout _)
  | .witnessTest => event_stays h (State.Formed.assay (h.onWitnessTest _))
  | .versionRelease => event_stays h (State.Formed.assay (h.onVersionRelease _))
  | .versionVoid => event_stays h (State.Formed.assay (h.onVersionVoid _))
  | .reexecutionPost => event_stays h (h.onReexecutionPost _)
  | .residueReport => event_stays h (State.Formed.assay (h.onResidueReport _))
  | .selfTestDone => event_stays h (State.Formed.assay (h.onSelfTestDone _))
  | .strikeReport => event_stays h (h.onStrikeReport _)
  | .patrolScrub => event_stays h (h.onPatrolScrub _)
  | .collComplete => event_stays h (h.onCollComplete _)
  | .collBoundExpiry => event_stays h (h.onCollBoundExpiry _)
  | .postSubmit => event_stays h (h.onPostSubmit _)
  | .postForward => event_stays h (h.onPostForward _)
  | .nodeAccept => event_stays h (h.onNodeAccept _)
  | .gangPlace => event_stays h (h.onGangPlace _)
  | .placementReservation => event_stays h (h.onPlacementReservation _)
  | .parkComplete => event_stays h (h.onParkComplete _)
  | .ctxsaveDone => event_stays h (h.onCtxsaveDone _)
  | .ctxloadDone => event_stays h (h.onCtxloadDone _)
  | .shedPreempt => event_stays h (h.onShedPreempt _)
  | .pageWalk => event_stays h (h.onPageWalk _)
  | .engineFaultDelivery => event_stays h (h.onEngineFaultDelivery _)
  | .readShared => event_stays h (h.onReadShared _)
  | .readOwn => event_stays h (h.onReadOwn _)
  | .upgrade => event_stays h (h.onUpgrade _)
  | .writeBack => event_stays h (h.onWriteBack _)
  | .grant => event_stays h (h.onGrant _)
  | .recallS => event_stays h (h.onRecallS _)
  | .recallI => event_stays h (h.onRecallI _)
  | .invalidate => event_stays h (h.onInvalidate _)
  | .recallReply => event_stays h (h.onRecallReply _)
  | .invAck => event_stays h (h.onInvAck _)
  | .releaseMessage => event_stays h (h.onReleaseMessage _)
  | .releaseAck => event_stays h (h.onReleaseAck _)
  | .remoteAccessArrival => event_stays h (h.onRemoteAccessArrival _)
  | .remoteResponse => event_stays h (h.onRemoteResponse _)
  | .remoteAccessTimeout => event_stays h (h.onRemoteAccessTimeout _)
  | .noticeArrival => event_stays h (h.onNoticeArrival _)
  | .provisionalTimeout => event_stays h (h.onProvisionalTimeout _)
  | .hostWrite => event_stays h (h.onHostWrite _)
  | .hostRead => event_stays h (h.onHostRead _)
  | .ringEntryWrite => event_stays h (h.onRingEntryWrite _)
  | .partitionRelease => event_stays h (h.onPartitionRelease _)
  | .keyExchange => event_stays h (h.onKeyExchange _)
  | .weightKey => event_stays h (h.onWeightKey _)
  | .pageExport => event_stays h (h.onPageExport _)
  | .pageImport => event_stays h (h.onPageImport _)
  | .sealedTransferIn => event_stays h (h.onSealedTransferIn _)
  | .sealedTransferOut => event_stays h (h.onSealedTransferOut _)
  | .attestation => event_stays h (h.onAttestation _)
  | .certificateRead => event_stays h (h.onCertificateRead _)
  | .faultRecordRead => event_stays h (h.onFaultRecordRead _)
  | .collectiveGroup => event_stays h (h.onCollectiveGroup _)
  | .unknownCommand => event_stays h (h.onUnknownCommand _)
  | .fabidWrite => event_stays h (h.onFabidWrite _)
  | .islctlWrite => event_stays h (h.onIslctlWrite _)
  | .registerWrite => event_stays h (h.onRegisterWrite _)
  | .railSwitchDone => event_stays h (h.onRailSwitchDone _)
  | .islandPowerDown => event_stays h <| by simp [h]
  | .islandWakeStart => event_stays h (h.onIslandWakeStart _)
  | .islandWakeDone => event_stays h (h.onIslandWakeDone _)
  | .laneGroupGate => event_stays h (h.onLaneGroupGate _)
  | .bankDrowsy => event_stays h (h.onBankDrowsy _)
  | .energyUpdate => event_stays h (h.onEnergyUpdate _)
  | .droopTrip => event_stays h (h.onDroopTrip _)
  | .droopStretchEnd => event_stays h (h.onDroopStretchEnd _)
  | .droopHalveEnd => event_stays h (h.onDroopHalveEnd _)
  | .telemetryFrame => event_stays h (h.onTelemetryFrame _)
  | .telemetryFailsafe => event_stays h (h.onTelemetryFailsafe _)
  | .shedLevelApply => event_stays h (h.onShedLevelApply _)
  | .flitReplay => event_stays h (h.onFlitReplay _)
  | .linkRetrainDone => event_stays h (h.onLinkRetrainDone _)
  | .packageReset => event_stays h (h.onPackageReset _)
  | .unassignedOpcode => h.execUnassignedOpcode
  | .fabricPortDown => event_stays h (h.onFabricPortDown _)
  | .failSafeFrameTime => event_stays h (h.onFailSafeFrameTime _)
  | .pshedWrite => event_stays h (h.onPshedWrite _)

/-- What comes of a stream's turn before its instruction is in canonical form. -/
theorem prepare (h : s.Formed) (r : Nat) : (s.prepare r).Formed := by
  unfold State.prepare
  extract_lets u
  have hu : u.Formed := h
  split
  · exact hu.takeOwed ..
  · exact hu.loadArgs r
  · split
    · next w v hv =>
      extract_lets v'
      have hfetched : v.Formed := hu.fetch hv
      have hv' : v'.Formed := hfetched
      split
      · exact hv'.badWord r
      · split
        · exact hv'.stopCrew _
        · split
          · exact hu
          · exact hv'.issues ..
    · exact hu.missWord r

/-- Every step keeps the canonical form of local memory and host memory. -/
theorem step (h : s.Formed) : Stays (step s) := by
  unfold Machine.step
  extract_lets u
  have hu : u.Formed := h.tick
  split
  · next i e _ => exact (State.Formed.exec (s := { u with agenda := _, ev := e }) hu i).settled
  · next r _ =>
    have hprepare := hu.prepare r
    split
    · next i t ht => rw [ht] at hprepare; exact (State.Formed.exec (s := t) hprepare i).settled
    · next t ht => rw [ht] at hprepare; exact stays_next.2 (State.Formed.settle (s := t) hprepare)
  · exact stays_next.2 (settle (s := { u with agenda := _ }) hu)

end State.Formed

/-- Settles O5: by way of what keeps the form of memory, function by function of the model, up to the instructions and events and
the step that runs one of them. -/
theorem stepKeepsMemoryForm : Obligations.StepKeepsMemoryForm := by
  unfold Obligations.StepKeepsMemoryForm
  exact fun s t hs ht => memoryInv_iff.2 ((memoryInv_iff.1 hs).step t ht)

end Sys2Proof.Machine
end
